-- ==== Sys2Proof/Word.lean ====
section
/-! DEFINITION. The plain data types of the Krytath N12 model: words, masks, vector register values, and
finite tables keyed by a number (memory cells, registers, groups, units). -/

namespace Sys2Proof

/-- A 64-bit register value (R15, R18). -/
abbrev Word := BitVec 64

/-- One byte of memory (R6, R192). -/
abbrev Byte := BitVec 8

/-- A 32-bit lane mask: bit L belongs to lane L (R15). -/
abbrev Mask := BitVec 32

/-- A vector register value: one 64-bit slot for each of the 32 lanes (R15, R16). -/
abbrev Vec := Vector Word 32

/-- The vector value that is zero in every lane (reset of v0 to v511 and q0 to q15, Table 1.2). -/
def Vec.zero : Vec := Vector.replicate 32 0

/-- A finite map from numbers to values, as a list of pairs with rising keys. -/
abbrev Table (α : Type) := List (Nat × α)

end Sys2Proof
end

