-- ==== Sys2Proof/Machine/Bits.lean ====
section
/-! DEFINITION. Bit fields, sub-element views of a 64-bit lane value, signed readings, wrapping and
saturation, and little-endian bytes (R6, R18, R56, R66, R133). -/

namespace Sys2Proof.Machine

/-- Sub-element `k` of width `w` (R18). -/
def sub (w k : Nat) (v : Word) : Nat := (v.toNat / 2 ^ (w * k)) % 2 ^ w

/-- `n` fields of width `w` packed from the lowest, the first being `f k`. -/
def packN (w : Nat) (f : Nat → Nat) : Nat → Nat → Nat
  | 0, _ => 0
  | n + 1, k => f k % 2 ^ w + 2 ^ w * packN w f n (k + 1)

/-- The lane value whose sub-element `k` of width `w` is `f k` (R18). -/
def ofSubs (w : Nat) (f : Nat → Nat) : Word := BitVec.ofNat 64 (packN w f (64 / w) 0)

/-- Reads a `w`-bit pattern as two's complement. -/
def signed (w x : Nat) : Int := if x < 2 ^ (w - 1) then (x : Int) else (x : Int) - 2 ^ w

/-- Reads a `w`-bit pattern with the given signedness. -/
def rd (w : Nat) (sgn : Bool) (x : Nat) : Int := if sgn then signed w x else (x : Int)

/-- Keeps the low `w` bits of an exact integer (R133). -/
def wrap (w : Nat) (v : Int) : Nat := (v % 2 ^ w).toNat

/-- The least value of a type. -/
def tyMin (w : Nat) (sgn : Bool) : Int := if sgn then -2 ^ (w - 1) else 0

/-- The greatest value of a type. -/
def tyMax (w : Nat) (sgn : Bool) : Int := if sgn then 2 ^ (w - 1) - 1 else 2 ^ w - 1

/-- Clamps an exact integer to the range of a type (R133). -/
def clampI (w : Nat) (sgn : Bool) (v : Int) : Int :=
  if v < tyMin w sgn then tyMin w sgn else if tyMax w sgn < v then tyMax w sgn else v

/-- Clamps and keeps the pattern (R133). -/
def sat (w : Nat) (sgn : Bool) (v : Int) : Nat := wrap w (clampI w sgn v)

/-- Wraps, or saturates when `s` (R122, R135). -/
def wrapOrSat (s : Bool) (w : Nat) (sgn : Bool) (v : Int) : Nat :=
  if s then sat w sgn v else wrap w v

/-- A `w`-bit pattern extended to 64 bits by the type's signedness (R120). -/
def ext64 (w : Nat) (sgn : Bool) (x : Nat) : Word := BitVec.ofInt 64 (rd w sgn x)

/-- Bits [hi:lo] of a word. -/
def bits (v : Word) (hi lo : Nat) : Nat := (v.toNat / 2 ^ lo) % 2 ^ (hi + 1 - lo)

/-- Replaces bits [hi:lo] of a word. -/
def setBits (v : Word) (hi lo x : Nat) : Word :=
  BitVec.ofNat 64 (v.toNat - bits v hi lo * 2 ^ lo + (x % 2 ^ (hi + 1 - lo)) * 2 ^ lo)

/-- Little-endian bytes of a number, `n` of them (R6). -/
def toBytes : Nat → Nat → List Byte
  | 0, _ => []
  | n + 1, v => BitVec.ofNat 8 v :: toBytes n (v / 256)

/-- The number of a little-endian byte string (R6). -/
def ofBytes : List Byte → Nat
  | [] => 0
  | b :: t => b.toNat + 256 * ofBytes t

/-- Number of ones in a `w`-bit pattern. -/
def popc : Nat → Nat → Nat
  | 0, _ => 0
  | w + 1, x => x % 2 + popc w (x / 2)

/-- Trailing zeros of a `w`-bit pattern; `w` when it is 0. -/
def ctz : Nat → Nat → Nat
  | 0, _ => 0
  | w + 1, x => if x % 2 = 1 then 0 else 1 + ctz w (x / 2)

/-- Leading zeros of a `w`-bit pattern; `w` when it is 0. -/
def clz (w x : Nat) : Nat := if x = 0 then w else w - 1 - x.log2

/-- The `w` bits of a pattern in reverse order. -/
def brev : Nat → Nat → Nat
  | 0, _ => 0
  | w + 1, x => (x % 2) * 2 ^ w + brev w (x / 2)

/-- Bitwise complement of a `w`-bit pattern. -/
def notW (w x : Nat) : Nat := 2 ^ w - 1 - x

/-- Rotate left by `a` mod `w` (R124, R140). -/
def rotl (w x a : Nat) : Nat :=
  let r := a % w
  ((x * 2 ^ r) % 2 ^ w) + x / 2 ^ (w - r)

/-- Rotate right by `a` mod `w` (R124, R140). -/
def rotr (w x a : Nat) : Nat := rotl w x (w - a % w)

/-- Shift left, unmasked amount (R124, R140). -/
def shl (w x a : Nat) : Nat := if a < w then (x * 2 ^ a) % 2 ^ w else 0

/-- Logical shift right, unmasked amount (R124, R140). -/
def shr (w x a : Nat) : Nat := if a < w then x / 2 ^ a else 0

/-- Arithmetic shift right, unmasked amount (R124, R140). -/
def sar (w x a : Nat) : Nat :=
  if a < w then wrap w (signed w x / 2 ^ a) else if x < 2 ^ (w - 1) then 0 else 2 ^ w - 1

/-- Quotient toward zero with the borderline cases of Table 4.6 (R123, R148). -/
def divW (w : Nat) (sgn : Bool) (x y : Nat) : Nat :=
  if y = 0 then 2 ^ w - 1 else wrap w (Int.tdiv (rd w sgn x) (rd w sgn y))

/-- Remainder with the sign of the dividend (R123, R148). -/
def remW (w : Nat) (sgn : Bool) (x y : Nat) : Nat :=
  if y = 0 then x else wrap w (Int.tmod (rd w sgn x) (rd w sgn y))

/-- Field extract (R128): `ctl` holds pos in [7:0] and len in [15:8]. -/
def bfe (w : Nat) (sgn : Bool) (x : Nat) (ctl : Word) : Nat :=
  let pos := bits ctl 7 0
  let len := bits ctl 15 8
  if w ≤ pos ∨ len = 0 then 0
  else
    let l := min len (w - pos)
    wrap w (rd l sgn ((x / 2 ^ pos) % 2 ^ l))

/-- Field insert into base `y` (R128). -/
def bfi (w : Nat) (x y : Nat) (ctl : Word) : Nat :=
  let pos := bits ctl 7 0
  let len := bits ctl 15 8
  if w ≤ pos ∨ len = 0 then y
  else
    let l := min len (w - pos)
    y - ((y / 2 ^ pos) % 2 ^ l) * 2 ^ pos + (x % 2 ^ l) * 2 ^ pos

/-- The six integer conditions by SUB (R126, R142). -/
def cond (cc : Nat) (x y : Int) : Bool :=
  match cc with
  | 0 => decide (x = y)
  | 1 => decide (x ≠ y)
  | 2 => decide (x < y)
  | 3 => decide (x ≤ y)
  | 4 => decide (y < x)
  | _ => decide (y ≤ x)

/-- Three-input logic on `w` bits: bit 4a + 2b + c of the table (R130, R138). -/
def lop3 (table : Nat) : Nat → Nat → Nat → Nat → Nat
  | 0, _, _, _ => 0
  | w + 1, a, b, c =>
    (table / 2 ^ (4 * (a % 2) + 2 * (b % 2) + c % 2)) % 2 + 2 * lop3 table w (a / 2) (b / 2) (c / 2)

/-- The mask whose bit L is `f L`. -/
def maskOf (f : Nat → Bool) : Mask := BitVec.ofNat 32 (packN 1 (fun L => (f L).toNat) 32 0)

/-- The lanes of a mask in ascending order. -/
def lanesOf (m : Mask) : List Nat := (List.range 32).filter fun L => m.getLsbD L

/-- The vector with lane `L` given by `f L`. -/
def vecOf (f : Nat → Word) : Vec := Vector.ofFn fun i => f i.val

/-- Lane `L` of a vector value. -/
def lane (v : Vec) (L : Nat) : Word := v.getD L 0

/-- Lanes of `sel` from `new`, the others from `old` (R23). -/
def merge (sel : Mask) (old new : Vec) : Vec :=
  vecOf fun L => if sel.getLsbD L then lane new L else lane old L

end Sys2Proof.Machine
end

