-- ==== Sys2Proof/Machine/Numeric.lean ====
section
/-! DEFINITION. Number formats (chapter 2): decoding a pattern to an exact value, exact arithmetic, and one
rounding into an output format (R45 to R75). -/

namespace Sys2Proof.Machine

/-- A format of Table 2.1. -/
inductive Fmt where
  | int (w : Nat) (sgn : Bool)
  | t2
  | tap (n : Nat)
  | ieee (eb fb : Nat)
  deriving DecidableEq, Repr

/-- The format of a code of Table 2.1; st8 elements are tf8 (R58). -/
def Fmt.ofCode (c : Nat) : Option Fmt :=
  match c with
  | 0 => some (.int 8 true)
  | 1 => some (.int 8 false)
  | 2 => some (.int 16 true)
  | 3 => some (.int 16 false)
  | 4 => some (.int 32 true)
  | 5 => some (.int 32 false)
  | 6 => some (.int 64 true)
  | 7 => some .t2
  | 8 => some (.tap 8)
  | 9 => some (.tap 16)
  | 10 => some (.tap 32)
  | 11 => some (.ieee 5 10)
  | 12 => some (.ieee 8 7)
  | 13 => some (.ieee 8 23)
  | 14 => some (.tap 8)
  | _ => none

/-- The width of a format. -/
def Fmt.width : Fmt → Nat
  | .int w _ => w
  | .t2 => 2
  | .tap n => n
  | .ieee eb fb => 1 + eb + fb

def Fmt.isTap : Fmt → Bool
  | .tap _ => true
  | _ => false

def Fmt.isInt : Fmt → Bool
  | .int _ _ => true
  | _ => false

def Fmt.isIeee : Fmt → Bool
  | .ieee _ _ => true
  | _ => false

/-- A decoded value: NaR or NaN, an infinity, or the exact number m × 2^e with a sign (R53). A rounded-off
tail is carried as one more odd digit. -/
inductive FVal where
  | nan
  | inf (neg : Bool)
  | fin (neg : Bool) (m : Nat) (e : Int)
  deriving DecidableEq, Repr

def FVal.zero : FVal := .fin false 0 0

def FVal.isNan : FVal → Bool
  | .nan => true
  | _ => false

def FVal.isInf : FVal → Bool
  | .inf _ => true
  | _ => false

def FVal.isZero : FVal → Bool
  | .fin _ 0 _ => true
  | _ => false

def FVal.neg? : FVal → Bool
  | .nan => false
  | .inf s => s
  | .fin s _ _ => s

/-- Number of leading digits equal to one in an `l`-digit string. -/
def leadOnes (l d : Nat) : Nat := clz l (notW l d)

/-- Decodes a tapered pattern of width `n` (R48). -/
def decTap (n p : Nat) : FVal :=
  if p = 0 then FVal.zero
  else if p = 2 ^ (n - 1) then .nan
  else
    let neg := decide (2 ^ (n - 1) < p)
    let q := if neg then 2 ^ n - p else p
    let l := n - 1
    let one := decide (2 ^ (l - 1) ≤ q)
    let m := if one then leadOnes l q else clz l q
    let k : Int := if one then (m : Int) - 1 else -(m : Int)
    let rl := l - m - 1
    let rest := q % 2 ^ rl
    let e := if 2 ≤ rl then rest / 2 ^ (rl - 2) else rest * 2 ^ (2 - rl)
    let fl := rl - 2
    .fin neg (2 ^ fl + rest % 2 ^ fl) (4 * k + e - fl)

/-- Decodes an IEEE pattern (R54). -/
def decIeee (eb fb p : Nat) : FVal :=
  let s := decide (p / 2 ^ (eb + fb) % 2 = 1)
  let ex := p / 2 ^ fb % 2 ^ eb
  let f := p % 2 ^ fb
  let bias : Int := 2 ^ (eb - 1) - 1
  if ex = 2 ^ eb - 1 then (if f = 0 then .inf s else .nan)
  else if ex = 0 then .fin s f (1 - bias - fb)
  else .fin s (2 ^ fb + f) (ex - bias - fb)

/-- The value of a ternary digit (R57). -/
def decT2 (p : Nat) : Int := if p = 1 then 1 else if p = 3 then -1 else 0

/-- An exact integer as a value. -/
def FVal.ofInt (v : Int) : FVal := .fin (decide (v < 0)) v.natAbs 0

/-- Decodes a pattern in a format. -/
def decode (f : Fmt) (p : Nat) : FVal :=
  match f with
  | .int w sgn => FVal.ofInt (rd w sgn p)
  | .t2 => FVal.ofInt (decT2 p)
  | .tap n => decTap n p
  | .ieee eb fb => decIeee eb fb p

/-- Whether dropping the remainder `r` of `2^k` rounds the magnitude up: mode, sign, parity of what stays. -/
def roundUp (mode : Nat) (neg odd : Bool) (r k : Nat) : Bool :=
  match mode with
  | 0 => decide (2 ^ k < 2 * r) || (decide (2 * r = 2 ^ k) && odd)
  | 1 => false
  | 2 => neg && decide (0 < r)
  | _ => !neg && decide (0 < r)

/-- The pattern of a positive m × 2^e in a tapered format before its sign is applied (R50). -/
def encTapPos (n mode : Nat) (neg : Bool) (m : Nat) (e : Int) : Nat :=
  let t : Int := (m.log2 : Int) + e
  let lim : Int := 4 * ((n : Int) - 2)
  if lim ≤ t then 2 ^ (n - 1) - 1
  else if t < -lim ∨ (t = -lim ∧ m = 2 ^ m.log2) then 1
  else
    let k : Int := t / 4
    let ex := (t - 4 * k).toNat
    let rlen := if 0 ≤ k then k.toNat + 2 else (-k).toNat + 1
    let reg := if 0 ≤ k then 2 ^ (k.toNat + 2) - 2 else 1
    let fl := m.log2
    let digits := (reg * 4 + ex) * 2 ^ fl + (m - 2 ^ fl)
    let len := rlen + 2 + fl
    let p0 := if n - 1 ≤ len then digits / 2 ^ (len - (n - 1)) else digits * 2 ^ (n - 1 - len)
    let cut := len - (n - 1)
    let r := digits % 2 ^ cut
    let p := if roundUp mode neg (decide (p0 % 2 = 1)) r cut then p0 + 1 else p0
    if p = 2 ^ (n - 1) then 2 ^ (n - 1) - 1 else p

/-- Encodes a value into a tapered format (R50, R52); an infinity is NaR (Table 2.6). -/
def encTap (n mode : Nat) (v : FVal) : Nat :=
  match v with
  | .nan => 2 ^ (n - 1)
  | .inf _ => 2 ^ (n - 1)
  | .fin neg m e =>
    if m = 0 then 0
    else
      let p := encTapPos n mode neg m e
      if neg then 2 ^ n - p else p

/-- The canonical quiet NaN of an IEEE format (Table 2.7). -/
def qnan (eb fb : Nat) : Nat := (2 ^ eb - 1) * 2 ^ fb + 2 ^ (fb - 1)

/-- Infinity, or the largest finite value under FMT bit 40 (R55). -/
def infPat (eb fb : Nat) (satf neg : Bool) : Nat :=
  (if neg then 2 ^ (eb + fb) else 0) + (2 ^ eb - 1) * 2 ^ fb - (if satf then 1 else 0)

/-- Rounds a value once into an IEEE format (R53, R54, R55). -/
def encIeee (eb fb mode : Nat) (satf : Bool) (v : FVal) : Nat :=
  match v with
  | .nan => qnan eb fb
  | .inf neg => infPat eb fb satf neg
  | .fin neg m e =>
    let sb := if neg then 2 ^ (eb + fb) else 0
    if m = 0 then sb
    else
      let bias : Int := 2 ^ (eb - 1) - 1
      let qmin : Int := 1 - bias - fb
      let t : Int := (m.log2 : Int) + e
      let ovf :=
        if satf ∨ mode = 0 ∨ (mode = 2 ∧ neg) ∨ (mode = 3 ∧ ¬neg) then infPat eb fb satf neg
        else infPat eb fb true neg
      if bias + 1 < t then ovf
      else
        let m1 := if t < qmin - 2 then 1 else m
        let e1 := if t < qmin - 2 then qmin - 2 else e
        let q : Int := max (t - fb) qmin
        let base := if q ≤ e1 then m1 * 2 ^ (e1 - q).toNat else m1 / 2 ^ (q - e1).toNat
        let cut := (q - e1).toNat
        let r := m1 % 2 ^ cut
        let mm := if roundUp mode neg (decide (base % 2 = 1)) r cut then base + 1 else base
        let pat := (q - qmin).toNat * 2 ^ fb + mm
        if (2 ^ eb - 1) * 2 ^ fb ≤ pat then ovf else sb + pat

/-- Rounds a value to an integral magnitude: the mode, or 4 for nearest with ties away (R67, R160). -/
def roundMag (mode : Nat) (neg : Bool) (m : Nat) (e : Int) : Nat :=
  if 0 ≤ e then m * 2 ^ e.toNat
  else
    let cut := (-e).toNat
    if m.log2 + 2 < cut then
      (if (mode = 2 ∧ neg) ∨ (mode = 3 ∧ ¬neg) then (if m = 0 then 0 else 1) else 0)
    else
      let base := m / 2 ^ cut
      let r := m % 2 ^ cut
      let up := if mode = 4 then decide (2 ^ cut ≤ 2 * r)
                else roundUp mode neg (decide (base % 2 = 1)) r cut
      if up then base + 1 else base

/-- Converts a float value to an integer pattern (R67). -/
def toIntPat (w : Nat) (sgn : Bool) (mode : Nat) (v : FVal) : Nat :=
  match v with
  | .nan => if sgn then 2 ^ (w - 1) else 0
  | .inf neg => wrap w (if neg then tyMin w sgn else tyMax w sgn)
  | .fin neg m e =>
    if m = 0 then 0
    else if 80 < (m.log2 : Int) + e then wrap w (if neg then tyMin w sgn else tyMax w sgn)
    else
      let i : Int := roundMag mode neg m e
      sat w sgn (if neg then -i else i)

/-- The sign of a value, as a ternary digit pattern (Table 2.9). -/
def toT2 (v : FVal) : Nat :=
  match v with
  | .nan => 0
  | .inf neg => if neg then 3 else 1
  | .fin neg m _ => if m = 0 then 0 else if neg then 3 else 1

/-- Rounds a value once into any format (R50, R53, R65, R67). -/
def encode (f : Fmt) (mode : Nat) (satf : Bool) (v : FVal) : Nat :=
  match f with
  | .int w sgn => toIntPat w sgn mode v
  | .t2 => toT2 v
  | .tap n => encTap n mode v
  | .ieee eb fb => encIeee eb fb mode satf v

/-- Multiplies by 2^k, exactly. -/
def FVal.scale (v : FVal) (k : Int) : FVal :=
  match v with
  | .fin s m e => .fin s m (e + k)
  | v => v

def FVal.negate : FVal → FVal
  | .nan => .nan
  | .inf s => .inf !s
  | .fin s m e => .fin (!s) m e

def FVal.abs : FVal → FVal
  | .nan => .nan
  | .inf _ => .inf false
  | .fin _ m e => .fin false m e

/-- The exact sum; a zero sum of unlike signs is −0 in mode 2 and +0 otherwise (R154). -/
def FVal.add (mode : Nat) (x y : FVal) : FVal :=
  match x, y with
  | .nan, _ => .nan
  | _, .nan => .nan
  | .inf s, .inf t => if s = t then .inf s else .nan
  | .inf s, _ => .inf s
  | _, .inf t => .inf t
  | .fin s m e, .fin t n f =>
    if m = 0 ∧ n = 0 then (if s = t then .fin s 0 0 else .fin (decide (mode = 2)) 0 0)
    else if m = 0 then .fin t n f
    else if n = 0 then .fin s m e
    else
      let g := min e f
      let a := m * 2 ^ (e - g).toNat
      let b := n * 2 ^ (f - g).toNat
      if s = t then .fin s (a + b) g
      else if a = b then .fin (decide (mode = 2)) 0 0
      else if b < a then .fin s (a - b) g
      else .fin t (b - a) g

/-- The exact product (R154). -/
def FVal.mul (x y : FVal) : FVal :=
  match x, y with
  | .nan, _ => .nan
  | _, .nan => .nan
  | .inf s, .inf t => .inf (s != t)
  | .inf s, .fin t n _ => if n = 0 then .nan else .inf (s != t)
  | .fin s m _, .inf t => if m = 0 then .nan else .inf (s != t)
  | .fin s m e, .fin t n f => .fin (s != t) (m * n) (e + f)

/-- The order of two values, none when one is a NaN; zeros are equal. -/
def FVal.cmp (x y : FVal) : Option Ordering :=
  match x, y with
  | .nan, _ => none
  | _, .nan => none
  | .inf s, .inf t => some (if s = t then .eq else if s then .lt else .gt)
  | .inf s, _ => some (if s then .lt else .gt)
  | _, .inf t => some (if t then .gt else .lt)
  | .fin s m e, .fin t n f =>
    let g := min e f
    let a : Int := m * 2 ^ (e - g).toNat
    let b : Int := n * 2 ^ (f - g).toNat
    let p := if s then -a else a
    let q := if t then -b else b
    some (if p < q then .lt else if p = q then .eq else .gt)

/-- Whether `x` precedes `y` with −0 below +0; neither is a NaN (R156). -/
def FVal.before (x y : FVal) : Bool :=
  match x.cmp y with
  | some .lt => true
  | some .eq => x.neg? && !y.neg?
  | _ => false

/-- minimumNumber, or minimum when `nanRule` (R156). -/
def FVal.minNum (nanRule : Bool) (x y : FVal) : FVal :=
  if x.isNan ∧ y.isNan then .nan
  else if x.isNan then (if nanRule then .nan else y)
  else if y.isNan then (if nanRule then .nan else x)
  else if y.before x then y else x

/-- maximumNumber, or maximum when `nanRule` (R156). -/
def FVal.maxNum (nanRule : Bool) (x y : FVal) : FVal :=
  if x.isNan ∧ y.isNan then .nan
  else if x.isNan then (if nanRule then .nan else y)
  else if y.isNan then (if nanRule then .nan else x)
  else if x.before y then y else x

/-- The IEEE sum of two patterns, rounded once (R72). -/
def addPat (f : Fmt) (mode : Nat) (satf : Bool) (p q : Nat) : Nat :=
  encode f mode satf (FVal.add mode (decode f p) (decode f q))

/-- One level of the pairwise tree (R72). -/
def pairUp (g : Nat → Nat → Nat) : List Nat → List Nat
  | a :: b :: t => g a b :: pairUp g t
  | l => l

/-- The pairwise tree ovf 2^d contributions (R72). -/
def treeSum (g : Nat → Nat → Nat) : Nat → List Nat → Nat
  | 0, l => l.headD 0
  | d + 1, l => treeSum g d (pairUp g l)

/-! ### Quires (R60 to R63) -/

/-- The width of the quire of a tapered width: qa8, qa16, qa32. -/
def quireW (n : Nat) : Nat := 16 * n

/-- The fraction bits of the quire of a tapered width (Table 2.8): 48, 112, 240. -/
def quireF (n : Nat) : Nat := 8 * n - 16

/-- The NaR pattern of a `w`-bit quire. -/
def quireNaR (w : Nat) : Nat := 2 ^ (w - 1)

/-- An exact multiple of 2^−F as a scaled integer; smaller digits are cut off. -/
def toFixed (F : Nat) (v : FVal) : Int :=
  match v with
  | .fin s m e =>
    let k := e + F
    let a : Int := if 0 ≤ k then m * 2 ^ k.toNat else m / 2 ^ (-k).toNat
    if s then -a else a
  | _ => 0

/-- The value of a quire (R60). -/
def quireVal (w F Q : Nat) : FVal :=
  if Q = quireNaR w then .nan else (FVal.ofInt (signed w Q)).scale (-(F : Int))

/-- Accumulates one addend with its count (R61). -/
def accumulate (w F : Nat) (Q c : Nat) (v : FVal) : Nat × Nat :=
  if Q = quireNaR w then (Q, c)
  else
    match v with
    | .fin _ _ _ =>
      let Q' := wrap w (signed w Q + toFixed F v)
      if 2 ^ 31 - 1 < c + 1 then (quireNaR w, c + 1) else (Q', c + 1)
    | _ => (quireNaR w, c)

/-- The count that ACCLD and ACCWR set (R61). -/
def quireCount (n Q : Nat) : Nat :=
  let w := quireW n
  let a := (signed w Q).natAbs
  let unit := 2 ^ (quireF n + 8 * (n - 2))
  max 1 ((a + unit - 1) / unit)

/-- The conversion of a b16 operand that enters the matrix engine (R64). -/
def b16Operand (p : Nat) : FVal :=
  match decIeee 8 7 p with
  | .nan => .nan
  | .inf neg => decTap 16 (if neg then 0x8001 else 0x7FFF)
  | v => decTap 16 (encTap 16 0 v)

/-! ### Scaled blocks (R58, R59) -/

/-- The value of an st8 element with its block's scale byte (R58). -/
def st8Value (scale el : Nat) : FVal :=
  if scale = 128 then .nan else (decTap 8 el).scale (signed 8 scale)

/-- The tf16 pattern an alias read gives (R59). -/
def aliasRead (scale el : Nat) : Nat := encTap 16 0 (st8Value scale el)

/-- The tf8 pattern an alias write of a tf16 pattern stores (R59). -/
def aliasWrite (scale v : Nat) : Nat := encTap 8 0 ((decTap 16 v).scale (-(signed 8 scale)))

end Sys2Proof.Machine
end

