-- ==== Sys2Proof/Syntax.lean ====
section
/-! DEFINITION. The abstract syntax: the fields of an instruction slot (Table 3.1) and one constructor of
`Instr` for every row of the spec's table of operations and events. A row that is an instruction carries
its slot. A row that is a step of another agent (a hub engine, Praline, the host, a link, a peer) carries
what that agent brings into the step. -/

namespace Sys2Proof

/-- The fields of one 128-bit instruction slot other than OPC (Table 3.1, R76). They stay the bit fields
the spec numbers, since the decode traps of R97 report them. -/
structure Slot where
  /-- SUB, bits [11:8] -/
  sub : BitVec 4 := 0
  /-- TY, bits [17:12]: format code in [3:0], modifier in [5:4] -/
  ty : BitVec 6 := 0
  /-- D, bits [27:18] -/
  d : BitVec 10 := 0
  /-- A, bits [37:28] -/
  a : BitVec 10 := 0
  /-- B, bits [47:38] -/
  b : BitVec 10 := 0
  /-- C, bits [57:48] -/
  c : BitVec 10 := 0
  /-- E, bits [67:58] -/
  e : BitVec 10 := 0
  /-- SG, bits [71:68]: scalar guard -/
  sg : BitVec 4 := 7
  /-- LG, bits [75:72]: lane guard -/
  lg : BitVec 4 := 7
  /-- MOD, bits [79:76] -/
  md : BitVec 4 := 0
  /-- SCP, bits [82:80] -/
  scp : BitVec 3 := 0
  /-- CH, bits [86:83] -/
  ch : BitVec 4 := 0
  /-- IMM, bits [118:87] -/
  imm : BitVec 32 := 0
  /-- STALL, bits [122:119] -/
  stall : BitVec 4 := 0
  /-- YLD, bit [123] -/
  yld : BitVec 1 := 0
  /-- TSET, bits [125:124] -/
  tset : BitVec 2 := 0
  /-- TWAIT, bits [127:126] -/
  twait : BitVec 2 := 0
  deriving DecidableEq, Repr

/-- What calibration finds at bring-up (R423 step 2, R319, R371, R431): whether it succeeded, the buses
retired (die, bus), the dies lost, and the laser banks that fail to lock. -/
structure Calibration where
  ok : Bool
  retired : List (Nat × Nat)
  lost : List Nat
  darkBanks : List Nat
  deriving DecidableEq, Repr

/-- One flit as a receiver sees it (Table 25.2): its header fields, its payload bytes, whether its CRC and its GCM tag
verify, and its GCM invocation counter. -/
structure Flit where
  seq : BitVec 16
  ack : BitVec 16
  kind : BitVec 8
  payload : List Byte
  verifies : Bool
  iv : Word := 0
  deriving DecidableEq, Repr

/-- An access of an agent of a peer device to this module (R435): the peer's world number, the physical
address here, the operation (0 read, 1 write, 2 an atomic of Table 8.6 with its operation number and type
code, 3 an operation on a barrier object, 4 ENQ or DEQ by `sub`, 5 a contribution to line `pa` of a collective, whose
KIND, TYPE and number of participants are in `sub`, `ty` and `cmp`), its operand bytes, and the peer to answer. -/
structure PeerReq where
  id : Nat
  world : Nat
  pa : Nat
  op : Nat
  sub : Nat
  ty : BitVec 6
  data : List Byte
  cmp : List Byte
  peer : Nat := 0
  deriving DecidableEq, Repr

/-- The fields that matched COLLs must agree on (R436). -/
structure CollHead where
  kind : Nat
  ty : Nat
  bytes : Nat
  root : Nat
  deriving DecidableEq, Repr

/-- What the units report at a boundary: each one's activity in per cent (R376, R379) and the units in which a hard
fault was detected (R387). -/
structure Activity where
  busy : Table Nat := []
  faults : List Nat := []
  deriving DecidableEq, Repr

/-- A recall by the host: the line's address, of the host's memory or the device's, and the bytes the host then writes
there, none for a recall alone (R304, R316). -/
structure HostRecall where
  host : Bool
  pa : Nat
  data : List Byte := []
  deriving DecidableEq, Repr

/-- One constructor for each row of the spec's table of operations and events. -/
inductive Instr where
  /-- NOP (R113): Occupies one issue cycle and its STALL, and changes no state. -/
  | nop (sl : Slot)
  /-- BRA (R104): Transfers control unconditionally to PC + 16 × IMM. -/
  | bra (sl : Slot)
  /-- BRX (R104): Transfers control to the header address in a scalar register; serves as return. -/
  | brx (sl : Slot)
  /-- CALL (R105): Writes the link to the following header and transfers to PC + 16 × IMM. -/
  | call (sl : Slot)
  /-- CALLX (R105): Writes the link to the following header and transfers to a register target. -/
  | callx (sl : Slot)
  /-- LOOP (R106): Decrements a scalar counter and branches while it is nonzero. -/
  | loop (sl : Slot)
  /-- BRANY (R107): Branches when any active lane holds the predicate, or with .not when none does. -/
  | brany (sl : Slot)
  /-- BRALL (R107): Branches when every active lane holds the predicate, or with .not when not all do. -/
  | brall (sl : Slot)
  /-- EXIT (R109): Retire-arrives at joined barriers, clears masks and ends the group, completing the workgroup if it is the last group. -/
  | exit (sl : Slot)
  /-- LEXIT (R111): Retires the guarded active lanes from LIVE, ACT and every mask-stack entry. -/
  | lexit (sl : Slot)
  /-- YIELD (R112): Lets any other ready group of the sub-core issue first. -/
  | yield (sl : Slot)
  /-- MPUSH (R115): Pushes a mask-stack entry and narrows ACT by a lane predicate. -/
  | mpush (sl : Slot)
  /-- MELSE (R115): Switches ACT to the untaken lanes of the top entry and restores FMT. -/
  | melse (sl : Slot)
  /-- MPOP (R115): Pops the top entry, restoring ACT and FMT. -/
  | mpop (sl : Slot)
  /-- MGET (R116): Reads ACT, LIVE, stack depth, or the top entry's taken or saved mask. -/
  | mget (sl : Slot)
  /-- MSET (R117): Writes ACT from a value ANDed with LIVE. -/
  | mset (sl : Slot)
  /-- SETFMT (R119): Writes a selected field of FMT, trapping on invalid values. -/
  | setfmt (sl : Slot)
  /-- GETFMT (R118): Reads FMT or a selected field of it. -/
  | getfmt (sl : Slot)
  /-- SADD (R122): Scalar add, wrapping or saturating. -/
  | sadd (sl : Slot)
  /-- SSUB (R122): Scalar subtract, wrapping or saturating. -/
  | ssub (sl : Slot)
  /-- SMUL (R122): Scalar multiply, wrapping or saturating. -/
  | smul (sl : Slot)
  /-- SMULH (R121): High half of the scalar product. -/
  | smulh (sl : Slot)
  /-- SDIV (R123): Scalar quotient rounded toward zero, without trapping. -/
  | sdiv (sl : Slot)
  /-- SREM (R123): Scalar remainder with the sign of the dividend. -/
  | srem (sl : Slot)
  /-- SAND (R121): Scalar bitwise AND. -/
  | sand (sl : Slot)
  /-- SOR (R121): Scalar bitwise OR. -/
  | sor (sl : Slot)
  /-- SXOR (R121): Scalar bitwise XOR. -/
  | sxor (sl : Slot)
  /-- SANDN (R121): Scalar AND with the complement of the second operand. -/
  | sandn (sl : Slot)
  /-- SSHL (R124): Scalar shift left with an unmasked amount. -/
  | sshl (sl : Slot)
  /-- SSHR (R124): Scalar logical shift right. -/
  | sshr (sl : Slot)
  /-- SSAR (R124): Scalar arithmetic shift right. -/
  | ssar (sl : Slot)
  /-- SROT (R124): Scalar rotate left or right by the amount mod w. -/
  | srot (sl : Slot)
  /-- SMIN (R125): Lesser of two scalars by the type's signedness. -/
  | smin (sl : Slot)
  /-- SMAX (R125): Greater of two scalars by the type's signedness. -/
  | smax (sl : Slot)
  /-- SCMP (R126): Compares two scalars and writes a scalar predicate. -/
  | scmp (sl : Slot)
  /-- SSEL (R126): Selects one of two 64-bit values by a scalar predicate. -/
  | ssel (sl : Slot)
  /-- SMOV (R127): Moves a 64-bit value, or with .hi writes the upper half. -/
  | smov (sl : Slot)
  /-- SPOPC (R121): Counts the one bits of a scalar. -/
  | spopc (sl : Slot)
  /-- SCLZ (R121): Counts leading zeros of a scalar. -/
  | sclz (sl : Slot)
  /-- SCTZ (R121): Counts trailing zeros of a scalar. -/
  | sctz (sl : Slot)
  /-- SBFE (R128): Extracts a bit field from a scalar. -/
  | sbfe (sl : Slot)
  /-- SBFI (R128): Inserts a bit field into a scalar. -/
  | sbfi (sl : Slot)
  /-- SLEA (R129): Computes A × 2^C + B modulo 2^64. -/
  | slea (sl : Slot)
  /-- PLOP (R130): Computes three-input predicate logic by a truth table. -/
  | plop (sl : Slot)
  /-- SABS (R122): Scalar absolute value, wrapping or saturating. -/
  | sabs (sl : Slot)
  /-- SBREV (R121): Reverses the bits of a scalar. -/
  | sbrev (sl : Slot)
  /-- VADD (R135): Per-sub-element add, wrapping or saturating. -/
  | vadd (sl : Slot)
  /-- VSUB (R135): Per-sub-element subtract. -/
  | vsub (sl : Slot)
  /-- VMUL (R135): Per-sub-element multiply. -/
  | vmul (sl : Slot)
  /-- VMULH (R135): High half of the per-sub-element product. -/
  | vmulh (sl : Slot)
  /-- VMAD (R135): Per-sub-element multiply-add with one wrap or saturation. -/
  | vmad (sl : Slot)
  /-- VSAD (R136): Sums absolute differences across a lane into a 64-bit accumulator. -/
  | vsad (sl : Slot)
  /-- VDOT4 (R137): Two four-way byte dot products per lane into i32 accumulators. -/
  | vdot4 (sl : Slot)
  /-- VMIN (R135): Per-sub-element minimum. -/
  | vmin (sl : Slot)
  /-- VMAX (R135): Per-sub-element maximum. -/
  | vmax (sl : Slot)
  /-- VABS (R135): Per-sub-element absolute value. -/
  | vabs (sl : Slot)
  /-- VNEG (R135): Per-sub-element negation. -/
  | vneg (sl : Slot)
  /-- VAVG (R135): Per-sub-element exact average, rounded down or up. -/
  | vavg (sl : Slot)
  /-- VAND (R135): Per-lane bitwise AND. -/
  | vand (sl : Slot)
  /-- VOR (R135): Per-lane bitwise OR. -/
  | vor (sl : Slot)
  /-- VXOR (R135): Per-lane bitwise XOR. -/
  | vxor (sl : Slot)
  /-- VANDN (R135): Per-lane AND with complement. -/
  | vandn (sl : Slot)
  /-- VNOT (R135): Per-lane bitwise complement. -/
  | vnot (sl : Slot)
  /-- VLOP3 (R138): Three-input bitwise logic by a truth table. -/
  | vlop3 (sl : Slot)
  /-- VSHL (R140): Per-sub-element shift left with unmasked amounts. -/
  | vshl (sl : Slot)
  /-- VSHR (R140): Per-sub-element logical shift right. -/
  | vshr (sl : Slot)
  /-- VSAR (R140): Per-sub-element arithmetic shift right. -/
  | vsar (sl : Slot)
  /-- VROL (R140): Per-sub-element rotate left. -/
  | vrol (sl : Slot)
  /-- VROR (R140): Per-sub-element rotate right. -/
  | vror (sl : Slot)
  /-- VFSHL (R141): Funnel shift of a 2w-bit concatenation left or right. -/
  | vfshl (sl : Slot)
  /-- VCMP (R142): Per-sub-element integer compare into a mask register or lane predicate. -/
  | vcmp (sl : Slot)
  /-- VSEL (R139): Selects by lane predicate or by bit mask. -/
  | vsel (sl : Slot)
  /-- VPOPC (R135): Per-sub-element population count. -/
  | vpopc (sl : Slot)
  /-- VCLZ (R135): Per-sub-element leading-zero count. -/
  | vclz (sl : Slot)
  /-- VCTZ (R135): Per-sub-element trailing-zero count. -/
  | vctz (sl : Slot)
  /-- VBREV (R135): Per-sub-element bit reversal. -/
  | vbrev (sl : Slot)
  /-- VBFE (R143): Per-sub-element bit-field extract with one field control. -/
  | vbfe (sl : Slot)
  /-- VBFI (R143): Per-sub-element bit-field insert. -/
  | vbfi (sl : Slot)
  /-- VPRMB (R144): Builds each byte of a lane from 16 source bytes by index. -/
  | vprmb (sl : Slot)
  /-- VWIDEN (R145): Extends half a lane's sub-elements to twice the width. -/
  | vwiden (sl : Slot)
  /-- VNARROW (R146): Narrows two registers of 2w-bit sub-elements into one. -/
  | vnarrow (sl : Slot)
  /-- VPACK (R147): Interleaves or de-interleaves sub-elements of two registers. -/
  | vpack (sl : Slot)
  /-- VMOV (R135): Copies a source to a vector register. -/
  | vmov (sl : Slot)
  /-- VDIV (R148): Per-sub-element quotient without trapping. -/
  | vdiv (sl : Slot)
  /-- VREM (R148): Per-sub-element remainder without trapping. -/
  | vrem (sl : Slot)
  /-- FADD (R154): Float add with one rounding. -/
  | fadd (sl : Slot)
  /-- FSUB (R154): Float subtract with one rounding. -/
  | fsub (sl : Slot)
  /-- FMUL (R154): Float multiply with one rounding. -/
  | fmul (sl : Slot)
  /-- FFMA (R154): Fused multiply-add in four sign forms with one rounding. -/
  | ffma (sl : Slot)
  /-- FMIN (R156): Float minimum by pattern order or IEEE rules. -/
  | fmin (sl : Slot)
  /-- FMAX (R156): Float maximum by pattern order or IEEE rules. -/
  | fmax (sl : Slot)
  /-- FABS (R157): Float absolute value. -/
  | fabs (sl : Slot)
  /-- FNEG (R157): Float negation. -/
  | fneg (sl : Slot)
  /-- FCMP (R158): Float compare into a mask register or lane predicate. -/
  | fcmp (sl : Slot)
  /-- FCLASS (R159): Tests elements against a class set. -/
  | fclass (sl : Slot)
  /-- FRND (R160): Rounds to an integral value in the same format. -/
  | frnd (sl : Slot)
  /-- FSCALE (R161): Multiplies by a power of two with one rounding. -/
  | fscale (sl : Slot)
  /-- FDOT2 (R155): Two-way dot products into double-width elements. -/
  | fdot2 (sl : Slot)
  /-- FRCP (R162): Correctly rounded reciprocal. -/
  | frcp (sl : Slot)
  /-- FRSQ (R162): Correctly rounded reciprocal square root. -/
  | frsq (sl : Slot)
  /-- FSQRT (R162): Correctly rounded square root. -/
  | fsqrt (sl : Slot)
  /-- FEXP2 (R162): Correctly rounded 2^x. -/
  | fexp2 (sl : Slot)
  /-- FLOG2 (R162): Correctly rounded log2 x. -/
  | flog2 (sl : Slot)
  /-- FSIN (R162): Correctly rounded sine with exact reduction. -/
  | fsin (sl : Slot)
  /-- FCOS (R162): Correctly rounded cosine with exact reduction. -/
  | fcos (sl : Slot)
  /-- FTANH (R162): Correctly rounded hyperbolic tangent. -/
  | ftanh (sl : Slot)
  /-- FSIGM (R162): Correctly rounded logistic sigmoid. -/
  | fsigm (sl : Slot)
  /-- FCVT (R163): Converts between float formats, placed by part. -/
  | fcvt (sl : Slot)
  /-- FCVTI (R164): Converts between float and integer formats. -/
  | fcvti (sl : Slot)
  /-- FQSUM (R155): Sums a lane's sub-elements exactly in a quire and rounds once. -/
  | fqsum (sl : Slot)
  /-- SHFL (R167): Moves elements across lanes by index, xor, up or down. -/
  | shfl (sl : Slot)
  /-- VOTE (R168): Any, all, ballot or uniform vote of a lane predicate. -/
  | vote (sl : Slot)
  /-- LRED (R169): Reduces each sub-element position across lanes into a scalar. -/
  | lred (sl : Slot)
  /-- LSCAN (R170): Inclusive or exclusive prefix combination across lanes. -/
  | lscan (sl : Slot)
  /-- MATCH (R171): Writes per lane the mask of lanes with an equal 64-bit value. -/
  | matchLanes (sl : Slot)
  /-- VGET (R172): Reads one element of a vector register into a scalar. -/
  | vget (sl : Slot)
  /-- VSET (R172): Writes one element of a vector register from a scalar. -/
  | vset (sl : Slot)
  /-- XSEND (R174): Arrives as sender at a transfer slot, waiting or transferring registers. -/
  | xsend (sl : Slot)
  /-- XRECV (R174): Arrives as receiver at a transfer slot, waiting or receiving registers. -/
  | xrecv (sl : Slot)
  /-- XPROBE (R176): Reads whether a transfer slot holds a waiting sender or receiver. -/
  | xprobe (sl : Slot)
  /-- BININIT (R180): Validates a bin descriptor and empties the bin. -/
  | bininit (sl : Slot)
  /-- SUSP (R181): Writes the guarded active lanes into bin rows or the overflow ring and suspends them. -/
  | susp (sl : Slot)
  /-- RESUME (R182): Drains overflow, takes up to 32 woken rows into lanes and optionally continues. -/
  | resume (sl : Slot)
  /-- WAKE_ROWS (R183): Wakes rows of a bin by base and mask. -/
  | wakeRows (sl : Slot)
  /-- WAKE_LANES (R183): Wakes the bin rows named by selected lanes. -/
  | wakeLanes (sl : Slot)
  /-- WAKE_ALL (R183): Wakes every occupied row of a bin. -/
  | wakeAll (sl : Slot)
  /-- BINQ (R184): Reads a bin's occupied, woken or overflow count. -/
  | binq (sl : Slot)
  /-- FXFORM (R185): Applies one operation to a column of every sleeping frame of a bin. -/
  | fxform (sl : Slot)
  /-- BINDROP_ROWS (R186): Discards selected rows of a bin by base and mask. -/
  | bindropRows (sl : Slot)
  /-- BINDROP_SET (R186): Discards the woken rows, or every row and the overflow ring. -/
  | bindropSet (sl : Slot)
  /-- LD (R198): Per-lane load with optional acquire. -/
  | ld (sl : Slot)
  /-- ST (R198): Per-lane store with optional release. -/
  | st (sl : Slot)
  /-- LDX (R198): Per-lane load of 1 to 8 consecutive registers. -/
  | ldx (sl : Slot)
  /-- STX (R198): Per-lane store of 1 to 8 consecutive registers. -/
  | stx (sl : Slot)
  /-- LDS (R198): Scalar load. -/
  | lds (sl : Slot)
  /-- STS (R198): Scalar store. -/
  | sts (sl : Slot)
  /-- LDB (R198): Block load of 256 bytes, one word per lane. -/
  | ldb (sl : Slot)
  /-- STB (R198): Block store of 256 bytes, one word per lane. -/
  | stb (sl : Slot)
  /-- ATOM (R200): Per-lane atomic read-modify-write returning the old value. -/
  | atom (sl : Slot)
  /-- ATOMS (R200): Scalar atomic read-modify-write returning the old value. -/
  | atoms (sl : Slot)
  /-- RED (R200): Per-lane at-memory reduction, including exact quire addition. -/
  | red (sl : Slot)
  /-- FENCE (R206): Acquire or release fence at a scope, with column actions. -/
  | fence (sl : Slot)
  /-- PREF (R207): Prefetches lines to a chosen level without architectural effect. -/
  | pref (sl : Slot)
  /-- COLCLN (R209): Writes back the core's whole column dirty index. -/
  | colcln (sl : Slot)
  /-- COLINV (R209): Writes back the dirty index and increments the acquire generation. -/
  | colinv (sl : Slot)
  /-- CCTL (R208): Writes back, invalidates or marks evict-first an L1 line. -/
  | cctl (sl : Slot)
  /-- WAITP (R210): Waits for a word to meet a condition at its point of coherence, with optional timeout. -/
  | waitp (sl : Slot)
  /-- BOINIT (R214): Initialises a barrier object with n arrivals per phase. -/
  | boinit (sl : Slot)
  /-- BOARR (R214): Arrives at and adds bytes to a barrier object, possibly completing the phase. -/
  | boarr (sl : Slot)
  /-- BOJOIN (R214): Adds a barrier object to the group's joined table. -/
  | bojoin (sl : Slot)
  /-- BOLEAVE (R214): Removes a joined barrier, with .ret performing a retire-arrival. -/
  | boleave (sl : Slot)
  /-- LBAR (R215): Arrives at the launch-scope barrier of a co-resident launch and waits. -/
  | lbar (sl : Slot)
  /-- ENQ (R217): Indivisibly enqueues one element on a ring, or reports it full. -/
  | enq (sl : Slot)
  /-- DEQ (R217): Indivisibly dequeues one element from a ring, or reports it empty. -/
  | deq (sl : Slot)
  /-- CPY (R241): Issues an asynchronous linear copy with a notification. -/
  | cpy (sl : Slot)
  /-- CPY2 (R241): Issues an asynchronous two-dimensional copy. -/
  | cpy2 (sl : Slot)
  /-- GATH (R241): Issues an asynchronous gather of indexed rows. -/
  | gath (sl : Slot)
  /-- SCAT (R241): Issues an asynchronous scatter of rows to indexed places. -/
  | scat (sl : Slot)
  /-- COLL (R244): Reads and checks a collective descriptor and starts the collective. -/
  | coll (sl : Slot)
  /-- AFENCE (R239): Closes the open batch of a class and returns its number. -/
  | afence (sl : Slot)
  /-- POST (R246): Checks a task card, increments the launch counter and enqueues it to a core task queue. -/
  | post (sl : Slot)
  /-- TIERH_NEED (R247): Adds pages to the working set and asks Strudel to bring them near. -/
  | tierhNeed (sl : Slot)
  /-- TIERH_COLD (R247): Marks listed pages first to leave the near tier. -/
  | tierhCold (sl : Slot)
  /-- MMA (R227): Queues a dense matrix multiply-accumulate on a tile. -/
  | mma (sl : Slot)
  /-- MMAS (R227): Queues a bitmap-sparse matrix multiply-accumulate on a tile. -/
  | mmas (sl : Slot)
  /-- MMAT (R227): Queues a ternary-by-integer matrix multiply-accumulate. -/
  | mmat (sl : Slot)
  /-- ACCZ (R229): Zeroes the selected rows of a tile. -/
  | accz (sl : Slot)
  /-- ACCLD (R229): Loads raw element images into the selected rows of a tile. -/
  | accld (sl : Slot)
  /-- ACCST (R229): Stores tile rows raw or rounded to a type. -/
  | accst (sl : Slot)
  /-- ACCRD (R230): Reads tile columns into lane registers, rounded. -/
  | accrd (sl : Slot)
  /-- ACCWR (R230): Writes lane registers into tile columns. -/
  | accwr (sl : Slot)
  /-- ACCALLOC (R231): Allocates a run of free logical tiles of a kind, or reports refusal. -/
  | accalloc (sl : Slot)
  /-- ACCALLOC_STAT (R231): Reads a tile's KIND and ACCSAT. -/
  | accallocStat (sl : Slot)
  /-- ACCFREE (R231): Frees and clears a range of tiles. -/
  | accfree (sl : Slot)
  /-- SPPACK_ROWS (R232): Packs dense rows into bitmap-sparse records. -/
  | sppackRows (sl : Slot)
  /-- SPPACK_COLS (R232): Packs dense columns into bitmap-sparse records. -/
  | sppackCols (sl : Slot)
  /-- TRAP (R258): Raises a SOFTWARE trap with a code. -/
  | trap (sl : Slot)
  /-- RTT (R256): Leaves trap mode and resumes at TRAPPC. -/
  | rtt (sl : Slot)
  /-- RTT_NEXT (R256): Leaves trap mode and resumes at the slot after TRAPPC. -/
  | rttNext (sl : Slot)
  /-- RTT_TO (R256): Leaves trap mode and enters a named block. -/
  | rttTo (sl : Slot)
  /-- SRGET (R249): Reads a system register. -/
  | srget (sl : Slot)
  /-- SRSET (R249): Writes a system register, subject to privilege. -/
  | srset (sl : Slot)
  /-- HGET (R257): Reads an interrupted group's register or mask state in trap mode. -/
  | hget (sl : Slot)
  /-- HSET (R257): Writes an interrupted group's register, ACT or FMT in trap mode. -/
  | hset (sl : Slot)
  /-- PDONE (R260): Ends the group's residency from a pre-emption handler. -/
  | pdone (sl : Slot)
  /-- BOOST (R264): Requests a higher operating point, granted against the life budget or refused. -/
  | boost (sl : Slot)
  /-- REPLAY_RETRY (R262): Releases a held fault so its access is checked and performed afresh. -/
  | replayRetry (sl : Slot)
  /-- REPLAY_KILL (R262): Kills the held group's workgroup or ends the paused engine operation. -/
  | replayKill (sl : Slot)
  /-- MEAS (R263): Hashes a memory range and extends a measurement register of the world. -/
  | meas (sl : Slot)
  /-- CANCEL (R261): Cancels a launch, graph, phase or job at its completion counter. -/
  | cancel (sl : Slot)
  /-- VARIABLE_RESULT_WRITE (R442): A variable-latency result arrives, is written and readies its token. -/
  | variableResultWrite (g k : Nat)
  /-- DELAYED_TRAP (R444): An error response or engine fault arrives after its slot and traps the group at its next issue. -/
  | delayedTrap (g : Nat)
  /-- TRAP_ENTRY (R253): Once the trap bank is free, the group enters its handler with cause registers set. -/
  | trapEntry (g : Nat)
  /-- WAITP_WAKE (R44): A waited word reaches its condition and the waiting group wakes. -/
  | waitpWake (g : Nat)
  /-- WAITP_TIMEOUT (R210): A WAITP timeout expires and ends the wait with status 0. -/
  | waitpTimeout (g : Nat)
  /-- ENGINE_START (R234): The matrix engine starts an instruction from a core queue, running tile and address checks. -/
  | engineStart (me : Nat)
  /-- MATRIX_OP_COMPLETE (R233): A matrix-engine instruction finishes its effect on its tile and memory. -/
  | matrixOpComplete (me : Nat)
  /-- COPY_UNIT_LAND (R240): A landed unit of a copy is subtracted from a barrier object's BYTES. -/
  | copyUnitLand (op : Nat)
  /-- ASYNC_OP_COMPLETE (R240): An asynchronous operation's payload has landed and its notification is performed. -/
  | asyncOpComplete (op : Nat)
  /-- ENGINE_PAGE_FAULT (R243): A running engine operation meets a page fault, pauses and writes a fault record. -/
  | enginePageFault (op : Nat)
  /-- PREEMPTION_REQUEST (R259): A context's groups are driven into their pre-emption handlers with budgets loaded. -/
  | preemptionRequest (fn ctx : Nat)
  /-- FORCED_SAVE (R368): PBUDGETW reaches 0 and the group is force-saved to the save area. -/
  | forcedSave (g : Nat)
  /-- QUEUE_PIDX_WAKE (R330): A writer takes a watched PIDX line and the dispatcher reads the new packets. -/
  | queuePidxWake (fn q : Nat)
  /-- PACKET_NOP (R334): A NOP packet is accepted and completes OK. -/
  | packetNop (fn q : Nat)
  /-- PACKET_LAUNCH (R337): A LAUNCH packet is accepted, its descriptor read and a handle allocated. -/
  | packetLaunch (fn q : Nat)
  /-- PACKET_BARRIER (R334): A BARRIER packet is accepted or aborted by its signals. -/
  | packetBarrier (fn q : Nat)
  /-- PACKET_COPY (R334): A COPY packet is accepted and runs as one copy engine operation. -/
  | packetCopy (fn q : Nat)
  /-- PACKET_SIGNAL (R334): A SIGNAL packet sets or subtracts a signal and completes. -/
  | packetSignal (fn q : Nat)
  /-- PACKET_GRAPH (R339): A GRAPH packet creates a graph and possibly its phase and job. -/
  | packetGraph (fn q : Nat)
  /-- GRAPH_NODE_START (R340): A graph node starts, or is aborted, when its producers complete. -/
  | graphNodeStart (graph node : Nat)
  /-- PAGE_WALK (R361): A hub walker completes a walk, checks the leaf and installs it in TLBs. -/
  | pageWalk (die fn ctx space : Nat) (va : Word) (kind : Nat)
  /-- TICK_BOUNDARY (R380): Praline accounts every unit, recomputes credits and decides boosts, drains, rests and retirements. -/
  | tickBoundary (act : Activity) (metered : Table Nat)
  /-- TEMPERATURE_SAMPLE (R378): Each unit's temperature sensor is sampled every 100 µs. -/
  | temperatureSample (samples : Table Int)
  /-- MARGIN_MEASURE (R387): Once per second MARGIN is measured and low margins reported. -/
  | marginMeasure (margins : Table Nat)
  /-- TARGETH_WRITE (R392): Host writes the service-life target, effective at the next boundary. -/
  | targethWrite (v : BitVec 32)
  /-- EBUDGET_WRITE (R392): Host writes a function's energy budget, effective at the next window. -/
  | ebudgetWrite (fn : Nat) (v : Word)
  /-- VB_WARNING (R318): An ageing monitor warns on a vertical bus, starting repair or drain. -/
  | vbWarning (die bus : Nat)
  /-- VB_FAILURE (R321): A vertical bus fails, starting repair or losing its pages. -/
  | vbFailure (die bus : Nat)
  /-- VB_REPAIR_DONE (R319): The bank column switches to the spare and held requests resume. -/
  | vbRepairDone (die bus : Nat)
  /-- VB_DRAIN_DONE (R320): The last frame leaves a draining bus and it is retired. -/
  | vbDrainDone (die bus : Nat)
  /-- DIE_LOSS (R371): A die is lost and every context touching it is ended. -/
  | dieLoss (die : Nat)
  /-- CXL_MEM_ACCESS (R401): A host read or write over CXL.mem is performed at the hub bank as world 0, or refused. -/
  | cxlMemAccess (wr : Bool) (pa : Nat) (data : List Byte)
  /-- BACK_INVALIDATE (R316): The host recalls a host-owned line held by the hub, for what it then writes there. -/
  | backInvalidate (rc : HostRecall)
  /-- QUEUE_EN_WRITE (R329): Setting EN of a queue-table entry enables it if its ring control block is valid. -/
  | queueEnWrite (fn q : Nat) (rcb : Word) (ctx : Nat)
  /-- QUEUE_ERR_CLEAR (R335): Writing CLR clears a queue's error latch. -/
  | queueErrClear (fn q : Nat)
  /-- PCIE_FLR (R420): A PCI Express FLR of a function starts its function-level reset. -/
  | pcieFlr (fn : Nat)
  /-- RECGO (R423): Writing RECGO verifies the recovery image and boots or fails. -/
  | recgo (sigOk : Bool)
  /-- BOOT_COMPLETE (R423): Firmware verification ends and the module calibrates or enters RECOVERY. -/
  | bootComplete (sigOk : Bool) (fw0 fw1 : BitVec 512)
  /-- CALIBRATE_COMPLETE (R423): Buses, DRAM and lasers are calibrated and zeroing begins. -/
  | calibrateComplete (c : Calibration)
  /-- ZEROING_COMPLETE (R423): Near tier zeroed, trees built, world 0 created, and STATE becomes READY. -/
  | zeroingComplete (ok : Bool)
  /-- SELFID_WRITE (R445): Writing SELFID starts or restarts link training. -/
  | selfidWrite (v : BitVec 10)
  /-- ROUTE_WRITE (R433): Writing ROUTE sets the links that reach a peer for later requests. -/
  | routeWrite (p : Nat) (v : Word)
  /-- LINK_TRAINED (R445): A far end answers, keys and ids are exchanged and the link comes up. -/
  | linkTrained (link : Nat) (farid : BitVec 10) (active : BitVec 4)
  /-- FLIT_RECEIVE (R430): A flit arrives and is accepted, discarded, acknowledged or answered with NAK. -/
  | flitReceive (link : Nat) (f : Flit)
  /-- NAK_RECEIVE (R430): A NAK arrives and the sender resends from the named flit. -/
  | nakReceive (link : Nat) (seq : BitVec 16)
  /-- DARK_WAVELENGTH_DETECT (R431): Loss of light on a wavelength group is detected and restriping begins. -/
  | darkWavelengthDetect (link : Nat) (dark : BitVec 4)
  /-- RESTRIPE_DONE (R431): Both ends run on the remaining groups and the sender resends. -/
  | restripeDone (link : Nat)
  /-- LINK_LOST (R432): A link is lost and its unacknowledged flits are rerouted. -/
  | linkLost (link : Nat)
  /-- PEER_REQUEST_ARRIVE (R435): A peer's access arrives and is performed at the hub bank under its world. -/
  | peerRequestArrive (r : PeerReq)
  /-- PEER_RESPONSE_ARRIVE (R435): A peer's completion response arrives and the access lands. -/
  | peerResponseArrive (req : Nat) (data : Option (List Byte))
  /-- COLL_MATCH (R436): Participants' COLLs are matched, failing all if they differ. -/
  | collMatch (op : Nat) (others : List CollHead)
  /-- COLL_CONTRIB_LAND (R437): A contribution lands at a line's reduction point; at CONTRIB the line is summed and written. -/
  | collContribLand (op line port : Nat) (data : List Byte)
  /-- REGISTER_WRITE (R413): A write to a register with no behaviour of its own stores its field. -/
  | registerWrite (fn off : Nat) (v : Word)
  /-- NON_INSTRUCTION_ENCODING (R95): A group reaches a slot whose encoding is not an instruction (an unassigned or 0xFF opcode, or OPC 0x00 inside a block) and traps ILLEGAL_INSTRUCTION. -/
  | nonInstructionEncoding (opc : BitVec 8) (sl : Slot)
  /-- PLACEMENT_PASS (R342): The dispatcher places every allowed candidate workgroup on cores. -/
  | placementPass
  /-- PACKET_COMPLETE (R336): A packet completes: release, status written, completion signal changed. -/
  | packetComplete
  /-- CANNOLI_SPILL_MOVE (R348): A task-queue slot frees and Cannoli moves the oldest spilled card into it. -/
  | cannoliSpillMove
  /-- BUCKET_REFILL (R349): Each token-bucket class refills by its rate at the start of each µs. -/
  | bucketRefill
  /-- INV_PAGES (R363): Invalidation request OP 0 removes translations of a virtual range. -/
  | invPages
  /-- INV_CONTEXT (R363): Invalidation request OP 1 removes every translation of a context. -/
  | invContext
  /-- INV_FRAMES (R364): Invalidation request OP 2 removes translations of frames and clears their marks. -/
  | invFrames
  /-- INV_TDMASK (R370): Invalidation request OP 3 recomputes a non-resident context's touched-dies mask. -/
  | invTdmask
  /-- MOVE_UP (R373): Move request OP 0 moves a page to the near tier. -/
  | moveUp
  /-- MOVE_DOWN (R373): Move request OP 1 moves a page to the capacity tier. -/
  | moveDown
  /-- PAGE_MOVE (R324): Strudel completes one page move between frames and updates leaves. -/
  | pageMove
  /-- QUANTUM_END (R419): A time-sliced member's quantum ends and the switch begins by pre-empting it. -/
  | quantumEnd
  /-- INCOMING_RESIDENT (R426): After the outgoing function is saved and swaps begin, the incoming function becomes resident. -/
  | incomingResident
  /-- REST_END (R385): After 50 REV ticks the core returns to active. -/
  | restEnd
  /-- BOOST_END (R383): A boost's tick count runs out, or it ends early, and its reservation leaves BRESV. -/
  | boostEnd
  /-- RETIRE_PREEMPT (R387): 100 ticks after a retirement drain, remaining workgroups are pre-empted. -/
  | retirePreempt
  /-- ENERGY_WINDOW_START (R391): A new 100-tick energy window opens, EWIN resets and new EBUDGET takes effect. -/
  | energyWindowStart
  /-- CHECKPOINT (R389): Every 1,000 ticks the wear table and life state are written to non-volatile memory. -/
  | checkpoint
  /-- EOLH_PREDICT (R388): Every hour each unit's end-of-life prediction is recomputed. -/
  | eolhPredict
  /-- PCREATE (R416): Management request giving a function a partition. -/
  | pcreate
  /-- PRESIZE (R418): Management request growing or shrinking a partition. -/
  | presize
  /-- PDESTROY (R416): Management request freeing a function's partition. -/
  | pdestroy
  /-- QUOTA (R416): Management request setting copy-engine, capacity and spill quotas. -/
  | quota
  /-- BUCKET (R416): Management request setting a token-bucket class's rate and depth. -/
  | bucket
  /-- WCREATE (R416): Management request creating a world with a fresh key. -/
  | wcreate
  /-- WDESTROY (R416): Management request destroying a world, freeing frames and erasing its key. -/
  | wdestroy
  /-- CCREATE (R416): Management request creating a context from its descriptor. -/
  | ccreate
  /-- CDESTROY (R416): Management request resetting and destroying a context. -/
  | cdestroy
  /-- QRESET (R421): Management request taking the queue rung of the reset ladder. -/
  | qreset
  /-- CRESET (R421): Management request taking the context rung of the reset ladder. -/
  | creset
  /-- FLR (R420): Management request performing a function-level reset. -/
  | flr
  /-- BIAS (R422): Management request flipping the bias of a frame range. -/
  | bias
  /-- PBSET (R416): Management request setting a context's pre-emption budget. -/
  | pbset
  /-- PDSET (R417): Management request naming function 0's partition descriptor and flushing waiting records. -/
  | pdset
  /-- RESET_ESCALATION (R421): A reset rung's timeout expires and the next rung starts. -/
  | resetEscalation
  /-- DEVRST (R421): Writing DEVRST takes the device rung: checkpoint, reset and bring-up. -/
  | devrst
  /-- ATTESTATION_GO (R408): Writing GO starts an attestation report, or sets STATUS 3 while busy. -/
  | attestationGo
  /-- ATTESTATION_DONE (R410): The signed report is written to the host and DONE is set. -/
  | attestationDone
  /-- ATTESTATION_DONE_CLEAR (R408): Writing 1 to DONE clears it. -/
  | attestationDoneClear
  /-- POWER_GOOD (R423): Power-good starts bring-up in BOOT with firmware signature verification. -/
  | powerGood
  /-- ORDERLY_POWER_DOWN (R389): An orderly power-down runs one last tick boundary and writes a checkpoint marked orderly. -/
  | orderlyPowerDown (busy metered : Table Nat)
  /-- POWER_LOSS (R389): Power is lost without an orderly power-down, and the ticks since the last checkpoint are later charged conservatively. -/
  | powerLoss
  deriving DecidableEq, Repr

end Sys2Proof
end

