-- ==== Sys2Proof/Machine/Checks.lean ====
section
/-! DEFINITION. The decode checks 1 to 4 of R96: what each instruction's entry allows in the fields of its
slot, and the trap that the first failing check takes (R76 to R84, R95 to R97). -/

namespace Sys2Proof.Machine

/-- The classes of operand codes (Table 3.3). Two marks stand in an entry's list only: `only` where the entry gives
every other code REASON 2, reserved ones too, and `que` where it gives the queue REASON 3 (R173). -/
inductive Kind where
  | v | q | s | zero | lane | kc | imm | rep | mask | vp | sp | act | only | que
  deriving DecidableEq, Repr

/-- The class of an operand code; none for 0x288 to 0x3FF. -/
def kindOf (code : BitVec 10) : Option Kind :=
  let n := code.toNat
  if n < 0x200 then some .v
  else if n < 0x210 then some .q
  else if n < 0x270 then some .s
  else if n = 0x270 then some .zero
  else if n < 0x273 then some .lane
  else if n = 0x273 then some .kc
  else if n = 0x274 then some .imm
  else if n = 0x275 then some .rep
  else if n < 0x278 then some .mask
  else if n < 0x280 then some .vp
  else if n < 0x288 then some .sp
  else none

/-- What an entry makes of one operand field: unused, a source, or a destination, of some classes, naming
`n` consecutive registers. For a destination, `q` is push, `act` is ACT, and `lane` marks VOTE, where sp7
and vp7 both give REASON 4 (R168). -/
inductive Opnd where
  | none
  | src (ks : List Kind) (n : Nat)
  | dst (ks : List Kind) (n : Nat)
  deriving DecidableEq, Repr

/-- What an entry says of a slot's fields, evaluated on that slot: whether SUB and TY are assigned (check
2), whether everything else it requires of MOD, IMM, LG, SCP, CH and TSET holds (check 3), the operand
fields (check 4), whether IMM has another use (R81), whether 0x274 and 0x275 give REASON 6 in every
field, and the register of the interrupted group that IMM names, with its FIELD and code (R257). -/
structure Form where
  sub : Bool := true
  ty : Bool := true
  rest : Bool := true
  lanes : Bool := false
  scp : Bool := false
  ch : Bool := false
  tok : Bool := false
  d : Opnd := .none
  a : Opnd := .none
  b : Opnd := .none
  c : Opnd := .none
  e : Opnd := .none
  immUsed : Bool := false
  immAll : Bool := false
  own : Option (Nat × BitVec 10) := none
  deriving Repr

/-! ### Types (R78, Table 3.2) -/

/-- The format code of TY. -/
def tyCode (sl : Slot) : Nat := (sl.ty.toNat) % 16

/-- The modifier of TY. -/
def tyMod (sl : Slot) : Nat := sl.ty.toNat / 16

/-- The integer type of TY: width and signedness. -/
def intTy (sl : Slot) : Option (Nat × Bool) :=
  match tyMod sl, tyCode sl with
  | 0, 0 => some (8, true)
  | 0, 1 => some (8, false)
  | 0, 2 => some (16, true)
  | 0, 3 => some (16, false)
  | 0, 4 => some (32, true)
  | 0, 5 => some (32, false)
  | 0, 6 => some (64, true)
  | 1, 6 => some (64, false)
  | 2, 0 => some (4, true)
  | 2, 1 => some (4, false)
  | _, _ => none

/-- Width of an integer type; 64 for TY values of no integer type. -/
def tyW (sl : Slot) : Nat := ((intTy sl).map Prod.fst).getD 64

/-- Signedness of an integer type. -/
def tyS (sl : Slot) : Bool := ((intTy sl).map Prod.snd).getD false

/-- The types i8 to n64 (R120, R197). -/
def tyX (sl : Slot) : Bool := match intTy sl with | some (w, _) => decide (8 ≤ w) | none => false

/-- Every integer type, set I of R132. -/
def tyI (sl : Slot) : Bool := (intTy sl).isSome

/-- The types of F: tf8, tf16, tf32, h16, b16, f32 (R151). -/
def tyF (sl : Slot) : Bool := decide (tyMod sl = 0) && decide (8 ≤ tyCode sl) && decide (tyCode sl ≤ 13)

/-- `.fmt` (Table 3.2). -/
def tyIsFmt (sl : Slot) : Bool := decide (tyMod sl = 0) && decide (tyCode sl = 15)

/-- st8 as a type. -/
def tySt8 (sl : Slot) : Bool := decide (tyMod sl = 0) && decide (tyCode sl = 14)

/-- The register-count type, c = 0 to 3 (Table 3.2). -/
def tyCnt (sl : Slot) : Bool := decide (tyMod sl = 3) && decide (tyCode sl ≤ 3)

/-- TY is one of the listed format codes with modifier 0. -/
def tyIn (l : List Nat) (sl : Slot) : Bool := decide (tyMod sl = 0) && l.contains (tyCode sl)

/-- No type (R78). -/
def ty0 (sl : Slot) : Bool := decide (sl.ty = 0)

/-- Width of a typed format, for integer and float types. -/
def fmtW (sl : Slot) : Nat :=
  match intTy sl with
  | some (w, _) => w
  | none => ((Fmt.ofCode (tyCode sl)).map Fmt.width).getD 64

/-- SUB as a number. -/
def subN (sl : Slot) : Nat := sl.sub.toNat

/-- MOD as a number. -/
def modN (sl : Slot) : Nat := sl.md.toNat

/-- IMM as a number. -/
def immN (sl : Slot) : Nat := sl.imm.toNat

/-! ### Operand classes -/

def ksV : List Kind := [.v, .q, .s, .zero, .lane, .kc, .imm, .rep, .mask, .vp, .sp]
def ksS : List Kind := [.s, .zero, .kc, .imm, .mask, .vp, .sp]

/-- A vector-context source. -/
def oV : Opnd := .src ksV 1
/-- A vector-context source without 0x274 and 0x275 (R178). -/
def oVni : Opnd := .src [.v, .q, .s, .zero, .lane, .kc, .mask, .vp, .sp] 1
/-- A scalar-context source. -/
def oS : Opnd := .src ksS 1
/-- A vector register, push or discard. -/
def oVd : Opnd := .dst [.v, .q, .zero] 1
/-- A scalar register or discard. -/
def oSd : Opnd := .dst [.s, .zero] 1
/-- A lane predicate as a source. -/
def oVp : Opnd := .src [.vp] 1
/-- A lane predicate where every other code has REASON 2 (R107, R139). -/
def oVpOnly : Opnd := .src [.vp, .only] 1
/-- sp0 to sp6 or discard. -/
def oSpd : Opnd := .dst [.sp, .zero] 1
/-- `n` scalar registers. -/
def oSr (n : Nat) : Opnd := .src [.s] n
/-- A scalar register or zero. -/
def oSz : Opnd := .src [.s, .zero] 1
/-- The base of a per-lane access (Table 8.4). -/
def oBase : Opnd := .src [.v, .q, .s, .zero] 1

/-! ### Check 4: one operand field -/

/-- The trap reason of one operand field, if its code is not allowed (R79 to R84, Table 3.8). `g` is the
allotment in granules, `ns` the scalar count, `tm` trap mode; this part finds registers outside them. -/
def rangeBad (g ns : Nat) (tm : Bool) (k : Kind) (code n : Nat) : Bool :=
  match k with
  | .v => (List.range n).any fun i =>
      decide (0x200 ≤ code + i) || (!(tm && decide (0x1E0 ≤ code + i)) && decide (8 * g ≤ code + i))
  | .s => (List.range n).any fun i =>
      decide (0x270 ≤ code + i) || (!(tm && decide (0x260 ≤ code + i)) && decide (ns ≤ code + i - 0x210))
  | _ => false

/-- The reason of a reserved code: REASON 1, or 2 where the entry says so of every other code. -/
def rsvReason (ks : List Kind) : Nat := if ks.contains .only then 2 else 1

def srcReason (f : Form) (g ns : Nat) (tm : Bool) (ks : List Kind) (n : Nat) (code : BitVec 10) : Option Nat :=
  match kindOf code with
  | none => some (rsvReason ks)
  | some k =>
    if f.immAll ∧ (k = .imm ∨ k = .rep) then some 6
    else if k = .q ∧ ks.contains .que then some 3
    else if ¬ ks.contains k then some 2
    else if f.immUsed ∧ (k = .imm ∨ k = .rep) then some 6
    else if rangeBad g ns tm k code.toNat n then some 5
    else none

def dstReason (f : Form) (g ns : Nat) (tm : Bool) (ks : List Kind) (n : Nat) (code : BitVec 10) : Option Nat :=
  match kindOf code with
  | none => some (rsvReason ks)
  | some k =>
    if f.immAll ∧ (k = .imm ∨ k = .rep) then some 6
    else match k with
    | .q =>
      if code = 0x200 ∧ ks.contains .q then none
      else if ks.contains .que then some 3
      else if ks.contains .v ∧ (code = 0x200 ∨ ¬ ks.contains .only) then some 3
      else some 2
    | .mask => if code = 0x276 ∧ ks.contains .act then none else some 2
    | .vp | .sp =>
      if code = 0x27F ∨ code = 0x287 then
        (if ks.contains k ∨ ks.contains .lane then some 4 else some 2)
      else if ks.contains k then none else some 2
    | .v | .s | .zero =>
      if ¬ ks.contains k then some 2
      else if rangeBad g ns tm k code.toNat n then some 5
      else none
    | _ => some 2

/-- The trap reason of one field as its entry uses it. -/
def opndReason (f : Form) (g ns : Nat) (tm : Bool) (o : Opnd) (code : BitVec 10) : Option Nat :=
  match o with
  | .none => none
  | .src ks n => srcReason f g ns tm ks n code
  | .dst ks n => dstReason f g ns tm ks n code

/-- An unused field must hold 0 (R79). -/
def unusedOk (o : Opnd) (code : BitVec 10) : Bool :=
  match o with
  | .none => decide (code = 0)
  | _ => true

/-- TRAPINFO of a decode trap (Table 3.8). -/
def decInfo (reason detail : Nat) : Word := BitVec.ofNat 64 (reason * 2 ^ 32 + detail)

/-- Check 3 (R96): reserved values, unused fields, and what the entry requires. -/
def check3 (f : Form) (sl : Slot) : Bool :=
  decide (sl.sg ≠ 15) && decide (sl.lg ≠ 15) && decide (sl.scp.toNat ≤ 4) && decide (sl.tset ≠ 3)
    && decide (sl.ch.toNat < 4) && (f.lanes || decide (sl.lg = 7)) && (f.scp || decide (sl.scp = 0))
    && (f.ch || decide (sl.ch = 0)) && (f.tok || decide (sl.tset = 0))
    && unusedOk f.d sl.d && unusedOk f.a sl.a && unusedOk f.b sl.b && unusedOk f.c sl.c && unusedOk f.e sl.e
    && f.rest

/-- Check 4 (R96): the first operand field that fails, in the order D, A, B, C, E: its reason, field and
code. -/
def check4 (f : Form) (g ns : Nat) (tm : Bool) (sl : Slot) : Option (Nat × Nat × BitVec 10) :=
  match opndReason f g ns tm f.d sl.d with
  | some r => some (r, 0, sl.d)
  | none =>
    match opndReason f g ns tm f.a sl.a with
    | some r => some (r, 1, sl.a)
    | none =>
      match opndReason f g ns tm f.b sl.b with
      | some r => some (r, 2, sl.b)
      | none =>
        match opndReason f g ns tm f.c sl.c with
        | some r => some (r, 3, sl.c)
        | none =>
          match opndReason f g ns tm f.e sl.e with
          | some r => some (r, 4, sl.e)
          | none => none

/-- The trap of checks 2 to 4: cause and TRAPINFO (R96, R97). -/
def decodeTrap (f : Form) (g ns : Nat) (tm : Bool) (sl : Slot) : Option (Nat × Word) :=
  if ¬ f.sub then some (1, decInfo 2 0)
  else if ¬ f.ty then some (1, decInfo 3 0)
  else if ¬ check3 f sl then some (1, decInfo 4 0)
  else match check4 f g ns tm sl with
  | some (r, fld, code) => some (2, decInfo r (fld * 2 ^ 10 + code.toNat))
  | none => none

/-! ### Control and mask instructions (R101 to R119) -/

/-- A slot with every operand field, SUB, TY and MOD 0. -/
def fBare (sl : Slot) : Form := { sub := decide (sl.sub = 0), ty := ty0 sl, rest := decide (sl.md = 0) }

/-- As `fBare` with IMM 0. -/
def fBare0 (sl : Slot) : Form := { fBare sl with rest := decide (sl.md = 0) && decide (sl.imm = 0) }

/-- NOP: any nonzero field but SUB gives REASON 4 (R113). -/
def fNop (sl : Slot) : Form := { fBare0 sl with ty := true, rest := decide (sl.md = 0) && decide (sl.imm = 0) && ty0 sl }

def fBra (sl : Slot) : Form := { fBare sl with immUsed := true }
def fBrx (sl : Slot) : Form := { fBare0 sl with a := .src [.s, .kc] 1 }
def fCall (sl : Slot) : Form := { fBare sl with d := oSd, immUsed := true }
def fCallx (sl : Slot) : Form := { fBare0 sl with d := oSd, a := .src [.s, .kc] 1 }
def fLoop (sl : Slot) : Form := { fBare sl with d := oSd, immUsed := true }
def fBrp (sl : Slot) : Form := { fBare sl with sub := decide (subN sl ≤ 1), a := oVpOnly, immUsed := true }
def fLexit (sl : Slot) : Form := { fBare sl with lanes := true }
def fMpush (sl : Slot) : Form := { fBare sl with sub := decide (subN sl ≤ 1), a := oVp }
def fMget (sl : Slot) : Form :=
  { fBare sl with
    sub := decide (subN sl ≤ 4)
    d := if subN sl = 2 then oSd else .dst [.s, .zero, .vp] 1 }
def fMset (sl : Slot) : Form := { fBare sl with d := .dst [.act] 1, a := oS }
def fSetfmt (sl : Slot) : Form := { fBare sl with sub := decide (subN sl ≤ 8), a := oS }
def fGetfmt (sl : Slot) : Form := { fBare sl with sub := decide (subN sl ≤ 8), d := oSd }

/-! ### Scalar arithmetic (R120 to R130) -/

/-- A typed scalar instruction with `n` sources; `sat` where MOD[0] is assigned. -/
def fScalar (satOk : Bool) (n : Nat) (sl : Slot) : Form :=
  { sub := decide (sl.sub = 0)
    ty := tyX sl
    rest := decide (modN sl ≤ (if satOk then 1 else 0))
    d := oSd
    a := oS
    b := if 2 ≤ n then oS else .none
    c := if 3 ≤ n then oS else .none }
def fSrot (sl : Slot) : Form := { fScalar false 2 sl with sub := decide (subN sl ≤ 1) }
def fScmp (sl : Slot) : Form := { fScalar false 2 sl with sub := decide (subN sl ≤ 5), d := .dst [.sp, .zero, .only] 1 }
def fSsel (sl : Slot) : Form := { fBare sl with d := oSd, a := .src [.sp, .only] 1, b := oS, c := oS }
def fSmov (sl : Slot) : Form := { fBare sl with sub := decide (subN sl ≤ 1), d := oSd, a := oS }
def fSlea (sl : Slot) : Form := { fBare sl with d := oSd, a := oS, b := oS, c := oS }
def fSabs (sl : Slot) : Form := { fScalar true 1 sl with ty := tyX sl && tyS sl }

/-- The kind of PLOP: that of the first field in the order D, A, B, C that does not hold zero (R130). -/
def plopKinds (sl : Slot) : List Kind :=
  match [sl.d, sl.a, sl.b, sl.c].find? fun c => decide (c ≠ 0x270) with
  | none => [.zero]
  | some c => match kindOf c with
    | some .vp => [.vp, .zero]
    | _ => [.sp, .zero]

def fPlop (sl : Slot) : Form :=
  { fBare sl with
    rest := decide (sl.md = 0) && decide (immN sl < 256)
    d := .dst (plopKinds sl) 1
    a := .src (plopKinds sl) 1
    b := .src (plopKinds sl) 1
    c := .src (plopKinds sl) 1
    immUsed := true
    immAll := true }

/-! ### Vector integer (R131 to R148) -/

/-- A vector integer instruction: greatest SUB, MOD mask 0 or 1, whether the type is accepted, sources. -/
def fVec (maxSub maxMod : Nat) (ty : Bool) (n : Nat) (sl : Slot) : Form :=
  { sub := decide (subN sl ≤ maxSub)
    ty := ty
    rest := decide (modN sl ≤ maxMod)
    lanes := true
    d := oVd
    a := oV
    b := if 2 ≤ n then oV else .none
    c := if 3 ≤ n then oV else .none }

/-- Set N of R132: integer types of width 32 or less. -/
def tyN (sl : Slot) : Bool := tyI sl && decide (tyW sl ≤ 32)

def fVlop3 (sl : Slot) : Form :=
  { fVec 0 0 (tyI sl) 3 sl with
    rest := decide (sl.md = 0) && decide (immN sl < 256)
    immUsed := true
    immAll := true }
/-- D names a vector register or push (R142, R158). -/
def vecDest (sl : Slot) : Bool := kindOf sl.d == some .v || decide (sl.d = 0x200)

def fVcmp (sl : Slot) : Form :=
  { fVec 5 1 (tyI sl) 2 sl with
    d := .dst [.v, .q, .zero, .vp] 1
    rest := decide (modN sl ≤ 1)
      && !(decide (sl.md = 1) && vecDest sl) }
def fVsel (sl : Slot) : Form :=
  { fVec 1 0 (tyI sl) 3 sl with a := if sl.sub = 0 then oVpOnly else oV }
/-- The field control of VBFE and VBFI (R143). -/
def oCtl : Opnd := .src [.s, .zero, .kc, .imm, .only] 1
def fVbfe (sl : Slot) : Form := { fVec 0 0 (tyI sl) 2 sl with b := oCtl }
def fVbfi (sl : Slot) : Form := { fVec 0 0 (tyI sl) 3 sl with c := oCtl }

/-! ### Vector float (R149 to R164) -/

/-- The rounding field of MOD (Table 6.2). -/
def modRnd (sl : Slot) : Nat := modN sl / 4
/-- The part field of MOD (Table 6.2). -/
def modPart (sl : Slot) : Nat := modN sl % 4

/-- PART below wmax / wmin for a typed form; the widths of a `.fmt` form come from FMT (R150). -/
def partOk (sl : Slot) (ws : List Nat) : Bool :=
  tyIsFmt sl || decide (modPart sl < ws.foldl max 1 / ws.foldl min 64)

/-- A float instruction with `n` sources, whether it rounds, and the widths of its typed form. -/
def fFlt (maxSub : Nat) (ty rnds : Bool) (ws : List Nat) (n : Nat) (sl : Slot) : Form :=
  { sub := decide (subN sl ≤ maxSub)
    ty := ty
    rest := partOk sl ws && (decide (modRnd sl = 0) || (rnds && !tyIsFmt sl))
    lanes := true
    d := oVd
    a := oV
    b := if 2 ≤ n then oV else .none
    c := if 3 ≤ n then oV else .none }

/-- F or `.fmt`. -/
def tyFF (sl : Slot) : Bool := tyF sl || tyIsFmt sl

/-- The MOD bits of FCMP and FCLASS: PART, `.any` in MOD[2] with a predicate destination only, MOD[3] 0. -/
def cmpMod (sl : Slot) : Bool :=
  decide (modN sl < 8) && partOk sl [fmtW sl]
    && !(decide (4 ≤ modN sl) && vecDest sl)

def fFcmp (sl : Slot) : Form :=
  { fFlt 7 (tyFF sl) false [] 2 sl with rest := cmpMod sl, d := .dst [.v, .q, .zero, .vp] 1 }
/-- FCLASS reads one format, so PART is 0 in every form (R150, R159). -/
def fFclass (sl : Slot) : Form :=
  { fFlt 0 (tyFF sl) false [] 1 sl with
    rest := cmpMod sl && decide (modPart sl = 0) && decide (immN sl < 8192)
    d := .dst [.v, .q, .zero, .vp] 1
    immUsed := true
    immAll := true }
def fFrnd (sl : Slot) : Form :=
  let f := fFlt 1 (tyFF sl) true [fmtW sl] 1 sl
  { f with rest := f.rest && (decide (sl.sub = 0) || decide (modRnd sl = 0)) }
def fFdot2 (sl : Slot) : Form :=
  let f := fFlt 0 (tyIn [8, 9, 11, 12, 15] sl) true [] 3 sl
  { f with rest := decide (modPart sl = 0) && (decide (modRnd sl = 0) || !tyIsFmt sl) }
/-- FQSUM's formats share one width in the typed forms; a `.fmt` form has no part (R155). -/
def fFqsum (sl : Slot) : Form :=
  { fFlt 0 (tyIn [8, 9, 10, 15] sl) true [fmtW sl] 1 sl with c := oV }
def fSpecial (sl : Slot) : Form := { fFlt 0 (tyFF sl) true [fmtW sl] 1 sl with tok := true }

/-- The width of the source of a typed FCVT (R163). -/
def cvtW (sl : Slot) : Nat := ((Fmt.ofCode (subN sl)).map Fmt.width).getD 64
def fFcvt (sl : Slot) : Form :=
  { fFlt 15 (tyFF sl) true [fmtW sl, cvtW sl] 1 sl with
    sub := if tyIsFmt sl then decide (sl.sub = 0) else decide (8 ≤ subN sl) && decide (subN sl ≤ 14) }

/-- The integer type of a typed FCVTI (R164). -/
def cviTy (sl : Slot) : Nat × Bool :=
  match subN sl % 8 with
  | 0 => (8, true) | 1 => (8, false) | 2 => (16, true) | 3 => (16, false)
  | 4 => (32, true) | 5 => (32, false) | 6 => (64, true) | _ => (64, false)
def fFcvti (sl : Slot) : Form :=
  let wi := (cviTy sl).1
  let wf := fmtW sl
  { fFlt 15 (tyIsFmt sl || (tyF sl && decide (wi ≤ 4 * wf) && decide (wf ≤ 4 * wi))) true [wf, wi] 1 sl with
    sub := !tyIsFmt sl || decide (sl.sub = 0) }

/-! ### Lanes, transfer slots and bins (R165 to R189) -/

/-- Integer types, F and st8. -/
def tyIFs (sl : Slot) : Bool := tyI sl || tyF sl || tySt8 sl

def fShfl (sl : Slot) : Form :=
  { sub := decide (subN sl ≤ 3)
    ty := tyIFs sl && !(decide (sl.sub = 0) && decide (fmtW sl = 4))
    rest := decide (sl.md = 0)
    lanes := true
    tok := decide (sl.sub = 0)
    d := oVd
    a := oV
    b := if sl.sub = 0 then oV else oS }
def fVote (sl : Slot) : Form :=
  { fBare sl with
    sub := decide (subN sl ≤ 3)
    lanes := true
    d := .dst (if subN sl = 2 then [.s, .vp, .zero, .lane, .only] else [.sp, .s, .zero, .lane, .only]) 1
    a := oVp }

/-- MOD of LRED and LSCAN: `.sat` only with add on an integer type, RND only with add on F (R169). -/
def redMod (sl : Slot) : Bool :=
  let add := decide (subN sl % 8 = 0)
  decide (modN sl = 0) || (add && tyI sl && decide (modN sl = 1)) || (add && tyF sl && decide (modN sl % 4 = 0))

def fLred (sl : Slot) : Form :=
  { sub := decide (subN sl ≤ 5)
    ty := tyI sl || (tyF sl && decide (subN sl ≤ 2))
    rest := redMod sl
    lanes := true
    d := oSd
    a := oV }
def fLscan (sl : Slot) : Form :=
  { sub := decide (subN sl % 8 ≤ 5)
    ty := tyI sl || (tyF sl && decide (subN sl % 8 ≤ 2))
    rest := redMod sl
    lanes := true
    d := oVd
    a := oV }
def fMatch (sl : Slot) : Form := fVec 0 0 (tyI sl && decide (tyW sl = 64)) 1 sl
def fVget (sl : Slot) : Form :=
  { sub := decide (sl.sub = 0), ty := tyIFs sl, rest := decide (sl.md = 0), d := oSd
    a := .src [.v, .q] 1, b := oS }
def fVset (sl : Slot) : Form :=
  { sub := decide (sl.sub = 0), ty := tyIFs sl, rest := decide (sl.md = 0), lanes := true
    d := .dst [.v, .only] 1, a := oS, b := oS }

/-- The register count of a vector transfer or an LDX, from TY (Table 3.2). -/
def cntN (sl : Slot) : Nat := 2 ^ (tyCode sl % 4)
/-- The register count of a scalar transfer, IMM[9:4] (Table 7.3). -/
def xferN (sl : Slot) : Nat := immN sl / 16 % 64

/-- The type and IMM of XSEND and XRECV (R173). -/
def xferTy (sl : Slot) : Bool := if sl.sub = 0 then tyCnt sl else ty0 sl
def xferImm (sl : Slot) : Bool :=
  if sl.sub = 0 then decide (immN sl < 16)
  else decide (immN sl < 1024) && decide (1 ≤ xferN sl) && decide (xferN sl ≤ 32)

def fXsend (sl : Slot) : Form :=
  { sub := decide (subN sl ≤ 1), ty := xferTy sl, rest := decide (sl.md = 0) && xferImm sl
    a := if sl.sub = 0 then .src [.v, .que] (cntN sl) else .src [.s, .que] (xferN sl)
    immUsed := true }
def fXrecv (sl : Slot) : Form :=
  { sub := decide (subN sl ≤ 1), ty := xferTy sl, rest := decide (sl.md = 0) && xferImm sl
    lanes := decide (sl.sub = 0), tok := true
    d := if sl.sub = 0 then .dst [.v, .zero, .que] (cntN sl) else .dst [.s, .zero, .que] (xferN sl)
    immUsed := true }
def fXprobe (sl : Slot) : Form :=
  { fBare sl with
    sub := decide (subN sl ≤ 1), rest := decide (sl.md = 0) && decide (immN sl < 16), tok := true
    d := .dst [.sp, .s, .zero] 1, immUsed := true }

def fBininit (sl : Slot) : Form := { fBare sl with tok := true, a := oSr 1 }
def fSusp (sl : Slot) : Form :=
  { fBare sl with lanes := true, tok := true, d := oSd, a := oSr 1, b := .src [.v] 1 }
def fResume (sl : Slot) : Form := { fBare sl with tok := true, d := oSd, a := oSr 1, b := .src [.v] 1 }
def fWakeRows (sl : Slot) : Form := { fBare sl with a := oSr 1, b := oS, c := oS }
def fWakeLanes (sl : Slot) : Form := { fBare sl with sub := decide (subN sl = 1), lanes := true, a := oSr 1, b := oVni }
def fWakeAll (sl : Slot) : Form := { fBare sl with sub := decide (subN sl = 2), a := oSr 1 }
def fBinq (sl : Slot) : Form := { fBare sl with sub := decide (subN sl ≤ 2), tok := true, d := oSd, a := oSr 1 }
def fFxform (sl : Slot) : Form :=
  { sub := decide (subN sl ≤ 8)
    ty := tyI sl || (tyF sl && (decide (subN sl ≤ 4) || decide (subN sl = 8)))
    rest := decide (modN sl = 0) || (decide (subN sl ≤ 2) && tyI sl && decide (modN sl = 1))
      || (decide (subN sl ≤ 2) && tyF sl && decide (modN sl % 4 = 0))
    a := oSr 1
    b := .src (.rep :: ksS) 1
    c := oSz }
def fBindropRows (sl : Slot) : Form := fWakeRows sl
def fBindropSet (sl : Slot) : Form :=
  { fBare sl with sub := decide (subN sl = 1) || decide (subN sl = 2), a := oSr 1 }

/-! ### Memory and synchronisation (R190 to R218) -/

/-- ORD, MOD[1:0] (Table 8.3). -/
def ord (sl : Slot) : Nat := modN sl % 4

/-- A memory instruction: MOD[3:2] 0 and ORD among the listed orders (R196). -/
def fMem (sub ty : Bool) (ords : List Nat) (sl : Slot) : Form :=
  { sub := sub, ty := ty, rest := decide (modN sl < 4) && ords.contains (ord sl), scp := true, ch := true
    immUsed := true }

/-- A plain load or store: with ORD 0, SCP 0 (R196). -/
def fLdSt (ty : Bool) (ords : List Nat) (lanes tok : Bool) (sl : Slot) : Form :=
  let f := fMem (decide (sl.sub = 0)) ty ords sl
  { f with rest := f.rest && (decide (ord sl ≠ 0) || decide (sl.scp = 0)), lanes := lanes, tok := tok }

def fLd (sl : Slot) : Form := { fLdSt (tyX sl) [0, 1] true true sl with d := oVd, a := oBase }
def fSt (sl : Slot) : Form := { fLdSt (tyX sl) [0, 2] true false sl with a := oBase, b := oV }
def fLdx (sl : Slot) : Form := { fLdSt (tyCnt sl) [0, 1] true true sl with d := .dst [.v, .zero] (cntN sl), a := oBase }
def fStx (sl : Slot) : Form := { fLdSt (tyCnt sl) [0, 2] true false sl with a := oBase, b := .src [.v] (cntN sl) }
def fLds (sl : Slot) : Form := { fLdSt (tyX sl) [0, 1] false true sl with d := oSd, a := oSz }
def fSts (sl : Slot) : Form := { fLdSt (tyX sl) [0, 2] false false sl with a := oSz, b := oS }
def fLdb (sl : Slot) : Form := { fLdSt (ty0 sl) [0, 1] true true sl with d := oVd, a := oSz }
def fStb (sl : Slot) : Form := { fLdSt (ty0 sl) [0, 2] true false sl with a := oSz, b := oV }

/-- The pairings of operation and type of Table 8.6. -/
def atomTy (sl : Slot) : Bool :=
  let i4 := tyX sl && decide (32 ≤ tyW sl)
  match subN sl with
  | 0 => i4 || tyIn [13] sl
  | 1 | 2 | 6 | 7 => i4 || tyIn [13, 10] sl
  | 3 | 4 | 5 => i4
  | 8 | 9 => i4 && !tyS sl
  | 10 => tyIn [8, 9, 10] sl
  | _ => true

def fAtom (sl : Slot) : Form :=
  { fMem (decide (subN sl ≤ 9)) (atomTy sl) [0, 1, 2, 3] sl with
    lanes := true, tok := true, d := oVd, a := oBase, b := oV, c := if subN sl = 7 then oV else .none }
def fAtoms (sl : Slot) : Form :=
  { fMem (decide (subN sl ≤ 9)) (atomTy sl) [0, 1, 2, 3] sl with
    tok := true, d := oSd, a := oSz, b := oS, c := if subN sl = 7 then oS else .none }
def fRed (sl : Slot) : Form :=
  { fMem (decide (subN sl ≤ 10) && decide (subN sl ≠ 6) && decide (subN sl ≠ 7)) (atomTy sl) [0, 2] sl with
    lanes := true, a := oBase, b := oV }
def fFence (sl : Slot) : Form :=
  let f := fMem (decide (sl.sub = 0)) (ty0 sl) [1, 2, 3] sl
  { f with ch := false, rest := f.rest && decide (sl.imm = 0) }
def fPref (maxSub : Nat) (sl : Slot) : Form :=
  { fMem (decide (subN sl ≤ maxSub)) (ty0 sl) [0] sl with scp := false, lanes := true, a := oBase }
def fWaitp (sl : Slot) : Form :=
  { fMem (decide (subN sl ≤ 2)) (ty0 sl) [0, 1] sl with
    ch := false, tok := true, d := oSpd, a := oSz, b := oS, c := oS }
def fBoinit (sl : Slot) : Form :=
  { fBare sl with rest := decide (sl.md = 0) && decide (immN sl < 65536), a := oSz, immUsed := true }
def fBoarr (sl : Slot) : Form :=
  { fBare sl with sub := decide (subN sl ≤ 1), tok := true, d := oSd, a := oSz, b := oS, immUsed := true }
def fBojoin (sl : Slot) : Form := { fBare sl with a := oSz, immUsed := true }
def fBoleave (sl : Slot) : Form := { fBojoin sl with sub := decide (subN sl ≤ 1) }
def fLbar (sl : Slot) : Form := { fBare0 sl with tok := true }

/-- The element length of ENQ and DEQ, IMM[5:0] (R217). -/
def ringN (sl : Slot) : Nat := immN sl % 64
def fRing (dq : Bool) (sl : Slot) : Form :=
  { fBare sl with
    rest := decide (sl.md = 0) && decide (immN sl < 64) && decide (1 ≤ ringN sl) && decide (ringN sl ≤ 32)
    tok := true
    d := oSpd
    a := oSr 1
    b := if dq then .dst [.s] (ringN sl) else .src [.s] (ringN sl)
    immUsed := true }

/-! ### Asynchronous engines (R219 to R248) -/

/-- Operand E by the notification (Table 9.8). -/
def oNtf (sl : Slot) : Opnd := if sl.md = 0 then .none else oSr 1

/-- SCP 1 to 4, the notification, and IMM 0 where it has no use (R240, Table 9.8). -/
def ntfOk (sl : Slot) : Bool :=
  decide (modN sl ≤ 4) && decide (sl.scp ≠ 0) && (decide (2 ≤ modN sl) || decide (sl.imm = 0))

def fCopy (n : Nat) (sl : Slot) : Form :=
  { sub := decide (sl.sub = 0), ty := ty0 sl, rest := ntfOk sl, scp := true
    a := oSr 1, b := oSr 1, c := oSr n, e := oNtf sl, immUsed := true }
def fColl (sl : Slot) : Form :=
  { sub := decide (sl.sub = 0), ty := ty0 sl, rest := ntfOk sl, scp := true
    a := oSr 1, e := oNtf sl, immUsed := true }
def fAfence (sl : Slot) : Form := { fBare0 sl with sub := decide (subN sl ≤ 4), tok := true, d := oSd }
def fPost (sl : Slot) : Form :=
  { fBare sl with
    sub := decide (subN sl ≤ 2)
    rest := decide (sl.md = 0) && decide (immN sl < (if subN sl = 1 then 4 else 1))
    a := oSr 1
    b := if subN sl = 2 then oS else .none
    immUsed := true }
def fTierh (n : Nat) (sl : Slot) : Form := { fBare0 sl with sub := decide (subN sl = n), a := oSr 1, b := oSr 1 }

/-- The tile of a matrix instruction, IMM[6:0]. -/
def tileN (sl : Slot) : Nat := immN sl % 128
/-- IMM[15:8]: a column or a count (Table 9.5). -/
def colN (sl : Slot) : Nat := immN sl / 256 % 256

def fMma (tys : List Nat) (maxMod : Nat) (sl : Slot) : Form :=
  { sub := decide (sl.sub = 0)
    ty := tyIn tys sl
    rest := decide (modN sl ≤ maxMod) && (decide (modN sl % 2 = 0) || tyIn [0, 1] sl) && decide (immN sl < 128)
    lanes := true
    a := oSr 1
    b := oSr 1
    c := oSz
    e := if tySt8 sl then oSr 1 else .none
    immUsed := true }
def fAccz (sl : Slot) : Form :=
  { fBare sl with rest := decide (sl.md = 0) && decide (immN sl < 128), lanes := true, immUsed := true }
def fAccld (sl : Slot) : Form :=
  { fAccz sl with
    rest := decide (sl.md = 0) && decide (immN sl < 128) && decide (sl.scp ≠ 0)
    scp := true, a := oSr 1, c := oSz }
/-- The output types of ACCST and ACCRD (R228). -/
def tyOut (sl : Slot) : Bool := tyIn [0, 2, 4, 8, 9, 10, 11, 12, 13, 15] sl
def fAccst (sl : Slot) : Form :=
  { fAccld sl with
    sub := decide (subN sl ≤ 1)
    ty := if sl.sub = 0 then tyOut sl else ty0 sl
    rest := decide (modPart sl = 0) && decide (immN sl < 128) && decide (sl.scp ≠ 0)
      && (decide (modRnd sl = 0) || (decide (sl.sub = 0) && !tyIsFmt sl)) }
def accImm (sl : Slot) : Bool := decide (immN sl < 65536) && decide (immN sl / 128 % 2 = 0)
def fAccrd (sl : Slot) : Form :=
  { sub := decide (sl.sub = 0), ty := tyOut sl
    rest := accImm sl && (decide (modRnd sl = 0) || !tyIsFmt sl), lanes := true, tok := true
    d := .dst [.v, .zero] (2 ^ modPart sl), immUsed := true }
def fAccwr (sl : Slot) : Form :=
  { sub := decide (sl.sub = 0), ty := tyIn [0, 2, 4, 8, 9, 10, 11, 12, 13] sl
    rest := accImm sl && decide (modN sl < 4), lanes := true
    a := .src [.v] (2 ^ modPart sl), immUsed := true }
def fAccalloc (sl : Slot) : Form :=
  { fBare sl with
    sub := decide (subN sl ≤ 3)
    rest := decide (sl.md = 0) && decide (1 ≤ immN sl) && decide (immN sl ≤ 128), tok := true, d := oSd
    immUsed := true }
def fAccstat (sl : Slot) : Form :=
  { fBare sl with
    sub := decide (subN sl = 4), rest := decide (sl.md = 0) && decide (immN sl < 128), tok := true, d := oSd
    immUsed := true }
def fAccfree (sl : Slot) : Form :=
  { fBare sl with
    rest := decide (sl.md = 0) && accImm sl && decide (1 ≤ colN sl) && decide (colN sl ≤ 128)
    immUsed := true }
def fSppack (n : Nat) (sl : Slot) : Form :=
  { sub := decide (subN sl = n), ty := tyIn [8, 0, 1, 9, 12] sl
    rest := decide (sl.md = 0) && decide (sl.imm = 0), lanes := decide (n = 0)
    a := oSr 1, b := oSr 1, c := oSz, immUsed := true }

/-! ### System instructions (R249 to R264) -/

def fTrap (sl : Slot) : Form :=
  { fBare sl with rest := decide (sl.md = 0) && decide (immN sl < 256), immUsed := true }
def fRtt (n : Nat) (sl : Slot) : Form :=
  { fBare0 sl with sub := decide (subN sl = n), a := if n = 2 then oSr 1 else .none }

/-- Numbers that Table 10.1 lists. -/
def sysRegs : List Nat :=
  [0, 1, 2, 3, 4, 5, 6, 8, 9, 0xA, 0xB, 0xC, 0xD, 0xE, 0x10, 0x11, 0x12, 0x13, 0x14, 0x15, 0x16]
def fSrget (sl : Slot) : Form :=
  { fBare sl with rest := decide (sl.md = 0) && sysRegs.contains (immN sl), tok := true, d := oSd, immUsed := true }
def fSrset (sl : Slot) : Form :=
  { fBare sl with rest := decide (sl.md = 0) && [4, 5, 0x16].contains (immN sl), a := oS, immUsed := true }

/-- IMM of HGET and HSET (R257). -/
def hImm (set : Bool) (sl : Slot) : Bool :=
  match subN sl with
  | 0 => decide (immN sl < 512)
  | 1 => decide (immN sl < 96)
  | _ => if set then decide (immN sl = 0) || decide (immN sl = 2) else decide (immN sl ≤ 4)
/-- The code of the interrupted group's register that IMM names, reported in a FIELD of its own (assumption log 68). -/
def hOwn (fld : Nat) (sl : Slot) : Option (Nat × BitVec 10) :=
  match subN sl with
  | 0 => some (fld, BitVec.ofNat 10 (immN sl))
  | 1 => some (fld, BitVec.ofNat 10 (0x210 + immN sl))
  | _ => none
def fHget (sl : Slot) : Form :=
  { fBare sl with
    own := hOwn 1 sl
    sub := decide (subN sl ≤ 2), rest := decide (sl.md = 0) && hImm false sl, tok := true
    d := if sl.sub = 0 then .dst [.v, .q, .zero] 1 else oSd, immUsed := true }
def fHset (sl : Slot) : Form :=
  { fBare sl with
    own := hOwn 0 sl
    sub := decide (subN sl ≤ 2), rest := decide (sl.md = 0) && hImm true sl
    a := if sl.sub = 0 then .src [.v] 1 else oS, immUsed := true }
/-- BOOST: IMM is 0 unless an operand reads it (R264). -/
def fBoost (sl : Slot) : Form :=
  { fBare sl with
    rest := decide (sl.md = 0) && (decide (sl.imm = 0) || decide (sl.a = 0x274) || decide (sl.b = 0x274))
    tok := true, d := oSd, a := oS, b := oS }
def fReplay (n : Nat) (sl : Slot) : Form := { fBare0 sl with sub := decide (subN sl = n), tok := true, d := oSpd, a := oSr 1 }
def fMeas (sl : Slot) : Form :=
  { fBare sl with
    rest := decide (sl.md = 0) && decide (immN sl < 16), tok := true, d := oSpd, a := oSr 1, b := oSr 1
    immUsed := true }
def fCancel (sl : Slot) : Form := { fBare0 sl with sub := decide (subN sl ≤ 3), tok := true, d := oSpd, a := oSr 1 }

end Sys2Proof.Machine
end

