-- ==== Sys2Proof/WellFormed.lean ====
section
/-! DEFINITION. Well-formed instructions: which slots pass the decode checks 1 to 3 of R96 and the part of
check 4 that no group's allotment changes. A row that is a step of another agent has no slot. -/

namespace Sys2Proof

open Machine

/-- The opcode and the slot of an instruction row; none for a step of another agent (Table 3.6). -/
def slotOf (i : Instr) : Option (BitVec 8 × Slot) :=
  match i with
  | .nop sl => some (0x01, sl)
  | .bra sl => some (0x02, sl)
  | .brx sl => some (0x03, sl)
  | .call sl => some (0x04, sl)
  | .callx sl => some (0x05, sl)
  | .loop sl => some (0x06, sl)
  | .brany sl => some (0x07, sl)
  | .brall sl => some (0x08, sl)
  | .exit sl => some (0x09, sl)
  | .lexit sl => some (0x0A, sl)
  | .yield sl => some (0x0B, sl)
  | .mpush sl => some (0x0C, sl)
  | .melse sl => some (0x0D, sl)
  | .mpop sl => some (0x0E, sl)
  | .mget sl => some (0x0F, sl)
  | .mset sl => some (0x10, sl)
  | .setfmt sl => some (0x11, sl)
  | .getfmt sl => some (0x12, sl)
  | .sadd sl => some (0x20, sl)
  | .ssub sl => some (0x21, sl)
  | .smul sl => some (0x22, sl)
  | .smulh sl => some (0x23, sl)
  | .sdiv sl => some (0x24, sl)
  | .srem sl => some (0x25, sl)
  | .sand sl => some (0x26, sl)
  | .sor sl => some (0x27, sl)
  | .sxor sl => some (0x28, sl)
  | .sandn sl => some (0x29, sl)
  | .sshl sl => some (0x2A, sl)
  | .sshr sl => some (0x2B, sl)
  | .ssar sl => some (0x2C, sl)
  | .srot sl => some (0x2D, sl)
  | .smin sl => some (0x2E, sl)
  | .smax sl => some (0x2F, sl)
  | .scmp sl => some (0x30, sl)
  | .ssel sl => some (0x31, sl)
  | .smov sl => some (0x32, sl)
  | .spopc sl => some (0x33, sl)
  | .sclz sl => some (0x34, sl)
  | .sctz sl => some (0x35, sl)
  | .sbfe sl => some (0x36, sl)
  | .sbfi sl => some (0x37, sl)
  | .slea sl => some (0x38, sl)
  | .plop sl => some (0x39, sl)
  | .sabs sl => some (0x3A, sl)
  | .sbrev sl => some (0x3B, sl)
  | .vadd sl => some (0x40, sl)
  | .vsub sl => some (0x41, sl)
  | .vmul sl => some (0x42, sl)
  | .vmulh sl => some (0x43, sl)
  | .vmad sl => some (0x44, sl)
  | .vsad sl => some (0x45, sl)
  | .vdot4 sl => some (0x46, sl)
  | .vmin sl => some (0x47, sl)
  | .vmax sl => some (0x48, sl)
  | .vabs sl => some (0x49, sl)
  | .vneg sl => some (0x4A, sl)
  | .vavg sl => some (0x4B, sl)
  | .vand sl => some (0x4C, sl)
  | .vor sl => some (0x4D, sl)
  | .vxor sl => some (0x4E, sl)
  | .vandn sl => some (0x4F, sl)
  | .vnot sl => some (0x50, sl)
  | .vlop3 sl => some (0x51, sl)
  | .vshl sl => some (0x52, sl)
  | .vshr sl => some (0x53, sl)
  | .vsar sl => some (0x54, sl)
  | .vrol sl => some (0x55, sl)
  | .vror sl => some (0x56, sl)
  | .vfshl sl => some (0x57, sl)
  | .vcmp sl => some (0x58, sl)
  | .vsel sl => some (0x59, sl)
  | .vpopc sl => some (0x5A, sl)
  | .vclz sl => some (0x5B, sl)
  | .vctz sl => some (0x5C, sl)
  | .vbrev sl => some (0x5D, sl)
  | .vbfe sl => some (0x5E, sl)
  | .vbfi sl => some (0x5F, sl)
  | .vprmb sl => some (0x60, sl)
  | .vwiden sl => some (0x61, sl)
  | .vnarrow sl => some (0x62, sl)
  | .vpack sl => some (0x63, sl)
  | .vmov sl => some (0x64, sl)
  | .vdiv sl => some (0x65, sl)
  | .vrem sl => some (0x66, sl)
  | .fadd sl => some (0x70, sl)
  | .fsub sl => some (0x71, sl)
  | .fmul sl => some (0x72, sl)
  | .ffma sl => some (0x73, sl)
  | .fmin sl => some (0x74, sl)
  | .fmax sl => some (0x75, sl)
  | .fabs sl => some (0x76, sl)
  | .fneg sl => some (0x77, sl)
  | .fcmp sl => some (0x78, sl)
  | .fclass sl => some (0x79, sl)
  | .frnd sl => some (0x7A, sl)
  | .fscale sl => some (0x7B, sl)
  | .fdot2 sl => some (0x7C, sl)
  | .frcp sl => some (0x7D, sl)
  | .frsq sl => some (0x7E, sl)
  | .fsqrt sl => some (0x7F, sl)
  | .fexp2 sl => some (0x80, sl)
  | .flog2 sl => some (0x81, sl)
  | .fsin sl => some (0x82, sl)
  | .fcos sl => some (0x83, sl)
  | .ftanh sl => some (0x84, sl)
  | .fsigm sl => some (0x85, sl)
  | .fcvt sl => some (0x86, sl)
  | .fcvti sl => some (0x87, sl)
  | .fqsum sl => some (0x88, sl)
  | .shfl sl => some (0x90, sl)
  | .vote sl => some (0x91, sl)
  | .lred sl => some (0x92, sl)
  | .lscan sl => some (0x93, sl)
  | .matchLanes sl => some (0x94, sl)
  | .vget sl => some (0x95, sl)
  | .vset sl => some (0x96, sl)
  | .xsend sl => some (0x97, sl)
  | .xrecv sl => some (0x98, sl)
  | .xprobe sl => some (0x99, sl)
  | .bininit sl => some (0xA0, sl)
  | .susp sl => some (0xA1, sl)
  | .resume sl => some (0xA2, sl)
  | .wakeRows sl => some (0xA3, sl)
  | .wakeLanes sl => some (0xA3, sl)
  | .wakeAll sl => some (0xA3, sl)
  | .binq sl => some (0xA4, sl)
  | .fxform sl => some (0xA5, sl)
  | .bindropRows sl => some (0xA6, sl)
  | .bindropSet sl => some (0xA6, sl)
  | .ld sl => some (0xB0, sl)
  | .st sl => some (0xB1, sl)
  | .ldx sl => some (0xB2, sl)
  | .stx sl => some (0xB3, sl)
  | .lds sl => some (0xB4, sl)
  | .sts sl => some (0xB5, sl)
  | .ldb sl => some (0xB6, sl)
  | .stb sl => some (0xB7, sl)
  | .atom sl => some (0xB8, sl)
  | .atoms sl => some (0xB9, sl)
  | .red sl => some (0xBA, sl)
  | .fence sl => some (0xBB, sl)
  | .pref sl => some (0xBC, sl)
  | .colcln sl => some (0xBD, sl)
  | .colinv sl => some (0xBE, sl)
  | .cctl sl => some (0xBF, sl)
  | .waitp sl => some (0xC0, sl)
  | .boinit sl => some (0xC1, sl)
  | .boarr sl => some (0xC2, sl)
  | .bojoin sl => some (0xC3, sl)
  | .boleave sl => some (0xC4, sl)
  | .lbar sl => some (0xC5, sl)
  | .enq sl => some (0xC6, sl)
  | .deq sl => some (0xC7, sl)
  | .cpy sl => some (0xD0, sl)
  | .cpy2 sl => some (0xD1, sl)
  | .gath sl => some (0xD2, sl)
  | .scat sl => some (0xD3, sl)
  | .coll sl => some (0xD4, sl)
  | .afence sl => some (0xD5, sl)
  | .post sl => some (0xD6, sl)
  | .tierhNeed sl => some (0xD7, sl)
  | .tierhCold sl => some (0xD7, sl)
  | .mma sl => some (0xE0, sl)
  | .mmas sl => some (0xE1, sl)
  | .mmat sl => some (0xE2, sl)
  | .accz sl => some (0xE3, sl)
  | .accld sl => some (0xE4, sl)
  | .accst sl => some (0xE5, sl)
  | .accrd sl => some (0xE6, sl)
  | .accwr sl => some (0xE7, sl)
  | .accalloc sl => some (0xE8, sl)
  | .accallocStat sl => some (0xE8, sl)
  | .accfree sl => some (0xE9, sl)
  | .sppackRows sl => some (0xEA, sl)
  | .sppackCols sl => some (0xEA, sl)
  | .trap sl => some (0xF0, sl)
  | .rtt sl => some (0xF1, sl)
  | .rttNext sl => some (0xF1, sl)
  | .rttTo sl => some (0xF1, sl)
  | .srget sl => some (0xF2, sl)
  | .srset sl => some (0xF3, sl)
  | .hget sl => some (0xF4, sl)
  | .hset sl => some (0xF5, sl)
  | .pdone sl => some (0xF6, sl)
  | .boost sl => some (0xF7, sl)
  | .replayRetry sl => some (0xF8, sl)
  | .replayKill sl => some (0xF8, sl)
  | .meas sl => some (0xF9, sl)
  | .cancel sl => some (0xFA, sl)
  | .nonInstructionEncoding opc sl => some (opc, sl)
  | .variableResultWrite _ _ => none
  | .delayedTrap _ => none
  | .trapEntry _ => none
  | .waitpWake _ => none
  | .waitpTimeout _ => none
  | .engineStart _ => none
  | .matrixOpComplete _ => none
  | .copyUnitLand _ => none
  | .asyncOpComplete _ => none
  | .enginePageFault _ => none
  | .preemptionRequest _ _ => none
  | .forcedSave _ => none
  | .placementPass => none
  | .queuePidxWake _ _ => none
  | .packetNop _ _ => none
  | .packetLaunch _ _ => none
  | .packetBarrier _ _ => none
  | .packetCopy _ _ => none
  | .packetSignal _ _ => none
  | .packetGraph _ _ => none
  | .packetComplete => none
  | .graphNodeStart _ _ => none
  | .cannoliSpillMove => none
  | .bucketRefill => none
  | .pageWalk _ _ _ _ _ _ => none
  | .invPages => none
  | .invContext => none
  | .invFrames => none
  | .invTdmask => none
  | .moveUp => none
  | .moveDown => none
  | .pageMove => none
  | .quantumEnd => none
  | .incomingResident => none
  | .tickBoundary _ _ => none
  | .restEnd => none
  | .boostEnd => none
  | .retirePreempt => none
  | .energyWindowStart => none
  | .checkpoint => none
  | .temperatureSample _ => none
  | .marginMeasure _ => none
  | .eolhPredict => none
  | .targethWrite _ => none
  | .ebudgetWrite _ _ => none
  | .vbWarning _ _ => none
  | .vbFailure _ _ => none
  | .vbRepairDone _ _ => none
  | .vbDrainDone _ _ => none
  | .dieLoss _ => none
  | .cxlMemAccess _ _ _ => none
  | .backInvalidate _ => none
  | .queueEnWrite _ _ _ _ => none
  | .queueErrClear _ _ => none
  | .pcreate => none
  | .presize => none
  | .pdestroy => none
  | .quota => none
  | .bucket => none
  | .wcreate => none
  | .wdestroy => none
  | .ccreate => none
  | .cdestroy => none
  | .qreset => none
  | .creset => none
  | .flr => none
  | .bias => none
  | .pbset => none
  | .pdset => none
  | .pcieFlr _ => none
  | .resetEscalation => none
  | .devrst => none
  | .recgo _ => none
  | .attestationGo => none
  | .attestationDone => none
  | .attestationDoneClear => none
  | .powerGood => none
  | .bootComplete _ _ _ => none
  | .calibrateComplete _ => none
  | .zeroingComplete _ => none
  | .selfidWrite _ => none
  | .routeWrite _ _ => none
  | .linkTrained _ _ _ => none
  | .flitReceive _ _ => none
  | .nakReceive _ _ => none
  | .darkWavelengthDetect _ _ => none
  | .restripeDone _ => none
  | .linkLost _ => none
  | .peerRequestArrive _ => none
  | .peerResponseArrive _ _ => none
  | .collMatch _ _ => none
  | .collContribLand _ _ _ _ => none
  | .registerWrite _ _ _ => none
  | .orderlyPowerDown _ _ => none
  | .powerLoss => none

/-- What the entry of an instruction row says of its slot (R96); none for the other rows. -/
def formOf (i : Instr) : Option Form :=
  match i with
  | .nop sl => some (fNop sl)
  | .bra sl => some (fBra sl)
  | .brx sl => some (fBrx sl)
  | .call sl => some (fCall sl)
  | .callx sl => some (fCallx sl)
  | .loop sl => some (fLoop sl)
  | .brany sl => some (fBrp sl)
  | .brall sl => some (fBrp sl)
  | .exit sl => some (fBare sl)
  | .lexit sl => some (fLexit sl)
  | .yield sl => some (fBare sl)
  | .mpush sl => some (fMpush sl)
  | .melse sl => some (fBare sl)
  | .mpop sl => some (fBare sl)
  | .mget sl => some (fMget sl)
  | .mset sl => some (fMset sl)
  | .setfmt sl => some (fSetfmt sl)
  | .getfmt sl => some (fGetfmt sl)
  | .sadd sl => some (fScalar true 2 sl)
  | .ssub sl => some (fScalar true 2 sl)
  | .smul sl => some (fScalar true 2 sl)
  | .smulh sl => some (fScalar false 2 sl)
  | .sdiv sl => some (fScalar false 2 sl)
  | .srem sl => some (fScalar false 2 sl)
  | .sand sl => some (fScalar false 2 sl)
  | .sor sl => some (fScalar false 2 sl)
  | .sxor sl => some (fScalar false 2 sl)
  | .sandn sl => some (fScalar false 2 sl)
  | .sshl sl => some (fScalar false 2 sl)
  | .sshr sl => some (fScalar false 2 sl)
  | .ssar sl => some (fScalar false 2 sl)
  | .srot sl => some (fSrot sl)
  | .smin sl => some (fScalar false 2 sl)
  | .smax sl => some (fScalar false 2 sl)
  | .scmp sl => some (fScmp sl)
  | .ssel sl => some (fSsel sl)
  | .smov sl => some (fSmov sl)
  | .spopc sl => some (fScalar false 1 sl)
  | .sclz sl => some (fScalar false 1 sl)
  | .sctz sl => some (fScalar false 1 sl)
  | .sbfe sl => some (fScalar false 2 sl)
  | .sbfi sl => some (fScalar false 3 sl)
  | .slea sl => some (fSlea sl)
  | .plop sl => some (fPlop sl)
  | .sabs sl => some (fSabs sl)
  | .sbrev sl => some (fScalar false 1 sl)
  | .vadd sl => some (fVec 0 1 (tyI sl) 2 sl)
  | .vsub sl => some (fVec 0 1 (tyI sl) 2 sl)
  | .vmul sl => some (fVec 0 1 (tyI sl) 2 sl)
  | .vmulh sl => some (fVec 0 0 (tyI sl) 2 sl)
  | .vmad sl => some (fVec 0 1 (tyI sl) 3 sl)
  | .vsad sl => some (fVec 0 0 (tyN sl) 3 sl)
  | .vdot4 sl => some (fVec 1 1 (tyIn [0, 1] sl) 3 sl)
  | .vmin sl => some (fVec 0 0 (tyI sl) 2 sl)
  | .vmax sl => some (fVec 0 0 (tyI sl) 2 sl)
  | .vabs sl => some (fVec 0 1 (tyI sl && tyS sl) 1 sl)
  | .vneg sl => some (fVec 0 1 (tyI sl && tyS sl) 1 sl)
  | .vavg sl => some (fVec 1 0 (tyI sl) 2 sl)
  | .vand sl => some (fVec 0 0 (tyI sl) 2 sl)
  | .vor sl => some (fVec 0 0 (tyI sl) 2 sl)
  | .vxor sl => some (fVec 0 0 (tyI sl) 2 sl)
  | .vandn sl => some (fVec 0 0 (tyI sl) 2 sl)
  | .vnot sl => some (fVec 0 0 (tyI sl) 1 sl)
  | .vlop3 sl => some (fVlop3 sl)
  | .vshl sl => some (fVec 0 0 (tyI sl) 2 sl)
  | .vshr sl => some (fVec 0 0 (tyI sl) 2 sl)
  | .vsar sl => some (fVec 0 0 (tyI sl) 2 sl)
  | .vrol sl => some (fVec 0 0 (tyI sl) 2 sl)
  | .vror sl => some (fVec 0 0 (tyI sl) 2 sl)
  | .vfshl sl => some (fVec 1 0 (tyI sl) 3 sl)
  | .vcmp sl => some (fVcmp sl)
  | .vsel sl => some (fVsel sl)
  | .vpopc sl => some (fVec 0 0 (tyI sl) 1 sl)
  | .vclz sl => some (fVec 0 0 (tyI sl) 1 sl)
  | .vctz sl => some (fVec 0 0 (tyI sl) 1 sl)
  | .vbrev sl => some (fVec 0 0 (tyI sl) 1 sl)
  | .vbfe sl => some (fVbfe sl)
  | .vbfi sl => some (fVbfi sl)
  | .vprmb sl => some (fVec 0 0 (tyIn [1] sl) 3 sl)
  | .vwiden sl => some (fVec 1 0 (tyN sl) 1 sl)
  | .vnarrow sl => some (fVec 1 1 (tyN sl) 2 sl)
  | .vpack sl => some (fVec 3 0 (tyN sl) 2 sl)
  | .vmov sl => some (fVec 0 0 (tyI sl) 1 sl)
  | .vdiv sl => some (fVec 0 0 (tyI sl) 2 sl)
  | .vrem sl => some (fVec 0 0 (tyI sl) 2 sl)
  | .fadd sl => some (fFlt 0 (tyFF sl) true [fmtW sl] 2 sl)
  | .fsub sl => some (fFlt 0 (tyFF sl) true [fmtW sl] 2 sl)
  | .fmul sl => some (fFlt 0 (tyFF sl) true [fmtW sl] 2 sl)
  | .ffma sl => some (fFlt 3 (tyFF sl) true [fmtW sl] 3 sl)
  | .fmin sl => some (fFlt 1 (tyFF sl) false [fmtW sl] 2 sl)
  | .fmax sl => some (fFlt 1 (tyFF sl) false [fmtW sl] 2 sl)
  | .fabs sl => some (fFlt 0 (tyFF sl) false [fmtW sl] 1 sl)
  | .fneg sl => some (fFlt 0 (tyFF sl) false [fmtW sl] 1 sl)
  | .fcmp sl => some (fFcmp sl)
  | .fclass sl => some (fFclass sl)
  | .frnd sl => some (fFrnd sl)
  | .fscale sl => some (fFlt 0 (tyF sl) true [fmtW sl] 2 sl)
  | .fdot2 sl => some (fFdot2 sl)
  | .frcp sl => some (fSpecial sl)
  | .frsq sl => some (fSpecial sl)
  | .fsqrt sl => some (fSpecial sl)
  | .fexp2 sl => some (fSpecial sl)
  | .flog2 sl => some (fSpecial sl)
  | .fsin sl => some (fSpecial sl)
  | .fcos sl => some (fSpecial sl)
  | .ftanh sl => some (fSpecial sl)
  | .fsigm sl => some (fSpecial sl)
  | .fcvt sl => some (fFcvt sl)
  | .fcvti sl => some (fFcvti sl)
  | .fqsum sl => some (fFqsum sl)
  | .shfl sl => some (fShfl sl)
  | .vote sl => some (fVote sl)
  | .lred sl => some (fLred sl)
  | .lscan sl => some (fLscan sl)
  | .matchLanes sl => some (fMatch sl)
  | .vget sl => some (fVget sl)
  | .vset sl => some (fVset sl)
  | .xsend sl => some (fXsend sl)
  | .xrecv sl => some (fXrecv sl)
  | .xprobe sl => some (fXprobe sl)
  | .bininit sl => some (fBininit sl)
  | .susp sl => some (fSusp sl)
  | .resume sl => some (fResume sl)
  | .wakeRows sl => some (fWakeRows sl)
  | .wakeLanes sl => some (fWakeLanes sl)
  | .wakeAll sl => some (fWakeAll sl)
  | .binq sl => some (fBinq sl)
  | .fxform sl => some (fFxform sl)
  | .bindropRows sl => some (fBindropRows sl)
  | .bindropSet sl => some (fBindropSet sl)
  | .ld sl => some (fLd sl)
  | .st sl => some (fSt sl)
  | .ldx sl => some (fLdx sl)
  | .stx sl => some (fStx sl)
  | .lds sl => some (fLds sl)
  | .sts sl => some (fSts sl)
  | .ldb sl => some (fLdb sl)
  | .stb sl => some (fStb sl)
  | .atom sl => some (fAtom sl)
  | .atoms sl => some (fAtoms sl)
  | .red sl => some (fRed sl)
  | .fence sl => some (fFence sl)
  | .pref sl => some (fPref 3 sl)
  | .colcln sl => some (fBare0 sl)
  | .colinv sl => some (fBare0 sl)
  | .cctl sl => some (fPref 2 sl)
  | .waitp sl => some (fWaitp sl)
  | .boinit sl => some (fBoinit sl)
  | .boarr sl => some (fBoarr sl)
  | .bojoin sl => some (fBojoin sl)
  | .boleave sl => some (fBoleave sl)
  | .lbar sl => some (fLbar sl)
  | .enq sl => some (fRing false sl)
  | .deq sl => some (fRing true sl)
  | .cpy sl => some (fCopy 1 sl)
  | .cpy2 sl => some (fCopy 2 sl)
  | .gath sl => some (fCopy 3 sl)
  | .scat sl => some (fCopy 3 sl)
  | .coll sl => some (fColl sl)
  | .afence sl => some (fAfence sl)
  | .post sl => some (fPost sl)
  | .tierhNeed sl => some (fTierh 0 sl)
  | .tierhCold sl => some (fTierh 1 sl)
  | .mma sl => some (fMma [8, 14, 0, 1, 9, 12, 10] 1 sl)
  | .mmas sl => some (fMma [8, 0, 1, 9, 12] 3 sl)
  | .mmat sl => some (fMma [0, 1] 0 sl)
  | .accz sl => some (fAccz sl)
  | .accld sl => some (fAccld sl)
  | .accst sl => some (fAccst sl)
  | .accrd sl => some (fAccrd sl)
  | .accwr sl => some (fAccwr sl)
  | .accalloc sl => some (fAccalloc sl)
  | .accallocStat sl => some (fAccstat sl)
  | .accfree sl => some (fAccfree sl)
  | .sppackRows sl => some (fSppack 0 sl)
  | .sppackCols sl => some (fSppack 1 sl)
  | .trap sl => some (fTrap sl)
  | .rtt sl => some (fRtt 0 sl)
  | .rttNext sl => some (fRtt 1 sl)
  | .rttTo sl => some (fRtt 2 sl)
  | .srget sl => some (fSrget sl)
  | .srset sl => some (fSrset sl)
  | .hget sl => some (fHget sl)
  | .hset sl => some (fHset sl)
  | .pdone sl => some (fBare0 sl)
  | .boost sl => some (fBoost sl)
  | .replayRetry sl => some (fReplay 0 sl)
  | .replayKill sl => some (fReplay 1 sl)
  | .meas sl => some (fMeas sl)
  | .cancel sl => some (fCancel sl)
  | .nonInstructionEncoding _ _ => none
  | .variableResultWrite _ _ => none
  | .delayedTrap _ => none
  | .trapEntry _ => none
  | .waitpWake _ => none
  | .waitpTimeout _ => none
  | .engineStart _ => none
  | .matrixOpComplete _ => none
  | .copyUnitLand _ => none
  | .asyncOpComplete _ => none
  | .enginePageFault _ => none
  | .preemptionRequest _ _ => none
  | .forcedSave _ => none
  | .placementPass => none
  | .queuePidxWake _ _ => none
  | .packetNop _ _ => none
  | .packetLaunch _ _ => none
  | .packetBarrier _ _ => none
  | .packetCopy _ _ => none
  | .packetSignal _ _ => none
  | .packetGraph _ _ => none
  | .packetComplete => none
  | .graphNodeStart _ _ => none
  | .cannoliSpillMove => none
  | .bucketRefill => none
  | .pageWalk _ _ _ _ _ _ => none
  | .invPages => none
  | .invContext => none
  | .invFrames => none
  | .invTdmask => none
  | .moveUp => none
  | .moveDown => none
  | .pageMove => none
  | .quantumEnd => none
  | .incomingResident => none
  | .tickBoundary _ _ => none
  | .restEnd => none
  | .boostEnd => none
  | .retirePreempt => none
  | .energyWindowStart => none
  | .checkpoint => none
  | .temperatureSample _ => none
  | .marginMeasure _ => none
  | .eolhPredict => none
  | .targethWrite _ => none
  | .ebudgetWrite _ _ => none
  | .vbWarning _ _ => none
  | .vbFailure _ _ => none
  | .vbRepairDone _ _ => none
  | .vbDrainDone _ _ => none
  | .dieLoss _ => none
  | .cxlMemAccess _ _ _ => none
  | .backInvalidate _ => none
  | .queueEnWrite _ _ _ _ => none
  | .queueErrClear _ _ => none
  | .pcreate => none
  | .presize => none
  | .pdestroy => none
  | .quota => none
  | .bucket => none
  | .wcreate => none
  | .wdestroy => none
  | .ccreate => none
  | .cdestroy => none
  | .qreset => none
  | .creset => none
  | .flr => none
  | .bias => none
  | .pbset => none
  | .pdset => none
  | .pcieFlr _ => none
  | .resetEscalation => none
  | .devrst => none
  | .recgo _ => none
  | .attestationGo => none
  | .attestationDone => none
  | .attestationDoneClear => none
  | .powerGood => none
  | .bootComplete _ _ _ => none
  | .calibrateComplete _ => none
  | .zeroingComplete _ => none
  | .selfidWrite _ => none
  | .routeWrite _ _ => none
  | .linkTrained _ _ _ => none
  | .flitReceive _ _ => none
  | .nakReceive _ _ => none
  | .darkWavelengthDetect _ _ => none
  | .restripeDone _ => none
  | .linkLost _ => none
  | .peerRequestArrive _ => none
  | .peerResponseArrive _ _ => none
  | .collMatch _ _ => none
  | .collContribLand _ _ _ _ => none
  | .registerWrite _ _ _ => none
  | .orderlyPowerDown _ _ => none
  | .powerLoss => none

/-- The numbers of the assigned opcodes (Table 3.6), the header 0x00 apart. -/
def assignedOpcs : List Nat :=
  [0x01, 0x02, 0x03, 0x04, 0x05, 0x06, 0x07, 0x08, 0x09, 0x0A, 0x0B, 0x0C, 0x0D, 0x0E, 0x0F, 0x10] ++
  [0x11, 0x12, 0x20, 0x21, 0x22, 0x23, 0x24, 0x25, 0x26, 0x27, 0x28, 0x29, 0x2A, 0x2B, 0x2C, 0x2D] ++
  [0x2E, 0x2F, 0x30, 0x31, 0x32, 0x33, 0x34, 0x35, 0x36, 0x37, 0x38, 0x39, 0x3A, 0x3B, 0x40, 0x41] ++
  [0x42, 0x43, 0x44, 0x45, 0x46, 0x47, 0x48, 0x49, 0x4A, 0x4B, 0x4C, 0x4D, 0x4E, 0x4F, 0x50, 0x51] ++
  [0x52, 0x53, 0x54, 0x55, 0x56, 0x57, 0x58, 0x59, 0x5A, 0x5B, 0x5C, 0x5D, 0x5E, 0x5F, 0x60, 0x61] ++
  [0x62, 0x63, 0x64, 0x65, 0x66, 0x70, 0x71, 0x72, 0x73, 0x74, 0x75, 0x76, 0x77, 0x78, 0x79, 0x7A] ++
  [0x7B, 0x7C, 0x7D, 0x7E, 0x7F, 0x80, 0x81, 0x82, 0x83, 0x84, 0x85, 0x86, 0x87, 0x88, 0x90, 0x91] ++
  [0x92, 0x93, 0x94, 0x95, 0x96, 0x97, 0x98, 0x99, 0xA0, 0xA1, 0xA2, 0xA3, 0xA4, 0xA5, 0xA6, 0xB0] ++
  [0xB1, 0xB2, 0xB3, 0xB4, 0xB5, 0xB6, 0xB7, 0xB8, 0xB9, 0xBA, 0xBB, 0xBC, 0xBD, 0xBE, 0xBF, 0xC0] ++
  [0xC1, 0xC2, 0xC3, 0xC4, 0xC5, 0xC6, 0xC7, 0xD0, 0xD1, 0xD2, 0xD3, 0xD4, 0xD5, 0xD6, 0xD7, 0xE0] ++
  [0xE1, 0xE2, 0xE3, 0xE4, 0xE5, 0xE6, 0xE7, 0xE8, 0xE9, 0xEA, 0xF0, 0xF1, 0xF2, 0xF3, 0xF4, 0xF5] ++
  [0xF6, 0xF7, 0xF8, 0xF9, 0xFA]

/-- The opcodes whose SUB values are separate rows, with the SUB values they assign. -/
def splitSubs (opc : Nat) : Option Nat :=
  match opc with
  | 0xA3 => some 2
  | 0xA6 => some 2
  | 0xD7 => some 1
  | 0xE8 => some 4
  | 0xEA => some 1
  | 0xF1 => some 2
  | 0xF8 => some 1
  | _ => none

/-- An opcode and SUB that name no instruction row (R95). -/
def notInstr (opc : BitVec 8) (sl : Slot) : Bool :=
  !assignedOpcs.contains opc.toNat
    || (match splitSubs opc.toNat with | some m => decide (m < sl.sub.toNat) | none => false)

/-- A well-formed instruction (R96): its slot passes checks 1 to 3, and check 4 for some group. -/
def WellFormed (i : Instr) : Bool :=
  match slotOf i with
  | none => false
  | some (opc, sl) =>
    match formOf i with
    | none => notInstr opc sl
    | some f => f.sub && f.ty && check3 f sl && (check4 f 64 96 false sl).isNone

end Sys2Proof
end

