-- ==== Sys2Proof/Decode.lean ====
section
/-! DEFINITION. The decoder and the encoder of instruction slots (R76, Tables 3.1 and 3.6). Decoding is total
on byte strings: fewer than 16 bytes are rejected by name; every 16 bytes give an instruction, an encoding
that is no instruction giving the row NON_INSTRUCTION_ENCODING (R95). -/

namespace Sys2Proof

open Machine

/-- Why bytes do not decode. -/
inductive DecodeErr where
  /-- a slot has 16 bytes (R76) -/
  | short
  deriving DecidableEq, Repr

/-- The fields of a slot word (Table 3.1). -/
def unpack (w : BitVec 128) : BitVec 8 × Slot :=
  (w.extractLsb' 0 8,
    { sub := w.extractLsb' 8 4
      ty := w.extractLsb' 12 6
      d := w.extractLsb' 18 10
      a := w.extractLsb' 28 10
      b := w.extractLsb' 38 10
      c := w.extractLsb' 48 10
      e := w.extractLsb' 58 10
      sg := w.extractLsb' 68 4
      lg := w.extractLsb' 72 4
      md := w.extractLsb' 76 4
      scp := w.extractLsb' 80 3
      ch := w.extractLsb' 83 4
      imm := w.extractLsb' 87 32
      stall := w.extractLsb' 119 4
      yld := w.extractLsb' 123 1
      tset := w.extractLsb' 124 2
      twait := w.extractLsb' 126 2 })

/-- The slot word of the fields, the highest field first (Table 3.1). -/
def pack (opc : BitVec 8) (sl : Slot) : BitVec 128 :=
  sl.twait ++ sl.tset ++ sl.yld ++ sl.stall ++ sl.imm ++ sl.ch ++ sl.scp ++ sl.md ++ sl.lg ++ sl.sg
    ++ sl.e ++ sl.c ++ sl.b ++ sl.a ++ sl.d ++ sl.ty ++ sl.sub ++ opc

/-- The instruction of an opcode and a slot (Table 3.6). -/
def decodeSlot (opc : BitVec 8) (sl : Slot) : Instr :=
  match opc.toNat with
  | 0x01 => .nop sl
  | 0x02 => .bra sl
  | 0x03 => .brx sl
  | 0x04 => .call sl
  | 0x05 => .callx sl
  | 0x06 => .loop sl
  | 0x07 => .brany sl
  | 0x08 => .brall sl
  | 0x09 => .exit sl
  | 0x0A => .lexit sl
  | 0x0B => .yield sl
  | 0x0C => .mpush sl
  | 0x0D => .melse sl
  | 0x0E => .mpop sl
  | 0x0F => .mget sl
  | 0x10 => .mset sl
  | 0x11 => .setfmt sl
  | 0x12 => .getfmt sl
  | 0x20 => .sadd sl
  | 0x21 => .ssub sl
  | 0x22 => .smul sl
  | 0x23 => .smulh sl
  | 0x24 => .sdiv sl
  | 0x25 => .srem sl
  | 0x26 => .sand sl
  | 0x27 => .sor sl
  | 0x28 => .sxor sl
  | 0x29 => .sandn sl
  | 0x2A => .sshl sl
  | 0x2B => .sshr sl
  | 0x2C => .ssar sl
  | 0x2D => .srot sl
  | 0x2E => .smin sl
  | 0x2F => .smax sl
  | 0x30 => .scmp sl
  | 0x31 => .ssel sl
  | 0x32 => .smov sl
  | 0x33 => .spopc sl
  | 0x34 => .sclz sl
  | 0x35 => .sctz sl
  | 0x36 => .sbfe sl
  | 0x37 => .sbfi sl
  | 0x38 => .slea sl
  | 0x39 => .plop sl
  | 0x3A => .sabs sl
  | 0x3B => .sbrev sl
  | 0x40 => .vadd sl
  | 0x41 => .vsub sl
  | 0x42 => .vmul sl
  | 0x43 => .vmulh sl
  | 0x44 => .vmad sl
  | 0x45 => .vsad sl
  | 0x46 => .vdot4 sl
  | 0x47 => .vmin sl
  | 0x48 => .vmax sl
  | 0x49 => .vabs sl
  | 0x4A => .vneg sl
  | 0x4B => .vavg sl
  | 0x4C => .vand sl
  | 0x4D => .vor sl
  | 0x4E => .vxor sl
  | 0x4F => .vandn sl
  | 0x50 => .vnot sl
  | 0x51 => .vlop3 sl
  | 0x52 => .vshl sl
  | 0x53 => .vshr sl
  | 0x54 => .vsar sl
  | 0x55 => .vrol sl
  | 0x56 => .vror sl
  | 0x57 => .vfshl sl
  | 0x58 => .vcmp sl
  | 0x59 => .vsel sl
  | 0x5A => .vpopc sl
  | 0x5B => .vclz sl
  | 0x5C => .vctz sl
  | 0x5D => .vbrev sl
  | 0x5E => .vbfe sl
  | 0x5F => .vbfi sl
  | 0x60 => .vprmb sl
  | 0x61 => .vwiden sl
  | 0x62 => .vnarrow sl
  | 0x63 => .vpack sl
  | 0x64 => .vmov sl
  | 0x65 => .vdiv sl
  | 0x66 => .vrem sl
  | 0x70 => .fadd sl
  | 0x71 => .fsub sl
  | 0x72 => .fmul sl
  | 0x73 => .ffma sl
  | 0x74 => .fmin sl
  | 0x75 => .fmax sl
  | 0x76 => .fabs sl
  | 0x77 => .fneg sl
  | 0x78 => .fcmp sl
  | 0x79 => .fclass sl
  | 0x7A => .frnd sl
  | 0x7B => .fscale sl
  | 0x7C => .fdot2 sl
  | 0x7D => .frcp sl
  | 0x7E => .frsq sl
  | 0x7F => .fsqrt sl
  | 0x80 => .fexp2 sl
  | 0x81 => .flog2 sl
  | 0x82 => .fsin sl
  | 0x83 => .fcos sl
  | 0x84 => .ftanh sl
  | 0x85 => .fsigm sl
  | 0x86 => .fcvt sl
  | 0x87 => .fcvti sl
  | 0x88 => .fqsum sl
  | 0x90 => .shfl sl
  | 0x91 => .vote sl
  | 0x92 => .lred sl
  | 0x93 => .lscan sl
  | 0x94 => .matchLanes sl
  | 0x95 => .vget sl
  | 0x96 => .vset sl
  | 0x97 => .xsend sl
  | 0x98 => .xrecv sl
  | 0x99 => .xprobe sl
  | 0xA0 => .bininit sl
  | 0xA1 => .susp sl
  | 0xA2 => .resume sl
  | 0xA3 => if sl.sub = 0 then .wakeRows sl else if sl.sub = 1 then .wakeLanes sl else if sl.sub = 2 then .wakeAll sl else .nonInstructionEncoding opc sl
  | 0xA4 => .binq sl
  | 0xA5 => .fxform sl
  | 0xA6 => if sl.sub = 0 then .bindropRows sl else if sl.sub = 1 ∨ sl.sub = 2 then .bindropSet sl else .nonInstructionEncoding opc sl
  | 0xB0 => .ld sl
  | 0xB1 => .st sl
  | 0xB2 => .ldx sl
  | 0xB3 => .stx sl
  | 0xB4 => .lds sl
  | 0xB5 => .sts sl
  | 0xB6 => .ldb sl
  | 0xB7 => .stb sl
  | 0xB8 => .atom sl
  | 0xB9 => .atoms sl
  | 0xBA => .red sl
  | 0xBB => .fence sl
  | 0xBC => .pref sl
  | 0xBD => .colcln sl
  | 0xBE => .colinv sl
  | 0xBF => .cctl sl
  | 0xC0 => .waitp sl
  | 0xC1 => .boinit sl
  | 0xC2 => .boarr sl
  | 0xC3 => .bojoin sl
  | 0xC4 => .boleave sl
  | 0xC5 => .lbar sl
  | 0xC6 => .enq sl
  | 0xC7 => .deq sl
  | 0xD0 => .cpy sl
  | 0xD1 => .cpy2 sl
  | 0xD2 => .gath sl
  | 0xD3 => .scat sl
  | 0xD4 => .coll sl
  | 0xD5 => .afence sl
  | 0xD6 => .post sl
  | 0xD7 => if sl.sub = 0 then .tierhNeed sl else if sl.sub = 1 then .tierhCold sl else .nonInstructionEncoding opc sl
  | 0xE0 => .mma sl
  | 0xE1 => .mmas sl
  | 0xE2 => .mmat sl
  | 0xE3 => .accz sl
  | 0xE4 => .accld sl
  | 0xE5 => .accst sl
  | 0xE6 => .accrd sl
  | 0xE7 => .accwr sl
  | 0xE8 => if sl.sub.toNat ≤ 3 then .accalloc sl else if sl.sub = 4 then .accallocStat sl else .nonInstructionEncoding opc sl
  | 0xE9 => .accfree sl
  | 0xEA => if sl.sub = 0 then .sppackRows sl else if sl.sub = 1 then .sppackCols sl else .nonInstructionEncoding opc sl
  | 0xF0 => .trap sl
  | 0xF1 => if sl.sub = 0 then .rtt sl else if sl.sub = 1 then .rttNext sl else if sl.sub = 2 then .rttTo sl else .nonInstructionEncoding opc sl
  | 0xF2 => .srget sl
  | 0xF3 => .srset sl
  | 0xF4 => .hget sl
  | 0xF5 => .hset sl
  | 0xF6 => .pdone sl
  | 0xF7 => .boost sl
  | 0xF8 => if sl.sub = 0 then .replayRetry sl else if sl.sub = 1 then .replayKill sl else .nonInstructionEncoding opc sl
  | 0xF9 => .meas sl
  | 0xFA => .cancel sl
  | _ => .nonInstructionEncoding opc sl

/-- Decodes the first 16 bytes, little-endian (R6, R76). -/
def decode (bs : List Byte) : Except DecodeErr Instr :=
  if bs.length < 16 then .error .short
  else
    let p := unpack (BitVec.ofNat 128 (ofBytes (bs.take 16)))
    .ok (decodeSlot p.1 p.2)

/-- The 16 bytes of an instruction row; none for a step of another agent. -/
def encode (i : Instr) : Option (List Byte) :=
  (slotOf i).map fun p => toBytes 16 (pack p.1 p.2).toNat

/-- The instruction that the decoder reads from `nbits` bits of a word, the bits above being 0. -/
def decodeTableWord (nbits w : Nat) : Option Instr :=
  match decode (toBytes 16 (w % 2 ^ nbits)) with
  | .ok i => some i
  | .error _ => none

end Sys2Proof
end

