-- ==== Sys2Proof/Config.lean ====
section
/-! DEFINITION. What one implementation fixes and what the spec leaves open: free values, which are opaque
constants that no proof can evaluate. -/

namespace Sys2Proof

/-- The seed that is fused into the module (R403, R406). -/
opaque Config.fusedSeed : BitVec 256

/-- The two primes of the module's RSA-4096 identity key, as the trust processor derives them from the seed; the spec does not
say how (R406). -/
opaque Config.identityPrimes : BitVec 256 → Nat × Nat

/-- The certificate of the identity key, written at manufacture, at most 4,096 bytes (R406). -/
opaque Config.cert : List Byte

/-- The AES-256 key that the trust processor derives from the fused seed for the n-th fresh value it draws (R403). -/
opaque Config.worldKey : Nat → BitVec 256

/-- The AES-256 key of a link that the two trust processors agree for the n-th fresh value (R428). -/
opaque Config.linkKey : Nat → BitVec 256

/-- Whether the memory controller performs a storage write of an alias store that waits, before the n-th step that
finds one (R303; assumption log 71). -/
opaque Config.fmtLands : Nat → Bool

/-- The frame that Strudel would take for its n-th move, where the spec says only that it is free (R324,
R373; assumption log 14). -/
opaque Config.freeFrame : Nat → Nat

/-- A word of an event record that the spec gives no value: Detail, and word 1 where an event has neither an
address nor a unit (R415; assumption log 15). -/
opaque Config.eventWord : Nat → Word

/-- What the 32 bits of EOLH hold when the predicted age does not fit them (R388; assumption log 16). -/
opaque Config.eolhWide : Int → BitVec 32

end Sys2Proof
end

