-- ==== Sys2Proof/Machine/State.lean ====
section
/-! DEFINITION. The state of the Krytath N12 as plain data: the groups and their registers, workgroups and
tiles, cores and sub-cores, the hub's units, queues, translations and rings, Praline's records, the links,
and the inputs that outside agents are about to bring. Each field names the rule that gives it. -/

namespace Sys2Proof.Machine

/-- Why the machine stops. -/
inductive Fault where
  /-- Raised by an instruction row's meaning when the current group number names no resident group, so that
  no group issues the slot. `step` never runs a slot so. Safe: the hardware issues slots of groups only. -/
  | noGroup
  deriving DecidableEq, Repr

/-- Why the model gives no answer. -/
inductive Refusal where
  /-- Raised by an arm of `exec` that has no meaning yet. Safe. -/
  | notModelled (mnemonic : String)
  deriving DecidableEq, Repr

/-- An MSTK entry (R36). -/
structure MEntry where
  saved : Mask
  taken : Mask
  fmt : Word
  /-- reconvergence address; none when RCV is 0 -/
  rcv : Option Word
  deriving DecidableEq, Repr

/-- The header fields of the block a group is in (Table 3.6a): the header's address, LEN, RCV, LVV, LVQ. -/
structure Block where
  hdr : Word := 0
  len : Nat := 0
  rcv : BitVec 16 := 0
  lvv : Nat := 0
  lvq : Nat := 0
  deriving DecidableEq, Repr

/-- An entry of the joined-barrier table (R28). -/
structure Join where
  addr : Word
  phase : BitVec 32
  arrived : Bool
  deriving DecidableEq, Repr

/-- The values of a trap (R253, Table 10.2). -/
structure Trap where
  cause : BitVec 8
  pc : Word := 0
  addr : Word := 0
  info : Word := 0
  deriving DecidableEq, Repr

/-- A register of a group that an instruction's operand code names, or a place of a result (Table 3.3). -/
inductive RegRef where
  | v (n : Nat)
  | q (age : Nat)
  | s (n : Nat)
  | vp (n : Nat)
  | sp (n : Nat)
  | h (n : Nat)
  | hs (n : Nat)
  deriving DecidableEq, Repr

/-- One register write of a result: the lanes `sel` of a vector place, or a whole scalar place. -/
inductive RegWrite where
  | vec (r : RegRef) (sel : Mask) (val : Vec)
  | scalar (r : RegRef) (val : Word)
  deriving DecidableEq, Repr

/-- A variable-latency result not yet written (R26, R87, R442): its token (0 none), whether its value has
arrived, and what it writes. -/
structure Pend where
  id : Nat
  tok : Nat
  ready : Bool
  writes : List RegWrite
  deriving DecidableEq, Repr

/-- A result that check mode still watches (R86, R88, R89): its register, its fixed latency (none when it
is variable), the encoded distance so far, its token, and whether a slot has waited on that token. -/
structure Producer where
  reg : RegRef
  lat : Option Nat
  dist : Nat
  tok : Nat
  covered : Bool
  deriving DecidableEq, Repr

/-- Why a group does not issue (R41). -/
inductive Wait where
  /-- it may issue -/
  | none
  /-- in WAITP (R210): the word's address, the compare value, the timeout in cycles (0 none), its slot -/
  | waitp (addr : Word) (v : BitVec 32) (left : Nat) (sl : Slot)
  /-- in a transfer slot as sender or receiver (R174), with its slot -/
  | xfer (slot : Nat) (send : Bool) (sl : Slot)
  /-- in LBAR (R215), with its slot -/
  | lbar (sl : Slot)
  /-- held by a replayable fault with this tag (R366) -/
  | held (tag : Nat)
  /-- waits for the trap bank with this trap (R253) -/
  | bank (t : Trap)
  /-- placed again in trap mode, waits for the trap bank (R254, R260) -/
  | regain
  deriving DecidableEq, Repr

/-- Where a group is in its life. -/
inductive Phase where
  | resident
  /-- not resident, force-saved (R368) -/
  | saved
  /-- not resident, ended by PDONE (R260) -/
  | pdone
  | ended
  deriving DecidableEq, Repr

/-- What a group held at the slot where its pre-emption handler interrupted it, and the results pending then: an overrun
restores it (R31, R259). -/
structure Snap where
  act : Mask
  live : Mask
  fmt : Word
  sregs : Table Word
  vregs : Table Vec
  queue : Table Vec
  sps : BitVec 8
  vps : Table Mask
  mstk : List MEntry
  joined : List Join
  pend : List Pend
  deriving DecidableEq, Repr

/-- The state of one group (Table 1.2), its trap registers (R250), its place and its identities (R30). -/
structure Group where
  pc : Word := 0
  kc : Word := 0
  act : Mask := 0xFFFFFFFF
  live : Mask := 0xFFFFFFFF
  fmt : Word := 0x999
  /-- s0 to s95; unlisted reads 0 -/
  sregs : Table Word := []
  /-- v0 to v511; unlisted reads 0 -/
  vregs : Table Vec := []
  /-- q0 to q15 by age; unlisted reads 0 -/
  queue : Table Vec := []
  /-- sp0 to sp6; bit 7 is never read (R22) -/
  sps : BitVec 8 := 0
  /-- vp0 to vp6; unlisted reads 0 (R22) -/
  vps : Table Mask := []
  /-- innermost first -/
  mstk : List MEntry := []
  joined : List Join := []
  block : Block := {}
  /-- the pending results, oldest first; a token is pending while one of them carries it (R26) -/
  pend : List Pend := []
  /-- the pending result each token tracks: t1, t2 (R26) -/
  tok1 : Option Nat := none
  tok2 : Option Nat := none
  producers : List Producer := []
  nextId : Nat := 1
  wait : Wait := .none
  phase : Phase := .resident
  /-- traps that arrived after their slot, oldest first (R444) -/
  delayed : List Trap := []
  trapMode : Bool := false
  /-- the interrupted block and its KC (R253, R256) -/
  savedKc : Word := 0
  savedBlock : Block := {}
  trapCause : BitVec 8 := 0
  trapPc : Word := 0
  trapAddr : Word := 0
  trapInfo : Word := 0
  trapVec : Word := 0
  /-- PBUDGETW (Table 1.4) -/
  budget : BitVec 32 := 0
  /-- the budget counts down (R259) -/
  budgetOn : Bool := false
  /-- a pre-emption request reached the group and it has not entered its handler (R259) -/
  preempt : Bool := false
  /-- the handler that runs is the pre-emption handler (R259, R260) -/
  inPreempt : Bool := false
  /-- while the pre-emption handler runs: the state at its TRAPPC (R31, R259) -/
  snap : Option Snap := none
  /-- open batch numbers and completed-batch counters of classes MAT, CPY, GAT, COL, FRM (R239, Table 1.4) -/
  openBatch : Table (BitVec 32) := []
  doneBatch : Table (BitVec 32) := []
  /-- the widest scope of the ACCLD and ACCST of each MAT batch not yet complete (R236) -/
  accScp : Table Nat := []
  gran : Nat := 1
  scount : Nat := 8
  wg : Nat := 0
  idx : Nat := 0
  role : Nat := 0
  idxRole : Nat := 0
  core : Nat := 0
  sub : Nat := 0
  /-- the order of placement on the sub-core (R351) -/
  placedAt : Nat := 0
  /-- its core's cycle count at its last issue, or at its placement (R351) -/
  lastIssue : Word := 0
  /-- cycles of STALL that its last slot still holds it back (R86, R351) -/
  stall : Nat := 0
  /-- a pre-emption request that waits for the slot under way to end (the model's own field) -/
  due : Bool := false
  /-- its slot could not issue when it was tried (the model's own field) -/
  blocked : Bool := false
  /-- the group yielded (R112) -/
  yielded : Bool := false
  deriving DecidableEq, Repr

/-- A transfer slot of a workgroup (R174): 0 idle, 1 a sender waits, 2 a receiver waits; the waiting group. -/
structure XSlot where
  st : Nat
  grp : Nat
  deriving DecidableEq, Repr

/-- One element of an accumulator tile: the w-bit pattern of the quire or i32 value, and the count (Table 9.1). -/
structure Elem where
  q : Nat
  c : Nat
  deriving DecidableEq, Repr

/-- One logical tile (Table 9.1): KIND, ACCSAT, and elements keyed 64r + n; unlisted elements are zero. -/
structure Tile where
  kind : Nat := 0
  sat : Bool := false
  elems : Table Elem := []
  deriving DecidableEq, Repr

/-- A task card (Table 9.10) as POST read it. -/
structure Card where
  entry : Word
  param : Word
  user : Word
  signal : Word
  gran : Nat
  scnt : Nat
  groups : Nat
  scratch : Nat
  tiles : Nat
  prio : Nat
  energy : Nat
  /-- the poster's workgroup and launch, and the order of the POST -/
  wg : Nat := 0
  launch : Nat
  seq : Nat
  deriving DecidableEq, Repr

/-- One role of a launch (Table 16.5). -/
structure Role where
  entry : Word
  gran : Nat
  scnt : Nat
  groups : Nat
  deriving DecidableEq, Repr

/-- A launch descriptor as the dispatcher read it (Table 16.5). -/
structure LaunchDesc where
  param : Word
  preempt : Word
  gx : Nat
  gy : Nat
  gz : Nat
  scratch : Nat
  tiles : Nat
  cores : Bool
  prio : Nat
  tbclass : Nat
  world : Nat
  thresh : Nat
  energy : Nat
  prod : Nat
  early : Bool
  roles : List Role
  deriving DecidableEq, Repr

/-- A launch (R337, R338, R346, R347). -/
structure Launch where
  fn : Nat
  ctx : Nat
  /-- its handle, within its partition -/
  handle : Nat := 0
  desc : LaunchDesc
  /-- the completion counter (R14, R338) -/
  remaining : Nat
  killed : Bool := false
  cancelled : Bool := false
  done : Bool := false
  /-- the graph it belongs to, and its node (R339) -/
  graph : Nat := 0
  node : Nat := 0
  /-- linear index of the next workgroup to place -/
  nextWg : Nat := 0
  hword : Word := 0
  packet : Nat := 0
  /-- one wave of a producer (R346) -/
  wave : Nat := 0
  gateOpen : Bool := false
  /-- its packet acquired at acceptance (R336) -/
  acq : Bool := false
  /-- producers of an early start (R346) -/
  prods : List Nat := []
  /-- groups that have arrived at the launch's barrier (R215) -/
  lbar : List Nat := []
  /-- acceptance order (R342) -/
  seq : Nat := 0
  deriving DecidableEq, Repr

/-- A graph, phase or job (R338, R339). -/
structure Unit3 where
  fn : Nat
  ctx : Nat
  handle : Nat := 0
  parent : Nat
  remaining : Nat
  bad : Bool := false
  cancelled : Bool := false
  done : Bool := false
  hblk : Word := 0
  packet : Nat := 0
  /-- nodes of a graph: launch handle (0 not started), status (none running or waiting) -/
  nodes : Table (Nat × Option Nat) := []
  acq : Bool := false
  descs : List (LaunchDesc) := []
  edges : List (Nat × Nat) := []
  deriving DecidableEq, Repr

/-- A workgroup (R12, R344). -/
structure Workgroup where
  fn : Nat := 0
  ctx : Nat := 0
  world : Nat := 0
  launch : Nat := 0
  /-- WGID: the linear index, or USER of a card -/
  lin : Nat := 0
  /-- the module logical cores that hold it -/
  cores : List Nat := []
  /-- bytes of its window, WB (R191) -/
  wb : Nat := 0
  /-- accumulator tiles reserved (R219) -/
  tiles : Nat := 0
  tile : Table Tile := []
  slots : Table XSlot := []
  groups : List Nat := []
  resident : Bool := true
  done : Bool := false
  card : Option Card := none
  preempt : Word := 0
  tbclass : Nat := 0
  prio : Nat := 0
  energy : Nat := 0
  seq : Nat := 0
  /-- where its records lie in the save area, in bytes (R368) -/
  saveAt : Nat := 0
  /-- the granules of each of its groups by index: they fix where each record lies (R368) -/
  grans : List Nat := []
  deriving DecidableEq, Repr

/-- A matrix-engine instruction in a core's engine queue (R233, R234). -/
structure MatOp where
  opc : BitVec 8
  sl : Slot
  grp : Nat
  wg : Nat
  /-- the core whose queue took it -/
  core : Nat
  rows : Mask
  a : Word
  b : Word
  c : Word
  e : Word
  fmt : Word
  /-- registers captured at issue (R230) -/
  regs : List Vec
  batch : BitVec 32
  /-- the pending result of ACCRD, ACCALLOC and ACCALLOC.stat -/
  pend : Nat
  /-- registers of that result, in order -/
  dests : List RegRef
  /-- first row not yet moved, for a paused instruction (R237) -/
  row : Nat
  paused : Option Nat
  deriving DecidableEq, Repr

/-- A matrix engine (R219, R234, R386). -/
structure Engine where
  /-- the core within the cluster whose turn is next -/
  turn : Nat := 0
  running : Option MatOp := none
  gated : Bool := false
  deriving DecidableEq, Repr

/-- A running asynchronous operation: copy, gather, scatter, collective, frame operation or COPY packet
(R238, R240, R244, R334). -/
structure AsyncOp where
  opc : BitVec 8
  fn : Nat
  ctx : Nat
  wg : Nat
  grp : Nat
  /-- its class and batch (R239) -/
  cls : Nat
  batch : BitVec 32
  scp : Nat
  dst : Word
  src : Word
  /-- bytes of a row, rows, destination and source stride, index list (R240) -/
  rb : Nat
  rows : Nat
  dstride : Nat
  sstride : Nat
  list : Word
  ntf : Nat
  e : Word
  imm : BitVec 32
  /-- 8-byte words moved, and landed bytes not yet subtracted by `.bar` -/
  moved : Nat := 0
  landed : Nat := 0
  /-- words to move again after a held fault at their landing -/
  redo : List Nat := []
  paused : Option Nat := none
  /-- COPY packet (0 none) -/
  packet : Nat := 0
  /-- collective: kind, type, contributions declared, root, ports, READY (Table 9.9) -/
  kind : Nat := 0
  ty : Nat := 0
  peers : List Nat := []
  root : Nat := 0
  ready : Word := 0
  matched : Bool := false
  /-- READY has been raised (R437) -/
  sent : Bool := false
  /-- contributions landed, keyed 1024 × line + port, and lines written here -/
  contrib : Table (List Byte) := []
  written : List Nat := []
  deriving DecidableEq, Repr

/-- A held fault (R366); `recorded` is false while its record waits for room in the store (R365). -/
structure Hold where
  fn : Nat
  ctx : Nat
  /-- the group, or the asynchronous operation, or the matrix engine, that is held -/
  grp : Option Nat
  op : Option Nat
  me : Option Nat
  trap : Trap
  recorded : Bool := true
  /-- the near or capacity frames of its page when it was held: the first, and how many (R366, R400) -/
  frame : Nat := 0
  span : Nat := 0
  deriving DecidableEq, Repr

/-- A context (Table 23.4, R250, R370). -/
structure Context where
  world : Nat := 0
  level : Nat := 0
  root0 : Word := 0
  root4 : Word := 0
  wshdr : Word := 0
  save : Word := 0
  savesz : Nat := 0
  spill : Word := 0
  holdPerm : Bool := false
  pbudget : BitVec 32 := 20000
  checkMode : BitVec 2 := 0
  tdmask : BitVec 17 := 0x1000
  ended : Bool := false
  deriving DecidableEq, Repr

/-- One bus-line of a queue table (Table 16.1) and the packets it has accepted that have not completed. -/
structure Queue where
  rcb : Word := 0
  en : Bool := false
  err : Bool := false
  ctx : Nat := 0
  /-- PIDX as the dispatcher last read it (R330) -/
  seen : BitVec 32 := 0
  deriving DecidableEq, Repr

/-- An accepted packet that has not completed (R331, R336): status none while it runs. -/
structure Packet where
  fn : Nat
  q : Nat
  ctx : Nat
  compl : Word
  rel : Nat
  kind : Nat
  /-- the handle word or handle block it reports to -/
  hword : Word
  status : Option Nat
  deriving DecidableEq, Repr

/-- A token-bucket class of one source (R349): rate, depth, level. -/
structure Bucket where
  rate : Nat := 0
  depth : Nat := 0
  level : Int := 0
  deriving DecidableEq, Repr

/-- A record of a fault or event queue: four words (Table 18.6, R415). -/
structure Rec where
  w0 : Word
  w1 : Word
  w2 : Word
  w3 : Word
  deriving DecidableEq, Repr

/-- An invalidation request performed and not yet reported (R363): the first number that a request to a peer sent since
has, the key of the context that enqueued it, and SIGNAL. -/
structure InvWait where
  since : Nat
  from_ : Option Nat
  signal : Word
  deriving DecidableEq, Repr

/-- A function of the module and its partition (R411, R412, Tables 16.1, 20.6, 23.2). -/
structure Func where
  first : Nat := 0
  count : Nat := 0
  ts : Bool := false
  quantum : Nat := 0
  /-- ticks left of its quantum, and whether it holds the slices (R419) -/
  left : Nat := 0
  resident : Bool := false
  /-- the slices that it held when the tick began (R390) -/
  tickSlices : List Nat := []
  /-- the member it took the slices from (R326) -/
  lastOut : Option Nat := none
  pdesc : Word := 0
  /-- INVRING, FAULTQ, MOVERING and EVENTQ, as its descriptor gave them when a request named it (R414) -/
  rings : List Nat := []
  copyQ : Nat := 0
  capQ : Nat := 0
  spillQ : Nat := 0
  queues : Table Queue := []
  buckets : Table Bucket := []
  energyUJ : Nat := 0
  energyPJ : Nat := 0
  /-- pJ of traffic charged in the current tick (R390) -/
  traffic : Nat := 0
  ewin : Nat := 0
  ebudget : Nat := 0
  ebudgetNext : Option Nat := none
  /-- µJ of estimates reserved in the current window (R343) -/
  reserved : Nat := 0
  bresv : Nat := 0
  lifeMin : Int := 0
  /-- an energy window has opened and no placement pass has run in it (R343) -/
  fresh : Bool := false
  /-- a shrink in progress: new first slice, count, completion signal (R418) -/
  resize : Option (Nat × Nat × Word) := none
  /-- the pages of that shrink are being moved (R418 step 3) -/
  moving : Bool := false
  /-- the context whose group asked for that shrink (R440) -/
  resizeBy : Option Nat := none
  /-- records waiting in the hub (R365, R415, R417) -/
  faults : List Rec := []
  events : List Rec := []
  fdrop : Nat := 0
  edrop : Nat := 0
  /-- MSI-X pending bits (R413) -/
  msix : BitVec 64 := 0
  /-- the queue served last (R331), and the handle allocated last at each level: launch, graph, phase, job (R337) -/
  lastQ : Option Nat := none
  handles : Table Nat := []
  /-- the contexts whose move down failed in the switch that brought it in (R326) -/
  skip : List (Nat × Nat) := []
  /-- its invalidation request that waits to be reported -/
  invWait : Option InvWait := none
  deriving DecidableEq, Repr

/-- The trap bank of a sub-core (R29, R397): its registers, the group that holds it, and the function
and world of the last handler. -/
structure Bank where
  h : Table Vec := []
  hs : Table Word := []
  owner : Option Nat := none
  fn : Nat := 0
  world : Nat := 0
  deriving DecidableEq, Repr

/-- One dirty index entry (R312): the line number and the masked bytes, keyed 0 to 127. -/
structure DirtyLine where
  line : Nat
  bytes : Table Byte
  deriving DecidableEq, Repr

/-- A column line (R312): its line number is the key; the generation at its fill and its 128 bytes. -/
structure ColLine where
  gen : Nat
  data : List Byte
  deriving DecidableEq, Repr

/-- The state of a line in an L1 (R309). -/
inductive Moesi where
  | modified | owned | exclusive | shared
  deriving DecidableEq, Repr

/-- A line that an L1 holds (R307, R309, R310): its number, the acquire generation at its fill, its state, its bytes (none
for a line homed on its die or core: those of the coherent view there), and whether it goes first (R208, R313). -/
structure L1Line where
  line : Nat
  gen : Nat
  st : Moesi
  data : List Byte := []
  first : Bool := false
  deriving DecidableEq, Repr

/-- A storage write of an alias store that the memory controller has not performed (R303): the group that stored, its
die, the location, and the byte. -/
structure FmtStore where
  grp : Nat
  die : Nat
  loc : Nat
  val : Byte
  deriving DecidableEq, Repr

/-- A core by its logical index (R4): its clock, dirty index, acquire generation, task queue, engine queue
and boost (R249, R312, R348, R234, R383). -/
structure Core where
  cycle : Word := 0
  /-- dirty index, oldest insertion first -/
  dirty : List DirtyLine := []
  column : Table ColLine := []
  gen : BitVec 16 := 0
  /-- the lines of its L1 and its instruction cache, newest first (R307) -/
  l1 : List L1Line := []
  icache : List Nat := []
  /-- how many device acquires of its die its column lines have followed (R296, R297) -/
  seen : Nat := 0
  taskq : List Card := []
  engq : List MatOp := []
  /-- operating point in force, ticks left, and a granted boost not yet begun: level (0 none) -/
  point : Nat := 0
  boostLeft : Nat := 0
  boostNext : Nat := 0
  boostCost : Nat := 0
  /-- the function whose BRESV holds that cost -/
  boostFn : Nat := 0
  /-- step 4 of the boundary has decided that its boost ends (R380, R383) -/
  boostDue : Bool := false
  /-- cards in the backing rings of its queue, oldest first (R348) -/
  spilled : List Card := []
  /-- wear-table index of the physical core (R4, R387) -/
  unit : Option Nat := none
  /-- AGE at which it was drained, and at which its rest began and last ended (R385, R393) -/
  drainedAt : Nat := 0
  restAt : Nat := 0
  restEnd : Option Nat := none
  retiring : Bool := false
  /-- it held no group, engine entry or boost for the whole tick (R385) -/
  emptyTick : Bool := true
  /-- a group was resident on it in the tick (R377) -/
  heldTick : Bool := false
  deriving DecidableEq, Repr

/-- A TLB entry of a die (12 for the hub), in the L1 TLB of a core or in the die's L2 TLB: the page, its leaf and
its tags (R360). -/
structure TlbEntry where
  die : Nat
  core : Option Nat := none
  world : Nat := 0
  fn : Nat
  ctx : Nat
  space : Nat
  base : Nat
  size : Nat
  leaf : Word
  deriving DecidableEq, Repr

/-- A page move that Strudel runs (R324, R373): where it goes, whom it reports to (0 none). -/
structure Move where
  id : Nat
  fn : Nat
  ctx : Nat
  space : Nat
  va : Nat
  up : Bool
  signal : Word
  /-- found no room when its turn came, and no frame has been freed since (R326, R327) -/
  stuck : Bool := false
  /-- the page is to leave a bus that drains, or slices that go, for another near frame (R320, R418) -/
  evac : Bool := false
  /-- the function whose shrink asks for that (R418) -/
  by_ : Option Nat := none
  deriving DecidableEq, Repr

/-- A world (R395, R403, R407): its function, the number of its key, its measurement registers. -/
structure World where
  fn : Nat
  key : Nat
  meas : Table (BitVec 512)
  deriving DecidableEq, Repr

/-- A wear record (Table 20.2) and the samples of the tick (R378); `hist` keeps hourly records (R388). -/
structure Wear where
  bsu : Nat := 0
  hsu : Nat := 0
  esu : Nat := 0
  pool : Nat := 0
  recov : Nat := 0
  pticks : Nat := 0
  rticks : Nat := 0
  state : Nat := 0
  drain : Bool := false
  margin : Nat := 0
  eolh : Nat := 0xFFFFFFFF
  /-- highest temperature sample of the tick, in °C -/
  temp : Int := 0
  band : Nat := 0
  hist : List (Nat × Nat × Nat) := []
  low : Bool := false
  /-- its MARGIN has been below 8 ps, or a hard fault was detected in it (R387) -/
  dying : Bool := false
  deriving DecidableEq, Repr

/-- A checkpoint in non-volatile memory (R389). R389's list has no place for when a rest last ended, and R393 does not say what
becomes of that over a power-down: the exclusion of 1,000 ticks ends with the power (DESIGN CHOICE, assumption log 84). -/
structure Checkpoint where
  seq : Nat
  orderly : Bool
  age : Nat
  targeth : Nat
  bresv : Table Nat
  wear : Table Wear
  /-- the SHA-512 that was written with it -/
  digest : BitVec 512
  deriving DecidableEq, Repr

/-- The states of a vertical bus (Table 15.4). -/
inductive VbState where
  | spare | active | repair | drain | retired | lost
  deriving DecidableEq, Repr

/-- The states of the module in bring-up (Table 23.2). -/
inductive DevState where
  | reset | boot | calibrate | zeroing | ready | failed | recovery
  deriving DecidableEq, Repr

/-- A link (Table 25.3, R430, R431): LSTATE, active groups, far id, restripes, the sequence numbers of both
directions, the replay buffer, and the groups gone dark and not yet restriped. -/
structure Link where
  st : Nat := 0
  groups : BitVec 4 := 0
  farid : BitVec 10 := 0
  restripes : BitVec 8 := 0
  sendSeq : BitVec 16 := 0
  expect : BitVec 16 := 0
  unacked : List Flit := []
  toSend : List Flit := []
  nakSent : Bool := false
  beat : Nat := 0
  replays : Nat := 0
  restriped : Bool := false
  dark : BitVec 4 := 0
  /-- the sequence number that the last NAK named -/
  nakSeq : BitVec 16 := 0
  /-- the number of its key, and the GCM invocation counter of what it sends (R428) -/
  key : Nat := 0
  iv : Word := 0
  /-- groups that may be used: those whose lasers locked and that no restripe has left out (R431) -/
  avail : BitVec 4 := 15
  /-- beats received since training or the last restripe (R429), and the parts of a message received so far -/
  heard : Nat := 0
  part : List Byte := []
  deriving DecidableEq, Repr

/-- The attestation block (Table 22.4) and the snapshot of a report in progress (R410). -/
structure Attest where
  busy : Bool := false
  done : Bool := false
  status : Nat := 0
  world : Nat := 0
  nonce : Table Word := []
  buf : Word := 0
  seq : Nat := 0
  report : List Byte := []
  deriving DecidableEq, Repr

/-- A rung of the reset ladder that has not completed (R421): 0 queue, 1 context, 2 engine, 3 partition. -/
structure Rung where
  level : Nat
  fn : Nat
  ctx : Nat
  q : Nat
  signal : Word
  /-- the context is destroyed when its reset has completed (CDESTROY) -/
  destroy : Bool := false
  /-- the context whose group asked for it (R440) -/
  from_ : Option Nat := none
  deriving DecidableEq, Repr

/-- A time-slice switch in progress (R419, R426). -/
structure Switch where
  outgoing : Nat
  incoming : Nat
  deriving DecidableEq, Repr

/-- Whom a step runs for that may need a peer's value first: a group at a slot, or the step itself (R305, R315). -/
inductive Asker where
  | none
  | grp (g : Nat) (pc : Word)
  | step (i : Instr)
  deriving DecidableEq, Repr

/-- What a request to a peer asks (R435): the peer, the physical address there, how many bytes, the operation
(0 read, 1 write, 2 an atomic of Table 8.6 by number and type code, 3 an operation on a barrier object by `BarOp`,
4 ENQ or DEQ by `sub` 0 or 1, 5 a contribution to a collective), and its operands. -/
structure PeerMsg where
  peer : Nat
  pa : Nat
  n : Nat
  kind : Nat
  sub : Nat := 0
  ty : BitVec 6 := 0
  data : List Byte := []
  cmp : List Byte := []
  /-- the requester's world (R435) -/
  world : Nat := 0
  deriving DecidableEq, Repr

/-- A request sent to a peer whose completion response has not arrived (R434, R435): what it asks, the links it may
use, the group and pending result it serves, and the place, lane, width and signedness of the value it returns. -/
structure PeerOut where
  id : Nat := 0
  msg : PeerMsg
  links : Word := 0
  /-- whose energy and optical bucket it counts to, its context, and the KIND of its access (Table 8.2) -/
  fn : Nat := 0
  ctx : Nat := 0
  acc : Nat := 0
  wg : Nat := 0
  grp : Nat := 0
  pend : Nat := 0
  reg : Option RegRef := none
  lane : Nat := 0
  w : Nat := 64
  sgn : Bool := false
  /-- the asynchronous operation it serves, and which of its words (0 none) -/
  op : Nat := 0
  word : Nat := 0
  /-- the address that the access gave, and the link that its flit took: none while it is held (R434) -/
  addr : Word := 0
  link : Option Nat := none
  /-- the step that waits for its answer, and the die whose dirty set goes home before it is sent -/
  asker : Asker := .none
  rel : Option Nat := none
  deriving DecidableEq, Repr

/-- An answer to a peer's request (R435): the peer, the address that chose its link, its bytes or none for an error
response, and the link that its flit took; none while no link reaches the peer. -/
structure PeerAns where
  peer : Nat
  pa : Nat
  data : Option (List Byte)
  link : Option Nat := none
  deriving DecidableEq, Repr

/-- An answer that has arrived for a step that waits; none is an error response. -/
structure PeerGot where
  asker : Asker
  msg : PeerMsg
  data : Option (List Byte)
  deriving DecidableEq, Repr

/-- Which agent takes the next step. -/
inductive Turn where
  /-- a group issues -/
  | grp (g : Nat)
  /-- the i-th enabled step of the module's own agents -/
  | agent (i : Nat)
  /-- the oldest input -/
  | input
  deriving DecidableEq, Repr

/-- The machine. A field marked as the model's own is no state of the module: it orders agents, or counts. -/
structure State where
  /-- what outside agents bring next, oldest first: host, physical and timed events -/
  inputs : List Instr := []
  /-- what the flits accepted have brought of peers and has not happened yet, oldest first (R430) -/
  brought : List Instr := []
  /-- which agent moves next, oldest first; empty: the default order of `step` -/
  turns : List Turn := []
  /-- counts free values drawn (the model's own field) -/
  draw : Nat := 0
  /-- counts orders and identifiers (the model's own field) -/
  tick : Nat := 1
  /-- the group whose slot runs -/
  cur : Nat := 0
  /-- the sub-core that the default order serves next (the model's own field) -/
  nextSub : Nat := 0
  /-- the group that issued last on each sub-core (R351) -/
  issued : Table Nat := []
  /-- memory cells by location (Ops: module, host, peers, windows); unlisted reads 0 -/
  mem : Table Byte := []
  groups : Table Group := []
  wgs : Table Workgroup := []
  cores : Table Core := []
  banks : Table Bank := []
  engines : Table Engine := []
  ops : Table AsyncOp := []
  holds : Table Hold := []
  ctxs : Table Context := []
  fns : Table Func := []
  packets : Table Packet := []
  launches : Table Launch := []
  graphs : Table Unit3 := []
  phases : Table Unit3 := []
  jobs : Table Unit3 := []
  tlb : List TlbEntry := []
  /-- owner of each 64 KiB frame; unlisted is NONE, 0xFF (R398) -/
  owner : Table Nat := []
  /-- X and W marks, keyed 2^34 × world + frame (R364) -/
  markX : Table Bool := []
  markW : Table Bool := []
  /-- bias bit of each frame; unlisted is device bias (R422) -/
  bias : Table Bool := []
  /-- home of a frame where it is not the default of `homeOf` (R308) -/
  homes : Table Nat := []
  /-- lines whose MAC fails, and failed nodes of the counter trees, by number (R405) -/
  badMac : List Nat := []
  badNode : List Nat := []
  worlds : Table World := []
  /-- fw0 to fw3 (R407) -/
  fw : Table (BitVec 512) := []
  moves : List Move := []
  switches : Table Switch := []
  rungs : List Rung := []
  /-- BAR 0 of the physical function (Table 23.2) -/
  dev : DevState := .reset
  fcode : BitVec 8 := 0
  mgmt : Word := 0
  att : Attest := {}
  /-- words of the recovery image window, by index, and the image that it last gave to the flash: none while the flash holds
  the one of manufacture (R423) -/
  recimg : Table Word := []
  flash : Option (Table Word) := none
  /-- AGE, TARGETH in force and as written (Table 20.6) -/
  age : Nat := 0
  targeth : Nat := 61362
  targethNext : Option Nat := none
  wear : Table Wear := []
  /-- the wear table as the last completed boundary left it (R380, R389) -/
  wearAt : Table Wear := []
  /-- AGE at which the current energy window opened (R391) -/
  windowAge : Nat := 0
  /-- the logical core of each die, within the die, whose index its spare took (R4, R387) -/
  spareOf : Table Nat := []
  /-- the two checkpoint copies (R389) -/
  ckptA : Option Checkpoint := none
  ckptB : Option Checkpoint := none
  /-- vertical buses, keyed 72 × die + bus; unlisted: spare from 64, else active (R318) -/
  vbs : Table VbState := []
  lostDies : List Nat := []
  /-- the spare that serves, or will serve, the bank column of a repaired bus, keyed 72 × die + bus (R319) -/
  repairs : Table Nat := []
  selfid : BitVec 10 := 0
  routes : Table Word := []
  links : Table Link := []
  peerOut : List PeerOut := []
  /-- requests of peers already performed, newest first, to perform each once (R430, R432): 1024 × number + peer -/
  peerIn : List Nat := []
  /-- the last answer to the host: bytes read, and whether the access was refused (R401) -/
  hostData : List Byte := []
  hostRefused : Bool := false
  /-- answers to peers: 1024 × number + peer -/
  peerAns : Table PeerAns := []
  /-- answers of peers that the steps they serve have not used (R435) -/
  got : List PeerGot := []
  /-- while a step runs: whom it runs for, and what it still needs of peers (the model's own fields) -/
  asker : Asker := .none
  wants : List PeerOut := []
  /-- while a step runs: requests of the hub for which it does not wait, to be sent when it has happened -/
  toPeers : List PeerOut := []
  /-- bins and rings at peers, each with the step that has begun an indivisible operation on it (R188, R217) -/
  locks : List (Nat × Asker) := []
  /-- the pages of peers that a move is reading: the location, the bytes, the step that moves it (R324; the model's own
  field) -/
  moving : List (Nat × Nat × Asker) := []
  /-- the inputs and events that such a move has held back (R324; the model's own field) -/
  heldBack : List Instr := []
  /-- the host-owned lines that the hub holds under CXL.cache, by line number (R316) -/
  hostLines : List Nat := []
  /-- the lines of each die's L2 and of the hub cache, newest first (R307) -/
  l2 : Table (List Nat) := []
  hubc : List Nat := []
  /-- device acquires that cores of a die have made (R296, R297) -/
  dieAcq : Table Nat := []
  /-- storage writes of alias stores still to come, oldest first (R303) -/
  fmtPend : List FmtStore := []
  /-- write counters of lines (R404), and the tree nodes in the metadata cache, newest first -/
  ctrs : Table Nat := []
  /-- how often every line of a frame was written by a page move (R324, R404) -/
  frameCtrs : Table Nat := []
  mdc : List Nat := []
  /-- the context, 256 × function + number, whose group enqueued the element at a location of a ring of the hub (R440) -/
  enqBy : Table Nat := []
  /-- frames whose verification failed while no requester waited, to be lost (R405) -/
  failed : List Nat := []
  /-- failed tree nodes that an access has met, and whether the host has been told (R405) -/
  nodeMet : Table Bool := []
  deriving DecidableEq, Repr

/-- The spare cores and spare buses of a wear table in which every other record is blank (Table 20.2, R376). -/
def coldSpares : Table Wear :=
  ((List.range 12).map (17 * · + 16) ++ (List.range 12).flatMap fun d => (List.range 8).map (444 + 72 * d + 64 + ·)).map fun u =>
    (u, { state := 3 })

/-- The functions of the module before READY: none has a partition, and COUNT of function 0 reads 12 (Table 23.2). -/
def noFuncs : Table Func := (List.range 13).map fun f => (f, { count := if f = 0 then 12 else 0 })

/-- The module right after reset, before power-good (R423): STATE 0, nothing resident, no world, no
translation, memory with nothing listed. Age and the wear records are loaded at bring-up (R389). -/
def State.reset : State := { wear := coldSpares, fns := noFuncs }

end Sys2Proof.Machine
end

