-- ==== Sys2Proof/Machine/Table.lean ====
section
/-! DEFINITION. Finite tables as lists of (key, value) pairs: reading, writing and removing one key, and the
canonical form: keys rising, no entry equal to the default. -/

namespace Sys2Proof.Machine

/-- The value at key `k`, if listed. -/
def tget {α : Type} : Table α → Nat → Option α
  | [], _ => none
  | (j, v) :: t, k => if j = k then some v else tget t k

/-- Lists `v` at key `k`, in its place by rising keys. -/
def tput {α : Type} : Table α → Nat → α → Table α
  | [], k, v => [(k, v)]
  | (j, w) :: t, k, v =>
    if k < j then (k, v) :: (j, w) :: t
    else if k = j then (k, v) :: t
    else (j, w) :: tput t k v

/-- Removes key `k`. -/
def tdel {α : Type} : Table α → Nat → Table α
  | [], _ => []
  | (j, w) :: t, k => if j = k then tdel t k else (j, w) :: tdel t k

/-- The value at key `k`, or the default `d`. -/
def tval {α : Type} (d : α) (t : Table α) (k : Nat) : α := (tget t k).getD d

/-- Sets key `k` to `v`; the default is not listed. -/
def tset {α : Type} [DecidableEq α] (d : α) (t : Table α) (k : Nat) (v : α) : Table α :=
  if v = d then tdel t k else tput t k v

/-- Removes every key in [lo, lo + n). -/
def tclear {α : Type} (t : Table α) (lo n : Nat) : Table α :=
  t.filter fun p => !(decide (lo ≤ p.1) && decide (p.1 < lo + n))

/-- Every listed key is above `b` and keys rise. -/
def tabove {α : Type} : Option Nat → Table α → Bool
  | _, [] => true
  | b, (j, _) :: t => (match b with | none => true | some k => decide (k < j)) && tabove (some j) t

/-- The canonical form with default `d`. -/
def twf {α : Type} [DecidableEq α] (d : α) (t : Table α) : Bool :=
  tabove none t && t.all fun p => !decide (p.2 = d)

/-- A key above every listed key, and at least 1. -/
def tfresh {α : Type} (t : Table α) : Nat := t.foldl (fun m p => max m (p.1 + 1)) 1

end Sys2Proof.Machine
end

