-- ==== Sys2Proof/Machine/Groups.lean ====
section
/-! DEFINITION. Reading and writing the parts of the state by number: groups, workgroups, cores, contexts,
functions, trap banks; and the registers of a group (R15 to R22, R29, R84). -/

namespace Sys2Proof.Machine

/-- The group numbered `g`. -/
def State.grp? (s : State) (g : Nat) : Option Group := tget s.groups g

/-- The group numbered `g`; a blank group when none is. -/
def State.grpD (s : State) (g : Nat) : Group := (s.grp? g).getD {}

def State.setGrp (s : State) (g : Nat) (x : Group) : State := { s with groups := tput s.groups g x }

/-- Changes group `g`, if it is listed. -/
def State.updGrp (s : State) (g : Nat) (f : Group → Group) : State :=
  match s.grp? g with
  | some x => s.setGrp g (f x)
  | none => s

def State.wgD (s : State) (w : Nat) : Workgroup := (tget s.wgs w).getD {}

def State.updWg (s : State) (w : Nat) (f : Workgroup → Workgroup) : State :=
  match tget s.wgs w with
  | some x => { s with wgs := tput s.wgs w (f x) }
  | none => s

def State.coreD (s : State) (c : Nat) : Core := tval {} s.cores c

def State.updCore (s : State) (c : Nat) (f : Core → Core) : State :=
  { s with cores := tset {} s.cores c (f (s.coreD c)) }

def State.engD (s : State) (c : Nat) : Engine := tval {} s.engines c

def State.updEng (s : State) (c : Nat) (f : Engine → Engine) : State :=
  { s with engines := tset {} s.engines c (f (s.engD c)) }

/-- The key of context `c` of function `fn`. -/
def ctxKey (fn c : Nat) : Nat := 256 * fn + c

def State.ctxD (s : State) (fn c : Nat) : Context := (tget s.ctxs (ctxKey fn c)).getD {}

def State.updCtx (s : State) (fn c : Nat) (f : Context → Context) : State :=
  match tget s.ctxs (ctxKey fn c) with
  | some x => { s with ctxs := tput s.ctxs (ctxKey fn c) (f x) }
  | none => s

def State.fnD (s : State) (fn : Nat) : Func := (tget s.fns fn).getD {}

def State.updFn (s : State) (fn : Nat) (f : Func → Func) : State :=
  match tget s.fns fn with
  | some x => { s with fns := tput s.fns fn (f x) }
  | none => s

/-- The sub-core of a group, as the key of its trap bank: 8 × core + sub-core. -/
def Group.bankKey (g : Group) : Nat := 8 * g.core + g.sub

def State.bankD (s : State) (k : Nat) : Bank := (tget s.banks k).getD {}

def State.setBank (s : State) (k : Nat) (b : Bank) : State := { s with banks := tput s.banks k b }

/-- A fresh number for orders, identifiers and tags (R337, R366). -/
def State.bump (s : State) : State := { s with tick := s.tick + 1 }

/-- The die of a core (R4). -/
def dieOf (core : Nat) : Nat := core / 16

/-- The cluster of a core, counted over the module: its matrix engine (R4, R219). -/
def clusterOf (core : Nat) : Nat := core / 4

/-! ### Register places (R84) -/

/-- The place that a vector register code names. -/
def vPlace (tm : Bool) (n : Nat) : RegRef := if tm ∧ 0x1E0 ≤ n then .h (n - 0x1E0) else .v n

/-- The place that scalar register `n` names. -/
def sPlace (tm : Bool) (n : Nat) : RegRef := if tm ∧ 80 ≤ n then .hs (n - 80) else .s n

/-- A vector place of group `g`. -/
def State.readV (s : State) (x : Group) (r : RegRef) : Vec :=
  match r with
  | .v n => tval Vec.zero x.vregs n
  | .q a => tval Vec.zero x.queue a
  | .h n => tval Vec.zero (s.bankD x.bankKey).h n
  | _ => Vec.zero

/-- A scalar place of group `g`; predicates read as their mask or bit (Table 3.3). -/
def State.readS (s : State) (x : Group) (r : RegRef) : Word :=
  match r with
  | .s n => tval 0 x.sregs n
  | .hs n => tval 0 (s.bankD x.bankKey).hs n
  | .vp n => if n = 7 then 0xFFFFFFFF else (tval 0 x.vps n).setWidth 64
  | .sp n => if n = 7 then 1 else if x.sps.getLsbD n then 1 else 0
  | _ => 0

/-- Lane predicate `n` (R22). -/
def Group.vp (x : Group) (n : Nat) : Mask := if n = 7 then 0xFFFFFFFF else tval 0 x.vps n

/-- Scalar predicate `n` (R22). -/
def Group.sp (x : Group) (n : Nat) : Bool := decide (n = 7) || x.sps.getLsbD n

/-- Writes lanes `sel` of a vector place. -/
def State.writeV (s : State) (g : Nat) (r : RegRef) (sel : Mask) (v : Vec) : State :=
  match s.grp? g with
  | none => s
  | some x =>
    let new := merge sel (s.readV x r) v
    match r with
    | .v n => s.setGrp g { x with vregs := tset Vec.zero x.vregs n new }
    | .q a => s.setGrp g { x with queue := tset Vec.zero x.queue a new }
    | .h n => s.setBank x.bankKey { s.bankD x.bankKey with h := tset Vec.zero (s.bankD x.bankKey).h n new }
    | _ => s

/-- Bit `n` of the scalar predicates set to `b`. -/
def setSp (sps : BitVec 8) (n : Nat) (b : Bool) : BitVec 8 :=
  BitVec.ofNat 8 (packN 1 (fun i => if i = n then b.toNat else (sps.getLsbD i).toNat) 8 0)

/-- Writes a scalar place; a predicate takes the low bits. sp7 and vp7 keep their value (R22). -/
def State.writeS (s : State) (g : Nat) (r : RegRef) (v : Word) : State :=
  match s.grp? g with
  | none => s
  | some x =>
    match r with
    | .s n => s.setGrp g { x with sregs := tset 0 x.sregs n v }
    | .hs n => s.setBank x.bankKey { s.bankD x.bankKey with hs := tset 0 (s.bankD x.bankKey).hs n v }
    | .vp n => if n = 7 then s else s.setGrp g { x with vps := tset 0 x.vps n (v.setWidth 32) }
    | .sp n => if n = 7 then s else s.setGrp g { x with sps := setSp x.sps n (v.getLsbD 0) }
    | _ => s

/-- Ages a queue place by one; the entry of age 15 is gone (R20). -/
def RegRef.aged : RegRef → Option RegRef
  | .q a => if 15 ≤ a then none else some (.q (a + 1))
  | r => some r

/-- Ages the queue place of a pending write. -/
def RegWrite.aged : RegWrite → Option RegWrite
  | .vec r sel v => (RegRef.aged r).map fun r' => .vec r' sel v
  | w => some w

/-- Step 2 of a push (R20): every entry ages by one, pending entries included; q0 is then zero. -/
def Group.push (x : Group) : Group :=
  { x with
    queue := (x.queue.filter fun p => decide (p.1 < 15)).map fun p => (p.1 + 1, p.2)
    pend := x.pend.map fun p => { p with writes := p.writes.filterMap RegWrite.aged }
    producers := x.producers.filterMap fun p => (RegRef.aged p.reg).map fun r => { p with reg := r } }

/-- Performs one register write. -/
def State.doWrite (s : State) (g : Nat) (w : RegWrite) : State :=
  match w with
  | .vec r sel v => s.writeV g r sel v
  | .scalar r v => s.writeS g r v

/-- Writes results at once. -/
def State.writeNow (s : State) (g : Nat) (ws : List RegWrite) : State := ws.foldl (fun t w => t.doWrite g w) s

/-! ### The state at the slot of a pre-emption (R31, R259) -/

/-- What a forced save restores, as it stands now. -/
def Group.snapshot (x : Group) : Snap :=
  { act := x.act, live := x.live, fmt := x.fmt, sregs := x.sregs, vregs := x.vregs, queue := x.queue, sps := x.sps
    vps := x.vps, mstk := x.mstk, joined := x.joined, pend := x.pend }

/-- A group with the state that was kept. -/
def Snap.onto (k : Snap) (x : Group) : Group :=
  { x with
    act := k.act, live := k.live, fmt := k.fmt, sregs := k.sregs, vregs := k.vregs, queue := k.queue, sps := k.sps
    vps := k.vps, mstk := k.mstk, joined := k.joined }

/-- The group as its forced save takes it: in its pre-emption handler, with the state at TRAPPC. -/
def Group.atSlot (x : Group) : Group := match x.snap with | some k => k.onto x | none => x

/-- Changes the pending results, those of the kept state among them. -/
def Group.mapPend (x : Group) (f : Pend → Pend) : Group :=
  { x with pend := x.pend.map f, snap := x.snap.map fun k => { k with pend := k.pend.map f } }

/-- Writes pending result `id` into the kept state, where it was pending at the slot of the pre-emption. -/
def State.snapWrite (s : State) (g id : Nat) : State :=
  match (s.grpD g).snap with
  | none => s
  | some k =>
    match k.pend.find? fun p => decide (p.id = id) with
    | none => s
    | some p =>
      let t := (s.updGrp g k.onto).writeNow g p.writes
      s.updGrp g fun x => { x with
        snap := some { (t.grpD g).snapshot with pend := k.pend.filter fun q => decide (q.id ≠ id) } }

end Sys2Proof.Machine
end

