-- ==== Sys2Proof/Machine/Caches.lean ====
section
/-! DEFINITION. Homes of frames and lines, vertical buses, and which lines the caches hold: L1s with their MOESI
states, the L2s and their directories, the hub cache and its die vectors, instruction caches (R307 to R311, R314,
R317, R318, R443). -/

namespace Sys2Proof.Machine

/-! ### Homes (R308, R317) -/

/-- Where a frame is homed: 64 × die + bus, 768 and up for the capacity tier (R308, R317). -/
def State.homeOf (s : State) (f : Nat) : Nat :=
  tval (if f < 11010048 then 64 * (f / 917504) + f % 64 else 768) s.homes f

/-- The die of a near frame; 12 for a capacity frame (R308). -/
def State.homeDie (s : State) (f : Nat) : Nat := s.homeOf f / 64

/-- The die where a line is homed; 12 at the hub, 13 at the host (R308). -/
def State.lineHome (s : State) (line : Nat) : Nat := if 2 ^ 57 ≤ line then 13 else s.homeDie (line / 512)

/-- The state of a vertical bus of a die (R318). -/
def State.vbOf (s : State) (die bus : Nat) : VbState :=
  tval (if bus < 64 then .active else .spare) s.vbs (72 * die + bus)

/-- The bus that serves a bank column now: the column's own, or the spare that replaced it (R319). -/
def State.busNow (s : State) (die : Nat) : Nat → Nat → Nat
  | 0, b => b
  | n + 1, b => match tget s.repairs (72 * die + b) with | some c => s.busNow die n c | none => b

/-- The state of the bus that serves a near frame. -/
def State.busState (s : State) (f : Nat) : VbState :=
  let h := s.homeOf f
  s.vbOf (h / 64) (s.busNow (h / 64) 9 (h % 64))

/-- The bank columns of a die that no bus serves any more: their bus has been retired without a spare, or is lost. -/
def State.colsGone (s : State) (die : Nat) : Nat :=
  ((List.range 64).filter fun b => s.vbOf die (s.busNow die 9 b) = .retired ∨ s.vbOf die (s.busNow die 9 b) = .lost).length

/-- Lines that the column of a core of a die holds at most: 512 MiB, less 8 MiB for each bank column gone (R307, R317). -/
def State.colCap (s : State) (die : Nat) : Nat := 65536 * (64 - s.colsGone die)

/-- The near-tier bytes that a die reports: 56 GiB, less 896 MiB for each bank column gone (R317, R320). -/
def State.nearCapacity (s : State) (die : Nat) : Nat := 939524096 * (64 - s.colsGone die)

/-- The exclusive-or of the `n` fields of `w` bits of an address from bit 7 up. -/
def foldBits (w n pa : Nat) : Nat := (List.range n).foldl (fun x i => x ^^^ (pa / 2 ^ (7 + w * i) % 2 ^ w)) 0

/-- The hub bank of a physical address (R308). -/
def bankOf (pa : Nat) : Nat := foldBits 8 6 pa

/-- The L2 slice of a line on its home die (R308). -/
def sliceOf (pa : Nat) : Nat := foldBits 4 12 pa

/-- The channel of a capacity-tier address, in granules of 4 KiB; channels 0 to 11 are on E1, 12 to 23 on E2 (R308). -/
def channelOf (pa : Nat) : Nat := pa / 4096 % 24

/-! ### Owners of frames, and the counter trees (R398, R404, R405) -/

/-- Owner of a frame: 255 is NONE, 64 is OPEN (R398). -/
def State.ownerOf (s : State) (f : Nat) : Nat := tval 255 s.owner f

/-- The world whose key encrypts a frame, and whose tree counts its lines; an OPEN frame's is world 0 (R403). -/
def keyWorld (owner : Nat) : Nat := if owner = 64 then 0 else owner

/-- The world of a line's counter. -/
def State.lineWorld (s : State) (line : Nat) : Nat := keyWorld (s.ownerOf (line / 512))

/-- The number of a node of a world's counter tree: level 6 is the line's own counter (R404). -/
def treeNode (world level line : Nat) : Nat := (8 * world + level) * 2 ^ 36 + line / 64 ^ (6 - level)

/-- The level, the first address and the bytes of the lines under a node. -/
def nodeLevel (k : Nat) : Nat := k / 2 ^ 36 % 8
def nodeSpan (level : Nat) : Nat := 128 * 64 ^ (6 - level)
def nodeBase (k : Nat) : Nat := k % 2 ^ 36 * nodeSpan (nodeLevel k)

/-- The failed node above a line that a walk from the root meets first (R404, R405). -/
def State.nodeBad (s : State) (line : Nat) : Option Nat :=
  if s.badNode = [] then none
  else ((List.range 5).map fun i => treeNode (s.lineWorld line) (i + 1) line).find? s.badNode.contains

/-- An access meets a failed tree node, which the host is told once (R405). -/
def State.noteNode (s : State) (loc : Nat) : State :=
  match s.nodeBad (loc / 128) with
  | none => s
  | some k => if (tget s.nodeMet k).isSome then s else { s with nodeMet := tput s.nodeMet k false }

/-- Verifies a line's counter in the tree of its world: nodes from the lowest cached one down join the metadata cache of
131,072 lines (R404). -/
def State.verifyLine (s : State) (line : Nat) : State :=
  let need := ((List.range 6).map fun i => treeNode (s.lineWorld line) (6 - i) line).takeWhile fun k => !s.mdc.contains k
  if need = [] then s else { s with mdc := (need ++ s.mdc).take 131072 }

/-- Takes the nodes that verify a line of some frames out of the metadata cache (R400, Table 22.1). -/
def State.mdcDrop (s : State) (p : Nat → Bool) : State :=
  { s with mdc := s.mdc.filter fun k =>
      let idx := k % 2 ^ 36
      !(decide (nodeLevel k = 6) && p (idx / 512)) && !(decide (nodeLevel k = 5) && p (idx / 8)) }

/-- The write counter of a line: its own write-backs, and those of page moves to its frame (R404). -/
def State.lineCtr (s : State) (line : Nat) : Nat := (tval 0 s.ctrs line + tval 0 s.frameCtrs (line / 512)) % 2 ^ 64

/-- The line's write counter counts a write-back to DRAM (R404). -/
def State.countLine (s : State) (line : Nat) : State :=
  if 2 ^ 57 ≤ line then s else { s with ctrs := tset 0 s.ctrs line ((tval 0 s.ctrs line + 1) % 2 ^ 64) }

/-- Every line of a frame is written by a page move (R324, R404). -/
def State.countFrame (s : State) (f : Nat) : State := { s with frameCtrs := tset 0 s.frameCtrs f (tval 0 s.frameCtrs f + 1) }

/-- A node's counter for its parent: the write-backs below it (R404). -/
def State.nodeCtr (s : State) (world level idx : Nat) : Nat :=
  ((s.ctrs.filter fun p => decide (s.lineWorld p.1 = world) && decide (p.1 / 64 ^ (6 - level) = idx)).map Prod.snd).sum
    + ((s.frameCtrs.filter fun p => decide (keyWorld (s.ownerOf p.1) = world)).map fun p =>
        p.2 * ((List.range 512).filter fun i => decide ((512 * p.1 + i) / 64 ^ (6 - level) = idx)).length).sum

/-- The root of a world's counter tree, which the hub holds (R404). -/
def State.treeRoot (s : State) (world : Nat) : List Nat := (List.range 64).map (s.nodeCtr world 1)

/-- A line that the hub obtains from the host: it is held as host-owned (R316). -/
def State.hostOwn (s : State) (loc : Nat) : State :=
  { s with hostLines := if s.hostLines.contains (loc / 128) then s.hostLines else s.hostLines ++ [loc / 128] }

/-- Where an access of the module obtains the line through CXL.cache: the host tier, or a host-bias page (R316). -/
def State.hostOwnAt (s : State) (loc : Nat) : State :=
  if 2 ^ 64 ≤ loc ∨ tval false s.bias (loc / 65536) then s.hostOwn loc else s

/-! ### What the caches hold (R307, R309, R310)

A cache keeps the newest lines up to its size: which line goes is no matter of a result. -/

/-- The newest `n` of the lines that meet a condition, and every line that does not. -/
def keepLines (p : Nat → Bool) : Nat → List Nat → List Nat
  | _, [] => []
  | n, e :: t => if p e then (match n with | 0 => keepLines p 0 t | m + 1 => e :: keepLines p m t) else e :: keepLines p n t

/-- Puts a line first, where at most `n` lines of its class have room. -/
def touchLine (cls : Nat → Nat) (n line : Nat) (l : List Nat) : List Nat :=
  line :: keepLines (fun k => cls k == cls line) (n - 1) (l.filter (· != line))

/-- The lines of an L2 after one comes: each of its 16 slices has room for 32,768 (R307, R308). -/
def l2Put (line : Nat) (l : List Nat) : List Nat := touchLine (fun k => sliceOf (128 * k)) 32768 line l

/-- The lines of the hub cache after one comes: each of its 256 banks has room for 12,288 (R307, R308). -/
def hubPutLine (line : Nat) (l : List Nat) : List Nat := touchLine (fun k => bankOf (128 * k)) 12288 line l

/-- At most `n` lines of an L1: one in the evict-first class goes first, else the oldest (R208, R313). -/
def l1Trim (n : Nat) (l : List L1Line) : List L1Line :=
  if l.length ≤ n then l else if l.any L1Line.first then (l.reverse.eraseP L1Line.first).reverse else l.take n

/-- The line in a core's L1, unless it is not of its own die's coherent view and came under an older generation (R312). -/
def State.l1Of (s : State) (c line : Nat) : Option L1Line :=
  (s.coreD c).l1.find? fun e => decide (e.line = line) && (e.data.isEmpty || decide (e.gen = (s.coreD c).gen.toNat))

/-- Puts a line into a core's L1 of 4,096 lines. -/
def State.l1Put (s : State) (c : Nat) (e : L1Line) : State :=
  s.updCore c fun k =>
    { k with l1 := { e with gen := k.gen.toNat } :: l1Trim 4095 (k.l1.filter fun d => !decide (d.line = e.line)) }

/-- Changes the line's entry in the L1s of the cores that a test picks; none drops it. -/
def State.l1Map (s : State) (line : Nat) (p : Nat → Bool) (f : L1Line → Option L1Line) : State :=
  { s with cores := s.cores.map fun (k : Nat × Core) =>
      if (p k.1 && k.2.l1.any fun e => decide (e.line = line)) = true then
        (k.1, { k.2 with l1 := k.2.l1.filterMap fun e => if e.line = line then f e else some e })
      else k }

/-- The line is in the hub cache, and in the L2 of its home die when a core of that die reads it (R307). -/
def State.lineCome (s : State) (die line : Nat) : State :=
  { s with
    hubc := hubPutLine line s.hubc
    l2 := if s.lineHome line = die then tput s.l2 die (l2Put line (tval [] s.l2 die)) else s.l2 }

/-- A line comes to a core that reads it: a copy elsewhere on the die becomes shared (R309, R310). -/
def State.l1Fill (s : State) (die c line : Nat) (data : List Byte) (first : Bool) : State :=
  let others := (s.cores.filter fun k => decide (dieOf k.1 = die) && decide (k.1 ≠ c)).any fun k =>
    k.2.l1.any fun e => decide (e.line = line)
  let s1 := s.l1Map line (fun k => decide (dieOf k = die) && decide (k ≠ c)) fun e =>
    some { e with st := match e.st with | .modified => .owned | .exclusive => .shared | x => x }
  (s1.lineCome die line).l1Put c
    { line := line, gen := 0, st := if others then .shared else .exclusive, data := data, first := first }

/-- A core reads a line of its die's coherent view: it is in its L1 already, or it comes (R309, R310). -/
def State.l1Read (s : State) (die c line : Nat) : State :=
  if (s.l1Of c line).isSome then s else s.l1Fill die c line [] false

/-- A core writes a line: every other L1 copy of its die goes, and its own is modified (R309, R443). -/
def State.l1Write (s : State) (die c line : Nat) (data : List Byte) (first : Bool) : State :=
  ((s.l1Map line (fun k => decide (dieOf k = die) && decide (k ≠ c)) fun _ => none).lineCome die line).l1Put c
    { line := line, gen := 0, st := .modified, data := data, first := first }

/-- The line number of a group's control page, whose home is its core (R313, Table 15.1). -/
def ctlLine (g : Nat) : Nat := 2 ^ 100 + 32 * g

/-- A core reads its group's control page through its L1. -/
def State.ctlTouch (s : State) (c g off : Nat) : State :=
  let line := ctlLine g + off / 128
  if (s.l1Of c line).isSome then s else s.l1Put c { line := line, gen := 0, st := .exclusive }

/-- A request at the hub bank recalls or invalidates the line in the L1s and the L2 of its home die, and in every L1 that
holds it in state M, O or E (R203, R309). -/
def State.recall (s : State) (line : Nat) : State :=
  let h := s.lineHome line
  let s1 := s.l1Map line (fun _ => true) fun e => if e.st = .shared then some e else none
  let s2 := s1.l1Map line (fun k => decide (dieOf k = h)) fun _ => none
  { s2 with
    l2 := if (tval [] s2.l2 h).contains line then tput s2.l2 h ((tval [] s2.l2 h).filter (· != line)) else s2.l2
    hubc := hubPutLine line s2.hubc }

/-- An entry of a die's L2 directory (R309, R443): the state of the line, a bit for each cluster with a copy, the columns
that hold it, and the one with dirty bytes. -/
structure DirEntry where
  st : Moesi
  sharers : BitVec 4
  columns : BitVec 16
  dirty : Option Nat
  deriving DecidableEq, Repr

/-- The directory entry of a line on a die: none while no L1 and no column of the die holds it. -/
def State.dirOf (s : State) (die line : Nat) : Option DirEntry :=
  let holds (c : Nat) : Option L1Line := (s.coreD c).l1.find? fun e => decide (e.line = line)
  let col (c : Nat) : Bool := (tget (s.coreD c).column line).isSome
  let dirty (c : Nat) : Bool := (s.coreD c).dirty.any fun e => decide (e.line = line)
  let cs := (List.range 16).map (16 * die + ·)
  let sts := cs.filterMap fun c => (holds c).map L1Line.st
  if sts = [] ∧ ¬ cs.any fun c => col c || dirty c then none
  else
    some
      { st := if sts.contains .modified then .modified else if sts.contains .owned then .owned
              else if sts.contains .exclusive then .exclusive else .shared
        sharers := BitVec.ofNat 4 (packN 1 (fun i => ((List.range 4).any fun j => (holds (16 * die + 4 * i + j)).isSome).toNat) 4 0)
        columns := BitVec.ofNat 16 (packN 1 (fun i => (col (16 * die + i) || dirty (16 * die + i)).toNat) 16 0)
        dirty := cs.find? dirty }

/-- The hub's vector of a line: the dies whose L2 holds it or whose L1s hold it in state M, O or E (R309). -/
def State.dieVec (s : State) (line : Nat) : BitVec 12 :=
  BitVec.ofNat 12 (packN 1 (fun d =>
    ((tval [] s.l2 d).contains line
      || (s.cores.any fun k => decide (dieOf k.1 = d) && k.2.l1.any fun e => decide (e.line = line) && decide (e.st ≠ .shared))).toNat) 12 0)

/-- A core fetches an executable line into its instruction cache of 2,048 lines (R311). -/
def State.icFill (s : State) (c line : Nat) : State :=
  if ((s.coreD c).icache.head?) = some line then s
  else s.updCore c fun k => { k with icache := touchLine (fun _ => 0) 2048 line k.icache }

/-- Instruction-cache lines of frames go with a translation of them (R311, R363). -/
def State.icDrop (s : State) (p : Nat → Bool) : State :=
  { s with cores := s.cores.map fun (k : Nat × Core) =>
      if k.2.icache.any p then (k.1, { k.2 with icache := k.2.icache.filter fun l => !p l }) else k }

/-- The lines of a range leave every cache and column (R324, R400). -/
def State.cacheDrop (s : State) (lo n : Nat) : State :=
  let inR (l : Nat) : Bool := decide (lo ≤ l) && decide (l < lo + n)
  { s with
    cores := s.cores.map fun (k : Nat × Core) =>
      (k.1, { k.2 with l1 := k.2.l1.filter fun e => !inR e.line, icache := k.2.icache.filter fun l => !inR l })
    l2 := s.l2.map fun (p : Nat × List Nat) => (p.1, p.2.filter fun l => !inR l)
    hubc := s.hubc.filter fun l => !inR l
    hostLines := s.hostLines.filter fun l => !inR l }

end Sys2Proof.Machine
end

