-- ==== Sys2Proof/Machine/Mem.lean ====
section
/-! DEFINITION. Memory cells by location, and the column caches: the die's dirty set, stale column lines,
write-back by byte mask, acquire and release (R6, R192, R308 to R315, R443, Table 8.5). -/

namespace Sys2Proof.Machine

/-! ### Locations

A location is a number: a physical address of the module as it is; the host's physical address `a` as
2^64 + a; byte `o` of workgroup `w`'s window as 2^96 + w × 2^32 + o. What a peer holds is no state of this module: it is
reached by requests (R435). `peerLoc` only numbers the lines of peers, to count requests. -/

def hostLoc (a : Nat) : Nat := 2 ^ 64 + a
def peerLoc (p a : Nat) : Nat := 2 ^ 80 + p * 2 ^ 64 + a
def winLoc (w o : Nat) : Nat := 2 ^ 96 + w * 2 ^ 32 + o

/-- One byte as the hub holds it; an unlisted byte reads 0 (assumption log 3). -/
def State.rdByte (s : State) (l : Nat) : Byte := tval 0 s.mem l

/-- Writes one byte, keeping the canonical form. -/
def State.wrByte (s : State) (l : Nat) (b : Byte) : State := { s with mem := tset 0 s.mem l b }

/-- `n` bytes from a location. -/
def State.rdBytes (s : State) (l : Nat) : Nat → List Byte
  | 0 => []
  | n + 1 => s.rdByte l :: s.rdBytes (l + 1) n

/-- Writes bytes from a location up. -/
def State.wrBytes (s : State) (l : Nat) : List Byte → State
  | [] => s
  | b :: t => (s.wrByte l b).wrBytes (l + 1) t

/-- An `n`-byte little-endian number as the hub holds it. -/
def State.rd (s : State) (l n : Nat) : Nat := ofBytes (s.rdBytes l n)

/-- Writes an `n`-byte little-endian number at the hub. -/
def State.wr (s : State) (l n v : Nat) : State := s.wrBytes l (toBytes n v)

/-- Memory keeps its canonical form: locations rising, no listed byte 0. -/
def Memory.wf (m : Table Byte) : Bool := twf 0 m

/-! ### Columns (R312, R443) -/

/-- The cores of a die. -/
def coresOf (die : Nat) : List Nat := (List.range 16).map (16 * die + ·)

/-- The dirty entry of a line on a core. -/
def State.dirtyOf (s : State) (c line : Nat) : Option DirtyLine :=
  (s.coreD c).dirty.find? fun e => decide (e.line = line)

/-- The dirty byte of a location on a die, if some column of the die holds one. -/
def State.dieDirty (s : State) (die l : Nat) : Option Byte :=
  (coresOf die).findSome? fun c => (s.dirtyOf c (l / 128)).bind fun e => tget e.bytes (l % 128)

/-- Whether the die holds dirty bytes of a line. -/
def State.lineDirty (s : State) (die line : Nat) : Bool :=
  (coresOf die).any fun c => (s.dirtyOf c line).isSome

/-- Whether the verification of a line fails: its MAC, or a tree node above it (R405). -/
def State.lineBad (s : State) (line : Nat) : Bool := s.badMac.contains line || (s.nodeBad line).isSome

/-- Adds traffic energy in pJ to a function's charges of the tick (R390). -/
def State.charge (s : State) (fn pj : Nat) : State := s.updFn fn fun f => { f with traffic := f.traffic + pj }

/-- pJ that a byte of a location costs, read or written: of the host, or of the capacity tier (Table 20.5). -/
def State.byteCost (s : State) (loc : Nat) : Nat :=
  if 2 ^ 64 ≤ loc then 6 else if s.homeOf (loc / 65536) < 768 then 0 else 10

/-- Charges a function for `n` bytes read or written at a location (R390). -/
def State.chargeAt (s : State) (fn loc n : Nat) : State :=
  if s.byteCost loc = 0 then s else s.charge fn (s.byteCost loc * n)

/-- The function that holds a die's slice now (R411, R419). -/
def State.holderOf (s : State) (die : Nat) : Option Nat :=
  (s.fns.find? fun p => decide (p.2.first ≤ die) && decide (die < p.2.first + p.2.count) && (!p.2.ts || p.2.resident)).map Prod.fst

/-- The counters of the lines of `n` bytes count a write-back to DRAM (R404). -/
def State.countLines (s : State) (l n : Nat) : State :=
  (List.range ((l % 128 + n + 127) / 128)).foldl (fun t i => t.countLine (l / 128 + i)) s

/-- Writes the masked bytes of a die's entry to the home, charged to the function that holds the die. A full line stores a
new counter and MAC, which ends a failure of its MAC; any other write-back over a failure loses the page (R312, R390,
R404, R405). -/
def State.writeBack (s : State) (die : Nat) (e : DirtyLine) : State :=
  if s.lineBad e.line ∧ (e.bytes.length < 128 ∨ (s.nodeBad e.line).isSome) then
    { s with failed := if s.failed.contains (e.line / 512) then s.failed else s.failed ++ [e.line / 512] }
  else
    let s1 := e.bytes.foldl (fun t p => t.wrByte (128 * e.line + p.1) p.2) s
    let s2 := { s1 with badMac := s1.badMac.filter (· != e.line) }.countLine e.line
    match s.holderOf die with
    | some fn => s2.chargeAt fn (128 * e.line) e.bytes.length
    | none => s2

/-- Writes back every dirty entry of a core (R209). -/
def State.cleanCore (s : State) (c : Nat) : State :=
  let s1 := (s.coreD c).dirty.foldl (fun t e => t.writeBack (dieOf c) e) s
  s1.updCore c fun k => { k with dirty := [] }

/-- Writes back the dirty set of a die (R443). -/
def State.cleanDie (s : State) (die : Nat) : State := (coresOf die).foldl State.cleanCore s

/-- Writes back the die's dirty bytes of one line. -/
def State.cleanLine (s : State) (die line : Nat) : State :=
  (coresOf die).foldl (fun t c =>
    match t.dirtyOf c line with
    | none => t
    | some e => (t.writeBack die e).updCore c fun k =>
        { k with dirty := k.dirty.filter fun e => !decide (e.line = line) }) s

/-- Drops the column copies of a line on the die's cores, except core `keep`. -/
def State.dropCopies (s : State) (die line : Nat) (keep : Option Nat) : State :=
  (coresOf die).foldl (fun t c =>
    if keep = some c then t
    else if (tget (t.coreD c).column line).isNone then t
    else t.updCore c fun k => { k with column := tdel k.column line }) s

/-- Discards every dirty byte and copy of the lines in [lo, lo + n) from every cache, without write-back
(R400). -/
def State.discardLines (s : State) (lo n : Nat) : State :=
  (s.cores.foldl (fun t p => t.updCore p.1 fun k =>
    { k with
      dirty := k.dirty.filter fun e => !(decide (lo ≤ e.line) && decide (e.line < lo + n))
      column := tclear k.column lo n }) s).cacheDrop lo n

/-- Writes back and then discards the lines in [lo, lo + n) on every core (R324). -/
def State.flushLines (s : State) (lo n : Nat) : State :=
  let s1 := s.cores.foldl (fun t p =>
    ((t.coreD p.1).dirty.filter fun e => decide (lo ≤ e.line) && decide (e.line < lo + n)).foldl
      (fun u e => u.writeBack (dieOf p.1) e) t) s
  s1.discardLines lo n

/-- Drops the L1 copies of a line on a die that hold bytes of their own. -/
def State.dropL1 (s : State) (die line : Nat) : State :=
  s.l1Map line (fun k => decide (dieOf k = die)) fun e => if e.data.isEmpty then some e else none

/-- Before the hub serves a request of the die for a line: the issuing die's dirty bytes go home and its copies go, so
that the request follows every access of the die that happens before it (R296 case 1, R297); the hub recalls the line from
the L1s of its directories (R203, R309). -/
def State.toHub (s : State) (die line : Nat) : State :=
  (((s.cleanLine die line).dropCopies die line none).dropL1 die line).recall line

/-- A hub engine, a walker or a peer writes `n` bytes at the hub bank: the line is recalled from the directories, and its
counter counts the write (R309, R404). -/
def State.bankWrite (s : State) (l n x : Nat) : State := (((s.recall (l / 128)).hostOwnAt l).wr l n x).countLines l n

/-- The line as a core of the die fills it: the hub's bytes under the die's dirty bytes (R443). -/
def State.fillLine (s : State) (die line : Nat) : List Byte :=
  (List.range 128).map fun i => (s.dieDirty die (128 * line + i)).getD (s.rdByte (128 * line + i))

/-- Drops `n` lines that meet no condition. -/
def dropLines (p : Nat → Bool) : Nat → Table ColLine → Table ColLine
  | _, [] => []
  | 0, t => t
  | n + 1, e :: t => if p e.1 then e :: dropLines p (n + 1) t else dropLines p n t

/-- The lines of a core's column: those filled, and dirty ones that lie there besides (R2, R312). -/
def Core.colLines (k : Core) : Nat := k.column.length + (k.dirty.filter fun e => (tget k.column e.line).isNone).length

/-- A column over its room loses lines that are not dirty (R2, R307). -/
def Core.colTrim (k : Core) (cap : Nat) : Core :=
  if k.colLines ≤ cap then k
  else { k with column := dropLines (fun l => k.dirty.any fun e => decide (e.line = l)) (k.colLines - cap) k.column }

/-- Puts a line into a core's column, from which another may go. -/
def State.columnPut (s : State) (die c line : Nat) (e : ColLine) : State :=
  s.updCore c fun k =>
    let rest : Core := { k with column := tdel k.column line }
    let room := rest.colTrim (s.colCap die - 1)
    { room with column := tput room.column line e }

/-- The column of a core serves a line, unless the die's dirty bytes do or it came under an older generation (R310, R312). -/
def State.columnHit (s : State) (die c line : Nat) : Option (List Byte) :=
  if s.lineDirty die line then none
  else (tget (s.coreD c).column line).bind fun e => if e.gen = (s.coreD c).gen.toNat then some e.data else none

/-- A core's read of `n` bytes of one line that is not homed on its die: from its L1, the die's dirty bytes, its column
unless the policy leaves that out, or the hub, in that order (R310, R313). -/
def State.farRead (s : State) (die c l n : Nat) (col first : Bool) : State × Nat :=
  let line := l / 128
  let part (d : List Byte) : Nat := ofBytes ((d.drop (l % 128)).take n)
  match s.l1Of c line with
  | some e => (s, part e.data)
  | none =>
    match (if col then s.columnHit die c line else none) with
    | some d => (s.l1Fill die c line d first, part d)
    | none =>
      let d := s.fillLine die line
      let s1 := if col then s.columnPut die c line { gen := (s.coreD c).gen.toNat, data := d } else s
      (s1.l1Fill die c line d first, part d)

/-- Puts bytes at a place of a list. -/
def patch : List Byte → Nat → List Byte → List Byte
  | d, _, [] => d
  | d, i, b :: t => patch (d.set i b) (i + 1) t

/-- A core's write of bytes of one line that is not homed on its die: the line's dirty bytes gather in its
own entry, and the other cores of the die lose their copies (R443, R312). -/
def State.columnWrite (s : State) (die c l : Nat) (bs : List Byte) : State :=
  let line := l / 128
  let gathered := (coresOf die).foldl (fun (acc : Table Byte) c' =>
    match s.dirtyOf c' line with
    | some e => e.bytes.foldl (fun a p => tput a p.1 p.2) acc
    | none => acc) []
  let own := (s.dirtyOf c line).isSome
  let s1 := (coresOf die).foldl (fun t c' =>
    if c' = c ∨ (t.dirtyOf c' line).isNone then t
    else t.updCore c' fun k => { k with dirty := k.dirty.filter fun e => !decide (e.line = line) }) s
  let s2 := s1.dropCopies die line (some c)
  let s3 :=
    if ¬ own ∧ 32768 ≤ (s2.coreD c).dirty.length then
      match (s2.coreD c).dirty with
      | e :: _ => (s2.writeBack die e).updCore c fun k => { k with dirty := k.dirty.drop 1 }
      | [] => s2
    else s2
  let bytes := (bs.zipIdx).foldl (fun a p => tput a (l % 128 + p.2) p.1) gathered
  s3.updCore c fun k =>
    let k1 : Core := { k with
      dirty := if own then k.dirty.map fun (e : DirtyLine) => if e.line = line then { e with bytes := bytes } else e
               else k.dirty ++ [{ line := line, bytes := bytes }]
      column := match tget k.column line with
        | some e => tput k.column line { e with data := patch e.data (l % 128) bs }
        | none => k.column }
    k1.colTrim (s.colCap die)

/-- The bytes of a line as a core has them, in its L1 or its column; else as the die fills it. -/
def State.lineOf (s : State) (die c line : Nat) : List Byte :=
  match s.l1Of c line with
  | some e => e.data
  | none => (s.columnHit die c line).getD (s.fillLine die line)

/-- A core's write of bytes of one line that is not homed on its die. The line is allocated in its L1; the bytes enter the
dirty index, or where the policy leaves the column out they go home by their mask (R307, R312, R313). -/
def State.farWrite (s : State) (die c l : Nat) (bs : List Byte) (col first : Bool) : State :=
  let line := l / 128
  let d := patch (s.lineOf die c line) (l % 128) bs
  let s1 := if col then s.columnWrite die c l bs
    else ((((s.cleanLine die line).dropCopies die line none).recall line).wrBytes l bs).countLine line
  s1.l1Write die c line d first

/-- The core's acquire generation increments; when it wraps, the dirty index is written back and every
column line and column-filled L1 line goes (R312). -/
def State.nextGen (s : State) (c : Nat) : State :=
  if (s.coreD c).gen = 0xFFFF then
    let s1 := s.cleanCore c
    s1.updCore c fun k => { k with gen := 0, column := [], l1 := k.l1.filter fun e => e.data.isEmpty }
  else s.updCore c fun k => { k with gen := k.gen + 1 }

/-- The column action of a release (Table 8.5). -/
def State.release (s : State) (die scp : Nat) : State := if 2 ≤ scp then s.cleanDie die else s

/-- A device acquire of a core is noted on its die. -/
def State.acqNote (s : State) (c : Nat) : State :=
  let n := tval 0 s.dieAcq (dieOf c) + 1
  ({ s with dieAcq := tput s.dieAcq (dieOf c) n }).updCore c fun k => { k with seen := n }

/-- The column action of an acquire (Table 8.5): at device scope the generation increments. A narrower acquire hands on
what another core of the die has acquired since (R296, R297): the core's column lines filled before go. -/
def State.acquire (s : State) (c scp : Nat) : State :=
  if 3 ≤ scp then (s.nextGen c).acqNote c
  else if scp = 0 ∨ tval 0 s.dieAcq (dieOf c) ≤ (s.coreD c).seen then s
  else s.updCore c fun k =>
    { k with column := [], l1 := k.l1.filter fun e => e.data.isEmpty, seen := tval 0 s.dieAcq (dieOf c) }

end Sys2Proof.Machine
end

