-- ==== Sys2Proof/Machine/Sha.lean ====
section
/-! DEFINITION. SHA-512 as FIPS 180-4 defines it, which the spec names (R263, R389, R407, R409) and does not
reproduce. -/

namespace Sys2Proof.Machine

/-- The first 80 primes. -/
def primes80 : List Nat :=
  [2, 3, 5, 7, 11, 13, 17, 19, 23, 29, 31, 37, 41, 43, 47, 53, 59, 61, 67, 71] ++
  [73, 79, 83, 89, 97, 101, 103, 107, 109, 113, 127, 131, 137, 139, 149, 151, 157, 163, 167, 173] ++
  [179, 181, 191, 193, 197, 199, 211, 223, 227, 229, 233, 239, 241, 251, 257, 263, 269, 271, 277, 281] ++
  [283, 293, 307, 311, 313, 317, 331, 337, 347, 349, 353, 359, 367, 373, 379, 383, 389, 397, 401, 409]

/-- The greatest number whose k-th power is at most `n`, by bits from `b` down. -/
def rootBits (k n : Nat) : Nat → Nat → Nat
  | 0, acc => acc
  | b + 1, acc => rootBits k n b (if (acc + 2 ^ b) ^ k ≤ n then acc + 2 ^ b else acc)

/-- The round constants: 64 bits of the fractional parts of cube roots. -/
def shaK : List Word := primes80.map fun p => BitVec.ofNat 64 (rootBits 3 (p * 2 ^ 192) 70 0)

/-- The initial hash value: 64 bits of the fractional parts of square roots of the first eight primes. -/
def shaInit : List Word := (primes80.take 8).map fun p => BitVec.ofNat 64 (rootBits 2 (p * 2 ^ 128) 70 0)

/-- A number of big-endian bytes. -/
def beNum (l : List Byte) : Nat := l.foldl (fun n b => 256 * n + b.toNat) 0

/-- Big-endian bytes of a number, `n` of them. -/
def beBytes : Nat → Nat → List Byte
  | 0, _ => []
  | n + 1, v => BitVec.ofNat 8 (v / 256 ^ n) :: beBytes n v

/-- The padded message. -/
def shaPad (m : List Byte) : List Byte :=
  m ++ [0x80] ++ List.replicate ((239 - m.length % 128) % 128) 0 ++ beBytes 16 (8 * m.length)

def sig0 (x : Word) : Word := x.rotateRight 1 ^^^ x.rotateRight 8 ^^^ (x >>> 7)
def sig1 (x : Word) : Word := x.rotateRight 19 ^^^ x.rotateRight 61 ^^^ (x >>> 6)
def sum0 (x : Word) : Word := x.rotateRight 28 ^^^ x.rotateRight 34 ^^^ x.rotateRight 39
def sum1 (x : Word) : Word := x.rotateRight 14 ^^^ x.rotateRight 18 ^^^ x.rotateRight 41

/-- The message schedule, newest word first. -/
def shaSched : Nat → List Word → List Word
  | 0, l => l
  | n + 1, l =>
    shaSched n ((sig1 (l.getD 1 0) + l.getD 6 0 + sig0 (l.getD 14 0) + l.getD 15 0) :: l)

/-- One round on the eight working variables. -/
def shaRound (v : List Word) (kw : Word) : List Word :=
  let e := v.getD 4 0
  let a := v.getD 0 0
  let t1 := v.getD 7 0 + sum1 e + ((e &&& v.getD 5 0) ^^^ (~~~e &&& v.getD 6 0)) + kw
  let t2 := sum0 a + ((a &&& v.getD 1 0) ^^^ (a &&& v.getD 2 0) ^^^ (v.getD 1 0 &&& v.getD 2 0))
  [t1 + t2, a, v.getD 1 0, v.getD 2 0, v.getD 3 0 + t1, e, v.getD 5 0, v.getD 6 0]

/-- One block of 128 bytes. -/
def shaBlock (h : List Word) (b : List Byte) : List Word :=
  let w0 := ((List.range 16).map fun i => BitVec.ofNat 64 (beNum ((b.drop (8 * i)).take 8))).reverse
  let ws := (shaSched 64 w0).reverse
  let v := (shaK.zip ws).foldl (fun v p => shaRound v (p.1 + p.2)) h
  (h.zip v).map fun p => p.1 + p.2

/-- Blocks of a padded message. -/
def shaBlocks : Nat → List Word → List Byte → List Word
  | 0, h, _ => h
  | n + 1, h, m => shaBlocks n (shaBlock h (m.take 128)) (m.drop 128)

/-- SHA-512, as a number of 64 big-endian bytes. -/
def sha512 (m : List Byte) : BitVec 512 :=
  let p := shaPad m
  BitVec.ofNat 512 ((shaBlocks (p.length / 128) shaInit p).foldl (fun n (w : Word) => 2 ^ 64 * n + w.toNat) 0)

/-- Extends a measurement register with a digest (R263, R407). -/
def extend (r h : BitVec 512) : BitVec 512 := sha512 (beBytes 64 r.toNat ++ beBytes 64 h.toNat)

end Sys2Proof.Machine
end

