-- ==== Sys2Proof/Machine/Crypto.lean ====
section
/-! DEFINITION. What DRAM stores: AES-256 in counter mode and the GHASH-based MAC of each line, under the key of the world
that owns it (R402 to R404); what flits carry (R428); and the identity key and its signatures (R406, R409). -/

namespace Sys2Proof.Machine

/-! ### AES-256 (FIPS 197, which R403 names) -/

/-- Multiplication by x in the field of AES. -/
def gfTwice (a : Byte) : Byte := (a <<< 1) ^^^ (if a.getLsbD 7 then 0x1B else 0)

/-- Multiplication in the field of AES. -/
def gfMul (a b : Byte) : Byte :=
  ((List.range 8).foldl (fun (p : Byte × Byte) i => (if b.getLsbD i then p.1 ^^^ p.2 else p.1, gfTwice p.2)) (0, a)).1

/-- The inverse, a^254; that of 0 is 0. -/
def gfInv (a : Byte) : Byte :=
  ((List.range 7).foldl (fun (p : Byte × Byte) _ => let q := gfMul p.2 p.2; (gfMul p.1 q, q)) (1, a)).1

/-- The S-box. -/
def sbox (a : Byte) : Byte :=
  let b := gfInv a
  b ^^^ b.rotateLeft 1 ^^^ b.rotateLeft 2 ^^^ b.rotateLeft 3 ^^^ b.rotateLeft 4 ^^^ 0x63

/-- Exclusive-or of byte strings. -/
def xorBytes (a b : List Byte) : List Byte := List.zipWith (· ^^^ ·) a b

/-- The round constant of the words 8n. -/
def aesRcon (n : Nat) : Byte := (List.range (n - 1)).foldl (fun a _ => gfTwice a) 1

/-- Adds `n` words to a key schedule, newest first. -/
def aesExpand : Nat → List (List Byte) → List (List Byte)
  | 0, ws => ws
  | n + 1, ws =>
    let t := ws.headD []
    let f :=
      if ws.length % 8 = 0 then xorBytes ((t.drop 1 ++ t.take 1).map sbox) [aesRcon (ws.length / 8), 0, 0, 0]
      else if ws.length % 8 = 4 then t.map sbox
      else t
    aesExpand n (xorBytes f (ws.getD 7 []) :: ws)

/-- The 15 round keys. -/
def aesKeys (k : BitVec 256) : List (List Byte) :=
  let bs := beBytes 32 k.toNat
  let ws := (aesExpand 52 ((List.range 8).map fun i => (bs.drop (4 * i)).take 4).reverse).reverse
  (List.range 15).map fun r => ((ws.drop (4 * r)).take 4).flatten

/-- Byte `r` of column `c` of a block. -/
def blkAt (b : List Byte) (r c : Nat) : Byte := b.getD (4 * c + r) 0

/-- A block by its rows and columns. -/
def blkOf (f : Nat → Nat → Byte) : List Byte := (List.range 4).flatMap fun c => (List.range 4).map fun r => f r c

def shiftRows (b : List Byte) : List Byte := blkOf fun r c => blkAt b r ((c + r) % 4)

def mixColumns (b : List Byte) : List Byte :=
  blkOf fun r c =>
    gfMul 2 (blkAt b r c) ^^^ gfMul 3 (blkAt b ((r + 1) % 4) c) ^^^ blkAt b ((r + 2) % 4) c ^^^ blkAt b ((r + 3) % 4) c

/-- Encrypts a block. -/
def aes256 (k : BitVec 256) (b : BitVec 128) : BitVec 128 :=
  let ks := aesKeys k
  let mid := ((List.range 13).map (· + 1)).foldl (fun s i => xorBytes (mixColumns (shiftRows (s.map sbox))) (ks.getD i []))
    (xorBytes (beBytes 16 b.toNat) (ks.getD 0 []))
  BitVec.ofNat 128 (beNum (xorBytes (shiftRows (mid.map sbox)) (ks.getD 14 [])))

/-! ### GHASH (SP 800-38D, which R403 names) -/

/-- Multiplication in the field of GHASH. -/
def ghMul (x y : BitVec 128) : BitVec 128 :=
  ((List.range 128).foldl (fun (p : BitVec 128 × BitVec 128) i =>
    (if x.getLsbD (127 - i) then p.1 ^^^ p.2 else p.1,
      (p.2 >>> 1) ^^^ (if p.2.getLsbD 0 then 0xE1#128 <<< 120 else 0))) (0, y)).1

def ghash (h : BitVec 128) (bs : List (BitVec 128)) : BitVec 128 := bs.foldl (fun y b => ghMul (y ^^^ b) h) 0

/-! ### Lines (R402, R403) -/

/-- The block that block `j` of the keystream encrypts: PA in 56 bits, j in 8, the counter in 64 (assumption log 74). -/
def ctrBlock (pa j ctr : Nat) : BitVec 128 := BitVec.ofNat 128 (pa % 2 ^ 56 * 2 ^ 72 + j * 2 ^ 64 + ctr % 2 ^ 64)

/-- The keystream of a line. -/
def keystream (k : BitVec 256) (pa ctr : Nat) : List Byte :=
  (List.range 8).flatMap fun j => beBytes 16 (aes256 k (ctrBlock pa j ctr)).toNat

/-- Encrypts or decrypts a line. -/
def lineCrypt (k : BitVec 256) (pa ctr : Nat) (d : List Byte) : List Byte := xorBytes d (keystream k pa ctr)

/-- The MAC of a line's ciphertext: the tag over PA, the counter, the world and the ciphertext, truncated to 64 bits
(assumption log 74). -/
def lineMac (k : BitVec 256) (world pa ctr : Nat) (c : List Byte) : BitVec 64 :=
  let blocks := (List.range 8).map fun j => BitVec.ofNat 128 (beNum ((c.drop (16 * j)).take 16))
  let aad : List (BitVec 128) := [BitVec.ofNat 128 (pa * 2 ^ 64 + ctr % 2 ^ 64), BitVec.ofNat 128 (world * 2 ^ 64)]
  let tag := ghash (aes256 k 0) (aad ++ blocks ++ [BitVec.ofNat 128 (192 * 2 ^ 64 + 1024)]) ^^^ aes256 k (ctrBlock pa 255 ctr)
  tag.extractLsb' 64 64

/-- The key of a frame; none while no world owns it. -/
def State.frameKey (s : State) (f : Nat) : Option (BitVec 256) :=
  (tget s.worlds (keyWorld (tval 255 s.owner f))).map fun w => Config.worldKey w.key

/-- Data of a line as DRAM stores it, with its MAC: under the home line's world, address and counter. -/
def State.stored (s : State) (line : Nat) (d : List Byte) : Option (List Byte × BitVec 64) :=
  (s.frameKey (line / 512)).map fun k =>
    let c := lineCrypt k (128 * line) (s.lineCtr line) d
    (c, lineMac k (keyWorld (tval 255 s.owner (line / 512))) (128 * line) (s.lineCtr line) c)

/-- What the near or the capacity tier stores of a line (R402). -/
def State.storedLine (s : State) (line : Nat) : Option (List Byte × BitVec 64) := s.stored line (s.rdBytes (128 * line) 128)

/-- What the column of a core stores of a line (R402). -/
def State.storedColumn (s : State) (c line : Nat) : Option (List Byte × BitVec 64) :=
  (tget (s.coreD c).column line).bind fun e => s.stored line e.data

/-! ### The identity key (R406, R409) -/

/-- The public modulus and exponent. -/
def identityModulus : Nat := (Config.identityPrimes Config.fusedSeed).1 * (Config.identityPrimes Config.fusedSeed).2
def identityExponent : Nat := 65537

/-- The private exponent: the inverse of 65,537 modulo λ of the modulus. -/
def identityPrivate : Nat :=
  let p := Config.identityPrimes Config.fusedSeed
  let l := Nat.lcm (p.1 - 1) (p.2 - 1)
  match (List.range identityExponent).find? fun k => decide ((1 + k * l) % identityExponent = 0) with
  | some k => (1 + k * l) / identityExponent
  | none => 0

/-- A power with an exponent of at most `n` bits, modulo a number. -/
def powMod (m b e : Nat) : Nat → Nat
  | 0 => 1 % m
  | n + 1 => let h := powMod m b (e / 2) n; h * h * (if e % 2 = 1 then b else 1) % m

/-- The encoding of a message that EMSA-PKCS1-v1_5 with SHA-512 gives in 512 bytes (RFC 8017, which R409 names). -/
def pkcs1 (msg : List Byte) : List Byte :=
  [0x00, 0x01] ++ List.replicate 426 0xFF ++ [0x00]
    ++ [0x30, 0x51, 0x30, 0x0D, 0x06, 0x09, 0x60, 0x86, 0x48, 0x01, 0x65, 0x03, 0x04, 0x02, 0x03, 0x05, 0x00, 0x04, 0x40]
    ++ beBytes 64 (sha512 msg).toNat

/-- The signature of the identity key over a message, big-endian. -/
def signature (msg : List Byte) : List Byte :=
  beBytes 512 (powMod identityModulus (beNum (pkcs1 msg)) identityPrivate 4096)

/-- Whether a signature verifies under a public key. -/
def verifies (modulus exponent : Nat) (msg sig : List Byte) : Bool :=
  decide (powMod modulus (beNum sig) exponent 4096 = beNum (pkcs1 msg))

/-! ### Flits (R428, Table 25.2) -/

/-- CRC-32 of IEEE 802.3. -/
def crc32 (bs : List Byte) : BitVec 32 :=
  ~~~(bs.foldl (fun (c : BitVec 32) b =>
    (List.range 8).foldl (fun c _ => (c >>> 1) ^^^ (if c.getLsbD 0 then 0xEDB88320 else 0)) (c ^^^ b.setWidth 32)) 0xFFFFFFFF)

/-- The invocation counter as a 96-bit GCM nonce, with the block counter `j` (assumption log 74). -/
def flitBlock (iv : Word) (j : Nat) : BitVec 128 := BitVec.ofNat 128 (iv.toNat * 2 ^ 32 + j)

/-- The bytes before the payload. -/
def flitHead (f : Flit) : List Byte :=
  toBytes 2 f.seq.toNat ++ toBytes 2 f.ack.toNat ++ toBytes 1 f.kind.toNat ++ [0, 0, 0] ++ toBytes 8 f.iv.toNat

/-- Encrypts or decrypts the payload of 224 bytes. -/
def flitCrypt (k : BitVec 256) (iv : Word) (p : List Byte) : List Byte :=
  xorBytes p ((List.range 14).flatMap fun j => beBytes 16 (aes256 k (flitBlock iv (j + 2))).toNat)

/-- The tag over the head and the ciphertext. -/
def flitTag (k : BitVec 256) (iv : Word) (head ct : List Byte) : List Byte :=
  let blocks := (List.range 15).map fun j => BitVec.ofNat 128 (beNum (((head ++ ct).drop (16 * j)).take 16))
  let t := ghash (aes256 k 0) (blocks ++ [BitVec.ofNat 128 (128 * 2 ^ 64 + 1792)]) ^^^ aes256 k (flitBlock iv 1)
  (beBytes 16 t.toNat).take 12

/-- The 256 bytes of a flit as they are sent under a link's key. -/
def flitImage (k : BitVec 256) (f : Flit) : List Byte :=
  let ct := flitCrypt k f.iv (f.payload ++ List.replicate (224 - f.payload.length) 0)
  let b := flitHead f ++ ct ++ flitTag k f.iv (flitHead f) ct
  b ++ toBytes 4 (crc32 b).toNat

/-- The flit that 256 bytes received under a link's key are. -/
def flitOf (k : BitVec 256) (b : List Byte) : Flit :=
  let iv := BitVec.ofNat 64 (ofBytes ((b.drop 8).take 8))
  let ct := (b.drop 16).take 224
  { seq := BitVec.ofNat 16 (ofBytes (b.take 2)), ack := BitVec.ofNat 16 (ofBytes ((b.drop 2).take 2))
    kind := BitVec.ofNat 8 (ofBytes ((b.drop 4).take 1)), payload := flitCrypt k iv ct, iv := iv
    verifies := decide ((b.drop 240).take 12 = flitTag k iv (b.take 16) ct)
      && decide (ofBytes ((b.drop 252).take 4) = (crc32 (b.take 252)).toNat) }

end Sys2Proof.Machine
end

