-- ==== Sys2Proof/Machine/Operands.lean ====
section
/-! DEFINITION. The operand forms: what each operand code yields as a source in a vector or a scalar context,
the places that destination codes name, and base addresses (Table 3.3, R79 to R81, R84, R198). -/

namespace Sys2Proof.Machine

/-- IMM sign-extended to 64 bits (R81). -/
def immW (sl : Slot) : Word := sl.imm.signExtend 64

/-- The class of a code, with 0x288 and up read as zero; check 4 has refused those. -/
def kindD (code : BitVec 10) : Kind := (kindOf code).getD .zero

/-- A vector-context source, read at width `w` (Table 3.3). -/
def State.vsrc (s : State) (x : Group) (sl : Slot) (w : Nat) (code : BitVec 10) : Vec :=
  let n := code.toNat
  match kindD code with
  | .v => s.readV x (vPlace x.trapMode n)
  | .q => s.readV x (.q (n - 0x200))
  | .s => Vector.replicate 32 (s.readS x (sPlace x.trapMode (n - 0x210)))
  | .zero => Vec.zero
  | .lane => if n = 0x271 then vecOf fun L => ofSubs w fun _ => L else Vector.replicate 32 (ofSubs w id)
  | .kc => Vector.replicate 32 x.kc
  | .imm => Vector.replicate 32 (immW sl)
  | .rep => Vector.replicate 32 (if w = 64 then immW sl else ofSubs w fun _ => sl.imm.toNat)
  | .mask => Vector.replicate 32 ((if n = 0x276 then x.act else x.live).setWidth 64)
  | .vp => Vector.replicate 32 ((x.vp (n - 0x278)).setWidth 64)
  | .sp => Vector.replicate 32 (if x.sp (n - 0x280) then 1 else 0)
  | .act | .only | .que => Vec.zero

/-- A scalar-context source (Table 3.3). -/
def State.ssrc (s : State) (x : Group) (sl : Slot) (code : BitVec 10) : Word :=
  let n := code.toNat
  match kindD code with
  | .s => s.readS x (sPlace x.trapMode (n - 0x210))
  | .kc => x.kc
  | .imm => immW sl
  | .mask => (if n = 0x276 then x.act else x.live).setWidth 64
  | .vp => (x.vp (n - 0x278)).setWidth 64
  | .sp => if x.sp (n - 0x280) then 1 else 0
  | _ => 0

/-- Scalar register number `code + i`, of a block that starts at an operand (R240). -/
def State.sreg (s : State) (x : Group) (code : BitVec 10) (i : Nat) : Word :=
  s.readS x (sPlace x.trapMode (code.toNat - 0x210 + i))

/-- Vector register number `code + i`. -/
def State.vreg (s : State) (x : Group) (code : BitVec 10) (i : Nat) : Vec :=
  s.readV x (vPlace x.trapMode (code.toNat + i))

/-- The lane predicate that an operand names (R107, R139). -/
def Group.predOf (x : Group) (code : BitVec 10) : Mask := x.vp (code.toNat - 0x278)

/-- The place that destination code `code + i` names; none for zero, and for a push the newest entry
(R20, R80). -/
def dstRef (tm : Bool) (code : BitVec 10) (i : Nat) : Option RegRef :=
  let n := code.toNat
  match kindD code with
  | .v => some (vPlace tm (n + i))
  | .q => some (.q 0)
  | .s => some (sPlace tm (n - 0x210 + i))
  | .vp => some (.vp (n - 0x278))
  | .sp => some (.sp (n - 0x280))
  | _ => none

/-- Whether a destination code is a push (R20). -/
def isPush (code : BitVec 10) : Bool := decide (code = 0x200)

/-- The write of a vector result: the selected lanes of a register, or a whole new q0 that is zero in the
others (R20, R23). -/
def vecOut (tm : Bool) (code : BitVec 10) (i : Nat) (sel : Mask) (v : Vec) : List RegWrite :=
  match dstRef tm code i with
  | some (.q a) => [.vec (.q a) 0xFFFFFFFF (merge sel Vec.zero v)]
  | some r => [.vec r sel v]
  | none => []

/-- The write of a scalar or predicate result. -/
def scaOut (tm : Bool) (code : BitVec 10) (i : Nat) (v : Word) : List RegWrite :=
  match dstRef tm code i with
  | some r => [.scalar r v]
  | none => []

/-- The lanes an instruction selects: ACT and its lane guard (R23, R82). -/
def Group.sel (x : Group) (sl : Slot) : Mask :=
  let p := x.vp (sl.lg.toNat % 8)
  x.act &&& (if sl.lg.getLsbD 3 then ~~~p else p)

/-- base(L) + sext(IMM) of a per-lane access (R198). -/
def State.laneAddr (s : State) (x : Group) (sl : Slot) (L : Nat) : Word :=
  lane (s.vsrc x sl 64 sl.a) L + immW sl

/-- The addresses of the selected lanes in ascending order, each with `n` words of 8 bytes. -/
def State.laneAddrs (s : State) (x : Group) (sl : Slot) (n : Nat) : List (Nat × Word) :=
  let base := s.vsrc x sl 64 sl.a
  (lanesOf (x.sel sl)).flatMap fun L =>
    (List.range n).map fun i => (L, lane base L + immW sl + BitVec.ofNat 64 (8 * i))

/-- S[A] + sext(IMM), with zero as base 0 (R198). -/
def State.scaAddr (s : State) (x : Group) (sl : Slot) : Word := s.ssrc x sl sl.a + immW sl

/-- FMT bit 40 (R55). -/
def Group.satf (x : Group) : Bool := x.fmt.getLsbD 40

end Sys2Proof.Machine
end

