-- ==== Sys2Proof/Machine/Flags.lean ====
section
/-! DEFINITION. Guards, conditions and predicate results: the scalar guard, lane masks from compares, the
mask-register form of a compare, and the check-mode watch on results (R22, R23, R82, R86 to R89, R91, R126, R130,
R142, R158). -/

namespace Sys2Proof.Machine

/-- The scalar guard of a slot holds (R82). -/
def Group.guard (x : Group) (sl : Slot) : Bool := x.sp (sl.sg.toNat % 8) != sl.sg.getLsbD 3

/-- The order relation of a float compare (R158). -/
def fcond (sub : Nat) (o : Option Ordering) : Bool :=
  match sub, o with
  | 0, some .eq => true
  | 1, some .eq => false
  | 1, _ => true
  | 2, some .lt => true
  | 3, some .lt => true
  | 3, some .eq => true
  | 4, some .gt => true
  | 5, some .gt => true
  | 5, some .eq => true
  | 6, none => true
  | 7, some _ => true
  | _, _ => false

/-- A lane's element results as a lane of a mask register: all ones where true (R142). -/
def maskLane (w : Nat) (f : Nat → Bool) : Word := ofSubs w fun k => if f k then 2 ^ w - 1 else 0

/-- A lane predicate from element results: all elements, or any with `.any` (R142, R158). -/
def predLane (n : Nat) (any : Bool) (f : Nat → Bool) : Bool :=
  if any then (List.range n).any f else (List.range n).all f

/-- A predicate destination: selected lanes take the new bit, the others keep theirs (R23). -/
def predOut (x : Group) (code : BitVec 10) (sel : Mask) (f : Nat → Bool) : List RegWrite :=
  match kindD code with
  | .vp =>
    let old := x.predOf code
    scaOut x.trapMode code 0 ((maskOf fun L => if sel.getLsbD L then f L else old.getLsbD L).setWidth 64)
  | _ => []

/-! ### Check mode (R86 to R89) -/

/-- The registers that operand `code`, naming `n` of them, reads or writes. -/
def refsOf (tm : Bool) (code : BitVec 10) (n : Nat) : List RegRef :=
  match kindD code with
  | .v => (List.range n).map fun i => vPlace tm (code.toNat + i)
  | .q => [.q (code.toNat - 0x200)]
  | .s => (List.range n).map fun i => sPlace tm (code.toNat - 0x210 + i)
  | .vp => [.vp (code.toNat - 0x278)]
  | .sp => [.sp (code.toNat - 0x280)]
  | _ => []

/-- The uses of one operand: field number, code, register. A push names no entry (R20). Each register of an operand
that names several is reported under the code in the field (assumption log 68). -/
def opndUses (tm : Bool) (fld : Nat) (o : Opnd) (code : BitVec 10) : List (Nat × BitVec 10 × RegRef) :=
  match o with
  | .none => []
  | .src _ n => (refsOf tm code n).map fun r => (fld, code, r)
  | .dst _ n => if isPush code then [] else (refsOf tm code n).map fun r => (fld, code, r)

/-- Every use of a slot in field order D, A, B, C, E, SG, LG (R89, Table 3.8), and then the interrupted group's register
that IMM names (R257). -/
def slotUses (f : Form) (tm : Bool) (sl : Slot) : List (Nat × BitVec 10 × RegRef) :=
  opndUses tm 0 f.d sl.d ++ opndUses tm 1 f.a sl.a ++ opndUses tm 2 f.b sl.b ++ opndUses tm 3 f.c sl.c
    ++ opndUses tm 4 f.e sl.e
    ++ [(5, BitVec.ofNat 10 (0x280 + sl.sg.toNat % 8), RegRef.sp (sl.sg.toNat % 8)),
        (6, BitVec.ofNat 10 (0x278 + sl.lg.toNat % 8), RegRef.vp (sl.lg.toNat % 8))]
    ++ (match f.own with
      | some (fld, code) => (refsOf false code 1).map fun r => (fld, code, r)
      | none => [])

/-- TRAPINFO of STALL_CHECK (Table 3.8). -/
def stallInfo (short fld : Nat) (code : BitVec 10) (token : Bool) : Word :=
  BitVec.ofNat 64 (short + code.toNat * 2 ^ 16 + fld * 2 ^ 26 + token.toNat * 2 ^ 31)

/-- Whether a use of a result fails check mode `m`: too early, or not covered (R86, R88, R89). -/
def useBad (m : BitVec 2) (sl : Slot) (p : Producer) : Option (Nat × Bool) :=
  match p.lat with
  | some l => if m.getLsbD 0 ∧ p.dist < l then some (l - p.dist, false) else none
  | none =>
    if m.getLsbD 1 ∧ ¬ p.covered ∧ ¬ (p.tok ≠ 0 ∧ sl.twait.getLsbD (p.tok - 1)) then some (0, true) else none

/-- TRAPINFO of the first of some uses that fails. -/
def checkUses (x : Group) (m : BitVec 2) (sl : Slot) (us : List (Nat × BitVec 10 × RegRef)) : Option Word :=
  us.findSome? fun u =>
    (x.producers.find? fun p => decide (p.reg = u.2.2)).bind fun p =>
      (useBad m sl p).map fun b => stallInfo b.1 u.1 u.2.1 b.2

/-- Check 5 of R96: the first use in field order that fails. -/
def checkMode (x : Group) (m : BitVec 2) (f : Form) (sl : Slot) : Option Word :=
  checkUses x m sl (slotUses f x.trapMode sl)

/-- The register of a write. -/
def RegWrite.ref : RegWrite → RegRef
  | .vec r _ _ => r
  | .scalar r _ => r

/-- Whether some use has a pending result (R87). -/
def Group.pending (x : Group) (us : List (Nat × BitVec 10 × RegRef)) : Bool :=
  us.any fun u => x.pend.any fun p => p.writes.any fun w => decide (w.ref = u.2.2)

/-- A wait on tokens covers the results that still own them (R88). -/
def Group.cover (x : Group) (sl : Slot) : Group :=
  { x with producers := x.producers.map fun p =>
      if p.tok ≠ 0 ∧ sl.twait.getLsbD (p.tok - 1) then { p with covered := true } else p }

/-- Watches the results of a slot that issues: a token set again leaves earlier results uncovered; each
written register has one producer, the latest; results of blocking instructions are not watched (R88). -/
def Group.watch (x : Group) (lat : Option Nat) (blocking : Bool) (tok : Nat) (refs : List RegRef) : Group :=
  let ps := (x.producers.filter fun p => !refs.contains p.reg).map fun p =>
    if tok ≠ 0 ∧ p.tok = tok then { p with tok := 0 } else p
  { x with producers :=
      if blocking then ps
      else ps ++ refs.map fun r => { reg := r, lat := lat, dist := 0, tok := tok, covered := false } }

/-- Sets a token to a pending result, or to ready (R26). -/
def Group.setTok (x : Group) (tset : BitVec 2) (id : Option Nat) : Group :=
  if tset = 1 then { x with tok1 := id } else if tset = 2 then { x with tok2 := id } else x

/-- At trap entry and after RTT, fixed-latency results count as available (R91). -/
def Group.settle (x : Group) : Group := { x with producers := x.producers.filter fun p => p.lat.isNone }

end Sys2Proof.Machine
end

