-- ==== Sys2Proof/Machine/Messages.lean ====
section
/-! DEFINITION. The messages that data flits carry (R428, R435): a header of 16 bytes, with or without a line of 128
bytes; what is longer than a line takes several. The layout of the header is the model's (assumption log 49). -/

namespace Sys2Proof.Machine

/-- A message: a request or an answer, with its number and its operands; `refused` marks an error response, `more` a part
that another follows. -/
structure Msg where
  kind : Nat := 0
  sub : Nat := 0
  ty : Nat := 0
  world : Nat := 0
  n : Nat := 1
  pa : Nat := 0
  id : Nat := 0
  resp : Bool := false
  refused : Bool := false
  more : Bool := false
  data : List Byte := []
  deriving DecidableEq, Repr

/-- The header as a number: KIND [2:0], a one in bit 3, LINE [4], MORE [5], RESP [6], REFUSED [7], SUB [11:8], TY [17:12],
WORLD [23:18], N − 1 [31:24], LEN [39:32], PA [95:40], ID [127:96]. -/
def Msg.head (m : Msg) : Nat :=
  m.kind % 8 + 8 + (if m.data = [] then 0 else 16) + 32 * m.more.toNat + 64 * m.resp.toNat + 128 * m.refused.toNat
    + 256 * (m.sub % 16) + 2 ^ 12 * (m.ty % 64) + 2 ^ 18 * (m.world % 64) + 2 ^ 24 * ((m.n - 1) % 256)
    + 2 ^ 32 * (m.data.length % 256) + 2 ^ 40 * (m.pa % 2 ^ 56) + 2 ^ 96 * (m.id % 2 ^ 32)

/-- The bytes of a message. -/
def Msg.bytes (m : Msg) : List Byte :=
  toBytes 16 m.head ++ (if m.data = [] then [] else m.data ++ List.replicate (128 - m.data.length) 0)

/-- The message whose header is a number, with the line that follows. -/
def Msg.ofHead (h : Nat) (line : List Byte) : Msg :=
  { kind := h % 8, more := decide (h / 32 % 2 = 1), resp := decide (h / 64 % 2 = 1), refused := decide (h / 128 % 2 = 1)
    sub := h / 256 % 16, ty := h / 2 ^ 12 % 64, world := h / 2 ^ 18 % 64, n := h / 2 ^ 24 % 256 + 1
    pa := h / 2 ^ 40 % 2 ^ 56, id := h / 2 ^ 96 % 2 ^ 32
    data := if h / 16 % 2 = 1 then line.take (h / 2 ^ 32 % 256) else [] }

/-- At most `n` messages of a payload: they end at a header without its one. -/
def msgsOf : Nat → List Byte → List Msg
  | 0, _ => []
  | n + 1, p =>
    let h := ofBytes (p.take 16)
    if h / 8 % 2 = 0 then []
    else
      let t := p.drop 16
      Msg.ofHead h t :: msgsOf n (if h / 16 % 2 = 1 then t.drop 128 else t)

/-- The messages of a flit: a message with a line and five without one fill it (R428). -/
def flitMsgs (f : Flit) : List Msg := if f.kind = 1 then msgsOf 6 f.payload else []

/-- The parts of at most 128 bytes of what a message carries. -/
def parts : Nat → List Byte → List (List Byte)
  | 0, d => [d]
  | n + 1, d => if d.length ≤ 128 then [d] else d.take 128 :: parts n (d.drop 128)

/-- A message as its parts. -/
def Msg.split (m : Msg) : List Msg :=
  let ps := parts 8 m.data
  ps.zipIdx.map fun p => { m with data := p.1, more := decide (p.2 + 1 < ps.length) }

/-- The messages of a request. -/
def PeerOut.msgs (o : PeerOut) : List Msg :=
  ({ kind := o.msg.kind, sub := o.msg.sub, ty := o.msg.ty.toNat, world := o.msg.world, n := o.msg.n, pa := o.msg.pa
     id := o.id % 2 ^ 32, data := o.msg.data ++ o.msg.cmp } : Msg).split

/-- The messages of the answer to a request of some number. -/
def PeerAns.msgs (a : PeerAns) (id : Nat) : List Msg :=
  ({ pa := a.pa, id := id % 2 ^ 32, resp := true, refused := a.data.isNone, data := a.data.getD [] } : Msg).split

/-- The payloads of the flits that carry messages, one each. -/
def payloads (ms : List Msg) : List (List Byte) := ms.map Msg.bytes

/-- Whether a flit carries a part of a message of some number. -/
def flitCarries (f : Flit) (resp : Bool) (id : Nat) : Bool :=
  (flitMsgs f).any fun m => decide (m.resp = resp) && decide (m.id = id % 2 ^ 32)

/-- The request that a message of a peer asks: an atomic's compare operand is the second half of what it carries, and a
contribution tells how many participants its collective has. -/
def Msg.req (m : Msg) (peer : Nat) : PeerReq :=
  let half := if m.kind = 2 ∧ m.sub = 7 then m.data.length / 2 else m.data.length
  { id := m.id, world := m.world, pa := m.pa, op := m.kind, sub := m.sub, ty := BitVec.ofNat 6 m.ty
    data := if m.kind = 0 then List.replicate m.n 0 else m.data.take half, cmp := if m.kind = 5 then toBytes 2 m.n else m.data.drop half, peer := peer }

end Sys2Proof.Machine
end

