-- ==== Sys2Proof/Machine/Translate.lean ====
section
/-! DEFINITION. Address translation: the radix tables, the checks of Table 18.4, TLBs, frame owners, marks,
accessed and dirty bits, touched dies and working-set recording (R322, R325, R355 to R361, R364, R370,
R398, R399). -/

namespace Sys2Proof.Machine

/-- Who makes an access: its die (12 for the hub), core, function, context, world, privilege level,
workgroup and group (0 for none). -/
structure View where
  die : Nat
  core : Nat := 0
  fn : Nat
  ctx : Nat
  world : Nat
  level : Nat
  wg : Nat := 0
  grp : Nat := 0
  deriving DecidableEq, Repr

/-- The view of a group's own instructions. -/
def State.viewOf (s : State) (g : Nat) : View :=
  let x := s.grpD g
  let w := s.wgD x.wg
  let c := s.ctxD w.fn w.ctx
  { die := dieOf x.core, core := x.core, fn := w.fn, ctx := w.ctx, world := c.world, level := c.level
    wg := x.wg, grp := g }

/-- The view of a hub engine that acts for a context (R440). -/
def State.hubView (s : State) (fn ctx : Nat) : View :=
  let c := s.ctxD fn ctx
  { die := 12, fn := fn, ctx := ctx, world := c.world, level := c.level }

/-- The view of an engine that works for a workgroup of a context (R241, R440). -/
def State.engView (s : State) (fn ctx wg : Nat) : View := { s.hubView fn ctx with wg := wg }

/-! ### Leaf entries (Table 18.3) -/

def leafValid (l : Word) : Bool := l.getLsbD 0
def leafWrite (l : Word) : Bool := l.getLsbD 1
def leafExec (l : Word) : Bool := l.getLsbD 2
def leafPriv (l : Word) : Bool := l.getLsbD 3
def leafTier (l : Word) : Nat := bits l 5 4
def leafRap (l : Word) : Bool := l.getLsbD 6
def leafBias (l : Word) : Bool := l.getLsbD 7
def leafAcc (l : Word) : Bool := l.getLsbD 8
def leafDirty (l : Word) : Bool := l.getLsbD 9
def leafAlias (l : Word) : Bool := l.getLsbD 10
def leafLost (l : Word) : Bool := l.getLsbD 11
def leafAper (l : Word) : Nat := bits l 21 12
def leafFrame (l : Word) : Nat := bits l 55 22
def leafPolicy (l : Word) : Nat := bits l 59 56

/-! ### Homes, dies and frames -/

/-- Whether a frame of a tier is on lost media (R321, R371, R372). -/
def State.frameLost (s : State) (tier f : Nat) : Bool :=
  match tier with
  | 0 => decide (s.busState f = .lost) || s.lostDies.contains (s.homeDie f)
  | 1 => s.lostDies.contains 14 || s.lostDies.contains 15
  | 2 => s.lostDies.contains 13
  | _ => false

/-- The links that reach a peer now: its ROUTE among the links with LSTATE 2 (R434). -/
def State.usable (s : State) (p : Nat) : List Nat :=
  (List.range 64).filter fun i =>
    (tval 0 s.routes p).getLsbD i && decide ((tval ({} : Link) s.links i).st = 2)

/-- The TDMASK bits that a request to a tier calls for (R370). -/
def State.diesOf (s : State) (tier f peer : Nat) (hostBias : Bool) : List Nat :=
  (if tier = 0 then [s.homeDie f] else if tier = 1 then [14, 15] else if tier = 2 then [13]
    else (s.usable peer).map fun i => 13 + i / 16) ++ (if hostBias then [13] else [])

/-- Sets bits of a context's touched-dies mask (R370). -/
def State.touch (s : State) (fn ctx : Nat) (ds : List Nat) : State :=
  s.updCtx fn ctx fun c => { c with tdmask := ds.foldl (fun m d => m ||| (1#17 <<< d)) c.tdmask }

/-! ### The walk (R355 to R357) -/

/-- What the tables give for an address: a leaf with its place, page size and level, the PAGE_FAULT reason
and level of checks 1 to 4, or the error response that a read of an entry met: cause, and REASON and LEVEL (R371, R405). -/
inductive Found where
  | leaf (w : Word) (place size level : Nat)
  | bad (reason level : Nat)
  | fail (cause : BitVec 8) (info : Nat)
  deriving DecidableEq, Repr

def reasonInfo (r lvl : Nat) : Nat := r * 2 ^ 32 + lvl * 2 ^ 36

/-- The error response of a line whose verification fails (R405). -/
def State.integrityErr (s : State) (loc : Nat) : Option (BitVec 8 × Nat) :=
  match s.nodeBad (loc / 128) with
  | some k => some (13, reasonInfo 2 (nodeLevel k))
  | none => if s.badMac.contains (loc / 128) then some (13, reasonInfo 1 0) else none

/-- The error response of a physical address of the near or capacity tier (R321, R371, R372, R405). -/
def State.physErr (s : State) (pa : Nat) : Option (BitVec 8 × Nat) :=
  if s.frameLost (if s.homeOf (pa / 65536) < 768 then 0 else 1) (pa / 65536) then some (12, 0) else s.integrityErr pa

def State.entry (s : State) (a : Nat) : Word := BitVec.ofNat 64 (s.rd a 8)

/-- Reserved bits [14:3] and [63:50] of a pointer entry. -/
def ptrReserved (e : Word) : Bool := decide (bits e 14 3 ≠ 0) || decide (bits e 63 50 ≠ 0)

/-- NODE of a pointer entry. -/
def ptrNode (e : Word) : Nat := bits e 49 15 * 2 ^ 15

/-- Checks 3 and 4 on a leaf. -/
def leafFound (w : Word) (place size level : Nat) : Found :=
  if ¬ leafValid w then .bad 2 level
  else if bits w 63 60 ≠ 0 ∨ leafFrame w % (size / 65536) ≠ 0 then .bad 3 level
  else .leaf w place size level

/-- Reads a table entry, or meets its error response. -/
def State.withEntry (s : State) (a : Nat) (f : Word → Found) : Found :=
  match s.physErr a with
  | some (c, i) => .fail c i
  | none => f (s.entry a)

/-- Walks from a root: at most three entries (R355). A root of 0 for space 0x4 holds no entry. -/
def State.find (s : State) (root va : Nat) : Found :=
  let leafAt (a size level : Nat) : Found := s.withEntry a fun w => leafFound w a size level
  s.withEntry (root + 8 * (va / 2 ^ 40 % 4096)) fun e1 =>
    if ¬ e1.getLsbD 0 then .bad 1 1
    else if ptrReserved e1 ∨ bits e1 2 1 = 1 ∨ bits e1 2 1 = 3 then .bad 3 1
    else if bits e1 2 1 = 2 then leafAt (ptrNode e1 + 8 * (va / 2 ^ 29 % 2048)) (2 ^ 29) 2
    else
      s.withEntry (ptrNode e1 + 8 * (va / 2 ^ 28 % 4096)) fun e2 =>
        if ¬ e2.getLsbD 0 then .bad 1 2
        else if ptrReserved e2 ∨ 2 ≤ bits e2 2 1 then .bad 3 2
        else if bits e2 2 1 = 1 then leafAt (ptrNode e2 + 8 * (va / 2 ^ 21 % 128)) (2 ^ 21) 3
        else leafAt (ptrNode e2 + 8 * (va / 2 ^ 16 % 4096)) (2 ^ 16) 3

/-- The places of the entries that a walk from a root reads. -/
def State.path (s : State) (root va : Nat) : List Nat :=
  let a1 := root + 8 * (va / 2 ^ 40 % 4096)
  let e1 := s.entry a1
  if (s.physErr a1).isSome ∨ ¬ e1.getLsbD 0 ∨ ptrReserved e1 ∨ bits e1 2 1 = 1 ∨ bits e1 2 1 = 3 then [a1]
  else if bits e1 2 1 = 2 then [a1, ptrNode e1 + 8 * (va / 2 ^ 29 % 2048)]
  else
    let a2 := ptrNode e1 + 8 * (va / 2 ^ 28 % 4096)
    let e2 := s.entry a2
    if (s.physErr a2).isSome ∨ ¬ e2.getLsbD 0 ∨ ptrReserved e2 ∨ 2 ≤ bits e2 2 1 then [a1, a2]
    else if bits e2 2 1 = 1 then [a1, a2, ptrNode e2 + 8 * (va / 2 ^ 21 % 128)]
    else [a1, a2, ptrNode e2 + 8 * (va / 2 ^ 16 % 4096)]

/-- The root of a context for space 0x0 or 0x4. -/
def Context.root (c : Context) (sp : Nat) : Nat := if sp = 4 then c.root4.toNat else c.root0.toNat

/-- Walks the tables of a context for space 0x0 or 0x4 (R322, R355). -/
def State.lookup (s : State) (c : Context) (sp va : Nat) : Found :=
  if sp = 4 ∧ c.root4 = 0 then .bad 1 1 else s.find (c.root sp) va

/-- What a walk leaves behind besides what it gives: the counters of the entries' lines are verified, and a failed tree node
that it meets is reported (R404, R405). -/
def State.noteWalk (s : State) (c : Context) (sp va : Nat) : State :=
  if sp = 4 ∧ c.root4 = 0 then s
  else (s.path (c.root sp) va).foldl (fun t a => (t.noteNode a).verifyLine (a / 128)) s

/-- The level-3 and level-2 nodes of a table that hold leaves, found among the words of memory: whether a word of memory is a
leaf entry of some context (R355, R374). -/
def State.isLeafEntry (s : State) (a : Nat) : Bool :=
  let ptrs (lo n : Nat) : List Word :=
    (s.mem.filter fun b => decide (lo ≤ b.1) && decide (b.1 < lo + n) && decide (b.1 % 8 = 0)).map fun b => s.entry b.1
  s.ctxs.any fun c => [c.2.root0.toNat, c.2.root4.toNat].any fun root =>
    (ptrs root 32768).any fun e1 =>
      e1.getLsbD 0 && !ptrReserved e1 &&
        (if bits e1 2 1 = 2 then decide (ptrNode e1 ≤ a) && decide (a < ptrNode e1 + 16384)
         else decide (bits e1 2 1 = 0) && (ptrs (ptrNode e1) 32768).any fun e2 =>
           e2.getLsbD 0 && !ptrReserved e2 && decide (bits e2 2 1 ≤ 1) && decide (ptrNode e2 ≤ a)
             && decide (a < ptrNode e2 + (if bits e2 2 1 = 1 then 1024 else 32768)))

/-! ### Owners, marks and recording -/

/-- The frames of a page. -/
def framesOf (l : Word) (size : Nat) : List Nat := (List.range (size / 65536)).map (leafFrame l + ·)

/-- Takes or checks the owner of each frame in turn: whether all pass (R399). -/
def State.takeOwners (s : State) (world : Nat) (priv : Bool) : List Nat → State × Bool
  | [] => (s, true)
  | f :: t =>
    let o := s.ownerOf f
    if o = 255 then
      let s1 := { s with owner := tput s.owner f (if world = 0 ∧ priv then 64 else world) }
      s1.takeOwners world priv t
    else if o = world ∨ o = 64 then s.takeOwners world priv t
    else (s, false)

def markKey (world f : Nat) : Nat := 2 ^ 34 * world + f

/-- A mark conflict of R364. The hub keeps its marks for the frames of its own tiers, near and capacity; what R364 makes of
the frames of a host-tier or peer-tier leaf it does not say (DESIGN CHOICE, assumption log 18). -/
def State.markConflict (s : State) (world : Nat) (l : Word) (fs : List Nat) : Bool :=
  (leafWrite l && leafExec l)
    || (decide (leafTier l ≤ 1) && fs.any fun f =>
        (leafWrite l && tval false s.markX (markKey world f))
          || (leafExec l && tval false s.markW (markKey world f)))

/-- Sets the bias of a frame; a flip drains and invalidates the lines that the losing side holds: those of the module's
caches, or the host-owned lines of the hub and what caches hold of them (R304, R316, R422). -/
def State.setBias (s : State) (f : Nat) (host : Bool) : State :=
  if tval false s.bias f = host then s
  else
    let s1 := s.flushLines (512 * f) 512
    { s1 with bias := tset false s1.bias f host }

/-- Sets the marks of a page of the near or the capacity tier (R364; assumption log 18). -/
def State.mark (s : State) (world : Nat) (l : Word) (fs : List Nat) : State :=
  if 2 ≤ leafTier l then s
  else
    fs.foldl (fun t f =>
      { t with
        markX := if leafExec l then tput t.markX (markKey world f) true else t.markX
        markW := if leafWrite l then tput t.markW (markKey world f) true else t.markW }) s

/-! ### Translation checks (Table 18.4) -/

/-- How an access ends its translation: at a leaf, in a trap with cause and TRAPINFO without LANE and KIND,
or in an error response. -/
inductive Walked where
  | ok (leaf : Word) (size : Nat)
  | trap (cause : BitVec 8) (info : Nat)
  | err (cause : BitVec 8) (info : Nat)
  deriving DecidableEq, Repr

/-- KINDs of Table 8.2 whose accesses write, but for those of KIND 5 and 6 that only read. -/
def kindWrites (kind : Nat) : Bool := [1, 2, 3, 5, 6].contains kind

/-- KINDs that read and modify one location (R296). -/
def kindAtomic (kind : Nat) : Bool := [2, 3, 5, 6].contains kind

/-- Checks 5 to 8 on a leaf, with the mark conflict its walk met: none when they pass. -/
def leafCheck (v : View) (sp : Nat) (l : Word) (conflict : Bool) : Option Walked :=
  if leafLost l then some (.err 12 0)
  else if leafPriv l ∧ v.level = 0 then some (.trap 9 (reasonInfo 4 0))
  else if conflict then some (.trap 10 0)
  else if (leafAlias l != decide (sp = 4)) ∨ (leafTier l ≠ 3 ∧ 4 ≤ leafPolicy l) then
    some (.trap 9 (reasonInfo 4 0))
  else none

/-- Checks 5 to 8 on a leaf of a page as it stands. -/
def State.check58 (s : State) (v : View) (sp : Nat) (l : Word) (size : Nat) : Option Walked :=
  leafCheck v sp l (s.markConflict v.world l (framesOf l size))

/-- Checks 9 to 11 on a leaf (R358). -/
def check911 (l : Word) (kind : Nat) (fetch wr : Bool) : Option Walked :=
  if wr ∧ ¬ leafWrite l then some (.trap 9 (reasonInfo 4 0))
  else if fetch ∧ ¬ leafExec l then some (.trap 9 (reasonInfo 6 0))
  else if kindAtomic kind ∧ leafTier l = 3 ∧ ¬ leafRap l then some (.trap 9 (reasonInfo 3 0))
  else none

/-! ### Structures that the hub keeps on a context's behalf (R440) -/

/-- A view that pages with PRIV = 1 admit, where `p` (R368). -/
def View.asPriv (v : View) (p : Bool) : View := if p then { v with level := 2 } else v

/-- A place that the hub reaches for a context: here, or at a peer. -/
inductive HubPlace where
  | here (loc : Nat)
  | far (p pa : Nat)
  deriving DecidableEq, Repr

/-- The place of a virtual address of space 0x0 that the hub may read: its page passes its checks, no frame of it is
another world's, and it is not lost (R315, R358, R371, R399, R405). -/
def State.hubPlace (s : State) (fn ctx va : Nat) (priv : Bool := false) : Option HubPlace :=
  match s.lookup (s.ctxD fn ctx) 0 va with
  | .leaf w _ size _ =>
    let v := (s.hubView fn ctx).asPriv priv
    let l := leafFrame w * 65536 + va % size
    let mine := (framesOf w size).all fun f => [255, v.world, 64].contains (s.ownerOf f)
    if (s.check58 v 0 w size).isSome then none
    else if leafTier w = 3 then (if s.usable (leafAper w) = [] then none else some (.far (leafAper w) l))
    else if leafTier w = 2 then (if s.lostDies.contains 13 then none else some (.here (hostLoc l)))
    else if ¬ mine ∨ (s.physErr l).isSome then none else some (.here l)
  | _ => none

/-- The line of a peer as the step that runs has been told it, if no error response came. -/
def State.farLine (s : State) (p line : Nat) : Option (List Byte) :=
  (s.got.find? fun g => decide (g.asker = s.asker) && decide (g.msg.peer = p) && decide (g.msg.kind = 0)
    && decide (g.msg.pa = 128 * line) && decide (g.msg.n = 128)).bind PeerGot.data

/-- `n` bytes of one line at a virtual address, as the hub reads them; 0 where it may not. What a peer holds has been asked
for before (`hubOpen`). -/
def State.hubRd (s : State) (fn ctx va n : Nat) (priv : Bool := false) : Nat :=
  match s.hubPlace fn ctx va priv with
  | some (.here l) => s.rd l n
  | some (.far p pa) => ofBytes ((((s.farLine p (pa / 128)).getD []).drop (pa % 128)).take n)
  | none => 0

/-- The hub may read a virtual address. -/
def State.hubReads (s : State) (fn ctx va : Nat) (priv : Bool := false) : Bool :=
  match s.hubPlace fn ctx va priv with
  | some (.here _) => true
  | some (.far p pa) => (s.farLine p (pa / 128)).isSome
  | none => false

/-- A page that an access touches: its space, virtual address, size and tier. -/
structure PageRef where
  sp : Nat := 0
  va : Nat
  size : Nat
  tier : Nat
  deriving DecidableEq, Repr

/-- The walk of a hub access: owners, ACC and, for a write, DIRTY, and the touched dies; none where a check fails (R358,
R359, R370, R399). The page whose ACC it set is told. -/
def State.hubWalk (s : State) (fn ctx va : Nat) (write : Bool) (priv : Bool := false) :
    State × Option HubPlace × Option PageRef :=
  let s := s.noteWalk (s.ctxD fn ctx) 0 va
  match s.lookup (s.ctxD fn ctx) 0 va with
  | .leaf w place size _ =>
    let v := (s.hubView fn ctx).asPriv priv
    let tier := leafTier w
    let bias := decide (tier ≤ 1) && tval false s.bias (leafFrame w + va % size / 65536)
    let dies := (if tier = 0 then (framesOf w size).map s.homeDie else s.diesOf tier 0 (leafAper w) false) ++ (if bias then [13] else [])
    if (s.check58 v 0 w size).isSome ∨ dies.any s.lostDies.contains then (s, none, none)
    else
      let own := if tier ≤ 1 then s.takeOwners v.world (leafPriv w) (framesOf w size) else (s, true)
      if ¬ own.2 then (own.1, none, none)
      else
        let ok := !write || leafWrite w
        let w1 := setBits w 8 8 1
        let w2 := if write && ok then setBits w1 9 9 1 else w1
        let s1 := if w2 = w then own.1 else own.1.bankWrite place 8 w2.toNat
        let s2 := (s1.mark v.world w (framesOf w size)).touch fn ctx dies
        (s2, if ok then s.hubPlace fn ctx va priv else none,
          if leafAcc w then none else some { va := va / size * size, size := size, tier := tier })
  | _ => (s, none, none)

/-- pJ and what else an access of the hub to `n` bytes of a place of the module leaves: the host's line is obtained, its
counter verified, and a failed node reported (R316, R390, R404, R405). -/
def State.hubTouch (s : State) (fn loc n : Nat) : State :=
  (((s.hostOwnAt loc).noteNode loc).verifyLine (loc / 128)).chargeAt fn loc n

/-- Opens the line of a virtual address for the hub's reads: it is walked to, and a peer is asked for it, by an access of
some KIND (R315, R370). The pages whose ACC that set are told. -/
def State.hubOpen (s : State) (fn ctx va : Nat) (priv : Bool := false) : State × List PageRef :=
  let r := s.hubWalk fn ctx va false priv
  let t := r.1
  match r.2.1 with
  | some (.here l) => ((t.recall (l / 128)).hubTouch fn l 128, r.2.2.toList)
  | some (.far p pa) =>
    let m : PeerMsg := { peer := p, pa := pa / 128 * 128, n := 128, kind := 0, world := (t.ctxD fn ctx).world }
    let told := t.got.any fun g => decide (g.asker = t.asker) && decide (g.msg = m)
    (if told ∨ t.wants.any (fun o => decide (o.msg = m)) then t
     else { t with wants := t.wants ++ [{ msg := m, fn := fn, ctx := ctx, addr := BitVec.ofNat 64 va, asker := t.asker }] },
      r.2.2.toList)
  | none => (t, r.2.2.toList)

/-- Opens the lines of `n` bytes. -/
def State.hubOpenAll (s : State) (fn ctx va n : Nat) (priv : Bool := false) : State × List PageRef :=
  (List.range ((va % 128 + n + 127) / 128)).foldl (fun a i =>
    let r := a.1.hubOpen fn ctx (va / 128 * 128 + 128 * i) priv
    (r.1, a.2 ++ r.2)) (s, [])

/-- A working-set entry: SIZE code, virtual page and space (Table 15.6). -/
def wsEntry (size va sp : Nat) : Word :=
  BitVec.ofNat 64 ((if size = 2 ^ 16 then 0 else if size = 2 ^ 21 then 1 else 2)
    + (if sp = 4 then 32 else 0) + (va / 2 ^ 16 % 2 ^ 36) * 2 ^ 16)

/-- Opens a context's working set for the hub's reads: its header and its entries (R325). -/
def State.wsOpen (s : State) (fn ctx : Nat) : State × List PageRef :=
  let h := (s.ctxD fn ctx).wshdr.toNat
  if h = 0 then (s, [])
  else
    let r := s.hubOpen fn ctx h
    let n := min (r.1.hubRd fn ctx (h + 8) 4) (r.1.hubRd fn ctx h 4)
    let q := if n = 0 then (r.1, []) else r.1.hubOpenAll fn ctx (r.1.hubRd fn ctx (h + 0x20) 8) (8 * n)
    (q.1, r.2 ++ q.2)

/-- The entries of a working set, with their virtual addresses (R325). -/
def State.wsEntries (s : State) (fn ctx : Nat) : List (Nat × Word) :=
  let h := (s.ctxD fn ctx).wshdr.toNat
  if h = 0 then []
  else
    (List.range (min (s.hubRd fn ctx (h + 8) 4) (s.hubRd fn ctx h 4))).filterMap fun i =>
      let a := s.hubRd fn ctx (h + 0x20) 8 + 8 * i
      if s.hubReads fn ctx a then some (a, BitVec.ofNat 64 (s.hubRd fn ctx a 8)) else none

/-- The bytes of a page by SIZE. -/
def wsSize (e : Word) : Nat := if bits e 1 0 = 0 then 2 ^ 16 else if bits e 1 0 = 1 then 2 ^ 21 else 2 ^ 29

/-- An entry that Strudel does not ignore (R325). -/
def wsValid (e : Word) : Bool :=
  decide (bits e 1 0 ≠ 3) && decide (bits e 15 6 = 0) && decide (bits e 63 52 = 0)
    && decide ((bits e 51 16 * 65536) % wsSize e = 0)

/-- Whether an entry lists the page of a virtual address. -/
def wsLists (e : Word) (sp va : Nat) : Bool :=
  wsValid e && (e.getLsbD 5 == decide (sp = 4)) && decide (bits e 51 16 * 65536 = va / wsSize e * wsSize e)

/-- The 64 KiB granules of an entry's page (R327). -/
def wsGran (e : Word) : Nat := wsSize e / 65536

/-- Puts bytes into what a step has been told of a peer, once it has written them. -/
def PeerGot.patch (g : PeerGot) (p pa : Nat) (bs : List Byte) : PeerGot :=
  if g.msg.peer = p ∧ g.msg.kind = 0 ∧ g.msg.pa < pa + bs.length ∧ pa < g.msg.pa + g.msg.n then
    { g with data := g.data.map fun d => d.zipIdx.map fun b =>
        let a := g.msg.pa + b.2
        if pa ≤ a ∧ a < pa + bs.length then bs.getD (a - pa) 0 else b.1 }
  else g

/-- What steps have been told of a peer follows a write of theirs. -/
def State.gotPatch (s : State) (p pa : Nat) (bs : List Byte) : State :=
  if s.got = [] then s else { s with got := s.got.map fun g => g.patch p pa bs }

/-- A request of the hub that leaves once the step happens: `State.hubSent` sends them. -/
def hubAsk (v : View) (p pa n x : Nat) (va : Nat) : PeerOut :=
  { msg := { peer := p, pa := pa, n := n, kind := 1, data := toBytes n x, world := v.world }, fn := v.fn, ctx := v.ctx
    addr := BitVec.ofNat 64 va, acc := 1 }

/-- Writes `n` bytes of one line at a virtual address, where its checks pass: at the hub bank, or at a peer by a request; tells
the page whose ACC it set. -/
def State.hubStore (s : State) (fn ctx va n x : Nat) (priv : Bool := false) : State × List PageRef :=
  let r := s.hubWalk fn ctx va true priv
  (match r.2.1 with
    | some (.here l) => (r.1.bankWrite l n x).hubTouch fn l n
    | some (.far p pa) =>
      { r.1 with toPeers := r.1.toPeers ++ [hubAsk (r.1.hubView fn ctx) p pa n x va] }.gotPatch p pa (toBytes n x)
    | none => r.1, r.2.2.toList)

/-- Appends an entry, whose granules count as resident when its RES is 1, or counts a drop when the array is full (R325,
R327); tells the pages whose ACC that set. -/
def State.wsPush (s : State) (fn ctx : Nat) (e : Word) : State × List PageRef :=
  let h := (s.ctxD fn ctx).wshdr.toNat
  let n := s.hubRd fn ctx (h + 8) 4
  let a := s.hubRd fn ctx (h + 0x20) 8 + 8 * n
  if h = 0 ∨ ¬ s.hubReads fn ctx h then (s, [])
  else if s.hubRd fn ctx h 4 ≤ n then s.hubStore fn ctx (h + 0x14) 4 (s.hubRd fn ctx (h + 0x14) 4 + 1)
  else if (s.hubPlace fn ctx a).isNone then (s, [])
  else
    let p := s.hubStore fn ctx a 8 e.toNat
    let q := p.1.hubStore fn ctx (h + 8) 4 (n + 1)
    let r := if e.getLsbD 4 then q.1.hubStore fn ctx (h + 0x10) 4 (s.hubRd fn ctx (h + 0x10) 4 + wsGran e) else (q.1, [])
    (r.1, p.2 ++ q.2 ++ r.2)

/-- Whether the working set records a page (R325). -/
def State.wsWants (s : State) (fn ctx sp va : Nat) : Bool :=
  let h := (s.ctxD fn ctx).wshdr.toNat
  decide (h ≠ 0) && decide (s.hubRd fn ctx (h + 0x18) 1 % 2 = 1) && !(s.wsEntries fn ctx).any fun p => wsLists p.2 sp va

/-- Records pages whose Accessed bit walks have set, and the pages of the working set that this reaches for the first
time in turn (R325): at most `n` rounds. -/
def State.wsNotes (s : State) (fn ctx : Nat) : Nat → List PageRef → State
  | 0, _ => s
  | n + 1, ps =>
    if ps = [] then s
    else
      let o := s.wsOpen fn ctx
      let r := (ps ++ o.2).foldl (fun (a : State × List PageRef) p =>
        if a.1.wsWants fn ctx p.sp p.va then
          let q := a.1.wsPush fn ctx (setBits (wsEntry p.size (p.va / p.size * p.size) p.sp) 4 4 (if p.tier = 0 then 1 else 0))
          (q.1, a.2 ++ q.2)
        else a) (o.1, [])
      r.1.wsNotes fn ctx n r.2

/-- Records a page whose Accessed bit a walk sets (R325). -/
def State.wsRecord (s : State) (fn ctx sp va size tier : Nat) : State :=
  s.wsNotes fn ctx 4 [{ sp := sp, va := va, size := size, tier := tier }]

/-- Opens a working set, and records the pages that this reaches for the first time. -/
def State.wsReady (s : State) (fn ctx : Nat) : State :=
  let o := s.wsOpen fn ctx
  o.1.wsNotes fn ctx 4 o.2

/-- Appends an entry of its own. -/
def State.wsAppend (s : State) (fn ctx : Nat) (e : Word) : State :=
  let r := (s.wsReady fn ctx).wsPush fn ctx e
  r.1.wsNotes fn ctx 4 r.2

/-- The place that a hub access reaches, with its walk recorded. -/
def State.hubLoc (s : State) (fn ctx va : Nat) (write : Bool) : State × Option HubPlace :=
  let r := s.hubWalk fn ctx va write
  (r.1.wsNotes fn ctx 4 r.2.2.toList, r.2.1)

/-- Writes `n` bytes of one line at a virtual address, where its checks pass. -/
def State.hubPut (s : State) (fn ctx va n x : Nat) (priv : Bool := false) : State :=
  let r := s.hubStore fn ctx va n x priv
  r.1.wsNotes fn ctx 4 r.2

/-- Writes `n` bytes of the save area, whose pages have PRIV = 1 (R368). -/
def State.saveStore (s : State) (fn ctx va n x : Nat) : State := s.hubPut fn ctx va n x true

/-- The TLB entry of a core or its die for an address, under the world of its context (R360). -/
def State.tlbHit (s : State) (v : View) (sp va : Nat) : Option TlbEntry :=
  s.tlb.find? fun e => decide (e.die = v.die) && (decide (e.core = none) || decide (e.core = some v.core)) && decide (e.fn = v.fn)
    && decide (e.ctx = v.ctx) && decide (e.world = v.world) && decide (e.space = sp) && decide (e.base = va / e.size * e.size)

/-- A line of the frame of an entry (R311). -/
def TlbEntry.covers (e : TlbEntry) (l : Nat) : Bool :=
  let a := (if leafTier e.leaf = 2 then hostLoc (65536 * leafFrame e.leaf) else 65536 * leafFrame e.leaf) / 128
  decide (a ≤ l) && decide (l < a + e.size / 128)

/-- Removes the TLB entries that meet a condition, and the instruction-cache lines of their frames (R311, R363). -/
def State.tlbDrop (s : State) (p : TlbEntry → Bool) : State :=
  let gone := s.tlb.filter p
  { s with tlb := s.tlb.filter fun e => !p e }.icDrop fun l => gone.any fun e => e.covers l

/-- The newest `n` entries that meet a condition, and every entry that does not. -/
def keepNewest (p : TlbEntry → Bool) : Nat → List TlbEntry → List TlbEntry
  | _, [] => []
  | n, e :: t => if p e then (match n with | 0 => keepNewest p 0 t | m + 1 => e :: keepNewest p m t) else e :: keepNewest p n t

/-- Installs a leaf in the L2 TLB of a die and the L1 TLB of the core: 16,384 and 256 entries, the oldest replaced. The
instruction-cache lines of a frame whose translation that removes go (R311, R360, R361). -/
def State.tlbFill (s : State) (v : View) (sp va size : Nat) (l : Word) : State :=
  let e : TlbEntry := { die := v.die, world := v.world, fn := v.fn, ctx := v.ctx, space := sp, base := va / size * size
                        size := size, leaf := l }
  let t := s.tlb.filter fun d => !(decide (d.die = e.die) && decide (d.fn = e.fn) && decide (d.ctx = e.ctx)
    && decide (d.space = sp) && decide (d.base < e.base + size) && decide (e.base < d.base + d.size))
  let own := if v.die < 12 then [{ e with core := some v.core }] else []
  let kept := keepNewest (fun d => decide (d.core = some v.core)) 256
    (keepNewest (fun d => decide (d.core = none) && decide (d.die = v.die)) 16384 (own ++ e :: t))
  let gone := s.tlb.filter fun d => !kept.any fun k => decide (k.die = d.die) && decide (k.core = d.core)
    && decide (leafFrame k.leaf = leafFrame d.leaf) && decide (leafTier k.leaf = leafTier d.leaf) && decide (k.size = d.size)
  { s with tlb := kept }.icDrop fun l => gone.any fun d => d.covers l

/-- What a walk gives its access: the leaf, unless a check from 5 to 8 fails. -/
def walkedOf (l : Word) (size : Nat) (failed : Option Walked) : Walked := failed.getD (.ok l size)

/-- A walk: checks 1 to 4, then the leaf is installed with ACC, marks, owners and recording, whichever of the later
checks fails, unless it meets a mark conflict or a frame of another owner (R359, R361, R364, R370, R399; assumption
log 18). -/
def State.walk (s : State) (v : View) (sp va : Nat) : State × Walked :=
  let s := s.noteWalk (s.ctxD v.fn v.ctx) sp va
  match s.lookup (s.ctxD v.fn v.ctx) sp va with
  | .bad r lvl => (s, .trap 8 (reasonInfo r lvl))
  | .fail c i => (s, .err c i)
  | .leaf l place size _ =>
    let fs := framesOf l size
    let tier := leafTier l
    let near := if tier = 0 then fs.map s.homeDie else []
    let conflict := s.markConflict v.world l fs
    let failed := leafCheck v sp l conflict
    if conflict then (s, walkedOf l size failed)
    else if near.any s.lostDies.contains then (s, .err 12 0)
    else
      let own := if tier ≤ 1 then s.takeOwners v.world (leafPriv l) fs else (s, true)
      if ¬ own.2 then (own.1, walkedOf l size (some (failed.getD (.trap 9 (reasonInfo 4 0)))))
      else
        let l1 := setBits l 8 8 1
        let s1 := if leafAcc l then own.1 else own.1.bankWrite place 8 l1.toNat
        let sb := if tier ≤ 1 then fs.foldl (fun t f => t.setBias f (leafBias l)) s1 else s1
        let s2 := (sb.mark v.world l fs).touch v.fn v.ctx near
        let s3 := if leafAcc l then s2 else s2.wsRecord v.fn v.ctx sp va size tier
        (s3.tlbFill v sp va size l1, walkedOf l1 size failed)

/-- Sets DIRTY in the leaf of a page, after a second walk (R359). -/
def State.setDirty (s : State) (v : View) (sp va : Nat) : State :=
  let s := s.noteWalk (s.ctxD v.fn v.ctx) sp va
  match s.lookup (s.ctxD v.fn v.ctx) sp va with
  | .leaf l place size _ =>
    let l1 := setBits (setBits l 9 9 1) 8 8 1
    (s.bankWrite place 8 l1.toNat).tlbFill v sp va size l1
  | _ => s

/-- Translates one address for an access of some KIND or a fetch: a TLB hit, whose leaf met no
mark conflict when it was installed, or a walk; a first write walks again (R358, R359, R361). `wr` is false for a mere read
of KIND 5 or 6. -/
def State.translate (s : State) (v : View) (sp va kind : Nat) (fetch : Bool) (wr : Bool := kindWrites kind) : State × Walked :=
  let hit : Option TlbEntry := match s.tlbHit v sp va with
    | some e => if wr ∧ ¬ leafDirty e.leaf then none else some e
    | none => none
  let r : State × Walked := match hit with
    | some e => (s, walkedOf e.leaf e.size (leafCheck v sp e.leaf false))
    | none => s.walk v sp va
  match r.2 with
  | .ok l size =>
    match check911 l kind fetch wr with
    | some w => (r.1, w)
    | none =>
      let f := leafFrame l + va % size / 65536
      let tier := leafTier l
      let ds := r.1.diesOf tier f (leafAper l) (decide (tier ≤ 1) && tval false r.1.bias f)
      if r.1.frameLost tier f ∨ ds.any r.1.lostDies.contains ∨ (tier = 3 ∧ r.1.usable (leafAper l) = []) then
        (r.1, .err 12 0)
      else
        let s1 := r.1.touch v.fn v.ctx ds
        if wr ∧ ¬ leafDirty l then (s1.setDirty v sp va, .ok l size) else (s1, .ok l size)
  | w => (r.1, w)

end Sys2Proof.Machine
end

