-- ==== Sys2Proof/Machine/Access.lean ====
section
/-! DEFINITION. Accesses: the checks of R193 on an address, what the address names, and reading and writing
it (R190 to R195, R27, R203, R302, R305, R310, R316, R322, R323, R405). -/

namespace Sys2Proof.Machine

/-- Where the accesses to a page may be served, by its cache policy (Table 15.2). -/
inductive Way where
  | wb | nocol | stream | hub
  deriving DecidableEq, Repr

/-- What a checked address names: a word of the control page, a byte of the window, a byte of memory with its page's
policy, a byte of a peer, an offset of a format-alias page with its frame's location and size, here or at a peer, or
what a peer has answered already. -/
inductive Target where
  | ctl (off : Nat)
  | win (loc : Nat)
  | mem (loc : Nat) (way : Way)
  | peer (p pa : Nat)
  | fmtView (base size off : Nat)
  | fmtPeer (p base size off : Nat)
  | got (x : Nat)
  | err (cause : BitVec 8) (info : Nat)
  deriving DecidableEq, Repr

/-- The outcome of the checks of R193: TRAPINFO holds KIND, without LANE. An error response is a target. -/
inductive Resolved where
  | ok (t : Target)
  | trap (cause : BitVec 8) (info : Nat)
  deriving DecidableEq, Repr

/-- The space of an address. -/
def spaceOf (a : Word) : Nat := bits a 63 60

/-- PERMIT_FAULT REASON of Table 8.1, by space and KIND: 1 for a write of the control page. -/
def spaceReason (sp kind : Nat) : Option Nat :=
  match sp, kind with
  | 1, 6 => some 2
  | 3, 1 => some 1
  | 3, 2 => some 1
  | 3, 3 => some 1
  | 3, 5 => some 2
  | 3, 6 => some 2
  | 4, 0 => none
  | 4, 1 => none
  | 4, _ => some 2
  | _, _ => none

/-! ### The format-alias view (R59, R303, R322, R323) -/

/-- The scale and element locations of element `i` of an alias page. -/
def fmtScaleLoc (base size i : Nat) : Nat := base + size / 2 + i / 32
def fmtElemLoc (base i : Nat) : Nat := base + i

/-- Performs a storage write of an alias store; copies of its line on the storing die go (R303, R404). -/
def State.fmtLand (s : State) (f : FmtStore) : State :=
  ((((s.wrByte f.loc f.val).dropCopies f.die (f.loc / 128) none).dropL1 f.die (f.loc / 128)).recall (f.loc / 128)).countLine (f.loc / 128)

/-- Performs the oldest storage write that waits. -/
def State.fmtNext (s : State) : State :=
  match s.fmtPend with
  | [] => s
  | f :: r => { s with fmtPend := r }.fmtLand f

/-- The storage writes that a fence of a group performs, and the others: its own, and before each of those every older one
to the same location, whoever stored it (R303). -/
def fmtDue (g : Nat) : List FmtStore → List FmtStore × List FmtStore
  | [] => ([], [])
  | f :: t =>
    let r := fmtDue g t
    if f.grp = g ∨ r.1.any (fun e => decide (e.loc = f.loc)) then (f :: r.1, r.2) else (r.1, f :: r.2)

/-- Performs every storage write that a fence of a group orders at device scope (R206, R303). -/
def State.fmtFence (s : State) (g : Nat) : State :=
  let d := fmtDue g s.fmtPend
  d.1.foldl State.fmtLand { s with fmtPend := d.2 }

/-- Performs every storage write that waits (R324, R363). -/
def State.fmtAll (s : State) : State := s.fmtPend.foldl State.fmtLand { s with fmtPend := [] }

/-- The memory controller performs the oldest storage write that waits, or not yet: a free value says (R303). -/
def State.fmtSettle (s : State) : State :=
  if s.fmtPend = [] then s
  else
    let t := { s with draw := s.draw + 1 }
    if Config.fmtLands s.draw then t.fmtNext else t

/-- The byte of an alias location: that of the latest alias store to it, else the storage byte as the hub has it. -/
def State.fmtByte (s : State) (l : Nat) : Byte :=
  match (s.fmtPend.filter fun f => decide (f.loc = l)).getLast? with
  | some f => f.val
  | none => s.rdByte l

/-- Element `i` as tf16. -/
def State.fmtElem (s : State) (base size i : Nat) : Nat :=
  aliasRead (s.rdByte (fmtScaleLoc base size i)).toNat (s.fmtByte (fmtElemLoc base i)).toNat

/-- `n` bytes, n even, of an alias page. -/
def State.fmtRead (s : State) (base size off n : Nat) : Nat :=
  packN 16 (fun j => s.fmtElem base size (off / 2 + j)) (n / 2) 0

/-- Stores `n` bytes to an alias page, element by element, each converted by its block's scale now; the storage writes
come later (R303, R322). -/
def State.fmtWrite (s : State) (v : View) (base size off n x : Nat) : State :=
  (List.range (n / 2)).foldl (fun t j =>
    let i := off / 2 + j
    { t with fmtPend := t.fmtPend ++ [{
        grp := v.grp, die := v.die, loc := fmtElemLoc base i
        val := BitVec.ofNat 8 (aliasWrite (t.rdByte (fmtScaleLoc base size i)).toNat (x / 2 ^ (16 * j) % 65536)) }] }) s

/-- The error response of a line whose verification fails (R405). -/
def State.integrity (s : State) (loc : Nat) : Option Target := (s.integrityErr loc).map fun e => .err e.1 e.2

/-- The way of a policy. -/
def wayOf (l : Word) : Way :=
  match leafPolicy l with
  | 0 => .wb
  | 1 => .nocol
  | 2 => .stream
  | _ => .hub

/-- The target of a translated address (R308, R310, R313, R315, R316, R322): a peer's page ignores the policy, and one of
the format-alias space is converted here (assumption log 83). -/
def State.targetOf (s : State) (sp va : Nat) (l : Word) (size : Nat) : State × Target :=
  let base := leafFrame l * 65536
  let pa := base + va % size
  match leafTier l with
  | 3 => (s, if sp = 4 then .fmtPeer (leafAper l) base size (va % size) else .peer (leafAper l) pa)
  | 2 => (s.hostOwn (hostLoc pa), if sp = 4 then .fmtView (hostLoc base) size (va % size) else .mem (hostLoc pa) (wayOf l))
  | _ =>
    let loc := if sp = 4 then base + va % size / 2 else pa
    match s.integrity loc with
    | some e => (s.noteNode loc, e)
    | none =>
      let s0 := s.verifyLine (loc / 128)
      let s1 := if tval false s.bias (pa / 65536) then s0.hostOwn loc else s0
      if sp = 4 then
        match s.integrity (fmtScaleLoc base size (va % size / 2)) with
        | some e => (s.noteNode (fmtScaleLoc base size (va % size / 2)), e)
        | none => (s1, .fmtView base size (va % size))
      else (s1, .mem pa (wayOf l))

/-- The checks of R193 on one access of `n` bytes aligned to `al`, of some KIND, in their order. -/
def State.resolve (s : State) (v : View) (a : Word) (n al kind : Nat) (wr : Bool := kindWrites kind) : State × Resolved :=
  let sp := spaceOf a
  let k := kind * 32
  if a.toNat % al ≠ 0 ∨ (sp = 4 ∧ n = 1) then (s, .trap 11 k)
  else if (sp = 0 ∨ sp = 4) ∧ bits a 59 52 ≠ 0 then (s, .trap 4 k)
  else if sp = 3 ∧ bits a 59 12 ≠ 0 then (s, .trap 4 k)
  else if sp ≠ 0 ∧ sp ≠ 1 ∧ sp ≠ 3 ∧ sp ≠ 4 then (s, .trap 4 k)
  else
    match spaceReason sp kind with
    | some r => (s, .trap 9 (k + r * 2 ^ 32))
    | none =>
      if sp = 1 then
        if bits a 59 0 + n ≤ (s.wgD v.wg).wb then (s, .ok (.win (winLoc v.wg (bits a 59 0))))
        else (s, .trap 7 k)
      else if sp = 3 then (s, .ok (.ctl (bits a 11 0)))
      else
        let va := bits a 51 0
        let r := s.translate v sp va kind false wr
        match r.2 with
        | .trap c i => (r.1, .trap c (k + i))
        | .err c i => (r.1, .ok (.err c (k + i)))
        | .ok l size =>
          let t := r.1.targetOf sp va l size
          match t.2 with
          | .err c i => (t.1, .ok (.err c (k + i)))
          | tgt => (t.1, .ok tgt)

/-! ### The control page (R27, Table 1.4) -/

/-- The 32-bit word at an offset of a group's control page. -/
def State.ctlWord (s : State) (x : Group) (off : Nat) : Nat :=
  if off < 0x14 then (tval 0 x.doneBatch (off / 4)).toNat
  else if 0x40 ≤ off ∧ off < 0x80 then
    match tget (s.wgD x.wg).slots ((off - 0x40) / 4) with
    | some e => if e.st = 0 then 0 else e.st + 4 * (s.grpD e.grp).idx
    | none => 0
  else if off = 0x80 then x.budget.toNat
  else 0

/-- `n` bytes of a group's control page. -/
def State.ctlRead (s : State) (x : Group) (off n : Nat) : Nat :=
  (s.ctlWord x (off / 4 * 4) + 2 ^ 32 * s.ctlWord x (off / 4 * 4 + 4)) / 2 ^ (8 * (off % 4)) % 2 ^ (8 * n)

/-! ### Requests to peers (R428 to R435) -/

/-- Debits a token bucket of a function: source 0 egress, 1 copy, 2 optical (R349); RATE 0 is never debited. -/
def State.debit (s : State) (fn src cls bytes : Nat) : State :=
  s.updFn fn fun f =>
    match tget f.buckets (16 * src + cls) with
    | some b => if b.rate = 0 then f
                else { f with buckets := tput f.buckets (16 * src + cls) { b with level := b.level - bytes } }
    | none => f

/-- Whether a token bucket holds its source back (R350). -/
def State.bucketLow (s : State) (fn src cls : Nat) : Bool :=
  match tget (s.fnD fn).buckets (16 * src + cls) with
  | some b => decide (b.rate ≠ 0) && decide (b.level ≤ 0)
  | none => false

/-- The link that a request to a peer takes (R434). -/
def State.linkFor (s : State) (p pa : Nat) : Option Nat :=
  let u := s.usable p
  u[bankOf (pa / 128 * 128) % u.length]?

def State.updLink (s : State) (i : Nat) (f : Link → Link) : State :=
  { s with links := tset {} s.links i (f (tval {} s.links i)) }

/-- Sends one flit, or lets it wait while 512 are unacknowledged (R428 to R430). -/
def Link.send (l : Link) (kind : BitVec 8) (payload : List Byte) : Link :=
  let f : Flit := { seq := l.sendSeq, ack := l.expect - 1, kind := kind, payload := payload, verifies := true, iv := l.iv }
  if l.unacked.length < 512 then
    { l with unacked := l.unacked ++ [f], sendSeq := l.sendSeq + 1, iv := l.iv + 1, beat := l.beat + 16 }
  else { l with toSend := l.toSend ++ [f] }

/-- Sends messages in data flits. -/
def Link.sendMsgs (l : Link) (ms : List Msg) : Link := (payloads ms).foldl (fun l p => l.send 1 p) l

/-- The links that a request to a peer may use, as a mask. -/
def State.peerMask (s : State) (p : Nat) : Word := (s.usable p).foldl (fun m i => m ||| (1#64 <<< i)) 0#64

/-- Whether a flit of a request has not been acknowledged, or has not left (R430, R434). -/
def State.unsent (s : State) (o : PeerOut) : Bool :=
  match o.link with
  | none => true
  | some i =>
    let l := tval ({} : Link) s.links i
    (l.unacked ++ l.toSend).any fun f => flitCarries f false o.id

/-- Whether a new request to a peer is held: one of these earlier ones went by another usable set and is not yet
acknowledged or sent again (R434). -/
def State.peerHeld (s : State) (p : Nat) (os : List PeerOut) : Bool :=
  os.any fun o => decide (o.msg.peer = p) && (o.link.isNone || (decide (o.links ≠ s.peerMask p) && s.unsent o))

/-- The touched dies of the requester gain the edge dies of a peer's usable set (R370, R434). -/
def State.touchPeer (s : State) (fn ctx p : Nat) : State := s.touch fn ctx (s.diesOf 3 0 p false)

/-- The flits of a request go out on a link, for the first time or again. -/
def State.sendOn (s : State) (i : Nat) (o : PeerOut) : State := s.updLink i fun l => l.sendMsgs o.msgs

/-- A request leaves for a peer in flits of 256 bytes, or is held (R349, R370, R390, R428, R434, R435). -/
def State.peerSend (s : State) (o : PeerOut) : State :=
  let s0 := match o.rel with | some d => s.release d 3 | none => s
  let n := o.msgs.length
  let s1 := ((s0.charge o.fn (1536 * n)).debit o.fn 2 (s0.wgD o.wg).tbclass (256 * n)).touchPeer o.fn o.ctx o.msg.peer
  let out := { o with
    id := s1.tick, links := s1.peerMask o.msg.peer
    link := if s1.peerHeld o.msg.peer s1.peerOut then none else s1.linkFor o.msg.peer o.msg.pa }
  let s2 := match out.link with | some i => s1.sendOn i out | none => s1
  { s2.bump with peerOut := s2.peerOut ++ [out] }

/-- A request that an agent with a view makes, by an access of some KIND (Table 8.2, R435). -/
def View.ask (v : View) (m : PeerMsg) (addr : Word) (kind : Nat) : PeerOut :=
  { msg := { m with world := v.world }, fn := v.fn, ctx := v.ctx, wg := v.wg, grp := v.grp, addr := addr, acc := kind }

/-- What a peer answered to a request that the running step needs before it can act: an answer that has arrived, none
within for an error response; else the request is one that the step waits for (R305, R315). -/
def State.peerNeed (s : State) (o : PeerOut) : State × Option (Option (List Byte)) :=
  match s.got.find? fun g => decide (g.asker = s.asker) && decide (g.msg = o.msg) with
  | some g => (if o.msg.kind = 0 then s else { s with got := s.got.erase g }, some g.data)
  | none =>
    if o.msg.kind = 0 ∧ s.wants.any fun w => decide (w.msg = o.msg) then (s, none)
    else ({ s with wants := s.wants ++ [{ o with asker := s.asker, op := 0 }] }, none)

/-- What a peer's bytes are, which the step needs now: none for an error response; 0 until they are there. -/
def State.peerRead (s : State) (v : View) (p pa n : Nat) (addr : Word) (kind : Nat) : State × Option Nat :=
  let r := s.peerNeed (v.ask { peer := p, pa := pa, n := n, kind := 0 } addr kind)
  match r.2 with
  | some none => (r.1, none)
  | some (some d) => (r.1, some (ofBytes (d.take n)))
  | none => (r.1, some 0)

/-! ### Operations that take several requests (R188, R217) -/

/-- A number for the place of a bin or a ring. -/
def Target.key (t : Target) : Nat :=
  match t with
  | .win l => l
  | .mem l _ => l
  | .peer p pa => peerLoc p pa
  | _ => 0

/-- A step has asked peers, or has answers that it has not used. -/
def State.midway (s : State) (a : Asker) : Bool :=
  (s.peerOut.any fun o => decide (o.asker = a)) || s.got.any fun g => decide (g.asker = a)

/-- The step that an asker is can still happen. -/
def State.alive (s : State) (a : Asker) : Bool :=
  match a with
  | .none => false
  | .grp g pc => match s.grp? g with | some x => decide (x.pc = pc) | none => false
  | .step _ => true

/-- No other step has begun an operation on a place and waits for peers in the middle of it. -/
def State.lockFree (s : State) (key : Nat) : Bool :=
  !s.locks.any fun e => decide (e.1 = key) && !decide (e.2 = s.asker) && s.alive e.2 && s.midway e.2
    && (match e.2 with | .grp g _ => decide ((s.grpD g).phase = .resident) | _ => true)

/-- The running step begins an operation on a place. -/
def State.lockTake (s : State) (key : Nat) : State :=
  if s.asker = .none ∨ s.locks.contains (key, s.asker) then s else { s with locks := s.locks ++ [(key, s.asker)] }

/-! ### Performing an access -/

/-- Brings the line of an access to its hub bank (R302). -/
def State.reach (s : State) (v : View) (l : Nat) : State :=
  if 12 ≤ v.die then s.recall (l / 128) else s.toHub v.die (l / 128)

/-- Whether an access to memory is performed at the hub bank: by a hub engine, where R302 and Table 8.7 say so, or where
the page's policy does (R313). -/
def atBank (v : View) (way : Way) (hub : Bool) : Bool := decide (12 ≤ v.die) || hub || decide (way = .hub)

/-- `n` bytes of an alias page at a peer, converted here; none for an error response (R59; assumption log 83). -/
def State.fmtPeerRead (s : State) (v : View) (p base size off n : Nat) (addr : Word) (kind : Nat) : State × Option Nat :=
  let a := s.peerRead v p (fmtScaleLoc base size (off / 2)) 1 addr kind
  let b := a.1.peerRead v p (fmtElemLoc base (off / 2)) (n / 2) addr kind
  (b.1, match a.2, b.2 with
    | some sc, some el => some (packN 16 (fun j => aliasRead sc (el / 2 ^ (8 * j) % 256)) (n / 2) 0)
    | _, _ => none)

/-- Reads `n` bytes, n at most 8 or one aligned object; `hub` where R302 and Table 8.7 place the access at
the point of coherence. What a peer holds comes by its response (`readP`, R435). -/
def State.readT (s : State) (v : View) (t : Target) (n : Nat) (hub : Bool) : State × Nat :=
  match t with
  | .ctl off => (if 12 ≤ v.die then s else s.ctlTouch v.core v.grp off, s.ctlRead (s.grpD v.grp) off n)
  | .win l => (s, s.rd l n)
  | .mem l way =>
    if atBank v way hub then let s1 := s.reach v l; (s1, s1.rd l n)
    else if s.lineHome (l / 128) = v.die then let s1 := s.l1Read v.die v.core (l / 128); (s1, s1.rd l n)
    else s.farRead v.die v.core l n (decide (way = .wb)) (decide (way = .stream))
  | .peer _ _ => (s, 0)
  | .fmtView base size off => (s, s.fmtRead base size off n)
  | .fmtPeer p base size off =>
    let r := s.fmtPeerRead v p base size off n 0 0
    (r.1, r.2.getD 0)
  | .got x => (s, x)
  | .err _ _ => (s, 0)

/-- Writes `n` bytes; a peer's are written by a request (`writeP`, R435). -/
def State.writeT (s : State) (v : View) (t : Target) (n : Nat) (hub : Bool) (x : Nat) : State :=
  match t with
  | .ctl _ => s
  | .win l => s.wr l n x
  | .mem l way =>
    if atBank v way hub then ((s.reach v l).wr l n x).countLine (l / 128)
    else if s.lineHome (l / 128) = v.die then
      ((s.l1Write v.die v.core (l / 128) [] (decide (way = .stream))).wr l n x).countLine (l / 128)
    else s.farWrite v.die v.core l (toBytes n x) (decide (way = .wb)) (decide (way = .stream))
  | .fmtView base size off => s.fmtWrite v base size off n x
  | _ => s

/-- One access of an instruction: its lane, its address, and what the address names. -/
structure Piece where
  lane : Nat
  addr : Word
  tgt : Target
  deriving DecidableEq, Repr

/-- A trap with its values, without TRAPPC. -/
structure Raise where
  cause : BitVec 8
  addr : Word := 0
  info : Word := 0
  deriving DecidableEq, Repr

/-- Checks every access in the order given; the first that fails decides (R193). -/
def State.resolveAll (s : State) (v : View) (n al kind : Nat) (wr : Bool) :
    List (Nat × Word) → State × Except Raise (List Piece)
  | [] => (s, .ok [])
  | (L, a) :: t =>
    let r := s.resolve v a n al kind wr
    match r.2 with
    | .trap c i => (r.1, .error { cause := c, addr := a, info := BitVec.ofNat 64 (i + L) })
    | .ok tgt =>
      let q := r.1.resolveAll v n al kind wr t
      match q.2 with
      | .error e => (q.1, .error e)
      | .ok ps => (q.1, .ok ({ lane := L, addr := a, tgt := tgt } :: ps))

/-- The trap of the first error response among the accesses (R194). -/
def firstErr : List Piece → Option Raise
  | [] => none
  | p :: t =>
    match p.tgt with
    | .err c i => some { cause := c, addr := p.addr, info := BitVec.ofNat 64 (i + p.lane) }
    | _ => firstErr t

/-- The lanes with an error response. -/
def errLanes (ps : List Piece) : Mask :=
  maskOf fun L => ps.any fun p => decide (p.lane = L) && (match p.tgt with | .err _ _ => true | _ => false)

/-- Reads `n` bytes that the step needs now, by an access of some KIND: a peer's by a request and its response. An error
response of the peer is the access's. -/
def State.readP (s : State) (v : View) (t : Target) (n : Nat) (addr : Word) (kind : Nat) : State × Except (BitVec 8 × Nat) Nat :=
  match t with
  | .peer p pa =>
    let r := s.peerRead v p pa n addr kind
    (r.1, match r.2 with | some x => .ok x | none => .error (12, 32 * kind))
  | .fmtPeer p base size off =>
    let r := s.fmtPeerRead v p base size off n addr kind
    (r.1, match r.2 with | some x => .ok x | none => .error (12, 32 * kind))
  | .err c i => (s, .error (c, i))
  | t => let q := s.readT v t n true; (q.1, .ok q.2)

/-- Reads pieces that the step needs now, or answers the first error response. -/
def State.readPs (s : State) (v : View) (n kind : Nat) : List Piece → State × Except Raise (List Nat)
  | [] => (s, .ok [])
  | p :: t =>
    let r := s.readP v p.tgt n p.addr kind
    match r.2 with
    | .error (c, i) => (r.1, .error { cause := c, addr := p.addr, info := BitVec.ofNat 64 (i + p.lane) })
    | .ok x =>
      let q := r.1.readPs v n kind t
      match q.2 with
      | .error e => (q.1, .error e)
      | .ok l => (q.1, .ok (x :: l))

/-- The target lies at a peer. -/
def Target.far (t : Target) : Bool :=
  match t with
  | .peer _ _ => true
  | .fmtPeer _ _ _ _ => true
  | _ => false

/-- Asks peers for the pieces that lie there; one whose answer is an error response becomes an `err` target. -/
def State.askAll (s : State) (v : View) (n kind : Nat) : List Piece → State × List Piece
  | [] => (s, [])
  | p :: t =>
    if p.tgt.far then
      let r := s.readP v p.tgt n p.addr kind
      let q := r.1.askAll v n kind t
      (q.1, (match r.2 with | .error (c, i) => { p with tgt := .err c i } | .ok _ => p) :: q.2)
    else let q := s.askAll v n kind t; (q.1, p :: q.2)

/-- The values of pieces that the step needs now; 0 where an error response came. -/
def State.readNeed (s : State) (v : View) (n kind : Nat) : List Piece → State × List Nat
  | [] => (s, [])
  | p :: t =>
    let r := s.readP v p.tgt n p.addr kind
    let q := r.1.readNeed v n kind t
    (q.1, (match r.2 with | .ok x => x | .error _ => 0) :: q.2)

/-- The request of a write of `n` bytes of a peer, by an access of some KIND. -/
def View.writeAsk (v : View) (p pa n x : Nat) (addr : Word) (kind : Nat) : PeerOut :=
  v.ask { peer := p, pa := pa, n := n, kind := 1, data := toBytes n x } addr kind

/-- Writes `n` bytes of a peer by a request. -/
def State.peerWrite (s : State) (v : View) (p pa n x : Nat) (addr : Word) (kind lane : Nat) : State :=
  (s.peerSend { v.writeAsk p pa n x addr kind with lane := lane }).gotPatch p pa (toBytes n x)

/-- Writes `n` bytes at the point of coherence, by an access of some KIND; a peer's by a request. -/
def State.writeP (s : State) (v : View) (t : Target) (n x : Nat) (addr : Word) (kind : Nat) : State :=
  match t with
  | .peer p pa => s.peerWrite v p pa n x addr kind 0
  | t => s.writeT v t n true x

/-- Reads, modifies and writes pieces that the step needs now, but for those with an error response. -/
def State.rmwNeed (s : State) (v : View) (n kind : Nat) (f : Nat → Nat → Nat) : List Piece → State
  | [] => s
  | p :: t =>
    let r := s.readP v p.tgt n p.addr kind
    match r.2 with
    | .ok x => (r.1.writeP v p.tgt n (f p.lane x) p.addr kind).rmwNeed v n kind f t
    | .error _ => r.1.rmwNeed v n kind f t

/-- Reads every piece in order. -/
def State.readAll (s : State) (v : View) (n : Nat) (hub : Bool) : List Piece → State × List Nat
  | [] => (s, [])
  | p :: t =>
    let r := s.readT v p.tgt n hub
    let q := r.1.readAll v n hub t
    (q.1, r.2 :: q.2)

/-- The element bytes that a store of `n` bytes of tf16 values gives under a scale (R59). -/
def fmtBytes (scale n x : Nat) : Nat := packN 8 (fun j => aliasWrite scale (x / 2 ^ (16 * j) % 65536)) (n / 2) 0

/-- Writes every piece in order, by accesses of some KIND. -/
def State.writeAll (s : State) (v : View) (n kind : Nat) (hub : Bool) : List (Piece × Nat) → State
  | [] => s
  | (p, x) :: t =>
    let s1 := s.writeT v p.tgt n hub x
    let s2 := match p.tgt with
      | .peer q pa => s1.peerWrite v q pa n x p.addr kind p.lane
      | .fmtPeer q base size off =>
        let r := s1.peerRead v q (fmtScaleLoc base size (off / 2)) 1 p.addr kind
        r.1.peerWrite v q (fmtElemLoc base (off / 2)) (n / 2) (fmtBytes (r.2.getD 0) n x) p.addr kind p.lane
      | _ => s1
    s2.writeAll v n kind hub t

/-- Reads, modifies and writes every piece in order, answering the old values (R202). -/
def State.rmwAll (s : State) (v : View) (n : Nat) (hub : Bool) (f : Nat → Nat → Nat) :
    List Piece → State × List Nat
  | [] => (s, [])
  | p :: t =>
    let r := s.readT v p.tgt n hub
    let s1 := r.1.writeT v p.tgt n hub (f p.lane r.2)
    let q := s1.rmwAll v n hub f t
    (q.1, r.2 :: q.2)

end Sys2Proof.Machine
end

