-- ==== Sys2Proof/Machine/Rings.lean ====
section
/-! DEFINITION. Ring control blocks, signals and hub words, fault and event records, and MSI-X bits (R216,
R217, R334, R365, R413, R415, R417, R440, R441). -/

namespace Sys2Proof.Machine

/-! ### Ring control blocks (Table 8.11) -/

structure Rcb where
  pidx : Nat
  cidx : Nat
  cap : Nat
  esize : Nat
  base : Nat
  valid : Bool
  deriving DecidableEq, Repr

/-- The block whose `n`-byte field at offset `o` is `f o n`. -/
def Rcb.of (f : Nat → Nat → Nat) : Rcb :=
  let cfg := f 0x10 8
  let base := f 0x18 8
  let esize := cfg / 2 ^ 8 % 64
  { pidx := f 0 4
    cidx := f 8 4
    cap := 2 ^ (cfg % 32)
    esize := esize
    base := base
    valid := decide (f 4 4 = 0) && decide (f 12 4 = 0) && decide (cfg / 32 % 8 = 0)
      && decide (cfg / 2 ^ 14 = 0) && decide (f 0x20 32 = 0) && decide (cfg % 32 ≤ 24)
      && decide (1 ≤ esize) && decide (esize ≤ 32) && decide (base % 8 = 0) }

/-- The block at a location. -/
def State.rcb (s : State) (l : Nat) : Rcb := Rcb.of fun o n => s.rd (l + o) n

/-- The block in 64 bytes read as a number. -/
def Rcb.ofNat (x : Nat) : Rcb := Rcb.of fun o n => x / 2 ^ (8 * o) % 2 ^ (8 * n)

def Rcb.isEmpty (r : Rcb) : Bool := decide (r.pidx = r.cidx)
def Rcb.full (r : Rcb) : Bool := decide ((r.pidx + 2 ^ 32 - r.cidx) % 2 ^ 32 = r.cap)

/-- The address of element `i` (R216). -/
def Rcb.elem (r : Rcb) (i : Nat) : Nat := r.base + 8 * r.esize * (i % r.cap)

/-- Appends four words to a physical ring with ESIZE 4, if it is valid, has room and its memory answers (R441). -/
def State.physAppend (s : State) (ring : Nat) (r : Rec) : Option State :=
  let b := s.rcb ring
  let a := b.elem b.pidx
  if ring = 0 ∨ ¬ b.valid ∨ b.esize ≠ 4 ∨ b.full ∨ (s.physErr ring).isSome ∨ (s.physErr a).isSome then none
  else
    some ((s.bankWrite a 32 (r.w0.toNat + 2 ^ 64 * r.w1.toNat + 2 ^ 128 * r.w2.toNat + 2 ^ 192 * r.w3.toNat)).bankWrite ring 4
      (b.pidx + 1))

/-! ### Records -/

/-- Raises an MSI-X vector of a function (R413). -/
def State.msix (s : State) (fn n : Nat) : State :=
  s.updFn fn fun f => { f with msix := f.msix ||| (1#64 <<< n) }

/-- Moves waiting records to a ring in order, raising the vector when the ring was empty. -/
def State.flushTo (s : State) (fn vec ring : Nat) : List Rec → State × List Rec
  | [] => (s, [])
  | r :: t =>
    let was := (s.rcb ring).isEmpty
    match s.physAppend ring r with
    | none => (s, r :: t)
    | some s1 => (if was then s1.msix fn vec else s1).flushTo fn vec ring t

/-- The ring of a function for fault (0) or event (1) records; 0 while it has no descriptor (R414, R417). -/
def State.recRing (s : State) (fn which : Nat) : Nat := (s.fnD fn).rings.getD (if which = 0 then 1 else 3) 0

/-- Appends what waits for a function's fault and event queues, while they have room. -/
def State.flushRecs (s : State) (fn : Nat) : State :=
  let a := s.flushTo fn 0 (s.recRing fn 0) (s.fnD fn).faults
  let s1 := a.1.updFn fn fun f => { f with faults := a.2 }
  let b := s1.flushTo fn 1 (s1.recRing fn 1) (s1.fnD fn).events
  b.1.updFn fn fun f => { f with events := b.2 }

/-- Counts a dropped record: in the descriptor, or in the hub while there is none (R365, R415, R417). -/
def State.dropRec (s : State) (fn which : Nat) : State :=
  let p := (s.fnD fn).pdesc.toNat
  if p = 0 then
    s.updFn fn fun f => if which = 0 then { f with fdrop := f.fdrop + 1 } else { f with edrop := f.edrop + 1 }
  else
    let l := p + (if which = 0 then 0x20 else 0x24)
    s.bankWrite l 4 (s.rd l 4 + 1)

/-- Hands a record to a function's fault or event queue (R365, R415). -/
def State.putRec (s : State) (fn which : Nat) (r : Rec) : State :=
  let f := s.fnD fn
  if 4096 ≤ (if which = 0 then f.faults else f.events).length then s.dropRec fn which
  else
    (s.updFn fn fun f => if which = 0 then { f with faults := f.faults ++ [r] }
      else { f with events := f.events ++ [r] }).flushRecs fn

/-- An event record (R415), to the function it names and to function 0; what the spec gives no value is free. -/
def State.event (s0 : State) (code fn ctx world : Nat) (w1 : Option Word) (detail : Option Word := none) : State :=
  let s := { s0 with draw := s0.draw + 2 }
  let r : Rec := { w0 := BitVec.ofNat 64 (code + fn % 16 * 2 ^ 16 + ctx % 256 * 2 ^ 20 + world % 64 * 2 ^ 28)
                   w1 := w1.getD (Config.eventWord s0.draw), w2 := BitVec.ofNat 64 s.age
                   w3 := detail.getD (Config.eventWord (s0.draw + 1)) }
  let s1 := s.putRec 0 1 r
  if fn = 0 then s1 else s1.putRec fn 1 r

/-- KIND of a fault record: the KIND that TRAPINFO holds by Table 8.2, and 0 where it holds none (R195, R358;
assumption log 20). -/
def recKind (t : Trap) : Nat :=
  if [4, 7, 8, 9, 10, 11, 12, 13].contains t.cause.toNat ∧ ¬ t.info.getLsbD 16 then bits t.info 7 5 else 0

/-- A fault record (Table 18.6). -/
def faultRec (t : Trap) (held eng nest kill : Bool) (world ctx tag : Nat) : Rec :=
  { w0 := BitVec.ofNat 64 (t.cause.toNat + held.toNat * 2 ^ 8 + eng.toNat * 2 ^ 9 + nest.toNat * 2 ^ 10
      + kill.toNat * 2 ^ 11 + recKind t * 2 ^ 12 + world % 64 * 2 ^ 16 + ctx % 256 * 2 ^ 22
      + (if held then tag % 2 ^ 32 else 0) * 2 ^ 32)
    w1 := t.addr
    w2 := if eng then 0 else t.pc
    w3 := t.info }

/-- Whether a function's fault store is full (R365). -/
def State.faultFull (s : State) (fn : Nat) : Bool := decide (4096 ≤ (s.fnD fn).faults.length)

/-- A tag for a held fault: a nonzero 32-bit number that no held fault has (R366). -/
def State.newTag (s : State) : Nat :=
  (((List.range (s.holds.length + 1)).map fun i => (s.tick + i) % (2 ^ 32 - 1) + 1).find? fun c =>
    (tget s.holds c).isNone).getD 1

/-- Holds a fault: a fresh tag and its record, which waits when the store is full (R365, R366). -/
def State.hold (s : State) (fn ctx : Nat) (grp op me : Option Nat) (t : Trap) (nest : Bool) : State × Nat :=
  let tag := s.newTag
  let room := !s.faultFull fn
  let fs : Nat × Nat := match s.lookup (s.ctxD fn ctx) (spaceOf t.addr) (bits t.addr 51 0) with
    | .leaf l _ size _ => if leafTier l ≤ 1 then (leafFrame l, size / 65536) else (0, 0)
    | _ => (0, 0)
  let s1 := { s.bump with
    holds := tput s.holds tag
      { fn := fn, ctx := ctx, grp := grp, op := op, me := me, trap := t, recorded := room, frame := fs.1, span := fs.2 } }
  let r := faultRec t true grp.isNone nest false (s.ctxD fn ctx).world ctx tag
  (if room then s1.putRec fn 0 r else s1, tag)

/-- Gives a record to the oldest held fault of a function that has none, when room appeared (R365). -/
def State.recordHolds (s : State) : List (Nat × Hold) → State
  | [] => s
  | (tag, h) :: t =>
    if h.recorded ∨ s.faultFull h.fn then s.recordHolds t
    else
      let nest := match h.grp with | some g => (s.grpD g).trapMode | none => false
      let s1 := s.putRec h.fn 0
        (faultRec h.trap true h.grp.isNone nest false (s.ctxD h.fn h.ctx).world h.ctx tag)
      { s1 with holds := tput s1.holds tag { h with recorded := true } }.recordHolds t

/-- The record writers' work before a step: waiting records move to rings with room. -/
def State.settleRecs (s : State) : State :=
  let s1 := s.fns.foldl (fun t p => if p.2.faults = [] ∧ p.2.events = [] then t else t.flushRecs p.1) s
  if s1.holds.any fun p => !p.2.recorded then s1.recordHolds s1.holds else s1

/-- A fault of a hub engine that nothing holds: a record with ENG 1 (R440). -/
def State.engFault (s : State) (fn ctx : Nat) (r : Raise) : State :=
  s.putRec fn 0 (faultRec { cause := r.cause, addr := r.addr, info := r.info } false true false false
    (s.ctxD fn ctx).world ctx 0)

/-! ### Words that hub engines read and write -/

/-- What a checked address of a hub engine names, or the trap. -/
def State.hubAt (s : State) (v : View) (a : Word) (n kind : Nat) : State × Except Raise Target :=
  let r := s.resolve v a n n kind
  match r.2 with
  | .trap c i => (r.1, .error { cause := c, addr := a, info := BitVec.ofNat 64 i })
  | .ok (.err c i) => (r.1, .error { cause := c, addr := a, info := BitVec.ofNat 64 i })
  | .ok t => (r.1, .ok t)

/-- The traffic of a hub engine's access to a place (R390). -/
def State.hubPays (s : State) (v : View) (t : Target) (n : Nat) : State :=
  match t with
  | .mem l _ => s.chargeAt v.fn l n
  | _ => s

/-- Reads an `n`-byte word; none when a check fails. -/
def State.hubRead (s : State) (v : View) (a : Word) (n : Nat) : State × Except Raise Nat :=
  let r := s.hubAt v a n 0
  match r.2 with
  | .error e => (r.1, .error e)
  | .ok t =>
    let q := r.1.readP v t n a 0
    match q.2 with
    | .error (c, i) => (q.1, .error { cause := c, addr := a, info := BitVec.ofNat 64 i })
    | .ok x => (q.1.hubPays v t n, .ok x)

/-- Reads `k` words of 8 bytes from an address. -/
def State.hubWords (s : State) (v : View) (a : Word) : Nat → State × Except Raise (List Word)
  | 0 => (s, .ok [])
  | k + 1 =>
    let r := s.hubRead v a 8
    match r.2 with
    | .error e => (r.1, .error e)
    | .ok x =>
      let q := r.1.hubWords v (a + 8) k
      match q.2 with
      | .error e => (q.1, .error e)
      | .ok l => (q.1, .ok (BitVec.ofNat 64 x :: l))

/-- What a hub engine does to a word in one indivisible operation (R315, R334). -/
inductive HubOp where
  | add (x : Nat)
  | set (x : Nat)
  deriving DecidableEq, Repr

/-- The new value of an `n`-byte word. -/
def HubOp.new (o : HubOp) (n old : Nat) : Nat :=
  match o with
  | .add x => (old + x) % 2 ^ (8 * n)
  | .set x => x % 2 ^ (8 * n)

/-- KIND of the access that an operation makes: an addition is an atomic, the other a store (Table 8.2). -/
def HubOp.kind (o : HubOp) : Nat := match o with | .add _ => 2 | .set _ => 1

/-- The operation as a request to a peer: `add` of Table 8.6 on n32 or n64, or a write. -/
def HubOp.msg (o : HubOp) (p pa n : Nat) : PeerMsg :=
  let ty : BitVec 6 := if n = 4 then 5 else 22
  match o with
  | .add x => { peer := p, pa := pa, n := n, kind := 2, sub := 0, ty := ty, data := toBytes n x }
  | .set x => { peer := p, pa := pa, n := n, kind := 1, data := toBytes n x }

/-- Changes a word that an access checked; the error response of a peer is told (R435). -/
def State.hubDo (s : State) (v : View) (t : Target) (a : Word) (n : Nat) (o : HubOp) : State × Option Raise :=
  match t with
  | .peer p pa =>
    let q := s.peerNeed (v.ask (o.msg p pa n) a o.kind)
    (q.1, if q.2 = some none then some { cause := 12, addr := a, info := BitVec.ofNat 64 (32 * o.kind) } else none)
  | t =>
    let q := s.readT v t n true
    ((q.1.writeT v t n true (o.new n q.2)).hubPays v t n, none)

/-- Changes an `n`-byte word by one indivisible operation; a failure leaves it and gives a fault record (R440). A peer is sent
the operation once the step has happened. -/
def State.hubUpd (s : State) (v : View) (a : Word) (n : Nat) (o : HubOp) : State :=
  let r := s.hubAt v a n o.kind
  match r.2 with
  | .error e => r.1.engFault v.fn v.ctx e
  | .ok (.peer p pa) => { r.1 with toPeers := r.1.toPeers ++ [v.ask (o.msg p pa n) a o.kind] }
  | .ok t =>
    let q := r.1.hubDo v t a n o
    match q.2 with
    | some e => q.1.engFault v.fn v.ctx e
    | none => q.1

/-- Subtracts from a signal at an address of a context (R334); 0 names none. -/
def State.sigSub (s : State) (v : View) (a : Word) (x : Nat) : State :=
  if a = 0 then s else s.hubUpd v a 8 (.add (2 ^ 64 - x % 2 ^ 64))

/-- Sets a signal. -/
def State.sigSet (s : State) (v : View) (a : Word) (x : Nat) : State :=
  if a = 0 then s else s.hubUpd v a 8 (.set x)

/-- The view of a context by its key. -/
def State.keyView (s : State) (k : Nat) : View := s.hubView (k / 256) (k % 256)

/-- The context that put an element into one of the hub's rings (R440); none when it was no group's ENQ. -/
def State.enqView (s : State) (elem : Nat) : Option View := (tget s.enqBy elem).map s.keyView

/-- Changes the signal of a request of an invalidation, move or management ring: in the context of the group that
enqueued it, else at a physical address (R334, R362, R373, R416, R440, R441; assumption log 60). -/
def State.ringSig (s : State) (from_ : Option View) (a : Nat) (o : HubOp) : State :=
  if a = 0 then s
  else
    match from_ with
    | some v => s.hubUpd v (BitVec.ofNat 64 a) 8 o
    | none => if (s.physErr a).isSome then s else s.bankWrite a 8 (o.new 8 (s.rd a 8))

/-- The signal goes down by 1. -/
def HubOp.dec : HubOp := .add (2 ^ 64 - 1)

/-- The signal becomes −x. -/
def HubOp.neg (x : Nat) : HubOp := .set (2 ^ 64 - x)

/-- Whether a physical address lies in a frame owned by world 0 or OPEN (R441). -/
def State.mgmtFrame (s : State) (a : Nat) : Bool :=
  decide (s.ownerOf (a / 65536) = 0) || decide (s.ownerOf (a / 65536) = 64)

/-- Words of 8 bytes at a physical address. -/
def State.physWords (s : State) (a n : Nat) : List Word := (List.range n).map fun i => s.entry (a + 8 * i)

end Sys2Proof.Machine
end

