-- ==== Sys2Proof/Machine/Units.lean ====
section
/-! DEFINITION. Barrier objects, batches, the end of groups and workgroups, and the completion and
cancellation of launches, graphs, phases and jobs (R14, R109, R110, R175, R211, R212, R215, R239, R261,
R336, R338 to R341, R352, R396). -/

namespace Sys2Proof.Machine

/-! ### Barrier objects (Table 8.8) -/

structure BarObj where
  phase : Nat
  expect : Nat
  pend : Nat
  bytes : Nat
  joined : Nat
  init : Bool
  deriving DecidableEq, Repr

def BarObj.ofNat (o : Nat) : BarObj :=
  { phase := o % 2 ^ 32, expect := o / 2 ^ 32 % 2 ^ 16, pend := o / 2 ^ 48 % 2 ^ 16, bytes := o / 2 ^ 64 % 2 ^ 32
    joined := o / 2 ^ 96 % 2 ^ 16, init := decide (o / 2 ^ 112 % 2 = 1) }

def BarObj.toNat (b : BarObj) : Nat :=
  b.phase + b.expect * 2 ^ 32 + b.pend * 2 ^ 48 + b.bytes * 2 ^ 64 + b.joined * 2 ^ 96 + b.init.toNat * 2 ^ 112

/-- A phase completes when an operation leaves PEND and BYTES 0 (R212). -/
def BarObj.check (b : BarObj) : BarObj :=
  if b.pend = 0 ∧ b.bytes = 0 then { b with phase := (b.phase + 1) % 2 ^ 32, pend := b.expect } else b

/-- A change of BYTES, modulo 2^32 (R212). -/
def BarObj.addBytes (b : BarObj) (x : Nat) : BarObj := { b with bytes := (b.bytes + x) % 2 ^ 32 }

/-- A retire-arrival (R109); once EXPECT is 0, a phase completes only through BYTES (R214). -/
def BarObj.retire (b : BarObj) (e : Join) : BarObj :=
  let c := { b with
    expect := b.expect - 1
    pend := if ¬ e.arrived ∧ e.phase.toNat = b.phase then b.pend - 1 else b.pend }
  if b.pend = 0 ∧ b.bytes = 0 then c else c.check

/-- A joined group leaves (R214). -/
def BarObj.leave (b : BarObj) : BarObj := { b with joined := (b.joined + 65535) % 65536 }

/-- An operation on a barrier object (R109, R211 to R214, R240). -/
inductive BarOp where
  | init (n : Nat)
  /-- BOARR: whether an arrival is counted, its bytes, and the phase in which the group has arrived already -/
  | arrive (counted : Bool) (bytes : Nat) (mine : Option Nat)
  | join
  | leave
  /-- retire-arrival of an entry, and its leaving -/
  | ret (e : Join)
  /-- bytes that a copy has landed -/
  | land (bytes : Nat)
  /-- no change -/
  | look
  deriving DecidableEq, Repr

/-- The object after an operation; one that traps changes nothing (R214). -/
def BarOp.new (o : BarOp) (b : BarObj) : BarObj :=
  match o with
  | .init n =>
    if n = 0 ∨ (b.init ∧ b.joined ≠ 0) then b
    else { phase := 0, expect := n, pend := n, bytes := 0, joined := 0, init := true }
  | .arrive counted n mine =>
    if ¬ b.init ∨ (counted ∧ b.pend = 0) ∨ (counted ∧ mine = some b.phase) then b
    else ((if counted then { b with pend := b.pend - 1 } else b).addBytes n).check
  | .join => if b.init then { b with joined := (b.joined + 1) % 65536 } else b
  | .leave => b.leave
  | .ret e => (b.retire e).leave
  | .land n => (b.addBytes (2 ^ 32 - n % 2 ^ 32)).check
  | .look => b

/-- The operation as a request to a peer. -/
def BarOp.msg (o : BarOp) (p pa : Nat) : PeerMsg :=
  let m (sub : Nat) (data : List Byte) : PeerMsg := { peer := p, pa := pa, n := 16, kind := 3, sub := sub, data := data }
  match o with
  | .init n => m 0 (toBytes 4 n)
  | .arrive c n none => m (if c then 1 else 2) (toBytes 4 n)
  | .arrive c n (some ph) => m (if c then 1 else 2) (toBytes 4 n ++ toBytes 4 ph)
  | .join => m 3 []
  | .leave => m 4 []
  | .ret e => m (if e.arrived then 6 else 5) (toBytes 4 e.phase.toNat)
  | .land n => m 7 (toBytes 4 n)
  | .look => m 8 []

/-- The operation that a peer asks of this module. -/
def BarOp.ofReq (sub : Nat) (data : List Byte) : BarOp :=
  let x := ofBytes (data.take 4)
  let y := if data.length < 8 then none else some (ofBytes ((data.drop 4).take 4))
  match sub with
  | 0 => .init x
  | 1 => .arrive true x y
  | 2 => .arrive false x y
  | 3 => .join
  | 4 => .leave
  | 5 => .ret { addr := 0, phase := BitVec.ofNat 32 x, arrived := false }
  | 6 => .ret { addr := 0, phase := BitVec.ofNat 32 x, arrived := true }
  | 7 => .land x
  | _ => .look

/-- Whether the operation is a release (R211, R214). -/
def BarOp.rel (o : BarOp) : Bool :=
  match o with
  | .init _ => true
  | .arrive _ _ _ => true
  | .ret _ => true
  | .land _ => true
  | .join => false
  | .leave => false
  | .look => false

/-- One operation on the object at a checked address (R211); a peer's is performed by a request. -/
def State.barUpd (s : State) (v : View) (t : Target) (addr : Word) (o : BarOp) : State :=
  match t with
  | .peer p pa => s.peerSend { v.ask (o.msg p pa) addr 5 with rel := if o.rel ∧ v.die < 12 then some v.die else none }
  | t =>
    let r := s.readT v t 16 true
    r.1.writeT v t 16 true (o.new (BarObj.ofNat r.2)).toNat

/-- The release of an operation on an object: at workgroup scope in the window, at device scope in memory
(R109, R211). -/
def State.barRelease (s : State) (v : View) (t : Target) : State :=
  match t with
  | .win _ => s
  | _ => if v.die < 12 then s.release v.die 3 else s

/-! ### Batches (R239) -/

/-- Whether an operation of a class and batch of a group has not completed. -/
def State.batchBusy (s : State) (g cls : Nat) (b : BitVec 32) : Bool :=
  s.ops.any (fun p => decide (p.2.grp = g) && decide (p.2.cls = cls) && decide (p.2.batch = b))
    || (decide (cls = 0) &&
      (s.cores.any (fun c => c.2.engq.any fun o => decide (o.grp = g) && decide (o.batch = b) && decide (o.pend = 0))
        || s.engines.any fun e => match e.2.running with
            | some o => decide (o.grp = g) && decide (o.batch = b) && decide (o.pend = 0)
            | none => false))

def Group.openB (x : Group) (cls : Nat) : BitVec 32 := tval 1 x.openBatch cls
def Group.doneB (x : Group) (cls : Nat) : BitVec 32 := tval 0 x.doneBatch cls

/-- Completes closed batches in order while they hold no operation; a MAT batch releases at the widest scope of its ACCLD
and ACCST (R236, R239). -/
def State.batchGo (s : State) (g cls : Nat) : Nat → State
  | 0 => s
  | n + 1 =>
    let x := s.grpD g
    let b := x.doneB cls + 1
    if b = x.openB cls ∨ s.batchBusy g cls b then s
    else
      let s1 := if cls = 0 then s.release (dieOf x.core) (tval 0 x.accScp b.toNat) else s
      (s1.updGrp g fun x => { x with
        doneBatch := tset 0 x.doneBatch cls b
        accScp := if cls = 0 then tdel x.accScp b.toNat else x.accScp }).batchGo g cls n

def State.batches (s : State) (g cls : Nat) : State :=
  s.batchGo g cls ((s.grpD g).openB cls - (s.grpD g).doneB cls).toNat

/-! ### Completion of units -/

def State.updLaunch (s : State) (l : Nat) (f : Launch → Launch) : State :=
  match tget s.launches l with
  | some x => { s with launches := tput s.launches l (f x) }
  | none => s

/-- A packet's status is known (R336). -/
def State.packetDone (s : State) (p st : Nat) : State :=
  match tget s.packets p with
  | some k => { s with packets := tput s.packets p { k with status := some st } }
  | none => s

/-- One child of a unit completed, well or not; answers the unit's status when the unit completes (R338). -/
def unitStep (u : Unit3) (ok : Bool) : Unit3 × Option Nat :=
  if u.done then (u, none)
  else
    let u1 := { u with remaining := u.remaining - 1, bad := u.bad || !ok }
    if u1.remaining = 0 then
      ({ u1 with done := true }, some (if u1.cancelled then 2 else if u1.bad then 1 else 0))
    else (u1, none)

def State.jobChild (s : State) (j : Nat) (ok : Bool) : State :=
  match tget s.jobs j with
  | none => s
  | some u => { s with jobs := tput s.jobs j (unitStep u ok).1 }

def State.phaseChild (s : State) (p : Nat) (ok : Bool) : State :=
  match tget s.phases p with
  | none => s
  | some u =>
    let r := unitStep u ok
    let s1 := { s with phases := tput s.phases p r.1 }
    match r.2 with
    | none => s1
    | some st => s1.jobChild u.parent (decide (st = 0))

/-- A launch of a graph completed: its node's status is kept, and the graph may complete (R338, R340). -/
def State.graphChild (s : State) (g node st : Nat) : State :=
  match tget s.graphs g with
  | none => s
  | some u =>
    let u1 := { u with nodes := tput u.nodes node ((tval (0, none) u.nodes node).1, some st) }
    let r := unitStep u1 (decide (st = 0))
    let s1 := { s with graphs := tput s.graphs g r.1 }
    match r.2 with
    | none => s1
    | some gst => (s1.packetDone u.packet gst).phaseChild u.parent (decide (gst = 0))

/-- A launch completes when its counter is 0 (R338). -/
def State.launchCheck (s : State) (l : Nat) : State :=
  match tget s.launches l with
  | none => s
  | some x =>
    if x.done ∨ x.remaining ≠ 0 then s
    else
      let st := if x.killed then 5 else if x.cancelled then 2 else 0
      let s1 := s.updLaunch l fun x => { x with done := true }
      if x.graph = 0 then s1.packetDone x.packet st else s1.graphChild x.graph x.node st

/-! ### The launch-scope barrier (R215) -/

/-- Groups of a launch that have neither exited nor been killed, with those of workgroups not yet placed. -/
def State.launchGroups (s : State) (l : Nat) : Nat :=
  (s.groups.filter fun p => decide ((s.wgD p.2.wg).launch = l)).length

/-- A group after `n` cycles of its core: PBUDGETW counts down, and STALL runs out (R86, R259). -/
def Group.after (x : Group) (n : Nat) : Group :=
  { x with stall := x.stall - n, budget := if x.budgetOn then BitVec.ofNat 32 (x.budget.toNat - n) else x.budget }

/-- `n` cycles of a core pass. -/
def State.passCycles (s : State) (core n : Nat) : State :=
  let s1 := s.updCore core fun k => { k with cycle := k.cycle + BitVec.ofNat 64 n }
  { s1 with groups := s1.groups.map fun (p : Nat × Group) => if p.2.core = core then (p.1, p.2.after n) else p }

/-- The distance that a slot adds to every watched producer (R86). -/
def Group.addDist (x : Group) (n : Nat) : Group :=
  { x with producers := x.producers.map fun p => { p with dist := p.dist + n } }

/-- Retires the slot of a group: the next slot, its cycle, and the STALL that runs from then on (R86). -/
def State.retire (s : State) (g : Nat) (sl : Slot) : State :=
  let n := 1 + sl.stall.toNat
  let s1 := s.updGrp g fun x =>
    { (x.addDist n) with pc := x.pc + 16, wait := .none, yielded := decide (sl.yld = 1), stall := n }
  if (s.grp? g).isSome then s1.passCycles (s.grpD g).core 1 else s1

/-- Completes the barrier of a launch when every remaining group has arrived. -/
def State.lbarCheck (s : State) (l : Nat) : State :=
  match tget s.launches l with
  | none => s
  | some x =>
    if x.lbar = [] ∨ x.lbar.length < s.launchGroups l then s
    else
      let s1 := s.updLaunch l fun x => { x with lbar := [] }
      x.lbar.foldl (fun t g =>
        match (t.grpD g).wait with
        | .lbar sl =>
          ((t.acquire (t.grpD g).core 3).updGrp g fun y =>
            (y.setTok sl.tset none).watch none true sl.tset.toNat []).retire g sl
        | _ => t) s1

/-! ### The end of a group -/

/-- Performs the retire-arrivals of checked entries in table order; an error response leaves its object and
gives a record of KIND 5 (R109). -/
def State.retireAll (s : State) (v : View) : List (Join × Target) → State
  | [] => s
  | (e, t) :: r =>
    match t with
    | .err c i => (s.putRec v.fn 0 (faultRec { cause := c, addr := e.addr, info := BitVec.ofNat 64 i } false false
        false false v.world v.ctx 0)).retireAll v r
    | t => ((s.barRelease v t).barUpd v t e.addr (.ret e)).retireAll v r

/-- The entries whose objects pass R193, for a group that ends without its own check. -/
def State.joinTargets (s : State) (v : View) : List Join → State × List (Join × Target)
  | [] => (s, [])
  | e :: r =>
    let q := s.resolve v e.addr 16 16 5
    let u := q.1.joinTargets v r
    match q.2 with
    | .ok t => (u.1, (e, t) :: u.2)
    | .trap _ _ => u

/-- Takes a group out of the wait it is in: its transfer slot goes idle, its arrival is withdrawn, its held
fault is void (R175, R210, R215, R366). -/
def State.unwait (s : State) (g : Nat) : State :=
  let x := s.grpD g
  let s1 := match x.wait with
    | .xfer j _ _ => s.updWg x.wg fun w => { w with slots := tdel w.slots j }
    | .lbar _ => s.updLaunch (s.wgD x.wg).launch fun l => { l with lbar := l.lbar.filter fun h => h ≠ g }
    | .held tag => { s with holds := tdel s.holds tag }
    | _ => s
  s1.updGrp g fun x => { x with wait := .none }

/-- Frees the trap bank that a group holds (R254). -/
def State.freeBank (s : State) (g : Nat) : State :=
  let k := (s.grpD g).bankKey
  let b := s.bankD k
  if b.owner = some g then s.setBank k { b with owner := none } else s

/-- Whether a matrix-engine instruction of a workgroup has not completed. -/
def State.matBusy (s : State) (w : Nat) : Bool :=
  s.cores.any (fun c => c.2.engq.any fun o => decide (o.wg = w))
    || s.engines.any fun e => match e.2.running with | some o => decide (o.wg = w) | none => false

/-- Whether any engine still works for a workgroup. -/
def State.engBusy (s : State) (w : Nat) : Bool := s.matBusy w || s.ops.any fun p => decide (p.2.wg = w)

/-- Clears what a finished workgroup still holds once no engine works for it: tiles, window, record
(R219, R248, R396). -/
def State.wgSweep (s : State) (w : Nat) : State :=
  match tget s.wgs w with
  | none => s
  | some x =>
    if ¬ x.done then s
    else
      let s1 := if s.matBusy w then s else s.updWg w fun x => { x with tile := [], tiles := 0 }
      if s1.engBusy w then s1
      else { s1 with wgs := tdel s1.wgs w, mem := tclear s1.mem (winLoc w 0) (2 ^ 32) }

/-- A workgroup ends: completed, killed or cancelled (R110, R352). -/
def State.wgFinish (s : State) (w : Nat) (killed cancelled : Bool) : State :=
  match tget s.wgs w with
  | none => s
  | some x =>
    if x.done then s
    else
      let s1 := s.updWg w fun x => { x with done := true, resident := false, slots := [], groups := [] }
      let s2 := { s1 with mem := tclear s1.mem (winLoc w 0) (2 ^ 32) }
      let s3 := match x.card with
        | some c => if killed ∨ cancelled then s2 else s2.sigSub (s2.hubView x.fn x.ctx) c.signal 1
        | none => s2
      let s4 := s3.updLaunch x.launch fun l =>
        { l with remaining := l.remaining - 1, killed := l.killed || killed }
      (s4.wgSweep w).launchCheck x.launch

/-- Removes a group: its resources are released and cleared (R109, R110, R396). -/
def State.dropGroup (s : State) (g : Nat) : State :=
  let x := s.grpD g
  let s1 := (s.unwait g).freeBank g
  ({ s1 with groups := tdel s1.groups g, got := s1.got.filter fun p => decide (p.asker ≠ Asker.grp g x.pc) }).updWg x.wg fun w => { w with groups := w.groups.filter fun h => h ≠ g }

/-- Ends every group of a list with EXIT semantics and no handler. -/
def State.endGroups (s : State) : List Nat → State
  | [] => s
  | g :: r =>
    let x := s.grpD g
    let q := s.joinTargets (s.viewOf g) x.joined
    (if (s.grp? g).isSome then (q.1.retireAll (s.viewOf g) q.2).dropGroup g else s).endGroups r

/-- The tags that engine operations of a workgroup hold become void; the operations run on, so they try their word
afresh (R248, R366; assumption log 70). -/
def State.voidOps (s : State) (p : Nat → Bool) : State :=
  let tags := (s.ops.filterMap fun a => if p a.2.wg then a.2.paused else none)
    ++ (s.cores.flatMap fun k => k.2.engq.filterMap fun o => if p o.wg then o.paused else none)
  if tags = [] then s
  else
    { s with
      holds := s.holds.filter fun h => !tags.contains h.1
      ops := s.ops.map fun (o : Nat × AsyncOp) =>
        if o.2.paused.any tags.contains then (o.1, { o.2 with paused := none }) else o
      cores := s.cores.map fun (k : Nat × Core) =>
        (k.1, { k.2 with engq := k.2.engq.map fun o => if o.paused.any tags.contains then { o with paused := none } else o }) }

/-- The cards that a killed workgroup posted leave the task queues (Table 22.1). -/
def State.dropCards (s : State) (w : Nat) : State :=
  let gone := (s.cores.flatMap fun k => k.2.taskq.filter fun c => decide (c.wg = w))
  if gone = [] then s
  else
    let s1 := { s with cores := s.cores.map fun (k : Nat × Core) =>
      (k.1, { k.2 with taskq := k.2.taskq.filter fun c => decide (c.wg ≠ w) }) }
    s1.updLaunch (s.wgD w).launch fun l => { l with remaining := l.remaining - gone.length }

/-- Ends a workgroup by a kill or a cancellation (R261, R352). -/
def State.endWg (s : State) (w : Nat) (killed : Bool) : State :=
  let l := (s.wgD w).launch
  let s1 := (s.voidOps fun x => decide (x = w)).endGroups (s.wgD w).groups
  ((if killed then s1.dropCards w else s1).lbarCheck l).wgFinish w killed (!killed)

/-- Kills the workgroup of a group by a trap: a record, then every group ends (R252, R255, R352). -/
def State.kill (s : State) (g : Nat) (t : Trap) (nest : Bool) : State :=
  let x := s.grpD g
  let w := s.wgD x.wg
  let t1 := if nest then { t with info := setBits t.info 63 63 1 } else t
  (s.putRec w.fn 0 (faultRec t1 false false nest true (s.ctxD w.fn w.ctx).world w.ctx 0)).endWg x.wg true

/-! ### Cancellation (R261, R341) -/

/-- Ends every workgroup of a launch, drops its cards, and completes it CANCELLED. -/
def State.cancelLaunch (s : State) (l : Nat) : State :=
  match tget s.launches l with
  | none => s
  | some x =>
    if x.done then s
    else
      let s1 := s.updLaunch l fun x => { x with cancelled := true, nextWg := x.desc.gx * x.desc.gy * x.desc.gz }
      let ws := (s1.wgs.filter fun p => decide (p.2.launch = l) && !p.2.done).map Prod.fst
      let s2 := ws.foldl (fun t w => t.endWg w false) s1
      let s3 := { s2 with cores := s2.cores.map fun (p : Nat × Core) =>
        (p.1, { p.2 with taskq := p.2.taskq.filter fun c => decide (c.launch ≠ l) }) }
      (s3.updLaunch l fun x => { x with remaining := 0 }).launchCheck l

/-- Marks a unit cancelled and complete. -/
def Unit3.cancel (u : Unit3) : Unit3 := { u with cancelled := true, done := true, remaining := 0 }

def State.cancelGraph (s : State) (g : Nat) : State :=
  match tget s.graphs g with
  | none => s
  | some u =>
    if u.done then s
    else
      let s1 := { s with graphs := tput s.graphs g u.cancel }
      let ls := (s1.launches.filter fun p => decide (p.2.graph = g)).map Prod.fst
      let s2 := ls.foldl State.cancelLaunch s1
      (s2.packetDone u.packet 2).phaseChild u.parent false

def State.cancelPhase (s : State) (p : Nat) : State :=
  match tget s.phases p with
  | none => s
  | some u =>
    if u.done then s
    else
      let s1 := { s with phases := tput s.phases p u.cancel }
      let gs := (s1.graphs.filter fun q => decide (q.2.parent = p)).map Prod.fst
      (gs.foldl State.cancelGraph s1).jobChild u.parent false

def State.cancelJob (s : State) (j : Nat) : State :=
  match tget s.jobs j with
  | none => s
  | some u =>
    if u.done then s
    else
      let s1 := { s with jobs := tput s.jobs j u.cancel }
      let ps := (s1.phases.filter fun q => decide (q.2.parent = j)).map Prod.fst
      ps.foldl State.cancelPhase s1

end Sys2Proof.Machine
end

