-- ==== Sys2Proof/Machine/Ops.lean ====
section
/-! DEFINITION. The shared operations of every slot: fetching, entering blocks, taking a trap and returning
from one, issuing a slot through the checks of R96, and retiring it with its results (R32, R33, R38, R82 to R97,
R103, R252 to R256, R358, R366, R444). -/

namespace Sys2Proof.Machine

/-! ### Fetch and block entry -/

/-- Fetches the 16 bytes of a slot from the hub into the instruction cache, or from a peer; a trap carries TRAPINFO[8] and the slot (R311, R358). -/
def State.fetchSlot (s : State) (g : Nat) (pc : Word) : State × Except Raise (BitVec 128) :=
  let v := s.viewOf g
  if bits pc 63 52 ≠ 0 then (s, .error { cause := 4, addr := pc, info := 256 })
  else
    let r := s.translate v 0 pc.toNat 0 true
    match r.2 with
    | .trap c i => (r.1, .error { cause := c, addr := pc, info := BitVec.ofNat 64 (i + 256) })
    | .err c i => (r.1, .error { cause := c, addr := pc, info := BitVec.ofNat 64 (i + 256) })
    | .ok l size =>
      let t := r.1.targetOf 0 pc.toNat l size
      match t.2 with
      | .mem loc _ =>
        let s1 := if (t.1.coreD v.core).icache.contains (loc / 128) then t.1 else t.1.chargeAt v.fn loc 128
        (s1.icFill v.core (loc / 128), .ok (BitVec.ofNat 128 (s1.rd loc 16)))
      | .peer p pa =>
        let q := t.1.readP v (.peer p pa) 16 pc 0
        match q.2 with
        | .ok x => (q.1, .ok (BitVec.ofNat 128 x))
        | .error (c, i) => (q.1, .error { cause := c, addr := pc, info := BitVec.ofNat 64 (i + 256) })
      | .err c i => (t.1, .error { cause := c, addr := pc, info := BitVec.ofNat 64 (i + 256) })
      | _ => (t.1, .ok 0)

/-- A slot is a header when its OPC byte is 0 (R32). -/
def isHeader (w : BitVec 128) : Bool := decide (w.extractLsb' 0 8 = 0)

/-- The block of a header (Table 3.6a). -/
def Block.ofWord (hdr : Word) (w : BitVec 128) : Block :=
  { hdr := hdr, len := (w.extractLsb' 8 10).toNat, rcv := w.extractLsb' 18 16
    lvv := (w.extractLsb' 52 7).toNat, lvq := (w.extractLsb' 59 4).toNat }

/-- A header that traps when its block is entered (R93). -/
def badHeader (w : BitVec 128) : Bool :=
  decide (w.extractLsb' 8 10 = 0) || decide (64 < (w.extractLsb' 52 7).toNat) || w.getLsbD 63

/-- Pops every top entry whose reconvergence address is the entered header (R38). -/
def popEntries (hdr : Word) : List MEntry → Option MEntry × List MEntry
  | [] => (none, [])
  | e :: t =>
    if e.rcv = some hdr then
      let r := popEntries hdr t
      (some (r.1.getD e), r.2)
    else (none, e :: t)

/-- Enters the block whose header stands at `hdr`: KC, the block, the pops outside trap mode, and its first
slot (R32, R38, R39). -/
def Group.enter (x : Group) (hdr : Word) (w : BitVec 128) : Group :=
  let y := { x with kc := w.extractLsb' 64 64, block := Block.ofWord hdr w, pc := hdr + 16 }
  if x.trapMode then y
  else
    match popEntries hdr x.mstk with
    | (some e, m) => { y with mstk := m, act := e.saved &&& x.live, fmt := e.fmt }
    | (none, _) => y

/-- Enters a block, or stops at its header with the trap of R93. -/
def State.enterHdr (s : State) (g : Nat) (hdr : Word) (w : BitVec 128) : State × Option Raise :=
  if badHeader w then
    (s.updGrp g fun x => { x with pc := hdr, block := {} }, some { cause := 1, info := decInfo 5 0 })
  else (s.updGrp g fun x => x.enter hdr w, none)

/-- Checks a branch target (R103): the header's word, or the trap and the TRAPPC where it is not the branching
slot. -/
def State.target (s : State) (g : Nat) (t : Word) : State × Except (Raise × Option Word) (BitVec 128) :=
  if t.toNat % 16 ≠ 0 then (s, .error ({ cause := 3, addr := t }, none))
  else
    let r := s.fetchSlot g t
    match r.2 with
    | .error e => (r.1, .error (e, some t))
    | .ok w => if isHeader w then (r.1, .ok w) else (r.1, .error ({ cause := 3, addr := t }, none))

/-- The PC stands at an instruction slot of its block. -/
def Group.inBlock (x : Group) : Bool :=
  let k := (x.pc - x.block.hdr).toNat
  decide (16 ≤ k) && decide (k ≤ 16 * x.block.len) && decide (k % 16 = 0)

/-- Enters the block at the PC when the group has left its own by falling through, or starts, or resumes at a
header (R33). -/
def State.arrive (s : State) (g : Nat) : State × Option (Raise × Word) :=
  let x := s.grpD g
  if x.inBlock then (s, none)
  else
    let r := s.target g x.pc
    match r.2 with
    | .error (e, _) => (r.1, some (e, x.pc))
    | .ok w =>
      let q := r.1.enterHdr g x.pc w
      (q.1, q.2.map fun e => (e, x.pc))

/-- A return from a trap to a slot in the LEN range of the group's block enters a block when the slot is a header itself
(R32, R38, R39); a slot that is none, or that cannot be fetched, is met when it issues. -/
def State.atHeader (s : State) (g : Nat) : State × Option (Raise × Word) :=
  let pc := (s.grpD g).pc
  let r := s.fetchSlot g pc
  match r.2 with
  | .error _ => (s, none)
  | .ok w =>
    if r.1.wants ≠ s.wants then (r.1, none)
    else if isHeader w then
      let q := r.1.enterHdr g pc w
      (q.1, q.2.map fun e => (e, pc))
    else (s, none)

/-- The slot that a group issues next, or the trap on the way to it. -/
def State.nextSlot (s : State) (g : Nat) : State × Except (Raise × Word) (BitVec 128) :=
  let r := s.arrive g
  match r.2 with
  | some e => (r.1, .error e)
  | none =>
    let pc := (r.1.grpD g).pc
    let q := r.1.fetchSlot g pc
    match q.2 with
    | .error e => (q.1, .error (e, pc))
    | .ok w => (q.1, .ok w)

/-! ### Taking a trap (R252 to R255) -/

/-- The causes that are held in place of delivery (R366). -/
def heldCause (c : Context) (r : Raise) : Bool :=
  decide (r.cause = 8) ||
    (decide (r.cause = 9) && c.holdPerm && (decide (bits r.info 35 32 = 3) || decide (bits r.info 35 32 = 4)))

/-- Holds a group on a replayable fault (R365, R366). -/
def State.holdGroup (s : State) (g : Nat) (t : Trap) : State :=
  let x := s.grpD g
  let w := s.wgD x.wg
  let h := s.hold w.fn w.ctx (some g) none none t x.trapMode
  h.1.updGrp g fun x => { x with wait := .held h.2 }

/-- The trap bank as a group of this function and world finds it: cleared after another's (R29, R397). -/
def Bank.takenBy (b : Bank) (g fn world : Nat) : Bank :=
  if b.fn = fn ∧ b.world = world then { b with owner := some g }
  else { owner := some g, fn := fn, world := world }

/-- Takes the trap bank of a group's sub-core for it (R254). -/
def State.takeBank (s : State) (g : Nat) : State :=
  let x := s.grpD g
  let w := s.wgD x.wg
  s.setBank x.bankKey ((s.bankD x.bankKey).takenBy g w.fn (s.ctxD w.fn w.ctx).world)

/-- What trap entry saves: the bank is taken, the trap's values, the interrupted block and its KC are kept, and
trap mode begins (R253). -/
def State.trapSaved (s : State) (g : Nat) (t : Trap) : State :=
  let x := s.grpD g
  let w := s.wgD x.wg
  let c := s.ctxD w.fn w.ctx
  (s.takeBank g).updGrp g fun x =>
    { x.settle with
      trapCause := t.cause, trapPc := t.pc, trapAddr := t.addr, trapInfo := t.info
      savedKc := x.kc, savedBlock := x.block, trapMode := true, wait := .none
      inPreempt := decide (t.cause = 15)
      snap := if t.cause = 15 then some x.snapshot else none
      budget := if t.cause = 15 ∧ x.budget = 0 then c.pbudget else x.budget }

/-- Trap entry: the state is saved and the handler's block entered (R253); a handler that cannot be entered counts
as a trap in trap mode (R255). -/
def State.enterTrap (s : State) (g : Nat) (t : Trap) (handler : Word) : State :=
  let w := s.wgD (s.grpD g).wg
  let s1 := s.trapSaved g t
  let r := s1.target g handler
  match r.2 with
  | .ok h =>
    let q := r.1.enterHdr g handler h
    match q.2 with
    | none => q.1
    | some e => q.1.kill g { cause := e.cause, pc := handler, addr := e.addr, info := e.info } true
  | .error (e, _) =>
    let s2 := r.1.updGrp g fun x => { x with pc := handler, block := {} }
    let t2 : Trap := { cause := e.cause, pc := handler, addr := e.addr, info := e.info }
    if heldCause (s.ctxD w.fn w.ctx) e then s2.holdGroup g t2 else s2.kill g t2 true

/-- Enters the handler once the trap bank is free (R253, R254). -/
def State.deliver (s : State) (g : Nat) (t : Trap) (handler : Word) : State :=
  match (s.bankD (s.grpD g).bankKey).owner with
  | some h => if h = g then s.enterTrap g t handler else s.updGrp g fun x => { x with wait := .bank t }
  | none => s.enterTrap g t handler

/-- Delivers a trap to the TRAPVEC handler, or kills the workgroup (R252, R255). -/
def State.deliverTrap (s : State) (g : Nat) (t : Trap) : State :=
  let x := s.grpD g
  if x.trapMode then s.kill g t true
  else if x.trapVec = 0 then s.kill g t false
  else s.deliver g t x.trapVec

/-- Raises a trap in a group with its TRAPPC: held, killing, or delivered to its TRAPVEC handler (R252, R255,
R366). -/
def State.raise (s : State) (g : Nat) (r : Raise) (pc : Word) : State :=
  let x := s.grpD g
  let w := s.wgD x.wg
  let t : Trap := { cause := r.cause, pc := pc, addr := r.addr, info := r.info }
  if heldCause (s.ctxD w.fn w.ctx) r then s.holdGroup g t else s.deliverTrap g t

/-- XSLOT with a REASON in a transfer slot (R187). -/
def xslotRaise (j reason : Nat) : Raise := { cause := 21, info := BitVec.ofNat 64 (reason * 2 ^ 32 + j) }

/-- When one group of a workgroup is left and waits in a transfer slot, it traps XSLOT with REASON 3 at that moment
(R175). -/
def State.lonely (s : State) (w : Nat) : State :=
  match (s.wgD w).groups with
  | [g] =>
    match (s.grpD g).wait with
    | .xfer j _ _ => (s.unwait g).raise g (xslotRaise j 3) (s.grpD g).pc
    | _ => s
  | _ => s

/-- EXIT once its arrivals are checked: they are performed, the group ends, and the workgroup may complete
(R109, R110). -/
def State.exitGroup (s : State) (g : Nat) (ts : List (Join × Target)) : State :=
  let w := (s.grpD g).wg
  let l := (s.wgD w).launch
  let s1 := (s.retireAll (s.viewOf g) ts).dropGroup g
  let s2 := (s1.lonely w).lbarCheck l
  if (s2.wgD w).groups = [] then s2.wgFinish w false false else s2

/-- Takes the oldest trap that arrived after its slot, at the slot the group would issue next (R444). -/
def State.takeDelayed (s : State) (g : Nat) : State :=
  match (s.grpD g).delayed with
  | [] => s
  | t :: r =>
    let s1 := (s.unwait g).updGrp g fun x => { x with delayed := r }
    let q := s1.arrive g
    match q.2 with
    | some (e, pc) => (q.1.updGrp g fun x => { x with delayed := t :: r }).raise g e pc
    | none => q.1.deliverTrap g { t with pc := (q.1.grpD g).pc }

/-- Adds a trap that arrives after its slot (R444); a group that has exited takes none, and a record with its
cause reports it (R243). -/
def State.late (s : State) (g fn ctx : Nat) (r : Raise) (eng : Bool) : State :=
  match s.grp? g with
  | some _ => s.updGrp g fun x =>
      { x with delayed := x.delayed ++ [{ cause := r.cause, addr := r.addr, info := r.info }] }
  | none =>
    s.putRec fn 0 (faultRec { cause := r.cause, addr := r.addr, info := r.info } false eng false false
      (s.ctxD fn ctx).world ctx 0)

/-! ### Pre-emption entry and return (R256, R259) -/

/-- The asker that a group is at its slot. -/
def State.slotAsker (s : State) (g : Nat) : Asker := .grp g (s.grpD g).pc

/-- The pre-emption handler of a group's workgroup. -/
def State.preemptOf (s : State) (g : Nat) : Word := (s.wgD (s.grpD g).wg).preempt

/-- Enters the pre-emption handler at the slot where the group stands (R259). -/
def State.enterPreempt (s : State) (g : Nat) : State :=
  let q := s.arrive g
  let s1 := q.1.updGrp g fun x => { x with preempt := false }
  s1.deliver g { cause := 15, pc := (s1.grpD g).pc } (s1.preemptOf g)

/-- Leaves trap mode: the bank is free, and KC and the block are those saved; the budget of a request that still waits
runs on (R256, R259). -/
def State.leaveTrap (s : State) (g : Nat) (pc : Word) : State :=
  (s.freeBank g).updGrp g fun x =>
    { x.settle with
      trapMode := false, inPreempt := false, snap := none, kc := x.savedKc, block := x.savedBlock, pc := pc
      budget := if x.preempt then x.budget else 0, budgetOn := x.preempt && x.budgetOn }

/-- The resumed group enters its block when it stands at a header, and then the pre-emption handler when a
request waits for this RTT (R256, R259). -/
def State.resumed (s : State) (g : Nat) : State :=
  let q := if (s.grpD g).inBlock then s.atHeader g else s.arrive g
  if (s.grpD g).preempt then q.1.enterPreempt g
  else
    match q.2 with
    | none => q.1
    | some (e, pc) => q.1.raise g e pc

/-! ### Issuing a slot -/

/-- How an instruction's result is timed (Table 3.4). -/
inductive Lat where
  /-- no result -/
  | none
  /-- a fixed latency in cycles -/
  | fixed (n : Nat)
  /-- written before the group's next issue -/
  | blocking
  /-- a variable latency -/
  | var
  deriving DecidableEq, Repr

/-- What an instruction's own effect gives: it completes with results, it completes with results an engine brings
later, it has set the PC, it stays and waits, or it traps (with a TRAPPC where that is not its slot). -/
inductive Effect where
  | done (s : State) (ws : List RegWrite)
  | late (s : State) (ws : List RegWrite)
  | jump (s : State)
  | wait (s : State)
  | trap (s : State) (r : Raise) (pc : Option Word)

/-- A token is pending while the result it tracks is (R26). -/
def Group.tokPending (x : Group) (t : Nat) : Bool :=
  match (if t = 1 then x.tok1 else x.tok2) with
  | some id => x.pend.any fun p => decide (p.id = id)
  | none => false

/-- A slot may issue: its token waits are over and no operand has a pending result (R41, R87). -/
def Group.ready (x : Group) (f : Form) (sl : Slot) : Bool :=
  !(sl.twait.getLsbD 0 && x.tokPending 1) && !(sl.twait.getLsbD 1 && x.tokPending 2)
    && !x.pending (slotUses f x.trapMode sl)

/-- Leaves results pending under a fresh number. -/
def State.writeLater (s : State) (g : Nat) (sl : Slot) (ws : List RegWrite) (late : Bool) : State :=
  let id := (s.grpD g).nextId
  let wait := late || s.peerOut.any fun p => decide (p.grp = g) && decide (p.pend = id)
  s.updGrp g fun x =>
    { (x.setTok sl.tset (some id)) with
      nextId := id + 1
      pend := x.pend ++ [{ id := id, tok := sl.tset.toNat, ready := !wait, writes := ws }] }

/-- Completes a slot: a push ages the queue, the results are written or left pending, the slot retires
(R20, R26, R85 to R88). -/
def State.finish (s : State) (g : Nat) (sl : Slot) (lat : Lat) (ws : List RegWrite) (late : Bool) : State :=
  let push := ws.any fun w => decide (w.ref = .q 0)
  let s1 := if push then s.updGrp g Group.push else s
  let s2 := match lat with
    | .var => s1.writeLater g sl ws late
    | _ => (s1.writeNow g ws).updGrp g fun x => x.setTok sl.tset none
  let s3 := s2.updGrp g fun x =>
    x.watch (match lat with | .fixed n => some n | _ => none) (decide (lat = .blocking)) sl.tset.toNat
      (ws.map RegWrite.ref)
  s3.retire g sl

/-- A taken transfer retires its slot with the PC already set. -/
def State.retireAt (s : State) (g : Nat) (sl : Slot) : State :=
  let n := 1 + sl.stall.toNat
  let s1 := s.updGrp g fun x => { (x.addDist n) with yielded := decide (sl.yld = 1), stall := n }
  if (s.grp? g).isSome then s1.passCycles (s.grpD g).core 1 else s1

/-- Applies an effect. -/
def State.apply (s : State) (g : Nat) (sl : Slot) (lat : Lat) (e : Effect) : State :=
  match e with
  | .done t ws => t.finish g sl lat ws false
  | .late t ws => t.finish g sl lat ws true
  | .jump t => t.retireAt g sl
  | .wait t => t
  | .trap t r pc => t.raise g r (pc.getD (s.grpD g).pc)

/-- Issues a slot through the checks of R96 in order: decode, check mode, the scalar guard, its own effect. A
slot whose interlock or token wait is not over does not issue, and a cycle passes. -/
def State.issue (s : State) (g : Nat) (f : Form) (lat : Lat) (sl : Slot) (body : State → Group → Effect) : State :=
  let x := s.grpD g
  if ¬ x.ready f sl then (s.updGrp g fun x => { x with yielded := true, blocked := true }).passCycles x.core 1
  else
    match decodeTrap f x.gran x.scount x.trapMode sl with
    | some (c, i) => s.raise g { cause := BitVec.ofNat 8 c, info := i } x.pc
    | none =>
      let w := s.wgD x.wg
      match checkMode x (s.ctxD w.fn w.ctx).checkMode f sl with
      | some i => s.raise g { cause := 5, info := i } x.pc
      | none =>
        let s1 := s.updGrp g fun x => x.cover sl
        if ¬ x.guard sl then s1.retire g sl
        else s1.apply g sl lat (body s1 (s1.grpD g))

/-- Runs a slot for the current group. -/
def runSlot (f : Form) (lat : Lat) (sl : Slot) (body : State → Group → Effect) (s : State) :
    Host.Outcome State Fault Refusal :=
  match s.grp? s.cur with
  | none => .fault .noGroup
  | some _ => .next (s.issue s.cur f lat sl body)

/-- A trap of the instruction itself at check 7. -/
def trapNow (s : State) (cause : BitVec 8) (addr : Word) (info : Nat) : Effect :=
  .trap s { cause := cause, addr := addr, info := BitVec.ofNat 64 info } none

/-- SYNC_ILLEGAL with a REASON in TRAPINFO[39:32] (R218). -/
def syncTrap (s : State) (reason : Nat) (addr : Word) : Effect := trapNow s 19 addr (reason * 2 ^ 32)

/-- ILLEGAL_OPERAND with REASON 7 for a source value (R69, R119, Table 3.8). -/
def valueTrap (s : State) (fld : Nat) (code : BitVec 10) : Effect :=
  .trap s { cause := 2, info := decInfo 7 (fld * 2 ^ 10 + code.toNat) } none

/-- A group that the scheduler stalls: a cycle passes and it stands at its slot (R350). -/
def State.stalled (s : State) (x : Group) : Effect :=
  .wait ((s.updGrp s.cur fun x => { x with yielded := true, blocked := true }).passCycles x.core 1)

/-- The requests of a group to peers have all been answered; those that its slot itself waits for do not count (R296). -/
def State.peerQuiet (s : State) (g : Nat) : Bool :=
  !s.peerOut.any fun o => decide (o.grp = g) && decide (o.op = 0) && decide (o.asker = .none)

/-- A synchronisation access or a fence of a group: it stands at its slot until the group's earlier accesses at peers have
been performed, for every one of them happens before a release or a fence, and every acquire and atomic before it (R296
cases 2 to 4, R298, R305). -/
def syncAfter (s : State) (x : Group) (f : Effect) : Effect := if s.peerQuiet s.cur then f else s.stalled x

end Sys2Proof.Machine
end

