-- ==== Sys2Proof/Machine/Control.lean ====
section
/-! DEFINITION. The meanings of the control, mask and format-register instructions (R101 to R119). -/

namespace Sys2Proof.Machine

/-- ILLEGAL_INSTRUCTION with a REASON as an instruction's own trap. -/
def illegal (s : State) (reason : Nat) : Effect := .trap s { cause := 1, info := decInfo reason 0 } none

/-- Transfers control to a header after `pre` (R103). A header that traps on entry leaves the transfer without
effect: the group stands at its slot in its block, and TRAPPC holds the header (R93, R106; assumption log 17). -/
def State.jumpTo (s : State) (g : Nat) (t : Word) (pre : State → State) : Effect :=
  let r := s.target g t
  match r.2 with
  | .error (e, pc) => .trap r.1 e pc
  | .ok w =>
    let q := (pre r.1).enterHdr g t w
    match q.2 with
    | none => .jump q.1
    | some e => .trap r.1 e (some t)

/-- PC + 16 × sext(IMM) (R81). -/
def slotTarget (x : Group) (sl : Slot) : Word := x.pc + 16 * immW sl

/-- Writes a scalar result of the control instructions and watches it (Table 3.4). -/
def State.link (s : State) (g : Nat) (ws : List RegWrite) : State :=
  (s.writeNow g ws).updGrp g fun x => x.watch (some 2) false 0 (ws.map RegWrite.ref)

/-- NOP (R113). -/
def nopBody (s : State) (_ : Group) : Effect := .done s []

def execNop (sl : Slot) : State → Host.Outcome State Fault Refusal := runSlot (fNop sl) .none sl nopBody

/-- BRA (R104). -/
def braBody (sl : Slot) (s : State) (x : Group) : Effect := s.jumpTo s.cur (slotTarget x sl) id

def execBra (sl : Slot) : State → Host.Outcome State Fault Refusal := runSlot (fBra sl) .none sl (braBody sl)

/-- BRX (R104). -/
def brxBody (sl : Slot) (s : State) (x : Group) : Effect := s.jumpTo s.cur (s.ssrc x sl sl.a) id

def execBrx (sl : Slot) : State → Host.Outcome State Fault Refusal := runSlot (fBrx sl) .none sl (brxBody sl)

/-- The slot is the last of its block (R34). -/
def Group.lastSlot (x : Group) : Bool := decide (x.pc = x.block.hdr + BitVec.ofNat 64 (16 * x.block.len))

/-- CALL and CALLX to a target read before D is written (R105). -/
def callTo (sl : Slot) (t : Word) (s : State) (x : Group) : Effect :=
  if ¬ x.lastSlot then illegal s 7
  else s.jumpTo s.cur t fun t => t.link t.cur (scaOut x.trapMode sl.d 0 (x.pc + 16))

def callBody (sl : Slot) (s : State) (x : Group) : Effect := callTo sl (slotTarget x sl) s x

def execCall (sl : Slot) : State → Host.Outcome State Fault Refusal := runSlot (fCall sl) (.fixed 2) sl (callBody sl)

def callxBody (sl : Slot) (s : State) (x : Group) : Effect := callTo sl (s.ssrc x sl sl.a) s x

def execCallx (sl : Slot) : State → Host.Outcome State Fault Refusal := runSlot (fCallx sl) (.fixed 2) sl (callxBody sl)

/-- LOOP (R106). -/
def loopBody (sl : Slot) (s : State) (x : Group) : Effect :=
  let n := s.ssrc x sl sl.d - 1
  let ws := scaOut x.trapMode sl.d 0 n
  if n = 0 then .done s ws else s.jumpTo s.cur (slotTarget x sl) fun t => t.link t.cur ws

def execLoop (sl : Slot) : State → Host.Outcome State Fault Refusal := runSlot (fLoop sl) (.fixed 2) sl (loopBody sl)

/-- BRANY (R107). -/
def branyBody (sl : Slot) (s : State) (x : Group) : Effect :=
  let hit := decide (x.predOf sl.a &&& x.act ≠ 0)
  if hit != decide (sl.sub = 1) then s.jumpTo s.cur (slotTarget x sl) id else .done s []

def execBrany (sl : Slot) : State → Host.Outcome State Fault Refusal := runSlot (fBrp sl) .none sl (branyBody sl)

/-- BRALL (R107). -/
def brallBody (sl : Slot) (s : State) (x : Group) : Effect :=
  let hit := decide (x.predOf sl.a &&& x.act = x.act)
  if hit != decide (sl.sub = 1) then s.jumpTo s.cur (slotTarget x sl) id else .done s []

def execBrall (sl : Slot) : State → Host.Outcome State Fault Refusal := runSlot (fBrp sl) .none sl (brallBody sl)

/-- Checks the retire-arrivals of EXIT in table order (R109). -/
def State.exitTargets (s : State) (v : View) : List Join → State × Except Raise (List (Join × Target))
  | [] => (s, .ok [])
  | e :: r =>
    let q := s.resolve v e.addr 16 16 5
    match q.2 with
    | .trap c i => (q.1, .error { cause := c, addr := e.addr, info := BitVec.ofNat 64 i })
    | .ok t =>
      let u := q.1.exitTargets v r
      match u.2 with
      | .error e => (u.1, .error e)
      | .ok l => (u.1, .ok ((e, t) :: l))

/-- EXIT (R109, R110), once the group's accesses at peers have been performed: its retire-arrivals are releases (R296). -/
def exitBody (s : State) (x : Group) : Effect :=
  let r := s.exitTargets (s.viewOf s.cur) x.joined
  syncAfter s x
    (match r.2 with
    | .error e => .trap r.1 e none
    | .ok ts => .wait ((r.1.passCycles x.core 1).exitGroup s.cur ts))

def execExit (sl : Slot) : State → Host.Outcome State Fault Refusal := runSlot (fBare sl) .none sl exitBody

/-- Retires lanes from LIVE, ACT and every mask-stack entry (R24, R111). -/
def Group.retireLanes (x : Group) (m : Mask) : Group :=
  { x with
    live := x.live &&& ~~~m
    act := x.act &&& ~~~m
    mstk := x.mstk.map fun e => { e with saved := e.saved &&& ~~~m, taken := e.taken &&& ~~~m } }

/-- LEXIT (R111). -/
def lexitBody (sl : Slot) (s : State) (x : Group) : Effect :=
  .done (s.updGrp s.cur fun y => y.retireLanes (x.sel sl)) []

def execLexit (sl : Slot) : State → Host.Outcome State Fault Refusal := runSlot (fLexit sl) .none sl (lexitBody sl)

/-- YIELD (R112): the slot retires as with YLD 1, and the group ranks as the youngest until it issues again. -/
def yieldBody (sl : Slot) (s : State) (_ : Group) : Effect :=
  .wait (s.finish s.cur { sl with yld := 1 } .none [] false)

def execYield (sl : Slot) : State → Host.Outcome State Fault Refusal := runSlot (fBare sl) .none sl (yieldBody sl)

/-- MPUSH (R115). -/
def mpushBody (sl : Slot) (s : State) (x : Group) : Effect :=
  if x.trapMode then illegal s 4
  else if 32 ≤ x.mstk.length then trapNow s 6 0 0
  else
    let p := if sl.sub = 1 then ~~~(x.predOf sl.a) else x.predOf sl.a
    let taken := x.act &&& p &&& x.live
    let e : MEntry :=
      { saved := x.act, taken := taken, fmt := x.fmt
        rcv := if x.block.rcv = 0 then none else some (x.block.hdr + 16 * x.block.rcv.signExtend 64) }
    .done (s.updGrp s.cur fun x => { x with mstk := e :: x.mstk, act := taken }) []

def execMpush (sl : Slot) : State → Host.Outcome State Fault Refusal := runSlot (fMpush sl) .none sl (mpushBody sl)

/-- MELSE (R115). -/
def melseBody (s : State) (x : Group) : Effect :=
  if x.trapMode then illegal s 4
  else
    match x.mstk with
    | [] => trapNow s 6 0 1
    | e :: _ => .done (s.updGrp s.cur fun x =>
        { x with act := e.saved &&& ~~~e.taken &&& x.live, fmt := e.fmt }) []

def execMelse (sl : Slot) : State → Host.Outcome State Fault Refusal := runSlot (fBare sl) .none sl melseBody

/-- MPOP (R115). -/
def mpopBody (s : State) (x : Group) : Effect :=
  if x.trapMode then illegal s 4
  else
    match x.mstk with
    | [] => trapNow s 6 0 1
    | e :: t => .done (s.updGrp s.cur fun x =>
        { x with mstk := t, act := e.saved &&& x.live, fmt := e.fmt }) []

def execMpop (sl : Slot) : State → Host.Outcome State Fault Refusal := runSlot (fBare sl) .none sl mpopBody

/-- What MGET reads (R116). -/
def mgetValue (sl : Slot) (x : Group) : Word :=
  match subN sl with
  | 0 => x.act.setWidth 64
  | 1 => x.live.setWidth 64
  | 2 => BitVec.ofNat 64 x.mstk.length
  | 3 => match x.mstk with | [] => 0 | e :: _ => e.taken.setWidth 64
  | _ => match x.mstk with | [] => 0 | e :: _ => e.saved.setWidth 64

/-- MGET (R116). -/
def mgetBody (sl : Slot) (s : State) (x : Group) : Effect :=
  .done s (scaOut x.trapMode sl.d 0 (mgetValue sl x))

def execMget (sl : Slot) : State → Host.Outcome State Fault Refusal := runSlot (fMget sl) (.fixed 2) sl (mgetBody sl)

/-- MSET (R117). -/
def msetBody (sl : Slot) (s : State) (x : Group) : Effect :=
  if x.trapMode then illegal s 4
  else .done (s.updGrp s.cur fun y => { y with act := (s.ssrc x sl sl.a).setWidth 32 &&& y.live }) []

def execMset (sl : Slot) : State → Host.Outcome State Fault Refusal := runSlot (fMset sl) .none sl (msetBody sl)

/-- The bits of FMT that a selector names (Table 4.4). -/
def fmtField (sub : Nat) : Nat × Nat :=
  match sub with
  | 1 => (3, 0)
  | 2 => (7, 4)
  | 3 => (11, 8)
  | 4 => (13, 12)
  | 5 => (23, 16)
  | 6 => (31, 24)
  | 7 => (39, 32)
  | 8 => (40, 40)
  | _ => (63, 0)

/-- An FMT value with no reserved bit and no format code 15 (R69, R119). -/
def fmtOk (v : Word) : Bool :=
  decide (bits v 15 14 = 0) && decide (bits v 63 41 = 0) && decide (bits v 3 0 ≠ 15)
    && decide (bits v 7 4 ≠ 15) && decide (bits v 11 8 ≠ 15)

/-- FMT after SETFMT with a selector; none where the value is rejected (R119). -/
def setFmtValue (sub : Nat) (fmt v : Word) : Option Word :=
  let p := fmtField sub
  if sub = 0 then (if fmtOk v then some v else none)
  else
    let n := bits v (p.1 - p.2) 0
    if sub ≤ 3 ∧ n = 15 then none else some (setBits fmt p.1 p.2 n)

/-- SETFMT (R118, R119). -/
def setfmtBody (sl : Slot) (s : State) (x : Group) : Effect :=
  match setFmtValue (subN sl) x.fmt (s.ssrc x sl sl.a) with
  | none => valueTrap s 1 sl.a
  | some f => .done (s.updGrp s.cur fun x => { x with fmt := f }) []

def execSetfmt (sl : Slot) : State → Host.Outcome State Fault Refusal := runSlot (fSetfmt sl) .none sl (setfmtBody sl)

/-- What GETFMT reads (Table 4.4). -/
def getFmtValue (sub : Nat) (fmt : Word) : Word :=
  let p := fmtField sub
  let n := bits fmt p.1 p.2
  if 5 ≤ sub ∧ sub ≤ 7 then BitVec.ofInt 64 (signed 8 n) else BitVec.ofNat 64 n

/-- GETFMT (R118). -/
def getfmtBody (sl : Slot) (s : State) (x : Group) : Effect :=
  .done s (scaOut x.trapMode sl.d 0 (getFmtValue (subN sl) x.fmt))

def execGetfmt (sl : Slot) : State → Host.Outcome State Fault Refusal :=
  runSlot (fGetfmt sl) (.fixed 2) sl (getfmtBody sl)

end Sys2Proof.Machine
end

