-- ==== Sys2Proof/Machine/Special.lean ====
section
/-! DEFINITION. The special functions (R53, R162): each gives an exact value, or at every precision `P` an enclosure
by `specErr P` units of 2^−P, and the precision doubles until both ends of the enclosure round alike. -/

namespace Sys2Proof.Machine

/-- The result of a special function: exact, or strictly between lo × 2^e and hi × 2^e with a sign. -/
inductive SRes where
  | exact (v : FVal)
  | between (neg : Bool) (lo hi : Nat) (e : Int)
  deriving DecidableEq, Repr

/-- The value just above `m × 2^e`. -/
def justAbove (neg : Bool) (m : Nat) (e : Int) : FVal := .fin neg (m * 2 ^ 160 + 1) (e - 160)

/-- The value just below `m × 2^e`. -/
def justBelow (neg : Bool) (m : Nat) (e : Int) : FVal := .fin neg (m * 2 ^ 160 - 1) (e - 160)

/-- One digit of the integer square root. -/
def isqrtStep (n r k : Nat) : Nat := if (r + 2 ^ k) * (r + 2 ^ k) ≤ n then r + 2 ^ k else r

/-- floor(√n) from the `k` lowest digit places. -/
def isqrtGo (n : Nat) : Nat → Nat → Nat
  | 0, r => r
  | k + 1, r => isqrtGo n k (isqrtStep n r k)

/-- floor(√n). -/
def isqrt (n : Nat) : Nat := isqrtGo n (n.log2 / 2 + 1) 0

/-- A quotient a / b × 2^e with its tail as an odd digit. -/
def quotient (neg : Bool) (a b : Nat) (e : Int) : FVal :=
  let s := b.log2 + 120
  let q := a * 2 ^ s / b
  if q * b = a * 2 ^ s then .fin neg q (e - s) else .fin neg (2 * q + 1) (e - s - 1)

/-- √(m × 2^e) with its tail as an odd digit. -/
def rootOf (m : Nat) (e : Int) : FVal :=
  let m1 := if e % 2 = 0 then m else 2 * m
  let e1 := if e % 2 = 0 then e else e - 1
  let r := isqrt (m1 * 2 ^ 200)
  if r * r = m1 * 2 ^ 200 then .fin false r (e1 / 2 - 100) else .fin false (2 * r + 1) (e1 / 2 - 101)

/-- 1/√(m × 2^e) with its tail as an odd digit. -/
def rsqrtOf (m : Nat) (e : Int) : FVal :=
  let m1 := if e % 2 = 0 then m else 2 * m
  let e1 := if e % 2 = 0 then e else e - 1
  let k := m1.log2 + 120
  let r := isqrt (2 ^ (2 * k) / m1)
  if r * r * m1 = 2 ^ (2 * k) then .fin false r (-(e1 / 2) - k)
  else .fin false (2 * r + 1) (-(e1 / 2) - k - 1)

/-- Σ of x^(2j+1) / (2j+1), scaled by 2^P, by `n` terms: `t` is the current power, `x2` is x². -/
def atanhGo (P x2 : Nat) : Nat → Nat → Nat → Nat
  | 0, _, _ => 0
  | n + 1, t, d => t / d + atanhGo P x2 n (t * x2 / 2 ^ P) (d + 2)

/-- Σ of (−1)^j x^(2j+1) / (2j+1), scaled by 2^P, for x = 1/q. -/
def atanInvGo (q2 : Nat) : Nat → Nat → Nat → Int
  | 0, _, _ => 0
  | n + 1, t, d => (t / d : Nat) - atanInvGo q2 n (t / q2) (d + 2)

/-- ln 2 scaled by 2^P, as 2 atanh(1/3), low by fewer than 2^9 units. -/
def ln2 (P : Nat) : Nat := 2 * atanhGo P (2 ^ P / 9) (P / 3 + 4) (2 ^ P / 3) 1

/-- π/2 scaled by 2^P by Machin's formula: 8 atan(1/5) − 2 atan(1/239), within 2^12 units. -/
def halfPi (P : Nat) : Nat :=
  (8 * atanInvGo 25 (P / 4 + 4) (2 ^ P / 5) 1 - 2 * atanInvGo 57121 (P / 12 + 4) (2 ^ P / 239) 1).toNat

/-- Σ of x^j / j!, scaled by 2^P, from term `t` at index `d`. -/
def expGo (P x : Nat) : Nat → Nat → Nat → Nat
  | 0, _, _ => 0
  | n + 1, t, d => t + expGo P x n (t * x / 2 ^ P / d) (d + 1)

/-- Alternating Σ of x^(2j + o) / (2j + o)!, scaled by 2^P. -/
def trigGo (P x2 : Nat) : Nat → Nat → Nat → Int
  | 0, _, _ => 0
  | n + 1, t, d => (t : Int) - trigGo P x2 n (t * x2 / 2 ^ P / ((d + 1) * (d + 2))) (d + 2)

/-- The first working precision, and the error of an enclosure at precision `P` in units of 2^−P: far above the
rounding of its P terms. -/
def specP : Nat := 320
def specErr (P : Nat) : Nat := P * 2 ^ 32

/-- floor(m × 2^e × 2^P). -/
def fixedOf (P m : Nat) (e : Int) : Nat :=
  if 0 ≤ e + P then m * 2 ^ (e + P).toNat else m / 2 ^ (-(e + P)).toNat

/-- e^x for a scaled x in [0, 1). -/
def expFix (P x : Nat) : Nat := expGo P x (P / 4) (2 ^ P) 1

/-- e^−y for y = m × 2^e below 2^12: (mantissa, n) with value mantissa × 2^−(P + n). -/
def expNeg (P m : Nat) (e : Int) : Nat × Nat :=
  let y := fixedOf P m e
  let l := ln2 P
  let n := y / l
  let r := y - n * l
  (2 ^ (2 * P) / expFix P r, n)

/-- 2^x (R162). -/
def exp2Res (P : Nat) (neg : Bool) (m : Nat) (e : Int) : SRes :=
  if m = 0 then .exact (.fin false 1 0)
  else if 12 ≤ (m.log2 : Int) + e then .exact (.fin false 1 (if neg then -4096 else 4096))
  else if (m.log2 : Int) + e < -150 then
    .exact (if neg then justBelow false 1 0 else justAbove false 1 0)
  else
    let x := fixedOf P m e
    let i := x / 2 ^ P
    let f := x % 2 ^ P
    if 0 ≤ e ∨ m % 2 ^ (-e).toNat = 0 then .exact (.fin false 1 (if neg then -(i : Int) else i))
    else
      let g := if neg then 2 ^ P - f else f
      let j : Int := if neg then -(i : Int) - 1 else i
      let v := expFix P (g * ln2 P / 2 ^ P)
      .between false (v - (specErr P)) (v + (specErr P)) (j - P)

/-- log2 of m × 2^e > 0 (R162). -/
def log2Res (P : Nat) (m : Nat) (e : Int) : SRes :=
  let t := m.log2
  if m = 2 ^ t then .exact (FVal.ofInt (t + e))
  else
    let z := (m - 2 ^ t) * 2 ^ P / (m + 2 ^ t)
    let a := 2 * atanhGo P (z * z / 2 ^ P) (21 * P / 32) z 1
    let f := a * 2 ^ P / ln2 P
    let n : Int := t + e
    if 0 ≤ n then
      let v := n.toNat * 2 ^ P + f
      .between false (v - (specErr P)) (v + (specErr P)) (-(P : Int))
    else
      let v := (-n).toNat * 2 ^ P - f
      .between true (v - (specErr P)) (v + (specErr P)) (-(P : Int))

/-- The quadrant and the reduced argument of |x|, scaled by 2^P (R162: exact reduction). -/
def reduceArg (P m : Nat) (e : Int) : Nat × Nat :=
  let K := P + 380
  let h := halfPi K
  let X := fixedOf K m e
  (X / h % 4, X % h / 2 ^ (K - P))

def sinFix (P r : Nat) : Int := trigGo P (r * r / 2 ^ P) (P / 7) r 1
def cosFix (P r : Nat) : Int := trigGo P (r * r / 2 ^ P) (P / 7) (2 ^ P) 0

/-- An enclosure around a scaled value, with a sign. -/
def around (P : Nat) (neg : Bool) (v : Int) : SRes :=
  .between neg (v.toNat - (specErr P)) (v.toNat + (specErr P)) (-(P : Int))

/-- sin x (R162). -/
def sinRes (P : Nat) (neg : Bool) (m : Nat) (e : Int) : SRes :=
  if m = 0 then .exact (.fin neg 0 0)
  else if (m.log2 : Int) + e < -90 then .exact (justBelow neg m e)
  else
    match reduceArg P m e with
    | (0, r) => around P neg (sinFix P r)
    | (1, r) => around P neg (cosFix P r)
    | (2, r) => around P (!neg) (sinFix P r)
    | (_, r) => around P (!neg) (cosFix P r)

/-- cos x (R162). -/
def cosRes (P : Nat) (m : Nat) (e : Int) : SRes :=
  if m = 0 then .exact (.fin false 1 0)
  else if (m.log2 : Int) + e < -90 then .exact (justBelow false 1 0)
  else
    match reduceArg P m e with
    | (0, r) => around P false (cosFix P r)
    | (1, r) => around P true (sinFix P r)
    | (2, r) => around P true (cosFix P r)
    | (_, r) => around P false (sinFix P r)

/-- tanh x (R162). -/
def tanhRes (P : Nat) (neg : Bool) (m : Nat) (e : Int) : SRes :=
  if m = 0 then .exact (.fin neg 0 0)
  else if (m.log2 : Int) + e < -90 then .exact (justBelow neg m e)
  else if 6 ≤ (m.log2 : Int) + e then .exact (justBelow neg 1 0)
  else
    let u := expNeg P m (e + 1)
    let d := 2 ^ (P + u.2)
    let v := (d - u.1) * 2 ^ P / (d + u.1)
    .between neg (v - (specErr P)) (v + (specErr P)) (-(P : Int))

/-- The logistic sigmoid (R162). -/
def sigmRes (P : Nat) (neg : Bool) (m : Nat) (e : Int) : SRes :=
  if m = 0 then .exact (.fin false 1 (-1))
  else if (m.log2 : Int) + e < -150 then
    .exact (if neg then justBelow false 1 (-1) else justAbove false 1 (-1))
  else if 11 ≤ (m.log2 : Int) + e then
    .exact (if neg then .fin false 1 (-2048) else justBelow false 1 0)
  else
    let u := expNeg P m e
    let d := 2 ^ (P + u.2)
    let v := (if neg then u.1 else d) * 2 ^ (P + u.2) / (d + u.1)
    .between false (v - (specErr P)) (v + (specErr P)) (-((P + u.2 : Nat) : Int))

/-- The nine special functions by opcode 0x7D to 0x85, with Table 6.5's special cases, at precision `P`. -/
def specialFn (opc : Nat) (x : FVal) (P : Nat) : SRes :=
  match x with
  | .nan => .exact .nan
  | .inf neg =>
    match opc with
    | 0x7D => .exact (.fin neg 0 0)
    | 0x7E => .exact (if neg then .nan else .fin false 0 0)
    | 0x7F => .exact (if neg then .nan else .inf false)
    | 0x80 => .exact (if neg then .fin false 0 0 else .inf false)
    | 0x81 => .exact (if neg then .nan else .inf false)
    | 0x84 => .exact (.fin neg 1 0)
    | 0x85 => .exact (if neg then .fin false 0 0 else .fin false 1 0)
    | _ => .exact .nan
  | .fin neg m e =>
    match opc with
    | 0x7D => .exact (if m = 0 then .inf neg else quotient neg 1 m (-e))
    | 0x7E => .exact (if m = 0 then .inf neg else if neg then .nan else rsqrtOf m e)
    | 0x7F => .exact (if m = 0 then .fin neg 0 0 else if neg then .nan else rootOf m e)
    | 0x80 => exp2Res P neg m e
    | 0x81 => if m = 0 then .exact (.inf true) else if neg then .exact .nan else log2Res P m e
    | 0x82 => sinRes P neg m e
    | 0x83 => cosRes P m e
    | 0x84 => tanhRes P neg m e
    | _ => sigmRes P neg m e

/-- Both ends of a result rounded once into the output format. -/
def SRes.ends (r : SRes) (f : Fmt) (mode : Nat) (satf : Bool) (osc : Int) : Nat × Nat :=
  match r with
  | .exact v => (encode f mode satf (v.scale osc), encode f mode satf (v.scale osc))
  | .between neg lo hi e =>
    (encode f mode satf ((justAbove neg lo e).scale osc), encode f mode satf ((justBelow neg hi e).scale osc))

/-- Rounds the function at precision `P`, and at the doubled one while the ends differ, `n` times at most. -/
def roundFrom (f : Fmt) (mode : Nat) (satf : Bool) (osc : Int) (r : Nat → SRes) : Nat → Nat → Nat
  | 0, P => ((r P).ends f mode satf osc).1
  | n + 1, P =>
    let q := (r P).ends f mode satf osc
    if q.1 = q.2 then q.1 else roundFrom f mode satf osc r n (2 * P)

/-- A special function's result rounded once into the output format (R53, R162). A value that is not exact is
irrational, so some precision decides it; 64 doublings are beyond any that an operand of at most 32 bits and a scale of
8 bits needs (assumption log 6). -/
def roundRes (f : Fmt) (mode : Nat) (satf : Bool) (osc : Int) (r : Nat → SRes) : Nat :=
  roundFrom f mode satf osc r 64 specP

end Sys2Proof.Machine
end

