-- ==== Sys2Proof/Machine/VecInt.lean ====
section
/-! DEFINITION. The meanings of the vector integer and logic instructions (R131 to R148): each selected lane
computes on the sub-elements of its sources, and the others keep their destination. -/

namespace Sys2Proof.Machine

/-- Writes lanes given by `f` to the selected lanes of D (R133). -/
def vecLanes (sl : Slot) (s : State) (x : Group) (f : Nat → Word) : Effect :=
  .done s (vecOut x.trapMode sl.d 0 (x.sel sl) (vecOf f))

/-- One-source element form on patterns. -/
def vec1 (f : Nat → Nat → Nat) (sl : Slot) (s : State) (x : Group) : Effect :=
  let w := tyW sl
  let a := s.vsrc x sl w sl.a
  vecLanes sl s x fun L => ofSubs w fun k => f w (sub w k (lane a L))

/-- Two-source element form on patterns. -/
def vec2 (f : Nat → Nat → Nat → Nat) (sl : Slot) (s : State) (x : Group) : Effect :=
  let w := tyW sl
  let a := s.vsrc x sl w sl.a
  let b := s.vsrc x sl w sl.b
  vecLanes sl s x fun L => ofSubs w fun k => f w (sub w k (lane a L)) (sub w k (lane b L))

/-- Three-source element form on patterns. -/
def vec3 (f : Nat → Nat → Nat → Nat → Nat) (sl : Slot) (s : State) (x : Group) : Effect :=
  let w := tyW sl
  let a := s.vsrc x sl w sl.a
  let b := s.vsrc x sl w sl.b
  let c := s.vsrc x sl w sl.c
  vecLanes sl s x fun L =>
    ofSubs w fun k => f w (sub w k (lane a L)) (sub w k (lane b L)) (sub w k (lane c L))

/-- An exact integer result of two elements, wrapped or saturated (R133, R135). -/
def vint2 (f : Int → Int → Int) (sl : Slot) : State → Group → Effect :=
  vec2 (fun w a b => wrapOrSat (sl.md.getLsbD 0) w (tyS sl) (f (rd w (tyS sl) a) (rd w (tyS sl) b))) sl

/-- An exact integer result of one element, wrapped or saturated. -/
def vint1 (f : Int → Int) (sl : Slot) : State → Group → Effect :=
  vec1 (fun w a => wrapOrSat (sl.md.getLsbD 0) w (tyS sl) (f (rd w (tyS sl) a))) sl

/-- VADD (R135). -/
def execVadd (sl : Slot) : State → Host.Outcome State Fault Refusal :=
  runSlot (fVec 0 1 (tyI sl) 2 sl) (.fixed 4) sl (vint2 (fun a b => a + b) sl)

/-- VSUB (R135). -/
def execVsub (sl : Slot) : State → Host.Outcome State Fault Refusal :=
  runSlot (fVec 0 1 (tyI sl) 2 sl) (.fixed 4) sl (vint2 (fun a b => a - b) sl)

/-- VMUL (R135). -/
def execVmul (sl : Slot) : State → Host.Outcome State Fault Refusal :=
  runSlot (fVec 0 1 (tyI sl) 2 sl) (.fixed 4) sl (vint2 (fun a b => a * b) sl)

/-- VMULH: the high half of the exact product (R135). -/
def execVmulh (sl : Slot) : State → Host.Outcome State Fault Refusal :=
  runSlot (fVec 0 0 (tyI sl) 2 sl) (.fixed 4) sl
    (vec2 (fun w a b => wrap w (rd w (tyS sl) a * rd w (tyS sl) b / 2 ^ w)) sl)

/-- VMAD (R135). -/
def execVmad (sl : Slot) : State → Host.Outcome State Fault Refusal :=
  runSlot (fVec 0 1 (tyI sl) 3 sl) (.fixed 4) sl
    (vec3 (fun w a b c => wrapOrSat (sl.md.getLsbD 0) w (tyS sl)
      (rd w (tyS sl) a * rd w (tyS sl) b + rd w (tyS sl) c)) sl)

/-- The sum over `n` of a lane's elements. -/
def sumInt (n : Nat) (f : Nat → Int) : Int := ((List.range n).map f).sum

/-- The absolute differences of VSAD; C is one 64-bit value (R136). -/
def vsadBody (sl : Slot) (s : State) (x : Group) : Effect :=
  let w := tyW sl
  let a := s.vsrc x sl w sl.a
  let b := s.vsrc x sl w sl.b
  let c := s.vsrc x sl 64 sl.c
  vecLanes sl s x fun L =>
    lane c L + BitVec.ofInt 64 (sumInt (64 / w) fun k =>
      (rd w (tyS sl) (sub w k (lane a L)) - rd w (tyS sl) (sub w k (lane b L))).natAbs)

/-- VSAD (R136). -/
def execVsad (sl : Slot) : State → Host.Outcome State Fault Refusal :=
  runSlot (fVec 0 0 (tyN sl) 3 sl) (.fixed 4) sl (vsadBody sl)

/-- The byte dot products of VDOT4 (R137). -/
def vdot4Body (sl : Slot) (s : State) (x : Group) : Effect :=
  let sa := tyS sl
  let sb := if sl.sub = 1 then !sa else sa
  let a := s.vsrc x sl 8 sl.a
  let b := s.vsrc x sl 8 sl.b
  let c := s.vsrc x sl 32 sl.c
  vecLanes sl s x fun L => ofSubs 32 fun j =>
    wrapOrSat (sl.md.getLsbD 0) 32 true (signed 32 (sub 32 j (lane c L)) + sumInt 4 fun i =>
      rd 8 sa (sub 8 (4 * j + i) (lane a L)) * rd 8 sb (sub 8 (4 * j + i) (lane b L)))

/-- VDOT4 (R137). -/
def execVdot4 (sl : Slot) : State → Host.Outcome State Fault Refusal :=
  runSlot (fVec 1 1 (tyIn [0, 1] sl) 3 sl) (.fixed 4) sl (vdot4Body sl)

/-- VMIN (R135). -/
def execVmin (sl : Slot) : State → Host.Outcome State Fault Refusal :=
  runSlot (fVec 0 0 (tyI sl) 2 sl) (.fixed 4) sl (vint2 (fun a b => min a b) sl)

/-- VMAX (R135). -/
def execVmax (sl : Slot) : State → Host.Outcome State Fault Refusal :=
  runSlot (fVec 0 0 (tyI sl) 2 sl) (.fixed 4) sl (vint2 (fun a b => max a b) sl)

/-- VABS (R135). -/
def execVabs (sl : Slot) : State → Host.Outcome State Fault Refusal :=
  runSlot (fVec 0 1 (tyI sl && tyS sl) 1 sl) (.fixed 4) sl (vint1 (fun a => a.natAbs) sl)

/-- VNEG (R135). -/
def execVneg (sl : Slot) : State → Host.Outcome State Fault Refusal :=
  runSlot (fVec 0 1 (tyI sl && tyS sl) 1 sl) (.fixed 4) sl (vint1 (fun a => -a) sl)

/-- VAVG: the floor of half the exact sum, plus one before halving under `.rnd` (R135). -/
def execVavg (sl : Slot) : State → Host.Outcome State Fault Refusal :=
  runSlot (fVec 1 0 (tyI sl) 2 sl) (.fixed 4) sl
    (vint2 (fun a b => (a + b + (if sl.sub = 1 then 1 else 0)) / 2) sl)

/-- VAND (R135). -/
def execVand (sl : Slot) : State → Host.Outcome State Fault Refusal :=
  runSlot (fVec 0 0 (tyI sl) 2 sl) (.fixed 4) sl (vec2 (fun _ a b => a &&& b) sl)

/-- VOR (R135). -/
def execVor (sl : Slot) : State → Host.Outcome State Fault Refusal :=
  runSlot (fVec 0 0 (tyI sl) 2 sl) (.fixed 4) sl (vec2 (fun _ a b => a ||| b) sl)

/-- VXOR (R135). -/
def execVxor (sl : Slot) : State → Host.Outcome State Fault Refusal :=
  runSlot (fVec 0 0 (tyI sl) 2 sl) (.fixed 4) sl (vec2 (fun _ a b => a ^^^ b) sl)

/-- VANDN (R135). -/
def execVandn (sl : Slot) : State → Host.Outcome State Fault Refusal :=
  runSlot (fVec 0 0 (tyI sl) 2 sl) (.fixed 4) sl (vec2 (fun w a b => a &&& notW w b) sl)

/-- VNOT (R135). -/
def execVnot (sl : Slot) : State → Host.Outcome State Fault Refusal :=
  runSlot (fVec 0 0 (tyI sl) 1 sl) (.fixed 4) sl (vec1 (fun w a => notW w a) sl)

/-- VLOP3 (R138). -/
def execVlop3 (sl : Slot) : State → Host.Outcome State Fault Refusal :=
  runSlot (fVlop3 sl) (.fixed 4) sl (vec3 (fun w a b c => lop3 (immN sl) w a b c) sl)

/-- VSHL (R140). -/
def execVshl (sl : Slot) : State → Host.Outcome State Fault Refusal :=
  runSlot (fVec 0 0 (tyI sl) 2 sl) (.fixed 4) sl (vec2 shl sl)

/-- VSHR (R140). -/
def execVshr (sl : Slot) : State → Host.Outcome State Fault Refusal :=
  runSlot (fVec 0 0 (tyI sl) 2 sl) (.fixed 4) sl (vec2 shr sl)

/-- VSAR (R140). -/
def execVsar (sl : Slot) : State → Host.Outcome State Fault Refusal :=
  runSlot (fVec 0 0 (tyI sl) 2 sl) (.fixed 4) sl (vec2 sar sl)

/-- VROL (R140). -/
def execVrol (sl : Slot) : State → Host.Outcome State Fault Refusal :=
  runSlot (fVec 0 0 (tyI sl) 2 sl) (.fixed 4) sl (vec2 rotl sl)

/-- VROR (R140). -/
def execVror (sl : Slot) : State → Host.Outcome State Fault Refusal :=
  runSlot (fVec 0 0 (tyI sl) 2 sl) (.fixed 4) sl (vec2 rotr sl)

/-- The funnel shift of VFSHL: left, or right (R141). -/
def funnel (right : Bool) (w x y a : Nat) : Nat :=
  let t := x * 2 ^ w + y
  if 2 * w ≤ a then 0
  else if right then t / 2 ^ a % 2 ^ w
  else t * 2 ^ a / 2 ^ w % 2 ^ w

/-- VFSHL (R141). -/
def execVfshl (sl : Slot) : State → Host.Outcome State Fault Refusal :=
  runSlot (fVec 1 0 (tyI sl) 3 sl) (.fixed 4) sl (vec3 (funnel (decide (sl.sub = 1))) sl)

/-- A compare's result in the form its destination asks for (R142, R158). -/
def cmpOut (sl : Slot) (s : State) (x : Group) (w : Nat) (any : Bool) (c : Nat → Nat → Bool) : Effect :=
  match kindD sl.d with
  | .vp => .done s (predOut x sl.d (x.sel sl) fun L => predLane (64 / w) any (c L))
  | _ => vecLanes sl s x fun L => maskLane w (c L)

/-- The compare of VCMP (R142). -/
def vcmpBody (sl : Slot) (s : State) (x : Group) : Effect :=
  let w := tyW sl
  let a := s.vsrc x sl w sl.a
  let b := s.vsrc x sl w sl.b
  cmpOut sl s x w (sl.md.getLsbD 0) fun L k =>
    cond (subN sl) (rd w (tyS sl) (sub w k (lane a L))) (rd w (tyS sl) (sub w k (lane b L)))

/-- VCMP (R142). -/
def execVcmp (sl : Slot) : State → Host.Outcome State Fault Refusal :=
  runSlot (fVcmp sl) (.fixed 4) sl (vcmpBody sl)

/-- The choice of VSEL by lane or by bit (R139). -/
def vselBody (sl : Slot) (s : State) (x : Group) : Effect :=
  let w := tyW sl
  let b := s.vsrc x sl w sl.b
  let c := s.vsrc x sl w sl.c
  if sl.sub = 0 then
    let p := x.predOf sl.a
    vecLanes sl s x fun L => if p.getLsbD L then lane b L else lane c L
  else
    let a := s.vsrc x sl w sl.a
    vecLanes sl s x fun L => (lane a L &&& lane b L) ||| (~~~(lane a L) &&& lane c L)

/-- VSEL (R139). -/
def execVsel (sl : Slot) : State → Host.Outcome State Fault Refusal :=
  runSlot (fVsel sl) (.fixed 4) sl (vselBody sl)

/-- VPOPC (R135). -/
def execVpopc (sl : Slot) : State → Host.Outcome State Fault Refusal :=
  runSlot (fVec 0 0 (tyI sl) 1 sl) (.fixed 4) sl (vec1 popc sl)

/-- VCLZ (R135). -/
def execVclz (sl : Slot) : State → Host.Outcome State Fault Refusal :=
  runSlot (fVec 0 0 (tyI sl) 1 sl) (.fixed 4) sl (vec1 clz sl)

/-- VCTZ (R135). -/
def execVctz (sl : Slot) : State → Host.Outcome State Fault Refusal :=
  runSlot (fVec 0 0 (tyI sl) 1 sl) (.fixed 4) sl (vec1 ctz sl)

/-- VBREV (R135). -/
def execVbrev (sl : Slot) : State → Host.Outcome State Fault Refusal :=
  runSlot (fVec 0 0 (tyI sl) 1 sl) (.fixed 4) sl (vec1 brev sl)

/-- The extract of VBFE, with one control for the whole instruction (R143). -/
def vbfeBody (sl : Slot) (s : State) (x : Group) : Effect :=
  vec1 (fun w a => bfe w (tyS sl) a (s.ssrc x sl sl.b)) sl s x

/-- VBFE (R143). -/
def execVbfe (sl : Slot) : State → Host.Outcome State Fault Refusal :=
  runSlot (fVbfe sl) (.fixed 4) sl (vbfeBody sl)

/-- The insert of VBFI, with one control for the whole instruction (R143). -/
def vbfiBody (sl : Slot) (s : State) (x : Group) : Effect :=
  vec2 (fun w a b => bfi w a b (s.ssrc x sl sl.c)) sl s x

/-- VBFI (R143). -/
def execVbfi (sl : Slot) : State → Host.Outcome State Fault Refusal :=
  runSlot (fVbfi sl) (.fixed 4) sl (vbfiBody sl)

/-- The byte that one index byte of VPRMB picks (R144). -/
def prmbByte (a b : Word) (c : Nat) : Nat :=
  if 128 ≤ c then 0 else if c % 16 < 8 then sub 8 (c % 16) a else sub 8 (c % 16 - 8) b

/-- The byte permutation of VPRMB (R144). -/
def vprmbBody (sl : Slot) (s : State) (x : Group) : Effect :=
  let a := s.vsrc x sl 8 sl.a
  let b := s.vsrc x sl 8 sl.b
  let c := s.vsrc x sl 8 sl.c
  vecLanes sl s x fun L => ofSubs 8 fun i => prmbByte (lane a L) (lane b L) (sub 8 i (lane c L))

/-- VPRMB (R144). -/
def execVprmb (sl : Slot) : State → Host.Outcome State Fault Refusal :=
  runSlot (fVec 0 0 (tyIn [1] sl) 3 sl) (.fixed 4) sl (vprmbBody sl)

/-- The widening of VWIDEN (R145). -/
def vwidenBody (sl : Slot) (s : State) (x : Group) : Effect :=
  let w := tyW sl
  let a := s.vsrc x sl w sl.a
  let h := if sl.sub = 1 then 32 / w else 0
  vecLanes sl s x fun L => ofSubs (2 * w) fun j => wrap (2 * w) (rd w (tyS sl) (sub w (j + h) (lane a L)))

/-- VWIDEN (R145). -/
def execVwiden (sl : Slot) : State → Host.Outcome State Fault Refusal :=
  runSlot (fVec 1 0 (tyN sl) 1 sl) (.fixed 4) sl (vwidenBody sl)

/-- The narrowing of VNARROW; `.xs` reads the sources with the other signedness (R146). -/
def vnarrowBody (sl : Slot) (s : State) (x : Group) : Effect :=
  let w := tyW sl
  let h := 32 / w
  let a := s.vsrc x sl (2 * w) sl.a
  let b := s.vsrc x sl (2 * w) sl.b
  let sg := if sl.sub = 1 then !(tyS sl) else tyS sl
  vecLanes sl s x fun L => ofSubs w fun k =>
    wrapOrSat (sl.md.getLsbD 0) w (tyS sl)
      (rd (2 * w) sg (if k < h then sub (2 * w) k (lane a L) else sub (2 * w) (k - h) (lane b L)))

/-- VNARROW (R146). -/
def execVnarrow (sl : Slot) : State → Host.Outcome State Fault Refusal :=
  runSlot (fVec 1 1 (tyN sl) 2 sl) (.fixed 4) sl (vnarrowBody sl)

/-- Which source (B when true) and element of VPACK gives element `k` (R147). -/
def packFrom (which h k : Nat) : Bool × Nat :=
  match which with
  | 0 => (decide (k % 2 = 1), k / 2)
  | 1 => (decide (k % 2 = 1), k / 2 + h)
  | 2 => (decide (h ≤ k), 2 * (k % h))
  | _ => (decide (h ≤ k), 2 * (k % h) + 1)

/-- The interleaving of VPACK (R147). -/
def vpackBody (sl : Slot) (s : State) (x : Group) : Effect :=
  let w := tyW sl
  let a := s.vsrc x sl w sl.a
  let b := s.vsrc x sl w sl.b
  vecLanes sl s x fun L => ofSubs w fun k =>
    let p := packFrom (subN sl) (32 / w) k
    sub w p.2 (if p.1 then lane b L else lane a L)

/-- VPACK (R147). -/
def execVpack (sl : Slot) : State → Host.Outcome State Fault Refusal :=
  runSlot (fVec 3 0 (tyN sl) 2 sl) (.fixed 4) sl (vpackBody sl)

/-- VMOV (R135). -/
def execVmov (sl : Slot) : State → Host.Outcome State Fault Refusal :=
  runSlot (fVec 0 0 (tyI sl) 1 sl) (.fixed 4) sl (vec1 (fun _ a => a) sl)

/-- VDIV (R148). -/
def execVdiv (sl : Slot) : State → Host.Outcome State Fault Refusal :=
  runSlot (fVec 0 0 (tyI sl) 2 sl) (.fixed 12) sl (vec2 (fun w => divW w (tyS sl)) sl)

/-- VREM (R148). -/
def execVrem (sl : Slot) : State → Host.Outcome State Fault Refusal :=
  runSlot (fVec 0 0 (tyI sl) 2 sl) (.fixed 12) sl (vec2 (fun w => remW w (tyS sl)) sl)

end Sys2Proof.Machine
end

