-- ==== Sys2Proof/Machine/VecFloat.lean ====
section
/-! DEFINITION. The meanings of the vector float instructions, special functions and conversions (R149 to R164):
operands are decoded and scaled, the result is exact, and it is rounded once. -/

namespace Sys2Proof.Machine

/-- The formats, scales, rounding and placement of one float instruction (R70, R71, R150, R151). -/
structure FCtx where
  fa : Fmt
  fb : Fmt
  fo : Fmt
  sa : Int
  sb : Int
  so : Int
  mode : Nat
  satf : Bool
  /-- the widest format used -/
  wmax : Nat
  /-- the narrowest format used -/
  wmin : Nat
  part : Nat
  deriving Repr

/-- The context with its widths set from the formats used. -/
def FCtx.spanning (c : FCtx) (fs : List Fmt) : FCtx :=
  { c with wmax := (fs.map Fmt.width).foldl max 1, wmin := (fs.map Fmt.width).foldl min 64 }

/-- The context of a typed form: one format, scale 0, the mode of MOD (R150). -/
def typedCtx (sl : Slot) (x : Group) (fa fb fo : Fmt) : FCtx :=
  { fa := fa, fb := fb, fo := fo, sa := 0, sb := 0, so := 0, mode := modRnd sl, satf := x.satf
    wmax := 64, wmin := 64, part := modPart sl }

/-- A format code as an element format; code 15 never stands in FMT. -/
def fmtD (c : Nat) : Fmt := (Fmt.ofCode c).getD (.tap 8)

/-- The context of a `.fmt` form from FMT at issue (R70). -/
def fmtCtx (sl : Slot) (x : Group) : FCtx :=
  { fa := fmtD (bits x.fmt 3 0), fb := fmtD (bits x.fmt 7 4), fo := fmtD (bits x.fmt 11 8)
    sa := signed 8 (bits x.fmt 23 16), sb := signed 8 (bits x.fmt 31 24), so := signed 8 (bits x.fmt 39 32)
    mode := bits x.fmt 13 12, satf := x.satf, wmax := 64, wmin := 64, part := modPart sl }

/-- The trap of a format that the instruction does not accept (R71, R151). -/
def fmtTrap (s : State) (x : Group) : Effect :=
  .trap s { cause := 1, info := decInfo 8 (bits x.fmt 11 0) } none

/-- A code accepted as an operand format: tapered, IEEE or st8 (R151). -/
def okIn (c : Nat) : Bool := decide (8 ≤ c) && decide (c ≤ 14)

/-- A code accepted as an output format. -/
def okOut (c : Nat) : Bool := decide (8 ≤ c) && decide (c ≤ 13)

/-- Runs `f` in the context of the slot: `use` picks the formats used; a `.fmt` form traps on a format that
`ok` refuses of the codes AFMT, BFMT, OFMT, and on a part beyond its formats (R150, R151). -/
def floatRun (sl : Slot) (s : State) (x : Group) (typed : FCtx) (ok : Nat → Nat → Nat → Bool)
    (use : FCtx → List Fmt) (f : FCtx → Effect) : Effect :=
  if tyIsFmt sl then
    if ok (bits x.fmt 3 0) (bits x.fmt 7 4) (bits x.fmt 11 8) then
      let c := (fmtCtx sl x).spanning (use (fmtCtx sl x))
      if c.part < c.wmax / c.wmin then f c else illegal s 4
    else fmtTrap s x
  else f (typed.spanning (use typed))

/-- Element `k` of an operand of width `w` (R71, R151); one that lies past the lane's 64 bits, where a form has three
widths, reads as 0 (DESIGN CHOICE, assumption log 67). -/
def FCtx.elem (c : FCtx) (w : Nat) (v : Vec) (L k : Nat) : Nat :=
  sub w (k + if w < c.wmax then 64 / c.wmax * c.part else 0) (lane v L)

/-- The value that a lane of D holds before the instruction: zero for a push (R20, R151). -/
def State.oldDst (s : State) (x : Group) (code : BitVec 10) : Vec :=
  match dstRef x.trapMode code 0 with
  | some (.q _) => Vec.zero
  | some r => s.readV x r
  | none => Vec.zero

/-- Places the results `f L k` in a destination of width `w`; a narrower one keeps its other elements
(R151), and a place past the lane's 64 bits takes nothing (DESIGN CHOICE, assumption log 67). -/
def FCtx.place (c : FCtx) (sl : Slot) (s : State) (x : Group) (w : Nat) (f : Nat → Nat → Nat) : Effect :=
  let n := 64 / c.wmax
  let base := if w < c.wmax then n * c.part else 0
  let old := s.oldDst x sl.d
  vecLanes sl s x fun L => ofSubs w fun j =>
    if base ≤ j ∧ j < base + n then f L (j - base) else sub w j (lane old L)

/-- The format that TY names. -/
def tyFmt (sl : Slot) : Fmt := fmtD (tyCode sl)

/-- A one-operand float instruction. -/
def flt1 (f : FCtx → FVal → FVal) (sl : Slot) (s : State) (x : Group) : Effect :=
  let t := tyFmt sl
  floatRun sl s x (typedCtx sl x t t t) (fun a _ o => okIn a && okOut o) (fun c => [c.fa, c.fo]) fun c =>
    let a := s.vsrc x sl c.fa.width sl.a
    c.place sl s x c.fo.width fun L k =>
      encode c.fo c.mode c.satf
        ((f c ((decode c.fa (c.elem c.fa.width a L k)).scale c.sa)).scale c.so)

/-- A two-operand float instruction. -/
def flt2 (f : FCtx → FVal → FVal → FVal) (sl : Slot) (s : State) (x : Group) : Effect :=
  let t := tyFmt sl
  floatRun sl s x (typedCtx sl x t t t) (fun a b o => okIn a && okIn b && okOut o)
    (fun c => [c.fa, c.fb, c.fo]) fun c =>
    let a := s.vsrc x sl c.fa.width sl.a
    let b := s.vsrc x sl c.fb.width sl.b
    c.place sl s x c.fo.width fun L k =>
      encode c.fo c.mode c.satf
        ((f c ((decode c.fa (c.elem c.fa.width a L k)).scale c.sa)
          ((decode c.fb (c.elem c.fb.width b L k)).scale c.sb)).scale c.so)

/-- FADD (R154). -/
def execFadd (sl : Slot) : State → Host.Outcome State Fault Refusal :=
  runSlot (fFlt 0 (tyFF sl) true [fmtW sl] 2 sl) (.fixed 5) sl (flt2 (fun c a b => FVal.add c.mode a b) sl)

/-- FSUB (R154). -/
def execFsub (sl : Slot) : State → Host.Outcome State Fault Refusal :=
  runSlot (fFlt 0 (tyFF sl) true [fmtW sl] 2 sl) (.fixed 5) sl
    (flt2 (fun c a b => FVal.add c.mode a b.negate) sl)

/-- FMUL (R154). -/
def execFmul (sl : Slot) : State → Host.Outcome State Fault Refusal :=
  runSlot (fFlt 0 (tyFF sl) true [fmtW sl] 2 sl) (.fixed 5) sl (flt2 (fun _ a b => FVal.mul a b) sl)

/-- The fused product and sum by SUB, with the addend read in OFMT (R154). -/
def ffmaBody (sl : Slot) (s : State) (x : Group) : Effect :=
  let t := tyFmt sl
  floatRun sl s x (typedCtx sl x t t t) (fun a b o => okIn a && okIn b && okOut o)
    (fun c => [c.fa, c.fb, c.fo]) fun c =>
    let a := s.vsrc x sl c.fa.width sl.a
    let b := s.vsrc x sl c.fb.width sl.b
    let d := s.vsrc x sl c.fo.width sl.c
    c.place sl s x c.fo.width fun L k =>
      let p := FVal.mul ((decode c.fa (c.elem c.fa.width a L k)).scale c.sa)
        ((decode c.fb (c.elem c.fb.width b L k)).scale c.sb)
      let z := decode c.fo (c.elem c.fo.width d L k)
      let r := FVal.add c.mode (if 2 ≤ subN sl then p.negate else p)
        (if subN sl % 2 = 1 then z.negate else z)
      encode c.fo c.mode c.satf (r.scale c.so)

/-- FFMA (R154). -/
def execFfma (sl : Slot) : State → Host.Outcome State Fault Refusal :=
  runSlot (fFlt 3 (tyFF sl) true [fmtW sl] 3 sl) (.fixed 5) sl (ffmaBody sl)

/-- The order of two tapered values: NaR equals NaR and is least (R51). -/
def FVal.tapCmp (x y : FVal) : Ordering :=
  if x.isNan then (if y.isNan then .eq else .lt)
  else if y.isNan then .gt
  else (x.cmp y).getD .eq

/-- Both operand formats are tapered (R156, R158). -/
def FCtx.bothTap (c : FCtx) : Bool := c.fa.isTap && c.fb.isTap

/-- FMIN (R156); an ∞ that is not the chosen operand leaves the other operand as the result, whatever the
output format (DESIGN CHOICE, assumption log 67). -/
def execFmin (sl : Slot) : State → Host.Outcome State Fault Refusal :=
  runSlot (fFlt 1 (tyFF sl) false [fmtW sl] 2 sl) (.fixed 5) sl
    (flt2 (fun c a b =>
      if c.bothTap then (if a.tapCmp b = .gt then b else a) else FVal.minNum (decide (sl.sub = 1)) a b) sl)

/-- FMAX (R156); an ∞ that is not the chosen operand leaves the other operand as the result, whatever the
output format (DESIGN CHOICE, assumption log 67). -/
def execFmax (sl : Slot) : State → Host.Outcome State Fault Refusal :=
  runSlot (fFlt 1 (tyFF sl) false [fmtW sl] 2 sl) (.fixed 5) sl
    (flt2 (fun c a b =>
      if c.bothTap then (if a.tapCmp b = .lt then b else a) else FVal.maxNum (decide (sl.sub = 1)) a b) sl)

/-- FABS (R157). -/
def execFabs (sl : Slot) : State → Host.Outcome State Fault Refusal :=
  runSlot (fFlt 0 (tyFF sl) false [fmtW sl] 1 sl) (.fixed 5) sl (flt1 (fun _ a => a.abs) sl)

/-- The negation of FNEG: a tapered zero keeps its pattern 0 (R157). -/
def FVal.flipSign (tap : Bool) (a : FVal) : FVal :=
  match a with
  | .fin _ 0 e => if tap then .fin false 0 e else a.negate
  | _ => a.negate

/-- FNEG (R157). -/
def execFneg (sl : Slot) : State → Host.Outcome State Fault Refusal :=
  runSlot (fFlt 0 (tyFF sl) false [fmtW sl] 1 sl) (.fixed 5) sl (flt1 (fun c a => a.flipSign c.fa.isTap) sl)

/-- The compare of FCMP, by value (R158). -/
def fcmpBody (sl : Slot) (s : State) (x : Group) : Effect :=
  let t := tyFmt sl
  floatRun sl s x (typedCtx sl x t t t) (fun a b _ => okIn a && okIn b) (fun c => [c.fa, c.fb]) fun c =>
    let a := s.vsrc x sl c.fa.width sl.a
    let b := s.vsrc x sl c.fb.width sl.b
    cmpOut sl s x c.wmax (sl.md.getLsbD 2) fun L k =>
      let u := (decode c.fa (c.elem c.fa.width a L k)).scale c.sa
      let v := (decode c.fb (c.elem c.fb.width b L k)).scale c.sb
      fcond (subN sl) (if c.bothTap then some (u.tapCmp v) else u.cmp v)

/-- FCMP (R158). -/
def execFcmp (sl : Slot) : State → Host.Outcome State Fault Refusal :=
  runSlot (fFcmp sl) (.fixed 5) sl (fcmpBody sl)

/-- The classes of a tapered pattern, as bits of Table 6.4. -/
def tapClass (n p : Nat) : Nat :=
  if p = 0 then 2 ^ 6
  else if p = 2 ^ (n - 1) then 2 ^ 10
  else
    let q := if 2 ^ (n - 1) < p then 2 ^ n - p else p
    (if 2 ^ (n - 1) < p then 2 ^ 3 else 2 ^ 8)
      + (if q = 2 ^ (n - 1) - 1 then 2 ^ 11 else 0) + (if q = 1 then 2 ^ 12 else 0)

/-- The class of an IEEE pattern, as a bit of Table 6.4. -/
def ieeeClass (eb fb p : Nat) : Nat :=
  let neg := decide (p / 2 ^ (eb + fb) % 2 = 1)
  let ex := p / 2 ^ fb % 2 ^ eb
  let fr := p % 2 ^ fb
  if ex = 2 ^ eb - 1 then
    (if fr = 0 then (if neg then 2 ^ 2 else 2 ^ 9) else if fr / 2 ^ (fb - 1) = 0 then 2 ^ 0 else 2 ^ 1)
  else if ex = 0 then
    (if fr = 0 then (if neg then 2 ^ 5 else 2 ^ 6) else if neg then 2 ^ 4 else 2 ^ 7)
  else if neg then 2 ^ 3 else 2 ^ 8

/-- The classes of an element. -/
def classOf (f : Fmt) (p : Nat) : Nat :=
  match f with
  | .tap n => tapClass n p
  | .ieee eb fb => ieeeClass eb fb p
  | _ => 0

/-- The class test of FCLASS on A before scaling (R159). -/
def fclassBody (sl : Slot) (s : State) (x : Group) : Effect :=
  let t := tyFmt sl
  floatRun sl s x (typedCtx sl x t t t) (fun a _ _ => okIn a) (fun c => [c.fa]) fun c =>
    let a := s.vsrc x sl c.fa.width sl.a
    cmpOut sl s x c.wmax (sl.md.getLsbD 2) fun L k =>
      decide (classOf c.fa (c.elem c.fa.width a L k) &&& immN sl ≠ 0)

/-- FCLASS (R159). -/
def execFclass (sl : Slot) : State → Host.Outcome State Fault Refusal :=
  runSlot (fFclass sl) (.fixed 5) sl (fclassBody sl)

/-- Rounds to an integral value, keeping specials and the sign of zero (R160), a tapered negative's too for an IEEE
output (DESIGN CHOICE, assumption log 67). -/
def FVal.integral (mode : Nat) (v : FVal) : FVal :=
  match v with
  | .fin neg m e => .fin neg (roundMag mode neg m e) 0
  | v => v

/-- FRND: in the mode in force, or to nearest with ties away (R160). -/
def execFrnd (sl : Slot) : State → Host.Outcome State Fault Refusal :=
  runSlot (fFrnd sl) (.fixed 5) sl
    (flt1 (fun c a => a.integral (if sl.sub = 1 then 4 else c.mode)) sl)

/-- The scaling of FSCALE by a signed element of B (R161). -/
def fscaleBody (sl : Slot) (s : State) (x : Group) : Effect :=
  let t := tyFmt sl
  let w := t.width
  let a := s.vsrc x sl w sl.a
  let b := s.vsrc x sl w sl.b
  vecLanes sl s x fun L => ofSubs w fun k =>
    encode t (modRnd sl) x.satf ((decode t (sub w k (lane a L))).scale (signed w (sub w k (lane b L))))

/-- FSCALE (R161). -/
def execFscale (sl : Slot) : State → Host.Outcome State Fault Refusal :=
  runSlot (fFlt 0 (tyF sl) true [fmtW sl] 2 sl) (.fixed 5) sl (fscaleBody sl)

/-- The output format of a typed FDOT2 (R155). -/
def dotOut (f : Fmt) : Fmt :=
  match f with
  | .tap 8 => .tap 16
  | .tap _ => .tap 32
  | _ => .ieee 8 23

/-- Runs FDOT2 in its context (R155); an exact zero's sign in an IEEE output is that of the pairwise additions
in the mode in force (DESIGN CHOICE, assumption log 67). -/
def dotRun (sl : Slot) (s : State) (x : Group) (c : FCtx) : Effect :=
  let w := c.fa.width
  let a := s.vsrc x sl w sl.a
  let b := s.vsrc x sl w sl.b
  let d := s.vsrc x sl (2 * w) sl.c
  let p (L k : Nat) := FVal.mul ((decode c.fa (sub w k (lane a L))).scale c.sa)
    ((decode c.fb (sub w k (lane b L))).scale c.sb)
  vecLanes sl s x fun L => ofSubs (2 * w) fun j =>
    let e := FVal.add c.mode (FVal.add c.mode (p L (2 * j)) (p L (2 * j + 1)))
      (decode c.fo (sub (2 * w) j (lane d L)))
    encode c.fo c.mode c.satf (e.scale c.so)

/-- The two-way dot products of FDOT2, rounded once (R155). -/
def fdot2Body (sl : Slot) (s : State) (x : Group) : Effect :=
  if tyIsFmt sl then
    let c := fmtCtx sl x
    if okIn (bits x.fmt 3 0) ∧ okIn (bits x.fmt 7 4) ∧ okOut (bits x.fmt 11 8)
        ∧ c.fa.width = c.fb.width ∧ c.fo.width = 2 * c.fa.width then dotRun sl s x c
    else fmtTrap s x
  else
    let t := tyFmt sl
    dotRun sl s x (typedCtx sl x t t (dotOut t))

/-- FDOT2 (R155). -/
def execFdot2 (sl : Slot) : State → Host.Outcome State Fault Refusal :=
  runSlot (fFdot2 sl) (.fixed 5) sl (fdot2Body sl)

/-- A special function of one operand; an IEEE infinity into a tapered output is NaR (R162, Table 2.6). -/
def specialBody (opc : Nat) (sl : Slot) (s : State) (x : Group) : Effect :=
  let t := tyFmt sl
  floatRun sl s x (typedCtx sl x t t t) (fun a _ o => okIn a && okOut o) (fun c => [c.fa, c.fo]) fun c =>
    let a := s.vsrc x sl c.fa.width sl.a
    c.place sl s x c.fo.width fun L k =>
      let v := (decode c.fa (c.elem c.fa.width a L k)).scale c.sa
      if c.fo.isTap ∧ v.isInf then encode c.fo c.mode c.satf .nan
      else roundRes c.fo c.mode c.satf c.so (specialFn opc v)

/-- FRCP (R162). -/
def execFrcp (sl : Slot) : State → Host.Outcome State Fault Refusal :=
  runSlot (fSpecial sl) .var sl (specialBody 0x7D sl)

/-- FRSQ (R162). -/
def execFrsq (sl : Slot) : State → Host.Outcome State Fault Refusal :=
  runSlot (fSpecial sl) .var sl (specialBody 0x7E sl)

/-- FSQRT (R162). -/
def execFsqrt (sl : Slot) : State → Host.Outcome State Fault Refusal :=
  runSlot (fSpecial sl) .var sl (specialBody 0x7F sl)

/-- FEXP2 (R162). -/
def execFexp2 (sl : Slot) : State → Host.Outcome State Fault Refusal :=
  runSlot (fSpecial sl) .var sl (specialBody 0x80 sl)

/-- FLOG2 (R162). -/
def execFlog2 (sl : Slot) : State → Host.Outcome State Fault Refusal :=
  runSlot (fSpecial sl) .var sl (specialBody 0x81 sl)

/-- FSIN (R162). -/
def execFsin (sl : Slot) : State → Host.Outcome State Fault Refusal :=
  runSlot (fSpecial sl) .var sl (specialBody 0x82 sl)

/-- FCOS (R162). -/
def execFcos (sl : Slot) : State → Host.Outcome State Fault Refusal :=
  runSlot (fSpecial sl) .var sl (specialBody 0x83 sl)

/-- FTANH (R162). -/
def execFtanh (sl : Slot) : State → Host.Outcome State Fault Refusal :=
  runSlot (fSpecial sl) .var sl (specialBody 0x84 sl)

/-- FSIGM (R162). -/
def execFsigm (sl : Slot) : State → Host.Outcome State Fault Refusal :=
  runSlot (fSpecial sl) .var sl (specialBody 0x85 sl)

/-- Converts each element by value in its context (R163, R164). -/
def cvtRun (sl : Slot) (s : State) (x : Group) (c : FCtx) : Effect :=
  let a := s.vsrc x sl c.fa.width sl.a
  c.place sl s x c.fo.width fun L k =>
    encode c.fo c.mode c.satf (((decode c.fa (c.elem c.fa.width a L k)).scale c.sa).scale c.so)

/-- The conversion of FCVT between float formats (R163). -/
def fcvtBody (sl : Slot) (s : State) (x : Group) : Effect :=
  let t := tyFmt sl
  floatRun sl s x (typedCtx sl x (fmtD (subN sl)) t t) (fun a _ o => okIn a && okOut o)
    (fun c => [c.fa, c.fo]) (cvtRun sl s x)

/-- FCVT (R163). -/
def execFcvt (sl : Slot) : State → Host.Outcome State Fault Refusal :=
  runSlot (fFcvt sl) (.fixed 5) sl (fcvtBody sl)

/-- A `.fmt` FCVTI is accepted: exactly one of AFMT and OFMT is an integer code, and the widths differ by a
factor of at most 4 (R164). -/
def okCvti (a o : Nat) : Bool :=
  ((decide (a ≤ 6) && okOut o) || (okIn a && decide (o ≤ 6)))
    && decide ((fmtD a).width ≤ 4 * (fmtD o).width) && decide ((fmtD o).width ≤ 4 * (fmtD a).width)

/-- The conversion of FCVTI between a float and an integer format (R164). -/
def fcvtiBody (sl : Slot) (s : State) (x : Group) : Effect :=
  let t := tyFmt sl
  let i := Fmt.int (cviTy sl).1 (cviTy sl).2
  let typed := if sl.sub.getLsbD 3 then typedCtx sl x i i t else typedCtx sl x t t i
  floatRun sl s x typed (fun a _ o => okCvti a o) (fun c => [c.fa, c.fo]) (cvtRun sl s x)

/-- FCVTI (R164). -/
def execFcvti (sl : Slot) : State → Host.Outcome State Fault Refusal :=
  runSlot (fFcvti sl) (.fixed 5) sl (fcvtiBody sl)

/-- Sums every element of A and the first of C exactly, and rounds once (R155). -/
def fqsumRun (sl : Slot) (s : State) (x : Group) (c : FCtx) : Effect :=
  let w := c.fa.width
  let a := s.vsrc x sl w sl.a
  let d := s.vsrc x sl c.fo.width sl.c
  vecLanes sl s x fun L =>
    let e := (List.range (64 / w)).foldl
      (fun r k => FVal.add 0 r ((decode c.fa (sub w k (lane a L))).scale c.sa)) FVal.zero
    let r := FVal.add 0 e (decode c.fo (sub c.fo.width 0 (lane d L)))
    BitVec.ofNat 64 (encode c.fo c.mode c.satf (r.scale c.so))

/-- The quire sum of FQSUM, of a tapered or st8 operand (R155). -/
def fqsumBody (sl : Slot) (s : State) (x : Group) : Effect :=
  let t := tyFmt sl
  floatRun sl s x (typedCtx sl x t t t) (fun a _ o => okIn a && (fmtD a).isTap && okOut o)
    (fun c => [c.fa, c.fo]) (fqsumRun sl s x)

/-- FQSUM (R155). -/
def execFqsum (sl : Slot) : State → Host.Outcome State Fault Refusal :=
  runSlot (fFqsum sl) (.fixed 5) sl (fqsumBody sl)

end Sys2Proof.Machine
end

