-- ==== Sys2Proof/Machine/Lanes.lean ====
section
/-! DEFINITION. The meanings of the cross-lane instructions and of the transfer slots (R165 to R176). -/

namespace Sys2Proof.Machine

/-- A source as the lanes of a group give it to others: an exited lane reads 0 (R166). -/
def liveVec (x : Group) (v : Vec) : Vec := vecOf fun L => if x.live.getLsbD L then lane v L else 0

/-- Element `e` of a vector of 32 × 64/w elements. -/
def elemAt (w : Nat) (v : Vec) (e : Nat) : Nat := sub w (e % (64 / w)) (lane v (e / (64 / w)))

/-- The source element of destination element `e` of a shuffle by SUB with amount `m`; none below 0 (R167). -/
def shflFrom (sub e m : Nat) : Option Nat :=
  match sub with
  | 0 => some m
  | 1 => some (e ^^^ m)
  | 2 => if m ≤ e then some (e - m) else none
  | _ => some (e + m)

/-- The shuffle of SHFL (R167). -/
def shflBody (sl : Slot) (s : State) (x : Group) : Effect :=
  let w := fmtW sl
  let n := 64 / w
  let a := s.vsrc x sl w sl.a
  let la := liveVec x a
  let b := if sl.sub = 0 then s.vsrc x sl w sl.b else Vec.zero
  let m := if sl.sub = 0 then 0 else (s.ssrc x sl sl.b).toNat
  vecLanes sl s x fun L => ofSubs w fun k =>
    match shflFrom (subN sl) (n * L + k) (if sl.sub = 0 then sub w k (lane b L) else m) with
    | some i => if i < 32 * n then elemAt w la i else sub w k (lane a L)
    | none => sub w k (lane a L)

/-- SHFL; the index form has a variable latency (R165, R167). -/
def execShfl (sl : Slot) : State → Host.Outcome State Fault Refusal :=
  runSlot (fShfl sl) (if sl.sub = 0 then .var else .fixed 6) sl (shflBody sl)

/-- The vote of VOTE (R168). -/
def voteBody (sl : Slot) (s : State) (x : Group) : Effect :=
  let bal := x.predOf sl.a &&& x.sel sl
  let one (b : Bool) : Word := if b then 1 else 0
  let r := match subN sl with
    | 0 => one (decide (bal ≠ 0))
    | 1 => one (decide (bal = 0xFFFFFFFF))
    | 2 => bal.setWidth 64
    | _ => one (decide (bal = 0) || decide (bal = 0xFFFFFFFF))
  .done s (scaOut x.trapMode sl.d 0 r)

/-- VOTE (R168). -/
def execVote (sl : Slot) : State → Host.Outcome State Fault Refusal :=
  runSlot (fVote sl) (.fixed 6) sl (voteBody sl)

/-! ### Reductions and scans (Table 7.2) -/

/-- The format of a reduction's type. -/
def redFmt (sl : Slot) : Fmt :=
  match intTy sl with
  | some (w, sgn) => .int w sgn
  | none => tyFmt sl

/-- The identity of an operation (Table 7.2). -/
def redIdent (op : Nat) (f : Fmt) (mode : Nat) : Nat :=
  match f, op with
  | .int _ _, 0 => 0
  | .int w sgn, 1 => wrap w (tyMax w sgn)
  | .int w sgn, 2 => wrap w (tyMin w sgn)
  | .int w _, 3 => 2 ^ w - 1
  | .int _ _, _ => 0
  | .tap _, 0 => 0
  | .tap n, 1 => 2 ^ (n - 1) - 1
  | .tap n, _ => 2 ^ (n - 1)
  | .ieee eb fb, 0 => if mode = 2 then 0 else 2 ^ (eb + fb)
  | .ieee eb fb, _ => qnan eb fb
  | .t2, _ => 0

/-- Combines contributions, in their order where the order matters; `tree` for the pairwise tree of R72. A sum of one IEEE
contribution is a result too: its NaN is canonical, and FMT bit 40 bounds its infinity (R54, R55). -/
def redCombine (op : Nat) (f : Fmt) (mode : Nat) (sa satf tree : Bool) (l : List Nat) : Nat :=
  match f, op with
  | .int w sgn, 0 => wrapOrSat sa w sgn (l.map (rd w sgn)).sum
  | .int w sgn, 1 => wrap w ((l.map (rd w sgn)).foldl min (tyMax w sgn))
  | .int w sgn, 2 => wrap w ((l.map (rd w sgn)).foldl max (tyMin w sgn))
  | .int w _, 3 => l.foldl (fun a b => a &&& b) (2 ^ w - 1)
  | .int _ _, 4 => l.foldl (fun a b => a ||| b) 0
  | .int _ _, _ => l.foldl (fun a b => a ^^^ b) 0
  | .tap n, 0 => encTap n mode ((l.map (decTap n)).foldl (FVal.add mode) FVal.zero)
  | .tap n, 1 => wrap n ((l.map (signed n)).foldl min (2 ^ (n - 1) - 1))
  | .tap n, _ => wrap n ((l.map (signed n)).foldl max (-2 ^ (n - 1)))
  | f, 0 =>
    if tree then treeSum (addPat f mode satf) 5 l
    else
      match l with
      | [] => redIdent 0 f mode
      | [c] => encode f mode satf (decode f c)
      | c :: t => t.foldl (addPat f mode satf) c
  | f, 1 => encode f mode satf ((l.map (decode f)).foldl (FVal.minNum false) .nan)
  | f, _ => encode f mode satf ((l.map (decode f)).foldl (FVal.maxNum false) .nan)

/-- The contributions of element position `k`: live guarded lanes give theirs, the others the identity (R169). -/
def redParts (sl : Slot) (x : Group) (a : Vec) (op w k : Nat) : List Nat :=
  let p := x.vp (sl.lg.toNat % 8)
  let m := x.live &&& (if sl.lg.getLsbD 3 then ~~~p else p)
  (List.range 32).map fun L =>
    if m.getLsbD L then sub w k (lane a L) else redIdent op (redFmt sl) (modRnd sl)

/-- The reduction of LRED (R169). -/
def lredBody (sl : Slot) (s : State) (x : Group) : Effect :=
  let w := fmtW sl
  let a := s.vsrc x sl w sl.a
  .done s (scaOut x.trapMode sl.d 0 (ofSubs w fun k =>
    redCombine (subN sl) (redFmt sl) (modRnd sl) (sl.md.getLsbD 0) x.satf true
      (redParts sl x a (subN sl) w k)))

/-- LRED (R169). -/
def execLred (sl : Slot) : State → Host.Outcome State Fault Refusal :=
  runSlot (fLred sl) (.fixed 6) sl (lredBody sl)

/-- The prefixes of LSCAN, inclusive or exclusive (R170). -/
def lscanBody (sl : Slot) (s : State) (x : Group) : Effect :=
  let w := fmtW sl
  let a := s.vsrc x sl w sl.a
  let op := subN sl % 8
  let ex := sl.sub.getLsbD 3
  vecLanes sl s x fun L => ofSubs w fun k =>
    let n := if ex then L else L + 1
    if n = 0 then redIdent op (redFmt sl) (modRnd sl)
    else redCombine op (redFmt sl) (modRnd sl) (sl.md.getLsbD 0) x.satf false
      ((redParts sl x a op w k).take n)

/-- LSCAN (R170). -/
def execLscan (sl : Slot) : State → Host.Outcome State Fault Refusal :=
  runSlot (fLscan sl) (.fixed 6) sl (lscanBody sl)

/-! ### Match, get and set -/

/-- The masks of MATCH (R171). -/
def matchBody (sl : Slot) (s : State) (x : Group) : Effect :=
  let v := liveVec x (s.vsrc x sl 64 sl.a)
  vecLanes sl s x fun L => (maskOf fun M => decide (lane v M = lane v L)).setWidth 64

/-- MATCH (R171). -/
def execMatchLanes (sl : Slot) : State → Host.Outcome State Fault Refusal :=
  runSlot (fMatch sl) (.fixed 6) sl (matchBody sl)

/-- The element that VGET reads (R172). -/
def vgetBody (sl : Slot) (s : State) (x : Group) : Effect :=
  let w := fmtW sl
  let n := 64 / w
  let e := (s.ssrc x sl sl.b).toNat
  let v := if e < 32 * n then elemAt w (liveVec x (s.vsrc x sl w sl.a)) e else 0
  .done s (scaOut x.trapMode sl.d 0 (ext64 w (tyS sl) v))

/-- VGET (R172). -/
def execVget (sl : Slot) : State → Host.Outcome State Fault Refusal :=
  runSlot (fVget sl) (.fixed 6) sl (vgetBody sl)

/-- The element that VSET writes, in a selected lane (R172). -/
def vsetBody (sl : Slot) (s : State) (x : Group) : Effect :=
  let w := fmtW sl
  let n := 64 / w
  let e := (s.ssrc x sl sl.b).toNat
  let v := (s.ssrc x sl sl.a).toNat % 2 ^ w
  let old := s.oldDst x sl.d
  let m := x.sel sl &&& maskOf fun L => decide (e < 32 * n) && decide (L = e / n)
  .done s (vecOut x.trapMode sl.d 0 m (vecOf fun L => ofSubs w fun k =>
    if k = e % n then v else sub w k (lane old L)))

/-- VSET (R172). -/
def execVset (sl : Slot) : State → Host.Outcome State Fault Refusal :=
  runSlot (fVset sl) (.fixed 6) sl (vsetBody sl)

/-! ### Transfer slots (R173 to R176) -/

/-- The slot that a transfer instruction names. -/
def xferSlot (sl : Slot) : Nat := immN sl % 16

/-- The form and count of a transfer (R174). -/
def xferShape (sl : Slot) : Nat × Nat := (subN sl, if sl.sub = 0 then cntN sl else xferN sl)

/-- The registers that a sender gives and the writes they make in a receiver (R174). -/
def State.xferWrites (s : State) (snd rcv : Group) (ssl rsl : Slot) : List RegWrite :=
  (List.range (xferShape rsl).2).flatMap fun i =>
    if rsl.sub = 0 then vecOut rcv.trapMode rsl.d i (rcv.sel rsl) (liveVec snd (s.vreg snd ssl.a i))
    else scaOut rcv.trapMode rsl.d i (s.sreg snd ssl.a i)

/-- The state of a transfer slot and its waiting group (R174). -/
def State.xslot (s : State) (x : Group) (sl : Slot) : XSlot :=
  (tget (s.wgD x.wg).slots (xferSlot sl)).getD { st := 0, grp := 0 }

/-- A group arrives in an idle slot: it traps if it is alone, and waits otherwise (R174, R175). -/
def xferWait (send : Bool) (sl : Slot) (s : State) (x : Group) : Effect :=
  if (s.wgD x.wg).groups.all fun h => decide (h = s.cur) then .trap s (xslotRaise (xferSlot sl) 3) none
  else
    let s1 := s.updWg x.wg fun w =>
      { w with slots := tput w.slots (xferSlot sl) { st := if send then 1 else 2, grp := s.cur } }
    .wait (s1.updGrp s.cur fun x => { x with wait := .xfer (xferSlot sl) send sl })

/-- The two groups disagree on form or count: both trap and the slot is idle (R174). -/
def xferMismatch (sl : Slot) (peer : Nat) (psl : Slot) (s : State) : Effect :=
  let s1 := (s.unwait peer).raise peer (xslotRaise (xferSlot psl) 1) (s.grpD peer).pc
  if (s1.grp? s.cur).isSome then .trap s1 (xslotRaise (xferSlot sl) 1) none else .wait s1

/-- The slot that a waiting group stands at. -/
def waitSlot (x : Group) (d : Slot) : Slot :=
  match x.wait with
  | .xfer _ _ sl => sl
  | _ => d

/-- Arrival at a transfer slot: what the peer's presence makes of it (R174). -/
def xferArrive (send : Bool) (sl : Slot) (s : State) (x : Group) : Effect :=
  let e := s.xslot x sl
  if e.st = 0 then xferWait send sl s x
  else if e.st = (if send then 1 else 2) then .trap s (xslotRaise (xferSlot sl) 2) none
  else
    let p := s.grpD e.grp
    let psl := waitSlot p sl
    if xferShape psl ≠ xferShape sl then xferMismatch sl e.grp psl s
    else
      let s1 := s.unwait e.grp
      if send then .done (s1.finish e.grp psl .blocking (s.xferWrites x p sl psl) false) []
      else .done (s1.finish e.grp psl .none [] false) (s.xferWrites p x psl sl)

/-- XSEND (R173, R174). -/
def execXsend (sl : Slot) : State → Host.Outcome State Fault Refusal :=
  runSlot (fXsend sl) .none sl (xferArrive true sl)

/-- XRECV (R173, R174). -/
def execXrecv (sl : Slot) : State → Host.Outcome State Fault Refusal :=
  runSlot (fXrecv sl) .blocking sl (xferArrive false sl)

/-- What XPROBE finds (R176). -/
def xprobeBody (sl : Slot) (s : State) (x : Group) : Effect :=
  let st := (s.xslot x sl).st
  .done s (scaOut x.trapMode sl.d 0 (if st = (if sl.sub = 0 then 1 else 2) then 1 else 0))

/-- XPROBE (R176). -/
def execXprobe (sl : Slot) : State → Host.Outcome State Fault Refusal :=
  runSlot (fXprobe sl) .var sl (xprobeBody sl)

end Sys2Proof.Machine
end

