-- ==== Sys2Proof/Machine/Memory.lean ====
section
/-! DEFINITION. The meanings of loads, stores, atomics, reductions, fences, prefetch and cache control (R190 to
R209), and the token buckets that hold them back (R349, R350). -/

namespace Sys2Proof.Machine

/-! ### Requests that leave the die -/

/-- A line that the core need not ask the hub for: its L1, the die's dirty bytes or, where the policy admits it, its column
serve it (R310, R313). -/
def State.lineHeld (s : State) (die c line : Nat) (col : Bool) : Bool :=
  (s.l1Of c line).isSome || s.lineDirty die line || (col && (s.columnHit die c line).isSome)

/-- Whether an access sends a request beyond its die: it is not served by the window, the control page, the
die's own near tier or the column. -/
def State.leaves (s : State) (v : View) (hub wr : Bool) (t : Target) : Bool :=
  match t with
  | .ctl _ => false
  | .win _ => false
  | .err _ _ => false
  | .mem l way =>
    if atBank v way hub then true
    else if s.lineHome (l / 128) = v.die then false
    else if way = .wb then !wr && !s.lineHeld v.die v.core (l / 128) true
    else wr || !s.lineHeld v.die v.core (l / 128) false
  | .peer _ _ => true
  | .fmtPeer _ _ _ _ => true
  | .got _ => true
  | .fmtView b _ _ => decide (2 ^ 64 ≤ b) || decide (s.homeDie (b / 65536) ≠ v.die)

/-- The 128-byte line that a target lies in. -/
def Target.line : Target → Nat
  | .ctl off => off / 128
  | .win l => l / 128
  | .mem l _ => l / 128
  | .peer p pa => peerLoc p pa / 128
  | .fmtView b _ off => (b + off / 2) / 128
  | .fmtPeer p b _ off => peerLoc p (b + off / 2) / 128
  | .got _ => 0
  | .err _ _ => 0

/-- pJ of traffic that one request for a line costs (Table 20.5). -/
def State.lineCost (s : State) (t : Target) : Nat :=
  match t with
  | .mem l _ => 128 * s.byteCost l
  | .fmtView b _ _ => 128 * s.byteCost b
  | _ => 0

/-- The requests of an instruction that leave its die, one for each line. -/
def State.requests (s : State) (v : View) (hub wr : Bool) (ps : List Piece) : List Target :=
  ps.foldl (fun acc p =>
    if s.leaves v hub wr p.tgt ∧ ¬ acc.any (fun t => decide (t.line = p.tgt.line)) then p.tgt :: acc else acc) []

/-- Debits the egress bucket and charges the traffic of an instruction's requests (R349, R390). -/
def State.account (s : State) (v : View) (hub wr : Bool) (ps : List Piece) : State :=
  let rs := s.requests v hub wr ps
  let s1 := if rs = [] then s else s.debit v.fn 0 (s.wgD v.wg).tbclass (128 * rs.length)
  let c := (rs.map s.lineCost).sum
  if c = 0 then s1 else s1.charge v.fn c

/-- The account of a single access at the point of coherence (R349). -/
def State.accountOne (s : State) (v : View) (t : Target) (a : Word) : State :=
  s.account v true false [{ lane := 0, addr := a, tgt := t }]

/-- The group may not issue a memory instruction of space 0x0 or 0x4 now (R350). -/
def State.egressLow (s : State) (v : View) (a : Word) : Bool :=
  (decide (spaceOf a = 0) || decide (spaceOf a = 4)) && s.bucketLow v.fn 0 (s.wgD v.wg).tbclass

/-! ### The common course of an access -/

/-- ORD acquires, ORD releases (Table 8.3). -/
def ordAcq (sl : Slot) : Bool := sl.md.getLsbD 0
def ordRel (sl : Slot) : Bool := sl.md.getLsbD 1

/-- An access that synchronises: an ordered one, an atomic or a RED (Table 14.2). -/
def syncKind (sl : Slot) (kind : Nat) : Bool := decide (ord sl ≠ 0) || decide (kind = 2) || decide (kind = 3)

/-- Whether an ordered access is performed at the point of coherence (R302). -/
def atHub (sl : Slot) : Bool := decide (ord sl ≠ 0) && decide (3 ≤ sl.scp.toNat)

/-- The column action before an access that releases (Table 8.5). -/
def State.ordBefore (s : State) (v : View) (sl : Slot) : State :=
  if ordRel sl then s.release v.die sl.scp.toNat else s

/-- The column action after an access that acquires (Table 8.5). -/
def State.ordAfter (s : State) (v : View) (sl : Slot) : State :=
  if ordAcq sl then s.acquire v.core sl.scp.toNat else s

/-- The trap of the first error response comes later (R194). -/
def State.lateErr (s : State) (v : View) (ps : List Piece) : State :=
  match firstErr ps with
  | some e => s.late v.grp v.fn v.ctx e false
  | none => s

/-- The checked accesses with the address that a trap reports, where that is the lane's and not the word's (R193). -/
def laneTrap (r : Raise) (n : Nat) (addrs : List (Nat × Word)) : Raise :=
  if n ≤ 1 then r
  else
    match (addrs.zipIdx.filter fun p => decide (p.2 % n = 0)).find? fun p => decide (p.1.1 = bits r.info 4 0) with
    | some p => { r with addr := p.1.2 }
    | none => r

/-- The accesses of lanes of `n` words: each reports its lane's address, and when one of a lane has an error response
all of that lane have it, so that its load or store is suppressed whole (R193, R194). -/
def lanePieces (n : Nat) (ps : List Piece) : List Piece :=
  if n ≤ 1 then ps
  else
    ps.map fun p =>
      let mine := ps.filter fun q => decide (q.lane = p.lane)
      let bad := mine.find? fun q => match q.tgt with | .err _ _ => true | _ => false
      { p with addr := (mine.head?.map Piece.addr).getD p.addr, tgt := (bad.map Piece.tgt).getD p.tgt }

/-- What one access of an instruction asks of a peer: the view, which access it is, the access, the peer and the address
there (R435). -/
abbrev Ask := View → Nat → Piece → Nat → Nat → PeerOut

/-- The accesses once the peers have been asked for what the slot waits for: what an acquire loads or an atomic that acquires
returns, so that the acquire follows it; whether a peer accepts the words of a lane that stores several; and a peer's
alias page (R194, R199, R296; assumption logs 82 and 83). -/
def State.told (s : State) (v : View) (sl : Slot) (n kind words : Nat) (ask : Ask) : Nat → List Piece → State × List Piece
  | _, [] => (s, [])
  | i, p :: t =>
    let r : State × Target := match p.tgt with
      | .peer q pa =>
        if ordAcq sl then
          let a := s.peerNeed (ask v i p q pa)
          (a.1, match a.2 with
            | some none => .err 12 (32 * kind)
            | some (some d) => .got (ofBytes (d.take n))
            | none => .got 0)
        else if kind = 1 ∧ 1 < words then
          let a := s.peerRead v q pa n p.addr kind
          (a.1, if a.2.isNone then .err 12 (32 * kind) else p.tgt)
        else (s, p.tgt)
      | .fmtPeer q base size off =>
        let a := s.fmtPeerRead v q base size off n p.addr kind
        (a.1, if a.2.isNone then .err 12 (32 * kind) else p.tgt)
      | g => (s, g)
    let q := r.1.told v sl n kind words ask (i + 1) t
    (q.1, { p with tgt := r.2 } :: q.2)

/-- The requests to peers among loads or atomics for which the slot does not wait (R435). -/
def State.askPeers (s : State) (v : View) (ask : Ask) : Nat → List Piece → State
  | _, [] => s
  | i, p :: t =>
    match p.tgt with
    | .peer q pa => (s.peerSend (ask v i p q pa)).askPeers v ask (i + 1) t
    | _ => s.askPeers v ask (i + 1) t

/-- An OR of any scope into a leaf entry is performed at its hub bank (R374). -/
def State.orWay (s : State) (sl : Slot) (kind : Nat) (p : Piece) : Piece :=
  match p.tgt with
  | .mem l _ => if kind = 2 ∧ subN sl = 4 ∧ s.isLeafEntry l then { p with tgt := .mem l .hub } else p
  | _ => p

/-- Checks the accesses of an instruction, waits while its bucket is low or an earlier access holds it back, orders it, and
performs it by `f` (R193, R194, R199, R296, R350). -/
def accessRun (sl : Slot) (n kind : Nat) (hub : Bool) (addrs : List (Nat × Word)) (s : State) (x : Group) (ask : Ask)
    (f : State → View → List Piece → State × List RegWrite) (words : Nat := 1) : Effect :=
  let v := s.viewOf s.cur
  if (addrs.any fun p => s.egressLow v p.2) ∨ (syncKind sl kind ∧ ¬ s.peerQuiet s.cur) then s.stalled x
  else
    let r := s.resolveAll v n n kind (kindWrites kind) addrs
    match r.2 with
    | .error e => .trap r.1 (laneTrap e words addrs) none
    | .ok ps0 =>
      let a := r.1.told v sl n kind words ask 0 (ps0.map (r.1.orWay sl kind))
      let ps := lanePieces words a.2
      let s1 := (a.1.ordBefore v sl).account v hub (decide (kind = 1)) ps
      let s2 := if kind = 1 then s1 else s1.askPeers v ask 0 ps
      let q := f s2 v ps
      .done ((q.1.ordAfter v sl).lateErr v ps) q.2

/-- The request of a load of `n` bytes, whose value of `w` bits goes to lane L of a register. -/
def loadAsk (x : Group) (n w : Nat) (sgn : Bool) (place : Nat → Option RegRef) : Ask := fun v i p q pa =>
  { v.ask { peer := q, pa := pa, n := n, kind := 0 } p.addr 0 with
    pend := x.nextId, reg := place i, lane := p.lane, w := w, sgn := sgn }

/-- The type of an atomic as its request carries it: the modifier says whether FMT bit 40 bounds its infinities (R55). -/
def atomTyOf (sl : Slot) (satf : Bool) : BitVec 6 := if satf ∧ intTy sl = none then sl.ty ||| 0x10 else sl.ty

/-- The request of an atomic with operands b and c (R435). -/
def atomAsk (x : Group) (sl : Slot) (n w kind : Nat) (place : Option RegRef) (b c : Nat → Nat) : Ask := fun v _ p q pa =>
  { v.ask { peer := q, pa := pa, n := n, kind := 2, sub := subN sl, ty := atomTyOf sl x.satf, data := toBytes (w / 8) (b p.lane)
            cmp := if subN sl = 7 then toBytes (w / 8) (c p.lane) else [] } p.addr kind with
    pend := if place.isSome then x.nextId else 0, reg := place, lane := p.lane, w := w, sgn := tyS sl }

/-- What a store asks: nothing that its slot waits for. -/
def noAsk : Ask := fun v _ p q pa => v.ask { peer := q, pa := pa, n := 1, kind := 0 } p.addr 1

/-- The vector whose lanes are the values of the pieces at positions `i` of each run of `n`. -/
def pieceVec (ps : List Piece) (vals : List Nat) (n i : Nat) (f : Nat → Word) : Vec :=
  vecOf fun L =>
    match (ps.zip vals).zipIdx.find? fun e => decide (e.1.1.lane = L) && decide (e.2 % n = i) with
    | some e => f e.1.2
    | none => 0

/-- The selected lanes without an error response (R194). -/
def okLanes (x : Group) (sl : Slot) (ps : List Piece) : Mask := x.sel sl &&& ~~~(errLanes ps)

/-! ### Loads (R197, R198) -/

/-- LD. -/
def ldBody (sl : Slot) (s : State) (x : Group) : Effect :=
  let w := tyW sl
  accessRun sl (w / 8) 0 (atHub sl) (s.laneAddrs x sl 1) s x
      (loadAsk x (w / 8) w (tyS sl) fun _ => dstRef x.trapMode sl.d 0) fun s v ps =>
    let r := s.readAll v (w / 8) (atHub sl) ps
    (r.1, vecOut x.trapMode sl.d 0 (okLanes x sl ps) (pieceVec ps r.2 1 0 (ext64 w (tyS sl))))

def execLd (sl : Slot) : State → Host.Outcome State Fault Refusal := runSlot (fLd sl) .var sl (ldBody sl)

/-- LDX: N words of 8 bytes for each lane. -/
def ldxBody (sl : Slot) (s : State) (x : Group) : Effect :=
  let n := cntN sl
  accessRun sl 8 0 (atHub sl) (s.laneAddrs x sl n) s x (loadAsk x 8 64 false fun i => dstRef x.trapMode sl.d (i % n))
      (words := n) fun s v ps =>
    let r := s.readAll v 8 (atHub sl) ps
    (r.1, (List.range n).flatMap fun i =>
      vecOut x.trapMode sl.d i (okLanes x sl ps) (pieceVec ps r.2 n i (BitVec.ofNat 64)))

def execLdx (sl : Slot) : State → Host.Outcome State Fault Refusal := runSlot (fLdx sl) .var sl (ldxBody sl)

/-- LDS. -/
def ldsBody (sl : Slot) (s : State) (x : Group) : Effect :=
  let w := tyW sl
  accessRun sl (w / 8) 0 (atHub sl) [(0, s.scaAddr x sl)] s x
      (loadAsk x (w / 8) w (tyS sl) fun _ => dstRef x.trapMode sl.d 0) fun s v ps =>
    let r := s.readAll v (w / 8) (atHub sl) ps
    (r.1, if (firstErr ps).isSome then [] else
      scaOut x.trapMode sl.d 0 (ext64 w (tyS sl) (r.2.headD 0)))

def execLds (sl : Slot) : State → Host.Outcome State Fault Refusal := runSlot (fLds sl) .var sl (ldsBody sl)

/-- The addresses of LDB and STB: 8 bytes for each lane from one base. -/
def State.blockAddrs (s : State) (x : Group) (sl : Slot) : List (Nat × Word) :=
  let b := s.scaAddr x sl
  (lanesOf (x.sel sl)).map fun L => (L, b + BitVec.ofNat 64 (8 * L))

/-- LDB. -/
def ldbBody (sl : Slot) (s : State) (x : Group) : Effect :=
  accessRun sl 8 0 (atHub sl) (s.blockAddrs x sl) s x (loadAsk x 8 64 false fun _ => dstRef x.trapMode sl.d 0) fun s v ps =>
    let r := s.readAll v 8 (atHub sl) ps
    (r.1, vecOut x.trapMode sl.d 0 (okLanes x sl ps) (pieceVec ps r.2 1 0 (BitVec.ofNat 64)))

def execLdb (sl : Slot) : State → Host.Outcome State Fault Refusal := runSlot (fLdb sl) .var sl (ldbBody sl)

/-! ### Stores (R197, R198) -/

/-- Stores the value `f i p` at the i-th piece. -/
def storeAll (sl : Slot) (n : Nat) (f : Nat → Piece → Nat) (s : State) (v : View) (ps : List Piece) :
    State × List RegWrite :=
  (s.writeAll v n 1 (atHub sl) (ps.zipIdx.map fun e => (e.1, f e.2 e.1)), [])

/-- ST. -/
def stBody (sl : Slot) (s : State) (x : Group) : Effect :=
  let w := tyW sl
  let b := s.vsrc x sl w sl.b
  accessRun sl (w / 8) 1 (atHub sl) (s.laneAddrs x sl 1) s x noAsk
    (storeAll sl (w / 8) fun _ p => (lane b p.lane).toNat % 2 ^ w)

def execSt (sl : Slot) : State → Host.Outcome State Fault Refusal := runSlot (fSt sl) .none sl (stBody sl)

/-- STX. -/
def stxBody (sl : Slot) (s : State) (x : Group) : Effect :=
  let n := cntN sl
  accessRun sl 8 1 (atHub sl) (s.laneAddrs x sl n) s x noAsk (words := n)
    (storeAll sl 8 fun i p => (lane (s.vreg x sl.b (i % n)) p.lane).toNat)

def execStx (sl : Slot) : State → Host.Outcome State Fault Refusal := runSlot (fStx sl) .none sl (stxBody sl)

/-- STS. -/
def stsBody (sl : Slot) (s : State) (x : Group) : Effect :=
  let w := tyW sl
  let b := (s.ssrc x sl sl.b).toNat % 2 ^ w
  accessRun sl (w / 8) 1 (atHub sl) [(0, s.scaAddr x sl)] s x noAsk (storeAll sl (w / 8) fun _ _ => b)

def execSts (sl : Slot) : State → Host.Outcome State Fault Refusal := runSlot (fSts sl) .none sl (stsBody sl)

/-- STB. -/
def stbBody (sl : Slot) (s : State) (x : Group) : Effect :=
  let b := s.vsrc x sl 64 sl.b
  accessRun sl 8 1 (atHub sl) (s.blockAddrs x sl) s x noAsk (storeAll sl 8 fun _ p => (lane b p.lane).toNat)

def execStb (sl : Slot) : State → Host.Outcome State Fault Refusal := runSlot (fStb sl) .none sl (stbBody sl)

/-! ### Atomics and reductions (R200 to R205) -/

/-- The format of an atomic's operand. -/
def atomFmt (sl : Slot) : Fmt := redType (intTy sl) (tyCode sl)
where
  redType (i : Option (Nat × Bool)) (c : Nat) : Fmt :=
    match i with
    | some (w, sgn) => .int w sgn
    | none => (Fmt.ofCode c).getD (.tap 32)

/-- Lesser or greater of two patterns (Table 8.6); FMT bit 40 bounds an infinite f32 result (R55, R156). -/
def atomPick (f : Fmt) (satf greater : Bool) (x y : Nat) : Nat :=
  match f with
  | .int w sgn =>
    if (if greater then decide (rd w sgn x < rd w sgn y) else decide (rd w sgn y < rd w sgn x)) then y else x
  | .tap n =>
    if (if greater then decide (signed n x < signed n y) else decide (signed n y < signed n x)) then y else x
  | f =>
    encode f 0 satf ((if greater then FVal.maxNum false else FVal.minNum false) (decode f x) (decode f y))

/-- The new value of an atomic operation (Table 8.6); `satf` is FMT bit 40, which an f32 add ignores (R200). -/
def atomNew (op : Nat) (f : Fmt) (satf : Bool) (old b c : Nat) : Nat :=
  let w := f.width
  match op with
  | 0 => match f with
    | .int w _ => (old + b) % 2 ^ w
    | f => addPat f 0 false old b
  | 1 => atomPick f satf false old b
  | 2 => atomPick f satf true old b
  | 3 => old &&& b
  | 4 => old ||| b
  | 5 => old ^^^ b
  | 6 => b % 2 ^ w
  | 7 => if old = b then c else old
  | 8 => if b ≤ old then 0 else old + 1
  | _ => if old = 0 ∨ b < old then b else old - 1

/-- Whether an atomic executes at the hub bank: at device or system scope (Table 8.7). -/
def atomHub (sl : Slot) : Bool := decide (3 ≤ sl.scp.toNat)

/-- ATOM. -/
def atomBody (sl : Slot) (s : State) (x : Group) : Effect :=
  let f := atomFmt sl
  let w := f.width
  let b := s.vsrc x sl w sl.b
  let c := if subN sl = 7 then s.vsrc x sl w sl.c else Vec.zero
  let new (L old : Nat) : Nat := atomNew (subN sl) f x.satf old ((lane b L).toNat % 2 ^ w) ((lane c L).toNat % 2 ^ w)
  accessRun sl (w / 8) 2 (atomHub sl) (s.laneAddrs x sl 1) s x
      (atomAsk x sl (w / 8) w 2 (dstRef x.trapMode sl.d 0) (fun L => (lane b L).toNat % 2 ^ w) fun L => (lane c L).toNat % 2 ^ w)
      fun s v ps =>
    let r := s.rmwAll v (w / 8) (atomHub sl) new ps
    (r.1, vecOut x.trapMode sl.d 0 (okLanes x sl ps) (pieceVec ps r.2 1 0 (ext64 w (tyS sl))))

def execAtom (sl : Slot) : State → Host.Outcome State Fault Refusal := runSlot (fAtom sl) .var sl (atomBody sl)

/-- ATOMS. -/
def atomsBody (sl : Slot) (s : State) (x : Group) : Effect :=
  let f := atomFmt sl
  let w := f.width
  let b := (s.ssrc x sl sl.b).toNat % 2 ^ w
  let c := if subN sl = 7 then (s.ssrc x sl sl.c).toNat % 2 ^ w else 0
  accessRun sl (w / 8) 2 (atomHub sl) [(0, s.scaAddr x sl)] s x
      (atomAsk x sl (w / 8) w 2 (dstRef x.trapMode sl.d 0) (fun _ => b) fun _ => c) fun s v ps =>
    let r := s.rmwAll v (w / 8) (atomHub sl) (fun _ old => atomNew (subN sl) f x.satf old b c) ps
    (r.1, if (firstErr ps).isSome then [] else
      scaOut x.trapMode sl.d 0 (ext64 w (tyS sl) (r.2.headD 0)))

def execAtoms (sl : Slot) : State → Host.Outcome State Fault Refusal := runSlot (fAtoms sl) .var sl (atomsBody sl)

/-- A memory quire after one addition (R201). -/
def qaddNew (n q b : Nat) : Nat :=
  let w := quireW n
  let v := decTap n b
  if q = quireNaR w ∨ v.isNan then quireNaR w else wrap w (signed w q + toFixed (quireF n) v)

/-- RED: at the hub bank, whatever the scope (Table 8.7). -/
def redBody (sl : Slot) (s : State) (x : Group) : Effect :=
  let f := atomFmt sl
  let w := f.width
  let q := decide (subN sl = 10)
  let n := if q then 2 * w else w / 8
  let b := s.vsrc x sl w sl.b
  let new (L old : Nat) : Nat :=
    let y := (lane b L).toNat % 2 ^ w
    if q then qaddNew w old y else atomNew (subN sl) f x.satf old y 0
  accessRun sl n 3 true (s.laneAddrs x sl 1) s x (atomAsk x sl n w 3 none (fun L => (lane b L).toNat % 2 ^ w) fun _ => 0)
    fun s v ps => ((s.rmwAll v n true new ps).1, [])

def execRed (sl : Slot) : State → Host.Outcome State Fault Refusal := runSlot (fRed sl) .none sl (redBody sl)

/-! ### Fences, prefetch and cache control (R206 to R209) -/

/-- FENCE: it waits for the group's accesses at peers, and performs the column actions of its order and scope; the model
performs the others in program order. At device or system
scope it orders the alias view against the storage: the group's storage writes are performed, and the die's dirty set is
at the homes where alias accesses read (R206, R303, R323; assumption log 71). -/
def fenceBody (sl : Slot) (s : State) (x : Group) : Effect :=
  let v := s.viewOf s.cur
  let s1 := if 3 ≤ sl.scp.toNat then (s.fmtFence s.cur).release v.die 3 else s.ordBefore v sl
  syncAfter s x (.done (s1.ordAfter v sl) [])

def execFence (sl : Slot) : State → Host.Outcome State Fault Refusal := runSlot (fFence sl) .none sl (fenceBody sl)

/-- The line of an address that its core's L1 may hold, where the access would not fault: of space 0x0, or of the control
page (R207, R208, Table 15.1). -/
def State.lineAt (s : State) (v : View) (a : Word) : Option Nat :=
  let va := bits a 51 0
  let leaf : Option (Word × Nat) := match s.tlbHit v 0 va with
    | some e => some (e.leaf, e.size)
    | none => match s.lookup (s.ctxD v.fn v.ctx) 0 va with | .leaf l _ size _ => some (l, size) | _ => none
  if spaceOf a = 3 ∧ bits a 59 12 = 0 then some (ctlLine v.grp + bits a 11 0 / 128)
  else if spaceOf a ≠ 0 ∨ bits a 59 52 ≠ 0 then none
  else
    match leaf with
    | some (l, size) =>
      let pa := leafFrame l * 65536 + va % size
      if (s.check58 v 0 l size).isSome ∨ leafTier l = 3 then none
      else some ((if leafTier l = 2 then hostLoc pa else pa) / 128)
    | none => none

/-- PREF asks for lines, which changes no architectural state, and takes no trap after decode: its requests that leave the
die debit the egress bucket (R207, R349, R350). -/
def prefBody (sl : Slot) (s : State) (x : Group) : Effect :=
  let v := s.viewOf s.cur
  let as := s.laneAddrs x sl 1
  let out := (as.filterMap fun p => s.lineAt v p.2).dedup.filter fun l =>
    decide (l < 2 ^ 100) && decide (s.lineHome l ≠ v.die) && !s.lineHeld v.die v.core l true
  if as.any fun p => s.egressLow v p.2 then s.stalled x
  else .done (if out = [] then s else s.debit v.fn 0 (s.wgD v.wg).tbclass (128 * out.length)) []

def execPref (sl : Slot) : State → Host.Outcome State Fault Refusal := runSlot (fPref 3 sl) .none sl (prefBody sl)

/-- COLCLN. -/
def colclnBody (s : State) (x : Group) : Effect := .done (s.cleanCore x.core) []

def execColcln (sl : Slot) : State → Host.Outcome State Fault Refusal := runSlot (fBare0 sl) .none sl colclnBody

/-- COLINV. -/
def colinvBody (s : State) (x : Group) : Effect := .done ((s.cleanCore x.core).nextGen x.core) []

def execColinv (sl : Slot) : State → Host.Outcome State Fault Refusal := runSlot (fBare0 sl) .none sl colinvBody

/-- What CCTL does to a line of the core's L1: `.wb` writes it back where it is dirty, `.inv` takes it away too, `.ef` puts it
into the evict-first class. Its dirty bytes are in the home or in the dirty index already (R208, R312). -/
def cctlLine (sub : Nat) (e : L1Line) : Option L1Line :=
  match sub with
  | 0 => some { e with st := match e.st with | .modified => .exclusive | .owned => .shared | x => x }
  | 1 => none
  | _ => some { e with first := true }

/-- CCTL never changes a value that an agent reads, and takes no trap after decode. -/
def cctlBody (sl : Slot) (s : State) (x : Group) : Effect :=
  let v := s.viewOf s.cur
  let as := s.laneAddrs x sl 1
  if as.any fun p => s.egressLow v p.2 then s.stalled x
  else .done ((as.filterMap fun p => s.lineAt v p.2).foldl (fun t l => t.l1Map l (fun c => decide (c = v.core)) (cctlLine (subN sl))) s) []

def execCctl (sl : Slot) : State → Host.Outcome State Fault Refusal := runSlot (fPref 2 sl) .none sl (cctlBody sl)

end Sys2Proof.Machine
end

