-- ==== Sys2Proof/Machine/Sync.lean ====
section
/-! DEFINITION. The meanings of the blocking wait, the barrier objects, the launch-scope barrier and the ring
operations (R210 to R218). -/

namespace Sys2Proof.Machine

/-! ### WAITP (R210) -/

/-- The condition of WAITP by SUB. -/
def waitMet (sub : Nat) (x v : BitVec 32) : Bool :=
  match sub with
  | 0 => decide (x ≠ v)
  | 1 => decide (x = v)
  | _ => decide ((x - v).toNat < 2 ^ 31)

/-- WAITP ends with status 1: the acquire, and SP[D] := 1. -/
def State.waitDone (s : State) (v : View) (x : Group) (sl : Slot) : State × List RegWrite :=
  (if ordAcq sl then s.acquire v.core sl.scp.toNat else s, scaOut x.trapMode sl.d 0 1)

/-- WAITP: it ends at once when the word meets its condition, and waits otherwise. -/
def waitpBody (sl : Slot) (s : State) (x : Group) : Effect :=
  let v := s.viewOf s.cur
  let a := s.scaAddr x sl
  let b := (s.ssrc x sl sl.b).setWidth 32
  let w : Wait := .waitp a b (s.ssrc x sl sl.c).toNat sl
  if s.egressLow v a ∨ (ordAcq sl ∧ ¬ s.peerQuiet s.cur) then s.stalled x
  else
    let r := s.resolve v a 4 4 4
    match r.2 with
    | .trap c i => .trap r.1 { cause := c, addr := a, info := BitVec.ofNat 64 i } none
    | .ok (.err c i) =>
      .wait ((r.1.updGrp s.cur fun x => { x with wait := w }).late s.cur v.fn v.ctx
        { cause := c, addr := a, info := BitVec.ofNat 64 i } false)
    | .ok t =>
      let q := (r.1.accountOne v t a).readP v t 4 a 4
      match q.2 with
      | .error (c, i) =>
        .wait ((q.1.updGrp s.cur fun x => { x with wait := w }).late s.cur v.fn v.ctx
          { cause := c, addr := a, info := BitVec.ofNat 64 i } false)
      | .ok word =>
        if waitMet (subN sl) (BitVec.ofNat 32 word) b then
          let d := q.1.waitDone v x sl
          .done d.1 d.2
        else .wait (q.1.updGrp s.cur fun x => { x with wait := w })

def execWaitp (sl : Slot) : State → Host.Outcome State Fault Refusal := runSlot (fWaitp sl) .blocking sl (waitpBody sl)

/-! ### Barrier objects (R211 to R214) -/

/-- Checks an object's address, and runs an operation on it: `f` gets the object before it. A peer performs the operation
at its hub bank and answers that object (R305, R315). An error response leaves the object and traps later (R194). -/
def barRun (a : Word) (o : BarOp) (s : State) (x : Group) (f : State → View → Target → BarObj → Effect) : Effect :=
  let v := s.viewOf s.cur
  let err (t : State) (c : BitVec 8) (i : Nat) : Effect :=
    .done (t.late s.cur v.fn v.ctx { cause := c, addr := a, info := BitVec.ofNat 64 i } false) []
  if s.egressLow v a ∨ ¬ s.peerQuiet s.cur then s.stalled x
  else
    let r := s.resolve v a 16 16 5
    match r.2 with
    | .trap c i => .trap r.1 { cause := c, addr := a, info := BitVec.ofNat 64 i } none
    | .ok (.err c i) => err r.1 c i
    | .ok (.peer p pa) =>
      let q := (r.1.accountOne v (.peer p pa) a).peerNeed { v.ask (o.msg p pa) a 5 with rel := if o.rel then some v.die else none }
      match q.2 with
      | some none => err q.1 12 (5 * 32)
      | some (some d) => f q.1 v (.peer p pa) (BarObj.ofNat (ofBytes (d.take 16)))
      | none => .wait q.1
    | .ok t =>
      let q := (r.1.accountOne v t a).readT v t 16 true
      f q.1 v t (BarObj.ofNat q.2)

/-- Checks an object's address for an instruction that traps whatever the object holds. -/
def barCheck (a : Word) (s : State) (x : Group) (f : State → Effect) : Effect :=
  let v := s.viewOf s.cur
  if s.egressLow v a then s.stalled x
  else
    let r := s.resolve v a 16 16 5
    match r.2 with
    | .trap c i => .trap r.1 { cause := c, addr := a, info := BitVec.ofNat 64 i } none
    | .ok (.err c i) => .done (r.1.late s.cur v.fn v.ctx { cause := c, addr := a, info := BitVec.ofNat 64 i } false) []
    | .ok _ => f r.1

/-- Stores the object after an operation, as a release at its scope where it is one (R211); a peer has done so already. -/
def State.barPut (s : State) (v : View) (t : Target) (o : BarOp) (b : BarObj) : State :=
  match t with
  | .peer _ _ => s
  | t => (if o.rel then s.barRelease v t else s).writeT v t 16 true (o.new b).toNat

/-- BOINIT: the object's address is S[A]; IMM is the count. -/
def boinitBody (sl : Slot) (s : State) (x : Group) : Effect :=
  let a := s.ssrc x sl sl.a
  let o : BarOp := .init (immN sl)
  barRun a o s x fun s v t b =>
    if immN sl = 0 ∨ (b.init ∧ b.joined ≠ 0) then syncTrap s 0x21 a
    else .done (s.barPut v t o b) []

def execBoinit (sl : Slot) : State → Host.Outcome State Fault Refusal := runSlot (fBoinit sl) .none sl (boinitBody sl)

/-- The entry of the joined-barrier table for an object (R28). -/
def Group.joinOf (x : Group) (a : Word) : Option Join := x.joined.find? fun e => decide (e.addr = a)

/-- BOARR. -/
def boarrBody (sl : Slot) (s : State) (x : Group) : Effect :=
  let a := s.scaAddr x sl
  let bytes := (s.ssrc x sl sl.b).toNat % 2 ^ 32
  let mine : Option Nat := (x.joinOf a).bind fun e => if e.arrived then some e.phase.toNat else none
  let o : BarOp := .arrive (decide (sl.sub = 0)) bytes mine
  barRun a o s x fun s v t b =>
    if ¬ b.init then syncTrap s 0x20 a
    else if sl.sub = 0 ∧ b.pend = 0 then syncTrap s 0x22 a
    else if sl.sub = 0 ∧ mine = some b.phase then syncTrap s 0x23 a
    else
      let s1 := if sl.sub = 0 then
          s.updGrp s.cur fun y => { y with joined := y.joined.map fun e =>
            if e.addr = a then { e with phase := BitVec.ofNat 32 b.phase, arrived := true } else e }
        else s
      .done (s1.barPut v t o b) (scaOut x.trapMode sl.d 0 (BitVec.ofNat 64 b.phase))

def execBoarr (sl : Slot) : State → Host.Outcome State Fault Refusal := runSlot (fBoarr sl) .var sl (boarrBody sl)

/-- BOJOIN. A peer does not join a group that may not join here: it is asked for the object alone. -/
def bojoinBody (sl : Slot) (s : State) (x : Group) : Effect :=
  let a := s.scaAddr x sl
  let full : Bool := decide (8 ≤ x.joined.length) || (x.joinOf a).isSome
  barRun a (if full then .look else .join) s x fun s v t b =>
    if ¬ b.init then syncTrap s 0x20 a
    else if full then syncTrap s 0x24 a
    else
      let s1 := s.updGrp s.cur fun y =>
        { y with joined := y.joined ++ [{ addr := a, phase := BitVec.ofNat 32 b.phase, arrived := false }] }
      .done (s1.barPut v t .join b) []

def execBojoin (sl : Slot) : State → Host.Outcome State Fault Refusal := runSlot (fBojoin sl) .none sl (bojoinBody sl)

/-- BOLEAVE and BOLEAVE.ret. -/
def boleaveBody (sl : Slot) (s : State) (x : Group) : Effect :=
  let a := s.scaAddr x sl
  match x.joinOf a with
  | none => barCheck a s x fun s => syncTrap s 0x25 a
  | some e =>
    let o : BarOp := if sl.sub = 1 then .ret e else .leave
    barRun a o s x fun s v t b =>
      let s1 := s.updGrp s.cur fun y => { y with joined := y.joined.filter fun e => !decide (e.addr = a) }
      .done (s1.barPut v t o b) []

def execBoleave (sl : Slot) : State → Host.Outcome State Fault Refusal := runSlot (fBoleave sl) .none sl (boleaveBody sl)

/-! ### The launch-scope barrier (R215) -/

/-- LBAR: a release, the arrival, and the wait; the last arrival completes the barrier. -/
def lbarBody (sl : Slot) (s : State) (x : Group) : Effect :=
  let l := (s.wgD x.wg).launch
  let admitted : Bool := match tget s.launches l with | some y => y.desc.cores | none => false
  if ¬ admitted then syncTrap s 0x26 0
  else
    let s1 := (s.release (dieOf x.core) 3).updGrp s.cur fun x => { x with wait := .lbar sl }
    syncAfter s x (.wait ((s1.updLaunch l fun y => { y with lbar := y.lbar ++ [s.cur] }).lbarCheck l))

def execLbar (sl : Slot) : State → Host.Outcome State Fault Refusal := runSlot (fLbar sl) .blocking sl (lbarBody sl)

/-! ### Rings (R216, R217) -/

/-- The location of a target of memory. -/
def Target.loc : Target → Nat
  | .win l => l
  | .mem l _ => l
  | _ => 0

/-- Brings the line of a target to its point of coherence (R302). -/
def State.toPoint (s : State) (v : View) (t : Target) : State :=
  match t with
  | .mem l _ => s.reach v l
  | _ => s

/-- A ring control block that an access checked: its target and contents; or the trap. An error response is an `err`
target. -/
def State.ringAt (s : State) (v : View) (a : Word) (kind : Nat) (wr : Bool := true) : State × Except Raise (Target × Rcb) :=
  let r := s.resolve v a 64 64 kind wr
  match r.2 with
  | .trap c i => (r.1, .error { cause := c, addr := a, info := BitVec.ofNat 64 i })
  | .ok (.peer p pa) =>
    let q := r.1.readP v (.peer p pa) 64 a kind
    match q.2 with
    | .ok x => (q.1, .ok (.peer p pa, Rcb.ofNat x))
    | .error (c, i) => (q.1, .ok (.err c i, Rcb.ofNat 0))
  | .ok t => let s1 := r.1.toPoint v t; (s1, .ok (t, s1.rcb t.loc))

/-- The words of element `i` of a ring, checked as accesses of KIND 6, to be written or only read. -/
def State.ringElem (s : State) (v : View) (b : Rcb) (i : Nat) (wr : Bool) : State × Except Raise (List Piece) :=
  s.resolveAll v 8 8 6 wr ((List.range b.esize).map fun j => (0, BitVec.ofNat 64 (b.elem i + 8 * j)))

/-- Writes an index of the ring at an address: PIDX at 0 or CIDX at 8. -/
def State.ringIndex (s : State) (v : View) (t : Target) (a : Word) (off i : Nat) : State :=
  match t with
  | .peer p pa => s.peerWrite v p (pa + off) 4 (i % 2 ^ 32) a 6 0
  | .mem l _ => (s.wr (l + off) 4 (i % 2 ^ 32)).countLine (l / 128)
  | t => s.wr (t.loc + off) 4 (i % 2 ^ 32)

/-- The locations of rings that the hub reads requests from: of partitions, and the management ring (R362, R373, R414). -/
def State.hubRing (s : State) (l : Nat) : Bool :=
  decide (s.mgmt ≠ 0 ∧ s.mgmt.toNat = l) || s.fns.any fun f =>
    decide (l ≠ 0) && (decide (f.2.rings.getD 0 0 = l) || decide (f.2.rings.getD 2 0 = l))

/-- Notes whose element it is, in a ring of the hub (R440). -/
def State.noteEnq (s : State) (v : View) (t : Target) (ps : List Piece) : State :=
  match t, ps.head?.map Piece.tgt with
  | .mem l _, some (.mem e _) => if s.hubRing l then { s with enqBy := tput s.enqBy e (ctxKey v.fn v.ctx) } else s
  | _, _ => s

/-- Writes an element's words, those at a peer by requests that are answered before the index moves; or the first error
response. -/
def State.ringWords (s : State) (v : View) : List (Piece × Nat) → State × Option Raise
  | [] => (s, none)
  | (p, x) :: t =>
    match p.tgt with
    | .peer q pa =>
      let r := s.peerNeed (v.writeAsk q pa 8 x p.addr 6)
      if r.2 = some none then (r.1, some { cause := 12, addr := p.addr, info := BitVec.ofNat 64 (6 * 32) }) else r.1.ringWords v t
    | g => (s.writeT v g 8 true x).ringWords v t

/-- Places an element's words and advances PIDX. -/
def State.ringPush (s : State) (v : View) (t : Target) (a : Word) (b : Rcb) (ps : List Piece) (ws : List Nat) : State × Option Raise :=
  let r := s.ringWords v (ps.zip ws)
  match r.2 with
  | some e => (r.1, some e)
  | none => ((r.1.ringIndex v t a 0 (b.pidx + 1)).noteEnq v t ps, none)

/-- Takes an element's words and advances CIDX. -/
def State.ringPop (s : State) (v : View) (t : Target) (a : Word) (b : Rcb) (ps : List Piece) : State × Except Raise (List Nat) :=
  let r := s.readPs v 8 6 ps
  match r.2 with
  | .error e => (r.1, .error e)
  | .ok l => (r.1.ringIndex v t a 8 (b.cidx + 1), .ok l)

/-- The place of an element at the peer that holds its control block, where all its words lie there in one run. -/
def peerPlace (p : Nat) (ps : List Piece) : Option Nat :=
  match ps.head?.map Piece.tgt with
  | some (.peer q e) => if q = p ∧ ps.zipIdx.all (fun x => decide (x.1.tgt = .peer p (e + 8 * x.2))) then some e else none
  | _ => none

/-- The operation on a ring at a peer: performed there whole, where both indices are still those read (R217, R305). -/
def ringMsg (dq : Bool) (p pa e : Nat) (b : Rcb) (ws : List Nat) : PeerMsg :=
  { peer := p, pa := pa, n := 8 * b.esize, kind := 4, sub := if dq then 1 else 0
    data := toBytes 4 b.pidx ++ toBytes 4 b.cidx ++ toBytes 8 e ++ ws.flatMap (toBytes 8) }

/-- The attempt of ENQ or DEQ on an element: at the peer that holds the ring and its element; else by accesses, in the middle
of which no other step of this module takes the ring (assumption log 76). The words taken, or none where the peer found
other indices, so that the attempt starts afresh. -/
def State.ringDo (s : State) (v : View) (dq : Bool) (t : Target) (a : Word) (b : Rcb) (ps : List Piece) (ws : List Nat) :
    State × Except Raise (Option (List Nat)) :=
  let here (s : State) : State × Except Raise (Option (List Nat)) :=
    if dq then
      let r := s.ringPop v t a b ps
      match r.2 with
      | .error e => (r.1, .error e)
      | .ok l => (r.1, .ok (some l))
    else
      let r := s.ringPush v t a b ps ws
      match r.2 with
      | some e => (r.1, .error e)
      | none => (r.1, .ok (some []))
  match t with
  | .peer p pa =>
    match peerPlace p ps with
    | some e =>
      let q := s.peerNeed { v.ask (ringMsg dq p pa e b ws) a 6 with rel := if dq then none else some v.die }
      match q.2 with
      | some none => (q.1, .error { cause := 12, addr := (ps.head?.map Piece.addr).getD 0, info := BitVec.ofNat 64 (6 * 32) })
      | some (some d) =>
        if ofBytes (d.take 4) = b.pidx ∧ ofBytes ((d.drop 4).take 4) = b.cidx then
          (q.1, .ok (some ((List.range b.esize).map fun j => ofBytes ((d.drop (8 + 8 * j)).take 8))))
        else (q.1, .ok none)
      | none => (q.1, .ok none)
    | none => here s
  | _ => here s

/-- The common course of ENQ and DEQ: the checks, a failed attempt, and the element (R217). ENQ is a release and DEQ an
acquire, whether the attempt succeeds or not (R295). -/
def ringRun (sl : Slot) (dq : Bool) (ws : List Nat) (s : State) (x : Group) (f : List Nat → List RegWrite) : Effect :=
  let v := s.viewOf s.cur
  let a := s.ssrc x sl sl.a
  let before (t : State) : State := if dq then t else t.release v.die 3
  let after (t : State) : State := if dq then t.acquire v.core 3 else t
  if s.egressLow v a ∨ ¬ s.peerQuiet s.cur then s.stalled x
  else
    let r := s.ringAt v a 6
    match r.2 with
    | .error e => .trap r.1 e none
    | .ok (.err c i, _) =>
      .done (r.1.late s.cur v.fn v.ctx { cause := c, addr := a, info := BitVec.ofNat 64 i } false) []
    | .ok (t, b) =>
      if ¬ s.lockFree t.key then s.stalled x
      else if ¬ b.valid ∨ b.esize ≠ ringN sl then syncTrap r.1 0x27 a
      else if (if dq then b.isEmpty else b.full) then .done (after (before (r.1.accountOne v t a))) (scaOut x.trapMode sl.d 0 0)
      else
        let q := (r.1.lockTake t.key).ringElem v b (if dq then b.cidx else b.pidx) (!dq)
        match q.2 with
        | .error e => .trap q.1 e none
        | .ok ps =>
          match firstErr ps with
          | some e => .done (q.1.late s.cur v.fn v.ctx e false) []
          | none =>
            let one : Piece := { lane := 0, addr := a, tgt := t }
            let u := (before (q.1.account v true (!dq) (one :: ps))).ringDo v dq t a b ps ws
            match u.2 with
            | .error e => .done (u.1.late s.cur v.fn v.ctx e false) []
            | .ok none => u.1.stalled x
            | .ok (some l) => .done (after u.1) (f l ++ scaOut x.trapMode sl.d 0 1)

/-- ENQ: a release at device scope. -/
def enqBody (sl : Slot) (s : State) (x : Group) : Effect :=
  ringRun sl false ((List.range (ringN sl)).map fun i => (s.sreg x sl.b i).toNat) s x fun _ => []

def execEnq (sl : Slot) : State → Host.Outcome State Fault Refusal := runSlot (fRing false sl) .var sl (enqBody sl)

/-- DEQ: an acquire at device scope. -/
def deqBody (sl : Slot) (s : State) (x : Group) : Effect :=
  ringRun sl true [] s x fun l => l.zipIdx.flatMap fun e => scaOut x.trapMode sl.b e.2 (BitVec.ofNat 64 e.1)

def execDeq (sl : Slot) : State → Host.Outcome State Fault Refusal := runSlot (fRing true sl) .var sl (deqBody sl)

end Sys2Proof.Machine
end

