-- ==== Sys2Proof/Machine/Bins.lean ====
section
/-! DEFINITION. Bins: the descriptor, its bitmaps, rows and overflow ring, and the meanings of the bin
instructions (R177 to R189). -/

namespace Sys2Proof.Machine

/-! ### The descriptor (Table 7.4) -/

structure Bin where
  fbase : Word
  w : Nat
  ovwake : Bool
  cap : Nat
  init : Bool
  occaddr : Word
  wakeaddr : Word
  cont : Word
  ovfl : Word
  occ : Nat
  woken : Nat
  suspn : Nat
  resn : Nat
  /-- the reserved bits of the second word, in place -/
  resv : Nat
  deriving DecidableEq, Repr

def Bin.ofNat (o : Nat) : Bin :=
  let f (i : Nat) : Nat := o / 2 ^ (64 * i) % 2 ^ 64
  { fbase := BitVec.ofNat 64 (f 0)
    w := f 1 % 64
    ovwake := decide (f 1 / 64 % 2 = 1)
    cap := f 1 / 256 % 8192
    init := decide (f 1 / 2 ^ 63 % 2 = 1)
    occaddr := BitVec.ofNat 64 (f 2)
    wakeaddr := BitVec.ofNat 64 (f 3)
    cont := BitVec.ofNat 64 (f 4)
    ovfl := BitVec.ofNat 64 (f 5)
    occ := f 6 % 2 ^ 32
    woken := f 6 / 2 ^ 32
    suspn := f 7 % 2 ^ 32
    resn := f 7 / 2 ^ 32
    resv := f 1 / 128 % 2 * 128 + f 1 / 2 ^ 21 % 2 ^ 42 * 2 ^ 21 }

def Bin.toNat (b : Bin) : Nat :=
  b.fbase.toNat
    + (b.w + b.ovwake.toNat * 64 + b.cap * 256 + b.init.toNat * 2 ^ 63 + b.resv) * 2 ^ 64
    + b.occaddr.toNat * 2 ^ 128 + b.wakeaddr.toNat * 2 ^ 192 + b.cont.toNat * 2 ^ 256 + b.ovfl.toNat * 2 ^ 320
    + (b.occ + b.woken * 2 ^ 32) * 2 ^ 384 + (b.suspn % 2 ^ 32 + b.resn % 2 ^ 32 * 2 ^ 32) * 2 ^ 448

/-- A bitmap of CAP rows as words of 4 bytes. -/
def Bin.mapAddrs (b : Bin) (a : Word) : List (Nat × Word) :=
  (List.range (b.cap / 32)).map fun i => (0, a + BitVec.ofNat 64 (4 * i))

/-- The words of row `r`, for a lane. -/
def Bin.rowAddrs (b : Bin) (r ln : Nat) : List (Nat × Word) :=
  (List.range b.w).map fun i => (ln, b.fbase + BitVec.ofNat 64 (8 * b.w * r + 8 * i))

/-- A number from words of `w` bits, lowest first. -/
def joinWords (w : Nat) : List Nat → Nat
  | [] => 0
  | x :: t => x + 2 ^ w * joinWords w t

/-- Rows below CAP whose bit a bitmap has set. -/
def rowsOf (cap m : Nat) : List Nat := (List.range cap).filter fun r => m.testBit r

/-- The bitmap of a list of rows. -/
def bitsOf (rs : List Nat) : Nat := rs.foldl (fun m r => m ||| 2 ^ r) 0

/-- Clears the bits of `x` in a bitmap. -/
def andNot (m x : Nat) : Nat := m ^^^ (m &&& x)

/-! ### Accesses to a bin (R179) -/

/-- Whether a bin's scope is the device: a descriptor outside the window. -/
def Target.device : Target → Bool
  | .win _ => false
  | _ => true

/-- The acquire side of a bin instruction, at the bin's scope (R179). -/
def State.binAcq (s : State) (v : View) (t : Target) : State :=
  if v.die < 12 then s.acquire v.core (if t.device then 3 else 1) else s

/-- The release side of a bin instruction. -/
def State.binRel (s : State) (v : View) (t : Target) : State :=
  if t.device ∧ v.die < 12 then s.release v.die 3 else s

/-- A bitmap with the pieces it lies in. -/
structure BitMap where
  ps : List Piece
  m : Nat
  deriving Repr

/-- Checks and reads a bitmap, which is 8-byte aligned (Table 7.4), to be written or only read. -/
def State.readMap (s : State) (v : View) (b : Bin) (a : Word) (wr : Bool) : State × Except Raise BitMap :=
  if a.toNat % 8 ≠ 0 then (s, .error { cause := 11, addr := a, info := 5 * 32 })
  else
    let r := s.resolveAll v 4 4 5 wr (b.mapAddrs a)
    match r.2 with
    | .error e => (r.1, .error e)
    | .ok ps =>
      let u := r.1.askAll v 4 5 ps
      let q := u.1.readNeed v 4 5 u.2
      (q.1, .ok { ps := u.2, m := joinWords 32 q.2 })

/-- Writes a bitmap that changes. -/
def State.writeMap (s : State) (v : View) (b : BitMap) (m : Nat) : State :=
  if m = b.m then s else s.writeAll v 4 5 true (b.ps.zipIdx.map fun p => (p.1, m / 2 ^ (32 * p.2) % 2 ^ 32))

/-- Checks and reads both bitmaps, to be written or only read. -/
def State.readMaps (s : State) (v : View) (b : Bin) (wo ww : Bool) : State × Except Raise (BitMap × BitMap) :=
  let r := s.readMap v b b.occaddr wo
  match r.2 with
  | .error e => (r.1, .error e)
  | .ok o =>
    let q := r.1.readMap v b b.wakeaddr ww
    match q.2 with
    | .error e => (q.1, .error e)
    | .ok w => (q.1, .ok (o, w))

/-- Stores the descriptor. -/
def State.binPut (s : State) (v : View) (t : Target) (a : Word) (b : Bin) : State := s.writeP v t 64 b.toNat a 5

/-- Stores new bitmaps and the descriptor with OCC and WOKEN recounted. -/
def State.binSet (s : State) (v : View) (t : Target) (a : Word) (b : Bin) (o w : BitMap) (om wm : Nat) : State :=
  let wm1 := wm &&& om
  ((s.writeMap v o om).writeMap v w wm1).binPut v t a { b with occ := popc b.cap om, woken := popc b.cap wm1 }

/-- The overflow ring of a bin: none where OVFL is 0; its element size is W by BININIT, and a ring that is no
longer valid traps as ENQ and DEQ do (R217). `wr`: the instruction writes one of its indices. -/
def State.binRing (s : State) (v : View) (b : Bin) (wr : Bool) : State × Except Raise (Option (Target × Rcb)) :=
  if b.ovfl = 0 then (s, .ok none)
  else
    let r := s.ringAt v b.ovfl 6 wr
    match r.2 with
    | .error e => (r.1, .error e)
    | .ok (.err c i, _) => (r.1, .error { cause := c, addr := b.ovfl, info := BitVec.ofNat 64 i })
    | .ok (t, rc) =>
      if ¬ rc.valid ∨ rc.esize ≠ b.w then
        (r.1, .error { cause := 19, addr := b.ovfl, info := BitVec.ofNat 64 (0x27 * 2 ^ 32) })
      else (r.1.accountOne v t b.ovfl, .ok (some (t, rc)))

/-- Elements in a ring. -/
def Rcb.count (r : Rcb) : Nat := (r.pidx + 2 ^ 32 - r.cidx) % 2 ^ 32

/-- The words of elements `i` to `i + n − 1` of a ring, checked, to be written or only read. -/
def State.ringElems (s : State) (v : View) (rc : Rcb) (wr : Bool) (i : Nat) : Nat → State × Except Raise (List (List Piece))
  | 0 => (s, .ok [])
  | n + 1 =>
    let r := s.ringElem v rc i wr
    match r.2 with
    | .error e => (r.1, .error e)
    | .ok ps =>
      let q := r.1.ringElems v rc wr (i + 1) n
      match q.2 with
      | .error e => (q.1, .error e)
      | .ok l => (q.1, .ok (ps :: l))

/-- Checks the words of rows, each for its lane, to be written or only read. -/
def State.binRows (s : State) (v : View) (b : Bin) (wr : Bool) : List (Nat × Nat) → State × Except Raise (List (List Piece))
  | [] => (s, .ok [])
  | (r, ln) :: t =>
    let q := s.resolveAll v 8 8 5 wr (b.rowAddrs r ln)
    match q.2 with
    | .error e => (q.1, .error e)
    | .ok ps =>
      let u := q.1.binRows v b wr t
      match u.2 with
      | .error e => (u.1, .error e)
      | .ok l => (u.1, .ok (ps :: l))

/-- Ends an instruction on an error response: nothing is done, and the trap comes later (R194). -/
def State.binLate (s : State) (v : View) (e : Raise) : Effect := .done (s.late v.grp v.fn v.ctx e false) []

/-- Reads the descriptor, after the release side. -/
def State.binRead (s : State) (v : View) (t : Target) (a : Word) (f : State → Bin → Effect) : Effect :=
  let q := ((s.binRel v t).accountOne v t a).readP v t 64 a 5
  match q.2 with
  | .error (c, i) => q.1.binLate v { cause := c, addr := a, info := BitVec.ofNat 64 i }
  | .ok x => f q.1 (Bin.ofNat x)

/-- The course of every bin instruction up to its descriptor: check 2 of R179, the wait for the group's earlier accesses at
peers, which happen before it, and for an operation on the bin that another group of the module has begun (R188, R296).
`wr`: the instruction writes the descriptor. -/
def binOpen (a : Word) (wr : Bool) (s : State) (x : Group) (f : State → View → Target → Bin → Effect) : Effect :=
  let v := s.viewOf s.cur
  if s.egressLow v a then s.stalled x
  else
    let r := s.resolve v a 64 64 5 wr
    match r.2 with
    | .trap c i => .trap r.1 { cause := c, addr := a, info := BitVec.ofNat 64 i } none
    | .ok (.err c i) => r.1.binLate v { cause := c, addr := a, info := BitVec.ofNat 64 i }
    | .ok t =>
      if ¬ s.lockFree t.key then s.stalled x
      else syncAfter s x ((r.1.lockTake t.key).binRead v t a fun s b => f s v t b)

/-- The common course: checks 2 and 3 of R179 for every instruction but BININIT. -/
def binRun (a : Word) (wr : Bool) (s : State) (x : Group) (f : State → View → Target → Bin → Effect) : Effect :=
  binOpen a wr s x fun s v t b => if ¬ b.init then syncTrap s 0x10 a else f s v t b

/-- Runs `f` on both bitmaps, to be written or only read. -/
def mapsRun (s : State) (v : View) (b : Bin) (wo ww : Bool) (f : State → BitMap → BitMap → Effect) : Effect :=
  let r := s.readMaps v b wo ww
  match r.2 with
  | .error e => .trap r.1 e none
  | .ok (o, w) =>
    match firstErr (o.ps ++ w.ps) with
    | some e => r.1.binLate v e
    | none => f (r.1.account v true true (o.ps ++ w.ps)) o w

/-! ### BININIT (R180) -/

/-- A descriptor that BININIT accepts, given the element size of its ring. -/
def Bin.valid (b : Bin) (ring : Option Rcb) : Bool :=
  decide (1 ≤ b.w) && decide (b.w ≤ 32) && decide (32 ≤ b.cap) && decide (b.cap ≤ 4096)
    && decide (b.cap % 32 = 0) && decide (b.resv = 0) && decide (b.fbase.toNat % 8 = 0) && decide (b.occaddr.toNat % 8 = 0)
    && decide (b.wakeaddr.toNat % 8 = 0)
    && (match ring with | some rc => decide (rc.esize = b.w) | none => true)

/-- The ring that BININIT looks at, without the checks of ENQ and DEQ. -/
def State.initRing (s : State) (v : View) (b : Bin) : State × Except Raise (Option Rcb) :=
  if b.ovfl = 0 then (s, .ok none)
  else
    let r := s.ringAt v b.ovfl 6 false
    match r.2 with
    | .error e => (r.1, .error e)
    | .ok (.err c i, _) => (r.1, .error { cause := c, addr := b.ovfl, info := BitVec.ofNat 64 i })
    | .ok (t, rc) => (r.1.accountOne v t b.ovfl, .ok (some rc))

def bininitBody (sl : Slot) (s : State) (x : Group) : Effect :=
  let a := s.ssrc x sl sl.a
  binOpen a true s x fun s v t b =>
    if ¬ b.valid none then syncTrap s 0x11 a
    else
      let u := s.initRing v b
      match u.2 with
      | .error e => .trap u.1 e none
      | .ok rc =>
        if ¬ b.valid rc then syncTrap u.1 0x11 a
        else mapsRun u.1 v b true true fun s o w =>
          .done ((s.binSet v t a { b with init := true, suspn := 0, resn := 0 } o w 0 0).binAcq v t) []

def execBininit (sl : Slot) : State → Host.Outcome State Fault Refusal :=
  runSlot (fBininit sl) .blocking sl (bininitBody sl)

/-! ### SUSP (R181) -/

/-- The frame registers of a bin instruction lie within the allotment (R181). -/
def frameBad (x : Group) (code : BitVec 10) (n : Nat) : Bool :=
  rangeBad x.gran x.scount x.trapMode .v code.toNat n

/-- ILLEGAL_OPERAND with REASON 5 on field B. -/
def frameTrap (s : State) (sl : Slot) : Effect :=
  .trap s { cause := 2, info := decInfo 5 (2 * 2 ^ 10 + sl.b.toNat) } none

/-- The uses of the registers of a frame: W of them from the code in field B. -/
def frameUses (x : Group) (sl : Slot) (w : Nat) : List (Nat × BitVec 10 × RegRef) :=
  (List.range w).map fun i => (2, sl.b, vPlace x.trapMode (sl.b.toNat + i))

/-- Check 4 of R179 on the frame registers, which W gives: they lie within the allotment, pass check mode, and have no
pending result; a slot that interlocks does not issue (R87 to R89, R181, R182). -/
def frameRun (sl : Slot) (s : State) (x : Group) (w : Nat) (f : Effect) : Effect :=
  let wg := s.wgD x.wg
  if frameBad x sl.b w then frameTrap s sl
  else
    match checkUses x (s.ctxD wg.fn wg.ctx).checkMode sl (frameUses x sl w) with
    | some i => .trap s { cause := 5, info := i } none
    | none => if x.pending (frameUses x sl w) then s.stalled x else f

/-- The registers of lane `L` that a frame holds. -/
def State.frameRegs (s : State) (x : Group) (code : BitVec 10) (w L : Nat) : List Nat :=
  (List.range w).map fun i => (lane (s.vreg x code i) L).toNat

/-- Performs an SUSP whose rows and elements are checked. -/
def State.suspend (s : State) (v : View) (x : Group) (sl : Slot) (b : Bin) (ls : List Nat)
    (rows : List (List Piece)) (ring : Option (Target × Rcb)) (elems : List (List Piece)) : State :=
  let s1 := ((ls.take rows.length).zip rows).foldl
    (fun t p => t.writeAll v 8 5 true (p.2.zip (s.frameRegs x sl.b b.w p.1))) s
  let s2 := ((ls.drop rows.length).zip elems).foldl
    (fun t p => t.writeAll v 8 6 true (p.2.zip (s.frameRegs x sl.b b.w p.1))) s1
  match ring with
  | some (t, rc) => if elems = [] then s2 else s2.ringIndex v t b.ovfl 0 (rc.pidx + elems.length)
  | none => s2

def suspBody (sl : Slot) (s : State) (x : Group) : Effect :=
  let a := s.ssrc x sl sl.a
  let m := x.sel sl
  let ls := lanesOf m
  binRun a (decide (ls ≠ [])) s x fun s v t b =>
    frameRun sl s x b.w <| mapsRun s v b (decide (ls ≠ [])) (decide (ls ≠ [])) fun s o w =>
      let free := (List.range b.cap).filter fun r => !o.m.testBit r
      let take := free.take ls.length
      let extra := ls.length - take.length
      let r := s.binRows v b true (take.zip ls)
      match r.2 with
      | .error e => .trap r.1 e none
      | .ok rows =>
        let q : State × Except Raise (Option (Target × Rcb)) :=
          if extra = 0 then (r.1, .ok none) else r.1.binRing v b true
        match q.2 with
        | .error e => .trap q.1 e none
        | .ok ring =>
          let room := match ring with | some (_, rc) => rc.cap - rc.count | none => 0
          if room < extra then .trap q.1 { cause := 18, addr := a } none
          else
            let u : State × Except Raise (List (List Piece)) :=
              match ring with | some (_, rc) => q.1.ringElems v rc true rc.pidx extra | none => (q.1, .ok [])
            match u.2 with
            | .error e => .trap u.1 e none
            | .ok elems =>
              match firstErr (rows.flatten ++ elems.flatten) with
              | some e => u.1.binLate v e
              | none =>
                let s1 := (u.1.account v true true (rows.flatten ++ elems.flatten)).suspend v x sl b ls rows ring elems
                let s2 := if ls = [] then s1 else
                  s1.binSet v t a { b with suspn := b.suspn + ls.length } o w (o.m ||| bitsOf take) w.m
                .done ((s2.updGrp s.cur fun y => y.retireLanes m).binAcq v t)
                  (scaOut x.trapMode sl.d 0 (BitVec.ofNat 64 ls.length))

def execSusp (sl : Slot) : State → Host.Outcome State Fault Refusal := runSlot (fSusp sl) .var sl (suspBody sl)

/-! ### RESUME (R182) -/

/-- Moves the words of elements into rows. -/
def State.drainTo (s : State) (v : View) : List (List Piece × List Piece) → State
  | [] => s
  | (e, r) :: t =>
    let q := s.readNeed v 8 6 e
    (q.1.writeAll v 8 5 true (r.zip q.2)).drainTo v t

/-- Reads rows one after another. -/
def State.readRows (s : State) (v : View) : List (List Piece) → State × List (List Nat)
  | [] => (s, [])
  | r :: t =>
    let q := s.readNeed v 8 5 r
    let u := q.1.readRows v t
    (u.1, q.2 :: u.2)

/-- The checked plan of a RESUME: rows and elements of the drain, and the rows taken. -/
structure Resume where
  drainRows : List (List Piece)
  elems : List (List Piece)
  rows : List (List Piece)
  ring : Option (Target × Rcb)
  /-- bitmaps after the drain, and the rows taken -/
  om : Nat
  wm : Nat
  taken : List Nat

/-- Performs a RESUME up to the transfer (R182). -/
def State.resume (s : State) (v : View) (x : Group) (sl : Slot) (t : Target) (a : Word) (b : Bin) (o w : BitMap)
    (p : Resume) : State × List RegWrite :=
  let s1 := s.drainTo v (p.elems.zip p.drainRows)
  let s2 := match p.ring with
    | some (rt, rc) => if p.elems = [] then s1 else s1.ringIndex v rt b.ovfl 8 (rc.cidx + p.elems.length)
    | none => s1
  let q := s2.readRows v p.rows
  let k := p.taken.length
  let m : Mask := BitVec.ofNat 32 (2 ^ k - 1)
  let gone := bitsOf p.taken
  let s3 := q.1.binSet v t a { b with resn := b.resn + k } o w (andNot p.om gone) (andNot p.wm gone)
  let s4 := (s3.updGrp v.grp fun y => { y with live := m, act := m }).binAcq v t
  (s4, ((List.range b.w).flatMap fun i =>
      vecOut x.trapMode sl.b i m (vecOf fun L => BitVec.ofNat 64 ((q.2.getD L []).getD i 0)))
    ++ scaOut x.trapMode sl.d 0 (BitVec.ofNat 64 k))

/-- Asks peers for rows or elements, by accesses of some KIND. -/
def State.askRows (s : State) (v : View) (kind : Nat) : List (List Piece) → State × List (List Piece)
  | [] => (s, [])
  | r :: t =>
    let q := s.askAll v 8 kind r
    let u := q.1.askRows v kind t
    (u.1, q.2 :: u.2)

/-- Plans a RESUME: what the ring gives, which rows wake, and every address checked. -/
def State.resumePlan (s : State) (v : View) (b : Bin) (o w : BitMap) : State × Except Raise Resume :=
  let q0 := s.binRing v b false
  let free := (List.range b.cap).filter fun r => !o.m.testBit r
  let n := match q0.2 with | .ok (some (_, rc)) => min free.length rc.count | _ => 0
  let q := if n = 0 then q0 else q0.1.binRing v b true
  match q.2 with
  | .error e => (q.1, .error e)
  | .ok ring =>
    let into := free.take n
    let om := o.m ||| bitsOf into
    let wm := if b.ovwake then w.m ||| bitsOf into else andNot w.m (bitsOf into)
    let taken := (rowsOf b.cap (om &&& wm)).take 32
    let u := q.1.binRows v b true (into.map fun r => (r, 0))
    match u.2 with
    | .error e => (u.1, .error e)
    | .ok dr =>
      let y := u.1.binRows v b false taken.zipIdx
      match y.2 with
      | .error e => (y.1, .error e)
      | .ok rows =>
        let z : State × Except Raise (List (List Piece)) :=
          match ring with | some (_, rc) => y.1.ringElems v rc false rc.cidx n | none => (y.1, .ok [])
        match z.2 with
        | .error e => (z.1, .error e)
        | .ok el =>
          let k := (z.1.account v true false (dr.flatten ++ rows.flatten ++ el.flatten)).askRows v 5 rows
          let j := k.1.askRows v 6 el
          (j.1, .ok { drainRows := dr, elems := j.2, rows := k.2, ring := ring, om := om, wm := wm, taken := taken })

/-- A continuation whose fetch must be held before any row is taken; other failures come after. -/
def State.contHeld (s : State) (g : Nat) (c : Context) (k : Nat) (cont : Word) : State × Option Raise :=
  if k = 0 ∨ cont = 0 then (s, none)
  else
    let r := s.target g cont
    match r.2 with
    | .error (e, _) => (r.1, if heldCause c e then some e else none)
    | .ok _ => (r.1, none)

def resumeBody (sl : Slot) (s : State) (x : Group) : Effect :=
  let a := s.ssrc x sl sl.a
  if x.live ≠ 0 ∨ x.mstk ≠ [] then syncTrap s 0x12 a
  else binRun a true s x fun s v t b =>
    frameRun sl s x b.w <| mapsRun s v b true true fun s o w =>
      let p := s.resumePlan v b o w
      match p.2 with
      | .error e => .trap p.1 e none
      | .ok p' =>
        match firstErr (p'.drainRows.flatten ++ p'.rows.flatten ++ p'.elems.flatten) with
        | some e => p.1.binLate v e
        | none =>
          let c := p.1.contHeld s.cur (s.ctxD v.fn v.ctx) p'.taken.length b.cont
          match c.2 with
          | some e => .trap c.1 e none
          | none =>
            let r := c.1.resume v x sl t a b o w p'
            if p'.taken = [] ∨ b.cont = 0 then .done r.1 r.2
            else
              let s1 := (r.1.writeNow s.cur r.2).updGrp s.cur fun y =>
                (y.setTok sl.tset none).watch none true sl.tset.toNat (r.2.map RegWrite.ref)
              s1.jumpTo s.cur b.cont id

def execResume (sl : Slot) : State → Host.Outcome State Fault Refusal :=
  runSlot (fResume sl) .blocking sl (resumeBody sl)

/-! ### WAKE, BINQ and BINDROP (R183, R184, R186) -/

/-- The rows r0 + j of the set bits j of a 32-bit mask. -/
def maskRows (r0 m : Nat) : List Nat := ((List.range 32).filter fun j => m.testBit j).map (r0 + ·)

/-- Wakes rows: bits of rows not occupied or at or above CAP are ignored (R183). -/
def State.wake (s : State) (v : View) (t : Target) (a : Word) (b : Bin) (o w : BitMap) (rs : List Nat) : State :=
  s.binSet v t a b o w o.m (w.m ||| bitsOf (rs.filter fun r => decide (r < b.cap)))

/-- The rows that an instruction with a base and a mask names, or the trap of a misaligned base (R183). -/
def rowsRun (sl : Slot) (a : Word) (s : State) (x : Group) (f : List Nat → Effect) : Effect :=
  let r0 := (s.ssrc x sl sl.b).toNat
  if r0 % 32 ≠ 0 then syncTrap s 0x13 a
  else f (maskRows r0 ((s.ssrc x sl sl.c).toNat % 2 ^ 32))

def wakeRowsBody (sl : Slot) (s : State) (x : Group) : Effect :=
  let a := s.ssrc x sl sl.a
  binRun a true s x fun s v t b =>
    rowsRun sl a s x fun rs => mapsRun s v b false true fun s o w => .done ((s.wake v t a b o w rs).binAcq v t) []

def execWakeRows (sl : Slot) : State → Host.Outcome State Fault Refusal := runSlot (fWakeRows sl) .none sl (wakeRowsBody sl)

def wakeLanesBody (sl : Slot) (s : State) (x : Group) : Effect :=
  let y := s.vsrc x sl 64 sl.b
  let a := s.ssrc x sl sl.a
  binRun a true s x fun s v t b => mapsRun s v b false true fun s o w =>
    .done ((s.wake v t a b o w ((lanesOf (x.sel sl)).map fun L => (lane y L).toNat % 2 ^ 32)).binAcq v t) []

def execWakeLanes (sl : Slot) : State → Host.Outcome State Fault Refusal := runSlot (fWakeLanes sl) .none sl (wakeLanesBody sl)

def wakeAllBody (sl : Slot) (s : State) (x : Group) : Effect :=
  let a := s.ssrc x sl sl.a
  binRun a true s x fun s v t b => mapsRun s v b false true fun s o w =>
    .done ((s.wake v t a b o w (rowsOf b.cap o.m)).binAcq v t) []

def execWakeAll (sl : Slot) : State → Host.Outcome State Fault Refusal := runSlot (fWakeAll sl) .none sl (wakeAllBody sl)

def binqBody (sl : Slot) (s : State) (x : Group) : Effect :=
  binRun (s.ssrc x sl sl.a) false s x fun s v t b =>
    let out (s : State) (n : Nat) : Effect := .done (s.binAcq v t) (scaOut x.trapMode sl.d 0 (BitVec.ofNat 64 n))
    match subN sl with
    | 0 => out s b.occ
    | 1 => out s b.woken
    | _ =>
      let r := s.binRing v b false
      match r.2 with
      | .error e => .trap r.1 e none
      | .ok (some (_, rc)) => out r.1 rc.count
      | .ok none => out r.1 0

def execBinq (sl : Slot) : State → Host.Outcome State Fault Refusal := runSlot (fBinq sl) .var sl (binqBody sl)

/-- Discards rows. -/
def State.drop (s : State) (v : View) (t : Target) (a : Word) (b : Bin) (o w : BitMap) (rs : List Nat) : State :=
  let gone := bitsOf (rs.filter fun r => decide (r < b.cap))
  s.binSet v t a b o w (andNot o.m gone) (andNot w.m gone)

def bindropRowsBody (sl : Slot) (s : State) (x : Group) : Effect :=
  let a := s.ssrc x sl sl.a
  binRun a true s x fun s v t b =>
    rowsRun sl a s x fun rs => mapsRun s v b true true fun s o w => .done ((s.drop v t a b o w rs).binAcq v t) []

def execBindropRows (sl : Slot) : State → Host.Outcome State Fault Refusal :=
  runSlot (fBindropRows sl) .none sl (bindropRowsBody sl)

def bindropSetBody (sl : Slot) (s : State) (x : Group) : Effect :=
  let a := s.ssrc x sl sl.a
  binRun a true s x fun s v t b => mapsRun s v b true true fun s o w =>
    if sl.sub = 1 then .done ((s.drop v t a b o w (rowsOf b.cap (o.m &&& w.m))).binAcq v t) []
    else
      let r := s.binRing v b true
      match r.2 with
      | .error e => .trap r.1 e none
      | .ok ring =>
        let s1 := match ring with | some (rt, rc) => r.1.ringIndex v rt b.ovfl 8 rc.pidx | none => r.1
        .done ((s1.drop v t a b o w (List.range b.cap)).binAcq v t) []

def execBindropSet (sl : Slot) : State → Host.Outcome State Fault Refusal :=
  runSlot (fBindropSet sl) .none sl (bindropSetBody sl)

/-! ### FXFORM (R185) -/

/-- The operand of FXFORM, replicated by code 0x275. -/
def fxOperand (sl : Slot) (s : State) (x : Group) (w : Nat) : Word :=
  if kindD sl.b = .rep then (if w = 64 then immW sl else ofSubs w fun _ => sl.imm.toNat) else s.ssrc x sl sl.b

/-- One element of a transformation, as the matching vector instruction computes it (R185). -/
def fxElem (sl : Slot) (satf : Bool) (a y : Nat) : Nat :=
  let f := redFmt sl
  match subN sl, f with
  | 8, _ => y
  | 5, _ => a &&& y
  | 6, _ => a ||| y
  | 7, _ => a ^^^ y
  | op, .int w sgn =>
    match op with
    | 0 => wrapOrSat (sl.md.getLsbD 0) w sgn (rd w sgn a + rd w sgn y)
    | 1 => wrapOrSat (sl.md.getLsbD 0) w sgn (rd w sgn a - rd w sgn y)
    | 2 => wrapOrSat (sl.md.getLsbD 0) w sgn (rd w sgn a * rd w sgn y)
    | 3 => atomPick f satf false a y
    | _ => atomPick f satf true a y
  | op, f =>
    let u := decode f a
    let v := decode f y
    match op with
    | 0 => encode f (modRnd sl) satf (FVal.add (modRnd sl) u v)
    | 1 => encode f (modRnd sl) satf (FVal.add (modRnd sl) u v.negate)
    | 2 => encode f (modRnd sl) satf (FVal.mul u v)
    | 3 => if f.isTap then atomPick f satf false a y else encode f 0 satf (FVal.minNum false u v)
    | _ => if f.isTap then atomPick f satf true a y else encode f 0 satf (FVal.maxNum false u v)

/-- One 64-bit value of the column, element by element. -/
def fxWord (sl : Slot) (satf : Bool) (y : Word) (a : Nat) : Nat :=
  let w := fmtW sl
  (ofSubs w fun k => fxElem sl satf (sub w k (BitVec.ofNat 64 a)) (sub w k y)).toNat

/-- Transforms the occupied rows and the ring's elements of column `c`; the FRM operation is done at once. A row or element
that meets an error response is skipped, and every later one is still transformed: R185 says only that those already done
stay so (DESIGN CHOICE, assumption log 72). -/
def fxformBody (sl : Slot) (s : State) (x : Group) : Effect :=
  let a := s.ssrc x sl sl.a
  let c := (s.ssrc x sl sl.c).toNat
  let y := fxOperand sl s x (fmtW sl)
  binRun a false s x fun s v t b =>
    if b.w ≤ c then syncTrap s 0x14 a
    else
      let r := s.readMap v b b.occaddr false
      match r.2 with
      | .error e => .trap r.1 e none
      | .ok o =>
        let q := r.1.binRows v b true ((rowsOf b.cap o.m).map fun n => (n, 0))
        match q.2 with
        | .error e => .trap q.1 e none
        | .ok rows =>
          let u := q.1.binRing v b false
          match u.2 with
          | .error e => .trap u.1 e none
          | .ok ring =>
            let z : State × Except Raise (List (List Piece)) := match ring with
              | some (_, rc) => u.1.ringElems v rc true rc.cidx rc.count
              | none => (u.1, .ok [])
            match z.2 with
            | .error e => .trap z.1 e none
            | .ok el =>
              let f := rows.filterMap fun e => e[c]?
              let g := el.filterMap fun e => e[c]?
              let k := (z.1.account v true false (o.ps ++ f ++ g)).askAll v 8 5 f
              let j := k.1.askAll v 8 6 g
              let done := (j.1.rmwNeed v 8 5 (fun _ old => fxWord sl x.satf y old) k.2).rmwNeed v 8 6 (fun _ old => fxWord sl x.satf y old) j.2
              .done ((done.binAcq v t).lateErr v (o.ps ++ k.2 ++ j.2)) []

def execFxform (sl : Slot) : State → Host.Outcome State Fault Refusal := runSlot (fFxform sl) .none sl (fxformBody sl)

end Sys2Proof.Machine
end

