-- ==== Sys2Proof/Machine/Matrix.lean ====
section
/-! DEFINITION. The matrix engine: accumulator tiles, operands in scratchpad, the engine queues, and the meanings
of the instructions 0xE0 to 0xEA and of the engine's own steps (R219 to R237). -/

namespace Sys2Proof.Machine

/-! ### Checks without translation (steps 1 to 4 of R193) -/

/-- Steps 1 to 4 of R193 on one access whose spaces are `ok`; the spaces 0x0, 0x1, 0x3 and 0x4 outside it give
PERMIT_FAULT with REASON 2. -/
def State.preCheck (s : State) (v : View) (ok : List Nat) (a : Word) (n al kind ln : Nat) : Option Raise :=
  let sp := spaceOf a
  let bad (c : BitVec 8) (r : Nat) : Option Raise :=
    some { cause := c, addr := a, info := BitVec.ofNat 64 (r * 2 ^ 32 + kind * 32 + ln) }
  if a.toNat % al ≠ 0 then bad 11 0
  else if (sp = 0 ∨ sp = 4) ∧ bits a 59 52 ≠ 0 then bad 4 0
  else if sp = 3 ∧ bits a 59 12 ≠ 0 then bad 4 0
  else if sp ≠ 0 ∧ sp ≠ 1 ∧ sp ≠ 3 ∧ sp ≠ 4 then bad 4 0
  else if ¬ ok.contains sp then bad 9 2
  else if sp = 1 ∧ (s.wgD v.wg).wb < bits a 59 0 + n then bad 7 0
  else none

/-- Bytes of a space from an address up to its end: the window's, or the 52 address bits'. -/
def State.spaceLeft (s : State) (v : View) (a : Word) : Nat :=
  if spaceOf a = 1 then (s.wgD v.wg).wb - bits a 59 0 else 2 ^ 52 - bits a 51 0

/-- Steps 1 to 4 over a range of `n` bytes, whose first address a failure names (R191, R193; assumption log 19). -/
def State.preRange (s : State) (v : View) (ok : List Nat) (a : Word) (n kind ln : Nat) : Option Raise :=
  match s.preCheck v ok a (min n 8) 8 kind ln with
  | some e => some e
  | none =>
    if n ≤ s.spaceLeft v a then none
    else some { cause := if spaceOf a = 1 then 7 else 4, addr := a, info := BitVec.ofNat 64 (kind * 32 + ln) }

/-- The first failure in a list of checks. -/
def firstBad {α : Type} (f : α → Option Raise) : List α → Option Raise
  | [] => none
  | x :: t => match f x with | some e => some e | none => firstBad f t

/-! ### Traps that an engine delivers (Table 9.6) -/

/-- TRAPINFO of Table 9.6. -/
def engInfo (opc : BitVec 8) (tile reason : Nat) : Word :=
  BitVec.ofNat 64 (opc.toNat + tile % 128 * 2 ^ 8 + 2 ^ 16 + reason * 2 ^ 32)

/-- REASON of a fault that an engine met: that of a SYNC_ILLEGAL, and REASON and LEVEL of an INTEGRITY (Tables 9.6,
22.3; assumption log 73). -/
def engReason (e : Raise) : Nat := if e.cause = 19 ∨ e.cause = 13 then bits e.info 39 32 else 0

/-- A delayed trap from an engine to its group (R237, R243, R444). -/
def State.engineTrap (s : State) (grp fn ctx : Nat) (opc : BitVec 8) (tile reason : Nat) (cause : BitVec 8)
    (addr : Word) : State :=
  s.late grp fn ctx { cause := cause, addr := addr, info := engInfo opc tile reason } true

/-! ### Shapes (Tables 9.2, 9.3) -/

/-- Columns of a tile kind. -/
def kindCols (k : Nat) : Nat := match k with | 2 => 32 | 3 => 16 | _ => 64

/-- Bytes of an element image of a tile kind. -/
def kindBytes (k : Nat) : Nat := match k with | 1 => 16 | 2 => 32 | 3 => 64 | _ => 4

/-- The tapered width that a quire kind serves. -/
def kindTap (k : Nat) : Nat := match k with | 1 => 8 | 2 => 16 | _ => 32

/-- The tile kind that a multiply's type requires. -/
def typeKind (code : Nat) : Nat :=
  match code with | 0 => 4 | 1 => 4 | 8 => 1 | 14 => 1 | 9 => 2 | 12 => 2 | _ => 3

/-- K of a dense or sparse multiply, and the bytes of one element of A. -/
def typeK (code : Nat) : Nat := match code with | 9 => 32 | 12 => 32 | 10 => 16 | _ => 64
def typeSz (code : Nat) : Nat := match code with | 9 => 2 | 12 => 2 | 10 => 4 | _ => 1

/-- The value of an element pattern by type code (R227). -/
def matVal (code p : Nat) : FVal :=
  match code with | 9 => decTap 16 p | 12 => b16Operand p | 10 => decTap 32 p | _ => decTap 8 p

/-! ### Rounding into a quire (R224, R230) -/

/-- Clamps a magnitude to 2^hi and up to 2^−F, and rounds it to a multiple of 2^−F with ties to even. -/
def quireAddend (F hi : Nat) (v : FVal) : FVal :=
  match v with
  | .fin neg m e =>
    if m = 0 then FVal.zero
    else
      let t : Int := (m.log2 : Int) + e
      if (hi : Int) ≤ t then .fin neg 1 hi
      else if t < -(F : Int) then .fin neg 1 (-(F : Int))
      else .fin neg (roundMag 0 neg m (e + F)) (-(F : Int))
  | _ => .nan

/-! ### Operands in the window (R223 to R225) -/

/-- A stride of an operand: 0 means the packed one. -/
def stride (x d : Nat) : Nat := if x = 0 then d else x

/-- The elements of one dense row or column. -/
def State.denseRow (s : State) (wg : Nat) (a : Word) (st i k sz : Nat) : List (Option Nat) :=
  (List.range k).map fun j => some (s.rd (winLoc wg (bits a 59 0 + i * st + j * sz)) sz)

/-- The 256 digits of one column of t2. -/
def State.digitRow (s : State) (wg : Nat) (a : Word) (st i : Nat) : List (Option Nat) :=
  (List.range 256).map fun j =>
    some ((s.rdByte (winLoc wg (bits a 59 0 + i * st + j / 4))).toNat / 4 ^ (j % 4) % 4)

/-- The bitmap of a sparse record. -/
def State.recMap (s : State) (wg : Nat) (a : Word) (st i : Nat) : Nat :=
  s.rd (winLoc wg (bits a 59 0 + i * st)) 8

/-- The elements of one sparse record: none where absent (R225). -/
def State.sparseRow (s : State) (wg : Nat) (a : Word) (st i k sz : Nat) : List (Option Nat) :=
  let m := s.recMap wg a st i
  (List.range k).map fun j =>
    if m.testBit j then some (s.rd (winLoc wg (bits a 59 0 + i * st + 8 + popc j (m % 2 ^ j) * sz)) sz) else none

/-- Checks a range of the window for an operand: `n` bytes at row `i`. -/
def State.opndCheck (s : State) (v : View) (a : Word) (st n kind : Nat) (i ln : Nat) : Option Raise :=
  s.preRange v [1] (a + BitVec.ofNat 64 (i * st)) n kind ln

/-- An operand's rows, `n i` bytes each; a stride that is no multiple of 8 is misaligned at its base. -/
def State.opndRows (s : State) (v : View) (a : Word) (st : Nat) (n : Nat → Nat) (kind : Nat) (lanes : Bool)
    (is : List Nat) : Option Raise :=
  if st % 8 ≠ 0 ∧ is ≠ [] then some { cause := 11, addr := a, info := BitVec.ofNat 64 (kind * 32) }
  else firstBad (fun i => s.opndCheck v a st (n i) kind i (if lanes then i else 0)) is

/-- A sparse operand: record by record, the bitmap and then the present elements. The bitmap is that in the window at issue,
whatever an earlier queued SPPACK or a racing store still makes of it: R237 does not say which one decides (DESIGN CHOICE,
assumption log 72). -/
def State.sparseCheck (s : State) (v : View) (a : Word) (st k sz : Nat) (lanes : Bool) (is : List Nat) :
    Option Raise :=
  if st % 8 ≠ 0 ∧ is ≠ [] then some { cause := 11, addr := a }
  else firstBad (fun i =>
    let ln := if lanes then i else 0
    (s.opndCheck v a st 8 0 i ln).orElse fun _ =>
      s.opndCheck v a st (8 + popc k (s.recMap v.wg a st i % 2 ^ k) * sz) 0 i ln) is

/-- `.sb`, `.xb` and the sparse forms by opcode. -/
def isSparse (opc : BitVec 8) : Bool := decide (opc = 0xE1)

/-- Strides of A and B of a multiply (R223, R225). -/
def MatOp.lda (o : MatOp) : Nat :=
  stride (bits o.c 31 0) (if isSparse o.opc then 72 else if o.opc = 0xE2 then 256 else typeK (tyCode o.sl) * typeSz (tyCode o.sl))
def MatOp.ldb (o : MatOp) : Nat :=
  stride (bits o.c 63 32)
    (if isSparse o.opc && o.sl.md.getLsbD 1 then 72
     else if o.opc = 0xE2 then 64 else typeK (tyCode o.sl) * typeSz (tyCode o.sl))

/-- Bytes of one dense row of A and one column of B. -/
def MatOp.aBytes (o : MatOp) : Nat := if o.opc = 0xE2 then 256 else typeK (tyCode o.sl) * typeSz (tyCode o.sl)
def MatOp.bBytes (o : MatOp) : Nat := if o.opc = 0xE2 then 64 else typeK (tyCode o.sl) * typeSz (tyCode o.sl)

/-- The columns of a multiply's tile. -/
def MatOp.cols (o : MatOp) : Nat := kindCols (typeKind (tyCode o.sl))

/-- The address of a scale table. -/
def scaleBase (x : Nat) : Word := BitVec.ofNat 64 (2 ^ 60 + x)

/-- The checks of a multiply at issue (R237): A's rows, B's columns, the scale tables, two bytes for each of A's 32
rows and of B's 64 columns (R224). -/
def State.mulCheck (s : State) (v : View) (o : MatOp) : Option Raise :=
  let rs := lanesOf o.rows
  let ns := List.range o.cols
  let k := typeK (tyCode o.sl)
  let sz := typeSz (tyCode o.sl)
  let a := if isSparse o.opc then s.sparseCheck v o.a o.lda k sz true rs
           else s.opndRows v o.a o.lda (fun _ => o.aBytes) 0 true rs
  let b := if isSparse o.opc && o.sl.md.getLsbD 1 then s.sparseCheck v o.b o.ldb k sz false ns
           else s.opndRows v o.b o.ldb (fun _ => o.bBytes) 0 false ns
  let sc := if tyCode o.sl = 14 then
      (s.preRange v [1] (scaleBase (bits o.e 31 0)) 64 0 0).orElse fun _ =>
        s.preRange v [1] (scaleBase (bits o.e 63 32)) 128 0 0
    else none
  if rs = [] then none else a.orElse fun _ => b.orElse fun _ => sc

/-- Records of SPPACK: the rows of the selected lanes, or all columns. -/
def MatOp.packs (o : MatOp) : List Nat :=
  if o.sl.sub = 0 then lanesOf o.rows else List.range (kindCols (typeKind (tyCode o.sl)))

/-- The checks of SPPACK at issue: the strides, then per record its source and its place (R193, R237). -/
def State.packCheck (s : State) (v : View) (o : MatOp) : Option Raise :=
  let n := typeK (tyCode o.sl) * typeSz (tyCode o.sl)
  let src := stride (bits o.c 63 32) n
  let dst := stride (bits o.c 31 0) 72
  if src % 8 ≠ 0 then s.opndRows v o.b src (fun _ => n) 0 true o.packs
  else if dst % 8 ≠ 0 then s.opndRows v o.a dst (fun _ => 8 + n) 1 true o.packs
  else firstBad (fun i =>
    let ln := if o.sl.sub = 0 then i else 0
    (s.opndCheck v o.b src n 0 i ln).orElse fun _ => s.opndCheck v o.a dst (8 + n) 1 i ln) o.packs

/-! ### Tiles -/

def State.tileOf (s : State) (wg t : Nat) : Tile := tval {} (s.wgD wg).tile t
def State.setTile (s : State) (wg t : Nat) (x : Tile) : State :=
  s.updWg wg fun w => { w with tile := tput w.tile t x }
def Elem.zero : Elem := { q := 0, c := 0 }
def Tile.el (t : Tile) (r n : Nat) : Elem := tval Elem.zero t.elems (64 * r + n)
def Tile.setEl (t : Tile) (r n : Nat) (e : Elem) : Tile := { t with elems := tset Elem.zero t.elems (64 * r + n) e }

/-- The element of a quire tile that takes addends. -/
def quireAdd (k : Nat) (e : Elem) (vs : List FVal) : Elem :=
  let n := kindTap k
  let r := vs.foldl (fun (acc : Nat × Nat) v => accumulate (quireW n) (quireF n) acc.1 acc.2 v) (e.q, e.c)
  { q := r.1, c := r.2 }

/-- The products of an element: both factors present (R227). -/
def pairsOf (a b : List (Option Nat)) : List (Nat × Nat × Nat) :=
  ((a.zip b).zipIdx).filterMap fun p =>
    match p.1 with
    | (some x, some y) => some (p.2, x, y)
    | _ => none

/-- The integer value of an A or B element of an i32 multiply. -/
def MatOp.aInt (o : MatOp) (p : Nat) : Int := rd 8 (decide (tyCode o.sl = 0)) p
def MatOp.bInt (o : MatOp) (p : Nat) : Int :=
  if o.opc = 0xE2 then decT2 p else rd 8 (decide (tyCode o.sl = 0) != o.sl.md.getLsbD 0) p

/-- The products of an st8 multiply are scaled, clamped and rounded (R224). -/
def State.st8Addend (s : State) (o : MatOp) (r n k x y : Nat) : FVal :=
  let sa := (s.rdByte (winLoc o.wg (bits o.e 31 0 + 2 * r + k / 32))).toNat
  let sb := (s.rdByte (winLoc o.wg (bits o.e 63 32 + 2 * n + k / 32))).toNat
  quireAddend 48 48 (FVal.mul (st8Value sa x) (st8Value sb y))

/-- One element after a multiply: the new element, and whether it was clamped. -/
def State.mulElem (s : State) (o : MatOp) (r n : Nat) (ps : List (Nat × Nat × Nat)) (e : Elem) : Elem × Bool :=
  let code := tyCode o.sl
  if typeKind code = 4 then
    let v := signed 32 e.q + (ps.map fun p => o.aInt p.2.1 * o.bInt p.2.2).sum
    let c := clampI 32 true v
    ({ q := wrap 32 c, c := 0 }, decide (c ≠ v))
  else if code = 14 then (quireAdd 1 e (ps.map fun p => s.st8Addend o r n p.1 p.2.1 p.2.2), false)
  else (quireAdd (typeKind code) e (ps.map fun p => FVal.mul (matVal code p.2.1) (matVal code p.2.2)), false)

/-- Performs a multiply (R227). -/
def State.multiply (s : State) (o : MatOp) : State :=
  let t := tileN o.sl
  let k := typeK (tyCode o.sl)
  let sz := typeSz (tyCode o.sl)
  let cols := (List.range o.cols).map fun n =>
    if o.opc = 0xE2 then s.digitRow o.wg o.b o.ldb n
    else if isSparse o.opc && o.sl.md.getLsbD 1 then s.sparseRow o.wg o.b o.ldb n k sz
    else s.denseRow o.wg o.b o.ldb n k sz
  let tile := (lanesOf o.rows).foldl (fun (acc : Tile) r =>
    let a := if isSparse o.opc then s.sparseRow o.wg o.a o.lda r k sz
             else s.denseRow o.wg o.a o.lda r (if o.opc = 0xE2 then 256 else k) sz
    cols.zipIdx.foldl (fun (u : Tile) c =>
      let e := s.mulElem o r c.2 (pairsOf a c.1) (u.el r c.2)
      { u.setEl r c.2 e.1 with sat := u.sat || e.2 }) acc) (s.tileOf o.wg t)
  if o.rows = 0 then s else s.setTile o.wg t tile

/-- Performs SPPACK (R232), one record after another: where the ranges overlap, a later record reads what an earlier one
wrote (assumption log 72). -/
def State.pack (s : State) (o : MatOp) : State :=
  let k := typeK (tyCode o.sl)
  let sz := typeSz (tyCode o.sl)
  o.packs.foldl (fun t i =>
    let xs := (t.denseRow o.wg o.b (stride (bits o.c 63 32) (k * sz)) i k sz).map fun x => x.getD 0
    let m := bitsOf ((List.range k).filter fun j => decide (xs.getD j 0 ≠ 0))
    let vs := (xs.filter fun x => decide (x ≠ 0)).flatMap (toBytes sz)
    let loc := winLoc o.wg (bits o.a 59 0 + i * stride (bits o.c 31 0) 72)
    t.wrBytes loc (toBytes 8 m ++ vs ++ List.replicate (k * sz - vs.length) 0)) s

/-! ### Reading out and writing in (R228 to R230) -/

/-- The output format, rounding mode and scale of ACCST and ACCRD. -/
def MatOp.out (o : MatOp) : Fmt × Nat × Int :=
  if tyIsFmt o.sl then (fmtD (bits o.fmt 11 8), bits o.fmt 13 12, signed 8 (bits o.fmt 39 32))
  else (fmtD (tyCode o.sl), modRnd o.sl, 0)

/-- The value of an element by its tile's kind. -/
def elemVal (kind : Nat) (e : Elem) : FVal :=
  if kind = 4 then FVal.ofInt (signed 32 e.q) else quireVal (quireW (kindTap kind)) (quireF (kindTap kind)) e.q

/-- The rounded output of an element (R229). -/
def MatOp.round (o : MatOp) (kind : Nat) (e : Elem) : Nat :=
  let f := o.out
  encode f.1 f.2.1 (o.fmt.getLsbD 40) ((elemVal kind e).scale f.2.2)

/-- The element that ACCWR or ACCLD leaves: a quire image with its count (R61). -/
def quireElem (kind q : Nat) : Elem := { q := q, c := quireCount (kindTap kind) q }

/-- The element that an ACCWR input gives (R230). -/
def MatOp.input (o : MatOp) (kind p : Nat) : Elem :=
  let f := fmtD (tyCode o.sl)
  if kind = 4 then { q := wrap 32 (signed f.width p), c := 0 }
  else
    let n := kindTap kind
    match quireAddend (quireF n) (8 * (n - 2)) (decode f p) with
    | .fin neg m e => quireElem kind (wrap (quireW n) (toFixed (quireF n) (.fin neg m e)))
    | _ => quireElem kind (quireNaR (quireW n))

/-- Elements that one ACCRD or ACCWR moves in a row (R230). -/
def MatOp.span (o : MatOp) : Nat := 2 ^ modPart o.sl * (64 / o.out.1.width)

/-- The register values of an ACCRD. -/
def State.readOut (s : State) (o : MatOp) : List Vec :=
  let t := s.tileOf o.wg (tileN o.sl)
  let w := o.out.1.width
  (List.range (2 ^ modPart o.sl)).map fun i => vecOf fun L => ofSubs w fun k =>
    o.round t.kind (t.el L (colN o.sl + i * (64 / w) + k))

/-- Performs ACCWR. -/
def State.writeIn (s : State) (o : MatOp) : State :=
  let t := s.tileOf o.wg (tileN o.sl)
  let w := (fmtD (tyCode o.sl)).width
  let n := 64 / w
  s.setTile o.wg (tileN o.sl) ((lanesOf o.rows).foldl (fun (acc : Tile) L =>
    (List.range (2 ^ modPart o.sl * n)).foldl (fun (u : Tile) j =>
      u.setEl L (colN o.sl + j) (o.input t.kind (sub w (j % n) (lane (o.regs.getD (j / n) Vec.zero) L)))) acc) t)

/-- Performs ACCZ. -/
def State.clearRows (s : State) (o : MatOp) : State :=
  let t := s.tileOf o.wg (tileN o.sl)
  s.setTile o.wg (tileN o.sl)
    { t with
      elems := t.elems.filter fun p => !o.rows.getLsbD (p.1 / 64)
      sat := t.sat && decide (o.rows ≠ 0xFFFFFFFF) }

/-- The first of `n` consecutive tiles of KIND 0, from `i` on (R231). -/
def State.freeRun (s : State) (wg n : Nat) : Option Nat :=
  (List.range (s.wgD wg).tiles).find? fun i =>
    decide (i + n ≤ (s.wgD wg).tiles) && (List.range n).all fun j => decide ((s.tileOf wg (i + j)).kind = 0)

/-! ### Delivering results -/

/-- Gives a pending result its values and makes it ready. -/
def State.deliverPend (s : State) (g id : Nat) (f : Nat → RegWrite → RegWrite) : State :=
  s.updGrp g fun x =>
    x.mapPend fun p =>
      if p.id = id then { p with ready := true, writes := p.writes.zipIdx.map fun w => f w.2 w.1 } else p

/-- A pending result that never comes: nothing is written. -/
def State.voidPend (s : State) (g id : Nat) : State :=
  s.updGrp g fun x =>
    x.mapPend fun p => if p.id = id then { p with ready := true, writes := [] } else p

/-- Gives a scalar result. -/
def State.deliverScalar (s : State) (g id : Nat) (v : Word) : State :=
  s.deliverPend g id fun _ w => match w with | .scalar r _ => .scalar r v | w => w

/-! ### Tile checks (R237, Table 9.6) -/

/-- The columns that an instruction names beyond its tile. -/
def MatOp.wide (o : MatOp) (kind : Nat) : Bool :=
  (decide (o.opc = 0xE6) || decide (o.opc = 0xE7)) && decide (kindCols kind < colN o.sl + o.span)

/-- Whether a tile's kind does not serve the instruction's type. -/
def MatOp.kindBad (o : MatOp) (kind : Nat) : Bool :=
  let int := o.out.1.isInt
  match o.opc.toNat with
  | 0xE0 => decide (kind ≠ typeKind (tyCode o.sl))
  | 0xE1 => decide (kind ≠ typeKind (tyCode o.sl))
  | 0xE2 => decide (kind ≠ 4)
  | 0xE5 => decide (o.sl.sub = 0) && int && decide (kind ≠ 4)
  | 0xE6 => int && decide (kind ≠ 4)
  | 0xE7 => int != decide (kind = 4)
  | _ => false

/-- A sparse record with a bitmap bit at or above K (R225). -/
def State.mapBad (s : State) (o : MatOp) : Bool :=
  isSparse o.opc &&
    (let k := typeK (tyCode o.sl)
     ((lanesOf o.rows).any fun r => decide (2 ^ k ≤ s.recMap o.wg o.a o.lda r))
      || (o.sl.md.getLsbD 1 && decide (o.rows ≠ 0)
        && (List.range o.cols).any fun n => decide (2 ^ k ≤ s.recMap o.wg o.b o.ldb n)))

/-- The instruction works on tile rows and selects none: it does nothing (R222). -/
def MatOp.idle (o : MatOp) : Bool :=
  decide (o.opc ≠ 0xE8) && decide (o.opc ≠ 0xE9) && decide (o.opc ≠ 0xEA) && decide (o.rows = 0)

/-- The REASON of ACC_FAULT when an instruction starts: an ACCFREE whose range leaves the reservation gives 5, and one that
finds a tile of KIND 0 gives 2 (R231, R290, Table 9.6). -/
def State.accReason (s : State) (o : MatOp) : Option Nat :=
  if o.idle then none else
  let t := tileN o.sl
  let w := s.wgD o.wg
  let kind := (s.tileOf o.wg t).kind
  match o.opc.toNat with
  | 0xEA => none
  | 0xE8 => if o.sl.sub = 4 ∧ w.tiles ≤ t then some 1 else none
  | 0xE9 =>
    if w.tiles < t + colN o.sl then some 5
    else if (List.range (colN o.sl)).any (fun j => decide ((s.tileOf o.wg (t + j)).kind = 0)) then some 2
    else none
  | _ =>
    if w.tiles ≤ t then some 1
    else if kind = 0 then some 2
    else if o.kindBad kind then some 3
    else if o.wide kind then some 4
    else if s.mapBad o then some 6
    else none

/-! ### ACCLD and ACCST -/

/-- The view of the engine's own accesses. -/
def State.matView (s : State) (o : MatOp) : View :=
  let w := s.wgD o.wg
  let c := s.ctxD w.fn w.ctx
  { die := dieOf o.core, core := o.core, fn := w.fn, ctx := w.ctx, world := c.world, level := c.level
    wg := o.wg, grp := o.grp }

/-- Bytes of one element in memory (R229). -/
def MatOp.memBytes (o : MatOp) (kind : Nat) : Nat :=
  if o.opc = 0xE5 ∧ o.sl.sub = 0 then o.out.1.width / 8 else kindBytes kind

/-- The element addresses of a row. -/
def MatOp.rowAddrs (o : MatOp) (kind r : Nat) : List (Nat × Word) :=
  let n := o.memBytes kind
  let st := stride o.c.toNat (kindCols kind * n)
  (List.range (kindCols kind)).map fun j => (r, o.a + BitVec.ofNat 64 (r * st + j * n))

/-- Checks the elements of a row (R193). -/
def State.rowCheck (s : State) (v : View) (o : MatOp) (kind r : Nat) : State × Except Raise (List Piece) :=
  let n := o.memBytes kind
  let k := if o.opc = 0xE5 then 1 else 0
  match firstBad (fun (p : Nat × Word) => s.preCheck v [0, 1] p.2 n n k p.1) (o.rowAddrs kind r) with
  | some e => (s, .error e)
  | none => s.resolveAll v n n k (decide (k = 1)) (o.rowAddrs kind r)

/-- Checks rows one after another; the failing row with its trap. -/
def State.rowsCheck (s : State) (v : View) (o : MatOp) (kind : Nat) : List Nat → State × Option (Nat × Raise)
  | [] => (s, none)
  | r :: t =>
    let q := s.rowCheck v o kind r
    match q.2 with
    | .error e => (q.1, some (r, e))
    | .ok _ => q.1.rowsCheck v o kind t

/-- Traffic of an engine's bytes (Table 20.5). -/
def State.chargeBytes (s : State) (v : View) (n : Nat) (ps : List Piece) : State :=
  let c := (ps.map fun p => s.lineCost p.tgt * n / 128).sum
  if c = 0 then s else s.charge v.fn c

/-- Writes pieces through the caches; what lies at a peer is written by requests that the engine waits for. The first
error response. -/
def State.writeNeed (s : State) (v : View) (n : Nat) : List (Piece × Nat) → State × Option Raise
  | [] => (s, none)
  | (p, x) :: t =>
    match p.tgt with
    | .peer q pa =>
      let r := s.peerNeed (v.writeAsk q pa n x p.addr 1)
      match r.2 with
      | some none => (r.1, some { cause := 12, addr := p.addr, info := BitVec.ofNat 64 (32 + p.lane) })
      | _ => r.1.writeNeed v n t
    | _ => (s.writeT v p.tgt n false x).writeNeed v n t

/-- Reads pieces through the caches; what lies at a peer has been asked for. -/
def State.readRow (s : State) (v : View) (n : Nat) : List Piece → State × List Nat
  | [] => (s, [])
  | p :: t =>
    match p.tgt with
    | .peer _ _ =>
      let r := s.readP v p.tgt n p.addr 0
      let q := r.1.readRow v n t
      (q.1, (match r.2 with | .ok x => x | .error _ => 0) :: q.2)
    | _ =>
      let r := s.readT v p.tgt n false
      let q := r.1.readRow v n t
      (q.1, r.2 :: q.2)

/-- Moves one row; the first error response of a peer's. -/
def State.moveRow (s : State) (v : View) (o : MatOp) (kind r : Nat) (ps : List Piece) : State × Option Raise :=
  let n := o.memBytes kind
  let t := s.tileOf o.wg (tileN o.sl)
  if o.opc = 0xE5 then
    (s.chargeBytes v n ps).writeNeed v n (ps.zipIdx.map fun p =>
      (p.1, if o.sl.sub = 0 then o.round kind (t.el r p.2) else (t.el r p.2).q))
  else
    let a := (s.chargeBytes v n ps).askAll v n 0 ps
    match firstErr a.2 with
    | some e => (a.1, some e)
    | none =>
      let q := a.1.readRow v n ps
      (q.1.setTile o.wg (tileN o.sl) (q.2.zipIdx.foldl (fun (u : Tile) p =>
        u.setEl r p.2 (if kind = 4 then { q := p.1, c := 0 } else quireElem kind p.1)) t), none)

/-- Moves rows one after another, a row that waits for a peer holding back the ones after it; the failing row with its
trap. -/
def State.moveRows (s : State) (v : View) (o : MatOp) (kind : Nat) : List Nat → State × Option (Nat × Raise)
  | [] => (s, none)
  | r :: t =>
    let q := s.rowCheck v o kind r
    match q.2 with
    | .error e => (q.1, some (r, e))
    | .ok ps =>
      match firstErr ps with
      | some e => (q.1, some (r, e))
      | none =>
        let m := q.1.moveRow v o kind r ps
        match m.2 with
        | some e => (m.1, some (r, e))
        | none => if m.1.wants.isEmpty then m.1.moveRows v o kind t else (m.1, none)

/-- The selected rows still to move. -/
def MatOp.rowsLeft (o : MatOp) : List Nat := (lanesOf o.rows).filter fun r => decide (o.row ≤ r)

/-! ### The engine's steps (R233, R234, R237) -/

/-- After an instruction of the engine is gone: batches, and the tiles of a finished workgroup. -/
def State.matGone (s : State) (o : MatOp) : State := (s.batches o.grp 0).wgSweep o.wg

/-- An instruction ends without its effect, and its group traps later. -/
def State.matFail (s : State) (o : MatOp) (reason : Nat) (cause : BitVec 8) (addr : Word) : State :=
  let w := s.wgD o.wg
  ((s.voidPend o.grp o.pend).engineTrap o.grp w.fn w.ctx o.opc (if cause = 22 then tileN o.sl else 0) reason cause
    addr).matGone o

/-- Pauses an instruction on a held fault at the head of its core's queue (R237, R366). -/
def State.matPause (s : State) (o : MatOp) (row : Nat) (e : Raise) : State :=
  let w := s.wgD o.wg
  let h := s.hold w.fn w.ctx none none (some (clusterOf o.core))
    { cause := e.cause, addr := e.addr, info := e.info } false
  h.1.updCore o.core fun k => { k with engq := { o with row := row, paused := some h.2 } :: k.engq, emptyTick := false }

/-- Pauses an instruction on a fault that is held, and ends it on any other (R237, R366). -/
def State.matStop (s : State) (o : MatOp) (row : Nat) (e : Raise) : State :=
  let w := s.wgD o.wg
  if heldCause (s.ctxD w.fn w.ctx) e then s.matPause o row e else s.matFail o (engReason e) e.cause e.addr

/-- Whether an instruction reads or changes a tile of a workgroup. -/
def MatOp.touches (o : MatOp) (wg t : Nat) : Bool :=
  decide (o.wg = wg) &&
    (match o.opc.toNat with
      | 0xEA => false
      | 0xE8 => decide (o.sl.sub = 4) && decide (tileN o.sl = t)
      | 0xE9 => decide (tileN o.sl ≤ t) && decide (t < tileN o.sl + colN o.sl)
      | _ => decide (tileN o.sl = t))

/-- An ACCLD or ACCST that a fault pauses after some of its rows moved: it keeps its tile (R235). -/
def MatOp.partWay (o : MatOp) : Bool := o.paused.isSome && decide (o.rowsLeft ≠ lanesOf o.rows)

/-- A tile that an instruction needs is in the middle of another core's ACCLD or ACCST. -/
def State.tileTaken (s : State) (o : MatOp) : Bool :=
  s.cores.any fun c => decide (c.1 ≠ o.core) &&
    (match c.2.engq with
      | q :: _ => q.partWay && o.touches q.wg (tileN q.sl)
      | [] => false)

/-- The next instruction of an engine: from the core whose turn it is, around. While one core's ACCLD or ACCST is paused,
the other cores' instructions run, but not on its tile once a row has moved: each takes effect whole (R235, R237). -/
def State.matNext (s : State) (me : Nat) : Option MatOp :=
  let t := (s.engD me).turn
  (List.range 4).findSome? fun i =>
    match (s.coreD (4 * me + (t + i) % 4)).engq with
    | o :: _ => if o.paused.isNone ∧ ¬ s.tileTaken o then some o else none
    | [] => none

/-- Starts the next instruction: its tile checks, and the address checks of ACCLD and ACCST. A start that a held fault
pauses has moved no row, and all its rows are still to move (R237). -/
def State.matStart (s : State) (me : Nat) : State :=
  if (s.engD me).running.isSome then s
  else
    match s.matNext me with
    | none => s
    | some o =>
      let s0 := (s.updCore o.core fun k => { k with engq := k.engq.drop 1 }).updEng me fun e =>
        { e with turn := (o.core + 1) % 4 }
      let s1 := if o.opc = 0xE4 ∨ o.opc = 0xE5 then
          s0.updGrp o.grp fun x =>
            { x with accScp := tput x.accScp o.batch.toNat (max o.sl.scp.toNat (tval 0 x.accScp o.batch.toNat)) }
        else s0
      match s1.accReason o with
      | some r => s1.matFail o r 22 0
      | none =>
        if o.opc = 0xE4 ∨ o.opc = 0xE5 then
          let q := s1.rowsCheck (s1.matView o) o (s1.tileOf o.wg (tileN o.sl)).kind o.rowsLeft
          match q.2 with
          | none => q.1.updEng me fun e => { e with running := some o }
          | some (_, e) => q.1.matStop o o.row e
        else s1.updEng me fun e => { e with running := some o }

/-- Performs a started instruction wholly (R233). -/
def State.matRun (s : State) (o : MatOp) : State :=
  match o.opc.toNat with
  | 0xE3 => (s.clearRows o).matGone o
  | 0xE4 => run s
  | 0xE5 => run s
  | 0xE6 =>
    let vs := s.readOut o
    (s.deliverPend o.grp o.pend fun i w => match w with | .vec r m _ => .vec r m (vs.getD i Vec.zero) | w => w).matGone o
  | 0xE7 => (s.writeIn o).matGone o
  | 0xE8 =>
    if o.sl.sub = 4 then
      let t := s.tileOf o.wg (tileN o.sl)
      (s.deliverScalar o.grp o.pend (BitVec.ofNat 64 (t.kind + t.sat.toNat * 8))).matGone o
    else
      match s.freeRun o.wg (immN o.sl) with
      | none => (s.deliverScalar o.grp o.pend 0xFFFFFFFFFFFFFFFF).matGone o
      | some i =>
        ((List.range (immN o.sl)).foldl (fun t j => t.setTile o.wg (i + j) { kind := subN o.sl + 1 }) s
          |>.deliverScalar o.grp o.pend (BitVec.ofNat 64 i)).matGone o
  | 0xE9 => ((List.range (colN o.sl)).foldl (fun t j => t.setTile o.wg (tileN o.sl + j) {}) s).matGone o
  | 0xEA => (s.pack o).matGone o
  | _ => (s.multiply o).matGone o
where
  run (s : State) : State :=
    let v := s.matView o
    let q := s.moveRows v o (s.tileOf o.wg (tileN o.sl)).kind o.rowsLeft
    match q.2 with
    | none => q.1.matGone o
    | some (r, e) => q.1.matStop o r e

/-- Completes the running instruction of an engine. -/
def State.matDone (s : State) (me : Nat) : State :=
  match (s.engD me).running with
  | none => s
  | some o => (s.updEng me fun e => { e with running := none }).matRun o

/-- Completes every matrix-engine instruction that a workgroup has issued (R248). -/
def State.matDrain (s : State) (w : Nat) : Nat → State
  | 0 => s
  | n + 1 =>
    if ¬ s.matBusy w then s
    else
      (((s.wgD w).cores.map clusterOf).foldl (fun t me => (t.matDone me).matStart me) s).matDrain w n

/-- ENGINE_START (R234, R237). -/
def execEngineStart (me : Nat) (s : State) : Host.Outcome State Fault Refusal := .next (s.matStart me)

/-- MATRIX_OP_COMPLETE (R233). -/
def execMatrixOpComplete (me : Nat) (s : State) : Host.Outcome State Fault Refusal := .next (s.matDone me)

/-! ### Issue -/

/-- The instruction as its core's queue takes it (R230, R234). -/
def matOp (opc : BitVec 8) (sl : Slot) (s : State) (x : Group) : MatOp :=
  { opc := opc, sl := sl, grp := s.cur, wg := x.wg, core := x.core, rows := x.sel sl
    a := s.ssrc x sl sl.a, b := s.ssrc x sl sl.b, c := s.ssrc x sl sl.c, e := s.ssrc x sl sl.e, fmt := x.fmt
    regs := if opc = 0xE7 then (List.range (2 ^ modPart sl)).map fun i => s.vreg x sl.a i else []
    batch := if opc = 0xE9 then 0 else x.openB 0
    pend := if opc = 0xE6 ∨ opc = 0xE8 then x.nextId else 0
    dests := []
    row := 0
    paused := none }

/-- Queues an instruction after its checks at issue; a full queue holds it at issue (R234). -/
def matIssue (opc : BitVec 8) (check : State → View → MatOp → Option Raise) (ws : List RegWrite) (sl : Slot)
    (s : State) (x : Group) : Effect :=
  let o := matOp opc sl s x
  if 16 ≤ (s.coreD x.core).engq.length then s.stalled x
  else
    match check s (s.viewOf s.cur) o with
    | some e => .trap s e none
    | none =>
      let s1 := s.updCore x.core fun k => { k with engq := k.engq ++ [o], emptyTick := false }
      if opc = 0xE6 ∨ opc = 0xE8 then .late s1 ws else .done s1 []

def noCheck (_ : State) (_ : View) (_ : MatOp) : Option Raise := none

/-- MMA (R226, R227). -/
def execMma (sl : Slot) : State → Host.Outcome State Fault Refusal :=
  runSlot (fMma [8, 14, 0, 1, 9, 12, 10] 1 sl) .none sl (matIssue 0xE0 State.mulCheck [] sl)

/-- MMAS (R226, R227). -/
def execMmas (sl : Slot) : State → Host.Outcome State Fault Refusal :=
  runSlot (fMma [8, 0, 1, 9, 12] 3 sl) .none sl (matIssue 0xE1 State.mulCheck [] sl)

/-- MMAT (R226, R227). -/
def execMmat (sl : Slot) : State → Host.Outcome State Fault Refusal :=
  runSlot (fMma [0, 1] 0 sl) .none sl (matIssue 0xE2 State.mulCheck [] sl)

/-- ACCZ (R229). -/
def execAccz (sl : Slot) : State → Host.Outcome State Fault Refusal :=
  runSlot (fAccz sl) .none sl (matIssue 0xE3 noCheck [] sl)

/-- ACCLD (R229). -/
def execAccld (sl : Slot) : State → Host.Outcome State Fault Refusal :=
  runSlot (fAccld sl) .none sl (matIssue 0xE4 noCheck [] sl)

/-- A `.fmt` ACCST or ACCRD takes OFMT of F, i8, i16 or i32; others trap at issue (R71, R228). -/
def accFmt (sl : Slot) (f : State → Group → Effect) (s : State) (x : Group) : Effect :=
  let o := bits x.fmt 11 8
  if tyIsFmt sl ∧ ¬ (okOut o ∨ o = 0 ∨ o = 2 ∨ o = 4) then fmtTrap s x else f s x

/-- ACCST (R229). -/
def execAccst (sl : Slot) : State → Host.Outcome State Fault Refusal :=
  runSlot (fAccst sl) .none sl (accFmt sl (matIssue 0xE5 noCheck [] sl))

/-- ACCRD: its registers are written when the engine delivers them (R230, R233). -/
def accrdBody (sl : Slot) (s : State) (x : Group) : Effect :=
  matIssue 0xE6 noCheck ((List.range (2 ^ modPart sl)).flatMap fun i =>
    vecOut x.trapMode sl.d i (x.sel sl) Vec.zero) sl s x

def execAccrd (sl : Slot) : State → Host.Outcome State Fault Refusal :=
  runSlot (fAccrd sl) .var sl (accFmt sl (accrdBody sl))

/-- ACCWR (R230). -/
def execAccwr (sl : Slot) : State → Host.Outcome State Fault Refusal :=
  runSlot (fAccwr sl) .none sl (matIssue 0xE7 noCheck [] sl)

/-- ACCALLOC.k (R231). -/
def accallocBody (sl : Slot) (s : State) (x : Group) : Effect :=
  matIssue 0xE8 noCheck (scaOut x.trapMode sl.d 0 0) sl s x

def execAccalloc (sl : Slot) : State → Host.Outcome State Fault Refusal :=
  runSlot (fAccalloc sl) .var sl (accallocBody sl)

/-- ACCALLOC.stat (R231). -/
def accstatBody (sl : Slot) (s : State) (x : Group) : Effect :=
  matIssue 0xE8 noCheck (scaOut x.trapMode sl.d 0 0) sl s x

def execAccallocStat (sl : Slot) : State → Host.Outcome State Fault Refusal :=
  runSlot (fAccstat sl) .var sl (accstatBody sl)

/-- ACCFREE (R231). -/
def execAccfree (sl : Slot) : State → Host.Outcome State Fault Refusal :=
  runSlot (fAccfree sl) .none sl (matIssue 0xE9 noCheck [] sl)

/-- SPPACK.rows (R232). -/
def execSppackRows (sl : Slot) : State → Host.Outcome State Fault Refusal :=
  runSlot (fSppack 0 sl) .none sl (matIssue 0xEA State.packCheck [] sl)

/-- SPPACK.cols (R232). -/
def execSppackCols (sl : Slot) : State → Host.Outcome State Fault Refusal :=
  runSlot (fSppack 1 sl) .none sl (matIssue 0xEA State.packCheck [] sl)

end Sys2Proof.Machine
end

