-- ==== Sys2Proof/Machine/Life.lean ====
section
/-! DEFINITION. Wear indices, life credit and the operating points of cores (R375, R377, R378, R381, R382,
R384). -/

namespace Sys2Proof.Machine

/-- The life limits of BSU, HSU and ESU of a unit by wear-table index (Table 20.1). -/
def lifeLimits (u : Nat) : Nat × Nat × Nat :=
  if u < 204 then (2500000000000, 1200000000000, 2000000000000)
  else if u < 252 then (3000000000000, 1500000000000, 2500000000000)
  else if u < 444 then (4000000000000, 2000000000000, 3000000000000)
  else if u < 1308 then (3500000000000, 2500000000000, 1500000000000)
  else (3000000000000, 2000000000000, 2000000000000)

def State.wearD (s : State) (u : Nat) : Wear := tval {} s.wear u
def State.updWear (s : State) (u : Nat) (f : Wear → Wear) : State :=
  { s with wear := tset {} s.wear u (f (s.wearD u)) }

/-- The wear index of a record in parts per million (R381). -/
def wearIndex (u : Nat) (w : Wear) : Nat :=
  let l := lifeLimits u
  max (1000000 * w.bsu / l.1) (max (1000000 * w.hsu / l.2.1) (1000000 * w.esu / l.2.2))

/-- The logical cores of a function's slices (R4, R411). -/
def Func.cores (f : Func) : List Nat := (List.range (16 * f.count)).map (16 * f.first + ·)

/-- The wear index of a logical core. -/
def State.coreIndex (s : State) (c : Nat) : Nat :=
  match (s.coreD c).unit with
  | some u => wearIndex u (s.wearD u)
  | none => 0

/-- STATE and DRAIN of a logical core; a withdrawn index reads as retired (R387). -/
def State.coreState (s : State) (c : Nat) : Nat :=
  match (s.coreD c).unit with | some u => (s.wearD u).state | none => 4
def State.coreDrain (s : State) (c : Nat) : Bool :=
  match (s.coreD c).unit with | some u => (s.wearD u).drain | none => false

/-- The loss of H or E0 leaves the device awaiting the device rung: nothing is taken or placed (R372). -/
def State.awaitsReset (s : State) : Bool := s.lostDies.contains 12 || s.lostDies.contains 13

/-- An eligible core (R371, R384). -/
def State.eligible (s : State) (c : Nat) : Bool :=
  decide (s.coreState c = 0) && !s.coreDrain c && !s.lostDies.contains (dieOf c)

/-- TB and the recoveries at REV and at OFF, of a temperature band (Table 20.4). -/
def bandTB (b : Nat) : Nat := match b with | 0 => 2 | 1 => 3 | 2 => 5 | _ => 8
def bandRev (b : Nat) : Nat := match b with | 0 => 6 | 1 => 4 | 2 => 2 | _ => 0
def bandOff (b : Nat) : Nat := match b with | 0 => 3 | 1 => 2 | 2 => 1 | _ => 0
/-- The band of a temperature. -/
def bandOf (t : Int) : Nat := if t ≤ 55 then 0 else if t ≤ 70 then 1 else if t ≤ 85 then 2 else 3

/-- The points of Table 20.3: OP0, OP1, OP2, IDLE, OFF, REV. -/
inductive Point where
  | op (n : Nat)
  | idle
  | off
  | rev
  deriving DecidableEq, Repr

def Point.vb : Point → Nat
  | .op 0 => 4
  | .op 1 => 6
  | .op _ => 10
  | .idle => 3
  | _ => 0
def Point.vh : Point → Nat
  | .op 0 => 2
  | .op 1 => 3
  | .op _ => 5
  | _ => 0

/-- The credit of a core's unit (R382). -/
def State.credit (s : State) (c : Nat) : Option Int :=
  match (s.coreD c).unit with
  | some u =>
    if (s.wearD u).state ≤ 2 then
      some (((lifeLimits u).1 * s.age / (s.targeth * 3600000) : Nat) - ((s.wearD u).bsu : Int))
    else none
  | none => none

/-- LIFEBUD at step 3 of a boundary (R382). -/
def State.lifebud (s : State) (f : Func) : Int :=
  (((f.cores.filterMap s.credit).min?).getD 0) - (f.bresv : Int)

/-- The energy test of a boost (R383). -/
def Func.energyOk (f : Func) (level dur : Nat) : Bool :=
  decide (f.ebudget = 0) || decide (f.ewin + dur * (if level = 1 then 550 else 1350) ≤ f.ebudget)

/-- The window remainder of a function admits an estimate (R343). -/
def Func.energyRoom (f : Func) (e : Nat) : Bool :=
  decide (f.ebudget = 0) || decide (f.ewin + f.reserved + e ≤ f.ebudget)
    || (decide (f.ebudget < e) && f.fresh)

/-- The window remainder admits the estimates of workgroups that are placed together (R343, R347). -/
def Func.energyAll (f : Func) (es : List Nat) : Bool :=
  decide (f.ebudget = 0) || decide (f.ewin + f.reserved + es.sum ≤ f.ebudget)
    || (decide (es.length = 1) && f.energyRoom es.sum)

end Sys2Proof.Machine
end

