-- ==== Sys2Proof/Machine/Records.lean ====
section
/-! DEFINITION. The records of a forced save in the context save area: their layouts, how they are written and how they
are read back (R368, R369, Tables 18.7 and 18.8). -/

namespace Sys2Proof.Machine

def groupRec (gran : Nat) : Nat := 6144 + 2048 * gran
def wgRec (wb tiles : Nat) : Nat := 64 + (wb + 63) / 64 * 64 + tiles * (64 + 32768 + 8192)

/-! ### Writing -/

/-- Writes fields (offset, bytes, value) at an address of the save area, through the context's tables; the hub reaches
its pages, whose PRIV is 1, for a context of any level. -/
def State.savePut (s : State) (fn ctx base : Nat) (fs : List (Nat × Nat × Nat)) : State :=
  fs.foldl (fun t f => t.saveStore fn ctx (base + f.1) f.2.1 f.2.2) s

/-- A vector register as 32 fields from an offset. -/
def vecFields (off : Nat) (v : Vec) : List (Nat × Nat × Nat) :=
  (List.range 32).map fun L => (off + 8 * L, 8, (lane v L).toNat)

/-- The fields of a group record. An entry of the joined table that holds no object has an address of all ones, and entry 0
of MSTK is the outermost: Table 18.7 names no order (DESIGN CHOICE, assumption log 38). -/
def Group.fields (x : Group) : List (Nat × Nat × Nat) :=
  [(0, 8, x.pc.toNat), (8, 8, x.kc.toNat), (0x10, 4, x.act.toNat), (0x14, 4, x.live.toNat), (0x18, 8, x.fmt.toNat),
    (0x20, 1, x.sps.toNat % 128 + 128), (0x21, 1, x.mstk.length), (0x22, 2, (decide (x.phase = .pdone)).toNat)]
    ++ (List.range 8).map (fun i => (0x28 + 4 * i, 4, (x.vp i).toNat))
    ++ [(0x48, 8, x.trapCause.toNat), (0x50, 8, x.trapPc.toNat), (0x58, 8, x.trapAddr.toNat),
      (0x60, 8, x.trapInfo.toNat), (0x68, 8, x.trapVec.toNat)]
    ++ (List.range 5).map (fun c => (0x70 + 4 * c, 4, (x.openB c).toNat))
    ++ ((List.range 8).flatMap fun i =>
      match x.joined[i]? with
      | some j => [(0x100 + 16 * i, 8, j.addr.toNat), (0x108 + 16 * i, 4, j.phase.toNat), (0x10C + 16 * i, 4, j.arrived.toNat)]
      | none => [(0x100 + 16 * i, 8, 2 ^ 64 - 1), (0x108 + 16 * i, 4, 0), (0x10C + 16 * i, 4, 0)])
    ++ (x.mstk.reverse.zipIdx.flatMap fun e =>
      [(0x200 + 24 * e.2, 4, e.1.saved.toNat), (0x204 + 24 * e.2, 4, e.1.taken.toNat), (0x208 + 24 * e.2, 8, e.1.fmt.toNat),
        (0x210 + 24 * e.2, 8, (e.1.rcv.getD 0xFFFFFFFFFFFFFFFF).toNat)])
    ++ (List.range 96).map (fun n => (0x500 + 8 * n, 8, (tval 0 x.sregs n).toNat))
    ++ (List.range 16).flatMap (fun a => vecFields (0x800 + 256 * a) (tval Vec.zero x.queue a))
    ++ (List.range (8 * x.gran)).flatMap fun n => vecFields (0x1800 + 256 * n) (tval Vec.zero x.vregs n)

/-- The fields of one tile, from its header. -/
def Tile.fields (t : Tile) (off : Nat) : List (Nat × Nat × Nat) :=
  let n := kindBytes t.kind
  let c := kindCols t.kind
  (off, 1, t.kind + 8 * t.sat.toNat) ::
    (List.range 32).flatMap fun r => (List.range c).flatMap fun k =>
      [(off + 64 + (r * c + k) * n, n, (t.el r k).q), (off + 32832 + (r * c + k) * 4, 4, (t.el r k).c)]

/-- The address of a workgroup's record. -/
def State.recAt (s : State) (w : Nat) : Nat := (s.ctxD (s.wgD w).fn (s.wgD w).ctx).save.toNat + (s.wgD w).saveAt

/-- The address of the record of the i-th group of a workgroup: its place does not change when another group ends. -/
def State.groupAt (s : State) (w i : Nat) : Nat :=
  s.recAt w + wgRec (s.wgD w).wb (s.wgD w).tiles + (((s.wgD w).grans.take i).map groupRec).sum

/-- Writes a group's record. -/
def State.putGroup (s : State) (g : Nat) : State :=
  let x := s.grpD g
  let w := s.wgD x.wg
  s.savePut w.fn w.ctx (s.groupAt x.wg x.idx) x.fields

/-- A word of a window's image. -/
def State.winField (s : State) (w i : Nat) : Nat × Nat × Nat := (0x40 + 8 * i, 8, s.rd (winLoc w (8 * i)) 8)

/-- Writes a workgroup's record: its window and tiles. -/
def State.putWg (s : State) (w : Nat) : State :=
  let x := s.wgD w
  let win := (List.range ((x.wb + 7) / 8)).map (s.winField w)
  let t0 := 0x40 + (x.wb + 63) / 64 * 64
  s.savePut x.fn x.ctx (s.recAt w) ([(0, 4, x.wb), (4, 1, x.tiles)] ++ win ++
    (List.range x.tiles).flatMap fun t => (s.tileOf w t).fields (t0 + t * 41024))

/-- The image of a saved window follows what an engine's operation writes to the window in the step from `s` to `t`
(R248). -/
def State.winFollow (s t : State) (w : Nat) : State :=
  let x := t.wgD w
  if x.resident ∨ x.done then t
  else
    t.savePut x.fn x.ctx (t.recAt w) (((List.range ((x.wb + 7) / 8)).map (t.winField w)).filter fun f =>
      decide (s.rd (winLoc w (f.1 - 0x40)) 8 ≠ f.2.2))

/-! ### Reading back (R369) -/

/-- The readable entries of a table of `n` words. -/
def tableOf {α : Type} [DecidableEq α] (d : α) (n : Nat) (f : Nat → α) : Table α :=
  (List.range n).filterMap fun i => if f i = d then none else some (i, f i)

/-- A group with the fields of its record: `rd o n` reads `n` bytes at offset `o`. -/
def Group.ofRecord (x : Group) (rd : Nat → Nat → Nat) : Group :=
  let w (o : Nat) : Word := BitVec.ofNat 64 (rd o 8)
  let vec (o : Nat) : Vec := vecOf fun L => w (o + 8 * L)
  let entry (i : Nat) : MEntry :=
    let r := w (0x210 + 24 * i)
    { saved := BitVec.ofNat 32 (rd (0x200 + 24 * i) 4), taken := BitVec.ofNat 32 (rd (0x204 + 24 * i) 4)
      fmt := w (0x208 + 24 * i), rcv := if r = 0xFFFFFFFFFFFFFFFF then none else some r }
  { x with
    pc := w 0, kc := w 8, act := BitVec.ofNat 32 (rd 0x10 4), live := BitVec.ofNat 32 (rd 0x14 4), fmt := w 0x18
    sps := BitVec.ofNat 8 (rd 0x20 1 % 128)
    vps := tableOf 0 7 fun i => BitVec.ofNat 32 (rd (0x28 + 4 * i) 4)
    trapCause := BitVec.ofNat 8 (rd 0x48 8), trapPc := w 0x50, trapAddr := w 0x58, trapInfo := w 0x60, trapVec := w 0x68
    openBatch := tableOf 1 5 fun c => BitVec.ofNat 32 (rd (0x70 + 4 * c) 4)
    joined := (List.range 8).filterMap fun i =>
      if w (0x100 + 16 * i) = 0xFFFFFFFFFFFFFFFF then none
      else some { addr := w (0x100 + 16 * i), phase := BitVec.ofNat 32 (rd (0x108 + 16 * i) 4)
                  arrived := decide (rd (0x10C + 16 * i) 1 % 2 = 1) }
    mstk := ((List.range (min (rd 0x21 1) 32)).map entry).reverse
    sregs := tableOf 0 96 fun n => w (0x500 + 8 * n)
    queue := tableOf Vec.zero 16 fun a => vec (0x800 + 256 * a)
    vregs := tableOf Vec.zero (8 * x.gran) fun n => vec (0x1800 + 256 * n)
    phase := if rd 0x22 2 % 2 = 1 then .pdone else .saved }

/-- A tile with the fields of its record. -/
def Tile.ofRecord (rd : Nat → Nat → Nat) (off : Nat) : Tile :=
  let kind := rd off 1 % 8
  let n := kindBytes kind
  let c := kindCols kind
  { kind := kind, sat := decide (rd off 1 / 8 % 2 = 1)
    elems := ((List.range (32 * c)).filterMap fun k =>
      let e : Elem := { q := rd (off + 64 + k * n) n, c := rd (off + 32832 + k * 4) 4 }
      if e = Elem.zero then none else some (64 * (k / c) + k % c, e)) }

/-- Opens a record of `n` bytes of the save area, whose pages have PRIV = 1, for the hub's reads. -/
def State.recOpen (s : State) (fn ctx a n : Nat) : State :=
  let r := s.hubOpenAll fn ctx a n true
  r.1.wsNotes fn ctx 4 r.2

/-- Whether every line of a record of `n` bytes can be read back. -/
def State.recReads (s : State) (fn ctx a n : Nat) : Bool :=
  (List.range ((a % 128 + n + 127) / 128)).all fun i => s.hubReads fn ctx (a / 128 * 128 + 128 * i) true

/-- The words of a record in the save area. -/
def State.recRd (s : State) (fn ctx base o n : Nat) : Nat := s.hubRd fn ctx (base + o) n true

/-- Reads a group's record back; one that cannot be read leaves the group as it was saved (assumption log 38). -/
def State.getGroup (s : State) (g : Nat) : State :=
  let x := s.grpD g
  let w := s.wgD x.wg
  let a := s.groupAt x.wg x.idx
  let s1 := s.recOpen w.fn w.ctx a (groupRec x.gran)
  if s1.recReads w.fn w.ctx a (groupRec x.gran) then s1.updGrp g fun x => x.ofRecord (s1.recRd w.fn w.ctx a) else s1

/-- Writes a window back from its image. -/
def State.winBack (s : State) (w wb : Nat) (rd : Nat → Nat → Nat) : State :=
  (List.range ((wb + 7) / 8)).foldl (fun t i =>
    let n := min 8 (wb - 8 * i)
    t.wr (winLoc w (8 * i)) n (rd (0x40 + 8 * i) n)) s

/-- Reads a workgroup's window and tiles back; a record that cannot be read leaves them as they were saved (R369; assumption
log 38). -/
def State.getWg (s : State) (w : Nat) : State :=
  let x := s.wgD w
  let a := s.recAt w
  let t0 := 0x40 + (x.wb + 63) / 64 * 64
  let s1 := s.recOpen x.fn x.ctx a (wgRec x.wb x.tiles)
  let rd := s1.recRd x.fn x.ctx a
  if s1.recReads x.fn x.ctx a (wgRec x.wb x.tiles) then
    (List.range x.tiles).foldl (fun t i => t.setTile w i (Tile.ofRecord rd (t0 + i * 41024))) (s1.winBack w x.wb rd)
  else s1

end Sys2Proof.Machine
end

