-- ==== Sys2Proof/Machine/Place.lean ====
section
/-! DEFINITION. Placement: whether cores hold a workgroup, which sets are tried, starting and restoring groups,
and the placement pass (R30, R327, R342 to R348, R368 to R370). -/

namespace Sys2Proof.Machine

/-! ### What a core has room for (R344) -/

/-- What is in use on a core: groups and scalar registers of each sub-core, granules, 64 KiB scratchpad units. -/
structure Room where
  subs : List (Nat × Nat) := List.replicate 8 (0, 0)
  gran : Nat := 0
  units : Nat := 0
  deriving DecidableEq, Repr

def Room.groups (r : Room) : Nat := (r.subs.map Prod.fst).sum

/-- The sub-core that takes a group: fewest groups among those that can hold it, lowest first. -/
def Room.sub (r : Room) (scal : Nat) : Option Nat :=
  (r.subs.zipIdx.foldl (fun (acc : Option (Nat × Nat)) e =>
    if 16 ≤ e.1.1 ∨ 1024 < e.1.2 + scal then acc
    else match acc with
      | some (_, n) => if e.1.1 < n then some (e.2, e.1.1) else acc
      | none => some (e.2, e.1.1)) none).map Prod.fst

/-- Takes one group with its granules and scalar registers. -/
def Room.take (r : Room) (gran scal : Nat) : Option (Nat × Room) :=
  match r.sub scal with
  | none => none
  | some i =>
    if 128 ≤ r.groups ∨ 2048 < r.gran + gran then none
    else some (i, { r with
      subs := r.subs.zipIdx.map fun e => if e.2 = i then (e.1.1 + 1, e.1.2 + scal) else e.1
      gran := r.gran + gran })

/-- The share of a window of `n` bytes on the i-th core of its set, in 64 KiB units (R12). -/
def winShare (n i : Nat) : Nat := (min (n - i * 1048576) 1048576 + 65535) / 65536

/-- Takes a window share. -/
def Room.window (r : Room) (u : Nat) : Option Room :=
  if 16 < r.units + u then none else some { r with units := r.units + u }

/-- What a workgroup needs: granules and scalar registers of each group with its index, window bytes, tiles. -/
structure Need where
  groups : List ((Nat × Nat) × Nat)
  scratch : Nat
  tiles : Nat
  deriving DecidableEq, Repr

/-- The groups of roles, in index order, with role and index in the role (R11). -/
def roleGroups (rs : List Role) : List (Nat × Nat × Role) :=
  rs.zipIdx.flatMap fun p => (List.range p.1.groups).map fun i => (p.2, i, p.1)

def needOf (rs : List Role) (scratch tiles : Nat) : Need :=
  { groups := ((roleGroups rs).map fun g => (g.2.2.gran, g.2.2.scnt)).zipIdx, scratch := scratch, tiles := tiles }

def Card.role (c : Card) : Role := { entry := c.entry, gran := c.gran, scnt := c.scnt, groups := c.groups }
def Card.need (c : Card) : Need := needOf [c.role] c.scratch c.tiles
def LaunchDesc.need (d : LaunchDesc) : Need := needOf d.roles d.scratch d.tiles

/-- The least number of cores. -/
def Need.c0 (n : Need) : Nat := max 1 ((n.scratch + 1048575) / 1048576)

/-- Puts the groups on the cores of a set in turn: their sub-cores, and what is then in use. -/
def holdGroups (rooms : Table Room) (c : Nat) : List ((Nat × Nat) × Nat) → Option (List Nat × Table Room)
  | [] => some ([], rooms)
  | (g, i) :: t =>
    match (tval {} rooms (i % c)).take g.1 g.2 with
    | none => none
    | some (sub, r) => (holdGroups (tput rooms (i % c) r) c t).map fun q => (sub :: q.1, q.2)

/-- Whether a set of cores holds a workgroup: the sub-core of each group and the rooms afterwards. -/
def holdSet (rooms : List Room) (n : Need) : Option (List Nat × List Room) :=
  match rooms.zipIdx.mapM fun p => p.1.window (winShare n.scratch p.2) with
  | none => none
  | some rs =>
    (holdGroups (rs.zipIdx.map fun p => (p.2, p.1)) rs.length n.groups).map fun q =>
      (q.1, q.2.map Prod.snd)

/-- A workgroup that four free cores of one cluster could not hold (R337, R246). -/
def Need.fits (n : Need) : Bool :=
  decide (n.tiles ≤ 128) && (List.range 4).any fun i =>
    decide (n.c0 ≤ i + 1) && (holdSet (List.replicate (i + 1) {}) n).isSome

/-- What is in use on the cores, and the tile slots of each cluster. -/
structure Used where
  rooms : Table Room := []
  tiles : Table Nat := []
  deriving DecidableEq, Repr

def Used.room (u : Used) (c : Nat) : Room := tval {} u.rooms c
def Used.tile (u : Used) (cl : Nat) : Nat := tval 0 u.tiles cl

/-- What the resident workgroups use, and the tiles not yet released. -/
def State.used (s : State) : Used :=
  let r0 : Table Room := s.groups.foldl (fun t p =>
    if p.2.phase = .resident then
      let r := tval ({} : Room) t p.2.core
      tput t p.2.core { r with
        subs := r.subs.zipIdx.map fun e => if e.2 = p.2.sub then (e.1.1 + 1, e.1.2 + p.2.scount) else e.1
        gran := r.gran + p.2.gran }
    else t) []
  let r1 := s.wgs.foldl (fun t p =>
    if p.2.resident then
      p.2.cores.zipIdx.foldl (fun t c =>
        let r := tval ({} : Room) t c.1
        tput t c.1 { r with units := r.units + winShare p.2.wb c.2 }) t
    else t) r0
  { rooms := r1
    tiles := s.wgs.foldl (fun t p =>
      if p.2.resident ∨ p.2.done then
        let cl := clusterOf (p.2.cores.headD 0)
        tput t cl (tval 0 t cl + p.2.tiles)
      else t) [] }

/-- Where a workgroup goes: its cores, and the sub-core of each group. -/
structure Spot where
  cores : List Nat
  subs : List Nat
  deriving DecidableEq, Repr

/-- The set that a tried core gives for `c` cores: itself and the first others of its cluster (R344). -/
def setOf (order : List Nat) (c k : Nat) : Option (List Nat) :=
  let more := (order.filter fun d => decide (d ≠ k) && decide (clusterOf d = clusterOf k)).take (c - 1)
  if more.length = c - 1 then some (k :: more) else none

/-- Tries the cores in order for `c` cores. -/
def trySets (u : Used) (n : Need) (order : List Nat) (c : Nat) : List Nat → Option (Spot × Used)
  | [] => none
  | k :: t =>
    match setOf order c k with
    | none => trySets u n order c t
    | some cs =>
      if 128 < u.tile (clusterOf k) + n.tiles then trySets u n order c t
      else
        match holdSet (cs.map u.room) n with
        | none => trySets u n order c t
        | some (subs, rs) =>
          some ({ cores := cs, subs := subs },
            { rooms := (cs.zip rs).foldl (fun t p => tput t p.1 p.2) u.rooms
              tiles := tput u.tiles (clusterOf k) (u.tile (clusterOf k) + n.tiles) })

/-- The first set that holds a workgroup, with the least number of cores (R344). -/
def findSpot (u : Used) (n : Need) (order : List Nat) : Option (Spot × Used) :=
  (List.range 5).findSome? fun c => if n.c0 ≤ c then trySets u n order c order else none

/-- Places up to `k` workgroups of one need: how many fit, and where. -/
def findMany (n : Need) (order : List Nat) : Nat → Used → List Spot × Used
  | 0, u => ([], u)
  | k + 1, u =>
    match findSpot u n order with
    | none => ([], u)
    | some (sp, u1) => let r := findMany n order k u1; (sp :: r.1, r.2)

/-- The eligible cores of a function in trial order: wear index, then logical index (R344). -/
def State.trialOrder (s : State) (fn : Nat) : List Nat :=
  let f := s.fnD fn
  let keep (c : Nat) : Bool := match f.resize with
    | some (first, n, _) => decide (16 * first ≤ c) && decide (c < 16 * (first + n))
    | none => true
  (f.cores.filter fun c => s.eligible c && keep c).mergeSort fun a b =>
    decide (s.coreIndex a < s.coreIndex b) || (decide (s.coreIndex a = s.coreIndex b) && decide (a ≤ b))

/-- The trial order of a card or its workgroup: its target's cluster, the target first (R348). -/
def clusterOrder (order : List Nat) (target : Nat) : List Nat :=
  let l := order.filter fun c => decide (clusterOf c = clusterOf target)
  if l.contains target then target :: l.filter (· ≠ target) else l

/-- One wave of a launch (R346). -/
def State.waveOf (s : State) (fn : Nat) (d : LaunchDesc) : Nat :=
  (findMany d.need (s.trialOrder fn) (d.gx * d.gy * d.gz) {}).1.length

/-! ### The save area (Tables 18.7, 18.8) -/

def Need.record (n : Need) : Nat := wgRec n.scratch n.tiles + (n.groups.map fun g => groupRec g.1.1).sum

def Workgroup.record (w : Workgroup) : Nat := wgRec w.wb w.tiles + (w.grans.map groupRec).sum

/-- The regions of the save area of a context that its workgroups hold. -/
def State.saveRegions (s : State) (fn ctx : Nat) : List (Nat × Nat) :=
  s.wgs.filterMap fun p =>
    if p.2.fn = fn ∧ p.2.ctx = ctx ∧ ¬ p.2.done then
      some (p.2.saveAt, p.2.record)
    else none

/-- The lowest place in the save area where a record of `n` bytes fits. -/
def State.saveSpot (s : State) (fn ctx n : Nat) : Option Nat :=
  let rs := s.saveRegions fn ctx
  ((0 :: rs.map fun r => r.1 + r.2).filter fun a =>
    decide (a + n ≤ (s.ctxD fn ctx).savesz) && rs.all fun r => decide (a + n ≤ r.1) || decide (r.1 + r.2 ≤ a)).min?

/-! ### Starting groups (R30) -/

def State.touchDies (s : State) (fn ctx : Nat) (cs : List Nat) : State := s.touch fn ctx (cs.map dieOf)

/-- A group at its role's entry. -/
def newGroup (param first : Word) (i : Nat) (g : Nat × Nat × Role) (wg core sub at_ : Nat) (now : Word) : Group :=
  let regs : Table Word :=
    [(0, param), (1, first), (2, BitVec.ofNat 64 i), (3, BitVec.ofNat 64 g.2.1), (4, 0x1000000000000000)]
  { pc := g.2.2.entry
    sregs := regs.filter fun p => decide (p.2 ≠ 0)
    gran := g.2.2.gran, scount := g.2.2.scnt, wg := wg, idx := i, role := g.1, idxRole := g.2.1
    core := core, sub := sub, placedAt := at_, lastIssue := now }

/-- The core of the i-th group. -/
def Spot.core (p : Spot) (i : Nat) : Nat := p.cores.getD (i % p.cores.length) 0

/-- The core holds a group in this tick (R377, R385). -/
def State.noteHeld (s : State) (c : Nat) : State := s.updCore c fun k => { k with heldTick := true, emptyTick := false }

/-- Adds the groups of a new workgroup. -/
def State.startGroups (s : State) (param first : Word) (w : Nat) (p : Spot) :
    List ((Nat × Nat × Role) × Nat) → State
  | [] => s
  | (g, i) :: t =>
    let id := tfresh s.groups
    let x := newGroup param first i g w (p.core i) (p.subs.getD i 0) s.tick (s.coreD (p.core i)).cycle
    let s1 := { s.bump.noteHeld (p.core i) with groups := tput s.groups id x }
    (s1.updWg w fun y => { y with groups := y.groups ++ [id] }).startGroups param first w p t

/-- Places a new workgroup of a launch or card (R30, R219, R248, R343, R370). -/
def State.startWg (s : State) (l lin : Nat) (rs : List Role) (scratch tiles : Nat) (param first : Word)
    (card : Option Card) (prio energy seq saveAt : Nat) (acq : Bool) (p : Spot) : State :=
  match tget s.launches l with
  | none => s
  | some x =>
    let w := tfresh s.wgs
    let s1 := { s with
      wgs := tput s.wgs w
        { fn := x.fn, ctx := x.ctx, world := (s.ctxD x.fn x.ctx).world, launch := l, lin := lin, cores := p.cores
          wb := scratch, tiles := tiles, card := card, preempt := x.desc.preempt, tbclass := x.desc.tbclass
          prio := prio, energy := energy, seq := seq, saveAt := saveAt
          grans := (roleGroups rs).map fun (g : Nat × Nat × Role) => g.2.2.gran } }
    let s2 := (s1.touchDies x.fn x.ctx p.cores).updFn x.fn fun f => { f with reserved := f.reserved + energy, fresh := false }
    let s3 := s2.updEng (clusterOf (p.cores.headD 0)) fun e => if tiles = 0 then e else { e with gated := false }
    let s4 := if acq then p.cores.foldl (fun t c => t.acquire c 3) s3 else s3
    s4.startGroups param first w p (roleGroups rs).zipIdx

/-! ### Re-placement (R260, R345, R369) -/

/-- A group that ended by PDONE starts again after its PDONE (R260). -/
def Group.afterPdone (x : Group) (param first : Word) : Group :=
  let regs : Table Word :=
    [(0, param), (1, first), (2, BitVec.ofNat 64 x.idx), (3, BitVec.ofNat 64 x.idxRole), (4, 0x1000000000000000)]
  { x with
    act := 0xFFFFFFFF, live := 0xFFFFFFFF, fmt := 0x999, sregs := regs.filter fun p => decide (p.2 ≠ 0)
    vregs := [], queue := [], sps := 0, vps := [], mstk := [], trapMode := true, inPreempt := true
    trapCause := 15, trapInfo := setBits x.trapInfo 0 0 1 }

/-- A group placed again by PDONE runs in trap mode: it takes the trap bank of its sub-core, or waits for it (R254, R260). -/
def State.regain (s : State) (g : Nat) : State :=
  let x := s.grpD g
  if ¬ x.trapMode then s
  else if (s.bankD x.bankKey).owner.isSome then s.updGrp g fun x => { x with wait := .regain }
  else s.takeBank g

/-- Puts a saved workgroup on cores again, from its records (R369): group i goes to core i mod c (R344). Its ENERGY is
reserved again, also in the window in which it was reserved before: R343 does not say (DESIGN CHOICE, assumption log 38). -/
def State.replaceWg (s : State) (w : Nat) (p : Spot) : State :=
  let x := s.wgD w
  let param : Word := match x.card with
    | some c => c.param
    | none => ((tget s.launches x.launch).map fun l => l.desc.param).getD 0
  let first : Word := match x.card with | some c => c.user | none => BitVec.ofNat 64 x.lin
  let s1 := (s.updWg w fun y => { y with resident := true, cores := p.cores }).touchDies x.fn x.ctx p.cores
  let s2 := s1.updFn x.fn fun f => { f with reserved := f.reserved + x.energy, fresh := false }
  let s3 := s2.updEng (clusterOf (p.cores.headD 0)) fun e => if x.tiles = 0 then e else { e with gated := false }
  let s4 := (p.cores.foldl (fun t c => t.acquire c 3) s3).getWg w
  x.groups.zipIdx.foldl (fun t gi =>
    let i := (t.grpD gi.1).idx
    (((t.getGroup gi.1).updGrp gi.1 fun y =>
      let z := if y.phase = .pdone then y.afterPdone param first else y
      { z with
        phase := .resident, wait := .none, core := p.core i, sub := p.subs.getD gi.2 0, placedAt := t.tick
        lastIssue := (t.coreD (p.core i)).cycle, yielded := false, stall := 0, due := false, budget := 0, preempt := false }).regain gi.1).bump.noteHeld (p.core i)) s4

/-! ### Candidates and gates (R327, R342, R343) -/

/-- A candidate: a saved workgroup, the next workgroup of a launch, or a task card with its queue. -/
inductive Cand where
  | saved (w : Nat)
  | fresh (l : Nat)
  | card (core : Nat) (c : Card)
  deriving DecidableEq, Repr

/-- The order of candidates: PRIO, saved first, acceptance, linear index. -/
structure Rank where
  prio : Nat
  saved : Bool
  seq : Nat
  lin : Nat
  deriving DecidableEq, Repr

def Rank.le (a b : Rank) : Bool :=
  if a.prio ≠ b.prio then decide (b.prio < a.prio)
  else if a.saved ≠ b.saved then a.saved
  else if a.seq ≠ b.seq then decide (a.seq < b.seq)
  else decide (a.lin ≤ b.lin)

/-- A context that runs: not ended, its function holding its slices (R343, R419). -/
def State.ctxRuns (s : State) (fn ctx : Nat) : Bool :=
  let f := s.fnD fn
  decide (f.count ≠ 0) && (!f.ts || f.resident) && !(s.ctxD fn ctx).ended
    && !s.switches.any (fun p => decide (p.2.outgoing = fn)) && !s.awaitsReset

/-- A launch whose co-resident workgroups all wait outside the cores. -/
def State.coSaved (s : State) (l : Nat) : Bool :=
  !s.wgs.any fun p => decide (p.2.launch = l) && p.2.resident && !p.2.done

/-- The candidates in order. -/
def State.candidates (s : State) : List (Rank × Cand) :=
  let saved := s.wgs.filterMap fun (p : Nat × Workgroup) =>
    if p.2.resident ∨ p.2.done ∨ ¬ s.ctxRuns p.2.fn p.2.ctx then none
    else some ({ prio := p.2.prio, saved := true, seq := p.2.seq, lin := p.2.lin : Rank }, Cand.saved p.1)
  let fresh := s.launches.filterMap fun (p : Nat × Launch) =>
    if p.2.done ∨ p.2.cancelled ∨ ¬ s.ctxRuns p.2.fn p.2.ctx ∨ p.2.desc.gx * p.2.desc.gy * p.2.desc.gz ≤ p.2.nextWg
    then none
    else some ({ prio := p.2.desc.prio, saved := false, seq := p.2.seq, lin := p.2.nextWg : Rank }, Cand.fresh p.1)
  let cards := s.cores.flatMap fun (p : Nat × Core) => p.2.taskq.filterMap fun c =>
    match tget s.launches c.launch with
    | some l => if s.ctxRuns l.fn l.ctx then
        some ({ prio := c.prio, saved := false, seq := c.seq, lin := 0 : Rank }, Cand.card p.1 c) else none
    | none => none
  (saved ++ fresh ++ cards).mergeSort fun a b => a.1.le b.1

/-- Whether the page of a working-set entry is lost. -/
def State.wsLost (s : State) (fn ctx : Nat) (e : Word) : Bool :=
  match s.lookup (s.ctxD fn ctx) (if e.getLsbD 5 then 4 else 0) (bits e 51 16 * 65536) with
  | .leaf l _ size _ => leafLost l || (framesOf l size).any (fun f => s.frameLost (leafTier l) f)
  | _ => false

/-- RESG and T of a working set whose lines are open (R327). -/
def State.wsCount (s : State) (fn ctx : Nat) : Nat × Nat :=
  let es := (s.wsEntries fn ctx).map Prod.snd |>.filter fun e => wsValid e && !s.wsLost fn ctx e
  (((es.filter fun e => e.getLsbD 4).map wsGran).sum, (es.map wsGran).sum)

/-- Stores RESG in a working-set header, unless a peer that holds some of it has still to be asked. -/
def State.wsStore (s0 : State) (fn ctx : Nat) : State :=
  let s := s0.wsReady fn ctx
  let h := (s.ctxD fn ctx).wshdr.toNat
  if h = 0 ∨ s.wants.length ≠ s0.wants.length then s else s.hubPut fn ctx (h + 0x10) 4 (s.wsCount fn ctx).1

/-- Whether Strudel still has a move up of a context to make. -/
def State.upsLeft (s : State) (fn ctx : Nat) : Bool :=
  s.moves.any fun m => decide (m.fn = fn) && decide (m.ctx = ctx) && m.up && !m.stuck

/-- Opens the residency gate of a launch when it is met, with SAT and its event (R327). -/
def State.gate (s0 : State) (l : Nat) : State :=
  match tget s0.launches l with
  | none => s0
  | some x =>
    if x.gateOpen then s0
    else
      let s := s0.wsReady x.fn x.ctx
      let r := s.wsCount x.fn x.ctx
      let met := decide (x.desc.thresh * r.2 ≤ 1000 * r.1)
      if ¬ met ∧ s.upsLeft x.fn x.ctx then s
      else
        let s1 := (s.wsStore x.fn x.ctx).updLaunch l fun y => { y with gateOpen := true }
        let h := (s.ctxD x.fn x.ctx).wshdr.toNat
        let s2 := if h = 0 ∨ ¬ s1.hubReads x.fn x.ctx h then s1
          else s1.hubPut x.fn x.ctx (h + 0x18) 1 (s1.hubRd x.fn x.ctx (h + 0x18) 1 % 2 + (if met then 0 else 2))
        if met then s2 else s2.event 6 x.fn x.ctx (s.ctxD x.fn x.ctx).world none

/-- The producer workgroups to keep room for (R346). -/
def State.reservation (s : State) (p : Nat) : Nat :=
  match tget s.launches p with
  | some y => if y.done then 0 else min (y.desc.gx * y.desc.gy * y.desc.gz - y.nextWg) y.wave
  | none => 0

/-- Whether a consumer may be placed: the room left still admits each reservation (R346). -/
def State.earlyOk (s : State) (fn : Nat) (prods : List Nat) (u : Used) : Bool :=
  prods.all fun p =>
    match tget s.launches p with
    | some y => decide ((findMany y.desc.need (s.trialOrder fn) (s.reservation p) u).1.length = s.reservation p)
    | none => true

/-- The workgroups of a co-resident launch that are to be placed together. -/
def State.coSet (s : State) (l : Nat) : List Nat :=
  (s.wgs.filter fun p => decide (p.2.launch = l) && !p.2.resident && !p.2.done).map Prod.fst

/-- A workgroup's need, when it exists already. -/
def State.wgNeed (s : State) (w : Nat) : Need :=
  let x := s.wgD w
  { groups := (x.groups.filter fun g => decide ((s.grpD g).phase ≠ .ended)).map fun g =>
      (((s.grpD g).gran, (s.grpD g).scount), (s.grpD g).idx)
    scratch := x.wb, tiles := x.tiles }

/-- Places every workgroup of a co-resident launch whose workgroups were saved, or none (R347). -/
def State.coReplace (s : State) (order : List Nat) : List Nat → Option State
  | [] => some s
  | w :: t =>
    match findSpot s.used (s.wgNeed w) order with
    | none => none
    | some (p, _) => (s.replaceWg w p).coReplace order t

/-- Starts `k` workgroups of a launch from index `i`, or none. -/
def State.coStart (s : State) (l : Nat) (d : LaunchDesc) (order : List Nat) (i seq : Nat) (acq : Bool) :
    Nat → Option State
  | 0 => some s
  | k + 1 =>
    match findSpot s.used d.need order, tget s.launches l with
    | some (p, _), some x =>
      match s.saveSpot x.fn x.ctx d.need.record with
      | none => none
      | some a =>
        ((s.startWg l i d.roles d.scratch d.tiles d.param (BitVec.ofNat 64 i) none d.prio d.energy seq a acq p).updLaunch
          l fun y => { y with nextWg := i + 1 }).coStart l d order (i + 1) seq acq k
    | _, _ => none

/-- What one attempt to place a candidate gives: it is placed, it is held back by another rule, or it waits for
room. -/
inductive Tried where
  | placed (s : State)
  | held
  | noRoom

/-- Removes a card from its queue. -/
def State.dropCard (s : State) (core seq : Nat) : State :=
  s.updCore core fun k => { k with taskq := k.taskq.filter fun c => decide (c.seq ≠ seq) }

/-- The first card or launch that a saved workgroup came from decides its trial order. -/
def State.wgOrder (s : State) (w : Nat) : List Nat := s.trialOrder (s.wgD w).fn

/-- Attempts one candidate (R343 to R348). The WGID of a card's workgroup is USER[31:0]: the spec gives it none
(assumption log 72). -/
def State.attempt (s : State) (c : Cand) : Tried :=
  match c with
  | .saved w =>
    let x := s.wgD w
    let co : Bool := match tget s.launches x.launch with | some l => l.desc.cores | none => false
    let gate : Bool := match tget s.launches x.launch with | some l => l.gateOpen | none => true
    let prods : List Nat := match tget s.launches x.launch with | some l => l.prods | none => []
    if ¬ gate ∨ ¬ (s.fnD x.fn).energyRoom x.energy then .held
    else if co then
      if ¬ s.coSaved x.launch ∨ ¬ (s.fnD x.fn).energyAll ((s.coSet x.launch).map fun v => (s.wgD v).energy) then .held
      else
        match s.coReplace (s.wgOrder w) (s.coSet x.launch) with
        | some t => if t.earlyOk x.fn prods t.used then .placed t else .held
        | none => .noRoom
    else
      match findSpot s.used (s.wgNeed w) (s.wgOrder w) with
      | some (p, u) => if s.earlyOk x.fn prods u then .placed (s.replaceWg w p) else .held
      | none => .noRoom
  | .fresh l =>
    match tget s.launches l with
    | none => .held
    | some x =>
      let d := x.desc
      if ¬ x.gateOpen ∨ ¬ (s.fnD x.fn).energyRoom d.energy then .held
      else if d.cores then
        if ¬ (s.fnD x.fn).energyAll (List.replicate (d.gx * d.gy * d.gz - x.nextWg) d.energy) then .held
        else match s.coStart l d (s.trialOrder x.fn) x.nextWg x.seq x.acq (d.gx * d.gy * d.gz - x.nextWg) with
        | some t => if t.earlyOk x.fn x.prods t.used then .placed t else .held
        | none => .noRoom
      else
        match findSpot s.used d.need (s.trialOrder x.fn), s.saveSpot x.fn x.ctx d.need.record with
        | some (p, u), some a =>
          if ¬ s.earlyOk x.fn x.prods u then .held
          else
            .placed ((s.startWg l x.nextWg d.roles d.scratch d.tiles d.param (BitVec.ofNat 64 x.nextWg) none d.prio
              d.energy x.seq a x.acq p).updLaunch l fun y => { y with nextWg := y.nextWg + 1 })
        | _, _ => .noRoom
  | .card core k =>
    match tget s.launches k.launch with
    | none => .held
    | some x =>
      if ¬ x.gateOpen ∨ ¬ (s.fnD x.fn).energyRoom k.energy then .held
      else
        match findSpot s.used k.need (clusterOrder (s.trialOrder x.fn) core), s.saveSpot x.fn x.ctx k.need.record with
        | some (p, u), some a =>
          if ¬ s.earlyOk x.fn x.prods u then .held
          else .placed ((s.dropCard core k.seq).startWg k.launch (bits k.user 31 0) [k.role] k.scratch k.tiles k.param
            k.user (some k) k.prio k.energy k.seq a true p)
        | _, _ => .noRoom

/-- The function of a candidate, and whether it is a co-resident launch. -/
def State.candFn (s : State) (c : Cand) : Nat × Bool :=
  match c with
  | .saved w =>
    ((s.wgD w).fn, match tget s.launches (s.wgD w).launch with | some l => l.desc.cores | none => false)
  | .fresh l => match tget s.launches l with | some x => (x.fn, x.desc.cores) | none => (0, false)
  | .card _ k => match tget s.launches k.launch with | some x => (x.fn, false) | none => (0, false)

/-- Tries the candidates in order and places the first that may be; `block` lists the functions and priorities
that waiting co-resident launches hold back, `co` those of the co-resident candidates already tried (R347). -/
def State.placeOne (s : State) (block co : List (Nat × Nat)) : List (Rank × Cand) → Option State
  | [] => none
  | (r, c) :: t =>
    let f := s.candFn c
    if (if f.2 then co else block).any fun b => decide (b.1 = f.1) && decide (r.prio ≤ b.2) then s.placeOne block co t
    else
      match s.attempt c with
      | .placed s1 => some s1
      | .held => s.placeOne block co t
      | .noRoom => s.placeOne block (if f.2 then (f.1, r.prio) :: co else co) t

/-- The co-resident launches that wait for room hold back what R342 would try before them too. -/
def State.coWaiting (s : State) : List (Nat × Nat) :=
  s.launches.filterMap fun (p : Nat × Launch) =>
    if p.2.desc.cores ∧ ¬ p.2.done ∧ ¬ p.2.cancelled ∧ s.ctxRuns p.2.fn p.2.ctx
        ∧ (p.2.nextWg < p.2.desc.gx * p.2.desc.gy * p.2.desc.gz ∨ s.coSet p.1 ≠ []) then
      match s.attempt (if p.2.nextWg < p.2.desc.gx * p.2.desc.gy * p.2.desc.gz then .fresh p.1
          else .saved ((s.coSet p.1).headD 0)) with
      | .noRoom => some (p.2.fn, p.2.desc.prio)
      | _ => none
    else none

/-- Places until nothing more can be placed (R342). -/
def State.placeAll (s : State) : Nat → State
  | 0 => s
  | n + 1 =>
    match s.placeOne s.coWaiting [] s.candidates with
    | some s1 => s1.placeAll n
    | none => s

/-- The placement pass: gates, then placements (R327, R342). -/
def State.placementPass (s : State) : State :=
  let s1 := (s.launches.filter fun p => !p.2.done && s.ctxRuns p.2.fn p.2.ctx).foldl (fun t p => t.gate p.1) s
  let s2 := s1.placeAll 32768
  { s2 with fns := s2.fns.map fun (p : Nat × Func) => (p.1, { p.2 with fresh := false }) }

/-- PLACEMENT_PASS (R342). -/
def execPlacementPass (s : State) : Host.Outcome State Fault Refusal := .next s.placementPass

end Sys2Proof.Machine
end

