-- ==== Sys2Proof/Machine/Async.lean ====
section
/-! DEFINITION. The meanings of the asynchronous copies, gathers and scatters, batches, collectives, task cards
and tier hints, and the steps of the copy engines and collectives (R238 to R248, R349, R436 to R438). -/

namespace Sys2Proof.Machine

/-! ### Batches -/

/-- AFENCE (R239). -/
def afenceBody (sl : Slot) (s : State) (x : Group) : Effect :=
  let b := x.openB (subN sl)
  .done ((s.updGrp s.cur fun x => { x with openBatch := tset 1 x.openBatch (subN sl) (b + 1) }).batches s.cur (subN sl))
    (scaOut x.trapMode sl.d 0 (b.setWidth 64))

def execAfence (sl : Slot) : State → Host.Outcome State Fault Refusal := runSlot (fAfence sl) .var sl (afenceBody sl)

/-! ### Issue of copies (R240 to R243) -/

/-- The operation of a copy, gather or scatter slot. -/
def asyncOp (opc : BitVec 8) (sl : Slot) (s : State) (x : Group) : AsyncOp :=
  let w := s.wgD x.wg
  let c (i : Nat) : Word := s.sreg x sl.c i
  let cls := if opc = 0xD0 ∨ opc = 0xD1 then 1 else 2
  let rb := bits (c 0) 31 0
  { opc := opc, fn := w.fn, ctx := w.ctx, wg := x.wg, grp := s.cur, cls := cls, batch := x.openB cls
    scp := sl.scp.toNat, dst := s.ssrc x sl sl.a, src := s.ssrc x sl sl.b, rb := rb
    rows := if opc = 0xD0 then 1 else bits (c 0) 63 32
    dstride := if opc = 0xD1 then bits (c 1) 31 0 else if opc = 0xD3 then (c 2).toNat else rb
    sstride := if opc = 0xD1 then bits (c 1) 63 32 else if opc = 0xD2 then (c 2).toNat else rb
    list := if opc = 0xD2 ∨ opc = 0xD3 then c 1 else 0
    ntf := modN sl, e := if modN sl = 0 then 0 else s.ssrc x sl sl.e, imm := sl.imm }

/-- A breach of the operand block (R243). -/
def AsyncOp.blockBad (o : AsyncOp) (hi : Nat) : Bool :=
  decide (o.rb % 8 ≠ 0) || decide (o.dstride % 8 ≠ 0) || decide (o.sstride % 8 ≠ 0)
    || (decide (o.opc = 0xD0) && decide (hi ≠ 0)) || (decide (o.cls = 2) && decide (2 ^ 24 < o.rows))

/-- A failure at the notification address at issue. -/
def State.ntfCheck (s : State) (v : View) (o : AsyncOp) : Option Raise :=
  match o.ntf with
  | 1 => s.preCheck v [0, 1] o.e 16 16 5 0
  | 2 => s.preCheck v [0, 1] o.e 4 4 1 0
  | 3 => s.preCheck v [0, 1] o.e 64 64 5 0
  | 4 => s.preCheck v [0] o.e 8 8 2 0
  | _ => none

/-- The first row of a strided range that fails steps 1 to 4, by arithmetic on the space that is left. -/
def State.rowsRange (s : State) (v : View) (a : Word) (n rows st kind : Nat) : Option Raise :=
  if rows = 0 ∨ n = 0 then none
  else
    match s.preRange v [0, 1, 4] a n kind 0 with
    | some e => some e
    | none =>
      let left := s.spaceLeft v a
      if (rows - 1) * st + n ≤ left then none
      else
        let r := if st = 0 then 0 else (left - n) / st + 1
        s.preRange v [0, 1, 4] (a + BitVec.ofNat 64 (r * st)) n kind 0

/-- Steps 1 to 4 of R193 over the ranges, the index list and the notification address, in that order, the source before
the destination (assumption log 19). The rows of an indexed side are those that `idx`, the index list as it stands, names; one
whose index cannot be read yet is checked when the operation reads it. -/
def State.copyCheck (s : State) (v : View) (o : AsyncOp) (idx : List Nat) : Option Raise :=
  let rows (a : Word) (st k : Nat) : Option Raise :=
    if o.rb = 0 then none else firstBad (fun x => s.preRange v [0, 1, 4] (a + BitVec.ofNat 64 (x * st)) o.rb k 0) idx
  let src := if o.opc = 0xD2 then rows o.src o.sstride 0 else s.rowsRange v o.src o.rb o.rows o.sstride 0
  let dst := if o.opc = 0xD3 then rows o.dst o.dstride 1 else s.rowsRange v o.dst o.rb o.rows o.dstride 1
  let lst : Option Raise := if o.cls ≠ 2 ∨ o.rows = 0 then none else
    match s.preCheck v [0, 1, 4] o.list 4 4 0 0 with
    | some e => some e
    | none => if 4 * o.rows ≤ s.spaceLeft v o.list then none
              else s.preCheck v [0, 1, 4] (o.list + BitVec.ofNat 64 (s.spaceLeft v o.list / 4 * 4)) 4 4 0 0
  src.orElse fun _ => dst.orElse fun _ => lst.orElse fun _ => s.ntfCheck v o

/-- Resolves an address of an engine; its error response counts as a failure. -/
def State.engAt (s : State) (v : View) (a : Word) (n kind : Nat) : State × Except Raise Target :=
  if spaceOf a = 3 then (s, .error { cause := 9, addr := a, info := BitVec.ofNat 64 (2 * 2 ^ 32 + kind * 32) })
  else s.hubAt v a n kind

/-- Entry `j` of the index list of a gather or scatter. -/
def State.listIdx (s : State) (v : View) (o : AsyncOp) (j : Nat) : State × Except Raise Nat :=
  let a := o.list + BitVec.ofNat 64 (4 * j)
  let q := s.engAt v a 4 0
  match q.2 with
  | .error e => (q.1, .error e)
  | .ok t =>
    let y := q.1.readP v t 4 a 0
    match y.2 with
    | .error (c, i) => (y.1, .error { cause := c, addr := a, info := BitVec.ofNat 64 i })
    | .ok x => (y.1, .ok x)

/-- The index of the row that holds word `k` of a gather or scatter, read from its list. -/
def State.wordIdx (s : State) (v : View) (o : AsyncOp) (k : Nat) : State × Except Raise Nat :=
  if o.cls = 2 then s.listIdx v o (k / (o.rb / 8)) else (s, .ok 0)

/-- The entries of the first `n` places of an index list that can be read now; what a peer holds of them is asked for. -/
def State.listNow (s : State) (v : View) (o : AsyncOp) : Nat → State × List Nat
  | 0 => (s, [])
  | n + 1 =>
    let q := s.listNow v o n
    let r := q.1.listIdx v o n
    match r.2 with
    | .ok x => (r.1, q.2 ++ [x])
    | .error _ => q

/-- The view of an operation: the engine acts for the group's context and window (R440). -/
def State.opView (s : State) (o : AsyncOp) : View := { s.engView o.fn o.ctx o.wg with grp := o.grp }

/-- Issues a copy, gather or scatter. -/
def copyBody (opc : BitVec 8) (sl : Slot) (s : State) (x : Group) : Effect :=
  let o := asyncOp opc sl s x
  let v := s.viewOf s.cur
  if o.blockBad (bits (s.sreg x sl.c 0) 63 32) then syncTrap s 0x2C o.dst
  else
    let q := if o.cls = 2 then s.listNow (s.opView o) o o.rows else (s, [])
    let s := { s with wants := q.1.wants }
    match s.copyCheck v o q.2 with
    | some e => .trap s e none
    | none => .done { s.bump with ops := tput s.ops s.tick o } []

/-- CPY. -/
def execCpy (sl : Slot) : State → Host.Outcome State Fault Refusal := runSlot (fCopy 1 sl) .none sl (copyBody 0xD0 sl)
/-- CPY2. -/
def execCpy2 (sl : Slot) : State → Host.Outcome State Fault Refusal := runSlot (fCopy 2 sl) .none sl (copyBody 0xD1 sl)
/-- GATH. -/
def execGath (sl : Slot) : State → Host.Outcome State Fault Refusal := runSlot (fCopy 3 sl) .none sl (copyBody 0xD2 sl)
/-- SCAT. -/
def execScat (sl : Slot) : State → Host.Outcome State Fault Refusal := runSlot (fCopy 3 sl) .none sl (copyBody 0xD3 sl)

/-! ### The end of an operation -/

/-- Removes an operation: its batch, its packet, a finished workgroup's tiles (R239, R243). -/
def State.opGone (s : State) (id : Nat) (o : AsyncOp) (st : Nat) : State :=
  let s1 := { s with ops := tdel s.ops id, peerOut := s.peerOut.filter fun p => decide (p.op ≠ id) }
  ((s1.batches o.grp o.cls).packetDone o.packet st).wgSweep o.wg

/-- An operation ends early on a fault (R243). -/
def State.opFail (s : State) (id : Nat) (o : AsyncOp) (reason : Nat) (cause : BitVec 8) (addr : Word) : State :=
  (s.engineTrap o.grp o.fn o.ctx o.opc 0 reason cause addr).opGone id o 5

/-- Pauses an operation on a held fault with its record, or ends it; no fault of a packet's copy is held (R243, R366,
R440). -/
def State.opFault (s : State) (id : Nat) (o : AsyncOp) (e : Raise) : State :=
  if heldCause (s.ctxD o.fn o.ctx) e ∧ o.packet = 0 then
    let h := s.hold o.fn o.ctx none (some id) none { cause := e.cause, addr := e.addr, info := e.info } false
    { h.1 with ops := tput h.1.ops id { o with paused := some h.2 } }
  else
    s.opFail id o (engReason e) e.cause e.addr

/-! ### Moving words (R241, R243) -/

def AsyncOp.words (o : AsyncOp) : Nat := o.rows * (o.rb / 8)

/-- The rows of a word on both sides, given its index where there is one. -/
def AsyncOp.places (o : AsyncOp) (k x : Nat) : Word × Word :=
  let r := k / (o.rb / 8)
  let i := 8 * (k % (o.rb / 8))
  (o.dst + BitVec.ofNat 64 ((if o.opc = 0xD3 then x else r) * o.dstride + i),
    o.src + BitVec.ofNat 64 ((if o.opc = 0xD2 then x else r) * o.sstride + i))

/-- A word to move: its source and destination, with their addresses. -/
structure Moving where
  st : Target
  dt : Target
  sa : Word
  da : Word
  deriving DecidableEq, Repr

/-- The source and destination of word `k`, checked; a page fault of the check changes nothing else. -/
def State.wordAt (s : State) (v : View) (o : AsyncOp) (k : Nat) : State × Except Raise Moving :=
  let x := s.wordIdx v o k
  match x.2 with
  | .error e => (x.1, .error e)
  | .ok i =>
    let p := o.places k i
    let a := x.1.engAt v p.2 8 0
    match a.2 with
    | .error e => (a.1, .error e)
    | .ok st =>
      let b := a.1.engAt v p.1 8 1
      match b.2 with
      | .error e => (b.1, .error e)
      | .ok dt => (b.1, .ok { st := st, dt := dt, sa := p.2, da := p.1 })

/-- pJ that 8 bytes at a target cost beside the copy engine's own (Table 20.5). -/
def State.wordCost (s : State) (t : Target) : Nat := s.lineCost t * 8 / 128

/-- The class of the copy bucket (R349). -/
def State.copyClass (s : State) (o : AsyncOp) : Nat := if o.packet ≠ 0 then 0 else (s.wgD o.wg).tbclass

/-- Marks the requests just made to peers as an operation's. -/
def State.tagPeer (s : State) (from_ id k : Nat) : State :=
  { s with peerOut := s.peerOut.map fun p => if from_ ≤ p.id then { p with op := id, word := k } else p }

/-- Puts a word at its checked destination: whether it has landed there. A peer's memory is written by a request; a word of a
format-alias page at a peer is converted here (assumption log 83). -/
def State.putWord (s : State) (v : View) (id k : Nat) (dt : Target) (da : Word) (x : Nat) : State × Bool :=
  let put (s : State) (p pa n x : Nat) : State := s.peerSend { v.writeAsk p pa n x da 1 with op := id, word := k }
  match dt with
  | .peer p pa => (put s p pa 8 x, false)
  | .fmtPeer p base size off =>
    let q := s.peerRead v p (fmtScaleLoc base size (off / 2)) 1 da 1
    (put q.1 p (fmtElemLoc base (off / 2)) 4 (fmtBytes (q.2.getD 0) 8 x), false)
  | dt => (s.writeT v dt 8 true x, true)

/-- Moves word `k` between checked places; a word of a peer's memory lands when its response arrives (R435). -/
def State.moveWord (s : State) (v : View) (id k : Nat) (st dt : Target) (sa da : Word) : State × Bool :=
  let s0 := s.charge v.fn (32 + s.wordCost st + s.wordCost dt)
  match st with
  | .peer p pa =>
    (s0.peerSend { v.ask { peer := p, pa := pa, n := 8, kind := 0 } sa 0 with op := id, word := k }, false)
  | st =>
    let r := s0.readNeed v 8 0 [{ lane := 0, addr := sa, tgt := st }]
    r.1.putWord v id k dt da (r.2.headD 0)

/-- Rows of a scatter are asked of a peer one after another, so that of rows that write the same bytes the higher one
remains (R241). -/
def State.scatHeld (s : State) (id : Nat) (o : AsyncOp) (k : Nat) : Bool :=
  decide (o.opc = 0xD3) && s.peerOut.any fun p =>
    decide (p.op = id) && decide (p.msg.kind = 0) && decide (p.word / (o.rb / 8) ≠ k / (o.rb / 8))

/-- The optical bucket holds a word back that goes to or comes from a peer, at the start of a unit of 128 bytes (R350). -/
def State.opticalHeld (s : State) (o : AsyncOp) (st dt : Target) : Bool :=
  (st.far || dt.far) && decide (o.moved % 16 = 0) && s.bucketLow o.fn 2 (s.wgD o.wg).tbclass

/-- The copy bucket holds an operation back at the start of a unit of 128 bytes (R350). -/
def State.copyHeld (s : State) (o : AsyncOp) : Bool := decide (o.moved % 16 = 0) && s.bucketLow o.fn 1 (s.copyClass o)

/-- Moves up to `n` words of an operation, each debiting the copy bucket; stops at the first failure, and where a bucket
or an earlier row holds it (R349, R350). -/
def State.moveWords (s : State) (v : View) (id : Nat) (o : AsyncOp) : Nat → State × AsyncOp × Option Raise
  | 0 => (s, o, none)
  | n + 1 =>
    let k := o.redo.headD o.moved
    if (o.redo = [] ∧ o.words ≤ o.moved) ∨ s.copyHeld o ∨ s.scatHeld id o k then (s, o, none)
    else
      let r := s.wordAt v o k
      match r.2 with
      | .error e => (r.1, o, some e)
      | .ok w =>
        if s.opticalHeld o w.st w.dt then (s, o, none)
        else
        let m := (r.1.debit o.fn 1 (s.copyClass o) 8).moveWord v id k w.st w.dt w.sa w.da
        let o1 := if o.redo = [] then { o with moved := o.moved + 1 } else { o with redo := o.redo.drop 1 }
        m.1.moveWords v id { o1 with landed := o1.landed + (if m.2 then 8 else 0) } n

/-- Subtracts a landed unit from the barrier object of a `.bar` operation (R240, R243); a peer's by a request, whose
response may end the operation. -/
def State.barUnit (s : State) (v : View) (id : Nat) (o : AsyncOp) : State × AsyncOp × Option Raise :=
  if o.ntf ≠ 1 ∨ o.landed = 0 then (s, o, none)
  else
    let r := s.hubAt v o.e 16 5
    match r.2 with
    | .error e => (r.1, o, some e)
    | .ok t =>
      let n := min o.landed 4096
      let o1 := { o with landed := o.landed - n }
      match t with
      | .peer p pa => (r.1.peerSend { v.ask ((BarOp.land n).msg p pa) o.e 5 with op := id }, o1, none)
      | t =>
        let q := r.1.readT v t 16 true
        let b := BarObj.ofNat q.2
        if ¬ b.init then (q.1, o, some { cause := 19, addr := o.e, info := BitVec.ofNat 64 (0x20 * 2 ^ 32) })
        else (q.1.writeT v t 16 true ((BarOp.land n).new b).toNat, o1, none)

/-- Whether an operation is a copy, gather or scatter. -/
def AsyncOp.isCopy (o : AsyncOp) : Bool := decide (o.cls = 1) || decide (o.cls = 2)

/-- One unit of a copy: at most 4,096 bytes move, and they leave the barrier object (R240, R350). Of a collective, the
bytes that lines written here have landed leave it. -/
def State.copyUnit (s : State) (id : Nat) : State :=
  match tget s.ops id with
  | none => s
  | some o =>
    if o.paused.isSome then s
    else if o.opc = 0xD4 then
      let b := s.barUnit (s.opView o) id o
      match b.2.2 with
      | some e => b.1.opFault id b.2.1 e
      | none => { b.1 with ops := tput b.1.ops id b.2.1 }
    else if ¬ o.isCopy then s
    else
      let v := s.opView o
      let b0 := s.barUnit v id o
      match b0.2.2 with
      | some e => b0.1.opFault id b0.2.1 e
      | none =>
        let m := b0.1.moveWords v id b0.2.1 512
        let b := m.1.barUnit v id m.2.1
        let s2 := { b.1 with ops := tput b.1.ops id b.2.1 }
        match b.2.2.orElse fun _ => m.2.2 with
        | some e => s2.opFault id b.2.1 e
        | none => s2

/-- COPY_UNIT_LAND (R240). -/
def execCopyUnitLand (op : Nat) (s : State) : Host.Outcome State Fault Refusal :=
  .next (match tget s.ops op with | some o => s.winFollow (s.copyUnit op) o.wg | none => s)

/-- The held fault that the next word of a running copy meets; none while the word's index is asked of a peer. -/
def State.nextFault (s : State) (o : AsyncOp) : Option Raise :=
  if o.redo = [] ∧ o.words ≤ o.moved then none
  else
    let q := s.wordAt (s.opView o) o (o.redo.headD o.moved)
    match q.2 with
    | .error e => if q.1.wants.isEmpty && heldCause (s.ctxD o.fn o.ctx) e then some e else none
    | .ok _ => none

/-- Whether a running copy's next word may move now. -/
def State.mayMove (s : State) (id : Nat) (o : AsyncOp) : Bool :=
  !(decide (o.redo = []) && decide (o.words ≤ o.moved)) && !s.copyHeld o && !s.scatHeld id o (o.redo.headD o.moved) &&
    match (s.wordAt (s.opView o) o (o.redo.headD o.moved)).2 with
    | .ok w => !s.opticalHeld o w.st w.dt
    | .error _ => true

/-- ENGINE_PAGE_FAULT: the operation pauses with its record; nothing else changes (R243). -/
def execEnginePageFault (op : Nat) (s : State) : Host.Outcome State Fault Refusal :=
  match tget s.ops op with
  | none => .next s
  | some o =>
    if ¬ o.isCopy ∨ o.paused.isSome then .next s
    else match s.nextFault o with
      | some e => .next (s.opFault op o e)
      | none => .next s

/-! ### Notification and completion (R240) -/

/-- A `.wake` of one row of a bin at the hub (R183, R240). -/
def State.wakeNote (s : State) (v : View) (o : AsyncOp) : State × Option Raise :=
  let r := s.hubAt v o.e 64 5
  match r.2 with
  | .error e => (r.1, some e)
  | .ok t =>
    let q := (r.1.lockTake t.key).readP v t 64 o.e 5
    match q.2 with
    | .error (c, i) => (q.1, some { cause := c, addr := o.e, info := BitVec.ofNat 64 i })
    | .ok x =>
      let b := Bin.ofNat x
      if ¬ b.init then (q.1, some { cause := 19, addr := o.e, info := BitVec.ofNat 64 (0x10 * 2 ^ 32) })
      else
        let m := q.1.readMaps v b false true
        match m.2 with
        | .error e => (m.1, some e)
        | .ok (oc, wk) =>
          match firstErr (oc.ps ++ wk.ps) with
          | some e => (m.1, some e)
          | none => (m.1.wake v t o.e b oc wk [o.imm.toNat], none)

/-- Changes a word that an engine's operation names; its failure. -/
def State.noteWord (s : State) (v : View) (a : Word) (n kind : Nat) (o : HubOp) : State × Option Raise :=
  let r := s.hubAt v a n kind
  match r.2 with
  | .error e => (r.1, some e)
  | .ok t => r.1.hubDo v t a n o

/-- The bin of a `.wake` is in the middle of another step's operation, which the notification `e` waits for (R188). -/
def State.wakeHeld (s : State) (o : AsyncOp) (e : Instr) : Bool :=
  decide (o.ntf = 3) &&
    (match (s.hubAt (s.opView o) o.e 64 5).2 with
      | .ok t => !{ s with asker := .step e }.lockFree t.key
      | .error _ => false)

/-- Performs the notification; a peer's has been answered when it is done. -/
def State.notify (s : State) (v : View) (o : AsyncOp) : State × Option Raise :=
  match o.ntf with
  | 2 => s.noteWord v o.e 4 1 (.set o.imm.toNat)
  | 3 => s.wakeNote v o
  | 4 => s.noteWord v o.e 8 2 (.add (2 ^ 64 - o.imm.toNat))
  | _ => (s, none)

/-! ### Collectives (R244, R436 to R438) -/

/-- This device's port. -/
def AsyncOp.port (o : AsyncOp) (self : Nat) : Nat := (o.peers.findIdx? (· = self)).getD 0

/-- Payload lines. -/
def AsyncOp.lines (o : AsyncOp) : Nat := o.rb / 128

/-- The port of the reduction point of a line for kinds 0 to 2 (Table 25.4). -/
def AsyncOp.pointPort (o : AsyncOp) (l : Nat) : Nat :=
  if o.kind = 1 then l % o.peers.length else o.port o.root

/-- DST lines that the collective writes on this device. -/
def AsyncOp.dstLines (o : AsyncOp) (self : Nat) : Nat :=
  match o.kind with
  | 0 => if o.port self = o.port o.root then o.lines else 0
  | 3 => o.lines * o.peers.length
  | _ => o.lines

/-- Own lines that this device sends or contributes. -/
def AsyncOp.srcLines (o : AsyncOp) (self : Nat) : Nat :=
  if o.kind = 2 ∧ o.port self ≠ o.port o.root then 0 else o.lines

/-- The bytes of elements summed in ascending port order (R75), every NaN result canonical (R54). Saturation is off: R75 does
not say whether FMT bit 40 of the issuing group, which R55 gives to every IEEE result, reaches the fabric's sums, and the
participants' groups need not agree on it (DESIGN CHOICE, assumption log 67). -/
def collSum (ty : Nat) (cs : List (List Byte)) : List Byte :=
  let f := (Fmt.ofCode ty).getD (.tap 8)
  let w := f.width
  let sums (k : Nat) : Nat :=
    let xs := cs.map fun b => ofBytes ((b.drop (k * w / 8)).take (w / 8))
    match f with
    | .tap n =>
      let q := xs.foldl (fun (a : Nat × Nat) p => accumulate (quireW n) (quireF n) a.1 a.2 (decTap n p)) (0, 0)
      encode f 0 false (quireVal (quireW n) (quireF n) q.1)
    | _ =>
      let g := (Fmt.ofCode 13).getD f
      let ys := xs.map fun p => if ty = 13 then p else encode g 0 false (decode f p)
      let z := match ys with | [] => 0 | y :: t => encode g 0 false (decode g (t.foldl (addPat g 0 false) y))
      if ty = 13 then z else encode f 0 false (decode g z)
  (List.range (1024 / w)).flatMap fun k => toBytes (w / 8) (sums k)

/-- Reads 128 bytes of SRC. -/
def State.collRead (s : State) (v : View) (a : Word) : Nat → State × Except Raise (List Byte)
  | 0 => (s, .ok [])
  | n + 1 =>
    let r := s.hubRead v a 8
    match r.2 with
    | .error e => (r.1, .error e)
    | .ok x =>
      let q := r.1.collRead v (a + 8) n
      match q.2 with
      | .error e => (q.1, .error e)
      | .ok l => (q.1, .ok (toBytes 8 x ++ l))

/-- Charges a line that a collective writes (R390, Table 20.5). -/
def State.chargeLine (s : State) (v : View) (a : Word) : State :=
  match (s.hubAt v a 8 0).2 with
  | .ok t => if s.lineCost t = 0 then s else s.charge v.fn (s.lineCost t)
  | .error _ => s

/-- Writes 128 bytes of DST once every word is checked; what lies at a peer by requests of the operation. -/
def State.collWrite (s : State) (v : View) (id : Nat) (a : Word) (bs : List Byte) : State × Option Raise :=
  let r := s.resolveAll v 8 8 1 true ((List.range 16).map fun i => (0, a + BitVec.ofNat 64 (8 * i)))
  match r.2 with
  | .error e => (r.1, some e)
  | .ok ps =>
    match firstErr ps with
    | some e => (r.1, some e)
    | none =>
      (((r.1.chargeLine v a).writeAll v 8 1 true (ps.zipIdx.map fun p =>
        (p.1, ofBytes ((bs.drop (8 * p.2)).take 8)))).tagPeer s.tick id 0, none)

/-- A contribution, or a line's result, sent to a peer: one flit (R349, R390, R428). Its message names the collective by what
participants agree on: KIND, TYPE and how many they are (assumption log 49). -/
def State.collSend (s : State) (v : View) (id l p : Nat) (bs : List Byte) : State :=
  let o := tget s.ops id
  let f (g : AsyncOp → Nat) : Nat := (o.map g).getD 0
  s.peerSend
    { v.ask { peer := p, pa := l, n := f fun o => o.peers.length, kind := 5, sub := f AsyncOp.kind
              ty := BitVec.ofNat 6 (f AsyncOp.ty), data := bs } 0 1 with op := id, word := l }

/-- The DST address of a line index of this device. -/
def AsyncOp.dstAt (o : AsyncOp) (l : Nat) : Word := o.dst + BitVec.ofNat 64 (128 * l)

/-- Contributions of a line of this device, in port order. -/
def AsyncOp.got (o : AsyncOp) (l : Nat) : List (List Byte) :=
  (o.contrib.filter fun p => decide (p.1 / 1024 = l)).map Prod.snd

/-- Contributions that a line of DST here waits for at its own counter. -/
def AsyncOp.need (o : AsyncOp) (self l : Nat) : Nat :=
  if o.kind ≤ 1 ∧ o.pointPort l = o.port self then o.peers.length else 1

/-- READY increments by 1 (R437). -/
def State.collReady (s : State) (o : AsyncOp) : State × Option Raise :=
  s.noteWord (s.opView o) o.ready 4 2 (.add 1)

/-- Every DST line that the collective writes here is written, at a peer's too (R300, R437). -/
def State.linesDone (s : State) (id : Nat) (o : AsyncOp) : Bool :=
  decide (o.dstLines s.selfid.toNat ≤ o.written.length)
    && !s.peerOut.any fun p => decide (p.op = id) && decide (p.msg.kind = 1)

/-- READY increments once, when every DST line that the collective writes here is written; where it writes none it
increments before the completion. -/
def State.collMark (s : State) (id : Nat) (o : AsyncOp) : State :=
  if o.sent ∨ ¬ s.linesDone id o then s
  else
    let r := s.collReady o
    match r.2 with
    | some e => r.1.opFault id o e
    | none => { r.1 with ops := tput r.1.ops id { o with sent := true } }

/-- The optical bucket holds back a line whose result the reduction point of an all-reduce sends (R350). -/
def State.lineWaits (s : State) (o : AsyncOp) (l : Nat) : Bool :=
  decide (o.kind = 1) && decide (o.pointPort l = o.port s.selfid.toNat) && decide (o.peers.length ≠ 1)
    && s.bucketLow o.fn 2 (s.wgD o.wg).tbclass

/-- Writes a complete line, and sends the result where this device is the reduction point of an all-reduce
(Table 25.4); the last line raises READY. -/
def State.collLine (s : State) (id : Nat) (o : AsyncOp) (l : Nat) : State :=
  let v := s.opView o
  if o.written.contains l ∨ (o.got l).length < o.need s.selfid.toNat l ∨ o.dstLines s.selfid.toNat ≤ l
      ∨ s.lineWaits o l then
    { s with ops := tput s.ops id o }
  else
    let bs := if o.need s.selfid.toNat l = 1 ∧ ¬ (o.kind ≤ 1 ∧ o.pointPort l = o.port s.selfid.toNat) then
        (o.got l).headD [] else collSum o.ty (o.got l)
    let r := s.collWrite v id (o.dstAt l) bs
    match r.2 with
    | some e => { r.1 with ops := tput r.1.ops id o }.opFault id o e
    | none =>
      let o1 := { o with written := o.written ++ [l], landed := o.landed + (if o.ntf = 1 then 128 else 0) }
      let s1 := { r.1 with ops := tput r.1.ops id o1 }
      let s2 := if o.kind = 1 ∧ o.pointPort l = o.port s.selfid.toNat then
          (o.peers.filter fun p => decide (p ≠ s.selfid.toNat)).foldl (fun t p => t.collSend v id l p bs) s1
        else s1
      s2.collMark id o1

/-- The next own line is read, and sent or landed here. -/
def State.collOwn (s : State) (id : Nat) (o : AsyncOp) (l : Nat) : State :=
  let v := s.opView o
  let self := s.selfid.toNat
  let r := s.collRead v (o.src + BitVec.ofNat 64 (128 * l)) 16
  match r.2 with
  | .error e => r.1.opFault id o e
  | .ok bs =>
    let o1 := { o with moved := o.moved + 1 }
    let me := o.port self
    let here := if o.kind ≤ 1 then decide (o.pointPort l = me) else true
    let dl := if o.kind = 3 then me * o.lines + l else l
    let tos : List Nat :=
      if o.kind ≤ 1 then (if here then [] else [o.peers.getD (o.pointPort l) 0])
      else o.peers.filter fun p => decide (p ≠ self)
    let s1 := tos.foldl (fun t p => t.collSend v id (if o.kind = 3 then me * o.lines + l else l) p bs) r.1
    if here then s1.collLine id { o1 with contrib := tput o1.contrib (1024 * dl + me) bs } dl
    else { s1 with ops := tput s1.ops id o1 }

/-- A contribution of another port waits in the hub cache (R437). -/
def AsyncOp.keep (o : AsyncOp) (self line port : Nat) (data : List Byte) : AsyncOp :=
  if port = o.port self ∨ o.dstLines self ≤ line then o else { o with contrib := tput o.contrib (1024 * line + port) data }

/-- The device's own next line, or a contribution of another port, lands. One that comes before the COLL is matched, or
while it is paused, waits (R437). -/
def State.contribLand (s : State) (op line port : Nat) (data : List Byte) : State :=
  match tget s.ops op with
  | none => s
  | some o =>
    let k := o.keep s.selfid.toNat line port data
    if o.opc ≠ 0xD4 then s
    else if ¬ o.matched ∨ o.paused.isSome then (if k = o then s else { s with ops := tput s.ops op k })
    else if port = o.port s.selfid.toNat ∧ line = o.moved ∧ line < o.srcLines s.selfid.toNat then
      (if s.bucketLow o.fn 2 (s.wgD o.wg).tbclass then s else s.winFollow (s.collOwn op o line) o.wg)
    else s.winFollow (s.collLine op k line) o.wg

/-- COLL_CONTRIB_LAND. -/
def execCollContribLand (op line port : Nat) (data : List Byte) (s : State) : Host.Outcome State Fault Refusal :=
  .next (s.contribLand op line port data)

/-- Whether a collective is the one that a peer's contribution to a line is for: it agrees with the message, and still waits
for that line from the peer. -/
def AsyncOp.takes (o : AsyncOp) (kind ty n line peer : Nat) : Bool :=
  decide (o.opc = 0xD4) && decide (o.kind = kind) && decide (o.ty = ty) && decide (o.peers.length = n) && o.peers.contains peer
    && !o.written.contains line && (tget o.contrib (1024 * line + o.port peer)).isNone

/-- A peer's contribution lands at the oldest collective that it can be for (R437; assumption log 49). -/
def State.peerContrib (s : State) (peer kind ty n line : Nat) (data : List Byte) : State :=
  match s.ops.find? fun p => p.2.takes kind ty n line peer with
  | some p => s.contribLand p.1 line (p.2.port peer) data
  | none => s

/-- A COLL is the one to match next: the oldest unmatched one of the device with its PEERS, since the hub accepts them in the
order of their numbers (R436). -/
def State.collNext (s : State) (id : Nat) (o : AsyncOp) : Bool :=
  !s.ops.any fun p => decide (p.1 < id) && decide (p.2.opc = 0xD4) && !p.2.matched && decide (p.2.peers = o.peers)

/-- COLL_MATCH: the COLLs of the other participants have come, and agree, or the collective fails (R436). -/
def execCollMatch (op : Nat) (others : List CollHead) (s : State) : Host.Outcome State Fault Refusal :=
  match tget s.ops op with
  | none => .next s
  | some o =>
    if o.opc ≠ 0xD4 ∨ o.matched ∨ others.length + 1 ≠ o.peers.length ∨ ¬ s.collNext op o then .next s
    else if others.all fun h => decide (h.kind = o.kind) && decide (h.ty = o.ty) && decide (h.bytes = o.rb)
        && decide (h.root = o.root) then
      .next { s with ops := tput s.ops op { o with matched := true } }
    else .next (s.opFail op o 0x2B 19 o.list)

/-- A line that this device still sends to port `q`: of its own, or the result of a line that it reduces (Table 25.4). -/
def AsyncOp.dueTo (o : AsyncOp) (self q : Nat) : Bool :=
  ((List.range (o.srcLines self)).any fun l => decide (o.moved ≤ l) && (decide (2 ≤ o.kind) || decide (o.pointPort l = q)))
    || (decide (o.kind = 1) && (List.range o.lines).any fun l => decide (o.pointPort l = o.port self) && !o.written.contains l)

/-- A line that this device still waits for from port `q`. -/
def AsyncOp.dueFrom (o : AsyncOp) (self q : Nat) : Bool :=
  (List.range (o.dstLines self)).any fun l =>
    !o.written.contains l && (tget o.contrib (1024 * l + q)).isNone &&
      (match o.kind with
        | 2 => decide (q = o.port o.root)
        | 3 => decide (l / o.lines = q)
        | _ => decide (o.pointPort l = o.port self) || decide (o.pointPort l = q))

/-- A matched collective with lines still due to or from a peer that no link reaches (R438). -/
def State.collCut (s : State) (o : AsyncOp) : Bool :=
  let self := s.selfid.toNat
  o.matched && o.peers.any fun p =>
    decide (p ≠ self) && decide (s.usable p = []) && (o.dueTo self (o.port p) || o.dueFrom self (o.port p))

/-- A collective has sent its contribution and written its lines (R244). -/
def State.collDone (s : State) (id : Nat) (o : AsyncOp) : Bool :=
  let self := s.selfid.toNat
  o.matched && decide (o.srcLines self ≤ o.moved) && decide (o.dstLines self ≤ o.written.length)
    && (decide (o.ntf ≠ 1) || decide (o.landed = 0))
    && !s.peerOut.any fun p => decide (p.op = id)

/-- A copy whose payload has landed. -/
def State.copyDone (s : State) (id : Nat) (o : AsyncOp) : Bool :=
  decide (o.words ≤ o.moved) && decide (o.redo = []) && (decide (o.ntf ≠ 1) || decide (o.landed = 0))
    && !s.peerOut.any fun p => decide (p.op = id)

/-- The notification, and then the end of an operation. -/
def State.opFinish (s : State) (id : Nat) (o : AsyncOp) : State :=
  let v := s.opView o
  let q := s.notify v o
  match q.2 with
  | some e => q.1.opFault id o e
  | none => q.1.opGone id o 0

/-- READY of a collective may be raised before its completion. -/
def State.readyDue (s : State) (id : Nat) (o : AsyncOp) : Bool :=
  o.matched && !o.sent && decide (o.dstLines s.selfid.toNat ≠ 0) && s.linesDone id o

/-- ASYNC_OP_COMPLETE: a landed operation notifies and completes, once no other step holds the bin that it wakes; a
collective whose lines are written raises READY, and one that is cut off fails (R240, R437, R438). -/
def State.opStep (s : State) (op : Nat) (o : AsyncOp) : State :=
  if o.paused.isSome ∨ s.wakeHeld o (.asyncOpComplete op) then s
  else if o.isCopy then (if s.copyDone op o then s.opFinish op o else s)
  else if s.collCut o then s.opFail op o 0 12 o.dst
  else if ¬ s.collDone op o then (if s.readyDue op o then s.collMark op o else s)
  else
    let s1 := s.collMark op o
    match tget s1.ops op with
    | some o1 => if o1.sent then s1.opFinish op o1 else s1
    | none => s1

def execAsyncOpComplete (op : Nat) (s : State) : Host.Outcome State Fault Refusal :=
  match tget s.ops op with
  | none => .next s
  | some o => .next (s.winFollow (s.opStep op o) o.wg)

/-- An invalid collective descriptor (Table 9.9, R436). -/
def collBad (d : Nat → Word) : Bool :=
  let kind := bits (d 3) 3 0
  let ty := bits (d 3) 7 4
  decide (bits (d 0) 6 0 ≠ 0) || decide (bits (d 1) 6 0 ≠ 0) || decide (bits (d 2) 6 0 ≠ 0)
    || decide (bits (d 2) 63 32 ≠ 0) || decide (3 < kind)
    || (if kind ≤ 1 then !([8, 9, 10, 12, 13].contains ty) else decide (ty ≠ 0))
    || decide (bits (d 3) 15 8 ≠ 0) || decide (bits (d 3) 31 16 = 0) || decide (1024 < bits (d 3) 31 16)
    || decide (bits (d 3) 63 42 ≠ 0) || decide (spaceOf (d 5) ≠ 0) || decide (bits (d 5) 1 0 ≠ 0) || decide (d 6 ≠ 0) || decide (d 7 ≠ 0)

/-- Whether PEERS and ROOT fit this device (R436). -/
def peersBad (self kind root : Nat) (peers : List Nat) : Bool :=
  decide (peers.count self ≠ 1) || ((decide (kind = 0) || decide (kind = 2)) && !peers.contains root)

/-- Reads 8-byte words at the group's issue: requests that leave its die are counted, and what lies at a peer comes
first (R305, R349). -/
def wordsAt (s : State) (v : View) (n kind : Nat) (as : List (Nat × Word))
    (f : State → List Nat → Effect) : Effect :=
  let r := s.resolveAll v n n kind (kindWrites kind) as
  match r.2 with
  | .error e => .trap r.1 e none
  | .ok ps =>
    let a := (r.1.account v false false ps).askAll v n kind ps
    match firstErr a.2 with
    | some e => .done (a.1.late s.cur v.fn v.ctx e false) []
    | none => let q := a.1.readRow v n ps; f q.1 q.2

/-- COLL: the descriptor and PEERS are read and checked before the group's next issue (R244). -/
def collBody (sl : Slot) (s : State) (x : Group) : Effect :=
  let v := s.viewOf s.cur
  let a := s.ssrc x sl sl.a
  let w := s.wgD x.wg
  match s.preCheck v [0, 1, 4] a 64 64 0 0 with
  | some e => .trap s e none
  | none =>
    wordsAt s v 8 0 ((List.range 8).map fun i => (0, a + BitVec.ofNat 64 (8 * i))) fun s ws =>
      let d (i : Nat) : Word := BitVec.ofNat 64 (ws.getD i 0)
      if collBad d then syncTrap s 0x28 a
      else
        wordsAt s v 2 0 ((List.range (bits (d 3) 31 16)).map fun i => (0, d 4 + BitVec.ofNat 64 (2 * i))) fun s ps =>
          let kind := bits (d 3) 3 0
          let root := bits (d 3) 41 32
          if peersBad s.selfid.toNat kind root ps then syncTrap s 0x28 a
          else
            let o : AsyncOp :=
              { opc := 0xD4, fn := w.fn, ctx := w.ctx, wg := x.wg, grp := s.cur, cls := 3, batch := x.openB 3
                scp := sl.scp.toNat, dst := d 1, src := d 0, rb := bits (d 2) 31 0, rows := 1, dstride := 0
                sstride := 0, list := a, ntf := modN sl, e := if modN sl = 0 then 0 else s.ssrc x sl sl.e
                imm := sl.imm, kind := kind, ty := bits (d 3) 7 4, peers := ps, root := root, ready := d 5 }
            match s.ntfCheck v o with
            | some e => .trap s e none
            | none => .done { s.bump with ops := tput s.ops s.tick o } []

def execColl (sl : Slot) : State → Host.Outcome State Fault Refusal := runSlot (fColl sl) .none sl (collBody sl)

/-! ### Task cards (R245, R246, R348) -/

/-- A card read from eight words. -/
def cardOf (d : Nat → Word) (launch seq : Nat) : Card :=
  { entry := d 0, param := d 1, user := d 2, signal := d 3, gran := bits (d 4) 6 0, scnt := 8 * bits (d 4) 11 8
    groups := bits (d 4) 24 16, scratch := bits (d 4) 63 32, tiles := bits (d 5) 7 0, prio := bits (d 5) 10 8
    energy := bits (d 5) 63 32, launch := launch, seq := seq }

/-- An invalid card (Table 9.10). -/
def cardBad (d : Nat → Word) : Bool :=
  let g := bits (d 4) 6 0
  let sc := bits (d 4) 11 8
  let n := bits (d 4) 24 16
  decide (g = 0) || decide (64 < g) || decide (sc = 0) || decide (12 < sc) || decide (n = 0) || decide (256 < n)
    || decide (4194304 < bits (d 4) 63 32) || decide (128 < bits (d 5) 7 0)
    || decide (bits (d 4) 7 7 ≠ 0) || decide (bits (d 4) 15 12 ≠ 0) || decide (bits (d 4) 31 25 ≠ 0)
    || decide (bits (d 5) 31 11 ≠ 0) || decide (d 6 ≠ 0) || decide (d 7 ≠ 0)

/-- The logical core that a POST names, or none outside the partition. -/
def postCore (sl : Slot) (s : State) (x : Group) : Option Nat :=
  let f := s.fnD (s.wgD x.wg).fn
  match subN sl with
  | 0 => some x.core
  | 1 => some (4 * clusterOf x.core + immN sl % 4)
  | _ =>
    let n := (s.ssrc x sl sl.b).toNat
    if n < 16 * f.count then some (16 * f.first + n) else none

/-- Cards in all backing rings of a function. -/
def State.spilledOf (s : State) (fn : Nat) : Nat :=
  (s.cores.map fun p => (p.2.spilled.filter fun c =>
    match tget s.launches c.launch with | some l => decide (l.fn = fn) | none => false).length).sum

/-- The backing ring of a core in a context: its address (Table 23.4). -/
def State.spillRing (s : State) (fn ctx core : Nat) : Word := (s.ctxD fn ctx).spill + BitVec.ofNat 64 (64 * core)

/-- Spills a card's words to a backing ring; none when the ring has no room, and none within while another POST writes to
it. -/
def State.spillPut (s : State) (v : View) (a : Word) (ws : List Nat) : Option (Option State) :=
  let r := s.ringAt v a 6
  match r.2 with
  | .error _ => none
  | .ok (.err _ _, _) => none
  | .ok (t, b) =>
    if ¬ s.lockFree t.key then some none
    else if ¬ b.valid ∨ b.esize ≠ 8 ∨ b.full then none
    else
      let q := (r.1.lockTake t.key).ringElem v b b.pidx true
      match q.2 with
      | .error _ => none
      | .ok ps =>
        if (firstErr ps).isSome then none
        else
          let u := q.1.ringPush v t a b ps ws
          if u.2.isSome then none else some (some u.1)

/-- POST once its card is read and checked. -/
def postCard (s : State) (v : View) (x : Group) (core : Nat) (c : Card) (ws : List Nat) : Effect :=
  let s1 := ((s.release v.die 3).updLaunch c.launch fun l => { l with remaining := l.remaining + 1 }).bump
  if (s.coreD core).taskq.length < 64 ∧ (s.coreD core).spilled = [] then
    .done (s1.updCore core fun k => { k with taskq := k.taskq ++ [c] }) []
  else
    let quota := trapNow s 20 0 0
    if (s.fnD v.fn).spillQ ≤ s.spilledOf v.fn then quota
    else
      match s1.spillPut (s1.hubView v.fn v.ctx) (s1.spillRing v.fn v.ctx core) ws with
      | none => quota
      | some none => s.stalled x
      | some (some s2) => .done (s2.updCore core fun k => { k with spilled := k.spilled ++ [c] }) []

/-- POST. -/
def postBody (sl : Slot) (s : State) (x : Group) : Effect :=
  let v := s.viewOf s.cur
  let a := s.ssrc x sl sl.a
  match s.preCheck v [0, 1] a 64 64 0 0 with
  | some e => .trap s e none
  | none =>
    wordsAt s v 8 0 ((List.range 8).map fun i => (0, a + BitVec.ofNat 64 (8 * i))) fun s ws =>
      let d (i : Nat) : Word := BitVec.ofNat 64 (ws.getD i 0)
      let c := { cardOf d (s.wgD x.wg).launch s.tick with wg := x.wg }
      if cardBad d ∨ ¬ c.need.fits then syncTrap s 0x29 a
      else
        match postCore sl s x with
        | none => syncTrap s 0x2A a
        | some core => syncAfter s x (postCard s v x core c ws)

def execPost (sl : Slot) : State → Host.Outcome State Fault Refusal := runSlot (fPost sl) .none sl (postBody sl)

/-! ### Tier hints (R247, R325) -/

/-- The start and length of a hint's range within its space, cut at the end of the space; an address beyond it reaches
no page. -/
def hintRange (a len : Word) : Nat × Nat :=
  (bits a 51 0, if bits a 59 52 = 0 then min len.toNat (2 ^ 52 - bits a 51 0) else 0)

/-- Whether an entry's page meets a range. -/
def wsMeets (e : Word) (sp lo n : Nat) : Bool :=
  decide (n ≠ 0) && wsValid e && (e.getLsbD 5 == decide (sp = 4)) && decide (bits e 51 16 * 65536 < lo + n)
    && decide (lo < bits e 51 16 * 65536 + wsSize e)

/-- Sets a bit in every entry of a working set that meets a range. -/
def State.wsFlag (s : State) (fn ctx sp lo n bit : Nat) : State :=
  let s1 := s.wsReady fn ctx
  (s1.wsEntries fn ctx).foldl (fun t p =>
    if wsMeets p.2 sp lo n then t.hubPut fn ctx p.1 8 (setBits p.2 bit bit 1).toNat else t) s1

/-- `.need` on one page: NEED, with an entry appended first where none lists it, and a move up asked of Strudel. -/
def State.needPage (s0 : State) (fn ctx sp base size : Nat) (l : Word) : State :=
  let s := s0.wsReady fn ctx
  let s1 := if (s.wsEntries fn ctx).any fun p => wsLists p.2 sp base then s
            else s.wsAppend fn ctx (setBits (wsEntry size base sp) 4 4 (if leafTier l = 0 then 1 else 0))
  let s2 := s1.wsFlag fn ctx sp base 1 3
  if leafTier l = 1 ∧ ¬ leafLost l ∧ ¬ s2.moves.any (fun m => decide (m.fn = fn) && decide (m.ctx = ctx)
      && decide (m.space = sp) && decide (m.va = base)) then
    { s2.bump with
      moves := s2.moves ++ [{ id := s2.tick, fn := fn, ctx := ctx, space := sp, va := base, up := true, signal := 0 }] }
  else s2

/-- `.need` on the mapped pages that meet the range up to `e`, from the page or hole that holds `va` on: a hole at
level 1, 2 or 3 of the tables is passed whole. `k` bounds the steps. -/
def State.needRange (s : State) (fn ctx sp e : Nat) : Nat → Nat → State
  | 0, _ => s
  | k + 1, va =>
    if e ≤ va then s
    else
      match s.lookup (s.ctxD fn ctx) sp va with
      | .leaf l _ size _ => (s.needPage fn ctx sp (va / size * size) size l).needRange fn ctx sp e k (va / size * size + size)
      | .bad _ level =>
        let hole := if level = 1 then 2 ^ 40 else if level = 2 then 2 ^ 28 else 2 ^ 16
        s.needRange fn ctx sp e k (va / hole * hole + hole)
      | .fail _ _ => s.needRange fn ctx sp e k (va / 2 ^ 16 * 2 ^ 16 + 2 ^ 16)

/-- TIERH.need. -/
def tierhNeedBody (sl : Slot) (s : State) (x : Group) : Effect :=
  let w := s.wgD x.wg
  let a := s.ssrc x sl sl.a
  let r := hintRange a (s.ssrc x sl sl.b)
  let sp := spaceOf a
  if sp ≠ 0 ∧ sp ≠ 4 then .done s []
  else .done (s.needRange w.fn w.ctx sp (r.1 + r.2) (r.2 / 65536 + 2) r.1) []

def execTierhNeed (sl : Slot) : State → Host.Outcome State Fault Refusal :=
  runSlot (fTierh 0 sl) .none sl (tierhNeedBody sl)

/-- TIERH.cold. -/
def tierhColdBody (sl : Slot) (s : State) (x : Group) : Effect :=
  let w := s.wgD x.wg
  let a := s.ssrc x sl sl.a
  let r := hintRange a (s.ssrc x sl sl.b)
  let sp := spaceOf a
  if sp ≠ 0 ∧ sp ≠ 4 then .done s [] else .done (s.wsFlag w.fn w.ctx sp r.1 r.2 2) []

def execTierhCold (sl : Slot) : State → Host.Outcome State Fault Refusal :=
  runSlot (fTierh 1 sl) .none sl (tierhColdBody sl)

end Sys2Proof.Machine
end

