-- ==== Sys2Proof/Machine/Select.lean ====
section
/-! DEFINITION. Issue selection on a sub-core (R41, R112, R351), and where a test word is placed for the fetch. -/

namespace Sys2Proof.Machine

/-- The group has used up its pre-emption budget and is to be force-saved (R259, R368). -/
def Group.overrun (x : Group) : Bool :=
  decide (x.phase = .resident) && decide (x.budget = 0)
    && (x.preempt || (x.trapMode && x.inPreempt && !x.trapInfo.getLsbD 0))

/-- The group may issue: resident, in no wait, its STALL over, within its budget. Token waits and interlocks are met at the
slot (R41). -/
def Group.mayIssue (x : Group) : Bool :=
  decide (x.phase = .resident) && decide (x.wait = .none) && decide (x.stall = 0) && !x.overrun

/-- The groups that may issue. -/
def State.issuers (s : State) : List (Nat × Group) := s.groups.filter fun p => p.2.mayIssue

/-- Cycles since a group last issued. -/
def State.waited (s : State) (x : Group) : Nat := ((s.coreD x.core).cycle - x.lastIssue).toNat

/-- Of two groups, the one that has waited longer; ties go to the one placed earlier (R351). -/
def State.longer (s : State) (a b : Nat × Group) : Nat × Group :=
  if s.waited a.2 < s.waited b.2 ∨ (s.waited a.2 = s.waited b.2 ∧ b.2.placedAt < a.2.placedAt) then b else a

def State.longest (s : State) : List (Nat × Group) → Option (Nat × Group)
  | [] => none
  | a :: t => some (t.foldl s.longer a)

/-- The choice of one sub-core among its ready groups (R351, R112). -/
def State.choose (s : State) (key : Nat) (l : List (Nat × Group)) : Option Nat :=
  let old := l.filter fun p => decide (1024 ≤ s.waited p.2)
  let last := l.filter fun p => decide (tget s.issued key = some p.1) && !p.2.yielded
  let fresh := l.filter fun p => !p.2.yielded
  if old ≠ [] then (s.longest old).map Prod.fst
  else if last ≠ [] then last.head?.map Prod.fst
  else (s.longest (if fresh = [] then l else fresh)).map Prod.fst

/-- The sub-core served next: the first from `nextSub` on, around. -/
def nextKey (from_ : Nat) (ks : List Nat) : Option Nat :=
  match (ks.filter fun k => decide (from_ ≤ k)).min? with
  | some k => some k
  | none => ks.min?

/-- The group that the default order lets issue, of those that are ready. -/
def State.pick (s : State) (ready : Nat → Bool) : Option Nat :=
  let l := s.issuers.filter fun p => ready p.1
  (nextKey s.nextSub (l.map fun p => p.2.bankKey)).bind fun k => s.choose k (l.filter fun p => decide (p.2.bankKey = k))

/-- Counts an issue of a group for R351. -/
def State.noteIssue (s : State) (g : Nat) : State :=
  let k := (s.grpD g).bankKey
  { s with
    issued := tput s.issued k g
    nextSub := k + 1
    groups := s.groups.map fun (p : Nat × Group) =>
      if p.1 = g then
        (p.1, { p.2 with lastIssue := (s.coreD p.2.core).cycle, budgetOn := decide (p.2.budget ≠ 0) })
      else p }

/-- Nothing moves: the clocks of the cores run on. -/
def State.idle (s : State) : State := (s.cores.map Prod.fst).foldl (fun t c => t.passCycles c 1) s

/-- The cores on which no group may issue, but for one. -/
def State.resting (s : State) (core : Nat) : List Nat :=
  (s.cores.map Prod.fst).filter fun c => decide (c ≠ core) && !s.groups.any fun p => decide (p.2.core = c) && p.2.mayIssue

/-- The clocks of resting cores run with that of a core that took a turn in the step from `s` to `t`. -/
def State.restClocks (s t : State) (core : Nat) : State :=
  let n := ((t.coreD core).cycle - (s.coreD core).cycle).toNat
  (t.resting core).foldl (fun t c => t.passCycles c n) t

/-! ### Where a word is placed for the next fetch -/

/-- The location at which group `g` fetches its next slot, if it stands in its block and its page is mapped. -/
def State.fetchLoc (s : State) (g : Nat) : Option Nat :=
  match s.grp? g with
  | none => none
  | some x =>
    if ¬ x.mayIssue ∨ ¬ x.inBlock ∨ x.delayed ≠ [] ∨ bits x.pc 63 52 ≠ 0 then none
    else
      match (s.translate (s.viewOf g) 0 x.pc.toNat 0 true).2 with
      | .ok l size => if 2 ≤ leafTier l then none else some (leafFrame l * 65536 + x.pc.toNat % size)
      | _ => none

/-- A group 1 of workgroup 1 and launch 1, in context 0 of function 0, that stands at the first slot of a block
at 0x10000 whose page is mapped. -/
def State.withGroup (s : State) : State :=
  { s with
    cur := 1
    groups := tput s.groups 1
      { pc := 0x10010, block := { hdr := 0x10000, len := 1023 }, gran := 64, scount := 96, wg := 1 }
    wgs := tput s.wgs 1 { launch := 1, cores := [0], wb := 1048576, groups := [1] }
    launches := tput s.launches 1
      { fn := 0, ctx := 0, handle := 1, remaining := 1
        desc := { param := 0, preempt := 0, gx := 1, gy := 1, gz := 1, scratch := 1048576, tiles := 0
                  cores := false, prio := 0, tbclass := 0, world := 0, thresh := 0, energy := 0, prod := 0
                  early := false, roles := [] } }
    ctxs := tput s.ctxs 0 { level := 2 }
    fns := tput s.fns 0 { count := 12 }
    tlb := { die := 0, fn := 0, ctx := 0, space := 0, base := 0x10000, size := 0x10000, leaf := 0x400105 } :: s.tlb }

end Sys2Proof.Machine
end

