-- ==== Sys2Proof/Machine/Save.lean ====
section
/-! DEFINITION. Pre-emption requests, forced saves and their records, and the groups' own events (R31, R248, R253,
R259, R260, R368, R369, R442, R444). -/

namespace Sys2Proof.Machine

/-! ### Pre-emption (R259) -/

/-- Drives one group towards its pre-emption handler, or marks it for a forced save. One whose slot has asked peers ends that
slot first, since a peer may have performed it already. -/
def State.preemptGroup (s : State) (g : Nat) : State :=
  match s.grp? g with
  | none => s
  | some x =>
    let w := s.wgD x.wg
    let b := (s.ctxD w.fn w.ctx).pbudget
    let held : Bool := match x.wait with | .held _ => true | _ => false
    if x.phase ≠ .resident ∨ x.preempt ∨ (x.trapMode ∧ x.inPreempt ∧ ¬ x.trapInfo.getLsbD 0) then s
    else if s.midway (s.slotAsker g) then s.updGrp g fun y => { y with due := true }
    else if held ∨ b = 0 ∨ w.preempt = 0 then
      s.updGrp g fun y => { y with preempt := true, budget := 0, budgetOn := false }
    else if x.trapMode then s.updGrp g fun y => { y with preempt := true, budget := b, budgetOn := true }
    else ((s.unwait g).updGrp g fun y => { y with delayed := [] }).enterPreempt g

/-- Pre-empts every group of a workgroup. -/
def State.preemptWg (s : State) (w : Nat) : State := (s.wgD w).groups.foldl State.preemptGroup s

/-- The resident workgroups of a context. -/
def State.ctxWgs (s : State) (fn ctx : Nat) : List Nat :=
  (s.wgs.filter fun p => decide (p.2.fn = fn) && decide (p.2.ctx = ctx) && p.2.resident && !p.2.done).map Prod.fst

/-- PREEMPTION_REQUEST: every resident group of a context (R259). -/
def State.preemptCtx (s : State) (fn ctx : Nat) : State := (s.ctxWgs fn ctx).foldl State.preemptWg s

def execPreemptionRequest (fn ctx : Nat) (s : State) : Host.Outcome State Fault Refusal := .next (s.preemptCtx fn ctx)

/-! ### Leaving residency (R31, R347, R368) -/

/-- A workgroup whose groups have all left is saved: its matrix work completes, its window and tiles are written, and
the other workgroups of a co-resident launch are pre-empted with it. -/
def State.wgLeave (s : State) (w : Nat) : State :=
  let x := s.wgD w
  if ¬ x.resident ∨ x.groups.any fun g => decide ((s.grpD g).phase = .resident) then s
  else
    let s1 := s.matDrain w 4096
    if s1.matBusy w then s1
    else
      let s2 := ((s1.release (dieOf (x.cores.headD 0)) 3).putWg w).updWg w fun y => { y with resident := false, slots := [] }
      match tget s2.launches x.launch with
      | some l =>
        if l.desc.cores then
          (s2.wgs.filter fun p => decide (p.2.launch = x.launch) && p.2.resident && !p.2.done).foldl
            (fun t p => t.preemptWg p.1) s2
        else s2
      | none => s2

/-- The registers that a save at a block boundary keeps (R31). -/
def Group.boundary (x : Group) : Group :=
  if x.pc = x.block.hdr + 16 then
    { x with
      vregs := x.vregs.filter fun p => decide (p.1 < 8 * x.block.lvv)
      queue := x.queue.filter fun p => decide (p.1 < x.block.lvq) }
  else x

/-- The group as it stands at the slot where it resumes: outside trap mode, with the state at TRAPPC where its
pre-emption handler overran (R31, R259). -/
def Group.resumeForm (x : Group) : Group :=
  let z := x.atSlot
  let y := if z.trapMode then { z with pc := z.trapPc, kc := z.savedKc, block := z.savedBlock } else z
  { y.boundary with
    phase := .saved, wait := .none, trapMode := false, inPreempt := false, snap := none, preempt := false, budget := 0
    budgetOn := false, due := false, stall := 0, delayed := [], pend := [], tok1 := none, tok2 := none, producers := [] }

/-- Every pending result of a group is there to be written. -/
def Group.settled (x : Group) : Bool := x.pend.all fun p => p.ready

/-- Writes the pending results of a group in order. -/
def State.writePend (s : State) (g : Nat) : State :=
  ((s.grpD g).pend.foldl (fun t p => (t.writeNow g p.writes).snapWrite g p.id) s).updGrp g fun x => { x with pend := [] }

/-- FORCED_SAVE: pending results are written, once what the group did at peers is performed; then the record, and the group
leaves (R368). A group already saved lets its workgroup leave once its engine work is done. -/
def State.forceSave (s : State) (g : Nat) : State :=
  match s.grp? g with
  | none => s
  | some x =>
    if x.phase ≠ .resident then s.wgLeave x.wg
    else if ¬ x.overrun ∨ ¬ x.settled ∨ ¬ s.peerQuiet g then s
    else
      let s1 := ((s.unwait g).writePend g).freeBank g
      let q : State := if x.trapMode then s1 else (s1.arrive g).1
      let s2 := (q.release (dieOf x.core) 3).updGrp g Group.resumeForm
      (s2.putGroup g).wgLeave x.wg

def execForcedSave (g : Nat) (s : State) : Host.Outcome State Fault Refusal := .next (s.forceSave g)

/-! ### Results, traps and waits that come later -/

/-- VARIABLE_RESULT_WRITE: the pending result numbered `k` of a group is written once its value is there (R442). -/
def execVariableResultWrite (g k : Nat) (s : State) : Host.Outcome State Fault Refusal :=
  match (s.grpD g).pend.find? fun p => decide (p.id = k) with
  | none => .next s
  | some p =>
    if ¬ p.ready then .next s
    else .next (((s.writeNow g p.writes).snapWrite g k).updGrp g fun x => { x with pend := x.pend.filter fun q => decide (q.id ≠ k) })

/-- DELAYED_TRAP (R444). -/
def execDelayedTrap (g : Nat) (s : State) : Host.Outcome State Fault Refusal := .next (s.takeDelayed g)

/-- The handler of a trap: the launch's for PREEMPT, else TRAPVEC (R252). -/
def State.handlerOf (s : State) (g : Nat) (t : Trap) : Word := if t.cause = 15 then s.preemptOf g else (s.grpD g).trapVec

/-- TRAP_ENTRY: the trap bank is free and the group enters its handler, or goes on in the one it has (R253, R254, R260). -/
def execTrapEntry (g : Nat) (s : State) : Host.Outcome State Fault Refusal :=
  match (s.grpD g).wait with
  | .bank t =>
    if (s.bankD (s.grpD g).bankKey).owner.isSome then .next s
    else .next ((s.updGrp g fun x => { x with wait := .none }).enterTrap g t (s.handlerOf g t))
  | .regain =>
    if (s.bankD (s.grpD g).bankKey).owner.isSome then .next s
    else .next ((s.updGrp g fun x => { x with wait := .none }).takeBank g)
  | _ => .next s

/-- Whether the word that a group waits on meets its condition now, or the error response of its access (R194, R210); a
word at a peer is asked for (R305). A word whose address no longer passes its checks during the wait does not meet it, and the
group waits on without a trap: R210 does not say (DESIGN CHOICE, assumption log 22). -/
def State.waitNow (s : State) (g : Nat) : State × Except Raise Bool :=
  match (s.grpD g).wait with
  | .waitp a v _ sl =>
    let w := s.viewOf g
    let r := s.resolve w a 4 4 4
    match r.2 with
    | .ok t =>
      let q := r.1.readP w t 4 a 4
      match q.2 with
      | .ok x => (q.1, .ok (waitMet (subN sl) (BitVec.ofNat 32 x) v))
      | .error (c, i) => (q.1, .error { cause := c, addr := a, info := BitVec.ofNat 64 i })
    | .trap _ _ => (s, .ok false)
  | _ => (s, .ok false)

/-- Whether WAITP_WAKE has something to do: the wait ends, or its word is at a peer that is to be asked. -/
def State.waitMoves (s : State) (g : Nat) : Bool :=
  let r := s.waitNow g
  match r.2 with
  | .ok b => b || !r.1.wants.isEmpty
  | .error _ => decide ((s.grpD g).delayed = [])

/-- WAITP_WAKE: the wait ends with status 1, or its error response is met (R44, R194, R210). -/
def execWaitpWake (g : Nat) (s : State) : Host.Outcome State Fault Refusal :=
  match (s.grpD g).wait with
  | .waitp _ _ _ sl =>
    let r := s.waitNow g
    match r.2 with
    | .error e => .next (r.1.late g (r.1.viewOf g).fn (r.1.viewOf g).ctx e false)
    | .ok false => .next (if r.1.wants.isEmpty then s else r.1)
    | .ok true =>
      let d := r.1.waitDone (r.1.viewOf g) (r.1.grpD g) sl
      .next (d.1.finish g sl .blocking d.2 false)
  | _ => .next s

/-- WAITP_TIMEOUT: the wait ends with status 0 after its cycles (R210). -/
def execWaitpTimeout (g : Nat) (s : State) : Host.Outcome State Fault Refusal :=
  let x := s.grpD g
  match x.wait with
  | .waitp _ _ n sl =>
    if n = 0 then .next s
    else .next ((s.passCycles x.core n).finish g sl .blocking (scaOut x.trapMode sl.d 0 0) false)
  | _ => .next s

/-- NON_INSTRUCTION_ENCODING: ILLEGAL_INSTRUCTION with REASON 1, 2 for an unassigned SUB of a split opcode, and 6 for a
header inside a block (R33, R95, Table 3.8). -/
def execNonInstructionEncoding (opc : BitVec 8) (_sl : Slot) (s : State) : Host.Outcome State Fault Refusal :=
  match s.grp? s.cur with
  | none => .fault .noGroup
  | some x =>
    let reason := if opc = 0 then 6 else if assignedOpc opc then 2 else 1
    .next (s.raise s.cur { cause := 1, info := decInfo reason 0 } x.pc)
where
  /-- Opcodes whose rows are split by SUB. -/
  assignedOpc (o : BitVec 8) : Bool := [0xA3, 0xA6, 0xD7, 0xE8, 0xEA, 0xF1, 0xF8].contains o.toNat

end Sys2Proof.Machine
end

