-- ==== Sys2Proof/Machine/System.lean ====
section
/-! DEFINITION. The meanings of the system instructions 0xF0 to 0xFA: traps and returns, system registers, the
interrupted group's state, PDONE, BOOST, REPLAY, MEAS and CANCEL (R249 to R264, R366, R367, R383). -/

namespace Sys2Proof.Machine

/-- PERMIT_FAULT with REASON 5: above the context's privilege (R249, R262, R263). -/
def levelTrap (s : State) : Effect := trapNow s 9 0 (5 * 2 ^ 32)

/-- The privilege level of the current group's context (R251). -/
def State.levelOf (s : State) (x : Group) : Nat := (s.ctxD (s.wgD x.wg).fn (s.wgD x.wg).ctx).level

/-- TRAP (R258). -/
def trapBody (sl : Slot) (s : State) (x : Group) : Effect :=
  .trap s { cause := 17, info := BitVec.ofNat 64 (immN sl % 256) } (some (x.pc + 16))

def execTrap (sl : Slot) : State → Host.Outcome State Fault Refusal := runSlot (fTrap sl) .none sl (trapBody sl)

/-- RTT and RTT.next: they leave trap mode for a slot, which may be a header (R256). -/
def rttBody (next : Word) (s : State) (x : Group) : Effect :=
  if ¬ x.trapMode then syncTrap s 0x31 0
  else .jump ((s.leaveTrap s.cur (x.trapPc + next)).resumed s.cur)

def execRtt (sl : Slot) : State → Host.Outcome State Fault Refusal := runSlot (fRtt 0 sl) .none sl (rttBody 0)
def execRttNext (sl : Slot) : State → Host.Outcome State Fault Refusal := runSlot (fRtt 1 sl) .none sl (rttBody 16)

/-- RTT.to: the target is checked in trap mode, then its block is entered outside it (R256). -/
def rttToBody (sl : Slot) (s : State) (x : Group) : Effect :=
  if ¬ x.trapMode then syncTrap s 0x31 0
  else
    let t := s.ssrc x sl sl.a
    let r := s.target s.cur t
    match r.2 with
    | .error (e, pc) => .trap r.1 e pc
    | .ok _ => .jump (((r.1.leaveTrap s.cur t).updGrp s.cur fun y => { y with block := {} }).resumed s.cur)

def execRttTo (sl : Slot) : State → Host.Outcome State Fault Refusal := runSlot (fRtt 2 sl) .none sl (rttToBody sl)

/-! ### System registers (Table 10.1) -/

/-- The handles of the graph, phase and job of a launch, 0 where there is none. -/
def State.parents (s : State) (l : Nat) : Nat × Nat × Nat :=
  let g := (tget s.launches l).bind fun x => tget s.graphs x.graph
  let p := g.bind fun u => tget s.phases u.parent
  let j := p.bind fun u => tget s.jobs u.parent
  let h (u : Option Unit3) : Nat := (u.map fun x => x.handle).getD 0
  (h g, h p, h j)

/-- The launch or unit of a partition that a handle names: the newest that got it (R337). -/
def State.launchBy (s : State) (fn h : Nat) : Option Nat :=
  ((s.launches.filter fun p => decide (p.2.fn = fn) && decide (p.2.handle = h)).getLast?).map Prod.fst
def unitBy (t : Table Unit3) (fn h : Nat) : Option Nat :=
  ((t.filter fun p => decide (p.2.fn = fn) && decide (p.2.handle = h)).getLast?).map Prod.fst

/-- The value of a system register. -/
def State.sysReg (s : State) (x : Group) (n : Nat) : Word :=
  let w := s.wgD x.wg
  let c := s.ctxD w.fn w.ctx
  let f := s.fnD w.fn
  let k := s.coreD x.core
  match n with
  | 0 => x.trapCause.setWidth 64
  | 1 => x.trapPc
  | 2 => x.trapAddr
  | 3 => x.trapInfo
  | 4 => c.pbudget.setWidth 64
  | 5 => x.trapVec
  | 6 => BitVec.ofNat 64 c.level
  | 8 => BitVec.ofNat 64 (x.idx + 256 * x.idxRole)
  | 9 => BitVec.ofNat 64 w.lin
  | 0xA => BitVec.ofNat 64 (((tget s.launches w.launch).map fun l => l.handle).getD 0)
  | 0xB => BitVec.ofNat 64 x.role
  | 0xC => BitVec.ofNat 64 (s.parents w.launch).1
  | 0xD => BitVec.ofNat 64 (s.parents w.launch).2.1
  | 0xE => BitVec.ofNat 64 (s.parents w.launch).2.2
  | 0x10 => k.cycle
  | 0x11 => BitVec.ofInt 64 f.lifeMin
  | 0x12 => BitVec.ofNat 64 (k.point + 2 ^ 16 * k.boostLeft)
  | 0x13 => BitVec.ofNat 64 f.energyUJ
  | 0x14 => BitVec.ofNat 64 w.world
  | 0x15 => c.tdmask.setWidth 64
  | 0x16 => c.checkMode.setWidth 64
  | _ => 0

/-- SRGET (R249). -/
def srgetBody (sl : Slot) (s : State) (x : Group) : Effect :=
  if immN sl = 0x15 ∧ s.levelOf x = 0 then levelTrap s
  else .done s (scaOut x.trapMode sl.d 0 (s.sysReg x (immN sl)))

def execSrget (sl : Slot) : State → Host.Outcome State Fault Refusal := runSlot (fSrget sl) .var sl (srgetBody sl)

/-- SRSET (R249). -/
def srsetBody (sl : Slot) (s : State) (x : Group) : Effect :=
  let a := s.ssrc x sl sl.a
  let w := s.wgD x.wg
  match immN sl with
  | 4 =>
    if s.levelOf x ≠ 2 then levelTrap s
    else .done (s.updCtx w.fn w.ctx fun c => { c with pbudget := a.setWidth 32 }) []
  | 5 => .done (s.updGrp s.cur fun y => { y with trapVec := a }) []
  | _ => .done (s.updCtx w.fn w.ctx fun c => { c with checkMode := a.setWidth 2 }) []

def execSrset (sl : Slot) : State → Host.Outcome State Fault Refusal := runSlot (fSrset sl) .none sl (srsetBody sl)

/-! ### The interrupted group's state (R257) -/

/-- HGET.x selectors. -/
def hSelect (x : Group) (n : Nat) : Word :=
  match n with
  | 0 => x.act.setWidth 64
  | 1 => x.live.setWidth 64
  | 2 => x.fmt
  | 3 => BitVec.ofNat 64 x.mstk.length
  | _ => x.savedKc

/-- HGET. -/
def hgetBody (sl : Slot) (s : State) (x : Group) : Effect :=
  let n := immN sl
  if ¬ x.trapMode then syncTrap s 0x31 0
  else match subN sl with
    | 0 => .done s (vecOut true sl.d 0 0xFFFFFFFF (if n < 8 * x.gran then tval Vec.zero x.vregs n else Vec.zero))
    | 1 => .done s (scaOut true sl.d 0 (if n < x.scount then tval 0 x.sregs n else 0))
    | _ => .done s (scaOut true sl.d 0 (hSelect x n))

def execHget (sl : Slot) : State → Host.Outcome State Fault Refusal := runSlot (fHget sl) .var sl (hgetBody sl)

/-- HSET. -/
def hsetBody (sl : Slot) (s : State) (x : Group) : Effect :=
  let n := immN sl
  let a := s.ssrc x sl sl.a
  if ¬ x.trapMode then syncTrap s 0x31 0
  else match subN sl with
    | 0 => .done (if n < 8 * x.gran then s.writeV s.cur (.v n) 0xFFFFFFFF (s.vreg x sl.a 0) else s) []
    | 1 => .done (if n < x.scount then s.writeS s.cur (.s n) a else s) []
    | _ =>
      if n = 0 then .done (s.updGrp s.cur fun y => { y with act := a.setWidth 32 &&& y.live }) []
      else .done (if fmtOk a then s.updGrp s.cur fun y => { y with fmt := a } else s) []

def execHset (sl : Slot) : State → Host.Outcome State Fault Refusal := runSlot (fHset sl) .none sl (hsetBody sl)

/-! ### PDONE (R260) -/

/-- The group ends its residency at the slot after PDONE; its registers are cleared (R260, R396). -/
def Group.pdoneForm (x : Group) : Group :=
  { x with
    pc := x.pc + 16, phase := .pdone, wait := .none, preempt := false, budget := 0, budgetOn := false, snap := none
    delayed := [], pend := [], tok1 := none, tok2 := none, producers := []
    sregs := [], vregs := [], queue := [], sps := 0, vps := [], mstk := [] }

def pdoneBody (s : State) (x : Group) : Effect :=
  if ¬ x.trapMode ∨ ¬ x.inPreempt then syncTrap s 0x30 0
  else
    let s1 := ((s.release (dieOf x.core) 3).freeBank s.cur).updGrp s.cur Group.pdoneForm
    syncAfter s x <| .wait (((s1.putGroup s.cur).passCycles x.core 1).wgLeave x.wg)

def execPdone (sl : Slot) : State → Host.Outcome State Fault Refusal := runSlot (fBare0 sl) .none sl pdoneBody

/-! ### BOOST (R264, R383) -/

/-- Praline's decision on a request. -/
def State.boostReason (s : State) (x : Group) (level dur : Word) : Nat × Nat :=
  let f := s.fnD (s.wgD x.wg).fn
  let k := s.coreD x.core
  let band := match k.unit with | some u => (s.wearD u).band | none => 0
  let lvl := level.toNat
  let cost := dur.toNat * ((if lvl = 1 then 6 else 10) - 4) * bandTB band
  let r :=
    if (lvl ≠ 1 ∧ lvl ≠ 2) ∨ dur.toNat < 1 ∨ 1000 < dur.toNat then 5
    else if s.coreState x.core ≠ 0 ∨ s.coreDrain x.core then 4
    else if k.boostLeft ≠ 0 then 3
    else if ¬ f.energyOk lvl dur.toNat then 2
    else if f.lifeMin < (cost : Int) then 1
    else 0
  (r, cost)

def boostBody (sl : Slot) (s : State) (x : Group) : Effect :=
  let level := s.ssrc x sl sl.a
  let dur := s.ssrc x sl sl.b
  let fn := (s.wgD x.wg).fn
  let r := s.boostReason x level dur
  if r.1 = 0 then
    let s1 := s.updCore x.core fun k =>
      { k with boostLeft := dur.toNat, boostNext := level.toNat, boostCost := r.2, boostFn := fn, emptyTick := false }
    .done (s1.updFn fn fun f => { f with bresv := f.bresv + r.2, lifeMin := f.lifeMin - (r.2 : Int) })
      (scaOut x.trapMode sl.d 0 level)
  else .done s (scaOut x.trapMode sl.d 0 (BitVec.ofNat 64 (r.1 * 256)))

def execBoost (sl : Slot) : State → Host.Outcome State Fault Refusal := runSlot (fBoost sl) .var sl (boostBody sl)

/-! ### REPLAY (R262, R366, R367) -/

/-- The held fault that a tag names and the level covers. -/
def State.heldBy (s : State) (x : Group) (tag : Word) : Option Hold :=
  match tget s.holds tag.toNat with
  | some h => if h.fn = (s.wgD x.wg).fn ∨ s.levelOf x = 2 then some h else none
  | none => none

/-- Takes the TLB entries for a faulting page away (R367). -/
def State.dropPage (s : State) (fn ctx : Nat) (a : Word) : State :=
  s.tlbDrop fun e => decide (e.fn = fn) && decide (e.ctx = ctx) && decide (e.space = spaceOf a)
    && decide (e.base ≤ bits a 51 0) && decide (bits a 51 0 < e.base + e.size)

/-- Releases what a tag holds. -/
def State.releaseHold (s : State) (tag : Nat) (h : Hold) : State :=
  let s1 := ({ s with holds := tdel s.holds tag }).dropPage h.fn h.ctx h.trap.addr
  let s2 := match h.grp with
    | some g => s1.updGrp g fun x => if x.wait = .held tag then { x with wait := .none } else x
    | none => s1
  let s3 := match h.op with
    | some o => { s2 with ops := s2.ops.map fun (p : Nat × AsyncOp) => if p.1 = o then (p.1, { p.2 with paused := none }) else p }
    | none => s2
  match h.me with
  | some _ => { s3 with cores := s3.cores.map fun (p : Nat × Core) =>
      (p.1, { p.2 with engq := p.2.engq.map fun q => if q.paused = some tag then { q with paused := none } else q }) }
  | none => s3

/-- The paused matrix instruction of a tag. -/
def State.pausedMat (s : State) (tag : Nat) : Option MatOp :=
  s.cores.findSome? fun p => p.2.engq.find? fun q => decide (q.paused = some tag)

/-- Kills what a tag holds: the group's workgroup, or the operation with its fault, a translation fault, whose REASON in
Table 9.6 is 0 (R243, R262). -/
def State.killHold (s : State) (tag : Nat) (h : Hold) : State :=
  let s1 : State := { s with holds := tdel s.holds tag }
  match h.grp, h.op with
  | some g, _ => s1.endWg (s.grpD g).wg true
  | none, some o =>
    match tget s1.ops o with
    | some p => s1.opFail o p 0 h.trap.cause h.trap.addr
    | none => s1
  | none, none =>
    match s.pausedMat tag with
    | some q =>
      (s1.updCore q.core fun k => { k with engq := k.engq.filter fun r => decide (r.paused ≠ some tag) }).matFail q 0
        h.trap.cause h.trap.addr
    | none => s1

/-- The common course of REPLAY. -/
def replayBody (kill : Bool) (sl : Slot) (s : State) (x : Group) : Effect :=
  let tag := s.ssrc x sl sl.a
  if s.levelOf x = 0 then levelTrap s
  else
    match s.heldBy x tag with
    | none => .done s (scaOut x.trapMode sl.d 0 0)
    | some h =>
      if kill then .done (s.killHold tag.toNat h) (scaOut x.trapMode sl.d 0 1)
      else syncAfter s x (.done ((s.release (dieOf x.core) 3).releaseHold tag.toNat h) (scaOut x.trapMode sl.d 0 1))

def execReplayRetry (sl : Slot) : State → Host.Outcome State Fault Refusal :=
  runSlot (fReplay 0 sl) .var sl (replayBody false sl)
def execReplayKill (sl : Slot) : State → Host.Outcome State Fault Refusal :=
  runSlot (fReplay 1 sl) .var sl (replayBody true sl)

/-! ### MEAS (R263) -/

/-- Checks a range from `a` up to `e` line by line: the pieces with their lengths, or the first trap. `k` bounds the
lines. -/
def State.measCheck (s : State) (v : View) (e : Nat) : Nat → Nat → State × Except Raise (List (Piece × Nat))
  | 0, _ => (s, .ok [])
  | k + 1, a =>
    if e ≤ a then (s, .ok [])
    else
      let b := min e (a / 128 * 128 + 128)
      let w := BitVec.ofNat 64 a
      let r := s.resolve v w 1 1 0
      match r.2 with
      | .trap c i => (r.1, .error { cause := c, addr := w, info := BitVec.ofNat 64 i })
      | .ok t =>
        let q := r.1.measCheck v e k b
        match q.2 with
        | .error x => (q.1, .error x)
        | .ok l => (q.1, .ok (({ lane := 0, addr := w, tgt := t }, b - a) :: l))

/-- Reads the bytes of a line that a range takes at its point of coherence; a peer's by a request. -/
def State.measLine (s : State) (v : View) (p : Piece) (n : Nat) : State × Except Raise (List Byte) :=
  match p.tgt with
  | .peer _ _ =>
    let r := s.readP v p.tgt n p.addr 0
    match r.2 with
    | .error (c, i) => (r.1, .error { cause := c, addr := p.addr, info := BitVec.ofNat 64 i })
    | .ok x => (r.1, .ok (toBytes n x))
  | t => let s1 := s.toPoint v t; (s1, .ok (s1.rdBytes t.loc n))

/-- Reads a range, after checking all of it. -/
def State.measRead (s : State) (v : View) : List (Piece × Nat) → State × Except Raise (List Byte)
  | [] => (s, .ok [])
  | (p, n) :: t =>
    let r := s.measLine v p n
    let q := r.1.measRead v t
    match r.2, q.2 with
    | .error e, _ => (q.1, .error e)
    | _, .error e => (q.1, .error e)
    | .ok a, .ok b => (q.1, .ok (a ++ b))

/-- Extends a measurement register of a world. -/
def State.measure (s : State) (world i : Nat) (bs : List Byte) : State :=
  match tget s.worlds world with
  | none => s
  | some w =>
    { s with worlds := tput s.worlds world { w with meas := tput w.meas i (extend (tval 0 w.meas i) (sha512 bs)) } }

/-- MEAS: an acquire at device scope, and the measurement of a range. -/
def measBody (sl : Slot) (s : State) (x : Group) : Effect :=
  let v := s.viewOf s.cur
  let a := s.ssrc x sl sl.a
  let n := bits (s.ssrc x sl sl.b) 31 0
  if s.levelOf x = 0 then levelTrap s
  else if spaceOf a ≠ 0 then trapNow s 4 a 0
  else if s.egressLow v a then s.stalled x
  else syncAfter s x <|
    let r := s.measCheck v (a.toNat + n) (n / 128 + 2) a.toNat
    match r.2 with
    | .error e => .trap r.1 e none
    | .ok ps =>
      match firstErr (ps.map Prod.fst) with
      | some e => .done (r.1.late s.cur v.fn v.ctx e false) []
      | none =>
        let q := ((r.1.account v true false (ps.map Prod.fst)).acquire v.core 3).measRead v ps
        match q.2 with
        | .error e => .done (q.1.late s.cur v.fn v.ctx e false) []
        | .ok bs => .done (q.1.measure v.world (immN sl % 16) bs) (scaOut x.trapMode sl.d 0 1)

def execMeas (sl : Slot) : State → Host.Outcome State Fault Refusal := runSlot (fMeas sl) .var sl (measBody sl)

/-! ### CANCEL (R261) -/

/-- Cancels the unit of a context that a handle names and that is not complete; none when it is not found. -/
def State.cancelUnit (s : State) (level fn ctx h : Nat) : Option State :=
  let here (f c : Nat) (done : Bool) : Bool := decide (f = fn) && decide (c = ctx) && !done
  let unit (t : Table Unit3) (f : Nat → State) : Option State :=
    (unitBy t fn h).bind fun k => (tget t k).bind fun u => if here u.fn u.ctx u.done then some (f k) else none
  match level with
  | 0 => (s.launchBy fn h).bind fun k => (tget s.launches k).bind fun u =>
      if here u.fn u.ctx u.done then some (s.cancelLaunch k) else none
  | 1 => unit s.graphs s.cancelGraph
  | 2 => unit s.phases s.cancelPhase
  | _ => unit s.jobs s.cancelJob

def cancelBody (sl : Slot) (s : State) (x : Group) : Effect :=
  let w := s.wgD x.wg
  match s.cancelUnit (subN sl) w.fn w.ctx (s.ssrc x sl sl.a).toNat with
  | none => .done s (scaOut x.trapMode sl.d 0 0)
  | some t =>
    if (t.grp? s.cur).isSome then .done t (scaOut x.trapMode sl.d 0 1)
    else .wait (t.passCycles x.core 1)

def execCancel (sl : Slot) : State → Host.Outcome State Fault Refusal := runSlot (fCancel sl) .var sl (cancelBody sl)

end Sys2Proof.Machine
end

