-- ==== Sys2Proof/Machine/Packets.lean ====
section
/-! DEFINITION. The dispatcher: command queues, packets, launches, graphs, completion, the backing rings and the
token buckets (R329 to R341, R347 to R349). -/

namespace Sys2Proof.Machine

/-! ### Queues (R329, R330, R440) -/

def State.queueD (s : State) (fn q : Nat) : Queue := tval {} (s.fnD fn).queues q
def State.updQueue (s : State) (fn q : Nat) (f : Queue → Queue) : State :=
  s.updFn fn fun x => { x with queues := tset {} x.queues q (f (tval {} x.queues q)) }

/-- Sets a queue's error latch, raising vector 2 when it was clear (R335, R413). -/
def State.queueErr (s : State) (fn q : Nat) : State :=
  let was := (s.queueD fn q).err
  let s1 := s.updQueue fn q fun x => { x with err := true }
  if was then s1 else s1.msix fn 2

/-- A queue whose ring cannot be reached: EN is cleared and ERR set (R440). -/
def State.queueDead (s : State) (fn q : Nat) : State := (s.updQueue fn q fun x => { x with en := false }).queueErr fn q

/-- The ring of a queue, read in space 0x0 of its context: valid and with elements of 64 bytes (R217, R329, R359). -/
def State.queueRing (s : State) (fn : Nat) (a : Word) (ctx : Nat) : State × Option Rcb :=
  if (tget s.ctxs (ctxKey fn ctx)).isNone ∨ spaceOf a ≠ 0 then (s, none)
  else
    let r := s.hubRead (s.hubView fn ctx) a 64
    match r.2 with
    | .error _ => (r.1, none)
    | .ok x => (r.1, if (Rcb.ofNat x).valid ∧ (Rcb.ofNat x).esize = 8 then some (Rcb.ofNat x) else none)

/-- QUEUE_EN_WRITE: RCBADDR and CTX are set while EN is 0, and EN is set if the ring is valid (R329). -/
def execQueueEnWrite (fn q : Nat) (rcb : Word) (ctx : Nat) (s : State) : Host.Outcome State Fault Refusal :=
  if 64 ≤ q ∨ (s.queueD fn q).en then .next s
  else
    let s1 := s.updQueue fn q fun x => { x with rcb := rcb, ctx := ctx }
    let r := s1.queueRing fn rcb ctx
    match r.2 with
    | none => .next (if r.1.wants.isEmpty then s1 else r.1)
    | some b => .next (r.1.updQueue fn q fun x => { x with en := true, seen := BitVec.ofNat 32 b.pidx })

/-- QUEUE_ERR_CLEAR (R335). -/
def execQueueErrClear (fn q : Nat) (s : State) : Host.Outcome State Fault Refusal :=
  .next (s.updQueue fn q fun x => { x with err := false })

/-- QUEUE_PIDX_WAKE: the dispatcher reads PIDX (R330). -/
def execQueuePidxWake (fn q : Nat) (s : State) : Host.Outcome State Fault Refusal :=
  let k := s.queueD fn q
  if ¬ k.en ∨ ¬ s.ctxRuns fn k.ctx then .next s
  else
    let r := s.queueRing fn k.rcb k.ctx
    match r.2 with
    | none => .next (r.1.queueDead fn q)
    | some b => .next (r.1.updQueue fn q fun x => { x with seen := BitVec.ofNat 32 b.pidx })

/-! ### Packets (R332, R333) -/

/-- An address of a packet: aligned and in space 0x0. -/
def padOk (a : Word) (al : Nat) : Bool := decide (a.toNat % al = 0) && decide (spaceOf a = 0)

/-- Words `lo` to 7 are 0. -/
def tailZero (w : List Word) (lo : Nat) : Bool := (w.drop lo).all fun x => decide (x = 0)

def pw (w : List Word) (i : Nat) : Word := w.getD i 0
def pType (w : List Word) : Nat := bits (pw w 0) 7 0
def pBar (w : List Word) : Bool := (pw w 0).getLsbD 8
def pAcq (w : List Word) : Nat := bits (pw w 0) 11 9
def pRel (w : List Word) : Nat := bits (pw w 0) 14 12
def scopeOk (n : Nat) : Bool := decide (n = 0) || decide (n = 3) || decide (n = 4)

/-- A valid packet (R332, Table 16.3). -/
def packetOk (w : List Word) : Bool :=
  decide (bits (pw w 0) 63 15 = 0) && scopeOk (pAcq w) && scopeOk (pRel w) && padOk (pw w 1) 8 &&
  (match pType w with
   | 0 => tailZero w 2
   | 1 => padOk (pw w 2) 256 && padOk (pw w 3) 8 && tailZero w 4
   | 2 => (((w.drop 2).take 5).all fun a => padOk a 8) && (((w.drop 2).take 5).any fun a => decide (a ≠ 0))
      && decide ((pw w 7).toNat ≤ 1)
   | 3 => [pw w 2, pw w 3].all (fun a => decide (a.toNat % 8 = 0) && [0, 1, 4].contains (spaceOf a))
      && decide ((pw w 4).toNat < 2 ^ 32) && decide ((pw w 4).toNat % 8 = 0) && tailZero w 5
   | 4 => padOk (pw w 2) 8 && decide ((pw w 4).toNat ≤ 1) && tailZero w 5
   | 5 => padOk (pw w 2) 64 && padOk (pw w 5) 16 && decide ((pw w 4).toNat < 2 ^ 32) && tailZero w 6
      && (decide (bits (pw w 3) 31 0 ≠ 0) || decide (bits (pw w 4) 15 0 ≠ 0))
      && (decide (bits (pw w 3) 63 32 ≠ 0) || decide (bits (pw w 4) 31 16 ≠ 0))
   | _ => false)

/-- Packets of a queue that it accepted and that have not completed. -/
def State.pktBusy (s : State) (fn q : Nat) : Bool :=
  s.packets.any fun p => decide (p.2.fn = fn) && decide (p.2.q = q)

/-- The head packet of a queue: its ring and words; the queue dies when they cannot be read. -/
def State.headPacket (s : State) (fn q : Nat) : State × Option (Rcb × List Word) :=
  let k := s.queueD fn q
  if ¬ k.en ∨ s.dev ≠ .ready ∨ ¬ s.ctxRuns fn k.ctx then (s, none)
  else
    let r := s.queueRing fn k.rcb k.ctx
    match r.2 with
    | none => (r.1.queueDead fn q, none)
    | some b =>
      if b.cidx = k.seen.toNat then (r.1, none)
      else
        let h := r.1.hubWords (r.1.hubView fn k.ctx) (BitVec.ofNat 64 (b.elem b.cidx)) 8
        match h.2 with
        | .error _ => (h.1.queueDead fn q, none)
        | .ok w => (h.1, some (b, w))

/-- What the start conditions of a packet give: it waits, it is aborted, it is invalid, it is cancelled, or it
starts (R334, R335, R341). -/
inductive Start where
  | wait
  | status (st : Nat)
  | go
  deriving DecidableEq, Repr

/-- Reads a signal of a BARRIER as a signed number. -/
def State.signals (s : State) (v : View) (as : List Word) : State × Option (List Int) :=
  as.foldl (fun (acc : State × Option (List Int)) a =>
    match acc.2 with
    | none => acc
    | some l =>
      let r := acc.1.hubRead v a 8
      match r.2 with
      | .error _ => (r.1, none)
      | .ok x => (r.1, some (l ++ [signed 64 x]))) (s, some [])

/-- The start of a BARRIER (R334). -/
def barrierStart (or : Bool) (xs : List Int) : Start :=
  if or then
    if xs.any fun x => decide (x = 0) then .go else if xs.all fun x => decide (x < 0) then .status 1 else .wait
  else
    if xs.any fun x => decide (x < 0) then .status 1 else if xs.all fun x => decide (x = 0) then .go else .wait

/-- The unit of a context that a handle of a packet names, with its key. -/
def unitNamed (t : Table Unit3) (fn ctx h : Nat) : Option (Nat × Unit3) :=
  (unitBy t fn h).bind fun k => (tget t k).bind fun u => if u.fn = fn ∧ u.ctx = ctx ∧ h ≠ 0 then some (k, u) else none

/-- A GRAPH packet names units of its context, PHASE under JOB, one of them cancelled (R339, R341). -/
def State.inCancelled (s : State) (fn ctx : Nat) (w : List Word) : Bool :=
  decide (pType w = 5) &&
    match unitNamed s.jobs fn ctx (bits (pw w 3) 31 0) with
    | none => false
    | some (j, job) =>
      if bits (pw w 3) 63 32 = 0 then job.cancelled
      else match unitNamed s.phases fn ctx (bits (pw w 3) 63 32) with
        | some (_, ph) => decide (ph.parent = j) && (job.cancelled || ph.cancelled)
        | none => false

/-- The start conditions of the head packet, but for those of BAR. -/
def State.startFree (s : State) (fn q : Nat) (w : List Word) : State × Start :=
  if ¬ packetOk w then (s, .status 4)
  else if s.inCancelled fn (s.queueD fn q).ctx w then (s, .status 2)
  else if pType w = 2 then
    let r := s.signals (s.hubView fn (s.queueD fn q).ctx) (((w.drop 2).take 5).filter fun a => decide (a ≠ 0))
    match r.2 with
    | none => (r.1, .status 4)
    | some xs => (r.1, barrierStart (decide (pw w 7 = 1)) xs)
  else (s, .go)

/-- The start conditions of the head packet. One with BAR = 1 waits for the packets before it, and is aborted while ERR is
1 once it would be accepted: a BARRIER whose signals are not there yet waits on (R334, R335). -/
def State.startOf (s : State) (fn q : Nat) (w : List Word) : State × Start :=
  if pBar w ∧ s.pktBusy fn q then (s, .wait)
  else
    let r := s.startFree fn q w
    if pBar w ∧ (s.queueD fn q).err ∧ r.2 ≠ .wait then (r.1, .status 1) else r

/-- CIDX advances by 1 (R331); whether it could be written. -/
def State.advance (s : State) (fn q : Nat) (b : Rcb) : State × Bool :=
  let k := s.queueD fn q
  let c := s.noteWord (s.hubView fn k.ctx) (k.rcb + 8) 4 1 (.set (b.cidx + 1))
  (c.1, c.2.isNone)

/-- The handle word or block that a packet names: an aligned address of space 0x0 (R332, R336); an aborted one writes
none (R354). -/
def handlePlace (w : List Word) (status : Option Nat) : Word :=
  if status = some 1 then 0
  else if pType w = 1 then (if padOk (pw w 3) 8 then pw w 3 else 0)
  else if pType w = 5 then (if padOk (pw w 5) 16 then pw w 5 else 0)
  else 0

/-- Accepts the head packet, whose CIDX has advanced: the packet is open, and its queue the one served last; answers its
number (R331). -/
def State.accept (s : State) (fn q : Nat) (w : List Word) (status : Option Nat) : State × Nat :=
  let p : Packet :=
    { fn := fn, q := q, ctx := (s.queueD fn q).ctx, compl := pw w 1, rel := pRel w, kind := pType w
      hword := handlePlace w status, status := status }
  ({ (s.updFn fn fun f => { f with lastQ := some q }).bump with packets := tput s.packets s.tick p }, s.tick)

/-- Whether a queue's head packet may be accepted now. -/
def State.acceptable (s : State) (fn q : Nat) : Bool :=
  let h := s.headPacket fn q
  match h.2 with
  | none => false
  | some (_, w) => let r := h.1.startOf fn q w; r.1.wants.isEmpty && decide (r.2 ≠ .wait)

/-- Whether it is a queue's turn: among the queues of its function with an acceptable packet, the next in table order
after the one served last, around (R331). -/
def State.queueTurn (s : State) (fn q : Nat) : Bool :=
  let f := s.fnD fn
  let from_ := match f.lastQ with | some k => k + 1 | none => 0
  decide (nextKey from_ ((f.queues.map Prod.fst).filter fun k => s.acceptable fn k) = some q)

/-- Takes the head packet when its type is one of `types`, it may start and it is its queue's turn; `f` performs its action
and answers the status that is known at once. -/
def State.takePacket (s : State) (fn q : Nat) (types : Nat → Bool)
    (f : State → View → Nat → List Word → State × Option Nat) : State :=
  let h := s.headPacket fn q
  match h.2 with
  | none => h.1
  | some (b, w) =>
    let r := h.1.startOf fn q w
    if ¬ types (pType w) ∨ r.2 = .wait ∨ ¬ r.1.wants.isEmpty then r.1
    else if ¬ s.queueTurn fn q then s
    else
      let c := r.1.advance fn q b
      if ¬ c.2 then c.1.queueDead fn q
      else match r.2 with
      | .wait => c.1
      | .status st => (c.1.accept fn q w (some st)).1
      | .go =>
        let a := c.1.accept fn q w none
        let e := f a.1 (a.1.hubView fn (a.1.queueD fn q).ctx) a.2 w
        match e.2 with
        | some st => e.1.packetDone a.2 st
        | none => e.1

/-- PACKET_NOP; a packet of no assigned type is taken here as INVALID. -/
def execPacketNop (fn q : Nat) (s : State) : Host.Outcome State Fault Refusal :=
  .next (s.takePacket fn q (fun t => decide (t = 0) || decide (5 < t)) fun s _ _ _ => (s, some 0))

/-- PACKET_BARRIER (R334). -/
def execPacketBarrier (fn q : Nat) (s : State) : Host.Outcome State Fault Refusal :=
  .next (s.takePacket fn q (fun t => decide (t = 2)) fun s _ _ _ => (s, some 0))

/-- PACKET_SIGNAL (R334); a signal that cannot be reached makes the packet INVALID (R440). Address 0 names a signal as any
other. -/
def signalPacket (s : State) (v : View) (_ : Nat) (w : List Word) : State × Option Nat :=
  let o : HubOp := if pw w 4 = 0 then .set (pw w 3).toNat else .add (2 ^ 64 - (pw w 3).toNat)
  let r := s.noteWord v (pw w 2) 8 o.kind o
  (r.1, some (if r.2.isSome then 4 else 0))

def execPacketSignal (fn q : Nat) (s : State) : Host.Outcome State Fault Refusal :=
  .next (s.takePacket fn q (fun t => decide (t = 4)) signalPacket)

/-- Translates the granules of a range of 8-byte words in turn: whether all pass (R440). -/
def State.spanOk (s : State) (v : View) (a : Word) (left kind : Nat) : Nat → State × Bool
  | 0 => (s, true)
  | k + 1 =>
    if left = 0 then (s, true)
    else
      let r := s.hubAt v a 8 kind
      match r.2 with
      | .error _ => (r.1, false)
      | .ok _ =>
        let n := min left (65536 - a.toNat % 65536)
        r.1.spanOk v (a + BitVec.ofNat 64 n) (left - n) kind k

/-- PACKET_COPY: one copy engine operation; both ranges are checked by R193 and R358 at acceptance (R334, R440). No group
issues it, and R333 names no window for an address of space 0x1: it has an empty one here, so that such a copy is INVALID
(DESIGN CHOICE, assumption log 60). -/
def copyPacket (s : State) (v : View) (id : Nat) (w : List Word) : State × Option Nat :=
  let n := (pw w 4).toNat
  let o : AsyncOp :=
    { opc := 0xD0, fn := v.fn, ctx := v.ctx, wg := 0, grp := 0, cls := 1, batch := 0, scp := 3
      dst := pw w 2, src := pw w 3, rb := n, rows := 1, dstride := n, sstride := n, list := 0, ntf := 0, e := 0
      imm := 0, packet := id }
  match s.copyCheck v o [] with
  | some _ => (s, some 4)
  | none =>
    let d := s.spanOk v o.dst n 1 (n / 65536 + 2)
    let r := if d.2 then d.1.spanOk v o.src n 0 (n / 65536 + 2) else d
    if r.2 then ({ r.1.bump with ops := tput r.1.ops r.1.tick o }, none) else (r.1, some 4)

def execPacketCopy (fn q : Nat) (s : State) : Host.Outcome State Fault Refusal :=
  .next (s.takePacket fn q (fun t => decide (t = 3)) copyPacket)

/-! ### Launches (R337, R346, R347) -/

/-- A role of a descriptor's words. -/
def roleOf (d : Nat → Word) (n : Nat) : Role :=
  { entry := d (8 + 4 * n), gran := bits (d (9 + 4 * n)) 6 0, scnt := 8 * bits (d (9 + 4 * n)) 11 8
    groups := bits (d (9 + 4 * n)) 24 16 }

/-- A launch descriptor's fields (Table 16.5). -/
def descOf (d : Nat → Word) : LaunchDesc :=
  { param := d 0, preempt := d 1, gx := bits (d 2) 31 0, gy := bits (d 2) 63 32, gz := bits (d 3) 31 0
    scratch := bits (d 3) 63 32, tiles := bits (d 4) 7 0, cores := (d 4).getLsbD 8, prio := bits (d 4) 11 9
    tbclass := bits (d 4) 15 12, world := bits (d 4) 21 16, thresh := bits (d 4) 41 32, energy := bits (d 5) 31 0
    prod := bits (d 6) 31 0, early := (d 6).getLsbD 32, roles := (List.range 4).map (roleOf d) }

/-- A role breaks its limits. The alignment of ENTRY is a limit of a role that is present: Table 16.5 does not say whether it
holds of an absent one (DESIGN CHOICE, assumption log 38). -/
def roleBad (d : Nat → Word) (n : Nat) : Bool :=
  let r := roleOf d n
  let w := d (9 + 4 * n)
  decide (bits w 7 7 ≠ 0) || decide (bits w 15 12 ≠ 0) || decide (bits w 63 25 ≠ 0) || decide (d (10 + 4 * n) ≠ 0)
    || decide (d (11 + 4 * n) ≠ 0) || decide (256 < r.groups)
    || (decide (r.groups ≠ 0) && (decide (r.entry.toNat % 16 ≠ 0) || decide (r.gran = 0) || decide (64 < r.gran)
      || decide (r.scnt = 0) || decide (96 < r.scnt)))

/-- A launch descriptor breaks a limit of its table, or is too large for four cores (R337). -/
def descBad (world : Nat) (d : Nat → Word) : Bool :=
  let x := descOf d
  let total : Nat := (x.roles.map fun r => r.groups).sum
  decide (x.gx = 0) || decide (x.gy = 0) || decide (x.gz = 0) || decide (2 ^ 32 ≤ x.gx * x.gy * x.gz)
    || decide (4194304 < x.scratch) || decide (128 < x.tiles) || decide (x.world ≠ world)
    || decide (bits (d 4) 31 22 ≠ 0) || decide (bits (d 4) 63 42 ≠ 0) || decide (1000 < x.thresh)
    || decide (bits (d 5) 63 32 ≠ 0) || decide (bits (d 6) 63 33 ≠ 0) || decide (d 7 ≠ 0)
    || (List.range 4).any (roleBad d) || (List.range 8).any (fun i => decide (d (24 + i) ≠ 0))
    || decide (total = 0) || decide (256 < total) || !x.need.fits

/-- The launch that an EARLY descriptor names: a running one of the same context. -/
def State.prodOf (s : State) (fn ctx p : Nat) : Option Nat :=
  (s.launchBy fn p).bind fun k => (tget s.launches k).bind fun l => if l.ctx = ctx ∧ ¬ l.done then some k else none

/-- Allocates a handle at a level of a function: nonzero 32-bit numbers in turn (R337; assumption log 7). -/
def State.newHandle (s : State) (fn lvl : Nat) : State × Nat :=
  let h := tval 0 (s.fnD fn).handles lvl % (2 ^ 32 - 1) + 1
  (s.updFn fn fun f => { f with handles := tput f.handles lvl h }, h)

/-- All workgroups of a co-resident launch fit at once on the partition's empty cores (R347). -/
def State.admits (s : State) (fn : Nat) (d : LaunchDesc) : Bool :=
  !d.cores || decide (s.waveOf fn d = d.gx * d.gy * d.gz)

/-- A launch of a descriptor. -/
def State.mkLaunch (s : State) (fn ctx handle : Nat) (d : LaunchDesc) (graph node packet : Nat) (hword : Word) (acq : Bool)
    (prods : List Nat) : State :=
  let x : Launch :=
    { fn := fn, ctx := ctx, handle := handle, desc := d, remaining := d.gx * d.gy * d.gz, graph := graph, node := node, hword := hword
      packet := packet, wave := s.waveOf fn d, seq := s.tick, acq := acq, prods := prods }
  { s.bump with launches := tput s.launches s.tick x }

/-- Writes a handle word: the handle and the running status (R337). -/
def State.putHandle (s : State) (v : View) (a : Word) (h : Nat) : State × Bool :=
  if a = 0 then (s, true)
  else
    let r := s.noteWord v a 8 1 (.set (h % 2 ^ 32 + 2 ^ 32 * (2 ^ 32 - 1)))
    (r.1, r.2.isNone)

/-- The words of a structure as a function. -/
def wordsFn (ws : List Word) (i : Nat) : Word := ws.getD i 0

/-- PACKET_LAUNCH (R337). -/
def launchPacket (s : State) (v : View) (id : Nat) (w : List Word) : State × Option Nat :=
  let r := s.hubWords v (pw w 2) 32
  match r.2 with
  | .error _ => (r.1, some 4)
  | .ok ws =>
    let d := wordsFn ws
    let x := descOf d
    let prod := if x.early then r.1.prodOf v.fn v.ctx x.prod else none
    if descBad v.world d ∨ (x.early ∧ prod.isNone) then (r.1, some 4)
    else
      let h := r.1.newHandle v.fn 0
      let p := h.1.putHandle v (pw w 3) h.2
      if ¬ p.2 then (p.1, some 4)
      else
        let s1 := p.1.mkLaunch v.fn v.ctx h.2 x 0 0 id (pw w 3) (decide (pAcq w ≠ 0)) prod.toList
        if p.1.admits v.fn x then (s1, none)
        else (s1.updLaunch p.1.tick fun l => { l with done := true, remaining := 0 }, some 3)

def execPacketLaunch (fn q : Nat) (s : State) : Host.Outcome State Fault Refusal :=
  .next (s.takePacket fn q (fun t => decide (t = 1)) launchPacket)

/-! ### Graphs (R339, R340) -/

/-- No cycle: every node can be taken away after its producers. -/
def acyclic (edges : List (Nat × Nat)) : Nat → List Nat → Bool
  | 0, left => decide (left = [])
  | n + 1, left =>
    acyclic edges n (left.filter fun v => edges.any fun e => decide (e.2 = v) && left.contains e.1)

/-- Reads `n` words of `k` bytes. -/
def State.hubList (s : State) (v : View) (a : Word) (k : Nat) : Nat → State × Except Raise (List Nat)
  | 0 => (s, .ok [])
  | n + 1 =>
    let r := s.hubRead v a k
    match r.2 with
    | .error e => (r.1, .error e)
    | .ok x =>
      let q := r.1.hubList v (a + BitVec.ofNat 64 k) k n
      match q.2 with
      | .error e => (q.1, .error e)
      | .ok l => (q.1, .ok (x :: l))

/-- Reads the node descriptors of a graph; none when one is invalid or cannot be read. -/
def State.readNodes (s : State) (v : View) : List Nat → State × Option (List LaunchDesc)
  | [] => (s, some [])
  | a :: t =>
    let r := if a % 256 = 0 ∧ a < 2 ^ 60 then s.hubWords v (BitVec.ofNat 64 a) 32 else (s, .error { cause := 11 })
    match r.2 with
    | .error _ => (r.1, none)
    | .ok ws =>
      if descBad v.world (wordsFn ws) then (r.1, none)
      else
        let q := r.1.readNodes v t
        (q.1, q.2.map fun l => descOf (wordsFn ws) :: l)

/-- A graph's nodes and edges as its descriptor gives them (Table 16.6). -/
def State.readGraph (s : State) (v : View) (a : Word) : State × Option (List LaunchDesc × List (Nat × Nat)) :=
  let r := s.hubWords v a 8
  match r.2 with
  | .error _ => (r.1, none)
  | .ok ws =>
    let d := wordsFn ws
    let n := bits (d 0) 15 0
    let m := bits (d 0) 47 32
    if n = 0 ∨ 1024 < n ∨ bits (d 0) 31 16 ≠ 0 ∨ 4096 < m ∨ bits (d 0) 63 48 ≠ 0 ∨ ¬ tailZero ws 3 then (r.1, none)
    else
      let q := r.1.hubList v (d 1) 8 n
      let e := q.1.hubList v (d 2) 4 m
      match q.2, e.2 with
      | .ok as, .ok es =>
        let edges := es.map fun x => (x % 65536, x / 65536)
        if edges.any (fun p => decide (n ≤ p.1) || decide (n ≤ p.2) || decide (p.1 = p.2))
            ∨ ¬ acyclic edges n (List.range n) then (e.1, none)
        else
          let k := e.1.readNodes v as
          (k.1, k.2.map fun l => (l, edges))
      | _, _ => (e.1, none)

/-- The open unit of a context that a handle names. -/
def unitOpen (t : Table Unit3) (fn ctx h : Nat) : Option (Nat × Unit3) :=
  (unitNamed t fn ctx h).bind fun p => if p.2.done then none else some p

/-- Whether JOB and PHASE of a GRAPH packet name open units, PHASE under JOB (R339). -/
def State.parentsOk (s : State) (v : View) (job ph : Nat) : Bool :=
  (decide (job = 0) || (unitOpen s.jobs v.fn v.ctx job).isSome)
    && (decide (ph = 0) ||
      match unitOpen s.jobs v.fn v.ctx job, unitOpen s.phases v.fn v.ctx ph with
      | some j, some p => decide (p.2.parent = j.1)
      | _, _ => false)

/-- A new unit with its handle. -/
def newUnit (v : View) (handle parent n : Nat) : Unit3 :=
  { fn := v.fn, ctx := v.ctx, handle := handle, parent := parent, remaining := n }

/-- Opens the job and the phase where the packet asks for it; answers the phase with its handle, and the job's handle. -/
def State.openUnits (s : State) (v : View) (w : List Word) : State × (Nat × Nat) × Nat :=
  let job := bits (pw w 3) 31 0
  let ph := bits (pw w 3) 63 32
  let a : State × Nat × Nat := if job = 0 then
      let h := s.newHandle v.fn 3
      ({ h.1.bump with jobs := tput h.1.jobs h.1.tick (newUnit v h.2 0 (bits (pw w 4) 15 0)) }, h.1.tick, h.2)
    else (s, ((unitBy s.jobs v.fn job).getD 0), job)
  let b : State × Nat × Nat := if ph = 0 then
      let h := a.1.newHandle v.fn 2
      ({ h.1.bump with phases := tput h.1.phases h.1.tick (newUnit v h.2 a.2.1 (bits (pw w 4) 31 16)) }, h.1.tick, h.2)
    else (a.1, ((unitBy a.1.phases v.fn ph).getD 0), ph)
  (b.1, b.2, a.2.2)

/-- Writes the handle block of a graph: the graph, phase and job handles and the running status (R339). -/
def State.putBlock (s : State) (v : View) (a : Word) (g p j : Nat) : State × Bool :=
  if a = 0 then (s, true)
  else
    let x := s.noteWord v a 8 1 (.set (g + p * 2 ^ 32))
    let y := x.1.noteWord v (a + 8) 8 1 (.set (j + (2 ^ 32 - 1) * 2 ^ 32))
    (y.1, x.2.isNone && y.2.isNone)

/-- PACKET_GRAPH (R339). -/
def graphPacket (s : State) (v : View) (id : Nat) (w : List Word) : State × Option Nat :=
  if ¬ s.parentsOk v (bits (pw w 3) 31 0) (bits (pw w 3) 63 32) then (s, some 4)
  else
    let r := s.readGraph v (pw w 2)
    match r.2 with
    | none => (r.1, some 4)
    | some (ds, es) =>
      let blk := pw w 5
      let reach := if blk = 0 then (r.1, .ok (Target.win 0)) else r.1.hubAt v blk 16 1
      match reach.2 with
      | .error _ => (reach.1, some 4)
      | .ok _ =>
        let u := reach.1.openUnits v w
        let h := u.1.newHandle v.fn 1
        let p := h.1.putBlock v blk h.2 u.2.1.2 u.2.2
        if ¬ p.2 then (r.1, some 4)
        else
          ({ p.1.bump with
            graphs := tput p.1.graphs p.1.tick
              { fn := v.fn, ctx := v.ctx, handle := h.2, parent := u.2.1.1, remaining := ds.length, hblk := blk
                packet := id, nodes := (List.range ds.length).map fun i => (i, (0, none)), descs := ds, edges := es
                acq := decide (pAcq w ≠ 0) } }, none)

def execPacketGraph (fn q : Nat) (s : State) : Host.Outcome State Fault Refusal :=
  .next (s.takePacket fn q (fun t => decide (t = 5)) graphPacket)

/-- What a node of a graph may do now: wait, start, or be aborted (R340). -/
def nodeStart (u : Unit3) (n : Nat) : Start :=
  match tget u.nodes n with
  | some (0, none) =>
    let early := ((u.descs[n]?).map fun d => d.early).getD false
    let ps := (u.edges.filter fun e => decide (e.2 = n)).map fun e => tval (0, none) u.nodes e.1
    if ps.any fun p => match p.2 with | some st => decide (st ≠ 0) | none => false then .status 1
    else if ps.all fun p => decide (p.2 = some 0) || (early && decide (p.1 ≠ 0)) then .go
    else .wait
  | _ => .wait

/-- GRAPH_NODE_START (R340, R346). -/
def execGraphNodeStart (graph node : Nat) (s : State) : Host.Outcome State Fault Refusal :=
  match tget s.graphs graph with
  | none => .next s
  | some u =>
    if u.done then .next s
    else match nodeStart u node with
      | .wait => .next s
      | .status st => .next (s.graphChild graph node st)
      | .go =>
        match u.descs[node]? with
        | none => .next s
        | some d =>
          let a := s.newHandle u.fn 0
          let h := a.1.tick
          let prods := if d.early then
              (u.edges.filter fun e => decide (e.2 = node)).map fun e => (tval (0, none) u.nodes e.1).1
            else []
          let s1 := { a.1 with graphs := tput s.graphs graph { u with nodes := tput u.nodes node (h, none) } }
          let s2 := s1.mkLaunch u.fn u.ctx a.2 d graph node 0 0 u.acq prods
          if s.admits u.fn d then .next s2
          else .next ((s2.updLaunch h fun l => { l with done := true, remaining := 0 }).graphChild graph node 3)

/-! ### Completion (R336) -/

/-- Writes a completion status to a handle word or block; a failure leaves a fault record (R440). -/
def State.putStatus (s : State) (v : View) (p : Packet) (st : Nat) : State :=
  if p.hword = 0 then s
  else
    let a := p.hword + (if p.kind = 1 then 4 else 12)
    let r := s.noteWord v a 4 1 (.set st)
    match r.2 with
    | some e => r.1.engFault v.fn v.ctx e
    | none => r.1

/-- Completes one packet: release, status, signal, error latch. -/
def State.completePacket (s : State) (id : Nat) (p : Packet) (st : Nat) : State :=
  let s0 := if p.rel = 0 then s else (List.range 12).foldl State.cleanDie s
  let v := s0.hubView p.fn p.ctx
  let s1 := s0.putStatus v p st
  let s2 := if st = 0 then s1.sigSub v p.compl 1 else s1.sigSet v p.compl (2 ^ 64 - 1)
  let s3 := if st = 0 then s2 else s2.queueErr p.fn p.q
  { s3 with packets := tdel s3.packets id }

/-- The oldest packet whose status is known. -/
def State.donePacket (s : State) : Option (Nat × Packet × Nat) :=
  s.packets.findSome? fun p => p.2.status.map fun st => (p.1, p.2, st)

/-- PACKET_COMPLETE. -/
def execPacketComplete (s : State) : Host.Outcome State Fault Refusal :=
  match s.donePacket with
  | none => .next s
  | some (id, p, st) => .next (s.completePacket id p st)

/-! ### Cannoli and the token buckets (R348, R349) -/

/-- A core whose task queue has room for its oldest spilled card. -/
def State.spillCore (s : State) : Option (Nat × Card) :=
  s.cores.findSome? fun p => match p.2.spilled with
    | c :: _ => if p.2.taskq.length < 64 then some (p.1, c) else none
    | [] => none

/-- Advances the CIDX of a backing ring. -/
def State.spillGet (s : State) (fn ctx core : Nat) : State :=
  let v := s.hubView fn ctx
  let r := s.ringAt v (s.spillRing fn ctx core) 6
  match r.2 with
  | .ok (t, b) => r.1.ringIndex v t (s.spillRing fn ctx core) 8 (b.cidx + 1)
  | .error _ => r.1

/-- CANNOLI_SPILL_MOVE; a card of a launch that is cancelled is dropped. -/
def execCannoliSpillMove (s : State) : Host.Outcome State Fault Refusal :=
  match s.spillCore with
  | none => .next s
  | some (core, c) =>
    let l := tget s.launches c.launch
    let s1 := match l with | some x => s.spillGet x.fn x.ctx core | none => s
    let live : Bool := match l with | some x => !x.done && !x.cancelled | none => false
    .next (s1.updCore core fun k =>
      { k with spilled := k.spilled.drop 1, taskq := if live then k.taskq ++ [c] else k.taskq })

/-- A bucket at the start of a µs. -/
def Bucket.refill (b : Bucket) : Bucket :=
  if b.rate = 0 then b else { b with level := min (b.depth : Int) (b.level + b.rate) }

/-- BUCKET_REFILL. -/
def execBucketRefill (s : State) : Host.Outcome State Fault Refusal :=
  .next { s with fns := s.fns.map fun (p : Nat × Func) =>
    (p.1, { p.2 with buckets := p.2.buckets.map fun (b : Nat × Bucket) => (b.1, b.2.refill) }) }

end Sys2Proof.Machine
end

