-- ==== Sys2Proof/Machine/Tiers.lean ====
section
/-! DEFINITION. Frames and pages: walkers, the invalidation and move rings, Strudel's moves, and the switch of a
time-sliced set (R324 to R328, R360 to R364, R370, R373, R400, R419, R426). -/

namespace Sys2Proof.Machine

/-! ### Frames (R400) -/

/-- A page of a near or capacity frame that meets `p`. -/
def leafIn (p : Nat → Bool) (l : Word) (size : Nat) : Bool := decide (leafTier l ≤ 1) && (framesOf l size).any p

/-- Whether the page of a held fault is, or was when it was held, in a frame that meets `p`. -/
def State.holdIn (s : State) (p : Nat → Bool) (h : Hold) : Bool :=
  (List.range h.span).any (fun i => p (h.frame + i)) ||
  match s.lookup (s.ctxD h.fn h.ctx) (spaceOf h.trap.addr) (bits h.trap.addr 51 0) with
  | .leaf l _ size _ => leafIn p l size
  | _ => false

/-- Releases the held faults that meet `p`: their accesses walk afresh (R366). -/
def State.freeHolds (s : State) (p : Nat → Hold → Bool) : State :=
  (s.holds.filter fun e => p e.1 e.2).foldl (fun t e => t.releaseHold e.1 e.2) s

/-- A failed node that stays when frames are released: some frame of its world lies under it and stays (R405). -/
def State.nodeStays (s : State) (p : Nat → Bool) (k : Nat) : Bool :=
  let lo := nodeBase k
  let hi := lo + nodeSpan (nodeLevel k)
  s.owner.any fun o => decide (keyWorld o.2 = k / 2 ^ 36 / 8) && !p o.1 && decide (65536 * o.1 < hi) && decide (lo < 65536 * (o.1 + 1))

/-- Returns frames to NONE: their translations go, their lines are discarded, they read as zero, their write counters
start again, and the accesses held on them walk afresh (R366, R400). -/
def State.freeFrames (s : State) (p : Nat → Bool) : State :=
  let s0 := s.freeHolds fun _ h => s.holdIn p h
  let s1 := (s0.tlbDrop fun e => leafIn p e.leaf e.size).mdcDrop p
  { s1 with
    cores := s1.cores.map fun (c : Nat × Core) =>
      (c.1, { c.2 with
        dirty := c.2.dirty.filter fun e => !p (e.line / 512)
        column := c.2.column.filter fun e => !p (e.1 / 512)
        l1 := c.2.l1.filter fun e => !p (e.line / 512)
        icache := c.2.icache.filter fun l => !p (l / 512) })
    l2 := s1.l2.map fun (d : Nat × List Nat) => (d.1, d.2.filter fun l => !p (l / 512))
    hubc := s1.hubc.filter fun l => !p (l / 512)
    hostLines := s1.hostLines.filter fun l => !p (l / 512)
    fmtPend := s1.fmtPend.filter fun f => !p (f.loc / 65536)
    ctrs := s1.ctrs.filter fun c => !p (c.1 / 512)
    frameCtrs := s1.frameCtrs.filter fun c => !p c.1
    failed := s1.failed.filter fun f => !p f
    nodeMet := s1.nodeMet.filter fun b => s1.nodeStays p b.1
    mem := s1.mem.filter fun b => decide (2 ^ 64 ≤ b.1) || !p (b.1 / 65536)
    owner := s1.owner.filter fun o => !p o.1
    badMac := s1.badMac.filter fun l => !p (l / 512)
    badNode := s1.badNode.filter (s1.nodeStays p)
    moves := s1.moves.map fun m => { m with stuck := false } }

/-! ### The walker (R359, R361) -/

/-- PAGE_WALK: a walker of the hub completes a walk for an access of some KIND from a die; a first write sets
DIRTY. -/
def execPageWalk (die fn ctx space : Nat) (va : Word) (kind : Nat) (s : State) : Host.Outcome State Fault Refusal :=
  let v : View := { s.hubView fn ctx with die := die }
  let r := s.walk v space (bits va 51 0)
  match r.2 with
  | .ok l _ =>
    match check911 l kind false (kindWrites kind) with
    | some _ => .next r.1
    | none => .next (if kindWrites kind ∧ ¬ leafDirty l then r.1.setDirty v space (bits va 51 0) else r.1)
  | _ => .next r.1

/-! ### Rings that the hub serves (R362, R373, R416, R441) -/

/-- The element at the head of a physical ring of `n`-word elements. -/
def State.ringHead (s : State) (ring n : Nat) : Option (List Word) :=
  let b := s.rcb ring
  if ring = 0 ∨ (s.physErr ring).isSome ∨ ¬ b.valid ∨ b.esize ≠ n ∨ b.isEmpty ∨ (s.physErr (b.elem b.cidx)).isSome then none
  else some (s.physWords (b.elem b.cidx) n)

/-- The place of the head element of a ring. -/
def State.headElem (s : State) (ring : Nat) : Nat := (s.rcb ring).elem (s.rcb ring).cidx

/-- Takes the head element: CIDX advances. -/
def State.ringTake (s : State) (ring : Nat) : State :=
  { s with enqBy := tdel s.enqBy (s.headElem ring) }.bankWrite (ring + 8) 4 ((s.rcb ring).cidx + 1)

/-- The functions whose invalidation ring (0) or move ring (2) holds a request, with the ring and the request. -/
def State.ringReqs (s : State) (which : Nat) : List (Nat × Nat × List Word) :=
  s.fns.filterMap fun (p : Nat × Func) =>
    let ring := p.2.rings.getD which 0
    (s.ringHead ring 4).map fun w => (p.1, ring, w)

def reqOp (w : List Word) : Nat := bits (pw w 0) 3 0
def reqSpace (w : List Word) : Nat := if (pw w 0).getLsbD 4 then 4 else 0
def reqCtx (w : List Word) : Nat := bits (pw w 0) 12 5

/-- The first request that the event numbered `op` serves; the event of OP 0 also takes invalid OPs. -/
def pickReq (rs : List (Nat × Nat × List Word)) (op top : Nat) : Option (Nat × Nat × List Word) :=
  rs.find? fun r => decide (reqOp r.2.2 = op) || (decide (op = 0) && decide (top < reqOp r.2.2))

/-- A context whose function holds its slices. -/
def State.ctxResident (s : State) (fn ctx : Nat) : Bool :=
  let f := s.fnD fn
  (!f.ts || f.resident) && !(s.ctxD fn ctx).ended

/-! ### Invalidation requests (R362 to R364, R370) -/

/-- An invalid request (R363). -/
def State.invBad (s : State) (fn : Nat) (w : List Word) : Bool :=
  decide (bits (pw w 0) 63 13 ≠ 0) || decide (3 < reqOp w) || (tget s.ctxs (ctxKey fn (reqCtx w))).isNone
    || decide (bits (pw w 2) 63 32 ≠ 0)
    || ((decide (reqOp w = 0) || decide (reqOp w = 2)) && decide (bits (pw w 2) 31 0 = 0))
    || (decide (reqOp w = 3) && s.ctxResident fn (reqCtx w))

/-- Whether a request to a peer numbered below `n` is still out, made by a function. -/
def State.olderOut (s : State) (fn n : Nat) : Bool := s.peerOut.any fun o => decide (o.fn = fn) && decide (o.id < n)

/-- A function whose performed invalidation request may be reported: every request to a peer made before is answered. -/
def State.invDone (s : State) : Option (Nat × InvWait) :=
  s.fns.findSome? fun p => match p.2.invWait with
    | some w => if s.olderOut p.1 w.since then none else some (p.1, w)
    | none => none

/-- The invalidation requests that may be served: of functions with none that waits to be reported. -/
def State.invReqs (s : State) : List (Nat × Nat × List Word) :=
  (s.ringReqs 0).filter fun r => decide ((s.fnD r.1).invWait = none)

/-- Serves the head request that an event is for: an invalid one changes nothing and gets −1. A valid one is performed,
pending alias storage writes land, and SIGNAL goes down, by a later step while requests to peers that may have used a
removed entry are out. A request that can be reported comes first (R363). -/
def State.serveInv (s : State) (op : Nat) (f : State → Nat → Nat → List Word → State) : State :=
  match s.invDone with
  | some (fn, w) => (s.updFn fn fun g => { g with invWait := none }).ringSig (w.from_.map s.keyView) w.signal.toNat .dec
  | none =>
    match pickReq s.invReqs op 3 with
    | none => s
    | some (fn, ring, w) =>
      let from_ := tget s.enqBy (s.headElem ring)
      let s1 := s.ringTake ring
      if s.invBad fn w then s1.ringSig (from_.map s.keyView) (pw w 3).toNat (.neg 1)
      else
        let s2 := (f s1 fn (reqCtx w) w).fmtAll
        if s2.olderOut fn s2.tick then
          s2.updFn fn fun g => { g with invWait := some { since := s2.tick, from_ := from_, signal := pw w 3 } }
        else s2.ringSig (from_.map s.keyView) (pw w 3).toNat .dec

/-- OP 0: the translations of a range. -/
def State.invRange (s : State) (fn ctx : Nat) (w : List Word) : State :=
  let lo := bits (pw w 1) 51 16 * 65536
  let n := bits (pw w 2) 31 0 * 65536
  s.tlbDrop fun e => decide (e.fn = fn) && decide (e.ctx = ctx) && decide (e.space = reqSpace w)
    && decide (e.base < lo + n) && decide (lo < e.base + e.size)

def execInvPages (s : State) : Host.Outcome State Fault Refusal := .next (s.serveInv 0 State.invRange)

/-- OP 1: every translation of a context. -/
def State.invCtx (s : State) (fn ctx : Nat) : State :=
  s.tlbDrop fun e => decide (e.fn = fn) && decide (e.ctx = ctx)

def execInvContext (s : State) : Host.Outcome State Fault Refusal :=
  .next (s.serveInv 1 fun s fn ctx _ => s.invCtx fn ctx)

/-- OP 2: the translations of frames in the context's world and their marks; frames that the world owns return to
NONE. A range reaches no further than the last frame of the physical addresses. -/
def State.invFrames (s : State) (fn ctx : Nat) (w : List Word) : State :=
  let lo := bits (pw w 1) 63 16
  let n := min (bits (pw w 2) 31 0) (2 ^ 34 - lo)
  let world := (s.ctxD fn ctx).world
  let inr (f : Nat) : Bool := decide (lo ≤ f) && decide (f < lo + n)
  let s1 := s.tlbDrop fun e =>
    decide ((s.ctxD e.fn e.ctx).world = world) && leafIn inr e.leaf e.size
  let s2 := { s1 with
    markX := tclear s1.markX (markKey world lo) n
    markW := tclear s1.markW (markKey world lo) n }
  s2.freeFrames fun f => inr f && decide (s.ownerOf f = world)

def execInvFrames (s : State) : Host.Outcome State Fault Refusal := .next (s.serveInv 2 State.invFrames)

/-- The valid entries of a node. -/
def State.validAt (s : State) (node n : Nat) : List Word :=
  s.mem.filterMap fun b =>
    if node ≤ b.1 ∧ b.1 < node + 8 * n ∧ b.1 % 8 = node % 8 ∧ b.2.toNat % 2 = 1 then some (s.entry b.1) else none

/-- The valid leaves of a table, with their sizes. -/
def State.leavesOf (s : State) (root : Nat) : List (Word × Nat) :=
  (s.validAt root 4096).flatMap fun e1 =>
    if bits e1 2 1 = 2 then (s.validAt (ptrNode e1) 2048).map fun l => (l, 2 ^ 29)
    else if bits e1 2 1 ≠ 0 then []
    else (s.validAt (ptrNode e1) 4096).flatMap fun e2 =>
      if bits e2 2 1 = 1 then (s.validAt (ptrNode e2) 128).map fun l => (l, 2 ^ 21)
      else if bits e2 2 1 = 0 then (s.validAt (ptrNode e2) 4096).map fun l => (l, 2 ^ 16)
      else []

/-- OP 3: the touched-dies mask keeps H and the compute dies that still home a page (R370). -/
def State.tdRecompute (s : State) (fn ctx : Nat) : State :=
  let c := s.ctxD fn ctx
  let ls := s.leavesOf c.root0.toNat ++ (if c.root4 = 0 then [] else s.leavesOf c.root4.toNat)
  let ds := ls.flatMap fun l => if leafTier l.1 = 0 then (framesOf l.1 l.2).map s.homeDie else []
  s.updCtx fn ctx fun c => { c with tdmask := ds.foldl (fun m d => m ||| (1#17 <<< d)) 0x1000 &&& c.tdmask }

def execInvTdmask (s : State) : Host.Outcome State Fault Refusal :=
  .next (s.serveInv 3 fun s fn ctx _ => s.tdRecompute fn ctx)

/-! ### Free frames -/

/-- A frame that a page may be moved to: NONE, on media that answers, its bus in service. -/
def State.frameFree (s : State) (near : Bool) (dies : List Nat) (f : Nat) : Bool :=
  let h := s.homeOf f
  decide (s.ownerOf f = 255) && !s.frameLost (if near then 0 else 1) f &&
    (if near then dies.contains (h / 64) && decide (h < 768) && decide (s.busState f = .active)
     else decide (768 ≤ h))

/-- The first of `n` aligned runs, from frame `f` up, all of whose frames are free. -/
def State.firstRun (s : State) (near : Bool) (dies : List Nat) (k f : Nat) : Nat → Option Nat
  | 0 => none
  | n + 1 =>
    if (List.range k).all fun i => s.frameFree near dies (f + i) then some f
    else s.firstRun near dies k (f + k) n

/-- A run of `k` free frames that Strudel takes: the one the free value names if it will do, else the lowest. -/
def State.frameRun (s : State) (near : Bool) (dies : List Nat) (k : Nat) : Option Nat :=
  let r := Config.freeFrame s.draw / k * k
  if (List.range k).all fun i => s.frameFree near dies (r + i) then some r
  else if near then s.firstRun true dies k 0 (11010048 / k)
  else s.firstRun false dies k 11010048 (33554432 / k)

/-- A near frame run of the lowest-numbered slice of a list that has one (R373). -/
def State.findNear (s : State) (slices : List Nat) (k : Nat) : Option Nat :=
  (slices.mergeSort fun a b => decide (a ≤ b)).findSome? fun d => s.frameRun true [d] k

/-- Capacity granules that a function's worlds hold. -/
def State.capUsed (s : State) (fn : Nat) : Nat :=
  (s.owner.filter fun (o : Nat × Nat) =>
    decide (768 ≤ s.homeOf o.1) && (match tget s.worlds (if o.2 = 64 then 0 else o.2) with
      | some w => decide (w.fn = fn) | none => false)).length

/-- A capacity frame run within a function's quota (R326). -/
def State.findCap (s : State) (fn k : Nat) : Option Nat :=
  if (s.fnD fn).capQ < s.capUsed fn + k then none else s.frameRun false [] k

/-! ### A move (R324) -/

/-- A mapping of a page that a working set lists: function, context, space, virtual address. -/
structure Page where
  fn : Nat
  ctx : Nat
  space : Nat
  va : Nat
  deriving DecidableEq, Repr

/-- The leaf of a mapping, with its place and page size. -/
def State.leafAt (s : State) (p : Page) : Option (Word × Nat × Nat) :=
  match s.lookup (s.ctxD p.fn p.ctx) p.space p.va with
  | .leaf l place size _ => some (l, place, size)
  | _ => none

/-- Opens the working sets of all contexts. -/
def State.wsReadyAll (s : State) : State := s.ctxs.foldl (fun t (c : Nat × Context) => t.wsReady (c.1 / 256) (c.1 % 256)) s

/-- The valid entries of a context's working set as mappings. -/
def State.pagesOf (s : State) (fn ctx : Nat) : List (Word × Page) :=
  (s.wsEntries fn ctx).filterMap fun e =>
    if wsValid e.2 then
      some (e.2, { fn := fn, ctx := ctx, space := if e.2.getLsbD 5 then 4 else 0, va := bits e.2 51 16 * 65536 })
    else none

/-- Every listed mapping of the frame of a leaf. -/
def State.mappings (s : State) (l : Word) (size : Nat) : List Page :=
  s.ctxs.flatMap fun (c : Nat × Context) =>
    ((s.pagesOf (c.1 / 256) (c.1 % 256)).map Prod.snd).filter fun p =>
      match s.leafAt p with
      | some (m, _, z) => decide (z = size) && decide (leafTier m = leafTier l) && decide (leafFrame m = leafFrame l)
          && (decide (leafTier l ≠ 3) || decide (leafAper m = leafAper l))
      | none => false

/-- Changes the leaf entry of a mapping. -/
def State.setLeaf (s : State) (p : Page) (f : Word → Word) : State :=
  match s.leafAt p with
  | some (l, place, _) => s.bankWrite place 8 (f l).toNat
  | none => s

/-- Sets RES of the entries that list a mapping, and RESG. -/
def State.setRes (s0 : State) (p : Page) (b : Bool) : State :=
  let s := s0.wsReady p.fn p.ctx
  ((s.wsEntries p.fn p.ctx).foldl (fun t e =>
    if wsLists e.2 p.space p.va then t.hubPut p.fn p.ctx e.1 8 (setBits e.2 4 4 b.toNat).toNat else t) s).wsStore p.fn p.ctx

/-- Where the bytes of a page of this module or the host lie. -/
def tierLoc (l : Word) : Nat := if leafTier l = 2 then hostLoc (leafFrame l * 65536) else leafFrame l * 65536

/-- Copies `n` bytes of memory cells from one location to another that holds zeros. -/
def State.copyCells (s : State) (src dst n : Nat) : State :=
  let l := s.mem.filter fun b => decide (src ≤ b.1) && decide (b.1 < src + n)
  { s with mem := l.foldl (fun t b => tput t (dst + (b.1 - src)) b.2) s.mem }

/-- Marks the page of a leaf lost in every listed mapping, which then counts as resident no more, with its event (R321,
R327, R405). -/
def State.losePage (s : State) (fn ctx : Nat) (l : Word) (size : Nat) : State :=
  let ms := s.mappings l size
  let s1 := ms.foldl (fun t p => (t.setLeaf p fun m => setBits m 11 11 1).wsStore p.fn p.ctx) s
  let s2 := s1.tlbDrop fun e => leafIn (framesOf l size).contains e.leaf e.size
  s2.event 9 fn ctx (s.ctxD fn ctx).world (some (BitVec.ofNat 64 (leafFrame l * 65536)))

/-- Whether a verification of the page fails (R405). -/
def State.pageBad (s : State) (l : Word) (size : Nat) : Bool :=
  decide (leafTier l ≤ 1) && (framesOf l size).any fun f =>
    (List.range 512).any (fun i => (s.nodeBad (512 * f + i)).isSome) || s.badMac.any fun x => decide (x / 512 = f)

/-- Reads `n` lines of a peer's page over the fabric; none when one meets an error response (R373). -/
def State.peerPage (s : State) (v : View) (peer pa : Nat) : Nat → State × Option (List Byte)
  | 0 => (s, some [])
  | n + 1 =>
    let r := s.readP v (.peer peer pa) 128 0 0
    let q := r.1.peerPage v peer (pa + 128) n
    match r.2, q.2 with
    | .ok x, some t => (q.1, some (toBytes 128 x ++ t))
    | _, _ => (q.1, none)

/-- The page of a peer as the fabric brings it, before it is moved; nothing for a page of this module. Until the move other
accesses to the page are held (R324). -/
def State.pageIn (s : State) (fn ctx : Nat) (l : Word) (size : Nat) : State × Option (List Byte) :=
  if leafTier l = 3 then
    let r := s.peerPage (s.hubView fn ctx) (leafAper l) (leafFrame l * 65536) (size / 128)
    let e := (peerLoc (leafAper l) (leafFrame l * 65536), size, s.asker)
    (if r.1.moving.contains e then r.1 else { r.1 with moving := r.1.moving ++ [e] }, r.2)
  else (s, some [])

/-- Accesses to the peer page of a mapping are under way, which its move waits for (R324). -/
def State.farBusy (s : State) (p : Page) : Bool :=
  match s.leafAt p with
  | some (l, _, size) =>
    decide (leafTier l = 3) && s.peerOut.any fun o =>
      decide (o.msg.peer = leafAper l) && decide (leafFrame l * 65536 ≤ o.msg.pa) && decide (o.msg.pa < leafFrame l * 65536 + size)
  | none => false

/-- Moves the page of a mapping to a frame run of a tier as one step, charging a function, with the bytes that a peer gave;
false when the page is lost by an integrity failure. Storage writes that wait are performed first (R303). -/
def State.movePage (s : State) (payer : Nat) (p : Page) (f tier : Nat) (bytes : List Byte := []) : State × Bool :=
  match s.leafAt p with
  | none => (s, false)
  | some (l, _, size) =>
    let k := size / 65536
    let olds := framesOf l size
    let sf := if leafTier l ≤ 2 then s.fmtAll.flushLines (tierLoc l / 128) (512 * k) else s
    let s0 := { sf with draw := sf.draw + 1 }
    let maps := s0.mappings l size
    let ms := if maps.contains p then maps else p :: maps
    let s1 := ms.foldl (fun t m =>
      t.touch m.fn m.ctx ((if leafTier l = 0 then [] else t.diesOf (leafTier l) (leafFrame l) (leafAper l) false)
        ++ (if tier = 0 then (List.range k).map fun i => t.homeDie (f + i) else [14, 15]))) s0
    if s1.pageBad l size then (s1.losePage p.fn p.ctx l size, false)
    else
      let s2 := if leafTier l = 3 then s1.wrBytes (f * 65536) bytes else s1.copyCells (tierLoc l) (f * 65536) size
      let own (i : Nat) : Nat := if leafTier l ≤ 1 then s.ownerOf (leafFrame l + i) else (s.ctxD p.fn p.ctx).world
      let so := { s2 with owner := (List.range k).foldl (fun t i => tset 255 t (f + i) (own i)) s2.owner }
      let s3 := (List.range k).foldl (fun t i => t.countFrame (f + i)) so
      let s4 := ms.foldl (fun t m =>
        t.setLeaf m fun x => setBits (setBits (setBits x 55 22 f) 5 4 tier) 21 12 0) s3
      let s5 := if leafTier l ≤ 1 then s4.freeFrames olds.contains
                else s4.tlbDrop fun e => ms.any fun m => decide (e.fn = m.fn) && decide (e.ctx = m.ctx)
                  && decide (e.space = m.space) && decide (e.base = m.va)
      let s6 := ms.foldl (fun t m => t.setRes m (decide (tier = 0))) s5
      let s7 := if leafTier l = 1 ∨ tier = 1 then s6.charge payer (10 * size) else s6
      (if leafTier l = 2 then s7.charge payer (6 * size) else s7, true)

/-! ### Room (R326) -/

/-- The pages of a context that are in the near tier on one of some dies: COLD ones, then the others from the last
entry backwards. -/
def State.nearPages (s : State) (dies : List Nat) (fn ctx : Nat) : List Page × List Page :=
  let l := (s.pagesOf fn ctx).filter fun e =>
    match s.leafAt e.2 with
    | some (m, _, z) => decide (leafTier m = 0) && !leafLost m && decide (z = wsSize e.1)
        && (framesOf m z).any fun f => dies.contains (s.homeDie f)
    | none => false
  ((l.filter fun e => e.1.getLsbD 2).map Prod.snd, ((l.filter fun e => !e.1.getLsbD 2).map Prod.snd).reverse)

/-- The functions that share a function's slices, itself among them. -/
def State.sharers (s : State) (fn : Nat) : List Nat :=
  let f := s.fnD fn
  (s.fns.filter fun p => decide (p.2.first = f.first) && decide (p.2.count = f.count)
    && decide (p.2.count ≠ 0)).map Prod.fst

/-- The contexts of a function, in order. -/
def State.ctxsOf (s : State) (fn : Nat) : List Nat :=
  (s.ctxs.filter fun p => decide (p.1 / 256 = fn)).map fun p => p.1 % 256

/-- The dies of a function's slices. -/
def Func.slices (f : Func) : List Nat := (List.range f.count).map (f.first + ·)

/-- The slices that a function keeps: all, or those that a shrink leaves it (R418). -/
def Func.kept (f : Func) : List Nat :=
  match f.resize with
  | some (first, n, _) => f.slices.filter fun d => decide (first ≤ d) && decide (d < first + n)
  | none => f.slices

/-- The pages to move down for room on a function's slices, in the order of R326; `out` is the outgoing function, each of
whose contexts gives its COLD pages and then its others (R419). -/
def State.victims (s : State) (fn : Nat) (out : Option Nat) : List Page :=
  let dies := (s.fnD fn).slices
  let mine := match out with
    | some o => (s.ctxsOf o).map fun c => s.nearPages dies o c
    | none => []
  let rest := ((s.sharers fn).filter fun g => decide (some g ≠ out)).flatMap fun g =>
    ((s.ctxsOf g).filter fun c => !s.ctxResident g c && decide (g ≠ fn)).map fun c => s.nearPages dies g c
  mine.flatMap (fun m => m.1 ++ m.2) ++ rest.flatMap Prod.fst ++ rest.flatMap Prod.snd

/-- Moves victims down until `k` free near frames lie in a run on one of some slices: the run, and the contexts whose move
down has failed, which keep their pages. -/
def State.makeRoom (s : State) (payer k : Nat) (slices : List Nat) (skip : List (Nat × Nat)) :
    List Page → State × Option Nat × List (Nat × Nat)
  | [] => (s, s.findNear slices k, skip)
  | v :: t =>
    match s.findNear slices k with
    | some f => (s, some f, skip)
    | none =>
      if skip.contains (v.fn, v.ctx) then s.makeRoom payer k slices skip t
      else
        match s.leafAt v with
        | none => s.makeRoom payer k slices skip t
        | some (_, _, size) =>
          match s.findCap v.fn (size / 65536) with
          | none => s.makeRoom payer k slices ((v.fn, v.ctx) :: skip) t
          | some f => (s.movePage payer v f 1).1.makeRoom payer k slices skip t

/-- Moves a mapping's page up to the near tier of a function's slices, making room; none when no frame can be found. The
contexts in `skip` move nothing down; those whose move down fails join them. -/
def State.pageUp (s : State) (home : Nat) (p : Page) (out : Option Nat) (skip : List (Nat × Nat)) (bytes : List Byte) :
    Option (State × Bool) × List (Nat × Nat) :=
  match s.leafAt p with
  | none => (none, skip)
  | some (_, _, size) =>
    let r := s.makeRoom home (size / 65536) (s.fnD home).kept skip (s.victims home out)
    (r.2.1.map fun f => r.1.movePage home p f 0 bytes, r.2.2)

/-! ### Move requests (R373) -/

/-- The checks of a walk for Strudel. R373 does not say whether this walk sets ACC, marks or owners, or records the page: it
leaves nothing behind (DESIGN CHOICE, assumption log 41). -/
def State.walkOk (s : State) (p : Page) : Bool :=
  match s.leafAt p with
  | none => false
  | some (l, _, size) =>
    let v := s.hubView p.fn p.ctx
    (s.check58 v p.space l size).isNone
      && (decide (1 < leafTier l) || (framesOf l size).all fun f =>
        decide (s.ownerOf f = 255) || decide (s.ownerOf f = v.world) || decide (s.ownerOf f = 64))
      && !(framesOf l size).any (fun f => s.frameLost (leafTier l) f)
      && (decide (leafTier l ≠ 3) || decide (s.usable (leafAper l) ≠ []))

/-- The mapping that a move request names. Bits [63:52] of BASE are not looked at: R373 does not say what they do (DESIGN
CHOICE, assumption log 41). -/
def reqPage (fn : Nat) (w : List Word) : Page := { fn := fn, ctx := reqCtx w, space := reqSpace w, va := bits (pw w 1) 51 0 }

/-- Carries out a valid move request to a tier, with the working sets open; none when it fails, having changed nothing. What
a peer holds is read first. -/
def State.moveReq (s0 : State) (fn : Nat) (w : List Word) (tier : Nat) : State × Option (State × Bool) :=
  let p0 := reqPage fn w
  match s0.leafAt p0 with
  | none => (s0, none)
  | some (l, _, size) =>
    let p : Page := { p0 with va := p0.va / size * size }
    let h := (s0.ctxD fn p.ctx).wshdr.toNat
    let listed : Bool := (s0.wsEntries fn p.ctx).any fun e => wsLists e.2 p.space p.va
    let full : Bool := decide (h = 0) || !s0.hubReads fn p.ctx h || decide (s0.hubRd fn p.ctx h 4 ≤ s0.hubRd fn p.ctx (h + 8) 4)
    if bits (pw w 0) 63 13 ≠ 0 ∨ pw w 2 ≠ 0 ∨ 1 < reqOp w ∨ (tget s0.ctxs (ctxKey fn p.ctx)).isNone ∨ ¬ s0.walkOk p
        ∨ leafTier l = tier ∨ (¬ listed ∧ full) then (s0, none)
    else
      let g := s0.pageIn fn p.ctx l size
      match g.2 with
      | none => (g.1, none)
      | some bytes =>
        let s1 := if listed then g.1 else g.1.wsAppend fn p.ctx (setBits (wsEntry size p.va p.space) (3 - tier) (3 - tier) 1)
        (g.1, if tier = 0 then (s1.pageUp fn p none [] bytes).1
              else (s1.findCap fn (size / 65536)).map fun f => s1.movePage fn p f 1 bytes)

/-- The move requests that may be served: of pages at peers that no access is on its way to (R324). -/
def State.moveReqs (s : State) : List (Nat × Nat × List Word) := (s.ringReqs 2).filter fun r => !s.farBusy (reqPage r.1 r.2.2)

/-- Serves the head request of a move ring that an event is for. A page that an integrity failure loses gives SIGNAL −1: R373
does not list it among the requests that fail (DESIGN CHOICE, assumption log 41). -/
def State.serveMove (s : State) (op : Nat) : State :=
  match pickReq s.moveReqs op 1 with
  | none => s
  | some (fn, ring, w) =>
    let from_ := s.enqView (s.headElem ring)
    let sig := (pw w 3).toNat
    let r := (s.ringTake ring).wsReadyAll.moveReq fn w op
    if ¬ r.1.wants.isEmpty then r.1
    else match r.2 with
      | none => r.1.ringSig from_ sig (.neg 1)
      | some (t, ok) => t.ringSig from_ sig (if ok then .dec else .neg 1)

/-- MOVE_UP; an invalid OP is taken here and gets −1. -/
def execMoveUp (s : State) : Host.Outcome State Fault Refusal := .next (s.serveMove 0)
/-- MOVE_DOWN. -/
def execMoveDown (s : State) : Host.Outcome State Fault Refusal := .next (s.serveMove 1)

/-! ### Strudel's list of moves (R247, R326, R327) -/

/-- Whether a page of the near tier is to leave one of its frames: its bus is out of service, or its slice goes by the shrink
of a function. -/
def State.leaving (s : State) (by_ : Option Nat) (f : Nat) : Bool :=
  match by_ with
  | none => decide (s.homeOf f < 768) && decide (s.busState f ≠ .active)
  | some g => decide (s.homeOf f < 768) && (s.fnD g).slices.contains (s.homeDie f) && !(s.fnD g).kept.contains (s.homeDie f)

/-- The listed pages, not lost, of the near tier that have a frame which meets `p`. -/
def State.pagesOn (s : State) (p : Nat → Bool) : List Page :=
  ((s.ctxs.flatMap fun (c : Nat × Context) => s.pagesOf (c.1 / 256) (c.1 % 256)).filter fun g =>
    match s.leafAt g.2 with
    | some (l, _, z) => decide (leafTier l = 0) && !leafLost l && decide (z = wsSize g.1) && (framesOf l z).any p
    | none => false).map Prod.snd

/-- The pages that are to leave and that Strudel's list does not hold yet. -/
def State.leavers (s : State) (by_ : Option Nat) : List Page :=
  (s.pagesOn (s.leaving by_)).filter fun p => !s.moves.any fun m =>
    m.evac && decide (m.by_ = by_) && decide (m.fn = p.fn) && decide (m.ctx = p.ctx) && decide (m.space = p.space) && decide (m.va = p.va)

/-- Asks Strudel to move pages to other near frames. -/
def State.addEvacs (s : State) (by_ : Option Nat) : State :=
  (s.leavers by_).foldl (fun t p => { t.bump with moves := t.moves ++
    [{ id := t.tick, fn := p.fn, ctx := p.ctx, space := p.space, va := p.va, up := false, signal := 0, evac := true, by_ := by_ }] }) s

def Move.page (m : Move) : Page := { fn := m.fn, ctx := m.ctx, space := m.space, va := m.va }

/-- Whether a listed move still has a page to move: listed, walkable, not lost, and in a tier below the near one, or, for a
page that is to leave its frames, still on one of them. -/
def State.moveLive (s : State) (m : Move) : Bool :=
  match s.leafAt m.page with
  | some (l, _, size) =>
    (if m.evac then decide (leafTier l = 0) && !leafLost l && (framesOf l size).any (s.leaving m.by_)
      else decide (leafTier l ≠ 0) && s.walkOk m.page)
      && (s.wsEntries m.fn m.ctx).any fun e => wsLists e.2 m.space m.va && decide (wsSize e.2 = size)
  | none => false

/-- The function that a function took the slices from, whose pages leave first. -/
def State.outgoingOf (s : State) (fn : Nat) : Option Nat :=
  ((s.sharers fn).filter fun g => decide (g ≠ fn) && !(s.fnD g).resident).find? fun g => decide (some g = (s.fnD fn).lastOut)

/-- Makes a move of Strudel's list, or puts it aside until a frame is freed; the host is told of a page that no frame is found
for off a draining bus (R320). A page that a peer does not give stays. -/
def State.makeMove (s : State) (m : Move) : State :=
  let home := m.by_.getD m.fn
  match s.leafAt m.page with
  | none => s
  | some (l, _, size) =>
    let g := s.pageIn m.fn m.ctx l size
    match g.2 with
    | none => g.1
    | some bytes =>
      let r := g.1.pageUp home m.page (s.outgoingOf home) (s.fnD home).skip bytes
      let put (t : State) : State := t.updFn home fun f => { f with skip := r.2 }
      match r.1 with
      | some (t, _) => put t
      | none =>
        let s2 := { put g.1 with moves := g.1.moves ++ [{ m with stuck := true }] }
        if m.evac ∧ m.by_ = none then s2.event 7 m.fn m.ctx (s.ctxD m.fn m.ctx).world (some (BitVec.ofNat 64 m.va)) else s2

/-- The move that Strudel makes next: the first of its list that has not yet found itself without room. -/
def State.nextMove (s : State) : Option Move := s.moves.find? fun m => !m.stuck

/-- PAGE_MOVE: the next move of the list is made or dropped, after the pages that have come to a draining bus have joined the
list (R320). -/
def execPageMove (s : State) : Host.Outcome State Fault Refusal :=
  let s0 := s.wsReadyAll.addEvacs none
  match s0.nextMove with
  | none => .next s0
  | some m =>
    let s1 := { s0 with moves := s0.moves.filter fun x => decide (x.id ≠ m.id) }
    .next (if s0.moveLive m then s1.makeMove m else s1)

/-! ### Time slices (R419, R424, R426) -/

/-- A unit of a function that runs. -/
def State.unitRuns (s : State) (fn : Nat) : Bool :=
  (s.launches.any fun p => decide (p.2.fn = fn) && !p.2.done)
    || (s.graphs.any fun p => decide (p.2.fn = fn) && !p.2.done)
    || (s.phases.any fun p => decide (p.2.fn = fn) && !p.2.done)
    || s.jobs.any fun p => decide (p.2.fn = fn) && !p.2.done

/-- An open packet of a function, or one in an enabled ring. -/
def State.packetOpen (s : State) (fn : Nat) : Bool :=
  (s.packets.any fun p => decide (p.2.fn = fn))
    || (s.fnD fn).queues.any fun (q : Nat × Queue) => q.2.en &&
      (match (s.queueRing fn q.2.rcb q.2.ctx).2 with
       | some b => !b.isEmpty
       | none => false)

/-- Reads the control blocks of the enabled queues. -/
def State.lookQueues (s : State) : State :=
  s.fns.foldl (fun t (f : Nat × Func) => f.2.queues.foldl (fun t q =>
    if q.2.en then (t.queueRing f.1 q.2.rcb q.2.ctx).1 else t) t) s

/-- Work of a function: an open packet, a running unit or a workgroup. -/
def State.hasWork (s : State) (fn : Nat) : Bool :=
  s.packetOpen fn || s.unitRuns fn || s.wgs.any fun p => decide (p.2.fn = fn) && !p.2.done

/-- The member that takes the slices after a function: the next with work in ascending order. -/
def State.nextMember (s : State) (fn : Nat) : Option Nat :=
  let l := s.sharers fn
  ((l.filter fun g => decide (fn < g)) ++ (l.filter fun g => decide (g ≤ fn))).find? s.hasWork

/-- A function whose quantum has ended. -/
def State.quantumOver (s : State) : Option (Nat × Func) :=
  s.fns.find? fun (p : Nat × Func) => p.2.ts && p.2.resident && decide (p.2.left = 0) && decide (p.2.count ≠ 0)
    && !s.switches.any fun w => decide (w.2.outgoing = p.1)

/-- QUANTUM_END: the switch begins with pre-emption, or the member stays for a further quantum. -/
def execQuantumEnd (s0 : State) : Host.Outcome State Fault Refusal :=
  let s := s0.lookQueues
  match s.quantumOver with
  | none => .next s
  | some (fn, f) =>
    match s.nextMember fn with
    | none => .next (s.updFn fn fun f => { f with left := f.quantum })
    | some g =>
      if g = fn then .next (s.updFn fn fun f => { f with left := f.quantum })
      else
        let s1 := (s.ctxsOf fn).foldl (fun t c => t.preemptCtx fn c) s
        .next { s1 with switches := tput s1.switches f.first { outgoing := fn, incoming := g } }

/-- No workgroup of a function is resident. -/
def State.allOut (s : State) (fn : Nat) : Bool :=
  !s.wgs.any fun p => decide (p.2.fn = fn) && p.2.resident && !p.2.done

/-- The bring-up list of a context: NEED entries, then the others, that are not in the near tier. -/
def State.bringUp (s : State) (fn ctx : Nat) : List Page :=
  let l := (s.pagesOf fn ctx).filter fun e => !e.1.getLsbD 4
  ((l.filter fun e => e.1.getLsbD 3) ++ (l.filter fun e => !e.1.getLsbD 3)).map Prod.snd

/-- Puts pages on Strudel's list. -/
def State.addMoves (s : State) (ps : List Page) : State :=
  ps.foldl (fun t p =>
    if t.moves.any fun m => decide (m.fn = p.fn) && decide (m.ctx = p.ctx) && decide (m.space = p.space)
        && decide (m.va = p.va) then t
    else { t.bump with moves := t.moves ++
      [{ id := t.tick, fn := p.fn, ctx := p.ctx, space := p.space, va := p.va, up := true, signal := 0 }] }) s

/-- Makes a function resident: the moves up of the outgoing one end, while pages that are to leave a bus or a slice still
go (R320, R326); its queues are read, and its launches wait for their gates. -/
def State.comeIn (s : State) (fn out : Nat) : State :=
  let s1 := { s with moves := s.moves.filter fun m => decide (m.fn ≠ out) || m.evac }
  let s2 := (s1.ctxsOf fn).foldl (fun t c => t.addMoves (t.bringUp fn c)) s1
  let s3 := s2.updFn fn fun f =>
    { f with
      resident := true, left := f.quantum + 1, lastOut := some out, skip := []
      queues := f.queues.map fun (q : Nat × Queue) =>
        match (s2.queueRing fn q.2.rcb q.2.ctx).2 with
        | some b => if q.2.en then (q.1, { q.2 with seen := BitVec.ofNat 32 b.pidx }) else q
        | none => q }
  { s3 with launches := s3.launches.map fun (p : Nat × Launch) =>
      if p.2.fn = fn then (p.1, { p.2 with gateOpen := false }) else p }

/-- A switch whose outgoing function has left the cores. -/
def State.switchReady (s : State) : Option (Nat × Switch) :=
  s.switches.find? fun (p : Nat × Switch) => s.allOut p.2.outgoing

/-- INCOMING_RESIDENT (R419 steps 2 and 3, R426). -/
def execIncomingResident (s0 : State) : Host.Outcome State Fault Refusal :=
  let s := s0.wsReadyAll
  match s.switchReady with
  | none => .next s
  | some (k, w) =>
    let s1 := { (s.updFn w.outgoing fun f => { f with resident := false }) with switches := tdel s.switches k }
    .next (s1.comeIn w.incoming w.outgoing)

end Sys2Proof.Machine
end

