-- ==== Sys2Proof/Machine/Praline.lean ====
section
/-! DEFINITION. Praline: the tick, wear accounting, boosts, drains, rests, retirement, energy windows, checkpoints, and
the states of vertical buses (R318 to R321, R375 to R394). -/

namespace Sys2Proof.Machine

/-- Number of units (Table 20.1). -/
def unitCount : Nat := 1372

/-- The logical core that a unit is, if any. -/
def State.coreOf (s : State) (u : Nat) : Option Nat :=
  (s.cores.find? fun p => decide (p.2.unit = some u)).map Prod.fst

/-- Whether a core holds a resident group. -/
def State.holdsGroup (s : State) (c : Nat) : Bool :=
  s.groups.any fun p => decide (p.2.core = c) && decide (p.2.phase = .resident)

/-! ### Accrual (R377 to R379) -/

/-- The tick point of a unit: a core by what it held, an engine by gating, and what it ran; the rest by use. -/
def State.tickPoint (s : State) (u busy : Nat) : Point :=
  if u < 204 then
    match s.coreOf u with
    | some c =>
      if (s.wearD u).state = 2 then .rev else if (s.coreD c).heldTick then .op (s.coreD c).point else .idle
    | none => .idle
  else if busy ≠ 0 then .op 0
  else if u < 252 ∧ (s.engD (u - 204)).gated then .off
  else .idle

/-- The activity band of a percentage; 0 at OFF and REV. -/
def actBand (p : Point) (busy : Nat) : Nat :=
  match p with
  | .off => 0
  | .rev => 0
  | _ => min 4 ((busy + 24) / 25)

/-- Accounts one tick of a record. -/
def Wear.accrue (w : Wear) (p : Point) (busy : Nat) : Wear :=
  let b := bandOf w.temp
  let inc := p.vb * bandTB b
  let ab := actBand p busy
  let bsu := w.bsu + inc
  let pool := w.pool + inc / 4
  let w1 : Wear := { w with hsu := w.hsu + p.vh * ab, esu := w.esu + ab * bandTB b, band := b, temp := 0 }
  match p with
  | .op _ => { w1 with bsu := bsu, pool := pool, pticks := w.pticks + 1 }
  | .idle => { w1 with bsu := bsu, pool := pool, pticks := w.pticks + 1 }
  | q =>
    let r := min (if q = .rev then bandRev b else bandOff b) pool
    { w1 with bsu := bsu - r, pool := pool - r, recov := w.recov + r, rticks := w.rticks + 1 }

/-- A unit's record changes; a wear index that reaches 1,000,000 outside the cores is reported (R381). -/
def State.setWear (s : State) (u : Nat) (n : Wear) : State :=
  let s1 := s.updWear u fun _ => n
  if 204 ≤ u ∧ wearIndex u (s.wearD u) < 1000000 ∧ 1000000 ≤ wearIndex u n then
    s1.event 5 0 0 0 (some (BitVec.ofNat 64 u))
  else s1

/-- Accounts one unit. A cold spare and a retired unit accrue nothing; the tick's samples give their band too. -/
def State.accrueUnit (s : State) (busy : Table Nat) (u : Nat) : State :=
  let w := s.wearD u
  let a := tval 0 busy u
  s.setWear u (if 3 ≤ w.state then { w with band := bandOf w.temp, temp := 0 } else w.accrue (s.tickPoint u a) a)

/-- The charges of the ending tick: metered energy of the slices that the function held at the tick's start, and
traffic; whole µJ are counted and the rest is carried (R390). -/
def Func.chargeTick (f : Func) (metered : Table Nat) : Func :=
  let p := f.energyPJ + f.traffic + (f.tickSlices.map (tval 0 metered)).sum
  { f with
    energyUJ := f.energyUJ + p / 1000000, ewin := f.ewin + p / 1000000, energyPJ := p % 1000000, traffic := 0 }

/-- The slices that a function holds: a member of a time-sliced set holds them while it is resident. -/
def Func.held (f : Func) : List Nat := if f.ts ∧ ¬ f.resident then [] else f.slices

/-! ### Boosts (R382, R383) -/

/-- The stress that a boosted tick added beyond OP0, and the ticks left. -/
def State.boostTick (s : State) (c : Nat) (point : Point) : State :=
  let k := s.coreD c
  if k.point = 0 then s
  else
    let b := match k.unit with | some u => (s.wearD u).band | none => 0
    let r := (point.vb - 4) * bandTB b
    (s.updFn k.boostFn fun f => { f with bresv := f.bresv - r }).updCore c fun k =>
      { k with boostCost := k.boostCost - r, boostLeft := k.boostLeft - 1 }

/-- The core belongs to a function's partition. -/
def State.ownsCore (s : State) (fn c : Nat) : Bool := (s.fnD fn).cores.contains c

/-- Whether a boost of a core ends at step 4: its count ran out, the ending tick was in band D, its core left the
partition, or it is being retired. The last three also end a granted boost that has not started. -/
def State.boostOver (s : State) (c : Nat) : Bool :=
  let k := s.coreD c
  let hot : Bool := match k.unit with | some u => decide ((s.wearD u).band = 3) | none => true
  (decide (k.point ≠ 0) && decide (k.boostLeft = 0))
    || ((decide (k.point ≠ 0) || decide (k.boostNext ≠ 0)) && (hot || !s.ownsCore k.boostFn c || k.retiring))

/-- Step 4 decides which boosts end. -/
def State.boostDecide (s : State) : State :=
  s.cores.foldl (fun t p => if s.boostOver p.1 then t.updCore p.1 fun k => { k with boostDue := true } else t) s

/-- Ends a boost: what remains of its cost leaves BRESV. -/
def State.boostStop (s : State) (c : Nat) : State :=
  let k := s.coreD c
  (s.updFn k.boostFn fun f => { f with bresv := f.bresv - k.boostCost }).updCore c fun k =>
    { k with point := 0, boostNext := 0, boostLeft := 0, boostCost := 0, boostDue := false }

/-- Ends the boosts that step 4 has decided to end. -/
def State.boostEnds (s : State) : State :=
  s.cores.foldl (fun t p => if (t.coreD p.1).boostDue then t.boostStop p.1 else t) s

/-- BOOST_END: between boundaries no end is due. -/
def execBoostEnd (s : State) : Host.Outcome State Fault Refusal := .next s.boostEnds

/-! ### Drains, rests and gating (R385, R386, R393, R394) -/

/-- The wear-table unit of a logical core. -/
def State.unitOf (s : State) (c : Nat) : Option Nat := (s.coreD c).unit

/-- A core of the list is draining or resting. -/
def State.clusterBusy (s : State) (cs : List Nat) (cl : Nat) : Bool :=
  cs.any fun c => decide (clusterOf c = cl) && (s.coreDrain c || decide (s.coreState c = 1) || decide (s.coreState c = 2))

/-- Drains one core. -/
def State.drainCore (s : State) (c : Nat) : State :=
  let s1 := match s.unitOf c with | some u => s.updWear u fun w => { w with drain := true } | none => s
  s1.updCore c fun k => { k with drainedAt := s.age }

/-- The lower median of a list. -/
def lowerMedian (l : List Nat) : Nat := (l.mergeSort fun a b => decide (a ≤ b)).getD ((l.length + 1) / 2 - 1) 0

/-- Drains the cores of one partition that qualify, the worst first, one to a cluster. -/
def State.drains (s : State) (cs : List Nat) : State :=
  let act := cs.filter fun c => decide (s.coreState c = 0)
  let m := lowerMedian (act.map s.coreIndex)
  let q := act.filter fun c =>
    !s.coreDrain c && decide (102 * m < 100 * s.coreIndex c)
      && (match (s.coreD c).restEnd with | some e => decide (e + 1000 ≤ s.age) | none => true)
  (q.mergeSort fun a b => decide (s.coreIndex b < s.coreIndex a) || (decide (s.coreIndex a = s.coreIndex b) && decide (a ≤ b))).foldl
    (fun t c => if t.clusterBusy cs (clusterOf c) then t else t.drainCore c) s

/-- The functions that stand for their slices: each dedicated one, and one member of each time-sliced set. -/
def State.partitions (s : State) : List (Nat × Func) :=
  s.fns.filter fun (p : Nat × Func) => decide (p.2.count ≠ 0) && decide ((s.sharers p.1).head? = some p.1)

/-- Cores whose 50 REV ticks are over return to active. -/
def State.restEnds (s : State) : State :=
  s.cores.foldl (fun t p =>
    match (t.coreD p.1).unit with
    | some u =>
      if (t.wearD u).state = 2 ∧ (t.coreD p.1).restAt + 50 ≤ t.age then
        (t.updWear u fun w => { w with state := 0, drain := false }).updCore p.1 fun k => { k with restEnd := some t.age }
      else t
    | none => t) s

/-- REST_END. -/
def execRestEnd (s : State) : Host.Outcome State Fault Refusal := .next s.restEnds

/-- Drained cores that stood empty for a whole tick since enter REV. -/
def State.restStarts (s : State) : State :=
  s.cores.foldl (fun t p =>
    match p.2.unit with
    | some u =>
      if (t.wearD u).state = 0 ∧ (t.wearD u).drain ∧ ¬ p.2.retiring ∧ p.2.emptyTick ∧ p.2.drainedAt < t.age
          ∧ ¬ t.holdsGroup p.1 ∧ p.2.engq = [] then
        (t.updWear u fun w => { w with state := 2 }).updCore p.1 fun k => { k with restAt := t.age }
      else t
    | none => t) s

/-- Gates the matrix engines of clusters with no reserved tile and no queued instruction, for the next tick. -/
def State.gateEngines (s : State) : State :=
  let u := s.used
  (List.range 48).foldl (fun t cl =>
    let idle := decide (u.tile cl = 0) && !(List.range 4).any (fun i => decide ((s.coreD (4 * cl + i)).engq ≠ []))
      && (s.engD cl).running.isNone
    let t1 := t.updEng cl fun e => { e with gated := idle }
    if (t1.wearD (204 + cl)).state ≤ 1 then t1.updWear (204 + cl) fun w => { w with state := idle.toNat } else t1) s

/-! ### Retirement (R314, R387) -/

/-- Starts the retirement of a core. -/
def State.retireStart (s : State) (c : Nat) : State :=
  if (s.coreD c).retiring then s
  else
    let s1 := (s.drainCore c).updCore c fun k => { k with retiring := true }
    match s.unitOf c with
    | some u => s1.event 4 0 0 0 (some (BitVec.ofNat 64 u))
    | none => s1

/-- A record asks for the retirement of its core (R387). -/
def wornOut (u : Nat) (w : Wear) : Bool := decide (1000000 ≤ wearIndex u w) || w.dying

/-- A cold spare that is to be retired holds nothing: it goes at once. -/
def State.retireSpare (s : State) (die : Nat) : State :=
  let u := 17 * die + 16
  if (s.wearD u).state = 3 ∧ wornOut u (s.wearD u) then
    let ev (t : State) : State := t.event 4 0 0 0 (some (BitVec.ofNat 64 u))
    ev (ev (s.updWear u fun w => { w with state := 4, drain := true }))
  else s

/-- Step 4: the cores whose wear index, margin or hard fault asks for retirement. -/
def State.retireDecide (s : State) : State :=
  let s1 := s.cores.foldl (fun t p =>
    match p.2.unit with
    | some u => if (t.wearD u).state ≤ 2 ∧ wornOut u (t.wearD u) then t.retireStart p.1 else t
    | none => t) s
  (List.range 12).foldl State.retireSpare s1

/-- RETIRE_PREEMPT: the workgroups that remain on a core 100 ticks after its retirement began are pre-empted. -/
def State.retirePreempts (s : State) : State :=
  s.cores.foldl (fun t p =>
    if p.2.retiring ∧ p.2.drainedAt + 100 ≤ t.age ∧ t.holdsGroup p.1 then
      let ws := ((t.groups.filter fun g => decide (g.2.core = p.1) && decide (g.2.phase = .resident) && !g.2.preempt
        && !(g.2.inPreempt && !g.2.trapInfo.getLsbD 0)).map fun g => g.2.wg).eraseDups
      if ws = [] then t
      else (ws.foldl State.preemptWg t).event 4 0 0 0 (some (BitVec.ofNat 64 (p.2.unit.getD 0)))
    else t) s

def execRetirePreempt (s : State) : Host.Outcome State Fault Refusal := .next s.retirePreempts

/-- Completes the retirement of a core that holds nothing: its column is handed over, its unit is retired, and the die's
spare takes its index, or the index is withdrawn. -/
def State.retireDone (s : State) (c : Nat) : State :=
  match s.unitOf c with
  | none => s
  | some u =>
    let spare := 17 * dieOf c + 16
    let s1 := (s.cleanCore c).updWear u fun w => { w with state := 4 }
    let ev (t : State) (x : Nat) : State := t.event 4 0 0 0 (some (BitVec.ofNat 64 x))
    let s2 := ev (ev s1 u) u
    let has := decide ((s.wearD spare).state = 3)
    let s3 := s2.updCore c fun k =>
      { k with gen := 0, column := [], retiring := false, restEnd := none, unit := if has then some spare else none }
    if has then
      ev ({ s3 with spareOf := tput s3.spareOf (dieOf c) (c % 16) }.updWear spare fun w =>
        { w with state := 0, drain := false, hist := [] }) spare
    else s3

def State.retireDones (s : State) : State :=
  s.cores.foldl (fun t p =>
    if p.2.retiring ∧ ¬ t.holdsGroup p.1 ∧ (t.coreD p.1).engq = [] then t.retireDone p.1 else t) s

/-! ### Windows and checkpoints (R389, R391) -/

/-- Opens an energy window of a function. -/
def Func.window (f : Func) : Func :=
  { f with ewin := 0, reserved := 0, fresh := true, ebudget := f.ebudgetNext.getD f.ebudget, ebudgetNext := none }

def State.openWindow (s : State) : State :=
  { s with fns := s.fns.map fun (p : Nat × Func) => (p.1, p.2.window), windowAge := s.age }

/-- A window begins at this AGE and has not been opened. -/
def State.windowDue (s : State) : Bool := decide (s.age % 100 = 0) && decide (s.windowAge ≠ s.age)

def State.windowStep (s : State) : State := if s.windowDue then s.openWindow else s

/-- ENERGY_WINDOW_START. -/
def execEnergyWindowStart (s : State) : Host.Outcome State Fault Refusal := .next s.windowStep

/-- The eight words of a wear record (Table 20.2). -/
def Wear.words (w : Wear) (u : Nat) : List Nat :=
  [w.bsu, w.hsu, w.esu, w.pool, w.recov, w.pticks % 2 ^ 40
    , w.rticks % 2 ^ 40 + w.state * 2 ^ 40 + w.drain.toNat * 2 ^ 43 + w.margin % 2 ^ 16 * 2 ^ 48
    , w.eolh % 2 ^ 32 + u * 2 ^ 32]

/-- What a checkpoint's digest covers: its sequence number, its mark, AGE, TARGETH, every BRESV and the wear table. -/
def Checkpoint.bytes (c : Checkpoint) : List Byte :=
  ([c.seq, c.orderly.toNat, c.age, c.targeth] ++ (List.range 13).map (tval 0 c.bresv)).flatMap (toBytes 8)
    ++ (List.range unitCount).flatMap fun u => ((tval ({} : Wear) c.wear u).words u).flatMap (toBytes 8)

def Checkpoint.sum (c : Checkpoint) : BitVec 512 := sha512 c.bytes

/-- A copy whose digest verifies. -/
def okCopy (c : Option Checkpoint) : Option Checkpoint := c.filter fun k => decide (k.digest = k.sum)

/-- The newer copy with a valid digest. -/
def State.newest (s : State) : Option Checkpoint :=
  match okCopy s.ckptA, okCopy s.ckptB with
  | some a, some b => some (if a.seq < b.seq then b else a)
  | some a, none => some a
  | none, b => b

/-- The checkpoint that the module would write now. -/
def State.ckptNow (s : State) (orderly : Bool) : Checkpoint :=
  let c : Checkpoint :=
    { seq := (s.newest.map Checkpoint.seq).getD 0 + 1, orderly := orderly, age := s.age, targeth := s.targeth
      bresv := s.fns.map fun (p : Nat × Func) => (p.1, p.2.bresv), wear := s.wear, digest := 0 }
  { c with digest := c.sum }

/-- Writes a checkpoint over the copy that is not the newest valid one. Before bring-up has loaded the records there is
nothing to write. -/
def State.writeCkpt (s : State) (orderly : Bool) : State :=
  if s.dev ≠ .ready then s
  else if okCopy s.ckptA = s.newest ∧ s.newest.isSome then { s with ckptB := some (s.ckptNow orderly) }
  else { s with ckptA := some (s.ckptNow orderly) }

/-- A checkpoint is written at this AGE and none has been. -/
def State.ckptDue (s : State) : Bool :=
  decide (s.age % 1000 = 0) && decide (s.newest.map Checkpoint.age ≠ some s.age)

def State.ckptStep (s : State) : State := if s.ckptDue then s.writeCkpt false else s

/-- CHECKPOINT. -/
def execCheckpoint (s : State) : Host.Outcome State Fault Refusal := .next s.ckptStep

/-! ### The boundary (R380) -/

/-- Step 1; a hard fault detected in a unit in the ending tick is on record (R387). -/
def State.tickAccount (s0 : State) (busy metered : Table Nat) (faults : List Nat) : State :=
  let s := faults.foldl (fun t u => t.updWear u fun w => { w with dying := true }) s0
  let s1 := (List.range unitCount).foldl (fun t u => t.accrueUnit busy u) s
  { s1 with
    fns := s1.fns.map fun (p : Nat × Func) => (p.1, p.2.chargeTick metered)
    age := s1.age + 1, targeth := s1.targethNext.getD s1.targeth, targethNext := none }

/-- Step 3. -/
def State.setBudgets (s : State) : State :=
  { s with fns := s.fns.map fun (p : Nat × Func) => (p.1, { p.2 with lifeMin := s.lifebud p.2 }) }

/-- Step 5 and the start of the new tick. -/
def State.newTick (s : State) : State :=
  let s1 := s.restEnds.restStarts
  { s1 with
    cores := s1.cores.map fun (p : Nat × Core) =>
      let held := s1.holdsGroup p.1
      let k := if p.2.boostNext ≠ 0 then { p.2 with point := p.2.boostNext, boostNext := 0 } else p.2
      (p.1, { k with heldTick := held, emptyTick := !held && decide (k.engq = []) && decide (k.boostLeft = 0) })
    fns := s1.fns.map fun (p : Nat × Func) =>
      (p.1, { p.2 with
        tickSlices := p.2.held
        left := if p.2.ts ∧ p.2.resident then p.2.left - 1 else p.2.left }) }

/-- The six steps of a boundary. -/
def State.boundary (s : State) (busy metered : Table Nat) (faults : List Nat) : State :=
  let points := s.cores.map fun (p : Nat × Core) =>
    (p.1, match p.2.unit with | some u => s.tickPoint u (tval 0 busy u) | none => Point.idle)
  let s1 := s.tickAccount busy metered faults
  let s2 := points.foldl (fun t p => t.boostTick p.1 p.2) s1
  let s3 := s2.setBudgets
  let s4 := s3.retireDecide.boostDecide.boostEnds.retirePreempts.retireDones
  let s5 := (s4.partitions.foldl (fun t p => t.drains p.2.cores) s4).gateEngines.newTick
  { s5.windowStep.ckptStep with wearAt := s5.wear }

/-- TICK_BOUNDARY, with the units' activity and hard faults, and each slice's energy in pJ. -/
def execTickBoundary (act : Activity) (metered : Table Nat) (s : State) : Host.Outcome State Fault Refusal :=
  .next (s.boundary act.busy metered act.faults)

/-! ### Samples, margins and predictions (R378, R387, R388) -/

/-- TEMPERATURE_SAMPLE. -/
def execTemperatureSample (samples : Table Int) (s : State) : Host.Outcome State Fault Refusal :=
  .next (samples.foldl (fun t p => t.updWear p.1 fun w => { w with temp := max w.temp p.2 }) s)

/-- A margin below 20 ps of a vertical bus is its monitor's warning; the bus's die and number. -/
def busOf (u : Nat) : Option (Nat × Nat) :=
  if 444 ≤ u ∧ u < 1308 then some ((u - 444) / 72, (u - 444) % 72) else none

/-! ### Vertical buses (R318 to R321) -/

/-- The wear record's STATE for a bus state (R376). -/
def VbState.wear (v : VbState) : Nat := match v with | .spare => 3 | .retired => 4 | .lost => 4 | _ => 0

/-- The columns of a die lose what no longer fits in them when a bank column goes (R317). -/
def State.trimColumns (s : State) (die : Nat) : State :=
  (coresOf die).foldl (fun t c =>
    if s.colCap die < (t.coreD c).colLines then t.updCore c fun k => k.colTrim (s.colCap die) else t) s

/-- A bus changes state, with its wear record and its event; a bank column that goes takes its part of every column. -/
def State.setVb (s : State) (die bus : Nat) (v : VbState) : State :=
  let u := 444 + 72 * die + bus
  let s1 := { s with vbs := tset (if bus < 64 then .active else .spare) s.vbs (72 * die + bus) v }
  ((s1.updWear u fun w => { w with state := v.wear }).trimColumns die).event 2 0 0 0 (some (BitVec.ofNat 64 u))

/-- A spare of a die that is neither in use nor promised to a repair. -/
def State.spareBus (s : State) (die : Nat) : Option Nat :=
  ((List.range 8).map (64 + ·)).find? fun b =>
    decide (s.vbOf die b = .spare) && !s.repairs.any fun p => decide (p.1 / 72 = die) && decide (p.2 = b)

/-- The bank column that a bus serves. -/
def State.columnOf (s : State) (die bus : Nat) : Option Nat :=
  (List.range 64).find? fun c => decide (s.busNow die 9 c = bus)

/-- The frames whose units lie on a bus: a test. -/
def State.onBus (s : State) (die bus f : Nat) : Bool :=
  decide (f < 2 ^ 34) && decide (s.homeOf f < 768) && decide (s.homeDie f = die)
    && decide (s.busNow die 9 (s.homeOf f % 64) = bus)

/-- Starts the repair of a bus, or its drain, or its loss (R319 to R321). -/
def State.busFault (s : State) (die bus : Nat) (failed : Bool) : State :=
  match s.spareBus die with
  | some b => { s with repairs := tput s.repairs (72 * die + bus) b }.setVb die bus .repair
  | none =>
    if failed then s.setVb die bus .lost
    else ((s.setVb die bus .drain).wsReadyAll).addEvacs none

/-- The places of a node's valid entries. -/
def State.placesAt (s : State) (node n : Nat) : List Nat :=
  s.mem.filterMap fun b =>
    if node ≤ b.1 ∧ b.1 < node + 8 * n ∧ b.1 % 8 = node % 8 ∧ b.2.toNat % 2 = 1 then some b.1 else none

/-- The places of a table's valid leaves, with their sizes. -/
def State.leafPlaces (s : State) (root : Nat) : List (Nat × Nat) :=
  (s.validAt root 4096).flatMap fun e1 =>
    if bits e1 2 1 = 2 then (s.placesAt (ptrNode e1) 2048).map fun l => (l, 2 ^ 29)
    else if bits e1 2 1 ≠ 0 then []
    else (s.validAt (ptrNode e1) 4096).flatMap fun e2 =>
      if bits e2 2 1 = 1 then (s.placesAt (ptrNode e2) 128).map fun l => (l, 2 ^ 21)
      else if bits e2 2 1 = 0 then (s.placesAt (ptrNode e2) 4096).map fun l => (l, 2 ^ 16)
      else []

/-- Marks lost the leaf entries of every context whose page has a frame that meets `p` (R321, R405). -/
def State.loseFrames (s : State) (p : Nat → Bool) : State :=
  let s1 := s.ctxs.foldl (fun t (c : Nat × Context) =>
    let places := s.leafPlaces c.2.root0.toNat ++ (if c.2.root4 = 0 then [] else s.leafPlaces c.2.root4.toNat)
    let hit := places.filter fun e => leafIn p (s.entry e.1) e.2
    if hit = [] then t
    else (hit.foldl (fun t e => t.bankWrite e.1 8 (setBits (t.entry e.1) 11 11 1).toNat) t).wsStore (c.1 / 256) (c.1 % 256)) s
  s1.tlbDrop fun e => leafIn p e.leaf e.size

/-! ### Verifications that fail (R405) -/

/-- The event of a failure in a world: an address, and how many bytes fail. -/
def State.failEvent (s : State) (world a n : Nat) : State :=
  s.event 9 (((tget s.worlds world).map World.fn).getD 0) 0 world (some (BitVec.ofNat 64 a)) (some (BitVec.ofNat 64 n))

/-- What waits is done before a step: frames whose verification failed in a write-back are lost, and the host is told of
the failed nodes that accesses have met. A RESG that a peer holds is counted afresh at its next change. -/
def State.settleFails (s : State) : State :=
  let s1 := s.failed.foldl (fun t f =>
    (t.loseFrames (decide <| · = f)).failEvent (keyWorld (t.ownerOf f)) (65536 * f) 65536) { s with failed := [] }
  let s2 := { s1 with wants := s.wants }
  s2.nodeMet.foldl (fun t m =>
    if m.2 then t
    else
      { t with nodeMet := tput t.nodeMet m.1 true }.failEvent (m.1 / 2 ^ 36 / 8) (nodeBase m.1) (nodeSpan (nodeLevel m.1))) s2

/-- VB_WARNING. -/
def State.busWarn (s : State) (die bus : Nat) : State :=
  if s.vbOf die bus = .active then s.busFault die bus false else s

def execVbWarning (die bus : Nat) (s : State) : Host.Outcome State Fault Refusal := .next (s.busWarn die bus)

/-- VB_FAILURE: repair from a spare, or the pages on the bus are lost. -/
def execVbFailure (die bus : Nat) (s : State) : Host.Outcome State Fault Refusal :=
  let v := s.vbOf die bus
  if v = .active ∨ v = .drain then
    let s1 := s.busFault die bus true
    .next (if s1.vbOf die bus = .lost then s1.loseFrames (s.onBus die bus) else s1)
  else .next s

/-- VB_REPAIR_DONE: the bank column is switched to its spare. -/
def execVbRepairDone (die bus : Nat) (s : State) : Host.Outcome State Fault Refusal :=
  match tget s.repairs (72 * die + bus) with
  | some b => if s.vbOf die bus = .repair then .next ((s.setVb die bus .retired).setVb die b .active) else .next s
  | none => .next s

/-- VB_DRAIN_DONE: the bus is retired when no frame on it is owned. -/
def execVbDrainDone (die bus : Nat) (s : State) : Host.Outcome State Fault Refusal :=
  if s.vbOf die bus = .drain ∧ ¬ s.owner.any (fun o => s.onBus die bus o.1) then .next (s.setVb die bus .retired)
  else .next s

/-- MARGIN_MEASURE: margins are recorded; a crossing of 20 ps is reported once, and a bus's is a warning. A core below
8 ps is retired from step 4 of the next boundary on (R380). -/
def State.setMargin (s : State) (u m : Nat) : State :=
  let was := (s.wearD u).low
  let s1 := s.updWear u fun w => { w with margin := m, low := decide (m < 20), dying := w.dying || decide (m < 8) }
  if m < 20 ∧ ¬ was then
    match busOf u with
    | some b => (s1.event 5 0 0 0 (some (BitVec.ofNat 64 u))).busWarn b.1 b.2
    | none => s1.event 5 0 0 0 (some (BitVec.ofNat 64 u))
  else s1

def execMarginMeasure (margins : Table Nat) (s : State) : Host.Outcome State Fault Refusal :=
  .next (margins.foldl (fun t p => t.setMargin p.1 p.2) s)

/-- The hours left to one stress that held `old` `h` hours ago (R388). -/
def remOf (lim now old h : Nat) : Option Int :=
  if now ≤ old then none else some ((((lim : Int) - now) * h) / ((now - old : Nat) : Int))

/-- EOLH in its 32 bits. -/
def eolhOf (age : Nat) (rem : Int) : Nat :=
  let e : Int := (age / 3600000 : Nat) + rem
  if 0 ≤ e ∧ e < 2 ^ 32 then e.toNat else (Config.eolhWide e).toNat

/-- EOLH_PREDICT for one unit; its hourly history is kept for 24 hours. -/
def Wear.predict (w : Wear) (u age : Nat) : Wear :=
  let h := min 24 w.hist.length
  let l := lifeLimits u
  let e := match w.hist.drop (h - 1) with
    | o :: _ =>
      match ([remOf l.1 w.bsu o.1 h, remOf l.2.1 w.hsu o.2.1 h, remOf l.2.2 w.esu o.2.2 h].filterMap id).min? with
      | some r => eolhOf age r
      | none => 0xFFFFFFFF
    | [] => 0xFFFFFFFF
  { w with eolh := e, hist := if w.state = 3 then [] else ((w.bsu, w.hsu, w.esu) :: w.hist).take 24 }

/-- EOLH_PREDICT. -/
def execEolhPredict (s : State) : Host.Outcome State Fault Refusal :=
  .next ((List.range unitCount).foldl (fun t u => t.updWear u fun w => w.predict u t.age) s)

/-! ### Registers of the host (R392) -/

/-- TARGETH_WRITE: in force at the next boundary; 0 is ignored. -/
def execTargethWrite (v : BitVec 32) (s : State) : Host.Outcome State Fault Refusal :=
  .next (if v = 0 then s else { s with targethNext := some v.toNat })

/-- EBUDGET_WRITE: in force at the next window. Function 0 has no block. -/
def execEbudgetWrite (fn : Nat) (v : Word) (s : State) : Host.Outcome State Fault Refusal :=
  .next (if fn = 0 ∨ 12 < fn then s else s.updFn fn fun f => { f with ebudgetNext := some v.toNat })

/-- The word at an offset of the life and energy blocks (Table 20.6): TARGETH and EBUDGET read as last written. -/
def State.lifeWord (s : State) (off : Nat) : Nat :=
  if off = 0 then s.targethNext.getD s.targeth
  else if off = 8 then s.age % 2 ^ 48
  else if 0x100 ≤ off ∧ off < 0x400 then
    let f := s.fnD ((off - 0x100) / 64 + 1)
    match off % 64 with
    | 0 => f.ebudgetNext.getD f.ebudget
    | 8 => f.ewin
    | 16 => (BitVec.ofInt 64 f.lifeMin).toNat
    | 24 => f.bresv
    | _ => 0
  else 0

/-- The word at an offset of the wear table (R376). -/
def State.wearWord (s : State) (off : Nat) : Nat :=
  ((s.wearD (off / 64)).words (off / 64)).getD (off % 64 / 8) 0

end Sys2Proof.Machine
end

