-- ==== Sys2Proof/Machine/Links.lean ====
section
/-! DEFINITION. The optical links: training, flits and replay, restriping, loss and rerouting, and the requests and
responses of peers (R427 to R438, R445). -/

namespace Sys2Proof.Machine

def State.linkD (s : State) (i : Nat) : Link := tval {} s.links i

/-- The event of a restripe or a loss (R431, R432). -/
def State.linkEvent (s : State) (i : Nat) (detail : Nat) : State :=
  s.event 3 0 0 0 (some (BitVec.ofNat 64 (1308 + i))) (some (BitVec.ofNat 64 detail))

/-! ### Requests that end, and requests sent again (R432, R434, R435) -/

/-- The place of a result that a response fills: queue registers age, so any of them is the one. -/
def RegRef.same (a b : RegRef) : Bool :=
  match a, b with
  | .q _, .q _ => true
  | a, b => decide (a = b)

/-- Puts a value into a pending write; an error response suppresses the lane in every register of the access, or the whole of
a scalar one (R194). -/
def RegWrite.fill (w : RegWrite) (r : RegRef) (L : Nat) (x : Option Word) : Option RegWrite :=
  match w, x with
  | .vec q sel val, some y => some (if q.same r then .vec q sel (vecOf fun i => if i = L then y else lane val i) else .vec q sel val)
  | .vec q sel val, none => some (.vec q (sel &&& ~~~(1#32 <<< L)) val)
  | .scalar q val, some y => some (if q.same r then .scalar q y else .scalar q val)
  | .scalar _ _, none => none

/-- The pending result of a request gets its value, or loses its lane; it is there when no request for it is out. -/
def State.pendFill (s : State) (o : PeerOut) (x : Option Word) : State :=
  let out := s.peerOut.any fun p => decide (p.grp = o.grp) && decide (p.pend = o.pend)
  s.updGrp o.grp fun g => g.mapPend fun p =>
    if p.id ≠ o.pend ∨ o.pend = 0 then p
    else
      { p with
        ready := p.ready || !out
        writes := match o.reg with
          | some r => p.writes.filterMap fun w => w.fill r o.lane x
          | none => p.writes }

/-- A request is over. -/
def State.peerOver (s : State) (o : PeerOut) : State :=
  { s with peerOut := s.peerOut.filter fun p => decide (p.id ≠ o.id) }

/-- The address of an operation's word on the side that a request reached. -/
def State.wordAddr (s : State) (a : AsyncOp) (o : PeerOut) : Word :=
  if a.isCopy then
    if o.msg.kind = 3 then a.e
    else
      match (s.wordIdx (s.opView a) a o.word).2 with
      | .error e => e.addr
      | .ok i => if o.msg.kind = 0 then (a.places o.word i).2 else (a.places o.word i).1
  else a.dst

/-- What a peer answers to a step that waits, while it can still happen. -/
def State.tell (s : State) (o : PeerOut) (data : Option (List Byte)) : State :=
  if s.alive o.asker then { s with got := s.got ++ [{ asker := o.asker, msg := o.msg, data := data }] } else s

/-- A request gets an error response, from its peer or for want of a link: the step that waits meets it, its operation
ends, its group traps MEM_ERROR or, where it has ended, a record reports it, or a hub engine's record does (R109, R194, R243,
R434, R440). -/
def State.peerFail (s : State) (o : PeerOut) : State :=
  let s1 := s.peerOver o
  let r : Raise := { cause := 12, addr := o.addr, info := BitVec.ofNat 64 (o.lane + 32 * o.acc) }
  if o.asker ≠ .none then s1.tell o none
  else if o.op ≠ 0 then
    match tget s1.ops o.op with
    | some a => s1.opFail o.op a 0 12 (s1.wordAddr a o)
    | none => s1
  else if o.grp ≠ 0 then (s1.pendFill o none).late o.grp o.fn o.ctx r false
  else s1.engFault o.fn o.ctx r

/-- Sends a request by routing, for the first time or again; the touched dies gain its usable set first (R434). -/
def State.resend (s : State) (o : PeerOut) : State :=
  match s.linkFor o.msg.peer o.msg.pa with
  | none => s.peerFail o
  | some i =>
    let s1 := (s.touchPeer o.fn o.ctx o.msg.peer).sendOn i o
    { s1 with peerOut := s1.peerOut.map fun p =>
        if p.id = o.id then { p with links := s.peerMask o.msg.peer, link := some i } else p }

/-- Sends a held request when no earlier one to its peer holds it, or ends it when no link is left (R434). -/
def State.tryHeld (s : State) (o : PeerOut) : State :=
  if o.link.isSome ∨ (s.usable o.msg.peer ≠ [] ∧ s.peerHeld o.msg.peer (s.peerOut.filter fun p => decide (p.id < o.id))) then s
  else s.resend o

/-- The key of a peer's request, and the number in a key. -/
def peerKey (peer id : Nat) : Nat := 1024 * id + peer % 1024
def keyId (k : Nat) : Nat := k / 1024

/-- An answer goes to its peer by routing, or waits for a link (R428, R432, R435). -/
def State.answer (s : State) (k : Nat) (a : PeerAns) : State :=
  match s.linkFor a.peer a.pa with
  | none => { s with peerAns := tput s.peerAns k { a with link := none } }
  | some i =>
    { s.updLink i fun l => l.sendMsgs (a.msgs (keyId k)) with peerAns := tput s.peerAns k { a with link := some i } }

/-- The answers whose flits a link has not had acknowledged. -/
def State.unackedAns (s : State) (i : Nat) : List (Nat × PeerAns) :=
  s.peerAns.filter fun a => decide (a.2.link = some i)
    && ((s.linkD i).unacked ++ (s.linkD i).toSend).any fun f => flitCarries f true (keyId a.1)

/-- Sends the held requests that may go, in order, and the answers that waited for a link. -/
def State.sendHeld (s : State) : State :=
  let s1 := s.peerOut.foldl State.tryHeld s
  s1.peerAns.foldl (fun t a => if a.2.link = none ∧ t.usable a.2.peer ≠ [] then t.answer a.1 a.2 else t) s1

/-- The requests whose flits a link has not had acknowledged. -/
def State.unackedOf (s : State) (i : Nat) : List PeerOut :=
  s.peerOut.filter fun o => decide (o.link = some i) && s.unsent o

/-- A link that carries nothing any more. -/
def Link.down (l : Link) : Link := { l with st := 3, groups := 0, unacked := [], toSend := [], part := [], dark := 0 }

/-- A link is lost: its unacknowledged requests and answers are sent again by routing. -/
def State.loseLink (s : State) (i : Nat) : State :=
  if (s.linkD i).st = 3 then s
  else
    let os := s.unackedOf i
    let as := s.unackedAns i
    let s1 := s.updLink i Link.down
    (as.foldl (fun t a => t.answer a.1 a.2) (os.foldl State.resend s1)).sendHeld.linkEvent i 0

/-- No link outlives H, nor any request (R432). -/
def State.loseH (s : State) : State :=
  (List.range 64).foldl (fun t i => t.updLink i Link.down) { s with peerOut := [], got := [], toPeers := [], locks := [], moving := [] }

/-- LINK_LOST. -/
def execLinkLost (link : Nat) (s : State) : Host.Outcome State Fault Refusal :=
  .next (if 64 ≤ link then s else s.loseLink link)

/-! ### Registers and training (R433, R445) -/

/-- SELFID_WRITE: ignored while a link is up; every link that is down starts training. -/
def execSelfidWrite (v : BitVec 10) (s : State) : Host.Outcome State Fault Refusal :=
  if (List.range 64).any fun i => decide ((s.linkD i).st = 2) then .next s
  else
    .next ((List.range 64).foldl (fun t i => t.updLink i fun l => if l.st = 0 then { l with st := 1 } else l)
      { s with selfid := v })

/-- ROUTE_WRITE: for requests made after it. -/
def execRouteWrite (p : Nat) (v : Word) (s : State) : Host.Outcome State Fault Refusal :=
  .next (if p < 1024 then { s with routes := tset 0 s.routes p v }.sendHeld else s)

/-- LINK_TRAINED: a far end answers and the link comes up on the groups active at both ends, under a fresh key. -/
def execLinkTrained (link : Nat) (farid : BitVec 10) (active : BitVec 4) (s : State) :
    Host.Outcome State Fault Refusal :=
  let l := s.linkD link
  let g := active &&& l.avail
  if 64 ≤ link ∨ l.st ≠ 1 ∨ g = 0 then .next s
  else
    .next (s.bump.updLink link fun l =>
      { st := 2, groups := g, farid := farid, restripes := l.restripes, avail := l.avail, key := s.tick }).sendHeld

/-! ### Flits (R430) -/

/-- Moves waiting flits out while the replay buffer has room. -/
def Link.pump (l : Link) : List Flit → Link
  | [] => l
  | f :: t => (l.send f.kind f.payload).pump t

/-- Removes what an ACK covers, then sends what waits. -/
def Link.acked (l : Link) (a : BitVec 16) : Link :=
  let keep := l.unacked.filter fun f => decide (32768 ≤ (a - f.seq).toNat)
  let l1 := { l with unacked := keep, toSend := [], replays := if keep.length < l.unacked.length then 0 else l.replays }
  l1.pump l.toSend

/-- A NAK names a flit: it and the later ones go out again. -/
def State.nakRecv (s : State) (i : Nat) (q : BitVec 16) : State :=
  let l := s.linkD i
  let again := l.unacked.filter fun f => decide ((f.seq - q).toNat < 32768)
  if l.st ≠ 2 ∨ again = [] then s
  else
    let n := if l.nakSeq = q then l.replays + 1 else 1
    if l.restriped ∧ 16 ≤ n then s.loseLink i
    else s.updLink i fun l => { l with replays := n, nakSeq := q, beat := l.beat + 16 * again.length }

/-- NAK_RECEIVE. -/
def execNakReceive (link : Nat) (seq : BitVec 16) (s : State) : Host.Outcome State Fault Refusal :=
  .next (s.nakRecv link seq)

/-- What a message that has come whole is: an answer to a request of this module, or a request of the peer. -/
def State.msgEvent (s : State) (peer : Nat) (m : Msg) : List Instr :=
  if m.resp then
    match s.peerOut.find? fun o => decide (o.msg.peer = peer) && decide (o.id % 2 ^ 32 = m.id) with
    | some o => [.peerResponseArrive o.id (if m.refused then none else some m.data)]
    | none => []
  else [.peerRequestArrive (m.req peer)]

/-- What the messages of a flit bring, after the parts that have come before: the parts of one still to come whole, and the
events. -/
def State.msgEvents (s : State) (peer : Nat) : List Byte → List Msg → List Byte × List Instr
  | part, [] => (part, [])
  | part, m :: t =>
    let d := part ++ m.data
    if m.more then s.msgEvents peer d t
    else
      let r := s.msgEvents peer [] t
      (r.1, s.msgEvent peer { m with data := d } ++ r.2)

/-- The messages of an accepted data flit are performed in order, before any other input (R430, R435). -/
def State.takeMsgs (s : State) (i : Nat) (f : Flit) : State :=
  let l := s.linkD i
  let r := s.msgEvents l.farid.toNat l.part (flitMsgs f)
  { s.updLink i fun l => { l with part := r.1 } with brought := s.brought ++ r.2 }

/-- An ACK that nothing else carries goes out in an idle flit. -/
def State.sendAck (s : State) (i : Nat) : State := s.updLink i fun l => l.send 0 []

/-- FLIT_RECEIVE: the next flit expected is accepted, performed and acknowledged, an earlier one is acknowledged again, and any
other is answered with one NAK. What an accepted idle flit asks is no more than its own acknowledgement, which the next flit
carries (R429, R430; assumption log 49). -/
def execFlitReceive (link : Nat) (f : Flit) (s0 : State) : Host.Outcome State Fault Refusal :=
  let s := s0.updLink link fun l => { l with heard := l.heard + 16 }
  let l := s.linkD link
  let d := (f.seq - l.expect).toNat
  let good := f.verifies && decide (f.kind.toNat ≤ 3)
  if l.st ≠ 2 then .next s0
  else if good ∧ d = 0 then
    let s1 := s.updLink link fun l => { (l.acked f.ack) with expect := l.expect + 1, nakSent := false }
    let s2 := if f.kind = 2 then s1.nakRecv link (BitVec.ofNat 16 (ofBytes (f.payload.take 2))) else s1.takeMsgs link f
    .next (if f.kind = 0 then s2 else s2.sendAck link).sendHeld
  else if good ∧ 32768 ≤ d then .next ((s.updLink link fun l => l.acked f.ack).sendAck link).sendHeld
  else if l.nakSent then .next s
  else .next (s.updLink link fun l => { (l.send 2 (toBytes 2 l.expect.toNat)) with nakSent := true })

/-! ### Dark wavelengths (R427, R429, R431, R432) -/

/-- The active wavelengths of a link, in ascending order (R427). -/
def wavesOf (groups : BitVec 4) : List Nat := (List.range 16).filter fun w => groups.getLsbD (w / 4)

/-- The wavelength that beat `j` goes on (R429). -/
def waveOf (groups : BitVec 4) (j : Nat) : Option Nat := (wavesOf groups)[j % (wavesOf groups).length]?

/-- The 16 bytes that beat `b` of a flit's 256 carries (R429). -/
def beatOf (image : List Byte) (b : Nat) : List Byte := (image.drop (16 * b)).take 16

/-- DARK_WAVELENGTH_DETECT: loss of light on groups; with none left the link is lost. -/
def execDarkWavelengthDetect (link : Nat) (dark : BitVec 4) (s : State) : Host.Outcome State Fault Refusal :=
  let l := s.linkD link
  let d := (l.dark ||| dark) &&& l.groups
  if 64 ≤ link ∨ l.st ≠ 2 then .next s
  else if l.groups &&& ~~~d = 0 then .next (s.loseLink link)
  else .next (s.updLink link fun l => { l with dark := d })

/-- RESTRIPE_DONE: the link runs on what remains, and the oldest unacknowledged flit and its successors go again. -/
def execRestripeDone (link : Nat) (s : State) : Host.Outcome State Fault Refusal :=
  let l := s.linkD link
  if 64 ≤ link ∨ l.st ≠ 2 ∨ l.dark = 0 then .next s
  else
    let g := l.groups &&& ~~~l.dark
    .next ((s.updLink link fun l =>
      { l with
        groups := g, avail := l.avail &&& ~~~l.dark, dark := 0, restripes := l.restripes + 1, restriped := true
        replays := 0, beat := 16 * l.unacked.length, heard := 0 }).linkEvent link g.toNat)

/-! ### Peers (R435) -/

/-- The format that a type code of an atomic names (Table 8.6), and whether its infinities are bounded (`atomTyOf`). -/
def peerFmt (ty : BitVec 6) : Fmt := atomFmt { ty := ty }
def peerSat (ty : BitVec 6) : Bool := decide (intTy { ty := ty } = none) && ty.getLsbD 4

/-- The bytes that an atomic of a peer changes: a quire for `qadd`. -/
def peerSize (r : PeerReq) : Nat :=
  if r.op = 2 ∧ r.sub = 10 then 2 * (peerFmt r.ty).width else if r.op = 3 then 16 else r.data.length

/-- What an atomic or a RED of a peer does. -/
def peerAtomic (r : PeerReq) (old : Nat) : Nat :=
  let f := peerFmt r.ty
  let b := ofBytes r.data
  if r.sub = 10 then qaddNew f.width old b else atomNew r.sub f (peerSat r.ty) old b (ofBytes r.cmp)

/-- ENQ or DEQ of a peer on a ring here: performed where both indices are those that the peer read. The indices found and
the words of the element (R217, R435). -/
def State.peerRing (s : State) (r : PeerReq) : State × List Byte :=
  let b := s.rcb r.pa
  let e := ofBytes ((r.data.drop 8).take 8)
  let head := toBytes 4 b.pidx ++ toBytes 4 b.cidx
  if r.data.take 8 ≠ head then (s, head)
  else if r.sub = 0 then
    let ws := r.data.drop 16
    ((s.bankWrite e ws.length (ofBytes ws)).bankWrite r.pa 4 ((b.pidx + 1) % 2 ^ 32), head)
  else (s.bankWrite (r.pa + 8) 4 ((b.cidx + 1) % 2 ^ 32), head ++ s.rdBytes e (8 * b.esize))

/-- What a peer's request does at the hub bank, and its answer. -/
def State.peerDo (s : State) (r : PeerReq) : State × List Byte :=
  let n := peerSize r
  let old := s.rdBytes r.pa n
  match r.op with
  | 0 => (s, old)
  | 1 => (s.bankWrite r.pa n (ofBytes r.data), [])
  | 2 => (s.bankWrite r.pa n (peerAtomic r (ofBytes old)), old)
  | 3 => (s.bankWrite r.pa n ((BarOp.ofReq r.sub r.data).new (BarObj.ofNat (ofBytes old))).toNat, old)
  | _ => s.peerRing r

/-- The bytes that a peer's request reaches: a ring's element with its control block. -/
def State.peerSpans (s : State) (r : PeerReq) : List (Nat × Nat) :=
  if r.op = 4 then [(r.pa, 64), (ofBytes ((r.data.drop 8).take 8), max 1 (8 * (s.rcb r.pa).esize))] else [(r.pa, max 1 (peerSize r))]

/-- The frames and the lines of bytes. -/
def spanFrames (e : Nat × Nat) : List Nat := (List.range ((e.1 % 65536 + e.2 + 65535) / 65536)).map (e.1 / 65536 + ·)
def spanLines (e : Nat × Nat) : List Nat := (List.range ((e.1 % 128 + e.2 + 127) / 128)).map (e.1 / 128 + ·)

/-- A peer's request waits while a step of this module is in the middle of an operation on a place that it reaches (R188,
R217). -/
def State.reqHeld (s : State) (r : PeerReq) : Bool :=
  decide (r.op ≤ 4) && (s.peerSpans r).any fun e => s.locks.any fun k =>
    decide (k.1 < e.1 + e.2) && decide (e.1 < k.1 + 64) && !{ s with asker := .none }.lockFree k.1

/-- PEER_REQUEST_ARRIVE: once for each request, at the hub bank, under the requester's world; every frame that it reaches is
checked, and a refused one is answered with an error response (R399, R405, R435). FLIT_RECEIVE brings these events; a
contribution goes to its collective (R437). -/
def execPeerRequestArrive (r : PeerReq) (s : State) : Host.Outcome State Fault Refusal :=
  let k := peerKey r.peer r.id
  let ans (t : State) (b : Option (List Byte)) : State := t.answer k { peer := r.peer, pa := r.pa, data := b }
  if s.peerIn.contains k then .next s
  else
    let s1 := { s with peerIn := (k :: s.peerIn).take 65536 }
    if r.op = 5 then .next (ans (s1.peerContrib r.peer r.sub r.ty.toNat (ofBytes r.cmp) r.pa r.data) (some []))
    else
      let es := s1.peerSpans r
      let q := s1.takeOwners r.world false (es.flatMap spanFrames)
      let ls := es.flatMap spanLines
      let t := ls.foldl (fun t l => (((t.hostOwnAt (128 * l)).noteNode (128 * l)).verifyLine l).recall l) q.1
      if ¬ q.2 ∨ ls.any fun l => (t.physErr (128 * l)).isSome then .next (ans t none)
      else
        let d := t.peerDo r
        .next (ans d.1 (some d.2))

/-- An operation's request lands when its response arrives: a word read goes to its place, a word written counts, and a
barrier object answers whether it was one. -/
def State.wordLand (s : State) (o : PeerOut) (data : List Byte) : State :=
  match tget s.ops o.op with
  | none => s
  | some a =>
    let counted : AsyncOp := { a with landed := a.landed + (if a.isCopy then 8 else 0) }
    match o.msg.kind with
    | 0 =>
      let v := s.opView a
      let r := s.wordAt v a o.word
      match r.2 with
      | .error e => r.1.opFault o.op { a with redo := a.redo ++ [o.word] } e
      | .ok w =>
        let q := r.1.putWord v o.op o.word w.dt w.da (ofBytes (data.take 8))
        if q.2 then { q.1 with ops := tput q.1.ops o.op counted } else q.1
    | 1 => { s with ops := tput s.ops o.op counted }
    | 3 => if (BarObj.ofNat (ofBytes (data.take 16))).init then s else s.opFail o.op a 0x20 19 a.e
    | _ => s

/-- What a response brings: to the step that waits, to the operation, whose words a saved window's image follows (R368), or to
the place of a read's or atomic's value. -/
def State.peerLand (s : State) (o : PeerOut) (data : List Byte) : State :=
  let s1 := s.peerOver o
  if o.asker ≠ .none then s1.tell o (some data)
  else if o.op ≠ 0 then
    match tget s1.ops o.op with
    | some a => s1.winFollow (s1.wordLand o data) a.wg
    | none => s1
  else s1.pendFill o (some (ext64 o.w o.sgn (ofBytes data % 2 ^ o.w)))

/-- PEER_RESPONSE_ARRIVE: the access lands with its data, or meets an error response (`none`). -/
def execPeerResponseArrive (req : Nat) (data : Option (List Byte)) (s : State) : Host.Outcome State Fault Refusal :=
  match s.peerOut.find? fun o => decide (o.id = req) with
  | none => .next s
  | some o => .next (match data with | some d => s.peerLand o d | none => s.peerFail o).sendHeld

end Sys2Proof.Machine
end

