-- ==== Sys2Proof/Machine/Manage.lean ====
section
/-! DEFINITION. The module's management: die loss, the host port, management requests, resizing, the reset ladder and
function-level reset, bring-up and power (R371, R372, R401, R411 to R425). -/

namespace Sys2Proof.Machine

/-! ### Halting the work of contexts -/

/-- Removes the engine work of workgroups and operations that meet tests, without notification; the tags that it held
become void (R366). -/
def State.halt (s : State) (ofOp : AsyncOp → Bool) (ofWg : Nat → Bool) : State :=
  let dead := (s.ops.filter fun p => ofOp p.2).map Prod.fst
  let tags := (s.ops.filterMap fun p => if ofOp p.2 then p.2.paused else none)
    ++ s.cores.flatMap fun c => c.2.engq.filterMap fun q => if ofWg q.wg then q.paused else none
  { s with
    ops := s.ops.filter fun p => !ofOp p.2
    holds := s.holds.filter fun h => !tags.contains h.1
    peerOut := s.peerOut.filter fun o => !(decide (o.op ≠ 0) && dead.contains o.op)
    cores := s.cores.map fun (c : Nat × Core) => (c.1, { c.2 with engq := c.2.engq.filter fun q => !ofWg q.wg })
    engines := s.engines.map fun (e : Nat × Engine) =>
      (e.1, { e.2 with running := match e.2.running with | some q => if ofWg q.wg then none else some q | none => none }) }

/-- Clears EN of the queues of a context. -/
def State.closeQueues (s : State) (fn ctx : Nat) : State :=
  s.updFn fn fun f => { f with queues := f.queues.map fun (q : Nat × Queue) =>
    if q.2.ctx = ctx then (q.1, { q.2 with en := false }) else q }

/-- Removes the cards of launches that meet a test, queued and spilled. -/
def State.dropLaunchCards (s : State) (p : Nat → Bool) : State :=
  { s with cores := s.cores.map fun (c : Nat × Core) =>
      (c.1, { c.2 with taskq := c.2.taskq.filter fun k => !p k.launch, spilled := c.2.spilled.filter fun k => !p k.launch }) }

/-! ### Die loss (R371, R372) -/

/-- Ends a context: its engine work halts, its groups end with DIE_LOST, its queues close, and its units complete
FAULTED. -/
def State.endCtx (s : State) (fn ctx : Nat) : State :=
  let mine (f c : Nat) : Bool := decide (f = fn) && decide (c = ctx)
  let s1 := s.halt (fun o => mine o.fn o.ctx) fun w => mine (s.wgD w).fn (s.wgD w).ctx
  let s2 := (s1.closeQueues fn ctx).dropLaunchCards fun l =>
    match tget s1.launches l with | some x => mine x.fn x.ctx | none => false
  let ws := (s2.wgs.filter fun p => mine p.2.fn p.2.ctx && !p.2.done).map Prod.fst
  let s3 := ws.foldl (fun t w =>
    match (t.wgD w).groups with
    | g :: _ => t.kill g { cause := 14, pc := (t.grpD g).pc } false
    | [] => t.endWg w true) s2
  let fin (u : Unit3) : Unit3 := if mine u.fn u.ctx then { u with done := true, bad := true, remaining := 0 } else u
  let s4 := { s3 with
    launches := s3.launches.map fun (p : Nat × Launch) =>
      if mine p.2.fn p.2.ctx then (p.1, { p.2 with done := true, killed := true, remaining := 0 }) else p
    graphs := s3.graphs.map fun (p : Nat × Unit3) => (p.1, fin p.2)
    phases := s3.phases.map fun (p : Nat × Unit3) => (p.1, fin p.2)
    jobs := s3.jobs.map fun (p : Nat × Unit3) => (p.1, fin p.2)
    packets := s3.packets.map fun (p : Nat × Packet) =>
      if mine p.2.fn p.2.ctx ∧ p.2.status.isNone then (p.1, { p.2 with status := some 5 }) else p
    holds := s3.holds.filter fun h => !mine h.2.fn h.2.ctx
    moves := s3.moves.filter fun m => !mine m.fn m.ctx }
  s4.updCtx fn ctx fun c => { c with ended := true }

/-- DIE_LOSS: dies 0 to 11 are Cn, 12 is H, 13 to 16 are E0 to E3. H and E0 end every context, and the device awaits the
device rung; an edge die's links are lost with it, and every link with H (R432). -/
def execDieLoss (die : Nat) (s : State) : Host.Outcome State Fault Refusal :=
  if s.lostDies.contains die ∨ 17 ≤ die then .next s
  else
    let s1 := { s with
      lostDies := die :: s.lostDies
      cores := s.cores.map fun (c : Nat × Core) =>
        if dieOf c.1 = die then (c.1, { c.2 with dirty := [], column := [], l1 := [], icache := [] }) else c
      l2 := tdel s.l2 die }
    let cs := s1.ctxs.filter fun (c : Nat × Context) =>
      !c.2.ended && (c.2.tdmask.getLsbD die || decide (die = 12) || decide (die = 13))
    let s2 := cs.foldl (fun t c => t.endCtx (c.1 / 256) (c.1 % 256)) s1
    let s3 := cs.foldl (fun t c => t.event 1 (c.1 / 256) (c.1 % 256) c.2.world (some (BitVec.ofNat 64 die))) s2
    let s4 := if cs = [] then s3.event 1 0 0 0 (some (BitVec.ofNat 64 die)) else s3
    .next (if 13 ≤ die then (List.range 16).foldl (fun t i => t.loseLink (16 * (die - 13) + i)) s4
      else if die = 12 then s4.loseH else s4)

/-! ### The host port (R304, R316, R364, R401) -/

/-- The frames of a range of bytes. -/
def rangeFrames (pa n : Nat) : List Nat := (List.range ((pa + max n 1 - 1) / 65536 - pa / 65536 + 1)).map (pa / 65536 + ·)

/-- A frame is marked X in some world (R364). -/
def State.markedX (s : State) (f : Nat) : Bool := s.markX.any fun m => decide (m.1 % 2 ^ 34 = f) && m.2

/-- CXL_MEM_ACCESS: as world 0, on frames that world 0 owns or that are OPEN; a read names its bytes by their number. -/
def execCxlMemAccess (wr : Bool) (pa : Nat) (data : List Byte) (s : State) : Host.Outcome State Fault Refusal :=
  let fs := rangeFrames pa data.length
  let no := fs.any (fun f => !(decide (s.ownerOf f = 0) || decide (s.ownerOf f = 64)) || (wr && s.markedX f))
  if no then
    .next { (s.event 8 0 0 0 (some (BitVec.ofNat 64 pa))) with hostData := [], hostRefused := true }
  else
    let ls := (List.range ((pa + max data.length 1 - 1) / 128 - pa / 128 + 1)).map (pa / 128 + ·)
    let sv := ls.foldl (fun t l => (t.noteNode (128 * l)).verifyLine l) s
    if ls.any fun l => (s.physErr (128 * l)).isSome then .next { sv with hostData := [], hostRefused := true }
    else
      let s0 := ls.foldl State.recall sv
      let s1 := { s0 with hostLines := s0.hostLines.filter fun l => !ls.contains l }.charge 0
        ((if 768 ≤ s.homeOf (pa / 65536) then 16 else 6) * data.length)
      if wr then .next { ls.foldl State.countLine (s1.wrBytes pa data) with hostData := [], hostRefused := false }
      else .next { s1 with hostData := s1.rdBytes pa data.length, hostRefused := false }

/-- BACK_INVALIDATE: the host recalls a line of the host tier, or of a host-bias page, through the directories, and
writes some of its bytes in the memory where it lives (R304, R316). -/
def execBackInvalidate (rc : HostRecall) (s : State) : Host.Outcome State Fault Refusal :=
  let loc := if rc.host then hostLoc rc.pa else rc.pa
  let s1 := s.recall (loc / 128)
  let s2 := { s1 with hostLines := s1.hostLines.filter fun l => decide (l ≠ loc / 128) }
  .next (if rc.host ∨ tval false s.bias (rc.pa / 65536) then s2.wrBytes loc (rc.data.take (128 - loc % 128)) else s2)

/-! ### Management requests (R416, R425) -/

def mOp (w : List Word) : Nat := bits (pw w 0) 7 0
def mFn (w : List Word) : Nat := bits (pw w 0) 15 8
def mCtx (w : List Word) : Nat := bits (pw w 0) 23 16
def mWorld (w : List Word) : Nat := bits (pw w 0) 29 24

/-- The bits of operands A1 to A6 that a request uses (Table 23.5). -/
def mUses (op : Nat) : List Nat :=
  match op with
  | 1 => [0x1FF, 0x3FF, 2 ^ 64 - 1]
  | 2 => [0x1FF]
  | 4 => [2 ^ 64 - 1, 2 ^ 64 - 1, 2 ^ 64 - 1]
  | 5 => [0xF3, 2 ^ 32 - 1, 2 ^ 32 - 1]
  | 8 => [2 ^ 64 - 1]
  | 10 => [0x3F]
  | 13 => [2 ^ 64 - 1, 2 ^ 64 - 1, 1]
  | 14 => [2 ^ 32 - 1]
  | 15 => [0, 0, 2 ^ 64 - 1]
  | _ => []

/-- REASON 1 of any request: the OP, a reserved or unused bit, the function. -/
def mBad (w : List Word) : Bool :=
  let op := mOp w
  decide (op = 0) || decide (15 < op) || decide (bits (pw w 0) 63 30 ≠ 0) || decide (12 < mFn w)
    || (decide (mCtx w ≠ 0) && !([8, 9, 11, 14].contains op))
    || (decide (mWorld w ≠ 0) && !([6, 7, 8].contains op))
    || (List.range 6).any fun i => decide ((pw w (i + 1)).toNat &&& (2 ^ 64 - 1 - (mUses op).getD i 0) ≠ 0)

/-- A request that is being carried out over several steps. -/
def State.mgmtBusy (s : State) : Bool := s.rungs ≠ [] || s.fns.any fun p => p.2.resize.isSome

/-- The head of the management ring, when the hub may take it. -/
def State.mgmtHead (s : State) : Option (List Word) :=
  if s.dev ≠ .ready ∨ s.awaitsReset ∨ s.mgmt = 0 ∨ ¬ s.mgmtFrame s.mgmt.toNat ∨ s.mgmtBusy then none
  else s.ringHead s.mgmt.toNat 8

/-- Takes the head request when its OP is the event's, or, for PCREATE's event, no OP of the table: CIDX advances, the
request is carried out, and its signal is written. `f` answers the state, or a REASON. -/
def State.serveMgmt (s : State) (op : Nat) (f : State → List Word → Except Nat State) : State :=
  match s.mgmtHead with
  | none => s
  | some w =>
    if mOp w ≠ op ∧ ¬ (op = 1 ∧ (mOp w = 0 ∨ 15 < mOp w)) then s
    else
      let from_ := s.enqView (s.headElem s.mgmt.toNat)
      let s1 := s.ringTake s.mgmt.toNat
      let sig := (pw w 7).toNat
      if mBad w then s1.ringSig from_ sig (.neg 1)
      else
        match f s1 w with
        | .error r => s1.ringSig from_ sig (.neg r)
        | .ok t => t.ringSig from_ sig .dec

/-- A request whose signal is written when its work ends: `f` is told whose request it is. -/
def State.serveLong (s : State) (op : Nat) (f : State → Option Nat → List Word → Except Nat State) : State :=
  match s.mgmtHead with
  | none => s
  | some w =>
    if mOp w ≠ op then s
    else
      let from_ := tget s.enqBy (s.headElem s.mgmt.toNat)
      let s1 := s.ringTake s.mgmt.toNat
      let sig := (pw w 7).toNat
      if mBad w then s1.ringSig (from_.map s1.keyView) sig (.neg 1)
      else
        match f s1 from_ w with
        | .error r => s1.ringSig (from_.map s1.keyView) sig (.neg r)
        | .ok t => t

/-! ### Partitions (R411, R416 to R418, R424) -/

def legalRun (first count : Nat) : Bool :=
  [1, 2, 3, 4, 6, 12].contains count && decide (first % count = 0) && decide (first + count ≤ 12)

/-- A descriptor address that the hub may read. -/
def State.descOk (s : State) (a : Word) : Bool := decide (a.toNat % 64 = 0) && s.mgmtFrame a.toNat

def Func.holds (f : Func) : Bool := decide (f.count ≠ 0)

/-- The partitions that a run of slices meets, but for one function's. -/
def State.meets (s : State) (first count skip : Nat) : List (Nat × Func) :=
  s.fns.filter fun (p : Nat × Func) =>
    p.2.holds && decide (p.1 ≠ skip) && decide (p.2.first < first + count) && decide (first < p.2.first + p.2.count)

/-- Extends fw2 with a partition record (R407, R416). -/
def State.fw2 (s : State) (op fn : Nat) (f : Func) : State :=
  let r := [op, fn, f.first, f.count, f.ts.toNat, f.quantum, s.age, 0].flatMap (toBytes 8)
  { s with fw := tput s.fw 2 (extend (tval 0 s.fw 2) (sha512 r)) }

/-- Sets LIFEBUD of a new partition, which no boundary has given one (assumption log 51). -/
def State.setLife (s : State) (fn : Nat) : State := s.updFn fn fun f => { f with lifeMin := s.lifebud f }

/-- The hub reads a partition descriptor that a request names: the rings are those that it holds now, and FDROP and EDROP start
at 0 (R414, Table 23.3). -/
def State.readDesc (s : State) (fn d : Nat) : State :=
  (s.updFn fn fun f => { f with rings := (List.range 4).map fun i => s.rd (d + 8 * i) 8 }).bankWrite (d + 0x20) 8 0

/-- A function's record with a partition; its queue table, budgets and waiting records stay. -/
def Func.withRun (f : Func) (first count : Nat) (ts : Bool) (quantum : Nat) (pdesc : Word) (res : Bool) : Func :=
  { first := first, count := count, ts := ts, quantum := if ts then quantum else 0, left := quantum + 1, resident := res
    pdesc := pdesc, rings := f.rings, queues := f.queues, ebudget := f.ebudget, ebudgetNext := f.ebudgetNext, msix := f.msix
    faults := f.faults, events := f.events, fdrop := f.fdrop, edrop := f.edrop }

def mgmtPcreate (s : State) (w : List Word) : Except Nat State :=
  let fn := mFn w
  let first := bits (pw w 1) 3 0
  let count := bits (pw w 1) 7 4
  let ts := (pw w 1).getLsbD 8
  let q := bits (pw w 2) 9 0
  if (s.fnD fn).holds then .error 4
  else if ¬ s.descOk (pw w 3) ∨ (ts ∧ (q = 0 ∨ 1000 < q)) then .error 1
  else if ¬ legalRun first count then .error 2
  else
    let os := s.meets first count fn
    let same := os.all fun p => decide (p.2.first = first) && decide (p.2.count = count)
    let joins := ts && same && decide (os.length < 8) && os.all fun p => p.2.ts || decide (p.1 = 0)
    if os ≠ [] ∧ ¬ joins then .error 2
    else if os.any fun p => p.2.ts && decide (p.2.quantum ≠ q) then .error 1
    else
      let s1 := os.foldl (fun t p => t.updFn p.1 fun f =>
        if f.ts then f else { f with ts := true, quantum := q, left := q + 1, resident := true }) s
      let f := (s.fnD fn).withRun first count ts q (pw w 3) (decide (os = []))
      let s2 := { s1 with fns := tput s1.fns fn f }
      .ok ((((s2.readDesc fn (pw w 3).toNat).fw2 1 fn f).setLife fn).flushRecs fn)

/-- PCREATE; an OP of no request is taken here and fails with REASON 1. -/
def execPcreate (s : State) : Host.Outcome State Fault Refusal := .next (s.serveMgmt 1 mgmtPcreate)

/-- A co-resident launch of a function with resident workgroups that a run would not hold whole. -/
def State.coBlocks (s : State) (fn first count : Nat) : Bool :=
  let t := s.updFn fn fun f => { f with first := first, count := count }
  s.launches.any fun (p : Nat × Launch) =>
    decide (p.2.fn = fn) && p.2.desc.cores && !p.2.done
      && (s.wgs.any fun g => decide (g.2.launch = p.1) && g.2.resident && !g.2.done) && !t.admits fn p.2.desc

/-- The resident workgroups of a function that hold a core of some slices. -/
def State.wgsOn (s : State) (fn : Nat) (dies : List Nat) : List Nat :=
  (s.wgs.filter fun p => decide (p.2.fn = fn) && p.2.resident && !p.2.done
    && p.2.cores.any fun c => dies.contains (dieOf c)).map Prod.fst

/-- The slices that a shrink takes from a function. -/
def Func.gone (f : Func) : List Nat := f.slices.filter fun d => !f.kept.contains d

/-- The workgroups to pre-empt with a list: co-resident launches go whole (R347). -/
def State.withCo (s : State) (ws : List Nat) : List Nat :=
  (s.wgs.filter fun p => !p.2.done && p.2.resident && (ws.contains p.1 || ws.any fun w =>
    decide ((s.wgD w).launch = p.2.launch) && (match tget s.launches p.2.launch with | some l => l.desc.cores | none => false))).map Prod.fst

def mgmtPresize (s : State) (from_ : Option Nat) (w : List Word) : Except Nat State :=
  let fn := mFn w
  let f := s.fnD fn
  let first := bits (pw w 1) 3 0
  let count := bits (pw w 1) 7 4
  if ¬ f.holds then .error 5
  else if ¬ legalRun first count then .error 2
  else if 1 < (s.sharers fn).length ∨ s.coBlocks fn first count then .error 4
  else if s.meets first count fn ≠ [] then .error 2
  else
    let f1 := { f with resize := some (first, count, pw w 7), resizeBy := from_ }
    if f1.gone = [] then
      let f2 := { f with first := first, count := count }
      let s1 := { s with fns := tput s.fns fn f2 }.fw2 2 fn f2
      .ok (s1.ringSig (from_.map s1.keyView) (pw w 7).toNat .dec)
    else
      let s1 := { s with fns := tput s.fns fn f1 }
      .ok ((s1.withCo (s1.wgsOn fn f1.gone)).foldl State.preemptWg s1)

/-- The function that is being shrunk. -/
def State.shrinking (s : State) : Option (Nat × Func × Nat × Nat × Word) :=
  s.fns.findSome? fun (p : Nat × Func) => p.2.resize.map fun r => (p.1, p.2, r)

/-- The removed slices are given up: dirty indexes go home, translations go, near frames return to NONE. -/
def State.shrinkDone (s : State) (fn : Nat) (f : Func) (first count : Nat) (sig : Word) : State :=
  let gone := f.gone
  let s1 := ((f.cores.filter fun c => gone.contains (dieOf c)).foldl State.cleanCore s).tlbDrop fun e =>
    decide (e.fn = fn) && gone.contains e.die
  let s2 := s1.freeFrames fun x => decide (s1.homeOf x < 768) && gone.contains (s1.homeDie x)
  let f1 := { s2.fnD fn with first := first, count := count, resize := none, moving := false, resizeBy := none }
  ({ s2 with fns := tput s2.fns fn f1 }.fw2 2 fn f1).ringSig (f.resizeBy.map s2.keyView) sig.toNat .dec

/-- One step of a shrink: the pre-empted workgroups leave, every page homed on the slices moves, whosever it is, and the slices
go; a page that cannot be placed ends it with REASON 6. -/
def State.shrinkStep (s : State) : State :=
  match s.shrinking with
  | none => s
  | some (fn, f, first, count, sig) =>
    let gone := f.gone
    if s.wgsOn fn gone ≠ [] then s
    else
      let mine := s.moves.filter fun m => decide (m.by_ = some fn)
      let t := s.wsReadyAll
      if mine.any fun m => m.stuck then
        ({ s with moves := s.moves.filter fun m => !decide (m.by_ = some fn) }.updFn fn fun f =>
          { f with resize := none, moving := false, resizeBy := none }).ringSig (f.resizeBy.map s.keyView) sig.toNat (.neg 6)
      else if mine ≠ [] then s
      else if ¬ f.moving ∨ t.leavers (some fn) ≠ [] then (t.addEvacs (some fn)).updFn fn fun f => { f with moving := true }
      else s.shrinkDone fn f first count sig

/-- PRESIZE: the request, and each later step of a shrink. -/
def execPresize (s : State) : Host.Outcome State Fault Refusal :=
  .next (if s.shrinking.isSome then s.shrinkStep else s.serveLong 2 mgmtPresize)

/-- Clears the trap banks whose last handler meets a test (R29, R397). -/
def State.wipeBanks (s : State) (p : Bank → Bool) : State :=
  { s with banks := s.banks.map fun (b : Nat × Bank) => if p b.2 then (b.1, { b.2 with h := [], hs := [] }) else b }

/-- Some world belongs to a function. -/
def State.holdsWorld (s : State) (fn : Nat) : Bool := s.worlds.any fun p => decide (p.2.fn = fn)

def mgmtPdestroy (s : State) (w : List Word) : Except Nat State :=
  let fn := mFn w
  let f := s.fnD fn
  if ¬ f.holds then .error 5
  else if s.holdsWorld fn then .error 4
  else
    let rest := (s.sharers fn).filter fun g => decide (g ≠ fn)
    let s1 := { s with fns := tput s.fns fn { f.withRun 0 0 false 0 0 false with buckets := [], rings := [] } }.wipeBanks fun b => decide (b.fn = fn)
    let s2 := s1.fw2 3 fn f
    .ok (if f.ts ∧ f.resident then match rest with | g :: _ => s2.comeIn g fn | [] => s2 else s2)

def execPdestroy (s : State) : Host.Outcome State Fault Refusal := .next (s.serveMgmt 3 mgmtPdestroy)

def mgmtQuota (s : State) (w : List Word) : Except Nat State :=
  let fn := mFn w
  let sum (g : Func → Nat) : Nat := ((s.fns.filter fun p => decide (p.1 ≠ fn)).map fun p => g p.2).sum
  let a := (pw w 1).toNat
  let b := (pw w 2).toNat
  let c := (pw w 3).toNat
  if ¬ (s.fnD fn).holds then .error 5
  else if 64 < a then .error 1
  else if 64 < sum Func.copyQ + a ∨ 33554432 < sum Func.capQ + b ∨ 4096 < sum Func.spillQ + c then .error 3
  else .ok (s.updFn fn fun f => { f with copyQ := a, capQ := b, spillQ := c })

def execQuota (s : State) : Host.Outcome State Fault Refusal := .next (s.serveMgmt 4 mgmtQuota)

def mgmtBucket (s : State) (w : List Word) : Except Nat State :=
  let fn := mFn w
  let src := bits (pw w 1) 1 0
  let d := bits (pw w 3) 31 0
  if ¬ (s.fnD fn).holds then .error 5
  else if src = 3 then .error 1
  else .ok (s.updFn fn fun f => { f with
    buckets := tput f.buckets (16 * src + bits (pw w 1) 7 4) { rate := bits (pw w 2) 31 0, depth := d, level := d } })

def execBucket (s : State) : Host.Outcome State Fault Refusal := .next (s.serveMgmt 5 mgmtBucket)

/-! ### Worlds and contexts (R395, R400, R403, R407, R414) -/

/-- Creates a world with a fresh key and measurements of 0. -/
def State.mkWorld (s : State) (fn n : Nat) : State :=
  { s.bump with worlds := tput s.worlds n { fn := fn, key := s.tick, meas := [] } }

def mgmtWcreate (s : State) (w : List Word) : Except Nat State :=
  if mWorld w = 0 then .error 1
  else if (tget s.worlds (mWorld w)).isSome then .error 4
  else .ok (s.mkWorld (mFn w) (mWorld w))

def execWcreate (s : State) : Host.Outcome State Fault Refusal := .next (s.serveMgmt 6 mgmtWcreate)

/-- Destroys a world: its frames return to NONE, its trap banks are cleared, the verified nodes of its tree go, and its key
is erased (R397, R400, R403). -/
def State.dropWorld (s : State) (n : Nat) : State :=
  let s1 := (s.freeFrames fun f => decide (s.ownerOf f = n)).wipeBanks fun b => decide (b.world = n)
  { s1 with worlds := tdel s1.worlds n, mdc := s1.mdc.filter fun k => decide (k / 2 ^ 36 / 8 ≠ n) }

def mgmtWdestroy (s : State) (w : List Word) : Except Nat State :=
  let n := mWorld w
  if n = 0 then .error 1
  else
    match tget s.worlds n with
    | none => .error 5
    | some x =>
      if x.fn ≠ mFn w then .error 5
      else if s.ctxs.any fun c => decide (c.2.world = n) then .error 4
      else .ok (s.dropWorld n)

def execWdestroy (s : State) : Host.Outcome State Fault Refusal := .next (s.serveMgmt 7 mgmtWdestroy)

/-- The fields of a context descriptor (Table 23.4). -/
def ctxOf (world : Nat) (d : List Word) : Context :=
  { world := world, level := bits (pw d 6) 2 1, root0 := pw d 0, root4 := pw d 1, wshdr := pw d 2, save := pw d 3
    savesz := bits (pw d 4) 47 0, spill := pw d 5, holdPerm := (pw d 6).getLsbD 0 }

def mgmtCcreate (s : State) (w : List Word) : Except Nat State :=
  let fn := mFn w
  let n := mWorld w
  let d := s.physWords (pw w 1).toNat 8
  let lvl := bits (pw d 6) 2 1
  let mine : Bool := match tget s.worlds n with | some x => decide (x.fn = fn) | none => false
  if ¬ mine then .error 5
  else if (tget s.ctxs (ctxKey fn (mCtx w))).isSome then .error 4
  else if ¬ s.descOk (pw w 1) then .error 1
  else if lvl = 3 ∨ (lvl = 2 ∧ (fn ≠ 0 ∨ n ≠ 0)) ∨ bits (pw d 6) 63 3 ≠ 0 ∨ pw d 7 ≠ 0 ∨ bits (pw d 4) 63 48 ≠ 0 then .error 1
  else .ok { s with ctxs := tput s.ctxs (ctxKey fn (mCtx w)) (ctxOf n d) }

def execCcreate (s : State) : Host.Outcome State Fault Refusal := .next (s.serveMgmt 8 mgmtCcreate)

def mgmtPbset (s : State) (w : List Word) : Except Nat State :=
  if (tget s.ctxs (ctxKey (mFn w) (mCtx w))).isNone then .error 5
  else .ok (s.updCtx (mFn w) (mCtx w) fun c => { c with pbudget := BitVec.ofNat 32 (bits (pw w 1) 31 0) })

def execPbset (s : State) : Host.Outcome State Fault Refusal := .next (s.serveMgmt 14 mgmtPbset)

def mgmtPdset (s : State) (w : List Word) : Except Nat State :=
  let fn := mFn w
  let f := s.fnD fn
  let d := (pw w 3).toNat
  if ¬ f.holds then .error 5
  else if f.pdesc ≠ 0 then .error 4
  else if ¬ s.descOk (pw w 3) then .error 1
  else
    let s1 := (s.readDesc fn d).updFn fn fun f => { f with pdesc := pw w 3 }
    let s2 := s1.flushRecs fn
    let s3 := (s2.bankWrite (d + 0x20) 4 (s2.rd (d + 0x20) 4 + f.fdrop)).bankWrite (d + 0x24) 4 (s2.rd (d + 0x24) 4 + f.edrop)
    let s4 := s3.updFn fn fun f => { f with fdrop := 0, edrop := 0 }
    let up (t : State) (vec : Nat) : State :=
      let r := t.rcb (t.recRing fn vec)
      if r.valid ∧ ¬ r.isEmpty then t.msix fn vec else t
    .ok (up (up s4 0) 1)

def execPdset (s : State) : Host.Outcome State Fault Refusal := .next (s.serveMgmt 15 mgmtPdset)

def mgmtBias (s : State) (w : List Word) : Except Nat State :=
  let a := (pw w 1).toNat
  if a % 65536 ≠ 0 then .error 1
  else .ok ((List.range (min (pw w 2).toNat 44564480)).foldl (fun t i => t.setBias (a / 65536 + i) ((pw w 3).getLsbD 0)) s)

def execBias (s : State) : Host.Outcome State Fault Refusal := .next (s.serveMgmt 13 mgmtBias)

/-! ### The reset ladder (R420, R421) -/

/-- Cancels every unit of a context and ends its groups without a handler. -/
def State.ctxReset (s : State) (fn ctx : Nat) : State :=
  let of3 (t : Table Unit3) : List Nat := (t.filter fun p => decide (p.2.fn = fn) && decide (p.2.ctx = ctx) && !p.2.done).map Prod.fst
  let s1 := (of3 s.jobs).foldl State.cancelJob s
  let s2 := (of3 s1.phases).foldl State.cancelPhase s1
  let s3 := (of3 s2.graphs).foldl State.cancelGraph s2
  let ls := (s3.launches.filter fun p => decide (p.2.fn = fn) && decide (p.2.ctx = ctx) && !p.2.done).map Prod.fst
  ls.foldl State.cancelLaunch s3

/-- Engine work of a context that has not ended. -/
def State.ctxBusy (s : State) (fn ctx : Nat) : Bool :=
  (s.ops.any fun p => decide (p.2.fn = fn) && decide (p.2.ctx = ctx))
    || s.wgs.any fun p => decide (p.2.fn = fn) && decide (p.2.ctx = ctx) && s.matBusy p.1

/-- Stops the engines for a context and discards its entries without notification. -/
def State.engReset (s : State) (fn ctx : Nat) : State :=
  let s1 := s.halt (fun o => decide (o.fn = fn) && decide (o.ctx = ctx)) fun w =>
    decide ((s.wgD w).fn = fn) && decide ((s.wgD w).ctx = ctx)
  (s1.wgs.filter fun p => decide (p.2.fn = fn) && decide (p.2.ctx = ctx)).foldl (fun t p => t.wgSweep p.1) s1

/-- Discards what the hub keeps for a context. -/
def State.dropCtx (s : State) (fn ctx : Nat) : State :=
  let s1 := s.invCtx fn ctx
  { s1 with
    ctxs := tdel s1.ctxs (ctxKey fn ctx)
    packets := s1.packets.filter fun p => !(decide (p.2.fn = fn) && decide (p.2.ctx = ctx))
    holds := s1.holds.filter fun h => !(decide (h.2.fn = fn) && decide (h.2.ctx = ctx))
    moves := s1.moves.filter fun m => !(decide (m.fn = fn) && decide (m.ctx = ctx)) }

/-- The queue rung. -/
def State.queueReset (s : State) (fn q : Nat) : State :=
  let k := s.queueD fn q
  let s1 := s.updQueue fn q fun x => { x with en := false }
  let s2 := match (s1.queueRing fn k.rcb k.ctx).2 with
    | some b => (s1.noteWord (s1.hubView fn k.ctx) k.rcb 4 1 (.set b.cidx)).1
    | none => s1
  let ps := (s2.packets.filter fun p => decide (p.2.fn = fn) && decide (p.2.q = q)).map Prod.fst
  let gs := (s2.graphs.filter fun p => ps.contains p.2.packet && !p.2.done).map Prod.fst
  let s3 := gs.foldl State.cancelGraph s2
  let ls := (s3.launches.filter fun p => decide (p.2.packet ≠ 0) && ps.contains p.2.packet && !p.2.done).map Prod.fst
  ls.foldl State.cancelLaunch s3

/-- A packet of a context that has not completed, or that has its status still to be written. -/
def State.ctxPackets (s : State) (fn ctx : Nat) (running : Bool) : Bool :=
  s.packets.any fun p => decide (p.2.fn = fn) && decide (p.2.ctx = ctx) && (running || p.2.status.isSome)

/-- Whether a rung has nothing left to end: the statuses and signals of what it has cancelled are written first (R341, R425). -/
def State.rungOver (s : State) (r : Rung) : Bool :=
  match r.level with
  | 0 => !s.pktBusy r.fn r.q
  | 1 => !s.ctxBusy r.fn r.ctx && !s.ctxPackets r.fn r.ctx true
  | 2 => !s.ctxPackets r.fn r.ctx false
  | _ => true

/-- Completes the rung in progress when it is over: ERR is cleared, a context to destroy goes, the signal falls. -/
def State.rungStep (s : State) : State :=
  match s.rungs with
  | [] => s
  | r :: t =>
    if ¬ s.rungOver r then s
    else
      let s1 := { s with rungs := t }
      let s2 := if r.q < 64 then s1.updQueue r.fn r.q fun x => { x with err := false } else s1
      let s3 := if r.destroy then s2.dropCtx r.fn r.ctx else s2
      s3.ringSig (r.from_.map s3.keyView) r.signal.toNat .dec

/-- Starts a rung. -/
def State.startRung (s : State) (r : Rung) : State := { s with rungs := s.rungs ++ [r] }.rungStep

def mgmtQreset (s : State) (from_ : Option Nat) (w : List Word) : Except Nat State :=
  let fn := mFn w
  let q := bits (pw w 1) 5 0
  .ok ((s.queueReset fn q).startRung
    { level := 0, fn := fn, ctx := (s.queueD fn q).ctx, q := q, signal := pw w 7, from_ := from_ })

/-- QRESET: the request, or the end of its rung. -/
def execQreset (s : State) : Host.Outcome State Fault Refusal :=
  .next (if s.rungs ≠ [] then s.rungStep else s.serveLong 10 mgmtQreset)

def mgmtCreset (destroy : Bool) (s : State) (from_ : Option Nat) (w : List Word) : Except Nat State :=
  let fn := mFn w
  let c := mCtx w
  if (tget s.ctxs (ctxKey fn c)).isNone then .error 5
  else .ok ((s.ctxReset fn c).startRung { level := 1, fn := fn, ctx := c, q := 64, signal := pw w 7, destroy := destroy, from_ := from_ })

/-- CRESET: the request, or the end of its rung. -/
def execCreset (s : State) : Host.Outcome State Fault Refusal :=
  .next (if s.rungs ≠ [] then s.rungStep else s.serveLong 11 (mgmtCreset false))

/-- CDESTROY: the request, or the end of its reset. -/
def execCdestroy (s : State) : Host.Outcome State Fault Refusal :=
  .next (if s.rungs ≠ [] then s.rungStep else s.serveLong 9 (mgmtCreset true))

/-- The acquire generation of a core of a partition that is reset is 0: what its column still holds of others goes home,
and nothing filled before counts (R312). -/
def State.zeroGen (s : State) (c : Nat) : State :=
  (s.cleanCore c).updCore c fun k => { k with gen := 0, column := [], l1 := [] }

/-- A function-level reset (R420). -/
def State.flr (s : State) (fn : Nat) : State :=
  let mine (w : Nat) : Bool := decide ((s.wgD w).fn = fn)
  let s1 := s.updFn fn fun f => { f with queues := f.queues.map fun (q : Nat × Queue) => (q.1, { q.2 with en := false, err := false }) }
  let s2 := s1.halt (fun o => decide (o.fn = fn)) mine
  let s3 := s2.dropLaunchCards fun l => match tget s2.launches l with | some x => decide (x.fn = fn) | none => false
  let ws := (s3.wgs.filter fun p => decide (p.2.fn = fn)).map Prod.fst
  let gs := (s3.groups.filter fun p => ws.contains p.2.wg).map Prod.fst
  let wds := (s3.worlds.filter fun p => decide (p.2.fn = fn)).map Prod.fst
  let s4 := { s3 with
    groups := s3.groups.filter fun p => !gs.contains p.1
    banks := s3.banks.map fun (b : Nat × Bank) =>
      if (match b.2.owner with | some g => gs.contains g | none => false) then (b.1, { b.2 with owner := none }) else b
    wgs := s3.wgs.filter fun p => !ws.contains p.1
    mem := ws.foldl (fun m w => tclear m (winLoc w 0) (2 ^ 32)) s3.mem
    launches := s3.launches.filter fun p => decide (p.2.fn ≠ fn)
    graphs := s3.graphs.filter fun p => decide (p.2.fn ≠ fn)
    phases := s3.phases.filter fun p => decide (p.2.fn ≠ fn)
    jobs := s3.jobs.filter fun p => decide (p.2.fn ≠ fn)
    packets := s3.packets.filter fun p => decide (p.2.fn ≠ fn)
    peerOut := s3.peerOut.filter fun o => !gs.contains o.grp && decide (o.fn ≠ fn)
    moves := s3.moves.filter fun m => decide (m.fn ≠ fn)
    holds := s3.holds.filter fun h => decide (h.2.fn ≠ fn) }
  let s5 := (wds.foldl State.dropWorld (s4.tlbDrop fun e => decide (e.fn = fn))).wipeBanks fun b => decide (b.fn = fn)
  let s6 := (s5.fnD fn).cores.foldl State.zeroGen s5
  ({ s6 with ctxs := s6.ctxs.filter fun c => decide (c.1 / 256 ≠ fn) }.updFn fn fun f =>
    { f with invWait := none, skip := [] }).event 11 fn 0 0 none

def mgmtFlr (s : State) (w : List Word) : Except Nat State := .ok (s.flr (mFn w))

/-- FLR. -/
def execFlr (s : State) : Host.Outcome State Fault Refusal := .next (s.serveMgmt 12 mgmtFlr)

/-- A management request of a function is under way: an FLR of its function waits until it has completed (R420). -/
def State.fnBusy (s : State) (fn : Nat) : Bool := (s.rungs.any fun r => decide (r.fn = fn)) || (s.fnD fn).resize.isSome

/-- PCIE_FLR; it stays among the inputs while it waits. -/
def execPcieFlr (fn : Nat) (s : State) : Host.Outcome State Fault Refusal :=
  .next (if 12 < fn then s else if s.fnBusy fn then { s with inputs := .pcieFlr fn :: s.inputs } else s.flr fn)

/-! ### Power and bring-up (R389, R423, R445) -/

/-- What a loss of power or the device rung leaves: non-volatile memory, memory outside the module, and what the module
is made of: its frames' homes, the buses that serve its bank columns, and the cores that its spares replaced. -/
def State.powerDown (s : State) : State :=
  { inputs := s.inputs, turns := s.turns, draw := s.draw, tick := s.tick
    mem := s.mem.filter fun b => decide (2 ^ 64 ≤ b.1) && decide (b.1 < 2 ^ 96)
    homes := s.homes, ckptA := s.ckptA, ckptB := s.ckptB, att := { seq := s.att.seq }
    fns := noFuncs, flash := s.flash, vbs := s.vbs, repairs := s.repairs, spareOf := s.spareOf, wear := State.reset.wear
    peerIn := s.peerIn, peerAns := s.peerAns }

/-- The device rung: a checkpoint marked orderly, then reset and bring-up. -/
def State.deviceReset (s : State) : State := { (s.writeCkpt true).powerDown with dev := .boot }

/-- DEVRST. -/
def execDevrst (s : State) : Host.Outcome State Fault Refusal := .next s.deviceReset

/-- RESET_ESCALATION: the rung in progress gives way to the next, with its event. -/
def execResetEscalation (s : State) : Host.Outcome State Fault Refusal :=
  match s.rungs with
  | [] => .next s
  | r :: t =>
    let s1 := { s with rungs := { r with level := r.level + 1 } :: t }.event 12 r.fn r.ctx (s.ctxD r.fn r.ctx).world none
    match r.level with
    | 0 => .next ((s1.ctxReset r.fn r.ctx).rungStep)
    | 1 => .next ((s1.engReset r.fn r.ctx).rungStep)
    | 2 => .next ((s1.flr r.fn).rungStep)
    | _ => .next s1.deviceReset

/-- POWER_GOOD. -/
def execPowerGood (s : State) : Host.Outcome State Fault Refusal :=
  .next (if s.dev = .reset then { s with dev := .boot } else s)

/-- The bytes of the recovery image window (R423; assumption log 85). -/
def imageBytes (t : Table Word) : List Byte := (List.range 65536).flatMap fun i => toBytes 8 (tval 0 t i).toNat

/-- BOOT_COMPLETE: `fw0` and `fw1` are the SHA-512 of the image and of the configuration record. An image that RECGO has verified
and written to the flash is the one that boots. -/
def execBootComplete (sigOk : Bool) (fw0 fw1 : BitVec 512) (s : State) : Host.Outcome State Fault Refusal :=
  let image := match s.flash with | some t => sha512 (imageBytes t) | none => fw0
  if s.dev ≠ .boot then .next s
  else if ¬ sigOk ∧ s.flash.isNone then .next { s with dev := .recovery }
  else .next { s with dev := .calibrate, fw := [(0, extend 0 image), (1, extend 0 fw1)] }

/-- RECGO: a verified recovery image is written to the flash and booted; else the module fails with FCODE 4. -/
def execRecgo (sigOk : Bool) (s : State) : Host.Outcome State Fault Refusal :=
  .next (if s.dev ≠ .recovery then s
    else if sigOk then { s with dev := .boot, flash := some s.recimg } else { s with dev := .failed, fcode := 4 })

/-- A bus that fails in calibration is repaired from a spare or retired. -/
def State.calBus (s : State) (die bus : Nat) : State :=
  match s.spareBus die with
  | some b => ({ s with repairs := tput s.repairs (72 * die + bus) b }.setVb die bus .retired).setVb die b .active
  | none => s.setVb die bus .retired

/-- A compute die with a bank column that a bus which failed in this calibration serves still: it had no spare (R423). -/
def State.unserved (s : State) (failed : List (Nat × Nat)) (die : Nat) : Bool :=
  (List.range 64).any fun c =>
    let b := s.busNow die 9 c
    failed.contains (die, b) && decide (s.vbOf die b = .retired)

/-- CALIBRATE_COMPLETE: buses are repaired or retired, dies that do not answer or whose buses cannot all be served are reported
lost, and dark banks leave their group out of their links, which all stand down. -/
def execCalibrateComplete (c : Calibration) (s : State) : Host.Outcome State Fault Refusal :=
  if s.dev ≠ .calibrate then .next s
  else if ¬ c.ok then .next { s with dev := .failed, fcode := 2 }
  else
    let s1 := c.retired.foldl (fun t b => t.calBus b.1 b.2) s
    let lost := (c.lost ++ (List.range 12).filter (s1.unserved c.retired)).eraseDups
    let s2 := { s1 with lostDies := lost, dev := .zeroing, links := [], selfid := 0 }
    let s3 := lost.foldl (fun t d => t.event 1 0 0 0 (some (BitVec.ofNat 64 d))) s2
    .next (c.darkBanks.foldl (fun t k => (List.range 16).foldl (fun t i =>
      t.updLink (16 * (k / 4) + i) fun l => { l with avail := l.avail &&& ~~~(1#4 <<< (k % 4)) }) t) s3)

/-- The wear table at first bring-up: spare cores and spare buses have STATE 3 (Table 20.2, R376), and the history of
every other unit begins (R388). -/
def firstWear : Table Wear :=
  (List.range unitCount).map fun u =>
    (u, if (u < 204 ∧ u % 17 = 16) ∨ (444 ≤ u ∧ u < 1308 ∧ 64 ≤ (u - 444) % 72) then { state := 3 } else { hist := [(0, 0, 0)] })

/-- The conservative charge of 1,000 ticks. -/
def Wear.charge (w : Wear) : Wear :=
  if 3 ≤ w.state then w
  else { w with bsu := w.bsu + 80000, hsu := w.hsu + 20000, esu := w.esu + 32000, pool := w.pool + 20000, pticks := w.pticks + 1000 }

/-- Loads the newest valid checkpoint; one not marked orderly is charged, with its event, and with the report of a wear
index that the charge brings to 1,000,000 (R381, R389). What BRESV held was the remaining cost of boosts, which ended with
the power, so it leaves BRESV (R382). -/
def State.loadCkpt (s : State) : State :=
  match s.newest with
  | none => { s with wear := firstWear }
  | some c =>
    let s1 := { s with wear := c.wear, age := c.age, targeth := c.targeth }
    if c.orderly then s1
    else
      let s2 := { s1 with age := s1.age + 1000 }
      ((List.range unitCount).foldl (fun t u => t.setWear u (t.wearD u).charge) s2).event 10 0 0 0 none

/-- The physical core of each logical index: its own, the die's spare where the spare took its index, or none (R4, R387). -/
def State.coreUnit (s : State) (c : Nat) : Option Nat :=
  let u := 17 * (c / 16) + c % 16
  let spare := 17 * (c / 16) + 16
  if (s.wearD u).state ≠ 4 then some u
  else if (s.wearD spare).state ≤ 2 ∧ tget s.spareOf (c / 16) = some (c % 16) then some spare
  else none

/-- ZEROING_COMPLETE: memory reads zero, every frame is NONE, the wear checkpoint is loaded, world 0 is created, and
function 0 takes the whole module. -/
def execZeroingComplete (ok : Bool) (s : State) : Host.Outcome State Fault Refusal :=
  if s.dev ≠ .zeroing then .next s
  else if ¬ ok then .next { s with dev := .failed, fcode := 3 }
  else
    let s1 := { s with
      mem := s.mem.filter fun b => decide (2 ^ 64 ≤ b.1), owner := [], markX := [], markW := [], bias := []
      badMac := [], badNode := [], tlb := [], ctrs := [], frameCtrs := [], mdc := [], failed := [], nodeMet := [] }
    let s2 := s1.loadCkpt
    let s3 := s2.vbs.foldl (fun t b => t.updWear (444 + b.1) fun w => { w with state := b.2.wear }) s2
    let s4 := { s3 with cores := (List.range 192).map fun c => (c, { unit := s3.coreUnit c, restAt := s3.age }) }
    let s5 := (s4.mkWorld 0 0).updFn 0 fun f =>
      { f with count := 12, copyQ := 64, capQ := 33554432, spillQ := 4096, resident := true, tickSlices := List.range 12 }
    .next { (s5.setLife 0) with dev := .ready, wearAt := s5.wear, windowAge := s5.age }

/-- ORDERLY_POWER_DOWN: one last boundary, a checkpoint marked orderly, and the power goes. -/
def execOrderlyPowerDown (busy metered : Table Nat) (s : State) : Host.Outcome State Fault Refusal :=
  .next (((s.boundary busy metered []).writeCkpt true).powerDown)

/-- POWER_LOSS. -/
def execPowerLoss (s : State) : Host.Outcome State Fault Refusal := .next s.powerDown

/-! ### Attestation (R408 to R410) -/

/-- A wear entry of a report, of the last completed boundary (R389). -/
def State.wearEntry (s : State) (u : Nat) : Nat :=
  let w := tval {} s.wearAt u
  min (wearIndex u w) 1000000 + w.state * 2 ^ 20 + w.drain.toNat * 2 ^ 23 + w.eolh % 2 ^ 32 * 2 ^ 32

/-- Bytes 0x0000 to 0x309F of a report. -/
def State.reportBody (s : State) (world seq : Nat) : List Byte :=
  let meas : Table (BitVec 512) := match tget s.worlds world with | some w => w.meas | none => []
  toBytes 8 (1 + world % 64 * 2 ^ 16) ++ toBytes 8 (s.age % 2 ^ 48) ++ toBytes 8 seq ++ List.replicate 40 0
    ++ (List.range 8).flatMap (fun i => toBytes 8 (tval 0 s.att.nonce i).toNat)
    ++ beBytes 64 (sha512 (beBytes 512 identityModulus)).toNat
    ++ (List.range 4).flatMap (fun i => beBytes 64 (tval 0 s.fw i).toNat)
    ++ (List.range 16).flatMap (fun i => beBytes 64 (tval 0 meas i).toNat)
    ++ (List.range unitCount).flatMap fun u => toBytes 8 (s.wearEntry u)

/-- ATTESTATION_GO: the snapshot is taken, or STATUS says why not. -/
def execAttestationGo (s : State) : Host.Outcome State Fault Refusal :=
  let a := s.att
  if a.busy then .next { s with att := { a with status := 3 } }
  else if (tget s.worlds a.world).isNone then .next { s with att := { a with status := 1 } }
  else if a.buf.toNat % 4096 ≠ 0 then .next { s with att := { a with status := 2 } }
  else
    let b := s.reportBody a.world (a.seq + 1)
    .next { s with att := { a with busy := true, status := 0, seq := a.seq + 1, report := b ++ signature b } }

/-- ATTESTATION_DONE: the report is written to host memory, DONE is set and vector 3 is sent. -/
def execAttestationDone (s : State) : Host.Outcome State Fault Refusal :=
  let a := s.att
  if ¬ a.busy then .next s
  else
    let s1 := (s.wrBytes (hostLoc a.buf.toNat) a.report).charge 0 (6 * a.report.length)
    .next ({ s1 with att := { a with busy := false, done := true, report := [] } }.msix 0 3)

/-- ATTESTATION_DONE_CLEAR. -/
def execAttestationDoneClear (s : State) : Host.Outcome State Fault Refusal :=
  .next { s with att := { s.att with done := false } }

/-! ### Registers (R408, R413, R423, R329) -/

/-- The ring that MGMT names holds no request. -/
def State.mgmtEmpty (s : State) : Bool := decide (s.mgmt = 0) || (s.rcb s.mgmt.toNat).isEmpty

/-- A write to a queue table entry: RCBADDR and CTX change only while EN is 0, and EN may be cleared. -/
def State.queueReg (s : State) (fn o : Nat) (v : Word) : State :=
  let q := o / 16
  if 64 ≤ q then s
  else s.updQueue fn q fun x =>
    if o % 16 = 0 then (if x.en then x else { x with rcb := v })
    else
      let y := if x.en then x else { x with ctx := bits v 15 8 }
      if v.getLsbD 0 then y else { y with en := false }

/-- REGISTER_WRITE: 64-bit writes of BAR 0 that only store a field. -/
def execRegisterWrite (fn off : Nat) (v : Word) (s : State) : Host.Outcome State Fault Refusal :=
  if fn ≠ 0 then .next (s.queueReg fn off v)
  else if off = 8 then .next (if s.mgmtEmpty then { s with mgmt := v } else s)
  else if 0x400 ≤ off ∧ off < 0x800 then .next (s.queueReg 0 (off - 0x400) v)
  else if off = 0x2000 then .next { s with att := { s.att with world := bits v 13 8 } }
  else if 0x2008 ≤ off ∧ off < 0x2048 ∧ off % 8 = 0 then
    .next { s with att := { s.att with nonce := tset 0 s.att.nonce ((off - 0x2008) / 8) v } }
  else if off = 0x2048 then .next { s with att := { s.att with buf := v } }
  else if 0x80000 ≤ off ∧ off < 0x100000 ∧ off % 8 = 0 then
    .next { s with recimg := tset 0 s.recimg ((off - 0x80000) / 8) v }
  else .next s

/-! ### What the host reads of BAR 0 (R376, R392, R408, R413, R433) -/

/-- STATE (Table 23.2). -/
def DevState.code : DevState → Nat
  | .reset => 0 | .boot => 1 | .calibrate => 2 | .zeroing => 3 | .ready => 4 | .failed => 5 | .recovery => 6

/-- A word of a queue table (Table 16.1). -/
def State.queueWord (s : State) (fn off : Nat) : Nat :=
  let k := s.queueD fn (off / 16)
  if 64 ≤ off / 16 then 0
  else if off % 16 = 0 then k.rcb.toNat
  else k.en.toNat + k.err.toNat * 2 + k.ctx % 256 * 2 ^ 8

/-- FSTATE (Table 23.2). -/
def Func.fstate (f : Func) : Nat := if f.count = 0 then 0 else if ¬ f.ts then 1 else if f.resident then 2 else 3

/-- Word 0 of the attestation block (Table 22.4). -/
def Attest.word (a : Attest) : Nat := a.busy.toNat * 2 + a.done.toNat * 4 + a.status % 8 * 8 + a.world % 64 * 2 ^ 8

/-- A link's word of the fabric block (Table 25.3). -/
def Link.word (l : Link) : Nat :=
  l.st % 4 + l.groups.toNat * 2 ^ 4 + l.farid.toNat * 2 ^ 12 + l.restripes.toNat * 2 ^ 32

/-- Word `i` of a byte string. -/
def wordOf (l : List Byte) (i : Nat) : Nat := ofBytes ((l.drop (8 * i)).take 8)

/-- The word that the host reads at an 8-byte aligned offset of BAR 0 of a function. -/
def State.barRead (s : State) (fn off : Nat) : Nat :=
  if fn ≠ 0 then s.queueWord fn off
  else if off = 0 then s.dev.code + s.fcode.toNat * 2 ^ 8
  else if off = 8 then s.mgmt.toNat
  else if 0x100 ≤ off ∧ off < 0x1D0 then
    let f := s.fnD ((off - 0x100) / 16)
    if off % 16 = 8 then f.pdesc.toNat
    else f.first % 16 + f.count % 16 * 2 ^ 4 + f.ts.toNat * 2 ^ 8 + f.quantum % 1024 * 2 ^ 16
      + (if s.dev = .ready then f.fstate * 2 ^ 26 else 0)
  else if 0x400 ≤ off ∧ off < 0x800 then s.queueWord 0 (off - 0x400)
  else if 0x1000 ≤ off ∧ off < 0x1400 then s.lifeWord (off - 0x1000)
  else if off = 0x2000 then s.att.word
  else if 0x2008 ≤ off ∧ off < 0x2048 then (tval 0 s.att.nonce ((off - 0x2008) / 8)).toNat
  else if off = 0x2048 then s.att.buf.toNat
  else if 0x2100 ≤ off ∧ off < 0x2300 then wordOf (beBytes 512 identityModulus) ((off - 0x2100) / 8)
  else if off = 0x2300 then min Config.cert.length 4096
  else if 0x3000 ≤ off ∧ off < 0x4000 then wordOf (Config.cert.take 4096) ((off - 0x3000) / 8)
  else if off = 0x4000 then s.selfid.toNat
  else if 0x4100 ≤ off ∧ off < 0x6100 then (tval 0 s.routes ((off - 0x4100) / 8)).toNat
  else if 0x6100 ≤ off ∧ off < 0x6300 then (s.linkD ((off - 0x6100) / 8)).word
  else if 0x10000 ≤ off ∧ off < 0x25700 then s.wearWord (off - 0x10000)
  else 0

end Sys2Proof.Machine
end

