-- ==== Sys2Proof/Machine/Agents.lean ====
section
/-! DEFINITION. Which steps of the module's own agents are enabled, in a default order. -/

namespace Sys2Proof.Machine

/-! ### Groups and workgroups -/

/-- The events of one group's own waits and results; a waiting group takes a late trap at once (R444). -/
def State.groupEvents (s : State) (g : Nat) (x : Group) : List Instr :=
  (if x.delayed = [] ∨ x.phase ≠ .resident then []
   else match x.wait with
     | .waitp _ _ _ _ => [.delayedTrap g]
     | .xfer _ _ _ => [.delayedTrap g]
     | .lbar _ => [.delayedTrap g]
     | _ => [])
    ++ (x.pend.filterMap fun p => if p.ready then some (.variableResultWrite g p.id) else none)
    ++ (match x.wait with
        | .bank _ => if (s.bankD x.bankKey).owner.isNone then [.trapEntry g] else []
        | .regain => if (s.bankD x.bankKey).owner.isNone then [.trapEntry g] else []
        | .waitp _ _ _ _ => if s.waitMoves g then [.waitpWake g] else []
        | _ => [])
    ++ (if x.overrun && x.settled && s.peerQuiet g then [.forcedSave g] else [])

/-- A workgroup whose groups have all left and whose engine work is over leaves with them (R368). -/
def State.leaveEvents (s : State) (w : Nat) (x : Workgroup) : List Instr :=
  match x.groups with
  | g :: _ =>
    if x.resident ∧ ¬ x.done ∧ ¬ s.matBusy w ∧ x.groups.all fun g => decide ((s.grpD g).phase ≠ .resident) then [.forcedSave g]
    else []
  | [] => []

/-! ### Engines -/

/-- The events of a matrix engine. -/
def State.matEvents (s : State) (me : Nat) : List Instr :=
  if (s.engD me).running.isSome then [.matrixOpComplete me]
  else if (s.matNext me).isSome then [.engineStart me]
  else []

/-- Whether a copy has one of its function's engines: as many as its quota, the oldest first (R412, R416). -/
def State.hasEngine (s : State) (id : Nat) (o : AsyncOp) : Bool :=
  decide (((s.ops.filter fun p => decide (p.2.fn = o.fn) && p.2.isCopy && decide (p.1 < id)).length) < (s.fnD o.fn).copyQ)

/-- The events of one asynchronous operation. -/
def State.opEvents (s : State) (id : Nat) (o : AsyncOp) : List Instr :=
  let self := s.selfid.toNat
  if o.paused.isSome then []
  else if o.isCopy then
    if s.copyDone id o then (if s.wakeHeld o (.asyncOpComplete id) then [] else [.asyncOpComplete id])
    else if (s.mayMove id o && (decide (o.moved ≠ 0) || s.hasEngine id o)) || (decide (o.ntf = 1) && decide (o.landed ≠ 0)) then
      (if (s.nextFault o).isSome then [.enginePageFault id] else []) ++ [.copyUnitLand id]
    else []
  else if o.opc ≠ 0xD4 then []
  else if ¬ o.matched then (if o.peers.length = 1 ∧ s.collNext id o then [.collMatch id []] else [])
  else if s.collCut o ∨ (s.collDone id o ∧ ¬ s.wakeHeld o (.asyncOpComplete id)) ∨ s.readyDue id o then [.asyncOpComplete id]
  else if o.ntf = 1 ∧ o.landed ≠ 0 then [.copyUnitLand id]
  else if o.moved < o.srcLines self ∧ ¬ s.bucketLow o.fn 2 (s.wgD o.wg).tbclass then
    [.collContribLand id o.moved (o.port self) []]
  else
    match (List.range (o.dstLines self)).find? fun l => !o.written.contains l && decide (o.need self l ≤ (o.got l).length) && !s.lineWaits o l with
    | some l => if o.srcLines self ≤ o.moved then [.collContribLand id l (o.port self) []] else []
    | none => []

/-! ### The dispatcher -/

/-- The events of one queue: its PIDX changed, or its head packet may be taken. -/
def State.queueEvents (s : State) (fn q : Nat) (k : Queue) : List Instr :=
  if ¬ k.en ∨ ¬ s.ctxRuns fn k.ctx ∨ s.dev ≠ .ready then []
  else
    match (s.queueRing fn k.rcb k.ctx).2 with
    | none => [.queuePidxWake fn q]
    | some b =>
      (if b.pidx ≠ k.seen.toNat then [.queuePidxWake fn q] else []) ++
      (let h := s.headPacket fn q
       match h.2 with
       | none => if (h.1.queueD fn q).en then [] else [.packetNop fn q]
       | some (_, w) =>
         if s.acceptable fn q ∧ ¬ s.queueTurn fn q ∨ ¬ s.acceptable fn q ∧ (h.1.startOf fn q w).1.wants.isEmpty then []
         else
           match pType w with
           | 1 => [.packetLaunch fn q]
           | 2 => [.packetBarrier fn q]
           | 3 => [.packetCopy fn q]
           | 4 => [.packetSignal fn q]
           | 5 => [.packetGraph fn q]
           | _ => [.packetNop fn q])

/-- The nodes of a graph that may start or are to be aborted. -/
def graphEvents (g : Nat) (u : Unit3) : List Instr :=
  if u.done then []
  else (List.range u.descs.length).filterMap fun n => if nodeStart u n = .wait then none else some (.graphNodeStart g n)

/-- Whether a placement pass would open a gate, place a workgroup, or ask a peer for a working set that lies there. -/
def State.placeable (s : State) : Bool :=
  (s.launches.any fun (p : Nat × Launch) =>
    !p.2.done && !p.2.gateOpen && s.ctxRuns p.2.fn p.2.ctx &&
      (let t := s.wsReady p.2.fn p.2.ctx
       let r := t.wsCount p.2.fn p.2.ctx
       decide (t.wants.length ≠ s.wants.length) || decide (p.2.desc.thresh * r.2 ≤ 1000 * r.1) || !s.upsLeft p.2.fn p.2.ctx))
    || (s.placeOne s.coWaiting [] s.candidates).isSome

/-- A bucket that a refill would help. -/
def State.bucketWaits (s : State) : Bool :=
  s.fns.any fun p => p.2.buckets.any fun b => decide (b.2.rate ≠ 0) && decide (b.2.level ≤ 0) && decide (b.2.depth ≠ 0)

/-! ### The hub's rings, Strudel, Praline's buses, the links -/

def invEvent (w : List Word) : Instr :=
  match reqOp w with | 1 => .invContext | 2 => .invFrames | 3 => .invTdmask | _ => .invPages

def moveEvent (w : List Word) : Instr := if reqOp w = 1 then .moveDown else .moveUp

def mgmtEvent (w : List Word) : Instr :=
  match mOp w with
  | 2 => .presize | 3 => .pdestroy | 4 => .quota | 5 => .bucket | 6 => .wcreate | 7 => .wdestroy | 8 => .ccreate
  | 9 => .cdestroy | 10 => .qreset | 11 => .creset | 12 => .flr | 13 => .bias | 14 => .pbset | 15 => .pdset
  | _ => .pcreate

/-- Whether a shrink can take its next step. -/
def State.shrinkReady (s : State) : Bool :=
  match s.shrinking with
  | none => false
  | some (fn, f, _, _, _) =>
    let mine := s.moves.filter fun m => decide (m.by_ = some fn)
    decide (s.wgsOn fn f.gone = []) && (decide (mine = []) || mine.any fun m => m.stuck)

def State.mgmtEvents (s : State) : List Instr :=
  (match s.mgmtHead with | some w => [mgmtEvent w] | none => [])
    ++ (match s.rungs with | r :: _ => if s.rungOver r then [if r.level = 0 then .qreset else .creset] else [] | [] => [])
    ++ (if s.shrinkReady then [.presize] else [])

def State.hubEvents (s : State) : List Instr :=
  (if s.invDone.isSome then [.invPages] else s.invReqs.map fun r => invEvent r.2.2)
    ++ (s.moveReqs.map fun r => moveEvent r.2.2)
    ++ (match s.nextMove with
        | some m => if s.farBusy m.page then [] else [.pageMove]
        | none => if s.leavers none = [] then [] else [.pageMove])
    ++ (if s.quantumOver.isSome then [.quantumEnd] else [])
    ++ (if s.switchReady.isSome then [.incomingResident] else [])
    ++ (s.vbs.filterMap fun (b : Nat × VbState) =>
      if b.2 = .repair then some (.vbRepairDone (b.1 / 72) (b.1 % 72))
      else if b.2 = .drain ∧ ¬ s.owner.any fun o => s.onBus (b.1 / 72) (b.1 % 72) o.1 then
        some (.vbDrainDone (b.1 / 72) (b.1 % 72))
      else none)
    ++ (s.links.filterMap fun (l : Nat × Link) => if l.2.st = 2 ∧ l.2.dark ≠ 0 then some (.restripeDone l.1) else none)
    ++ (if s.att.busy then [.attestationDone] else [])

/-- The enabled steps of the groups' waits, the engines, the dispatcher and the hub. -/
def State.agents (s : State) : List Instr :=
  (s.groups.flatMap fun p => s.groupEvents p.1 p.2)
    ++ (s.wgs.flatMap fun p => s.leaveEvents p.1 p.2)
    ++ ((s.cores.map fun c => clusterOf c.1).eraseDups.flatMap s.matEvents)
    ++ (s.ops.flatMap fun p => s.opEvents p.1 p.2)
    ++ (if s.donePacket.isSome then [.packetComplete] else [])
    ++ (s.graphs.flatMap fun p => graphEvents p.1 p.2)
    ++ (s.fns.flatMap fun (f : Nat × Func) => f.2.queues.flatMap fun q => s.queueEvents f.1 q.1 q.2)
    ++ (if s.spillCore.isSome then [.cannoliSpillMove] else [])
    ++ (if s.bucketWaits then [.bucketRefill] else [])
    ++ s.mgmtEvents ++ s.hubEvents
    ++ (if s.placeable then [.placementPass] else [])

/-- Steps that wait until nothing else can move: the timeouts of WAITP. -/
def State.idlers (s : State) : List Instr :=
  s.groups.filterMap fun p =>
    match p.2.wait with
    | .waitp _ _ n _ => if n = 0 then none else some (.waitpTimeout p.1)
    | _ => none

end Sys2Proof.Machine
end

