-- ==== Sys2Proof/Machine/Scalar.lean ====
section
/-! DEFINITION. The meanings of the scalar instructions (R120 to R130): each reads the low bits of its sources
by its type, computes, and writes the result extended to 64 bits. -/

namespace Sys2Proof.Machine

/-- The low bits of a scalar source, as the type's width has them (R120). -/
def State.sbits (s : State) (x : Group) (sl : Slot) (code : BitVec 10) : Nat :=
  (s.ssrc x sl code).toNat % 2 ^ tyW sl

/-- A scalar source as a number of its type (R120). -/
def sint (s : State) (x : Group) (sl : Slot) (code : BitVec 10) : Int :=
  rd (tyW sl) (tyS sl) (s.sbits x sl code)

/-- Writes a `w`-bit pattern extended by the type (R120). -/
def scaTyped (sl : Slot) (s : State) (x : Group) (r : Nat) : Effect :=
  .done s (scaOut x.trapMode sl.d 0 (ext64 (tyW sl) (tyS sl) r))

/-- Writes a plain 64-bit value. -/
def scaWord (sl : Slot) (s : State) (x : Group) (v : Word) : Effect := .done s (scaOut x.trapMode sl.d 0 v)

/-- A two-source instruction on patterns. -/
def scaBits2 (f : Nat → Nat → Nat → Nat) (sl : Slot) (s : State) (x : Group) : Effect :=
  scaTyped sl s x (f (tyW sl) (s.sbits x sl sl.a) (s.sbits x sl sl.b))

/-- A two-source instruction on exact integers that wraps or saturates (R122). -/
def scaInt2 (f : Int → Int → Int) (sl : Slot) (s : State) (x : Group) : Effect :=
  scaTyped sl s x
    (wrapOrSat (sl.md.getLsbD 0) (tyW sl) (tyS sl) (f (sint s x sl sl.a) (sint s x sl sl.b)))

/-- A count, written as a plain number (R121). -/
def scaCount (f : Nat → Nat → Nat) (sl : Slot) (s : State) (x : Group) : Effect :=
  scaWord sl s x (BitVec.ofNat 64 (f (tyW sl) (s.sbits x sl sl.a)))

/-- SADD (R121, R122). -/
def execSadd (sl : Slot) : State → Host.Outcome State Fault Refusal :=
  runSlot (fScalar true 2 sl) (.fixed 2) sl (scaInt2 (fun a b => a + b) sl)

/-- SSUB (R121, R122). -/
def execSsub (sl : Slot) : State → Host.Outcome State Fault Refusal :=
  runSlot (fScalar true 2 sl) (.fixed 2) sl (scaInt2 (fun a b => a - b) sl)

/-- SMUL (R121, R122). -/
def execSmul (sl : Slot) : State → Host.Outcome State Fault Refusal :=
  runSlot (fScalar true 2 sl) (.fixed 2) sl (scaInt2 (fun a b => a * b) sl)

/-- The high half of the exact product (R121). -/
def smulhBody (sl : Slot) (s : State) (x : Group) : Effect :=
  scaTyped sl s x (wrap (tyW sl) (sint s x sl sl.a * sint s x sl sl.b / 2 ^ tyW sl))

/-- SMULH (R121). -/
def execSmulh (sl : Slot) : State → Host.Outcome State Fault Refusal :=
  runSlot (fScalar false 2 sl) (.fixed 2) sl (smulhBody sl)

/-- SDIV (R123). -/
def execSdiv (sl : Slot) : State → Host.Outcome State Fault Refusal :=
  runSlot (fScalar false 2 sl) (.fixed 2) sl (scaBits2 (fun w => divW w (tyS sl)) sl)

/-- SREM (R123). -/
def execSrem (sl : Slot) : State → Host.Outcome State Fault Refusal :=
  runSlot (fScalar false 2 sl) (.fixed 2) sl (scaBits2 (fun w => remW w (tyS sl)) sl)

/-- SAND (R121). -/
def execSand (sl : Slot) : State → Host.Outcome State Fault Refusal :=
  runSlot (fScalar false 2 sl) (.fixed 2) sl (scaBits2 (fun _ a b => a &&& b) sl)

/-- SOR (R121). -/
def execSor (sl : Slot) : State → Host.Outcome State Fault Refusal :=
  runSlot (fScalar false 2 sl) (.fixed 2) sl (scaBits2 (fun _ a b => a ||| b) sl)

/-- SXOR (R121). -/
def execSxor (sl : Slot) : State → Host.Outcome State Fault Refusal :=
  runSlot (fScalar false 2 sl) (.fixed 2) sl (scaBits2 (fun _ a b => a ^^^ b) sl)

/-- SANDN (R121). -/
def execSandn (sl : Slot) : State → Host.Outcome State Fault Refusal :=
  runSlot (fScalar false 2 sl) (.fixed 2) sl (scaBits2 (fun w a b => a &&& notW w b) sl)

/-- SSHL (R124). -/
def execSshl (sl : Slot) : State → Host.Outcome State Fault Refusal :=
  runSlot (fScalar false 2 sl) (.fixed 2) sl (scaBits2 shl sl)

/-- SSHR (R124). -/
def execSshr (sl : Slot) : State → Host.Outcome State Fault Refusal :=
  runSlot (fScalar false 2 sl) (.fixed 2) sl (scaBits2 shr sl)

/-- SSAR (R124). -/
def execSsar (sl : Slot) : State → Host.Outcome State Fault Refusal :=
  runSlot (fScalar false 2 sl) (.fixed 2) sl (scaBits2 sar sl)

/-- SROT: left, or right with SUB 1 (R124). -/
def execSrot (sl : Slot) : State → Host.Outcome State Fault Refusal :=
  runSlot (fSrot sl) (.fixed 2) sl (scaBits2 (if sl.sub = 1 then rotr else rotl) sl)

/-- SMIN (R125). -/
def execSmin (sl : Slot) : State → Host.Outcome State Fault Refusal :=
  runSlot (fScalar false 2 sl) (.fixed 2) sl (scaInt2 (fun a b => min a b) sl)

/-- SMAX (R125). -/
def execSmax (sl : Slot) : State → Host.Outcome State Fault Refusal :=
  runSlot (fScalar false 2 sl) (.fixed 2) sl (scaInt2 (fun a b => max a b) sl)

/-- The compare of SCMP (R126). -/
def scmpBody (sl : Slot) (s : State) (x : Group) : Effect :=
  scaWord sl s x (if cond (subN sl) (sint s x sl sl.a) (sint s x sl sl.b) then 1 else 0)

/-- SCMP (R126). -/
def execScmp (sl : Slot) : State → Host.Outcome State Fault Refusal :=
  runSlot (fScmp sl) (.fixed 2) sl (scmpBody sl)

/-- The choice of SSEL (R121). -/
def sselBody (sl : Slot) (s : State) (x : Group) : Effect :=
  scaWord sl s x (if s.ssrc x sl sl.a = 0 then s.ssrc x sl sl.c else s.ssrc x sl sl.b)

/-- SSEL (R121). -/
def execSsel (sl : Slot) : State → Host.Outcome State Fault Refusal :=
  runSlot (fSsel sl) (.fixed 2) sl (sselBody sl)

/-- The move of SMOV and SMOV.hi (R127). -/
def smovBody (sl : Slot) (s : State) (x : Group) : Effect :=
  let v := s.ssrc x sl sl.a
  scaWord sl s x
    (if sl.sub = 1 then v.extractLsb' 0 32 ++ (s.ssrc x sl sl.d).extractLsb' 0 32 else v)

/-- SMOV (R127). -/
def execSmov (sl : Slot) : State → Host.Outcome State Fault Refusal :=
  runSlot (fSmov sl) (.fixed 2) sl (smovBody sl)

/-- SPOPC (R121). -/
def execSpopc (sl : Slot) : State → Host.Outcome State Fault Refusal :=
  runSlot (fScalar false 1 sl) (.fixed 2) sl (scaCount popc sl)

/-- SCLZ (R121). -/
def execSclz (sl : Slot) : State → Host.Outcome State Fault Refusal :=
  runSlot (fScalar false 1 sl) (.fixed 2) sl (scaCount clz sl)

/-- SCTZ (R121). -/
def execSctz (sl : Slot) : State → Host.Outcome State Fault Refusal :=
  runSlot (fScalar false 1 sl) (.fixed 2) sl (scaCount ctz sl)

/-- The extract of SBFE, whose control is read whole (R128). -/
def sbfeBody (sl : Slot) (s : State) (x : Group) : Effect :=
  scaTyped sl s x (bfe (tyW sl) (tyS sl) (s.sbits x sl sl.a) (s.ssrc x sl sl.b))

/-- SBFE (R128). -/
def execSbfe (sl : Slot) : State → Host.Outcome State Fault Refusal :=
  runSlot (fScalar false 2 sl) (.fixed 2) sl (sbfeBody sl)

/-- The insert of SBFI, whose control is read whole (R128). -/
def sbfiBody (sl : Slot) (s : State) (x : Group) : Effect :=
  scaTyped sl s x (bfi (tyW sl) (s.sbits x sl sl.a) (s.sbits x sl sl.b) (s.ssrc x sl sl.c))

/-- SBFI (R128). -/
def execSbfi (sl : Slot) : State → Host.Outcome State Fault Refusal :=
  runSlot (fScalar false 3 sl) (.fixed 2) sl (sbfiBody sl)

/-- The address sum of SLEA: a shift by 64 or more leaves B (R129). -/
def sleaBody (sl : Slot) (s : State) (x : Group) : Effect :=
  let c := (s.ssrc x sl sl.c).toNat
  scaWord sl s x ((if c < 64 then s.ssrc x sl sl.a <<< c else 0) + s.ssrc x sl sl.b)

/-- SLEA (R129). -/
def execSlea (sl : Slot) : State → Host.Outcome State Fault Refusal :=
  runSlot (fSlea sl) (.fixed 2) sl (sleaBody sl)

/-- The truth table of PLOP on one bit (kind sp) or 32 bits (kind vp) (R130). -/
def plopBody (sl : Slot) (s : State) (x : Group) : Effect :=
  let w := if plopKinds sl = [.vp, .zero] then 32 else 1
  scaWord sl s x (BitVec.ofNat 64
    (lop3 (immN sl) w (s.ssrc x sl sl.a).toNat (s.ssrc x sl sl.b).toNat (s.ssrc x sl sl.c).toNat))

/-- PLOP (R130). -/
def execPlop (sl : Slot) : State → Host.Outcome State Fault Refusal :=
  runSlot (fPlop sl) (.fixed 2) sl (plopBody sl)

/-- The absolute value of SABS (R122). -/
def sabsBody (sl : Slot) (s : State) (x : Group) : Effect :=
  scaTyped sl s x (wrapOrSat (sl.md.getLsbD 0) (tyW sl) (tyS sl) (sint s x sl sl.a).natAbs)

/-- SABS (R122). -/
def execSabs (sl : Slot) : State → Host.Outcome State Fault Refusal :=
  runSlot (fSabs sl) (.fixed 2) sl (sabsBody sl)

/-- The bit reversal of SBREV (R121). -/
def sbrevBody (sl : Slot) (s : State) (x : Group) : Effect :=
  scaTyped sl s x (brev (tyW sl) (s.sbits x sl sl.a))

/-- SBREV (R121). -/
def execSbrev (sl : Slot) : State → Host.Outcome State Fault Refusal :=
  runSlot (fScalar false 1 sl) (.fixed 2) sl (sbrevBody sl)

end Sys2Proof.Machine
end

