-- ==== Sys2Proof/Machine/Dispatch.lean ====
section
/-! DEFINITION. One arm for each row of the spec's table of operations and events: a direct call of its
meaning. -/

namespace Sys2Proof.Machine

def exec (i : Instr) (s : State) : Host.Outcome State Fault Refusal :=
  match i with
  | .nop sl => Sys2Proof.Machine.execNop sl s
  | .bra sl => Sys2Proof.Machine.execBra sl s
  | .brx sl => Sys2Proof.Machine.execBrx sl s
  | .call sl => Sys2Proof.Machine.execCall sl s
  | .callx sl => Sys2Proof.Machine.execCallx sl s
  | .loop sl => Sys2Proof.Machine.execLoop sl s
  | .brany sl => Sys2Proof.Machine.execBrany sl s
  | .brall sl => Sys2Proof.Machine.execBrall sl s
  | .exit sl => Sys2Proof.Machine.execExit sl s
  | .lexit sl => Sys2Proof.Machine.execLexit sl s
  | .yield sl => Sys2Proof.Machine.execYield sl s
  | .mpush sl => Sys2Proof.Machine.execMpush sl s
  | .melse sl => Sys2Proof.Machine.execMelse sl s
  | .mpop sl => Sys2Proof.Machine.execMpop sl s
  | .mget sl => Sys2Proof.Machine.execMget sl s
  | .mset sl => Sys2Proof.Machine.execMset sl s
  | .setfmt sl => Sys2Proof.Machine.execSetfmt sl s
  | .getfmt sl => Sys2Proof.Machine.execGetfmt sl s
  | .sadd sl => Sys2Proof.Machine.execSadd sl s
  | .ssub sl => Sys2Proof.Machine.execSsub sl s
  | .smul sl => Sys2Proof.Machine.execSmul sl s
  | .smulh sl => Sys2Proof.Machine.execSmulh sl s
  | .sdiv sl => Sys2Proof.Machine.execSdiv sl s
  | .srem sl => Sys2Proof.Machine.execSrem sl s
  | .sand sl => Sys2Proof.Machine.execSand sl s
  | .sor sl => Sys2Proof.Machine.execSor sl s
  | .sxor sl => Sys2Proof.Machine.execSxor sl s
  | .sandn sl => Sys2Proof.Machine.execSandn sl s
  | .sshl sl => Sys2Proof.Machine.execSshl sl s
  | .sshr sl => Sys2Proof.Machine.execSshr sl s
  | .ssar sl => Sys2Proof.Machine.execSsar sl s
  | .srot sl => Sys2Proof.Machine.execSrot sl s
  | .smin sl => Sys2Proof.Machine.execSmin sl s
  | .smax sl => Sys2Proof.Machine.execSmax sl s
  | .scmp sl => Sys2Proof.Machine.execScmp sl s
  | .ssel sl => Sys2Proof.Machine.execSsel sl s
  | .smov sl => Sys2Proof.Machine.execSmov sl s
  | .spopc sl => Sys2Proof.Machine.execSpopc sl s
  | .sclz sl => Sys2Proof.Machine.execSclz sl s
  | .sctz sl => Sys2Proof.Machine.execSctz sl s
  | .sbfe sl => Sys2Proof.Machine.execSbfe sl s
  | .sbfi sl => Sys2Proof.Machine.execSbfi sl s
  | .slea sl => Sys2Proof.Machine.execSlea sl s
  | .plop sl => Sys2Proof.Machine.execPlop sl s
  | .sabs sl => Sys2Proof.Machine.execSabs sl s
  | .sbrev sl => Sys2Proof.Machine.execSbrev sl s
  | .vadd sl => Sys2Proof.Machine.execVadd sl s
  | .vsub sl => Sys2Proof.Machine.execVsub sl s
  | .vmul sl => Sys2Proof.Machine.execVmul sl s
  | .vmulh sl => Sys2Proof.Machine.execVmulh sl s
  | .vmad sl => Sys2Proof.Machine.execVmad sl s
  | .vsad sl => Sys2Proof.Machine.execVsad sl s
  | .vdot4 sl => Sys2Proof.Machine.execVdot4 sl s
  | .vmin sl => Sys2Proof.Machine.execVmin sl s
  | .vmax sl => Sys2Proof.Machine.execVmax sl s
  | .vabs sl => Sys2Proof.Machine.execVabs sl s
  | .vneg sl => Sys2Proof.Machine.execVneg sl s
  | .vavg sl => Sys2Proof.Machine.execVavg sl s
  | .vand sl => Sys2Proof.Machine.execVand sl s
  | .vor sl => Sys2Proof.Machine.execVor sl s
  | .vxor sl => Sys2Proof.Machine.execVxor sl s
  | .vandn sl => Sys2Proof.Machine.execVandn sl s
  | .vnot sl => Sys2Proof.Machine.execVnot sl s
  | .vlop3 sl => Sys2Proof.Machine.execVlop3 sl s
  | .vshl sl => Sys2Proof.Machine.execVshl sl s
  | .vshr sl => Sys2Proof.Machine.execVshr sl s
  | .vsar sl => Sys2Proof.Machine.execVsar sl s
  | .vrol sl => Sys2Proof.Machine.execVrol sl s
  | .vror sl => Sys2Proof.Machine.execVror sl s
  | .vfshl sl => Sys2Proof.Machine.execVfshl sl s
  | .vcmp sl => Sys2Proof.Machine.execVcmp sl s
  | .vsel sl => Sys2Proof.Machine.execVsel sl s
  | .vpopc sl => Sys2Proof.Machine.execVpopc sl s
  | .vclz sl => Sys2Proof.Machine.execVclz sl s
  | .vctz sl => Sys2Proof.Machine.execVctz sl s
  | .vbrev sl => Sys2Proof.Machine.execVbrev sl s
  | .vbfe sl => Sys2Proof.Machine.execVbfe sl s
  | .vbfi sl => Sys2Proof.Machine.execVbfi sl s
  | .vprmb sl => Sys2Proof.Machine.execVprmb sl s
  | .vwiden sl => Sys2Proof.Machine.execVwiden sl s
  | .vnarrow sl => Sys2Proof.Machine.execVnarrow sl s
  | .vpack sl => Sys2Proof.Machine.execVpack sl s
  | .vmov sl => Sys2Proof.Machine.execVmov sl s
  | .vdiv sl => Sys2Proof.Machine.execVdiv sl s
  | .vrem sl => Sys2Proof.Machine.execVrem sl s
  | .fadd sl => Sys2Proof.Machine.execFadd sl s
  | .fsub sl => Sys2Proof.Machine.execFsub sl s
  | .fmul sl => Sys2Proof.Machine.execFmul sl s
  | .ffma sl => Sys2Proof.Machine.execFfma sl s
  | .fmin sl => Sys2Proof.Machine.execFmin sl s
  | .fmax sl => Sys2Proof.Machine.execFmax sl s
  | .fabs sl => Sys2Proof.Machine.execFabs sl s
  | .fneg sl => Sys2Proof.Machine.execFneg sl s
  | .fcmp sl => Sys2Proof.Machine.execFcmp sl s
  | .fclass sl => Sys2Proof.Machine.execFclass sl s
  | .frnd sl => Sys2Proof.Machine.execFrnd sl s
  | .fscale sl => Sys2Proof.Machine.execFscale sl s
  | .fdot2 sl => Sys2Proof.Machine.execFdot2 sl s
  | .frcp sl => Sys2Proof.Machine.execFrcp sl s
  | .frsq sl => Sys2Proof.Machine.execFrsq sl s
  | .fsqrt sl => Sys2Proof.Machine.execFsqrt sl s
  | .fexp2 sl => Sys2Proof.Machine.execFexp2 sl s
  | .flog2 sl => Sys2Proof.Machine.execFlog2 sl s
  | .fsin sl => Sys2Proof.Machine.execFsin sl s
  | .fcos sl => Sys2Proof.Machine.execFcos sl s
  | .ftanh sl => Sys2Proof.Machine.execFtanh sl s
  | .fsigm sl => Sys2Proof.Machine.execFsigm sl s
  | .fcvt sl => Sys2Proof.Machine.execFcvt sl s
  | .fcvti sl => Sys2Proof.Machine.execFcvti sl s
  | .fqsum sl => Sys2Proof.Machine.execFqsum sl s
  | .shfl sl => Sys2Proof.Machine.execShfl sl s
  | .vote sl => Sys2Proof.Machine.execVote sl s
  | .lred sl => Sys2Proof.Machine.execLred sl s
  | .lscan sl => Sys2Proof.Machine.execLscan sl s
  | .matchLanes sl => Sys2Proof.Machine.execMatchLanes sl s
  | .vget sl => Sys2Proof.Machine.execVget sl s
  | .vset sl => Sys2Proof.Machine.execVset sl s
  | .xsend sl => Sys2Proof.Machine.execXsend sl s
  | .xrecv sl => Sys2Proof.Machine.execXrecv sl s
  | .xprobe sl => Sys2Proof.Machine.execXprobe sl s
  | .bininit sl => Sys2Proof.Machine.execBininit sl s
  | .susp sl => Sys2Proof.Machine.execSusp sl s
  | .resume sl => Sys2Proof.Machine.execResume sl s
  | .wakeRows sl => Sys2Proof.Machine.execWakeRows sl s
  | .wakeLanes sl => Sys2Proof.Machine.execWakeLanes sl s
  | .wakeAll sl => Sys2Proof.Machine.execWakeAll sl s
  | .binq sl => Sys2Proof.Machine.execBinq sl s
  | .fxform sl => Sys2Proof.Machine.execFxform sl s
  | .bindropRows sl => Sys2Proof.Machine.execBindropRows sl s
  | .bindropSet sl => Sys2Proof.Machine.execBindropSet sl s
  | .ld sl => Sys2Proof.Machine.execLd sl s
  | .st sl => Sys2Proof.Machine.execSt sl s
  | .ldx sl => Sys2Proof.Machine.execLdx sl s
  | .stx sl => Sys2Proof.Machine.execStx sl s
  | .lds sl => Sys2Proof.Machine.execLds sl s
  | .sts sl => Sys2Proof.Machine.execSts sl s
  | .ldb sl => Sys2Proof.Machine.execLdb sl s
  | .stb sl => Sys2Proof.Machine.execStb sl s
  | .atom sl => Sys2Proof.Machine.execAtom sl s
  | .atoms sl => Sys2Proof.Machine.execAtoms sl s
  | .red sl => Sys2Proof.Machine.execRed sl s
  | .fence sl => Sys2Proof.Machine.execFence sl s
  | .pref sl => Sys2Proof.Machine.execPref sl s
  | .colcln sl => Sys2Proof.Machine.execColcln sl s
  | .colinv sl => Sys2Proof.Machine.execColinv sl s
  | .cctl sl => Sys2Proof.Machine.execCctl sl s
  | .waitp sl => Sys2Proof.Machine.execWaitp sl s
  | .boinit sl => Sys2Proof.Machine.execBoinit sl s
  | .boarr sl => Sys2Proof.Machine.execBoarr sl s
  | .bojoin sl => Sys2Proof.Machine.execBojoin sl s
  | .boleave sl => Sys2Proof.Machine.execBoleave sl s
  | .lbar sl => Sys2Proof.Machine.execLbar sl s
  | .enq sl => Sys2Proof.Machine.execEnq sl s
  | .deq sl => Sys2Proof.Machine.execDeq sl s
  | .cpy sl => Sys2Proof.Machine.execCpy sl s
  | .cpy2 sl => Sys2Proof.Machine.execCpy2 sl s
  | .gath sl => Sys2Proof.Machine.execGath sl s
  | .scat sl => Sys2Proof.Machine.execScat sl s
  | .coll sl => Sys2Proof.Machine.execColl sl s
  | .afence sl => Sys2Proof.Machine.execAfence sl s
  | .post sl => Sys2Proof.Machine.execPost sl s
  | .tierhNeed sl => Sys2Proof.Machine.execTierhNeed sl s
  | .tierhCold sl => Sys2Proof.Machine.execTierhCold sl s
  | .mma sl => Sys2Proof.Machine.execMma sl s
  | .mmas sl => Sys2Proof.Machine.execMmas sl s
  | .mmat sl => Sys2Proof.Machine.execMmat sl s
  | .accz sl => Sys2Proof.Machine.execAccz sl s
  | .accld sl => Sys2Proof.Machine.execAccld sl s
  | .accst sl => Sys2Proof.Machine.execAccst sl s
  | .accrd sl => Sys2Proof.Machine.execAccrd sl s
  | .accwr sl => Sys2Proof.Machine.execAccwr sl s
  | .accalloc sl => Sys2Proof.Machine.execAccalloc sl s
  | .accallocStat sl => Sys2Proof.Machine.execAccallocStat sl s
  | .accfree sl => Sys2Proof.Machine.execAccfree sl s
  | .sppackRows sl => Sys2Proof.Machine.execSppackRows sl s
  | .sppackCols sl => Sys2Proof.Machine.execSppackCols sl s
  | .trap sl => Sys2Proof.Machine.execTrap sl s
  | .rtt sl => Sys2Proof.Machine.execRtt sl s
  | .rttNext sl => Sys2Proof.Machine.execRttNext sl s
  | .rttTo sl => Sys2Proof.Machine.execRttTo sl s
  | .srget sl => Sys2Proof.Machine.execSrget sl s
  | .srset sl => Sys2Proof.Machine.execSrset sl s
  | .hget sl => Sys2Proof.Machine.execHget sl s
  | .hset sl => Sys2Proof.Machine.execHset sl s
  | .pdone sl => Sys2Proof.Machine.execPdone sl s
  | .boost sl => Sys2Proof.Machine.execBoost sl s
  | .replayRetry sl => Sys2Proof.Machine.execReplayRetry sl s
  | .replayKill sl => Sys2Proof.Machine.execReplayKill sl s
  | .meas sl => Sys2Proof.Machine.execMeas sl s
  | .cancel sl => Sys2Proof.Machine.execCancel sl s
  | .variableResultWrite g k => Sys2Proof.Machine.execVariableResultWrite g k s
  | .delayedTrap g => Sys2Proof.Machine.execDelayedTrap g s
  | .trapEntry g => Sys2Proof.Machine.execTrapEntry g s
  | .waitpWake g => Sys2Proof.Machine.execWaitpWake g s
  | .waitpTimeout g => Sys2Proof.Machine.execWaitpTimeout g s
  | .engineStart me => Sys2Proof.Machine.execEngineStart me s
  | .matrixOpComplete me => Sys2Proof.Machine.execMatrixOpComplete me s
  | .copyUnitLand op => Sys2Proof.Machine.execCopyUnitLand op s
  | .asyncOpComplete op => Sys2Proof.Machine.execAsyncOpComplete op s
  | .enginePageFault op => Sys2Proof.Machine.execEnginePageFault op s
  | .preemptionRequest fn ctx => Sys2Proof.Machine.execPreemptionRequest fn ctx s
  | .forcedSave g => Sys2Proof.Machine.execForcedSave g s
  | .placementPass => Sys2Proof.Machine.execPlacementPass s
  | .queuePidxWake fn q => Sys2Proof.Machine.execQueuePidxWake fn q s
  | .packetNop fn q => Sys2Proof.Machine.execPacketNop fn q s
  | .packetLaunch fn q => Sys2Proof.Machine.execPacketLaunch fn q s
  | .packetBarrier fn q => Sys2Proof.Machine.execPacketBarrier fn q s
  | .packetCopy fn q => Sys2Proof.Machine.execPacketCopy fn q s
  | .packetSignal fn q => Sys2Proof.Machine.execPacketSignal fn q s
  | .packetGraph fn q => Sys2Proof.Machine.execPacketGraph fn q s
  | .packetComplete => Sys2Proof.Machine.execPacketComplete s
  | .graphNodeStart graph node => Sys2Proof.Machine.execGraphNodeStart graph node s
  | .cannoliSpillMove => Sys2Proof.Machine.execCannoliSpillMove s
  | .bucketRefill => Sys2Proof.Machine.execBucketRefill s
  | .pageWalk die fn ctx space va kind => Sys2Proof.Machine.execPageWalk die fn ctx space va kind s
  | .invPages => Sys2Proof.Machine.execInvPages s
  | .invContext => Sys2Proof.Machine.execInvContext s
  | .invFrames => Sys2Proof.Machine.execInvFrames s
  | .invTdmask => Sys2Proof.Machine.execInvTdmask s
  | .moveUp => Sys2Proof.Machine.execMoveUp s
  | .moveDown => Sys2Proof.Machine.execMoveDown s
  | .pageMove => Sys2Proof.Machine.execPageMove s
  | .quantumEnd => Sys2Proof.Machine.execQuantumEnd s
  | .incomingResident => Sys2Proof.Machine.execIncomingResident s
  | .tickBoundary act metered => Sys2Proof.Machine.execTickBoundary act metered s
  | .restEnd => Sys2Proof.Machine.execRestEnd s
  | .boostEnd => Sys2Proof.Machine.execBoostEnd s
  | .retirePreempt => Sys2Proof.Machine.execRetirePreempt s
  | .energyWindowStart => Sys2Proof.Machine.execEnergyWindowStart s
  | .checkpoint => Sys2Proof.Machine.execCheckpoint s
  | .temperatureSample samples => Sys2Proof.Machine.execTemperatureSample samples s
  | .marginMeasure margins => Sys2Proof.Machine.execMarginMeasure margins s
  | .eolhPredict => Sys2Proof.Machine.execEolhPredict s
  | .targethWrite v => Sys2Proof.Machine.execTargethWrite v s
  | .ebudgetWrite fn v => Sys2Proof.Machine.execEbudgetWrite fn v s
  | .vbWarning die bus => Sys2Proof.Machine.execVbWarning die bus s
  | .vbFailure die bus => Sys2Proof.Machine.execVbFailure die bus s
  | .vbRepairDone die bus => Sys2Proof.Machine.execVbRepairDone die bus s
  | .vbDrainDone die bus => Sys2Proof.Machine.execVbDrainDone die bus s
  | .dieLoss die => Sys2Proof.Machine.execDieLoss die s
  | .cxlMemAccess wr pa data => Sys2Proof.Machine.execCxlMemAccess wr pa data s
  | .backInvalidate rc => Sys2Proof.Machine.execBackInvalidate rc s
  | .queueEnWrite fn q rcb ctx => Sys2Proof.Machine.execQueueEnWrite fn q rcb ctx s
  | .queueErrClear fn q => Sys2Proof.Machine.execQueueErrClear fn q s
  | .pcreate => Sys2Proof.Machine.execPcreate s
  | .presize => Sys2Proof.Machine.execPresize s
  | .pdestroy => Sys2Proof.Machine.execPdestroy s
  | .quota => Sys2Proof.Machine.execQuota s
  | .bucket => Sys2Proof.Machine.execBucket s
  | .wcreate => Sys2Proof.Machine.execWcreate s
  | .wdestroy => Sys2Proof.Machine.execWdestroy s
  | .ccreate => Sys2Proof.Machine.execCcreate s
  | .cdestroy => Sys2Proof.Machine.execCdestroy s
  | .qreset => Sys2Proof.Machine.execQreset s
  | .creset => Sys2Proof.Machine.execCreset s
  | .flr => Sys2Proof.Machine.execFlr s
  | .bias => Sys2Proof.Machine.execBias s
  | .pbset => Sys2Proof.Machine.execPbset s
  | .pdset => Sys2Proof.Machine.execPdset s
  | .pcieFlr fn => Sys2Proof.Machine.execPcieFlr fn s
  | .resetEscalation => Sys2Proof.Machine.execResetEscalation s
  | .devrst => Sys2Proof.Machine.execDevrst s
  | .recgo sigOk => Sys2Proof.Machine.execRecgo sigOk s
  | .attestationGo => Sys2Proof.Machine.execAttestationGo s
  | .attestationDone => Sys2Proof.Machine.execAttestationDone s
  | .attestationDoneClear => Sys2Proof.Machine.execAttestationDoneClear s
  | .powerGood => Sys2Proof.Machine.execPowerGood s
  | .bootComplete sigOk fw0 fw1 => Sys2Proof.Machine.execBootComplete sigOk fw0 fw1 s
  | .calibrateComplete c => Sys2Proof.Machine.execCalibrateComplete c s
  | .zeroingComplete ok => Sys2Proof.Machine.execZeroingComplete ok s
  | .selfidWrite v => Sys2Proof.Machine.execSelfidWrite v s
  | .routeWrite p v => Sys2Proof.Machine.execRouteWrite p v s
  | .linkTrained link farid active => Sys2Proof.Machine.execLinkTrained link farid active s
  | .flitReceive link f => Sys2Proof.Machine.execFlitReceive link f s
  | .nakReceive link seq => Sys2Proof.Machine.execNakReceive link seq s
  | .darkWavelengthDetect link dark => Sys2Proof.Machine.execDarkWavelengthDetect link dark s
  | .restripeDone link => Sys2Proof.Machine.execRestripeDone link s
  | .linkLost link => Sys2Proof.Machine.execLinkLost link s
  | .peerRequestArrive r => Sys2Proof.Machine.execPeerRequestArrive r s
  | .peerResponseArrive req data => Sys2Proof.Machine.execPeerResponseArrive req data s
  | .collMatch op others => Sys2Proof.Machine.execCollMatch op others s
  | .collContribLand op line port data => Sys2Proof.Machine.execCollContribLand op line port data s
  | .registerWrite fn off v => Sys2Proof.Machine.execRegisterWrite fn off v s
  | .nonInstructionEncoding opc sl => Sys2Proof.Machine.execNonInstructionEncoding opc sl s
  | .orderlyPowerDown busy metered => Sys2Proof.Machine.execOrderlyPowerDown busy metered s
  | .powerLoss => Sys2Proof.Machine.execPowerLoss s

end Sys2Proof.Machine
end

