-- ==== Sys2Proof/Machine/Turns.lean ====
section
/-! DEFINITION. The turns of groups, agents and inputs, what a step asks of peers before it happens, and the default
order among the turns. -/

namespace Sys2Proof.Machine

/-! ### Steps that need what peers hold (R305, R315, R435) -/

/-- A step has asked peers and waits for an answer. -/
def State.isAsking (s : State) (a : Asker) : Bool := s.peerOut.any fun o => decide (o.asker = a)

/-- The requests of the hub's own writes leave for the peers. -/
def State.hubSent (s : State) : State := s.toPeers.foldl State.peerSend { s with toPeers := [] }

/-- The bytes at a peer that a request reaches, by number: a ring's element with its control block. -/
def PeerMsg.spans (m : PeerMsg) : List (Nat × Nat) :=
  if m.kind = 5 then []
  else (peerLoc m.peer m.pa, max 1 m.n) ::
    (if m.kind = 4 then [(peerLoc m.peer (ofBytes ((m.data.drop 8).take 8)), max 1 m.n)] else [])

/-- A step that reads a peer's page to move it still has that to do. -/
def State.movesOn (s : State) (a : Asker) : Bool :=
  s.midway a && match a with
    | .step .pageMove => s.nextMove.isSome
    | .step .moveUp => decide (s.ringReqs 2 ≠ [])
    | .step .moveDown => decide (s.ringReqs 2 ≠ [])
    | a => s.alive a

/-- The pages of peers that steps other than `a` are moving. -/
def State.pagesLocked (s : State) (a : Asker) : List (Nat × Nat) :=
  (s.moving.filter fun e => decide (e.2.2 ≠ a) && s.movesOn e.2.2).map fun e => (e.1, e.2.1)

/-- A step from `s` to `t` would send a request to a page that another step is moving: it is held until the page has moved
(R324). -/
def State.crosses (s t : State) (a : Asker) : Bool :=
  (s.pagesLocked a).any fun e =>
    (t.wants ++ t.toPeers ++ t.peerOut.filter fun o => decide (s.tick ≤ o.id)).any fun o =>
      o.msg.spans.any fun x => decide (x.1 < e.1 + e.2) && decide (e.1 < x.1 + x.2)

/-- A step that needs nothing more has happened: what it was told and the places and pages it held are let go, and what it
writes at peers leaves. -/
def State.asked (s : State) (a : Asker) : State :=
  let moving := s.moving.filter fun e => decide (e.2.2 ≠ a)
  { s with
    asker := .none, got := s.got.filter fun p => decide (p.asker ≠ a)
    locks := s.locks.filter fun e => decide (e.2 ≠ a)
    moving := moving, heldBack := if moving = [] then [] else s.heldBack }.hubSent

/-- A step that waits: of what it did, only its requests are sent, and the places and pages it has begun with are its. -/
def State.awaiting (keep t : State) : State := t.wants.foldl State.peerSend { keep with locks := t.locks, moving := t.moving }

/-- An input or an event that a move of a page holds back. -/
def State.holdBack (s : State) (a : Asker) : State :=
  match a with | .step i => { s with heldBack := i :: s.heldBack } | _ => s

/-- Runs a step for an asker. Where it needs what peers hold, only its requests are sent, and it waits: `keep` is the
state that waits, and `run` the state in which it happens. -/
def State.asking (keep run : State) (a : Asker) (f : State → Host.Outcome State Fault Refusal) (wait : State → State) :
    Host.Outcome State Fault Refusal :=
  if keep.isAsking a then .next (wait keep)
  else
    match f { run with asker := a, wants := [] } with
    | .next t =>
      .next (if keep.crosses t a then wait (keep.holdBack a) else if t.wants = [] then t.asked a else wait (keep.awaiting t))
    | r => r

/-! ### Groups -/

/-- What a group's turn does: a pre-emption request or a delayed trap that waits for it, or the slot at its PC, decoded and
run. A slot that has asked peers ends first: they may have performed it (R259, R444). -/
def runGroup (g : Nat) (s : State) : Host.Outcome State Fault Refusal :=
  let mid := s.midway (s.slotAsker g)
  if (s.grpD g).due ∧ ¬ mid then .next ((s.updGrp g fun x => { x with due := false }).preemptGroup g)
  else if (s.grpD g).delayed ≠ [] ∧ ¬ mid then exec (.delayedTrap g) s
  else
    let r := s.nextSlot g
    match r.2 with
    | .error (e, pc) => .next (r.1.raise g e pc)
    | .ok w => exec (decodeSlot (unpack w).1 (unpack w).2) { r.1.noteIssue g with cur := g }

/-- A cycle passes in which a group does not issue. -/
def State.passTurn (s : State) (g : Nat) : State :=
  s.passCycles (s.grpD g).core 1

/-- A group whose slot has not been tried. -/
def State.unblocked (s : State) (g : Nat) : State :=
  if (s.grpD g).blocked then s.updGrp g fun x => { x with blocked := false } else s

/-- A group's turn. One that may not issue does nothing; one whose slot is interlocked, waits for a token or is stalled
lets a cycle pass (R41, R87, R350). -/
def stepGroup (s : State) (g : Nat) : Host.Outcome State Fault Refusal :=
  match s.grp? g with
  | none => .next s
  | some x =>
    if ¬ x.mayIssue then .next s
    else
      let u := s.unblocked g
      match u.asking u (u.slotAsker g) (runGroup g) (fun t => t.passTurn g) with
      | .next t =>
        let t1 := if (t.grpD g).blocked then u.passTurn g else t
        .next (u.restClocks t1 x.core)
      | r => r

/-- A group is ready (R41): its turn would issue. -/
def State.readyGrp (s : State) (g : Nat) : Bool :=
  let u := s.unblocked g
  (match s.grp? g with | some x => x.mayIssue | none => false) && !u.isAsking (u.slotAsker g) &&
    match runGroup g { u with asker := u.slotAsker g, wants := [] } with
    | .next t => (!(t.grpD g).blocked || !t.wants.isEmpty) && !u.crosses t (u.slotAsker g)
    | _ => true

/-! ### Inputs and agents -/

/-- An input or an event that waits: for a peer, for a move of a page, for an operation that is under way on a place that a
peer's request reaches, or for a management request of the function to be reset (R188, R217, R324, R420). -/
def State.stays (s : State) (i : Instr) : Bool :=
  s.isAsking (.step i) || (s.heldBack.contains i && decide (s.pagesLocked (.step i) ≠ []))
    || match i with
      | .peerRequestArrive r => s.reqHeld r
      | .pcieFlr fn => s.fnBusy fn
      | _ => false

/-- The peer whose requests an input is one of: they are performed in order (R430). -/
def peerOf (i : Instr) : Option Nat := match i with | .peerRequestArrive r => some r.peer | _ => none

/-- The oldest input that does not wait, nor follows one of the same peer that does, and the others. -/
def takeInput (s : State) (ps : List Nat) : List Instr → Option (Instr × List Instr)
  | [] => none
  | i :: r =>
    let p := peerOf i
    if s.stays i || p.any ps.contains then (takeInput s (p.toList ++ ps) r).map fun q => (q.1, i :: q.2) else some (i, r)

/-- The input that happens next, what flits have brought first, with the state in which it does. -/
def State.nextInput (s : State) : Option (Instr × State) :=
  match takeInput s [] s.brought with
  | some (i, r) => some (i, { s with brought := r })
  | none => (takeInput s (s.brought.filterMap peerOf) s.inputs).map fun p => (p.1, { s with inputs := p.2 })

/-- The oldest input happens. -/
def stepInput (s : State) : Host.Outcome State Fault Refusal :=
  match s.nextInput with
  | none => .next s.idle
  | some (i, run) => s.asking run (.step i) (exec i) id

/-- An event of the module's own agents happens. -/
def stepEvent (s : State) (i : Instr) : Host.Outcome State Fault Refusal := s.asking s (.step i) (exec i) id

/-- The events that may happen now. -/
def State.free (s : State) (l : List Instr) : List Instr := l.filter fun i => !s.stays i

/-- The `i`-th enabled step of the module's own agents. -/
def stepAgent (s : State) (i : Nat) : Host.Outcome State Fault Refusal :=
  match (s.free (s.agents ++ s.idlers))[i]? with
  | some e => stepEvent s e
  | none => .next s

/-! ### The default order -/

/-- The default order: the oldest input, then the module's own agents, then the ready groups, then what waits until
nothing else moves. -/
def stepDefault (s : State) : Host.Outcome State Fault Refusal :=
  if s.nextInput.isSome then stepInput s
  else
    match s.free s.agents with
    | e :: _ => stepEvent s e
    | [] =>
      match s.pick s.readyGrp with
      | some g => stepGroup s g
      | none =>
        match s.free s.idlers with
        | e :: _ => stepEvent s e
        | [] => .next s.idle

end Sys2Proof.Machine
end

