-- ==== Sys2Proof/Machine/Step.lean ====
section
/-! DEFINITION. One step of the machine: whose turn it is, and the one instruction or event that runs. -/

namespace Sys2Proof.Machine

/-- What the hub and the memory controllers do before a step: records go where there is room, failures are reported, and
a storage write of an alias store may land. -/
def State.settle (s : State) : State := s.settleRecs.settleFails.fmtSettle

/-- One step. -/
def step (s : State) : Host.Outcome State Fault Refusal :=
  let s0 := s.settle
  match s0.turns with
  | .grp g :: r => stepGroup { s0 with turns := r } g
  | .agent i :: r => stepAgent { s0 with turns := r } i
  | .input :: r => stepInput { s0 with turns := r }
  | [] => stepDefault s0

/-- The state with the instruction's 16 bytes where `step` fetches next: at the slot of the group whose turn it
is, or, where no group can fetch, at the slot of a group placed for it. -/
def State.withFetchWord (s : State) (nbits w : Nat) : State :=
  let bytes := toBytes 16 (w % 2 ^ nbits)
  let g := match s.turns with | .grp g :: _ => g | _ => s.cur
  match s.fetchLoc g with
  | some l => { s.wrBytes l bytes with turns := [.grp g] }
  | none => { s.withGroup.wrBytes 0x10010 bytes with turns := [.grp 1] }

end Sys2Proof.Machine
end

