-- ==== Sys2Proof/Safety.lean ====
section
/-! DEFINITION. The terms in which claims speak of a run: the invariants, when the current group's slot issues,
the state in which its own effect runs, and what a step leaves unchanged. -/

namespace Sys2Proof

open Machine

/-- Memory is in its canonical form. -/
def MemOk (s : State) : Prop := Memory.wf s.mem = true

/-! ### Issuing -/

/-- The current group is `x`; its slot waits for nothing, and passes checks 1 to 6 of R96: decode, check mode
and the scalar guard. -/
structure Issues (s : State) (f : Form) (sl : Slot) (x : Group) : Prop where
  group : s.grp? s.cur = some x
  ready : x.ready f sl = true
  decodes : decodeTrap f x.gran x.scount x.trapMode sl = none
  clean : checkMode x (s.ctxD (s.wgD x.wg).fn (s.wgD x.wg).ctx).checkMode f sl = none
  guard : x.guard sl = true

/-- The state in which the slot's own effect runs: its token waits cover the results they wait for (R88). -/
def Machine.State.atIssue (s : State) (sl : Slot) : State := s.updGrp s.cur fun x => x.cover sl

/-- The slot completes: `ws` are the results of its effect on `t`, and it retires (R85 to R88). -/
def retired (s t : State) (sl : Slot) (lat : Machine.Lat) (ws : List RegWrite) : Host.Outcome State Fault Refusal :=
  .next (t.finish s.cur sl lat ws false)

/-- The slot completes and changes nothing but the register that `ws` writes. -/
def writes (s : State) (sl : Slot) (lat : Machine.Lat) (ws : List RegWrite) : Host.Outcome State Fault Refusal :=
  retired s (s.atIssue sl) sl lat ws

/-- The slot traps with cause, TRAPADDR and TRAPINFO at itself, and has no other effect. -/
def traps (s : State) (sl : Slot) (x : Group) (r : Raise) : Host.Outcome State Fault Refusal :=
  .next ((s.atIssue sl).raise s.cur r x.pc)

/-! ### What a step leaves unchanged -/

/-- Every byte reads as before: at the hub, and as each die holds it in its columns. -/
structure SameBytes (s t : State) : Prop where
  hub : ∀ l, t.rdByte l = s.rdByte l
  dirty : ∀ die l, t.dieDirty die l = s.dieDirty die l

/-- The other groups are as before, but for a pre-emption budget and a STALL that run. -/
def SameOthers (s t : State) (g : Nat) : Prop :=
  ∀ h y, h ≠ g → s.grp? h = some y → ∃ b n, t.grp? h = some { y with budget := b, stall := n }

/-- Group `g` is as `x` before, but for its registers, queue and predicates, its PC, its results on the way,
and its place in the issue order: ACT, LIVE, FMT, KC, MSTK, the block, the joined barriers and the trap
registers are unchanged. -/
def SameControl (x y : Group) : Prop :=
  { y with
    pc := x.pc, sregs := x.sregs, vregs := x.vregs, queue := x.queue, sps := x.sps, vps := x.vps
    pend := x.pend, tok1 := x.tok1, tok2 := x.tok2, producers := x.producers, nextId := x.nextId
    wait := x.wait, yielded := x.yielded, budget := x.budget, stall := x.stall } = x

/-- Everything but groups, the cores' clocks and the trap banks is as before. -/
def SameUnits (s t : State) : Prop :=
  { t with groups := s.groups, cores := s.cores, banks := s.banks, draw := s.draw } = s
    ∧ ∀ c, ∃ n, t.coreD c = { s.coreD c with cycle := n }

/-- What a slot that writes only registers leaves: it stands at the next slot, and every register outside
`ds` reads as before, `ds` naming the destination and, for a push, the whole queue. -/
structure RegFrame (s t : State) (x : Group) (ds : List RegRef) : Prop where
  bytes : SameBytes s t
  others : SameOthers s t s.cur
  units : SameUnits s t
  banks : ∀ k, (k ≠ x.bankKey → t.bankD k = s.bankD k)
    ∧ ∃ h hs, t.bankD k = { s.bankD k with h := h, hs := hs }
  group : ∃ y, t.grp? s.cur = some y ∧ y.pc = x.pc + 16 ∧ SameControl x y
    ∧ (∀ r, r ∉ ds → t.readV y r = s.readV x r) ∧ ∀ r, r ∉ ds → t.readS y r = s.readS x r

/-- The places that a destination code names: `n` registers, or the queue for a push. -/
def destRefs (tm : Bool) (code : BitVec 10) (n : Nat) : List RegRef :=
  if isPush code then (List.range 16).map RegRef.q else (List.range n).filterMap fun i => dstRef tm code i

/-! ### Typed scalar and vector values -/

/-- A scalar source at the width of TY (R120). -/
def srcBits (s : State) (x : Group) (sl : Slot) (code : BitVec 10) : BitVec (tyW sl) :=
  (s.ssrc x sl code).setWidth (tyW sl)

/-- A pattern read with the signedness of TY. -/
def typedInt (sl : Slot) {w : Nat} (b : BitVec w) : Int := if tyS sl then b.toInt else b.toNat

/-- A pattern of any width extended to 64 bits by the signedness of TY (R120). -/
def widen (sl : Slot) {w : Nat} (b : BitVec w) : Word := if tyS sl then b.signExtend 64 else b.setWidth 64

/-- An exact integer as a `w`-bit pattern: its low bits, or with MOD[0] clamped to the range of TY (R122,
R133). -/
def fitted (sl : Slot) (w : Nat) (v : Int) : BitVec w :=
  if sl.md.getLsbD 0 then
    BitVec.ofInt w (if tyS sl then max (-2 ^ (w - 1)) (min v (2 ^ (w - 1) - 1)) else max 0 (min v (2 ^ w - 1)))
  else BitVec.ofInt w v

/-- Sub-element `k` of width `w` of a lane value (R18). -/
def elem (w k : Nat) (v : Word) : BitVec w := v.extractLsb' (w * k) w

end Sys2Proof
end

