-- ==== Sys2Proof/Certificates/Slice0/Obligations.lean ====
section
/-! DEFINITION. The statements for the provers, grouped by what they speak of: encoding, issue, traps, the
instruction families, the machine's own agents, and whole-machine invariants. -/

namespace Sys2Proof

open Machine

/-! ### Scalar arithmetic (R120 to R130) -/

/-- The number of leading places of a pattern that are zero, counted from the top. -/
def leadingZeros {w : Nat} (v : BitVec w) : Nat := ((List.range w).takeWhile fun i => !v.getMsbD i).length

/-- The number of trailing places of a pattern that are zero. -/
def trailingZeros {w : Nat} (v : BitVec w) : Nat := ((List.range w).takeWhile fun i => !v.getLsbD i).length

/-- The integer relation of a condition code (Table 4.7). -/
def condHolds (cc : Nat) (a b : Int) : Prop :=
  match cc with
  | 0 => a = b | 1 => a ≠ b | 2 => a < b | 3 => a ≤ b | 4 => a > b | _ => a ≥ b

/-- The position and length of a bit field: bits [7:0] and [15:8] of the control (R128). -/
def fieldPos (ctl : Word) : Nat := (ctl.extractLsb' 0 8).toNat
def fieldLen (ctl : Word) : Nat := (ctl.extractLsb' 8 8).toNat

end Sys2Proof

section

open Sys2Proof Sys2Proof.Machine

/-- R121 to R125: the typed results of the two-source scalar instructions, from the low bits of the sources. -/
def Obligations.SCALAR_ARITHMETIC_RESULTS : Prop :=
  ∀ (s : State) (x : Group) (sl : Slot),
    let w := tyW sl
    let A := srcBits s x sl sl.a
    let B := srcBits s x sl sl.b
    let a := typedInt sl A
    let b := typedInt sl B
    let out (r : BitVec w) := writes s sl (.fixed 2) (scaOut x.trapMode sl.d 0 (widen sl r))
    (Issues s (fScalar true 2 sl) sl x →
      exec (.sadd sl) s = out (fitted sl w (a + b)) ∧ exec (.ssub sl) s = out (fitted sl w (a - b))
        ∧ exec (.smul sl) s = out (fitted sl w (a * b)))
    ∧ (Issues s (fScalar false 2 sl) sl x →
      exec (.smulh sl) s = out (BitVec.ofInt w (a * b / 2 ^ w))
        ∧ exec (.sdiv sl) s = out (if B = 0 then BitVec.allOnes w else if tyS sl then A.sdiv B else A / B)
        ∧ exec (.srem sl) s = out (if B = 0 then A else if tyS sl then A.srem B else A % B)
        ∧ exec (.smin sl) s = out (if a ≤ b then A else B) ∧ exec (.smax sl) s = out (if a ≤ b then B else A))
    ∧ (Issues s (fSabs sl) sl x → exec (.sabs sl) s = out (fitted sl w |a|))

/-- R121, R124: the logical results and shifts of the scalar instructions; a shift amount is not masked, a
rotate amount is. -/
def Obligations.SCALAR_LOGIC_RESULTS : Prop :=
  ∀ (s : State) (x : Group) (sl : Slot),
    let w := tyW sl
    let A := srcBits s x sl sl.a
    let B := srcBits s x sl sl.b
    let out (r : BitVec w) := writes s sl (.fixed 2) (scaOut x.trapMode sl.d 0 (widen sl r))
    (Issues s (fScalar false 2 sl) sl x →
      exec (.sand sl) s = out (A &&& B) ∧ exec (.sor sl) s = out (A ||| B) ∧ exec (.sxor sl) s = out (A ^^^ B)
        ∧ exec (.sandn sl) s = out (A &&& ~~~B) ∧ exec (.sshl sl) s = out (A <<< B.toNat)
        ∧ exec (.sshr sl) s = out (A >>> B.toNat) ∧ exec (.ssar sl) s = out (A.sshiftRight B.toNat))
    ∧ (Issues s (fSrot sl) sl x →
      exec (.srot sl) s = out (if sl.sub = 1 then A.rotateRight B.toNat else A.rotateLeft B.toNat))
    ∧ (Issues s (fScalar false 1 sl) sl x → exec (.sbrev sl) s = out A.reverse)

/-- R121, R126 to R130: the scalar instructions that count, compare, choose, move, and form addresses, whose
result is a plain 64-bit value. -/
def Obligations.SCALAR_WORD_RESULTS : Prop :=
  ∀ (s : State) (x : Group) (sl : Slot),
    let w := tyW sl
    let S (c : BitVec 10) := s.ssrc x sl c
    let A := srcBits s x sl sl.a
    let out (r : Word) := writes s sl (.fixed 2) (scaOut x.trapMode sl.d 0 r)
    (Issues s (fScalar false 1 sl) sl x →
      exec (.spopc sl) s = out (BitVec.ofNat 64 ((List.range w).countP fun i => A.getLsbD i))
        ∧ exec (.sclz sl) s = out (BitVec.ofNat 64 (leadingZeros A))
        ∧ exec (.sctz sl) s = out (BitVec.ofNat 64 (trailingZeros A)))
    ∧ (Issues s (fScmp sl) sl x →
      (condHolds sl.sub.toNat (typedInt sl A) (typedInt sl (srcBits s x sl sl.b)) → exec (.scmp sl) s = out 1)
        ∧ (¬ condHolds sl.sub.toNat (typedInt sl A) (typedInt sl (srcBits s x sl sl.b)) → exec (.scmp sl) s = out 0))
    ∧ (Issues s (fSsel sl) sl x → exec (.ssel sl) s = out (if S sl.a ≠ 0 then S sl.b else S sl.c))
    ∧ (Issues s (fSmov sl) sl x →
      exec (.smov sl) s = out (if sl.sub = 1 then (S sl.a <<< 32) ||| (S sl.d &&& 0xFFFFFFFF) else S sl.a))
    ∧ (Issues s (fSlea sl) sl x → exec (.slea sl) s = out (S sl.b + S sl.a <<< (S sl.c).toNat))
    ∧ (Issues s (fPlop sl) sl x → ∃ r : Word, exec (.plop sl) s = out r
      ∧ ∀ i, i < (if kindOf sl.d = some .sp then 1 else 32) →
        r.getLsbD i = sl.imm.getLsbD (4 * ((S sl.a).getLsbD i).toNat + 2 * ((S sl.b).getLsbD i).toNat
          + ((S sl.c).getLsbD i).toNat))

/-- R128: SBFE extracts a field, its top bit filling the places above it under a signed type; SBFI replaces
the field of B by the low bits of A. A field from the width up, or of length 0, is empty. -/
def Obligations.SCALAR_BIT_FIELDS : Prop :=
  ∀ (s : State) (x : Group) (sl : Slot),
    let w := tyW sl
    let A := srcBits s x sl sl.a
    let B := srcBits s x sl sl.b
    let out (r : BitVec w) := writes s sl (.fixed 2) (scaOut x.trapMode sl.d 0 (widen sl r))
    (Issues s (fScalar false 2 sl) sl x → ∃ r : BitVec w, exec (.sbfe sl) s = out r ∧
      let pos := fieldPos (s.ssrc x sl sl.b)
      let len := min (fieldLen (s.ssrc x sl sl.b)) (w - pos)
      ∀ i, i < w → r.getLsbD i =
        if len = 0 then false else if i < len then A.getLsbD (pos + i) else tyS sl && A.getLsbD (pos + len - 1))
    ∧ (Issues s (fScalar false 3 sl) sl x → ∃ r : BitVec w, exec (.sbfi sl) s = out r ∧
      let pos := fieldPos (s.ssrc x sl sl.c)
      let len := min (fieldLen (s.ssrc x sl sl.c)) (w - pos)
      ∀ i, i < w → r.getLsbD i = if pos ≤ i ∧ i < pos + len then A.getLsbD (i - pos) else B.getLsbD i)

end

namespace Sys2Proof

open Machine

/-! ### Vector integer and logic (R131 to R148) -/

/-- The slot completes with a vector result `V` of latency `n` in the selected lanes of D, and `V` is as `P`
says. -/
def givesVec (i : Instr) (s : State) (x : Group) (sl : Slot) (lat : Machine.Lat) (P : Vec → Prop) : Prop :=
  ∃ V, exec i s = writes s sl lat (vecOut x.trapMode sl.d 0 (x.sel sl) V) ∧ P V

/-- Element `k` of lane `L` of the source that code `c` names, at the width of TY (R133). -/
def srcElem (s : State) (x : Group) (sl : Slot) (L k : Nat) (c : BitVec 10) : BitVec (tyW sl) :=
  elem (tyW sl) k (lane (s.vsrc x sl (tyW sl) c) L)

/-- Every sub-element of `V` is `r` of the source elements of its place (R133). -/
def eachElem (s : State) (x : Group) (sl : Slot) (r : (BitVec 10 → BitVec (tyW sl)) → BitVec (tyW sl)) (V : Vec) :
    Prop :=
  ∀ L k, L < 32 → k < 64 / tyW sl → elem (tyW sl) k (lane V L) = r (srcElem s x sl L k)

end Sys2Proof

section

open Sys2Proof Sys2Proof.Machine

/-- R133, R135, R148: the integer arithmetic of each sub-element, exact, then wrapped or saturated. -/
def Obligations.VECTOR_ARITHMETIC_RESULTS : Prop :=
  ∀ (s : State) (x : Group) (sl : Slot),
    let w := tyW sl
    let int (b : BitVec w) := typedInt sl b
    let gives (i : Instr) (r : (BitVec 10 → BitVec w) → BitVec w) := givesVec i s x sl (.fixed 4) (eachElem s x sl r)
    (Issues s (fVec 0 1 (tyI sl) 2 sl) sl x →
      gives (.vadd sl) (fun E => fitted sl w (int (E sl.a) + int (E sl.b)))
        ∧ gives (.vsub sl) (fun E => fitted sl w (int (E sl.a) - int (E sl.b)))
        ∧ gives (.vmul sl) (fun E => fitted sl w (int (E sl.a) * int (E sl.b))))
    ∧ (Issues s (fVec 0 1 (tyI sl) 3 sl) sl x →
      gives (.vmad sl) (fun E => fitted sl w (int (E sl.a) * int (E sl.b) + int (E sl.c))))
    ∧ (Issues s (fVec 0 1 (tyI sl && tyS sl) 1 sl) sl x →
      gives (.vabs sl) (fun E => fitted sl w |int (E sl.a)|) ∧ gives (.vneg sl) (fun E => fitted sl w (-int (E sl.a))))
    ∧ (Issues s (fVec 1 0 (tyI sl) 2 sl) sl x →
      gives (.vavg sl) (fun E => BitVec.ofInt w ((int (E sl.a) + int (E sl.b) + (if sl.sub = 1 then 1 else 0)) / 2)))
    ∧ (Issues s (fVec 0 0 (tyI sl) 2 sl) sl x →
      gives (.vmulh sl) (fun E => BitVec.ofInt w (int (E sl.a) * int (E sl.b) / 2 ^ w))
        ∧ gives (.vmin sl) (fun E => if int (E sl.a) ≤ int (E sl.b) then E sl.a else E sl.b)
        ∧ gives (.vmax sl) (fun E => if int (E sl.a) ≤ int (E sl.b) then E sl.b else E sl.a)
        ∧ givesVec (.vdiv sl) s x sl (.fixed 12) (eachElem s x sl fun E =>
            if E sl.b = 0 then BitVec.allOnes w
            else if tyS sl then (E sl.a).sdiv (E sl.b) else E sl.a / E sl.b)
        ∧ givesVec (.vrem sl) s x sl (.fixed 12) (eachElem s x sl fun E =>
            if E sl.b = 0 then E sl.a else if tyS sl then (E sl.a).srem (E sl.b) else E sl.a % E sl.b))

/-- R135, R138, R140, R141: the logic, shift, rotate and count results of each sub-element. -/
def Obligations.VECTOR_LOGIC_RESULTS : Prop :=
  ∀ (s : State) (x : Group) (sl : Slot),
    let w := tyW sl
    let gives (i : Instr) (r : (BitVec 10 → BitVec w) → BitVec w) := givesVec i s x sl (.fixed 4) (eachElem s x sl r)
    (Issues s (fVec 0 0 (tyI sl) 2 sl) sl x →
      gives (.vand sl) (fun E => E sl.a &&& E sl.b) ∧ gives (.vor sl) (fun E => E sl.a ||| E sl.b)
        ∧ gives (.vxor sl) (fun E => E sl.a ^^^ E sl.b) ∧ gives (.vandn sl) (fun E => E sl.a &&& ~~~(E sl.b))
        ∧ gives (.vshl sl) (fun E => E sl.a <<< (E sl.b).toNat) ∧ gives (.vshr sl) (fun E => E sl.a >>> (E sl.b).toNat)
        ∧ gives (.vsar sl) (fun E => (E sl.a).sshiftRight (E sl.b).toNat)
        ∧ gives (.vrol sl) (fun E => (E sl.a).rotateLeft (E sl.b).toNat)
        ∧ gives (.vror sl) (fun E => (E sl.a).rotateRight (E sl.b).toNat))
    ∧ (Issues s (fVec 0 0 (tyI sl) 1 sl) sl x →
      gives (.vnot sl) (fun E => ~~~(E sl.a)) ∧ gives (.vmov sl) (fun E => E sl.a)
        ∧ gives (.vbrev sl) (fun E => (E sl.a).reverse)
        ∧ gives (.vpopc sl) (fun E => BitVec.ofNat w ((List.range w).countP fun i => (E sl.a).getLsbD i))
        ∧ gives (.vclz sl) (fun E => BitVec.ofNat w (leadingZeros (E sl.a)))
        ∧ gives (.vctz sl) (fun E => BitVec.ofNat w (trailingZeros (E sl.a))))
    ∧ (Issues s (fVlop3 sl) sl x →
      givesVec (.vlop3 sl) s x sl (.fixed 4) fun V => ∀ L k i, L < 32 → k < 64 / w → i < w →
        (elem w k (lane V L)).getLsbD i = sl.imm.getLsbD (4 * ((srcElem s x sl L k sl.a).getLsbD i).toNat
          + 2 * ((srcElem s x sl L k sl.b).getLsbD i).toNat + ((srcElem s x sl L k sl.c).getLsbD i).toNat))
    ∧ (Issues s (fVec 1 0 (tyI sl) 3 sl) sl x →
      gives (.vfshl sl) (fun E =>
        let t : BitVec (w + w) := E sl.a ++ E sl.b
        let n := (E sl.c).toNat
        if sl.sub = 1 then (t >>> n).extractLsb' 0 w else (t <<< n).extractLsb' w w))

/-- R139, R142, R143: compares into predicates and masks, selection, and bit fields with one control. -/
def Obligations.VECTOR_SELECT_RESULTS : Prop :=
  ∀ (s : State) (x : Group) (sl : Slot),
    let w := tyW sl
    let E (L k : Nat) := srcElem s x sl L k
    let holds (L k : Nat) := condHolds sl.sub.toNat (typedInt sl (E L k sl.a)) (typedInt sl (E L k sl.b))
    (Issues s (fVcmp sl) sl x →
      (kindOf sl.d ≠ some .vp → givesVec (.vcmp sl) s x sl (.fixed 4) fun V => ∀ L k, L < 32 → k < 64 / w →
        (holds L k → elem w k (lane V L) = BitVec.allOnes w) ∧ (¬ holds L k → elem w k (lane V L) = 0))
      ∧ (kindOf sl.d = some .vp → ∃ m : Mask, exec (.vcmp sl) s = writes s sl (.fixed 4)
          [.scalar (.vp (sl.d.toNat - 0x278)) (m.setWidth 64)]
        ∧ ∀ L, L < 32 →
          (¬ (x.sel sl).getLsbD L → m.getLsbD L = (x.vp (sl.d.toNat - 0x278)).getLsbD L)
          ∧ ((x.sel sl).getLsbD L → (m.getLsbD L = true ↔
            if sl.md.getLsbD 0 then ∃ k, k < 64 / w ∧ holds L k else ∀ k, k < 64 / w → holds L k))))
    ∧ (Issues s (fVsel sl) sl x → givesVec (.vsel sl) s x sl (.fixed 4) fun V => ∀ L, L < 32 →
        let B := lane (s.vsrc x sl w sl.b) L
        let C := lane (s.vsrc x sl w sl.c) L
        lane V L = if sl.sub = 0 then (if (x.vp (sl.a.toNat - 0x278)).getLsbD L then B else C)
          else (lane (s.vsrc x sl w sl.a) L &&& B) ||| (~~~(lane (s.vsrc x sl w sl.a) L) &&& C))
    ∧ (Issues s (fVbfe sl) sl x → givesVec (.vbfe sl) s x sl (.fixed 4) fun V =>
        let pos := fieldPos (s.ssrc x sl sl.b)
        let len := min (fieldLen (s.ssrc x sl sl.b)) (w - pos)
        ∀ L k i, L < 32 → k < 64 / w → i < w → (elem w k (lane V L)).getLsbD i =
          if len = 0 then false else if i < len then (E L k sl.a).getLsbD (pos + i)
          else tyS sl && (E L k sl.a).getLsbD (pos + len - 1))
    ∧ (Issues s (fVbfi sl) sl x → givesVec (.vbfi sl) s x sl (.fixed 4) fun V =>
        let pos := fieldPos (s.ssrc x sl sl.c)
        let len := min (fieldLen (s.ssrc x sl sl.c)) (w - pos)
        ∀ L k i, L < 32 → k < 64 / w → i < w → (elem w k (lane V L)).getLsbD i =
          if pos ≤ i ∧ i < pos + len then (E L k sl.a).getLsbD (i - pos) else (E L k sl.b).getLsbD i)

/-- R136, R137, R144 to R147: the lane forms, which sum, permute, widen, narrow and interleave sub-elements. -/
def Obligations.VECTOR_LANE_FORMS : Prop :=
  ∀ (s : State) (x : Group) (sl : Slot),
    let w := tyW sl
    let src (v L : Nat) (c : BitVec 10) := lane (s.vsrc x sl v c) L
    let gives (i : Instr) (P : Vec → Prop) := givesVec i s x sl (.fixed 4) P
    (Issues s (fVec 0 0 (tyN sl) 3 sl) sl x → gives (.vsad sl) fun V => ∀ L, L < 32 →
      lane V L = src 64 L sl.c + BitVec.ofInt 64 (((List.range (64 / w)).map fun k =>
        |typedInt sl (srcElem s x sl L k sl.a) - typedInt sl (srcElem s x sl L k sl.b)|).sum))
    ∧ (Issues s (fVec 1 1 (tyIn [0, 1] sl) 3 sl) sl x → gives (.vdot4 sl) fun V => ∀ L j, L < 32 → j < 2 →
      let a (i : Nat) : Int := if tyS sl then (elem 8 (4 * j + i) (src 8 L sl.a)).toInt
        else (elem 8 (4 * j + i) (src 8 L sl.a)).toNat
      let b (i : Nat) : Int := if tyS sl != decide (sl.sub = 1) then (elem 8 (4 * j + i) (src 8 L sl.b)).toInt
        else (elem 8 (4 * j + i) (src 8 L sl.b)).toNat
      let v := (elem 32 j (src 32 L sl.c)).toInt + (a 0 * b 0 + a 1 * b 1 + a 2 * b 2 + a 3 * b 3)
      elem 32 j (lane V L) =
        BitVec.ofInt 32 (if sl.md.getLsbD 0 then max (-2 ^ 31) (min v (2 ^ 31 - 1)) else v))
    ∧ (Issues s (fVec 0 0 (tyIn [1] sl) 3 sl) sl x → gives (.vprmb sl) fun V => ∀ L i, L < 32 → i < 8 →
      let c := elem 8 i (src 8 L sl.c)
      elem 8 i (lane V L) = if c.getLsbD 7 then 0
        else if c.getLsbD 3 then elem 8 (c.toNat % 8) (src 8 L sl.b) else elem 8 (c.toNat % 8) (src 8 L sl.a))
    ∧ (Issues s (fVec 1 0 (tyN sl) 1 sl) sl x → gives (.vwiden sl) fun V => ∀ L j, L < 32 → j < 32 / w →
      elem (2 * w) j (lane V L) =
        BitVec.ofInt (2 * w) (typedInt sl (srcElem s x sl L (if sl.sub = 1 then j + 32 / w else j) sl.a)))
    ∧ (Issues s (fVec 1 1 (tyN sl) 2 sl) sl x → gives (.vnarrow sl) fun V => ∀ L k, L < 32 → k < 64 / w →
      let e := if k < 32 / w then elem (2 * w) k (src (2 * w) L sl.a)
        else elem (2 * w) (k - 32 / w) (src (2 * w) L sl.b)
      elem w k (lane V L) = fitted sl w (if tyS sl != decide (sl.sub = 1) then e.toInt else e.toNat))
    ∧ (Issues s (fVec 3 0 (tyN sl) 2 sl) sl x → gives (.vpack sl) fun V => ∀ L j, L < 32 → j < 32 / w →
      let h := 32 / w
      let E (c : BitVec 10) (k : Nat) := srcElem s x sl L k c
      let r (k : Nat) := elem w k (lane V L)
      (sl.sub = 0 → r (2 * j) = E sl.a j ∧ r (2 * j + 1) = E sl.b j)
      ∧ (sl.sub = 1 → r (2 * j) = E sl.a (j + h) ∧ r (2 * j + 1) = E sl.b (j + h))
      ∧ (sl.sub = 2 → r j = E sl.a (2 * j) ∧ r (j + h) = E sl.b (2 * j))
      ∧ (sl.sub = 3 → r j = E sl.a (2 * j + 1) ∧ r (j + h) = E sl.b (2 * j + 1)))

end

namespace Sys2Proof

open Machine

/-! ### Floating point (R45 to R75, R149 to R164) -/

/-- The rational number of a finite value. -/
def valueOf : FVal → ℚ
  | .fin s m e => (if s then -1 else 1) * m * (2 : ℚ) ^ e
  | _ => 0

def isFin : FVal → Bool
  | .fin _ _ _ => true
  | _ => false

/-- The formats, scales, mode and part of a float slot: those of FMT under `.fmt`, else `typed`; `used` are the
formats that set the element count (R70, R71, R150, R151). -/
def floatCtx (sl : Slot) (x : Group) (typed : FCtx) (used : FCtx → List Fmt) : FCtx :=
  let c := if tyIsFmt sl then fmtCtx sl x else typed
  c.spanning (used c)

/-- Under `.fmt`, the codes AFMT, BFMT and OFMT are accepted, and the part lies within the formats (R71, R150,
R151). -/
def floatAccepts (sl : Slot) (x : Group) (ok : Nat → Nat → Nat → Bool) (used : FCtx → List Fmt) : Prop :=
  tyIsFmt sl = true → ok (bits x.fmt 3 0) (bits x.fmt 7 4) (bits x.fmt 11 8) = true
    ∧ modPart sl < ((fmtCtx sl x).spanning (used (fmtCtx sl x))).wmax / ((fmtCtx sl x).spanning (used (fmtCtx sl x))).wmin

/-- Element `k` of lane `L` of a source in format `f`: a format narrower than the widest used reads the part
that PART names (R151). -/
def floatSrc (s : State) (x : Group) (sl : Slot) (c : FCtx) (f : Fmt) (code : BitVec 10) (L k : Nat) : FVal :=
  Machine.decode f (elem f.width (k + if f.width < c.wmax then 64 / c.wmax * c.part else 0)
    (lane (s.vsrc x sl f.width code) L)).toNat

/-- `V` holds the results `r`, scaled by the output scale and rounded once, at the place of PART; the other
elements of a narrower output are those of the old destination (R53, R151). -/
def floatPlaced (s : State) (x : Group) (sl : Slot) (c : FCtx) (r : Nat → Nat → FVal) (V : Vec) : Prop :=
  let w := c.fo.width
  let n := 64 / c.wmax
  let base := if w < c.wmax then n * c.part else 0
  ∀ L j, L < 32 → j < 64 / w → elem w j (lane V L) =
    if base ≤ j ∧ j < base + n then
      BitVec.ofNat w (Machine.encode c.fo c.mode c.satf ((r L (j - base)).scale c.so))
    else elem w j (lane (s.oldDst x sl.d) L)

/-- The lesser, or the greater, of two tapered values, with NaR below every number (R51, R156). -/
def tapPick (greater : Bool) (a b : FVal) : FVal :=
  if a.isNan then (if greater then b else a)
  else if b.isNan then (if greater then a else b)
  else if (if greater then valueOf a < valueOf b else valueOf b < valueOf a) then b else a

end Sys2Proof

section

open Sys2Proof Sys2Proof.Machine

/-- R53, R154: sums, products, scalings and comparisons of finite values are exact; the sum of two zeros of
unlike sign, and a cancelled sum, is −0 when rounding down and +0 otherwise. -/
def Obligations.FLOAT_ARITHMETIC_EXACT : Prop :=
  ∀ (mode : Nat) (a b : FVal) (k : Int), isFin a → isFin b →
    (isFin (FVal.add mode a b) ∧ valueOf (FVal.add mode a b) = valueOf a + valueOf b)
    ∧ (isFin (FVal.mul a b) ∧ valueOf (FVal.mul a b) = valueOf a * valueOf b)
    ∧ (isFin (a.scale k) ∧ valueOf (a.scale k) = valueOf a * (2 : ℚ) ^ k)
    ∧ a.cmp b = some (compare (valueOf a) (valueOf b))
    ∧ (a.neg? ≠ b.neg? → valueOf a + valueOf b = 0 → (FVal.add mode a b).neg? = decide (mode = 2))

/-- R149 to R157, R160, R161: the two-operand and one-operand float instructions decode, scale, compute exactly, and
round once; FSCALE adds the integers of B to the exponents (R161). The model's choices, not the spec's: that a PART past the
lane reads 0 and writes nothing, that FMIN and FMAX choose before an infinity becomes NaR in a tapered output, and that FRND
of a negative tapered value that rounds to zero gives −0 in an IEEE output (assumption log 67), and that FMT bit 40 saturates
each result (log 13). -/
def Obligations.FLOAT_ARITHMETIC_RESULTS : Prop :=
  ∀ (s : State) (x : Group) (sl : Slot),
    let t := tyFmt sl
    let typed := typedCtx sl x t t t
    let three (c : FCtx) := [c.fa, c.fb, c.fo]
    let two (c : FCtx) := [c.fa, c.fo]
    let c3 := floatCtx sl x typed three
    let c2 := floatCtx sl x typed two
    let A (c : FCtx) (L k : Nat) := (floatSrc s x sl c c.fa sl.a L k).scale c.sa
    let B (c : FCtx) (L k : Nat) := (floatSrc s x sl c c.fb sl.b L k).scale c.sb
    let ok3 := floatAccepts sl x (fun a b o => okIn a && okIn b && okOut o) three
    let ok2 := floatAccepts sl x (fun a _ o => okIn a && okOut o) two
    let gives (i : Instr) (c : FCtx) (r : Nat → Nat → FVal) := givesVec i s x sl (.fixed 5) (floatPlaced s x sl c r)
    (Issues s (fFlt 0 (tyFF sl) true [fmtW sl] 2 sl) sl x → ok3 →
      gives (.fadd sl) c3 (fun L k => FVal.add c3.mode (A c3 L k) (B c3 L k))
        ∧ gives (.fsub sl) c3 (fun L k => FVal.add c3.mode (A c3 L k) (B c3 L k).negate)
        ∧ gives (.fmul sl) c3 (fun L k => FVal.mul (A c3 L k) (B c3 L k)))
    ∧ (Issues s (fFlt 3 (tyFF sl) true [fmtW sl] 3 sl) sl x → ok3 →
      gives (.ffma sl) c3 (fun L k =>
        let p := FVal.mul (A c3 L k) (B c3 L k)
        let z := floatSrc s x sl c3 c3.fo sl.c L k
        FVal.add c3.mode (if sl.sub.getLsbD 1 then p.negate else p) (if sl.sub.getLsbD 0 then z.negate else z)))
    ∧ (Issues s (fFlt 1 (tyFF sl) false [fmtW sl] 2 sl) sl x → ok3 →
      let pick (greater : Bool) (a b : FVal) := if c3.fa.isTap && c3.fb.isTap then tapPick greater a b
        else if greater then FVal.maxNum (decide (sl.sub = 1)) a b else FVal.minNum (decide (sl.sub = 1)) a b
      gives (.fmin sl) c3 (fun L k => pick false (A c3 L k) (B c3 L k))
        ∧ gives (.fmax sl) c3 (fun L k => pick true (A c3 L k) (B c3 L k)))
    ∧ (Issues s (fFlt 0 (tyFF sl) false [fmtW sl] 1 sl) sl x → ok2 →
      gives (.fabs sl) c2 (fun L k => (A c2 L k).abs)
        ∧ gives (.fneg sl) c2 (fun L k => if c2.fa.isTap ∧ (A c2 L k).isZero then FVal.zero else (A c2 L k).negate))
    ∧ (Issues s (fFrnd sl) sl x → ok2 →
      gives (.frnd sl) c2 (fun L k => (A c2 L k).integral (if sl.sub = 1 then 4 else c2.mode)))
    ∧ (Issues s (fFlt 0 (tyF sl) true [fmtW sl] 2 sl) sl x →
      gives (.fscale sl) (typed.spanning [t]) (fun L k =>
        (floatSrc s x sl (typed.spanning [t]) t sl.a L k).scale (elem t.width k (lane (s.vsrc x sl t.width sl.b) L)).toInt))

/-- R155, R163, R164: dot products, quire sums and conversions, each rounded once. The model's choices: the sign of a zero
result of FDOT2 (assumption log 67), and that FQSUM adds its elements up from +0 (log 13). -/
def Obligations.FLOAT_SUMS_AND_CONVERSIONS : Prop :=
  ∀ (s : State) (x : Group) (sl : Slot),
    let t := tyFmt sl
    let two (c : FCtx) := [c.fa, c.fo]
    let gives (i : Instr) (c : FCtx) (r : Nat → Nat → FVal) := givesVec i s x sl (.fixed 5) (floatPlaced s x sl c r)
    let int := Fmt.int (cviTy sl).1 (cviTy sl).2
    let cc := floatCtx sl x (typedCtx sl x (fmtD sl.sub.toNat) t t) two
    let ci := floatCtx sl x (if sl.sub.getLsbD 3 then typedCtx sl x int int t else typedCtx sl x t t int) two
    let cq := floatCtx sl x (typedCtx sl x t t t) two
    let cd := if tyIsFmt sl then fmtCtx sl x else typedCtx sl x t t (dotOut t)
    let w := cd.fa.width
    let E (c : BitVec 10) (f : Fmt) (L k : Nat) := Machine.decode f (elem f.width k (lane (s.vsrc x sl f.width c) L)).toNat
    let prod (L k : Nat) := FVal.mul ((E sl.a cd.fa L k).scale cd.sa) ((E sl.b cd.fb L k).scale cd.sb)
    (Issues s (fFcvt sl) sl x → floatAccepts sl x (fun a _ o => okIn a && okOut o) two →
      gives (.fcvt sl) cc fun L k => (floatSrc s x sl cc cc.fa sl.a L k).scale cc.sa)
    ∧ (Issues s (fFcvti sl) sl x → floatAccepts sl x (fun a _ o => okCvti a o) two →
      gives (.fcvti sl) ci fun L k => (floatSrc s x sl ci ci.fa sl.a L k).scale ci.sa)
    ∧ (Issues s (fFdot2 sl) sl x →
      (tyIsFmt sl = true → okIn (bits x.fmt 3 0) ∧ okIn (bits x.fmt 7 4) ∧ okOut (bits x.fmt 11 8)
        ∧ cd.fa.width = cd.fb.width ∧ cd.fo.width = 2 * cd.fa.width) →
      givesVec (.fdot2 sl) s x sl (.fixed 5) fun V => ∀ L j, L < 32 → j < 64 / (2 * w) →
        elem (2 * w) j (lane V L) = BitVec.ofNat (2 * w) (Machine.encode cd.fo cd.mode cd.satf
          ((FVal.add cd.mode (FVal.add cd.mode (prod L (2 * j)) (prod L (2 * j + 1))) (E sl.c cd.fo L j)).scale cd.so)))
    ∧ (Issues s (fFqsum sl) sl x → floatAccepts sl x (fun a _ o => okIn a && (fmtD a).isTap && okOut o) two →
      givesVec (.fqsum sl) s x sl (.fixed 5) fun V => ∀ L, L < 32 →
        lane V L = BitVec.ofNat 64 (Machine.encode cq.fo cq.mode cq.satf
          ((FVal.add 0 ((List.range (64 / cq.fa.width)).foldl (fun r k => FVal.add 0 r ((E sl.a cq.fa L k).scale cq.sa))
            FVal.zero) (E sl.c cq.fo L 0)).scale cq.so)))

/-- R158, R159: float compares and class tests, in a predicate or as a mask of elements. -/
def Obligations.FLOAT_COMPARE_RESULTS : Prop :=
  ∀ (s : State) (x : Group) (sl : Slot),
    let t := tyFmt sl
    let typed := typedCtx sl x t t t
    let pair (c : FCtx) := [c.fa, c.fb]
    let one (c : FCtx) := [c.fa]
    let c2 := floatCtx sl x typed pair
    let c1 := floatCtx sl x typed one
    let u (L k : Nat) := (floatSrc s x sl c2 c2.fa sl.a L k).scale c2.sa
    let v (L k : Nat) := (floatSrc s x sl c2 c2.fb sl.b L k).scale c2.sb
    let order (L k : Nat) : Option Ordering :=
      if c2.fa.isTap && c2.fb.isTap then
        (if (u L k).isNan then some (if (v L k).isNan then .eq else .lt)
         else if (v L k).isNan then some .gt else (u L k).cmp (v L k))
      else (u L k).cmp (v L k)
    let relation (o : Option Ordering) : Prop :=
      match sl.sub.toNat with
      | 0 => o = some .eq | 1 => o ≠ some .eq | 2 => o = some .lt | 3 => o = some .lt ∨ o = some .eq
      | 4 => o = some .gt | 5 => o = some .gt ∨ o = some .eq | 6 => o = none | _ => o ≠ none
    let result (i : Instr) (c : FCtx) (p : Nat → Nat → Prop) : Prop :=
      (kindOf sl.d ≠ some .vp → givesVec i s x sl (.fixed 5) fun V => ∀ L k, L < 32 → k < 64 / c.wmax →
        (p L k → elem c.wmax k (lane V L) = BitVec.allOnes c.wmax) ∧ (¬ p L k → elem c.wmax k (lane V L) = 0))
      ∧ (kindOf sl.d = some .vp → ∃ m : Mask, exec i s = writes s sl (.fixed 5)
          [.scalar (.vp (sl.d.toNat - 0x278)) (m.setWidth 64)]
        ∧ ∀ L, L < 32 →
          (¬ (x.sel sl).getLsbD L → m.getLsbD L = (x.vp (sl.d.toNat - 0x278)).getLsbD L)
          ∧ ((x.sel sl).getLsbD L → (m.getLsbD L = true ↔
            if sl.md.getLsbD 2 then ∃ k, k < 64 / c.wmax ∧ p L k else ∀ k, k < 64 / c.wmax → p L k)))
    (Issues s (fFcmp sl) sl x → floatAccepts sl x (fun a b _ => okIn a && okIn b) pair →
      result (.fcmp sl) c2 fun L k => relation (order L k))
    ∧ (Issues s (fFclass sl) sl x → floatAccepts sl x (fun a _ _ => okIn a) one →
      result (.fclass sl) c1 fun L k => classOf c1.fa (elem c1.fa.width
        (k + if c1.fa.width < c1.wmax then 64 / c1.wmax * c1.part else 0)
        (lane (s.vsrc x sl c1.fa.width sl.a) L)).toNat &&& sl.imm.toNat ≠ 0)

/-- R162: the nine special functions complete with a variable latency, each element rounded once from the exact result,
or from the first enclosure, at 320 bits or a doubling of them, whose ends round alike. -/
def Obligations.SPECIAL_FUNCTION_RESULTS : Prop :=
  ∀ (s : State) (x : Group) (sl : Slot),
    let t := tyFmt sl
    let two (c : FCtx) := [c.fa, c.fo]
    let c := floatCtx sl x (typedCtx sl x t t t) two
    let gives (i : Instr) (opc : Nat) : Prop :=
      ∃ V, exec i s = writes s sl .var (vecOut x.trapMode sl.d 0 (x.sel sl) V)
        ∧ ∀ L k, L < 32 → k < 64 / c.wmax →
          let w := c.fo.width
          let v := (floatSrc s x sl c c.fa sl.a L k).scale c.sa
          let p := elem w (k + if w < c.wmax then 64 / c.wmax * c.part else 0) (lane V L)
          if c.fo.isTap ∧ v.isInf then p = BitVec.ofNat w (2 ^ (w - 1))
          else
            let low (neg : Bool) (lo : Nat) (e : Int) := Machine.encode c.fo c.mode c.satf ((justAbove neg lo e).scale c.so)
            let high (neg : Bool) (hi : Nat) (e : Int) := Machine.encode c.fo c.mode c.satf ((justBelow neg hi e).scale c.so)
            (∀ r, specialFn opc v 320 = .exact r → p = BitVec.ofNat w (Machine.encode c.fo c.mode c.satf (r.scale c.so)))
            ∧ ∀ n neg lo hi e, n < 64 → specialFn opc v (320 * 2 ^ n) = .between neg lo hi e → low neg lo e = high neg hi e →
              (∀ j, j < n → ∃ neg lo hi e, specialFn opc v (320 * 2 ^ j) = .between neg lo hi e ∧ low neg lo e ≠ high neg hi e) →
              p = BitVec.ofNat w (low neg lo e)
    Issues s (fSpecial sl) sl x → floatAccepts sl x (fun a _ o => okIn a && okOut o) two →
      gives (.frcp sl) 0x7D ∧ gives (.frsq sl) 0x7E ∧ gives (.fsqrt sl) 0x7F ∧ gives (.fexp2 sl) 0x80
        ∧ gives (.flog2 sl) 0x81 ∧ gives (.fsin sl) 0x82 ∧ gives (.fcos sl) 0x83 ∧ gives (.ftanh sl) 0x84
        ∧ gives (.fsigm sl) 0x85

/-- R71, R150, R151, R155, R164: under `.fmt`, a format code that an instruction does not accept traps ILLEGAL_INSTRUCTION
with REASON 8 and DETAIL FMT[11:0], and a part beyond its formats with REASON 4; both write nothing. -/
def Obligations.UNACCEPTED_FORMATS_TRAP : Prop :=
  ∀ (s : State) (x : Group) (sl : Slot),
    let a := bits x.fmt 3 0
    let b := bits x.fmt 7 4
    let o := bits x.fmt 11 8
    let trap := traps s sl x { cause := 1, info := BitVec.ofNat 64 (8 * 2 ^ 32 + bits x.fmt 11 0) }
    let beyond := traps s sl x { cause := 1, info := BitVec.ofNat 64 (4 * 2 ^ 32) }
    let past (used : FCtx → List Fmt) : Prop :=
      ((fmtCtx sl x).spanning (used (fmtCtx sl x))).wmax / ((fmtCtx sl x).spanning (used (fmtCtx sl x))).wmin ≤ modPart sl
    let three (c : FCtx) := [c.fa, c.fb, c.fo]
    let two (c : FCtx) := [c.fa, c.fo]
    tyIsFmt sl = true →
    (Issues s (fFlt 0 (tyFF sl) true [fmtW sl] 2 sl) sl x → ¬ (okIn a ∧ okIn b ∧ okOut o) →
      exec (.fadd sl) s = trap ∧ exec (.fsub sl) s = trap ∧ exec (.fmul sl) s = trap)
    ∧ (Issues s (fFlt 3 (tyFF sl) true [fmtW sl] 3 sl) sl x → ¬ (okIn a ∧ okIn b ∧ okOut o) → exec (.ffma sl) s = trap)
    ∧ (Issues s (fFlt 0 (tyFF sl) false [fmtW sl] 1 sl) sl x → ¬ (okIn a ∧ okOut o) →
      exec (.fabs sl) s = trap ∧ exec (.fneg sl) s = trap)
    ∧ (Issues s (fFcvt sl) sl x → ¬ (okIn a ∧ okOut o) → exec (.fcvt sl) s = trap)
    ∧ (Issues s (fSpecial sl) sl x → ¬ (okIn a ∧ okOut o) → exec (.frcp sl) s = trap ∧ exec (.frsq sl) s = trap
      ∧ exec (.fsqrt sl) s = trap ∧ exec (.fexp2 sl) s = trap ∧ exec (.flog2 sl) s = trap ∧ exec (.fsin sl) s = trap
      ∧ exec (.fcos sl) s = trap ∧ exec (.ftanh sl) s = trap ∧ exec (.fsigm sl) s = trap)
    ∧ (Issues s (fFlt 1 (tyFF sl) false [fmtW sl] 2 sl) sl x → ¬ (okIn a ∧ okIn b ∧ okOut o) →
      exec (.fmin sl) s = trap ∧ exec (.fmax sl) s = trap)
    ∧ (Issues s (fFrnd sl) sl x → ¬ (okIn a ∧ okOut o) → exec (.frnd sl) s = trap)
    ∧ (Issues s (fFcmp sl) sl x → ¬ (okIn a ∧ okIn b) → exec (.fcmp sl) s = trap)
    ∧ (Issues s (fFclass sl) sl x → ¬ okIn a → exec (.fclass sl) s = trap)
    ∧ (Issues s (fFcvti sl) sl x → ¬ okCvti a o → exec (.fcvti sl) s = trap)
    ∧ (Issues s (fFdot2 sl) sl x → ¬ (okIn a ∧ okIn b ∧ okOut o ∧ (fmtD a).width = (fmtD b).width
        ∧ (fmtD o).width = 2 * (fmtD a).width) → exec (.fdot2 sl) s = trap)
    ∧ (Issues s (fFqsum sl) sl x → ¬ (okIn a ∧ (fmtD a).isTap ∧ okOut o) → exec (.fqsum sl) s = trap)
    ∧ (Issues s (fFlt 0 (tyFF sl) true [fmtW sl] 2 sl) sl x → okIn a → okIn b → okOut o → past three →
      exec (.fadd sl) s = beyond ∧ exec (.fsub sl) s = beyond ∧ exec (.fmul sl) s = beyond)
    ∧ (Issues s (fFcvt sl) sl x → okIn a → okOut o → past two → exec (.fcvt sl) s = beyond)

end

namespace Sys2Proof

open Machine

/-! ### Control, masks and the format register (R101 to R119) -/

/-- The mask entries popped when a header is entered: those at the top whose address it is (R38). -/
def poppedBy (hdr : Word) (m : List MEntry) : List MEntry := m.takeWhile fun e => decide (e.rcv = some hdr)

/-- After control has gone from `x` to the header `w` at `t`, the current group stands at the header's first
slot, with KC, the block and, outside trap mode, the pops of R38; register `link`, if any, has its value. -/
def entered (s u : State) (x : Group) (t : Word) (w : BitVec 128) (link : Option (RegRef × Word)) : Prop :=
  ∃ y, u.grp? s.cur = some y ∧ y.pc = t + 16 ∧ y.kc = w.extractLsb' 64 64 ∧ y.block.hdr = t
    ∧ y.block.len = (w.extractLsb' 8 10).toNat ∧ y.block.rcv = w.extractLsb' 18 16 ∧ y.live = x.live
    ∧ (x.trapMode = true → y.mstk = x.mstk ∧ y.act = x.act ∧ y.fmt = x.fmt)
    ∧ (x.trapMode = false → y.mstk = x.mstk.dropWhile fun e => decide (e.rcv = some t))
    ∧ (x.trapMode = false → match (poppedBy t x.mstk).getLast? with
        | some e => y.act = e.saved &&& x.live ∧ y.fmt = e.fmt
        | none => y.act = x.act ∧ y.fmt = x.fmt)
    ∧ ∀ r v, link = some (r, v) → u.readS y r = v

/-- R32, R33, R38, R103 to R107: a transfer of control to a header that the group may fetch enters its block;
CALL and CALLX write the return address, LOOP its decremented counter; a condition that fails falls through. -/
def transfersEnter : Prop :=
  ∀ (s : State) (x : Group) (sl : Slot) (w : BitVec 128),
    let near := x.pc + 16 * sl.imm.signExtend 64
    let far := s.ssrc x sl sl.a
    let reachable (t : Word) : Prop := ((s.atIssue sl).target s.cur t).2 = .ok w ∧ badHeader w = false
    let goes (i : Instr) (t : Word) (link : Option (RegRef × Word)) : Prop :=
      ∃ u, exec i s = .next u ∧ entered s u x t w link
    let p := x.vp (sl.a.toNat - 0x278)
    let back := (dstRef x.trapMode sl.d 0).map fun r => (r, x.pc + 16)
    let last : Prop := x.pc = x.block.hdr + BitVec.ofNat 64 (16 * x.block.len)
    let n := s.ssrc x sl sl.d - 1
    (Issues s (fBra sl) sl x → reachable near → goes (.bra sl) near none)
    ∧ (Issues s (fBrx sl) sl x → reachable far → goes (.brx sl) far none)
    ∧ (Issues s (fCall sl) sl x → last → reachable near → goes (.call sl) near back)
    ∧ (Issues s (fCallx sl) sl x → last → reachable far → goes (.callx sl) far back)
    ∧ (Issues s (fLoop sl) sl x →
      (n ≠ 0 → reachable near → goes (.loop sl) near ((dstRef x.trapMode sl.d 0).map fun r => (r, n)))
      ∧ (n = 0 → exec (.loop sl) s = writes s sl (.fixed 2) (scaOut x.trapMode sl.d 0 0)))
    ∧ (Issues s (fBrp sl) sl x →
      (((p &&& x.act ≠ 0) ↔ sl.sub = 0) → reachable near → goes (.brany sl) near none)
      ∧ (¬ ((p &&& x.act ≠ 0) ↔ sl.sub = 0) → exec (.brany sl) s = writes s sl .none [])
      ∧ (((p &&& x.act = x.act) ↔ sl.sub = 0) → reachable near → goes (.brall sl) near none)
      ∧ (¬ ((p &&& x.act = x.act) ↔ sl.sub = 0) → exec (.brall sl) s = writes s sl .none []))

/-- R93, R103: a branch to a header that traps on entry, with LEN 0, LVV above 64 or bit 63 set, traps ILLEGAL_INSTRUCTION
with REASON 5 and TRAPPC the header, and has no other effect. That the group then stands at its branching slot is the
model's choice (assumption log 17). -/
def badHeadersTrap : Prop :=
  ∀ (s : State) (x : Group) (sl : Slot) (w : BitVec 128),
    let near := x.pc + 16 * sl.imm.signExtend 64
    let far := s.ssrc x sl sl.a
    let at_ (t : Word) := (s.atIssue sl).target s.cur t
    let refused (t : Word) : Prop := (at_ t).2 = .ok w ∧
      (w.extractLsb' 8 10 = 0 ∨ 64 < (w.extractLsb' 52 7).toNat ∨ w.getLsbD 63 = true)
    let traps5 (i : Instr) (t : Word) : Prop :=
      exec i s = .next ((at_ t).1.raise s.cur { cause := 1, info := BitVec.ofNat 64 (5 * 2 ^ 32) } t)
    let last : Prop := x.pc = x.block.hdr + BitVec.ofNat 64 (16 * x.block.len)
    let p := x.vp (sl.a.toNat - 0x278)
    (Issues s (fBra sl) sl x → refused near → traps5 (.bra sl) near)
    ∧ (Issues s (fBrx sl) sl x → refused far → traps5 (.brx sl) far)
    ∧ (Issues s (fCall sl) sl x → last → refused near → traps5 (.call sl) near)
    ∧ (Issues s (fCallx sl) sl x → last → refused far → traps5 (.callx sl) far)
    ∧ (Issues s (fLoop sl) sl x → s.ssrc x sl sl.d ≠ 1 → refused near → traps5 (.loop sl) near)
    ∧ (Issues s (fBrp sl) sl x → refused near →
      (((p &&& x.act ≠ 0) ↔ sl.sub = 0) → traps5 (.brany sl) near)
      ∧ (((p &&& x.act = x.act) ↔ sl.sub = 0) → traps5 (.brall sl) near))

/-- R33, R34, R77, R103 to R107: a target that is not a multiple of 16 traps BAD_TARGET with TRAPADDR the target, at
the branching slot and with no effect; a call that is not the last slot of its block traps ILLEGAL_INSTRUCTION
with REASON 7. -/
def badTransfersTrap : Prop :=
  ∀ (s : State) (x : Group) (sl : Slot),
    let near := x.pc + 16 * sl.imm.signExtend 64
    let far := s.ssrc x sl sl.a
    let bad (t : Word) := traps s sl x { cause := 3, addr := t }
    let p := x.vp (sl.a.toNat - 0x278)
    (Issues s (fBra sl) sl x → near.toNat % 16 ≠ 0 → exec (.bra sl) s = bad near)
    ∧ (Issues s (fBrx sl) sl x → far.toNat % 16 ≠ 0 → exec (.brx sl) s = bad far)
    ∧ (Issues s (fCall sl) sl x → x.pc ≠ x.block.hdr + BitVec.ofNat 64 (16 * x.block.len) →
      exec (.call sl) s = traps s sl x { cause := 1, info := BitVec.ofNat 64 (7 * 2 ^ 32) })
    ∧ (Issues s (fCallx sl) sl x →
      (x.pc ≠ x.block.hdr + BitVec.ofNat 64 (16 * x.block.len) →
        exec (.callx sl) s = traps s sl x { cause := 1, info := BitVec.ofNat 64 (7 * 2 ^ 32) })
      ∧ (x.pc = x.block.hdr + BitVec.ofNat 64 (16 * x.block.len) → far.toNat % 16 ≠ 0 →
        exec (.callx sl) s = bad far))
    ∧ (Issues s (fLoop sl) sl x → s.ssrc x sl sl.d ≠ 1 → near.toNat % 16 ≠ 0 → exec (.loop sl) s = bad near)
    ∧ (Issues s (fBrp sl) sl x → near.toNat % 16 ≠ 0 →
      (((p &&& x.act ≠ 0) ↔ sl.sub = 0) → exec (.brany sl) s = bad near)
      ∧ (((p &&& x.act = x.act) ↔ sl.sub = 0) → exec (.brall sl) s = bad near))

/-- The slot completes with the current group changed by `f` and no result. -/
def changesGroup (i : Instr) (s : State) (sl : Slot) (f : Group → Group) : Prop :=
  exec i s = retired s ((s.atIssue sl).updGrp s.cur f) sl .none []

/-- The place and width of the field of FMT that a selector names (Table 4.4). -/
def fmtPlace (sub : Nat) : Nat × Nat :=
  match sub with
  | 0 => (0, 64) | 1 => (0, 4) | 2 => (4, 4) | 3 => (8, 4) | 4 => (12, 2) | 5 => (16, 8) | 6 => (24, 8)
  | 7 => (32, 8) | _ => (40, 1)

end Sys2Proof

section

open Sys2Proof Sys2Proof.Machine

/-- R32 to R34, R38, R77, R93, R103 to R107: transfers of control enter the block at their target, or trap: at a target that is
not a multiple of 16, or at a header that R93 refuses, where the group keeps standing at its branching slot (the model's
choice, assumption log 17). -/
def Obligations.TRANSFERS_OF_CONTROL : Prop := transfersEnter ∧ badTransfersTrap ∧ badHeadersTrap

/-- R24, R36, R37, R111, R115 to R117, R254: the masks after LEXIT, MPUSH, MELSE, MPOP and MSET, what MGET reads, and
the MASK_OVERFLOW traps, which change nothing; in trap mode MPUSH, MELSE, MPOP and MSET trap ILLEGAL_INSTRUCTION with
REASON 4. -/
def Obligations.MASK_INSTRUCTION_RESULTS : Prop :=
  ∀ (s : State) (x : Group) (sl : Slot),
    let p := x.vp (sl.a.toNat - 0x278)
    let m := x.sel sl
    let taken := x.act &&& (if sl.sub = 1 then ~~~p else p) &&& x.live
    let rcv := if x.block.rcv = 0 then none else some (x.block.hdr + 16 * x.block.rcv.signExtend 64)
    let overflow (n : Nat) := traps s sl x { cause := 6, info := BitVec.ofNat 64 n }
    let inHandler := traps s sl x { cause := 1, info := BitVec.ofNat 64 (4 * 2 ^ 32) }
    (Issues s (fLexit sl) sl x → changesGroup (.lexit sl) s sl fun y =>
      { y with live := x.live &&& ~~~m, act := x.act &&& ~~~m
               mstk := x.mstk.map fun e => { e with saved := e.saved &&& ~~~m, taken := e.taken &&& ~~~m } })
    ∧ (Issues s (fMpush sl) sl x → x.trapMode = false →
      (x.mstk.length < 32 → changesGroup (.mpush sl) s sl fun y =>
        { y with mstk := { saved := x.act, taken := taken, fmt := x.fmt, rcv := rcv } :: x.mstk, act := taken })
      ∧ (32 ≤ x.mstk.length → exec (.mpush sl) s = overflow 0))
    ∧ (Issues s (fBare sl) sl x → x.trapMode = false →
      (∀ e t, x.mstk = e :: t →
        changesGroup (.melse sl) s sl (fun y => { y with act := e.saved &&& ~~~e.taken &&& x.live, fmt := e.fmt })
        ∧ changesGroup (.mpop sl) s sl (fun y => { y with mstk := t, act := e.saved &&& x.live, fmt := e.fmt }))
      ∧ (x.mstk = [] → exec (.melse sl) s = overflow 1 ∧ exec (.mpop sl) s = overflow 1))
    ∧ (Issues s (fMset sl) sl x → x.trapMode = false →
      changesGroup (.mset sl) s sl fun y => { y with act := (s.ssrc x sl sl.a).setWidth 32 &&& x.live })
    ∧ (x.trapMode = true →
      (Issues s (fMpush sl) sl x → exec (.mpush sl) s = inHandler)
      ∧ (Issues s (fBare sl) sl x → exec (.melse sl) s = inHandler ∧ exec (.mpop sl) s = inHandler)
      ∧ (Issues s (fMset sl) sl x → exec (.mset sl) s = inHandler))
    ∧ (Issues s (fMget sl) sl x → exec (.mget sl) s = writes s sl (.fixed 2) (scaOut x.trapMode sl.d 0
      (match sl.sub.toNat with
       | 0 => x.act.setWidth 64
       | 1 => x.live.setWidth 64
       | 2 => BitVec.ofNat 64 x.mstk.length
       | 3 => ((x.mstk.head?.map MEntry.taken).getD 0).setWidth 64
       | _ => ((x.mstk.head?.map MEntry.saved).getD 0).setWidth 64)))

/-- R69, R118, R119: SETFMT writes the field that it selects and no other bit of FMT, unless the value has a
reserved bit or names format 15, which traps ILLEGAL_OPERAND with REASON 7, FIELD 1 and the operand code;
GETFMT reads the field, the scales sign-extended. -/
def Obligations.FORMAT_REGISTER_RESULTS : Prop :=
  ∀ (s : State) (x : Group) (sl : Slot),
    let v := s.ssrc x sl sl.a
    let n := sl.sub.toNat
    let lo := (fmtPlace n).1
    let wd := (fmtPlace n).2
    let refused : Prop :=
      if n = 0 then v.extractLsb' 14 2 ≠ 0 ∨ v.extractLsb' 41 23 ≠ 0 ∨ v.extractLsb' 0 4 = 15 ∨ v.extractLsb' 4 4 = 15
        ∨ v.extractLsb' 8 4 = 15
      else n ≤ 3 ∧ v.extractLsb' 0 4 = 15
    (Issues s (fSetfmt sl) sl x →
      (¬ refused → ∃ f : Word, changesGroup (.setfmt sl) s sl (fun y => { y with fmt := f })
        ∧ ∀ i, i < 64 → f.getLsbD i = if lo ≤ i ∧ i < lo + wd then v.getLsbD (i - lo) else x.fmt.getLsbD i)
      ∧ (refused → exec (.setfmt sl) s =
          traps s sl x { cause := 2, info := BitVec.ofNat 64 (7 * 2 ^ 32 + 2 ^ 10 + sl.a.toNat) }))
    ∧ (Issues s (fGetfmt sl) sl x → exec (.getfmt sl) s = writes s sl (.fixed 2) (scaOut x.trapMode sl.d 0
        (if 5 ≤ n ∧ n ≤ 7 then (x.fmt.extractLsb' lo 8).signExtend 64 else (x.fmt >>> lo) &&& (BitVec.allOnes 64 >>> (64 - wd)))))

/-- R109, R110, R112, R113, R207, R208: NOP changes only the PC and the clock; PREF and CCTL, where their bucket lets them issue,
complete with no result and change no byte that anyone reads, PREF at most a token bucket and CCTL at most lines of L1 caches;
YIELD marks the group as yielding; EXIT, once its joined barriers pass their checks and its accesses at peers are answered,
ends the group and takes it out of its workgroup. The model's choices: that PREF and CCTL check no address (assumption log
12), and that the IMM of YIELD and of EXIT is ignored (log 22). -/
def Obligations.HINTS_AND_EXIT : Prop :=
  ∀ (s : State) (x : Group) (sl : Slot),
    let i := s.atIssue sl
    let flows : Prop := ∀ p ∈ i.laneAddrs (x.cover sl) sl 1, i.egressLow (i.viewOf s.cur) p.2 = false
    (Issues s (fNop sl) sl x → exec (.nop sl) s = writes s sl .none [])
    ∧ (Issues s (fPref 3 sl) sl x → flows →
      ∃ t, exec (.pref sl) s = retired s t sl .none [] ∧ { t with fns := i.fns } = i)
    ∧ (Issues s (fPref 2 sl) sl x → flows →
      ∃ t, exec (.cctl sl) s = retired s t sl .none [] ∧ { t with cores := i.cores } = i
        ∧ ∀ c, ∃ lines, t.coreD c = { i.coreD c with l1 := lines })
    ∧ (Issues s (fBare sl) sl x →
      (∃ u y, exec (.yield sl) s = .next u ∧ u.grp? s.cur = some y ∧ y.pc = x.pc + 16 ∧ y.yielded = true
        ∧ y.sregs = x.sregs ∧ y.vregs = x.vregs ∧ y.queue = x.queue ∧ u.mem = s.mem)
      ∧ ∀ u ts, i.peerQuiet s.cur = true → i.exitTargets (i.viewOf s.cur) x.joined = (u, .ok ts) →
        ∃ t, exec (.exit sl) s = .next t ∧ t.grp? s.cur = none ∧ s.cur ∉ (t.wgD x.wg).groups)

end

namespace Sys2Proof

open Machine

/-! ### Across lanes and groups (R165 to R176) -/

/-- Element `e` of a source across all lanes, an exited lane reading 0 (R19, R166). -/
def flatElem (x : Group) (w : Nat) (v : Vec) (e : Nat) : BitVec w :=
  if x.live.getLsbD (e / (64 / w)) then elem w (e % (64 / w)) (lane v (e / (64 / w))) else 0

/-- The contribution of lane `L` to an integer reduction: the element of a live lane whose lane guard holds (R169). -/
def givesLane (x : Group) (sl : Slot) (L : Nat) : Bool :=
  x.live.getLsbD L && ((x.vp (sl.lg.toNat % 8)).getLsbD L != sl.lg.getLsbD 3)

end Sys2Proof

section

open Sys2Proof Sys2Proof.Machine

/-- R166 to R168, R171, R172: shuffles, votes, matches, and the reading and writing of one element. -/
def Obligations.CROSS_LANE_RESULTS : Prop :=
  ∀ (s : State) (x : Group) (sl : Slot),
    let w := fmtW sl
    let n := 64 / w
    let a := s.vsrc x sl w sl.a
    let amt := (s.ssrc x sl sl.b).toNat
    let ballot := x.vp (sl.a.toNat - 0x278) &&& x.sel sl
    let scalar (i : Instr) (v : Word) : Prop := exec i s = writes s sl (.fixed 6) (scaOut x.trapMode sl.d 0 v)
    (Issues s (fShfl sl) sl x →
      givesVec (.shfl sl) s x sl (if sl.sub = 0 then .var else .fixed 6) fun V => ∀ L k, L < 32 → k < n →
        let e := n * L + k
        let own := elem w k (lane a L)
        elem w k (lane V L) =
          match sl.sub.toNat with
          | 0 => let i := (elem w k (lane (s.vsrc x sl w sl.b) L)).toNat
                 if i < 32 * n then flatElem x w a i else own
          | 1 => if e ^^^ amt < 32 * n then flatElem x w a (e ^^^ amt) else own
          | 2 => if amt ≤ e then flatElem x w a (e - amt) else own
          | _ => if e + amt < 32 * n then flatElem x w a (e + amt) else own)
    ∧ (Issues s (fVote sl) sl x → scalar (.vote sl)
      (match sl.sub.toNat with
       | 0 => if ballot ≠ 0 then 1 else 0
       | 1 => if ballot = BitVec.allOnes 32 then 1 else 0
       | 2 => ballot.setWidth 64
       | _ => if ballot = 0 ∨ ballot = BitVec.allOnes 32 then 1 else 0))
    ∧ (Issues s (fMatch sl) sl x → givesVec (.matchLanes sl) s x sl (.fixed 6) fun V => ∀ L M, L < 32 → M < 64 →
      ((lane V L).getLsbD M = true ↔ M < 32 ∧
        (if x.live.getLsbD M then lane (s.vsrc x sl 64 sl.a) M else 0)
          = (if x.live.getLsbD L then lane (s.vsrc x sl 64 sl.a) L else 0)))
    ∧ (Issues s (fVget sl) sl x → scalar (.vget sl) (widen sl (if amt < 32 * n then flatElem x w a amt else (0 : BitVec w))))
    ∧ (Issues s (fVset sl) sl x → ∃ m V, exec (.vset sl) s = writes s sl (.fixed 6) (vecOut x.trapMode sl.d 0 m V)
      ∧ (∀ L, L < 32 → (m.getLsbD L = true ↔ (x.sel sl).getLsbD L = true ∧ amt < 32 * n ∧ L = amt / n))
      ∧ ∀ L k, L < 32 → k < n → elem w k (lane V L) =
        if k = amt % n then (s.ssrc x sl sl.a).setWidth w else elem w k (lane (s.oldDst x sl.d) L))

/-- R169, R170, Table 7.2: the integer reductions and scans, whatever order the lanes are combined in: sum, least,
greatest, and, or, exclusive or of the live guarded lanes, the identity where there are none. -/
def Obligations.INTEGER_REDUCTION_RESULTS : Prop :=
  ∀ (s : State) (x : Group) (sl : Slot),
    let w := tyW sl
    let v (k L : Nat) : BitVec w := elem w k (lane (s.vsrc x sl w sl.a) L)
    let total (k n : Nat) (r : BitVec w) : Prop :=
      let ls := (List.range n).filter (givesLane x sl)
      match sl.sub.toNat % 8 with
      | 0 => r = fitted sl w ((ls.map fun L => typedInt sl (v k L)).sum)
      | 1 => (∀ L ∈ ls, typedInt sl r ≤ typedInt sl (v k L)) ∧ (ls ≠ [] → ∃ L ∈ ls, r = v k L)
        ∧ (ls = [] → r = BitVec.ofInt w (if tyS sl then 2 ^ (w - 1) - 1 else 2 ^ w - 1))
      | 2 => (∀ L ∈ ls, typedInt sl (v k L) ≤ typedInt sl r) ∧ (ls ≠ [] → ∃ L ∈ ls, r = v k L)
        ∧ (ls = [] → r = BitVec.ofInt w (if tyS sl then -2 ^ (w - 1) else 0))
      | 3 => ∀ i, i < w → (r.getLsbD i = true ↔ ∀ L ∈ ls, (v k L).getLsbD i = true)
      | 4 => ∀ i, i < w → (r.getLsbD i = true ↔ ∃ L ∈ ls, (v k L).getLsbD i = true)
      | _ => ∀ i, i < w → r.getLsbD i = decide ((ls.filter fun L => (v k L).getLsbD i).length % 2 = 1)
    tyI sl = true →
    (Issues s (fLred sl) sl x → ∃ r : Word,
      exec (.lred sl) s = writes s sl (.fixed 6) (scaOut x.trapMode sl.d 0 r) ∧ ∀ k, k < 64 / w → total k 32 (elem w k r))
    ∧ (Issues s (fLscan sl) sl x → givesVec (.lscan sl) s x sl (.fixed 6) fun V => ∀ L k, L < 32 → k < 64 / w →
        total k (if sl.sub.getLsbD 3 then L else L + 1) (elem w k (lane V L)))

/-- R54, R55, R72, R169, R170: the float reductions and scans give, for each element position, the combination of the lanes'
contributions: tapered sums exact and rounded once, IEEE sums by the pairwise tree of R72 or, in a scan, from lane
0 up. That FMT bit 40 saturates them, and that the first sum of a scan is the first contribution itself, put into canonical
form, are the model's choices (assumption log 13). -/
def Obligations.FLOAT_REDUCTION_RESULTS : Prop :=
  ∀ (s : State) (x : Group) (sl : Slot),
    let f := tyFmt sl
    let w := fmtW sl
    let op := sl.sub.toNat % 8
    let part (k L : Nat) : Nat := if givesLane x sl L then (elem w k (lane (s.vsrc x sl w sl.a) L)).toNat
      else redIdent op f (modRnd sl)
    tyF sl = true →
    (Issues s (fLred sl) sl x → ∃ r : Word,
      exec (.lred sl) s = writes s sl (.fixed 6) (scaOut x.trapMode sl.d 0 r)
      ∧ ∀ k, k < 64 / w → elem w k r = BitVec.ofNat w
          (redCombine op f (modRnd sl) (sl.md.getLsbD 0) (x.fmt.getLsbD 40) true ((List.range 32).map (part k))))
    ∧ (Issues s (fLscan sl) sl x → givesVec (.lscan sl) s x sl (.fixed 6) fun V => ∀ L k, L < 32 → k < 64 / w →
        let n := if sl.sub.getLsbD 3 then L else L + 1
        elem w k (lane V L) = BitVec.ofNat w (if n = 0 then redIdent op f (modRnd sl) else
          redCombine op f (modRnd sl) (sl.md.getLsbD 0) (x.fmt.getLsbD 40) false ((List.range n).map (part k))))

/-- R173 to R176, R187: in an idle slot of a workgroup with other groups a transfer waits; where a peer waits with the
same form and count, both complete, the slot goes idle and the receiver's registers take the sender's values;
XPROBE reads whether a peer waits. XSLOT traps come with REASON 1, at both groups, where form or count differ, with REASON 2
where a group waits in the same direction, and with REASON 3 where the workgroup has no other group. -/
def Obligations.TRANSFER_SLOT_RENDEZVOUS : Prop :=
  ∀ (s : State) (x : Group) (sl : Slot),
    let j := sl.imm.toNat % 16
    let e := (tget (s.wgD x.wg).slots j).getD { st := 0, grp := 0 }
    let idle : Prop := e.st = 0 ∧ ∃ h ∈ (s.wgD x.wg).groups, h ≠ s.cur
    let waiting (send : Bool) : Prop := ∃ t y, (exec (if send then .xsend sl else .xrecv sl) s = .next t)
      ∧ t.grp? s.cur = some y ∧ y.wait = .xfer j send sl ∧ y.pc = x.pc ∧ y.sregs = x.sregs ∧ y.vregs = x.vregs
      ∧ (tget s.wgs x.wg ≠ none → (tget (t.wgD x.wg).slots j) = some { st := if send then 1 else 2, grp := s.cur })
    let meets (st : Nat) (psl : Slot) : Prop := e.st = st ∧ ∃ send, (s.grpD e.grp).wait = .xfer j send psl
      ∧ psl.sub = sl.sub ∧ xferShape psl = xferShape sl ∧ e.grp ≠ s.cur
    let xslot (reason n : Nat) : Raise := { cause := 21, info := BitVec.ofNat 64 (reason * 2 ^ 32 + n) }
    let alone : Prop := e.st = 0 ∧ ∀ h ∈ (s.wgD x.wg).groups, h = s.cur
    let differs (st : Nat) (psl : Slot) : Prop := e.st = st ∧ e.grp ≠ s.cur ∧
      (∃ send, (s.grpD e.grp).wait = .xfer j send psl) ∧ xferShape psl ≠ xferShape sl
    let stops (c : Instr) (own other : Nat) : Prop :=
      (alone → exec c s = traps s sl x (xslot 3 j)) ∧ (e.st = own → exec c s = traps s sl x (xslot 2 j))
      ∧ ∀ psl, differs other psl →
        let u := ((s.atIssue sl).unwait e.grp).raise e.grp (xslot 1 (psl.imm.toNat % 16)) (s.grpD e.grp).pc
        exec c s = .next (if (u.grp? s.cur).isSome then u.raise s.cur (xslot 1 j) x.pc else u)
    (Issues s (fXsend sl) sl x →
      stops (.xsend sl) 1 2 ∧ (idle → waiting true)
      ∧ ∀ psl, meets 2 psl → exec (.xsend sl) s = retired s
          (((s.atIssue sl).unwait e.grp).finish e.grp psl .blocking
            ((s.atIssue sl).xferWrites (x.cover sl) (s.grpD e.grp) sl psl) false) sl .none [])
    ∧ (Issues s (fXrecv sl) sl x →
      stops (.xrecv sl) 2 1 ∧ (idle → waiting false)
      ∧ ∀ psl, meets 1 psl → exec (.xrecv sl) s = retired s
          (((s.atIssue sl).unwait e.grp).finish e.grp psl .none [] false) sl .blocking
          ((s.atIssue sl).xferWrites (s.grpD e.grp) (x.cover sl) psl sl))
    ∧ (Issues s (fXprobe sl) sl x → exec (.xprobe sl) s = writes s sl .var
        (scaOut x.trapMode sl.d 0 (if e.st = (if sl.sub = 0 then 1 else 2) then 1 else 0)))

end

namespace Sys2Proof

open Machine

/-! ### Bins (R177 to R189) -/

/-- A bin instruction's descriptor at `a`, which it writes where `wr` says so: the group's bucket has room, its accesses at
peers are answered, the address passes the checks of R179 and names `t`, which answers and on which no other operation is
under way; `b` is the descriptor, and `u` the state once it has been read. -/
structure BinAt (s : State) (v : View) (a : Word) (wr : Bool) (t : Target) (b : Bin) (u : State) : Prop where
  room : s.egressLow v a = false
  quiet : s.peerQuiet s.cur = true
  checked : (s.resolve v a 64 64 5 wr).2 = .ok t
  alone : s.lockFree t.key = true
  read : ∃ n, ((((s.resolve v a 64 64 5 wr).1.lockTake t.key).binRel v t).accountOne v t a).readP v t 64 a 5 = (u, .ok n)
    ∧ b = Bin.ofNat n

/-- The `w` frame registers from the code in field B lie within the allotment, pass check mode, and have no result on the
way (R87 to R89, R181, R182). -/
def frameFree (u : State) (x : Group) (sl : Slot) (w : Nat) : Prop :=
  frameBad x sl.b w = false
    ∧ checkUses (x.cover sl) (u.ctxD (u.wgD x.wg).fn (u.wgD x.wg).ctx).checkMode sl (frameUses x sl w) = none
    ∧ x.pending (frameUses x sl w) = false

/-- The bitmaps of a bin, of which an instruction writes those that `wo` and `ww` say, pass their checks and answer; `u'` is
the state once they have been read. -/
structure MapsAt (u : State) (v : View) (b : Bin) (wo ww : Bool) (o w : BitMap) (u' : State) : Prop where
  read : ∃ y, u.readMaps v b wo ww = (y, .ok (o, w)) ∧ u' = y.account v true true (o.ps ++ w.ps)
  answers : firstErr (o.ps ++ w.ps) = none

/-- R181: with enough free rows, SUSP stores the frames of the selected lanes, lowest lane to lowest free row,
retires those lanes from LIVE, ACT and the mask stack, counts them in SUSPN, and gives their number; without enough, and
with no overflow ring, it traps BIN_OVERFLOW, with TRAPADDR the descriptor (the model's choice, assumption log 32); with no
lane selected it gives 0 and writes nothing. A bin that is not initialised traps SYNC_ILLEGAL with REASON 0x10. -/
def suspResults : Prop :=
  ∀ (s : State) (x : Group) (sl : Slot) (t : Target) (b : Bin) (u u' u'' : State) (o w : BitMap)
      (rows : List (List Piece)),
    let i := s.atIssue sl
    let v := i.viewOf s.cur
    let m := x.sel sl
    let ls := lanesOf m
    let free := (List.range b.cap).filter fun r => !o.m.testBit r
    let take := free.take ls.length
    let some := decide (ls ≠ [])
    let gone (y : Group) : Group := { y with live := y.live &&& ~~~m, act := y.act &&& ~~~m
                                             mstk := y.mstk.map fun e => { e with saved := e.saved &&& ~~~m, taken := e.taken &&& ~~~m } }
    Issues s (fSusp sl) sl x → BinAt i v (s.ssrc x sl sl.a) some t b u →
    (b.init = false → exec (.susp sl) s = .next (u.raise s.cur
      { cause := 19, addr := s.ssrc x sl sl.a, info := BitVec.ofNat 64 (0x10 * 2 ^ 32) } x.pc))
    ∧ (b.init = true → frameFree u x sl b.w → ls = [] → MapsAt u v b false false o w u' →
      exec (.susp sl) s = retired s ((u'.updGrp s.cur gone).binAcq v t) sl .var (scaOut x.trapMode sl.d 0 0))
    ∧ (b.init = true → frameFree u x sl b.w → MapsAt u v b some some o w u' →
      u'.binRows v b true (take.zip ls) = (u'', .ok rows) → free.length < ls.length → b.ovfl = 0 →
      exec (.susp sl) s = .next (u''.raise s.cur { cause := 18, addr := s.ssrc x sl sl.a } x.pc))
    ∧ (b.init = true → frameFree u x sl b.w → MapsAt u v b some some o w u' → ls.length ≤ free.length → ls ≠ [] →
    u'.binRows v b true (take.zip ls) = (u'', .ok rows) → firstErr rows.flatten = none →
    exec (.susp sl) s = retired s
      (((((ls.zip rows).foldl (fun z p => z.writeAll v 8 5 true
            (p.2.zip ((List.range b.w).map fun n => (lane (u''.vreg x sl.b n) p.1).toNat)))
          (u''.account v true true rows.flatten)).binSet v t (s.ssrc x sl sl.a)
          { b with suspn := b.suspn + ls.length } o w (o.m ||| bitsOf take) w.m).updGrp s.cur gone).binAcq v t)
      sl .var (scaOut x.trapMode sl.d 0 (BitVec.ofNat 64 ls.length)))

/-- R182: RESUME of a bin without a continuation takes up to 32 woken rows in ascending order, gives their frames to
lanes 0 up, sets LIVE and ACT to those lanes, frees the rows, and gives their number; with LIVE or MSTK not empty
it traps SYNC_ILLEGAL with REASON 0x12. With an overflow ring it first moves the ring's elements to the free rows, lowest
first, which wake where OVWAKE says so; a bin that is not initialised traps with REASON 0x10. -/
def resumeResults : Prop :=
  ∀ (s : State) (x : Group) (sl : Slot) (t : Target) (b : Bin) (u u' u'' : State) (o w : BitMap)
      (rows : List (List Piece)),
    let i := s.atIssue sl
    let v := i.viewOf s.cur
    let a := s.ssrc x sl sl.a
    let taken := (rowsOf b.cap (o.m &&& w.m)).take 32
    let k := taken.length
    let m : Mask := BitVec.ofNat 32 (2 ^ k - 1)
    let ask := (u''.account v true false rows.flatten).askRows v 5 rows
    let got := ask.1.readRows v ask.2
    let frame (n : Nat) : Vec := vecOf fun L => BitVec.ofNat 64 ((got.2.getD L []).getD n 0)
    Issues s (fResume sl) sl x →
    (x.live ≠ 0 ∨ x.mstk ≠ [] →
      exec (.resume sl) s = traps s sl x { cause := 19, addr := a, info := BitVec.ofNat 64 (0x12 * 2 ^ 32) })
    ∧ (x.live = 0 → x.mstk = [] → BinAt i v a true t b u → b.init = true → b.ovfl = 0 → b.cont = 0 →
      frameFree u x sl b.w → MapsAt u v b true true o w u' →
      u'.binRows v b false taken.zipIdx = (u'', .ok rows) → firstErr ask.2.flatten = none →
      exec (.resume sl) s = retired s
        (((got.1.binSet v t a { b with resn := b.resn + k } o w (andNot o.m (bitsOf taken)) (andNot w.m (bitsOf taken))).updGrp
          s.cur fun y => { y with live := m, act := m }).binAcq v t) sl .blocking
        (((List.range b.w).flatMap fun n => vecOut x.trapMode sl.b n m (frame n))
          ++ scaOut x.trapMode sl.d 0 (BitVec.ofNat 64 k)))
    ∧ (x.live = 0 → x.mstk = [] → BinAt i v a true t b u → b.init = false → exec (.resume sl) s = .next (u.raise s.cur
        { cause := 19, addr := a, info := BitVec.ofNat 64 (0x10 * 2 ^ 32) } x.pc))
    ∧ ∀ z p rt rc y, x.live = 0 → x.mstk = [] → BinAt i v a true t b u → b.init = true → b.cont = 0 → frameFree u x sl b.w →
      MapsAt u v b true true o w u' → u'.binRing v b false = (y, .ok (some (rt, rc))) →
      u'.resumePlan v b o w = (z, .ok p) →
      firstErr (p.drainRows.flatten ++ p.rows.flatten ++ p.elems.flatten) = none →
      let free := (List.range b.cap).filter fun r => !o.m.testBit r
      let into := free.take rc.count
      let r := z.resume v x sl t a b o w p
      p.elems.length = into.length ∧ p.om = o.m ||| bitsOf into
        ∧ p.wm = (if b.ovwake then w.m ||| bitsOf into else andNot w.m (bitsOf into))
        ∧ p.taken = (rowsOf b.cap (p.om &&& p.wm)).take 32
        ∧ exec (.resume sl) s = retired s r.1 sl .blocking r.2

end Sys2Proof

section

open Sys2Proof Sys2Proof.Machine

/-- R180, R183, R184, R186: on an initialised bin whose structures may be accessed, BINQ reads its counts, WAKE sets
wake bits of occupied rows below CAP, and BINDROP clears rows, and for `.all` empties the overflow ring; each leaves OCC and
WOKEN recounted. BININIT empties a bin whose descriptor is valid. A bin that is not initialised traps SYNC_ILLEGAL with REASON
0x10, an invalid descriptor with 0x11, and a base that is not a multiple of 32 with 0x13. That BINQ.ovf answers 0 where OVFL
is 0 is the model's choice (assumption log 32). -/
def Obligations.BIN_QUEUE_RESULTS : Prop :=
  ∀ (s : State) (x : Group) (sl : Slot) (t : Target) (b : Bin) (u u' : State) (o w : BitMap),
    let i := s.atIssue sl
    let v := i.viewOf s.cur
    let a := s.ssrc x sl sl.a
    let r0 := (s.ssrc x sl sl.b).toNat
    let rows := (((List.range 32).filter fun j => (s.ssrc x sl sl.c).getLsbD j).map (r0 + ·)).filter fun r => decide (r < b.cap)
    let done (c : Instr) (k : Machine.Lat) (z : State) (ws : List RegWrite) : Prop :=
      exec c s = retired s (z.binAcq v t) sl k ws
    let setIn (z : State) (om wm : Nat) : State :=
      ((z.writeMap v o om).writeMap v w (wm &&& om)).binPut v t a
        { b with occ := popc b.cap om, woken := popc b.cap (wm &&& om) }
    let set (om wm : Nat) : State := setIn u' om wm
    let stop (c : Instr) (reason : Nat) : Prop := exec c s = .next (u.raise s.cur
      { cause := 19, addr := a, info := BitVec.ofNat 64 (reason * 2 ^ 32) } x.pc)
    let without (m : Nat) (rs : List Nat) : Nat := m ^^^ (m &&& bitsOf rs)
    (BinAt i v a false t b u → Issues s (fBinq sl) sl x →
      (b.init = false → stop (.binq sl) 0x10)
      ∧ (b.init = true →
        (sl.sub = 0 → done (.binq sl) .var u (scaOut x.trapMode sl.d 0 (BitVec.ofNat 64 b.occ)))
        ∧ (sl.sub = 1 → done (.binq sl) .var u (scaOut x.trapMode sl.d 0 (BitVec.ofNat 64 b.woken)))
        ∧ (sl.sub = 2 → b.ovfl = 0 → done (.binq sl) .var u (scaOut x.trapMode sl.d 0 0))
        ∧ (sl.sub = 2 → ∀ z rt rc, u.binRing v b false = (z, .ok (some (rt, rc))) →
          done (.binq sl) .var z (scaOut x.trapMode sl.d 0 (BitVec.ofNat 64 rc.count)))))
    ∧ (BinAt i v a true t b u →
      (b.init = false →
        (Issues s (fWakeRows sl) sl x → stop (.wakeRows sl) 0x10)
        ∧ (Issues s (fBindropRows sl) sl x → stop (.bindropRows sl) 0x10)
        ∧ (Issues s (fWakeLanes sl) sl x → stop (.wakeLanes sl) 0x10)
        ∧ (Issues s (fWakeAll sl) sl x → stop (.wakeAll sl) 0x10)
        ∧ (Issues s (fBindropSet sl) sl x → stop (.bindropSet sl) 0x10))
      ∧ (b.init = true → r0 % 32 ≠ 0 →
        (Issues s (fWakeRows sl) sl x → stop (.wakeRows sl) 0x13)
        ∧ (Issues s (fBindropRows sl) sl x → stop (.bindropRows sl) 0x13))
      ∧ (b.init = true → MapsAt u v b false true o w u' →
        (Issues s (fWakeRows sl) sl x → r0 % 32 = 0 → done (.wakeRows sl) .none (set o.m (w.m ||| bitsOf rows)) [])
        ∧ (Issues s (fWakeLanes sl) sl x → done (.wakeLanes sl) .none (set o.m (w.m ||| bitsOf
            (((lanesOf (x.sel sl)).map fun L => (lane (s.vsrc x sl 64 sl.b) L).toNat % 2 ^ 32).filter
              fun r => decide (r < b.cap)))) [])
        ∧ (Issues s (fWakeAll sl) sl x →
          done (.wakeAll sl) .none (set o.m (w.m ||| bitsOf ((rowsOf b.cap o.m).filter fun r => decide (r < b.cap)))) []))
      ∧ (b.init = true → MapsAt u v b true true o w u' →
        (Issues s (fBindropRows sl) sl x → r0 % 32 = 0 →
          done (.bindropRows sl) .none (set (without o.m rows) (without w.m rows)) [])
        ∧ (Issues s (fBindropSet sl) sl x → sl.sub = 1 →
          let gone := (rowsOf b.cap (o.m &&& w.m)).filter fun r => decide (r < b.cap)
          done (.bindropSet sl) .none (set (without o.m gone) (without w.m gone)) [])
        ∧ (Issues s (fBindropSet sl) sl x → sl.sub = 2 → b.ovfl = 0 →
          let gone := (List.range b.cap).filter fun r => decide (r < b.cap)
          done (.bindropSet sl) .none (set (without o.m gone) (without w.m gone)) [])
        ∧ (Issues s (fBindropSet sl) sl x → sl.sub = 2 → ∀ z rt rc, u'.binRing v b true = (z, .ok (some (rt, rc))) →
          let gone := (List.range b.cap).filter fun r => decide (r < b.cap)
          done (.bindropSet sl) .none (setIn (z.ringIndex v rt b.ovfl 8 rc.pidx) (without o.m gone) (without w.m gone)) []))
      ∧ (Issues s (fBininit sl) sl x →
        (b.valid none = false → stop (.bininit sl) 0x11)
        ∧ (∀ z rc z', u.initRing v b = (z, .ok (some rc)) → b.valid (some rc) = true → MapsAt z v b true true o w z' →
          exec (.bininit sl) s = retired s
            ((z'.binSet v t a { b with init := true, suspn := 0, resn := 0 } o w 0 0).binAcq v t) sl .blocking [])
        ∧ (b.valid none = true → b.ovfl = 0 → MapsAt u v b true true o w u' →
          exec (.bininit sl) s = retired s
            ((u'.binSet v t a { b with init := true, suspn := 0, resn := 0 } o w 0 0).binAcq v t) sl .blocking [])))

/-- R181, R182: suspending lanes into a bin, and resuming woken rows; that the BIN_OVERFLOW trap has TRAPADDR the descriptor is
the model's choice (assumption log 32). -/
def Obligations.SUSP_AND_RESUME_RESULTS : Prop := suspResults ∧ resumeResults

/-- R185: FXFORM applies its operation to column C of every occupied row of the bin, in ascending order of rows, and then of
every element of its overflow ring, from the oldest on; a column at or above W traps SYNC_ILLEGAL with REASON 0x14. -/
def Obligations.FXFORM_RESULTS : Prop :=
  ∀ (s : State) (x : Group) (sl : Slot) (t : Target) (b : Bin) (u u' u'' : State) (o : BitMap)
      (rows : List (List Piece)),
    let i := s.atIssue sl
    let v := i.viewOf s.cur
    let a := s.ssrc x sl sl.a
    let c := (s.ssrc x sl sl.c).toNat
    let y := fxOperand sl s x (fmtW sl)
    let at_ (l : List (List Piece)) := l.filterMap fun e => e[c]?
    let f (_ old : Nat) : Nat := fxWord sl (x.fmt.getLsbD 40) y old
    let column := (u''.account v true false (o.ps ++ at_ rows)).askAll v 8 5 (at_ rows)
    Issues s (fFxform sl) sl x → BinAt i v a false t b u → b.init = true →
    (b.w ≤ c → exec (.fxform sl) s = .next (u.raise s.cur
      { cause := 19, addr := a, info := BitVec.ofNat 64 (0x14 * 2 ^ 32) } x.pc))
    ∧ (c < b.w → b.ovfl = 0 → u.readMap v b b.occaddr false = (u', .ok o) →
      u'.binRows v b true ((rowsOf b.cap o.m).map fun n => (n, 0)) = (u'', .ok rows) → firstErr (o.ps ++ column.2) = none →
      exec (.fxform sl) s = retired s ((column.1.rmwNeed v 8 5 f column.2).binAcq v t) sl .none [])
    ∧ (c < b.w → u.readMap v b b.occaddr false = (u', .ok o) →
      u'.binRows v b true ((rowsOf b.cap o.m).map fun n => (n, 0)) = (u'', .ok rows) → ∀ z z' rt rc el,
      u''.binRing v b false = (z, .ok (some (rt, rc))) → z.ringElems v rc true rc.cidx rc.count = (z', .ok el) →
      let k := (z'.account v true false (o.ps ++ at_ rows ++ at_ el)).askAll v 8 5 (at_ rows)
      let j := k.1.askAll v 8 6 (at_ el)
      firstErr (o.ps ++ k.2 ++ j.2) = none → exec (.fxform sl) s = retired s
        (((j.1.rmwNeed v 8 5 f k.2).rmwNeed v 8 6 f j.2).binAcq v t) sl .none [])

end

namespace Sys2Proof

open Machine

/-! ### Memory, atomics and fences (R190 to R209) -/

/-- The accesses of an instruction, of `words` words a lane: no bucket holds them back, and where it synchronises the group's
accesses at peers are answered; each passes the checks of R193 and none is answered by an error. `ps` are the accesses, and
`u` is the state in which they are performed: what their slot waits for is answered, the column action of a release is done,
the bucket is debited, and the other requests to peers are sent. -/
structure AccessAt (i : State) (v : View) (sl : Slot) (n kind : Nat) (hub : Bool) (words : Nat) (ask : Ask)
    (addrs : List (Nat × Word)) (ps : List Piece) (u : State) : Prop where
  room : (addrs.any fun p => i.egressLow v p.2) = false
  quiet : sl.md.toNat % 4 ≠ 0 ∨ 2 ≤ kind → i.peerQuiet i.cur = true
  checked : ∃ r ps0, i.resolveAll v n n kind (kindWrites kind) addrs = (r, .ok ps0) ∧
    let a := r.told v sl n kind words ask 0 (ps0.map (r.orWay sl kind))
    let b := (a.1.ordBefore v sl).account v hub (decide (kind = 1)) ps
    ps = lanePieces words a.2 ∧ u = if kind = 1 then b else b.askPeers v ask 0 ps
  answers : firstErr ps = none

/-- R193, R197 to R202: an access whose addresses pass the checks and are answered completes: it reads or changes
each place in ascending order of lanes, between the column actions of its order, and its results go to D alone; the
words of one lane of LDX and STX report the lane's address. -/
def accessesComplete : Prop :=
  ∀ (s : State) (x : Group) (sl : Slot) (ps : List Piece) (u : State),
    let i := s.atIssue sl
    let v := i.viewOf s.cur
    let w := tyW sl
    let n := cntN sl
    let hub := decide (sl.md.toNat % 4 ≠ 0) && decide (3 ≤ sl.scp.toNat)
    let at_ (k kind words : Nat) (ask : Ask) (addrs : List (Nat × Word)) : Prop :=
      AccessAt i v sl k kind hub words ask addrs ps u
    let one := loadAsk x (w / 8) w (tyS sl) fun _ => dstRef x.trapMode sl.d 0
    let word (m : Nat) := loadAsk x 8 64 false fun j => dstRef x.trapMode sl.d (j % m)
    let loads (c : Instr) (k : Nat) (regs : List RegRef) : Prop :=
      ∃ ws, exec c s = retired s ((u.readAll v k hub ps).1.ordAfter v sl) sl .var ws ∧ ∀ r ∈ ws.map RegWrite.ref, r ∈ regs
    let stores (c : Instr) (k : Nat) (value : Nat → Piece → Nat) : Prop :=
      exec c s = retired s ((u.writeAll v k 1 hub (ps.zipIdx.map fun e => (e.1, value e.2 e.1))).ordAfter v sl) sl .none []
    let dest (m : Nat) := (List.range m).filterMap fun j => dstRef x.trapMode sl.d j
    (Issues s (fLd sl) sl x → at_ (w / 8) 0 1 one (i.laneAddrs x sl 1) → loads (.ld sl) (w / 8) (dest 1))
    ∧ (Issues s (fLdx sl) sl x → at_ 8 0 n (word n) (i.laneAddrs x sl n) → loads (.ldx sl) 8 (dest n))
    ∧ (Issues s (fLds sl) sl x → at_ (w / 8) 0 1 one [(0, i.scaAddr x sl)] → loads (.lds sl) (w / 8) (dest 1))
    ∧ (Issues s (fLdb sl) sl x → at_ 8 0 1 (loadAsk x 8 64 false fun _ => dstRef x.trapMode sl.d 0) (i.blockAddrs x sl) →
      loads (.ldb sl) 8 (dest 1))
    ∧ (Issues s (fSt sl) sl x → at_ (w / 8) 1 1 noAsk (i.laneAddrs x sl 1) →
      stores (.st sl) (w / 8) fun _ p => (lane (s.vsrc x sl w sl.b) p.lane).toNat % 2 ^ w)
    ∧ (Issues s (fStx sl) sl x → at_ 8 1 n noAsk (i.laneAddrs x sl n) →
      stores (.stx sl) 8 fun j p => (lane (s.vreg x sl.b (j % n)) p.lane).toNat)
    ∧ (Issues s (fSts sl) sl x → at_ (w / 8) 1 1 noAsk [(0, i.scaAddr x sl)] →
      stores (.sts sl) (w / 8) fun _ _ => (s.ssrc x sl sl.b).toNat % 2 ^ w)
    ∧ (Issues s (fStb sl) sl x → at_ 8 1 1 noAsk (i.blockAddrs x sl) →
      stores (.stb sl) 8 fun _ p => (lane (s.vsrc x sl 64 sl.b) p.lane).toNat)

/-- The window offset that address `a` names, when `n` bytes there are aligned and lie in group `x`'s window (R191,
R192). -/
def inWindow (s : State) (x : Group) (a : Word) (n : Nat) : Prop :=
  a.extractLsb' 60 4 = 1 ∧ a.toNat % n = 0 ∧ (a.extractLsb' 0 60).toNat + n ≤ (s.wgD x.wg).wb

/-- The location of a window address. -/
def windowLoc (x : Group) (a : Word) : Nat := winLoc x.wg (a.extractLsb' 0 60).toNat

/-- The new value that an atomic operation on an integer type stores (Table 8.6). -/
def atomInt (sl : Slot) {w : Nat} (old b c : BitVec w) : BitVec w :=
  match sl.sub.toNat with
  | 0 => old + b
  | 1 => if typedInt sl b < typedInt sl old then b else old
  | 2 => if typedInt sl old < typedInt sl b then b else old
  | 3 => old &&& b
  | 4 => old ||| b
  | 5 => old ^^^ b
  | 6 => b
  | 7 => if old = b then c else old
  | 8 => if b.toNat ≤ old.toNat then 0 else old + 1
  | _ => if old = 0 ∨ b.toNat < old.toNat then b else old - 1

/-- R55, R200, R201, R203, R374: every atomic and reduction, of any type and in any space, whose addresses pass the checks and
are answered completes; reductions act at the hub, atomics there from scope 3 up, and an OR of any scope where it meets a
leaf entry. FMT bit 40 bounds every float result but that of an addition. -/
def atomicsComplete : Prop :=
  ∀ (s : State) (x : Group) (sl : Slot) (ps : List Piece) (u : State),
    let i := s.atIssue sl
    let v := i.viewOf s.cur
    let f := atomFmt sl
    let w := f.width
    let n := if sl.sub = 10 then 2 * w else w / 8
    let hub := decide (3 ≤ sl.scp.toNat)
    let B (L : Nat) : Nat := (lane (s.vsrc x sl w sl.b) L).toNat % 2 ^ w
    let C (L : Nat) : Nat := (lane (if sl.sub = 7 then s.vsrc x sl w sl.c else Vec.zero) L).toNat % 2 ^ w
    let b := (s.ssrc x sl sl.b).toNat % 2 ^ w
    let c := if sl.sub = 7 then (s.ssrc x sl sl.c).toNat % 2 ^ w else 0
    let new (B C : Nat → Nat) (L old : Nat) : Nat := atomNew sl.sub.toNat f (x.fmt.getLsbD 40) old (B L) (C L)
    (Issues s (fAtom sl) sl x →
      AccessAt i v sl (w / 8) 2 hub 1 (atomAsk x sl (w / 8) w 2 (dstRef x.trapMode sl.d 0) B C) (i.laneAddrs x sl 1) ps u →
      ∃ ws, exec (.atom sl) s = retired s ((u.rmwAll v (w / 8) hub (new B C) ps).1.ordAfter v sl) sl .var ws
        ∧ ∀ r ∈ ws.map RegWrite.ref, dstRef x.trapMode sl.d 0 = some r)
    ∧ (Issues s (fAtoms sl) sl x →
      AccessAt i v sl (w / 8) 2 hub 1 (atomAsk x sl (w / 8) w 2 (dstRef x.trapMode sl.d 0) (fun _ => b) fun _ => c)
        [(0, i.scaAddr x sl)] ps u →
      ∃ ws, exec (.atoms sl) s =
          retired s ((u.rmwAll v (w / 8) hub (new (fun _ => b) fun _ => c) ps).1.ordAfter v sl) sl .var ws
        ∧ ∀ r ∈ ws.map RegWrite.ref, dstRef x.trapMode sl.d 0 = some r)
    ∧ (Issues s (fRed sl) sl x →
      AccessAt i v sl n 3 true 1 (atomAsk x sl n w 3 none B fun _ => 0) (i.laneAddrs x sl 1) ps u →
      exec (.red sl) s = retired s ((u.rmwAll v n true
        (if sl.sub = 10 then fun L old => qaddNew w old (B L) else new B fun _ => 0) ps).1.ordAfter v sl) sl .none [])

end Sys2Proof

section

open Sys2Proof Sys2Proof.Machine

/-- R6, R192: a number written at a location is what those bytes read as, and no other byte changes. -/
def Obligations.MEMORY_READS_WHAT_WAS_WRITTEN : Prop :=
  ∀ (s : State) (l n v : Nat),
    (s.wr l n v).rd l n = v % 2 ^ (8 * n) ∧ ∀ a, a < l ∨ l + n ≤ a → (s.wr l n v).rdByte a = s.rdByte a

/-- R191, R192, R197, R198: plain loads from the window change nothing but D, which takes the little-endian bytes
extended by the type, and for LDX the N words of each lane; plain stores change only the bytes that they store to, lane by
lane in ascending order, and for STX word by word. -/
def Obligations.SCRATCHPAD_LOADS_AND_STORES : Prop :=
  ∀ (s : State) (x : Group) (sl : Slot),
    let w := tyW sl
    let n := w / 8
    let i := s.atIssue sl
    let addr (L : Nat) : Word := lane (s.vsrc x sl 64 sl.a) L + sl.imm.signExtend 64
    let sAddr : Word := s.ssrc x sl sl.a + sl.imm.signExtend 64
    let block (L : Nat) : Word := sAddr + BitVec.ofNat 64 (8 * L)
    let word (L j : Nat) : Word := addr L + BitVec.ofNat 64 (8 * j)
    let m := cntN sl
    let selected (L : Nat) : Prop := L < 32 ∧ (x.sel sl).getLsbD L = true
    sl.md = 0 →
    (Issues s (fLd sl) sl x → (∀ L, selected L → inWindow s x (addr L) n) →
      givesVec (.ld sl) s x sl .var fun V => ∀ L, selected L →
        lane V L = widen sl (BitVec.ofNat w (s.rd (windowLoc x (addr L)) n)))
    ∧ (Issues s (fLdx sl) sl x → (∀ L j, selected L → j < m → inWindow s x (word L j) 8) →
      ∃ V : Nat → Vec, exec (.ldx sl) s =
          writes s sl .var ((List.range m).flatMap fun j => vecOut x.trapMode sl.d j (x.sel sl) (V j))
        ∧ ∀ L j, selected L → j < m → lane (V j) L = BitVec.ofNat 64 (s.rd (windowLoc x (word L j)) 8))
    ∧ (Issues s (fStx sl) sl x → (∀ L j, selected L → j < m → inWindow s x (word L j) 8) →
      exec (.stx sl) s = retired s ((lanesOf (x.sel sl)).foldl (fun t L => (List.range m).foldl (fun t j =>
        t.wr (windowLoc x (word L j)) 8 (lane (s.vreg x sl.b j) L).toNat) t) i) sl .none [])
    ∧ (Issues s (fLds sl) sl x → inWindow s x sAddr n → exec (.lds sl) s = writes s sl .var
        (scaOut x.trapMode sl.d 0 (widen sl (BitVec.ofNat w (s.rd (windowLoc x sAddr) n)))))
    ∧ (Issues s (fLdb sl) sl x → (∀ L, selected L → inWindow s x (block L) 8) →
      givesVec (.ldb sl) s x sl .var fun V => ∀ L, selected L →
        lane V L = BitVec.ofNat 64 (s.rd (windowLoc x (block L)) 8))
    ∧ (Issues s (fSt sl) sl x → (∀ L, selected L → inWindow s x (addr L) n) →
      exec (.st sl) s = retired s ((lanesOf (x.sel sl)).foldl (fun t L =>
        t.wr (windowLoc x (addr L)) n ((lane (s.vsrc x sl w sl.b) L).toNat % 2 ^ w)) i) sl .none [])
    ∧ (Issues s (fSts sl) sl x → inWindow s x sAddr n →
      exec (.sts sl) s = retired s (i.wr (windowLoc x sAddr) n ((s.ssrc x sl sl.b).toNat % 2 ^ w)) sl .none [])
    ∧ (Issues s (fStb sl) sl x → (∀ L, selected L → inWindow s x (block L) 8) →
      exec (.stb sl) s = retired s ((lanesOf (x.sel sl)).foldl (fun t L =>
        t.wr (windowLoc x (block L)) 8 (lane (s.vsrc x sl 64 sl.b) L).toNat) i) sl .none [])

/-- R200 to R203: an integer atomic in the window, once the group's accesses at peers are answered, stores its operation's new
value and gives the old one; the lanes of ATOM and RED act one after another in ascending order. -/
def Obligations.SCRATCHPAD_ATOMICS : Prop :=
  ∀ (s : State) (x : Group) (sl : Slot),
    let w := tyW sl
    let n := w / 8
    let i := s.atIssue sl
    let addr (L : Nat) : Word := lane (s.vsrc x sl 64 sl.a) L + sl.imm.signExtend 64
    let sAddr : Word := s.ssrc x sl sl.a + sl.imm.signExtend 64
    let selected (L : Nat) : Prop := L < 32 ∧ (x.sel sl).getLsbD L = true
    let B (L : Nat) : BitVec w := (lane (s.vsrc x sl w sl.b) L).setWidth w
    let C (L : Nat) : BitVec w := (lane (s.vsrc x sl w sl.c) L).setWidth w
    let old (t : State) (a : Word) : BitVec w := BitVec.ofNat w (t.rd (windowLoc x a) n)
    let act (t : State) (L : Nat) : State :=
      t.wr (windowLoc x (addr L)) n (atomInt sl (old t (addr L)) (B L) (C L)).toNat
    let upTo (L : Nat) : State := ((lanesOf (x.sel sl)).filter fun M => decide (M < L)).foldl act i
    tyI sl = true → 8 ≤ w → sl.md = 0 → i.peerQuiet s.cur = true →
    (Issues s (fAtoms sl) sl x → inWindow s x sAddr n →
      let b := (s.ssrc x sl sl.b).setWidth w
      let c := (s.ssrc x sl sl.c).setWidth w
      exec (.atoms sl) s = retired s (i.wr (windowLoc x sAddr) n (atomInt sl (old s sAddr) b c).toNat) sl .var
        (scaOut x.trapMode sl.d 0 (widen sl (old s sAddr))))
    ∧ (Issues s (fAtom sl) sl x → (∀ L, selected L → inWindow s x (addr L) n) →
      ∃ V, exec (.atom sl) s = retired s (upTo 32) sl .var (vecOut x.trapMode sl.d 0 (x.sel sl) V)
        ∧ ∀ L, selected L → lane V L = widen sl (old (upTo L) (addr L)))
    ∧ (Issues s (fRed sl) sl x → sl.sub ≠ 10 → (∀ L, selected L → inWindow s x (addr L) n) →
      exec (.red sl) s = retired s (upTo 32) sl .none [])

/-- R55, R193, R197 to R203, R374: loads, stores, atomics and reductions whose checks pass complete. -/
def Obligations.MEMORY_ACCESSES_COMPLETE : Prop := accessesComplete ∧ atomicsComplete

/-- R191 to R193, R195: an access that is misaligned, in no space or past its space's end, or beyond the window traps ALIGN,
BAD_SPACE or SCRATCH_BOUNDS in that order, with TRAPADDR the address and TRAPINFO the KIND and the lane, and has no effect; a
vector access reports its first failing lane, and LDX and STX the address of that lane. So for every load, store, atomic and
reduction. -/
def Obligations.BAD_ADDRESSES_TRAP : Prop :=
  ∀ (s : State) (x : Group) (sl : Slot),
    let n := tyW sl / 8
    let f := (atomFmt sl).width / 8
    let m := cntN sl
    let addr (L : Nat) : Word := lane (s.vsrc x sl 64 sl.a) L + sl.imm.signExtend 64
    let word (L j : Nat) : Word := addr L + BitVec.ofNat 64 (8 * j)
    let sAddr : Word := s.ssrc x sl sl.a + sl.imm.signExtend 64
    let block (L : Nat) : Word := sAddr + BitVec.ofNat 64 (8 * L)
    let space (a : Word) := (a.extractLsb' 60 4).toNat
    let cause (n : Nat) (a : Word) : Option (BitVec 8) :=
      if a.toNat % n ≠ 0 ∨ (space a = 4 ∧ n = 1) then some 11
      else if (space a ≠ 0 ∧ space a ≠ 1 ∧ space a ≠ 3 ∧ space a ≠ 4)
        ∨ ((space a = 0 ∨ space a = 4) ∧ a.extractLsb' 52 8 ≠ 0) ∨ (space a = 3 ∧ a.extractLsb' 12 48 ≠ 0) then some 4
      else if space a = 1 ∧ (s.wgD x.wg).wb < (a.extractLsb' 0 60).toNat + n then some 7 else none
    let bad (a : Word) (kind L : Nat) (c : BitVec 8) := traps s sl x { cause := c, addr := a, info := BitVec.ofNat 64 (32 * kind + L) }
    let open_ (a : Word) : Prop := (s.atIssue sl).egressLow ((s.atIssue sl).viewOf s.cur) a = false
    let settled (kind : Nat) : Prop := sl.md.toNat % 4 ≠ 0 ∨ 2 ≤ kind → (s.atIssue sl).peerQuiet s.cur = true
    let selected (L : Nat) : Prop := L < 32 ∧ (x.sel sl).getLsbD L = true
    let first (n kind k : Nat) (a : Nat → Nat → Word) (c : Instr) : Prop :=
      settled kind → (∀ M j, selected M → j < k → open_ (a M j)) → ∀ L j, selected L → j < k →
      (∀ M i, selected M → i < k → M < L ∨ (M = L ∧ i < j) → inWindow s x (a M i) n) →
      ∀ r, cause n (a L j) = some r → exec c s = bad (a L 0) kind L r
    (Issues s (fLds sl) sl x → settled 0 → open_ sAddr → ∀ c, cause n sAddr = some c → exec (.lds sl) s = bad sAddr 0 0 c)
    ∧ (Issues s (fSts sl) sl x → settled 1 → open_ sAddr → ∀ c, cause n sAddr = some c → exec (.sts sl) s = bad sAddr 1 0 c)
    ∧ (Issues s (fAtoms sl) sl x → settled 2 → open_ sAddr → ∀ c, cause f sAddr = some c → exec (.atoms sl) s = bad sAddr 2 0 c)
    ∧ (Issues s (fLd sl) sl x → first n 0 1 (fun L _ => addr L) (.ld sl))
    ∧ (Issues s (fSt sl) sl x → first n 1 1 (fun L _ => addr L) (.st sl))
    ∧ (Issues s (fLdx sl) sl x → first 8 0 m word (.ldx sl))
    ∧ (Issues s (fStx sl) sl x → first 8 1 m word (.stx sl))
    ∧ (Issues s (fLdb sl) sl x → first 8 0 1 (fun L _ => block L) (.ldb sl))
    ∧ (Issues s (fStb sl) sl x → first 8 1 1 (fun L _ => block L) (.stb sl))
    ∧ (Issues s (fAtom sl) sl x → first f 2 1 (fun L _ => addr L) (.atom sl))
    ∧ (Issues s (fRed sl) sl x →
      first (if sl.sub = 10 then 2 * (atomFmt sl).width else f) 3 1 (fun L _ => addr L) (.red sl))

/-- R206, R209, R296, R303, R312, Table 8.5: a fence that releases at cluster scope or wider writes back the die's dirty
bytes, and one at device scope or wider always does, after the group's alias stores have reached the storage (assumption
log 71), once the group's accesses at peers are answered; one that acquires at device scope or wider ends the validity of the
core's column lines, and a narrower one drops them where another core of the die has acquired since, which is the model's
choice (assumption log 77); COLCLN and COLINV do so for the core. -/
def Obligations.FENCES_ACT_ON_THE_COLUMNS : Prop :=
  ∀ (s : State) (x : Group) (sl : Slot),
    let i := s.atIssue sl
    let rel := sl.md.getLsbD 1 && decide (2 ≤ sl.scp.toNat)
    let wide := decide (3 ≤ sl.scp.toNat)
    let i0 := if wide then i.fmtFence s.cur else i
    let i1 := if wide || rel then (coresOf (x.core / 16)).foldl State.cleanCore i0 else i0
    (Issues s (fFence sl) sl x → i.peerQuiet s.cur = true →
      exec (.fence sl) s = retired s (if sl.md.getLsbD 0 then i1.acquire x.core sl.scp.toNat else i1) sl .none [])
    ∧ (∀ (t : State) (c scp : Nat), 3 ≤ scp → (t.coreD c).gen ≠ 0xFFFF →
      (t.acquire c scp).coreD c = { t.coreD c with gen := (t.coreD c).gen + 1, seen := tval 0 t.dieAcq (c / 16) + 1 })
    ∧ (∀ (t : State) (c scp : Nat), scp = 1 ∨ scp = 2 →
      t.acquire c scp = if tval 0 t.dieAcq (c / 16) ≤ (t.coreD c).seen then t
        else t.updCore c fun k =>
          { k with column := [], l1 := k.l1.filter fun e => e.data.isEmpty, seen := tval 0 t.dieAcq (c / 16) })
    ∧ (Issues s (fBare0 sl) sl x →
      exec (.colcln sl) s = retired s (i.cleanCore x.core) sl .none []
        ∧ exec (.colinv sl) s = retired s ((i.cleanCore x.core).nextGen x.core) sl .none [])
    ∧ ((i.cleanCore x.core).coreD x.core).dirty = []

end

namespace Sys2Proof

open Machine

/-! ### Waits, barrier objects and rings (R210 to R218) -/

/-- The barrier object after an operation that leaves `b`: with PEND and BYTES 0 the phase advances and PEND
reloads from EXPECT (R212). -/
def phaseStep (b : BarObj) : BarObj :=
  if b.pend = 0 ∧ b.bytes = 0 then { b with phase := (b.phase + 1) % 2 ^ 32, pend := b.expect } else b

/-- The object that operation `op` finds at `a`, and the state once it has been read at the hub; at a peer, once the peer
has answered the request for the operation with it (R211, R305, R315). -/
def objectFound (i : State) (v : View) (a : Word) (op : BarOp) (t : Target) (u : State) (o : BarObj) : Prop :=
  i.egressLow v a = false ∧ i.peerQuiet i.cur = true ∧ (∀ c n, t ≠ .err c n) ∧ ∃ r, i.resolve v a 16 16 5 = (r, .ok t) ∧
    match t with
    | .peer p pa => ∃ d, (r.accountOne v (.peer p pa) a).peerNeed
          { v.ask (op.msg p pa) a 5 with rel := if op.rel then some v.die else none } = (u, some (some d))
        ∧ o = BarObj.ofNat (ofBytes (d.take 16))
    | t => ∃ n, (r.accountOne v t a).readT v t 16 true = (u, n) ∧ o = BarObj.ofNat n

/-- The object is stored as `o`, after a release at its scope where `rel`; a peer has stored it already. -/
def objectStored (u : State) (v : View) (t : Target) (rel : Bool) (o : BarObj) : State :=
  match t with
  | .peer _ _ => u
  | t => (if rel then u.barRelease v t else u).writeT v t 16 true o.toNat

/-- A group that waits in the barrier of its launch goes on: an acquire at device scope, and its slot retires (R215). -/
def leavesBarrier (t : State) (g : Nat) : State :=
  match (t.grpD g).wait with
  | .lbar sl => ((t.acquire (t.grpD g).core 3).updGrp g fun y =>
      (y.setTok sl.tset none).watch none true sl.tset.toNat []).retire g sl
  | _ => t

end Sys2Proof

section

open Sys2Proof Sys2Proof.Machine

/-- R210: WAITP whose word may be read, once the group's accesses at peers are answered where it acquires, ends at once with
SP[D] = 1 when the word meets its condition; otherwise the group stays at the slot and waits. -/
def Obligations.WAITP_RESULTS : Prop :=
  ∀ (s : State) (x : Group) (sl : Slot) (t : Target) (u r : State) (n : Nat),
    let i := s.atIssue sl
    let v := i.viewOf s.cur
    let a := s.ssrc x sl sl.a + sl.imm.signExtend 64
    let b : BitVec 32 := (s.ssrc x sl sl.b).setWidth 32
    let word := BitVec.ofNat 32 n
    let met : Prop := match sl.sub.toNat with
      | 0 => word ≠ b | 1 => word = b | _ => (word - b).toNat < 2 ^ 31
    Issues s (fWaitp sl) sl x → i.egressLow v a = false → (sl.md.getLsbD 0 = true → i.peerQuiet s.cur = true) →
    i.resolve v a 4 4 4 = (u, .ok t) → (u.accountOne v t a).readP v t 4 a 4 = (r, .ok n) →
    (met → exec (.waitp sl) s = retired s (if sl.md.getLsbD 0 then r.acquire x.core sl.scp.toNat else r) sl .blocking
      (scaOut x.trapMode sl.d 0 1))
    ∧ (¬ met → exec (.waitp sl) s = .next (r.updGrp s.cur fun y =>
        { y with wait := .waitp a b (s.ssrc x sl sl.c).toNat sl }))

/-- R211 to R214, R218: on an object that may be accessed, once the group's accesses at peers are answered, BOINIT sets the
count, BOARR arrives and gives the phase it arrived in, BOJOIN joins and BOLEAVE leaves; an object without INIT, and the other
misuses of Table 8.12, trap SYNC_ILLEGAL. That BOLEAVE.ret with nothing pending beforehand completes no phase, and that the
reserved bits of the object are written as 0, are the model's choices (assumption log 31). -/
def Obligations.BARRIER_OBJECT_RESULTS : Prop :=
  ∀ (s : State) (x : Group) (sl : Slot) (t : Target) (u : State) (o : BarObj),
    let i := s.atIssue sl
    let v := i.viewOf s.cur
    let a := s.ssrc x sl sl.a + sl.imm.signExtend 64
    let a0 := s.ssrc x sl sl.a
    let n := (sl.imm.toNat)
    let bytes := (s.ssrc x sl sl.b).toNat % 2 ^ 32
    let mine := x.joined.find? fun e => decide (e.addr = a)
    let before := mine.bind fun e => if e.arrived then some e.phase.toNat else none
    let finds (a : Word) (op : BarOp) : Prop := objectFound i v a op t u o
    let stop (reason : Nat) (a : Word) := .next (u.raise s.cur { cause := 19, addr := a, info := BitVec.ofNat 64 (reason * 2 ^ 32) } x.pc)
    let arrivedNow : Prop := ∃ e, mine = some e ∧ e.phase.toNat = o.phase ∧ e.arrived = true
    (Issues s (fBoinit sl) sl x → finds a0 (.init n) →
      (n = 0 ∨ (o.init = true ∧ o.joined ≠ 0) → exec (.boinit sl) s = stop 0x21 a0)
      ∧ (¬ (n = 0 ∨ (o.init = true ∧ o.joined ≠ 0)) → exec (.boinit sl) s = retired s
          (objectStored u v t true { phase := 0, expect := n, pend := n, bytes := 0, joined := 0, init := true }) sl .none []))
    ∧ (Issues s (fBoarr sl) sl x → finds a (.arrive (decide (sl.sub = 0)) bytes before) →
      (o.init = false → exec (.boarr sl) s = stop 0x20 a)
      ∧ (o.init = true → sl.sub = 0 → o.pend = 0 → exec (.boarr sl) s = stop 0x22 a)
      ∧ (o.init = true → sl.sub = 0 → o.pend ≠ 0 → arrivedNow → exec (.boarr sl) s = stop 0x23 a)
      ∧ (o.init = true → (sl.sub = 0 → o.pend ≠ 0 ∧ ¬ arrivedNow) → exec (.boarr sl) s = retired s
          (objectStored (if sl.sub = 0 then u.updGrp s.cur (fun y => { y with joined := y.joined.map fun e =>
              if e.addr = a then { e with phase := BitVec.ofNat 32 o.phase, arrived := true } else e }) else u) v t true
            (phaseStep { o with
              pend := if sl.sub = 0 then o.pend - 1 else o.pend, bytes := (o.bytes + bytes) % 2 ^ 32 }))
          sl .var (scaOut x.trapMode sl.d 0 (BitVec.ofNat 64 o.phase))))
    ∧ (Issues s (fBojoin sl) sl x →
      (8 ≤ x.joined.length ∨ mine ≠ none → finds a .look →
        exec (.bojoin sl) s = if o.init = false then stop 0x20 a else stop 0x24 a)
      ∧ (x.joined.length < 8 → mine = none → finds a .join →
        (o.init = false → exec (.bojoin sl) s = stop 0x20 a)
        ∧ (o.init = true → exec (.bojoin sl) s = retired s
          (objectStored (u.updGrp s.cur fun y => { y with
              joined := y.joined ++ [{ addr := a, phase := BitVec.ofNat 32 o.phase, arrived := false }] }) v t false
            { o with joined := (o.joined + 1) % 65536 }) sl .none [])))
    ∧ (Issues s (fBoleave sl) sl x →
      (mine = none → i.egressLow v a = false → i.resolve v a 16 16 5 = (u, .ok t) → (∀ c n, t ≠ .err c n) →
        exec (.boleave sl) s = stop 0x25 a)
      ∧ ∀ e, mine = some e → finds a (if sl.sub = 1 then .ret e else .leave) → exec (.boleave sl) s = retired s
          (objectStored (u.updGrp s.cur fun y => { y with joined := y.joined.filter fun e => !decide (e.addr = a) }) v t
            (decide (sl.sub = 1)) (if sl.sub = 1 then o.retire e else o).leave) sl .none [])

/-- R215: LBAR in a launch that is not admitted as co-resident traps SYNC_ILLEGAL with REASON 0x26, with TRAPADDR 0, which is
the model's choice (assumption log 31); otherwise the group, once its accesses at peers are answered, arrives after a
release, and waits while others are missing. The last remaining group's arrival completes the barrier: every
group that waits there, this one too, goes on at its next slot after an acquire. -/
def Obligations.LAUNCH_BARRIER_RESULTS : Prop :=
  ∀ (s : State) (x : Group) (sl : Slot),
    let l := (s.wgD x.wg).launch
    Issues s (fLbar sl) sl x →
    ((∀ y, tget s.launches l = some y → y.desc.cores = false) →
      exec (.lbar sl) s = traps s sl x { cause := 19, info := BitVec.ofNat 64 (0x26 * 2 ^ 32) })
    ∧ (∀ y, tget s.launches l = some y → y.desc.cores = true → (s.atIssue sl).peerQuiet s.cur = true →
      (y.lbar.length + 1 < s.launchGroups l → ∃ t z, exec (.lbar sl) s = .next t ∧ t.grp? s.cur = some z
        ∧ z.wait = .lbar sl ∧ z.pc = x.pc)
      ∧ (s.launchGroups l ≤ y.lbar.length + 1 → s.cur ∉ y.lbar →
        exec (.lbar sl) s = .next ((y.lbar ++ [s.cur]).foldl leavesBarrier
          (((((s.atIssue sl).release (x.core / 16) 3).updGrp s.cur fun z => { z with wait := .lbar sl }).updLaunch l
            fun z => { z with lbar := y.lbar ++ [s.cur] }).updLaunch l fun z => { z with lbar := [] }))
        ∧ ∃ t z, exec (.lbar sl) s = .next t ∧ t.grp? s.cur = some z ∧ z.wait = .none ∧ z.pc = x.pc + 16))

/-- R216, R217, R218: ENQ puts its element's words at the ring's PIDX and DEQ takes them at CIDX, with SP[D] = 1 and the index
advanced; a full or empty ring gives SP[D] = 0 and stays as it is; an invalid ring traps SYNC_ILLEGAL with REASON
0x27. ENQ releases and DEQ acquires at device scope, whether the attempt succeeds or not. At a peer that holds the ring
and the element the attempt is one request, which is the model's choice (assumption log 76). The premises say that the
group's bucket has room, that its accesses at peers are answered, and that no other operation on the ring is under way. -/
def Obligations.RING_RESULTS : Prop :=
  ∀ (s : State) (x : Group) (sl : Slot) (t : Target) (rc : Rcb) (u u' z : State) (ps : List Piece) (l : List Nat),
    let i := s.atIssue sl
    let v := i.viewOf s.cur
    let a := s.ssrc x sl sl.a
    let n := ringN sl
    let held := (rc.pidx + 2 ^ 32 - rc.cidx) % 2 ^ 32
    let stop := .next (u.raise s.cur { cause := 19, addr := a, info := BitVec.ofNat 64 (0x27 * 2 ^ 32) } x.pc)
    let ws := (List.range n).map fun j => (i.sreg x sl.b j).toNat
    let local_ : Prop := ∀ p pa, t ≠ .peer p pa
    let begun := u.lockTake t.key
    let paid (wr : Bool) := u'.account v true wr ({ lane := 0, addr := a, tgt := t } :: ps)
    i.egressLow v a = false → i.peerQuiet s.cur = true → i.ringAt v a 6 = (u, .ok (t, rc)) → (∀ c n, t ≠ .err c n) →
    i.lockFree t.key = true →
    (Issues s (fRing false sl) sl x →
      (rc.valid = false ∨ rc.esize ≠ n → exec (.enq sl) s = stop)
      ∧ (rc.valid = true → rc.esize = n → held = rc.cap →
        exec (.enq sl) s = retired s ((u.accountOne v t a).release v.die 3) sl .var (scaOut x.trapMode sl.d 0 0))
      ∧ (rc.valid = true → rc.esize = n → held ≠ rc.cap → begun.ringElem v rc rc.pidx true = (u', .ok ps) →
        firstErr ps = none →
        (((paid true).release v.die 3).ringDo v false t a rc ps ws = (z, .ok (some l)) →
          exec (.enq sl) s = retired s z sl .var (scaOut x.trapMode sl.d 0 1))
        ∧ (local_ → ((paid true).release v.die 3).ringWords v (ps.zip ws) = (z, none) →
          exec (.enq sl) s = retired s ((z.ringIndex v t a 0 (rc.pidx + 1)).noteEnq v t ps) sl .var
            (scaOut x.trapMode sl.d 0 1))))
    ∧ (Issues s (fRing true sl) sl x →
      (rc.valid = false ∨ rc.esize ≠ n → exec (.deq sl) s = stop)
      ∧ (rc.valid = true → rc.esize = n → rc.pidx = rc.cidx →
        exec (.deq sl) s = retired s ((u.accountOne v t a).acquire v.core 3) sl .var (scaOut x.trapMode sl.d 0 0))
      ∧ (rc.valid = true → rc.esize = n → rc.pidx ≠ rc.cidx → begun.ringElem v rc rc.cidx false = (u', .ok ps) →
        firstErr ps = none →
        let out := (l.zipIdx.flatMap fun e => scaOut x.trapMode sl.b e.2 (BitVec.ofNat 64 e.1)) ++ scaOut x.trapMode sl.d 0 1
        ((paid false).ringDo v true t a rc ps [] = (z, .ok (some l)) →
          exec (.deq sl) s = retired s (z.acquire v.core 3) sl .var out)
        ∧ (local_ → (paid false).readPs v 8 6 ps = (z, .ok l) →
          exec (.deq sl) s = retired s ((z.ringIndex v t a 8 (rc.cidx + 1)).acquire v.core 3) sl .var out)))
    ∧ ∀ (dq : Bool) (p pa e : Nat) (d : List Byte), t = .peer p pa → peerPlace p ps = some e →
      u'.peerNeed { v.ask (ringMsg dq p pa e rc ws) a 6 with rel := if dq then none else some v.die } = (z, some (some d)) →
      u'.ringDo v dq t a rc ps ws = (z, .ok (if ofBytes (d.take 4) = rc.pidx ∧ ofBytes ((d.drop 4).take 4) = rc.cidx then
        some ((List.range rc.esize).map fun j => ofBytes ((d.drop (8 + 8 * j)).take 8)) else none))

end

namespace Sys2Proof

open Machine

/-! ### Asynchronous operations and the matrix engine (R219 to R248) -/

/-- The words of a structure at `a` pass their checks, answer, and read as `ws`, those at a peer by its answers; `u` is the
state after. -/
structure WordsAt (i : State) (v : View) (n : Nat) (as : List (Nat × Word)) (ws : List Nat) (u : State) : Prop where
  ok : ∃ r ps, i.resolveAll v n n 0 false as = (r, .ok ps) ∧
    let a := (r.account v false false ps).askAll v n 0 ps
    firstErr a.2 = none ∧ a.1.readRow v n ps = (u, ws)

/-- The slot puts operation `o` at the end of its core's engine queue, with its operands as they read at issue, and
completes; with `ws`, those results come when the engine delivers them (R230, R234). -/
def entersQueue (ins : Instr) (s : State) (x : Group) (sl : Slot) (opc : BitVec 8) (late : Bool) (lat : Machine.Lat)
    (ws : List RegWrite) : Prop :=
  let o := matOp opc sl (s.atIssue sl) (x.cover sl)
  o.opc = opc ∧ o.sl = sl ∧ o.grp = s.cur ∧ o.wg = x.wg ∧ o.core = x.core ∧ o.rows = x.sel sl ∧ o.fmt = x.fmt
    ∧ o.a = s.ssrc x sl sl.a ∧ o.b = s.ssrc x sl sl.b ∧ o.c = s.ssrc x sl sl.c ∧ o.e = s.ssrc x sl sl.e
    ∧ exec ins s = .next ((((s.atIssue sl).updCore x.core fun k =>
        { k with engq := k.engq ++ [o], emptyTick := false }).finish s.cur sl lat ws late))

end Sys2Proof

section

open Sys2Proof Sys2Proof.Machine

/-- R238 to R248: CPY, CPY2, GATH and SCAT whose operand block is legal and whose addresses pass their checks start one
operation with the addresses, lengths and strides of their operands, in the open batch of its class, and the group
goes on; an illegal block traps SYNC_ILLEGAL with REASON 0x2C, and an address that fails its checks with its cause; of GATH
and SCAT the rows that the index list names now are checked; AFENCE gives the open batch's number and opens the
next. -/
def Obligations.ASYNC_COPIES_START : Prop :=
  ∀ (s : State) (x : Group) (sl : Slot),
    let i := s.atIssue sl
    let v := i.viewOf s.cur
    let c (n : Nat) : Word := s.sreg x sl.c n
    let hi := ((c 0).extractLsb' 32 32).toNat
    let starts (ins : Instr) (f : Form) (opc : BitVec 8) (p : AsyncOp → Prop) : Prop := Issues s f sl x →
      let o := asyncOp opc sl i (x.cover sl)
      p o ∧ o.dst = s.ssrc x sl sl.a ∧ o.src = s.ssrc x sl sl.b ∧ o.rb = ((c 0).extractLsb' 0 32).toNat
        ∧ o.grp = s.cur ∧ o.wg = x.wg ∧ o.imm = sl.imm ∧ o.batch = x.openB (if opc.toNat < 0xD2 then 1 else 2)
        ∧ (o.blockBad hi = false →
          let q := if o.cls = 2 then i.listNow (i.opView o) o o.rows else (i, [])
          let j := { i with wants := q.1.wants }
          (j.copyCheck v o q.2 = none → exec ins s = retired s { j.bump with ops := tput i.ops i.tick o } sl .none [])
          ∧ ∀ e, j.copyCheck v o q.2 = some e → exec ins s = .next (j.raise s.cur e x.pc))
        ∧ (o.blockBad hi = true →
          exec ins s = traps s sl x { cause := 19, addr := s.ssrc x sl sl.a, info := BitVec.ofNat 64 (0x2C * 2 ^ 32) })
    starts (.cpy sl) (fCopy 1 sl) 0xD0 (fun o => o.rows = 1)
    ∧ starts (.cpy2 sl) (fCopy 2 sl) 0xD1 (fun o => o.rows = hi ∧ o.dstride = ((c 1).extractLsb' 0 32).toNat
        ∧ o.sstride = ((c 1).extractLsb' 32 32).toNat)
    ∧ starts (.gath sl) (fCopy 3 sl) 0xD2 (fun o => o.rows = hi ∧ o.list = c 1 ∧ o.sstride = (c 2).toNat ∧ o.dstride = o.rb)
    ∧ starts (.scat sl) (fCopy 3 sl) 0xD3 (fun o => o.rows = hi ∧ o.list = c 1 ∧ o.dstride = (c 2).toNat ∧ o.sstride = o.rb)
    ∧ (Issues s (fAfence sl) sl x → ∃ t y, exec (.afence sl) s = retired s t sl .var
          (scaOut x.trapMode sl.d 0 ((x.openB sl.sub.toNat).setWidth 64))
        ∧ t.grp? s.cur = some y ∧ y.openB sl.sub.toNat = x.openB sl.sub.toNat + 1 ∧ t.ops = s.ops ∧ t.mem = s.mem)

/-- R244 to R248, R436: COLL starts the collective that its descriptor describes; an invalid one, or PEERS that do not fit
(R436), traps SYNC_ILLEGAL with REASON 0x28. POST, once the group's accesses at peers are answered, puts a valid card in the
queue of the core it names while that has room, and else in its backing ring, and its launch waits for one more workgroup;
an invalid card, or one that no core can hold, traps with REASON 0x29, a core that it may not name with 0x2A, and one beyond
the quota of spilled cards, or whose ring cannot take it, traps QUOTA. TIERH completes, and outside spaces 0 and 4 does
nothing. TRAPADDR 0 of QUOTA, and that a ring which cannot be reached counts as over the quota, are the model's choices
(assumption log 36). -/
def Obligations.COLLECTIVES_CARDS_AND_HINTS : Prop :=
  ∀ (s : State) (x : Group) (sl : Slot) (ws ps : List Nat) (u u' : State),
    let i := s.atIssue sl
    let v := i.viewOf s.cur
    let a := s.ssrc x sl sl.a
    let d (n : Nat) : Word := BitVec.ofNat 64 (ws.getD n 0)
    let words := (List.range 8).map fun n => (0, a + BitVec.ofNat 64 (8 * n))
    let peers := (List.range (bits (d 3) 31 16)).map fun n => (0, d 4 + BitVec.ofNat 64 (2 * n))
    let stop (t : State) (reason : Nat) :=
      .next (t.raise s.cur { cause := 19, addr := a, info := BitVec.ofNat 64 (reason * 2 ^ 32) } x.pc)
    let kind := bits (d 3) 3 0
    let root := bits (d 3) 41 32
    let card := { cardOf d (u.wgD x.wg).launch u.tick with wg := x.wg }
    (Issues s (fColl sl) sl x → i.preCheck v [0, 1, 4] a 64 64 0 0 = none → WordsAt i v 8 words ws u →
      (collBad d = true → exec (.coll sl) s = stop u 0x28)
      ∧ (collBad d = false → WordsAt u v 2 peers ps u' →
        (peersBad u'.selfid.toNat kind root ps = true → exec (.coll sl) s = stop u' 0x28)
        ∧ (peersBad u'.selfid.toNat kind root ps = false →
          ∃ o : AsyncOp, o.src = d 0 ∧ o.dst = d 1 ∧ o.rb = ((d 2).extractLsb' 0 32).toNat ∧ o.kind = kind ∧ o.peers = ps
            ∧ o.root = root ∧ o.ready = d 5 ∧ o.grp = s.cur ∧ o.batch = x.openB 3 ∧ o.ntf = modN sl
            ∧ (modN sl ≠ 0 → o.e = s.ssrc x sl sl.e)
            ∧ (u'.ntfCheck v o = none →
              exec (.coll sl) s = retired s { u'.bump with ops := tput u'.ops u'.tick o } sl .none []))))
    ∧ (Issues s (fPost sl) sl x → i.preCheck v [0, 1] a 64 64 0 0 = none → WordsAt i v 8 words ws u →
      (cardBad d = true ∨ card.need.fits = false → exec (.post sl) s = stop u 0x29)
      ∧ (cardBad d = false → card.need.fits = true → postCore sl u x = none → exec (.post sl) s = stop u 0x2A)
      ∧ (cardBad d = false → card.need.fits = true → ∀ core, postCore sl u x = some core →
        u.peerQuiet s.cur = true → 64 ≤ (u.coreD core).taskq.length ∨ (u.coreD core).spilled ≠ [] →
        ((u.fnD v.fn).spillQ ≤ u.spilledOf v.fn → exec (.post sl) s = .next (u.raise s.cur { cause := 20 } x.pc))
        ∧ (u.spilledOf v.fn < (u.fnD v.fn).spillQ →
          let z := ((u.release v.die 3).updLaunch card.launch fun l => { l with remaining := l.remaining + 1 }).bump
          let put := z.spillPut (z.hubView v.fn v.ctx) (z.spillRing v.fn v.ctx core) ws
          (put = none → exec (.post sl) s = .next (u.raise s.cur { cause := 20 } x.pc))
          ∧ ∀ z', put = some (some z') →
            exec (.post sl) s = retired s (z'.updCore core fun k => { k with spilled := k.spilled ++ [card] }) sl .none []))
      ∧ (cardBad d = false → card.need.fits = true → ∀ core, postCore sl u x = some core →
        u.peerQuiet s.cur = true → (u.coreD core).taskq.length < 64 → (u.coreD core).spilled = [] →
        ∃ t, exec (.post sl) s = retired s t sl .none []
          ∧ (t.coreD core).taskq = (u.coreD core).taskq ++ [card]
          ∧ ∀ y, tget u.launches card.launch = some y →
            tget t.launches card.launch = some { y with remaining := y.remaining + 1 }))
    ∧ (Issues s (fTierh 0 sl) sl x → ∃ t, exec (.tierhNeed sl) s = retired s t sl .none []
      ∧ (a.extractLsb' 60 4 ≠ 0 → a.extractLsb' 60 4 ≠ 4 → t = i))
    ∧ (Issues s (fTierh 1 sl) sl x → ∃ t, exec (.tierhCold sl) s = retired s t sl .none []
      ∧ (a.extractLsb' 60 4 ≠ 0 → a.extractLsb' 60 4 ≠ 4 → t = i))

/-- R226 to R237: with room in its core's engine queue, every matrix instruction whose checks at issue pass enters that
queue and the group goes on; a full queue holds it at its slot. That ACCST and ACCRD accept the `.fmt` outputs i8, i16 and i32
on i32 tiles is the model's choice (assumption log 35). -/
def Obligations.MATRIX_INSTRUCTIONS_ENTER_THE_QUEUE : Prop :=
  ∀ (s : State) (x : Group) (sl : Slot),
    let i := s.atIssue sl
    let v := i.viewOf s.cur
    let room : Prop := (s.coreD x.core).engq.length < 16
    let op (opc : BitVec 8) := matOp opc sl i (x.cover sl)
    let goes (ins : Instr) (opc : BitVec 8) : Prop := entersQueue ins s x sl opc false .none []
    let comes (ins : Instr) (opc : BitVec 8) (ws : List RegWrite) : Prop := entersQueue ins s x sl opc true .var ws
    let fmtOk : Prop := tyIsFmt sl = true → okOut (bits x.fmt 11 8) = true ∨ bits x.fmt 11 8 ∈ [0, 2, 4]
    let one := scaOut x.trapMode sl.d 0 0
    (room →
      (Issues s (fMma [8, 14, 0, 1, 9, 12, 10] 1 sl) sl x → i.mulCheck v (op 0xE0) = none → goes (.mma sl) 0xE0)
      ∧ (Issues s (fMma [8, 0, 1, 9, 12] 3 sl) sl x → i.mulCheck v (op 0xE1) = none → goes (.mmas sl) 0xE1)
      ∧ (Issues s (fMma [0, 1] 0 sl) sl x → i.mulCheck v (op 0xE2) = none → goes (.mmat sl) 0xE2)
      ∧ (Issues s (fAccz sl) sl x → goes (.accz sl) 0xE3)
      ∧ (Issues s (fAccld sl) sl x → goes (.accld sl) 0xE4)
      ∧ (Issues s (fAccst sl) sl x → fmtOk → goes (.accst sl) 0xE5)
      ∧ (Issues s (fAccrd sl) sl x → fmtOk → comes (.accrd sl) 0xE6 ((List.range (2 ^ modPart sl)).flatMap fun n =>
          vecOut x.trapMode sl.d n (x.sel sl) Vec.zero))
      ∧ (Issues s (fAccwr sl) sl x → goes (.accwr sl) 0xE7)
      ∧ (Issues s (fAccalloc sl) sl x → comes (.accalloc sl) 0xE8 one)
      ∧ (Issues s (fAccstat sl) sl x → comes (.accallocStat sl) 0xE8 one)
      ∧ (Issues s (fAccfree sl) sl x → goes (.accfree sl) 0xE9)
      ∧ (Issues s (fSppack 0 sl) sl x → i.packCheck v (op 0xEA) = none → goes (.sppackRows sl) 0xEA)
      ∧ (Issues s (fSppack 1 sl) sl x → i.packCheck v (op 0xEA) = none → goes (.sppackCols sl) 0xEA))
    ∧ (¬ room → Issues s (fMma [8, 14, 0, 1, 9, 12, 10] 1 sl) sl x → ∃ t y, exec (.mma sl) s = .next t
        ∧ t.grp? s.cur = some y ∧ y.pc = x.pc)

end

namespace Sys2Proof

open Machine

/-! ### System instructions (R249 to R264) -/

/-- R249, Table 10.1: SRGET gives the register that IMM names, TDMASK only from level 1 up; SRSET writes TRAPVEC of the
group, and PBUDGET (level 2 only) and CHECKMODE of the context; below the level both trap PERMIT_FAULT with REASON 5. -/
def systemRegisters : Prop :=
  ∀ (s : State) (x : Group) (sl : Slot),
    let i := s.atIssue sl
    let w := s.wgD x.wg
    let c := s.ctxD w.fn w.ctx
    let k := s.coreD x.core
    let n := sl.imm.toNat
    let a := s.ssrc x sl sl.a
    let refused := traps s sl x { cause := 9, info := BitVec.ofNat 64 (5 * 2 ^ 32) }
    let value : Word := match n with
      | 0 => x.trapCause.setWidth 64
      | 1 => x.trapPc
      | 2 => x.trapAddr
      | 3 => x.trapInfo
      | 4 => c.pbudget.setWidth 64
      | 5 => x.trapVec
      | 6 => BitVec.ofNat 64 c.level
      | 8 => BitVec.ofNat 64 (x.idx + 256 * x.idxRole)
      | 9 => BitVec.ofNat 64 w.lin
      | 0xA => BitVec.ofNat 64 (((tget s.launches w.launch).map fun l => l.handle).getD 0)
      | 0xB => BitVec.ofNat 64 x.role
      | 0xC => BitVec.ofNat 64 (s.parents w.launch).1
      | 0xD => BitVec.ofNat 64 (s.parents w.launch).2.1
      | 0xE => BitVec.ofNat 64 (s.parents w.launch).2.2
      | 0x10 => k.cycle
      | 0x11 => BitVec.ofInt 64 (s.fnD w.fn).lifeMin
      | 0x12 => BitVec.ofNat 64 (k.point + 2 ^ 16 * k.boostLeft)
      | 0x13 => BitVec.ofNat 64 (s.fnD w.fn).energyUJ
      | 0x14 => BitVec.ofNat 64 w.world
      | 0x15 => c.tdmask.setWidth 64
      | 0x16 => c.checkMode.setWidth 64
      | _ => 0
    (Issues s (fSrget sl) sl x →
      (n = 0x15 ∧ c.level = 0 → exec (.srget sl) s = refused)
      ∧ (¬ (n = 0x15 ∧ c.level = 0) → exec (.srget sl) s = writes s sl .var (scaOut x.trapMode sl.d 0 value)))
    ∧ (Issues s (fSrset sl) sl x →
      (n = 4 → c.level ≠ 2 → exec (.srset sl) s = refused)
      ∧ (n = 4 → c.level = 2 → exec (.srset sl) s =
          retired s (i.updCtx w.fn w.ctx fun c => { c with pbudget := a.setWidth 32 }) sl .none [])
      ∧ (n = 5 → changesGroup (.srset sl) s sl fun y => { y with trapVec := a })
      ∧ (n = 0x16 → exec (.srset sl) s =
          retired s (i.updCtx w.fn w.ctx fun c => { c with checkMode := a.setWidth 2 }) sl .none []))

/-- R257: in trap mode HGET reads, and HSET writes, the registers and masks of the interrupted group, a register
outside its allotment reading 0 and ignoring writes; outside trap mode both trap SYNC_ILLEGAL with REASON 0x31. -/
def interruptedGroup : Prop :=
  ∀ (s : State) (x : Group) (sl : Slot),
    let i := s.atIssue sl
    let n := sl.imm.toNat
    let a := s.ssrc x sl sl.a
    let illegal := traps s sl x { cause := 19, info := BitVec.ofNat 64 (0x31 * 2 ^ 32) }
    let get (ws : List RegWrite) : Prop := exec (.hget sl) s = writes s sl .var ws
    let set (t : State) : Prop := exec (.hset sl) s = retired s t sl .none []
    (Issues s (fHget sl) sl x →
      (x.trapMode = false → exec (.hget sl) s = illegal)
      ∧ (x.trapMode = true →
        (sl.sub = 0 → get (vecOut true sl.d 0 (BitVec.allOnes 32) (if n < 8 * x.gran then tval Vec.zero x.vregs n else Vec.zero)))
        ∧ (sl.sub = 1 → get (scaOut true sl.d 0 (if n < x.scount then tval 0 x.sregs n else 0)))
        ∧ (sl.sub = 2 → n = 0 → get (scaOut true sl.d 0 (x.act.setWidth 64)))
        ∧ (sl.sub = 2 → n = 1 → get (scaOut true sl.d 0 (x.live.setWidth 64)))
        ∧ (sl.sub = 2 → n = 2 → get (scaOut true sl.d 0 x.fmt))
        ∧ (sl.sub = 2 → n = 3 → get (scaOut true sl.d 0 (BitVec.ofNat 64 x.mstk.length)))
        ∧ (sl.sub = 2 → n = 4 → get (scaOut true sl.d 0 x.savedKc))))
    ∧ (Issues s (fHset sl) sl x →
      (x.trapMode = false → exec (.hset sl) s = illegal)
      ∧ (x.trapMode = true →
        (sl.sub = 0 → set (if n < 8 * x.gran then i.writeV s.cur (.v n) (BitVec.allOnes 32) (s.vreg x sl.a 0) else i))
        ∧ (sl.sub = 1 → set (if n < x.scount then i.writeS s.cur (.s n) a else i))
        ∧ (sl.sub = 2 → n = 0 → set (i.updGrp s.cur fun y => { y with act := a.setWidth 32 &&& x.live }))
        ∧ (sl.sub = 2 → n = 2 → set (if fmtOk a then i.updGrp s.cur (fun y => { y with fmt := a }) else i))))

end Sys2Proof

section

open Sys2Proof Sys2Proof.Machine

/-- R249, R257, Table 10.1: the system registers, and the interrupted group's state. -/
def Obligations.SYSTEM_REGISTER_RESULTS : Prop := systemRegisters ∧ interruptedGroup

/-- R32, R38, R256, R258: TRAP raises SOFTWARE with TRAPINFO IMM[7:0] and TRAPPC the next slot. RTT and RTT.next leave trap
mode for the slot at TRAPPC or after it, with the saved KC and block, and free the trap bank; where that slot is a header they
enter its block. RTT.to enters the block at its target; outside trap mode all three trap SYNC_ILLEGAL with REASON 0x31. -/
def Obligations.TRAP_AND_RETURN_RESULTS : Prop :=
  ∀ (s : State) (x : Group) (sl : Slot),
    let i := s.atIssue sl
    let illegal := traps s sl x { cause := 19, info := BitVec.ofNat 64 (0x31 * 2 ^ 32) }
    let inside (pc : Word) : Prop := { x with pc := pc, block := x.savedBlock }.inBlock = true
    let fetch (pc : Word) := (i.leaveTrap s.cur pc).fetchSlot s.cur pc
    let enters (ins : Instr) (pc : Word) : Prop := inside pc → (fetch pc).1.wants = i.wants →
      ∀ w, (fetch pc).2 = .ok w → w.extractLsb' 0 8 = 0 → badHeader w = false →
      ∃ t, exec ins s = .next t ∧ entered s t { x with trapMode := false } pc w none
    let back (ins : Instr) (pc : Word) : Prop := inside pc → (fetch pc).1.wants = i.wants →
      (∀ w, (fetch pc).2 = .ok w → w.extractLsb' 0 8 ≠ 0) → ∃ t y, exec ins s = .next t ∧ t.grp? s.cur = some y ∧ y.trapMode = false ∧ y.pc = pc ∧ y.kc = x.savedKc
        ∧ y.block = x.savedBlock ∧ y.act = x.act ∧ y.live = x.live ∧ y.fmt = x.fmt ∧ y.mstk = x.mstk
        ∧ y.sregs = x.sregs ∧ y.vregs = x.vregs ∧ y.queue = x.queue ∧ t.mem = s.mem
        ∧ (t.bankD x.bankKey).owner ≠ some s.cur
    let a := s.ssrc x sl sl.a
    let left := (((i.target s.cur a).1.leaveTrap s.cur a).updGrp s.cur fun y => { y with block := {} })
    (Issues s (fTrap sl) sl x → exec (.trap sl) s =
      .next (i.raise s.cur { cause := 17, info := (sl.imm.extractLsb' 0 8).setWidth 64 } (x.pc + 16)))
    ∧ (Issues s (fRtt 0 sl) sl x →
      (x.trapMode = false → exec (.rtt sl) s = illegal)
      ∧ (x.trapMode = true → x.preempt = false → back (.rtt sl) x.trapPc ∧ enters (.rtt sl) x.trapPc))
    ∧ (Issues s (fRtt 1 sl) sl x →
      (x.trapMode = false → exec (.rttNext sl) s = illegal)
      ∧ (x.trapMode = true → x.preempt = false →
        back (.rttNext sl) (x.trapPc + 16) ∧ enters (.rttNext sl) (x.trapPc + 16)))
    ∧ (Issues s (fRtt 2 sl) sl x →
      (x.trapMode = false → exec (.rttTo sl) s = illegal)
      ∧ (x.trapMode = true → a.toNat % 16 ≠ 0 → exec (.rttTo sl) s = traps s sl x { cause := 3, addr := a })
      ∧ ∀ w w', x.trapMode = true → x.preempt = false → (i.target s.cur a).2 = .ok w → (left.target s.cur a).2 = .ok w' →
        badHeader w' = false → ∃ t, exec (.rttTo sl) s = .next t ∧ entered s t { x with trapMode := false } a w' none)

/-- R260, R261, R264, R383: PDONE, once the group's accesses at peers are answered, ends its residency at the slot after it
with its registers cleared, in the pre-emption handler only; BOOST is granted, or gives the first reason that refuses it;
CANCEL ends the unit of its context that the handle names, and gives 0 where there is none. That a granted BOOST waits for the
next tick (assumption log 56), and that CANCEL compares its handle on 64 bits (log 58), are the model's choices. -/
def Obligations.PDONE_BOOST_AND_CANCEL_RESULTS : Prop :=
  ∀ (s : State) (x : Group) (sl : Slot),
    let i := s.atIssue sl
    let a := s.ssrc x sl sl.a
    let dur := s.ssrc x sl sl.b
    let w := s.wgD x.wg
    let k := s.coreD x.core
    let f := s.fnD w.fn
    let cost := dur.toNat * (if a = 1 then 2 else 6) * (match k.unit with | some u => bandTB (s.wearD u).band | none => 2)
    let reason : Nat :=
      if (a ≠ 1 ∧ a ≠ 2) ∨ dur = 0 ∨ 1000 < dur.toNat then 5
      else if s.coreState x.core ≠ 0 ∨ s.coreDrain x.core = true then 4
      else if k.boostLeft ≠ 0 then 3
      else if f.ebudget ≠ 0 ∧ f.ebudget < f.ewin + dur.toNat * (if a = 1 then 550 else 1350) then 2
      else if f.lifeMin < (cost : Int) then 1 else 0
    (Issues s (fBare0 sl) sl x →
      (¬ (x.trapMode = true ∧ x.inPreempt = true) →
        exec (.pdone sl) s = traps s sl x { cause := 19, info := BitVec.ofNat 64 (0x30 * 2 ^ 32) })
      ∧ (x.trapMode = true → x.inPreempt = true → s.matBusy x.wg = false → i.peerQuiet s.cur = true →
        (∀ l, tget s.launches w.launch = some l → l.desc.cores = false) →
        ∃ t y, exec (.pdone sl) s = .next t ∧ t.grp? s.cur = some y ∧ y.phase = .pdone ∧ y.pc = x.pc + 16 ∧ y.sregs = []
          ∧ y.vregs = [] ∧ y.queue = [] ∧ y.mstk = [] ∧ y.pend = []))
    ∧ (Issues s (fBoost sl) sl x →
      (reason ≠ 0 → exec (.boost sl) s = writes s sl .var (scaOut x.trapMode sl.d 0 (BitVec.ofNat 64 (256 * reason))))
      ∧ (reason = 0 → exec (.boost sl) s = retired s
          ((i.updCore x.core fun k => { k with boostLeft := dur.toNat, boostNext := a.toNat, boostCost := cost, boostFn := w.fn
                                               emptyTick := false }).updFn w.fn fun f =>
            { f with bresv := f.bresv + cost, lifeMin := f.lifeMin - cost }) sl .var (scaOut x.trapMode sl.d 0 a)))
    ∧ (Issues s (fCancel sl) sl x →
      (i.cancelUnit sl.sub.toNat w.fn w.ctx a.toNat = none →
        exec (.cancel sl) s = writes s sl .var (scaOut x.trapMode sl.d 0 0))
      ∧ ∀ t, i.cancelUnit sl.sub.toNat w.fn w.ctx a.toNat = some t → t.grp? s.cur ≠ none →
        exec (.cancel sl) s = retired s t sl .var (scaOut x.trapMode sl.d 0 1))

/-- R262, R263, R366, R367: at level 0 REPLAY and MEAS trap PERMIT_FAULT with REASON 5. REPLAY of a tag that holds nothing
of its function gives 0; otherwise the hold is gone and it gives 1, a retried group waiting no more. MEAS extends
the measurement register of its world with the SHA-512 of the range and gives 1; outside space 0 it traps
BAD_SPACE. A retry and MEAS wait for the group's accesses at peers. The model's choices: which function SHA-512 is (assumption
log 11), the byte order of a measurement register (log 54), and that MEAS checks its range line by line (log 59). -/
def Obligations.REPLAY_AND_MEASURE_RESULTS : Prop :=
  ∀ (s : State) (x : Group) (sl : Slot),
    let i := s.atIssue sl
    let v := i.viewOf s.cur
    let a := s.ssrc x sl sl.a
    let w := s.wgD x.wg
    let level := (s.ctxD w.fn w.ctx).level
    let refused := traps s sl x { cause := 9, info := BitVec.ofNat 64 (5 * 2 ^ 32) }
    let mine (h : Hold) : Prop := h.fn = w.fn ∨ level = 2
    let none_ : Prop := ∀ h, tget s.holds a.toNat = some h → ¬ mine h
    let len := ((s.ssrc x sl sl.b).extractLsb' 0 32).toNat
    let out (n : Word) := scaOut x.trapMode sl.d 0 n
    (Issues s (fReplay 0 sl) sl x →
      (level = 0 → exec (.replayRetry sl) s = refused)
      ∧ (level ≠ 0 → none_ → exec (.replayRetry sl) s = writes s sl .var (out 0))
      ∧ (level ≠ 0 → i.peerQuiet s.cur = true → ∀ h, tget s.holds a.toNat = some h → mine h →
        ∃ t, exec (.replayRetry sl) s = retired s t sl .var (out 1)
        ∧ tget t.holds a.toNat = none
        ∧ ∀ g y, h.grp = some g → g ≠ s.cur → s.grp? g = some y → y.wait = .held a.toNat →
          t.grp? g = some { y with wait := .none }))
    ∧ (Issues s (fReplay 1 sl) sl x →
      (level = 0 → exec (.replayKill sl) s = refused)
      ∧ (level ≠ 0 → none_ → exec (.replayKill sl) s = writes s sl .var (out 0))
      ∧ (level ≠ 0 → ∀ h, tget s.holds a.toNat = some h → mine h → ∃ t, exec (.replayKill sl) s = retired s t sl .var (out 1)
        ∧ tget t.holds a.toNat = none))
    ∧ (Issues s (fMeas sl) sl x →
      (level = 0 → exec (.meas sl) s = refused)
      ∧ (level ≠ 0 → a.extractLsb' 60 4 ≠ 0 → exec (.meas sl) s = traps s sl x { cause := 4, addr := a })
      ∧ ∀ u ps wd bs, level ≠ 0 → a.extractLsb' 60 4 = 0 → i.egressLow v a = false → i.peerQuiet s.cur = true →
        i.measCheck v (a.toNat + len) (len / 128 + 2) a.toNat = (u, .ok ps) → firstErr (ps.map Prod.fst) = none →
        tget s.worlds v.world = some wd →
        (((u.account v true false (ps.map Prod.fst)).acquire v.core 3).measRead v ps).2 = .ok bs →
        ∃ t, exec (.meas sl) s = retired s t sl .var (out 1)
          ∧ tget t.worlds v.world = some { wd with meas := tput wd.meas (sl.imm.toNat % 16) <|
              (extend (tval 0 wd.meas (sl.imm.toNat % 16)) (sha512 bs)) })

end

namespace Sys2Proof

open Machine

/-! ### Issue, traps and frames (R82 to R97, R252 to R256, R366) -/

/-- R82, R88, R96, R97: the checks that every instruction slot goes through, in order. A slot whose interlock or token
wait is not over stays; a decode trap and then a check-mode trap come before any effect; a slot whose scalar guard
is false only retires. -/
def slotChecks : Prop :=
  ∀ (s : State) (i : Instr) (opc : BitVec 8) (sl : Slot) (f : Form) (x : Group),
    slotOf i = some (opc, sl) → formOf i = some f → s.grp? s.cur = some x →
    let at_ (c : BitVec 8) (info : Word) := .next (s.raise s.cur { cause := c, info := info } x.pc)
    let mode := (s.ctxD (s.wgD x.wg).fn (s.wgD x.wg).ctx).checkMode
    (x.ready f sl = false → ∃ t y, exec i s = .next t ∧ t.grp? s.cur = some y ∧ y.pc = x.pc ∧ y.sregs = x.sregs
      ∧ y.vregs = x.vregs ∧ y.pend = x.pend ∧ t.mem = s.mem)
    ∧ (x.ready f sl = true → ∀ c info, decodeTrap f x.gran x.scount x.trapMode sl = some (c, info) →
      exec i s = at_ (BitVec.ofNat 8 c) info)
    ∧ (x.ready f sl = true → decodeTrap f x.gran x.scount x.trapMode sl = none →
      ∀ info, checkMode x mode f sl = some info → exec i s = at_ 5 info)
    ∧ (x.ready f sl = true → decodeTrap f x.gran x.scount x.trapMode sl = none → checkMode x mode f sl = none →
      x.guard sl = false → exec i s = .next ((s.atIssue sl).retire s.cur sl))

/-- R33, R95: a slot that is no instruction traps ILLEGAL_INSTRUCTION: REASON 6 for a header inside its block, REASON 2
for an unassigned SUB of an opcode whose SUBs are separate rows, REASON 1 otherwise. -/
def nonInstructionsTrap : Prop :=
  ∀ (s : State) (opc : BitVec 8) (sl : Slot) (x : Group), s.grp? s.cur = some x →
    let at_ (reason : Nat) := .next (s.raise s.cur { cause := 1, info := BitVec.ofNat 64 (reason * 2 ^ 32) } x.pc)
    exec (.nonInstructionEncoding opc sl) s =
      if opc = 0 then at_ 6 else if (splitSubs opc.toNat).isSome then at_ 2 else at_ 1

/-- The opcodes of the instructions whose effect is a value for D alone: MGET, GETFMT, the scalar, vector and float
families, and the lane instructions 0x90 to 0x96. -/
def registerOnly (opc : BitVec 8) : Bool :=
  decide (opc = 0x0F) || decide (opc = 0x12) || (decide (0x20 ≤ opc.toNat) && decide (opc.toNat ≤ 0x96))

end Sys2Proof

section

open Sys2Proof Sys2Proof.Machine

/-- R33, R82, R88, R95 to R97: every slot goes through the checks in order; what is no instruction traps. -/
def Obligations.SLOT_CHECKS_COME_FIRST : Prop := slotChecks ∧ nonInstructionsTrap

/-- R252 to R255: a trap that is not held, outside trap mode, with a TRAPVEC whose block may be entered and the trap bank
free, is taken: the trap registers, the interrupted block and its KC are saved, the handler's block is entered in
trap mode, and masks, format and registers are as they were. -/
def Obligations.TRAP_ENTRY_SAVES_AND_ENTERS : Prop :=
  ∀ (s : State) (g : Nat) (x : Group) (r : Raise) (pc : Word) (w : BitVec 128),
    let wg := s.wgD x.wg
    s.grp? g = some x → heldCause (s.ctxD wg.fn wg.ctx) r = false → x.trapMode = false → x.trapVec ≠ 0 →
    ((s.bankD x.bankKey).owner = none ∨ (s.bankD x.bankKey).owner = some g) →
    ((s.trapSaved g { cause := r.cause, pc := pc, addr := r.addr, info := r.info }).target g x.trapVec).2 = .ok w →
    badHeader w = false →
    ∃ y, (s.raise g r pc).grp? g = some y
      ∧ y.trapMode = true ∧ y.trapCause = r.cause ∧ y.trapPc = pc ∧ y.trapAddr = r.addr ∧ y.trapInfo = r.info
      ∧ y.savedKc = x.kc ∧ y.savedBlock = x.block ∧ y.pc = x.trapVec + 16 ∧ y.kc = w.extractLsb' 64 64
      ∧ y.block.hdr = x.trapVec ∧ y.inPreempt = decide (r.cause = 15)
      ∧ y.act = x.act ∧ y.live = x.live ∧ y.fmt = x.fmt ∧ y.mstk = x.mstk ∧ y.sregs = x.sregs ∧ y.vregs = x.vregs
      ∧ y.queue = x.queue ∧ y.sps = x.sps ∧ y.vps = x.vps ∧ y.pend = x.pend ∧ y.trapVec = x.trapVec
      ∧ ((s.raise g r pc).bankD x.bankKey).owner = some g

/-- R252, R255, R366: a trap in trap mode, or without a TRAPVEC, ends the workgroup; a held one, and one whose trap bank
another group holds, leaves the group waiting at its slot. -/
def Obligations.OTHER_TRAPS_KILL_OR_WAIT : Prop :=
  ∀ (s : State) (g : Nat) (x : Group) (r : Raise) (pc : Word),
    let wg := s.wgD x.wg
    let t : Trap := { cause := r.cause, pc := pc, addr := r.addr, info := r.info }
    s.grp? g = some x →
    (heldCause (s.ctxD wg.fn wg.ctx) r = false → (x.trapMode = true ∨ x.trapVec = 0) → g ∈ wg.groups →
      (s.raise g r pc).grp? g = none)
    ∧ (heldCause (s.ctxD wg.fn wg.ctx) r = true →
      (s.raise g r pc).grp? g = some { x with wait := .held s.newTag }
        ∧ ∃ h, tget (s.raise g r pc).holds s.newTag = some h ∧ h.trap = t ∧ h.grp = some g ∧ h.fn = wg.fn ∧ h.ctx = wg.ctx)
    ∧ (heldCause (s.ctxD wg.fn wg.ctx) r = false → x.trapMode = false → x.trapVec ≠ 0 →
      ∀ o, (s.bankD x.bankKey).owner = some o → o ≠ g → (s.raise g r pc).grp? g = some { x with wait := .bank t })

/-- R16 to R22, R85 to R88: the frame of the register-only instructions. One that issues either traps for its FMT, or
leaves every register outside its destination (the queue, for a push), every other group, every byte of memory and
every unit as it was, and stands at the next slot. -/
def Obligations.REGISTER_INSTRUCTION_FRAME : Prop :=
  ∀ (s t : State) (i : Instr) (opc : BitVec 8) (sl : Slot) (f : Form) (x : Group),
    slotOf i = some (opc, sl) → formOf i = some f → registerOnly opc = true → Issues s f sl x → exec i s = .next t →
    (tyIsFmt sl = true ∧ ∃ r : Raise, r.cause = 1 ∧ t = (s.atIssue sl).raise s.cur r x.pc)
      ∨ RegFrame s t x (destRefs x.trapMode sl.d 1)

/-- R191, R192, R197 to R202: the frame of stores, atomics and reductions in the window. They change no byte outside
those they store to, at the addresses of their lanes, and no register outside their destination; masks, stacks and
trap registers are unchanged. Atomics and reductions are those of a group whose accesses at peers are answered. -/
def Obligations.WINDOW_STORE_FRAME : Prop :=
  ∀ (s t : State) (x : Group) (sl : Slot),
    let n := tyW sl / 8
    let lanes := lanesOf (x.sel sl)
    let addr (L : Nat) : Word := lane (s.vsrc x sl 64 sl.a) L + sl.imm.signExtend 64
    let sAddr : Word := s.ssrc x sl sl.a + sl.imm.signExtend 64
    let kept (as : List Word) (m : Nat) (ds : List RegRef) : Prop :=
      (∀ l, (∀ a ∈ as, l < windowLoc x a ∨ windowLoc x a + m ≤ l) → t.rdByte l = s.rdByte l)
      ∧ (∀ die l, t.dieDirty die l = s.dieDirty die l) ∧ SameOthers s t s.cur
      ∧ ∃ y, t.grp? s.cur = some y ∧ y.pc = x.pc + 16 ∧ SameControl x y
        ∧ ∀ r, r ∉ ds → t.readV y r = s.readV x r ∧ t.readS y r = s.readS x r
    let each (ins : Instr) (f : Form) (as : List Word) (m : Nat) (ds : List RegRef) : Prop :=
      Issues s f sl x → (∀ a ∈ as, inWindow s x a m) → exec ins s = .next t → kept as m ds
    sl.md = 0 →
    each (.st sl) (fSt sl) (lanes.map addr) n []
    ∧ each (.stx sl) (fStx sl) (lanes.flatMap fun L => (List.range (cntN sl)).map fun j => addr L + BitVec.ofNat 64 (8 * j)) 8 []
    ∧ each (.sts sl) (fSts sl) [sAddr] n []
    ∧ each (.stb sl) (fStb sl) (lanes.map fun L => sAddr + BitVec.ofNat 64 (8 * L)) 8 []
    ∧ (tyI sl = true → (s.atIssue sl).peerQuiet s.cur = true → each (.atom sl) (fAtom sl) (lanes.map addr) n (destRefs x.trapMode sl.d 1)
      ∧ each (.atoms sl) (fAtoms sl) [sAddr] n (destRefs x.trapMode sl.d 1)
      ∧ (sl.sub ≠ 10 → each (.red sl) (fRed sl) (lanes.map addr) n []))

end

namespace Sys2Proof

open Machine

/-! ### The steps of the module's own agents: groups (R210, R253, R259, R368, R442, R444) -/

/-- A step completes in a state of which `P` holds. -/
def completes (i : Instr) (s : State) (P : State → Prop) : Prop := ∃ t, exec i s = .next t ∧ P t

/-- R442, R444, R253, R210: what arrives later. A result that is there is written; the oldest late trap is taken at the
slot the group would issue next; a group that waited for the trap bank enters its handler, or goes on in the one it has; a
wait ends with status 1 or 0. -/
def laterArrivals : Prop :=
  ∀ (s : State) (g : Nat) (x : Group), s.grp? g = some x →
    (∀ k p, x.pend.find? (fun q => decide (q.id = k)) = some p →
      (p.ready = false → exec (.variableResultWrite g k) s = .next s)
      ∧ (p.ready = true → completes (.variableResultWrite g k) s fun t => ∃ y, t.grp? g = some y
        ∧ y.pend = x.pend.filter (fun q => decide (q.id ≠ k)) ∧ y.pc = x.pc
        ∧ (∀ n v, p.writes = [.scalar (.s n) v] → t.readS y (.s n) = v)
        ∧ ∀ n sel v, p.writes = [.vec (.v n) sel v] → t.readV y (.v n) = merge sel (s.readV x (.v n)) v))
    ∧ (∀ tr rest, x.delayed = tr :: rest → x.inBlock = true →
      exec (.delayedTrap g) s
        = .next (((s.unwait g).updGrp g fun y => { y with delayed := rest }).deliverTrap g { tr with pc := x.pc }))
    ∧ (∀ t w, x.wait = .bank t → (s.bankD x.bankKey).owner = none →
      let h := if t.cause = 15 then (s.wgD x.wg).preempt else x.trapVec
      (((s.updGrp g fun y => { y with wait := .none }).trapSaved g t).target g h).2 = .ok w → badHeader w = false →
      completes (.trapEntry g) s fun u => ∃ y, u.grp? g = some y ∧ y.trapMode = true ∧ y.trapCause = t.cause
        ∧ y.trapPc = t.pc ∧ y.trapAddr = t.addr ∧ y.trapInfo = t.info ∧ y.savedKc = x.kc ∧ y.savedBlock = x.block
        ∧ y.wait = .none ∧ y.pc = h + 16 ∧ y.kc = w.extractLsb' 64 64 ∧ (u.bankD x.bankKey).owner = some g)
    ∧ (x.wait = .regain → (s.bankD x.bankKey).owner = none → completes (.trapEntry g) s fun u =>
        u.grp? g = some { x with wait := .none } ∧ (u.bankD x.bankKey).owner = some g)
    ∧ (∀ a v n sl, x.wait = .waitp a v n sl →
      (∀ u t r m, s.resolve (s.viewOf g) a 4 4 4 = (u, .ok t) → u.readP (s.viewOf g) t 4 a 4 = (r, .ok m) →
        let word := BitVec.ofNat 32 m
        let met : Prop := match sl.sub.toNat with
          | 0 => word ≠ v | 1 => word = v | _ => (word - v).toNat < 2 ^ 31
        (met → exec (.waitpWake g) s = .next ((if sl.md.getLsbD 0 then r.acquire x.core sl.scp.toNat else r).finish g sl
          .blocking (scaOut x.trapMode sl.d 0 1) false))
        ∧ (¬ met → exec (.waitpWake g) s = .next (if r.wants = [] then s else r)))
      ∧ (n ≠ 0 → completes (.waitpTimeout g) s fun t => ∃ y, t.grp? g = some y ∧ y.wait = .none ∧ y.pc = x.pc + 16
        ∧ y.stall = sl.stall.toNat ∧ (t.coreD x.core).cycle = (s.coreD x.core).cycle + BitVec.ofNat 64 (n + 1)
        ∧ ∀ k < 7, dstRef x.trapMode sl.d 0 = some (.sp k) → t.readS y (.sp k) = 0))

/-- R259: a pre-emption request takes each resident group of the context to its pre-emption handler, with cause PREEMPT and
the budget of PBUDGET where it set none; with PBUDGET 0 it marks the group for a forced save instead. A group whose slot has
asked peers ends that slot first. -/
def preemptionRequests : Prop :=
  ∀ (s : State) (fn ctx : Nat),
    let ws := s.ctxWgs fn ctx
    (∀ w ∈ ws, (s.wgD w).fn = fn ∧ (s.wgD w).ctx = ctx
      ∧ ∀ h ∈ (s.wgD w).groups, ∀ y, s.grp? h = some y → y.wg = w) →
    ((s.ctxD fn ctx).pbudget = 0 → completes (.preemptionRequest fn ctx) s fun t =>
      ∀ w ∈ ws, ∀ g ∈ (s.wgD w).groups, ∀ x, s.grp? g = some x → x.phase = .resident → x.preempt = false →
        (x.trapMode = false ∨ x.inPreempt = false) → s.midway (.grp g x.pc) = false →
        t.grp? g = some { x with preempt := true, budget := 0, budgetOn := false })
    ∧ ∀ w g x h, ws = [w] → (s.wgD w).groups = [g] → s.grp? g = some x → (s.ctxD fn ctx).pbudget ≠ 0 →
      (s.wgD w).preempt ≠ 0 → x.phase = .resident → x.preempt = false → x.trapMode = false → x.wait = .none →
      x.inBlock = true → (s.bankD x.bankKey).owner = none → s.midway (.grp g x.pc) = false →
      ((((s.updGrp g fun y => { y with wait := .none, delayed := [], preempt := false }).trapSaved g
        { cause := 15, pc := x.pc }).target g (s.wgD w).preempt).2 = .ok h) → badHeader h = false →
      completes (.preemptionRequest fn ctx) s fun t => ∃ y, t.grp? g = some y ∧ y.trapMode = true
        ∧ y.inPreempt = true ∧ y.trapCause = 15 ∧ y.trapPc = x.pc ∧ y.pc = (s.wgD w).preempt + 16
        ∧ y.budget = (if x.budget = 0 then (s.ctxD fn ctx).pbudget else x.budget) ∧ y.snap = some x.snapshot
        ∧ (t.bankD x.bankKey).owner = some g

/-- R31, R259, R368: a group whose pre-emption budget is over, with its results there, is saved: it stands at the slot where
it was interrupted, with what it held there, outside trap mode, with nothing pending, and holds no trap bank. -/
def forcedSaves : Prop :=
  ∀ (s : State) (g : Nat) (x : Group),
    s.grp? g = some x → x.overrun = true → x.settled = true → s.peerQuiet g = true → (x.trapMode = true ∨ x.inBlock = true) →
    s.matBusy x.wg = false → (∀ l, tget s.launches (s.wgD x.wg).launch = some l → l.desc.cores = false) →
    completes (.forcedSave g) s fun t => ∃ y, t.grp? g = some y ∧ y.phase = .saved ∧ y.trapMode = false
      ∧ y.wait = .none ∧ y.pend = [] ∧ y.delayed = [] ∧ y.preempt = false ∧ y.pc = (if x.trapMode then x.trapPc else x.pc)
      ∧ y.act = x.atSlot.act ∧ y.live = x.atSlot.live ∧ y.fmt = x.atSlot.fmt ∧ y.mstk = x.atSlot.mstk
      ∧ (x.pend = [] → y.sregs = x.atSlot.sregs) ∧ (t.bankD x.bankKey).owner ≠ some g

end Sys2Proof

section

open Sys2Proof Sys2Proof.Machine

/-- R210, R253, R259, R368, R442, R444: results, late traps, trap entries, ends of waits, pre-emption requests and forced
saves do what the rules say. The model's choices: how CYCLE passes in a wait that ends by time (assumption log 8), and that a
forced save waits until the group's results are there and what it restores after an overrun (log 40). -/
def Obligations.GROUP_EVENTS : Prop := laterArrivals ∧ preemptionRequests ∧ forcedSaves

end

namespace Sys2Proof

open Machine

/-! ### Engines (R227, R229, R234, R240, R243, R436, R437) -/

/-- Byte `k` of row `i` of an operand of rows `st` bytes apart in a workgroup's window. -/
def windowByte (s : State) (wg : Nat) (base : Word) (st i k : Nat) : Byte :=
  s.rdByte (winLoc wg ((base.extractLsb' 0 60).toNat + i * st + k))

/-- R227, R229, R231, R234: an idle engine starts the next queued instruction that its tiles serve. On completion ACCZ
zeroes the selected rows; MMA.i8 and MMA.u8 add the products of selected rows and columns, clamped to 32 bits; ACCALLOC.stat
gives KIND and ACCSAT. -/
def matrixSteps : Prop :=
  ∀ (s : State) (me : Nat) (o : MatOp),
    (∀ r, (s.engD me).running = some r → exec (.engineStart me) s = .next s)
    ∧ ((s.engD me).running = none → s.matNext me = some o → s.accReason o = none → o.opc ≠ 0xE4 → o.opc ≠ 0xE5 →
      completes (.engineStart me) s fun t => (t.engD me).running = some o
        ∧ (t.coreD o.core).engq = (s.coreD o.core).engq.drop 1)
    ∧ ((s.engD me).running = some o → ∀ w, tget s.wgs o.wg = some w → w.done = false →
      let old := s.tileOf o.wg (tileN o.sl)
      let chosen (r : Nat) : Bool := o.rows.getLsbD r
      (o.opc = 0xE3 → completes (.matrixOpComplete me) s fun t => (t.engD me).running = none
        ∧ ∀ r < 32, ∀ n < 64, (t.tileOf o.wg (tileN o.sl)).el r n = if chosen r then Elem.zero else old.el r n)
      ∧ (o.opc = 0xE0 → (tyCode o.sl = 0 ∨ tyCode o.sl = 1) → o.rows ≠ 0 → (∀ r n, (old.el r n).q < 2 ^ 32) →
        completes (.matrixOpComplete me) s fun t => (t.engD me).running = none
          ∧ ∀ r < 32, ∀ n < 64,
            let a (k : Nat) : Int := let b := windowByte s o.wg o.a o.lda r k; if tyCode o.sl = 0 then b.toInt else b.toNat
            let b (k : Nat) : Int :=
              let c := windowByte s o.wg o.b o.ldb n k
              if (tyCode o.sl = 0) ≠ (o.sl.md.getLsbD 0 = true) then c.toInt else c.toNat
            let sum : Int := (BitVec.ofNat 32 (old.el r n).q).toInt + ((List.range 64).map fun k => a k * b k).sum
            (t.tileOf o.wg (tileN o.sl)).el r n
              = if chosen r then { q := (BitVec.ofInt 32 (max (-2 ^ 31) (min sum (2 ^ 31 - 1)))).toNat, c := 0 }
                else old.el r n)
      ∧ (o.opc = 0xE8 → o.sl.sub = 4 → ∀ x p r v, s.grp? o.grp = some x → x.pend = [p] → p.id = o.pend →
        p.writes = [.scalar r v] → completes (.matrixOpComplete me) s fun t => ∃ y, t.grp? o.grp = some y
          ∧ y.pend = [{ p with ready := true, writes := [.scalar r (BitVec.ofNat 64 (old.kind + 8 * old.sat.toNat))] }]))

/-- R240, R243: a word of a copy moves whole; a landed copy notifies (NTF 2 a word, NTF 4 a decrement, NTF 0 nothing) and is
gone, its packet COMPLETE; a held fault pauses it with its tag. -/
def copySteps : Prop :=
  ∀ (s : State) (op : Nat) (o : AsyncOp), tget s.ops op = some o → o.isCopy = true → o.paused = none →
    (∀ a b sa da, (s.wgD o.wg).resident = true → o.ntf ≠ 1 → o.redo = [] → o.moved + 1 = o.words → s.copyHeld o = false → s.scatHeld op o o.moved = false →
      s.wordAt (s.opView o) o o.moved = (s, .ok { st := .win a, dt := .win b, sa := sa, da := da }) →
      completes (.copyUnitLand op) s fun t => t.mem = (s.wr b 8 (s.rd a 8)).mem
        ∧ tget t.ops op = some { o with moved := o.moved + 1, landed := o.landed + 8 })
    ∧ (s.copyDone op o = true →
      (o.ntf = 0 → let t := s.opGone op o 0
        exec (.asyncOpComplete op) s = .next (s.winFollow t o.wg) ∧ tget t.ops op = none
        ∧ ∀ p, tget s.packets o.packet = some p → tget t.packets o.packet = some { p with status := some 0 })
      ∧ ∀ u t, (∀ p pa, t ≠ .peer p pa) →
        (o.ntf = 2 → s.hubAt (s.opView o) o.e 4 1 = (u, .ok t) →
          let q := u.readT (s.opView o) t 4 true
          exec (.asyncOpComplete op) s
            = .next (s.winFollow (((q.1.writeT (s.opView o) t 4 true (o.imm.toNat % 2 ^ 32)).hubPays (s.opView o) t 4).opGone
              op o 0) o.wg))
        ∧ (o.ntf = 4 → s.hubAt (s.opView o) o.e 8 2 = (u, .ok t) →
          let q := u.readT (s.opView o) t 8 true
          exec (.asyncOpComplete op) s
            = .next (s.winFollow (((q.1.writeT (s.opView o) t 8 true
              ((q.2 + (2 ^ 64 - o.imm.toNat)) % 2 ^ 64)).hubPays (s.opView o) t 8).opGone op o 0) o.wg)))
    ∧ (∀ e, o.packet = 0 → s.nextFault o = some e → completes (.enginePageFault op) s fun t =>
        tget t.ops op = some { o with paused := some s.newTag }
          ∧ ∃ h, tget t.holds s.newTag = some h ∧ h.op = some op ∧ h.fn = o.fn ∧ h.ctx = o.ctx
            ∧ h.trap.cause = e.cause ∧ h.trap.addr = e.addr)

/-- R436, R437: once the COLLs of all other participants have come, a COLL that is next in the order of its PEERS matches where
they agree, and else fails at the descriptor with REASON 0x2B; a contribution that does not complete its line is kept, also
while the COLL is not matched or is paused, and a line that a broadcast or a gather completes is written whole; the last one
to be written raises READY by 1. -/
def collectiveSteps : Prop :=
  ∀ (s : State) (op : Nat) (o : AsyncOp), tget s.ops op = some o → o.opc = 0xD4 →
    (∀ others : List CollHead, o.matched = false →
      let agree := ∀ h ∈ others, h.kind = o.kind ∧ h.ty = o.ty ∧ h.bytes = o.rb ∧ h.root = o.root
      let all := others.length + 1 = o.peers.length ∧ s.collNext op o = true
      (all → agree → exec (.collMatch op others) s = .next { s with ops := tput s.ops op { o with matched := true } })
      ∧ (all → ¬ agree → exec (.collMatch op others) s = .next (s.opFail op o 0x2B 19 o.list))
      ∧ (¬ all → exec (.collMatch op others) s = .next s))
    ∧ ∀ line port data, port ≠ o.port s.selfid.toNat → port < 1024 → line < o.dstLines s.selfid.toNat →
      let o1 := { o with contrib := tput o.contrib (1024 * line + port) data }
      (o.matched = false ∨ o.paused ≠ none → o1 ≠ o →
        exec (.collContribLand op line port data) s = .next { s with ops := tput s.ops op o1 })
      ∧ (o.matched = true → o.paused = none → line ∉ o.written → (∀ p ∈ o.contrib, p.1 / 1024 ≠ line) →
        (1 < o.need s.selfid.toNat line →
          exec (.collContribLand op line port data) s = .next (s.winFollow { s with ops := tput s.ops op o1 } o.wg))
        ∧ ∀ u, (o.kind = 2 ∨ o.kind = 3) → o.sent = false → u.selfid = s.selfid →
          s.collWrite (s.opView o) op (o.dst + BitVec.ofNat 64 (128 * line)) data = (u, none) →
          let o2 := { o1 with written := o.written ++ [line], landed := o.landed + (if o.ntf = 1 then 128 else 0) }
          let u2 := { u with ops := tput u.ops op o2 }
          (u2.linesDone op o2 = false → exec (.collContribLand op line port data) s = .next (s.winFollow u2 o.wg))
          ∧ ∀ v t, u2.linesDone op o2 = true → (∀ p pa, t ≠ .peer p pa) →
            u2.hubAt (u2.opView o2) o.ready 4 2 = (v, .ok t) →
            let q := v.readT (u2.opView o2) t 4 true
            let w := (q.1.writeT (u2.opView o2) t 4 true ((q.2 + 1) % 2 ^ 32)).hubPays (u2.opView o2) t 4
            exec (.collContribLand op line port data) s
              = .next (s.winFollow { w with ops := tput w.ops op { o2 with sent := true } } o.wg))

end Sys2Proof

section

open Sys2Proof Sys2Proof.Machine

/-- R227 to R244, R436, R437: matrix engines, copy engines and collectives do what the rules say. The model's choices: the
corners of matrix checks (assumption log 35), the words that move at one step of a copy (log 36), and when READY rises on a
device that writes no line (log 66). -/
def Obligations.ENGINE_EVENTS : Prop := matrixSteps ∧ copySteps ∧ collectiveSteps

end

namespace Sys2Proof

open Machine

/-! ### The dispatcher (R30, R329 to R349) -/

/-- R329, R330, R335: writing EN of a disabled queue sets its ring and context, and enables it when the ring is valid; a
wake reads PIDX, and disables a queue whose ring cannot be reached, with ERR set; clearing ERR changes nothing else. -/
def queueSteps : Prop :=
  ∀ (s : State) (fn q : Nat) (rcb : Word) (ctx : Nat), tget s.fns fn ≠ none →
    ((64 ≤ q ∨ (s.queueD fn q).en = true) → exec (.queueEnWrite fn q rcb ctx) s = .next s)
    ∧ (q < 64 → (s.queueD fn q).en = false →
      let r := (s.updQueue fn q fun k => { k with rcb := rcb, ctx := ctx }).queueRing fn rcb ctx
      (r.2 = none → completes (.queueEnWrite fn q rcb ctx) s fun t =>
        t.queueD fn q = { s.queueD fn q with rcb := rcb, ctx := ctx })
      ∧ ∀ b, r.2 = some b → completes (.queueEnWrite fn q rcb ctx) s fun u =>
        u.queueD fn q = { s.queueD fn q with rcb := rcb, ctx := ctx, en := true, seen := BitVec.ofNat 32 b.pidx })
    ∧ (completes (.queueErrClear fn q) s fun t => t.queueD fn q = { s.queueD fn q with err := false })
    ∧ ((s.queueD fn q).en = true → s.ctxRuns fn (s.queueD fn q).ctx = true →
      let r := s.queueRing fn (s.queueD fn q).rcb (s.queueD fn q).ctx
      (r.2 = none → completes (.queuePidxWake fn q) s fun t =>
        t.queueD fn q = { s.queueD fn q with en := false, err := true })
      ∧ ∀ b, r.2 = some b → completes (.queuePidxWake fn q) s fun u =>
        u.queueD fn q = { s.queueD fn q with seen := BitVec.ofNat 32 b.pidx })

/-- The packet that a queue took as number `id`, with its status so far. -/
def tookPacket (t : State) (id fn q : Nat) (w : List Word) (st : Option Nat) : Prop :=
  ∃ p, tget t.packets id = some p ∧ p.fn = fn ∧ p.q = q ∧ p.compl = pw w 1 ∧ p.status = st

/-- R331 to R340: the head packet of a queue waits, or, on the queue's turn, CIDX advances and it is given the status that
its start conditions give, or starts: a NOP and a met BARRIER are COMPLETE, a SIGNAL sets or subtracts, a COPY, LAUNCH or
GRAPH makes its operation, launch or graph. -/
def packetSteps : Prop :=
  ∀ (s u u1 c : State) (fn q : Nat) (b : Rcb) (w : List Word) (start : Start),
    s.headPacket fn q = (u, some (b, w)) → u.startOf fn q w = (u1, start) → u1.wants = [] →
    s.queueTurn fn q = true → u1.advance fn q b = (c, true) →
    let events : List (Nat × Instr) := [(0, .packetNop fn q), (1, .packetLaunch fn q), (2, .packetBarrier fn q),
      (3, .packetCopy fn q), (4, .packetSignal fn q), (5, .packetGraph fn q)]
    let a := c.accept fn q w none
    let v := a.1.hubView fn (a.1.queueD fn q).ctx
    let taken := tookPacket (id := c.tick) (fn := fn) (q := q) (w := w)
    let going (ty : Nat) : Prop := start = .go ∧ pType w = ty
    (∀ e ∈ events, pType w = e.1 →
      (start = .wait → exec e.2 s = .next u1)
      ∧ ∀ st, start = .status st → completes e.2 s fun t => taken t (st := some st) ∧ t.mem = c.mem)
    ∧ (∀ e ∈ [((0 : Nat), Instr.packetNop fn q), (2, .packetBarrier fn q)], going e.1 →
      completes e.2 s fun t => taken t (st := some 0) ∧ t.mem = c.mem)
    ∧ (going 4 → ∀ z d, (∀ p pa, d ≠ .peer p pa) →
      let sub := pw w 4 ≠ 0
      a.1.hubAt v (pw w 2) 8 (if sub then 2 else 1) = (z, .ok d) →
      let r := z.readT v d 8 true
      completes (.packetSignal fn q) s fun t => taken t (st := some 0)
        ∧ t.mem = (r.1.writeT v d 8 true
          ((if sub then r.2 + (2 ^ 64 - (pw w 3).toNat) else (pw w 3).toNat) % 2 ^ 64)).mem)
    ∧ (going 3 →
      let n := (pw w 4).toNat
      let o : AsyncOp := { opc := 0xD0, fn := v.fn, ctx := v.ctx, wg := 0, grp := 0, cls := 1, batch := 0, scp := 3
                           dst := pw w 2, src := pw w 3, rb := n, rows := 1, dstride := n, sstride := n, list := 0
                           ntf := 0, e := 0, imm := 0, packet := c.tick }
      (a.1.copyCheck v o [] ≠ none → completes (.packetCopy fn q) s fun t => taken t (st := some 4))
      ∧ ∀ d r, a.1.copyCheck v o [] = none → a.1.spanOk v o.dst n 1 (n / 65536 + 2) = (d, true) →
        d.spanOk v o.src n 0 (n / 65536 + 2) = (r, true) →
        completes (.packetCopy fn q) s fun t => taken t (st := none) ∧ tget t.ops r.tick = some o)
    ∧ (going 1 → ∀ z ws y, a.1.hubWords v (pw w 2) 32 = (z, .ok ws) →
      (descBad v.world (wordsFn ws) = true → completes (.packetLaunch fn q) s fun t => taken t (st := some 4))
      ∧ (descBad v.world (wordsFn ws) = false → (descOf (wordsFn ws)).early = false →
        let h := z.newHandle fn 0
        h.1.putHandle v (pw w 3) h.2 = (y, true) →
        (y.admits fn (descOf (wordsFn ws)) = false → completes (.packetLaunch fn q) s fun t => taken t (st := some 3))
        ∧ (y.admits fn (descOf (wordsFn ws)) = true → completes (.packetLaunch fn q) s fun t => taken t (st := none)
          ∧ ∃ l, tget t.launches y.tick = some l ∧ l.fn = fn ∧ l.desc = descOf (wordsFn ws) ∧ l.packet = c.tick
            ∧ l.handle = h.2 ∧ l.remaining = l.desc.gx * l.desc.gy * l.desc.gz ∧ l.nextWg = 0 ∧ l.done = false)))
    ∧ (going 5 → a.1.parentsOk v (bits (pw w 3) 31 0) (bits (pw w 3) 63 32) = true → pw w 5 = 0 →
      ∀ z ds es, a.1.readGraph v (pw w 2) = (z, some (ds, es)) →
      completes (.packetGraph fn q) s fun t => taken t (st := none)
        ∧ ∃ g x, tget t.graphs g = some x ∧ x.fn = fn ∧ x.descs = ds ∧ x.edges = es ∧ x.remaining = ds.length
          ∧ x.packet = c.tick ∧ x.done = false)

/-- R336, R335: a packet whose status is known completes: it is gone, and with another status than COMPLETE its queue's ERR
is set. R340: a node that may start starts its launch. R348: a spilled card moves to the task queue with room for it.
R349: at the start of a µs each bucket gains RATE, up to DEPTH. -/
def laterPackets : Prop :=
  (∀ (s : State) (id st : Nat) (p : Packet), s.donePacket = some (id, p, st) → tget s.fns p.fn ≠ none →
    completes .packetComplete s fun t => tget t.packets id = none
      ∧ (t.queueD p.fn p.q).err = ((s.queueD p.fn p.q).err || decide (st ≠ 0)))
  ∧ (∀ (s : State) (graph node : Nat) (u : Unit3) (d : LaunchDesc), tget s.graphs graph = some u → u.done = false →
    (nodeStart u node = .wait → exec (.graphNodeStart graph node) s = .next s)
    ∧ (nodeStart u node = .go → u.descs[node]? = some d → s.admits u.fn d = true →
      completes (.graphNodeStart graph node) s fun t =>
        (∃ l, tget t.launches s.tick = some l ∧ l.fn = u.fn ∧ l.ctx = u.ctx ∧ l.desc = d ∧ l.graph = graph ∧ l.node = node
          ∧ l.remaining = d.gx * d.gy * d.gz ∧ l.done = false)
        ∧ ∃ u1, tget t.graphs graph = some u1 ∧ tget u1.nodes node = some (s.tick, none)))
  ∧ (∀ (s : State) (core : Nat) (c : Card), s.spillCore = some (core, c) →
    completes .cannoliSpillMove s fun t => (t.coreD core).spilled = (s.coreD core).spilled.drop 1
      ∧ ∀ l, tget s.launches c.launch = some l → l.done = false → l.cancelled = false →
        (t.coreD core).taskq = (s.coreD core).taskq ++ [c])
  ∧ (∀ (s : State) (fn : Nat) (f : Func) (k : Nat) (b : Bucket), tget s.fns fn = some f → tget f.buckets k = some b →
    completes .bucketRefill s fun t => ∃ f1, tget t.fns fn = some f1
      ∧ tget f1.buckets k = some (if b.rate = 0 then b else { b with level := min (b.depth : Int) (b.level + b.rate) }))

/-- R30, R342: a placement pass with nothing to place leaves groups alone; one whose one candidate is the next workgroup of
a launch, with room and its gate open, starts its group at the role's entry with the values of R30. -/
def placementSteps : Prop :=
  ∀ (s : State), (∀ p ∈ s.launches, p.2.gateOpen = true) →
    (s.placeOne s.coWaiting [] s.candidates = none → completes .placementPass s fun t => t.groups = s.groups
      ∧ t.wgs = s.wgs ∧ ∀ fn f, tget s.fns fn = some f → tget t.fns fn = some { f with fresh := false })
    ∧ ∀ l x r k role p u save, s.coWaiting = [] → s.candidates = [(r, .fresh l)] → tget s.launches l = some x →
      x.gateOpen = true → x.desc.cores = false → (s.fnD x.fn).energyRoom x.desc.energy = true →
      roleGroups x.desc.roles = [(k, 0, role)] → findSpot s.used x.desc.need (s.trialOrder x.fn) = some (p, u) →
      s.saveSpot x.fn x.ctx x.desc.need.record = some save → s.earlyOk x.fn x.prods u = true →
      let s1 := (s.startWg l x.nextWg x.desc.roles x.desc.scratch x.desc.tiles x.desc.param (BitVec.ofNat 64 x.nextWg) none
        x.desc.prio x.desc.energy x.seq save x.acq p).updLaunch l fun y => { y with nextWg := y.nextWg + 1 }
      s1.placeOne s1.coWaiting [] s1.candidates = none →
      let g := tfresh s.groups
      completes .placementPass s fun t => ∃ y, t.grp? g = some y ∧ y.pc = role.entry ∧ y.phase = .resident
        ∧ y.act = 0xFFFFFFFF ∧ y.live = 0xFFFFFFFF ∧ y.fmt = 0x999 ∧ y.mstk = [] ∧ y.queue = [] ∧ y.vregs = []
        ∧ y.trapMode = false ∧ y.trapVec = 0 ∧ y.role = k ∧ y.gran = role.gran ∧ y.scount = role.scnt
        ∧ t.readS y (.s 0) = x.desc.param ∧ t.readS y (.s 1) = BitVec.ofNat 64 x.nextWg ∧ t.readS y (.s 2) = 0
        ∧ t.readS y (.s 3) = 0 ∧ t.readS y (.s 4) = 0x1000000000000000 ∧ (∀ n, 5 ≤ n → t.readS y (.s n) = 0)
        ∧ y.wg = tfresh s.wgs ∧ (t.wgD y.wg).groups = [g] ∧ (t.wgD y.wg).launch = l
        ∧ ∃ x1, tget t.launches l = some x1 ∧ x1.nextWg = x.nextWg + 1

end Sys2Proof

section

open Sys2Proof Sys2Proof.Machine

/-- R30, R329 to R349: queues, packets, graph nodes, spilled cards, buckets and placement. The model's choices: which handles
are given (assumption log 7), what PACKET_NOP takes and that a packet completes by a step of its own (log 37), the order of
placement, the limits of absent roles and what a re-placement reserves (log 38), and the place of a record (log 39). -/
def Obligations.DISPATCHER_EVENTS : Prop := queueSteps ∧ packetSteps ∧ laterPackets ∧ placementSteps

end

namespace Sys2Proof

open Machine

/-! ### Walks, rings of requests, page moves, time slices (R355 to R373, R399, R400, R419) -/

/-- R356, R359, R361, R364, R370, R399, R404: a walk verifies the counters of the entries that it reads; one that finds no leaf
changes nothing else. One whose checks pass installs the leaf with ACC, takes the frames that nobody owns, sets the world's
marks and the touched dies; a first write sets DIRTY. -/
def walks : Prop :=
  ∀ (s0 : State) (die fn ctx space : Nat) (va : Word) (kind : Nat),
    let v : View := { s0.hubView fn ctx with die := die }
    let a := (va.extractLsb' 0 52).toNat
    let ev : Instr := .pageWalk die fn ctx space va kind
    let s := s0.noteWalk (s0.ctxD fn ctx) space a
    (∀ r l, s.lookup (s.ctxD fn ctx) space a = .bad r l → exec ev s0 = .next s)
    ∧ ∀ l place size level, s.lookup (s.ctxD fn ctx) space a = .leaf l place size level → s.lostDies = [] → s.badNode = [] →
      leafTier l ≤ 1 → s.check58 v space l size = none → tget s.ctxs (ctxKey fn ctx) ≠ none →
      (∀ f ∈ framesOf l size, s.ownerOf f = 255 ∨ s.ownerOf f = v.world ∨ s.ownerOf f = 64) →
      (∀ f ∈ framesOf l size, tval false s.bias f = leafBias l) → check911 l kind false (kindWrites kind) = none →
      (leafAcc l = true ∨ kindWrites kind = false ∨ leafDirty l = true) →
      completes ev s0 fun t =>
        (∃ e ∈ t.tlb, e.die = die ∧ e.fn = fn ∧ e.ctx = ctx ∧ e.space = space ∧ e.base = a / size * size ∧ e.size = size
          ∧ e.leaf.getLsbD 8 = true ∧ leafFrame e.leaf = leafFrame l ∧ (kindWrites kind = true → leafDirty e.leaf = true))
        ∧ (∀ f ∈ framesOf l size, t.ownerOf f = (if s.ownerOf f = 255 then
            (if v.world = 0 ∧ leafPriv l = true then 64 else v.world) else s.ownerOf f)
          ∧ (leafExec l = true → tval false t.markX (markKey v.world f) = true)
          ∧ (leafWrite l = true → tval false t.markW (markKey v.world f) = true)
          ∧ (leafTier l = 0 → s.homeDie f < 17 → (t.ctxD fn ctx).tdmask.getLsbD (s.homeDie f) = true))
        ∧ (leafAcc l = true → kindWrites kind = true → leafDirty l = false → t.entry place = l ||| 0x200)

/-- R362, R363, R370, R400: the head invalidation request of a ring is taken. An invalid one changes nothing else but its
signal, which becomes −1. A valid one drops the translations that its OP names, and no other; OP 2 returns the frames of
the context's world to NONE, and they read zero; OP 3 only clears bits of TDMASK, never H. Its signal goes down at once, or,
while requests to peers from before are out, by a later step. -/
def invalidations : Prop :=
  (∀ (s : State) (fn : Nat) (v : InvWait), s.invDone = some (fn, v) →
    ∀ i ∈ [Instr.invPages, .invContext, .invFrames, .invTdmask], exec i s
      = .next ((s.updFn fn fun g => { g with invWait := none }).ringSig (v.from_.map s.keyView) v.signal.toNat .dec))
  ∧ ∀ (s : State) (op fn ring : Nat) (w : List Word), s.invDone = none → pickReq s.invReqs op 3 = some (fn, ring, w) →
    let s1 := s.ringTake ring
    let sig := (pw w 3).toNat
    let from_ := tget s.enqBy (s.headElem ring)
    let performed (i : Instr) (P : State → Prop) : Prop := ∃ u, P u ∧ exec i s = .next (
      if u.olderOut fn u.tick then u.updFn fn fun g => { g with invWait := some { since := u.tick, from_ := from_, signal := pw w 3 } }
      else u.ringSig (from_.map s.keyView) sig .dec)
    let ctx := reqCtx w
    let lo := (pw w 1 &&& 0x000FFFFFFFFF0000).toNat
    let n := ((pw w 2).setWidth 32).toNat
    let events : List (Nat × Instr) := [(0, .invPages), (1, .invContext), (2, .invFrames), (3, .invTdmask)]
    (s.invBad fn w = true → ∀ e ∈ events, op = e.1 → exec e.2 s = .next (s1.ringSig (from_.map s.keyView) sig (.neg 1)))
    ∧ (s.invBad fn w = false →
      (op = 0 → performed .invPages fun t => ∀ e, e ∈ t.tlb ↔ e ∈ s.tlb
        ∧ ¬ (e.fn = fn ∧ e.ctx = ctx ∧ e.space = reqSpace w ∧ e.base < lo + n * 65536 ∧ lo < e.base + e.size))
      ∧ (op = 1 → performed .invContext fun t => ∀ e, e ∈ t.tlb ↔ e ∈ s.tlb ∧ ¬ (e.fn = fn ∧ e.ctx = ctx))
      ∧ (op = 2 →
        let first := ((pw w 1).extractLsb' 16 48).toNat
        let world := (s.ctxD fn ctx).world
        let named (f : Nat) : Prop := first ≤ f ∧ f < first + n ∧ f < 2 ^ 34
        performed .invFrames fun t =>
          (∀ f, t.ownerOf f = if named f ∧ s.ownerOf f = world then 255 else s.ownerOf f)
          ∧ (∀ e ∈ t.tlb, (s.ctxD e.fn e.ctx).world = world → leafTier e.leaf ≤ 1 →
            ∀ f ∈ framesOf e.leaf e.size, ¬ named f)
          ∧ ∀ l < 2 ^ 64, named (l / 65536) → s.ownerOf (l / 65536) = world → t.rdByte l = 0)
      ∧ (op = 3 → performed .invTdmask fun t => t.tlb = s.tlb
        ∧ (t.ctxD fn ctx).tdmask &&& ~~~(s.ctxD fn ctx).tdmask = 0
        ∧ (t.ctxD fn ctx).tdmask.getLsbD 12 = (s.ctxD fn ctx).tdmask.getLsbD 12))

/-- R320, R324, R326, R373: the head move request is taken, and what a peer holds of its page is asked for; then its signal
becomes −1 where it fails, and is decremented where the page moved. A listed move whose page is not there any more is dropped;
one with room is made; one without stays, put aside. -/
def pageMoves : Prop :=
  (∀ (s : State) (fn ring : Nat) (w : List Word), ∀ e ∈ [((0 : Nat), Instr.moveUp), (1, .moveDown)],
    pickReq s.moveReqs e.1 1 = some (fn, ring, w) →
    let by_ := s.enqView (s.headElem ring)
    let sig := (pw w 3).toNat
    let r := (s.ringTake ring).wsReadyAll.moveReq fn w e.1
    (r.1.wants ≠ [] → exec e.2 s = .next r.1)
    ∧ (r.1.wants = [] → r.2 = none → exec e.2 s = .next (r.1.ringSig by_ sig (.neg 1)))
    ∧ ∀ t ok, r.1.wants = [] → r.2 = some (t, ok) → exec e.2 s = .next (t.ringSig by_ sig (if ok then .dec else .neg 1)))
  ∧ ∀ (s0 : State) (m : Move),
    let s := s0.wsReadyAll.addEvacs none
    s.moves.find? (fun x => !x.stuck) = some m →
    let home := m.by_.getD m.fn
    let s1 := { s with moves := s.moves.filter fun x => decide (x.id ≠ m.id) }
    (s.moveLive m = false → exec .pageMove s0 = .next s1)
    ∧ (s.moveLive m = true → ∀ l place size g bytes, s1.leafAt m.page = some (l, place, size) →
      s1.pageIn m.fn m.ctx l size = (g, bytes) →
      (bytes = none → exec .pageMove s0 = .next g)
      ∧ ∀ b, bytes = some b →
        let r := g.pageUp home m.page (s1.outgoingOf home) (s1.fnD home).skip b
        (∀ t ok, r.1 = some (t, ok) → exec .pageMove s0 = .next (t.updFn home fun f => { f with skip := r.2 }))
        ∧ (r.1 = none → completes .pageMove s0 fun t => t.moves = s1.moves ++ [{ m with stuck := true }]))

/-- R419, R426: at the end of a quantum the member stays where no other has work, and else its switch begins; once the
outgoing function has left the cores the incoming one holds the slices, for a quantum and with its gates closed. -/
def timeSlices : Prop :=
  (∀ (s0 : State) (fn : Nat) (f : Func), let s := s0.lookQueues
    s.quantumOver = some (fn, f) → tget s.fns fn ≠ none →
    ((s.nextMember fn = none ∨ s.nextMember fn = some fn) → completes .quantumEnd s0 fun t =>
      t.fnD fn = { s.fnD fn with left := (s.fnD fn).quantum })
    ∧ ∀ g, s.nextMember fn = some g → g ≠ fn → completes .quantumEnd s0 fun t =>
      tget t.switches f.first = some { outgoing := fn, incoming := g })
  ∧ ∀ (s0 : State) (k : Nat) (w : Switch), let s := s0.wsReadyAll
    s.switchReady = some (k, w) → tget s.fns w.incoming ≠ none →
    tget s.fns w.outgoing ≠ none → w.incoming ≠ w.outgoing →
    completes .incomingResident s0 fun t => (t.fnD w.incoming).resident = true
      ∧ (t.fnD w.incoming).left = (s.fnD w.incoming).quantum + 1 ∧ (t.fnD w.incoming).lastOut = some w.outgoing
      ∧ (t.fnD w.outgoing).resident = false ∧ tget t.switches k = none
      ∧ ∀ l x, tget t.launches l = some x → x.fn = w.incoming → x.gateOpen = false

end Sys2Proof

section

open Sys2Proof Sys2Proof.Machine

/-- R324 to R328, R355 to R373, R399, R400, R419, R426: walks, invalidations, page moves and time slices. The model's choices:
which requests fail and what a request's walk leaves behind (assumption log 41), which frames are freed (log 42), that a move
without room is put aside (log 43), when a slice changes hands (log 44), and whose signal a request names (log 60). -/
def Obligations.TRANSLATION_AND_TIER_EVENTS : Prop := walks ∧ invalidations ∧ pageMoves ∧ timeSlices

end

namespace Sys2Proof

open Machine

/-! ### Praline (R318 to R321, R375 to R394) -/

/-- R377 to R382, R392: a boundary ages the module by one tick and puts a written TARGETH in force; its first step accounts
every unit in service: BSU by VB and the temperature band, HSU and ESU by activity, a quarter of the bias stress to the
pool, and at REV and OFF the recovery of the band, within the pool. -/
def tickAccounting : Prop :=
  (∀ (s : State) (act : Activity) (metered : Table Nat), completes (.tickBoundary act metered) s fun t =>
    t.age = s.age + 1 ∧ t.targeth = s.targethNext.getD s.targeth ∧ t.targethNext = none)
  ∧ (∀ (s : State) (busy metered : Table Nat) (faults : List Nat) (u : Nat), u < 1372 →
    let w := if u ∈ faults then { s.wearD u with dying := true } else s.wearD u
    (s.tickAccount busy metered faults).wearD u
      = if 3 ≤ w.state then { w with band := bandOf w.temp, temp := 0 } else w.accrue (s.tickPoint u (tval 0 busy u)) (tval 0 busy u))
  ∧ ∀ (w : Wear) (busy : Nat), 0 < busy → busy ≤ 100 →
    let b := bandOf w.temp
    let quarter := (busy + 24) / 25
    let used (p : Point) (vb vh : Nat) : Prop :=
      w.accrue p busy = { w with
        bsu := w.bsu + vb * bandTB b, pool := w.pool + vb * bandTB b / 4, pticks := w.pticks + 1
        hsu := w.hsu + vh * quarter, esu := w.esu + quarter * bandTB b, band := b, temp := 0 }
    let rested (p : Point) (r : Nat) : Prop :=
      w.accrue p busy = { w with
        bsu := w.bsu - min r w.pool, pool := w.pool - min r w.pool, recov := w.recov + min r w.pool
        rticks := w.rticks + 1, band := b, temp := 0 }
    used (.op 0) 4 2 ∧ used (.op 1) 6 3 ∧ used (.op 2) 10 5 ∧ used .idle 3 0 ∧ rested .rev (bandRev b) ∧ rested .off (bandOff b)

/-- R383, R385, R387, R393: the cores whose 50 ticks in REV are over become active and no other record changes; a boost that
is over leaves its core at OP0; a core that is worn out begins to retire at step 4; and 100 ticks after a retirement began, the
groups left on the core are pre-empted. -/
def coreLife : Prop :=
  (∀ (s : State) (u : Nat), completes .restEnd s fun t =>
    ((s.wearD u).state ≠ 2 → t.wearD u = s.wearD u)
    ∧ ∀ c ∈ s.cores.map Prod.fst, (s.coreD c).unit = some u → (s.wearD u).state = 2 → (s.coreD c).restAt + 50 ≤ s.age →
      (t.wearD u).state = 0 ∧ (t.wearD u).drain = false)
  ∧ (∀ (s : State) (c : Nat), c ∈ s.cores.map Prod.fst → completes .boostEnd s fun t =>
    ((s.coreD c).boostDue = false → t.coreD c = s.coreD c)
    ∧ ((s.coreD c).boostDue = true →
      t.coreD c = { s.coreD c with point := 0, boostNext := 0, boostLeft := 0, boostCost := 0, boostDue := false }))
  ∧ (∀ (s : State) (c : Nat), c ∈ s.cores.map Prod.fst →
    (s.boostDecide.coreD c).boostDue = ((s.coreD c).boostDue || s.boostOver c))
  ∧ (∀ (s : State) (c u : Nat) (k : Core), (c, k) ∈ s.cores → k.unit = some u → (s.wearD u).state ≤ 2 → wornOut u (s.wearD u) = true →
    (s.retireDecide.coreD c).retiring = true)
  ∧ ∀ (s : State), (∀ g x, s.grp? g = some x → g ∈ (s.wgD x.wg).groups
      ∧ (s.ctxD (s.wgD x.wg).fn (s.wgD x.wg).ctx).pbudget = 0 ∧ ∀ h ∈ (s.wgD x.wg).groups, ∀ y, s.grp? h = some y → y.wg = x.wg) →
    ((∀ p ∈ s.cores, p.2.retiring = false ∨ s.age < p.2.drainedAt + 100) → exec .retirePreempt s = .next s)
    ∧ completes .retirePreempt s fun t => ∀ p ∈ s.cores, p.2.retiring = true → p.2.drainedAt + 100 ≤ s.age →
      ∀ g x, (g, x) ∈ s.groups → s.grp? g = some x → x.core = p.1 → x.phase = .resident → x.preempt = false →
        x.inPreempt = false → t.grp? g = some { x with preempt := true, budget := 0, budgetOn := false }

/-- R388 to R392: windows, checkpoints, samples, margins, predictions, and the registers of the host. -/
def records : Prop :=
  (∀ (s : State), (s.age % 100 ≠ 0 ∨ s.windowAge = s.age → exec .energyWindowStart s = .next s)
    ∧ ∀ fn f, s.age % 100 = 0 → s.windowAge ≠ s.age → tget s.fns fn = some f → completes .energyWindowStart s fun t =>
      tget t.fns fn = some { f with
        ewin := 0, reserved := 0, fresh := true, ebudget := f.ebudgetNext.getD f.ebudget, ebudgetNext := none })
  ∧ (∀ (s : State), s.ckptDue = false → exec .checkpoint s = .next s)
  ∧ (∀ (s : State), s.dev = .ready → s.ckptDue = true → completes .checkpoint s fun t => ∃ c, t.newest = some c
    ∧ c.seq = (s.newest.map Checkpoint.seq).getD 0 + 1 ∧ c.orderly = false ∧ c.age = s.age ∧ c.targeth = s.targeth
    ∧ c.wear = s.wear ∧ c.digest = c.sum ∧ ∀ k, s.newest = some k → t.ckptA = some k ∨ t.ckptB = some k)
  ∧ (∀ (s : State) (u : Nat) (x : Int), completes (.temperatureSample [(u, x)]) s fun t =>
    t.wearD u = { s.wearD u with temp := max (s.wearD u).temp x })
  ∧ (∀ (s : State) (u m : Nat),
    (20 ≤ m → completes (.marginMeasure [(u, m)]) s fun t => t.wearD u = { s.wearD u with margin := m, low := false })
    ∧ (8 ≤ m → m < 20 → (s.wearD u).low = false → busOf u = none → exec (.marginMeasure [(u, m)]) s
      = .next ((s.updWear u fun w => { w with margin := m, low := true }).event 5 0 0 0 (some (BitVec.ofNat 64 u))))
    ∧ (m < 8 → completes (.marginMeasure [(u, m)]) s fun t => (t.wearD u).dying = true))
  ∧ (∀ (s : State) (u : Nat), u < 1372 → completes .eolhPredict s fun t =>
    let w := s.wearD u
    let left : Int := ((lifeLimits u).1 : Int) - w.bsu
    (w.hist = [] → (t.wearD u).eolh = 0xFFFFFFFF)
    ∧ ∀ old, w.hist = [(old, w.hsu, w.esu)] → old < w.bsu → 0 ≤ (s.age / 3600000 : Nat) + left / ((w.bsu - old : Nat) : Int) →
      (s.age / 3600000 : Nat) + left / ((w.bsu - old : Nat) : Int) < 2 ^ 32 →
      ((t.wearD u).eolh : Int) = (s.age / 3600000 : Nat) + left / ((w.bsu - old : Nat) : Int))
  ∧ (∀ (s : State) (v : BitVec 32), completes (.targethWrite v) s fun t => t.targeth = s.targeth
    ∧ t.targethNext = if v = 0 then s.targethNext else some v.toNat)
  ∧ (∀ (s : State) (fn : Nat) (v : Word), ((fn = 0 ∨ 12 < fn) → exec (.ebudgetWrite fn v) s = .next s)
    ∧ (fn ≠ 0 → fn ≤ 12 → tget s.fns fn ≠ none → completes (.ebudgetWrite fn v) s fun t =>
      t.fnD fn = { s.fnD fn with ebudgetNext := some v.toNat } ∧ t.lifeWord (0x100 + 64 * (fn - 1)) = v.toNat))
  ∧ ∀ (s : State) (u : Nat), u < 1372 →
    let w := s.wearD u
    (List.range 5).map (fun i => s.barRead 0 (0x10000 + 64 * u + 8 * i)) = [w.bsu, w.hsu, w.esu, w.pool, w.recov]

/-- R318 to R321: a bus with a warning is repaired from a spare of its die, or drains; one that fails is repaired, or is
lost; a repair that is done retires the bus and puts its spare in service, and an empty draining bus is retired. -/
def buses : Prop :=
  ∀ (s : State) (die bus : Nat),
    let v := s.vbOf die bus
    (v ≠ .active → exec (.vbWarning die bus) s = .next s)
    ∧ (v = .active → (∀ b, s.spareBus die = some b → completes (.vbWarning die bus) s fun t =>
        t.vbOf die bus = .repair ∧ tget t.repairs (72 * die + bus) = some b)
      ∧ (s.spareBus die = none → completes (.vbWarning die bus) s fun t => t.vbOf die bus = .drain))
    ∧ (v ≠ .active → v ≠ .drain → exec (.vbFailure die bus) s = .next s)
    ∧ ((v = .active ∨ v = .drain) → (∀ b, s.spareBus die = some b → completes (.vbFailure die bus) s fun t =>
        t.vbOf die bus = .repair ∧ tget t.repairs (72 * die + bus) = some b)
      ∧ (s.spareBus die = none → completes (.vbFailure die bus) s fun t => t.vbOf die bus = .lost))
    ∧ (v = .repair → ∀ b, tget s.repairs (72 * die + bus) = some b → b ≠ bus → completes (.vbRepairDone die bus) s fun t =>
      t.vbOf die bus = .retired ∧ t.vbOf die b = .active)
    ∧ (v = .drain → (∀ o ∈ s.owner, s.onBus die bus o.1 = false) → completes (.vbDrainDone die bus) s fun t =>
      t.vbOf die bus = .retired)

end Sys2Proof

section

open Sys2Proof Sys2Proof.Machine

/-- R318 to R321, R375 to R394: ticks, rests, boosts, retirement, records and vertical buses. The model's choices: when a bus
drains and what a repair reserves (assumption log 45), that a boundary is one step (log 46), and when a worn or faulty core is
noted and retired (log 47). -/
def Obligations.PRALINE_EVENTS : Prop := tickAccounting ∧ coreLife ∧ records ∧ buses

end

namespace Sys2Proof

open Machine

/-! ### Management (R371, R400, R401, R411 to R425) -/

/-- R416: the head management request is taken, its effect happens, and its signal is decremented; one that no request may be
(REASON 1 of any request) changes nothing else, and its signal becomes −1. -/
def requestsTaken : Prop :=
  ∀ (s : State) (w : List Word), s.mgmtHead = some w → mBad w = true →
    ∀ e ∈ [(1, Instr.pcreate), (2, .presize), (3, .pdestroy), (4, .quota), (5, .bucket), (6, .wcreate), (7, .wdestroy),
      (8, .ccreate), (9, .cdestroy), (10, .qreset), (11, .creset), (12, .flr), (13, .bias), (14, .pbset), (15, .pdset)],
      (mOp w = e.1 → exec e.2 s
        = .next ((s.ringTake s.mgmt.toNat).ringSig (s.enqView (s.headElem s.mgmt.toNat)) (pw w 7).toNat (.neg 1)))
      ∧ (mOp w ≠ e.1 → e.1 ≠ 1 → exec e.2 s = .next s)

/-- The context whose signal the head management request names; none where the host put it there (R440). -/
def mgmtBy (s : State) : Option View := s.enqView (s.headElem s.mgmt.toNat)

/-- A step serves a management request: its effect, of which `P` holds, and then its signal goes down by 1 (R416). -/
def mgmtServes (s : State) (w : List Word) (i : Instr) (P : State → Prop) : Prop :=
  ∃ u, P u ∧ exec i s = .next (u.ringSig (mgmtBy s) (pw w 7).toNat .dec)

/-- R411, R416 to R418, R349, R424: PCREATE gives a function a free run of slices; PRESIZE grows it; PDESTROY takes it away; a
function that holds one, a run that is taken, and a world in the way give their REASON. QUOTA and BUCKET set what they
name; PDSET names the partition descriptor. -/
def partitionRequests : Prop :=
  ∀ (s : State) (w : List Word), s.mgmtHead = some w → mBad w = false →
    let s1 := s.ringTake s.mgmt.toNat
    let sig := (pw w 7).toNat
    let fn := mFn w
    let f := s.fnD fn
    let first := (pw w 1).toNat % 16
    let count := (pw w 1).toNat / 16 % 16
    let ts := (pw w 1).getLsbD 8
    let quantum := (pw w 2).toNat % 1024
    let fails (i : Instr) (r : Nat) : Prop := exec i s = .next (s1.ringSig (mgmtBy s) sig (.neg r))
    (mOp w = 1 →
      (f.count ≠ 0 → fails .pcreate 4)
      ∧ (f.count = 0 → s1.descOk (pw w 3) = true → (ts = true → 0 < quantum ∧ quantum ≤ 1000) →
        (legalRun first count = false → fails .pcreate 2)
        ∧ (legalRun first count = true → s.meets first count fn = [] → mgmtServes s w .pcreate fun t =>
          let g := t.fnD fn
          g.first = first ∧ g.count = count ∧ g.ts = ts ∧ g.quantum = (if ts then quantum else 0) ∧ g.resident = true
            ∧ g.pdesc = pw w 3 ∧ ∀ h, h ≠ fn → h ≠ 0 → (t.fnD h).first = (s.fnD h).first ∧ (t.fnD h).count = (s.fnD h).count)))
    ∧ (mOp w = 2 →
      (f.count = 0 → fails .presize 5)
      ∧ (f.count ≠ 0 → legalRun first count = false → fails .presize 2)
      ∧ (f.count ≠ 0 → legalRun first count = true → s1.sharers fn = [fn] → s1.coBlocks fn first count = false →
        s1.meets first count fn = [] → (∀ d ∈ f.slices, first ≤ d ∧ d < first + count) →
        mgmtServes s w .presize fun t => (t.fnD fn).first = first ∧ (t.fnD fn).count = count))
    ∧ (mOp w = 3 →
      (f.count = 0 → fails .pdestroy 5)
      ∧ (f.count ≠ 0 → s.holdsWorld fn = true → fails .pdestroy 4)
      ∧ (f.count ≠ 0 → s.holdsWorld fn = false → f.ts = false → mgmtServes s w .pdestroy fun t =>
        (t.fnD fn).count = 0 ∧ (t.fnD fn).pdesc = 0 ∧ (t.fnD fn).buckets = [] ∧ (t.fnD fn).resident = false))
    ∧ (mOp w = 4 →
      let others (g : Func → Nat) : Nat := ((s.fns.filter fun p => decide (p.1 ≠ fn)).map fun p => g p.2).sum
      let a := (pw w 1).toNat
      let b := (pw w 2).toNat
      let c := (pw w 3).toNat
      let excess : Prop := 64 < others Func.copyQ + a ∨ 33554432 < others Func.capQ + b ∨ 4096 < others Func.spillQ + c
      (f.count = 0 → fails .quota 5) ∧ (f.count ≠ 0 → a ≤ 64 → excess → fails .quota 3)
      ∧ (f.count ≠ 0 → a ≤ 64 → ¬ excess → mgmtServes s w .quota fun t => t.fnD fn = { f with copyQ := a, capQ := b, spillQ := c }))
    ∧ (mOp w = 5 → f.count ≠ 0 →
      let src := (pw w 1).toNat % 4
      let depth := (pw w 3).toNat % 2 ^ 32
      (src = 3 → fails .bucket 1)
      ∧ (src ≠ 3 → mgmtServes s w .bucket fun t =>
        tget (t.fnD fn).buckets (16 * src + (pw w 1).toNat / 16 % 16)
          = some { rate := (pw w 2).toNat % 2 ^ 32, depth := depth, level := depth }))
    ∧ (mOp w = 15 → f.count ≠ 0 →
      (f.pdesc ≠ 0 → fails .pdset 4)
      ∧ (f.pdesc = 0 → s1.descOk (pw w 3) = true → mgmtServes s w .pdset fun t =>
        (t.fnD fn).pdesc = pw w 3 ∧ (t.fnD fn).fdrop = 0 ∧ (t.fnD fn).edrop = 0))

/-- R395, R400, R403, R407, R414, R422: worlds, contexts, budgets of pre-emption, and the bias of frames, of which the module
has 44,564,480. -/
def worldRequests : Prop :=
  ∀ (s : State) (w : List Word), s.mgmtHead = some w → mBad w = false →
    let s1 := s.ringTake s.mgmt.toNat
    let sig := (pw w 7).toNat
    let fn := mFn w
    let n := mWorld w
    let key := ctxKey fn (mCtx w)
    let fails (i : Instr) (r : Nat) : Prop := exec i s = .next (s1.ringSig (mgmtBy s) sig (.neg r))
    (mOp w = 6 → (n = 0 → fails .wcreate 1) ∧ (n ≠ 0 → tget s.worlds n ≠ none → fails .wcreate 4)
      ∧ (n ≠ 0 → tget s.worlds n = none → mgmtServes s w .wcreate fun t =>
        tget t.worlds n = some { fn := fn, key := s.tick, meas := [] }))
    ∧ (mOp w = 7 → n ≠ 0 → (tget s.worlds n = none → fails .wdestroy 5)
      ∧ ∀ x, tget s.worlds n = some x → (x.fn ≠ fn → fails .wdestroy 5)
        ∧ (x.fn = fn → (∃ c ∈ s.ctxs, c.2.world = n) → fails .wdestroy 4)
        ∧ (x.fn = fn → (∀ c ∈ s.ctxs, c.2.world ≠ n) → mgmtServes s w .wdestroy fun t => tget t.worlds n = none
          ∧ (∀ f, t.ownerOf f = if s.ownerOf f = n then 255 else s.ownerOf f)
          ∧ ∀ l < 2 ^ 64, s.ownerOf (l / 65536) = n → t.rdByte l = 0))
    ∧ (mOp w = 8 → ∀ x, tget s.worlds n = some x → x.fn = fn →
      let d := s1.physWords (pw w 1).toNat 8
      let level := (pw d 6).toNat / 2 % 4
      (tget s.ctxs key ≠ none → fails .ccreate 4)
      ∧ (tget s.ctxs key = none → s1.descOk (pw w 1) = true → (level < 2 ∨ (level = 2 ∧ fn = 0 ∧ n = 0)) → (pw d 6).toNat < 8 →
        pw d 7 = 0 → (pw d 4).toNat < 2 ^ 48 → mgmtServes s w .ccreate fun t => ∃ c, tget t.ctxs key = some c ∧ c.world = n
          ∧ c.level = level ∧ c.root0 = pw d 0 ∧ c.root4 = pw d 1 ∧ c.wshdr = pw d 2 ∧ c.save = pw d 3
          ∧ c.savesz = (pw d 4).toNat ∧ c.spill = pw d 5 ∧ c.holdPerm = (pw d 6).getLsbD 0 ∧ c.pbudget = 20000
          ∧ c.checkMode = 0 ∧ c.ended = false))
    ∧ (mOp w = 14 → (tget s.ctxs key = none → fails .pbset 5)
      ∧ (tget s.ctxs key ≠ none → mgmtServes s w .pbset fun t =>
        t.ctxD fn (mCtx w) = { s.ctxD fn (mCtx w) with pbudget := (pw w 1).setWidth 32 }))
    ∧ (mOp w = 13 →
      let a := (pw w 1).toNat
      (a % 65536 ≠ 0 → fails .bias 1)
      ∧ (a % 65536 = 0 → (pw w 2).toNat ≤ 44564480 → mgmtServes s w .bias fun t => ∀ f, tval false t.bias f =
        if a / 65536 ≤ f ∧ f < a / 65536 + (pw w 2).toNat then (pw w 3).getLsbD 0 else tval false s.bias f))

/-- Nothing of a function is left (R420). -/
def functionGone (t : State) (fn : Nat) : Prop :=
  (∀ p ∈ t.wgs, p.2.fn ≠ fn) ∧ (∀ p ∈ t.launches, p.2.fn ≠ fn) ∧ (∀ p ∈ t.packets, p.2.fn ≠ fn) ∧ (∀ p ∈ t.ops, p.2.fn ≠ fn)
    ∧ (∀ p ∈ t.ctxs, p.1 / 256 ≠ fn) ∧ (∀ p ∈ t.worlds, p.2.fn ≠ fn) ∧ (∀ e ∈ t.tlb, e.fn ≠ fn)
    ∧ ∀ k ∈ (t.fnD fn).queues, k.2.en = false ∧ k.2.err = false

/-- The volatile state is as at reset; memory outside the module, the repairs of its buses and its spare cores are kept (R389,
R421, R423). -/
def poweredDown (s t : State) (dev : DevState) : Prop :=
  t.vbs = s.vbs ∧ t.repairs = s.repairs ∧ t.spareOf = s.spareOf ∧ t.wear = State.reset.wear ∧ t.dev = dev ∧ t.groups = [] ∧ t.wgs = [] ∧ t.worlds = [] ∧ t.fns = State.reset.fns ∧ t.ctxs = [] ∧ t.tlb = [] ∧ t.mgmt = 0 ∧ t.owner = []
    ∧ (∀ l < 2 ^ 64, t.rdByte l = 0) ∧ (∀ l, 2 ^ 64 ≤ l → l < 2 ^ 96 → t.rdByte l = s.rdByte l)

/-- R420, R421: QRESET disables its queue and cancels its work, CRESET cancels a context, CDESTROY removes it, once nothing of
theirs runs and their packets have their statuses; FLR leaves nothing of its function, and one by PCIe waits for a request of
the function that is under way; a rung that does not end gives way to the next, the last of which, like
DEVRST, is the device's. -/
def resetLadder : Prop :=
  (∀ (s : State) (w : List Word), s.mgmtHead = some w → mBad w = false →
    let s1 := s.ringTake s.mgmt.toNat
    let sig := (pw w 7).toNat
    let fn := mFn w
    let c := mCtx w
    let q := (pw w 1).toNat % 64
    let u := s1.ctxReset fn c
    let v := s1.queueReset fn q
    let from_ := tget s.enqBy (s.headElem s.mgmt.toNat)
    let signals (z : State) : State := z.ringSig (from_.map z.keyView) sig .dec
    (mOp w = 10 → v.rungs = [] →
      (v.pktBusy fn q = false → exec .qreset s = .next (signals ({ v with rungs := [] }.updQueue fn q fun x =>
        { x with err := false })))
      ∧ (v.pktBusy fn q = true → exec .qreset s = .next { v with
        rungs := [{ level := 0, fn := fn, ctx := (s1.queueD fn q).ctx, q := q, signal := pw w 7, from_ := from_ }] }))
    ∧ ((mOp w = 11 ∨ mOp w = 9) → tget s.ctxs (ctxKey fn c) = none →
      exec (if mOp w = 11 then .creset else .cdestroy) s = .next (s1.ringSig (mgmtBy s) sig (.neg 5)))
    ∧ (tget s.ctxs (ctxKey fn c) ≠ none → u.rungs = [] → u.ctxBusy fn c = false → u.ctxPackets fn c true = false →
      (mOp w = 11 → exec .creset s = .next (signals { u with rungs := [] }))
      ∧ (mOp w = 9 → ∃ z, exec .cdestroy s = .next (signals z) ∧ tget z.ctxs (ctxKey fn c) = none ∧ z.rungs = []
        ∧ ∀ e ∈ z.tlb, ¬ (e.fn = fn ∧ e.ctx = c)))
    ∧ (mOp w = 12 → mgmtServes s w .flr fun t => functionGone t fn))
  ∧ (∀ (s : State) (fn : Nat), (fn ≤ 12 → s.fnBusy fn = false → completes (.pcieFlr fn) s fun t => functionGone t fn)
    ∧ (fn ≤ 12 → s.fnBusy fn = true → exec (.pcieFlr fn) s = .next { s with inputs := .pcieFlr fn :: s.inputs })
    ∧ (12 < fn → exec (.pcieFlr fn) s = .next s))
  ∧ (∀ (s : State), (s.rungs = [] → exec .resetEscalation s = .next s)
    ∧ ∀ r rest, s.rungs = r :: rest →
      let s1 := { s with rungs := { r with level := r.level + 1 } :: rest }.event 12 r.fn r.ctx (s.ctxD r.fn r.ctx).world none
      (r.level = 0 → exec .resetEscalation s = .next ((s1.ctxReset r.fn r.ctx).rungStep))
      ∧ (r.level = 1 → exec .resetEscalation s = .next ((s1.engReset r.fn r.ctx).rungStep))
      ∧ (r.level = 2 → exec .resetEscalation s = .next ((s1.flr r.fn).rungStep))
      ∧ (3 ≤ r.level → completes .resetEscalation s fun t => poweredDown s1 t .boot))
  ∧ ∀ (s : State), completes .devrst s fun t => poweredDown s t .boot
    ∧ (s.dev ≠ .ready → t.ckptA = s.ckptA ∧ t.ckptB = s.ckptB)
    ∧ (s.dev = .ready → ∃ k, t.newest = some k ∧ k.orderly = true ∧ k.age = s.age
      ∧ k.seq = (s.newest.map Checkpoint.seq).getD 0 + 1 ∧ k.wear = s.wear)

/-- R401, R304, R316, R371: the host reads and writes frames of world 0 or OPEN, and is refused others; a back-invalidate takes
its line from the hub, and the host writes in its own memory; a die that is lost ends the contexts that touched it, and no link
outlives H (R432). -/
def hostPortAndLoss : Prop :=
  (∀ (s : State) (wr : Bool) (pa : Nat) (data : List Byte), data ≠ [] →
    let fs := rangeFrames pa data.length
    let lines := (List.range ((pa + data.length - 1) / 128 - pa / 128 + 1)).map (pa / 128 + ·)
    let mine (f : Nat) : Prop := (s.ownerOf f = 0 ∨ s.ownerOf f = 64) ∧ ¬ (wr = true ∧ s.markedX f = true)
    ((∃ f ∈ fs, ¬ mine f) → completes (.cxlMemAccess wr pa data) s fun t => t.hostRefused = true ∧ t.hostData = [])
    ∧ ((∀ f ∈ fs, mine f) → (∃ l ∈ lines, s.physErr (128 * l) ≠ none) → completes (.cxlMemAccess wr pa data) s fun t =>
        t.hostRefused = true ∧ t.hostData = [] ∧ t.mem = s.mem)
    ∧ ((∀ f ∈ fs, mine f) → (∀ l ∈ lines, s.physErr (128 * l) = none) → completes (.cxlMemAccess wr pa data) s fun t =>
        t.hostRefused = false ∧ (wr = true → t.mem = (s.wrBytes pa data).mem)
          ∧ (wr = false → t.hostData = s.rdBytes pa data.length ∧ t.mem = s.mem)))
  ∧ (∀ (s : State) (rc : HostRecall),
    let loc := if rc.host then hostLoc rc.pa else rc.pa
    completes (.backInvalidate rc) s fun t => (∀ l, l ∈ t.hostLines ↔ l ∈ s.hostLines ∧ l ≠ loc / 128)
      ∧ t.mem = if rc.host = true ∨ tval false s.bias (rc.pa / 65536) = true then
          (s.wrBytes loc (rc.data.take (128 - loc % 128))).mem else s.mem)
  ∧ ∀ (s : State) (die : Nat), ((die ∈ s.lostDies ∨ 17 ≤ die) → exec (.dieLoss die) s = .next s)
    ∧ (die ∉ s.lostDies → die < 17 → completes (.dieLoss die) s fun t => t.lostDies = die :: s.lostDies
      ∧ ∀ k c, tget s.ctxs k = some c → (c.tdmask.getLsbD die = true ∨ die = 12 ∨ die = 13) →
        ∃ c1, tget t.ctxs k = some c1 ∧ c1.ended = true)
    ∧ (12 ∉ s.lostDies → completes (.dieLoss 12) s fun t => t.peerOut = []
      ∧ ∀ i < 64, (t.linkD i).st = 3 ∧ (t.linkD i).unacked = [])

end Sys2Proof

section

open Sys2Proof Sys2Proof.Machine

/-- R371, R395 to R425: partitions, worlds, contexts, the reset ladder, the host port and the loss of a die. The model's
choices: what follows the loss of H or E0 (assumption log 50), the order of REASONs and what a new partition keeps (log 51), when
a rung ends (log 53), what power leaves (log 55), whose signal a request names (log 60), and the bytes that come with a
back-invalidate (log 80). -/
def Obligations.MANAGEMENT_EVENTS : Prop :=
  requestsTaken ∧ partitionRequests ∧ worldRequests ∧ resetLadder ∧ hostPortAndLoss

end

namespace Sys2Proof

open Machine

/-! ### Bring-up, power, attestation, registers (R329, R389, R406 to R410, R423) -/

/-- R413, R423, Table 23.2: each state of bring-up goes to the next, or to RECOVERY, or to FAILED with its FCODE; a recovery image
that verifies is written to the flash, from which the module boots; after zeroing, memory and owners are clear, world 0 exists,
and function 0 holds the whole module. -/
def bringUpSteps : Prop :=
  ∀ (s : State),
    (exec .powerGood s = .next (if s.dev = .reset then { s with dev := .boot } else s))
    ∧ (∀ ok a b, (s.dev ≠ .boot → exec (.bootComplete ok a b) s = .next s)
      ∧ (s.dev = .boot → s.flash = none → ok = false → exec (.bootComplete ok a b) s = .next { s with dev := .recovery })
      ∧ (s.dev = .boot → (ok = true ∨ s.flash ≠ none) → completes (.bootComplete ok a b) s fun t => t.dev = .calibrate
        ∧ t.fns = s.fns ∧ tget t.fw 1 = some (extend 0 b) ∧ (s.flash = none → tget t.fw 0 = some (extend 0 a))
        ∧ ∀ image, s.flash = some image → tget t.fw 0 = some (extend 0 (sha512 (imageBytes image)))))
    ∧ (∀ ok, exec (.recgo ok) s = .next (if s.dev ≠ .recovery then s
        else if ok then { s with dev := .boot, flash := some s.recimg } else { s with dev := .failed, fcode := 4 }))
    ∧ (∀ c : Calibration, (s.dev ≠ .calibrate → exec (.calibrateComplete c) s = .next s)
      ∧ (s.dev = .calibrate → c.ok = false →
        exec (.calibrateComplete c) s = .next { s with dev := .failed, fcode := 2 })
      ∧ (s.dev = .calibrate → c.ok = true → completes (.calibrateComplete c) s fun t => t.dev = .zeroing
        ∧ (∀ d ∈ c.lost, d ∈ t.lostDies) ∧ (c.retired = [] → t.lostDies = c.lost.eraseDups) ∧ t.selfid = 0 ∧ (∀ i, (t.linkD i).st = 0)
        ∧ (∀ k ∈ c.darkBanks, ∀ i < 16, (t.linkD (16 * (k / 4) + i)).avail.getLsbD (k % 4) = false)
        ∧ ∀ d b, c.retired = [(d, b)] → (s.spareBus d = none → t.vbOf d b = .retired
            ∧ (d < 12 → (∃ k < 64, s.busNow d 9 k = b) → d ∈ t.lostDies))
          ∧ ∀ e, s.spareBus d = some e → e ≠ b → t.vbOf d b = .retired ∧ t.vbOf d e = .active
            ∧ tget t.repairs (72 * d + b) = some e))
    ∧ ∀ ok, (s.dev ≠ .zeroing → exec (.zeroingComplete ok) s = .next s)
      ∧ (s.dev = .zeroing → ok = false → exec (.zeroingComplete ok) s = .next { s with dev := .failed, fcode := 3 })
      ∧ (s.dev = .zeroing → ok = true → tget s.fns 0 ≠ none → completes (.zeroingComplete ok) s fun t => t.dev = .ready
        ∧ t.owner = [] ∧ t.tlb = [] ∧ t.markX = [] ∧ t.markW = []
        ∧ (∃ x, tget t.worlds 0 = some x ∧ x.fn = 0 ∧ x.meas = [])
        ∧ (t.fnD 0).count = 12 ∧ (t.fnD 0).copyQ = 64 ∧ (t.fnD 0).capQ = 33554432 ∧ (t.fnD 0).spillQ = 4096
        ∧ (s.newest = none → t.age = s.age ∧ ∀ l < 2 ^ 64, t.rdByte l = 0)
        ∧ ∀ k, s.newest = some k → t.targeth = k.targeth ∧ t.age = (if k.orderly then k.age else k.age + 1000)
          ∧ (k.orderly = true → ∀ l < 2 ^ 64, t.rdByte l = 0))

/-- R389, R423: an orderly power-down ends with one more boundary and a checkpoint marked orderly; a loss of power keeps the
checkpoints; both leave the volatile state as at reset. -/
def powerSteps : Prop :=
  (∀ (s : State), completes .powerLoss s fun t => poweredDown s t .reset ∧ t.ckptA = s.ckptA ∧ t.ckptB = s.ckptB)
  ∧ ∀ (s : State) (busy metered : Table Nat), completes (.orderlyPowerDown busy metered) s fun t =>
    poweredDown (s.boundary busy metered []) t .reset
      ∧ (s.dev = .ready → ∃ k, t.newest = some k ∧ k.orderly = true ∧ k.age = (s.boundary busy metered []).age)

/-- R406, R408 to R410: GO of a world that exists, to an aligned buffer, takes the snapshot of 12,960 bytes, the last 512 of which
are the signature over the others; else STATUS says why not. The report goes to host memory with DONE and vector 3; writing DONE
clears it. -/
def attestationSteps : Prop :=
  ∀ (s : State),
    let a := s.att
    (a.busy = true → exec .attestationGo s = .next { s with att := { a with status := 3 } })
    ∧ (a.busy = false → tget s.worlds a.world = none → exec .attestationGo s = .next { s with att := { a with status := 1 } })
    ∧ (a.busy = false → tget s.worlds a.world ≠ none → a.buf.toNat % 4096 ≠ 0 →
      exec .attestationGo s = .next { s with att := { a with status := 2 } })
    ∧ (a.busy = false → tget s.worlds a.world ≠ none → a.buf.toNat % 4096 = 0 → completes .attestationGo s fun t =>
      t.att.busy = true ∧ t.att.status = 0 ∧ t.att.seq = a.seq + 1 ∧ t.att.report.length = 12960 ∧ t.mem = s.mem
      ∧ t.att.report = s.reportBody a.world (a.seq + 1) ++ signature (s.reportBody a.world (a.seq + 1)))
    ∧ (a.busy = false → exec .attestationDone s = .next s)
    ∧ (a.busy = true → tget s.fns 0 ≠ none → completes .attestationDone s fun t => t.att.busy = false ∧ t.att.done = true
      ∧ t.mem = (s.wrBytes (hostLoc a.buf.toNat) a.report).mem ∧ (t.fnD 0).msix.getLsbD 3 = true)
    ∧ exec .attestationDoneClear s = .next { s with att := { a with done := false } }

/-- R329, R408, R416, R423: writes of registers that store a field: MGMT while its ring is empty, the attestation block, the
recovery window, and a queue's RCBADDR and CTX while its EN is 0; a write of 0 to EN clears it. -/
def registerWrites : Prop :=
  ∀ (s : State) (v : Word),
    (s.mgmtEmpty = true → exec (.registerWrite 0 8 v) s = .next { s with mgmt := v })
    ∧ (s.mgmtEmpty = false → exec (.registerWrite 0 8 v) s = .next s)
    ∧ exec (.registerWrite 0 0x2000 v) s = .next { s with att := { s.att with world := v.toNat / 256 % 64 } }
    ∧ exec (.registerWrite 0 0x2048 v) s = .next { s with att := { s.att with buf := v } }
    ∧ (∀ i < 8, completes (.registerWrite 0 (0x2008 + 8 * i) v) s fun t => tval 0 t.att.nonce i = v
      ∧ ∀ j, j ≠ i → tval 0 t.att.nonce j = tval 0 s.att.nonce j)
    ∧ (∀ i < 0x10000, completes (.registerWrite 0 (0x80000 + 8 * i) v) s fun t => tval 0 t.recimg i = v)
    ∧ ∀ fn q, fn ≠ 0 → q < 64 → tget s.fns fn ≠ none →
      let k := s.queueD fn q
      (k.en = true → exec (.registerWrite fn (16 * q) v) s = .next (s.updQueue fn q id))
      ∧ (k.en = false → completes (.registerWrite fn (16 * q) v) s fun t => t.queueD fn q = { k with rcb := v })
      ∧ (v.getLsbD 0 = false → completes (.registerWrite fn (16 * q + 8) v) s fun t => t.queueD fn q
        = { k with en := false, ctx := if k.en then k.ctx else v.toNat / 256 % 256 })

end Sys2Proof

section

open Sys2Proof Sys2Proof.Machine

/-- R329, R389, R406 to R410, R423: bring-up, power, attestation and registers. The model's choices: the bytes that a digest
covers and what GO decides (assumption log 54), and what power leaves (log 55). -/
def Obligations.BRINGUP_POWER_AND_ATTESTATION : Prop := bringUpSteps ∧ powerSteps ∧ attestationSteps ∧ registerWrites

end

namespace Sys2Proof

open Machine

/-! ### The fabric (R427 to R435, R445) -/

/-- A step happens and then the held requests that may go are sent (R434); of the state before, `P` holds. -/
def thenSends (i : Instr) (s : State) (P : State → Prop) : Prop := ∃ u, P u ∧ exec i s = .next u.sendHeld

/-- R431 to R434, R445: SELFID and ROUTE; a link that trains comes up on the groups active at both ends; one that loses light
keeps what is left after its restripe, and with nothing left, or lost, is down for good. -/
def linkSteps : Prop :=
  ∀ (s : State),
    (∀ v, ((∃ i < 64, (s.linkD i).st = 2) → exec (.selfidWrite v) s = .next s)
      ∧ ((∀ i < 64, (s.linkD i).st ≠ 2) → completes (.selfidWrite v) s fun t => t.selfid = v
        ∧ ∀ i < 64, (t.linkD i).st = if (s.linkD i).st = 0 then 1 else (s.linkD i).st))
    ∧ (∀ p v, (p < 1024 → thenSends (.routeWrite p v) s fun t => tval 0 t.routes p = v
        ∧ ∀ q, q ≠ p → tval 0 t.routes q = tval 0 s.routes q) ∧ (1024 ≤ p → exec (.routeWrite p v) s = .next s))
    ∧ ∀ i, i < 64 →
      let l := s.linkD i
      (∀ far act, ((l.st ≠ 1 ∨ act &&& l.avail = 0) → exec (.linkTrained i far act) s = .next s)
        ∧ (l.st = 1 → act &&& l.avail ≠ 0 → thenSends (.linkTrained i far act) s fun t => t.linkD i
          = { st := 2, groups := act &&& l.avail, farid := far, restripes := l.restripes, avail := l.avail
              key := s.tick }))
      ∧ (∀ d, (l.st ≠ 2 → exec (.darkWavelengthDetect i d) s = .next s)
        ∧ (l.st = 2 → l.groups &&& ~~~((l.dark ||| d) &&& l.groups) ≠ 0 → completes (.darkWavelengthDetect i d) s fun t =>
          t.linkD i = { l with dark := (l.dark ||| d) &&& l.groups })
        ∧ (l.st = 2 → l.groups &&& ~~~((l.dark ||| d) &&& l.groups) = 0 → completes (.darkWavelengthDetect i d) s fun t =>
          (t.linkD i).st = 3))
      ∧ ((l.st ≠ 2 ∨ l.dark = 0) → exec (.restripeDone i) s = .next s)
      ∧ (l.st = 2 → l.dark ≠ 0 → completes (.restripeDone i) s fun t => (t.linkD i).st = 2
        ∧ (t.linkD i).groups = l.groups &&& ~~~l.dark ∧ (t.linkD i).dark = 0 ∧ (t.linkD i).restripes = l.restripes + 1
        ∧ (t.linkD i).unacked = l.unacked)
      ∧ (l.st = 3 → exec (.linkLost i) s = .next s)
      ∧ (l.st ≠ 3 → completes (.linkLost i) s fun t => (t.linkD i).st = 3 ∧ (t.linkD i).groups = 0
        ∧ (t.linkD i).unacked = [] ∧ (t.linkD i).toSend = [])

/-- R429, R430: every flit counts 16 beats. An up link takes the flit it expects, whose messages are performed next, and one it
has had, for the acknowledgment it carries, and acknowledges both, in an idle flit of its own; it answers any other with one
NAK; a NAK sends the flit it names and the later ones again. -/
def flitSteps : Prop :=
  ∀ (s : State) (i : Nat) (f : Flit),
    let l := s.linkD i
    let ahead := (f.seq - l.expect).toNat
    let good : Prop := f.verifies = true ∧ f.kind.toNat ≤ 3
    let left := l.unacked.filter fun u => decide (32768 ≤ (f.ack - u.seq).toNat)
    let own (kind : BitVec 8) (ack : BitVec 16) (p : List Byte) : Flit :=
      { seq := l.sendSeq, ack := ack, kind := kind, payload := p, verifies := true, iv := l.iv }
    let heard : Link := { l with heard := l.heard + 16 }
    (l.st ≠ 2 → exec (.flitReceive i f) s = .next s)
    ∧ (l.st = 2 → l.toSend = [] → left.length < 512 →
      (good → ahead = 0 → f.kind ≠ 2 → thenSends (.flitReceive i f) s fun t => (t.linkD i).expect = l.expect + 1
        ∧ (t.linkD i).nakSent = false ∧ (t.linkD i).heard = l.heard + 16
        ∧ (t.linkD i).unacked = left ++ (if f.kind = 0 then [] else [own 0 l.expect []])
        ∧ t.brought = s.brought ++ (s.msgEvents l.farid.toNat l.part (flitMsgs f)).2)
      ∧ (good → 32768 ≤ ahead → thenSends (.flitReceive i f) s fun t => (t.linkD i).expect = l.expect
        ∧ (t.linkD i).unacked = left ++ [own 0 (l.expect - 1) []] ∧ t.brought = s.brought)
      ∧ ((¬ good ∨ (0 < ahead ∧ ahead < 32768)) →
        (l.nakSent = true → exec (.flitReceive i f) s = .next (s.updLink i fun _ => heard))
        ∧ (l.nakSent = false → l.unacked.length < 512 → completes (.flitReceive i f) s fun t => t.linkD i
          = { heard with
              nakSent := true, sendSeq := l.sendSeq + 1, iv := l.iv + 1, beat := l.beat + 16
              unacked := l.unacked ++ [own 2 (l.expect - 1) (toBytes 2 l.expect.toNat)] })))
    ∧ ∀ q,
      let again := l.unacked.filter fun u => decide ((u.seq - q).toNat < 32768)
      let n := if l.nakSeq = q then l.replays + 1 else 1
      ((l.st ≠ 2 ∨ again = []) → exec (.nakReceive i q) s = .next s)
      ∧ (l.st = 2 → again ≠ [] → (l.restriped = true ∧ 16 ≤ n → completes (.nakReceive i q) s fun t => (t.linkD i).st = 3)
        ∧ (¬ (l.restriped = true ∧ 16 ≤ n) → completes (.nakReceive i q) s fun t =>
          t.linkD i = { l with replays := n, nakSeq := q, beat := l.beat + 16 * again.length }))

/-- R399, R435, R217, R305: a peer's request is performed once, under its world, which takes the frames that nobody owned: a read
answers the bytes, a write stores them, an atomic or an operation on a barrier object does both, and one on a ring happens where
both indices are those it names; one that reaches a frame of another world, or media that fail, is answered with an error
response. A contribution to a collective is answered. -/
def peerRequests : Prop :=
  ∀ (s : State) (r : PeerReq),
    let k := peerKey r.peer r.id
    let n := peerSize r
    let old := s.rdBytes r.pa n
    let frames := (s.peerSpans r).flatMap spanFrames
    let lines := (s.peerSpans r).flatMap spanLines
    let q := (s.takeOwners r.world false frames).1
    let held : Prop := ∀ f ∈ frames, s.ownerOf f = 255 ∨ s.ownerOf f = r.world ∨ s.ownerOf f = 64
    let whole : Prop := ∀ l ∈ lines, q.physErr (128 * l) = none
    let answers (t : State) (d : Option (List Byte)) : Prop :=
      (tget t.peerAns k).map PeerAns.data = some d ∧ (tget t.peerAns k).map PeerAns.peer = some r.peer ∧ k ∈ t.peerIn
    let ev : Instr := .peerRequestArrive r
    (k ∈ s.peerIn → exec ev s = .next s)
    ∧ (k ∉ s.peerIn → r.op = 5 → completes ev s fun t => answers t (some []))
    ∧ (k ∉ s.peerIn → r.op ≤ 4 → (¬ held ∨ ¬ whole) → completes ev s fun t => answers t none ∧ t.mem = s.mem)
    ∧ (k ∉ s.peerIn → r.op ≤ 4 → held → whole →
      (r.op = 0 → completes ev s fun t => answers t (some old) ∧ t.mem = s.mem)
      ∧ (r.op = 1 → completes ev s fun t => answers t (some []) ∧ t.mem = (s.wr r.pa n (ofBytes r.data)).mem)
      ∧ (r.op = 2 → completes ev s fun t => answers t (some old) ∧ t.mem = (s.wr r.pa n (peerAtomic r (ofBytes old))).mem)
      ∧ (r.op = 3 → completes ev s fun t => answers t (some old)
        ∧ t.mem = (s.wr r.pa 16 ((BarOp.ofReq r.sub r.data).new (BarObj.ofNat (ofBytes old))).toNat).mem)
      ∧ (r.op ≤ 3 → completes ev s fun t =>
        ∀ f ∈ frames, t.ownerOf f = (if s.ownerOf f = 255 then r.world else s.ownerOf f))
      ∧ (r.op = 4 →
        let place := ofBytes ((r.data.drop 8).take 8)
        let ring := s.rcb r.pa
        let head := toBytes 4 ring.pidx ++ toBytes 4 ring.cidx
        (r.data.take 8 ≠ head → completes ev s fun t => answers t (some head) ∧ t.mem = s.mem)
        ∧ (r.data.take 8 = head → r.sub = 0 → completes ev s fun t => answers t (some head)
          ∧ let ws := r.data.drop 16
            t.mem = ((s.wr place ws.length (ofBytes ws)).wr r.pa 4 ((ring.pidx + 1) % 2 ^ 32)).mem)
        ∧ (r.data.take 8 = head → r.sub ≠ 0 → completes ev s fun t =>
          answers t (some (head ++ s.rdBytes place (8 * ring.esize))) ∧ t.mem = (s.wr (r.pa + 8) 4 ((ring.cidx + 1) % 2 ^ 32)).mem)))

/-- R194, R305, R435: a response completes what waits for it: a step that asked and can still happen has its answer, a copy's word counts, a read's
value is there; an error response writes nothing and traps MEM_ERROR later. Held requests that may go are sent. -/
def peerResponses : Prop :=
  ∀ (s : State) (req : Nat) (data : Option (List Byte)),
    let ev : Instr := .peerResponseArrive req data
    (s.peerOut.find? (fun o => decide (o.id = req)) = none → exec ev s = .next s)
    ∧ ∀ o, s.peerOut.find? (fun o => decide (o.id = req)) = some o →
      let s1 : State := { s with peerOut := s.peerOut.filter fun p => decide (p.id ≠ o.id) }
      (o.asker ≠ .none → exec ev s = .next (if s1.alive o.asker then
          { s1 with got := s.got ++ [{ asker := o.asker, msg := o.msg, data := data }] } else s1 : State).sendHeld)
      ∧ (o.asker = .none → o.op ≠ 0 → o.msg.kind = 1 → data ≠ none → ∀ a, tget s.ops o.op = some a → a.isCopy = true →
        exec ev s = .next (s1.winFollow { s1 with ops := tput s.ops o.op { a with landed := a.landed + 8 } } a.wg).sendHeld)
      ∧ (o.asker = .none → o.op = 0 → o.grp ≠ 0 → o.pend ≠ 0 → (∀ p ∈ s.peerOut, p.id ≠ req → p.grp ≠ o.grp) →
        ∀ x p n, s.grp? o.grp = some x → x.snap = none →
        x.pend = [p] → p.id = o.pend → o.reg = some (.s n) → o.w = 64 → o.sgn = false → p.writes = [.scalar (.s n) 0] →
        ∃ u : State, exec ev s = .next u.sendHeld ∧ (∀ p ∈ u.peerOut, p.id ≠ req) ∧ ∃ y, u.grp? o.grp = some y
          ∧ (∀ d, data = some d → y.delayed = x.delayed
            ∧ y.pend = [{ p with ready := true, writes := [.scalar (.s n) (BitVec.ofNat 64 (ofBytes d))] }])
          ∧ (data = none → y.pend = [{ p with ready := true, writes := [] }]
            ∧ ∃ d, y.delayed = x.delayed ++ [d] ∧ d.cause = 12 ∧ d.addr = o.addr))

end Sys2Proof

section

open Sys2Proof Sys2Proof.Machine

/-- R399, R427 to R435, R445: links, flits and the requests of peers. The model's choices: when an acknowledgment goes out in an
idle flit and how replays are counted (assumption log 48), the layout of a message and how a contribution names its collective
(log 49), and the operations that a request asks (log 76). -/
def Obligations.FABRIC_EVENTS : Prop := linkSteps ∧ flitSteps ∧ peerRequests ∧ peerResponses

/-! ### Encoding and the step (R6, R76, R95, Tables 3.1 and 3.6) -/

/-- R76, Table 3.1, Table 3.6: every well-formed instruction is 16 bytes that decode to it, and every 16 bytes are the
encoding of what they decode to: no bit is dropped. -/
def Obligations.DECODE_AND_ENCODE_AGREE : Prop :=
  (∀ i : Instr, WellFormed i = true → ∃ bs, encode i = some bs ∧ bs.length = 16 ∧ decode bs = .ok i)
  ∧ ∀ w : BitVec 128, ∃ bs, encode (decodeSlot (unpack w).1 (unpack w).2) = some bs ∧ bs.length = 16
    ∧ BitVec.ofNat 128 (ofBytes bs) = w

/-- The spec's own encoded examples: VADD.i16, SADD.i32.sat, VADD.n8.sat, FCVT.tf8, SUSP, ATOM.add.n32, MMAS.tf8, BOOST and
ENQ, with every field of each. -/
def Obligations.WRITTEN_WORDS_DECODE : Prop :=
  decodeTableWord 128 0x01800000000007300000014030102040
    = some (.vadd { ty := 2, d := 4, a := 3, b := 5, sg := 3, stall := 3 })
  ∧ decodeTableWord 128 0x00FFFFFFFD80177000009D2198684020
    = some (.sadd { ty := 4, d := 0x21A, a := 0x219, b := 0x274, md := 1, imm := 0xFFFFFFFB, stall := 1 })
  ∧ decodeTableWord 128 0x018000006400127000009D40A0281040
    = some (.vadd { ty := 1, d := 0xA, a := 0xA, b := 0x275, lg := 2, md := 1, imm := 0xC8, stall := 3 })
  ∧ decodeTableWord 128 0x00000000000017700000000030208D86
    = some (.fcvt { sub := 0xD, ty := 8, d := 8, a := 3, md := 1 })
  ∧ decodeTableWord 128 0x100000000000017000000122486400A1
    = some (.susp { d := 0x219, a := 0x224, b := 4, lg := 1, tset := 1 })
  ∧ decodeTableWord 128 0x2000000008033770000001C0201850B8
    = some (.atom { ty := 5, d := 6, a := 2, b := 7, md := 3, scp := 3, imm := 0x10, tset := 2 })
  ∧ decodeTableWord 128 0x0000000001800770027086E1A00080E1
    = some (.mmas { ty := 8, a := 0x21A, b := 0x21B, c := 0x270, imm := 3 })
  ∧ decodeTableWord 128 0x100000000100077000008767487000F7
    = some (.boost { d := 0x21C, a := 0x274, b := 0x21D, imm := 2, tset := 1 })
  ∧ decodeTableWord 128 0x600000000400077000008E22EA0800C6
    = some (.enq { d := 0x282, a := 0x22E, b := 0x238, imm := 8, tset := 2, twait := 1 })

/-- R41, R76, R305: the turn of a group that may issue, with no request of its slot out and no late trap or pre-emption in its
way, runs the instruction that the 16 bytes at its slot decode to, on the state after the fetch; where those are the encoding of
a well-formed instruction, that one. Where the slot has to wait, a cycle passes: its requests to peers are sent and it stands
there, or it waits for a page that moves, or it is interlocked. The order of turns is the model's (assumption log 1). -/
def Obligations.STEP_RUNS_THE_DECODED_INSTRUCTION : Prop :=
  ∀ (s u : State) (g : Nat) (r : List Turn) (x : Group) (w : BitVec 128),
    s.settle.turns = .grp g :: r → s.settle.grp? g = some x → x.mayIssue = true →
    let s0 := { s.settle with turns := r }.unblocked g
    let me := s0.slotAsker g
    (x.delayed = [] ∧ x.due = false ∨ s0.midway me = true) →
    s0.isAsking me = false → { s0 with asker := me, wants := [] }.nextSlot g = (u, .ok w) →
    let runs (i : Instr) : Prop :=
      match exec i { u.noteIssue g with cur := g } with
      | .next t =>
        let z := if s0.crosses t me then s0.passTurn g else if t.wants = [] then t.asked me else (s0.awaiting t).passTurn g
        step s = .next (s0.restClocks (if (z.grpD g).blocked then s0.passTurn g else z) x.core)
      | o => step s = o
    runs (decodeSlot (unpack w).1 (unpack w).2)
    ∧ ∀ i bs, WellFormed i = true → encode i = some bs → w = BitVec.ofNat 128 (ofBytes bs) → runs i

/-! ### Whole-machine invariants -/

/-- Every step, and every instruction, keeps memory in its canonical form: locations rising, no listed byte that an
unlisted one reads as (the model's form; assumption log 3). -/
def Obligations.EVERY_STEP_KEEPS_MEMORY_CANONICAL : Prop :=
  (∀ s t : State, MemOk s → step s = .next t → MemOk t)
  ∧ ∀ (i : Instr) (s t : State), MemOk s → exec i s = .next t → MemOk t

/-- R413, R423, Table 23.2, R392: after reset the module is in RESET, with no group, no world, COUNT 12 for function 0 and no
other partition, and TARGETH 61,362. That AGE is 0 is the model's choice (assumption log 2), as is that memory, with no listed
byte, reads 0 (log 3); memory has its canonical form. -/
def Obligations.RESET_STATE : Prop :=
  State.reset.dev = .reset ∧ State.reset.groups = [] ∧ State.reset.worlds = []
    ∧ (∀ fn, (State.reset.fnD fn).count = if fn = 0 then 12 else 0)
    ∧ State.reset.targeth = 61362 ∧ State.reset.age = 0 ∧ State.reset.fcode = 0 ∧ State.reset.mgmt = 0
    ∧ (∀ l, State.reset.rdByte l = 0) ∧ MemOk State.reset ∧ Sys2Proof.core.reset = State.reset

end
end

