-- ==== Sys2Proof/Laws/Bits.lean ====
section
/-! SUPPORT. What the bit-field operations do, in terms of bit vectors: sub-elements of a lane, packing,
signed readings, wrapping, saturation, and the lanes of a vector value. -/

namespace Sys2Proof.Machine

/-! ### Fields and packing -/

theorem sub_eq_elem (w k : Nat) (v : Word) : sub w k v = (elem w k v).toNat := by
  simp [sub, elem, BitVec.extractLsb'_toNat, Nat.shiftRight_eq_div_pow]

theorem packN_lt (w : Nat) (f : Nat → Nat) (n k : Nat) : packN w f n k < 2 ^ (w * n) := by
  induction n generalizing k with
  | zero => simp [packN]
  | succ n ih =>
    have h1 : f k % 2 ^ w < 2 ^ w := Nat.mod_lt _ (by positivity)
    have h2 := ih (k + 1)
    simp only [packN]
    calc f k % 2 ^ w + 2 ^ w * packN w f n (k + 1)
        < 2 ^ w + 2 ^ w * packN w f n (k + 1) := by omega
      _ = 2 ^ w * (packN w f n (k + 1) + 1) := by ring
      _ ≤ 2 ^ w * 2 ^ (w * n) := Nat.mul_le_mul_left _ h2
      _ = 2 ^ (w * (n + 1)) := by rw [← pow_add]; ring_nf

theorem packN_field (w : Nat) (f : Nat → Nat) (n k j : Nat) (h : j < n) :
    packN w f n k / 2 ^ (w * j) % 2 ^ w = f (k + j) % 2 ^ w := by
  induction n generalizing k j with
  | zero => omega
  | succ n ih =>
    have h1 : f k % 2 ^ w < 2 ^ w := Nat.mod_lt _ (by positivity)
    cases j with
    | zero => simp [packN]
    | succ j =>
      have e : w * (j + 1) = w + w * j := by ring
      rw [packN, e, pow_add, ← Nat.div_div_eq_div_mul, Nat.add_mul_div_left _ _ (by positivity),
        Nat.div_eq_of_lt h1, Nat.zero_add, ih (k + 1) j (by omega)]
      congr 2; omega

/-- Sub-element `k` of a packed lane value. -/
theorem elem_ofSubs (w : Nat) (f : Nat → Nat) (k : Nat) (h : k < 64 / w) :
    elem w k (ofSubs w f) = BitVec.ofNat w (f k) := by
  have hw : w * (k + 1) ≤ 64 := by
    calc w * (k + 1) ≤ w * (64 / w) := Nat.mul_le_mul_left _ h
      _ ≤ 64 := Nat.mul_div_le 64 w
  apply BitVec.eq_of_toNat_eq
  have hlt : packN w f (64 / w) 0 < 2 ^ 64 :=
    lt_of_lt_of_le (packN_lt w f _ 0) (Nat.pow_le_pow_right (by norm_num) (Nat.mul_div_le 64 w))
  simp only [elem, ofSubs, BitVec.extractLsb'_toNat, BitVec.toNat_ofNat, Nat.shiftRight_eq_div_pow,
    Nat.mod_eq_of_lt hlt]
  rw [packN_field w f (64 / w) 0 k h]; simp

theorem lane_vecOf (f : Nat → Word) (L : Nat) (h : L < 32) : lane (vecOf f) L = f L := by
  simp [lane, vecOf, Vector.getD, h]

/-! ### Signed readings, wrapping and saturation -/

theorem signed_toNat {w : Nat} (b : BitVec w) : signed w b.toNat = b.toInt := by
  rcases w with _ | w
  · simp [signed, BitVec.eq_nil b]
  · have e : 2 * 2 ^ w = 2 ^ (w + 1) := by ring
    simp only [signed, BitVec.toInt_eq_toNat_cond, Nat.add_sub_cancel]
    by_cases h : b.toNat < 2 ^ w
    · rw [if_pos h, if_pos (by omega)]
    · rw [if_neg h, if_neg (by omega)]; push_cast; rfl

theorem rd_toNat {w : Nat} (sgn : Bool) (b : BitVec w) :
    rd w sgn b.toNat = if sgn then b.toInt else (b.toNat : Int) := by
  cases sgn <;> simp [rd, signed_toNat]

theorem ofNat_wrap (w : Nat) (v : Int) : BitVec.ofNat w (wrap w v) = BitVec.ofInt w v := by
  apply BitVec.eq_of_toNat_eq
  simp only [BitVec.toNat_ofNat, BitVec.toNat_ofInt, wrap]
  have h0 : 0 ≤ v % (2 : Int) ^ w := Int.emod_nonneg _ (by positivity)
  have h1 : v % (2 : Int) ^ w < 2 ^ w := Int.emod_lt_of_pos _ (by positivity)
  have e : ((2 ^ w : Nat) : Int) = (2 : Int) ^ w := by push_cast; rfl
  rw [Nat.mod_eq_of_lt (by zify; rw [Int.toNat_of_nonneg h0]; exact h1)]
  simp [e]

theorem wrap_lt (w : Nat) (v : Int) : wrap w v < 2 ^ w := by
  have h0 : 0 ≤ v % (2 : Int) ^ w := Int.emod_nonneg _ (by positivity)
  have h1 : v % (2 : Int) ^ w < 2 ^ w := Int.emod_lt_of_pos _ (by positivity)
  zify; simp only [wrap]; rw [Int.toNat_of_nonneg h0]; exact h1

theorem wrap_eq_toNat (w : Nat) (v : Int) : wrap w v = (BitVec.ofInt w v).toNat := by
  rw [← ofNat_wrap, BitVec.toNat_ofNat, Nat.mod_eq_of_lt (wrap_lt w v)]

theorem wrap_natCast (w n : Nat) (h : n < 2 ^ w) : wrap w (n : Int) = n := by
  rw [wrap_eq_toNat, BitVec.ofInt_natCast, BitVec.toNat_ofNat, Nat.mod_eq_of_lt h]

theorem clampI_eq (w : Nat) (sgn : Bool) (v : Int) :
    clampI w sgn v =
      if sgn then max (-2 ^ (w - 1)) (min v (2 ^ (w - 1) - 1)) else max 0 (min v (2 ^ w - 1)) := by
  have p1 : (0 : Int) < 2 ^ (w - 1) := by positivity
  have p2 : (0 : Int) < 2 ^ w := by positivity
  cases sgn <;> simp only [clampI, tyMin, tyMax, if_true, if_false, Bool.false_eq_true] <;>
    split_ifs <;> omega

/-- An exact result, wrapped or saturated, is the pattern that `fitted` names. -/
theorem ofNat_wrapOrSat (sl : Slot) (w : Nat) (v : Int) :
    BitVec.ofNat w (wrapOrSat (sl.md.getLsbD 0) w (tyS sl) v) = fitted sl w v := by
  unfold wrapOrSat fitted
  cases hm : sl.md.getLsbD 0
  · simp [ofNat_wrap]
  · simp only [if_true, sat, ofNat_wrap, clampI_eq w _ v]

theorem wrapOrSat_lt (s : Bool) (w : Nat) (sgn : Bool) (v : Int) : wrapOrSat s w sgn v < 2 ^ w := by
  unfold wrapOrSat sat; split <;> exact wrap_lt _ _

/-- A pattern extended to 64 bits, as a bit vector operation. -/
theorem ext64_eq_widen (sl : Slot) {w : Nat} (b : BitVec w) (h : w ≤ 64) :
    ext64 w (tyS sl) b.toNat = widen sl b := by
  unfold ext64 widen
  rw [rd_toNat]
  cases tyS sl
  · simp only [if_false, Bool.false_eq_true]
    apply BitVec.eq_of_toNat_eq; simp [BitVec.toNat_setWidth]
  · simp only [if_true]
    apply BitVec.eq_of_toInt_eq
    rw [BitVec.toInt_signExtend_of_le h, BitVec.toInt_ofInt]
    rw [Int.bmod_eq_of_le] 
    · have := @BitVec.le_toInt w b
      have : (2 : Int) ^ (w - 1) ≤ 2 ^ 63 := by
        apply pow_le_pow_right₀ (by norm_num); omega
      norm_num; omega
    · have := @BitVec.toInt_lt w b
      have : (2 : Int) ^ (w - 1) ≤ 2 ^ 63 := by
        apply pow_le_pow_right₀ (by norm_num); omega
      norm_num; omega

end Sys2Proof.Machine
end

