-- ==== Sys2Proof/Laws/Table.lean ====
section
/-! SUPPORT. What reading a table gives after a write, a removal, a map or a filter, and that writes and removals keep the
canonical form. -/

namespace Sys2Proof.Machine

variable {α β : Type}

/-! ### Reading -/

theorem tget_tput (t : Table α) (k j : Nat) (v : α) : tget (tput t k v) j = if j = k then some v else tget t j := by
  induction t with
  | nil => grind [tput, tget]
  | cons p t ih => grind [tput, tget]

@[simp] theorem tget_tput_self (t : Table α) (k : Nat) (v : α) : tget (tput t k v) k = some v := by simp [tget_tput]

theorem tget_tput_ne (t : Table α) {k j : Nat} (v : α) (h : j ≠ k) : tget (tput t k v) j = tget t j := by
  simp [tget_tput, h]

@[simp] theorem tput_tput (t : Table α) (k : Nat) (v w : α) : tput (tput t k v) k w = tput t k w := by
  induction t with
  | nil => simp [tput]
  | cons p t ih => grind [tput]

theorem tget_tdel (t : Table α) (k j : Nat) : tget (tdel t k) j = if j = k then none else tget t j := by
  induction t with
  | nil => simp [tdel, tget]
  | cons p t ih => grind [tdel, tget]

@[simp] theorem tget_tdel_self (t : Table α) (k : Nat) : tget (tdel t k) k = none := by simp [tget_tdel]

theorem tval_tset [DecidableEq α] (d : α) (t : Table α) (k j : Nat) (v : α) :
    tval d (tset d t k v) j = if j = k then v else tval d t j := by
  unfold tset tval
  split <;> rename_i h <;> simp only [tget_tput, tget_tdel] <;> split <;> simp_all

@[simp] theorem tval_tset_self [DecidableEq α] (d : α) (t : Table α) (k : Nat) (v : α) : tval d (tset d t k v) k = v := by
  simp [tval_tset]

theorem tval_tput (d : α) (t : Table α) (k j : Nat) (v : α) : tval d (tput t k v) j = if j = k then v else tval d t j := by
  simp only [tval, tget_tput]; split <;> rfl

theorem tget_map (t : Table α) (f : Nat → α → β) (k : Nat) :
    tget (t.map fun p => (p.1, f p.1 p.2)) k = (tget t k).map (f k) := by
  induction t with
  | nil => rfl
  | cons p t ih => simp only [List.map, tget]; split <;> simp_all

/-- A filter by key. -/
theorem tget_filter (t : Table α) (q : Nat → Bool) (k : Nat) :
    tget (t.filter fun p => q p.1) k = if q k then tget t k else none := by
  induction t with
  | nil => simp [tget]
  | cons p t ih => grind [tget]

/-- What a key reads is listed. -/
theorem mem_of_tget {t : Table α} {k : Nat} {v : α} (h : tget t k = some v) : (k, v) ∈ t := by
  induction t with
  | nil => simp [tget] at h
  | cons p t ih => grind [tget]

/-! ### The canonical form -/

theorem tabove_mono {b c : Nat} {t : Table α} (h : tabove (some b) t = true) (hc : c ≤ b) : tabove (some c) t = true := by
  cases t with
  | nil => rfl
  | cons p t => grind [tabove]

theorem tabove_none {b : Nat} {t : Table α} (h : tabove (some b) t = true) : tabove none t = true := by
  cases t with
  | nil => rfl
  | cons p t => grind [tabove]

theorem tabove_tput (t : Table α) (b : Option Nat) (k : Nat) (v : α) (h : tabove b t = true) (hk : ∀ j ∈ b, j < k) :
    tabove b (tput t k v) = true := by
  induction t generalizing b with
  | nil => cases b <;> simp_all [tput, tabove]
  | cons p t ih =>
    obtain ⟨j, w⟩ := p
    have h' : tabove (some j) t = true := by simp only [tabove, Bool.and_eq_true] at h; exact h.2
    simp only [tput]
    split
    · cases b <;> simp_all [tabove]
    · split
      · cases b <;> simp_all [tabove]
      · have := ih (some j) h' (by intro i hi; simp at hi; omega)
        simp only [tabove, Bool.and_eq_true] at h ⊢
        exact ⟨h.1, this⟩

theorem tabove_filter (t : Table α) (b : Option Nat) (q : Nat × α → Bool) (h : tabove b t = true) :
    tabove b (t.filter q) = true := by
  induction t generalizing b with
  | nil => exact h
  | cons p t ih =>
    obtain ⟨j, w⟩ := p
    have h' : tabove (some j) t = true := by simp only [tabove, Bool.and_eq_true] at h; exact h.2
    simp only [List.filter]
    split
    · simp only [tabove, Bool.and_eq_true] at h ⊢; exact ⟨h.1, ih _ h'⟩
    · apply ih
      cases b with
      | none => exact tabove_none h'
      | some i =>
        simp only [tabove, Bool.and_eq_true, decide_eq_true_eq] at h
        exact tabove_mono h' (Nat.le_of_lt h.1)

theorem tdel_eq_filter (t : Table α) (k : Nat) : tdel t k = t.filter fun p => !decide (p.1 = k) := by
  induction t with
  | nil => rfl
  | cons p t ih => grind [tdel]

theorem mem_tput {t : Table α} {k : Nat} {v : α} {p : Nat × α} (h : p ∈ tput t k v) : p = (k, v) ∨ p ∈ t := by
  induction t with
  | nil => simp_all [tput]
  | cons q t ih => grind [tput]

variable [DecidableEq α] {d : α}

theorem twf_filter {t : Table α} (q : Nat × α → Bool) (h : twf d t = true) : twf d (t.filter q) = true := by
  simp only [twf, Bool.and_eq_true] at h ⊢
  exact ⟨tabove_filter _ _ _ h.1, List.all_eq_true.2 fun p hp => List.all_eq_true.1 h.2 p (List.mem_of_mem_filter hp)⟩

theorem twf_tdel {t : Table α} (k : Nat) (h : twf d t = true) : twf d (tdel t k) = true := by
  rw [tdel_eq_filter]; exact twf_filter _ h

theorem twf_tclear {t : Table α} (lo n : Nat) (h : twf d t = true) : twf d (tclear t lo n) = true := twf_filter _ h

theorem twf_tput {t : Table α} (k : Nat) {v : α} (hv : v ≠ d) (h : twf d t = true) : twf d (tput t k v) = true := by
  simp only [twf, Bool.and_eq_true, List.all_eq_true] at h ⊢
  refine ⟨tabove_tput _ _ _ _ h.1 (by simp), fun p hp => ?_⟩
  rcases mem_tput hp with rfl | hp
  · simpa using hv
  · exact h.2 p hp

/-- Setting a key keeps the canonical form. -/
theorem twf_tset {t : Table α} (k : Nat) (v : α) (h : twf d t = true) : twf d (tset d t k v) = true := by
  unfold tset
  split
  · exact twf_tdel k h
  · exact twf_tput k ‹_› h

end Sys2Proof.Machine
end

