-- ==== Sys2Proof/Laws/Issue.lean ====
section
/-! SUPPORT. What issuing a slot comes to: a slot that passes checks 1 to 6 runs its own effect on the state at
issue, which reads as the state before; the other ways a slot goes. -/

namespace Sys2Proof.Machine

variable {s : State} {f : Form} {sl : Slot} {x : Group}

theorem updGrp_of (g : Nat) (h : s.grp? g = some x) (u : Group → Group) : s.updGrp g u = s.setGrp g (u x) := by
  simp [State.updGrp, h]

theorem grp?_setGrp (g h : Nat) (y : Group) : (s.setGrp g y).grp? h = if h = g then some y else s.grp? h :=
  tget_tput ..

theorem grpD_of (g : Nat) (h : s.grp? g = some x) : s.grpD g = x := by simp [State.grpD, h]

/-! ### The state at issue -/

theorem grp?_atIssue (h : s.grp? s.cur = some x) : (s.atIssue sl).grp? s.cur = some (x.cover sl) := by
  simp [State.atIssue, updGrp_of _ h, grp?_setGrp]

theorem grpD_atIssue (h : s.grp? s.cur = some x) : (s.atIssue sl).grpD s.cur = x.cover sl :=
  grpD_of _ (grp?_atIssue h)

/-- At issue, everything but the groups is as before. -/
theorem atIssue_eq (h : s.grp? s.cur = some x) :
    s.atIssue sl = { s with groups := tput s.groups s.cur (x.cover sl) } := by
  simp [State.atIssue, updGrp_of _ h, State.setGrp]

theorem cur_atIssue (h : s.grp? s.cur = some x) : (s.atIssue sl).cur = s.cur := by rw [atIssue_eq h]

theorem bankD_atIssue (h : s.grp? s.cur = some x) (k : Nat) : (s.atIssue sl).bankD k = s.bankD k := by
  rw [atIssue_eq h]; rfl

theorem readS_atIssue (h : s.grp? s.cur = some x) (r : RegRef) :
    (s.atIssue sl).readS (x.cover sl) r = s.readS x r := by
  rw [atIssue_eq h]; cases r <;> rfl

theorem readV_atIssue (h : s.grp? s.cur = some x) (r : RegRef) :
    (s.atIssue sl).readV (x.cover sl) r = s.readV x r := by
  rw [atIssue_eq h]; cases r <;> rfl

theorem ssrc_atIssue (h : s.grp? s.cur = some x) (c : BitVec 10) :
    (s.atIssue sl).ssrc (x.cover sl) sl c = s.ssrc x sl c := by
  simp only [State.ssrc, readS_atIssue h]; rfl

theorem vsrc_atIssue (h : s.grp? s.cur = some x) (w : Nat) (c : BitVec 10) :
    (s.atIssue sl).vsrc (x.cover sl) sl w c = s.vsrc x sl w c := by
  simp only [State.vsrc, readS_atIssue h, readV_atIssue h]; rfl

theorem sreg_atIssue (h : s.grp? s.cur = some x) (c : BitVec 10) (i : Nat) :
    (s.atIssue sl).sreg (x.cover sl) c i = s.sreg x c i := by
  simp only [State.sreg, readS_atIssue h]; rfl

theorem vreg_atIssue (h : s.grp? s.cur = some x) (c : BitVec 10) (i : Nat) :
    (s.atIssue sl).vreg (x.cover sl) c i = s.vreg x c i := by
  simp only [State.vreg, readV_atIssue h]; rfl

/-! ### The course of a slot -/

/-- A slot that passes checks 1 to 6 runs its own effect. -/
theorem runSlot_of (h : Issues s f sl x) (lat : Machine.Lat) (body : State → Group → Effect) :
    runSlot f lat sl body s =
      .next ((s.atIssue sl).apply s.cur sl lat (body (s.atIssue sl) (x.cover sl))) := by
  simp only [runSlot, h.group, State.issue, grpD_of _ h.group, h.ready, h.decodes, h.clean, h.guard]
  simp [State.atIssue]
  rw [grpD_of]; exact grp?_atIssue h.group

/-- A slot whose effect is done with results `ws` completes with them. -/
theorem runSlot_done (h : Issues s f sl x) {lat : Machine.Lat} {body : State → Group → Effect} {t : State}
    {ws : List RegWrite} (hb : body (s.atIssue sl) (x.cover sl) = .done t ws) :
    runSlot f lat sl body s = retired s t sl lat ws := by
  rw [runSlot_of h, hb]; rfl

/-- A slot whose effect only gives results writes them. -/
theorem runSlot_writes (h : Issues s f sl x) {lat : Machine.Lat} {body : State → Group → Effect}
    {ws : List RegWrite} (hb : body (s.atIssue sl) (x.cover sl) = .done (s.atIssue sl) ws) :
    runSlot f lat sl body s = writes s sl lat ws := runSlot_done h hb

/-! ### Everything a slot can do -/

/-- A slot is run for a group that exists, and always answers a next state then. -/
theorem runSlot_next (h : s.grp? s.cur = some x) (lat : Machine.Lat) (body : State → Group → Effect) :
    runSlot f lat sl body s = .next (s.issue s.cur f lat sl body) := by simp [runSlot, h]

/-- A slot without its group stops. -/
theorem runSlot_noGroup (h : s.grp? s.cur = none) (lat : Machine.Lat) (body : State → Group → Effect) :
    runSlot f lat sl body s = .fault .noGroup := by simp [runSlot, h]

/-- The five courses of a slot: it waits, traps at decode, traps in check mode, is withheld by its guard, or runs its
own effect. -/
theorem runSlot_cases {lat : Machine.Lat} {body : State → Group → Effect} {t : State} (h : runSlot f lat sl body s = .next t) :
    ∃ x, s.grp? s.cur = some x ∧
      ((x.ready f sl = false ∧ t = (s.updGrp s.cur fun y => { y with yielded := true, blocked := true }).passCycles x.core 1)
      ∨ (x.ready f sl = true ∧ ∃ c i, decodeTrap f x.gran x.scount x.trapMode sl = some (c, i)
          ∧ t = s.raise s.cur { cause := BitVec.ofNat 8 c, info := i } x.pc)
      ∨ (x.ready f sl = true ∧ decodeTrap f x.gran x.scount x.trapMode sl = none
          ∧ ∃ i, checkMode x (s.ctxD (s.wgD x.wg).fn (s.wgD x.wg).ctx).checkMode f sl = some i
          ∧ t = s.raise s.cur { cause := 5, info := i } x.pc)
      ∨ (x.ready f sl = true ∧ decodeTrap f x.gran x.scount x.trapMode sl = none
          ∧ checkMode x (s.ctxD (s.wgD x.wg).fn (s.wgD x.wg).ctx).checkMode f sl = none ∧ x.guard sl = false
          ∧ t = (s.atIssue sl).retire s.cur sl)
      ∨ (Issues s f sl x ∧ t = (s.atIssue sl).apply s.cur sl lat (body (s.atIssue sl) (x.cover sl)))) := by
  match hg : s.grp? s.cur with
  | none => rw [runSlot_noGroup hg] at h; cases h
  | some x =>
    rw [runSlot_next hg] at h
    cases h
    refine ⟨x, rfl, ?_⟩
    unfold State.issue
    rw [grpD_of _ hg]
    dsimp only
    by_cases hr : x.ready f sl = true
    · rw [if_neg (by simp [hr])]
      match hd : decodeTrap f x.gran x.scount x.trapMode sl with
      | some (c, i) => exact .inr (.inl ⟨hr, c, i, rfl, rfl⟩)
      | none =>
        match hc : checkMode x (s.ctxD (s.wgD x.wg).fn (s.wgD x.wg).ctx).checkMode f sl with
        | some i => exact .inr (.inr (.inl ⟨hr, rfl, i, rfl, rfl⟩))
        | none =>
          by_cases hgd : x.guard sl = true
          · refine .inr (.inr (.inr (.inr ⟨⟨hg, hr, hd, hc, hgd⟩, ?_⟩)))
            dsimp only
            rw [if_neg (by simp [hgd])]
            have e : (s.updGrp s.cur fun y => y.cover sl) = s.atIssue sl := rfl
            rw [e, grpD_atIssue hg]
          · refine .inr (.inr (.inr (.inl ⟨hr, rfl, rfl, by simpa using hgd, ?_⟩)))
            dsimp only
            rw [if_pos hgd]
            rfl
    · exact .inl ⟨by simpa using hr, by rw [if_pos hr]⟩

/-! ### Everything that raising a trap can do (R252 to R255, R366) -/

/-- A raised trap is held, ends the workgroup, waits for the bank, or enters the group's handler. -/
theorem raise_cases (g : Nat) (r : Raise) (pc : Word) :
    let x := s.grpD g
    let t : Trap := { cause := r.cause, pc := pc, addr := r.addr, info := r.info }
    let held := heldCause (s.ctxD (s.wgD x.wg).fn (s.wgD x.wg).ctx) r
    (held = true ∧ s.raise g r pc = s.holdGroup g t)
      ∨ (held = false ∧ (x.trapMode = true ∨ x.trapVec = 0) ∧ s.raise g r pc = s.kill g t x.trapMode)
      ∨ (held = false ∧ x.trapMode = false ∧ x.trapVec ≠ 0 ∧ (∃ o, (s.bankD x.bankKey).owner = some o ∧ o ≠ g)
        ∧ s.raise g r pc = s.updGrp g fun x => { x with wait := .bank t })
      ∨ (held = false ∧ x.trapMode = false ∧ x.trapVec ≠ 0 ∧ (∀ o, (s.bankD x.bankKey).owner = some o → o = g)
        ∧ s.raise g r pc = s.enterTrap g t x.trapVec) := by
  intro x t held
  unfold State.raise
  dsimp only
  by_cases hh : held = true
  · exact .inl ⟨hh, if_pos hh⟩
  · have hf : held = false := by simpa using hh
    rw [if_neg hh]
    unfold State.deliverTrap
    dsimp only
    by_cases hm : x.trapMode = true
    · exact .inr (.inl ⟨hf, .inl hm, by rw [if_pos hm, show x.trapMode = true from hm]⟩)
    · have hm' : x.trapMode = false := by simpa using hm
      rw [if_neg hm]
      by_cases hv : x.trapVec = 0
      · exact .inr (.inl ⟨hf, .inr hv, by rw [if_pos hv, hm']⟩)
      · rw [if_neg hv]
        unfold State.deliver
        match ho : (s.bankD x.bankKey).owner with
        | none => exact .inr (.inr (.inr ⟨hf, hm', hv, by simp, rfl⟩))
        | some o =>
          by_cases hog : o = g
          · exact .inr (.inr (.inr ⟨hf, hm', hv, by simp [hog], if_pos hog⟩))
          · exact .inr (.inr (.inl ⟨hf, hm', hv, ⟨o, rfl, hog⟩, if_neg hog⟩))

end Sys2Proof.Machine
end

