-- ==== Sys2Proof/Laws/State.lean ====
section
/-! SUPPORT. Each update of the state changes its own field: one lemma a field, so that no proof unfolds a record
update. -/

namespace Sys2Proof.Machine

/-! ### `setGrp` changes `groups` -/

theorem setGrp_frame (s : State) (g : Nat) (x : Group) : { s.setGrp g x with groups := s.groups } = s := rfl
@[simp] theorem setGrp_inputs (s : State) (g : Nat) (x : Group) : (s.setGrp g x).inputs = s.inputs := rfl
@[simp] theorem setGrp_brought (s : State) (g : Nat) (x : Group) : (s.setGrp g x).brought = s.brought := rfl
@[simp] theorem setGrp_turns (s : State) (g : Nat) (x : Group) : (s.setGrp g x).turns = s.turns := rfl
@[simp] theorem setGrp_draw (s : State) (g : Nat) (x : Group) : (s.setGrp g x).draw = s.draw := rfl
@[simp] theorem setGrp_tick (s : State) (g : Nat) (x : Group) : (s.setGrp g x).tick = s.tick := rfl
@[simp] theorem setGrp_cur (s : State) (g : Nat) (x : Group) : (s.setGrp g x).cur = s.cur := rfl
@[simp] theorem setGrp_nextSub (s : State) (g : Nat) (x : Group) : (s.setGrp g x).nextSub = s.nextSub := rfl
@[simp] theorem setGrp_issued (s : State) (g : Nat) (x : Group) : (s.setGrp g x).issued = s.issued := rfl
@[simp] theorem setGrp_mem (s : State) (g : Nat) (x : Group) : (s.setGrp g x).mem = s.mem := rfl
@[simp] theorem setGrp_wgs (s : State) (g : Nat) (x : Group) : (s.setGrp g x).wgs = s.wgs := rfl
@[simp] theorem setGrp_cores (s : State) (g : Nat) (x : Group) : (s.setGrp g x).cores = s.cores := rfl
@[simp] theorem setGrp_banks (s : State) (g : Nat) (x : Group) : (s.setGrp g x).banks = s.banks := rfl
@[simp] theorem setGrp_engines (s : State) (g : Nat) (x : Group) : (s.setGrp g x).engines = s.engines := rfl
@[simp] theorem setGrp_ops (s : State) (g : Nat) (x : Group) : (s.setGrp g x).ops = s.ops := rfl
@[simp] theorem setGrp_holds (s : State) (g : Nat) (x : Group) : (s.setGrp g x).holds = s.holds := rfl
@[simp] theorem setGrp_ctxs (s : State) (g : Nat) (x : Group) : (s.setGrp g x).ctxs = s.ctxs := rfl
@[simp] theorem setGrp_fns (s : State) (g : Nat) (x : Group) : (s.setGrp g x).fns = s.fns := rfl
@[simp] theorem setGrp_packets (s : State) (g : Nat) (x : Group) : (s.setGrp g x).packets = s.packets := rfl
@[simp] theorem setGrp_launches (s : State) (g : Nat) (x : Group) : (s.setGrp g x).launches = s.launches := rfl
@[simp] theorem setGrp_graphs (s : State) (g : Nat) (x : Group) : (s.setGrp g x).graphs = s.graphs := rfl
@[simp] theorem setGrp_phases (s : State) (g : Nat) (x : Group) : (s.setGrp g x).phases = s.phases := rfl
@[simp] theorem setGrp_jobs (s : State) (g : Nat) (x : Group) : (s.setGrp g x).jobs = s.jobs := rfl
@[simp] theorem setGrp_tlb (s : State) (g : Nat) (x : Group) : (s.setGrp g x).tlb = s.tlb := rfl
@[simp] theorem setGrp_owner (s : State) (g : Nat) (x : Group) : (s.setGrp g x).owner = s.owner := rfl
@[simp] theorem setGrp_markX (s : State) (g : Nat) (x : Group) : (s.setGrp g x).markX = s.markX := rfl
@[simp] theorem setGrp_markW (s : State) (g : Nat) (x : Group) : (s.setGrp g x).markW = s.markW := rfl
@[simp] theorem setGrp_bias (s : State) (g : Nat) (x : Group) : (s.setGrp g x).bias = s.bias := rfl
@[simp] theorem setGrp_homes (s : State) (g : Nat) (x : Group) : (s.setGrp g x).homes = s.homes := rfl
@[simp] theorem setGrp_badMac (s : State) (g : Nat) (x : Group) : (s.setGrp g x).badMac = s.badMac := rfl
@[simp] theorem setGrp_badNode (s : State) (g : Nat) (x : Group) : (s.setGrp g x).badNode = s.badNode := rfl
@[simp] theorem setGrp_worlds (s : State) (g : Nat) (x : Group) : (s.setGrp g x).worlds = s.worlds := rfl
@[simp] theorem setGrp_fw (s : State) (g : Nat) (x : Group) : (s.setGrp g x).fw = s.fw := rfl
@[simp] theorem setGrp_moves (s : State) (g : Nat) (x : Group) : (s.setGrp g x).moves = s.moves := rfl
@[simp] theorem setGrp_switches (s : State) (g : Nat) (x : Group) : (s.setGrp g x).switches = s.switches := rfl
@[simp] theorem setGrp_rungs (s : State) (g : Nat) (x : Group) : (s.setGrp g x).rungs = s.rungs := rfl
@[simp] theorem setGrp_dev (s : State) (g : Nat) (x : Group) : (s.setGrp g x).dev = s.dev := rfl
@[simp] theorem setGrp_fcode (s : State) (g : Nat) (x : Group) : (s.setGrp g x).fcode = s.fcode := rfl
@[simp] theorem setGrp_mgmt (s : State) (g : Nat) (x : Group) : (s.setGrp g x).mgmt = s.mgmt := rfl
@[simp] theorem setGrp_att (s : State) (g : Nat) (x : Group) : (s.setGrp g x).att = s.att := rfl
@[simp] theorem setGrp_recimg (s : State) (g : Nat) (x : Group) : (s.setGrp g x).recimg = s.recimg := rfl
@[simp] theorem setGrp_flash (s : State) (g : Nat) (x : Group) : (s.setGrp g x).flash = s.flash := rfl
@[simp] theorem setGrp_age (s : State) (g : Nat) (x : Group) : (s.setGrp g x).age = s.age := rfl
@[simp] theorem setGrp_targeth (s : State) (g : Nat) (x : Group) : (s.setGrp g x).targeth = s.targeth := rfl
@[simp] theorem setGrp_targethNext (s : State) (g : Nat) (x : Group) : (s.setGrp g x).targethNext = s.targethNext := rfl
@[simp] theorem setGrp_wear (s : State) (g : Nat) (x : Group) : (s.setGrp g x).wear = s.wear := rfl
@[simp] theorem setGrp_wearAt (s : State) (g : Nat) (x : Group) : (s.setGrp g x).wearAt = s.wearAt := rfl
@[simp] theorem setGrp_windowAge (s : State) (g : Nat) (x : Group) : (s.setGrp g x).windowAge = s.windowAge := rfl
@[simp] theorem setGrp_spareOf (s : State) (g : Nat) (x : Group) : (s.setGrp g x).spareOf = s.spareOf := rfl
@[simp] theorem setGrp_ckptA (s : State) (g : Nat) (x : Group) : (s.setGrp g x).ckptA = s.ckptA := rfl
@[simp] theorem setGrp_ckptB (s : State) (g : Nat) (x : Group) : (s.setGrp g x).ckptB = s.ckptB := rfl
@[simp] theorem setGrp_vbs (s : State) (g : Nat) (x : Group) : (s.setGrp g x).vbs = s.vbs := rfl
@[simp] theorem setGrp_lostDies (s : State) (g : Nat) (x : Group) : (s.setGrp g x).lostDies = s.lostDies := rfl
@[simp] theorem setGrp_repairs (s : State) (g : Nat) (x : Group) : (s.setGrp g x).repairs = s.repairs := rfl
@[simp] theorem setGrp_selfid (s : State) (g : Nat) (x : Group) : (s.setGrp g x).selfid = s.selfid := rfl
@[simp] theorem setGrp_routes (s : State) (g : Nat) (x : Group) : (s.setGrp g x).routes = s.routes := rfl
@[simp] theorem setGrp_links (s : State) (g : Nat) (x : Group) : (s.setGrp g x).links = s.links := rfl
@[simp] theorem setGrp_peerOut (s : State) (g : Nat) (x : Group) : (s.setGrp g x).peerOut = s.peerOut := rfl
@[simp] theorem setGrp_peerIn (s : State) (g : Nat) (x : Group) : (s.setGrp g x).peerIn = s.peerIn := rfl
@[simp] theorem setGrp_hostData (s : State) (g : Nat) (x : Group) : (s.setGrp g x).hostData = s.hostData := rfl
@[simp] theorem setGrp_hostRefused (s : State) (g : Nat) (x : Group) : (s.setGrp g x).hostRefused = s.hostRefused := rfl
@[simp] theorem setGrp_peerAns (s : State) (g : Nat) (x : Group) : (s.setGrp g x).peerAns = s.peerAns := rfl
@[simp] theorem setGrp_got (s : State) (g : Nat) (x : Group) : (s.setGrp g x).got = s.got := rfl
@[simp] theorem setGrp_asker (s : State) (g : Nat) (x : Group) : (s.setGrp g x).asker = s.asker := rfl
@[simp] theorem setGrp_wants (s : State) (g : Nat) (x : Group) : (s.setGrp g x).wants = s.wants := rfl
@[simp] theorem setGrp_toPeers (s : State) (g : Nat) (x : Group) : (s.setGrp g x).toPeers = s.toPeers := rfl
@[simp] theorem setGrp_locks (s : State) (g : Nat) (x : Group) : (s.setGrp g x).locks = s.locks := rfl
@[simp] theorem setGrp_moving (s : State) (g : Nat) (x : Group) : (s.setGrp g x).moving = s.moving := rfl
@[simp] theorem setGrp_heldBack (s : State) (g : Nat) (x : Group) : (s.setGrp g x).heldBack = s.heldBack := rfl
@[simp] theorem setGrp_hostLines (s : State) (g : Nat) (x : Group) : (s.setGrp g x).hostLines = s.hostLines := rfl
@[simp] theorem setGrp_l2 (s : State) (g : Nat) (x : Group) : (s.setGrp g x).l2 = s.l2 := rfl
@[simp] theorem setGrp_hubc (s : State) (g : Nat) (x : Group) : (s.setGrp g x).hubc = s.hubc := rfl
@[simp] theorem setGrp_dieAcq (s : State) (g : Nat) (x : Group) : (s.setGrp g x).dieAcq = s.dieAcq := rfl
@[simp] theorem setGrp_fmtPend (s : State) (g : Nat) (x : Group) : (s.setGrp g x).fmtPend = s.fmtPend := rfl
@[simp] theorem setGrp_ctrs (s : State) (g : Nat) (x : Group) : (s.setGrp g x).ctrs = s.ctrs := rfl
@[simp] theorem setGrp_frameCtrs (s : State) (g : Nat) (x : Group) : (s.setGrp g x).frameCtrs = s.frameCtrs := rfl
@[simp] theorem setGrp_mdc (s : State) (g : Nat) (x : Group) : (s.setGrp g x).mdc = s.mdc := rfl
@[simp] theorem setGrp_enqBy (s : State) (g : Nat) (x : Group) : (s.setGrp g x).enqBy = s.enqBy := rfl
@[simp] theorem setGrp_failed (s : State) (g : Nat) (x : Group) : (s.setGrp g x).failed = s.failed := rfl
@[simp] theorem setGrp_nodeMet (s : State) (g : Nat) (x : Group) : (s.setGrp g x).nodeMet = s.nodeMet := rfl

/-! ### `updGrp` changes `groups` -/

theorem updGrp_frame (s : State) (g : Nat) (f : Group → Group) : { s.updGrp g f with groups := s.groups } = s := by unfold State.updGrp; split <;> rfl
@[simp] theorem updGrp_inputs (s : State) (g : Nat) (f : Group → Group) : (s.updGrp g f).inputs = s.inputs := (congrArg State.inputs (updGrp_frame s g f) :)
@[simp] theorem updGrp_brought (s : State) (g : Nat) (f : Group → Group) : (s.updGrp g f).brought = s.brought := (congrArg State.brought (updGrp_frame s g f) :)
@[simp] theorem updGrp_turns (s : State) (g : Nat) (f : Group → Group) : (s.updGrp g f).turns = s.turns := (congrArg State.turns (updGrp_frame s g f) :)
@[simp] theorem updGrp_draw (s : State) (g : Nat) (f : Group → Group) : (s.updGrp g f).draw = s.draw := (congrArg State.draw (updGrp_frame s g f) :)
@[simp] theorem updGrp_tick (s : State) (g : Nat) (f : Group → Group) : (s.updGrp g f).tick = s.tick := (congrArg State.tick (updGrp_frame s g f) :)
@[simp] theorem updGrp_cur (s : State) (g : Nat) (f : Group → Group) : (s.updGrp g f).cur = s.cur := (congrArg State.cur (updGrp_frame s g f) :)
@[simp] theorem updGrp_nextSub (s : State) (g : Nat) (f : Group → Group) : (s.updGrp g f).nextSub = s.nextSub := (congrArg State.nextSub (updGrp_frame s g f) :)
@[simp] theorem updGrp_issued (s : State) (g : Nat) (f : Group → Group) : (s.updGrp g f).issued = s.issued := (congrArg State.issued (updGrp_frame s g f) :)
@[simp] theorem updGrp_mem (s : State) (g : Nat) (f : Group → Group) : (s.updGrp g f).mem = s.mem := (congrArg State.mem (updGrp_frame s g f) :)
@[simp] theorem updGrp_wgs (s : State) (g : Nat) (f : Group → Group) : (s.updGrp g f).wgs = s.wgs := (congrArg State.wgs (updGrp_frame s g f) :)
@[simp] theorem updGrp_cores (s : State) (g : Nat) (f : Group → Group) : (s.updGrp g f).cores = s.cores := (congrArg State.cores (updGrp_frame s g f) :)
@[simp] theorem updGrp_banks (s : State) (g : Nat) (f : Group → Group) : (s.updGrp g f).banks = s.banks := (congrArg State.banks (updGrp_frame s g f) :)
@[simp] theorem updGrp_engines (s : State) (g : Nat) (f : Group → Group) : (s.updGrp g f).engines = s.engines := (congrArg State.engines (updGrp_frame s g f) :)
@[simp] theorem updGrp_ops (s : State) (g : Nat) (f : Group → Group) : (s.updGrp g f).ops = s.ops := (congrArg State.ops (updGrp_frame s g f) :)
@[simp] theorem updGrp_holds (s : State) (g : Nat) (f : Group → Group) : (s.updGrp g f).holds = s.holds := (congrArg State.holds (updGrp_frame s g f) :)
@[simp] theorem updGrp_ctxs (s : State) (g : Nat) (f : Group → Group) : (s.updGrp g f).ctxs = s.ctxs := (congrArg State.ctxs (updGrp_frame s g f) :)
@[simp] theorem updGrp_fns (s : State) (g : Nat) (f : Group → Group) : (s.updGrp g f).fns = s.fns := (congrArg State.fns (updGrp_frame s g f) :)
@[simp] theorem updGrp_packets (s : State) (g : Nat) (f : Group → Group) : (s.updGrp g f).packets = s.packets := (congrArg State.packets (updGrp_frame s g f) :)
@[simp] theorem updGrp_launches (s : State) (g : Nat) (f : Group → Group) : (s.updGrp g f).launches = s.launches := (congrArg State.launches (updGrp_frame s g f) :)
@[simp] theorem updGrp_graphs (s : State) (g : Nat) (f : Group → Group) : (s.updGrp g f).graphs = s.graphs := (congrArg State.graphs (updGrp_frame s g f) :)
@[simp] theorem updGrp_phases (s : State) (g : Nat) (f : Group → Group) : (s.updGrp g f).phases = s.phases := (congrArg State.phases (updGrp_frame s g f) :)
@[simp] theorem updGrp_jobs (s : State) (g : Nat) (f : Group → Group) : (s.updGrp g f).jobs = s.jobs := (congrArg State.jobs (updGrp_frame s g f) :)
@[simp] theorem updGrp_tlb (s : State) (g : Nat) (f : Group → Group) : (s.updGrp g f).tlb = s.tlb := (congrArg State.tlb (updGrp_frame s g f) :)
@[simp] theorem updGrp_owner (s : State) (g : Nat) (f : Group → Group) : (s.updGrp g f).owner = s.owner := (congrArg State.owner (updGrp_frame s g f) :)
@[simp] theorem updGrp_markX (s : State) (g : Nat) (f : Group → Group) : (s.updGrp g f).markX = s.markX := (congrArg State.markX (updGrp_frame s g f) :)
@[simp] theorem updGrp_markW (s : State) (g : Nat) (f : Group → Group) : (s.updGrp g f).markW = s.markW := (congrArg State.markW (updGrp_frame s g f) :)
@[simp] theorem updGrp_bias (s : State) (g : Nat) (f : Group → Group) : (s.updGrp g f).bias = s.bias := (congrArg State.bias (updGrp_frame s g f) :)
@[simp] theorem updGrp_homes (s : State) (g : Nat) (f : Group → Group) : (s.updGrp g f).homes = s.homes := (congrArg State.homes (updGrp_frame s g f) :)
@[simp] theorem updGrp_badMac (s : State) (g : Nat) (f : Group → Group) : (s.updGrp g f).badMac = s.badMac := (congrArg State.badMac (updGrp_frame s g f) :)
@[simp] theorem updGrp_badNode (s : State) (g : Nat) (f : Group → Group) : (s.updGrp g f).badNode = s.badNode := (congrArg State.badNode (updGrp_frame s g f) :)
@[simp] theorem updGrp_worlds (s : State) (g : Nat) (f : Group → Group) : (s.updGrp g f).worlds = s.worlds := (congrArg State.worlds (updGrp_frame s g f) :)
@[simp] theorem updGrp_fw (s : State) (g : Nat) (f : Group → Group) : (s.updGrp g f).fw = s.fw := (congrArg State.fw (updGrp_frame s g f) :)
@[simp] theorem updGrp_moves (s : State) (g : Nat) (f : Group → Group) : (s.updGrp g f).moves = s.moves := (congrArg State.moves (updGrp_frame s g f) :)
@[simp] theorem updGrp_switches (s : State) (g : Nat) (f : Group → Group) : (s.updGrp g f).switches = s.switches := (congrArg State.switches (updGrp_frame s g f) :)
@[simp] theorem updGrp_rungs (s : State) (g : Nat) (f : Group → Group) : (s.updGrp g f).rungs = s.rungs := (congrArg State.rungs (updGrp_frame s g f) :)
@[simp] theorem updGrp_dev (s : State) (g : Nat) (f : Group → Group) : (s.updGrp g f).dev = s.dev := (congrArg State.dev (updGrp_frame s g f) :)
@[simp] theorem updGrp_fcode (s : State) (g : Nat) (f : Group → Group) : (s.updGrp g f).fcode = s.fcode := (congrArg State.fcode (updGrp_frame s g f) :)
@[simp] theorem updGrp_mgmt (s : State) (g : Nat) (f : Group → Group) : (s.updGrp g f).mgmt = s.mgmt := (congrArg State.mgmt (updGrp_frame s g f) :)
@[simp] theorem updGrp_att (s : State) (g : Nat) (f : Group → Group) : (s.updGrp g f).att = s.att := (congrArg State.att (updGrp_frame s g f) :)
@[simp] theorem updGrp_recimg (s : State) (g : Nat) (f : Group → Group) : (s.updGrp g f).recimg = s.recimg := (congrArg State.recimg (updGrp_frame s g f) :)
@[simp] theorem updGrp_flash (s : State) (g : Nat) (f : Group → Group) : (s.updGrp g f).flash = s.flash := (congrArg State.flash (updGrp_frame s g f) :)
@[simp] theorem updGrp_age (s : State) (g : Nat) (f : Group → Group) : (s.updGrp g f).age = s.age := (congrArg State.age (updGrp_frame s g f) :)
@[simp] theorem updGrp_targeth (s : State) (g : Nat) (f : Group → Group) : (s.updGrp g f).targeth = s.targeth := (congrArg State.targeth (updGrp_frame s g f) :)
@[simp] theorem updGrp_targethNext (s : State) (g : Nat) (f : Group → Group) : (s.updGrp g f).targethNext = s.targethNext := (congrArg State.targethNext (updGrp_frame s g f) :)
@[simp] theorem updGrp_wear (s : State) (g : Nat) (f : Group → Group) : (s.updGrp g f).wear = s.wear := (congrArg State.wear (updGrp_frame s g f) :)
@[simp] theorem updGrp_wearAt (s : State) (g : Nat) (f : Group → Group) : (s.updGrp g f).wearAt = s.wearAt := (congrArg State.wearAt (updGrp_frame s g f) :)
@[simp] theorem updGrp_windowAge (s : State) (g : Nat) (f : Group → Group) : (s.updGrp g f).windowAge = s.windowAge := (congrArg State.windowAge (updGrp_frame s g f) :)
@[simp] theorem updGrp_spareOf (s : State) (g : Nat) (f : Group → Group) : (s.updGrp g f).spareOf = s.spareOf := (congrArg State.spareOf (updGrp_frame s g f) :)
@[simp] theorem updGrp_ckptA (s : State) (g : Nat) (f : Group → Group) : (s.updGrp g f).ckptA = s.ckptA := (congrArg State.ckptA (updGrp_frame s g f) :)
@[simp] theorem updGrp_ckptB (s : State) (g : Nat) (f : Group → Group) : (s.updGrp g f).ckptB = s.ckptB := (congrArg State.ckptB (updGrp_frame s g f) :)
@[simp] theorem updGrp_vbs (s : State) (g : Nat) (f : Group → Group) : (s.updGrp g f).vbs = s.vbs := (congrArg State.vbs (updGrp_frame s g f) :)
@[simp] theorem updGrp_lostDies (s : State) (g : Nat) (f : Group → Group) : (s.updGrp g f).lostDies = s.lostDies := (congrArg State.lostDies (updGrp_frame s g f) :)
@[simp] theorem updGrp_repairs (s : State) (g : Nat) (f : Group → Group) : (s.updGrp g f).repairs = s.repairs := (congrArg State.repairs (updGrp_frame s g f) :)
@[simp] theorem updGrp_selfid (s : State) (g : Nat) (f : Group → Group) : (s.updGrp g f).selfid = s.selfid := (congrArg State.selfid (updGrp_frame s g f) :)
@[simp] theorem updGrp_routes (s : State) (g : Nat) (f : Group → Group) : (s.updGrp g f).routes = s.routes := (congrArg State.routes (updGrp_frame s g f) :)
@[simp] theorem updGrp_links (s : State) (g : Nat) (f : Group → Group) : (s.updGrp g f).links = s.links := (congrArg State.links (updGrp_frame s g f) :)
@[simp] theorem updGrp_peerOut (s : State) (g : Nat) (f : Group → Group) : (s.updGrp g f).peerOut = s.peerOut := (congrArg State.peerOut (updGrp_frame s g f) :)
@[simp] theorem updGrp_peerIn (s : State) (g : Nat) (f : Group → Group) : (s.updGrp g f).peerIn = s.peerIn := (congrArg State.peerIn (updGrp_frame s g f) :)
@[simp] theorem updGrp_hostData (s : State) (g : Nat) (f : Group → Group) : (s.updGrp g f).hostData = s.hostData := (congrArg State.hostData (updGrp_frame s g f) :)
@[simp] theorem updGrp_hostRefused (s : State) (g : Nat) (f : Group → Group) : (s.updGrp g f).hostRefused = s.hostRefused := (congrArg State.hostRefused (updGrp_frame s g f) :)
@[simp] theorem updGrp_peerAns (s : State) (g : Nat) (f : Group → Group) : (s.updGrp g f).peerAns = s.peerAns := (congrArg State.peerAns (updGrp_frame s g f) :)
@[simp] theorem updGrp_got (s : State) (g : Nat) (f : Group → Group) : (s.updGrp g f).got = s.got := (congrArg State.got (updGrp_frame s g f) :)
@[simp] theorem updGrp_asker (s : State) (g : Nat) (f : Group → Group) : (s.updGrp g f).asker = s.asker := (congrArg State.asker (updGrp_frame s g f) :)
@[simp] theorem updGrp_wants (s : State) (g : Nat) (f : Group → Group) : (s.updGrp g f).wants = s.wants := (congrArg State.wants (updGrp_frame s g f) :)
@[simp] theorem updGrp_toPeers (s : State) (g : Nat) (f : Group → Group) : (s.updGrp g f).toPeers = s.toPeers := (congrArg State.toPeers (updGrp_frame s g f) :)
@[simp] theorem updGrp_locks (s : State) (g : Nat) (f : Group → Group) : (s.updGrp g f).locks = s.locks := (congrArg State.locks (updGrp_frame s g f) :)
@[simp] theorem updGrp_moving (s : State) (g : Nat) (f : Group → Group) : (s.updGrp g f).moving = s.moving := (congrArg State.moving (updGrp_frame s g f) :)
@[simp] theorem updGrp_heldBack (s : State) (g : Nat) (f : Group → Group) : (s.updGrp g f).heldBack = s.heldBack := (congrArg State.heldBack (updGrp_frame s g f) :)
@[simp] theorem updGrp_hostLines (s : State) (g : Nat) (f : Group → Group) : (s.updGrp g f).hostLines = s.hostLines := (congrArg State.hostLines (updGrp_frame s g f) :)
@[simp] theorem updGrp_l2 (s : State) (g : Nat) (f : Group → Group) : (s.updGrp g f).l2 = s.l2 := (congrArg State.l2 (updGrp_frame s g f) :)
@[simp] theorem updGrp_hubc (s : State) (g : Nat) (f : Group → Group) : (s.updGrp g f).hubc = s.hubc := (congrArg State.hubc (updGrp_frame s g f) :)
@[simp] theorem updGrp_dieAcq (s : State) (g : Nat) (f : Group → Group) : (s.updGrp g f).dieAcq = s.dieAcq := (congrArg State.dieAcq (updGrp_frame s g f) :)
@[simp] theorem updGrp_fmtPend (s : State) (g : Nat) (f : Group → Group) : (s.updGrp g f).fmtPend = s.fmtPend := (congrArg State.fmtPend (updGrp_frame s g f) :)
@[simp] theorem updGrp_ctrs (s : State) (g : Nat) (f : Group → Group) : (s.updGrp g f).ctrs = s.ctrs := (congrArg State.ctrs (updGrp_frame s g f) :)
@[simp] theorem updGrp_frameCtrs (s : State) (g : Nat) (f : Group → Group) : (s.updGrp g f).frameCtrs = s.frameCtrs := (congrArg State.frameCtrs (updGrp_frame s g f) :)
@[simp] theorem updGrp_mdc (s : State) (g : Nat) (f : Group → Group) : (s.updGrp g f).mdc = s.mdc := (congrArg State.mdc (updGrp_frame s g f) :)
@[simp] theorem updGrp_enqBy (s : State) (g : Nat) (f : Group → Group) : (s.updGrp g f).enqBy = s.enqBy := (congrArg State.enqBy (updGrp_frame s g f) :)
@[simp] theorem updGrp_failed (s : State) (g : Nat) (f : Group → Group) : (s.updGrp g f).failed = s.failed := (congrArg State.failed (updGrp_frame s g f) :)
@[simp] theorem updGrp_nodeMet (s : State) (g : Nat) (f : Group → Group) : (s.updGrp g f).nodeMet = s.nodeMet := (congrArg State.nodeMet (updGrp_frame s g f) :)

/-! ### `setBank` changes `banks` -/

theorem setBank_frame (s : State) (k : Nat) (b : Bank) : { s.setBank k b with banks := s.banks } = s := rfl
@[simp] theorem setBank_inputs (s : State) (k : Nat) (b : Bank) : (s.setBank k b).inputs = s.inputs := rfl
@[simp] theorem setBank_brought (s : State) (k : Nat) (b : Bank) : (s.setBank k b).brought = s.brought := rfl
@[simp] theorem setBank_turns (s : State) (k : Nat) (b : Bank) : (s.setBank k b).turns = s.turns := rfl
@[simp] theorem setBank_draw (s : State) (k : Nat) (b : Bank) : (s.setBank k b).draw = s.draw := rfl
@[simp] theorem setBank_tick (s : State) (k : Nat) (b : Bank) : (s.setBank k b).tick = s.tick := rfl
@[simp] theorem setBank_cur (s : State) (k : Nat) (b : Bank) : (s.setBank k b).cur = s.cur := rfl
@[simp] theorem setBank_nextSub (s : State) (k : Nat) (b : Bank) : (s.setBank k b).nextSub = s.nextSub := rfl
@[simp] theorem setBank_issued (s : State) (k : Nat) (b : Bank) : (s.setBank k b).issued = s.issued := rfl
@[simp] theorem setBank_mem (s : State) (k : Nat) (b : Bank) : (s.setBank k b).mem = s.mem := rfl
@[simp] theorem setBank_groups (s : State) (k : Nat) (b : Bank) : (s.setBank k b).groups = s.groups := rfl
@[simp] theorem setBank_wgs (s : State) (k : Nat) (b : Bank) : (s.setBank k b).wgs = s.wgs := rfl
@[simp] theorem setBank_cores (s : State) (k : Nat) (b : Bank) : (s.setBank k b).cores = s.cores := rfl
@[simp] theorem setBank_engines (s : State) (k : Nat) (b : Bank) : (s.setBank k b).engines = s.engines := rfl
@[simp] theorem setBank_ops (s : State) (k : Nat) (b : Bank) : (s.setBank k b).ops = s.ops := rfl
@[simp] theorem setBank_holds (s : State) (k : Nat) (b : Bank) : (s.setBank k b).holds = s.holds := rfl
@[simp] theorem setBank_ctxs (s : State) (k : Nat) (b : Bank) : (s.setBank k b).ctxs = s.ctxs := rfl
@[simp] theorem setBank_fns (s : State) (k : Nat) (b : Bank) : (s.setBank k b).fns = s.fns := rfl
@[simp] theorem setBank_packets (s : State) (k : Nat) (b : Bank) : (s.setBank k b).packets = s.packets := rfl
@[simp] theorem setBank_launches (s : State) (k : Nat) (b : Bank) : (s.setBank k b).launches = s.launches := rfl
@[simp] theorem setBank_graphs (s : State) (k : Nat) (b : Bank) : (s.setBank k b).graphs = s.graphs := rfl
@[simp] theorem setBank_phases (s : State) (k : Nat) (b : Bank) : (s.setBank k b).phases = s.phases := rfl
@[simp] theorem setBank_jobs (s : State) (k : Nat) (b : Bank) : (s.setBank k b).jobs = s.jobs := rfl
@[simp] theorem setBank_tlb (s : State) (k : Nat) (b : Bank) : (s.setBank k b).tlb = s.tlb := rfl
@[simp] theorem setBank_owner (s : State) (k : Nat) (b : Bank) : (s.setBank k b).owner = s.owner := rfl
@[simp] theorem setBank_markX (s : State) (k : Nat) (b : Bank) : (s.setBank k b).markX = s.markX := rfl
@[simp] theorem setBank_markW (s : State) (k : Nat) (b : Bank) : (s.setBank k b).markW = s.markW := rfl
@[simp] theorem setBank_bias (s : State) (k : Nat) (b : Bank) : (s.setBank k b).bias = s.bias := rfl
@[simp] theorem setBank_homes (s : State) (k : Nat) (b : Bank) : (s.setBank k b).homes = s.homes := rfl
@[simp] theorem setBank_badMac (s : State) (k : Nat) (b : Bank) : (s.setBank k b).badMac = s.badMac := rfl
@[simp] theorem setBank_badNode (s : State) (k : Nat) (b : Bank) : (s.setBank k b).badNode = s.badNode := rfl
@[simp] theorem setBank_worlds (s : State) (k : Nat) (b : Bank) : (s.setBank k b).worlds = s.worlds := rfl
@[simp] theorem setBank_fw (s : State) (k : Nat) (b : Bank) : (s.setBank k b).fw = s.fw := rfl
@[simp] theorem setBank_moves (s : State) (k : Nat) (b : Bank) : (s.setBank k b).moves = s.moves := rfl
@[simp] theorem setBank_switches (s : State) (k : Nat) (b : Bank) : (s.setBank k b).switches = s.switches := rfl
@[simp] theorem setBank_rungs (s : State) (k : Nat) (b : Bank) : (s.setBank k b).rungs = s.rungs := rfl
@[simp] theorem setBank_dev (s : State) (k : Nat) (b : Bank) : (s.setBank k b).dev = s.dev := rfl
@[simp] theorem setBank_fcode (s : State) (k : Nat) (b : Bank) : (s.setBank k b).fcode = s.fcode := rfl
@[simp] theorem setBank_mgmt (s : State) (k : Nat) (b : Bank) : (s.setBank k b).mgmt = s.mgmt := rfl
@[simp] theorem setBank_att (s : State) (k : Nat) (b : Bank) : (s.setBank k b).att = s.att := rfl
@[simp] theorem setBank_recimg (s : State) (k : Nat) (b : Bank) : (s.setBank k b).recimg = s.recimg := rfl
@[simp] theorem setBank_flash (s : State) (k : Nat) (b : Bank) : (s.setBank k b).flash = s.flash := rfl
@[simp] theorem setBank_age (s : State) (k : Nat) (b : Bank) : (s.setBank k b).age = s.age := rfl
@[simp] theorem setBank_targeth (s : State) (k : Nat) (b : Bank) : (s.setBank k b).targeth = s.targeth := rfl
@[simp] theorem setBank_targethNext (s : State) (k : Nat) (b : Bank) : (s.setBank k b).targethNext = s.targethNext := rfl
@[simp] theorem setBank_wear (s : State) (k : Nat) (b : Bank) : (s.setBank k b).wear = s.wear := rfl
@[simp] theorem setBank_wearAt (s : State) (k : Nat) (b : Bank) : (s.setBank k b).wearAt = s.wearAt := rfl
@[simp] theorem setBank_windowAge (s : State) (k : Nat) (b : Bank) : (s.setBank k b).windowAge = s.windowAge := rfl
@[simp] theorem setBank_spareOf (s : State) (k : Nat) (b : Bank) : (s.setBank k b).spareOf = s.spareOf := rfl
@[simp] theorem setBank_ckptA (s : State) (k : Nat) (b : Bank) : (s.setBank k b).ckptA = s.ckptA := rfl
@[simp] theorem setBank_ckptB (s : State) (k : Nat) (b : Bank) : (s.setBank k b).ckptB = s.ckptB := rfl
@[simp] theorem setBank_vbs (s : State) (k : Nat) (b : Bank) : (s.setBank k b).vbs = s.vbs := rfl
@[simp] theorem setBank_lostDies (s : State) (k : Nat) (b : Bank) : (s.setBank k b).lostDies = s.lostDies := rfl
@[simp] theorem setBank_repairs (s : State) (k : Nat) (b : Bank) : (s.setBank k b).repairs = s.repairs := rfl
@[simp] theorem setBank_selfid (s : State) (k : Nat) (b : Bank) : (s.setBank k b).selfid = s.selfid := rfl
@[simp] theorem setBank_routes (s : State) (k : Nat) (b : Bank) : (s.setBank k b).routes = s.routes := rfl
@[simp] theorem setBank_links (s : State) (k : Nat) (b : Bank) : (s.setBank k b).links = s.links := rfl
@[simp] theorem setBank_peerOut (s : State) (k : Nat) (b : Bank) : (s.setBank k b).peerOut = s.peerOut := rfl
@[simp] theorem setBank_peerIn (s : State) (k : Nat) (b : Bank) : (s.setBank k b).peerIn = s.peerIn := rfl
@[simp] theorem setBank_hostData (s : State) (k : Nat) (b : Bank) : (s.setBank k b).hostData = s.hostData := rfl
@[simp] theorem setBank_hostRefused (s : State) (k : Nat) (b : Bank) : (s.setBank k b).hostRefused = s.hostRefused := rfl
@[simp] theorem setBank_peerAns (s : State) (k : Nat) (b : Bank) : (s.setBank k b).peerAns = s.peerAns := rfl
@[simp] theorem setBank_got (s : State) (k : Nat) (b : Bank) : (s.setBank k b).got = s.got := rfl
@[simp] theorem setBank_asker (s : State) (k : Nat) (b : Bank) : (s.setBank k b).asker = s.asker := rfl
@[simp] theorem setBank_wants (s : State) (k : Nat) (b : Bank) : (s.setBank k b).wants = s.wants := rfl
@[simp] theorem setBank_toPeers (s : State) (k : Nat) (b : Bank) : (s.setBank k b).toPeers = s.toPeers := rfl
@[simp] theorem setBank_locks (s : State) (k : Nat) (b : Bank) : (s.setBank k b).locks = s.locks := rfl
@[simp] theorem setBank_moving (s : State) (k : Nat) (b : Bank) : (s.setBank k b).moving = s.moving := rfl
@[simp] theorem setBank_heldBack (s : State) (k : Nat) (b : Bank) : (s.setBank k b).heldBack = s.heldBack := rfl
@[simp] theorem setBank_hostLines (s : State) (k : Nat) (b : Bank) : (s.setBank k b).hostLines = s.hostLines := rfl
@[simp] theorem setBank_l2 (s : State) (k : Nat) (b : Bank) : (s.setBank k b).l2 = s.l2 := rfl
@[simp] theorem setBank_hubc (s : State) (k : Nat) (b : Bank) : (s.setBank k b).hubc = s.hubc := rfl
@[simp] theorem setBank_dieAcq (s : State) (k : Nat) (b : Bank) : (s.setBank k b).dieAcq = s.dieAcq := rfl
@[simp] theorem setBank_fmtPend (s : State) (k : Nat) (b : Bank) : (s.setBank k b).fmtPend = s.fmtPend := rfl
@[simp] theorem setBank_ctrs (s : State) (k : Nat) (b : Bank) : (s.setBank k b).ctrs = s.ctrs := rfl
@[simp] theorem setBank_frameCtrs (s : State) (k : Nat) (b : Bank) : (s.setBank k b).frameCtrs = s.frameCtrs := rfl
@[simp] theorem setBank_mdc (s : State) (k : Nat) (b : Bank) : (s.setBank k b).mdc = s.mdc := rfl
@[simp] theorem setBank_enqBy (s : State) (k : Nat) (b : Bank) : (s.setBank k b).enqBy = s.enqBy := rfl
@[simp] theorem setBank_failed (s : State) (k : Nat) (b : Bank) : (s.setBank k b).failed = s.failed := rfl
@[simp] theorem setBank_nodeMet (s : State) (k : Nat) (b : Bank) : (s.setBank k b).nodeMet = s.nodeMet := rfl

/-! ### `updWg` changes `wgs` -/

theorem updWg_frame (s : State) (w : Nat) (f : Workgroup → Workgroup) : { s.updWg w f with wgs := s.wgs } = s := by unfold State.updWg; split <;> rfl
@[simp] theorem updWg_inputs (s : State) (w : Nat) (f : Workgroup → Workgroup) : (s.updWg w f).inputs = s.inputs := (congrArg State.inputs (updWg_frame s w f) :)
@[simp] theorem updWg_brought (s : State) (w : Nat) (f : Workgroup → Workgroup) : (s.updWg w f).brought = s.brought := (congrArg State.brought (updWg_frame s w f) :)
@[simp] theorem updWg_turns (s : State) (w : Nat) (f : Workgroup → Workgroup) : (s.updWg w f).turns = s.turns := (congrArg State.turns (updWg_frame s w f) :)
@[simp] theorem updWg_draw (s : State) (w : Nat) (f : Workgroup → Workgroup) : (s.updWg w f).draw = s.draw := (congrArg State.draw (updWg_frame s w f) :)
@[simp] theorem updWg_tick (s : State) (w : Nat) (f : Workgroup → Workgroup) : (s.updWg w f).tick = s.tick := (congrArg State.tick (updWg_frame s w f) :)
@[simp] theorem updWg_cur (s : State) (w : Nat) (f : Workgroup → Workgroup) : (s.updWg w f).cur = s.cur := (congrArg State.cur (updWg_frame s w f) :)
@[simp] theorem updWg_nextSub (s : State) (w : Nat) (f : Workgroup → Workgroup) : (s.updWg w f).nextSub = s.nextSub := (congrArg State.nextSub (updWg_frame s w f) :)
@[simp] theorem updWg_issued (s : State) (w : Nat) (f : Workgroup → Workgroup) : (s.updWg w f).issued = s.issued := (congrArg State.issued (updWg_frame s w f) :)
@[simp] theorem updWg_mem (s : State) (w : Nat) (f : Workgroup → Workgroup) : (s.updWg w f).mem = s.mem := (congrArg State.mem (updWg_frame s w f) :)
@[simp] theorem updWg_groups (s : State) (w : Nat) (f : Workgroup → Workgroup) : (s.updWg w f).groups = s.groups := (congrArg State.groups (updWg_frame s w f) :)
@[simp] theorem updWg_cores (s : State) (w : Nat) (f : Workgroup → Workgroup) : (s.updWg w f).cores = s.cores := (congrArg State.cores (updWg_frame s w f) :)
@[simp] theorem updWg_banks (s : State) (w : Nat) (f : Workgroup → Workgroup) : (s.updWg w f).banks = s.banks := (congrArg State.banks (updWg_frame s w f) :)
@[simp] theorem updWg_engines (s : State) (w : Nat) (f : Workgroup → Workgroup) : (s.updWg w f).engines = s.engines := (congrArg State.engines (updWg_frame s w f) :)
@[simp] theorem updWg_ops (s : State) (w : Nat) (f : Workgroup → Workgroup) : (s.updWg w f).ops = s.ops := (congrArg State.ops (updWg_frame s w f) :)
@[simp] theorem updWg_holds (s : State) (w : Nat) (f : Workgroup → Workgroup) : (s.updWg w f).holds = s.holds := (congrArg State.holds (updWg_frame s w f) :)
@[simp] theorem updWg_ctxs (s : State) (w : Nat) (f : Workgroup → Workgroup) : (s.updWg w f).ctxs = s.ctxs := (congrArg State.ctxs (updWg_frame s w f) :)
@[simp] theorem updWg_fns (s : State) (w : Nat) (f : Workgroup → Workgroup) : (s.updWg w f).fns = s.fns := (congrArg State.fns (updWg_frame s w f) :)
@[simp] theorem updWg_packets (s : State) (w : Nat) (f : Workgroup → Workgroup) : (s.updWg w f).packets = s.packets := (congrArg State.packets (updWg_frame s w f) :)
@[simp] theorem updWg_launches (s : State) (w : Nat) (f : Workgroup → Workgroup) : (s.updWg w f).launches = s.launches := (congrArg State.launches (updWg_frame s w f) :)
@[simp] theorem updWg_graphs (s : State) (w : Nat) (f : Workgroup → Workgroup) : (s.updWg w f).graphs = s.graphs := (congrArg State.graphs (updWg_frame s w f) :)
@[simp] theorem updWg_phases (s : State) (w : Nat) (f : Workgroup → Workgroup) : (s.updWg w f).phases = s.phases := (congrArg State.phases (updWg_frame s w f) :)
@[simp] theorem updWg_jobs (s : State) (w : Nat) (f : Workgroup → Workgroup) : (s.updWg w f).jobs = s.jobs := (congrArg State.jobs (updWg_frame s w f) :)
@[simp] theorem updWg_tlb (s : State) (w : Nat) (f : Workgroup → Workgroup) : (s.updWg w f).tlb = s.tlb := (congrArg State.tlb (updWg_frame s w f) :)
@[simp] theorem updWg_owner (s : State) (w : Nat) (f : Workgroup → Workgroup) : (s.updWg w f).owner = s.owner := (congrArg State.owner (updWg_frame s w f) :)
@[simp] theorem updWg_markX (s : State) (w : Nat) (f : Workgroup → Workgroup) : (s.updWg w f).markX = s.markX := (congrArg State.markX (updWg_frame s w f) :)
@[simp] theorem updWg_markW (s : State) (w : Nat) (f : Workgroup → Workgroup) : (s.updWg w f).markW = s.markW := (congrArg State.markW (updWg_frame s w f) :)
@[simp] theorem updWg_bias (s : State) (w : Nat) (f : Workgroup → Workgroup) : (s.updWg w f).bias = s.bias := (congrArg State.bias (updWg_frame s w f) :)
@[simp] theorem updWg_homes (s : State) (w : Nat) (f : Workgroup → Workgroup) : (s.updWg w f).homes = s.homes := (congrArg State.homes (updWg_frame s w f) :)
@[simp] theorem updWg_badMac (s : State) (w : Nat) (f : Workgroup → Workgroup) : (s.updWg w f).badMac = s.badMac := (congrArg State.badMac (updWg_frame s w f) :)
@[simp] theorem updWg_badNode (s : State) (w : Nat) (f : Workgroup → Workgroup) : (s.updWg w f).badNode = s.badNode := (congrArg State.badNode (updWg_frame s w f) :)
@[simp] theorem updWg_worlds (s : State) (w : Nat) (f : Workgroup → Workgroup) : (s.updWg w f).worlds = s.worlds := (congrArg State.worlds (updWg_frame s w f) :)
@[simp] theorem updWg_fw (s : State) (w : Nat) (f : Workgroup → Workgroup) : (s.updWg w f).fw = s.fw := (congrArg State.fw (updWg_frame s w f) :)
@[simp] theorem updWg_moves (s : State) (w : Nat) (f : Workgroup → Workgroup) : (s.updWg w f).moves = s.moves := (congrArg State.moves (updWg_frame s w f) :)
@[simp] theorem updWg_switches (s : State) (w : Nat) (f : Workgroup → Workgroup) : (s.updWg w f).switches = s.switches := (congrArg State.switches (updWg_frame s w f) :)
@[simp] theorem updWg_rungs (s : State) (w : Nat) (f : Workgroup → Workgroup) : (s.updWg w f).rungs = s.rungs := (congrArg State.rungs (updWg_frame s w f) :)
@[simp] theorem updWg_dev (s : State) (w : Nat) (f : Workgroup → Workgroup) : (s.updWg w f).dev = s.dev := (congrArg State.dev (updWg_frame s w f) :)
@[simp] theorem updWg_fcode (s : State) (w : Nat) (f : Workgroup → Workgroup) : (s.updWg w f).fcode = s.fcode := (congrArg State.fcode (updWg_frame s w f) :)
@[simp] theorem updWg_mgmt (s : State) (w : Nat) (f : Workgroup → Workgroup) : (s.updWg w f).mgmt = s.mgmt := (congrArg State.mgmt (updWg_frame s w f) :)
@[simp] theorem updWg_att (s : State) (w : Nat) (f : Workgroup → Workgroup) : (s.updWg w f).att = s.att := (congrArg State.att (updWg_frame s w f) :)
@[simp] theorem updWg_recimg (s : State) (w : Nat) (f : Workgroup → Workgroup) : (s.updWg w f).recimg = s.recimg := (congrArg State.recimg (updWg_frame s w f) :)
@[simp] theorem updWg_flash (s : State) (w : Nat) (f : Workgroup → Workgroup) : (s.updWg w f).flash = s.flash := (congrArg State.flash (updWg_frame s w f) :)
@[simp] theorem updWg_age (s : State) (w : Nat) (f : Workgroup → Workgroup) : (s.updWg w f).age = s.age := (congrArg State.age (updWg_frame s w f) :)
@[simp] theorem updWg_targeth (s : State) (w : Nat) (f : Workgroup → Workgroup) : (s.updWg w f).targeth = s.targeth := (congrArg State.targeth (updWg_frame s w f) :)
@[simp] theorem updWg_targethNext (s : State) (w : Nat) (f : Workgroup → Workgroup) : (s.updWg w f).targethNext = s.targethNext := (congrArg State.targethNext (updWg_frame s w f) :)
@[simp] theorem updWg_wear (s : State) (w : Nat) (f : Workgroup → Workgroup) : (s.updWg w f).wear = s.wear := (congrArg State.wear (updWg_frame s w f) :)
@[simp] theorem updWg_wearAt (s : State) (w : Nat) (f : Workgroup → Workgroup) : (s.updWg w f).wearAt = s.wearAt := (congrArg State.wearAt (updWg_frame s w f) :)
@[simp] theorem updWg_windowAge (s : State) (w : Nat) (f : Workgroup → Workgroup) : (s.updWg w f).windowAge = s.windowAge := (congrArg State.windowAge (updWg_frame s w f) :)
@[simp] theorem updWg_spareOf (s : State) (w : Nat) (f : Workgroup → Workgroup) : (s.updWg w f).spareOf = s.spareOf := (congrArg State.spareOf (updWg_frame s w f) :)
@[simp] theorem updWg_ckptA (s : State) (w : Nat) (f : Workgroup → Workgroup) : (s.updWg w f).ckptA = s.ckptA := (congrArg State.ckptA (updWg_frame s w f) :)
@[simp] theorem updWg_ckptB (s : State) (w : Nat) (f : Workgroup → Workgroup) : (s.updWg w f).ckptB = s.ckptB := (congrArg State.ckptB (updWg_frame s w f) :)
@[simp] theorem updWg_vbs (s : State) (w : Nat) (f : Workgroup → Workgroup) : (s.updWg w f).vbs = s.vbs := (congrArg State.vbs (updWg_frame s w f) :)
@[simp] theorem updWg_lostDies (s : State) (w : Nat) (f : Workgroup → Workgroup) : (s.updWg w f).lostDies = s.lostDies := (congrArg State.lostDies (updWg_frame s w f) :)
@[simp] theorem updWg_repairs (s : State) (w : Nat) (f : Workgroup → Workgroup) : (s.updWg w f).repairs = s.repairs := (congrArg State.repairs (updWg_frame s w f) :)
@[simp] theorem updWg_selfid (s : State) (w : Nat) (f : Workgroup → Workgroup) : (s.updWg w f).selfid = s.selfid := (congrArg State.selfid (updWg_frame s w f) :)
@[simp] theorem updWg_routes (s : State) (w : Nat) (f : Workgroup → Workgroup) : (s.updWg w f).routes = s.routes := (congrArg State.routes (updWg_frame s w f) :)
@[simp] theorem updWg_links (s : State) (w : Nat) (f : Workgroup → Workgroup) : (s.updWg w f).links = s.links := (congrArg State.links (updWg_frame s w f) :)
@[simp] theorem updWg_peerOut (s : State) (w : Nat) (f : Workgroup → Workgroup) : (s.updWg w f).peerOut = s.peerOut := (congrArg State.peerOut (updWg_frame s w f) :)
@[simp] theorem updWg_peerIn (s : State) (w : Nat) (f : Workgroup → Workgroup) : (s.updWg w f).peerIn = s.peerIn := (congrArg State.peerIn (updWg_frame s w f) :)
@[simp] theorem updWg_hostData (s : State) (w : Nat) (f : Workgroup → Workgroup) : (s.updWg w f).hostData = s.hostData := (congrArg State.hostData (updWg_frame s w f) :)
@[simp] theorem updWg_hostRefused (s : State) (w : Nat) (f : Workgroup → Workgroup) : (s.updWg w f).hostRefused = s.hostRefused := (congrArg State.hostRefused (updWg_frame s w f) :)
@[simp] theorem updWg_peerAns (s : State) (w : Nat) (f : Workgroup → Workgroup) : (s.updWg w f).peerAns = s.peerAns := (congrArg State.peerAns (updWg_frame s w f) :)
@[simp] theorem updWg_got (s : State) (w : Nat) (f : Workgroup → Workgroup) : (s.updWg w f).got = s.got := (congrArg State.got (updWg_frame s w f) :)
@[simp] theorem updWg_asker (s : State) (w : Nat) (f : Workgroup → Workgroup) : (s.updWg w f).asker = s.asker := (congrArg State.asker (updWg_frame s w f) :)
@[simp] theorem updWg_wants (s : State) (w : Nat) (f : Workgroup → Workgroup) : (s.updWg w f).wants = s.wants := (congrArg State.wants (updWg_frame s w f) :)
@[simp] theorem updWg_toPeers (s : State) (w : Nat) (f : Workgroup → Workgroup) : (s.updWg w f).toPeers = s.toPeers := (congrArg State.toPeers (updWg_frame s w f) :)
@[simp] theorem updWg_locks (s : State) (w : Nat) (f : Workgroup → Workgroup) : (s.updWg w f).locks = s.locks := (congrArg State.locks (updWg_frame s w f) :)
@[simp] theorem updWg_moving (s : State) (w : Nat) (f : Workgroup → Workgroup) : (s.updWg w f).moving = s.moving := (congrArg State.moving (updWg_frame s w f) :)
@[simp] theorem updWg_heldBack (s : State) (w : Nat) (f : Workgroup → Workgroup) : (s.updWg w f).heldBack = s.heldBack := (congrArg State.heldBack (updWg_frame s w f) :)
@[simp] theorem updWg_hostLines (s : State) (w : Nat) (f : Workgroup → Workgroup) : (s.updWg w f).hostLines = s.hostLines := (congrArg State.hostLines (updWg_frame s w f) :)
@[simp] theorem updWg_l2 (s : State) (w : Nat) (f : Workgroup → Workgroup) : (s.updWg w f).l2 = s.l2 := (congrArg State.l2 (updWg_frame s w f) :)
@[simp] theorem updWg_hubc (s : State) (w : Nat) (f : Workgroup → Workgroup) : (s.updWg w f).hubc = s.hubc := (congrArg State.hubc (updWg_frame s w f) :)
@[simp] theorem updWg_dieAcq (s : State) (w : Nat) (f : Workgroup → Workgroup) : (s.updWg w f).dieAcq = s.dieAcq := (congrArg State.dieAcq (updWg_frame s w f) :)
@[simp] theorem updWg_fmtPend (s : State) (w : Nat) (f : Workgroup → Workgroup) : (s.updWg w f).fmtPend = s.fmtPend := (congrArg State.fmtPend (updWg_frame s w f) :)
@[simp] theorem updWg_ctrs (s : State) (w : Nat) (f : Workgroup → Workgroup) : (s.updWg w f).ctrs = s.ctrs := (congrArg State.ctrs (updWg_frame s w f) :)
@[simp] theorem updWg_frameCtrs (s : State) (w : Nat) (f : Workgroup → Workgroup) : (s.updWg w f).frameCtrs = s.frameCtrs := (congrArg State.frameCtrs (updWg_frame s w f) :)
@[simp] theorem updWg_mdc (s : State) (w : Nat) (f : Workgroup → Workgroup) : (s.updWg w f).mdc = s.mdc := (congrArg State.mdc (updWg_frame s w f) :)
@[simp] theorem updWg_enqBy (s : State) (w : Nat) (f : Workgroup → Workgroup) : (s.updWg w f).enqBy = s.enqBy := (congrArg State.enqBy (updWg_frame s w f) :)
@[simp] theorem updWg_failed (s : State) (w : Nat) (f : Workgroup → Workgroup) : (s.updWg w f).failed = s.failed := (congrArg State.failed (updWg_frame s w f) :)
@[simp] theorem updWg_nodeMet (s : State) (w : Nat) (f : Workgroup → Workgroup) : (s.updWg w f).nodeMet = s.nodeMet := (congrArg State.nodeMet (updWg_frame s w f) :)

/-! ### `updCore` changes `cores` -/

theorem updCore_frame (s : State) (c : Nat) (f : Core → Core) : { s.updCore c f with cores := s.cores } = s := rfl
@[simp] theorem updCore_inputs (s : State) (c : Nat) (f : Core → Core) : (s.updCore c f).inputs = s.inputs := rfl
@[simp] theorem updCore_brought (s : State) (c : Nat) (f : Core → Core) : (s.updCore c f).brought = s.brought := rfl
@[simp] theorem updCore_turns (s : State) (c : Nat) (f : Core → Core) : (s.updCore c f).turns = s.turns := rfl
@[simp] theorem updCore_draw (s : State) (c : Nat) (f : Core → Core) : (s.updCore c f).draw = s.draw := rfl
@[simp] theorem updCore_tick (s : State) (c : Nat) (f : Core → Core) : (s.updCore c f).tick = s.tick := rfl
@[simp] theorem updCore_cur (s : State) (c : Nat) (f : Core → Core) : (s.updCore c f).cur = s.cur := rfl
@[simp] theorem updCore_nextSub (s : State) (c : Nat) (f : Core → Core) : (s.updCore c f).nextSub = s.nextSub := rfl
@[simp] theorem updCore_issued (s : State) (c : Nat) (f : Core → Core) : (s.updCore c f).issued = s.issued := rfl
@[simp] theorem updCore_mem (s : State) (c : Nat) (f : Core → Core) : (s.updCore c f).mem = s.mem := rfl
@[simp] theorem updCore_groups (s : State) (c : Nat) (f : Core → Core) : (s.updCore c f).groups = s.groups := rfl
@[simp] theorem updCore_wgs (s : State) (c : Nat) (f : Core → Core) : (s.updCore c f).wgs = s.wgs := rfl
@[simp] theorem updCore_banks (s : State) (c : Nat) (f : Core → Core) : (s.updCore c f).banks = s.banks := rfl
@[simp] theorem updCore_engines (s : State) (c : Nat) (f : Core → Core) : (s.updCore c f).engines = s.engines := rfl
@[simp] theorem updCore_ops (s : State) (c : Nat) (f : Core → Core) : (s.updCore c f).ops = s.ops := rfl
@[simp] theorem updCore_holds (s : State) (c : Nat) (f : Core → Core) : (s.updCore c f).holds = s.holds := rfl
@[simp] theorem updCore_ctxs (s : State) (c : Nat) (f : Core → Core) : (s.updCore c f).ctxs = s.ctxs := rfl
@[simp] theorem updCore_fns (s : State) (c : Nat) (f : Core → Core) : (s.updCore c f).fns = s.fns := rfl
@[simp] theorem updCore_packets (s : State) (c : Nat) (f : Core → Core) : (s.updCore c f).packets = s.packets := rfl
@[simp] theorem updCore_launches (s : State) (c : Nat) (f : Core → Core) : (s.updCore c f).launches = s.launches := rfl
@[simp] theorem updCore_graphs (s : State) (c : Nat) (f : Core → Core) : (s.updCore c f).graphs = s.graphs := rfl
@[simp] theorem updCore_phases (s : State) (c : Nat) (f : Core → Core) : (s.updCore c f).phases = s.phases := rfl
@[simp] theorem updCore_jobs (s : State) (c : Nat) (f : Core → Core) : (s.updCore c f).jobs = s.jobs := rfl
@[simp] theorem updCore_tlb (s : State) (c : Nat) (f : Core → Core) : (s.updCore c f).tlb = s.tlb := rfl
@[simp] theorem updCore_owner (s : State) (c : Nat) (f : Core → Core) : (s.updCore c f).owner = s.owner := rfl
@[simp] theorem updCore_markX (s : State) (c : Nat) (f : Core → Core) : (s.updCore c f).markX = s.markX := rfl
@[simp] theorem updCore_markW (s : State) (c : Nat) (f : Core → Core) : (s.updCore c f).markW = s.markW := rfl
@[simp] theorem updCore_bias (s : State) (c : Nat) (f : Core → Core) : (s.updCore c f).bias = s.bias := rfl
@[simp] theorem updCore_homes (s : State) (c : Nat) (f : Core → Core) : (s.updCore c f).homes = s.homes := rfl
@[simp] theorem updCore_badMac (s : State) (c : Nat) (f : Core → Core) : (s.updCore c f).badMac = s.badMac := rfl
@[simp] theorem updCore_badNode (s : State) (c : Nat) (f : Core → Core) : (s.updCore c f).badNode = s.badNode := rfl
@[simp] theorem updCore_worlds (s : State) (c : Nat) (f : Core → Core) : (s.updCore c f).worlds = s.worlds := rfl
@[simp] theorem updCore_fw (s : State) (c : Nat) (f : Core → Core) : (s.updCore c f).fw = s.fw := rfl
@[simp] theorem updCore_moves (s : State) (c : Nat) (f : Core → Core) : (s.updCore c f).moves = s.moves := rfl
@[simp] theorem updCore_switches (s : State) (c : Nat) (f : Core → Core) : (s.updCore c f).switches = s.switches := rfl
@[simp] theorem updCore_rungs (s : State) (c : Nat) (f : Core → Core) : (s.updCore c f).rungs = s.rungs := rfl
@[simp] theorem updCore_dev (s : State) (c : Nat) (f : Core → Core) : (s.updCore c f).dev = s.dev := rfl
@[simp] theorem updCore_fcode (s : State) (c : Nat) (f : Core → Core) : (s.updCore c f).fcode = s.fcode := rfl
@[simp] theorem updCore_mgmt (s : State) (c : Nat) (f : Core → Core) : (s.updCore c f).mgmt = s.mgmt := rfl
@[simp] theorem updCore_att (s : State) (c : Nat) (f : Core → Core) : (s.updCore c f).att = s.att := rfl
@[simp] theorem updCore_recimg (s : State) (c : Nat) (f : Core → Core) : (s.updCore c f).recimg = s.recimg := rfl
@[simp] theorem updCore_flash (s : State) (c : Nat) (f : Core → Core) : (s.updCore c f).flash = s.flash := rfl
@[simp] theorem updCore_age (s : State) (c : Nat) (f : Core → Core) : (s.updCore c f).age = s.age := rfl
@[simp] theorem updCore_targeth (s : State) (c : Nat) (f : Core → Core) : (s.updCore c f).targeth = s.targeth := rfl
@[simp] theorem updCore_targethNext (s : State) (c : Nat) (f : Core → Core) : (s.updCore c f).targethNext = s.targethNext := rfl
@[simp] theorem updCore_wear (s : State) (c : Nat) (f : Core → Core) : (s.updCore c f).wear = s.wear := rfl
@[simp] theorem updCore_wearAt (s : State) (c : Nat) (f : Core → Core) : (s.updCore c f).wearAt = s.wearAt := rfl
@[simp] theorem updCore_windowAge (s : State) (c : Nat) (f : Core → Core) : (s.updCore c f).windowAge = s.windowAge := rfl
@[simp] theorem updCore_spareOf (s : State) (c : Nat) (f : Core → Core) : (s.updCore c f).spareOf = s.spareOf := rfl
@[simp] theorem updCore_ckptA (s : State) (c : Nat) (f : Core → Core) : (s.updCore c f).ckptA = s.ckptA := rfl
@[simp] theorem updCore_ckptB (s : State) (c : Nat) (f : Core → Core) : (s.updCore c f).ckptB = s.ckptB := rfl
@[simp] theorem updCore_vbs (s : State) (c : Nat) (f : Core → Core) : (s.updCore c f).vbs = s.vbs := rfl
@[simp] theorem updCore_lostDies (s : State) (c : Nat) (f : Core → Core) : (s.updCore c f).lostDies = s.lostDies := rfl
@[simp] theorem updCore_repairs (s : State) (c : Nat) (f : Core → Core) : (s.updCore c f).repairs = s.repairs := rfl
@[simp] theorem updCore_selfid (s : State) (c : Nat) (f : Core → Core) : (s.updCore c f).selfid = s.selfid := rfl
@[simp] theorem updCore_routes (s : State) (c : Nat) (f : Core → Core) : (s.updCore c f).routes = s.routes := rfl
@[simp] theorem updCore_links (s : State) (c : Nat) (f : Core → Core) : (s.updCore c f).links = s.links := rfl
@[simp] theorem updCore_peerOut (s : State) (c : Nat) (f : Core → Core) : (s.updCore c f).peerOut = s.peerOut := rfl
@[simp] theorem updCore_peerIn (s : State) (c : Nat) (f : Core → Core) : (s.updCore c f).peerIn = s.peerIn := rfl
@[simp] theorem updCore_hostData (s : State) (c : Nat) (f : Core → Core) : (s.updCore c f).hostData = s.hostData := rfl
@[simp] theorem updCore_hostRefused (s : State) (c : Nat) (f : Core → Core) : (s.updCore c f).hostRefused = s.hostRefused := rfl
@[simp] theorem updCore_peerAns (s : State) (c : Nat) (f : Core → Core) : (s.updCore c f).peerAns = s.peerAns := rfl
@[simp] theorem updCore_got (s : State) (c : Nat) (f : Core → Core) : (s.updCore c f).got = s.got := rfl
@[simp] theorem updCore_asker (s : State) (c : Nat) (f : Core → Core) : (s.updCore c f).asker = s.asker := rfl
@[simp] theorem updCore_wants (s : State) (c : Nat) (f : Core → Core) : (s.updCore c f).wants = s.wants := rfl
@[simp] theorem updCore_toPeers (s : State) (c : Nat) (f : Core → Core) : (s.updCore c f).toPeers = s.toPeers := rfl
@[simp] theorem updCore_locks (s : State) (c : Nat) (f : Core → Core) : (s.updCore c f).locks = s.locks := rfl
@[simp] theorem updCore_moving (s : State) (c : Nat) (f : Core → Core) : (s.updCore c f).moving = s.moving := rfl
@[simp] theorem updCore_heldBack (s : State) (c : Nat) (f : Core → Core) : (s.updCore c f).heldBack = s.heldBack := rfl
@[simp] theorem updCore_hostLines (s : State) (c : Nat) (f : Core → Core) : (s.updCore c f).hostLines = s.hostLines := rfl
@[simp] theorem updCore_l2 (s : State) (c : Nat) (f : Core → Core) : (s.updCore c f).l2 = s.l2 := rfl
@[simp] theorem updCore_hubc (s : State) (c : Nat) (f : Core → Core) : (s.updCore c f).hubc = s.hubc := rfl
@[simp] theorem updCore_dieAcq (s : State) (c : Nat) (f : Core → Core) : (s.updCore c f).dieAcq = s.dieAcq := rfl
@[simp] theorem updCore_fmtPend (s : State) (c : Nat) (f : Core → Core) : (s.updCore c f).fmtPend = s.fmtPend := rfl
@[simp] theorem updCore_ctrs (s : State) (c : Nat) (f : Core → Core) : (s.updCore c f).ctrs = s.ctrs := rfl
@[simp] theorem updCore_frameCtrs (s : State) (c : Nat) (f : Core → Core) : (s.updCore c f).frameCtrs = s.frameCtrs := rfl
@[simp] theorem updCore_mdc (s : State) (c : Nat) (f : Core → Core) : (s.updCore c f).mdc = s.mdc := rfl
@[simp] theorem updCore_enqBy (s : State) (c : Nat) (f : Core → Core) : (s.updCore c f).enqBy = s.enqBy := rfl
@[simp] theorem updCore_failed (s : State) (c : Nat) (f : Core → Core) : (s.updCore c f).failed = s.failed := rfl
@[simp] theorem updCore_nodeMet (s : State) (c : Nat) (f : Core → Core) : (s.updCore c f).nodeMet = s.nodeMet := rfl

/-! ### `updEng` changes `engines` -/

theorem updEng_frame (s : State) (c : Nat) (f : Engine → Engine) : { s.updEng c f with engines := s.engines } = s := rfl
@[simp] theorem updEng_inputs (s : State) (c : Nat) (f : Engine → Engine) : (s.updEng c f).inputs = s.inputs := rfl
@[simp] theorem updEng_brought (s : State) (c : Nat) (f : Engine → Engine) : (s.updEng c f).brought = s.brought := rfl
@[simp] theorem updEng_turns (s : State) (c : Nat) (f : Engine → Engine) : (s.updEng c f).turns = s.turns := rfl
@[simp] theorem updEng_draw (s : State) (c : Nat) (f : Engine → Engine) : (s.updEng c f).draw = s.draw := rfl
@[simp] theorem updEng_tick (s : State) (c : Nat) (f : Engine → Engine) : (s.updEng c f).tick = s.tick := rfl
@[simp] theorem updEng_cur (s : State) (c : Nat) (f : Engine → Engine) : (s.updEng c f).cur = s.cur := rfl
@[simp] theorem updEng_nextSub (s : State) (c : Nat) (f : Engine → Engine) : (s.updEng c f).nextSub = s.nextSub := rfl
@[simp] theorem updEng_issued (s : State) (c : Nat) (f : Engine → Engine) : (s.updEng c f).issued = s.issued := rfl
@[simp] theorem updEng_mem (s : State) (c : Nat) (f : Engine → Engine) : (s.updEng c f).mem = s.mem := rfl
@[simp] theorem updEng_groups (s : State) (c : Nat) (f : Engine → Engine) : (s.updEng c f).groups = s.groups := rfl
@[simp] theorem updEng_wgs (s : State) (c : Nat) (f : Engine → Engine) : (s.updEng c f).wgs = s.wgs := rfl
@[simp] theorem updEng_cores (s : State) (c : Nat) (f : Engine → Engine) : (s.updEng c f).cores = s.cores := rfl
@[simp] theorem updEng_banks (s : State) (c : Nat) (f : Engine → Engine) : (s.updEng c f).banks = s.banks := rfl
@[simp] theorem updEng_ops (s : State) (c : Nat) (f : Engine → Engine) : (s.updEng c f).ops = s.ops := rfl
@[simp] theorem updEng_holds (s : State) (c : Nat) (f : Engine → Engine) : (s.updEng c f).holds = s.holds := rfl
@[simp] theorem updEng_ctxs (s : State) (c : Nat) (f : Engine → Engine) : (s.updEng c f).ctxs = s.ctxs := rfl
@[simp] theorem updEng_fns (s : State) (c : Nat) (f : Engine → Engine) : (s.updEng c f).fns = s.fns := rfl
@[simp] theorem updEng_packets (s : State) (c : Nat) (f : Engine → Engine) : (s.updEng c f).packets = s.packets := rfl
@[simp] theorem updEng_launches (s : State) (c : Nat) (f : Engine → Engine) : (s.updEng c f).launches = s.launches := rfl
@[simp] theorem updEng_graphs (s : State) (c : Nat) (f : Engine → Engine) : (s.updEng c f).graphs = s.graphs := rfl
@[simp] theorem updEng_phases (s : State) (c : Nat) (f : Engine → Engine) : (s.updEng c f).phases = s.phases := rfl
@[simp] theorem updEng_jobs (s : State) (c : Nat) (f : Engine → Engine) : (s.updEng c f).jobs = s.jobs := rfl
@[simp] theorem updEng_tlb (s : State) (c : Nat) (f : Engine → Engine) : (s.updEng c f).tlb = s.tlb := rfl
@[simp] theorem updEng_owner (s : State) (c : Nat) (f : Engine → Engine) : (s.updEng c f).owner = s.owner := rfl
@[simp] theorem updEng_markX (s : State) (c : Nat) (f : Engine → Engine) : (s.updEng c f).markX = s.markX := rfl
@[simp] theorem updEng_markW (s : State) (c : Nat) (f : Engine → Engine) : (s.updEng c f).markW = s.markW := rfl
@[simp] theorem updEng_bias (s : State) (c : Nat) (f : Engine → Engine) : (s.updEng c f).bias = s.bias := rfl
@[simp] theorem updEng_homes (s : State) (c : Nat) (f : Engine → Engine) : (s.updEng c f).homes = s.homes := rfl
@[simp] theorem updEng_badMac (s : State) (c : Nat) (f : Engine → Engine) : (s.updEng c f).badMac = s.badMac := rfl
@[simp] theorem updEng_badNode (s : State) (c : Nat) (f : Engine → Engine) : (s.updEng c f).badNode = s.badNode := rfl
@[simp] theorem updEng_worlds (s : State) (c : Nat) (f : Engine → Engine) : (s.updEng c f).worlds = s.worlds := rfl
@[simp] theorem updEng_fw (s : State) (c : Nat) (f : Engine → Engine) : (s.updEng c f).fw = s.fw := rfl
@[simp] theorem updEng_moves (s : State) (c : Nat) (f : Engine → Engine) : (s.updEng c f).moves = s.moves := rfl
@[simp] theorem updEng_switches (s : State) (c : Nat) (f : Engine → Engine) : (s.updEng c f).switches = s.switches := rfl
@[simp] theorem updEng_rungs (s : State) (c : Nat) (f : Engine → Engine) : (s.updEng c f).rungs = s.rungs := rfl
@[simp] theorem updEng_dev (s : State) (c : Nat) (f : Engine → Engine) : (s.updEng c f).dev = s.dev := rfl
@[simp] theorem updEng_fcode (s : State) (c : Nat) (f : Engine → Engine) : (s.updEng c f).fcode = s.fcode := rfl
@[simp] theorem updEng_mgmt (s : State) (c : Nat) (f : Engine → Engine) : (s.updEng c f).mgmt = s.mgmt := rfl
@[simp] theorem updEng_att (s : State) (c : Nat) (f : Engine → Engine) : (s.updEng c f).att = s.att := rfl
@[simp] theorem updEng_recimg (s : State) (c : Nat) (f : Engine → Engine) : (s.updEng c f).recimg = s.recimg := rfl
@[simp] theorem updEng_flash (s : State) (c : Nat) (f : Engine → Engine) : (s.updEng c f).flash = s.flash := rfl
@[simp] theorem updEng_age (s : State) (c : Nat) (f : Engine → Engine) : (s.updEng c f).age = s.age := rfl
@[simp] theorem updEng_targeth (s : State) (c : Nat) (f : Engine → Engine) : (s.updEng c f).targeth = s.targeth := rfl
@[simp] theorem updEng_targethNext (s : State) (c : Nat) (f : Engine → Engine) : (s.updEng c f).targethNext = s.targethNext := rfl
@[simp] theorem updEng_wear (s : State) (c : Nat) (f : Engine → Engine) : (s.updEng c f).wear = s.wear := rfl
@[simp] theorem updEng_wearAt (s : State) (c : Nat) (f : Engine → Engine) : (s.updEng c f).wearAt = s.wearAt := rfl
@[simp] theorem updEng_windowAge (s : State) (c : Nat) (f : Engine → Engine) : (s.updEng c f).windowAge = s.windowAge := rfl
@[simp] theorem updEng_spareOf (s : State) (c : Nat) (f : Engine → Engine) : (s.updEng c f).spareOf = s.spareOf := rfl
@[simp] theorem updEng_ckptA (s : State) (c : Nat) (f : Engine → Engine) : (s.updEng c f).ckptA = s.ckptA := rfl
@[simp] theorem updEng_ckptB (s : State) (c : Nat) (f : Engine → Engine) : (s.updEng c f).ckptB = s.ckptB := rfl
@[simp] theorem updEng_vbs (s : State) (c : Nat) (f : Engine → Engine) : (s.updEng c f).vbs = s.vbs := rfl
@[simp] theorem updEng_lostDies (s : State) (c : Nat) (f : Engine → Engine) : (s.updEng c f).lostDies = s.lostDies := rfl
@[simp] theorem updEng_repairs (s : State) (c : Nat) (f : Engine → Engine) : (s.updEng c f).repairs = s.repairs := rfl
@[simp] theorem updEng_selfid (s : State) (c : Nat) (f : Engine → Engine) : (s.updEng c f).selfid = s.selfid := rfl
@[simp] theorem updEng_routes (s : State) (c : Nat) (f : Engine → Engine) : (s.updEng c f).routes = s.routes := rfl
@[simp] theorem updEng_links (s : State) (c : Nat) (f : Engine → Engine) : (s.updEng c f).links = s.links := rfl
@[simp] theorem updEng_peerOut (s : State) (c : Nat) (f : Engine → Engine) : (s.updEng c f).peerOut = s.peerOut := rfl
@[simp] theorem updEng_peerIn (s : State) (c : Nat) (f : Engine → Engine) : (s.updEng c f).peerIn = s.peerIn := rfl
@[simp] theorem updEng_hostData (s : State) (c : Nat) (f : Engine → Engine) : (s.updEng c f).hostData = s.hostData := rfl
@[simp] theorem updEng_hostRefused (s : State) (c : Nat) (f : Engine → Engine) : (s.updEng c f).hostRefused = s.hostRefused := rfl
@[simp] theorem updEng_peerAns (s : State) (c : Nat) (f : Engine → Engine) : (s.updEng c f).peerAns = s.peerAns := rfl
@[simp] theorem updEng_got (s : State) (c : Nat) (f : Engine → Engine) : (s.updEng c f).got = s.got := rfl
@[simp] theorem updEng_asker (s : State) (c : Nat) (f : Engine → Engine) : (s.updEng c f).asker = s.asker := rfl
@[simp] theorem updEng_wants (s : State) (c : Nat) (f : Engine → Engine) : (s.updEng c f).wants = s.wants := rfl
@[simp] theorem updEng_toPeers (s : State) (c : Nat) (f : Engine → Engine) : (s.updEng c f).toPeers = s.toPeers := rfl
@[simp] theorem updEng_locks (s : State) (c : Nat) (f : Engine → Engine) : (s.updEng c f).locks = s.locks := rfl
@[simp] theorem updEng_moving (s : State) (c : Nat) (f : Engine → Engine) : (s.updEng c f).moving = s.moving := rfl
@[simp] theorem updEng_heldBack (s : State) (c : Nat) (f : Engine → Engine) : (s.updEng c f).heldBack = s.heldBack := rfl
@[simp] theorem updEng_hostLines (s : State) (c : Nat) (f : Engine → Engine) : (s.updEng c f).hostLines = s.hostLines := rfl
@[simp] theorem updEng_l2 (s : State) (c : Nat) (f : Engine → Engine) : (s.updEng c f).l2 = s.l2 := rfl
@[simp] theorem updEng_hubc (s : State) (c : Nat) (f : Engine → Engine) : (s.updEng c f).hubc = s.hubc := rfl
@[simp] theorem updEng_dieAcq (s : State) (c : Nat) (f : Engine → Engine) : (s.updEng c f).dieAcq = s.dieAcq := rfl
@[simp] theorem updEng_fmtPend (s : State) (c : Nat) (f : Engine → Engine) : (s.updEng c f).fmtPend = s.fmtPend := rfl
@[simp] theorem updEng_ctrs (s : State) (c : Nat) (f : Engine → Engine) : (s.updEng c f).ctrs = s.ctrs := rfl
@[simp] theorem updEng_frameCtrs (s : State) (c : Nat) (f : Engine → Engine) : (s.updEng c f).frameCtrs = s.frameCtrs := rfl
@[simp] theorem updEng_mdc (s : State) (c : Nat) (f : Engine → Engine) : (s.updEng c f).mdc = s.mdc := rfl
@[simp] theorem updEng_enqBy (s : State) (c : Nat) (f : Engine → Engine) : (s.updEng c f).enqBy = s.enqBy := rfl
@[simp] theorem updEng_failed (s : State) (c : Nat) (f : Engine → Engine) : (s.updEng c f).failed = s.failed := rfl
@[simp] theorem updEng_nodeMet (s : State) (c : Nat) (f : Engine → Engine) : (s.updEng c f).nodeMet = s.nodeMet := rfl

/-! ### `updCtx` changes `ctxs` -/

theorem updCtx_frame (s : State) (fn c : Nat) (f : Context → Context) : { s.updCtx fn c f with ctxs := s.ctxs } = s := by unfold State.updCtx; split <;> rfl
@[simp] theorem updCtx_inputs (s : State) (fn c : Nat) (f : Context → Context) : (s.updCtx fn c f).inputs = s.inputs := (congrArg State.inputs (updCtx_frame s fn c f) :)
@[simp] theorem updCtx_brought (s : State) (fn c : Nat) (f : Context → Context) : (s.updCtx fn c f).brought = s.brought := (congrArg State.brought (updCtx_frame s fn c f) :)
@[simp] theorem updCtx_turns (s : State) (fn c : Nat) (f : Context → Context) : (s.updCtx fn c f).turns = s.turns := (congrArg State.turns (updCtx_frame s fn c f) :)
@[simp] theorem updCtx_draw (s : State) (fn c : Nat) (f : Context → Context) : (s.updCtx fn c f).draw = s.draw := (congrArg State.draw (updCtx_frame s fn c f) :)
@[simp] theorem updCtx_tick (s : State) (fn c : Nat) (f : Context → Context) : (s.updCtx fn c f).tick = s.tick := (congrArg State.tick (updCtx_frame s fn c f) :)
@[simp] theorem updCtx_cur (s : State) (fn c : Nat) (f : Context → Context) : (s.updCtx fn c f).cur = s.cur := (congrArg State.cur (updCtx_frame s fn c f) :)
@[simp] theorem updCtx_nextSub (s : State) (fn c : Nat) (f : Context → Context) : (s.updCtx fn c f).nextSub = s.nextSub := (congrArg State.nextSub (updCtx_frame s fn c f) :)
@[simp] theorem updCtx_issued (s : State) (fn c : Nat) (f : Context → Context) : (s.updCtx fn c f).issued = s.issued := (congrArg State.issued (updCtx_frame s fn c f) :)
@[simp] theorem updCtx_mem (s : State) (fn c : Nat) (f : Context → Context) : (s.updCtx fn c f).mem = s.mem := (congrArg State.mem (updCtx_frame s fn c f) :)
@[simp] theorem updCtx_groups (s : State) (fn c : Nat) (f : Context → Context) : (s.updCtx fn c f).groups = s.groups := (congrArg State.groups (updCtx_frame s fn c f) :)
@[simp] theorem updCtx_wgs (s : State) (fn c : Nat) (f : Context → Context) : (s.updCtx fn c f).wgs = s.wgs := (congrArg State.wgs (updCtx_frame s fn c f) :)
@[simp] theorem updCtx_cores (s : State) (fn c : Nat) (f : Context → Context) : (s.updCtx fn c f).cores = s.cores := (congrArg State.cores (updCtx_frame s fn c f) :)
@[simp] theorem updCtx_banks (s : State) (fn c : Nat) (f : Context → Context) : (s.updCtx fn c f).banks = s.banks := (congrArg State.banks (updCtx_frame s fn c f) :)
@[simp] theorem updCtx_engines (s : State) (fn c : Nat) (f : Context → Context) : (s.updCtx fn c f).engines = s.engines := (congrArg State.engines (updCtx_frame s fn c f) :)
@[simp] theorem updCtx_ops (s : State) (fn c : Nat) (f : Context → Context) : (s.updCtx fn c f).ops = s.ops := (congrArg State.ops (updCtx_frame s fn c f) :)
@[simp] theorem updCtx_holds (s : State) (fn c : Nat) (f : Context → Context) : (s.updCtx fn c f).holds = s.holds := (congrArg State.holds (updCtx_frame s fn c f) :)
@[simp] theorem updCtx_fns (s : State) (fn c : Nat) (f : Context → Context) : (s.updCtx fn c f).fns = s.fns := (congrArg State.fns (updCtx_frame s fn c f) :)
@[simp] theorem updCtx_packets (s : State) (fn c : Nat) (f : Context → Context) : (s.updCtx fn c f).packets = s.packets := (congrArg State.packets (updCtx_frame s fn c f) :)
@[simp] theorem updCtx_launches (s : State) (fn c : Nat) (f : Context → Context) : (s.updCtx fn c f).launches = s.launches := (congrArg State.launches (updCtx_frame s fn c f) :)
@[simp] theorem updCtx_graphs (s : State) (fn c : Nat) (f : Context → Context) : (s.updCtx fn c f).graphs = s.graphs := (congrArg State.graphs (updCtx_frame s fn c f) :)
@[simp] theorem updCtx_phases (s : State) (fn c : Nat) (f : Context → Context) : (s.updCtx fn c f).phases = s.phases := (congrArg State.phases (updCtx_frame s fn c f) :)
@[simp] theorem updCtx_jobs (s : State) (fn c : Nat) (f : Context → Context) : (s.updCtx fn c f).jobs = s.jobs := (congrArg State.jobs (updCtx_frame s fn c f) :)
@[simp] theorem updCtx_tlb (s : State) (fn c : Nat) (f : Context → Context) : (s.updCtx fn c f).tlb = s.tlb := (congrArg State.tlb (updCtx_frame s fn c f) :)
@[simp] theorem updCtx_owner (s : State) (fn c : Nat) (f : Context → Context) : (s.updCtx fn c f).owner = s.owner := (congrArg State.owner (updCtx_frame s fn c f) :)
@[simp] theorem updCtx_markX (s : State) (fn c : Nat) (f : Context → Context) : (s.updCtx fn c f).markX = s.markX := (congrArg State.markX (updCtx_frame s fn c f) :)
@[simp] theorem updCtx_markW (s : State) (fn c : Nat) (f : Context → Context) : (s.updCtx fn c f).markW = s.markW := (congrArg State.markW (updCtx_frame s fn c f) :)
@[simp] theorem updCtx_bias (s : State) (fn c : Nat) (f : Context → Context) : (s.updCtx fn c f).bias = s.bias := (congrArg State.bias (updCtx_frame s fn c f) :)
@[simp] theorem updCtx_homes (s : State) (fn c : Nat) (f : Context → Context) : (s.updCtx fn c f).homes = s.homes := (congrArg State.homes (updCtx_frame s fn c f) :)
@[simp] theorem updCtx_badMac (s : State) (fn c : Nat) (f : Context → Context) : (s.updCtx fn c f).badMac = s.badMac := (congrArg State.badMac (updCtx_frame s fn c f) :)
@[simp] theorem updCtx_badNode (s : State) (fn c : Nat) (f : Context → Context) : (s.updCtx fn c f).badNode = s.badNode := (congrArg State.badNode (updCtx_frame s fn c f) :)
@[simp] theorem updCtx_worlds (s : State) (fn c : Nat) (f : Context → Context) : (s.updCtx fn c f).worlds = s.worlds := (congrArg State.worlds (updCtx_frame s fn c f) :)
@[simp] theorem updCtx_fw (s : State) (fn c : Nat) (f : Context → Context) : (s.updCtx fn c f).fw = s.fw := (congrArg State.fw (updCtx_frame s fn c f) :)
@[simp] theorem updCtx_moves (s : State) (fn c : Nat) (f : Context → Context) : (s.updCtx fn c f).moves = s.moves := (congrArg State.moves (updCtx_frame s fn c f) :)
@[simp] theorem updCtx_switches (s : State) (fn c : Nat) (f : Context → Context) : (s.updCtx fn c f).switches = s.switches := (congrArg State.switches (updCtx_frame s fn c f) :)
@[simp] theorem updCtx_rungs (s : State) (fn c : Nat) (f : Context → Context) : (s.updCtx fn c f).rungs = s.rungs := (congrArg State.rungs (updCtx_frame s fn c f) :)
@[simp] theorem updCtx_dev (s : State) (fn c : Nat) (f : Context → Context) : (s.updCtx fn c f).dev = s.dev := (congrArg State.dev (updCtx_frame s fn c f) :)
@[simp] theorem updCtx_fcode (s : State) (fn c : Nat) (f : Context → Context) : (s.updCtx fn c f).fcode = s.fcode := (congrArg State.fcode (updCtx_frame s fn c f) :)
@[simp] theorem updCtx_mgmt (s : State) (fn c : Nat) (f : Context → Context) : (s.updCtx fn c f).mgmt = s.mgmt := (congrArg State.mgmt (updCtx_frame s fn c f) :)
@[simp] theorem updCtx_att (s : State) (fn c : Nat) (f : Context → Context) : (s.updCtx fn c f).att = s.att := (congrArg State.att (updCtx_frame s fn c f) :)
@[simp] theorem updCtx_recimg (s : State) (fn c : Nat) (f : Context → Context) : (s.updCtx fn c f).recimg = s.recimg := (congrArg State.recimg (updCtx_frame s fn c f) :)
@[simp] theorem updCtx_flash (s : State) (fn c : Nat) (f : Context → Context) : (s.updCtx fn c f).flash = s.flash := (congrArg State.flash (updCtx_frame s fn c f) :)
@[simp] theorem updCtx_age (s : State) (fn c : Nat) (f : Context → Context) : (s.updCtx fn c f).age = s.age := (congrArg State.age (updCtx_frame s fn c f) :)
@[simp] theorem updCtx_targeth (s : State) (fn c : Nat) (f : Context → Context) : (s.updCtx fn c f).targeth = s.targeth := (congrArg State.targeth (updCtx_frame s fn c f) :)
@[simp] theorem updCtx_targethNext (s : State) (fn c : Nat) (f : Context → Context) : (s.updCtx fn c f).targethNext = s.targethNext := (congrArg State.targethNext (updCtx_frame s fn c f) :)
@[simp] theorem updCtx_wear (s : State) (fn c : Nat) (f : Context → Context) : (s.updCtx fn c f).wear = s.wear := (congrArg State.wear (updCtx_frame s fn c f) :)
@[simp] theorem updCtx_wearAt (s : State) (fn c : Nat) (f : Context → Context) : (s.updCtx fn c f).wearAt = s.wearAt := (congrArg State.wearAt (updCtx_frame s fn c f) :)
@[simp] theorem updCtx_windowAge (s : State) (fn c : Nat) (f : Context → Context) : (s.updCtx fn c f).windowAge = s.windowAge := (congrArg State.windowAge (updCtx_frame s fn c f) :)
@[simp] theorem updCtx_spareOf (s : State) (fn c : Nat) (f : Context → Context) : (s.updCtx fn c f).spareOf = s.spareOf := (congrArg State.spareOf (updCtx_frame s fn c f) :)
@[simp] theorem updCtx_ckptA (s : State) (fn c : Nat) (f : Context → Context) : (s.updCtx fn c f).ckptA = s.ckptA := (congrArg State.ckptA (updCtx_frame s fn c f) :)
@[simp] theorem updCtx_ckptB (s : State) (fn c : Nat) (f : Context → Context) : (s.updCtx fn c f).ckptB = s.ckptB := (congrArg State.ckptB (updCtx_frame s fn c f) :)
@[simp] theorem updCtx_vbs (s : State) (fn c : Nat) (f : Context → Context) : (s.updCtx fn c f).vbs = s.vbs := (congrArg State.vbs (updCtx_frame s fn c f) :)
@[simp] theorem updCtx_lostDies (s : State) (fn c : Nat) (f : Context → Context) : (s.updCtx fn c f).lostDies = s.lostDies := (congrArg State.lostDies (updCtx_frame s fn c f) :)
@[simp] theorem updCtx_repairs (s : State) (fn c : Nat) (f : Context → Context) : (s.updCtx fn c f).repairs = s.repairs := (congrArg State.repairs (updCtx_frame s fn c f) :)
@[simp] theorem updCtx_selfid (s : State) (fn c : Nat) (f : Context → Context) : (s.updCtx fn c f).selfid = s.selfid := (congrArg State.selfid (updCtx_frame s fn c f) :)
@[simp] theorem updCtx_routes (s : State) (fn c : Nat) (f : Context → Context) : (s.updCtx fn c f).routes = s.routes := (congrArg State.routes (updCtx_frame s fn c f) :)
@[simp] theorem updCtx_links (s : State) (fn c : Nat) (f : Context → Context) : (s.updCtx fn c f).links = s.links := (congrArg State.links (updCtx_frame s fn c f) :)
@[simp] theorem updCtx_peerOut (s : State) (fn c : Nat) (f : Context → Context) : (s.updCtx fn c f).peerOut = s.peerOut := (congrArg State.peerOut (updCtx_frame s fn c f) :)
@[simp] theorem updCtx_peerIn (s : State) (fn c : Nat) (f : Context → Context) : (s.updCtx fn c f).peerIn = s.peerIn := (congrArg State.peerIn (updCtx_frame s fn c f) :)
@[simp] theorem updCtx_hostData (s : State) (fn c : Nat) (f : Context → Context) : (s.updCtx fn c f).hostData = s.hostData := (congrArg State.hostData (updCtx_frame s fn c f) :)
@[simp] theorem updCtx_hostRefused (s : State) (fn c : Nat) (f : Context → Context) : (s.updCtx fn c f).hostRefused = s.hostRefused := (congrArg State.hostRefused (updCtx_frame s fn c f) :)
@[simp] theorem updCtx_peerAns (s : State) (fn c : Nat) (f : Context → Context) : (s.updCtx fn c f).peerAns = s.peerAns := (congrArg State.peerAns (updCtx_frame s fn c f) :)
@[simp] theorem updCtx_got (s : State) (fn c : Nat) (f : Context → Context) : (s.updCtx fn c f).got = s.got := (congrArg State.got (updCtx_frame s fn c f) :)
@[simp] theorem updCtx_asker (s : State) (fn c : Nat) (f : Context → Context) : (s.updCtx fn c f).asker = s.asker := (congrArg State.asker (updCtx_frame s fn c f) :)
@[simp] theorem updCtx_wants (s : State) (fn c : Nat) (f : Context → Context) : (s.updCtx fn c f).wants = s.wants := (congrArg State.wants (updCtx_frame s fn c f) :)
@[simp] theorem updCtx_toPeers (s : State) (fn c : Nat) (f : Context → Context) : (s.updCtx fn c f).toPeers = s.toPeers := (congrArg State.toPeers (updCtx_frame s fn c f) :)
@[simp] theorem updCtx_locks (s : State) (fn c : Nat) (f : Context → Context) : (s.updCtx fn c f).locks = s.locks := (congrArg State.locks (updCtx_frame s fn c f) :)
@[simp] theorem updCtx_moving (s : State) (fn c : Nat) (f : Context → Context) : (s.updCtx fn c f).moving = s.moving := (congrArg State.moving (updCtx_frame s fn c f) :)
@[simp] theorem updCtx_heldBack (s : State) (fn c : Nat) (f : Context → Context) : (s.updCtx fn c f).heldBack = s.heldBack := (congrArg State.heldBack (updCtx_frame s fn c f) :)
@[simp] theorem updCtx_hostLines (s : State) (fn c : Nat) (f : Context → Context) : (s.updCtx fn c f).hostLines = s.hostLines := (congrArg State.hostLines (updCtx_frame s fn c f) :)
@[simp] theorem updCtx_l2 (s : State) (fn c : Nat) (f : Context → Context) : (s.updCtx fn c f).l2 = s.l2 := (congrArg State.l2 (updCtx_frame s fn c f) :)
@[simp] theorem updCtx_hubc (s : State) (fn c : Nat) (f : Context → Context) : (s.updCtx fn c f).hubc = s.hubc := (congrArg State.hubc (updCtx_frame s fn c f) :)
@[simp] theorem updCtx_dieAcq (s : State) (fn c : Nat) (f : Context → Context) : (s.updCtx fn c f).dieAcq = s.dieAcq := (congrArg State.dieAcq (updCtx_frame s fn c f) :)
@[simp] theorem updCtx_fmtPend (s : State) (fn c : Nat) (f : Context → Context) : (s.updCtx fn c f).fmtPend = s.fmtPend := (congrArg State.fmtPend (updCtx_frame s fn c f) :)
@[simp] theorem updCtx_ctrs (s : State) (fn c : Nat) (f : Context → Context) : (s.updCtx fn c f).ctrs = s.ctrs := (congrArg State.ctrs (updCtx_frame s fn c f) :)
@[simp] theorem updCtx_frameCtrs (s : State) (fn c : Nat) (f : Context → Context) : (s.updCtx fn c f).frameCtrs = s.frameCtrs := (congrArg State.frameCtrs (updCtx_frame s fn c f) :)
@[simp] theorem updCtx_mdc (s : State) (fn c : Nat) (f : Context → Context) : (s.updCtx fn c f).mdc = s.mdc := (congrArg State.mdc (updCtx_frame s fn c f) :)
@[simp] theorem updCtx_enqBy (s : State) (fn c : Nat) (f : Context → Context) : (s.updCtx fn c f).enqBy = s.enqBy := (congrArg State.enqBy (updCtx_frame s fn c f) :)
@[simp] theorem updCtx_failed (s : State) (fn c : Nat) (f : Context → Context) : (s.updCtx fn c f).failed = s.failed := (congrArg State.failed (updCtx_frame s fn c f) :)
@[simp] theorem updCtx_nodeMet (s : State) (fn c : Nat) (f : Context → Context) : (s.updCtx fn c f).nodeMet = s.nodeMet := (congrArg State.nodeMet (updCtx_frame s fn c f) :)

/-! ### `updFn` changes `fns` -/

theorem updFn_frame (s : State) (fn : Nat) (f : Func → Func) : { s.updFn fn f with fns := s.fns } = s := by unfold State.updFn; split <;> rfl
@[simp] theorem updFn_inputs (s : State) (fn : Nat) (f : Func → Func) : (s.updFn fn f).inputs = s.inputs := (congrArg State.inputs (updFn_frame s fn f) :)
@[simp] theorem updFn_brought (s : State) (fn : Nat) (f : Func → Func) : (s.updFn fn f).brought = s.brought := (congrArg State.brought (updFn_frame s fn f) :)
@[simp] theorem updFn_turns (s : State) (fn : Nat) (f : Func → Func) : (s.updFn fn f).turns = s.turns := (congrArg State.turns (updFn_frame s fn f) :)
@[simp] theorem updFn_draw (s : State) (fn : Nat) (f : Func → Func) : (s.updFn fn f).draw = s.draw := (congrArg State.draw (updFn_frame s fn f) :)
@[simp] theorem updFn_tick (s : State) (fn : Nat) (f : Func → Func) : (s.updFn fn f).tick = s.tick := (congrArg State.tick (updFn_frame s fn f) :)
@[simp] theorem updFn_cur (s : State) (fn : Nat) (f : Func → Func) : (s.updFn fn f).cur = s.cur := (congrArg State.cur (updFn_frame s fn f) :)
@[simp] theorem updFn_nextSub (s : State) (fn : Nat) (f : Func → Func) : (s.updFn fn f).nextSub = s.nextSub := (congrArg State.nextSub (updFn_frame s fn f) :)
@[simp] theorem updFn_issued (s : State) (fn : Nat) (f : Func → Func) : (s.updFn fn f).issued = s.issued := (congrArg State.issued (updFn_frame s fn f) :)
@[simp] theorem updFn_mem (s : State) (fn : Nat) (f : Func → Func) : (s.updFn fn f).mem = s.mem := (congrArg State.mem (updFn_frame s fn f) :)
@[simp] theorem updFn_groups (s : State) (fn : Nat) (f : Func → Func) : (s.updFn fn f).groups = s.groups := (congrArg State.groups (updFn_frame s fn f) :)
@[simp] theorem updFn_wgs (s : State) (fn : Nat) (f : Func → Func) : (s.updFn fn f).wgs = s.wgs := (congrArg State.wgs (updFn_frame s fn f) :)
@[simp] theorem updFn_cores (s : State) (fn : Nat) (f : Func → Func) : (s.updFn fn f).cores = s.cores := (congrArg State.cores (updFn_frame s fn f) :)
@[simp] theorem updFn_banks (s : State) (fn : Nat) (f : Func → Func) : (s.updFn fn f).banks = s.banks := (congrArg State.banks (updFn_frame s fn f) :)
@[simp] theorem updFn_engines (s : State) (fn : Nat) (f : Func → Func) : (s.updFn fn f).engines = s.engines := (congrArg State.engines (updFn_frame s fn f) :)
@[simp] theorem updFn_ops (s : State) (fn : Nat) (f : Func → Func) : (s.updFn fn f).ops = s.ops := (congrArg State.ops (updFn_frame s fn f) :)
@[simp] theorem updFn_holds (s : State) (fn : Nat) (f : Func → Func) : (s.updFn fn f).holds = s.holds := (congrArg State.holds (updFn_frame s fn f) :)
@[simp] theorem updFn_ctxs (s : State) (fn : Nat) (f : Func → Func) : (s.updFn fn f).ctxs = s.ctxs := (congrArg State.ctxs (updFn_frame s fn f) :)
@[simp] theorem updFn_packets (s : State) (fn : Nat) (f : Func → Func) : (s.updFn fn f).packets = s.packets := (congrArg State.packets (updFn_frame s fn f) :)
@[simp] theorem updFn_launches (s : State) (fn : Nat) (f : Func → Func) : (s.updFn fn f).launches = s.launches := (congrArg State.launches (updFn_frame s fn f) :)
@[simp] theorem updFn_graphs (s : State) (fn : Nat) (f : Func → Func) : (s.updFn fn f).graphs = s.graphs := (congrArg State.graphs (updFn_frame s fn f) :)
@[simp] theorem updFn_phases (s : State) (fn : Nat) (f : Func → Func) : (s.updFn fn f).phases = s.phases := (congrArg State.phases (updFn_frame s fn f) :)
@[simp] theorem updFn_jobs (s : State) (fn : Nat) (f : Func → Func) : (s.updFn fn f).jobs = s.jobs := (congrArg State.jobs (updFn_frame s fn f) :)
@[simp] theorem updFn_tlb (s : State) (fn : Nat) (f : Func → Func) : (s.updFn fn f).tlb = s.tlb := (congrArg State.tlb (updFn_frame s fn f) :)
@[simp] theorem updFn_owner (s : State) (fn : Nat) (f : Func → Func) : (s.updFn fn f).owner = s.owner := (congrArg State.owner (updFn_frame s fn f) :)
@[simp] theorem updFn_markX (s : State) (fn : Nat) (f : Func → Func) : (s.updFn fn f).markX = s.markX := (congrArg State.markX (updFn_frame s fn f) :)
@[simp] theorem updFn_markW (s : State) (fn : Nat) (f : Func → Func) : (s.updFn fn f).markW = s.markW := (congrArg State.markW (updFn_frame s fn f) :)
@[simp] theorem updFn_bias (s : State) (fn : Nat) (f : Func → Func) : (s.updFn fn f).bias = s.bias := (congrArg State.bias (updFn_frame s fn f) :)
@[simp] theorem updFn_homes (s : State) (fn : Nat) (f : Func → Func) : (s.updFn fn f).homes = s.homes := (congrArg State.homes (updFn_frame s fn f) :)
@[simp] theorem updFn_badMac (s : State) (fn : Nat) (f : Func → Func) : (s.updFn fn f).badMac = s.badMac := (congrArg State.badMac (updFn_frame s fn f) :)
@[simp] theorem updFn_badNode (s : State) (fn : Nat) (f : Func → Func) : (s.updFn fn f).badNode = s.badNode := (congrArg State.badNode (updFn_frame s fn f) :)
@[simp] theorem updFn_worlds (s : State) (fn : Nat) (f : Func → Func) : (s.updFn fn f).worlds = s.worlds := (congrArg State.worlds (updFn_frame s fn f) :)
@[simp] theorem updFn_fw (s : State) (fn : Nat) (f : Func → Func) : (s.updFn fn f).fw = s.fw := (congrArg State.fw (updFn_frame s fn f) :)
@[simp] theorem updFn_moves (s : State) (fn : Nat) (f : Func → Func) : (s.updFn fn f).moves = s.moves := (congrArg State.moves (updFn_frame s fn f) :)
@[simp] theorem updFn_switches (s : State) (fn : Nat) (f : Func → Func) : (s.updFn fn f).switches = s.switches := (congrArg State.switches (updFn_frame s fn f) :)
@[simp] theorem updFn_rungs (s : State) (fn : Nat) (f : Func → Func) : (s.updFn fn f).rungs = s.rungs := (congrArg State.rungs (updFn_frame s fn f) :)
@[simp] theorem updFn_dev (s : State) (fn : Nat) (f : Func → Func) : (s.updFn fn f).dev = s.dev := (congrArg State.dev (updFn_frame s fn f) :)
@[simp] theorem updFn_fcode (s : State) (fn : Nat) (f : Func → Func) : (s.updFn fn f).fcode = s.fcode := (congrArg State.fcode (updFn_frame s fn f) :)
@[simp] theorem updFn_mgmt (s : State) (fn : Nat) (f : Func → Func) : (s.updFn fn f).mgmt = s.mgmt := (congrArg State.mgmt (updFn_frame s fn f) :)
@[simp] theorem updFn_att (s : State) (fn : Nat) (f : Func → Func) : (s.updFn fn f).att = s.att := (congrArg State.att (updFn_frame s fn f) :)
@[simp] theorem updFn_recimg (s : State) (fn : Nat) (f : Func → Func) : (s.updFn fn f).recimg = s.recimg := (congrArg State.recimg (updFn_frame s fn f) :)
@[simp] theorem updFn_flash (s : State) (fn : Nat) (f : Func → Func) : (s.updFn fn f).flash = s.flash := (congrArg State.flash (updFn_frame s fn f) :)
@[simp] theorem updFn_age (s : State) (fn : Nat) (f : Func → Func) : (s.updFn fn f).age = s.age := (congrArg State.age (updFn_frame s fn f) :)
@[simp] theorem updFn_targeth (s : State) (fn : Nat) (f : Func → Func) : (s.updFn fn f).targeth = s.targeth := (congrArg State.targeth (updFn_frame s fn f) :)
@[simp] theorem updFn_targethNext (s : State) (fn : Nat) (f : Func → Func) : (s.updFn fn f).targethNext = s.targethNext := (congrArg State.targethNext (updFn_frame s fn f) :)
@[simp] theorem updFn_wear (s : State) (fn : Nat) (f : Func → Func) : (s.updFn fn f).wear = s.wear := (congrArg State.wear (updFn_frame s fn f) :)
@[simp] theorem updFn_wearAt (s : State) (fn : Nat) (f : Func → Func) : (s.updFn fn f).wearAt = s.wearAt := (congrArg State.wearAt (updFn_frame s fn f) :)
@[simp] theorem updFn_windowAge (s : State) (fn : Nat) (f : Func → Func) : (s.updFn fn f).windowAge = s.windowAge := (congrArg State.windowAge (updFn_frame s fn f) :)
@[simp] theorem updFn_spareOf (s : State) (fn : Nat) (f : Func → Func) : (s.updFn fn f).spareOf = s.spareOf := (congrArg State.spareOf (updFn_frame s fn f) :)
@[simp] theorem updFn_ckptA (s : State) (fn : Nat) (f : Func → Func) : (s.updFn fn f).ckptA = s.ckptA := (congrArg State.ckptA (updFn_frame s fn f) :)
@[simp] theorem updFn_ckptB (s : State) (fn : Nat) (f : Func → Func) : (s.updFn fn f).ckptB = s.ckptB := (congrArg State.ckptB (updFn_frame s fn f) :)
@[simp] theorem updFn_vbs (s : State) (fn : Nat) (f : Func → Func) : (s.updFn fn f).vbs = s.vbs := (congrArg State.vbs (updFn_frame s fn f) :)
@[simp] theorem updFn_lostDies (s : State) (fn : Nat) (f : Func → Func) : (s.updFn fn f).lostDies = s.lostDies := (congrArg State.lostDies (updFn_frame s fn f) :)
@[simp] theorem updFn_repairs (s : State) (fn : Nat) (f : Func → Func) : (s.updFn fn f).repairs = s.repairs := (congrArg State.repairs (updFn_frame s fn f) :)
@[simp] theorem updFn_selfid (s : State) (fn : Nat) (f : Func → Func) : (s.updFn fn f).selfid = s.selfid := (congrArg State.selfid (updFn_frame s fn f) :)
@[simp] theorem updFn_routes (s : State) (fn : Nat) (f : Func → Func) : (s.updFn fn f).routes = s.routes := (congrArg State.routes (updFn_frame s fn f) :)
@[simp] theorem updFn_links (s : State) (fn : Nat) (f : Func → Func) : (s.updFn fn f).links = s.links := (congrArg State.links (updFn_frame s fn f) :)
@[simp] theorem updFn_peerOut (s : State) (fn : Nat) (f : Func → Func) : (s.updFn fn f).peerOut = s.peerOut := (congrArg State.peerOut (updFn_frame s fn f) :)
@[simp] theorem updFn_peerIn (s : State) (fn : Nat) (f : Func → Func) : (s.updFn fn f).peerIn = s.peerIn := (congrArg State.peerIn (updFn_frame s fn f) :)
@[simp] theorem updFn_hostData (s : State) (fn : Nat) (f : Func → Func) : (s.updFn fn f).hostData = s.hostData := (congrArg State.hostData (updFn_frame s fn f) :)
@[simp] theorem updFn_hostRefused (s : State) (fn : Nat) (f : Func → Func) : (s.updFn fn f).hostRefused = s.hostRefused := (congrArg State.hostRefused (updFn_frame s fn f) :)
@[simp] theorem updFn_peerAns (s : State) (fn : Nat) (f : Func → Func) : (s.updFn fn f).peerAns = s.peerAns := (congrArg State.peerAns (updFn_frame s fn f) :)
@[simp] theorem updFn_got (s : State) (fn : Nat) (f : Func → Func) : (s.updFn fn f).got = s.got := (congrArg State.got (updFn_frame s fn f) :)
@[simp] theorem updFn_asker (s : State) (fn : Nat) (f : Func → Func) : (s.updFn fn f).asker = s.asker := (congrArg State.asker (updFn_frame s fn f) :)
@[simp] theorem updFn_wants (s : State) (fn : Nat) (f : Func → Func) : (s.updFn fn f).wants = s.wants := (congrArg State.wants (updFn_frame s fn f) :)
@[simp] theorem updFn_toPeers (s : State) (fn : Nat) (f : Func → Func) : (s.updFn fn f).toPeers = s.toPeers := (congrArg State.toPeers (updFn_frame s fn f) :)
@[simp] theorem updFn_locks (s : State) (fn : Nat) (f : Func → Func) : (s.updFn fn f).locks = s.locks := (congrArg State.locks (updFn_frame s fn f) :)
@[simp] theorem updFn_moving (s : State) (fn : Nat) (f : Func → Func) : (s.updFn fn f).moving = s.moving := (congrArg State.moving (updFn_frame s fn f) :)
@[simp] theorem updFn_heldBack (s : State) (fn : Nat) (f : Func → Func) : (s.updFn fn f).heldBack = s.heldBack := (congrArg State.heldBack (updFn_frame s fn f) :)
@[simp] theorem updFn_hostLines (s : State) (fn : Nat) (f : Func → Func) : (s.updFn fn f).hostLines = s.hostLines := (congrArg State.hostLines (updFn_frame s fn f) :)
@[simp] theorem updFn_l2 (s : State) (fn : Nat) (f : Func → Func) : (s.updFn fn f).l2 = s.l2 := (congrArg State.l2 (updFn_frame s fn f) :)
@[simp] theorem updFn_hubc (s : State) (fn : Nat) (f : Func → Func) : (s.updFn fn f).hubc = s.hubc := (congrArg State.hubc (updFn_frame s fn f) :)
@[simp] theorem updFn_dieAcq (s : State) (fn : Nat) (f : Func → Func) : (s.updFn fn f).dieAcq = s.dieAcq := (congrArg State.dieAcq (updFn_frame s fn f) :)
@[simp] theorem updFn_fmtPend (s : State) (fn : Nat) (f : Func → Func) : (s.updFn fn f).fmtPend = s.fmtPend := (congrArg State.fmtPend (updFn_frame s fn f) :)
@[simp] theorem updFn_ctrs (s : State) (fn : Nat) (f : Func → Func) : (s.updFn fn f).ctrs = s.ctrs := (congrArg State.ctrs (updFn_frame s fn f) :)
@[simp] theorem updFn_frameCtrs (s : State) (fn : Nat) (f : Func → Func) : (s.updFn fn f).frameCtrs = s.frameCtrs := (congrArg State.frameCtrs (updFn_frame s fn f) :)
@[simp] theorem updFn_mdc (s : State) (fn : Nat) (f : Func → Func) : (s.updFn fn f).mdc = s.mdc := (congrArg State.mdc (updFn_frame s fn f) :)
@[simp] theorem updFn_enqBy (s : State) (fn : Nat) (f : Func → Func) : (s.updFn fn f).enqBy = s.enqBy := (congrArg State.enqBy (updFn_frame s fn f) :)
@[simp] theorem updFn_failed (s : State) (fn : Nat) (f : Func → Func) : (s.updFn fn f).failed = s.failed := (congrArg State.failed (updFn_frame s fn f) :)
@[simp] theorem updFn_nodeMet (s : State) (fn : Nat) (f : Func → Func) : (s.updFn fn f).nodeMet = s.nodeMet := (congrArg State.nodeMet (updFn_frame s fn f) :)

/-! ### `updLaunch` changes `launches` -/

theorem updLaunch_frame (s : State) (l : Nat) (f : Launch → Launch) : { s.updLaunch l f with launches := s.launches } = s := by unfold State.updLaunch; split <;> rfl
@[simp] theorem updLaunch_inputs (s : State) (l : Nat) (f : Launch → Launch) : (s.updLaunch l f).inputs = s.inputs := (congrArg State.inputs (updLaunch_frame s l f) :)
@[simp] theorem updLaunch_brought (s : State) (l : Nat) (f : Launch → Launch) : (s.updLaunch l f).brought = s.brought := (congrArg State.brought (updLaunch_frame s l f) :)
@[simp] theorem updLaunch_turns (s : State) (l : Nat) (f : Launch → Launch) : (s.updLaunch l f).turns = s.turns := (congrArg State.turns (updLaunch_frame s l f) :)
@[simp] theorem updLaunch_draw (s : State) (l : Nat) (f : Launch → Launch) : (s.updLaunch l f).draw = s.draw := (congrArg State.draw (updLaunch_frame s l f) :)
@[simp] theorem updLaunch_tick (s : State) (l : Nat) (f : Launch → Launch) : (s.updLaunch l f).tick = s.tick := (congrArg State.tick (updLaunch_frame s l f) :)
@[simp] theorem updLaunch_cur (s : State) (l : Nat) (f : Launch → Launch) : (s.updLaunch l f).cur = s.cur := (congrArg State.cur (updLaunch_frame s l f) :)
@[simp] theorem updLaunch_nextSub (s : State) (l : Nat) (f : Launch → Launch) : (s.updLaunch l f).nextSub = s.nextSub := (congrArg State.nextSub (updLaunch_frame s l f) :)
@[simp] theorem updLaunch_issued (s : State) (l : Nat) (f : Launch → Launch) : (s.updLaunch l f).issued = s.issued := (congrArg State.issued (updLaunch_frame s l f) :)
@[simp] theorem updLaunch_mem (s : State) (l : Nat) (f : Launch → Launch) : (s.updLaunch l f).mem = s.mem := (congrArg State.mem (updLaunch_frame s l f) :)
@[simp] theorem updLaunch_groups (s : State) (l : Nat) (f : Launch → Launch) : (s.updLaunch l f).groups = s.groups := (congrArg State.groups (updLaunch_frame s l f) :)
@[simp] theorem updLaunch_wgs (s : State) (l : Nat) (f : Launch → Launch) : (s.updLaunch l f).wgs = s.wgs := (congrArg State.wgs (updLaunch_frame s l f) :)
@[simp] theorem updLaunch_cores (s : State) (l : Nat) (f : Launch → Launch) : (s.updLaunch l f).cores = s.cores := (congrArg State.cores (updLaunch_frame s l f) :)
@[simp] theorem updLaunch_banks (s : State) (l : Nat) (f : Launch → Launch) : (s.updLaunch l f).banks = s.banks := (congrArg State.banks (updLaunch_frame s l f) :)
@[simp] theorem updLaunch_engines (s : State) (l : Nat) (f : Launch → Launch) : (s.updLaunch l f).engines = s.engines := (congrArg State.engines (updLaunch_frame s l f) :)
@[simp] theorem updLaunch_ops (s : State) (l : Nat) (f : Launch → Launch) : (s.updLaunch l f).ops = s.ops := (congrArg State.ops (updLaunch_frame s l f) :)
@[simp] theorem updLaunch_holds (s : State) (l : Nat) (f : Launch → Launch) : (s.updLaunch l f).holds = s.holds := (congrArg State.holds (updLaunch_frame s l f) :)
@[simp] theorem updLaunch_ctxs (s : State) (l : Nat) (f : Launch → Launch) : (s.updLaunch l f).ctxs = s.ctxs := (congrArg State.ctxs (updLaunch_frame s l f) :)
@[simp] theorem updLaunch_fns (s : State) (l : Nat) (f : Launch → Launch) : (s.updLaunch l f).fns = s.fns := (congrArg State.fns (updLaunch_frame s l f) :)
@[simp] theorem updLaunch_packets (s : State) (l : Nat) (f : Launch → Launch) : (s.updLaunch l f).packets = s.packets := (congrArg State.packets (updLaunch_frame s l f) :)
@[simp] theorem updLaunch_graphs (s : State) (l : Nat) (f : Launch → Launch) : (s.updLaunch l f).graphs = s.graphs := (congrArg State.graphs (updLaunch_frame s l f) :)
@[simp] theorem updLaunch_phases (s : State) (l : Nat) (f : Launch → Launch) : (s.updLaunch l f).phases = s.phases := (congrArg State.phases (updLaunch_frame s l f) :)
@[simp] theorem updLaunch_jobs (s : State) (l : Nat) (f : Launch → Launch) : (s.updLaunch l f).jobs = s.jobs := (congrArg State.jobs (updLaunch_frame s l f) :)
@[simp] theorem updLaunch_tlb (s : State) (l : Nat) (f : Launch → Launch) : (s.updLaunch l f).tlb = s.tlb := (congrArg State.tlb (updLaunch_frame s l f) :)
@[simp] theorem updLaunch_owner (s : State) (l : Nat) (f : Launch → Launch) : (s.updLaunch l f).owner = s.owner := (congrArg State.owner (updLaunch_frame s l f) :)
@[simp] theorem updLaunch_markX (s : State) (l : Nat) (f : Launch → Launch) : (s.updLaunch l f).markX = s.markX := (congrArg State.markX (updLaunch_frame s l f) :)
@[simp] theorem updLaunch_markW (s : State) (l : Nat) (f : Launch → Launch) : (s.updLaunch l f).markW = s.markW := (congrArg State.markW (updLaunch_frame s l f) :)
@[simp] theorem updLaunch_bias (s : State) (l : Nat) (f : Launch → Launch) : (s.updLaunch l f).bias = s.bias := (congrArg State.bias (updLaunch_frame s l f) :)
@[simp] theorem updLaunch_homes (s : State) (l : Nat) (f : Launch → Launch) : (s.updLaunch l f).homes = s.homes := (congrArg State.homes (updLaunch_frame s l f) :)
@[simp] theorem updLaunch_badMac (s : State) (l : Nat) (f : Launch → Launch) : (s.updLaunch l f).badMac = s.badMac := (congrArg State.badMac (updLaunch_frame s l f) :)
@[simp] theorem updLaunch_badNode (s : State) (l : Nat) (f : Launch → Launch) : (s.updLaunch l f).badNode = s.badNode := (congrArg State.badNode (updLaunch_frame s l f) :)
@[simp] theorem updLaunch_worlds (s : State) (l : Nat) (f : Launch → Launch) : (s.updLaunch l f).worlds = s.worlds := (congrArg State.worlds (updLaunch_frame s l f) :)
@[simp] theorem updLaunch_fw (s : State) (l : Nat) (f : Launch → Launch) : (s.updLaunch l f).fw = s.fw := (congrArg State.fw (updLaunch_frame s l f) :)
@[simp] theorem updLaunch_moves (s : State) (l : Nat) (f : Launch → Launch) : (s.updLaunch l f).moves = s.moves := (congrArg State.moves (updLaunch_frame s l f) :)
@[simp] theorem updLaunch_switches (s : State) (l : Nat) (f : Launch → Launch) : (s.updLaunch l f).switches = s.switches := (congrArg State.switches (updLaunch_frame s l f) :)
@[simp] theorem updLaunch_rungs (s : State) (l : Nat) (f : Launch → Launch) : (s.updLaunch l f).rungs = s.rungs := (congrArg State.rungs (updLaunch_frame s l f) :)
@[simp] theorem updLaunch_dev (s : State) (l : Nat) (f : Launch → Launch) : (s.updLaunch l f).dev = s.dev := (congrArg State.dev (updLaunch_frame s l f) :)
@[simp] theorem updLaunch_fcode (s : State) (l : Nat) (f : Launch → Launch) : (s.updLaunch l f).fcode = s.fcode := (congrArg State.fcode (updLaunch_frame s l f) :)
@[simp] theorem updLaunch_mgmt (s : State) (l : Nat) (f : Launch → Launch) : (s.updLaunch l f).mgmt = s.mgmt := (congrArg State.mgmt (updLaunch_frame s l f) :)
@[simp] theorem updLaunch_att (s : State) (l : Nat) (f : Launch → Launch) : (s.updLaunch l f).att = s.att := (congrArg State.att (updLaunch_frame s l f) :)
@[simp] theorem updLaunch_recimg (s : State) (l : Nat) (f : Launch → Launch) : (s.updLaunch l f).recimg = s.recimg := (congrArg State.recimg (updLaunch_frame s l f) :)
@[simp] theorem updLaunch_flash (s : State) (l : Nat) (f : Launch → Launch) : (s.updLaunch l f).flash = s.flash := (congrArg State.flash (updLaunch_frame s l f) :)
@[simp] theorem updLaunch_age (s : State) (l : Nat) (f : Launch → Launch) : (s.updLaunch l f).age = s.age := (congrArg State.age (updLaunch_frame s l f) :)
@[simp] theorem updLaunch_targeth (s : State) (l : Nat) (f : Launch → Launch) : (s.updLaunch l f).targeth = s.targeth := (congrArg State.targeth (updLaunch_frame s l f) :)
@[simp] theorem updLaunch_targethNext (s : State) (l : Nat) (f : Launch → Launch) : (s.updLaunch l f).targethNext = s.targethNext := (congrArg State.targethNext (updLaunch_frame s l f) :)
@[simp] theorem updLaunch_wear (s : State) (l : Nat) (f : Launch → Launch) : (s.updLaunch l f).wear = s.wear := (congrArg State.wear (updLaunch_frame s l f) :)
@[simp] theorem updLaunch_wearAt (s : State) (l : Nat) (f : Launch → Launch) : (s.updLaunch l f).wearAt = s.wearAt := (congrArg State.wearAt (updLaunch_frame s l f) :)
@[simp] theorem updLaunch_windowAge (s : State) (l : Nat) (f : Launch → Launch) : (s.updLaunch l f).windowAge = s.windowAge := (congrArg State.windowAge (updLaunch_frame s l f) :)
@[simp] theorem updLaunch_spareOf (s : State) (l : Nat) (f : Launch → Launch) : (s.updLaunch l f).spareOf = s.spareOf := (congrArg State.spareOf (updLaunch_frame s l f) :)
@[simp] theorem updLaunch_ckptA (s : State) (l : Nat) (f : Launch → Launch) : (s.updLaunch l f).ckptA = s.ckptA := (congrArg State.ckptA (updLaunch_frame s l f) :)
@[simp] theorem updLaunch_ckptB (s : State) (l : Nat) (f : Launch → Launch) : (s.updLaunch l f).ckptB = s.ckptB := (congrArg State.ckptB (updLaunch_frame s l f) :)
@[simp] theorem updLaunch_vbs (s : State) (l : Nat) (f : Launch → Launch) : (s.updLaunch l f).vbs = s.vbs := (congrArg State.vbs (updLaunch_frame s l f) :)
@[simp] theorem updLaunch_lostDies (s : State) (l : Nat) (f : Launch → Launch) : (s.updLaunch l f).lostDies = s.lostDies := (congrArg State.lostDies (updLaunch_frame s l f) :)
@[simp] theorem updLaunch_repairs (s : State) (l : Nat) (f : Launch → Launch) : (s.updLaunch l f).repairs = s.repairs := (congrArg State.repairs (updLaunch_frame s l f) :)
@[simp] theorem updLaunch_selfid (s : State) (l : Nat) (f : Launch → Launch) : (s.updLaunch l f).selfid = s.selfid := (congrArg State.selfid (updLaunch_frame s l f) :)
@[simp] theorem updLaunch_routes (s : State) (l : Nat) (f : Launch → Launch) : (s.updLaunch l f).routes = s.routes := (congrArg State.routes (updLaunch_frame s l f) :)
@[simp] theorem updLaunch_links (s : State) (l : Nat) (f : Launch → Launch) : (s.updLaunch l f).links = s.links := (congrArg State.links (updLaunch_frame s l f) :)
@[simp] theorem updLaunch_peerOut (s : State) (l : Nat) (f : Launch → Launch) : (s.updLaunch l f).peerOut = s.peerOut := (congrArg State.peerOut (updLaunch_frame s l f) :)
@[simp] theorem updLaunch_peerIn (s : State) (l : Nat) (f : Launch → Launch) : (s.updLaunch l f).peerIn = s.peerIn := (congrArg State.peerIn (updLaunch_frame s l f) :)
@[simp] theorem updLaunch_hostData (s : State) (l : Nat) (f : Launch → Launch) : (s.updLaunch l f).hostData = s.hostData := (congrArg State.hostData (updLaunch_frame s l f) :)
@[simp] theorem updLaunch_hostRefused (s : State) (l : Nat) (f : Launch → Launch) : (s.updLaunch l f).hostRefused = s.hostRefused := (congrArg State.hostRefused (updLaunch_frame s l f) :)
@[simp] theorem updLaunch_peerAns (s : State) (l : Nat) (f : Launch → Launch) : (s.updLaunch l f).peerAns = s.peerAns := (congrArg State.peerAns (updLaunch_frame s l f) :)
@[simp] theorem updLaunch_got (s : State) (l : Nat) (f : Launch → Launch) : (s.updLaunch l f).got = s.got := (congrArg State.got (updLaunch_frame s l f) :)
@[simp] theorem updLaunch_asker (s : State) (l : Nat) (f : Launch → Launch) : (s.updLaunch l f).asker = s.asker := (congrArg State.asker (updLaunch_frame s l f) :)
@[simp] theorem updLaunch_wants (s : State) (l : Nat) (f : Launch → Launch) : (s.updLaunch l f).wants = s.wants := (congrArg State.wants (updLaunch_frame s l f) :)
@[simp] theorem updLaunch_toPeers (s : State) (l : Nat) (f : Launch → Launch) : (s.updLaunch l f).toPeers = s.toPeers := (congrArg State.toPeers (updLaunch_frame s l f) :)
@[simp] theorem updLaunch_locks (s : State) (l : Nat) (f : Launch → Launch) : (s.updLaunch l f).locks = s.locks := (congrArg State.locks (updLaunch_frame s l f) :)
@[simp] theorem updLaunch_moving (s : State) (l : Nat) (f : Launch → Launch) : (s.updLaunch l f).moving = s.moving := (congrArg State.moving (updLaunch_frame s l f) :)
@[simp] theorem updLaunch_heldBack (s : State) (l : Nat) (f : Launch → Launch) : (s.updLaunch l f).heldBack = s.heldBack := (congrArg State.heldBack (updLaunch_frame s l f) :)
@[simp] theorem updLaunch_hostLines (s : State) (l : Nat) (f : Launch → Launch) : (s.updLaunch l f).hostLines = s.hostLines := (congrArg State.hostLines (updLaunch_frame s l f) :)
@[simp] theorem updLaunch_l2 (s : State) (l : Nat) (f : Launch → Launch) : (s.updLaunch l f).l2 = s.l2 := (congrArg State.l2 (updLaunch_frame s l f) :)
@[simp] theorem updLaunch_hubc (s : State) (l : Nat) (f : Launch → Launch) : (s.updLaunch l f).hubc = s.hubc := (congrArg State.hubc (updLaunch_frame s l f) :)
@[simp] theorem updLaunch_dieAcq (s : State) (l : Nat) (f : Launch → Launch) : (s.updLaunch l f).dieAcq = s.dieAcq := (congrArg State.dieAcq (updLaunch_frame s l f) :)
@[simp] theorem updLaunch_fmtPend (s : State) (l : Nat) (f : Launch → Launch) : (s.updLaunch l f).fmtPend = s.fmtPend := (congrArg State.fmtPend (updLaunch_frame s l f) :)
@[simp] theorem updLaunch_ctrs (s : State) (l : Nat) (f : Launch → Launch) : (s.updLaunch l f).ctrs = s.ctrs := (congrArg State.ctrs (updLaunch_frame s l f) :)
@[simp] theorem updLaunch_frameCtrs (s : State) (l : Nat) (f : Launch → Launch) : (s.updLaunch l f).frameCtrs = s.frameCtrs := (congrArg State.frameCtrs (updLaunch_frame s l f) :)
@[simp] theorem updLaunch_mdc (s : State) (l : Nat) (f : Launch → Launch) : (s.updLaunch l f).mdc = s.mdc := (congrArg State.mdc (updLaunch_frame s l f) :)
@[simp] theorem updLaunch_enqBy (s : State) (l : Nat) (f : Launch → Launch) : (s.updLaunch l f).enqBy = s.enqBy := (congrArg State.enqBy (updLaunch_frame s l f) :)
@[simp] theorem updLaunch_failed (s : State) (l : Nat) (f : Launch → Launch) : (s.updLaunch l f).failed = s.failed := (congrArg State.failed (updLaunch_frame s l f) :)
@[simp] theorem updLaunch_nodeMet (s : State) (l : Nat) (f : Launch → Launch) : (s.updLaunch l f).nodeMet = s.nodeMet := (congrArg State.nodeMet (updLaunch_frame s l f) :)

/-! ### `updLink` changes `links` -/

theorem updLink_frame (s : State) (i : Nat) (f : Link → Link) : { s.updLink i f with links := s.links } = s := rfl
@[simp] theorem updLink_inputs (s : State) (i : Nat) (f : Link → Link) : (s.updLink i f).inputs = s.inputs := rfl
@[simp] theorem updLink_brought (s : State) (i : Nat) (f : Link → Link) : (s.updLink i f).brought = s.brought := rfl
@[simp] theorem updLink_turns (s : State) (i : Nat) (f : Link → Link) : (s.updLink i f).turns = s.turns := rfl
@[simp] theorem updLink_draw (s : State) (i : Nat) (f : Link → Link) : (s.updLink i f).draw = s.draw := rfl
@[simp] theorem updLink_tick (s : State) (i : Nat) (f : Link → Link) : (s.updLink i f).tick = s.tick := rfl
@[simp] theorem updLink_cur (s : State) (i : Nat) (f : Link → Link) : (s.updLink i f).cur = s.cur := rfl
@[simp] theorem updLink_nextSub (s : State) (i : Nat) (f : Link → Link) : (s.updLink i f).nextSub = s.nextSub := rfl
@[simp] theorem updLink_issued (s : State) (i : Nat) (f : Link → Link) : (s.updLink i f).issued = s.issued := rfl
@[simp] theorem updLink_mem (s : State) (i : Nat) (f : Link → Link) : (s.updLink i f).mem = s.mem := rfl
@[simp] theorem updLink_groups (s : State) (i : Nat) (f : Link → Link) : (s.updLink i f).groups = s.groups := rfl
@[simp] theorem updLink_wgs (s : State) (i : Nat) (f : Link → Link) : (s.updLink i f).wgs = s.wgs := rfl
@[simp] theorem updLink_cores (s : State) (i : Nat) (f : Link → Link) : (s.updLink i f).cores = s.cores := rfl
@[simp] theorem updLink_banks (s : State) (i : Nat) (f : Link → Link) : (s.updLink i f).banks = s.banks := rfl
@[simp] theorem updLink_engines (s : State) (i : Nat) (f : Link → Link) : (s.updLink i f).engines = s.engines := rfl
@[simp] theorem updLink_ops (s : State) (i : Nat) (f : Link → Link) : (s.updLink i f).ops = s.ops := rfl
@[simp] theorem updLink_holds (s : State) (i : Nat) (f : Link → Link) : (s.updLink i f).holds = s.holds := rfl
@[simp] theorem updLink_ctxs (s : State) (i : Nat) (f : Link → Link) : (s.updLink i f).ctxs = s.ctxs := rfl
@[simp] theorem updLink_fns (s : State) (i : Nat) (f : Link → Link) : (s.updLink i f).fns = s.fns := rfl
@[simp] theorem updLink_packets (s : State) (i : Nat) (f : Link → Link) : (s.updLink i f).packets = s.packets := rfl
@[simp] theorem updLink_launches (s : State) (i : Nat) (f : Link → Link) : (s.updLink i f).launches = s.launches := rfl
@[simp] theorem updLink_graphs (s : State) (i : Nat) (f : Link → Link) : (s.updLink i f).graphs = s.graphs := rfl
@[simp] theorem updLink_phases (s : State) (i : Nat) (f : Link → Link) : (s.updLink i f).phases = s.phases := rfl
@[simp] theorem updLink_jobs (s : State) (i : Nat) (f : Link → Link) : (s.updLink i f).jobs = s.jobs := rfl
@[simp] theorem updLink_tlb (s : State) (i : Nat) (f : Link → Link) : (s.updLink i f).tlb = s.tlb := rfl
@[simp] theorem updLink_owner (s : State) (i : Nat) (f : Link → Link) : (s.updLink i f).owner = s.owner := rfl
@[simp] theorem updLink_markX (s : State) (i : Nat) (f : Link → Link) : (s.updLink i f).markX = s.markX := rfl
@[simp] theorem updLink_markW (s : State) (i : Nat) (f : Link → Link) : (s.updLink i f).markW = s.markW := rfl
@[simp] theorem updLink_bias (s : State) (i : Nat) (f : Link → Link) : (s.updLink i f).bias = s.bias := rfl
@[simp] theorem updLink_homes (s : State) (i : Nat) (f : Link → Link) : (s.updLink i f).homes = s.homes := rfl
@[simp] theorem updLink_badMac (s : State) (i : Nat) (f : Link → Link) : (s.updLink i f).badMac = s.badMac := rfl
@[simp] theorem updLink_badNode (s : State) (i : Nat) (f : Link → Link) : (s.updLink i f).badNode = s.badNode := rfl
@[simp] theorem updLink_worlds (s : State) (i : Nat) (f : Link → Link) : (s.updLink i f).worlds = s.worlds := rfl
@[simp] theorem updLink_fw (s : State) (i : Nat) (f : Link → Link) : (s.updLink i f).fw = s.fw := rfl
@[simp] theorem updLink_moves (s : State) (i : Nat) (f : Link → Link) : (s.updLink i f).moves = s.moves := rfl
@[simp] theorem updLink_switches (s : State) (i : Nat) (f : Link → Link) : (s.updLink i f).switches = s.switches := rfl
@[simp] theorem updLink_rungs (s : State) (i : Nat) (f : Link → Link) : (s.updLink i f).rungs = s.rungs := rfl
@[simp] theorem updLink_dev (s : State) (i : Nat) (f : Link → Link) : (s.updLink i f).dev = s.dev := rfl
@[simp] theorem updLink_fcode (s : State) (i : Nat) (f : Link → Link) : (s.updLink i f).fcode = s.fcode := rfl
@[simp] theorem updLink_mgmt (s : State) (i : Nat) (f : Link → Link) : (s.updLink i f).mgmt = s.mgmt := rfl
@[simp] theorem updLink_att (s : State) (i : Nat) (f : Link → Link) : (s.updLink i f).att = s.att := rfl
@[simp] theorem updLink_recimg (s : State) (i : Nat) (f : Link → Link) : (s.updLink i f).recimg = s.recimg := rfl
@[simp] theorem updLink_flash (s : State) (i : Nat) (f : Link → Link) : (s.updLink i f).flash = s.flash := rfl
@[simp] theorem updLink_age (s : State) (i : Nat) (f : Link → Link) : (s.updLink i f).age = s.age := rfl
@[simp] theorem updLink_targeth (s : State) (i : Nat) (f : Link → Link) : (s.updLink i f).targeth = s.targeth := rfl
@[simp] theorem updLink_targethNext (s : State) (i : Nat) (f : Link → Link) : (s.updLink i f).targethNext = s.targethNext := rfl
@[simp] theorem updLink_wear (s : State) (i : Nat) (f : Link → Link) : (s.updLink i f).wear = s.wear := rfl
@[simp] theorem updLink_wearAt (s : State) (i : Nat) (f : Link → Link) : (s.updLink i f).wearAt = s.wearAt := rfl
@[simp] theorem updLink_windowAge (s : State) (i : Nat) (f : Link → Link) : (s.updLink i f).windowAge = s.windowAge := rfl
@[simp] theorem updLink_spareOf (s : State) (i : Nat) (f : Link → Link) : (s.updLink i f).spareOf = s.spareOf := rfl
@[simp] theorem updLink_ckptA (s : State) (i : Nat) (f : Link → Link) : (s.updLink i f).ckptA = s.ckptA := rfl
@[simp] theorem updLink_ckptB (s : State) (i : Nat) (f : Link → Link) : (s.updLink i f).ckptB = s.ckptB := rfl
@[simp] theorem updLink_vbs (s : State) (i : Nat) (f : Link → Link) : (s.updLink i f).vbs = s.vbs := rfl
@[simp] theorem updLink_lostDies (s : State) (i : Nat) (f : Link → Link) : (s.updLink i f).lostDies = s.lostDies := rfl
@[simp] theorem updLink_repairs (s : State) (i : Nat) (f : Link → Link) : (s.updLink i f).repairs = s.repairs := rfl
@[simp] theorem updLink_selfid (s : State) (i : Nat) (f : Link → Link) : (s.updLink i f).selfid = s.selfid := rfl
@[simp] theorem updLink_routes (s : State) (i : Nat) (f : Link → Link) : (s.updLink i f).routes = s.routes := rfl
@[simp] theorem updLink_peerOut (s : State) (i : Nat) (f : Link → Link) : (s.updLink i f).peerOut = s.peerOut := rfl
@[simp] theorem updLink_peerIn (s : State) (i : Nat) (f : Link → Link) : (s.updLink i f).peerIn = s.peerIn := rfl
@[simp] theorem updLink_hostData (s : State) (i : Nat) (f : Link → Link) : (s.updLink i f).hostData = s.hostData := rfl
@[simp] theorem updLink_hostRefused (s : State) (i : Nat) (f : Link → Link) : (s.updLink i f).hostRefused = s.hostRefused := rfl
@[simp] theorem updLink_peerAns (s : State) (i : Nat) (f : Link → Link) : (s.updLink i f).peerAns = s.peerAns := rfl
@[simp] theorem updLink_got (s : State) (i : Nat) (f : Link → Link) : (s.updLink i f).got = s.got := rfl
@[simp] theorem updLink_asker (s : State) (i : Nat) (f : Link → Link) : (s.updLink i f).asker = s.asker := rfl
@[simp] theorem updLink_wants (s : State) (i : Nat) (f : Link → Link) : (s.updLink i f).wants = s.wants := rfl
@[simp] theorem updLink_toPeers (s : State) (i : Nat) (f : Link → Link) : (s.updLink i f).toPeers = s.toPeers := rfl
@[simp] theorem updLink_locks (s : State) (i : Nat) (f : Link → Link) : (s.updLink i f).locks = s.locks := rfl
@[simp] theorem updLink_moving (s : State) (i : Nat) (f : Link → Link) : (s.updLink i f).moving = s.moving := rfl
@[simp] theorem updLink_heldBack (s : State) (i : Nat) (f : Link → Link) : (s.updLink i f).heldBack = s.heldBack := rfl
@[simp] theorem updLink_hostLines (s : State) (i : Nat) (f : Link → Link) : (s.updLink i f).hostLines = s.hostLines := rfl
@[simp] theorem updLink_l2 (s : State) (i : Nat) (f : Link → Link) : (s.updLink i f).l2 = s.l2 := rfl
@[simp] theorem updLink_hubc (s : State) (i : Nat) (f : Link → Link) : (s.updLink i f).hubc = s.hubc := rfl
@[simp] theorem updLink_dieAcq (s : State) (i : Nat) (f : Link → Link) : (s.updLink i f).dieAcq = s.dieAcq := rfl
@[simp] theorem updLink_fmtPend (s : State) (i : Nat) (f : Link → Link) : (s.updLink i f).fmtPend = s.fmtPend := rfl
@[simp] theorem updLink_ctrs (s : State) (i : Nat) (f : Link → Link) : (s.updLink i f).ctrs = s.ctrs := rfl
@[simp] theorem updLink_frameCtrs (s : State) (i : Nat) (f : Link → Link) : (s.updLink i f).frameCtrs = s.frameCtrs := rfl
@[simp] theorem updLink_mdc (s : State) (i : Nat) (f : Link → Link) : (s.updLink i f).mdc = s.mdc := rfl
@[simp] theorem updLink_enqBy (s : State) (i : Nat) (f : Link → Link) : (s.updLink i f).enqBy = s.enqBy := rfl
@[simp] theorem updLink_failed (s : State) (i : Nat) (f : Link → Link) : (s.updLink i f).failed = s.failed := rfl
@[simp] theorem updLink_nodeMet (s : State) (i : Nat) (f : Link → Link) : (s.updLink i f).nodeMet = s.nodeMet := rfl

/-! ### `updWear` changes `wear` -/

theorem updWear_frame (s : State) (u : Nat) (f : Wear → Wear) : { s.updWear u f with wear := s.wear } = s := rfl
@[simp] theorem updWear_inputs (s : State) (u : Nat) (f : Wear → Wear) : (s.updWear u f).inputs = s.inputs := rfl
@[simp] theorem updWear_brought (s : State) (u : Nat) (f : Wear → Wear) : (s.updWear u f).brought = s.brought := rfl
@[simp] theorem updWear_turns (s : State) (u : Nat) (f : Wear → Wear) : (s.updWear u f).turns = s.turns := rfl
@[simp] theorem updWear_draw (s : State) (u : Nat) (f : Wear → Wear) : (s.updWear u f).draw = s.draw := rfl
@[simp] theorem updWear_tick (s : State) (u : Nat) (f : Wear → Wear) : (s.updWear u f).tick = s.tick := rfl
@[simp] theorem updWear_cur (s : State) (u : Nat) (f : Wear → Wear) : (s.updWear u f).cur = s.cur := rfl
@[simp] theorem updWear_nextSub (s : State) (u : Nat) (f : Wear → Wear) : (s.updWear u f).nextSub = s.nextSub := rfl
@[simp] theorem updWear_issued (s : State) (u : Nat) (f : Wear → Wear) : (s.updWear u f).issued = s.issued := rfl
@[simp] theorem updWear_mem (s : State) (u : Nat) (f : Wear → Wear) : (s.updWear u f).mem = s.mem := rfl
@[simp] theorem updWear_groups (s : State) (u : Nat) (f : Wear → Wear) : (s.updWear u f).groups = s.groups := rfl
@[simp] theorem updWear_wgs (s : State) (u : Nat) (f : Wear → Wear) : (s.updWear u f).wgs = s.wgs := rfl
@[simp] theorem updWear_cores (s : State) (u : Nat) (f : Wear → Wear) : (s.updWear u f).cores = s.cores := rfl
@[simp] theorem updWear_banks (s : State) (u : Nat) (f : Wear → Wear) : (s.updWear u f).banks = s.banks := rfl
@[simp] theorem updWear_engines (s : State) (u : Nat) (f : Wear → Wear) : (s.updWear u f).engines = s.engines := rfl
@[simp] theorem updWear_ops (s : State) (u : Nat) (f : Wear → Wear) : (s.updWear u f).ops = s.ops := rfl
@[simp] theorem updWear_holds (s : State) (u : Nat) (f : Wear → Wear) : (s.updWear u f).holds = s.holds := rfl
@[simp] theorem updWear_ctxs (s : State) (u : Nat) (f : Wear → Wear) : (s.updWear u f).ctxs = s.ctxs := rfl
@[simp] theorem updWear_fns (s : State) (u : Nat) (f : Wear → Wear) : (s.updWear u f).fns = s.fns := rfl
@[simp] theorem updWear_packets (s : State) (u : Nat) (f : Wear → Wear) : (s.updWear u f).packets = s.packets := rfl
@[simp] theorem updWear_launches (s : State) (u : Nat) (f : Wear → Wear) : (s.updWear u f).launches = s.launches := rfl
@[simp] theorem updWear_graphs (s : State) (u : Nat) (f : Wear → Wear) : (s.updWear u f).graphs = s.graphs := rfl
@[simp] theorem updWear_phases (s : State) (u : Nat) (f : Wear → Wear) : (s.updWear u f).phases = s.phases := rfl
@[simp] theorem updWear_jobs (s : State) (u : Nat) (f : Wear → Wear) : (s.updWear u f).jobs = s.jobs := rfl
@[simp] theorem updWear_tlb (s : State) (u : Nat) (f : Wear → Wear) : (s.updWear u f).tlb = s.tlb := rfl
@[simp] theorem updWear_owner (s : State) (u : Nat) (f : Wear → Wear) : (s.updWear u f).owner = s.owner := rfl
@[simp] theorem updWear_markX (s : State) (u : Nat) (f : Wear → Wear) : (s.updWear u f).markX = s.markX := rfl
@[simp] theorem updWear_markW (s : State) (u : Nat) (f : Wear → Wear) : (s.updWear u f).markW = s.markW := rfl
@[simp] theorem updWear_bias (s : State) (u : Nat) (f : Wear → Wear) : (s.updWear u f).bias = s.bias := rfl
@[simp] theorem updWear_homes (s : State) (u : Nat) (f : Wear → Wear) : (s.updWear u f).homes = s.homes := rfl
@[simp] theorem updWear_badMac (s : State) (u : Nat) (f : Wear → Wear) : (s.updWear u f).badMac = s.badMac := rfl
@[simp] theorem updWear_badNode (s : State) (u : Nat) (f : Wear → Wear) : (s.updWear u f).badNode = s.badNode := rfl
@[simp] theorem updWear_worlds (s : State) (u : Nat) (f : Wear → Wear) : (s.updWear u f).worlds = s.worlds := rfl
@[simp] theorem updWear_fw (s : State) (u : Nat) (f : Wear → Wear) : (s.updWear u f).fw = s.fw := rfl
@[simp] theorem updWear_moves (s : State) (u : Nat) (f : Wear → Wear) : (s.updWear u f).moves = s.moves := rfl
@[simp] theorem updWear_switches (s : State) (u : Nat) (f : Wear → Wear) : (s.updWear u f).switches = s.switches := rfl
@[simp] theorem updWear_rungs (s : State) (u : Nat) (f : Wear → Wear) : (s.updWear u f).rungs = s.rungs := rfl
@[simp] theorem updWear_dev (s : State) (u : Nat) (f : Wear → Wear) : (s.updWear u f).dev = s.dev := rfl
@[simp] theorem updWear_fcode (s : State) (u : Nat) (f : Wear → Wear) : (s.updWear u f).fcode = s.fcode := rfl
@[simp] theorem updWear_mgmt (s : State) (u : Nat) (f : Wear → Wear) : (s.updWear u f).mgmt = s.mgmt := rfl
@[simp] theorem updWear_att (s : State) (u : Nat) (f : Wear → Wear) : (s.updWear u f).att = s.att := rfl
@[simp] theorem updWear_recimg (s : State) (u : Nat) (f : Wear → Wear) : (s.updWear u f).recimg = s.recimg := rfl
@[simp] theorem updWear_flash (s : State) (u : Nat) (f : Wear → Wear) : (s.updWear u f).flash = s.flash := rfl
@[simp] theorem updWear_age (s : State) (u : Nat) (f : Wear → Wear) : (s.updWear u f).age = s.age := rfl
@[simp] theorem updWear_targeth (s : State) (u : Nat) (f : Wear → Wear) : (s.updWear u f).targeth = s.targeth := rfl
@[simp] theorem updWear_targethNext (s : State) (u : Nat) (f : Wear → Wear) : (s.updWear u f).targethNext = s.targethNext := rfl
@[simp] theorem updWear_wearAt (s : State) (u : Nat) (f : Wear → Wear) : (s.updWear u f).wearAt = s.wearAt := rfl
@[simp] theorem updWear_windowAge (s : State) (u : Nat) (f : Wear → Wear) : (s.updWear u f).windowAge = s.windowAge := rfl
@[simp] theorem updWear_spareOf (s : State) (u : Nat) (f : Wear → Wear) : (s.updWear u f).spareOf = s.spareOf := rfl
@[simp] theorem updWear_ckptA (s : State) (u : Nat) (f : Wear → Wear) : (s.updWear u f).ckptA = s.ckptA := rfl
@[simp] theorem updWear_ckptB (s : State) (u : Nat) (f : Wear → Wear) : (s.updWear u f).ckptB = s.ckptB := rfl
@[simp] theorem updWear_vbs (s : State) (u : Nat) (f : Wear → Wear) : (s.updWear u f).vbs = s.vbs := rfl
@[simp] theorem updWear_lostDies (s : State) (u : Nat) (f : Wear → Wear) : (s.updWear u f).lostDies = s.lostDies := rfl
@[simp] theorem updWear_repairs (s : State) (u : Nat) (f : Wear → Wear) : (s.updWear u f).repairs = s.repairs := rfl
@[simp] theorem updWear_selfid (s : State) (u : Nat) (f : Wear → Wear) : (s.updWear u f).selfid = s.selfid := rfl
@[simp] theorem updWear_routes (s : State) (u : Nat) (f : Wear → Wear) : (s.updWear u f).routes = s.routes := rfl
@[simp] theorem updWear_links (s : State) (u : Nat) (f : Wear → Wear) : (s.updWear u f).links = s.links := rfl
@[simp] theorem updWear_peerOut (s : State) (u : Nat) (f : Wear → Wear) : (s.updWear u f).peerOut = s.peerOut := rfl
@[simp] theorem updWear_peerIn (s : State) (u : Nat) (f : Wear → Wear) : (s.updWear u f).peerIn = s.peerIn := rfl
@[simp] theorem updWear_hostData (s : State) (u : Nat) (f : Wear → Wear) : (s.updWear u f).hostData = s.hostData := rfl
@[simp] theorem updWear_hostRefused (s : State) (u : Nat) (f : Wear → Wear) : (s.updWear u f).hostRefused = s.hostRefused := rfl
@[simp] theorem updWear_peerAns (s : State) (u : Nat) (f : Wear → Wear) : (s.updWear u f).peerAns = s.peerAns := rfl
@[simp] theorem updWear_got (s : State) (u : Nat) (f : Wear → Wear) : (s.updWear u f).got = s.got := rfl
@[simp] theorem updWear_asker (s : State) (u : Nat) (f : Wear → Wear) : (s.updWear u f).asker = s.asker := rfl
@[simp] theorem updWear_wants (s : State) (u : Nat) (f : Wear → Wear) : (s.updWear u f).wants = s.wants := rfl
@[simp] theorem updWear_toPeers (s : State) (u : Nat) (f : Wear → Wear) : (s.updWear u f).toPeers = s.toPeers := rfl
@[simp] theorem updWear_locks (s : State) (u : Nat) (f : Wear → Wear) : (s.updWear u f).locks = s.locks := rfl
@[simp] theorem updWear_moving (s : State) (u : Nat) (f : Wear → Wear) : (s.updWear u f).moving = s.moving := rfl
@[simp] theorem updWear_heldBack (s : State) (u : Nat) (f : Wear → Wear) : (s.updWear u f).heldBack = s.heldBack := rfl
@[simp] theorem updWear_hostLines (s : State) (u : Nat) (f : Wear → Wear) : (s.updWear u f).hostLines = s.hostLines := rfl
@[simp] theorem updWear_l2 (s : State) (u : Nat) (f : Wear → Wear) : (s.updWear u f).l2 = s.l2 := rfl
@[simp] theorem updWear_hubc (s : State) (u : Nat) (f : Wear → Wear) : (s.updWear u f).hubc = s.hubc := rfl
@[simp] theorem updWear_dieAcq (s : State) (u : Nat) (f : Wear → Wear) : (s.updWear u f).dieAcq = s.dieAcq := rfl
@[simp] theorem updWear_fmtPend (s : State) (u : Nat) (f : Wear → Wear) : (s.updWear u f).fmtPend = s.fmtPend := rfl
@[simp] theorem updWear_ctrs (s : State) (u : Nat) (f : Wear → Wear) : (s.updWear u f).ctrs = s.ctrs := rfl
@[simp] theorem updWear_frameCtrs (s : State) (u : Nat) (f : Wear → Wear) : (s.updWear u f).frameCtrs = s.frameCtrs := rfl
@[simp] theorem updWear_mdc (s : State) (u : Nat) (f : Wear → Wear) : (s.updWear u f).mdc = s.mdc := rfl
@[simp] theorem updWear_enqBy (s : State) (u : Nat) (f : Wear → Wear) : (s.updWear u f).enqBy = s.enqBy := rfl
@[simp] theorem updWear_failed (s : State) (u : Nat) (f : Wear → Wear) : (s.updWear u f).failed = s.failed := rfl
@[simp] theorem updWear_nodeMet (s : State) (u : Nat) (f : Wear → Wear) : (s.updWear u f).nodeMet = s.nodeMet := rfl

/-! ### `bump` changes `tick` -/

theorem bump_frame (s : State) : { s.bump with tick := s.tick } = s := rfl
@[simp] theorem bump_inputs (s : State) : (s.bump).inputs = s.inputs := rfl
@[simp] theorem bump_brought (s : State) : (s.bump).brought = s.brought := rfl
@[simp] theorem bump_turns (s : State) : (s.bump).turns = s.turns := rfl
@[simp] theorem bump_draw (s : State) : (s.bump).draw = s.draw := rfl
@[simp] theorem bump_cur (s : State) : (s.bump).cur = s.cur := rfl
@[simp] theorem bump_nextSub (s : State) : (s.bump).nextSub = s.nextSub := rfl
@[simp] theorem bump_issued (s : State) : (s.bump).issued = s.issued := rfl
@[simp] theorem bump_mem (s : State) : (s.bump).mem = s.mem := rfl
@[simp] theorem bump_groups (s : State) : (s.bump).groups = s.groups := rfl
@[simp] theorem bump_wgs (s : State) : (s.bump).wgs = s.wgs := rfl
@[simp] theorem bump_cores (s : State) : (s.bump).cores = s.cores := rfl
@[simp] theorem bump_banks (s : State) : (s.bump).banks = s.banks := rfl
@[simp] theorem bump_engines (s : State) : (s.bump).engines = s.engines := rfl
@[simp] theorem bump_ops (s : State) : (s.bump).ops = s.ops := rfl
@[simp] theorem bump_holds (s : State) : (s.bump).holds = s.holds := rfl
@[simp] theorem bump_ctxs (s : State) : (s.bump).ctxs = s.ctxs := rfl
@[simp] theorem bump_fns (s : State) : (s.bump).fns = s.fns := rfl
@[simp] theorem bump_packets (s : State) : (s.bump).packets = s.packets := rfl
@[simp] theorem bump_launches (s : State) : (s.bump).launches = s.launches := rfl
@[simp] theorem bump_graphs (s : State) : (s.bump).graphs = s.graphs := rfl
@[simp] theorem bump_phases (s : State) : (s.bump).phases = s.phases := rfl
@[simp] theorem bump_jobs (s : State) : (s.bump).jobs = s.jobs := rfl
@[simp] theorem bump_tlb (s : State) : (s.bump).tlb = s.tlb := rfl
@[simp] theorem bump_owner (s : State) : (s.bump).owner = s.owner := rfl
@[simp] theorem bump_markX (s : State) : (s.bump).markX = s.markX := rfl
@[simp] theorem bump_markW (s : State) : (s.bump).markW = s.markW := rfl
@[simp] theorem bump_bias (s : State) : (s.bump).bias = s.bias := rfl
@[simp] theorem bump_homes (s : State) : (s.bump).homes = s.homes := rfl
@[simp] theorem bump_badMac (s : State) : (s.bump).badMac = s.badMac := rfl
@[simp] theorem bump_badNode (s : State) : (s.bump).badNode = s.badNode := rfl
@[simp] theorem bump_worlds (s : State) : (s.bump).worlds = s.worlds := rfl
@[simp] theorem bump_fw (s : State) : (s.bump).fw = s.fw := rfl
@[simp] theorem bump_moves (s : State) : (s.bump).moves = s.moves := rfl
@[simp] theorem bump_switches (s : State) : (s.bump).switches = s.switches := rfl
@[simp] theorem bump_rungs (s : State) : (s.bump).rungs = s.rungs := rfl
@[simp] theorem bump_dev (s : State) : (s.bump).dev = s.dev := rfl
@[simp] theorem bump_fcode (s : State) : (s.bump).fcode = s.fcode := rfl
@[simp] theorem bump_mgmt (s : State) : (s.bump).mgmt = s.mgmt := rfl
@[simp] theorem bump_att (s : State) : (s.bump).att = s.att := rfl
@[simp] theorem bump_recimg (s : State) : (s.bump).recimg = s.recimg := rfl
@[simp] theorem bump_flash (s : State) : (s.bump).flash = s.flash := rfl
@[simp] theorem bump_age (s : State) : (s.bump).age = s.age := rfl
@[simp] theorem bump_targeth (s : State) : (s.bump).targeth = s.targeth := rfl
@[simp] theorem bump_targethNext (s : State) : (s.bump).targethNext = s.targethNext := rfl
@[simp] theorem bump_wear (s : State) : (s.bump).wear = s.wear := rfl
@[simp] theorem bump_wearAt (s : State) : (s.bump).wearAt = s.wearAt := rfl
@[simp] theorem bump_windowAge (s : State) : (s.bump).windowAge = s.windowAge := rfl
@[simp] theorem bump_spareOf (s : State) : (s.bump).spareOf = s.spareOf := rfl
@[simp] theorem bump_ckptA (s : State) : (s.bump).ckptA = s.ckptA := rfl
@[simp] theorem bump_ckptB (s : State) : (s.bump).ckptB = s.ckptB := rfl
@[simp] theorem bump_vbs (s : State) : (s.bump).vbs = s.vbs := rfl
@[simp] theorem bump_lostDies (s : State) : (s.bump).lostDies = s.lostDies := rfl
@[simp] theorem bump_repairs (s : State) : (s.bump).repairs = s.repairs := rfl
@[simp] theorem bump_selfid (s : State) : (s.bump).selfid = s.selfid := rfl
@[simp] theorem bump_routes (s : State) : (s.bump).routes = s.routes := rfl
@[simp] theorem bump_links (s : State) : (s.bump).links = s.links := rfl
@[simp] theorem bump_peerOut (s : State) : (s.bump).peerOut = s.peerOut := rfl
@[simp] theorem bump_peerIn (s : State) : (s.bump).peerIn = s.peerIn := rfl
@[simp] theorem bump_hostData (s : State) : (s.bump).hostData = s.hostData := rfl
@[simp] theorem bump_hostRefused (s : State) : (s.bump).hostRefused = s.hostRefused := rfl
@[simp] theorem bump_peerAns (s : State) : (s.bump).peerAns = s.peerAns := rfl
@[simp] theorem bump_got (s : State) : (s.bump).got = s.got := rfl
@[simp] theorem bump_asker (s : State) : (s.bump).asker = s.asker := rfl
@[simp] theorem bump_wants (s : State) : (s.bump).wants = s.wants := rfl
@[simp] theorem bump_toPeers (s : State) : (s.bump).toPeers = s.toPeers := rfl
@[simp] theorem bump_locks (s : State) : (s.bump).locks = s.locks := rfl
@[simp] theorem bump_moving (s : State) : (s.bump).moving = s.moving := rfl
@[simp] theorem bump_heldBack (s : State) : (s.bump).heldBack = s.heldBack := rfl
@[simp] theorem bump_hostLines (s : State) : (s.bump).hostLines = s.hostLines := rfl
@[simp] theorem bump_l2 (s : State) : (s.bump).l2 = s.l2 := rfl
@[simp] theorem bump_hubc (s : State) : (s.bump).hubc = s.hubc := rfl
@[simp] theorem bump_dieAcq (s : State) : (s.bump).dieAcq = s.dieAcq := rfl
@[simp] theorem bump_fmtPend (s : State) : (s.bump).fmtPend = s.fmtPend := rfl
@[simp] theorem bump_ctrs (s : State) : (s.bump).ctrs = s.ctrs := rfl
@[simp] theorem bump_frameCtrs (s : State) : (s.bump).frameCtrs = s.frameCtrs := rfl
@[simp] theorem bump_mdc (s : State) : (s.bump).mdc = s.mdc := rfl
@[simp] theorem bump_enqBy (s : State) : (s.bump).enqBy = s.enqBy := rfl
@[simp] theorem bump_failed (s : State) : (s.bump).failed = s.failed := rfl
@[simp] theorem bump_nodeMet (s : State) : (s.bump).nodeMet = s.nodeMet := rfl

/-! ### `tlbDrop` changes `tlb` and `cores` -/

theorem tlbDrop_frame (s : State) (p : TlbEntry → Bool) : { s.tlbDrop p with tlb := s.tlb, cores := s.cores } = s := rfl
@[simp] theorem tlbDrop_inputs (s : State) (p : TlbEntry → Bool) : (s.tlbDrop p).inputs = s.inputs := rfl
@[simp] theorem tlbDrop_brought (s : State) (p : TlbEntry → Bool) : (s.tlbDrop p).brought = s.brought := rfl
@[simp] theorem tlbDrop_turns (s : State) (p : TlbEntry → Bool) : (s.tlbDrop p).turns = s.turns := rfl
@[simp] theorem tlbDrop_draw (s : State) (p : TlbEntry → Bool) : (s.tlbDrop p).draw = s.draw := rfl
@[simp] theorem tlbDrop_tick (s : State) (p : TlbEntry → Bool) : (s.tlbDrop p).tick = s.tick := rfl
@[simp] theorem tlbDrop_cur (s : State) (p : TlbEntry → Bool) : (s.tlbDrop p).cur = s.cur := rfl
@[simp] theorem tlbDrop_nextSub (s : State) (p : TlbEntry → Bool) : (s.tlbDrop p).nextSub = s.nextSub := rfl
@[simp] theorem tlbDrop_issued (s : State) (p : TlbEntry → Bool) : (s.tlbDrop p).issued = s.issued := rfl
@[simp] theorem tlbDrop_mem (s : State) (p : TlbEntry → Bool) : (s.tlbDrop p).mem = s.mem := rfl
@[simp] theorem tlbDrop_groups (s : State) (p : TlbEntry → Bool) : (s.tlbDrop p).groups = s.groups := rfl
@[simp] theorem tlbDrop_wgs (s : State) (p : TlbEntry → Bool) : (s.tlbDrop p).wgs = s.wgs := rfl
@[simp] theorem tlbDrop_banks (s : State) (p : TlbEntry → Bool) : (s.tlbDrop p).banks = s.banks := rfl
@[simp] theorem tlbDrop_engines (s : State) (p : TlbEntry → Bool) : (s.tlbDrop p).engines = s.engines := rfl
@[simp] theorem tlbDrop_ops (s : State) (p : TlbEntry → Bool) : (s.tlbDrop p).ops = s.ops := rfl
@[simp] theorem tlbDrop_holds (s : State) (p : TlbEntry → Bool) : (s.tlbDrop p).holds = s.holds := rfl
@[simp] theorem tlbDrop_ctxs (s : State) (p : TlbEntry → Bool) : (s.tlbDrop p).ctxs = s.ctxs := rfl
@[simp] theorem tlbDrop_fns (s : State) (p : TlbEntry → Bool) : (s.tlbDrop p).fns = s.fns := rfl
@[simp] theorem tlbDrop_packets (s : State) (p : TlbEntry → Bool) : (s.tlbDrop p).packets = s.packets := rfl
@[simp] theorem tlbDrop_launches (s : State) (p : TlbEntry → Bool) : (s.tlbDrop p).launches = s.launches := rfl
@[simp] theorem tlbDrop_graphs (s : State) (p : TlbEntry → Bool) : (s.tlbDrop p).graphs = s.graphs := rfl
@[simp] theorem tlbDrop_phases (s : State) (p : TlbEntry → Bool) : (s.tlbDrop p).phases = s.phases := rfl
@[simp] theorem tlbDrop_jobs (s : State) (p : TlbEntry → Bool) : (s.tlbDrop p).jobs = s.jobs := rfl
@[simp] theorem tlbDrop_owner (s : State) (p : TlbEntry → Bool) : (s.tlbDrop p).owner = s.owner := rfl
@[simp] theorem tlbDrop_markX (s : State) (p : TlbEntry → Bool) : (s.tlbDrop p).markX = s.markX := rfl
@[simp] theorem tlbDrop_markW (s : State) (p : TlbEntry → Bool) : (s.tlbDrop p).markW = s.markW := rfl
@[simp] theorem tlbDrop_bias (s : State) (p : TlbEntry → Bool) : (s.tlbDrop p).bias = s.bias := rfl
@[simp] theorem tlbDrop_homes (s : State) (p : TlbEntry → Bool) : (s.tlbDrop p).homes = s.homes := rfl
@[simp] theorem tlbDrop_badMac (s : State) (p : TlbEntry → Bool) : (s.tlbDrop p).badMac = s.badMac := rfl
@[simp] theorem tlbDrop_badNode (s : State) (p : TlbEntry → Bool) : (s.tlbDrop p).badNode = s.badNode := rfl
@[simp] theorem tlbDrop_worlds (s : State) (p : TlbEntry → Bool) : (s.tlbDrop p).worlds = s.worlds := rfl
@[simp] theorem tlbDrop_fw (s : State) (p : TlbEntry → Bool) : (s.tlbDrop p).fw = s.fw := rfl
@[simp] theorem tlbDrop_moves (s : State) (p : TlbEntry → Bool) : (s.tlbDrop p).moves = s.moves := rfl
@[simp] theorem tlbDrop_switches (s : State) (p : TlbEntry → Bool) : (s.tlbDrop p).switches = s.switches := rfl
@[simp] theorem tlbDrop_rungs (s : State) (p : TlbEntry → Bool) : (s.tlbDrop p).rungs = s.rungs := rfl
@[simp] theorem tlbDrop_dev (s : State) (p : TlbEntry → Bool) : (s.tlbDrop p).dev = s.dev := rfl
@[simp] theorem tlbDrop_fcode (s : State) (p : TlbEntry → Bool) : (s.tlbDrop p).fcode = s.fcode := rfl
@[simp] theorem tlbDrop_mgmt (s : State) (p : TlbEntry → Bool) : (s.tlbDrop p).mgmt = s.mgmt := rfl
@[simp] theorem tlbDrop_att (s : State) (p : TlbEntry → Bool) : (s.tlbDrop p).att = s.att := rfl
@[simp] theorem tlbDrop_recimg (s : State) (p : TlbEntry → Bool) : (s.tlbDrop p).recimg = s.recimg := rfl
@[simp] theorem tlbDrop_flash (s : State) (p : TlbEntry → Bool) : (s.tlbDrop p).flash = s.flash := rfl
@[simp] theorem tlbDrop_age (s : State) (p : TlbEntry → Bool) : (s.tlbDrop p).age = s.age := rfl
@[simp] theorem tlbDrop_targeth (s : State) (p : TlbEntry → Bool) : (s.tlbDrop p).targeth = s.targeth := rfl
@[simp] theorem tlbDrop_targethNext (s : State) (p : TlbEntry → Bool) : (s.tlbDrop p).targethNext = s.targethNext := rfl
@[simp] theorem tlbDrop_wear (s : State) (p : TlbEntry → Bool) : (s.tlbDrop p).wear = s.wear := rfl
@[simp] theorem tlbDrop_wearAt (s : State) (p : TlbEntry → Bool) : (s.tlbDrop p).wearAt = s.wearAt := rfl
@[simp] theorem tlbDrop_windowAge (s : State) (p : TlbEntry → Bool) : (s.tlbDrop p).windowAge = s.windowAge := rfl
@[simp] theorem tlbDrop_spareOf (s : State) (p : TlbEntry → Bool) : (s.tlbDrop p).spareOf = s.spareOf := rfl
@[simp] theorem tlbDrop_ckptA (s : State) (p : TlbEntry → Bool) : (s.tlbDrop p).ckptA = s.ckptA := rfl
@[simp] theorem tlbDrop_ckptB (s : State) (p : TlbEntry → Bool) : (s.tlbDrop p).ckptB = s.ckptB := rfl
@[simp] theorem tlbDrop_vbs (s : State) (p : TlbEntry → Bool) : (s.tlbDrop p).vbs = s.vbs := rfl
@[simp] theorem tlbDrop_lostDies (s : State) (p : TlbEntry → Bool) : (s.tlbDrop p).lostDies = s.lostDies := rfl
@[simp] theorem tlbDrop_repairs (s : State) (p : TlbEntry → Bool) : (s.tlbDrop p).repairs = s.repairs := rfl
@[simp] theorem tlbDrop_selfid (s : State) (p : TlbEntry → Bool) : (s.tlbDrop p).selfid = s.selfid := rfl
@[simp] theorem tlbDrop_routes (s : State) (p : TlbEntry → Bool) : (s.tlbDrop p).routes = s.routes := rfl
@[simp] theorem tlbDrop_links (s : State) (p : TlbEntry → Bool) : (s.tlbDrop p).links = s.links := rfl
@[simp] theorem tlbDrop_peerOut (s : State) (p : TlbEntry → Bool) : (s.tlbDrop p).peerOut = s.peerOut := rfl
@[simp] theorem tlbDrop_peerIn (s : State) (p : TlbEntry → Bool) : (s.tlbDrop p).peerIn = s.peerIn := rfl
@[simp] theorem tlbDrop_hostData (s : State) (p : TlbEntry → Bool) : (s.tlbDrop p).hostData = s.hostData := rfl
@[simp] theorem tlbDrop_hostRefused (s : State) (p : TlbEntry → Bool) : (s.tlbDrop p).hostRefused = s.hostRefused := rfl
@[simp] theorem tlbDrop_peerAns (s : State) (p : TlbEntry → Bool) : (s.tlbDrop p).peerAns = s.peerAns := rfl
@[simp] theorem tlbDrop_got (s : State) (p : TlbEntry → Bool) : (s.tlbDrop p).got = s.got := rfl
@[simp] theorem tlbDrop_asker (s : State) (p : TlbEntry → Bool) : (s.tlbDrop p).asker = s.asker := rfl
@[simp] theorem tlbDrop_wants (s : State) (p : TlbEntry → Bool) : (s.tlbDrop p).wants = s.wants := rfl
@[simp] theorem tlbDrop_toPeers (s : State) (p : TlbEntry → Bool) : (s.tlbDrop p).toPeers = s.toPeers := rfl
@[simp] theorem tlbDrop_locks (s : State) (p : TlbEntry → Bool) : (s.tlbDrop p).locks = s.locks := rfl
@[simp] theorem tlbDrop_moving (s : State) (p : TlbEntry → Bool) : (s.tlbDrop p).moving = s.moving := rfl
@[simp] theorem tlbDrop_heldBack (s : State) (p : TlbEntry → Bool) : (s.tlbDrop p).heldBack = s.heldBack := rfl
@[simp] theorem tlbDrop_hostLines (s : State) (p : TlbEntry → Bool) : (s.tlbDrop p).hostLines = s.hostLines := rfl
@[simp] theorem tlbDrop_l2 (s : State) (p : TlbEntry → Bool) : (s.tlbDrop p).l2 = s.l2 := rfl
@[simp] theorem tlbDrop_hubc (s : State) (p : TlbEntry → Bool) : (s.tlbDrop p).hubc = s.hubc := rfl
@[simp] theorem tlbDrop_dieAcq (s : State) (p : TlbEntry → Bool) : (s.tlbDrop p).dieAcq = s.dieAcq := rfl
@[simp] theorem tlbDrop_fmtPend (s : State) (p : TlbEntry → Bool) : (s.tlbDrop p).fmtPend = s.fmtPend := rfl
@[simp] theorem tlbDrop_ctrs (s : State) (p : TlbEntry → Bool) : (s.tlbDrop p).ctrs = s.ctrs := rfl
@[simp] theorem tlbDrop_frameCtrs (s : State) (p : TlbEntry → Bool) : (s.tlbDrop p).frameCtrs = s.frameCtrs := rfl
@[simp] theorem tlbDrop_mdc (s : State) (p : TlbEntry → Bool) : (s.tlbDrop p).mdc = s.mdc := rfl
@[simp] theorem tlbDrop_enqBy (s : State) (p : TlbEntry → Bool) : (s.tlbDrop p).enqBy = s.enqBy := rfl
@[simp] theorem tlbDrop_failed (s : State) (p : TlbEntry → Bool) : (s.tlbDrop p).failed = s.failed := rfl
@[simp] theorem tlbDrop_nodeMet (s : State) (p : TlbEntry → Bool) : (s.tlbDrop p).nodeMet = s.nodeMet := rfl

/-! ### `wrBytes` changes `mem` -/

theorem wrBytes_frame (s : State) (l : Nat) (bs : List Byte) : { s.wrBytes l bs with mem := s.mem } = s := by
  induction bs generalizing s l with
  | nil => rfl
  | cons b t ih => exact congrArg (fun u : State => { u with mem := s.mem }) (ih (s.wrByte l b) (l + 1))
@[simp] theorem wrBytes_inputs (s : State) (l : Nat) (bs : List Byte) : (s.wrBytes l bs).inputs = s.inputs := (congrArg State.inputs (wrBytes_frame s l bs) :)
@[simp] theorem wrBytes_brought (s : State) (l : Nat) (bs : List Byte) : (s.wrBytes l bs).brought = s.brought := (congrArg State.brought (wrBytes_frame s l bs) :)
@[simp] theorem wrBytes_turns (s : State) (l : Nat) (bs : List Byte) : (s.wrBytes l bs).turns = s.turns := (congrArg State.turns (wrBytes_frame s l bs) :)
@[simp] theorem wrBytes_draw (s : State) (l : Nat) (bs : List Byte) : (s.wrBytes l bs).draw = s.draw := (congrArg State.draw (wrBytes_frame s l bs) :)
@[simp] theorem wrBytes_tick (s : State) (l : Nat) (bs : List Byte) : (s.wrBytes l bs).tick = s.tick := (congrArg State.tick (wrBytes_frame s l bs) :)
@[simp] theorem wrBytes_cur (s : State) (l : Nat) (bs : List Byte) : (s.wrBytes l bs).cur = s.cur := (congrArg State.cur (wrBytes_frame s l bs) :)
@[simp] theorem wrBytes_nextSub (s : State) (l : Nat) (bs : List Byte) : (s.wrBytes l bs).nextSub = s.nextSub := (congrArg State.nextSub (wrBytes_frame s l bs) :)
@[simp] theorem wrBytes_issued (s : State) (l : Nat) (bs : List Byte) : (s.wrBytes l bs).issued = s.issued := (congrArg State.issued (wrBytes_frame s l bs) :)
@[simp] theorem wrBytes_groups (s : State) (l : Nat) (bs : List Byte) : (s.wrBytes l bs).groups = s.groups := (congrArg State.groups (wrBytes_frame s l bs) :)
@[simp] theorem wrBytes_wgs (s : State) (l : Nat) (bs : List Byte) : (s.wrBytes l bs).wgs = s.wgs := (congrArg State.wgs (wrBytes_frame s l bs) :)
@[simp] theorem wrBytes_cores (s : State) (l : Nat) (bs : List Byte) : (s.wrBytes l bs).cores = s.cores := (congrArg State.cores (wrBytes_frame s l bs) :)
@[simp] theorem wrBytes_banks (s : State) (l : Nat) (bs : List Byte) : (s.wrBytes l bs).banks = s.banks := (congrArg State.banks (wrBytes_frame s l bs) :)
@[simp] theorem wrBytes_engines (s : State) (l : Nat) (bs : List Byte) : (s.wrBytes l bs).engines = s.engines := (congrArg State.engines (wrBytes_frame s l bs) :)
@[simp] theorem wrBytes_ops (s : State) (l : Nat) (bs : List Byte) : (s.wrBytes l bs).ops = s.ops := (congrArg State.ops (wrBytes_frame s l bs) :)
@[simp] theorem wrBytes_holds (s : State) (l : Nat) (bs : List Byte) : (s.wrBytes l bs).holds = s.holds := (congrArg State.holds (wrBytes_frame s l bs) :)
@[simp] theorem wrBytes_ctxs (s : State) (l : Nat) (bs : List Byte) : (s.wrBytes l bs).ctxs = s.ctxs := (congrArg State.ctxs (wrBytes_frame s l bs) :)
@[simp] theorem wrBytes_fns (s : State) (l : Nat) (bs : List Byte) : (s.wrBytes l bs).fns = s.fns := (congrArg State.fns (wrBytes_frame s l bs) :)
@[simp] theorem wrBytes_packets (s : State) (l : Nat) (bs : List Byte) : (s.wrBytes l bs).packets = s.packets := (congrArg State.packets (wrBytes_frame s l bs) :)
@[simp] theorem wrBytes_launches (s : State) (l : Nat) (bs : List Byte) : (s.wrBytes l bs).launches = s.launches := (congrArg State.launches (wrBytes_frame s l bs) :)
@[simp] theorem wrBytes_graphs (s : State) (l : Nat) (bs : List Byte) : (s.wrBytes l bs).graphs = s.graphs := (congrArg State.graphs (wrBytes_frame s l bs) :)
@[simp] theorem wrBytes_phases (s : State) (l : Nat) (bs : List Byte) : (s.wrBytes l bs).phases = s.phases := (congrArg State.phases (wrBytes_frame s l bs) :)
@[simp] theorem wrBytes_jobs (s : State) (l : Nat) (bs : List Byte) : (s.wrBytes l bs).jobs = s.jobs := (congrArg State.jobs (wrBytes_frame s l bs) :)
@[simp] theorem wrBytes_tlb (s : State) (l : Nat) (bs : List Byte) : (s.wrBytes l bs).tlb = s.tlb := (congrArg State.tlb (wrBytes_frame s l bs) :)
@[simp] theorem wrBytes_owner (s : State) (l : Nat) (bs : List Byte) : (s.wrBytes l bs).owner = s.owner := (congrArg State.owner (wrBytes_frame s l bs) :)
@[simp] theorem wrBytes_markX (s : State) (l : Nat) (bs : List Byte) : (s.wrBytes l bs).markX = s.markX := (congrArg State.markX (wrBytes_frame s l bs) :)
@[simp] theorem wrBytes_markW (s : State) (l : Nat) (bs : List Byte) : (s.wrBytes l bs).markW = s.markW := (congrArg State.markW (wrBytes_frame s l bs) :)
@[simp] theorem wrBytes_bias (s : State) (l : Nat) (bs : List Byte) : (s.wrBytes l bs).bias = s.bias := (congrArg State.bias (wrBytes_frame s l bs) :)
@[simp] theorem wrBytes_homes (s : State) (l : Nat) (bs : List Byte) : (s.wrBytes l bs).homes = s.homes := (congrArg State.homes (wrBytes_frame s l bs) :)
@[simp] theorem wrBytes_badMac (s : State) (l : Nat) (bs : List Byte) : (s.wrBytes l bs).badMac = s.badMac := (congrArg State.badMac (wrBytes_frame s l bs) :)
@[simp] theorem wrBytes_badNode (s : State) (l : Nat) (bs : List Byte) : (s.wrBytes l bs).badNode = s.badNode := (congrArg State.badNode (wrBytes_frame s l bs) :)
@[simp] theorem wrBytes_worlds (s : State) (l : Nat) (bs : List Byte) : (s.wrBytes l bs).worlds = s.worlds := (congrArg State.worlds (wrBytes_frame s l bs) :)
@[simp] theorem wrBytes_fw (s : State) (l : Nat) (bs : List Byte) : (s.wrBytes l bs).fw = s.fw := (congrArg State.fw (wrBytes_frame s l bs) :)
@[simp] theorem wrBytes_moves (s : State) (l : Nat) (bs : List Byte) : (s.wrBytes l bs).moves = s.moves := (congrArg State.moves (wrBytes_frame s l bs) :)
@[simp] theorem wrBytes_switches (s : State) (l : Nat) (bs : List Byte) : (s.wrBytes l bs).switches = s.switches := (congrArg State.switches (wrBytes_frame s l bs) :)
@[simp] theorem wrBytes_rungs (s : State) (l : Nat) (bs : List Byte) : (s.wrBytes l bs).rungs = s.rungs := (congrArg State.rungs (wrBytes_frame s l bs) :)
@[simp] theorem wrBytes_dev (s : State) (l : Nat) (bs : List Byte) : (s.wrBytes l bs).dev = s.dev := (congrArg State.dev (wrBytes_frame s l bs) :)
@[simp] theorem wrBytes_fcode (s : State) (l : Nat) (bs : List Byte) : (s.wrBytes l bs).fcode = s.fcode := (congrArg State.fcode (wrBytes_frame s l bs) :)
@[simp] theorem wrBytes_mgmt (s : State) (l : Nat) (bs : List Byte) : (s.wrBytes l bs).mgmt = s.mgmt := (congrArg State.mgmt (wrBytes_frame s l bs) :)
@[simp] theorem wrBytes_att (s : State) (l : Nat) (bs : List Byte) : (s.wrBytes l bs).att = s.att := (congrArg State.att (wrBytes_frame s l bs) :)
@[simp] theorem wrBytes_recimg (s : State) (l : Nat) (bs : List Byte) : (s.wrBytes l bs).recimg = s.recimg := (congrArg State.recimg (wrBytes_frame s l bs) :)
@[simp] theorem wrBytes_flash (s : State) (l : Nat) (bs : List Byte) : (s.wrBytes l bs).flash = s.flash := (congrArg State.flash (wrBytes_frame s l bs) :)
@[simp] theorem wrBytes_age (s : State) (l : Nat) (bs : List Byte) : (s.wrBytes l bs).age = s.age := (congrArg State.age (wrBytes_frame s l bs) :)
@[simp] theorem wrBytes_targeth (s : State) (l : Nat) (bs : List Byte) : (s.wrBytes l bs).targeth = s.targeth := (congrArg State.targeth (wrBytes_frame s l bs) :)
@[simp] theorem wrBytes_targethNext (s : State) (l : Nat) (bs : List Byte) : (s.wrBytes l bs).targethNext = s.targethNext := (congrArg State.targethNext (wrBytes_frame s l bs) :)
@[simp] theorem wrBytes_wear (s : State) (l : Nat) (bs : List Byte) : (s.wrBytes l bs).wear = s.wear := (congrArg State.wear (wrBytes_frame s l bs) :)
@[simp] theorem wrBytes_wearAt (s : State) (l : Nat) (bs : List Byte) : (s.wrBytes l bs).wearAt = s.wearAt := (congrArg State.wearAt (wrBytes_frame s l bs) :)
@[simp] theorem wrBytes_windowAge (s : State) (l : Nat) (bs : List Byte) : (s.wrBytes l bs).windowAge = s.windowAge := (congrArg State.windowAge (wrBytes_frame s l bs) :)
@[simp] theorem wrBytes_spareOf (s : State) (l : Nat) (bs : List Byte) : (s.wrBytes l bs).spareOf = s.spareOf := (congrArg State.spareOf (wrBytes_frame s l bs) :)
@[simp] theorem wrBytes_ckptA (s : State) (l : Nat) (bs : List Byte) : (s.wrBytes l bs).ckptA = s.ckptA := (congrArg State.ckptA (wrBytes_frame s l bs) :)
@[simp] theorem wrBytes_ckptB (s : State) (l : Nat) (bs : List Byte) : (s.wrBytes l bs).ckptB = s.ckptB := (congrArg State.ckptB (wrBytes_frame s l bs) :)
@[simp] theorem wrBytes_vbs (s : State) (l : Nat) (bs : List Byte) : (s.wrBytes l bs).vbs = s.vbs := (congrArg State.vbs (wrBytes_frame s l bs) :)
@[simp] theorem wrBytes_lostDies (s : State) (l : Nat) (bs : List Byte) : (s.wrBytes l bs).lostDies = s.lostDies := (congrArg State.lostDies (wrBytes_frame s l bs) :)
@[simp] theorem wrBytes_repairs (s : State) (l : Nat) (bs : List Byte) : (s.wrBytes l bs).repairs = s.repairs := (congrArg State.repairs (wrBytes_frame s l bs) :)
@[simp] theorem wrBytes_selfid (s : State) (l : Nat) (bs : List Byte) : (s.wrBytes l bs).selfid = s.selfid := (congrArg State.selfid (wrBytes_frame s l bs) :)
@[simp] theorem wrBytes_routes (s : State) (l : Nat) (bs : List Byte) : (s.wrBytes l bs).routes = s.routes := (congrArg State.routes (wrBytes_frame s l bs) :)
@[simp] theorem wrBytes_links (s : State) (l : Nat) (bs : List Byte) : (s.wrBytes l bs).links = s.links := (congrArg State.links (wrBytes_frame s l bs) :)
@[simp] theorem wrBytes_peerOut (s : State) (l : Nat) (bs : List Byte) : (s.wrBytes l bs).peerOut = s.peerOut := (congrArg State.peerOut (wrBytes_frame s l bs) :)
@[simp] theorem wrBytes_peerIn (s : State) (l : Nat) (bs : List Byte) : (s.wrBytes l bs).peerIn = s.peerIn := (congrArg State.peerIn (wrBytes_frame s l bs) :)
@[simp] theorem wrBytes_hostData (s : State) (l : Nat) (bs : List Byte) : (s.wrBytes l bs).hostData = s.hostData := (congrArg State.hostData (wrBytes_frame s l bs) :)
@[simp] theorem wrBytes_hostRefused (s : State) (l : Nat) (bs : List Byte) : (s.wrBytes l bs).hostRefused = s.hostRefused := (congrArg State.hostRefused (wrBytes_frame s l bs) :)
@[simp] theorem wrBytes_peerAns (s : State) (l : Nat) (bs : List Byte) : (s.wrBytes l bs).peerAns = s.peerAns := (congrArg State.peerAns (wrBytes_frame s l bs) :)
@[simp] theorem wrBytes_got (s : State) (l : Nat) (bs : List Byte) : (s.wrBytes l bs).got = s.got := (congrArg State.got (wrBytes_frame s l bs) :)
@[simp] theorem wrBytes_asker (s : State) (l : Nat) (bs : List Byte) : (s.wrBytes l bs).asker = s.asker := (congrArg State.asker (wrBytes_frame s l bs) :)
@[simp] theorem wrBytes_wants (s : State) (l : Nat) (bs : List Byte) : (s.wrBytes l bs).wants = s.wants := (congrArg State.wants (wrBytes_frame s l bs) :)
@[simp] theorem wrBytes_toPeers (s : State) (l : Nat) (bs : List Byte) : (s.wrBytes l bs).toPeers = s.toPeers := (congrArg State.toPeers (wrBytes_frame s l bs) :)
@[simp] theorem wrBytes_locks (s : State) (l : Nat) (bs : List Byte) : (s.wrBytes l bs).locks = s.locks := (congrArg State.locks (wrBytes_frame s l bs) :)
@[simp] theorem wrBytes_moving (s : State) (l : Nat) (bs : List Byte) : (s.wrBytes l bs).moving = s.moving := (congrArg State.moving (wrBytes_frame s l bs) :)
@[simp] theorem wrBytes_heldBack (s : State) (l : Nat) (bs : List Byte) : (s.wrBytes l bs).heldBack = s.heldBack := (congrArg State.heldBack (wrBytes_frame s l bs) :)
@[simp] theorem wrBytes_hostLines (s : State) (l : Nat) (bs : List Byte) : (s.wrBytes l bs).hostLines = s.hostLines := (congrArg State.hostLines (wrBytes_frame s l bs) :)
@[simp] theorem wrBytes_l2 (s : State) (l : Nat) (bs : List Byte) : (s.wrBytes l bs).l2 = s.l2 := (congrArg State.l2 (wrBytes_frame s l bs) :)
@[simp] theorem wrBytes_hubc (s : State) (l : Nat) (bs : List Byte) : (s.wrBytes l bs).hubc = s.hubc := (congrArg State.hubc (wrBytes_frame s l bs) :)
@[simp] theorem wrBytes_dieAcq (s : State) (l : Nat) (bs : List Byte) : (s.wrBytes l bs).dieAcq = s.dieAcq := (congrArg State.dieAcq (wrBytes_frame s l bs) :)
@[simp] theorem wrBytes_fmtPend (s : State) (l : Nat) (bs : List Byte) : (s.wrBytes l bs).fmtPend = s.fmtPend := (congrArg State.fmtPend (wrBytes_frame s l bs) :)
@[simp] theorem wrBytes_ctrs (s : State) (l : Nat) (bs : List Byte) : (s.wrBytes l bs).ctrs = s.ctrs := (congrArg State.ctrs (wrBytes_frame s l bs) :)
@[simp] theorem wrBytes_frameCtrs (s : State) (l : Nat) (bs : List Byte) : (s.wrBytes l bs).frameCtrs = s.frameCtrs := (congrArg State.frameCtrs (wrBytes_frame s l bs) :)
@[simp] theorem wrBytes_mdc (s : State) (l : Nat) (bs : List Byte) : (s.wrBytes l bs).mdc = s.mdc := (congrArg State.mdc (wrBytes_frame s l bs) :)
@[simp] theorem wrBytes_enqBy (s : State) (l : Nat) (bs : List Byte) : (s.wrBytes l bs).enqBy = s.enqBy := (congrArg State.enqBy (wrBytes_frame s l bs) :)
@[simp] theorem wrBytes_failed (s : State) (l : Nat) (bs : List Byte) : (s.wrBytes l bs).failed = s.failed := (congrArg State.failed (wrBytes_frame s l bs) :)
@[simp] theorem wrBytes_nodeMet (s : State) (l : Nat) (bs : List Byte) : (s.wrBytes l bs).nodeMet = s.nodeMet := (congrArg State.nodeMet (wrBytes_frame s l bs) :)

/-! ### `wr` changes `mem` -/

theorem wr_frame (s : State) (l n v : Nat) : { s.wr l n v with mem := s.mem } = s := wrBytes_frame ..
@[simp] theorem wr_inputs (s : State) (l n v : Nat) : (s.wr l n v).inputs = s.inputs := (congrArg State.inputs (wr_frame s l n v) :)
@[simp] theorem wr_brought (s : State) (l n v : Nat) : (s.wr l n v).brought = s.brought := (congrArg State.brought (wr_frame s l n v) :)
@[simp] theorem wr_turns (s : State) (l n v : Nat) : (s.wr l n v).turns = s.turns := (congrArg State.turns (wr_frame s l n v) :)
@[simp] theorem wr_draw (s : State) (l n v : Nat) : (s.wr l n v).draw = s.draw := (congrArg State.draw (wr_frame s l n v) :)
@[simp] theorem wr_tick (s : State) (l n v : Nat) : (s.wr l n v).tick = s.tick := (congrArg State.tick (wr_frame s l n v) :)
@[simp] theorem wr_cur (s : State) (l n v : Nat) : (s.wr l n v).cur = s.cur := (congrArg State.cur (wr_frame s l n v) :)
@[simp] theorem wr_nextSub (s : State) (l n v : Nat) : (s.wr l n v).nextSub = s.nextSub := (congrArg State.nextSub (wr_frame s l n v) :)
@[simp] theorem wr_issued (s : State) (l n v : Nat) : (s.wr l n v).issued = s.issued := (congrArg State.issued (wr_frame s l n v) :)
@[simp] theorem wr_groups (s : State) (l n v : Nat) : (s.wr l n v).groups = s.groups := (congrArg State.groups (wr_frame s l n v) :)
@[simp] theorem wr_wgs (s : State) (l n v : Nat) : (s.wr l n v).wgs = s.wgs := (congrArg State.wgs (wr_frame s l n v) :)
@[simp] theorem wr_cores (s : State) (l n v : Nat) : (s.wr l n v).cores = s.cores := (congrArg State.cores (wr_frame s l n v) :)
@[simp] theorem wr_banks (s : State) (l n v : Nat) : (s.wr l n v).banks = s.banks := (congrArg State.banks (wr_frame s l n v) :)
@[simp] theorem wr_engines (s : State) (l n v : Nat) : (s.wr l n v).engines = s.engines := (congrArg State.engines (wr_frame s l n v) :)
@[simp] theorem wr_ops (s : State) (l n v : Nat) : (s.wr l n v).ops = s.ops := (congrArg State.ops (wr_frame s l n v) :)
@[simp] theorem wr_holds (s : State) (l n v : Nat) : (s.wr l n v).holds = s.holds := (congrArg State.holds (wr_frame s l n v) :)
@[simp] theorem wr_ctxs (s : State) (l n v : Nat) : (s.wr l n v).ctxs = s.ctxs := (congrArg State.ctxs (wr_frame s l n v) :)
@[simp] theorem wr_fns (s : State) (l n v : Nat) : (s.wr l n v).fns = s.fns := (congrArg State.fns (wr_frame s l n v) :)
@[simp] theorem wr_packets (s : State) (l n v : Nat) : (s.wr l n v).packets = s.packets := (congrArg State.packets (wr_frame s l n v) :)
@[simp] theorem wr_launches (s : State) (l n v : Nat) : (s.wr l n v).launches = s.launches := (congrArg State.launches (wr_frame s l n v) :)
@[simp] theorem wr_graphs (s : State) (l n v : Nat) : (s.wr l n v).graphs = s.graphs := (congrArg State.graphs (wr_frame s l n v) :)
@[simp] theorem wr_phases (s : State) (l n v : Nat) : (s.wr l n v).phases = s.phases := (congrArg State.phases (wr_frame s l n v) :)
@[simp] theorem wr_jobs (s : State) (l n v : Nat) : (s.wr l n v).jobs = s.jobs := (congrArg State.jobs (wr_frame s l n v) :)
@[simp] theorem wr_tlb (s : State) (l n v : Nat) : (s.wr l n v).tlb = s.tlb := (congrArg State.tlb (wr_frame s l n v) :)
@[simp] theorem wr_owner (s : State) (l n v : Nat) : (s.wr l n v).owner = s.owner := (congrArg State.owner (wr_frame s l n v) :)
@[simp] theorem wr_markX (s : State) (l n v : Nat) : (s.wr l n v).markX = s.markX := (congrArg State.markX (wr_frame s l n v) :)
@[simp] theorem wr_markW (s : State) (l n v : Nat) : (s.wr l n v).markW = s.markW := (congrArg State.markW (wr_frame s l n v) :)
@[simp] theorem wr_bias (s : State) (l n v : Nat) : (s.wr l n v).bias = s.bias := (congrArg State.bias (wr_frame s l n v) :)
@[simp] theorem wr_homes (s : State) (l n v : Nat) : (s.wr l n v).homes = s.homes := (congrArg State.homes (wr_frame s l n v) :)
@[simp] theorem wr_badMac (s : State) (l n v : Nat) : (s.wr l n v).badMac = s.badMac := (congrArg State.badMac (wr_frame s l n v) :)
@[simp] theorem wr_badNode (s : State) (l n v : Nat) : (s.wr l n v).badNode = s.badNode := (congrArg State.badNode (wr_frame s l n v) :)
@[simp] theorem wr_worlds (s : State) (l n v : Nat) : (s.wr l n v).worlds = s.worlds := (congrArg State.worlds (wr_frame s l n v) :)
@[simp] theorem wr_fw (s : State) (l n v : Nat) : (s.wr l n v).fw = s.fw := (congrArg State.fw (wr_frame s l n v) :)
@[simp] theorem wr_moves (s : State) (l n v : Nat) : (s.wr l n v).moves = s.moves := (congrArg State.moves (wr_frame s l n v) :)
@[simp] theorem wr_switches (s : State) (l n v : Nat) : (s.wr l n v).switches = s.switches := (congrArg State.switches (wr_frame s l n v) :)
@[simp] theorem wr_rungs (s : State) (l n v : Nat) : (s.wr l n v).rungs = s.rungs := (congrArg State.rungs (wr_frame s l n v) :)
@[simp] theorem wr_dev (s : State) (l n v : Nat) : (s.wr l n v).dev = s.dev := (congrArg State.dev (wr_frame s l n v) :)
@[simp] theorem wr_fcode (s : State) (l n v : Nat) : (s.wr l n v).fcode = s.fcode := (congrArg State.fcode (wr_frame s l n v) :)
@[simp] theorem wr_mgmt (s : State) (l n v : Nat) : (s.wr l n v).mgmt = s.mgmt := (congrArg State.mgmt (wr_frame s l n v) :)
@[simp] theorem wr_att (s : State) (l n v : Nat) : (s.wr l n v).att = s.att := (congrArg State.att (wr_frame s l n v) :)
@[simp] theorem wr_recimg (s : State) (l n v : Nat) : (s.wr l n v).recimg = s.recimg := (congrArg State.recimg (wr_frame s l n v) :)
@[simp] theorem wr_flash (s : State) (l n v : Nat) : (s.wr l n v).flash = s.flash := (congrArg State.flash (wr_frame s l n v) :)
@[simp] theorem wr_age (s : State) (l n v : Nat) : (s.wr l n v).age = s.age := (congrArg State.age (wr_frame s l n v) :)
@[simp] theorem wr_targeth (s : State) (l n v : Nat) : (s.wr l n v).targeth = s.targeth := (congrArg State.targeth (wr_frame s l n v) :)
@[simp] theorem wr_targethNext (s : State) (l n v : Nat) : (s.wr l n v).targethNext = s.targethNext := (congrArg State.targethNext (wr_frame s l n v) :)
@[simp] theorem wr_wear (s : State) (l n v : Nat) : (s.wr l n v).wear = s.wear := (congrArg State.wear (wr_frame s l n v) :)
@[simp] theorem wr_wearAt (s : State) (l n v : Nat) : (s.wr l n v).wearAt = s.wearAt := (congrArg State.wearAt (wr_frame s l n v) :)
@[simp] theorem wr_windowAge (s : State) (l n v : Nat) : (s.wr l n v).windowAge = s.windowAge := (congrArg State.windowAge (wr_frame s l n v) :)
@[simp] theorem wr_spareOf (s : State) (l n v : Nat) : (s.wr l n v).spareOf = s.spareOf := (congrArg State.spareOf (wr_frame s l n v) :)
@[simp] theorem wr_ckptA (s : State) (l n v : Nat) : (s.wr l n v).ckptA = s.ckptA := (congrArg State.ckptA (wr_frame s l n v) :)
@[simp] theorem wr_ckptB (s : State) (l n v : Nat) : (s.wr l n v).ckptB = s.ckptB := (congrArg State.ckptB (wr_frame s l n v) :)
@[simp] theorem wr_vbs (s : State) (l n v : Nat) : (s.wr l n v).vbs = s.vbs := (congrArg State.vbs (wr_frame s l n v) :)
@[simp] theorem wr_lostDies (s : State) (l n v : Nat) : (s.wr l n v).lostDies = s.lostDies := (congrArg State.lostDies (wr_frame s l n v) :)
@[simp] theorem wr_repairs (s : State) (l n v : Nat) : (s.wr l n v).repairs = s.repairs := (congrArg State.repairs (wr_frame s l n v) :)
@[simp] theorem wr_selfid (s : State) (l n v : Nat) : (s.wr l n v).selfid = s.selfid := (congrArg State.selfid (wr_frame s l n v) :)
@[simp] theorem wr_routes (s : State) (l n v : Nat) : (s.wr l n v).routes = s.routes := (congrArg State.routes (wr_frame s l n v) :)
@[simp] theorem wr_links (s : State) (l n v : Nat) : (s.wr l n v).links = s.links := (congrArg State.links (wr_frame s l n v) :)
@[simp] theorem wr_peerOut (s : State) (l n v : Nat) : (s.wr l n v).peerOut = s.peerOut := (congrArg State.peerOut (wr_frame s l n v) :)
@[simp] theorem wr_peerIn (s : State) (l n v : Nat) : (s.wr l n v).peerIn = s.peerIn := (congrArg State.peerIn (wr_frame s l n v) :)
@[simp] theorem wr_hostData (s : State) (l n v : Nat) : (s.wr l n v).hostData = s.hostData := (congrArg State.hostData (wr_frame s l n v) :)
@[simp] theorem wr_hostRefused (s : State) (l n v : Nat) : (s.wr l n v).hostRefused = s.hostRefused := (congrArg State.hostRefused (wr_frame s l n v) :)
@[simp] theorem wr_peerAns (s : State) (l n v : Nat) : (s.wr l n v).peerAns = s.peerAns := (congrArg State.peerAns (wr_frame s l n v) :)
@[simp] theorem wr_got (s : State) (l n v : Nat) : (s.wr l n v).got = s.got := (congrArg State.got (wr_frame s l n v) :)
@[simp] theorem wr_asker (s : State) (l n v : Nat) : (s.wr l n v).asker = s.asker := (congrArg State.asker (wr_frame s l n v) :)
@[simp] theorem wr_wants (s : State) (l n v : Nat) : (s.wr l n v).wants = s.wants := (congrArg State.wants (wr_frame s l n v) :)
@[simp] theorem wr_toPeers (s : State) (l n v : Nat) : (s.wr l n v).toPeers = s.toPeers := (congrArg State.toPeers (wr_frame s l n v) :)
@[simp] theorem wr_locks (s : State) (l n v : Nat) : (s.wr l n v).locks = s.locks := (congrArg State.locks (wr_frame s l n v) :)
@[simp] theorem wr_moving (s : State) (l n v : Nat) : (s.wr l n v).moving = s.moving := (congrArg State.moving (wr_frame s l n v) :)
@[simp] theorem wr_heldBack (s : State) (l n v : Nat) : (s.wr l n v).heldBack = s.heldBack := (congrArg State.heldBack (wr_frame s l n v) :)
@[simp] theorem wr_hostLines (s : State) (l n v : Nat) : (s.wr l n v).hostLines = s.hostLines := (congrArg State.hostLines (wr_frame s l n v) :)
@[simp] theorem wr_l2 (s : State) (l n v : Nat) : (s.wr l n v).l2 = s.l2 := (congrArg State.l2 (wr_frame s l n v) :)
@[simp] theorem wr_hubc (s : State) (l n v : Nat) : (s.wr l n v).hubc = s.hubc := (congrArg State.hubc (wr_frame s l n v) :)
@[simp] theorem wr_dieAcq (s : State) (l n v : Nat) : (s.wr l n v).dieAcq = s.dieAcq := (congrArg State.dieAcq (wr_frame s l n v) :)
@[simp] theorem wr_fmtPend (s : State) (l n v : Nat) : (s.wr l n v).fmtPend = s.fmtPend := (congrArg State.fmtPend (wr_frame s l n v) :)
@[simp] theorem wr_ctrs (s : State) (l n v : Nat) : (s.wr l n v).ctrs = s.ctrs := (congrArg State.ctrs (wr_frame s l n v) :)
@[simp] theorem wr_frameCtrs (s : State) (l n v : Nat) : (s.wr l n v).frameCtrs = s.frameCtrs := (congrArg State.frameCtrs (wr_frame s l n v) :)
@[simp] theorem wr_mdc (s : State) (l n v : Nat) : (s.wr l n v).mdc = s.mdc := (congrArg State.mdc (wr_frame s l n v) :)
@[simp] theorem wr_enqBy (s : State) (l n v : Nat) : (s.wr l n v).enqBy = s.enqBy := (congrArg State.enqBy (wr_frame s l n v) :)
@[simp] theorem wr_failed (s : State) (l n v : Nat) : (s.wr l n v).failed = s.failed := (congrArg State.failed (wr_frame s l n v) :)
@[simp] theorem wr_nodeMet (s : State) (l n v : Nat) : (s.wr l n v).nodeMet = s.nodeMet := (congrArg State.nodeMet (wr_frame s l n v) :)

/-! ### What a read gives after an update -/

@[simp] theorem grp?_setGrp_self (s : State) (g : Nat) (x : Group) : (s.setGrp g x).grp? g = some x := tget_tput_self ..

theorem grp?_updGrp (s : State) (g h : Nat) (f : Group → Group) :
    (s.updGrp g f).grp? h = if h = g then (s.grp? g).map f else s.grp? h := by
  unfold State.updGrp
  split <;> rename_i e
  · rw [show (s.setGrp g _).grp? h = _ from tget_tput ..]
    split <;> simp_all [State.grp?]
  · split <;> simp_all

theorem coreD_updCore (s : State) (c d : Nat) (f : Core → Core) :
    (s.updCore c f).coreD d = if d = c then f (s.coreD c) else s.coreD d := by
  simp [State.coreD, State.updCore, tval_tset]

theorem engD_updEng (s : State) (c d : Nat) (f : Engine → Engine) :
    (s.updEng c f).engD d = if d = c then f (s.engD c) else s.engD d := by
  simp [State.engD, State.updEng, tval_tset]

theorem linkD_updLink (s : State) (i j : Nat) (f : Link → Link) :
    (s.updLink i f).linkD j = if j = i then f (s.linkD i) else s.linkD j := by
  simp [State.linkD, State.updLink, tval_tset]

theorem wearD_updWear (s : State) (u v : Nat) (f : Wear → Wear) :
    (s.updWear u f).wearD v = if v = u then f (s.wearD u) else s.wearD v := by
  simp [State.wearD, State.updWear, tval_tset]

theorem bankD_setBank (s : State) (k j : Nat) (b : Bank) : (s.setBank k b).bankD j = if j = k then b else s.bankD j := by
  simp only [State.bankD, State.setBank, tget_tput]; split <;> rfl

/-- A function's record after a change of it; a function that is not there is not made. -/
theorem fnD_updFn (s : State) (fn h : Nat) (f : Func → Func) (hf : tget s.fns fn ≠ none) :
    (s.updFn fn f).fnD h = if h = fn then f (s.fnD fn) else s.fnD h := by
  unfold State.updFn
  split <;> rename_i e
  · simp only [State.fnD, tget_tput]; split <;> simp_all
  · exact absurd e hf

/-! ### Memory -/

theorem rdByte_wrByte (s : State) (l m : Nat) (b : Byte) : (s.wrByte l b).rdByte m = if m = l then b else s.rdByte m := by
  simp [State.rdByte, State.wrByte, tval_tset]

/-- A write leaves every byte outside it as it was. -/
theorem rdByte_wrBytes_out (s : State) (l m : Nat) (bs : List Byte) (h : m < l ∨ l + bs.length ≤ m) :
    (s.wrBytes l bs).rdByte m = s.rdByte m := by
  induction bs generalizing s l with
  | nil => rfl
  | cons b t ih =>
    simp only [List.length_cons] at h
    simp only [State.wrBytes]
    rw [ih _ _ (by omega), rdByte_wrByte, if_neg (by omega)]

/-- A written byte reads as it was written. -/
theorem rdByte_wrBytes (s : State) (l i : Nat) (bs : List Byte) (h : i < bs.length) :
    (s.wrBytes l bs).rdByte (l + i) = bs[i] := by
  induction bs generalizing s l i with
  | nil => simp at h
  | cons b t ih =>
    simp only [State.wrBytes]
    cases i with
    | zero => rw [rdByte_wrBytes_out _ _ _ _ (by omega), rdByte_wrByte]; simp
    | succ i =>
      have := ih (s.wrByte l b) (l + 1) i (by simpa using h)
      rw [show l + (i + 1) = l + 1 + i by omega, this]; rfl

/-- Every write keeps memory canonical. -/
theorem wf_wrByte (s : State) (l : Nat) (b : Byte) (h : Memory.wf s.mem = true) : Memory.wf (s.wrByte l b).mem = true :=
  twf_tset l b h

theorem wf_wrBytes (s : State) (l : Nat) (bs : List Byte) (h : Memory.wf s.mem = true) :
    Memory.wf (s.wrBytes l bs).mem = true := by
  induction bs generalizing s l with
  | nil => exact h
  | cons b t ih => exact ih _ _ (wf_wrByte s l b h)

theorem wf_wr (s : State) (l n v : Nat) (h : Memory.wf s.mem = true) : Memory.wf (s.wr l n v).mem = true :=
  wf_wrBytes s l _ h

/-- What is taken out of memory leaves it canonical. -/
theorem wf_filter (m : Table Byte) (q : Nat × Byte → Bool) (h : Memory.wf m = true) : Memory.wf (m.filter q) = true :=
  twf_filter q h

theorem wf_reset : Memory.wf State.reset.mem = true := rfl

end Sys2Proof.Machine
end

