-- ==== Sys2Proof/Laws/Memory.lean ====
section
/-! SUPPORT. Every operation over memory keeps its canonical form: columns, the point of coherence, the targets of
accesses, translation, and the return of frames. -/

namespace Sys2Proof.Machine

/-! ### The form through a fold, and through what leaves memory alone -/

theorem memOk_foldl {β : Type} {f : State → β → State} (h : ∀ s b, MemOk s → MemOk (f s b)) (l : List β) (s : State)
    (hs : MemOk s) : MemOk (l.foldl f s) := by
  induction l generalizing s with
  | nil => exact hs
  | cons b t ih => exact ih _ (h s b hs)

theorem memOk_of_mem {s t : State} (e : t.mem = s.mem) (h : MemOk s) : MemOk t := by unfold MemOk; rw [e]; exact h

theorem memOk_ite {p : Prop} [Decidable p] {a b : State} (ha : MemOk a) (hb : MemOk b) : MemOk (if p then a else b) := by
  split
  · exact ha
  · exact hb

theorem memOk_ite1 {β : Type} {p : Prop} [Decidable p] {a b : State × β} (ha : MemOk a.1) (hb : MemOk b.1) :
    MemOk (if p then a else b).1 := by
  split
  · exact ha
  · exact hb

theorem memOk_wrByte {s : State} (l : Nat) (b : Byte) (h : MemOk s) : MemOk (s.wrByte l b) := wf_wrByte s l b h
theorem memOk_wrBytes {s : State} (l : Nat) (bs : List Byte) (h : MemOk s) : MemOk (s.wrBytes l bs) := wf_wrBytes s l bs h
theorem memOk_wr {s : State} (l n v : Nat) (h : MemOk s) : MemOk (s.wr l n v) := wf_wr s l n v h
theorem memOk_setGrp {s : State} (g : Nat) (x : Group) (h : MemOk s) : MemOk (s.setGrp g x) := h
theorem memOk_updGrp {s : State} (g : Nat) (f : Group → Group) (h : MemOk s) : MemOk (s.updGrp g f) :=
  memOk_of_mem (updGrp_mem s g f) h
theorem memOk_updWg {s : State} (w : Nat) (f : Workgroup → Workgroup) (h : MemOk s) : MemOk (s.updWg w f) :=
  memOk_of_mem (updWg_mem s w f) h
theorem memOk_updCore {s : State} (c : Nat) (f : Core → Core) (h : MemOk s) : MemOk (s.updCore c f) := h
theorem memOk_updCtx {s : State} (fn c : Nat) (f : Context → Context) (h : MemOk s) : MemOk (s.updCtx fn c f) :=
  memOk_of_mem (updCtx_mem s fn c f) h
theorem memOk_updFn {s : State} (fn : Nat) (f : Func → Func) (h : MemOk s) : MemOk (s.updFn fn f) :=
  memOk_of_mem (updFn_mem s fn f) h
theorem memOk_updLaunch {s : State} (l : Nat) (f : Launch → Launch) (h : MemOk s) : MemOk (s.updLaunch l f) :=
  memOk_of_mem (updLaunch_mem s l f) h
theorem memOk_updLink {s : State} (i : Nat) (f : Link → Link) (h : MemOk s) : MemOk (s.updLink i f) := h
theorem memOk_tlbDrop {s : State} (p : TlbEntry → Bool) (h : MemOk s) : MemOk (s.tlbDrop p) := h

/-! ### Caches (R307 to R311) -/

theorem l1Map_mem (s : State) (line : Nat) (p : Nat → Bool) (f : L1Line → Option L1Line) : (s.l1Map line p f).mem = s.mem := rfl
theorem recall_mem (s : State) (line : Nat) : (s.recall line).mem = s.mem := rfl
theorem dropL1_mem (s : State) (die line : Nat) : (s.dropL1 die line).mem = s.mem := rfl
theorem l1Fill_mem (s : State) (die c line : Nat) (d : List Byte) (b : Bool) : (s.l1Fill die c line d b).mem = s.mem := rfl
theorem l1Write_mem (s : State) (die c line : Nat) (d : List Byte) (b : Bool) : (s.l1Write die c line d b).mem = s.mem := rfl
theorem cacheDrop_mem (s : State) (lo n : Nat) : (s.cacheDrop lo n).mem = s.mem := rfl
theorem columnPut_mem (s : State) (die c line : Nat) (e : ColLine) : (s.columnPut die c line e).mem = s.mem := rfl
theorem acqNote_mem (s : State) (c : Nat) : (s.acqNote c).mem = s.mem := rfl
theorem hostOwn_mem (s : State) (loc : Nat) : (s.hostOwn loc).mem = s.mem := rfl
theorem countFrame_mem (s : State) (f : Nat) : (s.countFrame f).mem = s.mem := rfl
theorem icDrop_mem (s : State) (p : Nat → Bool) : (s.icDrop p).mem = s.mem := rfl

theorem l1Read_mem (s : State) (die c line : Nat) : (s.l1Read die c line).mem = s.mem := by
  unfold State.l1Read; split <;> rfl

theorem ctlTouch_mem (s : State) (c g off : Nat) : (s.ctlTouch c g off).mem = s.mem := by
  unfold State.ctlTouch; dsimp only; split <;> rfl

theorem hostOwnAt_mem (s : State) (loc : Nat) : (s.hostOwnAt loc).mem = s.mem := by
  unfold State.hostOwnAt; split <;> rfl

theorem countLine_mem (s : State) (line : Nat) : (s.countLine line).mem = s.mem := by
  unfold State.countLine; split <;> rfl

theorem foldl_mem {β : Type} {f : State → β → State} (h : ∀ s b, (f s b).mem = s.mem) (l : List β) (s : State) :
    (l.foldl f s).mem = s.mem := by
  induction l generalizing s with
  | nil => rfl
  | cons b t ih => exact (ih _).trans (h s b)

theorem countLines_mem (s : State) (l n : Nat) : (s.countLines l n).mem = s.mem := foldl_mem (fun _ _ => countLine_mem ..) _ _

theorem noteNode_mem (s : State) (loc : Nat) : (s.noteNode loc).mem = s.mem := by
  unfold State.noteNode; split
  · rfl
  · split <;> rfl

theorem verifyLine_mem (s : State) (line : Nat) : (s.verifyLine line).mem = s.mem := by
  unfold State.verifyLine; dsimp only; split <;> rfl

theorem charge_mem (s : State) (fn pj : Nat) : (s.charge fn pj).mem = s.mem := updFn_mem ..

theorem chargeAt_mem (s : State) (fn loc n : Nat) : (s.chargeAt fn loc n).mem = s.mem := by
  unfold State.chargeAt; split
  · rfl
  · exact charge_mem ..

theorem memOk_recall {s : State} (line : Nat) (h : MemOk s) : MemOk (s.recall line) := memOk_of_mem (recall_mem s line) h
theorem memOk_countLine {s : State} (line : Nat) (h : MemOk s) : MemOk (s.countLine line) := memOk_of_mem (countLine_mem s line) h
theorem memOk_charge {s : State} (fn pj : Nat) (h : MemOk s) : MemOk (s.charge fn pj) := memOk_updFn _ _ h
theorem memOk_chargeAt {s : State} (fn loc n : Nat) (h : MemOk s) : MemOk (s.chargeAt fn loc n) := memOk_of_mem (chargeAt_mem ..) h
theorem memOk_hostOwnAt {s : State} (loc : Nat) (h : MemOk s) : MemOk (s.hostOwnAt loc) := memOk_of_mem (hostOwnAt_mem ..) h
theorem memOk_noteNode {s : State} (loc : Nat) (h : MemOk s) : MemOk (s.noteNode loc) := memOk_of_mem (noteNode_mem ..) h
theorem memOk_verifyLine {s : State} (line : Nat) (h : MemOk s) : MemOk (s.verifyLine line) := memOk_of_mem (verifyLine_mem ..) h

/-! ### Columns (R312, R443) -/

theorem memOk_writeBack {s : State} (die : Nat) (e : DirtyLine) (h : MemOk s) : MemOk (s.writeBack die e) := by
  unfold State.writeBack
  split
  · exact h
  · have k : MemOk (e.bytes.foldl (fun t p => t.wrByte (128 * e.line + p.1) p.2) s) :=
      memOk_foldl (fun _ _ h => memOk_wrByte _ _ h) _ _ h
    dsimp only
    split
    · exact memOk_chargeAt _ _ _ (memOk_countLine _ (memOk_of_mem rfl k))
    · exact memOk_countLine _ (memOk_of_mem rfl k)

theorem memOk_cleanCore {s : State} (c : Nat) (h : MemOk s) : MemOk (s.cleanCore c) :=
  memOk_updCore _ _ (memOk_foldl (fun _ _ h => memOk_writeBack _ _ h) _ _ h)

theorem memOk_cleanDie {s : State} (die : Nat) (h : MemOk s) : MemOk (s.cleanDie die) :=
  memOk_foldl (fun _ _ h => memOk_cleanCore _ h) _ _ h

theorem memOk_cleanLine {s : State} (die line : Nat) (h : MemOk s) : MemOk (s.cleanLine die line) :=
  memOk_foldl (fun t c h => by
    split
    · exact h
    · exact memOk_updCore _ _ (memOk_writeBack _ _ h)) _ _ h

theorem memOk_dropCopies {s : State} (die line : Nat) (k : Option Nat) (h : MemOk s) : MemOk (s.dropCopies die line k) :=
  memOk_foldl (fun t c h => by
    split
    · exact h
    · split <;> exact h) _ _ h

theorem memOk_discardLines {s : State} (lo n : Nat) (h : MemOk s) : MemOk (s.discardLines lo n) :=
  memOk_of_mem (cacheDrop_mem _ lo n) (memOk_foldl (fun _ _ h => memOk_updCore _ _ h) _ _ h)

theorem memOk_flushLines {s : State} (lo n : Nat) (h : MemOk s) : MemOk (s.flushLines lo n) :=
  memOk_discardLines _ _ (memOk_foldl (fun _ _ h => memOk_foldl (fun _ _ h => memOk_writeBack _ _ h) _ _ h) _ _ h)

theorem memOk_toHub {s : State} (die line : Nat) (h : MemOk s) : MemOk (s.toHub die line) :=
  memOk_recall _ (memOk_of_mem (dropL1_mem ..) (memOk_dropCopies _ _ _ (memOk_cleanLine _ _ h)))

theorem memOk_bankWrite {s : State} (l n x : Nat) (h : MemOk s) : MemOk (s.bankWrite l n x) :=
  memOk_of_mem (countLines_mem ..) (memOk_wr _ _ _ (memOk_hostOwnAt _ (memOk_recall _ h)))

theorem memOk_farRead {s : State} (die c l n : Nat) (col first : Bool) (h : MemOk s) : MemOk (s.farRead die c l n col first).1 := by
  unfold State.farRead
  dsimp only
  split
  · exact h
  · split
    · exact h
    · exact memOk_of_mem (l1Fill_mem ..) (memOk_ite (memOk_of_mem (columnPut_mem ..) h) h)

theorem memOk_columnWrite {s : State} (die c l : Nat) (bs : List Byte) (h : MemOk s) : MemOk (s.columnWrite die c l bs) := by
  have h1 : ∀ line, MemOk ((coresOf die).foldl (fun t c' =>
      if c' = c ∨ (t.dirtyOf c' line).isNone then t
      else t.updCore c' fun k => { k with dirty := k.dirty.filter fun e => !decide (e.line = line) }) s) := fun line =>
    memOk_foldl (fun t c' h => by split <;> exact h) _ _ h
  have h2 := memOk_dropCopies die (l / 128) (some c) (h1 (l / 128))
  unfold State.columnWrite
  dsimp only
  refine memOk_updCore _ _ ?_
  split
  · split
    · exact memOk_updCore _ _ (memOk_writeBack _ _ h2)
    · exact h2
  · exact h2

theorem memOk_farWrite {s : State} (die c l : Nat) (bs : List Byte) (col first : Bool) (h : MemOk s) :
    MemOk (s.farWrite die c l bs col first) :=
  memOk_of_mem (l1Write_mem ..) (memOk_ite (memOk_columnWrite _ _ _ _ h)
    (memOk_countLine _ (memOk_wrBytes _ _ (memOk_recall _ (memOk_dropCopies _ _ _ (memOk_cleanLine _ _ h))))))

theorem memOk_nextGen {s : State} (c : Nat) (h : MemOk s) : MemOk (s.nextGen c) := by
  unfold State.nextGen
  split
  · exact memOk_updCore _ _ (memOk_cleanCore _ h)
  · exact h

theorem memOk_release {s : State} (die scp : Nat) (h : MemOk s) : MemOk (s.release die scp) := by
  unfold State.release; split
  · exact memOk_cleanDie _ h
  · exact h

theorem memOk_acquire {s : State} (c scp : Nat) (h : MemOk s) : MemOk (s.acquire c scp) := by
  unfold State.acquire; split
  · exact memOk_of_mem (acqNote_mem _ c) (memOk_nextGen _ h)
  · split
    · exact h
    · exact memOk_updCore _ _ h

/-! ### The target of an access (R302, R310, Table 8.7) -/

theorem memOk_fmtWrite {s : State} (v : View) (base size off n x : Nat) (h : MemOk s) : MemOk (s.fmtWrite v base size off n x) :=
  memOk_foldl (f := fun t j => { t with fmtPend := t.fmtPend ++ [{
      grp := v.grp, die := v.die, loc := fmtElemLoc base (off / 2 + j)
      val := BitVec.ofNat 8 (aliasWrite (t.rdByte (fmtScaleLoc base size (off / 2 + j))).toNat (x / 2 ^ (16 * j) % 65536)) }] })
    (fun _ _ h => h) (List.range (n / 2)) s h

theorem memOk_fmtLand {s : State} (f : FmtStore) (h : MemOk s) : MemOk (s.fmtLand f) :=
  memOk_countLine _ (memOk_recall _ (memOk_of_mem (dropL1_mem ..) (memOk_dropCopies _ _ _ (memOk_wrByte _ _ h))))

theorem memOk_fmtFence {s : State} (g : Nat) (h : MemOk s) : MemOk (s.fmtFence g) :=
  memOk_foldl (fun _ f h => memOk_fmtLand f h) _ _ (memOk_of_mem rfl h)

theorem memOk_fmtAll {s : State} (h : MemOk s) : MemOk s.fmtAll :=
  memOk_foldl (fun _ f h => memOk_fmtLand f h) _ _ (memOk_of_mem rfl h)

theorem memOk_fmtNext {s : State} (h : MemOk s) : MemOk s.fmtNext := by
  unfold State.fmtNext
  split
  · exact h
  · exact memOk_fmtLand _ (memOk_of_mem rfl h)

theorem memOk_fmtSettle {s : State} (h : MemOk s) : MemOk s.fmtSettle := by
  unfold State.fmtSettle
  dsimp only
  have k : MemOk { s with draw := s.draw + 1 } := memOk_of_mem rfl h
  exact memOk_ite h (memOk_ite (memOk_fmtNext k) k)

theorem memOk_reach {s : State} (v : View) (l : Nat) (h : MemOk s) : MemOk (s.reach v l) :=
  memOk_ite (memOk_recall _ h) (memOk_toHub _ _ h)

theorem peerNeed_mem (s : State) (o : PeerOut) : (s.peerNeed o).1.mem = s.mem := by
  unfold State.peerNeed
  split
  · dsimp only; split <;> rfl
  · split <;> rfl

theorem peerRead_mem (s : State) (v : View) (p pa n : Nat) (a : Word) (k : Nat) : (s.peerRead v p pa n a k).1.mem = s.mem := by
  unfold State.peerRead
  dsimp only
  split <;> exact peerNeed_mem ..

theorem memOk_peerNeed {s : State} (o : PeerOut) (h : MemOk s) : MemOk (s.peerNeed o).1 := memOk_of_mem (peerNeed_mem s o) h
theorem memOk_peerRead {s : State} (v : View) (p pa n : Nat) (a : Word) (k : Nat) (h : MemOk s) : MemOk (s.peerRead v p pa n a k).1 :=
  memOk_of_mem (peerRead_mem ..) h

theorem memOk_fmtPeerRead {s : State} (v : View) (p b z o n : Nat) (a : Word) (k : Nat) (h : MemOk s) :
    MemOk (s.fmtPeerRead v p b z o n a k).1 := memOk_peerRead _ _ _ _ _ _ (memOk_peerRead _ _ _ _ _ _ h)

theorem memOk_readT {s : State} (v : View) (t : Target) (n : Nat) (hub : Bool) (h : MemOk s) : MemOk (s.readT v t n hub).1 := by
  unfold State.readT
  split
  · exact memOk_ite h (memOk_of_mem (ctlTouch_mem ..) h)
  · exact h
  · exact memOk_ite1 (memOk_reach v _ h) (memOk_ite1 (memOk_of_mem (l1Read_mem ..) h) (memOk_farRead _ _ _ _ _ _ h))
  · exact h
  · exact h
  · exact memOk_fmtPeerRead _ _ _ _ _ _ _ _ h
  · exact h
  · exact h

theorem memOk_writeT {s : State} (v : View) (t : Target) (n : Nat) (hub : Bool) (x : Nat) (h : MemOk s) :
    MemOk (s.writeT v t n hub x) := by
  unfold State.writeT
  split
  · exact h
  · exact memOk_wr _ n x h
  · exact memOk_ite (memOk_countLine _ (memOk_wr _ n x (memOk_reach v _ h)))
      (memOk_ite (memOk_countLine _ (memOk_wr _ n x (memOk_of_mem (l1Write_mem ..) h))) (memOk_farWrite _ _ _ _ _ _ h))
  · exact memOk_fmtWrite v _ _ _ n x h
  · exact h

theorem memOk_debit {s : State} (fn src cls bytes : Nat) (h : MemOk s) : MemOk (s.debit fn src cls bytes) := memOk_updFn _ _ h

theorem memOk_touch {s : State} (fn ctx : Nat) (ds : List Nat) (h : MemOk s) : MemOk (s.touch fn ctx ds) := memOk_updCtx _ _ _ h

theorem memOk_peerSend {s : State} (o : PeerOut) (h : MemOk s) : MemOk (s.peerSend o) := by
  have k0 : MemOk (match o.rel with | some d => s.release d 3 | none => s) := by
    split
    · exact memOk_release _ _ h
    · exact h
  unfold State.peerSend
  lift_lets
  intro s0 n s1 out s2
  have k1 : MemOk s1 := memOk_touch _ _ _ (memOk_debit _ _ _ _ (memOk_charge _ _ k0))
  have k2 : MemOk s2 := by
    show MemOk (match out.link with | some i => s1.sendOn i out | none => s1)
    clear_value s1 out
    split
    · exact k1
    · exact k1
  exact memOk_of_mem (s := s2) rfl k2

theorem answer_mem (s : State) (id : Nat) (a : PeerAns) : (s.answer id a).mem = s.mem := by
  unfold State.answer
  split <;> rfl

theorem memOk_answer {s : State} (id : Nat) (a : PeerAns) (h : MemOk s) : MemOk (s.answer id a) := memOk_of_mem (answer_mem s id a) h

theorem memOk_readP {s : State} (v : View) (t : Target) (n : Nat) (a : Word) (k : Nat) (h : MemOk s) :
    MemOk (s.readP v t n a k).1 := by
  unfold State.readP
  split
  · exact memOk_peerRead _ _ _ _ _ _ h
  · exact memOk_fmtPeerRead _ _ _ _ _ _ _ _ h
  · exact h
  · exact memOk_readT _ _ _ _ h

theorem memOk_gotPatch {s : State} (p pa : Nat) (bs : List Byte) (h : MemOk s) : MemOk (s.gotPatch p pa bs) :=
  memOk_ite h (memOk_of_mem rfl h)

theorem memOk_peerWrite {s : State} (v : View) (p pa n x : Nat) (a : Word) (k l : Nat) (h : MemOk s) :
    MemOk (s.peerWrite v p pa n x a k l) := memOk_gotPatch _ _ _ (memOk_peerSend _ h)

theorem memOk_writeP {s : State} (v : View) (t : Target) (n x : Nat) (a : Word) (k : Nat) (h : MemOk s) :
    MemOk (s.writeP v t n x a k) := by
  unfold State.writeP
  split
  · exact memOk_peerWrite _ _ _ _ _ _ _ _ h
  · exact memOk_writeT _ _ _ _ _ h

theorem memOk_readPs {s : State} (v : View) (n kd : Nat) (l : List Piece) (h : MemOk s) : MemOk (s.readPs v n kd l).1 := by
  induction l generalizing s with
  | nil => exact h
  | cons p t ih =>
    have k := memOk_readP v p.tgt n p.addr kd h
    unfold State.readPs
    dsimp only
    split
    · exact k
    · split <;> exact ih k

theorem memOk_askAll {s : State} (v : View) (n kd : Nat) (l : List Piece) (h : MemOk s) : MemOk (s.askAll v n kd l).1 := by
  induction l generalizing s with
  | nil => exact h
  | cons p t ih =>
    unfold State.askAll
    dsimp only
    split
    · exact ih (memOk_readP v p.tgt n p.addr kd h)
    · exact ih h

theorem memOk_readNeed {s : State} (v : View) (n kd : Nat) (l : List Piece) (h : MemOk s) : MemOk (s.readNeed v n kd l).1 := by
  induction l generalizing s with
  | nil => exact h
  | cons p t ih => exact ih (memOk_readP v p.tgt n p.addr kd h)

theorem memOk_rmwNeed {s : State} (v : View) (n kd : Nat) (f : Nat → Nat → Nat) (l : List Piece) (h : MemOk s) :
    MemOk (s.rmwNeed v n kd f l) := by
  induction l generalizing s with
  | nil => exact h
  | cons p t ih =>
    have k := memOk_readP v p.tgt n p.addr kd h
    unfold State.rmwNeed
    dsimp only
    split
    · exact ih (memOk_writeP _ _ _ _ _ _ k)
    · exact ih k

theorem memOk_readAll {s : State} (v : View) (n : Nat) (hub : Bool) (l : List Piece) (h : MemOk s) : MemOk (s.readAll v n hub l).1 := by
  induction l generalizing s with
  | nil => exact h
  | cons p t ih => exact ih (memOk_readT _ _ _ _ h)

theorem memOk_writeAll {s : State} (v : View) (n kd : Nat) (hub : Bool) (l : List (Piece × Nat)) (h : MemOk s) :
    MemOk (s.writeAll v n kd hub l) := by
  induction l generalizing s with
  | nil => exact h
  | cons p t ih =>
    unfold State.writeAll
    dsimp only
    refine ih ?_
    have k := memOk_writeT v p.1.tgt n hub p.2 h
    split
    · exact memOk_peerWrite _ _ _ _ _ _ _ _ k
    · exact memOk_peerWrite _ _ _ _ _ _ _ _ (memOk_peerRead _ _ _ _ _ _ k)
    · exact k

theorem memOk_rmwAll {s : State} (v : View) (n : Nat) (hub : Bool) (f : Nat → Nat → Nat) (l : List Piece) (h : MemOk s) :
    MemOk (s.rmwAll v n hub f l).1 := by
  induction l generalizing s with
  | nil => exact h
  | cons p t ih => exact ih (memOk_writeT _ _ _ _ _ (memOk_readT _ _ _ _ h))

theorem targetOf_mem (s : State) (sp va : Nat) (l : Word) (size : Nat) : (s.targetOf sp va l size).1.mem = s.mem := by
  have k : ∀ (p : Prop) [Decidable p] (t : State) (a : Nat), (if p then t.hostOwn a else t).mem = t.mem := by
    intro p _ t a; split <;> rfl
  unfold State.targetOf
  dsimp only
  split
  · rfl
  · exact hostOwn_mem ..
  · split
    · exact noteNode_mem ..
    · split
      · split
        · exact noteNode_mem ..
        · exact (k _ _ _).trans (verifyLine_mem ..)
      · exact (k _ _ _).trans (verifyLine_mem ..)

/-! ### Translation (R355 to R361) -/

theorem memOk_noteWalk {s : State} (c : Context) (sp va : Nat) (h : MemOk s) : MemOk (s.noteWalk c sp va) :=
  memOk_ite h (memOk_foldl (fun _ _ h => memOk_verifyLine _ (memOk_noteNode _ h)) _ _ h)

theorem memOk_takeOwners {s : State} (world : Nat) (priv : Bool) (l : List Nat) (h : MemOk s) : MemOk (s.takeOwners world priv l).1 := by
  induction l generalizing s with
  | nil => exact h
  | cons f t ih =>
    unfold State.takeOwners
    dsimp only
    split
    · exact ih h
    · split
      · exact ih h
      · exact h

theorem memOk_setBias {s : State} (f : Nat) (host : Bool) (h : MemOk s) : MemOk (s.setBias f host) :=
  memOk_ite h (memOk_of_mem rfl (memOk_flushLines (512 * f) 512 h))

theorem mark_mem (s : State) (world : Nat) (l : Word) (fs : List Nat) : (s.mark world l fs).mem = s.mem := by
  unfold State.mark
  split
  · rfl
  · induction fs generalizing s with
    | nil => rfl
    | cons f t ih => rw [List.foldl_cons, ih]

theorem memOk_mark {s : State} (world : Nat) (l : Word) (fs : List Nat) (h : MemOk s) : MemOk (s.mark world l fs) :=
  memOk_of_mem (mark_mem s world l fs) h

theorem memOk_own {s : State} (l : Word) (world : Nat) (fs : List Nat) (h : MemOk s) :
    MemOk (if leafTier l ≤ 1 then s.takeOwners world (leafPriv l) fs else (s, true)).1 :=
  memOk_ite1 (memOk_takeOwners _ _ _ h) h

theorem memOk_hubWalk {s : State} (fn ctx va : Nat) (w p : Bool) (h : MemOk s) : MemOk (s.hubWalk fn ctx va w p).1 := by
  unfold State.hubWalk
  have h := memOk_noteWalk (s.ctxD fn ctx) 0 va h
  dsimp only
  split
  · rename_i l place size _ _
    have k := memOk_own l ((((s.noteWalk (s.ctxD fn ctx) 0 va)).hubView fn ctx).asPriv p).world (framesOf l size) h
    exact memOk_ite1 h (memOk_ite1 k (memOk_touch _ _ _ (memOk_mark _ _ _ (memOk_ite k (memOk_bankWrite _ _ _ k)))))
  · exact h

theorem memOk_hubTouch {s : State} (fn loc n : Nat) (h : MemOk s) : MemOk (s.hubTouch fn loc n) :=
  memOk_chargeAt _ _ _ (memOk_verifyLine _ (memOk_noteNode _ (memOk_hostOwnAt _ h)))

theorem memOk_hubOpen {s : State} (fn ctx va : Nat) (p : Bool) (h : MemOk s) : MemOk (s.hubOpen fn ctx va p).1 := by
  have k := memOk_hubWalk fn ctx va false p h
  unfold State.hubOpen
  generalize s.hubWalk fn ctx va false p = r at k
  obtain ⟨t, pl, pr⟩ := r
  rcases pl with _ | l | ⟨q, pa⟩
  · exact k
  · exact memOk_hubTouch fn l 128 (memOk_recall (l / 128) k)
  · dsimp only
    split
    · exact k
    · exact memOk_of_mem (s := t) rfl k

theorem memOk_hubOpenAll {s : State} (fn ctx va n : Nat) (p : Bool) (h : MemOk s) : MemOk (s.hubOpenAll fn ctx va n p).1 := by
  unfold State.hubOpenAll
  generalize List.range ((va % 128 + n + 127) / 128) = l
  suffices H : ∀ a : State × List PageRef, MemOk a.1 → MemOk (l.foldl (fun a i =>
      let r := a.1.hubOpen fn ctx (va / 128 * 128 + 128 * i) p
      (r.1, a.2 ++ r.2)) a).1 from H (s, []) h
  induction l with
  | nil => intro a ha; exact ha
  | cons b t ih => intro a ha; exact ih _ (memOk_hubOpen _ _ _ _ ha)

theorem memOk_wsOpen {s : State} (fn ctx : Nat) (h : MemOk s) : MemOk (s.wsOpen fn ctx).1 := by
  have k := memOk_hubOpen fn ctx (s.ctxD fn ctx).wshdr.toNat false h
  unfold State.wsOpen
  dsimp only
  split
  · exact h
  · split
    · exact k
    · exact memOk_hubOpenAll _ _ _ _ _ k

theorem memOk_hubStore {s : State} (fn ctx va n x : Nat) (p : Bool) (h : MemOk s) : MemOk (s.hubStore fn ctx va n x p).1 := by
  have k := memOk_hubWalk fn ctx va true p h
  unfold State.hubStore
  generalize s.hubWalk fn ctx va true p = r at k
  obtain ⟨t, pl, pr⟩ := r
  rcases pl with _ | l | ⟨q, pa⟩
  · exact k
  · exact memOk_hubTouch fn l n (memOk_bankWrite l n x k)
  · exact memOk_gotPatch _ _ _ (memOk_of_mem (s := t) rfl k)

theorem memOk_wsPush {s : State} (fn ctx : Nat) (e : Word) (h : MemOk s) : MemOk (s.wsPush fn ctx e).1 := by
  have st : ∀ {t : State} a n x, MemOk t → MemOk (t.hubStore fn ctx a n x).1 := fun a n x k => memOk_hubStore fn ctx a n x false k
  unfold State.wsPush
  dsimp only
  split
  · exact h
  · split
    · exact st _ _ _ h
    · split
      · exact h
      · have k1 := st (s.hubRd fn ctx ((s.ctxD fn ctx).wshdr.toNat + 0x20) 8 + 8 * s.hubRd fn ctx ((s.ctxD fn ctx).wshdr.toNat + 8) 4) 8 e.toNat h
        generalize s.hubStore fn ctx _ 8 e.toNat = p at k1 ⊢
        have k2 := st ((s.ctxD fn ctx).wshdr.toNat + 8) 4 (s.hubRd fn ctx ((s.ctxD fn ctx).wshdr.toNat + 8) 4 + 1) k1
        generalize p.1.hubStore fn ctx _ 4 _ = q at k2 ⊢
        split
        · exact st _ _ _ k2
        · exact k2

theorem memOk_wsNotes {s : State} (fn ctx n : Nat) (ps : List PageRef) (h : MemOk s) : MemOk (s.wsNotes fn ctx n ps) := by
  induction n generalizing s ps with
  | zero => exact h
  | succ n ih =>
    have k : ∀ (l : List PageRef) (a : State × List PageRef), MemOk a.1 →
        MemOk (l.foldl (fun (a : State × List PageRef) p =>
          if a.1.wsWants fn ctx p.sp p.va then
            let q := a.1.wsPush fn ctx (setBits (wsEntry p.size (p.va / p.size * p.size) p.sp) 4 4 (if p.tier = 0 then 1 else 0))
            (q.1, a.2 ++ q.2)
          else a) a).1 := by
      intro l
      induction l with
      | nil => intro a ha; exact ha
      | cons p t ih => intro a ha; exact ih _ (memOk_ite1 (memOk_wsPush _ _ _ ha) ha)
    exact memOk_ite h (ih _ (k _ ((s.wsOpen fn ctx).1, []) (memOk_wsOpen _ _ h)))

theorem memOk_wsRecord {s : State} (fn ctx sp va size tier : Nat) (h : MemOk s) : MemOk (s.wsRecord fn ctx sp va size tier) :=
  memOk_wsNotes _ _ _ _ h

theorem memOk_wsReady {s : State} (fn ctx : Nat) (h : MemOk s) : MemOk (s.wsReady fn ctx) :=
  memOk_wsNotes _ _ _ _ (memOk_wsOpen _ _ h)

theorem memOk_wsAppend {s : State} (fn ctx : Nat) (e : Word) (h : MemOk s) : MemOk (s.wsAppend fn ctx e) :=
  memOk_wsNotes _ _ _ _ (memOk_wsPush _ _ _ (memOk_wsReady _ _ h))

theorem memOk_hubLoc {s : State} (fn ctx va : Nat) (w : Bool) (h : MemOk s) : MemOk (s.hubLoc fn ctx va w).1 :=
  memOk_wsNotes _ _ _ _ (memOk_hubWalk _ _ _ _ _ h)

theorem memOk_hubPut {s : State} (fn ctx va n x : Nat) (p : Bool) (h : MemOk s) : MemOk (s.hubPut fn ctx va n x p) :=
  memOk_wsNotes _ _ _ _ (memOk_hubStore _ _ _ _ _ _ h)

theorem memOk_saveStore {s : State} (fn ctx va n x : Nat) (h : MemOk s) : MemOk (s.saveStore fn ctx va n x) := memOk_hubPut _ _ _ _ _ _ h

theorem memOk_tlbFill {s : State} (v : View) (sp va size : Nat) (l : Word) (h : MemOk s) : MemOk (s.tlbFill v sp va size l) :=
  memOk_of_mem rfl h

theorem memOk_walk {s : State} (v : View) (sp va : Nat) (h : MemOk s) : MemOk (s.walk v sp va).1 := by
  unfold State.walk
  have h := memOk_noteWalk (s.ctxD v.fn v.ctx) sp va h
  generalize s.noteWalk (s.ctxD v.fn v.ctx) sp va = s0 at h
  dsimp only
  split
  · exact h
  · exact h
  · rename_i l place size level _
    have k := memOk_own l v.world (framesOf l size) h
    have k1 : MemOk (if leafAcc l = true then (if leafTier l ≤ 1 then s0.takeOwners v.world (leafPriv l) (framesOf l size) else (s0, true)).1
        else ((if leafTier l ≤ 1 then s0.takeOwners v.world (leafPriv l) (framesOf l size) else (s0, true)).1).bankWrite place 8
          (setBits l 8 8 1).toNat) := memOk_ite k (memOk_bankWrite _ _ _ k)
    have k2 := fun ds => memOk_touch v.fn v.ctx ds (memOk_mark v.world l (framesOf l size)
      (memOk_ite (p := leafTier l ≤ 1) (memOk_foldl (f := fun t f => t.setBias f (leafBias l)) (fun _ _ h => memOk_setBias _ _ h)
        (framesOf l size) _ k1) k1))
    exact memOk_ite1 h (memOk_ite1 h (memOk_ite1 k (memOk_tlbFill _ _ _ _ _ (memOk_ite (k2 _) (memOk_wsRecord _ _ _ _ _ _ (k2 _))))))

theorem memOk_setDirty {s : State} (v : View) (sp va : Nat) (h : MemOk s) : MemOk (s.setDirty v sp va) := by
  unfold State.setDirty
  have h := memOk_noteWalk (s.ctxD v.fn v.ctx) sp va h
  dsimp only
  split
  · exact memOk_tlbFill _ _ _ _ _ (memOk_bankWrite _ _ _ h)
  · exact h

theorem memOk_translate {s : State} (v : View) (sp va kind : Nat) (fetch wr : Bool) (h : MemOk s) :
    MemOk (s.translate v sp va kind fetch wr).1 := by
  unfold State.translate
  dsimp only
  have k : MemOk (match (match s.tlbHit v sp va with
      | some e => if wr ∧ ¬ leafDirty e.leaf then none else some e
      | none => none : Option TlbEntry) with
    | some e => (s, walkedOf e.leaf e.size (leafCheck v sp e.leaf false))
    | none => s.walk v sp va : State × Walked).1 := by
    split
    · exact h
    · exact memOk_walk v sp va h
  split
  · split
    · exact k
    · exact memOk_ite1 k (memOk_ite1 (memOk_setDirty _ _ _ (memOk_touch _ _ _ k)) (memOk_touch _ _ _ k))
  · exact k

theorem memOk_resolve {s : State} (v : View) (a : Word) (n al kind : Nat) (wr : Bool) (h : MemOk s) :
    MemOk (s.resolve v a n al kind wr).1 := by
  unfold State.resolve
  dsimp only
  refine memOk_ite1 h (memOk_ite1 h (memOk_ite1 h (memOk_ite1 h ?_)))
  split
  · exact h
  · refine memOk_ite1 (memOk_ite1 h h) (memOk_ite1 h ?_)
    have k := memOk_translate v (spaceOf a) (bits a 51 0) kind false wr h
    split
    · exact k
    · exact k
    · have k2 := fun l size => memOk_of_mem (targetOf_mem _ (spaceOf a) (bits a 51 0) l size) k
      split <;> exact k2 _ _

theorem memOk_resolveAll {s : State} (v : View) (n al kind : Nat) (wr : Bool) (l : List (Nat × Word)) (h : MemOk s) :
    MemOk (s.resolveAll v n al kind wr l).1 := by
  induction l generalizing s with
  | nil => exact h
  | cons p t ih =>
    have k := memOk_resolve v p.2 n al kind wr h
    unfold State.resolveAll
    dsimp only
    split
    · exact k
    · split <;> exact ih k

/-! ### Frames (R324, R400) -/

theorem memOk_clear {s : State} (lo n : Nat) (h : MemOk s) : MemOk { s with mem := tclear s.mem lo n } := twf_tclear lo n h

theorem memOk_keep {s : State} (q : Nat × Byte → Bool) (h : MemOk s) : MemOk { s with mem := s.mem.filter q } := twf_filter q h

theorem memOk_dropPage {s : State} (fn ctx : Nat) (a : Word) (h : MemOk s) : MemOk (s.dropPage fn ctx a) := h

theorem memOk_releaseHold {s : State} (tag : Nat) (e : Hold) (h : MemOk s) : MemOk (s.releaseHold tag e) := by
  unfold State.releaseHold
  dsimp only
  have k0 : MemOk (({ s with holds := tdel s.holds tag } : State).dropPage e.fn e.ctx e.trap.addr) := memOk_dropPage _ _ _ h
  have k1 : MemOk (match e.grp with
      | some g => (({ s with holds := tdel s.holds tag } : State).dropPage e.fn e.ctx e.trap.addr).updGrp g
          fun x => if x.wait = .held tag then { x with wait := .none } else x
      | none => ({ s with holds := tdel s.holds tag } : State).dropPage e.fn e.ctx e.trap.addr) := by
    split
    · exact memOk_updGrp _ _ k0
    · exact k0
  split <;> split <;> exact k1

theorem memOk_freeHolds {s : State} (p : Nat → Hold → Bool) (h : MemOk s) : MemOk (s.freeHolds p) :=
  memOk_foldl (fun _ _ h => memOk_releaseHold _ _ h) _ _ h

theorem memOk_freeFrames {s : State} (p : Nat → Bool) (h : MemOk s) : MemOk (s.freeFrames p) :=
  twf_filter _ (memOk_freeHolds _ h)

/-- The cells that a page move copies are listed ones, so none of them is 0. -/
theorem memOk_copyCells {s : State} (src dst n : Nat) (h : MemOk s) : MemOk (s.copyCells src dst n) := by
  have nz : ∀ b ∈ s.mem, b.2 ≠ 0 := fun b hb => by
    have := h
    simp only [MemOk, Memory.wf, twf, Bool.and_eq_true, List.all_eq_true, Bool.not_eq_true', decide_eq_false_iff_not] at this
    exact this.2 b hb
  have go : ∀ (l : List (Nat × Byte)) (m : Table Byte), (∀ b ∈ l, b.2 ≠ 0) → twf 0 m = true →
      twf 0 (l.foldl (fun t b => tput t (dst + (b.1 - src)) b.2) m) = true := by
    intro l
    induction l with
    | nil => intro m _ hm; exact hm
    | cons b t ih =>
      intro m hl hm
      exact ih _ (fun c hc => hl c (List.mem_cons_of_mem _ hc)) (twf_tput _ (hl b List.mem_cons_self) hm)
  exact go _ _ (fun b hb => nz b (List.mem_of_mem_filter hb)) h

end Sys2Proof.Machine
end

