-- ==== Sys2Proof/Laws/PerInstr.lean ====
section
/-! SUPPORT. The family `Encode`: of a well-formed instruction, the opcode and slot that it is encoded with
decode to it; one lemma for each constructor. -/

namespace Sys2Proof.Laws.Encode

open Machine

/-- A well-formed instruction has an opcode and a slot, and these decode to it (Table 3.6). -/
def Statement (i : Instr) : Prop := WellFormed i = true → ∃ p, slotOf i = some p ∧ decodeSlot p.1 p.2 = i

/-- A row that has no slot is no well-formed instruction. -/
theorem of_no_slot {i : Instr} (h : slotOf i = none) : Statement i := by
  intro w; simp [WellFormed, h] at w

/-- What check 2 says of SUB (R96). -/
theorem sub_ok {i : Instr} {opc : BitVec 8} {sl : Slot} {f : Form} (h : slotOf i = some (opc, sl))
    (hf : formOf i = some f) (w : WellFormed i = true) : f.sub = true := by
  simp only [WellFormed, h, hf, Bool.and_eq_true] at w
  exact w.1.1.1

/-- SUB, read as a number, names its bits. -/
theorem subN_eq {sl : Slot} {k : Nat} (h : subN sl = k) : sl.sub = BitVec.ofNat 4 k := by
  apply BitVec.eq_of_toNat_eq; simp only [subN] at h; simp [h]; omega

/-- The opcodes that name no row. -/
def unassigned : List (BitVec 8) :=
    [0x00, 0x13, 0x14, 0x15, 0x16, 0x17, 0x18, 0x19, 0x1A, 0x1B, 0x1C, 0x1D, 0x1E, 0x1F] ++
    [0x3C, 0x3D, 0x3E, 0x3F, 0x67, 0x68, 0x69, 0x6A, 0x6B, 0x6C, 0x6D, 0x6E, 0x6F, 0x89] ++
    [0x8A, 0x8B, 0x8C, 0x8D, 0x8E, 0x8F, 0x9A, 0x9B, 0x9C, 0x9D, 0x9E, 0x9F, 0xA7, 0xA8] ++
    [0xA9, 0xAA, 0xAB, 0xAC, 0xAD, 0xAE, 0xAF, 0xC8, 0xC9, 0xCA, 0xCB, 0xCC, 0xCD, 0xCE] ++
    [0xCF, 0xD8, 0xD9, 0xDA, 0xDB, 0xDC, 0xDD, 0xDE, 0xDF, 0xEB, 0xEC, 0xED, 0xEE, 0xEF] ++
    [0xFB, 0xFC, 0xFD, 0xFE, 0xFF]

set_option maxRecDepth 20000 in
theorem opc_cases (opc : BitVec 8) : assignedOpcs.contains opc.toNat = true ∨ opc ∈ unassigned := by
  have h : ((List.range 256).all fun k => assignedOpcs.contains k || unassigned.contains (BitVec.ofNat 8 k)) = true := by
    decide
  have := List.all_eq_true.mp h opc.toNat (List.mem_range.mpr opc.isLt)
  simpa using this

set_option maxRecDepth 4000 in
theorem of_unassigned (opc : BitVec 8) (sl : Slot) (h : opc ∈ unassigned) :
    decodeSlot opc sl = .nonInstructionEncoding opc sl := by
  simp only [unassigned, List.mem_append, List.mem_cons, List.not_mem_nil, or_false] at h
  rcases h with ((((((rfl | rfl | rfl | rfl | rfl | rfl | rfl | rfl | rfl | rfl | rfl | rfl | rfl | rfl) | (rfl | rfl | rfl | rfl | rfl | rfl | rfl | rfl | rfl | rfl | rfl | rfl | rfl | rfl)) | (rfl | rfl | rfl | rfl | rfl | rfl | rfl | rfl | rfl | rfl | rfl | rfl | rfl | rfl)) | (rfl | rfl | rfl | rfl | rfl | rfl | rfl | rfl | rfl | rfl | rfl | rfl | rfl | rfl)) | (rfl | rfl | rfl | rfl | rfl | rfl | rfl | rfl | rfl | rfl | rfl | rfl | rfl | rfl)) | (rfl | rfl | rfl | rfl | rfl)) <;> rfl

/-- The opcodes whose SUB selects the row. -/
theorem split_cases {n m : Nat} (h : splitSubs n = some m) :
    (n, m) ∈ [(0xA3, 2), (0xA6, 2), (0xD7, 1), (0xE8, 4), (0xEA, 1), (0xF1, 2), (0xF8, 1)] := by
  unfold splitSubs at h
  split at h <;> first | (cases h; decide) | exact absurd h (by simp)

theorem sub0 {sl : Slot} {m : Nat} (h : m < sl.sub.toNat) : ¬ sl.sub = 0#4 := by
  intro e; rw [e] at h; exact absurd h (by simp)

theorem sub1 {sl : Slot} {m : Nat} (h : m + 1 < sl.sub.toNat) : ¬ sl.sub = 1#4 := by
  intro e; rw [e] at h; exact absurd h (by simp)

theorem sub2 {sl : Slot} {m : Nat} (h : m + 2 < sl.sub.toNat) : ¬ sl.sub = 2#4 := by
  intro e; rw [e] at h; exact absurd h (by simp)


theorem nop (sl : Slot) : Statement (.nop sl) := fun _ => ⟨_, rfl, rfl⟩
theorem bra (sl : Slot) : Statement (.bra sl) := fun _ => ⟨_, rfl, rfl⟩
theorem brx (sl : Slot) : Statement (.brx sl) := fun _ => ⟨_, rfl, rfl⟩
theorem call (sl : Slot) : Statement (.call sl) := fun _ => ⟨_, rfl, rfl⟩
theorem callx (sl : Slot) : Statement (.callx sl) := fun _ => ⟨_, rfl, rfl⟩
theorem loop (sl : Slot) : Statement (.loop sl) := fun _ => ⟨_, rfl, rfl⟩
theorem brany (sl : Slot) : Statement (.brany sl) := fun _ => ⟨_, rfl, rfl⟩
theorem brall (sl : Slot) : Statement (.brall sl) := fun _ => ⟨_, rfl, rfl⟩
theorem exit (sl : Slot) : Statement (.exit sl) := fun _ => ⟨_, rfl, rfl⟩
theorem lexit (sl : Slot) : Statement (.lexit sl) := fun _ => ⟨_, rfl, rfl⟩
theorem yield (sl : Slot) : Statement (.yield sl) := fun _ => ⟨_, rfl, rfl⟩
theorem mpush (sl : Slot) : Statement (.mpush sl) := fun _ => ⟨_, rfl, rfl⟩
theorem melse (sl : Slot) : Statement (.melse sl) := fun _ => ⟨_, rfl, rfl⟩
theorem mpop (sl : Slot) : Statement (.mpop sl) := fun _ => ⟨_, rfl, rfl⟩
theorem mget (sl : Slot) : Statement (.mget sl) := fun _ => ⟨_, rfl, rfl⟩
theorem mset (sl : Slot) : Statement (.mset sl) := fun _ => ⟨_, rfl, rfl⟩
theorem setfmt (sl : Slot) : Statement (.setfmt sl) := fun _ => ⟨_, rfl, rfl⟩
theorem getfmt (sl : Slot) : Statement (.getfmt sl) := fun _ => ⟨_, rfl, rfl⟩
theorem sadd (sl : Slot) : Statement (.sadd sl) := fun _ => ⟨_, rfl, rfl⟩
theorem ssub (sl : Slot) : Statement (.ssub sl) := fun _ => ⟨_, rfl, rfl⟩
theorem smul (sl : Slot) : Statement (.smul sl) := fun _ => ⟨_, rfl, rfl⟩
theorem smulh (sl : Slot) : Statement (.smulh sl) := fun _ => ⟨_, rfl, rfl⟩
theorem sdiv (sl : Slot) : Statement (.sdiv sl) := fun _ => ⟨_, rfl, rfl⟩
theorem srem (sl : Slot) : Statement (.srem sl) := fun _ => ⟨_, rfl, rfl⟩
theorem sand (sl : Slot) : Statement (.sand sl) := fun _ => ⟨_, rfl, rfl⟩
theorem sor (sl : Slot) : Statement (.sor sl) := fun _ => ⟨_, rfl, rfl⟩
theorem sxor (sl : Slot) : Statement (.sxor sl) := fun _ => ⟨_, rfl, rfl⟩
theorem sandn (sl : Slot) : Statement (.sandn sl) := fun _ => ⟨_, rfl, rfl⟩
theorem sshl (sl : Slot) : Statement (.sshl sl) := fun _ => ⟨_, rfl, rfl⟩
theorem sshr (sl : Slot) : Statement (.sshr sl) := fun _ => ⟨_, rfl, rfl⟩
theorem ssar (sl : Slot) : Statement (.ssar sl) := fun _ => ⟨_, rfl, rfl⟩
theorem srot (sl : Slot) : Statement (.srot sl) := fun _ => ⟨_, rfl, rfl⟩
theorem smin (sl : Slot) : Statement (.smin sl) := fun _ => ⟨_, rfl, rfl⟩
theorem smax (sl : Slot) : Statement (.smax sl) := fun _ => ⟨_, rfl, rfl⟩
theorem scmp (sl : Slot) : Statement (.scmp sl) := fun _ => ⟨_, rfl, rfl⟩
theorem ssel (sl : Slot) : Statement (.ssel sl) := fun _ => ⟨_, rfl, rfl⟩
theorem smov (sl : Slot) : Statement (.smov sl) := fun _ => ⟨_, rfl, rfl⟩
theorem spopc (sl : Slot) : Statement (.spopc sl) := fun _ => ⟨_, rfl, rfl⟩
theorem sclz (sl : Slot) : Statement (.sclz sl) := fun _ => ⟨_, rfl, rfl⟩
theorem sctz (sl : Slot) : Statement (.sctz sl) := fun _ => ⟨_, rfl, rfl⟩
theorem sbfe (sl : Slot) : Statement (.sbfe sl) := fun _ => ⟨_, rfl, rfl⟩
theorem sbfi (sl : Slot) : Statement (.sbfi sl) := fun _ => ⟨_, rfl, rfl⟩
theorem slea (sl : Slot) : Statement (.slea sl) := fun _ => ⟨_, rfl, rfl⟩
theorem plop (sl : Slot) : Statement (.plop sl) := fun _ => ⟨_, rfl, rfl⟩
theorem sabs (sl : Slot) : Statement (.sabs sl) := fun _ => ⟨_, rfl, rfl⟩
theorem sbrev (sl : Slot) : Statement (.sbrev sl) := fun _ => ⟨_, rfl, rfl⟩
theorem vadd (sl : Slot) : Statement (.vadd sl) := fun _ => ⟨_, rfl, rfl⟩
theorem vsub (sl : Slot) : Statement (.vsub sl) := fun _ => ⟨_, rfl, rfl⟩
theorem vmul (sl : Slot) : Statement (.vmul sl) := fun _ => ⟨_, rfl, rfl⟩
theorem vmulh (sl : Slot) : Statement (.vmulh sl) := fun _ => ⟨_, rfl, rfl⟩
theorem vmad (sl : Slot) : Statement (.vmad sl) := fun _ => ⟨_, rfl, rfl⟩
theorem vsad (sl : Slot) : Statement (.vsad sl) := fun _ => ⟨_, rfl, rfl⟩
theorem vdot4 (sl : Slot) : Statement (.vdot4 sl) := fun _ => ⟨_, rfl, rfl⟩
theorem vmin (sl : Slot) : Statement (.vmin sl) := fun _ => ⟨_, rfl, rfl⟩
theorem vmax (sl : Slot) : Statement (.vmax sl) := fun _ => ⟨_, rfl, rfl⟩
theorem vabs (sl : Slot) : Statement (.vabs sl) := fun _ => ⟨_, rfl, rfl⟩
theorem vneg (sl : Slot) : Statement (.vneg sl) := fun _ => ⟨_, rfl, rfl⟩
theorem vavg (sl : Slot) : Statement (.vavg sl) := fun _ => ⟨_, rfl, rfl⟩
theorem vand (sl : Slot) : Statement (.vand sl) := fun _ => ⟨_, rfl, rfl⟩
theorem vor (sl : Slot) : Statement (.vor sl) := fun _ => ⟨_, rfl, rfl⟩
theorem vxor (sl : Slot) : Statement (.vxor sl) := fun _ => ⟨_, rfl, rfl⟩
theorem vandn (sl : Slot) : Statement (.vandn sl) := fun _ => ⟨_, rfl, rfl⟩
theorem vnot (sl : Slot) : Statement (.vnot sl) := fun _ => ⟨_, rfl, rfl⟩
theorem vlop3 (sl : Slot) : Statement (.vlop3 sl) := fun _ => ⟨_, rfl, rfl⟩
theorem vshl (sl : Slot) : Statement (.vshl sl) := fun _ => ⟨_, rfl, rfl⟩
theorem vshr (sl : Slot) : Statement (.vshr sl) := fun _ => ⟨_, rfl, rfl⟩
theorem vsar (sl : Slot) : Statement (.vsar sl) := fun _ => ⟨_, rfl, rfl⟩
theorem vrol (sl : Slot) : Statement (.vrol sl) := fun _ => ⟨_, rfl, rfl⟩
theorem vror (sl : Slot) : Statement (.vror sl) := fun _ => ⟨_, rfl, rfl⟩
theorem vfshl (sl : Slot) : Statement (.vfshl sl) := fun _ => ⟨_, rfl, rfl⟩
theorem vcmp (sl : Slot) : Statement (.vcmp sl) := fun _ => ⟨_, rfl, rfl⟩
theorem vsel (sl : Slot) : Statement (.vsel sl) := fun _ => ⟨_, rfl, rfl⟩
theorem vpopc (sl : Slot) : Statement (.vpopc sl) := fun _ => ⟨_, rfl, rfl⟩
theorem vclz (sl : Slot) : Statement (.vclz sl) := fun _ => ⟨_, rfl, rfl⟩
theorem vctz (sl : Slot) : Statement (.vctz sl) := fun _ => ⟨_, rfl, rfl⟩
theorem vbrev (sl : Slot) : Statement (.vbrev sl) := fun _ => ⟨_, rfl, rfl⟩
theorem vbfe (sl : Slot) : Statement (.vbfe sl) := fun _ => ⟨_, rfl, rfl⟩
theorem vbfi (sl : Slot) : Statement (.vbfi sl) := fun _ => ⟨_, rfl, rfl⟩
theorem vprmb (sl : Slot) : Statement (.vprmb sl) := fun _ => ⟨_, rfl, rfl⟩
theorem vwiden (sl : Slot) : Statement (.vwiden sl) := fun _ => ⟨_, rfl, rfl⟩
theorem vnarrow (sl : Slot) : Statement (.vnarrow sl) := fun _ => ⟨_, rfl, rfl⟩
theorem vpack (sl : Slot) : Statement (.vpack sl) := fun _ => ⟨_, rfl, rfl⟩
theorem vmov (sl : Slot) : Statement (.vmov sl) := fun _ => ⟨_, rfl, rfl⟩
theorem vdiv (sl : Slot) : Statement (.vdiv sl) := fun _ => ⟨_, rfl, rfl⟩
theorem vrem (sl : Slot) : Statement (.vrem sl) := fun _ => ⟨_, rfl, rfl⟩
theorem fadd (sl : Slot) : Statement (.fadd sl) := fun _ => ⟨_, rfl, rfl⟩
theorem fsub (sl : Slot) : Statement (.fsub sl) := fun _ => ⟨_, rfl, rfl⟩
theorem fmul (sl : Slot) : Statement (.fmul sl) := fun _ => ⟨_, rfl, rfl⟩
theorem ffma (sl : Slot) : Statement (.ffma sl) := fun _ => ⟨_, rfl, rfl⟩
theorem fmin (sl : Slot) : Statement (.fmin sl) := fun _ => ⟨_, rfl, rfl⟩
theorem fmax (sl : Slot) : Statement (.fmax sl) := fun _ => ⟨_, rfl, rfl⟩
theorem fabs (sl : Slot) : Statement (.fabs sl) := fun _ => ⟨_, rfl, rfl⟩
theorem fneg (sl : Slot) : Statement (.fneg sl) := fun _ => ⟨_, rfl, rfl⟩
theorem fcmp (sl : Slot) : Statement (.fcmp sl) := fun _ => ⟨_, rfl, rfl⟩
theorem fclass (sl : Slot) : Statement (.fclass sl) := fun _ => ⟨_, rfl, rfl⟩
theorem frnd (sl : Slot) : Statement (.frnd sl) := fun _ => ⟨_, rfl, rfl⟩
theorem fscale (sl : Slot) : Statement (.fscale sl) := fun _ => ⟨_, rfl, rfl⟩
theorem fdot2 (sl : Slot) : Statement (.fdot2 sl) := fun _ => ⟨_, rfl, rfl⟩
theorem frcp (sl : Slot) : Statement (.frcp sl) := fun _ => ⟨_, rfl, rfl⟩
theorem frsq (sl : Slot) : Statement (.frsq sl) := fun _ => ⟨_, rfl, rfl⟩
theorem fsqrt (sl : Slot) : Statement (.fsqrt sl) := fun _ => ⟨_, rfl, rfl⟩
theorem fexp2 (sl : Slot) : Statement (.fexp2 sl) := fun _ => ⟨_, rfl, rfl⟩
theorem flog2 (sl : Slot) : Statement (.flog2 sl) := fun _ => ⟨_, rfl, rfl⟩
theorem fsin (sl : Slot) : Statement (.fsin sl) := fun _ => ⟨_, rfl, rfl⟩
theorem fcos (sl : Slot) : Statement (.fcos sl) := fun _ => ⟨_, rfl, rfl⟩
theorem ftanh (sl : Slot) : Statement (.ftanh sl) := fun _ => ⟨_, rfl, rfl⟩
theorem fsigm (sl : Slot) : Statement (.fsigm sl) := fun _ => ⟨_, rfl, rfl⟩
theorem fcvt (sl : Slot) : Statement (.fcvt sl) := fun _ => ⟨_, rfl, rfl⟩
theorem fcvti (sl : Slot) : Statement (.fcvti sl) := fun _ => ⟨_, rfl, rfl⟩
theorem fqsum (sl : Slot) : Statement (.fqsum sl) := fun _ => ⟨_, rfl, rfl⟩
theorem shfl (sl : Slot) : Statement (.shfl sl) := fun _ => ⟨_, rfl, rfl⟩
theorem vote (sl : Slot) : Statement (.vote sl) := fun _ => ⟨_, rfl, rfl⟩
theorem lred (sl : Slot) : Statement (.lred sl) := fun _ => ⟨_, rfl, rfl⟩
theorem lscan (sl : Slot) : Statement (.lscan sl) := fun _ => ⟨_, rfl, rfl⟩
theorem matchLanes (sl : Slot) : Statement (.matchLanes sl) := fun _ => ⟨_, rfl, rfl⟩
theorem vget (sl : Slot) : Statement (.vget sl) := fun _ => ⟨_, rfl, rfl⟩
theorem vset (sl : Slot) : Statement (.vset sl) := fun _ => ⟨_, rfl, rfl⟩
theorem xsend (sl : Slot) : Statement (.xsend sl) := fun _ => ⟨_, rfl, rfl⟩
theorem xrecv (sl : Slot) : Statement (.xrecv sl) := fun _ => ⟨_, rfl, rfl⟩
theorem xprobe (sl : Slot) : Statement (.xprobe sl) := fun _ => ⟨_, rfl, rfl⟩
theorem bininit (sl : Slot) : Statement (.bininit sl) := fun _ => ⟨_, rfl, rfl⟩
theorem susp (sl : Slot) : Statement (.susp sl) := fun _ => ⟨_, rfl, rfl⟩
theorem resume (sl : Slot) : Statement (.resume sl) := fun _ => ⟨_, rfl, rfl⟩
theorem wakeRows (sl : Slot) : Statement (.wakeRows sl) := by
  intro w
  have e : sl.sub = 0 := by simpa [fWakeRows, fBare] using sub_ok rfl rfl w
  refine ⟨_, rfl, ?_⟩
  change (if _ then _ else _) = _
  simp [e]
theorem wakeLanes (sl : Slot) : Statement (.wakeLanes sl) := by
  intro w
  have e : sl.sub = 1 := subN_eq (of_decide_eq_true (sub_ok rfl rfl w))
  refine ⟨_, rfl, ?_⟩
  change (if _ then _ else _) = _
  simp [e]
theorem wakeAll (sl : Slot) : Statement (.wakeAll sl) := by
  intro w
  have e : sl.sub = 2 := subN_eq (of_decide_eq_true (sub_ok rfl rfl w))
  refine ⟨_, rfl, ?_⟩
  change (if _ then _ else _) = _
  simp [e]
theorem binq (sl : Slot) : Statement (.binq sl) := fun _ => ⟨_, rfl, rfl⟩
theorem fxform (sl : Slot) : Statement (.fxform sl) := fun _ => ⟨_, rfl, rfl⟩
theorem bindropRows (sl : Slot) : Statement (.bindropRows sl) := by
  intro w
  have e : sl.sub = 0 := by simpa [fBindropRows, fWakeRows, fBare] using sub_ok rfl rfl w
  refine ⟨_, rfl, ?_⟩
  change (if _ then _ else _) = _
  simp [e]
theorem bindropSet (sl : Slot) : Statement (.bindropSet sl) := by
  intro w
  have h : subN sl = 1 ∨ subN sl = 2 := by simpa [fBindropSet] using sub_ok rfl rfl w
  refine ⟨_, rfl, ?_⟩
  change (if _ then _ else _) = _
  rcases h.imp subN_eq subN_eq with e | e <;> simp [e]
theorem ld (sl : Slot) : Statement (.ld sl) := fun _ => ⟨_, rfl, rfl⟩
theorem st (sl : Slot) : Statement (.st sl) := fun _ => ⟨_, rfl, rfl⟩
theorem ldx (sl : Slot) : Statement (.ldx sl) := fun _ => ⟨_, rfl, rfl⟩
theorem stx (sl : Slot) : Statement (.stx sl) := fun _ => ⟨_, rfl, rfl⟩
theorem lds (sl : Slot) : Statement (.lds sl) := fun _ => ⟨_, rfl, rfl⟩
theorem sts (sl : Slot) : Statement (.sts sl) := fun _ => ⟨_, rfl, rfl⟩
theorem ldb (sl : Slot) : Statement (.ldb sl) := fun _ => ⟨_, rfl, rfl⟩
theorem stb (sl : Slot) : Statement (.stb sl) := fun _ => ⟨_, rfl, rfl⟩
theorem atom (sl : Slot) : Statement (.atom sl) := fun _ => ⟨_, rfl, rfl⟩
theorem atoms (sl : Slot) : Statement (.atoms sl) := fun _ => ⟨_, rfl, rfl⟩
theorem red (sl : Slot) : Statement (.red sl) := fun _ => ⟨_, rfl, rfl⟩
theorem fence (sl : Slot) : Statement (.fence sl) := fun _ => ⟨_, rfl, rfl⟩
theorem pref (sl : Slot) : Statement (.pref sl) := fun _ => ⟨_, rfl, rfl⟩
theorem colcln (sl : Slot) : Statement (.colcln sl) := fun _ => ⟨_, rfl, rfl⟩
theorem colinv (sl : Slot) : Statement (.colinv sl) := fun _ => ⟨_, rfl, rfl⟩
theorem cctl (sl : Slot) : Statement (.cctl sl) := fun _ => ⟨_, rfl, rfl⟩
theorem waitp (sl : Slot) : Statement (.waitp sl) := fun _ => ⟨_, rfl, rfl⟩
theorem boinit (sl : Slot) : Statement (.boinit sl) := fun _ => ⟨_, rfl, rfl⟩
theorem boarr (sl : Slot) : Statement (.boarr sl) := fun _ => ⟨_, rfl, rfl⟩
theorem bojoin (sl : Slot) : Statement (.bojoin sl) := fun _ => ⟨_, rfl, rfl⟩
theorem boleave (sl : Slot) : Statement (.boleave sl) := fun _ => ⟨_, rfl, rfl⟩
theorem lbar (sl : Slot) : Statement (.lbar sl) := fun _ => ⟨_, rfl, rfl⟩
theorem enq (sl : Slot) : Statement (.enq sl) := fun _ => ⟨_, rfl, rfl⟩
theorem deq (sl : Slot) : Statement (.deq sl) := fun _ => ⟨_, rfl, rfl⟩
theorem cpy (sl : Slot) : Statement (.cpy sl) := fun _ => ⟨_, rfl, rfl⟩
theorem cpy2 (sl : Slot) : Statement (.cpy2 sl) := fun _ => ⟨_, rfl, rfl⟩
theorem gath (sl : Slot) : Statement (.gath sl) := fun _ => ⟨_, rfl, rfl⟩
theorem scat (sl : Slot) : Statement (.scat sl) := fun _ => ⟨_, rfl, rfl⟩
theorem coll (sl : Slot) : Statement (.coll sl) := fun _ => ⟨_, rfl, rfl⟩
theorem afence (sl : Slot) : Statement (.afence sl) := fun _ => ⟨_, rfl, rfl⟩
theorem post (sl : Slot) : Statement (.post sl) := fun _ => ⟨_, rfl, rfl⟩
theorem tierhNeed (sl : Slot) : Statement (.tierhNeed sl) := by
  intro w
  have e : sl.sub = 0 := subN_eq (of_decide_eq_true (sub_ok rfl rfl w))
  refine ⟨_, rfl, ?_⟩
  change (if _ then _ else _) = _
  simp [e]
theorem tierhCold (sl : Slot) : Statement (.tierhCold sl) := by
  intro w
  have e : sl.sub = 1 := subN_eq (of_decide_eq_true (sub_ok rfl rfl w))
  refine ⟨_, rfl, ?_⟩
  change (if _ then _ else _) = _
  simp [e]
theorem mma (sl : Slot) : Statement (.mma sl) := fun _ => ⟨_, rfl, rfl⟩
theorem mmas (sl : Slot) : Statement (.mmas sl) := fun _ => ⟨_, rfl, rfl⟩
theorem mmat (sl : Slot) : Statement (.mmat sl) := fun _ => ⟨_, rfl, rfl⟩
theorem accz (sl : Slot) : Statement (.accz sl) := fun _ => ⟨_, rfl, rfl⟩
theorem accld (sl : Slot) : Statement (.accld sl) := fun _ => ⟨_, rfl, rfl⟩
theorem accst (sl : Slot) : Statement (.accst sl) := fun _ => ⟨_, rfl, rfl⟩
theorem accrd (sl : Slot) : Statement (.accrd sl) := fun _ => ⟨_, rfl, rfl⟩
theorem accwr (sl : Slot) : Statement (.accwr sl) := fun _ => ⟨_, rfl, rfl⟩
theorem accalloc (sl : Slot) : Statement (.accalloc sl) := by
  intro w
  have e : sl.sub.toNat ≤ 3 := of_decide_eq_true (sub_ok rfl rfl w)
  refine ⟨_, rfl, ?_⟩
  change (if _ then _ else _) = _
  simp [e]
theorem accallocStat (sl : Slot) : Statement (.accallocStat sl) := by
  intro w
  have e : sl.sub = 4 := subN_eq (of_decide_eq_true (sub_ok rfl rfl w))
  refine ⟨_, rfl, ?_⟩
  change (if _ then _ else _) = _
  simp [e]
theorem accfree (sl : Slot) : Statement (.accfree sl) := fun _ => ⟨_, rfl, rfl⟩
theorem sppackRows (sl : Slot) : Statement (.sppackRows sl) := by
  intro w
  have e : sl.sub = 0 := subN_eq (of_decide_eq_true (sub_ok rfl rfl w))
  refine ⟨_, rfl, ?_⟩
  change (if _ then _ else _) = _
  simp [e]
theorem sppackCols (sl : Slot) : Statement (.sppackCols sl) := by
  intro w
  have e : sl.sub = 1 := subN_eq (of_decide_eq_true (sub_ok rfl rfl w))
  refine ⟨_, rfl, ?_⟩
  change (if _ then _ else _) = _
  simp [e]
theorem trap (sl : Slot) : Statement (.trap sl) := fun _ => ⟨_, rfl, rfl⟩
theorem rtt (sl : Slot) : Statement (.rtt sl) := by
  intro w
  have e : sl.sub = 0 := subN_eq (of_decide_eq_true (sub_ok rfl rfl w))
  refine ⟨_, rfl, ?_⟩
  change (if _ then _ else _) = _
  simp [e]
theorem rttNext (sl : Slot) : Statement (.rttNext sl) := by
  intro w
  have e : sl.sub = 1 := subN_eq (of_decide_eq_true (sub_ok rfl rfl w))
  refine ⟨_, rfl, ?_⟩
  change (if _ then _ else _) = _
  simp [e]
theorem rttTo (sl : Slot) : Statement (.rttTo sl) := by
  intro w
  have e : sl.sub = 2 := subN_eq (of_decide_eq_true (sub_ok rfl rfl w))
  refine ⟨_, rfl, ?_⟩
  change (if _ then _ else _) = _
  simp [e]
theorem srget (sl : Slot) : Statement (.srget sl) := fun _ => ⟨_, rfl, rfl⟩
theorem srset (sl : Slot) : Statement (.srset sl) := fun _ => ⟨_, rfl, rfl⟩
theorem hget (sl : Slot) : Statement (.hget sl) := fun _ => ⟨_, rfl, rfl⟩
theorem hset (sl : Slot) : Statement (.hset sl) := fun _ => ⟨_, rfl, rfl⟩
theorem pdone (sl : Slot) : Statement (.pdone sl) := fun _ => ⟨_, rfl, rfl⟩
theorem boost (sl : Slot) : Statement (.boost sl) := fun _ => ⟨_, rfl, rfl⟩
theorem replayRetry (sl : Slot) : Statement (.replayRetry sl) := by
  intro w
  have e : sl.sub = 0 := subN_eq (of_decide_eq_true (sub_ok rfl rfl w))
  refine ⟨_, rfl, ?_⟩
  change (if _ then _ else _) = _
  simp [e]
theorem replayKill (sl : Slot) : Statement (.replayKill sl) := by
  intro w
  have e : sl.sub = 1 := subN_eq (of_decide_eq_true (sub_ok rfl rfl w))
  refine ⟨_, rfl, ?_⟩
  change (if _ then _ else _) = _
  simp [e]
theorem meas (sl : Slot) : Statement (.meas sl) := fun _ => ⟨_, rfl, rfl⟩
theorem cancel (sl : Slot) : Statement (.cancel sl) := fun _ => ⟨_, rfl, rfl⟩
theorem variableResultWrite (g k : Nat) : Statement (.variableResultWrite g k) := of_no_slot rfl
theorem delayedTrap (g : Nat) : Statement (.delayedTrap g) := of_no_slot rfl
theorem trapEntry (g : Nat) : Statement (.trapEntry g) := of_no_slot rfl
theorem waitpWake (g : Nat) : Statement (.waitpWake g) := of_no_slot rfl
theorem waitpTimeout (g : Nat) : Statement (.waitpTimeout g) := of_no_slot rfl
theorem engineStart (me : Nat) : Statement (.engineStart me) := of_no_slot rfl
theorem matrixOpComplete (me : Nat) : Statement (.matrixOpComplete me) := of_no_slot rfl
theorem copyUnitLand (op : Nat) : Statement (.copyUnitLand op) := of_no_slot rfl
theorem asyncOpComplete (op : Nat) : Statement (.asyncOpComplete op) := of_no_slot rfl
theorem enginePageFault (op : Nat) : Statement (.enginePageFault op) := of_no_slot rfl
theorem preemptionRequest (fn ctx : Nat) : Statement (.preemptionRequest fn ctx) := of_no_slot rfl
theorem forcedSave (g : Nat) : Statement (.forcedSave g) := of_no_slot rfl
theorem queuePidxWake (fn q : Nat) : Statement (.queuePidxWake fn q) := of_no_slot rfl
theorem packetNop (fn q : Nat) : Statement (.packetNop fn q) := of_no_slot rfl
theorem packetLaunch (fn q : Nat) : Statement (.packetLaunch fn q) := of_no_slot rfl
theorem packetBarrier (fn q : Nat) : Statement (.packetBarrier fn q) := of_no_slot rfl
theorem packetCopy (fn q : Nat) : Statement (.packetCopy fn q) := of_no_slot rfl
theorem packetSignal (fn q : Nat) : Statement (.packetSignal fn q) := of_no_slot rfl
theorem packetGraph (fn q : Nat) : Statement (.packetGraph fn q) := of_no_slot rfl
theorem graphNodeStart (graph node : Nat) : Statement (.graphNodeStart graph node) := of_no_slot rfl
theorem pageWalk (die fn ctx space : Nat) (va : Word) (kind : Nat) : Statement (.pageWalk die fn ctx space va kind) := of_no_slot rfl
theorem tickBoundary (act : Activity) (metered : Table Nat) : Statement (.tickBoundary act metered) := of_no_slot rfl
theorem temperatureSample (samples : Table Int) : Statement (.temperatureSample samples) := of_no_slot rfl
theorem marginMeasure (margins : Table Nat) : Statement (.marginMeasure margins) := of_no_slot rfl
theorem targethWrite (v : BitVec 32) : Statement (.targethWrite v) := of_no_slot rfl
theorem ebudgetWrite (fn : Nat) (v : Word) : Statement (.ebudgetWrite fn v) := of_no_slot rfl
theorem vbWarning (die bus : Nat) : Statement (.vbWarning die bus) := of_no_slot rfl
theorem vbFailure (die bus : Nat) : Statement (.vbFailure die bus) := of_no_slot rfl
theorem vbRepairDone (die bus : Nat) : Statement (.vbRepairDone die bus) := of_no_slot rfl
theorem vbDrainDone (die bus : Nat) : Statement (.vbDrainDone die bus) := of_no_slot rfl
theorem dieLoss (die : Nat) : Statement (.dieLoss die) := of_no_slot rfl
theorem cxlMemAccess (wr : Bool) (pa : Nat) (data : List Byte) : Statement (.cxlMemAccess wr pa data) := of_no_slot rfl
theorem backInvalidate (rc : HostRecall) : Statement (.backInvalidate rc) := of_no_slot rfl
theorem queueEnWrite (fn q : Nat) (rcb : Word) (ctx : Nat) : Statement (.queueEnWrite fn q rcb ctx) := of_no_slot rfl
theorem queueErrClear (fn q : Nat) : Statement (.queueErrClear fn q) := of_no_slot rfl
theorem pcieFlr (fn : Nat) : Statement (.pcieFlr fn) := of_no_slot rfl
theorem recgo (sigOk : Bool) : Statement (.recgo sigOk) := of_no_slot rfl
theorem bootComplete (sigOk : Bool) (fw0 fw1 : BitVec 512) : Statement (.bootComplete sigOk fw0 fw1) := of_no_slot rfl
theorem calibrateComplete (c : Calibration) : Statement (.calibrateComplete c) := of_no_slot rfl
theorem zeroingComplete (ok : Bool) : Statement (.zeroingComplete ok) := of_no_slot rfl
theorem selfidWrite (v : BitVec 10) : Statement (.selfidWrite v) := of_no_slot rfl
theorem routeWrite (p : Nat) (v : Word) : Statement (.routeWrite p v) := of_no_slot rfl
theorem linkTrained (link : Nat) (farid : BitVec 10) (active : BitVec 4) : Statement (.linkTrained link farid active) := of_no_slot rfl
theorem flitReceive (link : Nat) (f : Flit) : Statement (.flitReceive link f) := of_no_slot rfl
theorem nakReceive (link : Nat) (seq : BitVec 16) : Statement (.nakReceive link seq) := of_no_slot rfl
theorem darkWavelengthDetect (link : Nat) (dark : BitVec 4) : Statement (.darkWavelengthDetect link dark) := of_no_slot rfl
theorem restripeDone (link : Nat) : Statement (.restripeDone link) := of_no_slot rfl
theorem linkLost (link : Nat) : Statement (.linkLost link) := of_no_slot rfl
theorem peerRequestArrive (r : PeerReq) : Statement (.peerRequestArrive r) := of_no_slot rfl
theorem peerResponseArrive (req : Nat) (data : Option (List Byte)) : Statement (.peerResponseArrive req data) := of_no_slot rfl
theorem collMatch (op : Nat) (others : List CollHead) : Statement (.collMatch op others) := of_no_slot rfl
theorem collContribLand (op line port : Nat) (data : List Byte) : Statement (.collContribLand op line port data) := of_no_slot rfl
theorem registerWrite (fn off : Nat) (v : Word) : Statement (.registerWrite fn off v) := of_no_slot rfl
theorem nonInstructionEncoding (opc : BitVec 8) (sl : Slot) : Statement (.nonInstructionEncoding opc sl) := by
  intro w
  refine ⟨_, rfl, ?_⟩
  have n : notInstr opc sl = true := w
  rcases opc_cases opc with h | h
  · simp only [notInstr, h, Bool.not_true, Bool.false_or] at n
    cases hs : splitSubs opc.toNat with
    | none => rw [hs] at n; simp at n
    | some m =>
      rw [hs] at n
      have hm : m < sl.sub.toNat := of_decide_eq_true n
      have hc := split_cases hs
      simp only [List.mem_cons, Prod.mk.injEq, List.not_mem_nil, or_false] at hc
      rcases hc with ⟨e, rfl⟩ | ⟨e, rfl⟩ | ⟨e, rfl⟩ | ⟨e, rfl⟩ | ⟨e, rfl⟩ | ⟨e, rfl⟩ | ⟨e, rfl⟩ 
      · obtain rfl : opc = 0xA3 := BitVec.eq_of_toNat_eq e
        change (if _ then _ else if _ then _ else if _ then _ else _) = _
        simp [sub0 hm, sub1 hm, sub2 hm]
      · obtain rfl : opc = 0xA6 := BitVec.eq_of_toNat_eq e
        change (if _ then _ else if _ then _ else _) = _
        simp [sub0 hm, sub1 hm, sub2 hm]
      · obtain rfl : opc = 0xD7 := BitVec.eq_of_toNat_eq e
        change (if _ then _ else if _ then _ else _) = _
        simp [sub0 hm, sub1 hm]
      · obtain rfl : opc = 0xE8 := BitVec.eq_of_toNat_eq e
        change (if _ then _ else if _ then _ else _) = _
        simp only [show ¬ sl.sub.toNat ≤ 3 by omega,
          show ¬ sl.sub = 4 by intro e; rw [e] at hm; exact absurd hm (by simp), if_false]
      · obtain rfl : opc = 0xEA := BitVec.eq_of_toNat_eq e
        change (if _ then _ else if _ then _ else _) = _
        simp [sub0 hm, sub1 hm]
      · obtain rfl : opc = 0xF1 := BitVec.eq_of_toNat_eq e
        change (if _ then _ else if _ then _ else if _ then _ else _) = _
        simp [sub0 hm, sub1 hm, sub2 hm]
      · obtain rfl : opc = 0xF8 := BitVec.eq_of_toNat_eq e
        change (if _ then _ else if _ then _ else _) = _
        simp [sub0 hm, sub1 hm]
  · exact of_unassigned opc sl h
theorem placementPass : Statement (.placementPass) := of_no_slot rfl
theorem packetComplete : Statement (.packetComplete) := of_no_slot rfl
theorem cannoliSpillMove : Statement (.cannoliSpillMove) := of_no_slot rfl
theorem bucketRefill : Statement (.bucketRefill) := of_no_slot rfl
theorem invPages : Statement (.invPages) := of_no_slot rfl
theorem invContext : Statement (.invContext) := of_no_slot rfl
theorem invFrames : Statement (.invFrames) := of_no_slot rfl
theorem invTdmask : Statement (.invTdmask) := of_no_slot rfl
theorem moveUp : Statement (.moveUp) := of_no_slot rfl
theorem moveDown : Statement (.moveDown) := of_no_slot rfl
theorem pageMove : Statement (.pageMove) := of_no_slot rfl
theorem quantumEnd : Statement (.quantumEnd) := of_no_slot rfl
theorem incomingResident : Statement (.incomingResident) := of_no_slot rfl
theorem restEnd : Statement (.restEnd) := of_no_slot rfl
theorem boostEnd : Statement (.boostEnd) := of_no_slot rfl
theorem retirePreempt : Statement (.retirePreempt) := of_no_slot rfl
theorem energyWindowStart : Statement (.energyWindowStart) := of_no_slot rfl
theorem checkpoint : Statement (.checkpoint) := of_no_slot rfl
theorem eolhPredict : Statement (.eolhPredict) := of_no_slot rfl
theorem pcreate : Statement (.pcreate) := of_no_slot rfl
theorem presize : Statement (.presize) := of_no_slot rfl
theorem pdestroy : Statement (.pdestroy) := of_no_slot rfl
theorem quota : Statement (.quota) := of_no_slot rfl
theorem bucket : Statement (.bucket) := of_no_slot rfl
theorem wcreate : Statement (.wcreate) := of_no_slot rfl
theorem wdestroy : Statement (.wdestroy) := of_no_slot rfl
theorem ccreate : Statement (.ccreate) := of_no_slot rfl
theorem cdestroy : Statement (.cdestroy) := of_no_slot rfl
theorem qreset : Statement (.qreset) := of_no_slot rfl
theorem creset : Statement (.creset) := of_no_slot rfl
theorem flr : Statement (.flr) := of_no_slot rfl
theorem bias : Statement (.bias) := of_no_slot rfl
theorem pbset : Statement (.pbset) := of_no_slot rfl
theorem pdset : Statement (.pdset) := of_no_slot rfl
theorem resetEscalation : Statement (.resetEscalation) := of_no_slot rfl
theorem devrst : Statement (.devrst) := of_no_slot rfl
theorem attestationGo : Statement (.attestationGo) := of_no_slot rfl
theorem attestationDone : Statement (.attestationDone) := of_no_slot rfl
theorem attestationDoneClear : Statement (.attestationDoneClear) := of_no_slot rfl
theorem powerGood : Statement (.powerGood) := of_no_slot rfl
theorem orderlyPowerDown (busy metered : Table Nat) : Statement (.orderlyPowerDown busy metered) := of_no_slot rfl
theorem powerLoss : Statement (.powerLoss) := of_no_slot rfl

end Sys2Proof.Laws.Encode
end

