-- ==== Sys2Proof/Tests/Slice0.lean ====
section
/-! SUPPORT. The model's own tests: ill-formed instructions that the checks refuse, words written out from the
spec's encodings, and for every statement with hypotheses a state and operands that meet them together. -/

namespace Sys2Proof.Tests

open Machine

set_option Elab.async false

/-! ### A small state -/

/-- Group 1 at the first slot of a block of 1023 slots at 0x10000. -/
def g1 : Group := { pc := 0x10010, block := { hdr := 0x10000, len := 1023 }, gran := 64, scount := 96, wg := 1 }

/-- Group 1 as `x`, alone on the machine. -/
def at_ (x : Group) : State := State.reset.withGroup.setGrp 1 x

/-- Checks 1 to 6 of R96, as one number that can be computed. -/
def passes (s : State) (f : Form) (sl : Slot) (x : Group) : Bool :=
  x.ready f sl && (decodeTrap f x.gran x.scount x.trapMode sl).isNone
    && (checkMode x (s.ctxD (s.wgD x.wg).fn (s.wgD x.wg).ctx).checkMode f sl).isNone && x.guard sl

theorem issues_of {s : State} {f : Form} {sl : Slot} {x : Group} (h : s.grp? s.cur = some x)
    (b : passes s f sl x = true) : Issues s f sl x := by
  simp only [passes, Bool.and_eq_true, Option.isNone_iff_eq_none] at b
  exact ⟨h, b.1.1.1, b.1.1.2, b.1.2, b.2⟩

/-- The slot issues for group 1 as `x`. -/
def Ok (x : Group) (f : Slot → Form) (sl : Slot) : Prop := Issues (at_ x) (f sl) sl x

theorem ok {x : Group} {f : Slot → Form} {sl : Slot} (b : passes (at_ x) (f sl) sl x = true) : Ok x f sl :=
  issues_of rfl b

/-- A slot with scalar operands: s1 from s2, s3 and s4. -/
def sS (sub : BitVec 4) (ty : BitVec 6) (d a b c : BitVec 10) : Slot :=
  { sub := sub, ty := ty, d := d, a := a, b := b, c := c }

/-! ### Well-formedness: one ill-formed instruction for each check -/

theorem test_wf_ok : WellFormed (.sadd (sS 0 4 0x211 0x212 0x213 0)) = true := by decide
theorem test_wf_no_slot : WellFormed .powerGood = false := by decide
theorem test_wf_sub : WellFormed (.sadd (sS 1 4 0x211 0x212 0x213 0)) = false := by decide
theorem test_wf_type : WellFormed (.sadd (sS 0 8 0x211 0x212 0x213 0)) = false := by decide
theorem test_wf_guard : WellFormed (.nop { sg := 15 }) = false := by decide
theorem test_wf_lane_guard : WellFormed (.nop { lg := 15 }) = false := by decide
theorem test_wf_lane_guard_unused : WellFormed (.nop { lg := 0 }) = false := by decide
theorem test_wf_scope : WellFormed (.fence { md := 1, scp := 5 }) = false := by decide
theorem test_wf_token : WellFormed (.ld { d := 1, a := 2, tset := 3 }) = false := by decide
theorem test_wf_channel : WellFormed (.nop { ch := 1 }) = false := by decide
theorem test_wf_unused_operand : WellFormed (.nop { e := 1 }) = false := by decide
theorem test_wf_modifier : WellFormed (.smulh { ty := 4, d := 0x211, a := 0x212, b := 0x213, md := 1 }) = false := by
  decide
theorem test_wf_immediate : WellFormed (.nop { imm := 1 }) = false := by decide
theorem test_wf_operand_code : WellFormed (.sadd (sS 0 4 0x211 0x2FF 0x213 0)) = false := by decide
theorem test_wf_operand_kind : WellFormed (.sadd (sS 0 4 0x211 0x003 0x213 0)) = false := by decide
theorem test_wf_register_number : WellFormed (.stx { ty := 0x33, a := 1, b := 0x1FF }) = false := by decide
theorem test_wf_assigned_opcode : WellFormed (.nonInstructionEncoding 0x20 {}) = false := by decide
theorem test_wf_unassigned_opcode : WellFormed (.nonInstructionEncoding 0x13 {}) = true := by decide

/-! ### Scalar and vector statements -/

theorem test_meets_SCALAR_ARITHMETIC_RESULTS :
    Ok g1 (fScalar true 2) (sS 0 4 0x211 0x212 0x213 0) ∧ Ok g1 (fScalar false 2) (sS 0 6 0x211 0x212 0x213 0)
      ∧ Ok g1 (fScalar true 2) { sub := 0, ty := 0, d := 0x270, a := 0x212, b := 0x274, md := 1, imm := 0x80000000 }
      ∧ Ok g1 fSabs (sS 0 0 0x211 0x212 0 0) :=
  ⟨ok rfl, ok rfl, ok rfl, ok rfl⟩

theorem test_meets_SCALAR_LOGIC_RESULTS :
    Ok g1 (fScalar false 2) (sS 0 0 0x211 0x212 0x213 0) ∧ Ok g1 fSrot (sS 0 2 0x211 0x212 0x213 0)
      ∧ Ok g1 fSrot (sS 1 0x16 0x211 0x212 0x213 0) ∧ Ok g1 (fScalar false 1) (sS 0 6 0x211 0x212 0 0) :=
  ⟨ok rfl, ok rfl, ok rfl, ok rfl⟩

/-- Every register reads 0, so EQ holds and NE does not. -/
theorem test_meets_SCALAR_WORD_RESULTS :
    Ok g1 (fScalar false 1) (sS 0 0 0x211 0x212 0 0)
      ∧ (let sl := sS 0 4 0x281 0x212 0x213 0
         Ok g1 fScmp sl ∧ condHolds sl.sub.toNat (typedInt sl (srcBits (at_ g1) g1 sl sl.a)) (typedInt sl (srcBits (at_ g1) g1 sl sl.b)))
      ∧ (let sl := sS 1 4 0x281 0x212 0x213 0
         Ok g1 fScmp sl ∧ ¬ condHolds sl.sub.toNat (typedInt sl (srcBits (at_ g1) g1 sl sl.a)) (typedInt sl (srcBits (at_ g1) g1 sl sl.b)))
      ∧ Ok g1 fSsel (sS 0 0 0x211 0x282 0x212 0x213) ∧ Ok g1 fSmov (sS 0 0 0x211 0x212 0 0)
      ∧ Ok g1 fSmov (sS 1 0 0x211 0x274 0 0) ∧ Ok g1 fSlea (sS 0 0 0x211 0x212 0x213 0x214)
      ∧ Ok g1 fPlop (sS 0 0 0x281 0x282 0x283 0x284) ∧ Ok g1 fPlop (sS 0 0 0x279 0x27A 0x27B 0x27C) :=
  ⟨ok rfl, ⟨ok rfl, show (0 : Int) = 0 from rfl⟩, ⟨ok rfl, show ¬ (0 : Int) ≠ 0 by decide⟩, ok rfl, ok rfl, ok rfl,
    ok rfl, ok rfl, ok rfl⟩

theorem test_meets_SCALAR_BIT_FIELDS :
    Ok g1 (fScalar false 2) (sS 0 4 0x211 0x212 0x274 0) ∧ Ok g1 (fScalar false 3) (sS 0 4 0x211 0x212 0x213 0x274) :=
  ⟨ok rfl, ok rfl⟩

theorem test_meets_VECTOR_ARITHMETIC_RESULTS :
    Ok g1 (fun s => fVec 0 1 (tyI s) 2 s) (sS 0 0x20 8 16 24 0) ∧ Ok g1 (fun s => fVec 0 1 (tyI s) 3 s) (sS 0 2 8 16 24 32)
      ∧ Ok g1 (fun s => fVec 0 1 (tyI s && tyS s) 1 s) (sS 0 4 8 16 0 0)
      ∧ Ok g1 (fun s => fVec 1 0 (tyI s) 2 s) (sS 1 6 8 16 24 0) ∧ Ok g1 (fun s => fVec 0 0 (tyI s) 2 s) (sS 0 0x16 8 16 24 0) :=
  ⟨ok rfl, ok rfl, ok rfl, ok rfl, ok rfl⟩

theorem test_meets_VECTOR_LOGIC_RESULTS :
    Ok g1 (fun s => fVec 0 0 (tyI s) 2 s) (sS 0 0x21 8 16 24 0) ∧ Ok g1 (fun s => fVec 0 0 (tyI s) 1 s) (sS 0 6 8 16 0 0)
      ∧ Ok g1 fVlop3 (sS 0 0 8 16 24 32) ∧ Ok g1 (fun s => fVec 1 0 (tyI s) 3 s) (sS 0 1 8 16 24 32)
      ∧ Ok g1 (fun s => fVec 1 0 (tyI s) 3 s) (sS 1 1 8 16 24 32) :=
  ⟨ok rfl, ok rfl, ok rfl, ok rfl, ok rfl⟩

/-- VCMP into a vector register and into a lane predicate; VSEL by a predicate and bit by bit. -/
theorem test_meets_VECTOR_SELECT_RESULTS :
    (let sl := sS 0 4 8 16 24 0; Ok g1 fVcmp sl ∧ kindOf sl.d ≠ some .vp)
      ∧ (let sl := sS 5 4 0x279 16 24 0; Ok g1 fVcmp sl ∧ kindOf sl.d = some .vp)
      ∧ Ok g1 fVsel (sS 0 0 8 0x27A 24 32) ∧ Ok g1 fVsel (sS 1 0 8 16 24 32)
      ∧ Ok g1 fVbfe (sS 0 0 8 16 0x274 0) ∧ Ok g1 fVbfi (sS 0 0 8 16 24 0x212) :=
  ⟨⟨ok rfl, by decide⟩, ⟨ok rfl, by decide⟩, ok rfl, ok rfl, ok rfl, ok rfl⟩

theorem test_meets_VECTOR_LANE_FORMS :
    Ok g1 (fun s => fVec 0 0 (tyN s) 3 s) (sS 0 0 8 16 24 32) ∧ Ok g1 (fun s => fVec 1 1 (tyIn [0, 1] s) 3 s) (sS 1 1 8 16 24 32)
      ∧ Ok g1 (fun s => fVec 0 0 (tyIn [1] s) 3 s) (sS 0 1 8 16 24 32) ∧ Ok g1 (fun s => fVec 1 0 (tyN s) 1 s) (sS 1 4 8 16 0 0)
      ∧ Ok g1 (fun s => fVec 1 1 (tyN s) 2 s) (sS 1 2 8 16 24 0) ∧ Ok g1 (fun s => fVec 3 0 (tyN s) 2 s) (sS 0 0 8 16 24 0)
      ∧ Ok g1 (fun s => fVec 3 0 (tyN s) 2 s) (sS 1 1 8 16 24 0) ∧ Ok g1 (fun s => fVec 3 0 (tyN s) 2 s) (sS 2 4 8 16 24 0)
      ∧ Ok g1 (fun s => fVec 3 0 (tyN s) 2 s) (sS 3 5 8 16 24 0) :=
  ⟨ok rfl, ok rfl, ok rfl, ok rfl, ok rfl, ok rfl, ok rfl, ok rfl, ok rfl⟩

/-! ### Floating point -/

/-- 3 and 5 at the same exponent; two zeros of unlike sign, whose sum is 0. -/
theorem test_meets_FLOAT_ARITHMETIC_EXACT :
    (isFin (.fin false 3 0) = true ∧ isFin (.fin true 5 0) = true)
      ∧ (FVal.fin false 0 0).neg? ≠ (FVal.fin true 0 0).neg? ∧ valueOf (.fin false 0 0) + valueOf (.fin true 0 0) = 0 := by
  refine ⟨⟨rfl, rfl⟩, by decide, by simp [valueOf]⟩

/-- A float slot of type h16, and one of `.fmt`, whose formats are tf16 in g1. -/
def sF (sub : BitVec 4) (ty : BitVec 6) (b c : BitVec 10) : Slot := { sub := sub, ty := ty, d := 8, a := 16, b := b, c := c }

theorem typed_accepts {x : Group} {sl : Slot} {k : Nat → Nat → Nat → Bool} {u : FCtx → List Fmt} (h : tyIsFmt sl = false) :
    floatAccepts sl x k u := by intro e; rw [h] at e; cases e

theorem test_meets_FLOAT_ARITHMETIC_RESULTS :
    (∀ sl ∈ [sF 0 11 24 0, sF 0 8 24 0, sF 0 15 24 0], Ok g1 (fun s => fFlt 0 (tyFF s) true [fmtW s] 2 s) sl
        ∧ floatAccepts sl g1 (fun a b o => okIn a && okIn b && okOut o) fun c => [c.fa, c.fb, c.fo])
      ∧ (∀ sl ∈ [sF 3 13 24 32, sF 0 15 24 32], Ok g1 (fun s => fFlt 3 (tyFF s) true [fmtW s] 3 s) sl
        ∧ floatAccepts sl g1 (fun a b o => okIn a && okIn b && okOut o) fun c => [c.fa, c.fb, c.fo])
      ∧ (∀ sl ∈ [sF 1 12 24 0, sF 0 15 24 0], Ok g1 (fun s => fFlt 1 (tyFF s) false [fmtW s] 2 s) sl
        ∧ floatAccepts sl g1 (fun a b o => okIn a && okIn b && okOut o) fun c => [c.fa, c.fb, c.fo])
      ∧ (∀ sl ∈ [sF 0 10 0 0, sF 0 15 0 0], Ok g1 (fun s => fFlt 0 (tyFF s) false [fmtW s] 1 s) sl
        ∧ floatAccepts sl g1 (fun a _ o => okIn a && okOut o) fun c => [c.fa, c.fo])
      ∧ (∀ sl ∈ [sF 0 11 0 0, sF 1 15 0 0], Ok g1 fFrnd sl
        ∧ floatAccepts sl g1 (fun a _ o => okIn a && okOut o) fun c => [c.fa, c.fo])
      ∧ Ok g1 (fun s => fFlt 0 (tyF s) true [fmtW s] 2 s) (sF 0 9 24 0) := by
  refine ⟨?_, ?_, ?_, ?_, ?_, ok rfl⟩ <;> intro sl h <;> fin_cases h <;>
    exact ⟨ok rfl, by intro _; exact ⟨by decide, by decide⟩⟩

/-- FMT of tf8 for AFMT and tf16 for OFMT, as FDOT2.fmt takes them. -/
def gDot : Group := { g1 with fmt := 0x988 }
/-- FMT of h16 for AFMT and i16 for OFMT, as FCVTI.fmt takes them. -/
def gCvi : Group := { g1 with fmt := 0x2BB }

theorem test_meets_FLOAT_SUMS_AND_CONVERSIONS :
    (∀ sl ∈ [sF 0xD 8 0 0, sF 0 15 0 0], Ok g1 fFcvt sl
        ∧ floatAccepts sl g1 (fun a _ o => okIn a && okOut o) fun c => [c.fa, c.fo])
      ∧ (∀ sl ∈ [sF 0 8 0 0, sF 8 11 0 0], Ok g1 fFcvti sl ∧ floatAccepts sl g1 (fun a _ o => okCvti a o) fun c => [c.fa, c.fo])
      ∧ (Ok gCvi fFcvti (sF 0 15 0 0) ∧ floatAccepts (sF 0 15 0 0) gCvi (fun a _ o => okCvti a o) fun c => [c.fa, c.fo])
      ∧ Ok g1 fFdot2 (sF 0 8 24 32)
      ∧ (Ok gDot fFdot2 (sF 0 15 24 32) ∧ okIn (bits gDot.fmt 3 0) ∧ okIn (bits gDot.fmt 7 4) ∧ okOut (bits gDot.fmt 11 8)
        ∧ (fmtCtx (sF 0 15 24 32) gDot).fa.width = (fmtCtx (sF 0 15 24 32) gDot).fb.width
        ∧ (fmtCtx (sF 0 15 24 32) gDot).fo.width = 2 * (fmtCtx (sF 0 15 24 32) gDot).fa.width)
      ∧ (∀ sl ∈ [sF 0 10 0 32, sF 0 15 0 32], Ok g1 fFqsum sl
        ∧ floatAccepts sl g1 (fun a _ o => okIn a && (fmtD a).isTap && okOut o) fun c => [c.fa, c.fo]) := by
  refine ⟨?_, ?_, ⟨ok rfl, fun _ => ⟨by decide, by decide⟩⟩, ok rfl,
    ⟨ok rfl, by decide, by decide, by decide, by decide, by decide⟩, ?_⟩ <;> intro sl h <;> fin_cases h
  all_goals first
    | exact ⟨ok rfl, fun _ => ⟨by decide, by decide⟩⟩
    | exact ⟨ok rfl, typed_accepts rfl⟩

theorem test_meets_FLOAT_COMPARE_RESULTS :
    (∀ sl ∈ [sF 0 11 24 0, sF 7 15 24 0], Ok g1 fFcmp sl ∧ kindOf sl.d ≠ some .vp
        ∧ floatAccepts sl g1 (fun a b _ => okIn a && okIn b) fun c => [c.fa, c.fb])
      ∧ (let sl := { sF 2 8 24 0 with d := 0x279, md := 4 }; Ok g1 fFcmp sl ∧ kindOf sl.d = some .vp
        ∧ floatAccepts sl g1 (fun a b _ => okIn a && okIn b) fun c => [c.fa, c.fb])
      ∧ (let sl := { sF 0 13 0 0 with imm := 0x1FFF }; Ok g1 fFclass sl ∧ kindOf sl.d ≠ some .vp
        ∧ floatAccepts sl g1 (fun a _ _ => okIn a) fun c => [c.fa])
      ∧ (let sl := { sF 0 15 0 0 with d := 0x27A, imm := 1 }; Ok g1 fFclass sl ∧ kindOf sl.d = some .vp
        ∧ floatAccepts sl g1 (fun a _ _ => okIn a) fun c => [c.fa]) := by
  refine ⟨?_, ⟨ok rfl, by decide, typed_accepts rfl⟩, ⟨ok rfl, by decide, typed_accepts rfl⟩,
    ⟨ok rfl, by decide, fun _ => ⟨by decide, by decide⟩⟩⟩
  intro sl h; fin_cases h <;> exact ⟨ok rfl, by decide, fun _ => ⟨by decide, by decide⟩⟩

theorem test_meets_SPECIAL_FUNCTION_RESULTS :
    ∀ sl ∈ [sF 0 11 0 0, sF 0 8 0 0, sF 0 15 0 0], Ok g1 fSpecial sl
      ∧ floatAccepts sl g1 (fun a _ o => okIn a && okOut o) fun c => [c.fa, c.fo] := by
  intro sl h; fin_cases h <;> exact ⟨ok rfl, fun _ => ⟨by decide, by decide⟩⟩

/-- FMT 0 names i8, which no float arithmetic accepts. -/
theorem test_meets_UNACCEPTED_FORMATS_TRAP :
    let x := { g1 with fmt := 0 }
    ¬ (okIn (bits x.fmt 3 0) ∧ okIn (bits x.fmt 7 4) ∧ okOut (bits x.fmt 11 8)) ∧ tyIsFmt (sF 0 15 0 0) = true
      ∧ ¬ (okIn (bits x.fmt 3 0) ∧ okOut (bits x.fmt 11 8))
      ∧ Ok x (fun s => fFlt 0 (tyFF s) true [fmtW s] 2 s) (sF 0 15 24 0)
      ∧ Ok x (fun s => fFlt 3 (tyFF s) true [fmtW s] 3 s) (sF 0 15 24 32)
      ∧ Ok x (fun s => fFlt 0 (tyFF s) false [fmtW s] 1 s) (sF 0 15 0 0) ∧ Ok x fFcvt (sF 0 15 0 0)
      ∧ Ok x fSpecial (sF 0 15 0 0) :=
  ⟨by decide, rfl, by decide, ok rfl, ok rfl, ok rfl, ok rfl, ok rfl⟩

/-- The other forms, and tf16 into tf16 with a part past the one that such formats have. -/
theorem test_meets_UNACCEPTED_FORMATS_TRAP_more :
    (let x := { g1 with fmt := 0x070 }
     ¬ okIn (bits x.fmt 3 0) ∧ ¬ okCvti (bits x.fmt 3 0) (bits x.fmt 11 8)
      ∧ Ok x (fun s => fFlt 1 (tyFF s) false [fmtW s] 2 s) (sF 0 15 24 0) ∧ Ok x fFrnd (sF 0 15 0 0) ∧ Ok x fFcmp (sF 0 15 24 0)
      ∧ Ok x fFclass { sF 0 15 0 0 with imm := 1 } ∧ Ok x fFcvti (sF 0 15 0 0) ∧ Ok x fFdot2 (sF 0 15 24 32)
      ∧ Ok x fFqsum (sF 0 15 0 32))
      ∧ (∀ f ∈ [(fun s => fFlt 0 (tyFF s) true [fmtW s] 2 s, 24), (fFcvt, 0)], let sl := { sF 0 15 f.2 0 with md := 1 }
         Ok g1 f.1 sl ∧ modPart sl = 1 ∧ okIn (bits g1.fmt 3 0) ∧ okIn (bits g1.fmt 7 4) ∧ okOut (bits g1.fmt 11 8)
          ∧ (((fmtCtx sl g1).spanning [.tap 16, .tap 16]).wmax / ((fmtCtx sl g1).spanning [.tap 16, .tap 16]).wmin ≤ 1)) := by
  refine ⟨⟨by decide, by decide, ok rfl, ok rfl, ok rfl, ok rfl, ok rfl, ok rfl, ok rfl⟩, ?_⟩
  intro f h; fin_cases h <;> exact ⟨ok rfl, by decide, by decide, by decide, by decide, by decide⟩

/-! ### Control -/

/-- A block header of 5 slots. -/
def hdr : BitVec 128 := 0x1000024000000340500

/-- The state of `x` with that header at 0x10000. -/
def hAt (x : Group) : State := (at_ x).wrBytes 0x10000 (toBytes 16 hdr.toNat)

theorem hok {x : Group} {f : Slot → Form} {sl : Slot} (b : passes (hAt x) (f sl) sl x = true) : Issues (hAt x) (f sl) sl x :=
  issues_of rfl b

/-- s2 holds the header's address, s1 holds 2, and the block has one slot. -/
def gFar : Group := { g1 with sregs := [(1, 2), (2, 0x10000)], block := { hdr := 0x10000, len := 1 } }

/-- The header at `t` can be entered by the slot. -/
def reaches (x : Group) (sl : Slot) (t : Word) : Prop :=
  (((hAt x).atIssue sl).target (hAt x).cur t).2 = .ok hdr ∧ badHeader hdr = false

theorem test_meets_TRANSFERS_OF_CONTROL :
    let back : Slot := { imm := 0xFFFFFFFF }
    let near := gFar.pc + 16 * back.imm.signExtend 64
    let s := hAt gFar
    (Issues s (fBra back) back gFar ∧ reaches gFar back near)
      ∧ (let sl := sS 0 0 0 0x212 0 0; Issues s (fBrx sl) sl gFar ∧ reaches gFar sl (s.ssrc gFar sl sl.a))
      ∧ (let sl := { back with d := 0x211 }; Issues s (fCall sl) sl gFar
        ∧ gFar.pc = gFar.block.hdr + BitVec.ofNat 64 (16 * gFar.block.len) ∧ reaches gFar sl near)
      ∧ (let sl := sS 0 0 0x211 0x212 0 0; Issues s (fCallx sl) sl gFar ∧ reaches gFar sl (s.ssrc gFar sl sl.a))
      ∧ (let sl := { back with d := 0x211 }; Issues s (fLoop sl) sl gFar ∧ s.ssrc gFar sl sl.d - 1 ≠ 0 ∧ reaches gFar sl near)
      ∧ (let x := { gFar with sregs := [(1, 1)] }; let sl := { back with d := 0x211 }
         Issues (hAt x) (fLoop sl) sl x ∧ (hAt x).ssrc x sl sl.d - 1 = 0)
      ∧ (let sl := { back with a := 0x27F }; let p := gFar.vp (sl.a.toNat - 0x278)
         Issues s (fBrp sl) sl gFar ∧ ((p &&& gFar.act ≠ 0) ↔ sl.sub = 0) ∧ ((p &&& gFar.act = gFar.act) ↔ sl.sub = 0)
           ∧ reaches gFar sl near)
      ∧ (let sl := { back with a := 0x279 }; let p := gFar.vp (sl.a.toNat - 0x278)
         Issues s (fBrp sl) sl gFar ∧ ¬ ((p &&& gFar.act ≠ 0) ↔ sl.sub = 0) ∧ ¬ ((p &&& gFar.act = gFar.act) ↔ sl.sub = 0)) := by
  refine ⟨⟨hok rfl, ?_⟩, ⟨hok rfl, ?_⟩, ⟨hok rfl, by decide, ?_⟩, ⟨hok rfl, ?_⟩, ⟨hok rfl, by decide, ?_⟩,
    ⟨hok rfl, by decide⟩, ⟨hok rfl, by decide, by decide, ?_⟩, hok rfl, by decide, by decide⟩ <;>
    exact ⟨by decide +kernel, by decide⟩

/-- A group at a slot that no run reaches, and register targets that are not multiples of 16. -/
theorem test_meets_TRANSFERS_OF_CONTROL_bad :
    (let x := { g1 with pc := 0x10018 }; Ok x fBra {} ∧ (x.pc + 16 * (0 : BitVec 32).signExtend 64).toNat % 16 ≠ 0)
      ∧ (let x := { gFar with sregs := [(2, 0x10008)] }
         let sl := sS 0 0 0 0x212 0 0
         let sc := sS 0 0 0x211 0x212 0 0
         Ok x fBrx sl ∧ ((at_ x).ssrc x sl sl.a).toNat % 16 ≠ 0 ∧ Ok x fCallx sc
           ∧ x.pc = x.block.hdr + BitVec.ofNat 64 (16 * x.block.len) ∧ ((at_ x).ssrc x sc sc.a).toNat % 16 ≠ 0)
      ∧ Ok g1 fCall { d := 0x211 } ∧ Ok g1 fCallx (sS 0 0 0x211 0x212 0 0)
      ∧ g1.pc ≠ g1.block.hdr + BitVec.ofNat 64 (16 * g1.block.len) :=
  ⟨⟨ok rfl, by decide⟩, ⟨ok rfl, by decide, ok rfl, by decide, by decide⟩, ok rfl, ok rfl, by decide⟩

/-- The conditional transfers at that slot. -/
theorem test_meets_TRANSFERS_OF_CONTROL_bad_more :
    let x := { g1 with pc := 0x10018, sregs := [(1, 2)] }
    (x.pc + 16 * (0 : BitVec 32).signExtend 64).toNat % 16 ≠ 0
      ∧ (let sl : Slot := { d := 0x211 }; Ok x fLoop sl ∧ (at_ x).ssrc x sl sl.d ≠ 1)
      ∧ (let sl : Slot := { a := 0x27F }; let p := x.vp (sl.a.toNat - 0x278)
         Ok x fBrp sl ∧ ((p &&& x.act ≠ 0) ↔ sl.sub = 0) ∧ ((p &&& x.act = x.act) ↔ sl.sub = 0)) :=
  ⟨by decide, ⟨ok rfl, by decide⟩, ok rfl, by decide, by decide⟩

/-- A header of LEN 0 there. -/
def gBadHdr (x : Group) : State := (at_ x).wrBytes 0x10000 (toBytes 16 0)

theorem test_meets_TRANSFERS_OF_CONTROL_bad_headers :
    let s := gBadHdr gFar
    let refused (sl : Slot) (t : Word) : Prop := ((s.atIssue sl).target s.cur t).2 = .ok (0 : BitVec 128)
    let back : Slot := { d := 0x211, imm := 0xFFFFFFFF }
    let all : Slot := { a := 0x27F, imm := 0xFFFFFFFF }
    let far := sS 0 0 0 0x212 0 0
    let near := gFar.pc + 16 * (0xFFFFFFFF : BitVec 32).signExtend 64
    (Issues s (fBra { imm := 0xFFFFFFFF }) { imm := 0xFFFFFFFF } gFar ∧ refused { imm := 0xFFFFFFFF } near)
      ∧ (Issues s (fBrx far) far gFar ∧ refused far (s.ssrc gFar far far.a))
      ∧ (Issues s (fCall back) back gFar ∧ refused back near ∧ gFar.pc = gFar.block.hdr + BitVec.ofNat 64 (16 * gFar.block.len))
      ∧ (Issues s (fCallx (sS 0 0 0x211 0x212 0 0)) (sS 0 0 0x211 0x212 0 0) gFar ∧ refused (sS 0 0 0x211 0x212 0 0) 0x10000)
      ∧ (Issues s (fLoop back) back gFar ∧ s.ssrc gFar back back.d ≠ 1)
      ∧ (Issues s (fBrp all) all gFar ∧ refused all near) := by
  refine ⟨⟨issues_of rfl rfl, ?_⟩, ⟨issues_of rfl rfl, ?_⟩, ⟨issues_of rfl rfl, ?_, by decide⟩, ⟨issues_of rfl rfl, ?_⟩,
    ⟨issues_of rfl rfl, by decide +kernel⟩, issues_of rfl rfl, ?_⟩ <;> decide +kernel

/-- One open entry, a full stack and an empty one. -/
def gMask (n : Nat) : Group := { g1 with mstk := List.replicate n { saved := 0xF, taken := 3, fmt := 0x999, rcv := none } }

theorem test_meets_MASK_INSTRUCTION_RESULTS :
    Ok (gMask 1) fLexit {} ∧ g1.trapMode = false
      ∧ (Ok (gMask 31) fMpush { a := 0x279 } ∧ (gMask 31).mstk.length < 32)
      ∧ (Ok (gMask 32) fMpush { a := 0x279, sub := 1 } ∧ 32 ≤ (gMask 32).mstk.length)
      ∧ Ok (gMask 1) fBare {} ∧ (gMask 1).mstk = { saved := 0xF, taken := 3, fmt := 0x999, rcv := none } :: []
      ∧ Ok (gMask 0) fBare {} ∧ (gMask 0).mstk = []
      ∧ Ok g1 fMset { d := 0x276, a := 0x212 } ∧ (∀ n ∈ [0, 1, 2, 3, 4], Ok (gMask 1) fMget { sub := BitVec.ofNat 4 n, d := 0x211 }) := by
  refine ⟨ok rfl, rfl, ⟨ok rfl, by decide⟩, ⟨ok rfl, by decide⟩, ok rfl, rfl, ok rfl, rfl, ok rfl, ?_⟩
  intro n h; fin_cases h <;> exact ok rfl

/-- The same slots in a handler. -/
theorem test_meets_MASK_INSTRUCTION_RESULTS_handler :
    let x := { g1 with trapMode := true }
    x.trapMode = true ∧ Ok x fMpush { a := 0x279 } ∧ Ok x fBare {} ∧ Ok x fMset { d := 0x276, a := 0x212 } :=
  ⟨rfl, ok rfl, ok rfl, ok rfl⟩

/-- Every selector with the value 0, and with all ones, which names reserved bits and format 15. -/
theorem test_meets_FORMAT_REGISTER_RESULTS :
    (∀ n ∈ List.range 9, Ok g1 fSetfmt { sub := BitVec.ofNat 4 n, a := 0x212 } ∧ Ok g1 fGetfmt { sub := BitVec.ofNat 4 n, d := 0x211 })
      ∧ (let v := (at_ g1).ssrc g1 { a := 0x212 } 0x212
         ¬ (v.extractLsb' 14 2 ≠ 0 ∨ v.extractLsb' 41 23 ≠ 0 ∨ v.extractLsb' 0 4 = 15 ∨ v.extractLsb' 4 4 = 15 ∨ v.extractLsb' 8 4 = 15))
      ∧ (let x := { g1 with sregs := [(2, 0xF)] }
         Ok x fSetfmt { a := 0x212 } ∧ Ok x fSetfmt { sub := 3, a := 0x212 } ∧ ((at_ x).ssrc x { a := 0x212 } 0x212).extractLsb' 0 4 = 15) := by
  refine ⟨?_, by decide, ok rfl, ok rfl, by decide⟩
  intro n h; fin_cases h <;> exact ⟨ok rfl, ok rfl⟩

/-- EXIT with no joined barrier. -/
theorem test_meets_HINTS_AND_EXIT :
    Ok g1 fBare0 {} ∧ Ok g1 (fPref 3) { a := 16 } ∧ Ok g1 (fPref 2) { a := 16 } ∧ Ok g1 fBare {}
      ∧ ((((at_ g1).atIssue {}).exitTargets (((at_ g1).atIssue {}).viewOf (at_ g1).cur) g1.joined).2 = .ok []) :=
  ⟨ok rfl, ok rfl, ok rfl, ok rfl, rfl⟩

/-! ### Across lanes and groups -/

theorem test_meets_CROSS_LANE_RESULTS :
    (∀ n ∈ [1, 2, 3], Ok g1 fShfl (sS (BitVec.ofNat 4 n) 4 8 16 0x212 0)) ∧ Ok g1 fShfl (sS 0 4 8 16 24 0)
      ∧ (∀ n ∈ [0, 1, 3], Ok g1 fVote { sub := BitVec.ofNat 4 n, d := 0x281, a := 0x279 }) ∧ Ok g1 fVote { sub := 2, d := 0x211, a := 0x27F }
      ∧ Ok g1 fMatch (sS 0 6 8 16 0 0) ∧ Ok g1 fVget (sS 0 0 0x211 16 0x212 0) ∧ Ok g1 fVset (sS 0 11 8 0x211 0x212 0) := by
  refine ⟨?_, ok rfl, ?_, ok rfl, ok rfl, ok rfl, ok rfl⟩ <;> intro n h <;> fin_cases h <;> exact ok rfl

theorem test_meets_INTEGER_REDUCTION_RESULTS :
    ∀ n ∈ List.range 6, let sl : Slot := { sub := BitVec.ofNat 4 n, ty := 4, d := 0x211, a := 16 }
      let sc : Slot := { sub := BitVec.ofNat 4 (n + 8), ty := 0x20, d := 8, a := 16 }
      tyI sl = true ∧ tyI sc = true ∧ Ok g1 fLred sl ∧ Ok g1 fLscan sc ∧ Ok g1 fLscan { sc with sub := sl.sub } := by
  intro n h; fin_cases h <;> exact ⟨rfl, rfl, ok rfl, ok rfl, ok rfl⟩

theorem test_meets_FLOAT_REDUCTION_RESULTS :
    ∀ n ∈ [0, 1, 2], ∀ t ∈ [8, 11], let sl : Slot := { sub := BitVec.ofNat 4 n, ty := BitVec.ofNat 6 t, d := 0x211, a := 16 }
      let sc : Slot := { sub := BitVec.ofNat 4 (n + 8), ty := BitVec.ofNat 6 t, d := 8, a := 16 }
      tyF sl = true ∧ tyF sc = true ∧ Ok g1 fLred sl ∧ Ok g1 fLscan sc := by
  intro n h t ht; fin_cases h <;> fin_cases ht <;> exact ⟨rfl, rfl, ok rfl, ok rfl⟩

/-- Groups 1 and 2 of one workgroup, with its transfer slots. -/
def two (x y : Group) (slots : Table XSlot) : State :=
  { (at_ x).setGrp 2 y with wgs := [(1, { launch := 1, cores := [0], wb := 1048576, groups := [1, 2], slots := slots })] }

/-- Slot 15 is idle; or group 2 waits in it. -/
theorem test_meets_TRANSFER_SLOT_RENDEZVOUS :
    let snd : Slot := { ty := 0x30, a := 16, imm := 15 }
    let rcv : Slot := { ty := 0x30, d := 8, imm := 15 }
    let s := two g1 g1 []
    let sr := two g1 { g1 with wait := .xfer 15 false rcv } [(15, { st := 2, grp := 2 })]
    let ss := two g1 { g1 with wait := .xfer 15 true snd } [(15, { st := 1, grp := 2 })]
    let e (s : State) := (tget (s.wgD 1).slots 15).getD { st := 0, grp := 0 }
    (Issues s (fXsend snd) snd g1 ∧ Issues s (fXrecv rcv) rcv g1 ∧ (e s).st = 0 ∧ (∃ h ∈ (s.wgD 1).groups, h ≠ s.cur)
        ∧ tget s.wgs g1.wg ≠ none)
      ∧ (Issues sr (fXsend snd) snd g1 ∧ (e sr).st = 2 ∧ (sr.grpD (e sr).grp).wait = .xfer 15 false rcv
        ∧ rcv.sub = snd.sub ∧ xferShape rcv = xferShape snd ∧ (e sr).grp ≠ sr.cur)
      ∧ (Issues ss (fXrecv rcv) rcv g1 ∧ (e ss).st = 1 ∧ (ss.grpD (e ss).grp).wait = .xfer 15 true snd
        ∧ (e ss).grp ≠ ss.cur)
      ∧ (∀ n ∈ [0, 1], let sl : Slot := { sub := BitVec.ofNat 4 n, d := 0x211, imm := 15 }; Issues s (fXprobe sl) sl g1) := by
  refine ⟨⟨issues_of rfl rfl, issues_of rfl rfl, rfl, ⟨2, by decide, by decide⟩, by decide⟩,
    ⟨issues_of rfl rfl, rfl, rfl, rfl, by decide, by decide⟩, ⟨issues_of rfl rfl, rfl, rfl, by decide⟩, ?_⟩
  intro n h; fin_cases h <;> exact issues_of rfl rfl

/-- Alone in the workgroup; one that waits in the same direction; peers that wait with another count. -/
theorem test_meets_TRANSFER_SLOT_RENDEZVOUS_stops :
    let snd : Slot := { ty := 0x30, a := 16, imm := 15 }
    let rcv : Slot := { ty := 0x30, d := 8, imm := 15 }
    let e (s : State) := (tget (s.wgD 1).slots 15).getD { st := 0, grp := 0 }
    (Ok g1 fXsend snd ∧ Ok g1 fXrecv rcv ∧ (e (at_ g1)).st = 0 ∧ ∀ h ∈ ((at_ g1).wgD 1).groups, h = (at_ g1).cur)
      ∧ (∀ p ∈ [((1 : Nat), snd), (2, rcv)], let s := two g1 g1 [(15, { st := p.1, grp := 2 })]
        Issues s ((if p.1 = 1 then fXsend else fXrecv) p.2) p.2 g1 ∧ (e s).st = p.1)
      ∧ (let psl := { rcv with ty := 0x31 }
         let s := two g1 { g1 with wait := .xfer 15 false psl } [(15, { st := 2, grp := 2 })]
         Issues s (fXsend snd) snd g1 ∧ (e s).st = 2 ∧ (e s).grp ≠ s.cur ∧ (s.grpD (e s).grp).wait = .xfer 15 false psl
           ∧ xferShape psl ≠ xferShape snd)
      ∧ (let psl := { snd with ty := 0x31 }
         let s := two g1 { g1 with wait := .xfer 15 true psl } [(15, { st := 1, grp := 2 })]
         Issues s (fXrecv rcv) rcv g1 ∧ (e s).st = 1 ∧ (e s).grp ≠ s.cur ∧ (s.grpD (e s).grp).wait = .xfer 15 true psl
           ∧ xferShape psl ≠ xferShape rcv) := by
  refine ⟨⟨ok rfl, ok rfl, rfl, by decide⟩, ?_, ⟨issues_of rfl rfl, rfl, by decide, rfl, by decide⟩,
    issues_of rfl rfl, rfl, by decide, rfl, by decide⟩
  intro p h; fin_cases h <;> exact ⟨issues_of rfl rfl, rfl⟩

/-! ### Bins -/

/-- The window's address of offset `o`. -/
def wa (o : Nat) : Word := BitVec.ofNat 64 (2 ^ 60 + o)

/-- A bin of 32 rows of one register, its bitmaps at offsets 0x100 and 0x108 of the window, its rows from 0x200. -/
def bin0 : Bin :=
  { fbase := wa 0x200, w := 1, ovwake := false, cap := 32, init := true, occaddr := wa 0x100, wakeaddr := wa 0x108
    cont := 0, ovfl := 0, occ := 0, woken := 0, suspn := 0, resn := 0, resv := 0 }

/-- s2 holds the address of offset 0, v24 is all zero. -/
def gBin : Group := { g1 with sregs := [(2, wa 0)] }

/-- The state of `x` with the descriptor `b` at offset 0 of the window and `o`, `w` in its bitmaps. -/
def binAt (x : Group) (b : Bin) (o w : Nat) : State :=
  (((at_ x).wrBytes (winLoc 1 0) (toBytes 64 b.toNat)).wrBytes (winLoc 1 0x100) (toBytes 4 o)).wrBytes (winLoc 1 0x108) (toBytes 4 w)

/-- Its view of memory at issue, and the state once the descriptor has been read by an instruction that writes it or not. -/
def binView (s : State) (sl : Slot) : View := (s.atIssue sl).viewOf s.cur
def binRead (s : State) (sl : Slot) (wr : Bool := true) : State × Nat :=
  let v := binView s sl
  let r := ((s.atIssue sl).resolve v (wa 0) 64 64 5 wr).1.lockTake (winLoc 1 0)
  ((r.binRel v (.win (winLoc 1 0))).accountOne v (.win (winLoc 1 0)) (wa 0)).readT v (.win (winLoc 1 0)) 64 true

theorem readP_win (s : State) (v : View) (l n : Nat) (a : Word) (k : Nat) :
    s.readP v (.win l) n a k = ((s.readT v (.win l) n true).1, .ok (s.readT v (.win l) n true).2) := rfl

/-- The slot reads the descriptor `b`, at the address that s2 holds. -/
def Reads (x : Group) (s : State) (b : Bin) (sl : Slot) (wr : Bool := true) : Prop :=
  s.ssrc x sl sl.a = wa 0
    ∧ BinAt (s.atIssue sl) (binView s sl) (wa 0) wr (.win (winLoc 1 0)) b (binRead s sl wr).1

theorem reads_of {x : Group} {s : State} {sl : Slot} {b : Bin} {wr : Bool} (h : (decide (s.ssrc x sl sl.a = wa 0)
    && (!(s.atIssue sl).egressLow (binView s sl) (wa 0) && (s.atIssue sl).peerQuiet (s.atIssue sl).cur
      && (s.atIssue sl).lockFree (winLoc 1 0))
    && decide (((s.atIssue sl).resolve (binView s sl) (wa 0) 64 64 5 wr).2 = .ok (.win (winLoc 1 0)))
    && decide (b = Bin.ofNat (binRead s sl wr).2)) = true) : Reads x s b sl wr := by
  simp only [Bool.and_eq_true, decide_eq_true_eq, Bool.not_eq_true'] at h
  exact ⟨h.1.1.1, h.1.1.2.1.1, h.1.1.2.1.2, h.1.2, h.1.1.2.2, _, readP_win .., h.2⟩

/-- The bitmaps of `b` may be read, hold `om` and `wm`, and the state then is as `P` says. -/
def Maps (s : State) (b : Bin) (sl : Slot) (om wm : Nat) (P : State → Bool := fun _ => true) (wo : Bool := true) (ww : Bool := true) :
    Prop :=
  ∃ u' o w, MapsAt (binRead s sl).1 (binView s sl) b wo ww o w u' ∧ o.m = om ∧ w.m = wm ∧ P u' = true

theorem maps_of {s : State} {b : Bin} {sl : Slot} {om wm : Nat} {P : State → Bool} {wo ww : Bool}
    (h : (match (binRead s sl).1.readMaps (binView s sl) b wo ww with
      | (y, .ok (o, w)) => (firstErr (o.ps ++ w.ps)).isNone && decide (o.m = om) && decide (w.m = wm)
          && P (y.account (binView s sl) true true (o.ps ++ w.ps))
      | (_, .error _) => false) = true) : Maps s b sl om wm P wo ww := by
  cases hr : (binRead s sl).1.readMaps (binView s sl) b wo ww with
  | mk y r =>
    rw [hr] at h
    cases r with
    | error e => simp at h
    | ok p =>
      obtain ⟨o, w⟩ := p
      simp only [Bool.and_eq_true, decide_eq_true_eq, Option.isNone_iff_eq_none] at h
      exact ⟨_, o, w, ⟨⟨y, hr, rfl⟩, h.1.1.1⟩, h.1.1.2, h.1.2, h.2⟩

/-- The rows named may be accessed. -/
def rowsB (s : State) (v : View) (b : Bin) (wr : Bool) (l : List (Nat × Nat)) : Bool :=
  match (s.binRows v b wr l).2 with
  | .ok rows => (firstErr rows.flatten).isNone
  | .error _ => false

theorem ring_of {s : State} {v : View} {b : Bin}
    (h : (match (s.binRing v b false).2 with | .ok (some _) => true | _ => false) = true) :
    ∃ z rt rc, s.binRing v b false = (z, .ok (some (rt, rc))) := by
  cases hr : s.binRing v b false with
  | mk z r =>
    rw [hr] at h
    match r, h with
    | .ok (some (rt, rc)), _ => exact ⟨z, rt, rc, rfl⟩

/-- `s` with a page of data at 0x20000, which die 0 and the hub have translated. -/
def dataPage (s : State) : State :=
  { s with tlb := [0, 12].map (fun d => ({ die := d, fn := 0, ctx := 0, space := 0, base := 0x20000, size := 0x10000, leaf := 0x800343 } : TlbEntry)) ++ s.tlb }

/-- A ring of four elements of `esize` words from `base`, with these indices. -/
def ringBytes (esize base pidx cidx : Nat) : List Byte :=
  toBytes 64 (pidx + cidx * 2 ^ 64 + (2 + esize * 2 ^ 8) * 2 ^ 128 + base * 2 ^ 192)

/-- The bin with an overflow ring at 0x20400. -/
def binOvfl : Bin := { bin0 with ovfl := 0x20400 }
def ringAt_ (x : Group) (b : Bin) : State := dataPage ((binAt x b 5 4).wrBytes 0x20400 (ringBytes 1 0x20500 0 0))

theorem test_meets_BIN_QUEUE_RESULTS :
    (∀ n ∈ [0, 1, 2], let sl : Slot := { sub := BitVec.ofNat 4 n, d := 0x211, a := 0x212 }
        Issues (binAt gBin bin0 5 4) (fBinq sl) sl gBin ∧ Reads gBin (binAt gBin bin0 5 4) bin0 sl false)
      ∧ (let sl : Slot := { sub := 2, d := 0x211, a := 0x212 }; let s := ringAt_ gBin binOvfl
         Issues s (fBinq sl) sl gBin ∧ Reads gBin s binOvfl sl false
           ∧ ∃ z rt rc, (binRead s sl false).1.binRing (binView s sl) binOvfl false = (z, .ok (some (rt, rc))))
      ∧ (∀ p ∈ [(fWakeRows, sS 0 0 0 0x212 0x213 0x274, false), (fWakeLanes, sS 1 0 0 0x212 24 0, false),
          (fWakeAll, sS 2 0 0 0x212 0 0, false), (fBindropRows, sS 0 0 0 0x212 0x213 0x274, true),
          (fBindropSet, sS 1 0 0 0x212 0 0, true), (fBindropSet, sS 2 0 0 0x212 0 0, true)],
        let s := binAt gBin bin0 5 4
        let sl := p.2.1
        Issues s (p.1 sl) sl gBin ∧ Reads gBin s bin0 sl ∧ Maps s bin0 sl 5 4 (wo := p.2.2) ∧ (s.ssrc gBin sl sl.b).toNat % 32 = 0)
      ∧ (let sl : Slot := { a := 0x212 }; let s := binAt gBin bin0 5 4
         Issues s (fBininit sl) sl gBin ∧ Reads gBin s bin0 sl ∧ bin0.valid none = true ∧ Maps s bin0 sl 5 4) := by
  refine ⟨?_, ⟨issues_of rfl rfl, reads_of (by decide +kernel), ?_⟩, ?_,
    issues_of rfl rfl, reads_of (by decide +kernel), by decide, maps_of (by decide +kernel)⟩
  · intro n h; fin_cases h <;> exact ⟨issues_of rfl rfl, reads_of (by decide +kernel)⟩
  · exact ring_of (by decide +kernel)
  · intro p h; fin_cases h <;> exact ⟨issues_of rfl rfl, reads_of (by decide +kernel), maps_of (by decide +kernel), by decide +kernel⟩

/-- A bin that is not initialised, one of CAP 0, a base of 1, and an overflow ring to empty or to check. -/
theorem test_meets_BIN_QUEUE_RESULTS_more :
    (∀ p ∈ [(fBinq, ({ d := 0x211, a := 0x212 } : Slot), false), (fWakeRows, sS 0 0 0 0x212 0x213 0x274, true),
        (fWakeLanes, sS 1 0 0 0x212 24 0, true), (fWakeAll, sS 2 0 0 0x212 0 0, true), (fBindropSet, sS 1 0 0 0x212 0 0, true),
        (fBindropRows, sS 0 0 0 0x212 0x213 0x274, true)],
      let b := { bin0 with init := false }; let s := binAt gBin b 5 4
      Issues s (p.1 p.2.1) p.2.1 gBin ∧ Reads gBin s b p.2.1 p.2.2 ∧ b.init = false)
      ∧ (let x := { gBin with sregs := [(2, wa 0), (3, 1)] }; let sl := sS 0 0 0 0x212 0x213 0x274; let s := binAt x bin0 5 4
         Issues s (fWakeRows sl) sl x ∧ Issues s (fBindropRows sl) sl x ∧ Reads x s bin0 sl ∧ (s.ssrc x sl sl.b).toNat % 32 ≠ 0)
      ∧ (let sl : Slot := { a := 0x212 }; let b := { bin0 with cap := 0 }; let s := binAt gBin b 5 4
         Issues s (fBininit sl) sl gBin ∧ Reads gBin s b sl ∧ b.valid none = false)
      ∧ (let sl := sS 2 0 0 0x212 0 0; let s := ringAt_ gBin binOvfl
         Issues s (fBindropSet sl) sl gBin ∧ Reads gBin s binOvfl sl
           ∧ Maps s binOvfl sl 5 4 (fun u => match (u.binRing (binView s sl) binOvfl true).2 with | .ok (some _) => true | _ => false))
      ∧ (let sl : Slot := { a := 0x212 }; let s := ringAt_ gBin binOvfl
         Issues s (fBininit sl) sl gBin ∧ Reads gBin s binOvfl sl
           ∧ (match ((binRead s sl).1.initRing (binView s sl) binOvfl).2 with
             | .ok (some rc) => binOvfl.valid (some rc)
                && (match (((binRead s sl).1.initRing (binView s sl) binOvfl).1.readMaps (binView s sl) binOvfl true true).2 with
                  | .ok (o, w) => (firstErr (o.ps ++ w.ps)).isNone
                  | .error _ => false)
             | _ => false) = true) := by
  refine ⟨?_, ⟨issues_of rfl rfl, issues_of rfl rfl, reads_of (by decide +kernel), by decide +kernel⟩,
    ⟨issues_of rfl rfl, reads_of (by decide +kernel), by decide⟩,
    ⟨issues_of rfl rfl, reads_of (by decide +kernel), maps_of (by decide +kernel)⟩,
    issues_of rfl rfl, reads_of (by decide +kernel), by decide +kernel⟩
  intro p h; fin_cases h <;> exact ⟨issues_of rfl rfl, reads_of (by decide +kernel), rfl⟩

/-- A group with no live lane, as RESUME wants it. -/
def gIdle : Group := { gBin with live := 0, act := 0 }

/-- The bin with 64 rows. -/
def bin1 : Bin := { bin0 with cap := 64 }

/-- A bin with 62 free rows for 32 lanes, and one whose two bitmaps share row 2; a live group for the trap of RESUME. -/
theorem test_meets_SUSP_AND_RESUME_RESULTS :
    let sl := sS 0 0 0x211 0x212 24 0
    (let s := binAt gBin bin1 5 4
     let ls := lanesOf (gBin.sel sl)
     let take := ((List.range 64).filter fun r => !Nat.testBit 5 r).take ls.length
     Issues s (fSusp sl) sl gBin ∧ Reads gBin s bin1 sl ∧ frameFree (binRead s sl).1 gBin sl 1
       ∧ Maps s bin1 sl 5 4 (fun u => rowsB u (binView s sl) bin1 true (take.zip ls))
       ∧ ls.length ≤ ((List.range 64).filter fun r => !Nat.testBit 5 r).length ∧ ls ≠ [])
      ∧ (Issues (binAt gBin bin0 5 4) (fResume sl) sl gBin ∧ (gBin.live ≠ 0 ∨ gBin.mstk ≠ []))
      ∧ (let s := binAt gIdle bin0 5 4
         Issues s (fResume sl) sl gIdle ∧ gIdle.live = 0 ∧ gIdle.mstk = [] ∧ Reads gIdle s bin0 sl
           ∧ frameFree (binRead s sl).1 gIdle sl 1
           ∧ Maps s bin0 sl 5 4 (fun u => match u.binRows (binView s sl) bin0 false (((rowsOf 32 (5 &&& 4)).take 32).zipIdx) with
             | (z, .ok rows) =>
               (firstErr ((z.account (binView s sl) true false rows.flatten).askRows (binView s sl) 5 rows).2.flatten).isNone
             | _ => false)) := by
  refine ⟨⟨issues_of rfl rfl, reads_of (by decide +kernel), ⟨by decide, by decide +kernel, by decide +kernel⟩,
      maps_of (by decide +kernel), by decide, by decide⟩,
    ⟨issues_of rfl rfl, .inl (by decide)⟩, issues_of rfl rfl, rfl, rfl, reads_of (by decide +kernel),
    ⟨by decide, by decide +kernel, by decide +kernel⟩,
    maps_of (by decide +kernel)⟩

/-- A full bin without a ring, bins that are not initialised, and a RESUME that drains a ring of one element. -/
theorem test_meets_SUSP_AND_RESUME_RESULTS_more :
    let sl := sS 0 0 0x211 0x212 24 0
    let raw := { bin0 with init := false }
    (let s := binAt gBin bin0 0xFFFFFFFF 4
     Issues s (fSusp sl) sl gBin ∧ Reads gBin s bin0 sl ∧ frameFree (binRead s sl).1 gBin sl 1
       ∧ Maps s bin0 sl 0xFFFFFFFF 4 (fun u => rowsB u (binView s sl) bin0 true []) ∧ 0 < (lanesOf (gBin.sel sl)).length)
      ∧ (Issues (binAt gBin raw 5 4) (fSusp sl) sl gBin ∧ Reads gBin (binAt gBin raw 5 4) raw sl)
      ∧ (Issues (binAt gIdle raw 5 4) (fResume sl) sl gIdle ∧ Reads gIdle (binAt gIdle raw 5 4) raw sl)
      ∧ (let s := dataPage ((binAt gIdle binOvfl 5 4).wrBytes 0x20400 (ringBytes 1 0x20500 1 0))
         Issues s (fResume sl) sl gIdle ∧ Reads gIdle s binOvfl sl ∧ frameFree (binRead s sl).1 gIdle sl 1
           ∧ Maps s binOvfl sl 5 4 (fun u => (match (u.binRing (binView s sl) binOvfl false).2 with | .ok (some _) => true | _ => false)
              && (match ((binRead s sl).1.readMaps (binView s sl) binOvfl true true).2 with
                | .ok (o, w) => (match (u.resumePlan (binView s sl) binOvfl o w).2 with
                  | .ok p => (firstErr (p.drainRows.flatten ++ p.rows.flatten ++ p.elems.flatten)).isNone && decide (p.elems.length = 1)
                  | .error _ => false)
                | .error _ => false))) := by
  refine ⟨⟨issues_of rfl rfl, reads_of (by decide +kernel), ⟨by decide, by decide +kernel, by decide +kernel⟩,
      maps_of (by decide +kernel), by decide⟩,
    ⟨issues_of rfl rfl, reads_of (by decide +kernel)⟩, ⟨issues_of rfl rfl, reads_of (by decide +kernel)⟩,
    issues_of rfl rfl, reads_of (by decide +kernel), ⟨by decide, by decide +kernel, by decide +kernel⟩,
    maps_of (by decide +kernel)⟩

/-- Column 0 of the two occupied rows, and column 1, which the bin has not. -/
theorem test_meets_FXFORM_RESULTS :
    let s := binAt gBin bin0 5 4
    let sl := sS 0 6 0 0x212 0x213 0x214
    let v := binView s sl
    (Issues s (fFxform sl) sl gBin ∧ Reads gBin s bin0 sl false ∧ (s.ssrc gBin sl sl.c).toNat < bin0.w
        ∧ (match (binRead s sl false).1.readMap v bin0 bin0.occaddr false with
          | (u', .ok o) => decide (o.m = 5) && (match u'.binRows v bin0 true ((rowsOf 32 5).map fun n => (n, 0)) with
            | (u'', .ok rows) => let col := rows.filterMap fun e => e[0]?
              (firstErr (o.ps ++ ((u''.account v true false (o.ps ++ col)).askAll v 8 5 col).2)).isNone && decide (col.length = 2)
            | _ => false)
          | _ => false) = true)
      ∧ (let x := { gBin with sregs := [(2, wa 0), (4, 1)] }
         Issues (binAt x bin0 5 4) (fFxform sl) sl x ∧ Reads x (binAt x bin0 5 4) bin0 sl false
           ∧ bin0.w ≤ ((binAt x bin0 5 4).ssrc x sl sl.c).toNat) :=
  ⟨⟨issues_of rfl rfl, reads_of (by decide +kernel), by decide +kernel, by decide +kernel⟩, issues_of rfl rfl,
    reads_of (by decide +kernel), by decide +kernel⟩

/-- The same column of two rows and of one element of the ring. -/
theorem test_meets_FXFORM_RESULTS_ring :
    let s := dataPage ((binAt gBin binOvfl 5 4).wrBytes 0x20400 (ringBytes 1 0x20500 1 0))
    let sl := sS 0 6 0 0x212 0x213 0x214
    let v := binView s sl
    let b := binOvfl
    Issues s (fFxform sl) sl gBin ∧ Reads gBin s b sl false ∧ (s.ssrc gBin sl sl.c).toNat < b.w
      ∧ (match (binRead s sl false).1.readMap v b b.occaddr false with
        | (u', .ok o) => (match u'.binRows v b true ((rowsOf b.cap o.m).map fun n => (n, 0)) with
          | (u'', .ok rows) => (match u''.binRing v b false with
            | (z, .ok (some (_, rc))) => (match z.ringElems v rc true rc.cidx rc.count with
              | (z', .ok el) =>
                let col := rows.filterMap fun e => e[0]?
                let els := el.filterMap fun e => e[0]?
                let k := (z'.account v true false (o.ps ++ col ++ els)).askAll v 8 5 col
                (firstErr (o.ps ++ k.2 ++ (k.1.askAll v 8 6 els).2)).isNone && decide (els.length = 1)
              | _ => false)
            | _ => false)
          | _ => false)
        | _ => false) = true :=
  ⟨issues_of rfl rfl, reads_of (by decide +kernel), by decide +kernel, by decide +kernel⟩

/-! ### Memory -/

/-- v16 holds the addresses of 32 consecutive words of the window, s2 the window's last 8 bytes, s3 its start. -/
def gWin : Group := { g1 with sregs := [(2, wa (1048576 - 8)), (3, wa 0)], vregs := [(16, vecOf fun L => wa (8 * L))] }

/-- The accesses may be made and are answered. -/
def Access (i : State) (v : View) (sl : Slot) (n kind : Nat) (hub : Bool) (words : Nat) (ask : Ask) (addrs : List (Nat × Word)) :
    Prop := ∃ ps u, AccessAt i v sl n kind hub words ask addrs ps u

theorem access_of {i : State} {v : View} {sl : Slot} {n kind words : Nat} {hub : Bool} {ask : Ask} {addrs : List (Nat × Word)}
    (h : (!(addrs.any fun p => i.egressLow v p.2) && i.peerQuiet i.cur
      && match i.resolveAll v n n kind (kindWrites kind) addrs with
      | (r, .ok ps) => (firstErr (lanePieces words (r.told v sl n kind words ask 0 (ps.map (r.orWay sl kind))).2)).isNone
      | _ => false) = true) : Access i v sl n kind hub words ask addrs := by
  cases hr : i.resolveAll v n n kind (kindWrites kind) addrs with
  | mk r q =>
    rw [hr] at h
    cases q with
    | error e => simp at h
    | ok ps =>
      simp only [Bool.and_eq_true, Bool.not_eq_true', Option.isNone_iff_eq_none] at h
      exact ⟨_, _, ⟨h.1.1, fun _ => h.1.2, ⟨r, ps, hr, rfl, rfl⟩, h.2⟩⟩

/-- The slot's view at issue. -/
def iss (x : Group) (sl : Slot) : State := (at_ x).atIssue sl
def vw (x : Group) (sl : Slot) : View := (iss x sl).viewOf (at_ x).cur

/-- `Access` at issue; the requests that peers would be sent are those of the statement. -/
def Acc (x : Group) (sl : Slot) (n kind : Nat) (hub : Bool) (words : Nat) (ask : Ask) (addrs : State → List (Nat × Word)) : Prop :=
  Access (iss x sl) (vw x sl) sl n kind hub words ask (addrs (iss x sl))

theorem test_meets_MEMORY_ACCESSES_COMPLETE :
    let one (sl : Slot) : Ask := loadAsk gWin (tyW sl / 8) (tyW sl) (tyS sl) fun _ => dstRef gWin.trapMode sl.d 0
    let word (sl : Slot) (m : Nat) : Ask := loadAsk gWin 8 64 false fun j => dstRef gWin.trapMode sl.d (j % m)
    let B (sl : Slot) (L : Nat) : Nat := (lane ((at_ gWin).vsrc gWin sl 32 sl.b) L).toNat % 2 ^ 32
    (let sl : Slot := { ty := 6, d := 8, a := 16 }; Ok gWin fLd sl ∧ Acc gWin sl 8 0 false 1 (one sl) fun i => i.laneAddrs gWin sl 1)
      ∧ (let sl : Slot := { ty := 0x30, d := 8, a := 16 }
         Ok gWin fLdx sl ∧ Acc gWin sl 8 0 false (cntN sl) (word sl (cntN sl)) fun i => i.laneAddrs gWin sl (cntN sl))
      ∧ (let sl : Slot := { ty := 0, d := 0x211, a := 0x212 }
         Ok gWin fLds sl ∧ Acc gWin sl 1 0 false 1 (one sl) fun i => [(0, i.scaAddr gWin sl)])
      ∧ (let sl : Slot := { d := 8, a := 0x213 }
         Ok gWin fLdb sl ∧ Acc gWin sl 8 0 false 1 (loadAsk gWin 8 64 false fun _ => dstRef gWin.trapMode sl.d 0)
           fun i => i.blockAddrs gWin sl)
      ∧ (let sl : Slot := { ty := 3, a := 16, b := 24 }
         Ok gWin fSt sl ∧ Acc gWin sl 2 1 false 1 noAsk fun i => i.laneAddrs gWin sl 1)
      ∧ (let sl : Slot := { ty := 0x30, a := 16, b := 24 }
         Ok gWin fStx sl ∧ Acc gWin sl 8 1 false (cntN sl) noAsk fun i => i.laneAddrs gWin sl (cntN sl))
      ∧ (let sl : Slot := { ty := 6, a := 0x212, b := 0x213 }
         Ok gWin fSts sl ∧ Acc gWin sl 8 1 false 1 noAsk fun i => [(0, i.scaAddr gWin sl)])
      ∧ (let sl : Slot := { a := 0x213, b := 24 }
         Ok gWin fStb sl ∧ Acc gWin sl 8 1 false 1 noAsk fun i => i.blockAddrs gWin sl)
      ∧ (let sl : Slot := { ty := 4, d := 8, a := 16, b := 24 }
         Ok gWin fAtom sl ∧ Acc gWin sl 4 2 false 1 (atomAsk gWin sl 4 32 2 (dstRef gWin.trapMode sl.d 0) (B sl) fun _ => 0)
           fun i => i.laneAddrs gWin sl 1)
      ∧ (let sl : Slot := { ty := 6, d := 0x211, a := 0x212, b := 0x213 }
         Ok gWin fAtoms sl ∧ Acc gWin sl 8 2 false 1 (atomAsk gWin sl 8 64 2 (dstRef gWin.trapMode sl.d 0)
           (fun _ => ((at_ gWin).ssrc gWin sl sl.b).toNat % 2 ^ 64) fun _ => 0) fun i => [(0, i.scaAddr gWin sl)])
      ∧ (let sl : Slot := { ty := 4, a := 16, b := 24 }
         Ok gWin fRed sl ∧ Acc gWin sl 4 3 true 1 (atomAsk gWin sl 4 32 3 none (B sl) fun _ => 0) fun i => i.laneAddrs gWin sl 1) :=
  ⟨⟨ok rfl, access_of (by decide +kernel)⟩, ⟨ok rfl, access_of (by decide +kernel)⟩, ⟨ok rfl, access_of (by decide +kernel)⟩,
    ⟨ok rfl, access_of (by decide +kernel)⟩, ⟨ok rfl, access_of (by decide +kernel)⟩, ⟨ok rfl, access_of (by decide +kernel)⟩,
    ⟨ok rfl, access_of (by decide +kernel)⟩, ⟨ok rfl, access_of (by decide +kernel)⟩, ⟨ok rfl, access_of (by decide +kernel)⟩,
    ⟨ok rfl, access_of (by decide +kernel)⟩, ⟨ok rfl, access_of (by decide +kernel)⟩⟩

/-- The words at the window's end, at its start, and in all lanes. -/
def wins (x : Group) (f : Nat → Word) (n : Nat) : Bool :=
  (List.range 32).all fun L => decide ((f L).extractLsb' 60 4 = 1) && decide ((f L).toNat % n = 0)
    && decide (((f L).extractLsb' 0 60).toNat + n ≤ ((at_ x).wgD x.wg).wb)

theorem inWindow_of {x : Group} {f : Nat → Word} {n : Nat} (h : wins x f n = true) (p : Nat → Prop) :
    ∀ L, L < 32 ∧ p L → inWindow (at_ x) x (f L) n := by
  intro L hL
  have := List.all_eq_true.mp h L (List.mem_range.mpr hL.1)
  simp only [Bool.and_eq_true, decide_eq_true_eq] at this
  exact ⟨this.1.1, this.1.2, this.2⟩

/-- The address of lane `L`, of a scalar access, and of word `L` of a block. -/
def lnA (x : Group) (sl : Slot) (L : Nat) : Word := lane ((at_ x).vsrc x sl 64 sl.a) L + sl.imm.signExtend 64
def scA (x : Group) (sl : Slot) : Word := (at_ x).ssrc x sl sl.a + sl.imm.signExtend 64
def blA (x : Group) (sl : Slot) (L : Nat) : Word := scA x sl + BitVec.ofNat 64 (8 * L)

def lnW (x : Group) (sl : Slot) (L j : Nat) : Word := lnA x sl L + BitVec.ofNat 64 (8 * j)

theorem inWindows_of {x : Group} {f : Nat → Nat → Word} {n m : Nat} (h : ((List.range m).all fun j => wins x (fun L => f L j) n) = true)
    (p : Nat → Prop) : ∀ L j, L < 32 ∧ p L → j < m → inWindow (at_ x) x (f L j) n := fun L j hL hj =>
  inWindow_of (f := fun L => f L j) (List.all_eq_true.mp h j (List.mem_range.mpr hj)) p L hL

theorem test_meets_SCRATCHPAD_LOADS_AND_STORES :
    let sel (x : Group) (sl : Slot) (L : Nat) : Prop := (x.sel sl).getLsbD L = true
    (let sl : Slot := { ty := 6, d := 8, a := 16 }
     Ok gWin fLd sl ∧ ∀ L, L < 32 ∧ sel gWin sl L → inWindow (at_ gWin) gWin (lnA gWin sl L) 8)
      ∧ (let sl : Slot := { ty := 6, d := 0x211, a := 0x212 }; Ok gWin fLds sl ∧ inWindow (at_ gWin) gWin (scA gWin sl) 8)
      ∧ (let sl : Slot := { d := 8, a := 0x213 }
         Ok gWin fLdb sl ∧ ∀ L, L < 32 ∧ sel gWin sl L → inWindow (at_ gWin) gWin (blA gWin sl L) 8)
      ∧ (let sl : Slot := { ty := 0, a := 16, b := 24 }
         Ok gWin fSt sl ∧ ∀ L, L < 32 ∧ sel gWin sl L → inWindow (at_ gWin) gWin (lnA gWin sl L) 1)
      ∧ (let sl : Slot := { ty := 6, a := 0x212, b := 0x213 }; Ok gWin fSts sl ∧ inWindow (at_ gWin) gWin (scA gWin sl) 8)
      ∧ (let sl : Slot := { a := 0x213, b := 24 }
         Ok gWin fStb sl ∧ ∀ L, L < 32 ∧ sel gWin sl L → inWindow (at_ gWin) gWin (blA gWin sl L) 8)
      ∧ (let sl : Slot := { ty := 0x30, d := 8, a := 16 }
         Ok gWin fLdx sl ∧ ∀ L j, L < 32 ∧ sel gWin sl L → j < cntN sl → inWindow (at_ gWin) gWin (lnW gWin sl L j) 8)
      ∧ (let sl : Slot := { ty := 0x30, a := 16, b := 24 }
         Ok gWin fStx sl ∧ ∀ L j, L < 32 ∧ sel gWin sl L → j < cntN sl → inWindow (at_ gWin) gWin (lnW gWin sl L j) 8) :=
  ⟨⟨ok rfl, inWindow_of (by decide +kernel) _⟩, ⟨ok rfl, by decide +kernel, by decide +kernel, by decide +kernel⟩,
    ⟨ok rfl, inWindow_of (by decide +kernel) _⟩, ⟨ok rfl, inWindow_of (by decide +kernel) _⟩,
    ⟨ok rfl, by decide +kernel, by decide +kernel, by decide +kernel⟩, ⟨ok rfl, inWindow_of (by decide +kernel) _⟩,
    ⟨ok rfl, inWindows_of (by decide +kernel) _⟩, ok rfl, inWindows_of (by decide +kernel) _⟩

theorem test_meets_SCRATCHPAD_ATOMICS :
    (∀ sl ∈ ([{ sub := 7, ty := 6, d := 0x211, a := 0x212, b := 0x213, c := 0x214 }, { ty := 5, d := 8, a := 16, b := 24 },
      { ty := 4, a := 16, b := 24 }] : List Slot), (iss gWin sl).peerQuiet (at_ gWin).cur = true) ∧
    let sel (x : Group) (sl : Slot) (L : Nat) : Prop := (x.sel sl).getLsbD L = true
    (let sl : Slot := { sub := 7, ty := 6, d := 0x211, a := 0x212, b := 0x213, c := 0x214 }
     tyI sl = true ∧ 8 ≤ tyW sl ∧ sl.md = 0 ∧ Ok gWin fAtoms sl ∧ inWindow (at_ gWin) gWin (scA gWin sl) 8)
      ∧ (let sl : Slot := { ty := 5, d := 8, a := 16, b := 24 }
         tyI sl = true ∧ 8 ≤ tyW sl ∧ sl.md = 0 ∧ Ok gWin fAtom sl
           ∧ ∀ L, L < 32 ∧ sel gWin sl L → inWindow (at_ gWin) gWin (lnA gWin sl L) 4)
      ∧ (let sl : Slot := { ty := 4, a := 16, b := 24 }
         tyI sl = true ∧ 8 ≤ tyW sl ∧ sl.md = 0 ∧ Ok gWin fRed sl ∧ sl.sub ≠ 10
           ∧ ∀ L, L < 32 ∧ sel gWin sl L → inWindow (at_ gWin) gWin (lnA gWin sl L) 4) :=
  ⟨by decide +kernel, ⟨rfl, by decide, rfl, ok rfl, by decide +kernel, by decide +kernel, by decide +kernel⟩,
    ⟨rfl, by decide, rfl, ok rfl, inWindow_of (by decide +kernel) _⟩,
    rfl, by decide, rfl, ok rfl, by decide, inWindow_of (by decide +kernel) _⟩

/-- The cause that an access of `n` bytes meets. -/
def causeAt (x : Group) (n : Nat) (a : Word) : Option (BitVec 8) :=
  if a.toNat % n ≠ 0 ∨ ((a.extractLsb' 60 4).toNat = 4 ∧ n = 1) then some 11
  else if ((a.extractLsb' 60 4).toNat ≠ 0 ∧ (a.extractLsb' 60 4).toNat ≠ 1 ∧ (a.extractLsb' 60 4).toNat ≠ 3
      ∧ (a.extractLsb' 60 4).toNat ≠ 4) ∨ (((a.extractLsb' 60 4).toNat = 0 ∨ (a.extractLsb' 60 4).toNat = 4) ∧ a.extractLsb' 52 8 ≠ 0)
      ∨ ((a.extractLsb' 60 4).toNat = 3 ∧ a.extractLsb' 12 48 ≠ 0) then some 4
  else if (a.extractLsb' 60 4).toNat = 1 ∧ ((at_ x).wgD x.wg).wb < (a.extractLsb' 0 60).toNat + n then some 7 else none

/-- The slot issues, with peers and buckets at rest, and meets `c` at its first address. -/
def BadAt (x : Group) (f : Slot → Form) (sl : Slot) (n : Nat) (a : Nat → Word) (c : BitVec 8) : Prop :=
  Ok x f sl ∧ (iss x sl).peerQuiet (at_ x).cur = true ∧ (x.sel sl).getLsbD 0 = true
    ∧ (∀ M, M < 32 → (iss x sl).egressLow (vw x sl) (a M) = false) ∧ causeAt x n (a 0) = some c

/-- An odd address, one in no space, and one whose last byte is past the window. -/
def badAddrs : List (Word × BitVec 8) := [(wa 1, 11), (0x2000000000000000, 4), (wa 1048576, 7)]
def gBad (a : Word) : Group := { g1 with sregs := [(2, a)], vregs := [(16, vecOf fun _ => a)] }

def badB (f : Slot → Form) (sl : Slot) (a : Group → Slot → Nat → Word) : Bool :=
  badAddrs.all fun p =>
    let x := gBad p.1
    passes (at_ x) (f sl) sl x && (iss x sl).peerQuiet (at_ x).cur && (x.sel sl).getLsbD 0
      && ((List.range 32).all fun M => !(iss x sl).egressLow (vw x sl) (a x sl M)) && decide (causeAt x 8 (a x sl 0) = some p.2)

theorem bad_of {l : List ((Slot → Form) × Slot)} {a : Group → Slot → Nat → Word} (h : (l.all fun e => badB e.1 e.2 a) = true) :
    ∀ e ∈ l, ∀ p ∈ badAddrs, BadAt (gBad p.1) e.1 e.2 8 (a (gBad p.1) e.2) p.2 := by
  intro e he p hp
  have := List.all_eq_true.mp (List.all_eq_true.mp h e he) p hp
  simp only [Bool.and_eq_true, decide_eq_true_eq, List.all_eq_true, List.mem_range, Bool.not_eq_true'] at this
  exact ⟨ok this.1.1.1.1, this.1.1.1.2, this.1.1.2, this.1.2, this.2⟩

theorem test_meets_BAD_ADDRESSES_TRAP :
    (∀ e ∈ [(fLds, ({ ty := 6, d := 0x211, a := 0x212 } : Slot)), (fSts, { ty := 6, a := 0x212, b := 0x213 }),
        (fAtoms, { ty := 6, d := 0x211, a := 0x212, b := 0x213 })],
        ∀ p ∈ badAddrs, BadAt (gBad p.1) e.1 e.2 8 (fun _ => scA (gBad p.1) e.2) p.2)
      ∧ (∀ e ∈ [(fLd, ({ ty := 6, d := 8, a := 16 } : Slot)), (fSt, { ty := 6, a := 16, b := 24 }),
        (fLdx, { ty := 0x30, d := 8, a := 16 }), (fStx, { ty := 0x30, a := 16, b := 24 }),
        (fAtom, { ty := 6, d := 8, a := 16, b := 24 }), (fRed, { ty := 6, a := 16, b := 24 })],
        ∀ p ∈ badAddrs, BadAt (gBad p.1) e.1 e.2 8 (lnA (gBad p.1) e.2) p.2)
      ∧ ∀ e ∈ [(fLdb, ({ d := 8, a := 0x212 } : Slot)), (fStb, { a := 0x212, b := 24 })],
        ∀ p ∈ badAddrs, BadAt (gBad p.1) e.1 e.2 8 (blA (gBad p.1) e.2) p.2 :=
  ⟨bad_of (a := fun x sl _ => scA x sl) (by decide +kernel), bad_of (by decide +kernel), bad_of (by decide +kernel)⟩

theorem test_meets_FENCES_ACT_ON_THE_COLUMNS :
    (Ok g1 fFence { md := 3, scp := 4 } ∧ (iss g1 { md := 3, scp := 4 }).peerQuiet (at_ g1).cur = true)
      ∧ Ok g1 fFence { md := 1, scp := 1 } ∧ Ok g1 fBare0 {} ∧ (State.reset.coreD 0).gen ≠ 0xFFFF :=
  ⟨⟨ok rfl, by decide +kernel⟩, ok rfl, ok rfl, by decide⟩

/-! ### Waits, barrier objects and rings -/

/-- The address may be accessed from `s` by the slot, as a window location. -/
def Reach (s : State) (sl : Slot) (a : Word) (n kind : Nat) (l : Nat) : Prop :=
  (s.atIssue sl).egressLow ((s.atIssue sl).viewOf s.cur) a = false ∧ (s.atIssue sl).peerQuiet (s.atIssue sl).cur = true
    ∧ ∃ u, (s.atIssue sl).resolve ((s.atIssue sl).viewOf s.cur) a n n kind = (u, .ok (.win l))

theorem reach_of {s : State} {sl : Slot} {a : Word} {n kind l : Nat}
    (h : (!(s.atIssue sl).egressLow ((s.atIssue sl).viewOf s.cur) a && (s.atIssue sl).peerQuiet (s.atIssue sl).cur
      && decide (((s.atIssue sl).resolve ((s.atIssue sl).viewOf s.cur) a n n kind).2 = .ok (.win l))) = true) :
    Reach s sl a n kind l := by
  simp only [Bool.and_eq_true, Bool.not_eq_true', decide_eq_true_eq] at h
  exact ⟨h.1.1, h.1.2, _, Prod.ext rfl h.2⟩

/-- The number at a window location once the address has been resolved. -/
def readsAt (s : State) (sl : Slot) (a : Word) (n kind l : Nat) : Nat :=
  ((((s.atIssue sl).resolve ((s.atIssue sl).viewOf s.cur) a n n kind).1.accountOne ((s.atIssue sl).viewOf s.cur) (.win l) a).readT
    ((s.atIssue sl).viewOf s.cur) (.win l) n true).2

/-- s2 names offset 0, s3 holds 7, and the word there is `n`. -/
def gWait : Group := { g1 with sregs := [(2, wa 0), (3, 7)] }
def waitAt (n : Nat) : State := (at_ gWait).wrBytes (winLoc 1 0) (toBytes 4 n)

/-- Words that meet `ne`, `eq` and `ge`, at the edge, and words that do not. -/
theorem test_meets_WAITP_RESULTS :
    ∀ p ∈ [(0, 6, true), (0, 7, false), (1, 7, true), (1, 8, false), (2, 7, true), (2, 6, false)],
      let s := waitAt p.2.1
      let sl : Slot := { sub := BitVec.ofNat 4 p.1, d := 0x281, a := 0x212, b := 0x213, c := 0x270 }
      Issues s (fWaitp sl) sl gWait ∧ s.ssrc gWait sl sl.a + sl.imm.signExtend 64 = wa 0 ∧ Reach s sl (wa 0) 4 4 (winLoc 1 0)
        ∧ (let word := BitVec.ofNat 32 (readsAt s sl (wa 0) 4 4 (winLoc 1 0))
           let b : BitVec 32 := (s.ssrc gWait sl sl.b).setWidth 32
           (match p.1 with | 0 => decide (word ≠ b) | 1 => decide (word = b) | _ => decide ((word - b).toNat < 2 ^ 31)) = p.2.2) := by
  intro p h; fin_cases h <;>
    exact ⟨issues_of rfl rfl, by decide +kernel, reach_of (by decide +kernel), by decide +kernel⟩

/-- A barrier object at offset 0 of the window, and joined barriers. -/
def barAt (x : Group) (o : BarObj) : State := (at_ x).wrBytes (winLoc 1 0) (toBytes 16 o.toNat)
def obj : BarObj := { phase := 3, expect := 2, pend := 1, bytes := 0, joined := 0, init := true }

/-- The slot reaches `o`. -/
def Bar (x : Group) (o : BarObj) (f : Slot → Form) (sl : Slot) : Prop :=
  Issues (barAt x o) (f sl) sl x ∧ (barAt x o).ssrc x sl sl.a = wa 0 ∧ Reach (barAt x o) sl (wa 0) 16 5 (winLoc 1 0)
    ∧ BarObj.ofNat (readsAt (barAt x o) sl (wa 0) 16 5 (winLoc 1 0)) = o

theorem bar_of {x : Group} {o : BarObj} {f : Slot → Form} {sl : Slot} (h1 : (barAt x o).grp? (barAt x o).cur = some x)
    (h2 : (passes (barAt x o) (f sl) sl x && decide ((barAt x o).ssrc x sl sl.a = wa 0)
      && (!((barAt x o).atIssue sl).egressLow (((barAt x o).atIssue sl).viewOf (barAt x o).cur) (wa 0)
        && ((barAt x o).atIssue sl).peerQuiet ((barAt x o).atIssue sl).cur
        && decide ((((barAt x o).atIssue sl).resolve (((barAt x o).atIssue sl).viewOf (barAt x o).cur) (wa 0) 16 16 5).2
          = .ok (.win (winLoc 1 0))))
      && decide (BarObj.ofNat (readsAt (barAt x o) sl (wa 0) 16 5 (winLoc 1 0)) = o)) = true) : Bar x o f sl := by
  rw [Bool.and_eq_true, Bool.and_eq_true, Bool.and_eq_true, decide_eq_true_eq, decide_eq_true_eq] at h2
  exact ⟨issues_of h1 h2.1.1.1, h2.1.1.2, reach_of h2.1.2, h2.2⟩

/-- Such a slot finds the object. -/
theorem Bar.found {x : Group} {o : BarObj} {f : Slot → Form} {sl : Slot} (h : Bar x o f sl) (op : BarOp) :
    ∃ u, objectFound ((barAt x o).atIssue sl) (((barAt x o).atIssue sl).viewOf (barAt x o).cur) (wa 0) op (.win (winLoc 1 0)) u o := by
  obtain ⟨-, -, ⟨h1, hq, r, h2⟩, h3⟩ := h
  generalize barAt x o = s at *
  rw [readsAt, h2] at h3
  exact ⟨_, h1, hq, by intro c n; simp, r, h2, _, Prod.mk.eta.symm, h3.symm⟩

/-- Group 1 with the barrier joined in phase 3, not arrived or arrived; and with eight others joined. -/
def gJoin (arr : Bool) : Group := { gWait with joined := [{ addr := wa 0, phase := 3, arrived := arr }] }
def gFull : Group := { gWait with joined := List.replicate 8 { addr := wa 64, phase := 0, arrived := false } }

theorem test_meets_BARRIER_OBJECT_RESULTS :
    Bar gWait obj fBoinit { a := 0x212 } ∧ Bar gWait { obj with joined := 1 } fBoinit { a := 0x212, imm := 1 }
      ∧ Bar gWait obj fBoinit { a := 0x212, imm := 1 }
      ∧ Bar gWait { obj with init := false } fBoarr { d := 0x211, a := 0x212, b := 0x270 }
      ∧ Bar gWait { obj with pend := 0 } fBoarr { d := 0x211, a := 0x212, b := 0x270 }
      ∧ Bar (gJoin true) obj fBoarr { d := 0x211, a := 0x212, b := 0x270 }
      ∧ Bar (gJoin false) obj fBoarr { d := 0x211, a := 0x212, b := 0x270 }
      ∧ Bar gWait { obj with pend := 0 } fBoarr { sub := 1, d := 0x211, a := 0x212, b := 0x213 }
      ∧ Bar gWait { obj with init := false } fBojoin { a := 0x212 }
      ∧ (Bar gFull obj fBojoin { a := 0x212 } ∧ 8 ≤ gFull.joined.length)
      ∧ (Bar (gJoin false) obj fBojoin { a := 0x212 } ∧ (gJoin false).joined.find? (fun e => decide (e.addr = wa 0)) ≠ none)
      ∧ (Bar gWait obj fBojoin { a := 0x212 } ∧ gWait.joined.length < 8)
      ∧ (Bar gWait obj fBoleave { a := 0x212 } ∧ gWait.joined.find? (fun e => decide (e.addr = wa 0)) = none)
      ∧ Bar (gJoin false) obj fBoleave { sub := 1, a := 0x212 } ∧ Bar (gJoin true) obj fBoleave { a := 0x212 } :=
  ⟨bar_of rfl (by decide +kernel), bar_of rfl (by decide +kernel), bar_of rfl (by decide +kernel), bar_of rfl (by decide +kernel),
    bar_of rfl (by decide +kernel), bar_of rfl (by decide +kernel), bar_of rfl (by decide +kernel), bar_of rfl (by decide +kernel),
    bar_of rfl (by decide +kernel), ⟨bar_of rfl (by decide +kernel), by decide⟩, ⟨bar_of rfl (by decide +kernel), by decide⟩,
    ⟨bar_of rfl (by decide +kernel), by decide⟩, ⟨bar_of rfl (by decide +kernel), by decide⟩, bar_of rfl (by decide +kernel),
    bar_of rfl (by decide +kernel)⟩

/-- A launch, co-resident or not, with one group or two. -/
def launchX : Launch :=
  { fn := 0, ctx := 0, remaining := 1
    desc := { param := 0, preempt := 0, gx := 1, gy := 1, gz := 1, scratch := 0, tiles := 0, cores := true, prio := 0
              tbclass := 0, world := 0, thresh := 0, energy := 0, prod := 0, early := false, roles := [] } }
def coop (s : State) : State := { s with launches := [(1, launchX)] }

theorem test_meets_LAUNCH_BARRIER_RESULTS :
    let sl : Slot := {}
    (Ok g1 fLbar sl ∧ ((at_ g1).wgD g1.wg).launch = 1 ∧ (tget (at_ g1).launches 1).map (fun y => y.desc.cores) = some false)
      ∧ (let s := coop (two g1 g1 [])
         Issues s (fLbar sl) sl g1 ∧ (s.wgD g1.wg).launch = 1 ∧ tget s.launches 1 = some launchX ∧ launchX.desc.cores = true
           ∧ (s.atIssue sl).peerQuiet s.cur = true ∧ launchX.lbar.length + 1 < s.launchGroups 1)
      ∧ (let s := coop (at_ g1)
         Issues s (fLbar sl) sl g1 ∧ (s.wgD g1.wg).launch = 1 ∧ tget s.launches 1 = some launchX ∧ s.launchGroups 1 = 1
           ∧ launchX.lbar = []) :=
  ⟨⟨ok rfl, rfl, rfl⟩, ⟨issues_of rfl rfl, rfl, rfl, rfl, by decide +kernel, by decide +kernel⟩,
    issues_of rfl rfl, rfl, rfl, by decide +kernel, rfl⟩

/-- s2 holds a ring's address in the data page. -/
def gRing : Group := { g1 with sregs := [(2, 0x20400)] }
def ringS (esize p c : Nat) : State := dataPage ((at_ gRing).wrBytes 0x20400 (ringBytes esize 0x20800 p c))

/-- The ring may be accessed, is free, and is as `P` says; with an element's number, that element too, and the words of the
attempt may be read or written. -/
def Ring (s : State) (sl : Slot) (P : Rcb → Bool) (el : Option ((Rcb → Nat) × Bool)) : Prop :=
  let i := s.atIssue sl
  let v := i.viewOf s.cur
  i.egressLow v 0x20400 = false ∧ i.peerQuiet s.cur = true
    ∧ ∃ u t rc, i.ringAt v 0x20400 6 = (u, .ok (t, rc)) ∧ (∀ c n, t ≠ .err c n) ∧ (∀ p pa, t ≠ .peer p pa) ∧ i.lockFree t.key = true
      ∧ P rc = true ∧ ∀ f, el = some f → ∃ u' ps, (u.lockTake t.key).ringElem v rc (f.1 rc) f.2 = (u', .ok ps) ∧ firstErr ps = none
        ∧ if f.2 then ∃ z, ((u'.account v true true ({ lane := 0, addr := 0x20400, tgt := t } :: ps)).release v.die 3).ringWords v
            (ps.zip ((List.range 2).map fun j => (i.sreg gRing sl.b j).toNat)) = (z, none)
          else ∃ z l, (u'.account v true false ({ lane := 0, addr := 0x20400, tgt := t } :: ps)).readPs v 8 6 ps = (z, .ok l)

theorem ringS_of {s : State} {sl : Slot} {P : Rcb → Bool} {el : Option ((Rcb → Nat) × Bool)}
    (h : (let i := s.atIssue sl
      let v := i.viewOf s.cur
      !i.egressLow v 0x20400 && i.peerQuiet s.cur && match i.ringAt v 0x20400 6 with
        | (u, .ok (.mem m w, rc)) => i.lockFree m && P rc && (match el with
          | none => true
          | some f => match (u.lockTake m).ringElem v rc (f.1 rc) f.2 with
            | (u', .ok ps) => (firstErr ps).isNone
              && (if f.2 then (((u'.account v true true ({ lane := 0, addr := 0x20400, tgt := .mem m w } :: ps)).release v.die 3).ringWords v
                  (ps.zip ((List.range 2).map fun j => (i.sreg gRing sl.b j).toNat))).2.isNone
                else match (u'.account v true false ({ lane := 0, addr := 0x20400, tgt := .mem m w } :: ps)).readPs v 8 6 ps with
                  | (_, .ok _) => true
                  | _ => false)
            | _ => false)
        | _ => false) = true) : Ring s sl P el := by
  simp only [Bool.and_eq_true, Bool.not_eq_true'] at h
  obtain ⟨⟨h1, h0⟩, h2⟩ := h
  refine ⟨h1, h0, ?_⟩
  cases hr : (s.atIssue sl).ringAt ((s.atIssue sl).viewOf s.cur) 0x20400 6 with
  | mk u r =>
    rw [hr] at h2
    match r, h2 with
    | .ok (.mem l c, rc), h2 =>
      simp only [Bool.and_eq_true] at h2
      refine ⟨u, _, rc, rfl, by intro c n; simp, by intro c n; simp, h2.1.1, h2.1.2, ?_⟩
      intro f hf
      have h3 := h2.2
      rw [hf] at h3
      simp only [Target.key] at h3 ⊢
      cases he : (u.lockTake l).ringElem ((s.atIssue sl).viewOf s.cur) rc (f.1 rc) f.2 with
      | mk u' e =>
        rw [he] at h3
        cases e with
        | error e => simp at h3
        | ok ps =>
          simp only [Bool.and_eq_true, Option.isNone_iff_eq_none] at h3
          refine ⟨u', ps, rfl, h3.1, ?_⟩
          have h4 := h3.2
          split at h4
          · rw [if_pos ‹_›]; exact ⟨_, Prod.ext rfl (Option.isNone_iff_eq_none.mp h4)⟩
          · rw [if_neg ‹_›]
            split at h4
            · exact ⟨_, _, ‹_›⟩
            · cases h4

theorem test_meets_RING_RESULTS :
    let sl : Slot := { d := 0x281, a := 0x212, b := 0x218, imm := 2 }
    let good (rc : Rcb) : Bool := rc.valid && decide (rc.esize = ringN sl)
    (∀ s ∈ [ringS 2 4 0, ringS 2 3 0, ringS 2 0 0, ringS 3 0 0],
        Issues s (fRing false sl) sl gRing ∧ Issues s (fRing true sl) sl gRing ∧ s.ssrc gRing sl sl.a = 0x20400)
      ∧ Ring (ringS 3 0 0) sl (fun rc => !rc.valid || !decide (rc.esize = ringN sl)) none
      ∧ Ring (ringS 2 4 0) sl (fun rc => good rc && decide ((rc.pidx + 2 ^ 32 - rc.cidx) % 2 ^ 32 = rc.cap)) none
      ∧ Ring (ringS 2 3 0) sl (fun rc => good rc && decide ((rc.pidx + 2 ^ 32 - rc.cidx) % 2 ^ 32 ≠ rc.cap)) (some (Rcb.pidx, true))
      ∧ Ring (ringS 2 0 0) sl (fun rc => good rc && decide (rc.pidx = rc.cidx)) none
      ∧ Ring (ringS 2 3 0) sl (fun rc => good rc && decide (rc.pidx ≠ rc.cidx)) (some (Rcb.cidx, false)) := by
  refine ⟨?_, ringS_of (by decide +kernel), ringS_of (by decide +kernel), ringS_of (by decide +kernel),
    ringS_of (by decide +kernel), ringS_of (by decide +kernel)⟩
  intro s h; fin_cases h <;> exact ⟨issues_of rfl rfl, issues_of rfl rfl, by decide +kernel⟩

/-! ### Asynchronous operations and the matrix engine -/

/-- s2 and s3 name offsets 0 and 1024 of the window; s4 to s6 are an operand block of one row of 64 bytes, with strides and
an index list at offset 2048. -/
def gCopy (c0 : Word) : Group := { g1 with sregs := [(2, wa 0), (3, wa 1024), (4, c0), (5, wa 2048), (6, 64)] }

/-- The slot starts a copy of class `opc` from that block, or, with 60 bytes, is refused. -/
theorem test_meets_ASYNC_COPIES_START :
    let sl : Slot := { a := 0x212, b := 0x213, c := 0x214, scp := 1 }
    (∀ p ∈ [((1 : Nat), (0xD0 : BitVec 8), (64 : Word)), (2, 0xD1, 64), (3, 0xD2, 0x100000040), (3, 0xD3, 0x100000040)],
        let x := gCopy p.2.2
        let i := (at_ x).atIssue sl
        let o := asyncOp p.2.1 sl i (x.cover sl)
        Ok x (fCopy p.1) sl ∧ o.blockBad (((at_ x).sreg x sl.c 0).extractLsb' 32 32).toNat = false
          ∧ (let q := if o.cls = 2 then i.listNow (i.opView o) o o.rows else (i, [])
             ({ i with wants := q.1.wants }).copyCheck (i.viewOf (at_ x).cur) o q.2 = none))
      ∧ (∀ p ∈ [((1 : Nat), (0xD0 : BitVec 8)), (2, 0xD1), (3, 0xD2), (3, 0xD3)],
        let x := gCopy 60
        let i := (at_ x).atIssue sl
        Ok x (fCopy p.1) sl
          ∧ (asyncOp p.2 sl i (x.cover sl)).blockBad (((at_ x).sreg x sl.c 0).extractLsb' 32 32).toNat = true)
      ∧ ∀ n ∈ List.range 4, Ok g1 fAfence { sub := BitVec.ofNat 4 n, d := 0x211 } := by
  refine ⟨?_, ?_, ?_⟩ <;> intro p h <;> fin_cases h <;>
    first
      | exact ok rfl
      | exact ⟨ok rfl, by decide +kernel, by decide +kernel⟩
      | exact ⟨ok rfl, by decide +kernel⟩

/-- The words at the addresses may be read, and are as `P` says. -/
def wordsB (i : State) (v : View) (n : Nat) (as : List (Nat × Word)) (P : State → List Nat → Bool) : Bool :=
  match i.resolveAll v n n 0 false as with
  | (r, .ok ps) =>
    let a := (r.account v false false ps).askAll v n 0 ps
    (firstErr a.2).isNone && P (a.1.readRow v n ps).1 (a.1.readRow v n ps).2
  | (_, .error _) => false

theorem words_of {i : State} {v : View} {n : Nat} {as : List (Nat × Word)} {P : State → List Nat → Bool}
    (h : wordsB i v n as P = true) : ∃ u ws, WordsAt i v n as ws u ∧ P u ws = true := by
  cases hr : i.resolveAll v n n 0 false as with
  | mk r p =>
    rw [wordsB, hr] at h
    cases p with
    | error e => simp at h
    | ok ps =>
      simp only [Bool.and_eq_true, Option.isNone_iff_eq_none] at h
      exact ⟨_, _, ⟨r, ps, hr, h.1, rfl⟩, h.2⟩

/-- Eight words of a descriptor at offset 0 of the window, and the peer 0 at offset 0x100. -/
def descAt (ws : List Nat) : State :=
  ((at_ gWait).wrBytes (winLoc 1 0) (ws.flatMap fun w => toBytes 8 w)).wrBytes (winLoc 1 0x100) [0, 0]

/-- The words of that descriptor, and the port numbers it names. -/
def dw (ws : List Nat) (n : Nat) : Word := BitVec.ofNat 64 (ws.getD n 0)
def ports (ws : List Nat) : List (Nat × Word) :=
  (List.range (bits (dw ws 3) 31 16)).map fun n => (0, dw ws 4 + BitVec.ofNat 64 (2 * n))

/-- A collective of `n` ports rooted at `r`, of i8. -/
def collD (kind n r : Nat) : List Nat :=
  [2 ^ 60 + 0x1000, 2 ^ 60 + 0x2000, 128, kind + 2 ^ 16 * n + 2 ^ 32 * r, 2 ^ 60 + 0x100, 0, 0, 0]

theorem test_meets_COLLECTIVES_CARDS_AND_HINTS :
    let sl : Slot := { a := 0x212, scp := 1 }
    let sp : Slot := { a := 0x212 }
    let as := (List.range 8).map fun n => (0, wa (8 * n))
    let i (ws : List Nat) (sl : Slot) := (descAt ws).atIssue sl
    let v (ws : List Nat) (sl : Slot) := (i ws sl).viewOf (descAt ws).cur
    (∀ ws ∈ [collD 4 1 0, collD 2 1 1, collD 2 1 0],
        Issues (descAt ws) (fColl sl) sl gWait ∧ (descAt ws).ssrc gWait sl sl.a = wa 0
          ∧ (i ws sl).preCheck (v ws sl) [0, 1, 4] (wa 0) 64 64 0 0 = none)
      ∧ (∃ u ws, WordsAt (i (collD 4 1 0) sl) (v (collD 4 1 0) sl) 8 as ws u ∧ collBad (dw ws) = true)
      ∧ (∃ u ws, WordsAt (i (collD 2 1 1) sl) (v (collD 2 1 1) sl) 8 as ws u ∧ collBad (dw ws) = false
        ∧ ∃ u' ps, WordsAt u (v (collD 2 1 1) sl) 2 (ports ws) ps u' ∧ peersBad u'.selfid.toNat 2 1 ps = true)
      ∧ (∃ u ws, WordsAt (i (collD 2 1 0) sl) (v (collD 2 1 0) sl) 8 as ws u ∧ collBad (dw ws) = false
        ∧ ∃ u' ps, WordsAt u (v (collD 2 1 0) sl) 2 (ports ws) ps u' ∧ peersBad u'.selfid.toNat 2 0 ps = false)
      ∧ (∀ c ∈ [0, 1 + 2 ^ 8 + 2 ^ 16], let ws := [0x10000, 0, 0, 0, c, 0, 0, 0]
        Issues (descAt ws) (fPost sp) sp gWait ∧ (descAt ws).ssrc gWait sp sp.a = wa 0
          ∧ (i ws sp).preCheck (v ws sp) [0, 1] (wa 0) 64 64 0 0 = none)
      ∧ (let ds := [0x10000, 0, 0, 0, 0, 0, 0, 0]
         ∃ u ws, WordsAt (i ds sp) (v ds sp) 8 as ws u ∧ cardBad (dw ws) = true)
      ∧ (let ds := [0x10000, 0, 0, 0, 1 + 2 ^ 8 + 2 ^ 16, 0, 0, 0]
         ∃ u ws, WordsAt (i ds sp) (v ds sp) 8 as ws u
           ∧ (!cardBad (dw ws) && (cardOf (dw ws) (u.wgD 1).launch u.tick).need.fits && decide (postCore sp u gWait = some 0)
             && u.peerQuiet 1 && decide ((u.coreD 0).taskq.length < 64) && decide ((u.coreD 0).spilled = [])) = true)
      ∧ Ok gWait (fTierh 0) { a := 0x212, b := 0x213 } ∧ Ok gWait (fTierh 1) { sub := 1, a := 0x212, b := 0x213 } := by
  refine ⟨?_, ?_, ?_, ?_, ?_, ?_, ?_, ok rfl, ok rfl⟩
  · intro ws h; fin_cases h <;> exact ⟨issues_of rfl rfl, by decide +kernel, by decide +kernel⟩
  · exact words_of (P := fun _ ws => collBad (dw ws)) (by decide +kernel)
  · obtain ⟨u, ws, h, k⟩ := words_of (i := (descAt (collD 2 1 1)).atIssue { a := 0x212, scp := 1 })
      (v := ((descAt (collD 2 1 1)).atIssue { a := 0x212, scp := 1 }).viewOf (descAt (collD 2 1 1)).cur) (n := 8)
      (as := (List.range 8).map fun n => (0, wa (8 * n)))
      (P := fun u ws => !collBad (dw ws) && wordsB u (((descAt (collD 2 1 1)).atIssue { a := 0x212, scp := 1 }).viewOf
        (descAt (collD 2 1 1)).cur) 2 (ports ws) fun u' ps => peersBad u'.selfid.toNat 2 1 ps) (by decide +kernel)
    simp only [Bool.and_eq_true, Bool.not_eq_true'] at k
    exact ⟨u, ws, h, k.1, words_of (P := fun u' ps => peersBad u'.selfid.toNat 2 1 ps) k.2⟩
  · obtain ⟨u, ws, h, k⟩ := words_of (i := (descAt (collD 2 1 0)).atIssue { a := 0x212, scp := 1 })
      (v := ((descAt (collD 2 1 0)).atIssue { a := 0x212, scp := 1 }).viewOf (descAt (collD 2 1 0)).cur) (n := 8)
      (as := (List.range 8).map fun n => (0, wa (8 * n)))
      (P := fun u ws => !collBad (dw ws) && wordsB u (((descAt (collD 2 1 0)).atIssue { a := 0x212, scp := 1 }).viewOf
        (descAt (collD 2 1 0)).cur) 2 (ports ws) fun u' ps => !peersBad u'.selfid.toNat 2 0 ps) (by decide +kernel)
    simp only [Bool.and_eq_true, Bool.not_eq_true'] at k
    obtain ⟨u', ps, h2, k2⟩ := words_of (P := fun u' ps => !peersBad u'.selfid.toNat 2 0 ps) k.2
    exact ⟨u, ws, h, k.1, u', ps, h2, by simpa using k2⟩
  · intro c h; fin_cases h <;> exact ⟨issues_of rfl rfl, by decide +kernel, by decide +kernel⟩
  · exact words_of (P := fun _ ws => cardBad (dw ws)) (by decide +kernel)
  · exact words_of (P := fun u ws => !cardBad (dw ws) && (cardOf (dw ws) (u.wgD 1).launch u.tick).need.fits
      && decide (postCore { a := 0x212 } u gWait = some 0) && u.peerQuiet 1 && decide ((u.coreD 0).taskq.length < 64)
      && decide ((u.coreD 0).spilled = [])) (by decide +kernel)

/-- A card for one group, and a queue with no room. -/
def cardD : List Nat := [0x10000, 0, 0, 0, 1 + 2 ^ 8 + 2 ^ 16, 0, 0, 0]
def cardQ : Card :=
  { entry := 0, param := 0, user := 0, signal := 0, gran := 1, scnt := 8, groups := 1, scratch := 0, tiles := 0, prio := 0, energy := 0
    launch := 1, seq := 0 }
def fullTasks (quota : Nat) : State :=
  (((dataPage ((descAt cardD).wrBytes 0x20400 (ringBytes 8 0x20500 0 0))).updCore 0 fun k =>
    { k with taskq := List.replicate 64 cardQ }).updCtx 0 0 fun c => { c with spill := 0x20400 }).updFn 0 fun f => { f with spillQ := quota }

/-- With the poster's release and one more workgroup to wait for, the ring takes the card. -/
def spillOk (u : State) : Bool :=
  let z := ((u.release 0 3).updLaunch 1 fun l => { l with remaining := l.remaining + 1 }).bump
  decide (u.spilledOf 0 < (u.fnD 0).spillQ) && (match z.spillPut (z.hubView 0 0) (z.spillRing 0 0 0) cardD with | some (some _) => true | _ => false)

/-- The card goes to core 0, with the quota reached or a ring with room. -/
def postRoom (quota : Nat) (P : State → Bool) : Prop :=
  let s := fullTasks quota
  let sp : Slot := { a := 0x212 }
  Issues s (fPost sp) sp gWait ∧ s.ssrc gWait sp sp.a = wa 0
    ∧ (s.atIssue sp).preCheck ((s.atIssue sp).viewOf s.cur) [0, 1] (wa 0) 64 64 0 0 = none
    ∧ ∃ u ws, WordsAt (s.atIssue sp) ((s.atIssue sp).viewOf s.cur) 8 ((List.range 8).map fun n => (0, wa (8 * n))) ws u
      ∧ (!cardBad (dw ws) && (cardOf (dw ws) (u.wgD 1).launch u.tick).need.fits && decide (postCore sp u gWait = some 0)
        && u.peerQuiet 1 && decide (64 ≤ (u.coreD 0).taskq.length) && P u) = true

/-- A card of 256 groups of 64 granules, a core outside the partition, the quota reached, and a card that is spilled. -/
theorem test_meets_COLLECTIVES_CARDS_AND_HINTS_post :
    (let ds := [0x10000, 0, 0, 0, 64 + 2 ^ 8 + 2 ^ 24, 0, 0, 0]
     let sp : Slot := { a := 0x212 }
     ∃ u ws, WordsAt ((descAt ds).atIssue sp) (((descAt ds).atIssue sp).viewOf (descAt ds).cur) 8
         ((List.range 8).map fun n => (0, wa (8 * n))) ws u
       ∧ (!(cardOf (dw ws) (u.wgD 1).launch u.tick).need.fits) = true)
      ∧ (let x := { gWait with sregs := [(2, wa 0), (3, 500)] }
         let s := (descAt cardD).setGrp 1 x
         let sp : Slot := { sub := 2, a := 0x212, b := 0x213 }
         Issues s (fPost sp) sp x
           ∧ ∃ u ws, WordsAt (s.atIssue sp) ((s.atIssue sp).viewOf s.cur) 8 ((List.range 8).map fun n => (0, wa (8 * n))) ws u
             ∧ (!cardBad (dw ws) && (cardOf (dw ws) (u.wgD 1).launch u.tick).need.fits && (postCore sp u x).isNone) = true)
      ∧ postRoom 0 (fun u => decide ((u.fnD 0).spillQ ≤ u.spilledOf 0))
      ∧ postRoom 4 spillOk := by
  refine ⟨?_, ⟨issues_of rfl rfl, ?_⟩, ⟨issues_of rfl rfl, by decide +kernel, by decide +kernel, ?_⟩,
    issues_of rfl rfl, by decide +kernel, by decide +kernel, ?_⟩
  · exact words_of (P := fun u ws => !(cardOf (dw ws) (u.wgD 1).launch u.tick).need.fits) (by decide +kernel)
  · exact words_of (P := fun u ws => !cardBad (dw ws) && (cardOf (dw ws) (u.wgD 1).launch u.tick).need.fits
      && (postCore { sub := 2, a := 0x212, b := 0x213 } u { gWait with sregs := [(2, wa 0), (3, 500)] }).isNone) (by decide +kernel)
  · exact words_of (P := fun u ws => !cardBad (dw ws) && (cardOf (dw ws) (u.wgD 1).launch u.tick).need.fits
      && decide (postCore { a := 0x212 } u gWait = some 0) && u.peerQuiet 1 && decide (64 ≤ (u.coreD 0).taskq.length)
      && decide ((u.fnD 0).spillQ ≤ u.spilledOf 0)) (by decide +kernel)
  · exact words_of (P := fun u ws => !cardBad (dw ws) && (cardOf (dw ws) (u.wgD 1).launch u.tick).need.fits
      && decide (postCore { a := 0x212 } u gWait = some 0) && u.peerQuiet 1 && decide (64 ≤ (u.coreD 0).taskq.length)
      && spillOk u) (by decide +kernel)

/-- s2 and s3 name operands in the window. -/
def gMat : Group := { g1 with sregs := [(2, wa 0), (3, wa 4096)] }
/-- The core's engine queue with 16 operations. -/
def fullQ : State := (at_ gMat).updCore 0 fun k => { k with engq := List.replicate 16 (matOp 0xE3 {} (at_ gMat) gMat) }

theorem test_meets_MATRIX_INSTRUCTIONS_ENTER_THE_QUEUE :
    let m (sub : BitVec 4) (ty : BitVec 6) (c : BitVec 10) : Slot := { sub := sub, ty := ty, a := 0x212, b := 0x213, c := c }
    let i (sl : Slot) := (at_ gMat).atIssue sl
    let v (sl : Slot) := (i sl).viewOf (at_ gMat).cur
    ((at_ gMat).coreD gMat.core).engq.length < 16
      ∧ (Ok gMat (fMma [8, 14, 0, 1, 9, 12, 10] 1) (m 0 8 0x270)
        ∧ (i (m 0 8 0x270)).mulCheck (v (m 0 8 0x270)) (matOp 0xE0 (m 0 8 0x270) (i (m 0 8 0x270)) (gMat.cover (m 0 8 0x270))) = none)
      ∧ (Ok gMat (fMma [8, 0, 1, 9, 12] 3) (m 0 8 0x270)
        ∧ (i (m 0 8 0x270)).mulCheck (v (m 0 8 0x270)) (matOp 0xE1 (m 0 8 0x270) (i (m 0 8 0x270)) (gMat.cover (m 0 8 0x270))) = none)
      ∧ (Ok gMat (fMma [0, 1] 0) (m 0 0 0x270)
        ∧ (i (m 0 0 0x270)).mulCheck (v (m 0 0 0x270)) (matOp 0xE2 (m 0 0 0x270) (i (m 0 0 0x270)) (gMat.cover (m 0 0 0x270))) = none)
      ∧ Ok gMat fAccz {} ∧ Ok gMat fAccld { a := 0x212, c := 0x214, scp := 1 }
      ∧ (Ok gMat fAccst { a := 0x212, c := 0x214, scp := 1 } ∧ tyIsFmt { a := 0x212, c := 0x214, scp := 1 } = false)
      ∧ (Ok gMat fAccrd { d := 8 } ∧ tyIsFmt { d := 8 } = false) ∧ Ok gMat fAccwr { a := 16 }
      ∧ Ok gMat fAccalloc { d := 0x211, imm := 16 } ∧ Ok gMat fAccstat { sub := 4, d := 0x211 } ∧ Ok gMat fAccfree { imm := 256 }
      ∧ (Ok gMat (fSppack 0) (m 0 8 0x214)
        ∧ (i (m 0 8 0x214)).packCheck (v (m 0 8 0x214)) (matOp 0xEA (m 0 8 0x214) (i (m 0 8 0x214)) (gMat.cover (m 0 8 0x214))) = none)
      ∧ (Ok gMat (fSppack 1) (m 1 8 0x214)
        ∧ (i (m 1 8 0x214)).packCheck (v (m 1 8 0x214)) (matOp 0xEA (m 1 8 0x214) (i (m 1 8 0x214)) (gMat.cover (m 1 8 0x214))) = none)
      ∧ ¬ (fullQ.coreD gMat.core).engq.length < 16 ∧ Issues fullQ (fMma [8, 14, 0, 1, 9, 12, 10] 1 (m 0 8 0x270)) (m 0 8 0x270) gMat :=
  ⟨by decide +kernel, ⟨ok rfl, by decide +kernel⟩, ⟨ok rfl, by decide +kernel⟩, ⟨ok rfl, by decide +kernel⟩, ok rfl, ok rfl,
    ⟨ok rfl, rfl⟩, ⟨ok rfl, rfl⟩, ok rfl, ok rfl, ok rfl, ok rfl, ⟨ok rfl, by decide +kernel⟩, ⟨ok rfl, by decide +kernel⟩,
    by decide +kernel, issues_of rfl rfl⟩

/-! ### System instructions -/

/-- Group 1 in trap mode, in a block of its own, the interrupted block at 0x10000. -/
def gTrap : Group :=
  { g1 with pc := 0x20010, block := { hdr := 0x20000, len := 5 }, trapMode := true, trapPc := 0x10010, savedBlock := { hdr := 0x10000, len := 5 }
            sregs := [(2, 0x10000)] }

/-- The context of the group at privilege level `n`. -/
def level (n : Nat) (s : State) : State := s.updCtx 0 0 fun c => { c with level := n }

theorem test_meets_SYSTEM_REGISTER_RESULTS :
    (∀ n ∈ sysRegs, Ok g1 fSrget { d := 0x211, imm := BitVec.ofNat 32 n })
      ∧ (let sl : Slot := { d := 0x211, imm := 0x15 }
         Issues (level 0 (at_ g1)) (fSrget sl) sl g1 ∧ ((level 0 (at_ g1)).ctxD 0 0).level = 0 ∧ ((at_ g1).ctxD 0 0).level = 2)
      ∧ (∀ n ∈ [4, 5, 0x16], Ok g1 fSrset { a := 0x212, imm := BitVec.ofNat 32 n })
      ∧ (let sl : Slot := { a := 0x212, imm := 4 }
         Issues (level 1 (at_ g1)) (fSrset sl) sl g1 ∧ ((level 1 (at_ g1)).ctxD 0 0).level ≠ 2) := by
  refine ⟨?_, ⟨issues_of rfl rfl, rfl, rfl⟩, ?_, issues_of rfl rfl, by decide⟩ <;> intro n h <;> fin_cases h <;> exact ok rfl

/-- HGET and HSET outside trap mode, and in it on every kind of register, at the last of the allotment and past it. -/
theorem test_meets_SYSTEM_REGISTER_RESULTS_interrupted :
    g1.trapMode = false ∧ gTrap.trapMode = true
      ∧ (∀ x ∈ [g1, gTrap], ∀ p ∈ [(0, 511), (0, 0)], Ok x fHget { sub := BitVec.ofNat 4 p.1, d := 8, imm := BitVec.ofNat 32 p.2 }
        ∧ Ok x fHset { sub := BitVec.ofNat 4 p.1, a := 16, imm := BitVec.ofNat 32 p.2 })
      ∧ (∀ x ∈ [g1, gTrap], ∀ p ∈ [(1, 95), (2, 0), (2, 2)],
        Ok x fHget { sub := BitVec.ofNat 4 p.1, d := 0x211, imm := BitVec.ofNat 32 p.2 }
          ∧ Ok x fHset { sub := BitVec.ofNat 4 p.1, a := 0x212, imm := BitVec.ofNat 32 p.2 })
      ∧ ∀ n ∈ [1, 3, 4], Ok gTrap fHget { sub := 2, d := 0x211, imm := BitVec.ofNat 32 n } := by
  refine ⟨rfl, rfl, ?_, ?_, ?_⟩
  · intro x hx p h; fin_cases hx <;> fin_cases h <;> exact ⟨ok rfl, ok rfl⟩
  · intro x hx p h; fin_cases hx <;> fin_cases h <;> exact ⟨ok rfl, ok rfl⟩
  · intro n h; fin_cases h <;> exact ok rfl

/-- s2 holds the header at 0x10000, or an address that is no multiple of 16. -/
theorem test_meets_TRAP_AND_RETURN_RESULTS :
    let r0 : Slot := {}
    let r1 : Slot := { sub := 1 }
    let r2 : Slot := { sub := 2, a := 0x212 }
    Ok g1 fTrap { imm := 255 } ∧ Ok g1 (fRtt 0) r0 ∧ Ok g1 (fRtt 1) r1 ∧ Ok g1 (fRtt 2) r2 ∧ g1.trapMode = false
      ∧ Ok gTrap (fRtt 0) r0 ∧ Ok gTrap (fRtt 1) r1 ∧ gTrap.trapMode = true ∧ gTrap.preempt = false
      ∧ { gTrap with pc := gTrap.trapPc, block := gTrap.savedBlock }.inBlock = true
      ∧ { gTrap with pc := gTrap.trapPc + 16, block := gTrap.savedBlock }.inBlock = true
      ∧ (let x := { gTrap with sregs := [(2, 0x10008)] }; Ok x (fRtt 2) r2 ∧ ((at_ x).ssrc x r2 r2.a).toNat % 16 ≠ 0)
      ∧ (let s := hAt gTrap
         let a := s.ssrc gTrap r2 r2.a
         let left := ((((s.atIssue r2).target s.cur a).1.leaveTrap s.cur a).updGrp s.cur fun y => { y with block := {} })
         Issues s (fRtt 2 r2) r2 gTrap ∧ ((s.atIssue r2).target s.cur a).2 = .ok hdr ∧ (left.target s.cur a).2 = .ok hdr
           ∧ badHeader hdr = false) :=
  ⟨ok rfl, ok rfl, ok rfl, ok rfl, rfl, ok rfl, ok rfl, rfl, rfl, by decide, by decide, ⟨ok rfl, by decide⟩,
    hok rfl, by decide +kernel, by decide +kernel, by decide⟩

/-- A group in its pre-emption handler. -/
def gPre : Group := { gTrap with inPreempt := true }
/-- Function 0 with a life budget, an energy budget of 1 µJ, or neither; core 0 of unit 0 in wear state `st`. -/
def boostS (st left : Nat) (life : Int) (eb : Nat) (x : Group) : State :=
  (((at_ x).updCore 0 fun k => { k with unit := some 0, boostLeft := left }).updWear 0 fun w => { w with state := st }).updFn 0 fun f =>
    { f with lifeMin := life, ebudget := eb }
/-- s2 is the level 1, s3 a duration. -/
def gBoost (d : Word) : Group := { g1 with sregs := [(2, 1), (3, d)] }

theorem test_meets_PDONE_BOOST_AND_CANCEL_RESULTS :
    let sb : Slot := { d := 0x211, a := 0x212, b := 0x213 }
    let sc : Slot := { d := 0x281, a := 0x212 }
    let reason (s : State) (x : Group) : Nat :=
      let a := s.ssrc x sb sb.a
      let dur := s.ssrc x sb sb.b
      let k := s.coreD x.core
      let f := s.fnD (s.wgD x.wg).fn
      let cost := dur.toNat * (if a = 1 then 2 else 6) * (match k.unit with | some u => bandTB (s.wearD u).band | none => 2)
      if (a ≠ 1 ∧ a ≠ 2) ∨ dur = 0 ∨ 1000 < dur.toNat then 5
      else if s.coreState x.core ≠ 0 ∨ s.coreDrain x.core = true then 4
      else if k.boostLeft ≠ 0 then 3
      else if f.ebudget ≠ 0 ∧ f.ebudget < f.ewin + dur.toNat * (if a = 1 then 550 else 1350) then 2
      else if f.lifeMin < (cost : Int) then 1 else 0
    (Ok g1 fBare0 {} ∧ ¬ (g1.trapMode = true ∧ g1.inPreempt = true))
      ∧ (Ok gPre fBare0 {} ∧ gPre.trapMode = true ∧ gPre.inPreempt = true ∧ (at_ gPre).matBusy gPre.wg = false
        ∧ (tget (at_ gPre).launches 1).map (fun l => l.desc.cores) = some false)
      ∧ (∀ p ∈ [((1000 : Word), 0, 0, (4000 : Int), 0, 0), (1000, 0, 0, 3999, 0, 1), (1000, 0, 0, 4000, 1, 2), (1000, 0, 1, 4000, 0, 3),
          (1000, 1, 0, 4000, 0, 4), (1001, 0, 0, 4000, 0, 5)],
        let x := gBoost p.1
        let s := boostS p.2.1 p.2.2.1 p.2.2.2.1 p.2.2.2.2.1 x
        Issues s (fBoost sb) sb x ∧ reason s x = p.2.2.2.2.2)
      ∧ (Ok g1 fCancel sc ∧ ((at_ g1).atIssue sc).cancelUnit 0 0 0 0 = none)
      ∧ (let x := { g1 with sregs := [(2, 3)] }
         let s := { at_ x with launches := [(3, { launchX with handle := 3 })] }
         Issues s (fCancel sc) sc x ∧ (match (s.atIssue sc).cancelUnit 0 0 0 3 with | some t => (t.grp? 1).isSome | none => false) = true) := by
  refine ⟨⟨ok rfl, by decide⟩, ⟨ok rfl, rfl, rfl, by decide +kernel, by decide +kernel⟩, ?_, ⟨ok rfl, by decide +kernel⟩, issues_of rfl rfl, by decide +kernel⟩
  intro p h; fin_cases h <;> exact ⟨issues_of rfl rfl, by decide +kernel⟩

/-- Group 2 is held by tag 5, which s2 names. -/
def heldS (x : Group) : State :=
  { (at_ x).setGrp 2 { g1 with wait := .held 5 } with
    holds := [(5, { fn := 0, ctx := 0, grp := some 2, op := none, me := none, trap := { cause := 8, pc := 0x10010, addr := 0, info := 0 } })] }

/-- A world with an empty measurement register; 256 bytes of the data page. -/
def measS (x : Group) : State := { dataPage (at_ x) with worlds := [(0, { fn := 0, key := 0, meas := [] })] }

theorem test_meets_REPLAY_AND_MEASURE_RESULTS :
    let sr (n : BitVec 4) : Slot := { sub := n, d := 0x281, a := 0x212 }
    let sm : Slot := { d := 0x281, a := 0x212, b := 0x213 }
    let x := { g1 with sregs := [(2, 5)] }
    (∀ n ∈ [0, 1], Issues (level 0 (at_ g1)) (fReplay n (sr (BitVec.ofNat 4 n))) (sr (BitVec.ofNat 4 n)) g1
        ∧ Ok g1 (fReplay n) (sr (BitVec.ofNat 4 n)) ∧ Issues (heldS x) (fReplay n (sr (BitVec.ofNat 4 n))) (sr (BitVec.ofNat 4 n)) x)
      ∧ ((level 0 (at_ g1)).ctxD 0 0).level = 0 ∧ ((at_ g1).ctxD 0 0).level ≠ 0 ∧ tget (at_ g1).holds 0 = none
      ∧ (((heldS x).ctxD 0 0).level ≠ 0 ∧ (tget (heldS x).holds ((heldS x).ssrc x (sr 0) 0x212).toNat).map (fun h => (h.fn, h.grp)) = some (0, some 2)
        ∧ (2 : Nat) ≠ (heldS x).cur ∧ ((heldS x).grp? 2).map Group.wait = some (.held 5))
      ∧ Issues (level 0 (at_ g1)) (fMeas sm) sm g1
      ∧ (let x := { g1 with sregs := [(2, wa 0)] }; Ok x fMeas sm ∧ ((at_ x).ssrc x sm sm.a).extractLsb' 60 4 ≠ 0)
      ∧ (let x := { g1 with sregs := [(2, 0x20000), (3, 256)] }
         let i := (measS x).atIssue sm
         Issues (measS x) (fMeas sm) sm x ∧ ((measS x).ssrc x sm sm.a).extractLsb' 60 4 = 0
           ∧ (match (i.measCheck (i.viewOf (measS x).cur) (0x20000 + 256) 4 0x20000).2 with
             | .ok ps => (firstErr (ps.map Prod.fst)).isNone && decide (ps.length = 2)
             | .error _ => false) = true
           ∧ (tget (measS x).worlds (i.viewOf (measS x).cur).world).isSome = true) := by
  refine ⟨?_, by decide, by decide, by decide, ⟨by decide, by decide +kernel, by decide, by decide +kernel⟩, issues_of rfl rfl,
    ⟨ok rfl, by decide⟩, issues_of rfl rfl, by decide +kernel, by decide +kernel, by decide +kernel⟩
  intro n h; fin_cases h <;> exact ⟨issues_of rfl rfl, ok rfl, issues_of rfl rfl⟩

/-! ### Issue, traps and frames -/

/-- A result on its way to s2; a misuse of MOD; a producer that check mode 1 catches; a false scalar guard. -/
theorem test_meets_SLOT_CHECKS_COME_FIRST :
    let sl := sS 0 4 0x211 0x212 0x213 0
    let f := fScalar true 2
    slotOf (.sadd sl) = some (0x20, sl) ∧ formOf (.sadd sl) = some (f sl)
      ∧ (let x := { g1 with pend := [{ id := 1, tok := 0, ready := false, writes := [.scalar (.s 2) 0] }] }
         (at_ x).grp? (at_ x).cur = some x ∧ x.ready (f sl) sl = false)
      ∧ (let bad := { sl with sub := 1 }
         g1.ready (f bad) bad = true ∧ decodeTrap (f bad) g1.gran g1.scount g1.trapMode bad = some (1, decInfo 2 0))
      ∧ (let x := { g1 with producers := [{ reg := .s 2, lat := some 2, dist := 1, tok := 0, covered := false }] }
         x.ready (f sl) sl = true ∧ decodeTrap (f sl) x.gran x.scount x.trapMode sl = none ∧ checkMode x 1 (f sl) sl ≠ none)
      ∧ (let off := { sl with sg := 0 }
         g1.ready (f off) off = true ∧ decodeTrap (f off) g1.gran g1.scount g1.trapMode off = none
           ∧ checkMode g1 0 (f off) off = none ∧ g1.guard off = false) :=
  ⟨rfl, rfl, ⟨rfl, by decide⟩, ⟨by decide, by decide⟩, ⟨by decide, by decide, by decide⟩, by decide, by decide, by decide, by decide⟩

/-- The header at 0x10000 is the handler's. -/
def gVec : Group := { g1 with pc := 0x20010, block := { hdr := 0x20000, len := 5 }, trapVec := 0x10000 }

theorem test_meets_TRAP_ENTRY_SAVES_AND_ENTERS :
    let s := hAt gVec
    let r : Raise := { cause := 17, info := 9 }
    s.grp? 1 = some gVec ∧ heldCause (s.ctxD (s.wgD gVec.wg).fn (s.wgD gVec.wg).ctx) r = false ∧ gVec.trapMode = false
      ∧ gVec.trapVec ≠ 0 ∧ (s.bankD gVec.bankKey).owner = none
      ∧ ((s.trapSaved 1 { cause := r.cause, pc := 0x20020, addr := r.addr, info := r.info }).target 1 gVec.trapVec).2 = .ok hdr
      ∧ badHeader hdr = false :=
  ⟨rfl, by decide, rfl, by decide, by decide +kernel, by decide +kernel, by decide⟩

/-- A software trap without a vector; a page fault, which is held; a trap while group 2 holds the bank. -/
theorem test_meets_OTHER_TRAPS_KILL_OR_WAIT :
    let r : Raise := { cause := 17, info := 9 }
    let h : Raise := { cause := 8, addr := 0x5000, info := 0 }
    ((at_ g1).grp? 1 = some g1 ∧ heldCause ((at_ g1).ctxD 0 0) r = false ∧ g1.trapVec = 0 ∧ 1 ∈ ((at_ g1).wgD g1.wg).groups)
      ∧ ((at_ gTrap).grp? 1 = some gTrap ∧ gTrap.trapMode = true)
      ∧ heldCause ((at_ g1).ctxD 0 0) h = true
      ∧ (let s := (at_ gVec).setBank gVec.bankKey { owner := some 2 }
         s.grp? 1 = some gVec ∧ heldCause (s.ctxD 0 0) r = false ∧ (s.bankD gVec.bankKey).owner = some 2 ∧ (2 : Nat) ≠ 1) :=
  ⟨⟨rfl, by decide, rfl, by decide⟩, ⟨rfl, rfl⟩, by decide, rfl, by decide, by decide +kernel, by decide⟩

/-- An addition and a GETFMT, both of which complete. -/
theorem test_meets_REGISTER_INSTRUCTION_FRAME :
    (let sl := sS 0 4 8 16 24 0
     slotOf (.vadd sl) = some (0x40, sl) ∧ formOf (.vadd sl) = some (fVec 0 1 (tyI sl) 2 sl) ∧ registerOnly 0x40 = true
       ∧ Ok g1 (fun s => fVec 0 1 (tyI s) 2 s) sl ∧ ∃ t, exec (.vadd sl) (at_ g1) = .next t)
      ∧ (let sl : Slot := { d := 0x211 }
         slotOf (.getfmt sl) = some (0x12, sl) ∧ formOf (.getfmt sl) = some (fGetfmt sl) ∧ registerOnly 0x12 = true
           ∧ Ok g1 fGetfmt sl ∧ ∃ t, exec (.getfmt sl) (at_ g1) = .next t) :=
  ⟨⟨rfl, rfl, rfl, ok rfl, ⟨_, rfl⟩⟩, rfl, rfl, rfl, ok rfl, ⟨_, rfl⟩⟩

/-- Every form of store and atomic completes on the window. -/
theorem test_meets_WINDOW_STORE_FRAME :
    (∀ L, L < 32 ∧ True → inWindow (at_ gWin) gWin (lnA gWin { ty := 6, a := 16, b := 24 } L) 8)
      ∧ (let sl : Slot := { ty := 6, a := 16, b := 24 }; Ok gWin fSt sl ∧ ∃ t, exec (.st sl) (at_ gWin) = .next t)
      ∧ (let sl : Slot := { ty := 0x30, a := 16, b := 24 }; Ok gWin fStx sl ∧ cntN sl = 1 ∧ ∃ t, exec (.stx sl) (at_ gWin) = .next t)
      ∧ (let sl : Slot := { ty := 6, a := 0x212, b := 0x213 }
         Ok gWin fSts sl ∧ inWindow (at_ gWin) gWin (scA gWin sl) 8 ∧ ∃ t, exec (.sts sl) (at_ gWin) = .next t)
      ∧ (let sl : Slot := { a := 0x213, b := 24 }
         Ok gWin fStb sl ∧ (∀ L, L < 32 ∧ True → inWindow (at_ gWin) gWin (blA gWin sl L) 8)
           ∧ ∃ t, exec (.stb sl) (at_ gWin) = .next t)
      ∧ (let sl : Slot := { ty := 6, d := 8, a := 16, b := 24 }; tyI sl = true ∧ Ok gWin fAtom sl ∧ ∃ t, exec (.atom sl) (at_ gWin) = .next t)
      ∧ (let sl : Slot := { ty := 6, d := 0x211, a := 0x212, b := 0x213 }
         tyI sl = true ∧ Ok gWin fAtoms sl ∧ ∃ t, exec (.atoms sl) (at_ gWin) = .next t)
      ∧ (let sl : Slot := { ty := 6, a := 16, b := 24 }; tyI sl = true ∧ Ok gWin fRed sl ∧ ∃ t, exec (.red sl) (at_ gWin) = .next t) :=
  ⟨inWindow_of (by decide +kernel) _, ⟨ok rfl, ⟨_, rfl⟩⟩, ⟨ok rfl, rfl, ⟨_, rfl⟩⟩,
    ⟨ok rfl, ⟨by decide +kernel, by decide +kernel, by decide +kernel⟩, ⟨_, rfl⟩⟩, ⟨ok rfl, inWindow_of (by decide +kernel) _, ⟨_, rfl⟩⟩,
    ⟨rfl, ok rfl, ⟨_, rfl⟩⟩, ⟨rfl, ok rfl, ⟨_, rfl⟩⟩, rfl, ok rfl, ⟨_, rfl⟩⟩

/-! ### Group events -/

/-- A pending result, there or not; a late trap; a trap that waits for the bank; a wait on a word of 6 or 7. -/
def pendX (r : Bool) : Pend := { id := 4, tok := 0, ready := r, writes := [.scalar (.s 2) 9] }
def trapX : Trap := { cause := 12, pc := 0x20010, addr := 0, info := 0 }
def gWaiting (n : Nat) : Group := { gWait with wait := .waitp (wa 0) 7 n { d := 0x281, a := 0x212, b := 0x213, c := 0x270 } }

theorem test_meets_GROUP_EVENTS_arrivals :
    (∀ r : Bool, let x := { g1 with pend := [pendX r] }
        (at_ x).grp? 1 = some x ∧ x.pend.find? (fun q => decide (q.id = 4)) = some (pendX r) ∧ (pendX r).ready = r)
      ∧ (let x := { g1 with delayed := [trapX] }; (at_ x).grp? 1 = some x ∧ x.delayed = trapX :: [] ∧ x.inBlock = true)
      ∧ (let x := { gVec with wait := .bank trapX }
         let s := hAt x
         s.grp? 1 = some x ∧ x.wait = .bank trapX ∧ (s.bankD x.bankKey).owner = none
           ∧ (((s.updGrp 1 fun y => { y with wait := .none }).trapSaved 1 trapX).target 1 x.trapVec).2 = .ok hdr ∧ badHeader hdr = false)
      ∧ (∀ n ∈ [6, 7], let s := (at_ (gWaiting 9)).wrBytes (winLoc 1 0) (toBytes 4 n)
         s.grp? 1 = some (gWaiting 9) ∧ (s.resolve (s.viewOf 1) (wa 0) 4 4 4).2 = .ok (.win (winLoc 1 0))
           ∧ ((s.resolve (s.viewOf 1) (wa 0) 4 4 4).1.readT (s.viewOf 1) (.win (winLoc 1 0)) 4 true).2 = n) := by
  refine ⟨?_, ⟨rfl, rfl, by decide⟩, ⟨rfl, rfl, by decide +kernel, by decide +kernel, by decide⟩, ?_⟩
  · intro r; cases r <;> exact ⟨rfl, rfl, rfl⟩
  · intro n h; fin_cases h <;> exact ⟨rfl, by decide +kernel, by decide +kernel⟩

/-- The context without a budget; and the group's workgroup with a pre-emption handler at 0x10000. -/
def gRun : Group := { g1 with pc := 0x20010, block := { hdr := 0x20000, len := 5 } }
def preS : State := (hAt gRun).updWg 1 fun w => { w with preempt := 0x10000 }

theorem test_meets_GROUP_EVENTS_preemption :
    (let s := (at_ g1).updCtx 0 0 fun c => { c with pbudget := 0 }
     s.ctxWgs 0 0 = [1] ∧ (s.wgD 1).groups = [1] ∧ s.grp? 1 = some g1 ∧ (s.ctxD 0 0).pbudget = 0 ∧ (s.wgD 1).fn = 0 ∧ (s.wgD 1).ctx = 0)
      ∧ (preS.ctxWgs 0 0 = [1] ∧ (preS.wgD 1).groups = [1] ∧ preS.grp? 1 = some gRun ∧ (preS.ctxD 0 0).pbudget ≠ 0
        ∧ (preS.wgD 1).preempt ≠ 0 ∧ gRun.inBlock = true ∧ (preS.bankD gRun.bankKey).owner = none
        ∧ (((preS.updGrp 1 fun y => { y with wait := .none, delayed := [], preempt := false }).trapSaved 1
          { cause := 15, pc := gRun.pc }).target 1 (preS.wgD 1).preempt).2 = .ok hdr) :=
  ⟨⟨by decide +kernel, by decide, rfl, by decide, by decide, by decide⟩, by decide +kernel, by decide, rfl, by decide, by decide, by decide,
    by decide +kernel, by decide +kernel⟩

theorem test_meets_GROUP_EVENTS_saves :
    ∀ x ∈ [{ g1 with preempt := true }, { gTrap with preempt := true, inPreempt := true }],
      (at_ x).grp? 1 = some x ∧ x.overrun = true ∧ x.settled = true ∧ (x.trapMode = true ∨ x.inBlock = true)
        ∧ (at_ x).matBusy x.wg = false ∧ (tget (at_ x).launches 1).map (fun l => l.desc.cores) = some false := by
  intro x h; fin_cases h <;> exact ⟨rfl, by decide, by decide, by decide, by decide +kernel, by decide +kernel⟩

/-- R31, R259, spec/13: an overrun after the handler's SUSP restores LIVE, and a result that was pending at TRAPPC. -/
theorem test_overrun_restores :
    let x : Group :=
      { gTrap with
        inPreempt := true, live := 0xF, sregs := [(2, 7)]
        pend := [{ id := 1, tok := 0, ready := true, writes := [.scalar (.s 3) 9] }]
        snap := some { gTrap.snapshot with pend := [{ id := 1, tok := 0, ready := true, writes := [.scalar (.s 3) 9] }] } }
    (((at_ x).writePend 1).grp? 1).map (fun y => (y.resumeForm.live, y.resumeForm.sregs, y.resumeForm.pc)) = some (0xFFFFFFFF, [(2, 0x10000), (3, 9)], 0x10010) := by
  decide +kernel

/-! ### Engine events -/

/-- An operation of the workgroup on tile 0, in the queue of core 0; tile 0 holds i32. -/
def opOf (opc : BitVec 8) (sl : Slot) : MatOp := matOp opc sl (at_ gMat) gMat
def matS (x : Group) (q : List MatOp) (r : Option MatOp) : State :=
  { ((at_ x).updWg 1 fun w => { w with tiles := 1, tile := [(0, { kind := 5 })] }).updCore 0 fun k => { k with engq := q } with
    engines := [(0, { running := r })] }
/-- i8 products; ACCALLOC.stat into s1, whose result is pending. -/
def mmaI8 : Slot := { ty := 0, a := 0x212, b := 0x213, c := 0x270 }
def statS : Slot := { sub := 4, d := 0x211 }
def gStat : Group := { gMat with pend := [{ id := 1, tok := 0, ready := false, writes := [.scalar (.s 1) 0] }] }

theorem test_meets_ENGINE_EVENTS_matrix :
    let z := opOf 0xE3 {}
    ((matS gMat [] (some z)).engD 0).running = some z
      ∧ (let s := matS gMat [z] none; (s.engD 0).running = none ∧ s.matNext 0 = some z ∧ s.accReason z = none)
      ∧ (∀ o ∈ [z, opOf 0xE0 mmaI8, opOf 0xE8 statS],
        let s := matS gStat [] (some o)
        (s.engD 0).running = some o ∧ (tget s.wgs o.wg).map Workgroup.done = some false)
      ∧ (let o := opOf 0xE0 mmaI8; o.opc = 0xE0 ∧ tyCode o.sl = 0 ∧ o.rows ≠ 0
        ∧ ∀ r n, (((matS gMat [] (some o)).tileOf o.wg (tileN o.sl)).el r n).q < 2 ^ 32)
      ∧ (let o := opOf 0xE8 statS; o.opc = 0xE8 ∧ o.sl.sub = 4 ∧ (matS gStat [] (some o)).grp? o.grp = some gStat
        ∧ gStat.pend = [{ id := o.pend, tok := 0, ready := false, writes := [.scalar (.s 1) 0] }]) := by
  refine ⟨by decide +kernel, ⟨by decide +kernel, by decide +kernel, by decide +kernel⟩, ?_, ⟨rfl, by decide, by decide, ?_⟩,
    rfl, rfl, by decide +kernel, by decide +kernel⟩
  · intro o h; fin_cases h <;> exact ⟨by decide +kernel, by decide +kernel⟩
  · intro r n; show (0 : Nat) < 2 ^ 32; decide

/-- A copy of one word within the window, moved or not, with a notification at offset 0x100 or at 0x20000. -/
def copyX (src : Word) (moved ntf : Nat) : AsyncOp :=
  { opc := 0xD0, fn := 0, ctx := 0, wg := 1, grp := 1, cls := 1, batch := 0, scp := 1, dst := wa 0, src := src, rb := 8, rows := 1
    dstride := 8, sstride := 8, list := 0, ntf := ntf, e := 0x20000, imm := 1, moved := moved, landed := 8 * moved }
def opS (o : AsyncOp) : State := { dataPage (at_ g1) with ops := [(3, o)] }

theorem test_meets_ENGINE_EVENTS_copies :
    (let o := copyX (wa 64) 0 0
     let s := opS o
     tget s.ops 3 = some o ∧ o.isCopy = true ∧ o.paused = none ∧ o.moved + 1 = o.words ∧ s.bucketLow o.fn 1 (s.copyClass o) = false
       ∧ s.wordAt (s.opView o) o 0 = (s, .ok { st := .win (winLoc 1 64), dt := .win (winLoc 1 0), sa := wa 64, da := wa 0 }))
      ∧ (let o := copyX (wa 64) 1 0; tget (opS o).ops 3 = some o ∧ (opS o).copyDone 3 o = true ∧ o.ntf = 0)
      ∧ (∀ p ∈ [((2 : Nat), (4 : Nat), (1 : Nat)), (4, 8, 2)],
        let o := copyX (wa 64) 1 p.1
        let s := opS o
        tget s.ops 3 = some o ∧ s.copyDone 3 o = true ∧ o.ntf = p.1
          ∧ ∃ u l c, s.hubAt (s.opView o) o.e p.2.1 p.2.2 = (u, .ok (.mem l c)))
      ∧ (let o := copyX 0x5000000 0 0; tget (opS o).ops 3 = some o ∧ o.isCopy = true ∧ o.packet = 0
        ∧ ((opS o).nextFault o).isSome = true) := by
  have mem {p : State × Except Raise Target} (h : (match p.2 with | .ok (.mem _ _) => true | _ => false) = true) :
      ∃ u l c, p = (u, .ok (.mem l c)) := by
    obtain ⟨u, r⟩ := p
    match r, h with
    | .ok (.mem l c), _ => exact ⟨u, l, c, rfl⟩
  refine ⟨⟨by decide +kernel, rfl, rfl, by decide, by decide +kernel, rfl⟩, ⟨by decide +kernel, by decide +kernel, rfl⟩, ?_,
    by decide +kernel, rfl, rfl, by decide +kernel⟩
  intro p h; fin_cases h <;> exact ⟨by decide +kernel, by decide +kernel, rfl, mem (by decide +kernel)⟩

/-- A collective of ports 0 and 5, of 256 bytes, on device 0. -/
def collX (kind : Nat) (m : Bool) : AsyncOp :=
  { copyX (wa 1024) 0 0 with opc := 0xD4, cls := 3, rb := 256, kind := kind, peers := [0, 5], root := 5, matched := m, dst := wa 0x2000, moved := 0, landed := 0 }

theorem test_meets_ENGINE_EVENTS_collectives :
    (let o := collX 0 false
     tget (opS o).ops 3 = some o ∧ o.opc = 0xD4 ∧ o.paused = none ∧ o.matched = false
       ∧ (∀ h ∈ [({ kind := 0, ty := 0, bytes := 256, root := 5 } : CollHead)], h.kind = o.kind ∧ h.ty = o.ty ∧ h.bytes = o.rb ∧ h.root = o.root)
       ∧ ¬ (∀ h ∈ [({ kind := 1, ty := 0, bytes := 256, root := 5 } : CollHead)], h.kind = o.kind ∧ h.ty = o.ty ∧ h.bytes = o.rb ∧ h.root = o.root))
      ∧ (let o := collX 1 true
         tget (opS o).ops 3 = some o ∧ 1 ≠ o.port 0 ∧ 0 < o.dstLines 0 ∧ 0 ∉ o.written ∧ (∀ p ∈ o.contrib, p.1 / 1024 ≠ 0)
           ∧ 1 < o.need (opS o).selfid.toNat 0)
      ∧ (let o := collX 3 true
         tget (opS o).ops 3 = some o ∧ 1 ≠ o.port 0 ∧ 1 < o.dstLines 0 ∧ o.written.length + 1 < o.dstLines 0
           ∧ ((opS o).collWrite ((opS o).opView o) 3 (o.dst + BitVec.ofNat 64 (128 * 1)) []).2 = none)
      ∧ (let o := { collX 2 true with ready := 0x20000, written := [0] }
         let u := (opS o).collWrite ((opS o).opView o) 3 (o.dst + BitVec.ofNat 64 (128 * 1)) []
         let o2 := { o with contrib := tput o.contrib (1024 * 1 + 1) [], written := [0, 1] }
         let u2 := { u.1 with ops := tput u.1.ops 3 o2 }
         1 ≠ o.port 0 ∧ 1 ∉ o.written ∧ o.sent = false ∧ o.dstLines 0 ≤ o.written.length + 1 ∧ u.2 = none ∧ u2.selfid = (opS o).selfid
           ∧ ∃ v l c, u2.hubAt (u2.opView o2) o.ready 4 2 = (v, .ok (.mem l c))) := by
  have mem {p : State × Except Raise Target} (h : (match p.2 with | .ok (.mem _ _) => true | _ => false) = true) :
      ∃ u l c, p = (u, .ok (.mem l c)) := by
    obtain ⟨u, r⟩ := p
    match r, h with
    | .ok (.mem l c), _ => exact ⟨u, l, c, rfl⟩
  refine ⟨⟨by decide +kernel, rfl, rfl, rfl, by decide, by decide⟩,
    ⟨by decide +kernel, by decide, by decide, by decide, by decide, by decide +kernel⟩,
    ⟨by decide +kernel, by decide, by decide, by decide, by decide +kernel⟩,
    ⟨by decide, by decide, rfl, by decide, by decide +kernel, by decide +kernel, mem (by decide +kernel)⟩⟩

/-! ### Dispatcher events -/

/-- Queue 0 of function 0, enabled or not, whose ring of packets stands at 0x20400; one packet of words `ws` at 0x20800. -/
def queueX (en err : Bool) : Queue := { rcb := 0x20400, en := en, err := err, ctx := 0, seen := 1 }
def pktS (ws : List Nat) (q : Queue) : State :=
  let s := (dataPage (at_ g1)).updFn 0 fun f => { f with queues := [(0, q)] }
  { (s.wrBytes 0x20400 (ringBytes 8 0x20800 1 0)).wrBytes 0x20800 (ws.flatMap fun w => toBytes 8 w) with dev := .ready }

/-- A disabled queue, with a valid ring and with none; an enabled one; a queue that does not exist. -/
theorem test_meets_DISPATCHER_EVENTS_queues :
    (let s := pktS [] (queueX false true); tget s.fns 0 ≠ none ∧ (s.queueD 0 0).en = false
      ∧ (((s.updQueue 0 0 fun k => { k with rcb := 0x20400, ctx := 0 }).queueRing 0 0x20400 0).2).isSome = true
      ∧ ((s.updQueue 0 0 fun k => { k with rcb := 0x20440, ctx := 0 }).queueRing 0 0x20440 0).2 = none)
      ∧ (let s := pktS [] (queueX true false); (s.queueD 0 0).en = true ∧ s.ctxRuns 0 (s.queueD 0 0).ctx = true
        ∧ ((s.queueRing 0 (s.queueD 0 0).rcb (s.queueD 0 0).ctx).2).isSome = true)
      ∧ (let s := pktS [] { queueX true false with rcb := 0x20440 }; (s.queueD 0 0).en = true ∧ s.ctxRuns 0 (s.queueD 0 0).ctx = true
        ∧ (s.queueRing 0 (s.queueD 0 0).rcb (s.queueD 0 0).ctx).2 = none)
      ∧ (64 : Nat) ≤ 64 :=
  ⟨⟨by decide +kernel, by decide +kernel, by decide +kernel, by decide +kernel⟩, ⟨by decide +kernel, by decide +kernel, by decide +kernel⟩,
    ⟨by decide +kernel, by decide +kernel, by decide +kernel⟩, by decide⟩

/-- The head packet, its start, and the state and view after acceptance are as `P` says. -/
def Head (s : State) (P : State → View → State → List Word → Start → Bool) : Prop :=
  ∃ u u1 c b w start, s.headPacket 0 0 = (u, some (b, w)) ∧ u.startOf 0 0 w = (u1, start) ∧ u1.wants = []
    ∧ (start ≠ .wait → s.queueTurn 0 0 = true) ∧ u1.advance 0 0 b = (c, true)
    ∧ P (c.accept 0 0 w none).1 ((c.accept 0 0 w none).1.hubView 0 ((c.accept 0 0 w none).1.queueD 0 0).ctx) c w start = true

theorem head_of {s : State} {P : State → View → State → List Word → Start → Bool}
    (h : (match s.headPacket 0 0 with
      | (u, some (b, w)) =>
        let r := u.startOf 0 0 w
        let c := r.1.advance 0 0 b
        let a := (c.1.accept 0 0 w none).1
        decide (r.1.wants = []) && (decide (r.2 = .wait) || s.queueTurn 0 0) && c.2 && P a (a.hubView 0 (a.queueD 0 0).ctx) c.1 w r.2
      | (_, none) => false) = true) : Head s P := by
  match hr : s.headPacket 0 0, h with
  | (u, some (b, w)), h =>
    simp only [Bool.and_eq_true, Bool.or_eq_true, decide_eq_true_eq] at h
    exact ⟨u, (u.startOf 0 0 w).1, ((u.startOf 0 0 w).1.advance 0 0 b).1, b, w, (u.startOf 0 0 w).2, hr, rfl, h.1.1.1,
      fun k => h.1.1.2.resolve_left k, Prod.ext rfl h.1.2, h.2⟩

def isOk {α β : Type} : Except α β → Bool
  | .ok _ => true
  | .error _ => false

/-- A packet of each type, one that waits, and one whose type is reserved. -/
theorem test_meets_DISPATCHER_EVENTS_packets :
    (∀ n ∈ [0, 1, 2, 3, 4, 5], Head (pktS [n + 2 ^ 15] (queueX true false)) fun _ _ _ w st => decide (pType w = n) && decide (st = .status 4))
      ∧ (∀ n ∈ [0, 1, 2, 3, 4, 5],
        Head { pktS [n + 2 ^ 8] (queueX true false) with
            packets := [(7, { fn := 0, q := 0, ctx := 0, compl := 0, rel := 0, kind := 0, hword := 0, status := none })] }
          fun _ _ _ w st => decide (pType w = n) && decide (st = .wait))
      ∧ Head (pktS [0] (queueX true false)) (fun _ _ _ w st => decide (pType w = 0) && decide (st = .go))
      ∧ Head (pktS [2, 0, 0x21000, 0, 0, 0, 0, 0] (queueX true false)) (fun _ _ _ w st => decide (pType w = 2) && decide (st = .go))
      ∧ Head (pktS [4, 0, 0x21000, 1, 1] (queueX true false)) (fun a v _ w st => decide (pType w = 4) && decide (st = .go)
        && isOk (a.hubAt v (pw w 2) 8 1).2) := by
  refine ⟨?_, ?_, head_of (by decide +kernel), head_of (by decide +kernel), head_of (by decide +kernel)⟩ <;>
    intro n h <;> fin_cases h <;> exact head_of (by decide +kernel)

/-- A copy of 64 bytes in the data page, and one whose source is past the address space. -/
def copyOk (a : State) (v : View) (u1 : State) (w : List Word) : Bool :=
  let n := (pw w 4).toNat
  let o : AsyncOp := { opc := 0xD0, fn := v.fn, ctx := v.ctx, wg := 0, grp := 0, cls := 1, batch := 0, scp := 3
                       dst := pw w 2, src := pw w 3, rb := n, rows := 1, dstride := n, sstride := n, list := 0
                       ntf := 0, e := 0, imm := 0, packet := u1.tick }
  (a.copyCheck v o []).isNone && (a.spanOk v o.dst n 1 (n / 65536 + 2)).2
    && ((a.spanOk v o.dst n 1 (n / 65536 + 2)).1.spanOk v o.src n 0 (n / 65536 + 2)).2
def copyBad (a : State) (v : View) (u1 : State) (w : List Word) : Bool :=
  let n := (pw w 4).toNat
  (a.copyCheck v { opc := 0xD0, fn := v.fn, ctx := v.ctx, wg := 0, grp := 0, cls := 1, batch := 0, scp := 3
                   dst := pw w 2, src := pw w 3, rb := n, rows := 1, dstride := n, sstride := n, list := 0
                   ntf := 0, e := 0, imm := 0, packet := u1.tick } []).isSome

/-- A launch descriptor of one workgroup of one group of one granule and 8 scalars, with COOP or not, and its place. -/
def descWords (g0 : Nat) (coop : Nat) : List Nat :=
  [0, 0, 1 + 2 ^ 32, 1, coop * 256, 0, 0, 0, 0x10000, 1 + 2 ^ 8 + 2 ^ 16 * g0] ++ List.replicate 22 0
def launchS (g0 coop : Nat) : State :=
  (pktS [1, 0, 0x21000, 0x22000] (queueX true false)).wrBytes 0x21000 ((descWords g0 coop).flatMap fun w => toBytes 8 w)

/-- What the launch packet's descriptor gives. -/
def launchCase (bad adm : Bool) (a : State) (v : View) (_ : State) (w : List Word) (st : Start) : Bool :=
  decide (pType w = 1) && decide (st = .go)
    && match a.hubWords v (pw w 2) 32 with
      | (z, .ok ws) => if bad then descBad v.world (wordsFn ws) else
          !descBad v.world (wordsFn ws) && !(descOf (wordsFn ws)).early && ((z.newHandle 0 0).1.putHandle v (pw w 3) (z.newHandle 0 0).2).2
            && (((z.newHandle 0 0).1.putHandle v (pw w 3) (z.newHandle 0 0).2).1.admits 0 (descOf (wordsFn ws)) == adm)
      | (_, .error _) => false

theorem test_meets_DISPATCHER_EVENTS_launches :
    Head (pktS [3, 0, 0x21000, 0x22000, 64] (queueX true false)) (fun a v u w st => decide (pType w = 3) && decide (st = .go) && copyOk a v u w)
      ∧ Head (pktS [3, 0, 0x21000, 2 ^ 60 + 2 ^ 24, 64] (queueX true false)) (fun a v u w st => decide (pType w = 3) && decide (st = .go)
        && copyBad a v u w)
      ∧ Head (launchS 0 0) (launchCase true false) ∧ Head (launchS 1 0) (launchCase false true)
      ∧ Head (launchS 1 1) (launchCase false false) :=
  ⟨head_of (by decide +kernel), head_of (by decide +kernel), head_of (by decide +kernel), head_of (by decide +kernel),
    head_of (by decide +kernel)⟩


/-- A graph of one node and no edge at 0x21000, whose node list at 0x21100 names the descriptor at 0x22000. -/
def graphS : State :=
  (((pktS [5, 0, 0x21000, 0, 1 + 2 ^ 16, 0] (queueX true false)).wrBytes 0x21000 ([1, 0x21100, 0x21200, 0, 0, 0, 0, 0].flatMap fun w => toBytes 8 w)).wrBytes
    0x21100 (toBytes 8 0x22000)).wrBytes 0x22000 ((descWords 1 0).flatMap fun w => toBytes 8 w)

theorem test_meets_DISPATCHER_EVENTS_graphs :
    Head graphS fun a v _ w st => decide (pType w = 5) && decide (st = .go)
      && a.parentsOk v (bits (pw w 3) 31 0) (bits (pw w 3) 63 32) && decide (pw w 5 = 0) && (a.readGraph v (pw w 2)).2.isSome :=
  head_of (by decide +kernel)

/-- A descriptor of one role of one group; a graph whose second node waits for its first; a card. -/
def descX : LaunchDesc :=
  { launchX.desc with gx := 1, gy := 1, gz := 1, scratch := 0, tiles := 0, cores := false, roles := [{ entry := 0x30000, gran := 1, scnt := 8, groups := 1 }] }
def unitX : Unit3 :=
  { fn := 0, ctx := 0, parent := 0, remaining := 2, nodes := [(0, (0, none)), (1, (0, none))], descs := [descX, descX], edges := [(0, 1)] }
def cardX : Card :=
  { entry := 0x30000, param := 0, user := 0, signal := 0, gran := 1, scnt := 8, groups := 1, scratch := 0, tiles := 0, prio := 0, energy := 0, launch := 1, seq := 0 }

theorem test_meets_DISPATCHER_EVENTS_later :
    (let p : Packet := { fn := 0, q := 0, ctx := 0, compl := 0, rel := 0, kind := 0, hword := 0, status := some 4 }
     let s := { at_ g1 with packets := [(7, p)] }; s.donePacket = some (7, p, 4) ∧ tget s.fns p.fn ≠ none)
      ∧ (let s := { at_ g1 with graphs := [(9, unitX)] }
         tget s.graphs 9 = some unitX ∧ unitX.done = false ∧ nodeStart unitX 1 = .wait ∧ nodeStart unitX 0 = .go
           ∧ unitX.descs[0]? = some descX ∧ s.admits 0 descX = true)
      ∧ (let s := (at_ g1).updCore 0 fun k => { k with spilled := [cardX] }
         s.spillCore = some (0, cardX) ∧ (tget s.launches cardX.launch).map (fun l => (l.done, l.cancelled)) = some (false, false))
      ∧ (let s := (at_ g1).updFn 0 fun f => { f with buckets := [(16, { rate := 5, depth := 9, level := 6 })] }
         (tget s.fns 0).map (fun f => (tget f.buckets 16).isSome) = some true) := by
  refine ⟨⟨rfl, by decide⟩, ⟨rfl, rfl, by decide, by decide, rfl, by decide +kernel⟩, ⟨by decide +kernel, by decide +kernel⟩, by decide +kernel⟩

/-- A launch of one workgroup, not placed, whose gate is open. -/
def placeS (l : Launch) : State :=
  { State.reset with cores := [(0, { unit := some 0 })], fns := [(0, { count := 12 })], ctxs := [(0, { level := 2, savesz := 2 ^ 24 })], launches := [(1, l)] }
def launchY : Launch := { launchX with desc := descX, gateOpen := true }

/-- With its first workgroup placed, the launch has nothing more to place. -/
def placedAll (s : State) (x : Launch) (save : Nat) (p : Spot) : Bool :=
  let s1 := (s.startWg 1 x.nextWg x.desc.roles x.desc.scratch x.desc.tiles x.desc.param (BitVec.ofNat 64 x.nextWg) none x.desc.prio
    x.desc.energy x.seq save x.acq p).updLaunch 1 fun y => { y with nextWg := y.nextWg + 1 }
  (s1.placeOne s1.coWaiting [] s1.candidates).isNone

theorem spot_of {s : State} {x : Launch}
    (h : (match findSpot s.used x.desc.need (s.trialOrder 0), s.saveSpot 0 0 x.desc.need.record with
      | some (p, u), some save => s.earlyOk 0 x.prods u && placedAll s x save p
      | _, _ => false) = true) :
    ∃ p u save, findSpot s.used x.desc.need (s.trialOrder 0) = some (p, u) ∧ s.saveSpot 0 0 x.desc.need.record = some save
      ∧ s.earlyOk 0 x.prods u = true ∧ placedAll s x save p = true := by
  match hf : findSpot s.used x.desc.need (s.trialOrder 0), hs : s.saveSpot 0 0 x.desc.need.record, h with
  | some (p, u), some save, h => rw [Bool.and_eq_true] at h; exact ⟨p, u, save, rfl, rfl, h.1, h.2⟩

theorem test_meets_DISPATCHER_EVENTS_placement :
    (∀ p ∈ (placeS launchY).launches, p.2.gateOpen = true)
      ∧ (let s := placeS { launchY with done := true }; s.placeOne s.coWaiting [] s.candidates = none)
      ∧ (let s := placeS launchY
         s.coWaiting = [] ∧ (∃ r, s.candidates = [(r, .fresh 1)]) ∧ tget s.launches 1 = some launchY ∧ launchY.desc.cores = false
           ∧ (s.fnD 0).energyRoom launchY.desc.energy = true
           ∧ ∃ p u save, findSpot s.used launchY.desc.need (s.trialOrder 0) = some (p, u)
             ∧ s.saveSpot 0 0 launchY.desc.need.record = some save ∧ s.earlyOk 0 launchY.prods u = true ∧ placedAll s launchY save p = true) := by
  refine ⟨by decide, by decide +kernel, by decide +kernel, ⟨{ prio := 0, saved := false, seq := 0, lin := 0 }, by decide +kernel⟩, rfl, rfl,
    by decide +kernel, spot_of (by decide +kernel)⟩

/-! ### Translation and tier events -/

/-- Context 0 with tables from 0x100000: pages at 0x20000 (the working set, which lists two pages), 0x30000 (not yet
accessed), 0x40000 (in the capacity tier) and 0x50000 (accessed, not yet written). -/
def tabS : State :=
  let s := (at_ g1).updCtx 0 0 fun c => { c with root0 := 0x100000, wshdr := 0x20000 }
  let put (t : State) (p : Nat × Nat) : State := t.wrBytes p.1 (toBytes 8 p.2)
  [(0x100000, 0x108001), (0x108000, 0x110001), (0x110010, 0x800303), (0x110018, 0xC00003), (0x110020, 11010048 * 2 ^ 22 + 0x113),
    (0x110028, 0x1400103), (0x20000, 8), (0x20008, 2), (0x20020, 0x20800), (0x20800, 0x30000), (0x20808, 0x40000)].foldl put
    ((s.updFn 0 fun f => { f with count := 1, capQ := 4 }))

/-- An unmapped address; a read of a page not yet accessed; a first write. -/
theorem test_meets_TRANSLATION_walks :
    (∃ r l, (tabS.noteWalk (tabS.ctxD 0 0) 0 0).lookup ((tabS.noteWalk (tabS.ctxD 0 0) 0 0).ctxD 0 0) 0 0 = .bad r l)
      ∧ ∀ p ∈ [((0x30000 : Nat), (0xC00003 : Word), (0x110018 : Nat), (0 : Nat)), (0x50000, 0x1400103, 0x110028, 1)],
        let v : View := { tabS.hubView 0 0 with die := 0 }
        let l := p.2.1
        let s := tabS.noteWalk (tabS.ctxD 0 0) 0 p.1
        s.lookup (s.ctxD 0 0) 0 p.1 = .leaf l p.2.2.1 0x10000 3 ∧ s.lostDies = [] ∧ s.badNode = [] ∧ leafTier l ≤ 1
          ∧ s.check58 v 0 l 0x10000 = none ∧ tget s.ctxs (ctxKey 0 0) ≠ none
          ∧ (∀ f ∈ framesOf l 0x10000, s.ownerOf f = 255) ∧ (∀ f ∈ framesOf l 0x10000, tval false s.bias f = leafBias l)
          ∧ check911 l p.2.2.2 false (kindWrites p.2.2.2) = none ∧ (leafAcc l = true ∨ kindWrites p.2.2.2 = false) := by
  refine ⟨⟨2, 3, by decide +kernel⟩, ?_⟩
  intro p h; fin_cases h <;>
    exact ⟨by decide +kernel, by decide +kernel, by decide +kernel, by decide, by decide +kernel, by decide +kernel, by decide +kernel,
      by decide +kernel, by decide, by decide⟩

/-- Function 0's request of words `w` at the head of the ring that stands at `off` in its partition descriptor. -/
def reqS (off : Nat) (w : List Nat) (s : State) : State :=
  ((s.updFn 0 fun f => { f with pdesc := 0x160000, rings := (List.range 4).map fun i => if 8 * i = off then 0x160400 else 0 }).wrBytes
    0x160400 (ringBytes 4 0x160800 1 0)).wrBytes 0x160800 (w.flatMap fun x => toBytes 8 x)
def reqW (w : List Nat) : List Word := w.map fun x => BitVec.ofNat 64 x

/-- Requests of each OP, and of each event with a reserved bit; OP 3 of a function that does not hold its slices. -/
theorem test_meets_TRANSLATION_invalidations :
    (∀ n ∈ [0, 1, 2, 3], let w := [n + 2 ^ 13, 0, 1, 0]
        (reqS 0 w tabS).invDone = none ∧ pickReq (reqS 0 w tabS).invReqs n 3 = some (0, 0x160400, reqW w)
          ∧ (reqS 0 w tabS).invBad 0 (reqW w) = true)
      ∧ (∀ n ∈ [0, 1, 2, 3], let w := [n, 0x20000, 1, 0x160C00]
        let s := (reqS 0 w tabS).updFn 0 fun f => { f with ts := true }
        s.invDone = none ∧ pickReq s.invReqs n 3 = some (0, 0x160400, reqW w) ∧ s.invBad 0 (reqW w) = false)
      ∧ (tabS.updFn 0 fun f => { f with invWait := some { since := 0, from_ := none, signal := 0 } }).invDone
        = some (0, { since := 0, from_ := none, signal := 0 }) := by
  refine ⟨?_, ?_, by decide +kernel⟩ <;> intro n h <;> fin_cases h <;> exact ⟨by decide +kernel, by decide +kernel, by decide +kernel⟩

/-- Room that is found is taken. -/
theorem makeRoom_found {s : State} {k f : Nat} {sl : List Nat} (h : s.findNear sl k = some f) (payer : Nat) (skip : List (Nat × Nat))
    (l : List Page) : s.makeRoom payer k sl skip l = (s, some f, skip) := by
  cases l <;> simp [State.makeRoom, h]

/-- A free run of one frame, whatever the free value names. -/
theorem frameRun_isSome {s : State} {near : Bool} {d : List Nat}
    (h : ((if near then s.firstRun true d 1 0 11010048 else s.firstRun false d 1 11010048 33554432)).isSome = true) :
    (s.frameRun near d 1).isSome = true := by
  unfold State.frameRun
  dsimp only
  split
  · rfl
  · cases near <;> simpa using h

/-- The page at 0x40000 moved up, and that at 0x30000 down. -/
def moveX (va : Nat) : Move := { id := 5, fn := 0, ctx := 0, space := 0, va := va, up := true, signal := 0 }
def moveS (va : Nat) (s : State) : State := { s with moves := [moveX va] }

theorem pageUp_isSome {s : State} {p : Page} {l : Word} {pl f : Nat} (hl : s.leafAt p = some (l, pl, 65536))
    (hf : s.findNear (s.fnD p.fn).kept 1 = some f) (out : Option Nat)
    (skip : List (Nat × Nat)) (bytes : List Byte) : (s.pageUp p.fn p out skip bytes).1.isSome = true := by
  simp [State.pageUp, hl, makeRoom_found hf]

theorem near_found {s : State} (h : (s.firstRun true [0] 1 0 11010048).isSome = true) : ∃ f, s.findNear [0] 1 = some f := by
  obtain ⟨f, hf⟩ := Option.isSome_iff_exists.mp (frameRun_isSome (near := true) (d := [0]) (by rw [if_pos rfl]; exact h))
  exact ⟨f, by simp [State.findNear, hf]⟩

/-- A capacity frame within the quota. -/
theorem cap_found {s : State} (h : (s.firstRun false [] 1 11010048 33554432).isSome = true) (q : s.capUsed 0 + 1 ≤ (s.fnD 0).capQ) :
    (s.findCap 0 1).isSome = true := by
  rw [State.findCap, if_neg (by omega)]
  exact frameRun_isSome (near := false) (d := []) (by rw [if_neg (by decide)]; exact h)

/-- The state in which a move request is carried out. -/
def moveT (op va : Nat) : State := ((reqS 0x10 [op, va, 0, 0x160C00] tabS).ringTake 0x160400).wsReadyAll

/-- The request is carried out, and asks no peer. -/
def moves (s : State) (fn : Nat) (w : List Word) (op : Nat) : Prop := (s.moveReq fn w op).1.wants = [] ∧ (s.moveReq fn w op).2.isSome = true

/-- A request for a move up of 0x40000 is carried out. -/
theorem moveUp_found : moves (moveT 0 0x40000) 0 (reqW [0, 0x40000, 0, 0x160C00]) 0 := by
  unfold moves
  generalize hs : moveT 0 0x40000 = s
  have hl : s.leafAt { fn := 0, ctx := 0, space := 0, va := 0x40000 } = some (BitVec.ofNat 64 (11010048 * 2 ^ 22 + 0x113), 0x110020, 65536) := by
    subst hs; decide +kernel
  obtain ⟨f, hf⟩ := near_found (s := s) (by subst hs; decide +kernel)
  have hk : (s.fnD 0).kept = [0] := by subst hs; decide +kernel
  have hc : ((s.wsEntries 0 0).any fun e => wsLists e.2 0 0x40000) = true := by subst hs; decide +kernel
  have hw : s.walkOk { fn := 0, ctx := 0, space := 0, va := 0x40000 } = true := by subst hs; decide +kernel
  have ht : (tget s.ctxs (ctxKey 0 0)).isNone = false := by subst hs; decide +kernel
  have hn : s.wants = [] := by subst hs; decide +kernel
  have e : reqPage 0 (reqW [0, 0x40000, 0, 0x160C00]) = { fn := 0, ctx := 0, space := 0, va := 0x40000 }
      ∧ bits (pw (reqW [0, 0x40000, 0, 0x160C00]) 0) 63 13 = 0
      ∧ pw (reqW [0, 0x40000, 0, 0x160C00]) 2 = 0 ∧ reqOp (reqW [0, 0x40000, 0, 0x160C00]) = 0 := by decide
  have hp := pageUp_isSome (p := { fn := 0, ctx := 0, space := 0, va := 0x40000 }) hl (by rw [hk]; exact hf) none [] []
  have tier : leafTier (BitVec.ofNat 64 (11010048 * 2 ^ 22 + 0x113)) = 1 := by decide
  simp only [State.moveReq, e.1, e.2.1, e.2.2.1, e.2.2.2, hl, hc, hw, ht, tier, State.pageIn]
  rw [if_neg (by simp), if_neg (by decide)]
  exact ⟨hn, hp⟩

/-- So is one down of 0x30000. -/
theorem moveDown_found : moves (moveT 1 0x30000) 0 (reqW [1, 0x30000, 0, 0x160C00]) 1 := by
  unfold moves
  generalize hs : moveT 1 0x30000 = s
  have hl : s.leafAt { fn := 0, ctx := 0, space := 0, va := 0x30000 } = some (0xC00003, 0x110018, 65536) := by
    subst hs; decide +kernel
  have hf := cap_found (s := s) (by subst hs; decide +kernel) (by subst hs; decide +kernel)
  have hc : ((s.wsEntries 0 0).any fun e => wsLists e.2 0 0x30000) = true := by subst hs; decide +kernel
  have hw : s.walkOk { fn := 0, ctx := 0, space := 0, va := 0x30000 } = true := by subst hs; decide +kernel
  have ht : (tget s.ctxs (ctxKey 0 0)).isNone = false := by subst hs; decide +kernel
  have hn : s.wants = [] := by subst hs; decide +kernel
  have e : reqPage 0 (reqW [1, 0x30000, 0, 0x160C00]) = { fn := 0, ctx := 0, space := 0, va := 0x30000 }
      ∧ bits (pw (reqW [1, 0x30000, 0, 0x160C00]) 0) 63 13 = 0
      ∧ pw (reqW [1, 0x30000, 0, 0x160C00]) 2 = 0 ∧ reqOp (reqW [1, 0x30000, 0, 0x160C00]) = 1 := by decide
  have tier : leafTier (0xC00003 : Word) = 0 := by decide
  simp only [State.moveReq, e.1, e.2.1, e.2.2.1, e.2.2.2, hl, hc, hw, ht, tier, State.pageIn]
  rw [if_neg (by simp), if_neg (by decide)]
  refine ⟨hn, ?_⟩
  show (Option.map _ (s.findCap 0 (65536 / 65536))).isSome = true
  simpa using hf

/-- The state in which the listed move of 0x40000 is made. -/
def movedS : State :=
  let s := (moveS 0x40000 tabS).wsReadyAll.addEvacs none
  { s with moves := s.moves.filter fun x => decide (x.id ≠ 5) }

theorem test_meets_TRANSLATION_moves :
    (∀ n ∈ [0, 1], let w := [n, 0, 0, 0x160C00]
        pickReq (reqS 0x10 w tabS).moveReqs n 1 = some (0, 0x160400, reqW w)
          ∧ ((moveT n 0).moveReq 0 (reqW w) n).1.wants = [] ∧ ((moveT n 0).moveReq 0 (reqW w) n).2 = none)
      ∧ (∀ p ∈ [((0 : Nat), (0x40000 : Nat)), (1, 0x30000)], let w := [p.1, p.2, 0, 0x160C00]
        pickReq (reqS 0x10 w tabS).moveReqs p.1 1 = some (0, 0x160400, reqW w) ∧ moves (moveT p.1 p.2) 0 (reqW w) p.1)
      ∧ (∀ va ∈ [0x30000, 0x40000], ((moveS va tabS).wsReadyAll.addEvacs none).moves.find? (fun x => !x.stuck) = some (moveX va))
      ∧ ((moveS 0x30000 tabS).wsReadyAll.addEvacs none).moveLive (moveX 0x30000) = false
      ∧ (let s := (moveS 0x40000 tabS).wsReadyAll.addEvacs none
         let s1 := movedS
         let p : Page := { fn := 0, ctx := 0, space := 0, va := 0x40000 }
         let l := BitVec.ofNat 64 (11010048 * 2 ^ 22 + 0x113)
         s.moveLive (moveX 0x40000) = true ∧ (moveX 0x40000).page = p ∧ s1.leafAt p = some (l, 0x110020, 65536)
           ∧ s1.pageIn 0 0 l 65536 = (s1, some []) ∧ (s1.pageUp 0 p (s1.outgoingOf 0) (s1.fnD 0).skip []).1.isSome = true)
      ∧ (let s := ((moveS 0x40000 tabS).updFn 0 fun f => { f with count := 0 }).wsReadyAll.addEvacs none
         s.moveLive (moveX 0x40000) = true
           ∧ (({ s with moves := [] } : State).pageUp 0 { fn := 0, ctx := 0, space := 0, va := 0x40000 } (s.outgoingOf 0) (s.fnD 0).skip []).1
             = none) := by
  refine ⟨?_, ?_, by decide +kernel, by decide +kernel, ?_, by decide +kernel, by decide +kernel⟩
  · intro n h; fin_cases h <;> exact ⟨by decide +kernel, by decide +kernel, by decide +kernel⟩
  · intro p h; fin_cases h
    · exact ⟨by decide +kernel, moveUp_found⟩
    · exact ⟨by decide +kernel, moveDown_found⟩
  · refine ⟨by decide +kernel, rfl, by decide +kernel, ?_, ?_⟩
    · rw [State.pageIn, if_neg (by decide)]
    · generalize hs : movedS = s1
      have hl : s1.leafAt { fn := 0, ctx := 0, space := 0, va := 0x40000 }
          = some (BitVec.ofNat 64 (11010048 * 2 ^ 22 + 0x113), 0x110020, 65536) := by subst hs; decide +kernel
      obtain ⟨f, hf⟩ := near_found (s := s1) (by subst hs; decide +kernel)
      have hk : (s1.fnD 0).kept = [0] := by subst hs; decide +kernel
      exact pageUp_isSome hl (by rw [hk]; exact hf) _ _ _

/-- Functions 0 and 1 take turns on slice 0. -/
def tsS : State :=
  { (at_ g1) with fns := [0, 1].map fun n => (n, { count := 1, ts := true, resident := decide (n = 0), quantum := 5 }) }

theorem test_meets_TRANSLATION_time_slices :
    (let s := ({ tsS with launches := [], wgs := [] } : State).lookQueues
     (s.quantumOver.map Prod.fst) = some 0 ∧ tget s.fns 0 ≠ none ∧ s.nextMember 0 = none)
      ∧ (let s := tsS.lookQueues; (s.quantumOver.map Prod.fst) = some 0 ∧ s.nextMember 0 = some 0)
      ∧ (let s := ({ tsS with launches := [(1, { launchX with fn := 1 })] } : State).lookQueues
         (s.quantumOver.map Prod.fst) = some 0 ∧ s.nextMember 0 = some 1)
      ∧ (let w : Switch := { outgoing := 0, incoming := 1 }
         let s := ({ tsS with wgs := [], switches := [(0, w)] } : State).wsReadyAll
         s.switchReady = some (0, w) ∧ tget s.fns 1 ≠ none ∧ tget s.fns 0 ≠ none) := by
  refine ⟨⟨by decide +kernel, by decide, by decide +kernel⟩, ⟨by decide +kernel, by decide +kernel⟩, ⟨by decide +kernel, by decide +kernel⟩,
    by decide +kernel, by decide +kernel, by decide +kernel⟩

/-! ### Praline -/

/-- Core 0 on unit 0, at `age`, as `k`, its record as `w`. -/
def coreS (k : Core) (w : Wear) (age : Nat) (s : State := State.reset) : State :=
  { s with cores := [(0, { k with unit := some 0 })], wear := tset {} [] 0 w, age := age }

theorem test_meets_PRALINE_cores :
    (∀ n ∈ [0, 2, 3], let s := coreS {} { state := n } 60
        0 ∈ s.cores.map Prod.fst ∧ (s.coreD 0).unit = some 0 ∧ (s.wearD 0).state = n ∧ (s.coreD 0).restAt + 50 ≤ s.age)
      ∧ (∀ n ∈ [0, 3], let s := { coreS { point := 1, boostLeft := n } {} 60 with fns := [(0, { count := 12 })] }
        0 ∈ s.cores.map Prod.fst ∧ s.boostOver 0 = decide (n = 0))
      ∧ ((coreS { boostDue := true } {} 60).coreD 0).boostDue = true
      ∧ (∀ a ∈ [(99 : Nat), 100],
        let s := (coreS { retiring := true } {} a (at_ g1)).updCtx 0 0 fun c => { c with pbudget := 0 }
        (∀ g ∈ [1], ∀ x, s.grp? g = some x → (s.wgD x.wg).groups = [g] ∧ (s.ctxD (s.wgD x.wg).fn (s.wgD x.wg).ctx).pbudget = 0)
          ∧ s.groups.map Prod.fst = [1] ∧ (s.grp? 1).map (fun x => (x.core, x.phase, x.preempt, x.inPreempt)) = some (0, .resident, false, false)
          ∧ ∀ p ∈ s.cores, p.2.retiring = true ∧ (p.2.drainedAt + 100 ≤ s.age ↔ a = 100)) := by
  refine ⟨?_, ?_, rfl, ?_⟩
  · intro n h; fin_cases h <;> exact ⟨by decide, rfl, by decide, by decide⟩
  · intro n h; fin_cases h <;> exact ⟨by decide, by decide⟩
  · intro a h; fin_cases h <;> refine ⟨?_, by decide, by decide, by decide⟩ <;> intro g hg x hx <;> fin_cases hg <;> cases hx <;>
      exact ⟨by decide, by decide⟩

theorem test_meets_PRALINE_records :
    tget (at_ g1).fns 0 ≠ none ∧ (State.reset.wearD 3).low = false ∧ busOf 3 = none
      ∧ (coreS {} {} 0).coreOf 0 = some 0 ∧ (State.reset.wearD 0).hist = []
      ∧ (let s := coreS {} { hist := [(100, 0, 0)], bsu := 2000 } 0
         (s.wearD 0).hist = [(100, (s.wearD 0).hsu, (s.wearD 0).esu)] ∧ 100 < (s.wearD 0).bsu
           ∧ 0 ≤ (s.age / 3600000 : Nat) + (((lifeLimits 0).1 : Int) - (s.wearD 0).bsu) / (((s.wearD 0).bsu - 100 : Nat) : Int)
           ∧ (s.age / 3600000 : Nat) + (((lifeLimits 0).1 : Int) - (s.wearD 0).bsu) / (((s.wearD 0).bsu - 100 : Nat) : Int) < 2 ^ 32)
      ∧ (let s := { coreS {} { dying := true } 2000 with dev := .ready }
         s.age % 100 = 0 ∧ s.windowAge ≠ s.age ∧ s.ckptDue = true ∧ s.cores.map Prod.fst = [0] ∧ (s.coreD 0).unit = some 0
           ∧ (s.wearD 0).state ≤ 2 ∧ wornOut 0 (s.wearD 0) = true)
      ∧ (coreS {} {} 2001).windowDue = false ∧ (coreS {} {} 2001).ckptDue = false := by
  refine ⟨by decide, by decide, by decide, by decide, by decide, by decide, by decide +kernel, by decide +kernel, by decide +kernel⟩

theorem test_meets_PRALINE_buses :
    (let s := State.reset; s.vbOf 0 0 = .active ∧ s.spareBus 0 = some 64 ∧ s.vbOf 0 64 = .spare)
      ∧ (let s := { State.reset with vbs := (List.range 8).map fun i => (64 + i, VbState.active) }
         s.vbOf 0 0 = .active ∧ s.spareBus 0 = none)
      ∧ (∀ v ∈ [VbState.drain, .repair],
        let s := { State.reset with vbs := [(0, v)], repairs := [(0, 64)], owner := [(1, 0)] }
        s.vbOf 0 0 = v ∧ tget s.repairs (72 * 0 + 0) = some 64 ∧ ∀ o ∈ s.owner, s.onBus 0 0 o.1 = false) := by
  refine ⟨by decide +kernel, by decide +kernel, ?_⟩
  intro v h; fin_cases h <;> exact ⟨by decide, by decide, by decide +kernel⟩

/-! ### Management -/

/-- The request of words `w` at the head of the management ring, whose frame is world 0's. -/
def mgmtS (w : List Nat) (s : State) : State :=
  { ((s.wrBytes 0x160400 (ringBytes 8 0x160800 1 0)).wrBytes 0x160800 (w.flatMap fun x => toBytes 8 x)) with
    mgmt := 0x160400, owner := [(22, 0)], dev := .ready }
def hasReq (w : List Nat) (s : State) : Bool := decide ((mgmtS w s).mgmtHead = some (reqW w)) && !mBad (reqW w)

theorem test_meets_MANAGEMENT_taken :
    ∀ n ∈ [1, 2, 3, 4, 5, 6, 7, 8, 9, 10, 11, 12, 13, 14, 15],
      let w := [n + 2 ^ 30, 0, 0, 0, 0, 0, 0, 0]
      (mgmtS w State.reset).mgmtHead = some (reqW w) ∧ mBad (reqW w) = true ∧ mOp (reqW w) = n := by
  intro n h; fin_cases h <;> exact ⟨by decide +kernel, by decide, by decide⟩

/-- Functions 1, with slices 0 and 1, 2, with none, and 3, with slices 4 and 5; no worlds of 1 and 2. -/
def partS : State :=
  { State.reset with fns := [(0, {}), (1, { count := 2, copyQ := 9 }), (2, {}), (3, { first := 4, count := 2 })], worlds := [(5, { fn := 3, key := 0, meas := [] })] }

theorem test_meets_MANAGEMENT_partitions :
    -- PCREATE: of a function that holds slices, of a run that is none, of a free run
    (∀ p ∈ [((1 : Nat), (0x20 : Nat)), (2, 0x51), (2, 0x22)], hasReq [1 + 2 ^ 8 * p.1, p.2, 0, 0x160000, 0, 0, 0, 0] partS = true)
      ∧ (let w := [1 + 2 ^ 8 * 2, 0x22, 0, 0x160000, 0, 0, 0, 0]
         let s := mgmtS w partS
         (s.fnD 1).count ≠ 0 ∧ (s.fnD 2).count = 0 ∧ (s.ringTake s.mgmt.toNat).descOk (pw (reqW w) 3) = true ∧ legalRun 2 2 = true
           ∧ s.meets 2 2 2 = [] ∧ legalRun 1 5 = false)
      -- PRESIZE: of none, to none, to slices 0 to 3
      ∧ (∀ p ∈ [((2 : Nat), (0x40 : Nat)), (1, 0x50), (1, 0x40)], hasReq [2 + 2 ^ 8 * p.1, p.2, 0, 0, 0, 0, 0, 0] partS = true)
      ∧ (let s := mgmtS [2 + 2 ^ 8, 0x40, 0, 0, 0, 0, 0, 0] partS
         let s1 := s.ringTake s.mgmt.toNat
         legalRun 0 4 = true ∧ legalRun 0 5 = false ∧ s1.sharers 1 = [1] ∧ s1.coBlocks 1 0 4 = false ∧ s1.meets 0 4 1 = []
           ∧ s.meets 0 4 1 = [] ∧ ∀ d ∈ (s.fnD 1).slices, 0 ≤ d ∧ d < 0 + 4)
      -- PDESTROY: of none, with a world in the way, of a free one
      ∧ (∀ n ∈ [1, 2], hasReq [3 + 2 ^ 8 * n, 0, 0, 0, 0, 0, 0, 0] partS = true)
      ∧ partS.holdsWorld 1 = false ∧ ({ partS with worlds := [(5, { fn := 1, key := 0, meas := [] })] } : State).holdsWorld 1 = true
      -- QUOTA: of none, too much, enough
      ∧ (∀ p ∈ [((2 : Nat), (1 : Nat)), (1, 1), (3, 60)], hasReq [4 + 2 ^ 8 * p.1, p.2, 0, 0, 0, 0, 0, 0] partS = true)
      ∧ (let others (g : Func → Nat) : Nat := ((partS.fns.filter fun p => decide (p.1 ≠ 3)).map fun p => g p.2).sum; 64 < others Func.copyQ + 60)
      -- BUCKET and PDSET
      ∧ (∀ n ∈ [0, 1, 2, 3], hasReq [5 + 2 ^ 8, n, 4, 5, 0, 0, 0, 0] partS = true)
      ∧ hasReq [15 + 2 ^ 8, 0, 0, 0x160000, 0, 0, 0, 0] partS = true
      ∧ (let w := [15 + 2 ^ 8, 0, 0, 0x160000, 0, 0, 0, 0]
         let s := mgmtS w partS
         (s.fnD 1).pdesc = 0 ∧ (s.ringTake s.mgmt.toNat).descOk (pw (reqW w) 3) = true) := by
  refine ⟨?_, ⟨by decide, by decide, by decide +kernel, by decide, by decide +kernel, by decide⟩, ?_,
    ⟨by decide, by decide, by decide +kernel, by decide +kernel, by decide +kernel, by decide +kernel, by decide⟩, ?_, by decide, by decide, ?_,
    by decide, ?_, by decide +kernel, by decide, by decide +kernel⟩ <;>
    intro p h <;> fin_cases h <;> decide +kernel

/-- World 5 of function 1, with context 3 of world 5; world 6, with none. -/
def worldS : State :=
  { partS with
    worlds := [(5, { fn := 1, key := 0, meas := [] }), (6, { fn := 1, key := 0, meas := [] })]
    ctxs := [(ctxKey 1 3, { world := 5 })] }

theorem test_meets_MANAGEMENT_worlds :
    -- WCREATE and WDESTROY of world 0, of one that exists or not, of another function's, with a context and without
    (∀ p ∈ [((6 : Nat), (0 : Nat)), (6, 5), (6, 7), (7, 5), (7, 6), (7, 7)],
        hasReq [p.1 + 2 ^ 8 + 2 ^ 24 * p.2, 0, 0, 0, 0, 0, 0, 0] worldS = true)
      ∧ hasReq [7 + 2 ^ 9 + 2 ^ 24 * 6, 0, 0, 0, 0, 0, 0, 0] worldS = true
      ∧ (∃ c ∈ worldS.ctxs, c.2.world = 5) ∧ (∀ c ∈ worldS.ctxs, c.2.world ≠ 6) ∧ tget worldS.worlds 7 = none
      -- CCREATE of a context that exists, and of one at level 1
      ∧ (∀ n ∈ [3, 4], hasReq [8 + 2 ^ 8 + 2 ^ 16 * n + 2 ^ 24 * 5, 0x160C00, 0, 0, 0, 0, 0, 0] (worldS.wrBytes 0x160C30 (toBytes 8 2)) = true)
      ∧ (let w := [8 + 2 ^ 8 + 2 ^ 16 * 4 + 2 ^ 24 * 5, 0x160C00, 0, 0, 0, 0, 0, 0]
         let s := mgmtS w (worldS.wrBytes 0x160C30 (toBytes 8 2))
         let s1 := s.ringTake s.mgmt.toNat
         let d := s1.physWords 0x160C00 8
         tget s.ctxs (ctxKey 1 3) ≠ none ∧ tget s.ctxs (ctxKey 1 4) = none ∧ s1.descOk 0x160C00 = true ∧ (pw d 6).toNat / 2 % 4 < 2
           ∧ (pw d 6).toNat < 8 ∧ pw d 7 = 0 ∧ (pw d 4).toNat < 2 ^ 48)
      -- PBSET and BIAS
      ∧ (∀ n ∈ [3, 4], hasReq [14 + 2 ^ 8 + 2 ^ 16 * n, 7, 0, 0, 0, 0, 0, 0] worldS = true)
      ∧ (∀ a ∈ [1, 0x30000], hasReq [13, a, 2, 1, 0, 0, 0, 0] worldS = true) := by
  refine ⟨?_, by decide +kernel, by decide, by decide, by decide, ?_,
    ⟨by decide, by decide, by decide +kernel, by decide +kernel, by decide +kernel, by decide +kernel, by decide +kernel⟩, ?_, ?_⟩ <;>
    intro p h <;> fin_cases h <;> decide +kernel

/-- QRESET with no packet open and with one, CRESET and CDESTROY of a context that exists and of none, FLR; and rungs. -/
theorem test_meets_MANAGEMENT_ladder :
    (∀ p ∈ [((10 : Nat), (0 : Nat)), (11, 3), (9, 3), (11, 4), (9, 4), (12, 0)], hasReq [p.1 + 2 ^ 8 + 2 ^ 16 * p.2, 0, 0, 0, 0, 0, 0, 0] worldS = true)
      ∧ (let s := mgmtS [10 + 2 ^ 8, 0, 0, 0, 0, 0, 0, 0] worldS
         let v := (s.ringTake s.mgmt.toNat).queueReset 1 0
         v.rungs = [] ∧ v.pktBusy 1 0 = false)
      ∧ (let s := mgmtS [10 + 2 ^ 8, 0, 0, 0, 0, 0, 0, 0]
           { worldS with packets := [(7, { fn := 1, q := 0, ctx := 0, compl := 0, rel := 0, kind := 0, hword := 0, status := none })] }
         let v := (s.ringTake s.mgmt.toNat).queueReset 1 0
         v.rungs = [] ∧ v.pktBusy 1 0 = true)
      ∧ tget worldS.ctxs (ctxKey 1 4) = none ∧ tget worldS.ctxs (ctxKey 1 3) ≠ none
      ∧ (let s := mgmtS [11 + 2 ^ 8 + 2 ^ 16 * 3, 0, 0, 0, 0, 0, 0, 0] worldS
         let u := (s.ringTake s.mgmt.toNat).ctxReset 1 3
         u.rungs = [] ∧ u.ctxBusy 1 3 = false ∧ u.ctxPackets 1 3 true = false)
      ∧ worldS.fnBusy 1 = false ∧ (worldS.updFn 1 fun f => { f with resize := some (0, 1) }).fnBusy 1 = true
      ∧ ∀ n ∈ [0, 1, 2, 3], let r : Rung := { level := n, fn := 1, ctx := 3, q := 0, signal := 0 }
        ({ worldS with rungs := [r] } : State).rungs = r :: [] := by
  refine ⟨?_, by decide +kernel, by decide +kernel, by decide, by decide, by decide +kernel, by decide, by decide, ?_⟩
  · intro p h; fin_cases h <;> decide +kernel
  · intro n h; rfl

/-- Bytes in world 0's frame 1, in frame 2 of world 5, and a write of frame 1 when it is marked executable. -/
theorem test_meets_MANAGEMENT_host_and_loss :
    let s : State := { State.reset with owner := [(1, 0), (2, 5)] }
    let x := { s with markX := tput [] (markKey 0 1) true }
    (∀ f ∈ rangeFrames 0x10000 4, s.ownerOf f = 0 ∧ s.markedX f = false ∧ s.frameLost (if s.homeOf f < 768 then 0 else 1) f = false)
      ∧ s.physErr (128 * 512) = none ∧ ({ s with badMac := [512] } : State).physErr (128 * 512) ≠ none ∧ (∃ f ∈ rangeFrames 0x20000 4, ¬ (s.ownerOf f = 0 ∨ s.ownerOf f = 64))
      ∧ (∃ f ∈ rangeFrames 0x10000 4, x.markedX f = true)
      ∧ 3 ∉ s.lostDies ∧ ((at_ g1).ctxD 0 0).tdmask.getLsbD 12 = true ∧ tget (at_ g1).ctxs 0 ≠ none := by
  refine ⟨by decide +kernel, by decide +kernel, by decide +kernel, by decide +kernel, by decide, by decide, by decide⟩

/-! ### Bring-up, power, attestation, registers -/

/-- A checkpoint with a valid digest. -/
def ckptX (o : Bool) : Checkpoint :=
  let c : Checkpoint := { seq := 1, orderly := o, age := 9, targeth := 50000, bresv := [], wear := [], digest := 0 }
  { c with digest := c.sum }

/-- The digest does not cover itself. -/
theorem sum_digest (c : Checkpoint) (d : BitVec 512) : ({ c with digest := d } : Checkpoint).sum = c.sum := rfl

theorem ckptX_sum (o : Bool) : (ckptX o).digest = (ckptX o).sum :=
  (sum_digest { seq := 1, orderly := o, age := 9, targeth := 50000, bresv := [], wear := [], digest := 0 } _).symm

/-- The one copy, where its digest is valid, is the newest. -/
theorem newest_one {s : State} {c : Checkpoint} (ha : s.ckptA = some c) (hb : s.ckptB = none) (h : c.digest = c.sum) :
    s.newest = some c := by
  simp [State.newest, okCopy, ha, hb, Option.filter, h]

theorem test_meets_BRINGUP :
    (∀ d ∈ [DevState.reset, .boot, .recovery, .calibrate, .zeroing], ({ State.reset with dev := d } : State).dev = d)
      ∧ (∀ v ∈ [VbState.spare, .active], let s := { State.reset with dev := .calibrate, vbs := (List.range 8).map fun i => (64 + i, v) }
        s.spareBus 0 = if v = .spare then some 64 else none)
      ∧ (∀ n ∈ [none, some true, some false], let s : State := { at_ g1 with dev := .zeroing }
        tget s.fns 0 ≠ none ∧ ({ s with ckptA := n.map ckptX, ckptB := none } : State).newest = n.map ckptX) := by
  refine ⟨?_, ?_, ?_⟩
  · intro d h; fin_cases h <;> rfl
  · intro v h; fin_cases h <;> decide +kernel
  · intro n h; fin_cases h
    · exact ⟨by decide, rfl⟩
    · exact ⟨by decide, newest_one rfl rfl (ckptX_sum _)⟩
    · exact ⟨by decide, newest_one rfl rfl (ckptX_sum _)⟩

theorem test_meets_ATTESTATION_AND_REGISTERS :
    (let s : State := { at_ g1 with worlds := [(0, { fn := 0, key := 0, meas := [] })], att := { world := 0, buf := 0x3000 } }
     s.att.busy = false ∧ tget s.worlds s.att.world ≠ none ∧ s.att.buf.toNat % 4096 = 0 ∧ tget s.fns 0 ≠ none)
      ∧ (({ State.reset with att := { busy := true } } : State).att.busy = true ∧ tget State.reset.worlds State.reset.att.world = none)
      ∧ (let s : State := { at_ g1 with worlds := [(0, { fn := 0, key := 0, meas := [] })], att := { world := 0, buf := 0x3001 } }
         s.att.busy = false ∧ tget s.worlds s.att.world ≠ none ∧ s.att.buf.toNat % 4096 ≠ 0)
      ∧ State.reset.mgmtEmpty = true ∧ (mgmtS [1, 0, 0, 0, 0, 0, 0, 0] State.reset).mgmtEmpty = false
      ∧ (∀ b : Bool, let s := partS.updQueue 1 63 fun k => { k with en := b }
          tget s.fns 1 ≠ none ∧ (s.queueD 1 63).en = b) := by
  refine ⟨⟨rfl, by decide, by decide, by decide⟩, ⟨rfl, by decide⟩, ⟨rfl, by decide, by decide⟩, by decide +kernel, by decide +kernel, ?_⟩
  intro b; cases b <;> exact ⟨by decide, by decide⟩

/-! ### The fabric -/

/-- Link 0 as `l`. -/
def linkS (l : Link) : State := { State.reset with links := [(0, l)] }
/-- Up on both banks, expecting flit 7, with flits 3 and 4 not acknowledged. -/
def linkUp : Link :=
  { st := 2, groups := 3, avail := 0xF, expect := 7, sendSeq := 5
    unacked := [{ seq := 3, ack := 0, kind := 0, payload := [], verifies := true }, { seq := 4, ack := 0, kind := 0, payload := [], verifies := true }] }

theorem test_meets_FABRIC_links :
    (∀ i < 64, ((linkS {}).linkD i).st ≠ 2) ∧ (∃ i < 64, ((linkS linkUp).linkD i).st = 2)
      ∧ (let l := (linkS { st := 1, avail := 0xF }).linkD 0; l.st = 1 ∧ (0x3 : BitVec 4) &&& l.avail ≠ 0)
      ∧ (let l := (linkS linkUp).linkD 0
         l.st = 2 ∧ l.groups &&& ~~~((l.dark ||| 1) &&& l.groups) ≠ 0 ∧ l.groups &&& ~~~((l.dark ||| 3) &&& l.groups) = 0)
      ∧ (let l := (linkS { linkUp with dark := 1 }).linkD 0; l.st = 2 ∧ l.dark ≠ 0) := by
  refine ⟨by decide +kernel, ⟨0, by decide, by decide⟩, by decide, by decide, by decide⟩

/-- The flit expected, one had before, one ahead and one that does not verify; a NAK of flit 4, and of one not sent. -/
theorem test_meets_FABRIC_flits :
    let l := (linkS linkUp).linkD 0
    l.st = 2 ∧ l.toSend = [] ∧ l.nakSent = false ∧ l.unacked.length < 512
      ∧ (∀ p ∈ [((7 : BitVec 16), (0 : Nat)), (9, 2), (6, 65535)], (p.1 - l.expect).toNat = p.2)
      ∧ (let again (q : BitVec 16) := l.unacked.filter fun u => decide ((u.seq - q).toNat < 32768)
         again 4 ≠ [] ∧ again 5 = [] ∧ ¬ (l.restriped = true ∧ 16 ≤ (if l.nakSeq = 4 then l.replays + 1 else 1)))
      ∧ (let k : Link := { linkUp with restriped := true, nakSeq := 4, replays := 15 }; k.restriped = true ∧ 16 ≤ (if k.nakSeq = 4 then k.replays + 1 else 1)) := by
  decide +kernel

/-- A peer's load of 8 bytes that group 1 waits for, and a store of a copy. -/
def loadOut : PeerOut :=
  { id := 6, msg := { peer := 2, pa := 0x30000, n := 8, kind := 0 }, links := 1, grp := 1, pend := 4, reg := some (.s 2), w := 64 }
theorem test_meets_FABRIC_peers :
    (let s : State := { State.reset with owner := [(2, 5)] }
     let req (op : Nat) (data : List Byte) : PeerReq :=
       { id := 9, world := 5, pa := 0x20000, op := op, sub := 0, ty := 0, data := data, cmp := [], peer := 7 }
     peerKey 7 9 ∉ s.peerIn
       ∧ (∀ r ∈ [req 0 [0, 0], req 1 [1], req 2 [1], req 3 [1], req 4 (toBytes 16 (0x20040 * 2 ^ 64))],
         ((s.peerSpans r).flatMap spanFrames).all (fun f => decide (s.ownerOf f = 5)) = true
           ∧ ∀ l ∈ (s.peerSpans r).flatMap spanLines, (s.takeOwners 5 false ((s.peerSpans r).flatMap spanFrames)).1.physErr (128 * l) = none)
       ∧ (toBytes 16 (0x20040 * 2 ^ 64)).take 8 = toBytes 4 (s.rcb 0x20000).pidx ++ toBytes 4 (s.rcb 0x20000).cidx
       ∧ s.ownerOf 2 ≠ 255 ∧ s.ownerOf 2 ≠ 3 ∧ s.ownerOf 2 ≠ 64
       ∧ ({ s with badMac := [0x20000 / 128] } : State).physErr 0x20000 ≠ none)
      ∧ (let o := copyX (wa 64) 0 0
         let out : PeerOut := { id := 6, msg := { peer := 2, pa := 0x30000, n := 8, kind := 1 }, links := 1, op := 3 }
         let s : State := { opS o with peerOut := [out] }
         s.peerOut.find? (fun p => decide (p.id = 6)) = some out ∧ out.asker = .none ∧ out.op ≠ 0 ∧ out.msg.kind = 1 ∧ tget s.ops out.op = some o ∧ o.isCopy = true)
      ∧ (let x : Group := { g1 with pend := [{ id := 4, tok := 0, ready := false, writes := [.scalar (.s 2) 0] }] }
         let s : State := { at_ x with peerOut := [loadOut] }
         s.peerOut.find? (fun p => decide (p.id = 6)) = some loadOut ∧ loadOut.asker = .none ∧ loadOut.op = 0 ∧ loadOut.grp ≠ 0 ∧ loadOut.pend ≠ 0 ∧ s.grp? loadOut.grp = some x ∧ x.snap = none
           ∧ loadOut.reg = some (.s 2) ∧ loadOut.w = 64 ∧ loadOut.sgn = false ∧ (∀ p ∈ s.peerOut, p.id ≠ 6 → p.grp ≠ 1)) := by
  refine ⟨⟨by decide, ?_, by decide +kernel, by decide, by decide, by decide, by decide +kernel⟩, by decide +kernel,
    ⟨rfl, rfl, rfl, by decide, by decide, rfl, rfl, rfl, rfl, rfl, by decide⟩⟩
  intro r h; fin_cases h <;> exact ⟨by decide +kernel, by decide +kernel⟩

/-- R194: an error response of a peer leaves the register, and MEM_ERROR is to come. -/
theorem test_peer_error_response :
    (match execPeerResponseArrive 6 none { at_ { g1 with pend := [{ id := 4, tok := 0, ready := false, writes := [.scalar (.s 2) 0] }] }
        with peerOut := [loadOut] } with
      | .next t => (t.grp? 1).map fun x => (x.pend.map fun p => p.writes.length, x.delayed.map fun d => d.cause)
      | _ => none) = some ([0], [12]) := by decide +kernel

/-- FIPS 197, Appendix C.3. -/
theorem test_aes256 : aes256 0x000102030405060708090a0b0c0d0e0f101112131415161718191a1b1c1d1e1f 0x00112233445566778899aabbccddeeff
    = 0x8ea2b7ca516745bfeafc49904b496089 := by decide +kernel

/-- The check value of the CRC-32 of IEEE 802.3 over the digits 1 to 9. -/
theorem test_crc32 : crc32 ((List.range 9).map fun i => BitVec.ofNat 8 (0x31 + i)) = 0xCBF43926 := by decide +kernel

/-- R429: on 12 wavelengths a flit's 16 beats end on the fourth, so the next flit starts on the fifth, here λ8. -/
theorem test_beats : waveOf 0xD 0 = some 0 ∧ waveOf 0xD 15 = some 3 ∧ waveOf 0xD 16 = some 8 ∧ waveOf 0xF 16 = some 0 := by decide

/-- R430, R435: the answer to a peer leaves on a link that reaches it, and on another when that one is lost. -/
theorem test_answer_resent :
    let s : State := { State.reset with owner := [(2, 5)], routes := [(7, 3)], links := [(0, { st := 2, groups := 15 }), (1, { st := 2, groups := 15 })] }
    let r : PeerReq := { id := 9, world := 5, pa := 0x20000, op := 0, sub := 0, ty := 0, data := [0, 0], cmp := [], peer := 7 }
    (match execPeerRequestArrive r s with
      | .next t => ((t.linkD 0).unacked.length + (t.linkD 1).unacked.length,
          ((t.loseLink 0).loseLink 1).peerAns.map fun a => a.2.link,
          ((t.loseLink 0).linkD 1).unacked.length)
      | _ => (0, [], 0)) = (1, [none], 1) := by decide +kernel

/-! ### Conditions of several statements on peers, buckets and places -/

/-- A header, and a slot that is none, where RTT and RTT.next return. -/
theorem test_meets_TRAP_AND_RETURN_RESULTS_headers :
    ∀ p ∈ [((0x10010 : Nat), ({} : Slot)), (0x10020, { sub := 1 })],
      let pc : Word := BitVec.ofNat 64 p.1
      let fetch (bits : Nat) :=
        let i := ((at_ gTrap).wrBytes p.1 (toBytes 16 bits)).atIssue p.2
        (i.wants, (i.leaveTrap i.cur pc).fetchSlot i.cur pc)
      { gTrap with pc := pc, block := gTrap.savedBlock }.inBlock = true
        ∧ (fetch hdr.toNat).2.2 = .ok hdr ∧ (fetch hdr.toNat).2.1.wants = (fetch hdr.toNat).1 ∧ hdr.extractLsb' 0 8 = 0
        ∧ (fetch 1).2.2 = .ok (1 : BitVec 128) ∧ (fetch 1).2.1.wants = (fetch 1).1 := by
  intro p h; fin_cases h <;> exact ⟨by decide, by decide +kernel, by decide +kernel, by decide, by decide +kernel, by decide +kernel⟩

theorem test_meets_peers_answered :
    ((at_ gPre).atIssue {}).peerQuiet (at_ gPre).cur = true
      ∧ (at_ g1).midway (.grp 1 g1.pc) = false ∧ preS.midway (.grp 1 gRun.pc) = false
      ∧ (∀ h ∈ ((at_ g1).wgD 1).groups, h = 1)
      ∧ (∀ x ∈ [{ g1 with preempt := true }, { gTrap with preempt := true, inPreempt := true }], (at_ x).peerQuiet 1 = true)
      ∧ (let x := { g1 with sregs := [(2, 5)] }; let sl : Slot := { d := 0x281, a := 0x212 }
         ((heldS x).atIssue sl).peerQuiet (heldS x).cur = true)
      ∧ (let x := { g1 with sregs := [(2, 0x20000), (3, 256)] }
         let sm : Slot := { d := 0x281, a := 0x212, b := 0x213 }
         let i := (measS x).atIssue sm
         let v := i.viewOf (measS x).cur
         i.egressLow v 0x20000 = false ∧ i.peerQuiet (measS x).cur = true
           ∧ (match i.measCheck v (0x20000 + 256) 4 0x20000 with
             | (u, .ok ps) => isOk (((u.account v true false (ps.map Prod.fst)).acquire v.core 3).measRead v ps).2
             | _ => false) = true)
      ∧ (let o := copyX (wa 64) 0 0; let s := opS o
         (s.wgD o.wg).resident = true ∧ o.redo = [] ∧ s.copyHeld o = false ∧ s.scatHeld 3 o 0 = false)
      ∧ (let o := collX 1 false
         o.peers.length = 1 + 1 ∧ (opS o).collNext 3 o = true
           ∧ { o with contrib := tput o.contrib (1024 * 0 + 1) [] } ≠ o ∧ (1 : Nat) < 1024 ∧ 0 < o.dstLines (opS o).selfid.toNat)
      ∧ roleGroups descX.roles = [(0, 0, { entry := 0x30000, gran := 1, scnt := 8, groups := 1 })] := by
  refine ⟨by decide +kernel, by decide +kernel, by decide +kernel, by decide, by decide +kernel, by decide +kernel,
    ⟨by decide +kernel, by decide +kernel, by decide +kernel⟩, by decide +kernel, by decide +kernel, by decide +kernel⟩

/-- A bus that carried bytes of the die, and one that fails with a spare and without. -/
theorem test_meets_BRINGUP_buses :
    let s : State := { State.reset with dev := .calibrate }
    (∃ k < 64, s.busNow 0 9 k = 0) ∧ s.spareBus 0 = some 64 ∧ (64 : Nat) ≠ 0
      ∧ ({ s with flash := some [] } : State).flash ≠ none := by
  refine ⟨⟨0, by decide, by decide +kernel⟩, by decide +kernel, by decide, by decide⟩

/-! ### Written-out words: one for every opcode, from Tables 3.1 and 3.6 -/

theorem test_decode_row_0 :
    decodeTableWord 128 0x5F123456780912640EAB5503E8492801
      = some (.nop { sub := 8, ty := 0x12, d := 0x212, a := 0x3e, b := 0x154, c := 0x2ab, e := 0x103, sg := 6, lg := 2, md := 1, scp := 1, ch := 1, imm := 0x2468acf0, stall := 0xe, yld := 1, tset := 1, twait := 1 })
    ∧ decodeTableWord 128 0xA69B4E81B41223541AA855C3D84D9D02
      = some (.bra { sub := 0xd, ty := 0x19, d := 0x213, a := 0x3d, b := 0x157, c := 0x2a8, e := 0x106, sg := 5, lg := 3, md := 2, scp := 2, ch := 2, imm := 0x369d0368, stall := 0xd, tset := 2, twait := 2 })
    ∧ decodeTableWord 128 0xCE2468ACF01B344426A95583C8520203
      = some (.brx { sub := 2, ty := 0x20, d := 0x214, a := 0x3c, b := 0x156, c := 0x2a9, e := 0x109, sg := 4, lg := 4, md := 3, scp := 3, ch := 3, imm := 0x48d159e0, stall := 0xc, yld := 1, twait := 3 })
    ∧ decodeTableWord 128 0x15AD82D82C04453432AE5443B8567704
      = some (.call { sub := 7, ty := 0x27, d := 0x215, a := 0x3b, b := 0x151, c := 0x2ae, e := 0x10c, sg := 3, lg := 5, md := 4, scp := 4, imm := 0x5b05b058, stall := 0xb, tset := 1 })
    ∧ decodeTableWord 128 0x6D369D03680856243EAF5403A85AEC05
      = some (.callx { sub := 0xc, ty := 0x2e, d := 0x216, a := 0x3a, b := 0x150, c := 0x2af, e := 0x10f, sg := 2, lg := 6, md := 5, ch := 1, imm := 0x6d3a06d0, stall := 0xa, yld := 1, tset := 2, twait := 1 })
    ∧ decodeTableWord 128 0x84BFB72EA41167144AAC54C3985F5106
      = some (.loop { sub := 1, ty := 0x35, d := 0x217, a := 0x39, b := 0x153, c := 0x2ac, e := 0x112, sg := 1, lg := 7, md := 6, scp := 1, ch := 2, imm := 0x7f6e5d48, stall := 9, twait := 2 })
    ∧ decodeTableWord 128 0xDC48D159E01A717456AD54838863C607
      = some (.brany { sub := 6, ty := 0x3c, d := 0x218, a := 0x38, b := 0x152, c := 0x2ad, e := 0x115, sg := 7, lg := 1, md := 7, scp := 2, ch := 3, imm := 0x91a2b3c0, stall := 8, yld := 1, tset := 1, twait := 3 })
    ∧ decodeTableWord 128 0x23D1EB851C03826462A2574378643B08
      = some (.brall { sub := 0xb, ty := 3, d := 0x219, a := 0x37, b := 0x15d, c := 0x2a2, e := 0x118, sg := 6, lg := 2, md := 8, scp := 3, imm := 0xa3d70a38, stall := 7, tset := 2 })
    ∧ decodeTableWord 128 0x4B5B05B0580C93546EA357036868A009
      = some (.exit { ty := 0xa, d := 0x21a, a := 0x36, b := 0x15c, c := 0x2a3, e := 0x11b, sg := 5, lg := 3, md := 9, scp := 4, ch := 1, imm := 0xb60b60b0, stall := 6, yld := 1, twait := 1 })
    ∧ decodeTableWord 128 0x92E41FDB9410A4447AA057C3586D150A
      = some (.lexit { sub := 5, ty := 0x11, d := 0x21b, a := 0x35, b := 0x15f, c := 0x2a0, e := 0x11e, sg := 4, lg := 4, md := 0xa, ch := 2, imm := 0xc83fb728, stall := 5, tset := 1, twait := 2 })
    ∧ decodeTableWord 128 0xEA6D3A06D019B53486A1578348718A0B
      = some (.yield { sub := 0xa, ty := 0x18, d := 0x21c, a := 0x34, b := 0x15e, c := 0x2a1, e := 0x121, sg := 3, lg := 5, md := 0xb, scp := 1, ch := 3, imm := 0xda740da0, stall := 4, yld := 1, tset := 2, twait := 3 })
    ∧ decodeTableWord 128 0x01F654320C02C62492A656433875FF0C
      = some (.mpush { sub := 0xf, ty := 0x1f, d := 0x21d, a := 0x33, b := 0x159, c := 0x2a6, e := 0x124, sg := 2, lg := 6, md := 0xc, scp := 2, imm := 0xeca86418, stall := 3 })
    ∧ decodeTableWord 128 0x597F6E5D480BD7149EA75603287A640D
      = some (.melse { sub := 4, ty := 0x26, d := 0x21e, a := 0x32, b := 0x158, c := 0x2a7, e := 0x127, sg := 1, lg := 7, md := 0xd, scp := 3, ch := 1, imm := 0xfedcba90, stall := 2, yld := 1, tset := 1, twait := 1 })
    ∧ decodeTableWord 128 0xA08888888414E174AAA456C3187ED90E
      = some (.mpop { sub := 9, ty := 0x2d, d := 0x21f, a := 0x31, b := 0x15b, c := 0x2a4, e := 0x12a, sg := 7, lg := 1, md := 0xe, scp := 4, ch := 2, imm := 0x11111108, stall := 1, tset := 2, twait := 2 })
    ∧ decodeTableWord 128 0xC811A2B3C018F264B6A5568308834E0F
      = some (.mget { sub := 0xe, ty := 0x34, d := 0x220, a := 0x30, b := 0x15a, c := 0x2a5, e := 0x12d, sg := 6, lg := 2, md := 0xf, ch := 3, imm := 0x23456780, yld := 1, twait := 3 }) := by decide +kernel

theorem test_decode_row_1 :
    decodeTableWord 128 0x07891A2B3C00017402AA5543F844B310
      = some (.mset { sub := 3, ty := 0xb, d := 0x211, a := 0x3f, b := 0x155, c := 0x2aa, e := 0x100, sg := 7, lg := 1, imm := 0x12345678, stall := 0xf })
    ∧ decodeTableWord 128 0x5F123456780912640EAB5503E8492811
      = some (.setfmt { sub := 8, ty := 0x12, d := 0x212, a := 0x3e, b := 0x154, c := 0x2ab, e := 0x103, sg := 6, lg := 2, md := 1, scp := 1, ch := 1, imm := 0x2468acf0, stall := 0xe, yld := 1, tset := 1, twait := 1 })
    ∧ decodeTableWord 128 0xA69B4E81B41223541AA855C3D84D9D12
      = some (.getfmt { sub := 0xd, ty := 0x19, d := 0x213, a := 0x3d, b := 0x157, c := 0x2a8, e := 0x106, sg := 5, lg := 3, md := 2, scp := 2, ch := 2, imm := 0x369d0368, stall := 0xd, tset := 2, twait := 2 }) := by decide +kernel

theorem test_decode_row_2 :
    decodeTableWord 128 0x07891A2B3C00017402AA5543F844B320
      = some (.sadd { sub := 3, ty := 0xb, d := 0x211, a := 0x3f, b := 0x155, c := 0x2aa, e := 0x100, sg := 7, lg := 1, imm := 0x12345678, stall := 0xf })
    ∧ decodeTableWord 128 0x5F123456780912640EAB5503E8492821
      = some (.ssub { sub := 8, ty := 0x12, d := 0x212, a := 0x3e, b := 0x154, c := 0x2ab, e := 0x103, sg := 6, lg := 2, md := 1, scp := 1, ch := 1, imm := 0x2468acf0, stall := 0xe, yld := 1, tset := 1, twait := 1 })
    ∧ decodeTableWord 128 0xA69B4E81B41223541AA855C3D84D9D22
      = some (.smul { sub := 0xd, ty := 0x19, d := 0x213, a := 0x3d, b := 0x157, c := 0x2a8, e := 0x106, sg := 5, lg := 3, md := 2, scp := 2, ch := 2, imm := 0x369d0368, stall := 0xd, tset := 2, twait := 2 })
    ∧ decodeTableWord 128 0xCE2468ACF01B344426A95583C8520223
      = some (.smulh { sub := 2, ty := 0x20, d := 0x214, a := 0x3c, b := 0x156, c := 0x2a9, e := 0x109, sg := 4, lg := 4, md := 3, scp := 3, ch := 3, imm := 0x48d159e0, stall := 0xc, yld := 1, twait := 3 })
    ∧ decodeTableWord 128 0x15AD82D82C04453432AE5443B8567724
      = some (.sdiv { sub := 7, ty := 0x27, d := 0x215, a := 0x3b, b := 0x151, c := 0x2ae, e := 0x10c, sg := 3, lg := 5, md := 4, scp := 4, imm := 0x5b05b058, stall := 0xb, tset := 1 })
    ∧ decodeTableWord 128 0x6D369D03680856243EAF5403A85AEC25
      = some (.srem { sub := 0xc, ty := 0x2e, d := 0x216, a := 0x3a, b := 0x150, c := 0x2af, e := 0x10f, sg := 2, lg := 6, md := 5, ch := 1, imm := 0x6d3a06d0, stall := 0xa, yld := 1, tset := 2, twait := 1 })
    ∧ decodeTableWord 128 0x84BFB72EA41167144AAC54C3985F5126
      = some (.sand { sub := 1, ty := 0x35, d := 0x217, a := 0x39, b := 0x153, c := 0x2ac, e := 0x112, sg := 1, lg := 7, md := 6, scp := 1, ch := 2, imm := 0x7f6e5d48, stall := 9, twait := 2 })
    ∧ decodeTableWord 128 0xDC48D159E01A717456AD54838863C627
      = some (.sor { sub := 6, ty := 0x3c, d := 0x218, a := 0x38, b := 0x152, c := 0x2ad, e := 0x115, sg := 7, lg := 1, md := 7, scp := 2, ch := 3, imm := 0x91a2b3c0, stall := 8, yld := 1, tset := 1, twait := 3 })
    ∧ decodeTableWord 128 0x23D1EB851C03826462A2574378643B28
      = some (.sxor { sub := 0xb, ty := 3, d := 0x219, a := 0x37, b := 0x15d, c := 0x2a2, e := 0x118, sg := 6, lg := 2, md := 8, scp := 3, imm := 0xa3d70a38, stall := 7, tset := 2 })
    ∧ decodeTableWord 128 0x4B5B05B0580C93546EA357036868A029
      = some (.sandn { ty := 0xa, d := 0x21a, a := 0x36, b := 0x15c, c := 0x2a3, e := 0x11b, sg := 5, lg := 3, md := 9, scp := 4, ch := 1, imm := 0xb60b60b0, stall := 6, yld := 1, twait := 1 })
    ∧ decodeTableWord 128 0x92E41FDB9410A4447AA057C3586D152A
      = some (.sshl { sub := 5, ty := 0x11, d := 0x21b, a := 0x35, b := 0x15f, c := 0x2a0, e := 0x11e, sg := 4, lg := 4, md := 0xa, ch := 2, imm := 0xc83fb728, stall := 5, tset := 1, twait := 2 })
    ∧ decodeTableWord 128 0xEA6D3A06D019B53486A1578348718A2B
      = some (.sshr { sub := 0xa, ty := 0x18, d := 0x21c, a := 0x34, b := 0x15e, c := 0x2a1, e := 0x121, sg := 3, lg := 5, md := 0xb, scp := 1, ch := 3, imm := 0xda740da0, stall := 4, yld := 1, tset := 2, twait := 3 })
    ∧ decodeTableWord 128 0x01F654320C02C62492A656433875FF2C
      = some (.ssar { sub := 0xf, ty := 0x1f, d := 0x21d, a := 0x33, b := 0x159, c := 0x2a6, e := 0x124, sg := 2, lg := 6, md := 0xc, scp := 2, imm := 0xeca86418, stall := 3 })
    ∧ decodeTableWord 128 0x597F6E5D480BD7149EA75603287A642D
      = some (.srot { sub := 4, ty := 0x26, d := 0x21e, a := 0x32, b := 0x158, c := 0x2a7, e := 0x127, sg := 1, lg := 7, md := 0xd, scp := 3, ch := 1, imm := 0xfedcba90, stall := 2, yld := 1, tset := 1, twait := 1 })
    ∧ decodeTableWord 128 0xA08888888414E174AAA456C3187ED92E
      = some (.smin { sub := 9, ty := 0x2d, d := 0x21f, a := 0x31, b := 0x15b, c := 0x2a4, e := 0x12a, sg := 7, lg := 1, md := 0xe, scp := 4, ch := 2, imm := 0x11111108, stall := 1, tset := 2, twait := 2 })
    ∧ decodeTableWord 128 0xC811A2B3C018F264B6A5568308834E2F
      = some (.smax { sub := 0xe, ty := 0x34, d := 0x220, a := 0x30, b := 0x15a, c := 0x2a5, e := 0x12d, sg := 6, lg := 2, md := 0xf, ch := 3, imm := 0x23456780, yld := 1, twait := 3 }) := by decide +kernel

theorem test_decode_row_3 :
    decodeTableWord 128 0x07891A2B3C00017402AA5543F844B330
      = some (.scmp { sub := 3, ty := 0xb, d := 0x211, a := 0x3f, b := 0x155, c := 0x2aa, e := 0x100, sg := 7, lg := 1, imm := 0x12345678, stall := 0xf })
    ∧ decodeTableWord 128 0x5F123456780912640EAB5503E8492831
      = some (.ssel { sub := 8, ty := 0x12, d := 0x212, a := 0x3e, b := 0x154, c := 0x2ab, e := 0x103, sg := 6, lg := 2, md := 1, scp := 1, ch := 1, imm := 0x2468acf0, stall := 0xe, yld := 1, tset := 1, twait := 1 })
    ∧ decodeTableWord 128 0xA69B4E81B41223541AA855C3D84D9D32
      = some (.smov { sub := 0xd, ty := 0x19, d := 0x213, a := 0x3d, b := 0x157, c := 0x2a8, e := 0x106, sg := 5, lg := 3, md := 2, scp := 2, ch := 2, imm := 0x369d0368, stall := 0xd, tset := 2, twait := 2 })
    ∧ decodeTableWord 128 0xCE2468ACF01B344426A95583C8520233
      = some (.spopc { sub := 2, ty := 0x20, d := 0x214, a := 0x3c, b := 0x156, c := 0x2a9, e := 0x109, sg := 4, lg := 4, md := 3, scp := 3, ch := 3, imm := 0x48d159e0, stall := 0xc, yld := 1, twait := 3 })
    ∧ decodeTableWord 128 0x15AD82D82C04453432AE5443B8567734
      = some (.sclz { sub := 7, ty := 0x27, d := 0x215, a := 0x3b, b := 0x151, c := 0x2ae, e := 0x10c, sg := 3, lg := 5, md := 4, scp := 4, imm := 0x5b05b058, stall := 0xb, tset := 1 })
    ∧ decodeTableWord 128 0x6D369D03680856243EAF5403A85AEC35
      = some (.sctz { sub := 0xc, ty := 0x2e, d := 0x216, a := 0x3a, b := 0x150, c := 0x2af, e := 0x10f, sg := 2, lg := 6, md := 5, ch := 1, imm := 0x6d3a06d0, stall := 0xa, yld := 1, tset := 2, twait := 1 })
    ∧ decodeTableWord 128 0x84BFB72EA41167144AAC54C3985F5136
      = some (.sbfe { sub := 1, ty := 0x35, d := 0x217, a := 0x39, b := 0x153, c := 0x2ac, e := 0x112, sg := 1, lg := 7, md := 6, scp := 1, ch := 2, imm := 0x7f6e5d48, stall := 9, twait := 2 })
    ∧ decodeTableWord 128 0xDC48D159E01A717456AD54838863C637
      = some (.sbfi { sub := 6, ty := 0x3c, d := 0x218, a := 0x38, b := 0x152, c := 0x2ad, e := 0x115, sg := 7, lg := 1, md := 7, scp := 2, ch := 3, imm := 0x91a2b3c0, stall := 8, yld := 1, tset := 1, twait := 3 })
    ∧ decodeTableWord 128 0x23D1EB851C03826462A2574378643B38
      = some (.slea { sub := 0xb, ty := 3, d := 0x219, a := 0x37, b := 0x15d, c := 0x2a2, e := 0x118, sg := 6, lg := 2, md := 8, scp := 3, imm := 0xa3d70a38, stall := 7, tset := 2 })
    ∧ decodeTableWord 128 0x4B5B05B0580C93546EA357036868A039
      = some (.plop { ty := 0xa, d := 0x21a, a := 0x36, b := 0x15c, c := 0x2a3, e := 0x11b, sg := 5, lg := 3, md := 9, scp := 4, ch := 1, imm := 0xb60b60b0, stall := 6, yld := 1, twait := 1 })
    ∧ decodeTableWord 128 0x92E41FDB9410A4447AA057C3586D153A
      = some (.sabs { sub := 5, ty := 0x11, d := 0x21b, a := 0x35, b := 0x15f, c := 0x2a0, e := 0x11e, sg := 4, lg := 4, md := 0xa, ch := 2, imm := 0xc83fb728, stall := 5, tset := 1, twait := 2 })
    ∧ decodeTableWord 128 0xEA6D3A06D019B53486A1578348718A3B
      = some (.sbrev { sub := 0xa, ty := 0x18, d := 0x21c, a := 0x34, b := 0x15e, c := 0x2a1, e := 0x121, sg := 3, lg := 5, md := 0xb, scp := 1, ch := 3, imm := 0xda740da0, stall := 4, yld := 1, tset := 2, twait := 3 }) := by decide +kernel

theorem test_decode_row_4 :
    decodeTableWord 128 0x07891A2B3C00017402AA5543F844B340
      = some (.vadd { sub := 3, ty := 0xb, d := 0x211, a := 0x3f, b := 0x155, c := 0x2aa, e := 0x100, sg := 7, lg := 1, imm := 0x12345678, stall := 0xf })
    ∧ decodeTableWord 128 0x5F123456780912640EAB5503E8492841
      = some (.vsub { sub := 8, ty := 0x12, d := 0x212, a := 0x3e, b := 0x154, c := 0x2ab, e := 0x103, sg := 6, lg := 2, md := 1, scp := 1, ch := 1, imm := 0x2468acf0, stall := 0xe, yld := 1, tset := 1, twait := 1 })
    ∧ decodeTableWord 128 0xA69B4E81B41223541AA855C3D84D9D42
      = some (.vmul { sub := 0xd, ty := 0x19, d := 0x213, a := 0x3d, b := 0x157, c := 0x2a8, e := 0x106, sg := 5, lg := 3, md := 2, scp := 2, ch := 2, imm := 0x369d0368, stall := 0xd, tset := 2, twait := 2 })
    ∧ decodeTableWord 128 0xCE2468ACF01B344426A95583C8520243
      = some (.vmulh { sub := 2, ty := 0x20, d := 0x214, a := 0x3c, b := 0x156, c := 0x2a9, e := 0x109, sg := 4, lg := 4, md := 3, scp := 3, ch := 3, imm := 0x48d159e0, stall := 0xc, yld := 1, twait := 3 })
    ∧ decodeTableWord 128 0x15AD82D82C04453432AE5443B8567744
      = some (.vmad { sub := 7, ty := 0x27, d := 0x215, a := 0x3b, b := 0x151, c := 0x2ae, e := 0x10c, sg := 3, lg := 5, md := 4, scp := 4, imm := 0x5b05b058, stall := 0xb, tset := 1 })
    ∧ decodeTableWord 128 0x6D369D03680856243EAF5403A85AEC45
      = some (.vsad { sub := 0xc, ty := 0x2e, d := 0x216, a := 0x3a, b := 0x150, c := 0x2af, e := 0x10f, sg := 2, lg := 6, md := 5, ch := 1, imm := 0x6d3a06d0, stall := 0xa, yld := 1, tset := 2, twait := 1 })
    ∧ decodeTableWord 128 0x84BFB72EA41167144AAC54C3985F5146
      = some (.vdot4 { sub := 1, ty := 0x35, d := 0x217, a := 0x39, b := 0x153, c := 0x2ac, e := 0x112, sg := 1, lg := 7, md := 6, scp := 1, ch := 2, imm := 0x7f6e5d48, stall := 9, twait := 2 })
    ∧ decodeTableWord 128 0xDC48D159E01A717456AD54838863C647
      = some (.vmin { sub := 6, ty := 0x3c, d := 0x218, a := 0x38, b := 0x152, c := 0x2ad, e := 0x115, sg := 7, lg := 1, md := 7, scp := 2, ch := 3, imm := 0x91a2b3c0, stall := 8, yld := 1, tset := 1, twait := 3 })
    ∧ decodeTableWord 128 0x23D1EB851C03826462A2574378643B48
      = some (.vmax { sub := 0xb, ty := 3, d := 0x219, a := 0x37, b := 0x15d, c := 0x2a2, e := 0x118, sg := 6, lg := 2, md := 8, scp := 3, imm := 0xa3d70a38, stall := 7, tset := 2 })
    ∧ decodeTableWord 128 0x4B5B05B0580C93546EA357036868A049
      = some (.vabs { ty := 0xa, d := 0x21a, a := 0x36, b := 0x15c, c := 0x2a3, e := 0x11b, sg := 5, lg := 3, md := 9, scp := 4, ch := 1, imm := 0xb60b60b0, stall := 6, yld := 1, twait := 1 })
    ∧ decodeTableWord 128 0x92E41FDB9410A4447AA057C3586D154A
      = some (.vneg { sub := 5, ty := 0x11, d := 0x21b, a := 0x35, b := 0x15f, c := 0x2a0, e := 0x11e, sg := 4, lg := 4, md := 0xa, ch := 2, imm := 0xc83fb728, stall := 5, tset := 1, twait := 2 })
    ∧ decodeTableWord 128 0xEA6D3A06D019B53486A1578348718A4B
      = some (.vavg { sub := 0xa, ty := 0x18, d := 0x21c, a := 0x34, b := 0x15e, c := 0x2a1, e := 0x121, sg := 3, lg := 5, md := 0xb, scp := 1, ch := 3, imm := 0xda740da0, stall := 4, yld := 1, tset := 2, twait := 3 })
    ∧ decodeTableWord 128 0x01F654320C02C62492A656433875FF4C
      = some (.vand { sub := 0xf, ty := 0x1f, d := 0x21d, a := 0x33, b := 0x159, c := 0x2a6, e := 0x124, sg := 2, lg := 6, md := 0xc, scp := 2, imm := 0xeca86418, stall := 3 })
    ∧ decodeTableWord 128 0x597F6E5D480BD7149EA75603287A644D
      = some (.vor { sub := 4, ty := 0x26, d := 0x21e, a := 0x32, b := 0x158, c := 0x2a7, e := 0x127, sg := 1, lg := 7, md := 0xd, scp := 3, ch := 1, imm := 0xfedcba90, stall := 2, yld := 1, tset := 1, twait := 1 })
    ∧ decodeTableWord 128 0xA08888888414E174AAA456C3187ED94E
      = some (.vxor { sub := 9, ty := 0x2d, d := 0x21f, a := 0x31, b := 0x15b, c := 0x2a4, e := 0x12a, sg := 7, lg := 1, md := 0xe, scp := 4, ch := 2, imm := 0x11111108, stall := 1, tset := 2, twait := 2 })
    ∧ decodeTableWord 128 0xC811A2B3C018F264B6A5568308834E4F
      = some (.vandn { sub := 0xe, ty := 0x34, d := 0x220, a := 0x30, b := 0x15a, c := 0x2a5, e := 0x12d, sg := 6, lg := 2, md := 0xf, ch := 3, imm := 0x23456780, yld := 1, twait := 3 }) := by decide +kernel

theorem test_decode_row_5 :
    decodeTableWord 128 0x07891A2B3C00017402AA5543F844B350
      = some (.vnot { sub := 3, ty := 0xb, d := 0x211, a := 0x3f, b := 0x155, c := 0x2aa, e := 0x100, sg := 7, lg := 1, imm := 0x12345678, stall := 0xf })
    ∧ decodeTableWord 128 0x5F123456780912640EAB5503E8492851
      = some (.vlop3 { sub := 8, ty := 0x12, d := 0x212, a := 0x3e, b := 0x154, c := 0x2ab, e := 0x103, sg := 6, lg := 2, md := 1, scp := 1, ch := 1, imm := 0x2468acf0, stall := 0xe, yld := 1, tset := 1, twait := 1 })
    ∧ decodeTableWord 128 0xA69B4E81B41223541AA855C3D84D9D52
      = some (.vshl { sub := 0xd, ty := 0x19, d := 0x213, a := 0x3d, b := 0x157, c := 0x2a8, e := 0x106, sg := 5, lg := 3, md := 2, scp := 2, ch := 2, imm := 0x369d0368, stall := 0xd, tset := 2, twait := 2 })
    ∧ decodeTableWord 128 0xCE2468ACF01B344426A95583C8520253
      = some (.vshr { sub := 2, ty := 0x20, d := 0x214, a := 0x3c, b := 0x156, c := 0x2a9, e := 0x109, sg := 4, lg := 4, md := 3, scp := 3, ch := 3, imm := 0x48d159e0, stall := 0xc, yld := 1, twait := 3 })
    ∧ decodeTableWord 128 0x15AD82D82C04453432AE5443B8567754
      = some (.vsar { sub := 7, ty := 0x27, d := 0x215, a := 0x3b, b := 0x151, c := 0x2ae, e := 0x10c, sg := 3, lg := 5, md := 4, scp := 4, imm := 0x5b05b058, stall := 0xb, tset := 1 })
    ∧ decodeTableWord 128 0x6D369D03680856243EAF5403A85AEC55
      = some (.vrol { sub := 0xc, ty := 0x2e, d := 0x216, a := 0x3a, b := 0x150, c := 0x2af, e := 0x10f, sg := 2, lg := 6, md := 5, ch := 1, imm := 0x6d3a06d0, stall := 0xa, yld := 1, tset := 2, twait := 1 })
    ∧ decodeTableWord 128 0x84BFB72EA41167144AAC54C3985F5156
      = some (.vror { sub := 1, ty := 0x35, d := 0x217, a := 0x39, b := 0x153, c := 0x2ac, e := 0x112, sg := 1, lg := 7, md := 6, scp := 1, ch := 2, imm := 0x7f6e5d48, stall := 9, twait := 2 })
    ∧ decodeTableWord 128 0xDC48D159E01A717456AD54838863C657
      = some (.vfshl { sub := 6, ty := 0x3c, d := 0x218, a := 0x38, b := 0x152, c := 0x2ad, e := 0x115, sg := 7, lg := 1, md := 7, scp := 2, ch := 3, imm := 0x91a2b3c0, stall := 8, yld := 1, tset := 1, twait := 3 })
    ∧ decodeTableWord 128 0x23D1EB851C03826462A2574378643B58
      = some (.vcmp { sub := 0xb, ty := 3, d := 0x219, a := 0x37, b := 0x15d, c := 0x2a2, e := 0x118, sg := 6, lg := 2, md := 8, scp := 3, imm := 0xa3d70a38, stall := 7, tset := 2 })
    ∧ decodeTableWord 128 0x4B5B05B0580C93546EA357036868A059
      = some (.vsel { ty := 0xa, d := 0x21a, a := 0x36, b := 0x15c, c := 0x2a3, e := 0x11b, sg := 5, lg := 3, md := 9, scp := 4, ch := 1, imm := 0xb60b60b0, stall := 6, yld := 1, twait := 1 })
    ∧ decodeTableWord 128 0x92E41FDB9410A4447AA057C3586D155A
      = some (.vpopc { sub := 5, ty := 0x11, d := 0x21b, a := 0x35, b := 0x15f, c := 0x2a0, e := 0x11e, sg := 4, lg := 4, md := 0xa, ch := 2, imm := 0xc83fb728, stall := 5, tset := 1, twait := 2 })
    ∧ decodeTableWord 128 0xEA6D3A06D019B53486A1578348718A5B
      = some (.vclz { sub := 0xa, ty := 0x18, d := 0x21c, a := 0x34, b := 0x15e, c := 0x2a1, e := 0x121, sg := 3, lg := 5, md := 0xb, scp := 1, ch := 3, imm := 0xda740da0, stall := 4, yld := 1, tset := 2, twait := 3 })
    ∧ decodeTableWord 128 0x01F654320C02C62492A656433875FF5C
      = some (.vctz { sub := 0xf, ty := 0x1f, d := 0x21d, a := 0x33, b := 0x159, c := 0x2a6, e := 0x124, sg := 2, lg := 6, md := 0xc, scp := 2, imm := 0xeca86418, stall := 3 })
    ∧ decodeTableWord 128 0x597F6E5D480BD7149EA75603287A645D
      = some (.vbrev { sub := 4, ty := 0x26, d := 0x21e, a := 0x32, b := 0x158, c := 0x2a7, e := 0x127, sg := 1, lg := 7, md := 0xd, scp := 3, ch := 1, imm := 0xfedcba90, stall := 2, yld := 1, tset := 1, twait := 1 })
    ∧ decodeTableWord 128 0xA08888888414E174AAA456C3187ED95E
      = some (.vbfe { sub := 9, ty := 0x2d, d := 0x21f, a := 0x31, b := 0x15b, c := 0x2a4, e := 0x12a, sg := 7, lg := 1, md := 0xe, scp := 4, ch := 2, imm := 0x11111108, stall := 1, tset := 2, twait := 2 })
    ∧ decodeTableWord 128 0xC811A2B3C018F264B6A5568308834E5F
      = some (.vbfi { sub := 0xe, ty := 0x34, d := 0x220, a := 0x30, b := 0x15a, c := 0x2a5, e := 0x12d, sg := 6, lg := 2, md := 0xf, ch := 3, imm := 0x23456780, yld := 1, twait := 3 }) := by decide +kernel

theorem test_decode_row_6 :
    decodeTableWord 128 0x07891A2B3C00017402AA5543F844B360
      = some (.vprmb { sub := 3, ty := 0xb, d := 0x211, a := 0x3f, b := 0x155, c := 0x2aa, e := 0x100, sg := 7, lg := 1, imm := 0x12345678, stall := 0xf })
    ∧ decodeTableWord 128 0x5F123456780912640EAB5503E8492861
      = some (.vwiden { sub := 8, ty := 0x12, d := 0x212, a := 0x3e, b := 0x154, c := 0x2ab, e := 0x103, sg := 6, lg := 2, md := 1, scp := 1, ch := 1, imm := 0x2468acf0, stall := 0xe, yld := 1, tset := 1, twait := 1 })
    ∧ decodeTableWord 128 0xA69B4E81B41223541AA855C3D84D9D62
      = some (.vnarrow { sub := 0xd, ty := 0x19, d := 0x213, a := 0x3d, b := 0x157, c := 0x2a8, e := 0x106, sg := 5, lg := 3, md := 2, scp := 2, ch := 2, imm := 0x369d0368, stall := 0xd, tset := 2, twait := 2 })
    ∧ decodeTableWord 128 0xCE2468ACF01B344426A95583C8520263
      = some (.vpack { sub := 2, ty := 0x20, d := 0x214, a := 0x3c, b := 0x156, c := 0x2a9, e := 0x109, sg := 4, lg := 4, md := 3, scp := 3, ch := 3, imm := 0x48d159e0, stall := 0xc, yld := 1, twait := 3 })
    ∧ decodeTableWord 128 0x15AD82D82C04453432AE5443B8567764
      = some (.vmov { sub := 7, ty := 0x27, d := 0x215, a := 0x3b, b := 0x151, c := 0x2ae, e := 0x10c, sg := 3, lg := 5, md := 4, scp := 4, imm := 0x5b05b058, stall := 0xb, tset := 1 })
    ∧ decodeTableWord 128 0x6D369D03680856243EAF5403A85AEC65
      = some (.vdiv { sub := 0xc, ty := 0x2e, d := 0x216, a := 0x3a, b := 0x150, c := 0x2af, e := 0x10f, sg := 2, lg := 6, md := 5, ch := 1, imm := 0x6d3a06d0, stall := 0xa, yld := 1, tset := 2, twait := 1 })
    ∧ decodeTableWord 128 0x84BFB72EA41167144AAC54C3985F5166
      = some (.vrem { sub := 1, ty := 0x35, d := 0x217, a := 0x39, b := 0x153, c := 0x2ac, e := 0x112, sg := 1, lg := 7, md := 6, scp := 1, ch := 2, imm := 0x7f6e5d48, stall := 9, twait := 2 }) := by decide +kernel

theorem test_decode_row_7 :
    decodeTableWord 128 0x07891A2B3C00017402AA5543F844B370
      = some (.fadd { sub := 3, ty := 0xb, d := 0x211, a := 0x3f, b := 0x155, c := 0x2aa, e := 0x100, sg := 7, lg := 1, imm := 0x12345678, stall := 0xf })
    ∧ decodeTableWord 128 0x5F123456780912640EAB5503E8492871
      = some (.fsub { sub := 8, ty := 0x12, d := 0x212, a := 0x3e, b := 0x154, c := 0x2ab, e := 0x103, sg := 6, lg := 2, md := 1, scp := 1, ch := 1, imm := 0x2468acf0, stall := 0xe, yld := 1, tset := 1, twait := 1 })
    ∧ decodeTableWord 128 0xA69B4E81B41223541AA855C3D84D9D72
      = some (.fmul { sub := 0xd, ty := 0x19, d := 0x213, a := 0x3d, b := 0x157, c := 0x2a8, e := 0x106, sg := 5, lg := 3, md := 2, scp := 2, ch := 2, imm := 0x369d0368, stall := 0xd, tset := 2, twait := 2 })
    ∧ decodeTableWord 128 0xCE2468ACF01B344426A95583C8520273
      = some (.ffma { sub := 2, ty := 0x20, d := 0x214, a := 0x3c, b := 0x156, c := 0x2a9, e := 0x109, sg := 4, lg := 4, md := 3, scp := 3, ch := 3, imm := 0x48d159e0, stall := 0xc, yld := 1, twait := 3 })
    ∧ decodeTableWord 128 0x15AD82D82C04453432AE5443B8567774
      = some (.fmin { sub := 7, ty := 0x27, d := 0x215, a := 0x3b, b := 0x151, c := 0x2ae, e := 0x10c, sg := 3, lg := 5, md := 4, scp := 4, imm := 0x5b05b058, stall := 0xb, tset := 1 })
    ∧ decodeTableWord 128 0x6D369D03680856243EAF5403A85AEC75
      = some (.fmax { sub := 0xc, ty := 0x2e, d := 0x216, a := 0x3a, b := 0x150, c := 0x2af, e := 0x10f, sg := 2, lg := 6, md := 5, ch := 1, imm := 0x6d3a06d0, stall := 0xa, yld := 1, tset := 2, twait := 1 })
    ∧ decodeTableWord 128 0x84BFB72EA41167144AAC54C3985F5176
      = some (.fabs { sub := 1, ty := 0x35, d := 0x217, a := 0x39, b := 0x153, c := 0x2ac, e := 0x112, sg := 1, lg := 7, md := 6, scp := 1, ch := 2, imm := 0x7f6e5d48, stall := 9, twait := 2 })
    ∧ decodeTableWord 128 0xDC48D159E01A717456AD54838863C677
      = some (.fneg { sub := 6, ty := 0x3c, d := 0x218, a := 0x38, b := 0x152, c := 0x2ad, e := 0x115, sg := 7, lg := 1, md := 7, scp := 2, ch := 3, imm := 0x91a2b3c0, stall := 8, yld := 1, tset := 1, twait := 3 })
    ∧ decodeTableWord 128 0x23D1EB851C03826462A2574378643B78
      = some (.fcmp { sub := 0xb, ty := 3, d := 0x219, a := 0x37, b := 0x15d, c := 0x2a2, e := 0x118, sg := 6, lg := 2, md := 8, scp := 3, imm := 0xa3d70a38, stall := 7, tset := 2 })
    ∧ decodeTableWord 128 0x4B5B05B0580C93546EA357036868A079
      = some (.fclass { ty := 0xa, d := 0x21a, a := 0x36, b := 0x15c, c := 0x2a3, e := 0x11b, sg := 5, lg := 3, md := 9, scp := 4, ch := 1, imm := 0xb60b60b0, stall := 6, yld := 1, twait := 1 })
    ∧ decodeTableWord 128 0x92E41FDB9410A4447AA057C3586D157A
      = some (.frnd { sub := 5, ty := 0x11, d := 0x21b, a := 0x35, b := 0x15f, c := 0x2a0, e := 0x11e, sg := 4, lg := 4, md := 0xa, ch := 2, imm := 0xc83fb728, stall := 5, tset := 1, twait := 2 })
    ∧ decodeTableWord 128 0xEA6D3A06D019B53486A1578348718A7B
      = some (.fscale { sub := 0xa, ty := 0x18, d := 0x21c, a := 0x34, b := 0x15e, c := 0x2a1, e := 0x121, sg := 3, lg := 5, md := 0xb, scp := 1, ch := 3, imm := 0xda740da0, stall := 4, yld := 1, tset := 2, twait := 3 })
    ∧ decodeTableWord 128 0x01F654320C02C62492A656433875FF7C
      = some (.fdot2 { sub := 0xf, ty := 0x1f, d := 0x21d, a := 0x33, b := 0x159, c := 0x2a6, e := 0x124, sg := 2, lg := 6, md := 0xc, scp := 2, imm := 0xeca86418, stall := 3 })
    ∧ decodeTableWord 128 0x597F6E5D480BD7149EA75603287A647D
      = some (.frcp { sub := 4, ty := 0x26, d := 0x21e, a := 0x32, b := 0x158, c := 0x2a7, e := 0x127, sg := 1, lg := 7, md := 0xd, scp := 3, ch := 1, imm := 0xfedcba90, stall := 2, yld := 1, tset := 1, twait := 1 })
    ∧ decodeTableWord 128 0xA08888888414E174AAA456C3187ED97E
      = some (.frsq { sub := 9, ty := 0x2d, d := 0x21f, a := 0x31, b := 0x15b, c := 0x2a4, e := 0x12a, sg := 7, lg := 1, md := 0xe, scp := 4, ch := 2, imm := 0x11111108, stall := 1, tset := 2, twait := 2 })
    ∧ decodeTableWord 128 0xC811A2B3C018F264B6A5568308834E7F
      = some (.fsqrt { sub := 0xe, ty := 0x34, d := 0x220, a := 0x30, b := 0x15a, c := 0x2a5, e := 0x12d, sg := 6, lg := 2, md := 0xf, ch := 3, imm := 0x23456780, yld := 1, twait := 3 }) := by decide +kernel

theorem test_decode_row_8 :
    decodeTableWord 128 0x07891A2B3C00017402AA5543F844B380
      = some (.fexp2 { sub := 3, ty := 0xb, d := 0x211, a := 0x3f, b := 0x155, c := 0x2aa, e := 0x100, sg := 7, lg := 1, imm := 0x12345678, stall := 0xf })
    ∧ decodeTableWord 128 0x5F123456780912640EAB5503E8492881
      = some (.flog2 { sub := 8, ty := 0x12, d := 0x212, a := 0x3e, b := 0x154, c := 0x2ab, e := 0x103, sg := 6, lg := 2, md := 1, scp := 1, ch := 1, imm := 0x2468acf0, stall := 0xe, yld := 1, tset := 1, twait := 1 })
    ∧ decodeTableWord 128 0xA69B4E81B41223541AA855C3D84D9D82
      = some (.fsin { sub := 0xd, ty := 0x19, d := 0x213, a := 0x3d, b := 0x157, c := 0x2a8, e := 0x106, sg := 5, lg := 3, md := 2, scp := 2, ch := 2, imm := 0x369d0368, stall := 0xd, tset := 2, twait := 2 })
    ∧ decodeTableWord 128 0xCE2468ACF01B344426A95583C8520283
      = some (.fcos { sub := 2, ty := 0x20, d := 0x214, a := 0x3c, b := 0x156, c := 0x2a9, e := 0x109, sg := 4, lg := 4, md := 3, scp := 3, ch := 3, imm := 0x48d159e0, stall := 0xc, yld := 1, twait := 3 })
    ∧ decodeTableWord 128 0x15AD82D82C04453432AE5443B8567784
      = some (.ftanh { sub := 7, ty := 0x27, d := 0x215, a := 0x3b, b := 0x151, c := 0x2ae, e := 0x10c, sg := 3, lg := 5, md := 4, scp := 4, imm := 0x5b05b058, stall := 0xb, tset := 1 })
    ∧ decodeTableWord 128 0x6D369D03680856243EAF5403A85AEC85
      = some (.fsigm { sub := 0xc, ty := 0x2e, d := 0x216, a := 0x3a, b := 0x150, c := 0x2af, e := 0x10f, sg := 2, lg := 6, md := 5, ch := 1, imm := 0x6d3a06d0, stall := 0xa, yld := 1, tset := 2, twait := 1 })
    ∧ decodeTableWord 128 0x84BFB72EA41167144AAC54C3985F5186
      = some (.fcvt { sub := 1, ty := 0x35, d := 0x217, a := 0x39, b := 0x153, c := 0x2ac, e := 0x112, sg := 1, lg := 7, md := 6, scp := 1, ch := 2, imm := 0x7f6e5d48, stall := 9, twait := 2 })
    ∧ decodeTableWord 128 0xDC48D159E01A717456AD54838863C687
      = some (.fcvti { sub := 6, ty := 0x3c, d := 0x218, a := 0x38, b := 0x152, c := 0x2ad, e := 0x115, sg := 7, lg := 1, md := 7, scp := 2, ch := 3, imm := 0x91a2b3c0, stall := 8, yld := 1, tset := 1, twait := 3 })
    ∧ decodeTableWord 128 0x23D1EB851C03826462A2574378643B88
      = some (.fqsum { sub := 0xb, ty := 3, d := 0x219, a := 0x37, b := 0x15d, c := 0x2a2, e := 0x118, sg := 6, lg := 2, md := 8, scp := 3, imm := 0xa3d70a38, stall := 7, tset := 2 }) := by decide +kernel

theorem test_decode_row_9 :
    decodeTableWord 128 0x07891A2B3C00017402AA5543F844B390
      = some (.shfl { sub := 3, ty := 0xb, d := 0x211, a := 0x3f, b := 0x155, c := 0x2aa, e := 0x100, sg := 7, lg := 1, imm := 0x12345678, stall := 0xf })
    ∧ decodeTableWord 128 0x5F123456780912640EAB5503E8492891
      = some (.vote { sub := 8, ty := 0x12, d := 0x212, a := 0x3e, b := 0x154, c := 0x2ab, e := 0x103, sg := 6, lg := 2, md := 1, scp := 1, ch := 1, imm := 0x2468acf0, stall := 0xe, yld := 1, tset := 1, twait := 1 })
    ∧ decodeTableWord 128 0xA69B4E81B41223541AA855C3D84D9D92
      = some (.lred { sub := 0xd, ty := 0x19, d := 0x213, a := 0x3d, b := 0x157, c := 0x2a8, e := 0x106, sg := 5, lg := 3, md := 2, scp := 2, ch := 2, imm := 0x369d0368, stall := 0xd, tset := 2, twait := 2 })
    ∧ decodeTableWord 128 0xCE2468ACF01B344426A95583C8520293
      = some (.lscan { sub := 2, ty := 0x20, d := 0x214, a := 0x3c, b := 0x156, c := 0x2a9, e := 0x109, sg := 4, lg := 4, md := 3, scp := 3, ch := 3, imm := 0x48d159e0, stall := 0xc, yld := 1, twait := 3 })
    ∧ decodeTableWord 128 0x15AD82D82C04453432AE5443B8567794
      = some (.matchLanes { sub := 7, ty := 0x27, d := 0x215, a := 0x3b, b := 0x151, c := 0x2ae, e := 0x10c, sg := 3, lg := 5, md := 4, scp := 4, imm := 0x5b05b058, stall := 0xb, tset := 1 })
    ∧ decodeTableWord 128 0x6D369D03680856243EAF5403A85AEC95
      = some (.vget { sub := 0xc, ty := 0x2e, d := 0x216, a := 0x3a, b := 0x150, c := 0x2af, e := 0x10f, sg := 2, lg := 6, md := 5, ch := 1, imm := 0x6d3a06d0, stall := 0xa, yld := 1, tset := 2, twait := 1 })
    ∧ decodeTableWord 128 0x84BFB72EA41167144AAC54C3985F5196
      = some (.vset { sub := 1, ty := 0x35, d := 0x217, a := 0x39, b := 0x153, c := 0x2ac, e := 0x112, sg := 1, lg := 7, md := 6, scp := 1, ch := 2, imm := 0x7f6e5d48, stall := 9, twait := 2 })
    ∧ decodeTableWord 128 0xDC48D159E01A717456AD54838863C697
      = some (.xsend { sub := 6, ty := 0x3c, d := 0x218, a := 0x38, b := 0x152, c := 0x2ad, e := 0x115, sg := 7, lg := 1, md := 7, scp := 2, ch := 3, imm := 0x91a2b3c0, stall := 8, yld := 1, tset := 1, twait := 3 })
    ∧ decodeTableWord 128 0x23D1EB851C03826462A2574378643B98
      = some (.xrecv { sub := 0xb, ty := 3, d := 0x219, a := 0x37, b := 0x15d, c := 0x2a2, e := 0x118, sg := 6, lg := 2, md := 8, scp := 3, imm := 0xa3d70a38, stall := 7, tset := 2 })
    ∧ decodeTableWord 128 0x4B5B05B0580C93546EA357036868A099
      = some (.xprobe { ty := 0xa, d := 0x21a, a := 0x36, b := 0x15c, c := 0x2a3, e := 0x11b, sg := 5, lg := 3, md := 9, scp := 4, ch := 1, imm := 0xb60b60b0, stall := 6, yld := 1, twait := 1 }) := by decide +kernel

theorem test_decode_row_A :
    decodeTableWord 128 0x07891A2B3C00017402AA5543F844B3A0
      = some (.bininit { sub := 3, ty := 0xb, d := 0x211, a := 0x3f, b := 0x155, c := 0x2aa, e := 0x100, sg := 7, lg := 1, imm := 0x12345678, stall := 0xf })
    ∧ decodeTableWord 128 0x5F123456780912640EAB5503E84928A1
      = some (.susp { sub := 8, ty := 0x12, d := 0x212, a := 0x3e, b := 0x154, c := 0x2ab, e := 0x103, sg := 6, lg := 2, md := 1, scp := 1, ch := 1, imm := 0x2468acf0, stall := 0xe, yld := 1, tset := 1, twait := 1 })
    ∧ decodeTableWord 128 0xA69B4E81B41223541AA855C3D84D9DA2
      = some (.resume { sub := 0xd, ty := 0x19, d := 0x213, a := 0x3d, b := 0x157, c := 0x2a8, e := 0x106, sg := 5, lg := 3, md := 2, scp := 2, ch := 2, imm := 0x369d0368, stall := 0xd, tset := 2, twait := 2 })
    ∧ decodeTableWord 128 0xCE2468ACF01B344426A95583C85200A3
      = some (.wakeRows { ty := 0x20, d := 0x214, a := 0x3c, b := 0x156, c := 0x2a9, e := 0x109, sg := 4, lg := 4, md := 3, scp := 3, ch := 3, imm := 0x48d159e0, stall := 0xc, yld := 1, twait := 3 })
    ∧ decodeTableWord 128 0xCE2468ACF01B344426A95583C85201A3
      = some (.wakeLanes { sub := 1, ty := 0x20, d := 0x214, a := 0x3c, b := 0x156, c := 0x2a9, e := 0x109, sg := 4, lg := 4, md := 3, scp := 3, ch := 3, imm := 0x48d159e0, stall := 0xc, yld := 1, twait := 3 })
    ∧ decodeTableWord 128 0xCE2468ACF01B344426A95583C85202A3
      = some (.wakeAll { sub := 2, ty := 0x20, d := 0x214, a := 0x3c, b := 0x156, c := 0x2a9, e := 0x109, sg := 4, lg := 4, md := 3, scp := 3, ch := 3, imm := 0x48d159e0, stall := 0xc, yld := 1, twait := 3 })
    ∧ decodeTableWord 128 0x15AD82D82C04453432AE5443B85677A4
      = some (.binq { sub := 7, ty := 0x27, d := 0x215, a := 0x3b, b := 0x151, c := 0x2ae, e := 0x10c, sg := 3, lg := 5, md := 4, scp := 4, imm := 0x5b05b058, stall := 0xb, tset := 1 })
    ∧ decodeTableWord 128 0x6D369D03680856243EAF5403A85AECA5
      = some (.fxform { sub := 0xc, ty := 0x2e, d := 0x216, a := 0x3a, b := 0x150, c := 0x2af, e := 0x10f, sg := 2, lg := 6, md := 5, ch := 1, imm := 0x6d3a06d0, stall := 0xa, yld := 1, tset := 2, twait := 1 })
    ∧ decodeTableWord 128 0x84BFB72EA41167144AAC54C3985F50A6
      = some (.bindropRows { ty := 0x35, d := 0x217, a := 0x39, b := 0x153, c := 0x2ac, e := 0x112, sg := 1, lg := 7, md := 6, scp := 1, ch := 2, imm := 0x7f6e5d48, stall := 9, twait := 2 })
    ∧ decodeTableWord 128 0x84BFB72EA41167144AAC54C3985F52A6
      = some (.bindropSet { sub := 2, ty := 0x35, d := 0x217, a := 0x39, b := 0x153, c := 0x2ac, e := 0x112, sg := 1, lg := 7, md := 6, scp := 1, ch := 2, imm := 0x7f6e5d48, stall := 9, twait := 2 }) := by decide +kernel

theorem test_decode_row_B :
    decodeTableWord 128 0x07891A2B3C00017402AA5543F844B3B0
      = some (.ld { sub := 3, ty := 0xb, d := 0x211, a := 0x3f, b := 0x155, c := 0x2aa, e := 0x100, sg := 7, lg := 1, imm := 0x12345678, stall := 0xf })
    ∧ decodeTableWord 128 0x5F123456780912640EAB5503E84928B1
      = some (.st { sub := 8, ty := 0x12, d := 0x212, a := 0x3e, b := 0x154, c := 0x2ab, e := 0x103, sg := 6, lg := 2, md := 1, scp := 1, ch := 1, imm := 0x2468acf0, stall := 0xe, yld := 1, tset := 1, twait := 1 })
    ∧ decodeTableWord 128 0xA69B4E81B41223541AA855C3D84D9DB2
      = some (.ldx { sub := 0xd, ty := 0x19, d := 0x213, a := 0x3d, b := 0x157, c := 0x2a8, e := 0x106, sg := 5, lg := 3, md := 2, scp := 2, ch := 2, imm := 0x369d0368, stall := 0xd, tset := 2, twait := 2 })
    ∧ decodeTableWord 128 0xCE2468ACF01B344426A95583C85202B3
      = some (.stx { sub := 2, ty := 0x20, d := 0x214, a := 0x3c, b := 0x156, c := 0x2a9, e := 0x109, sg := 4, lg := 4, md := 3, scp := 3, ch := 3, imm := 0x48d159e0, stall := 0xc, yld := 1, twait := 3 })
    ∧ decodeTableWord 128 0x15AD82D82C04453432AE5443B85677B4
      = some (.lds { sub := 7, ty := 0x27, d := 0x215, a := 0x3b, b := 0x151, c := 0x2ae, e := 0x10c, sg := 3, lg := 5, md := 4, scp := 4, imm := 0x5b05b058, stall := 0xb, tset := 1 })
    ∧ decodeTableWord 128 0x6D369D03680856243EAF5403A85AECB5
      = some (.sts { sub := 0xc, ty := 0x2e, d := 0x216, a := 0x3a, b := 0x150, c := 0x2af, e := 0x10f, sg := 2, lg := 6, md := 5, ch := 1, imm := 0x6d3a06d0, stall := 0xa, yld := 1, tset := 2, twait := 1 })
    ∧ decodeTableWord 128 0x84BFB72EA41167144AAC54C3985F51B6
      = some (.ldb { sub := 1, ty := 0x35, d := 0x217, a := 0x39, b := 0x153, c := 0x2ac, e := 0x112, sg := 1, lg := 7, md := 6, scp := 1, ch := 2, imm := 0x7f6e5d48, stall := 9, twait := 2 })
    ∧ decodeTableWord 128 0xDC48D159E01A717456AD54838863C6B7
      = some (.stb { sub := 6, ty := 0x3c, d := 0x218, a := 0x38, b := 0x152, c := 0x2ad, e := 0x115, sg := 7, lg := 1, md := 7, scp := 2, ch := 3, imm := 0x91a2b3c0, stall := 8, yld := 1, tset := 1, twait := 3 })
    ∧ decodeTableWord 128 0x23D1EB851C03826462A2574378643BB8
      = some (.atom { sub := 0xb, ty := 3, d := 0x219, a := 0x37, b := 0x15d, c := 0x2a2, e := 0x118, sg := 6, lg := 2, md := 8, scp := 3, imm := 0xa3d70a38, stall := 7, tset := 2 })
    ∧ decodeTableWord 128 0x4B5B05B0580C93546EA357036868A0B9
      = some (.atoms { ty := 0xa, d := 0x21a, a := 0x36, b := 0x15c, c := 0x2a3, e := 0x11b, sg := 5, lg := 3, md := 9, scp := 4, ch := 1, imm := 0xb60b60b0, stall := 6, yld := 1, twait := 1 })
    ∧ decodeTableWord 128 0x92E41FDB9410A4447AA057C3586D15BA
      = some (.red { sub := 5, ty := 0x11, d := 0x21b, a := 0x35, b := 0x15f, c := 0x2a0, e := 0x11e, sg := 4, lg := 4, md := 0xa, ch := 2, imm := 0xc83fb728, stall := 5, tset := 1, twait := 2 })
    ∧ decodeTableWord 128 0xEA6D3A06D019B53486A1578348718ABB
      = some (.fence { sub := 0xa, ty := 0x18, d := 0x21c, a := 0x34, b := 0x15e, c := 0x2a1, e := 0x121, sg := 3, lg := 5, md := 0xb, scp := 1, ch := 3, imm := 0xda740da0, stall := 4, yld := 1, tset := 2, twait := 3 })
    ∧ decodeTableWord 128 0x01F654320C02C62492A656433875FFBC
      = some (.pref { sub := 0xf, ty := 0x1f, d := 0x21d, a := 0x33, b := 0x159, c := 0x2a6, e := 0x124, sg := 2, lg := 6, md := 0xc, scp := 2, imm := 0xeca86418, stall := 3 })
    ∧ decodeTableWord 128 0x597F6E5D480BD7149EA75603287A64BD
      = some (.colcln { sub := 4, ty := 0x26, d := 0x21e, a := 0x32, b := 0x158, c := 0x2a7, e := 0x127, sg := 1, lg := 7, md := 0xd, scp := 3, ch := 1, imm := 0xfedcba90, stall := 2, yld := 1, tset := 1, twait := 1 })
    ∧ decodeTableWord 128 0xA08888888414E174AAA456C3187ED9BE
      = some (.colinv { sub := 9, ty := 0x2d, d := 0x21f, a := 0x31, b := 0x15b, c := 0x2a4, e := 0x12a, sg := 7, lg := 1, md := 0xe, scp := 4, ch := 2, imm := 0x11111108, stall := 1, tset := 2, twait := 2 })
    ∧ decodeTableWord 128 0xC811A2B3C018F264B6A5568308834EBF
      = some (.cctl { sub := 0xe, ty := 0x34, d := 0x220, a := 0x30, b := 0x15a, c := 0x2a5, e := 0x12d, sg := 6, lg := 2, md := 0xf, ch := 3, imm := 0x23456780, yld := 1, twait := 3 }) := by decide +kernel

theorem test_decode_row_C :
    decodeTableWord 128 0x07891A2B3C00017402AA5543F844B3C0
      = some (.waitp { sub := 3, ty := 0xb, d := 0x211, a := 0x3f, b := 0x155, c := 0x2aa, e := 0x100, sg := 7, lg := 1, imm := 0x12345678, stall := 0xf })
    ∧ decodeTableWord 128 0x5F123456780912640EAB5503E84928C1
      = some (.boinit { sub := 8, ty := 0x12, d := 0x212, a := 0x3e, b := 0x154, c := 0x2ab, e := 0x103, sg := 6, lg := 2, md := 1, scp := 1, ch := 1, imm := 0x2468acf0, stall := 0xe, yld := 1, tset := 1, twait := 1 })
    ∧ decodeTableWord 128 0xA69B4E81B41223541AA855C3D84D9DC2
      = some (.boarr { sub := 0xd, ty := 0x19, d := 0x213, a := 0x3d, b := 0x157, c := 0x2a8, e := 0x106, sg := 5, lg := 3, md := 2, scp := 2, ch := 2, imm := 0x369d0368, stall := 0xd, tset := 2, twait := 2 })
    ∧ decodeTableWord 128 0xCE2468ACF01B344426A95583C85202C3
      = some (.bojoin { sub := 2, ty := 0x20, d := 0x214, a := 0x3c, b := 0x156, c := 0x2a9, e := 0x109, sg := 4, lg := 4, md := 3, scp := 3, ch := 3, imm := 0x48d159e0, stall := 0xc, yld := 1, twait := 3 })
    ∧ decodeTableWord 128 0x15AD82D82C04453432AE5443B85677C4
      = some (.boleave { sub := 7, ty := 0x27, d := 0x215, a := 0x3b, b := 0x151, c := 0x2ae, e := 0x10c, sg := 3, lg := 5, md := 4, scp := 4, imm := 0x5b05b058, stall := 0xb, tset := 1 })
    ∧ decodeTableWord 128 0x6D369D03680856243EAF5403A85AECC5
      = some (.lbar { sub := 0xc, ty := 0x2e, d := 0x216, a := 0x3a, b := 0x150, c := 0x2af, e := 0x10f, sg := 2, lg := 6, md := 5, ch := 1, imm := 0x6d3a06d0, stall := 0xa, yld := 1, tset := 2, twait := 1 })
    ∧ decodeTableWord 128 0x84BFB72EA41167144AAC54C3985F51C6
      = some (.enq { sub := 1, ty := 0x35, d := 0x217, a := 0x39, b := 0x153, c := 0x2ac, e := 0x112, sg := 1, lg := 7, md := 6, scp := 1, ch := 2, imm := 0x7f6e5d48, stall := 9, twait := 2 })
    ∧ decodeTableWord 128 0xDC48D159E01A717456AD54838863C6C7
      = some (.deq { sub := 6, ty := 0x3c, d := 0x218, a := 0x38, b := 0x152, c := 0x2ad, e := 0x115, sg := 7, lg := 1, md := 7, scp := 2, ch := 3, imm := 0x91a2b3c0, stall := 8, yld := 1, tset := 1, twait := 3 }) := by decide +kernel

theorem test_decode_row_D :
    decodeTableWord 128 0x07891A2B3C00017402AA5543F844B3D0
      = some (.cpy { sub := 3, ty := 0xb, d := 0x211, a := 0x3f, b := 0x155, c := 0x2aa, e := 0x100, sg := 7, lg := 1, imm := 0x12345678, stall := 0xf })
    ∧ decodeTableWord 128 0x5F123456780912640EAB5503E84928D1
      = some (.cpy2 { sub := 8, ty := 0x12, d := 0x212, a := 0x3e, b := 0x154, c := 0x2ab, e := 0x103, sg := 6, lg := 2, md := 1, scp := 1, ch := 1, imm := 0x2468acf0, stall := 0xe, yld := 1, tset := 1, twait := 1 })
    ∧ decodeTableWord 128 0xA69B4E81B41223541AA855C3D84D9DD2
      = some (.gath { sub := 0xd, ty := 0x19, d := 0x213, a := 0x3d, b := 0x157, c := 0x2a8, e := 0x106, sg := 5, lg := 3, md := 2, scp := 2, ch := 2, imm := 0x369d0368, stall := 0xd, tset := 2, twait := 2 })
    ∧ decodeTableWord 128 0xCE2468ACF01B344426A95583C85202D3
      = some (.scat { sub := 2, ty := 0x20, d := 0x214, a := 0x3c, b := 0x156, c := 0x2a9, e := 0x109, sg := 4, lg := 4, md := 3, scp := 3, ch := 3, imm := 0x48d159e0, stall := 0xc, yld := 1, twait := 3 })
    ∧ decodeTableWord 128 0x15AD82D82C04453432AE5443B85677D4
      = some (.coll { sub := 7, ty := 0x27, d := 0x215, a := 0x3b, b := 0x151, c := 0x2ae, e := 0x10c, sg := 3, lg := 5, md := 4, scp := 4, imm := 0x5b05b058, stall := 0xb, tset := 1 })
    ∧ decodeTableWord 128 0x6D369D03680856243EAF5403A85AECD5
      = some (.afence { sub := 0xc, ty := 0x2e, d := 0x216, a := 0x3a, b := 0x150, c := 0x2af, e := 0x10f, sg := 2, lg := 6, md := 5, ch := 1, imm := 0x6d3a06d0, stall := 0xa, yld := 1, tset := 2, twait := 1 })
    ∧ decodeTableWord 128 0x84BFB72EA41167144AAC54C3985F51D6
      = some (.post { sub := 1, ty := 0x35, d := 0x217, a := 0x39, b := 0x153, c := 0x2ac, e := 0x112, sg := 1, lg := 7, md := 6, scp := 1, ch := 2, imm := 0x7f6e5d48, stall := 9, twait := 2 })
    ∧ decodeTableWord 128 0xDC48D159E01A717456AD54838863C0D7
      = some (.tierhNeed { ty := 0x3c, d := 0x218, a := 0x38, b := 0x152, c := 0x2ad, e := 0x115, sg := 7, lg := 1, md := 7, scp := 2, ch := 3, imm := 0x91a2b3c0, stall := 8, yld := 1, tset := 1, twait := 3 })
    ∧ decodeTableWord 128 0xDC48D159E01A717456AD54838863C1D7
      = some (.tierhCold { sub := 1, ty := 0x3c, d := 0x218, a := 0x38, b := 0x152, c := 0x2ad, e := 0x115, sg := 7, lg := 1, md := 7, scp := 2, ch := 3, imm := 0x91a2b3c0, stall := 8, yld := 1, tset := 1, twait := 3 }) := by decide +kernel

theorem test_decode_row_E :
    decodeTableWord 128 0x07891A2B3C00017402AA5543F844B3E0
      = some (.mma { sub := 3, ty := 0xb, d := 0x211, a := 0x3f, b := 0x155, c := 0x2aa, e := 0x100, sg := 7, lg := 1, imm := 0x12345678, stall := 0xf })
    ∧ decodeTableWord 128 0x5F123456780912640EAB5503E84928E1
      = some (.mmas { sub := 8, ty := 0x12, d := 0x212, a := 0x3e, b := 0x154, c := 0x2ab, e := 0x103, sg := 6, lg := 2, md := 1, scp := 1, ch := 1, imm := 0x2468acf0, stall := 0xe, yld := 1, tset := 1, twait := 1 })
    ∧ decodeTableWord 128 0xA69B4E81B41223541AA855C3D84D9DE2
      = some (.mmat { sub := 0xd, ty := 0x19, d := 0x213, a := 0x3d, b := 0x157, c := 0x2a8, e := 0x106, sg := 5, lg := 3, md := 2, scp := 2, ch := 2, imm := 0x369d0368, stall := 0xd, tset := 2, twait := 2 })
    ∧ decodeTableWord 128 0xCE2468ACF01B344426A95583C85202E3
      = some (.accz { sub := 2, ty := 0x20, d := 0x214, a := 0x3c, b := 0x156, c := 0x2a9, e := 0x109, sg := 4, lg := 4, md := 3, scp := 3, ch := 3, imm := 0x48d159e0, stall := 0xc, yld := 1, twait := 3 })
    ∧ decodeTableWord 128 0x15AD82D82C04453432AE5443B85677E4
      = some (.accld { sub := 7, ty := 0x27, d := 0x215, a := 0x3b, b := 0x151, c := 0x2ae, e := 0x10c, sg := 3, lg := 5, md := 4, scp := 4, imm := 0x5b05b058, stall := 0xb, tset := 1 })
    ∧ decodeTableWord 128 0x6D369D03680856243EAF5403A85AECE5
      = some (.accst { sub := 0xc, ty := 0x2e, d := 0x216, a := 0x3a, b := 0x150, c := 0x2af, e := 0x10f, sg := 2, lg := 6, md := 5, ch := 1, imm := 0x6d3a06d0, stall := 0xa, yld := 1, tset := 2, twait := 1 })
    ∧ decodeTableWord 128 0x84BFB72EA41167144AAC54C3985F51E6
      = some (.accrd { sub := 1, ty := 0x35, d := 0x217, a := 0x39, b := 0x153, c := 0x2ac, e := 0x112, sg := 1, lg := 7, md := 6, scp := 1, ch := 2, imm := 0x7f6e5d48, stall := 9, twait := 2 })
    ∧ decodeTableWord 128 0xDC48D159E01A717456AD54838863C6E7
      = some (.accwr { sub := 6, ty := 0x3c, d := 0x218, a := 0x38, b := 0x152, c := 0x2ad, e := 0x115, sg := 7, lg := 1, md := 7, scp := 2, ch := 3, imm := 0x91a2b3c0, stall := 8, yld := 1, tset := 1, twait := 3 })
    ∧ decodeTableWord 128 0x23D1EB851C03826462A25743786432E8
      = some (.accalloc { sub := 2, ty := 3, d := 0x219, a := 0x37, b := 0x15d, c := 0x2a2, e := 0x118, sg := 6, lg := 2, md := 8, scp := 3, imm := 0xa3d70a38, stall := 7, tset := 2 })
    ∧ decodeTableWord 128 0x23D1EB851C03826462A25743786434E8
      = some (.accallocStat { sub := 4, ty := 3, d := 0x219, a := 0x37, b := 0x15d, c := 0x2a2, e := 0x118, sg := 6, lg := 2, md := 8, scp := 3, imm := 0xa3d70a38, stall := 7, tset := 2 })
    ∧ decodeTableWord 128 0x4B5B05B0580C93546EA357036868A0E9
      = some (.accfree { ty := 0xa, d := 0x21a, a := 0x36, b := 0x15c, c := 0x2a3, e := 0x11b, sg := 5, lg := 3, md := 9, scp := 4, ch := 1, imm := 0xb60b60b0, stall := 6, yld := 1, twait := 1 })
    ∧ decodeTableWord 128 0x92E41FDB9410A4447AA057C3586D10EA
      = some (.sppackRows { ty := 0x11, d := 0x21b, a := 0x35, b := 0x15f, c := 0x2a0, e := 0x11e, sg := 4, lg := 4, md := 0xa, ch := 2, imm := 0xc83fb728, stall := 5, tset := 1, twait := 2 })
    ∧ decodeTableWord 128 0x92E41FDB9410A4447AA057C3586D11EA
      = some (.sppackCols { sub := 1, ty := 0x11, d := 0x21b, a := 0x35, b := 0x15f, c := 0x2a0, e := 0x11e, sg := 4, lg := 4, md := 0xa, ch := 2, imm := 0xc83fb728, stall := 5, tset := 1, twait := 2 }) := by decide +kernel

theorem test_decode_row_F :
    decodeTableWord 128 0x07891A2B3C00017402AA5543F844B3F0
      = some (.trap { sub := 3, ty := 0xb, d := 0x211, a := 0x3f, b := 0x155, c := 0x2aa, e := 0x100, sg := 7, lg := 1, imm := 0x12345678, stall := 0xf })
    ∧ decodeTableWord 128 0x5F123456780912640EAB5503E84920F1
      = some (.rtt { ty := 0x12, d := 0x212, a := 0x3e, b := 0x154, c := 0x2ab, e := 0x103, sg := 6, lg := 2, md := 1, scp := 1, ch := 1, imm := 0x2468acf0, stall := 0xe, yld := 1, tset := 1, twait := 1 })
    ∧ decodeTableWord 128 0x5F123456780912640EAB5503E84921F1
      = some (.rttNext { sub := 1, ty := 0x12, d := 0x212, a := 0x3e, b := 0x154, c := 0x2ab, e := 0x103, sg := 6, lg := 2, md := 1, scp := 1, ch := 1, imm := 0x2468acf0, stall := 0xe, yld := 1, tset := 1, twait := 1 })
    ∧ decodeTableWord 128 0x5F123456780912640EAB5503E84922F1
      = some (.rttTo { sub := 2, ty := 0x12, d := 0x212, a := 0x3e, b := 0x154, c := 0x2ab, e := 0x103, sg := 6, lg := 2, md := 1, scp := 1, ch := 1, imm := 0x2468acf0, stall := 0xe, yld := 1, tset := 1, twait := 1 })
    ∧ decodeTableWord 128 0xA69B4E81B41223541AA855C3D84D9DF2
      = some (.srget { sub := 0xd, ty := 0x19, d := 0x213, a := 0x3d, b := 0x157, c := 0x2a8, e := 0x106, sg := 5, lg := 3, md := 2, scp := 2, ch := 2, imm := 0x369d0368, stall := 0xd, tset := 2, twait := 2 })
    ∧ decodeTableWord 128 0xCE2468ACF01B344426A95583C85202F3
      = some (.srset { sub := 2, ty := 0x20, d := 0x214, a := 0x3c, b := 0x156, c := 0x2a9, e := 0x109, sg := 4, lg := 4, md := 3, scp := 3, ch := 3, imm := 0x48d159e0, stall := 0xc, yld := 1, twait := 3 })
    ∧ decodeTableWord 128 0x15AD82D82C04453432AE5443B85677F4
      = some (.hget { sub := 7, ty := 0x27, d := 0x215, a := 0x3b, b := 0x151, c := 0x2ae, e := 0x10c, sg := 3, lg := 5, md := 4, scp := 4, imm := 0x5b05b058, stall := 0xb, tset := 1 })
    ∧ decodeTableWord 128 0x6D369D03680856243EAF5403A85AECF5
      = some (.hset { sub := 0xc, ty := 0x2e, d := 0x216, a := 0x3a, b := 0x150, c := 0x2af, e := 0x10f, sg := 2, lg := 6, md := 5, ch := 1, imm := 0x6d3a06d0, stall := 0xa, yld := 1, tset := 2, twait := 1 })
    ∧ decodeTableWord 128 0x84BFB72EA41167144AAC54C3985F51F6
      = some (.pdone { sub := 1, ty := 0x35, d := 0x217, a := 0x39, b := 0x153, c := 0x2ac, e := 0x112, sg := 1, lg := 7, md := 6, scp := 1, ch := 2, imm := 0x7f6e5d48, stall := 9, twait := 2 })
    ∧ decodeTableWord 128 0xDC48D159E01A717456AD54838863C6F7
      = some (.boost { sub := 6, ty := 0x3c, d := 0x218, a := 0x38, b := 0x152, c := 0x2ad, e := 0x115, sg := 7, lg := 1, md := 7, scp := 2, ch := 3, imm := 0x91a2b3c0, stall := 8, yld := 1, tset := 1, twait := 3 })
    ∧ decodeTableWord 128 0x23D1EB851C03826462A25743786430F8
      = some (.replayRetry { ty := 3, d := 0x219, a := 0x37, b := 0x15d, c := 0x2a2, e := 0x118, sg := 6, lg := 2, md := 8, scp := 3, imm := 0xa3d70a38, stall := 7, tset := 2 })
    ∧ decodeTableWord 128 0x23D1EB851C03826462A25743786431F8
      = some (.replayKill { sub := 1, ty := 3, d := 0x219, a := 0x37, b := 0x15d, c := 0x2a2, e := 0x118, sg := 6, lg := 2, md := 8, scp := 3, imm := 0xa3d70a38, stall := 7, tset := 2 })
    ∧ decodeTableWord 128 0x4B5B05B0580C93546EA357036868A0F9
      = some (.meas { ty := 0xa, d := 0x21a, a := 0x36, b := 0x15c, c := 0x2a3, e := 0x11b, sg := 5, lg := 3, md := 9, scp := 4, ch := 1, imm := 0xb60b60b0, stall := 6, yld := 1, twait := 1 })
    ∧ decodeTableWord 128 0x92E41FDB9410A4447AA057C3586D15FA
      = some (.cancel { sub := 5, ty := 0x11, d := 0x21b, a := 0x35, b := 0x15f, c := 0x2a0, e := 0x11e, sg := 4, lg := 4, md := 0xa, ch := 2, imm := 0xc83fb728, stall := 5, tset := 1, twait := 2 }) := by decide +kernel

/-- The header's opcode, the reserved opcodes and 0xFF are not instructions (R95); a slot has 16 bytes (R76). -/
theorem test_decode_rest :
    decodeTableWord 128 0x00000000000000000000000000000500 = some (.nonInstructionEncoding 0 { sub := 5, sg := 0, lg := 0 })
    ∧ decodeTableWord 128 0x13 = some (.nonInstructionEncoding 0x13 { sg := 0, lg := 0 })
    ∧ decodeTableWord 128 (2 ^ 128 - 1) = some (decodeSlot 0xFF (unpack (BitVec.allOnes 128)).2)
    ∧ decode (List.replicate 15 0) = .error .short := by decide +kernel

/-- The slot, an instruction of several fields and the state of a group at its slot. -/
theorem test_meets_DECODE_AND_ENCODE_AGREE :
    WellFormed (.atom { ty := 13, d := 6, a := 2, b := 3, scp := 4, tset := 1, twait := 3 }) = true
      ∧ (∃ bs, encode (.nop {}) = some bs) :=
  ⟨by decide, ⟨_, rfl⟩⟩

/-- The machine after reset with VADD.i32 v4, v3, v5 at the slot it fetches next. -/
def stepS : State := State.reset.withFetchWord 128 0x00000000000007700000014030104040

theorem test_meets_STEP_RUNS_THE_DECODED_INSTRUCTION :
    let i : Instr := .vadd { ty := 4, d := 4, a := 3, b := 5 }
    let s0 : State := ({ stepS.settle with turns := [] } : State).unblocked 1
    stepS.settle.turns = [.grp 1] ∧ ((stepS.settle.grp? 1).map fun x => (x.mayIssue, x.delayed, x.due)) = some (true, [], false)
      ∧ s0.isAsking (s0.slotAsker 1) = false
      ∧ ((({ s0 with asker := s0.slotAsker 1, wants := [] } : State).nextSlot 1).2
          = .ok (0x00000000000007700000014030104040 : BitVec 128))
      ∧ WellFormed i = true ∧ encode i = some (toBytes 16 0x00000000000007700000014030104040) := by
  refine ⟨by decide +kernel, by decide +kernel, by decide +kernel, by decide +kernel, by decide, by decide +kernel⟩

/-- One step from reset runs the slot: the group stands at the next one. -/
theorem test_step_runs :
    (match step stepS with | .next t => (t.grp? 1).map (fun y => (y.pc, y.trapMode)) | _ => none) = some (0x10020, false) := by
  decide +kernel

/-- SADD.i64 s1, s2, 5 with s2 = 9 writes 14 (R123). -/
theorem test_sadd_runs :
    (match exec (.sadd { ty := 6, d := 0x211, a := 0x212, b := 0x274, imm := 5 }) (at_ { g1 with sregs := [(2, 9)] }) with
      | .next t => t.readS ((t.grp? 1).getD {}) (.s 1) | _ => 0) = 14 := by decide +kernel

theorem test_meets_EVERY_STEP_KEEPS_MEMORY_CANONICAL : MemOk State.reset ∧ ∃ t, step stepS = .next t := by
  have h : (match step stepS with | .next _ => true | _ => false) = true := by decide +kernel
  refine ⟨rfl, ?_⟩
  match hs : step stepS, h with
  | .next t, _ => exact ⟨t, rfl⟩

end Sys2Proof.Tests
end

section
/-! SUPPORT and O26. A number written at a location reads back: the bytes of a number, and reads of a run of bytes. -/

namespace Sys2Proof.Machine

@[simp] theorem length_toBytes (n v : Nat) : (toBytes n v).length = n := by
  induction n generalizing v with
  | zero => rfl
  | succ n ih => simp [toBytes, ih]

theorem ofBytes_toBytes (n v : Nat) : ofBytes (toBytes n v) = v % 2 ^ (8 * n) := by
  induction n generalizing v with
  | zero => simp [toBytes, ofBytes, Nat.mod_one]
  | succ n ih =>
    have split : 2 ^ (8 * (n + 1)) = 256 * 2 ^ (8 * n) := by rw [Nat.mul_succ, Nat.pow_add]; omega
    simp only [toBytes, ofBytes, ih, BitVec.toNat_ofNat, split, Nat.mod_mul]

/-- Written bytes read back. -/
theorem rdBytes_wrBytes (s : State) (l : Nat) (bs : List Byte) : (s.wrBytes l bs).rdBytes l bs.length = bs := by
  induction bs generalizing s l with
  | nil => rfl
  | cons b t ih =>
    have head : (s.wrBytes l (b :: t)).rdByte l = b := rdByte_wrBytes s l 0 (b :: t) (by simp)
    simp only [List.length_cons, State.rdBytes, head, List.cons.injEq, true_and]
    exact ih (s.wrByte l b) (l + 1)

theorem rd_wr (s : State) (l n v : Nat) : (s.wr l n v).rd l n = v % 2 ^ (8 * n) := by
  have h := rdBytes_wrBytes s l (toBytes n v)
  rw [length_toBytes] at h
  rw [State.rd, State.wr, h, ofBytes_toBytes]

theorem rdByte_wr_out (s : State) (l n v : Nat) {a : Nat} (h : a < l ∨ l + n ≤ a) : (s.wr l n v).rdByte a = s.rdByte a :=
  rdByte_wrBytes_out s l a (toBytes n v) (by rwa [length_toBytes])

end Sys2Proof.Machine

open Sys2Proof.Machine in
/-- Settles O26: the bytes of a number, read back, give it modulo its width, and a write reaches no byte outside its range. -/
theorem memoryReadsWhatWasWritten : Obligations.MEMORY_READS_WHAT_WAS_WRITTEN :=
  fun s l n v => ⟨rd_wr s l n v, fun _ h => rdByte_wr_out s l n v h⟩
end

section
/-! ### Every step keeps memory canonical (R6, assumption log 3)

`MemOk s` says that the memory of `s` is in its canonical form. One lemma per operation of the model, named `memOk_` and
the operation, says that the operation keeps the form; they stand in the order of the model's files. An operation with more
than one outcome has the form in the state of each: `EffOk` for the effect of a slot, `OutOk` for the outcome of an
instruction or a step, `ExcOk` for a management request, `OptOk` for what may find no room. A loop over a list
keeps the form by induction on the list, and an operation that leaves memory alone by the frame lemmas of the state.
`outOk_exec` is the table of all instructions, and `outOk_step` the step. -/

namespace Sys2Proof.Machine

/-- Memory is canonical in the state that an effect leaves. -/
def EffOk : Effect → Prop
  | .done s _ => MemOk s
  | .late s _ => MemOk s
  | .jump s => MemOk s
  | .wait s => MemOk s
  | .trap s _ _ => MemOk s

/-- Memory is canonical in the next state, where there is one. -/
def OutOk : Host.Outcome State Fault Refusal → Prop
  | .next s => MemOk s
  | .fault _ => True
  | .refused _ => True

/-- Memory is canonical in the state of a management request that was carried out. -/
def ExcOk : Except Nat State → Prop
  | .ok s => MemOk s
  | .error _ => True

/-- Memory is canonical in a state that may be none. -/
def OptOk : Option State → Prop
  | some s => MemOk s
  | none => True

/-- A loop that carries a result beside the state. -/
theorem memOk_foldl1 {β γ : Type} {f : State × γ → β → State × γ} (h : ∀ a b, MemOk a.1 → MemOk (f a b).1)
    (l : List β) (a : State × γ) (ha : MemOk a.1) : MemOk (l.foldl f a).1 := by
  induction l generalizing a with
  | nil => exact ha
  | cons b t ih => exact ih _ (h a b ha)

variable {s : State} {g : Nat} {sl : Slot} {x : Group} {v : View}

/-! ### Groups -/

theorem memOk_writeV {r : RegRef} {sel : Mask} {v : Vec} (h : MemOk s) : MemOk (s.writeV g r sel v) := by
  unfold State.writeV
  split
  · exact h
  · extract_lets _
    split
    · exact memOk_setGrp _ _ h
    · exact memOk_setGrp _ _ h
    · exact memOk_of_mem (setBank_mem ..) h
    · exact h

theorem memOk_writeS {r : RegRef} {v : Word} (h : MemOk s) : MemOk (s.writeS g r v) := by
  unfold State.writeS
  split
  · exact h
  · split
    · exact memOk_setGrp _ _ h
    · exact memOk_of_mem (setBank_mem ..) h
    · exact memOk_ite h (memOk_setGrp _ _ h)
    · exact memOk_ite h (memOk_setGrp _ _ h)
    · exact h

theorem memOk_doWrite {w : RegWrite} (h : MemOk s) : MemOk (s.doWrite g w) := by
  unfold State.doWrite
  split
  · exact memOk_writeV h
  · exact memOk_writeS h

theorem memOk_writeNow {ws : List RegWrite} (h : MemOk s) : MemOk (s.writeNow g ws) :=
  memOk_foldl (fun _ _ k => memOk_doWrite k) _ _ h

theorem memOk_snapWrite {id : Nat} (h : MemOk s) : MemOk (s.snapWrite g id) := by
  unfold State.snapWrite
  split
  · exact h
  · split
    · exact h
    · exact memOk_updGrp _ _ h

/-! ### Caches -/

theorem memOk_icFill {c line : Nat} (h : MemOk s) : MemOk (s.icFill c line) := memOk_ite h (memOk_updCore _ _ h)

/-! ### Access -/

theorem memOk_touchPeer {fn ctx p : Nat} (h : MemOk s) : MemOk (s.touchPeer fn ctx p) := memOk_touch _ _ _ h

theorem memOk_sendOn {i : Nat} {o : PeerOut} (h : MemOk s) : MemOk (s.sendOn i o) := memOk_updLink _ _ h

theorem memOk_lockTake {key : Nat} (h : MemOk s) : MemOk (s.lockTake key) := memOk_ite h h

/-! ### Rings -/

theorem optOk_physAppend {ring : Nat} {r : Rec} (h : MemOk s) : OptOk (s.physAppend ring r) := by
  unfold State.physAppend
  extract_lets _
  split
  · exact trivial
  · exact memOk_bankWrite _ _ _ (memOk_bankWrite _ _ _ h)

theorem memOk_msix {fn n : Nat} (h : MemOk s) : MemOk (s.msix fn n) := memOk_updFn _ _ h

theorem memOk_flushTo {fn vec ring : Nat} {l : List Rec} (h : MemOk s) : MemOk (s.flushTo fn vec ring l).1 := by
  induction l generalizing s with
  | nil => exact h
  | cons p l ih =>
    unfold State.flushTo
    extract_lets _
    have k : OptOk (s.physAppend ring p) := optOk_physAppend h
    split
    · exact h
    · rename_i e
      rw [e] at k
      exact ih (memOk_ite (memOk_msix k) k)

theorem memOk_flushRecs {fn : Nat} (h : MemOk s) : MemOk (s.flushRecs fn) :=
  memOk_updFn _ _ (memOk_flushTo (memOk_updFn _ _ (memOk_flushTo h)))

theorem memOk_dropRec {fn which : Nat} (h : MemOk s) : MemOk (s.dropRec fn which) :=
  memOk_ite (memOk_updFn _ _ h) (memOk_bankWrite _ _ _ h)

theorem memOk_putRec {fn which : Nat} {r : Rec} (h : MemOk s) : MemOk (s.putRec fn which r) :=
  memOk_ite (memOk_dropRec h) (memOk_flushRecs (memOk_updFn _ _ h))

theorem memOk_event {s0 : State} {code fn ctx world : Nat} {w1 detail : Option Word} (h : MemOk s0) :
    MemOk (s0.event code fn ctx world w1 detail) := by
  unfold State.event
  extract_lets _ _ s1
  have hs1 : MemOk s1 := memOk_putRec h
  exact memOk_ite hs1 (memOk_putRec hs1)

theorem memOk_hold {fn ctx : Nat} {grp op me : Option Nat} {t : Trap} {nest : Bool} (h : MemOk s) :
    MemOk (s.hold fn ctx grp op me t nest).1 := by
  unfold State.hold
  extract_lets _ _ _ _ s1
  have hs1 : MemOk s1 := memOk_of_mem (bump_mem ..) h
  exact memOk_ite (memOk_putRec hs1) hs1

theorem memOk_recordHolds {l : List (Nat × Hold)} (h : MemOk s) : MemOk (s.recordHolds l) := by
  induction l generalizing s with
  | nil => exact h
  | cons p l ih =>
    unfold State.recordHolds
    exact memOk_ite (ih h) (ih (memOk_putRec h))

theorem memOk_settleRecs (h : MemOk s) : MemOk s.settleRecs := by
  unfold State.settleRecs
  extract_lets s1
  have hs1 : MemOk s1 := memOk_foldl (fun _ _ k => memOk_ite k (memOk_flushRecs k)) _ _ h
  exact memOk_ite (memOk_recordHolds hs1) hs1

theorem memOk_engFault {fn ctx : Nat} {r : Raise} (h : MemOk s) : MemOk (s.engFault fn ctx r) := memOk_putRec h

theorem memOk_hubAt {a : Word} {n kind : Nat} (h : MemOk s) : MemOk (s.hubAt v a n kind).1 := by
  unfold State.hubAt
  extract_lets _
  split <;> exact memOk_resolve _ _ _ _ _ _ h

theorem memOk_hubPays {t : Target} {n : Nat} (h : MemOk s) : MemOk (s.hubPays v t n) := by
  unfold State.hubPays
  split
  · exact memOk_chargeAt _ _ _ h
  · exact h

theorem memOk_hubRead {a : Word} {n : Nat} (h : MemOk s) : MemOk (s.hubRead v a n).1 := by
  unfold State.hubRead
  extract_lets r
  have hr : MemOk r.1 := memOk_hubAt h
  split
  · exact hr
  · extract_lets q
    have hq : MemOk q.1 := memOk_readP _ _ _ _ _ hr
    split
    · exact hq
    · exact memOk_hubPays hq

theorem memOk_hubWords {a : Word} {a1 : Nat} (h : MemOk s) : MemOk (s.hubWords v a a1).1 := by
  induction a1 generalizing s a with
  | zero => exact h
  | succ n ih =>
    unfold State.hubWords
    extract_lets r
    have hr : MemOk r.1 := memOk_hubRead h
    split
    · exact hr
    · split <;> exact ih hr

theorem memOk_hubDo {t : Target} {a : Word} {n : Nat} {o : HubOp} (h : MemOk s) : MemOk (s.hubDo v t a n o).1 := by
  unfold State.hubDo
  split
  · exact memOk_peerNeed _ h
  · exact memOk_hubPays (memOk_writeT _ _ _ _ _ (memOk_readT _ _ _ _ h))

theorem memOk_hubUpd {a : Word} {n : Nat} {o : HubOp} (h : MemOk s) : MemOk (s.hubUpd v a n o) := by
  unfold State.hubUpd
  extract_lets r
  have hr : MemOk r.1 := memOk_hubAt h
  split
  · exact memOk_engFault hr
  · exact hr
  · extract_lets q
    have hq : MemOk q.1 := memOk_hubDo hr
    split
    · exact memOk_engFault hq
    · exact hq

theorem memOk_sigSub {a : Word} {x : Nat} (h : MemOk s) : MemOk (s.sigSub v a x) := memOk_ite h (memOk_hubUpd h)

theorem memOk_sigSet {a : Word} {x : Nat} (h : MemOk s) : MemOk (s.sigSet v a x) := memOk_ite h (memOk_hubUpd h)

theorem memOk_ringSig {from_ : Option View} {a : Nat} {o : HubOp} (h : MemOk s) : MemOk (s.ringSig from_ a o) := by
  unfold State.ringSig
  split
  · exact h
  · split
    · exact memOk_hubUpd h
    · exact memOk_ite h (memOk_bankWrite _ _ _ h)

/-! ### Units -/

theorem memOk_barUpd {t : Target} {addr : Word} {o : BarOp} (h : MemOk s) : MemOk (s.barUpd v t addr o) := by
  unfold State.barUpd
  split
  · exact memOk_peerSend _ h
  · exact memOk_writeT _ _ _ _ _ (memOk_readT _ _ _ _ h)

theorem memOk_barRelease {t : Target} (h : MemOk s) : MemOk (s.barRelease v t) := by
  unfold State.barRelease
  split
  · exact h
  · exact memOk_ite (memOk_release _ _ h) h

theorem memOk_batchGo {cls a : Nat} (h : MemOk s) : MemOk (s.batchGo g cls a) := by
  induction a generalizing s with
  | zero => exact h
  | succ n ih =>
    unfold State.batchGo
    exact memOk_ite h (ih (memOk_updGrp _ _ (memOk_ite (memOk_release _ _ h) h)))

theorem memOk_batches {cls : Nat} (h : MemOk s) : MemOk (s.batches g cls) := memOk_batchGo h

theorem memOk_packetDone {p st : Nat} (h : MemOk s) : MemOk (s.packetDone p st) := by
  unfold State.packetDone
  split <;> exact h

theorem memOk_jobChild {j : Nat} {ok : Bool} (h : MemOk s) : MemOk (s.jobChild j ok) := by
  unfold State.jobChild
  split <;> exact h

theorem memOk_phaseChild {p : Nat} {ok : Bool} (h : MemOk s) : MemOk (s.phaseChild p ok) := by
  unfold State.phaseChild
  split
  · exact h
  · extract_lets _
    split
    · exact h
    · exact memOk_jobChild h

theorem memOk_graphChild {node st : Nat} (h : MemOk s) : MemOk (s.graphChild g node st) := by
  unfold State.graphChild
  split
  · exact h
  · extract_lets _
    split
    · exact h
    · exact memOk_phaseChild (memOk_packetDone h)

theorem memOk_launchCheck {l : Nat} (h : MemOk s) : MemOk (s.launchCheck l) := by
  unfold State.launchCheck
  split
  · exact h
  · extract_lets _ s1
    have hs1 : MemOk s1 := memOk_updLaunch _ _ h
    exact memOk_ite h (memOk_ite (memOk_packetDone hs1) (memOk_graphChild hs1))

theorem memOk_passCycles {core n : Nat} (h : MemOk s) : MemOk (s.passCycles core n) := by
  unfold State.passCycles
  extract_lets s1
  have hs1 : MemOk s1 := memOk_updCore _ _ h
  exact hs1

theorem memOk_retire (h : MemOk s) : MemOk (s.retire g sl) := by
  unfold State.retire
  extract_lets _ s1
  have hs1 : MemOk s1 := memOk_updGrp _ _ h
  exact memOk_ite (memOk_passCycles hs1) hs1

theorem memOk_lbarCheck {l : Nat} (h : MemOk s) : MemOk (s.lbarCheck l) := by
  unfold State.lbarCheck
  split
  · exact h
  · extract_lets _
    split
    · exact h
    · refine memOk_foldl (fun _ _ k => ?_) _ _ (memOk_updLaunch _ _ h)
      split
      · exact memOk_retire (memOk_updGrp _ _ (memOk_acquire _ _ k))
      · exact k

theorem memOk_retireAll {l : List (Join × Target)} (h : MemOk s) : MemOk (s.retireAll v l) := by
  induction l generalizing s with
  | nil => exact h
  | cons p l ih =>
    unfold State.retireAll
    split
    · exact ih (memOk_putRec h)
    · exact ih (memOk_barUpd (memOk_barRelease h))

theorem memOk_joinTargets {l : List Join} (h : MemOk s) : MemOk (s.joinTargets v l).1 := by
  induction l generalizing s with
  | nil => exact h
  | cons p l ih =>
    unfold State.joinTargets
    extract_lets _
    split <;> exact ih (memOk_resolve _ _ _ _ _ _ h)

theorem memOk_unwait (h : MemOk s) : MemOk (s.unwait g) := by
  unfold State.unwait
  extract_lets _ s1
  have hs1 : MemOk s1 := by
    unfold s1
    split
    · exact memOk_updWg _ _ h
    · exact memOk_updLaunch _ _ h
    · exact h
    · exact h
  exact memOk_updGrp _ _ hs1

theorem memOk_freeBank (h : MemOk s) : MemOk (s.freeBank g) := memOk_ite (memOk_of_mem (setBank_mem ..) h) h

theorem memOk_wgSweep {w : Nat} (h : MemOk s) : MemOk (s.wgSweep w) := by
  unfold State.wgSweep
  split
  · exact h
  · extract_lets s1
    have hs1 : MemOk s1 := memOk_ite h (memOk_updWg _ _ h)
    exact memOk_ite h (memOk_ite hs1 (twf_tclear _ _ hs1))

theorem memOk_wgFinish {w : Nat} {killed cancelled : Bool} (h : MemOk s) : MemOk (s.wgFinish w killed cancelled) := by
  unfold State.wgFinish
  split
  · exact h
  · extract_lets _ s2 s3
    have hs2 : MemOk s2 := twf_tclear _ _ (memOk_updWg _ _ h)
    have hs3 : MemOk s3 := by
      unfold s3
      split
      · exact memOk_ite hs2 (memOk_sigSub hs2)
      · exact hs2
    exact memOk_ite h (memOk_launchCheck (memOk_wgSweep (memOk_updLaunch _ _ hs3)))

theorem memOk_dropGroup (h : MemOk s) : MemOk (s.dropGroup g) := memOk_updWg _ _ (memOk_freeBank (memOk_unwait h))

theorem memOk_endGroups {l : List Nat} (h : MemOk s) : MemOk (s.endGroups l) := by
  induction l generalizing s with
  | nil => exact h
  | cons p l ih =>
    unfold State.endGroups
    exact ih (memOk_ite (memOk_dropGroup (memOk_retireAll (memOk_joinTargets h))) h)

theorem memOk_voidOps {p : Nat → Bool} (h : MemOk s) : MemOk (s.voidOps p) := memOk_ite h h

theorem memOk_dropCards {w : Nat} (h : MemOk s) : MemOk (s.dropCards w) := memOk_ite h (memOk_updLaunch _ _ h)

theorem memOk_endWg {w : Nat} {killed : Bool} (h : MemOk s) : MemOk (s.endWg w killed) := by
  unfold State.endWg
  extract_lets _ s1
  have hs1 : MemOk s1 := memOk_endGroups (memOk_voidOps h)
  exact memOk_wgFinish (memOk_lbarCheck (memOk_ite (memOk_dropCards hs1) hs1))

theorem memOk_kill {t : Trap} {nest : Bool} (h : MemOk s) : MemOk (s.kill g t nest) := memOk_endWg (memOk_putRec h)

theorem memOk_cancelLaunch {l : Nat} (h : MemOk s) : MemOk (s.cancelLaunch l) := by
  unfold State.cancelLaunch
  split
  · exact h
  · extract_lets _ _ _ s3
    have hs3 : MemOk s3 := memOk_foldl (fun _ _ k => memOk_endWg k) _ _ (memOk_updLaunch _ _ h)
    exact memOk_ite h (memOk_launchCheck (memOk_updLaunch _ _ hs3))

theorem memOk_cancelGraph (h : MemOk s) : MemOk (s.cancelGraph g) := by
  unfold State.cancelGraph
  split
  · exact h
  · exact memOk_ite h (memOk_phaseChild (memOk_packetDone (memOk_foldl (fun _ _ k => memOk_cancelLaunch k) _ _ h)))

theorem memOk_cancelPhase {p : Nat} (h : MemOk s) : MemOk (s.cancelPhase p) := by
  unfold State.cancelPhase
  split
  · exact h
  · exact memOk_ite h (memOk_jobChild (memOk_foldl (fun _ _ k => memOk_cancelGraph k) _ _ h))

theorem memOk_cancelJob {j : Nat} (h : MemOk s) : MemOk (s.cancelJob j) := by
  unfold State.cancelJob
  split
  · exact h
  · exact memOk_ite h (memOk_foldl (fun _ _ k => memOk_cancelPhase k) _ _ h)

/-! ### Ops -/

theorem memOk_fetchSlot {pc : Word} (h : MemOk s) : MemOk (s.fetchSlot g pc).1 := by
  unfold State.fetchSlot
  extract_lets _ r
  have hr : MemOk r.1 := memOk_translate _ _ _ _ _ _ h
  split
  · exact h
  · split
    · exact hr
    · exact hr
    · extract_lets t
      have ht : MemOk t.1 := memOk_of_mem (targetOf_mem ..) hr
      split
      · exact memOk_icFill (memOk_ite ht (memOk_chargeAt _ _ _ ht))
      · extract_lets _
        split <;> exact memOk_readP _ _ _ _ _ ht
      · exact ht
      · exact ht

theorem memOk_enterHdr {hdr : Word} {w : BitVec 128} (h : MemOk s) : MemOk (s.enterHdr g hdr w).1 :=
  memOk_ite1 (memOk_updGrp _ _ h) (memOk_updGrp _ _ h)

theorem memOk_target {t : Word} (h : MemOk s) : MemOk (s.target g t).1 := by
  unfold State.target
  extract_lets r
  have hr : MemOk r.1 := memOk_fetchSlot h
  split
  · exact h
  · split
    · exact hr
    · exact memOk_ite1 hr hr

theorem memOk_arrive (h : MemOk s) : MemOk (s.arrive g).1 := by
  unfold State.arrive
  extract_lets _ r
  have hr : MemOk r.1 := memOk_target h
  split
  · exact h
  · split
    · exact hr
    · exact memOk_enterHdr hr

theorem memOk_atHeader (h : MemOk s) : MemOk (s.atHeader g).1 := by
  unfold State.atHeader
  extract_lets _ r
  have hr : MemOk r.1 := memOk_fetchSlot h
  split
  · exact h
  · exact memOk_ite1 hr (memOk_ite1 (memOk_enterHdr hr) h)

theorem memOk_nextSlot (h : MemOk s) : MemOk (s.nextSlot g).1 := by
  unfold State.nextSlot
  extract_lets r
  have hr : MemOk r.1 := memOk_arrive h
  split
  · exact hr
  · split <;> exact memOk_fetchSlot hr

theorem memOk_holdGroup {t : Trap} (h : MemOk s) : MemOk (s.holdGroup g t) := memOk_updGrp _ _ (memOk_hold h)

theorem memOk_takeBank (h : MemOk s) : MemOk (s.takeBank g) := memOk_of_mem (setBank_mem ..) h

theorem memOk_trapSaved {t : Trap} (h : MemOk s) : MemOk (s.trapSaved g t) := memOk_updGrp _ _ (memOk_takeBank h)

theorem memOk_enterTrap {t : Trap} {handler : Word} (h : MemOk s) : MemOk (s.enterTrap g t handler) := by
  unfold State.enterTrap
  extract_lets _ _ r s2
  have hr : MemOk r.1 := memOk_target (memOk_trapSaved h)
  have hs2 : MemOk s2 := memOk_updGrp _ _ hr
  split
  · extract_lets q
    have hq : MemOk q.1 := memOk_enterHdr hr
    split
    · exact hq
    · exact memOk_kill hq
  · exact memOk_ite (memOk_holdGroup hs2) (memOk_kill hs2)

theorem memOk_deliver {t : Trap} {handler : Word} (h : MemOk s) : MemOk (s.deliver g t handler) := by
  unfold State.deliver
  split
  · exact memOk_ite (memOk_enterTrap h) (memOk_updGrp _ _ h)
  · exact memOk_enterTrap h

theorem memOk_deliverTrap {t : Trap} (h : MemOk s) : MemOk (s.deliverTrap g t) :=
  memOk_ite (memOk_kill h) (memOk_ite (memOk_kill h) (memOk_deliver h))

theorem memOk_raise {r : Raise} {pc : Word} (h : MemOk s) : MemOk (s.raise g r pc) :=
  memOk_ite (memOk_holdGroup h) (memOk_deliverTrap h)

theorem memOk_lonely {w : Nat} (h : MemOk s) : MemOk (s.lonely w) := by
  unfold State.lonely
  split
  · split
    · exact memOk_raise (memOk_unwait h)
    · exact h
  · exact h

theorem memOk_exitGroup {ts : List (Join × Target)} (h : MemOk s) : MemOk (s.exitGroup g ts) := by
  unfold State.exitGroup
  extract_lets _ _ _ s2
  have hs2 : MemOk s2 := memOk_lbarCheck (memOk_lonely (memOk_dropGroup (memOk_retireAll h)))
  exact memOk_ite (memOk_wgFinish hs2) hs2

theorem memOk_takeDelayed (h : MemOk s) : MemOk (s.takeDelayed g) := by
  unfold State.takeDelayed
  split
  · exact h
  · extract_lets _ q
    have hq : MemOk q.1 := memOk_arrive (memOk_updGrp _ _ (memOk_unwait h))
    split
    · exact memOk_raise (memOk_updGrp _ _ hq)
    · exact memOk_deliverTrap hq

theorem memOk_late {fn ctx : Nat} {r : Raise} {eng : Bool} (h : MemOk s) : MemOk (s.late g fn ctx r eng) := by
  unfold State.late
  split
  · exact memOk_updGrp _ _ h
  · exact memOk_putRec h

theorem memOk_enterPreempt (h : MemOk s) : MemOk (s.enterPreempt g) :=
  memOk_deliver (memOk_updGrp _ _ (memOk_arrive h))

theorem memOk_leaveTrap {pc : Word} (h : MemOk s) : MemOk (s.leaveTrap g pc) := memOk_updGrp _ _ (memOk_freeBank h)

theorem memOk_resumed (h : MemOk s) : MemOk (s.resumed g) := by
  unfold State.resumed
  extract_lets q
  have hq : MemOk q.1 := memOk_ite1 (memOk_atHeader h) (memOk_arrive h)
  split
  · exact memOk_enterPreempt hq
  · split
    · exact hq
    · exact memOk_raise hq

theorem memOk_writeLater {ws : List RegWrite} {late : Bool} (h : MemOk s) : MemOk (s.writeLater g sl ws late) :=
  memOk_updGrp _ _ h

theorem memOk_finish {lat : Lat} {ws : List RegWrite} {late : Bool} (h : MemOk s) :
    MemOk (s.finish g sl lat ws late) := by
  unfold State.finish
  extract_lets _ s1 s2
  have hs1 : MemOk s1 := memOk_ite (memOk_updGrp _ _ h) h
  have hs2 : MemOk s2 := by
    unfold s2
    split
    · exact memOk_writeLater hs1
    · exact memOk_updGrp _ _ (memOk_writeNow hs1)
  exact memOk_retire (memOk_updGrp _ _ hs2)

theorem memOk_retireAt (h : MemOk s) : MemOk (s.retireAt g sl) := by
  unfold State.retireAt
  extract_lets _ s1
  have hs1 : MemOk s1 := memOk_updGrp _ _ h
  exact memOk_ite (memOk_passCycles hs1) hs1

theorem memOk_apply {lat : Lat} {e : Effect} (he : EffOk e) : MemOk (s.apply g sl lat e) := by
  unfold State.apply
  split
  · exact memOk_finish he
  · exact memOk_finish he
  · exact memOk_retireAt he
  · exact he
  · exact memOk_raise he

theorem memOk_issue {f : Form} {lat : Lat} {body : State → Group → Effect} (h : MemOk s)
    (hbody : ∀ t a, MemOk t → EffOk (body t a)) :
    MemOk (s.issue g f lat sl body) := by
  unfold State.issue
  extract_lets _ _ s1
  have hs1 : MemOk s1 := memOk_updGrp _ _ h
  split
  · exact memOk_passCycles (memOk_updGrp _ _ h)
  · split
    · exact memOk_raise h
    · split
      · exact memOk_raise h
      · exact memOk_ite (memOk_retire hs1) (memOk_apply (hbody _ _ hs1))

theorem outOk_runSlot {f : Form} {lat : Lat} {body : State → Group → Effect}
    (hbody : ∀ t a, MemOk t → EffOk (body t a)) (h : MemOk s) :
    OutOk (runSlot f lat sl body s) := by
  unfold runSlot
  split
  · exact trivial
  · exact memOk_issue h (fun _ _ k => hbody _ _ k)

theorem effOk_stalled (h : MemOk s) : EffOk (s.stalled x) := memOk_passCycles (memOk_updGrp _ _ h)

theorem effOk_syncAfter {f : Effect} (h : MemOk s) (hf : EffOk f) : EffOk (syncAfter s x f) := by
  unfold syncAfter
  split
  · exact hf
  · exact effOk_stalled h

/-! ### Control -/

theorem effOk_jumpTo {t : Word} {pre : State → State} (h : MemOk s) (hpre : ∀ t, MemOk t → MemOk (pre t)) :
    EffOk (s.jumpTo g t pre) := by
  unfold State.jumpTo
  extract_lets r
  have hr : MemOk r.1 := memOk_target h
  split
  · exact hr
  · extract_lets _
    split
    · exact memOk_enterHdr (hpre _ hr)
    · exact hr

theorem memOk_link {ws : List RegWrite} (h : MemOk s) : MemOk (s.link g ws) := memOk_updGrp _ _ (memOk_writeNow h)

theorem effOk_braBody (h : MemOk s) : EffOk (braBody sl s x) := effOk_jumpTo h (fun _ k => k)

theorem effOk_brxBody (h : MemOk s) : EffOk (brxBody sl s x) := effOk_jumpTo h (fun _ k => k)

theorem effOk_callTo {t : Word} (h : MemOk s) : EffOk (callTo sl t s x) := by
  unfold callTo
  split
  · exact h
  · exact effOk_jumpTo h (fun _ k => memOk_link k)

theorem effOk_callBody (h : MemOk s) : EffOk (callBody sl s x) := effOk_callTo h

theorem effOk_callxBody (h : MemOk s) : EffOk (callxBody sl s x) := effOk_callTo h

theorem effOk_loopBody (h : MemOk s) : EffOk (loopBody sl s x) := by
  unfold loopBody
  extract_lets _
  split
  · exact h
  · exact effOk_jumpTo h (fun _ k => memOk_link k)

theorem effOk_branyBody (h : MemOk s) : EffOk (branyBody sl s x) := by
  unfold branyBody
  extract_lets _
  split
  · exact effOk_jumpTo h (fun _ k => k)
  · exact h

theorem effOk_brallBody (h : MemOk s) : EffOk (brallBody sl s x) := by
  unfold brallBody
  extract_lets _
  split
  · exact effOk_jumpTo h (fun _ k => k)
  · exact h

theorem memOk_exitTargets {l : List Join} (h : MemOk s) : MemOk (s.exitTargets v l).1 := by
  induction l generalizing s with
  | nil => exact h
  | cons p l ih =>
    unfold State.exitTargets
    extract_lets q
    have hq : MemOk q.1 := memOk_resolve _ _ _ _ _ _ h
    split
    · exact hq
    · split <;> exact ih hq

theorem effOk_exitBody (h : MemOk s) : EffOk (exitBody s x) := by
  unfold exitBody
  extract_lets r
  have hr : MemOk r.1 := memOk_exitTargets h
  refine effOk_syncAfter h ?_
  split
  · exact hr
  · exact memOk_exitGroup (memOk_passCycles hr)

theorem effOk_lexitBody (h : MemOk s) : EffOk (lexitBody sl s x) := memOk_updGrp _ _ h

theorem effOk_yieldBody (h : MemOk s) : EffOk (yieldBody sl s x) := memOk_finish h

theorem effOk_mpushBody (h : MemOk s) : EffOk (mpushBody sl s x) := by
  unfold mpushBody
  extract_lets _
  split
  · exact h
  · split
    · exact h
    · exact memOk_updGrp _ _ h

theorem effOk_melseBody (h : MemOk s) : EffOk (melseBody s x) := by
  unfold melseBody
  split
  · exact h
  · split
    · exact h
    · exact memOk_updGrp _ _ h

theorem effOk_mpopBody (h : MemOk s) : EffOk (mpopBody s x) := by
  unfold mpopBody
  split
  · exact h
  · split
    · exact h
    · exact memOk_updGrp _ _ h

theorem effOk_msetBody (h : MemOk s) : EffOk (msetBody sl s x) := by
  unfold msetBody
  split
  · exact h
  · exact memOk_updGrp _ _ h

theorem effOk_setfmtBody (h : MemOk s) : EffOk (setfmtBody sl s x) := by
  unfold setfmtBody
  split
  · exact h
  · exact memOk_updGrp _ _ h

/-! ### VecInt -/

theorem effOk_cmpOut {w : Nat} {any : Bool} {c : Nat → Nat → Bool} (h : MemOk s) : EffOk (cmpOut sl s x w any c) := by
  unfold cmpOut
  split <;> exact h

theorem effOk_vcmpBody (h : MemOk s) : EffOk (vcmpBody sl s x) := effOk_cmpOut h

theorem effOk_vselBody (h : MemOk s) : EffOk (vselBody sl s x) := by
  unfold vselBody
  extract_lets _
  split <;> exact h

/-! ### VecFloat -/

theorem effOk_floatRun {typed : FCtx} {ok : Nat → Nat → Nat → Bool} {use : FCtx → List Fmt} {f : FCtx → Effect}
    (h : MemOk s) (hf : ∀ a, EffOk (f a)) :
    EffOk (floatRun sl s x typed ok use f) := by
  unfold floatRun
  extract_lets _
  split
  · split
    · split
      · exact hf _
      · exact h
    · exact h
  · exact hf _

theorem effOk_flt1 {f : FCtx → FVal → FVal} (h : MemOk s) : EffOk (flt1 f sl s x) := by
  unfold flt1
  extract_lets _
  exact effOk_floatRun h (fun _ => h)

theorem effOk_flt2 {f : FCtx → FVal → FVal → FVal} (h : MemOk s) : EffOk (flt2 f sl s x) := by
  unfold flt2
  extract_lets _
  exact effOk_floatRun h (fun _ => h)

theorem effOk_ffmaBody (h : MemOk s) : EffOk (ffmaBody sl s x) := by
  unfold ffmaBody
  extract_lets _
  exact effOk_floatRun h (fun _ => h)

theorem effOk_fcmpBody (h : MemOk s) : EffOk (fcmpBody sl s x) := by
  unfold fcmpBody
  extract_lets _
  exact effOk_floatRun h (fun _ => effOk_cmpOut h)

theorem effOk_fclassBody (h : MemOk s) : EffOk (fclassBody sl s x) := by
  unfold fclassBody
  extract_lets _
  exact effOk_floatRun h (fun _ => effOk_cmpOut h)

theorem effOk_fdot2Body (h : MemOk s) : EffOk (fdot2Body sl s x) := by
  unfold fdot2Body
  extract_lets _
  split
  · split <;> exact h
  · exact h

theorem effOk_specialBody {opc : Nat} (h : MemOk s) : EffOk (specialBody opc sl s x) := by
  unfold specialBody
  extract_lets _
  exact effOk_floatRun h (fun _ => h)

theorem effOk_fcvtBody (h : MemOk s) : EffOk (fcvtBody sl s x) := by
  unfold fcvtBody
  exact effOk_floatRun h (fun _ => h)

theorem effOk_fcvtiBody (h : MemOk s) : EffOk (fcvtiBody sl s x) := by
  unfold fcvtiBody
  exact effOk_floatRun h (fun _ => h)

theorem effOk_fqsumBody (h : MemOk s) : EffOk (fqsumBody sl s x) := by
  unfold fqsumBody
  exact effOk_floatRun h (fun _ => h)

/-! ### Lanes -/

theorem effOk_xferWait {send : Bool} (h : MemOk s) : EffOk (xferWait send sl s x) := by
  unfold xferWait
  extract_lets _
  split
  · exact h
  · exact memOk_updGrp _ _ (memOk_updWg _ _ h)

theorem effOk_xferMismatch {peer : Nat} {psl : Slot} (h : MemOk s) : EffOk (xferMismatch sl peer psl s) := by
  unfold xferMismatch
  extract_lets _
  split <;> exact memOk_raise (memOk_unwait h)

theorem effOk_xferArrive {send : Bool} (h : MemOk s) : EffOk (xferArrive send sl s x) := by
  unfold xferArrive
  extract_lets _ _ _ s1
  have hs1 : MemOk s1 := memOk_unwait h
  split
  · exact effOk_xferWait h
  · split
    · split
      · exact h
      · split
        · exact effOk_xferMismatch h
        · exact memOk_finish hs1
    · split
      · exact h
      · split
        · exact effOk_xferMismatch h
        · exact memOk_finish hs1

/-! ### Memory -/

theorem memOk_account {hub wr : Bool} {ps : List Piece} (h : MemOk s) : MemOk (s.account v hub wr ps) := by
  unfold State.account
  extract_lets _ s1
  have hs1 : MemOk s1 := memOk_ite h (memOk_debit _ _ _ _ h)
  exact memOk_ite hs1 (memOk_charge _ _ hs1)

theorem memOk_accountOne {t : Target} {a : Word} (h : MemOk s) : MemOk (s.accountOne v t a) := memOk_account h

theorem memOk_ordBefore (h : MemOk s) : MemOk (s.ordBefore v sl) := memOk_ite (memOk_release _ _ h) h

theorem memOk_ordAfter (h : MemOk s) : MemOk (s.ordAfter v sl) := memOk_ite (memOk_acquire _ _ h) h

theorem memOk_lateErr {ps : List Piece} (h : MemOk s) : MemOk (s.lateErr v ps) := by
  unfold State.lateErr
  split
  · exact memOk_late h
  · exact h

theorem memOk_told {n kind words : Nat} {ask : Ask} {a : Nat} {l : List Piece} (h : MemOk s) :
    MemOk (s.told v sl n kind words ask a l).1 := by
  induction l generalizing s a with
  | nil => exact h
  | cons p l ih =>
    unfold State.told
    extract_lets r
    have hr : MemOk r.1 := by
      unfold r
      split
      · exact memOk_ite1 (memOk_peerNeed _ h) (memOk_ite1 (memOk_peerRead _ _ _ _ _ _ h) h)
      · exact memOk_fmtPeerRead _ _ _ _ _ _ _ _ h
      · exact h
    exact ih hr

theorem memOk_askPeers {ask : Ask} {a : Nat} {l : List Piece} (h : MemOk s) : MemOk (s.askPeers v ask a l) := by
  induction l generalizing s a with
  | nil => exact h
  | cons p l ih =>
    unfold State.askPeers
    split
    · exact ih (memOk_peerSend _ h)
    · exact ih h

theorem effOk_accessRun {n kind : Nat} {hub : Bool} {addrs : List (Nat × Word)} {ask : Ask}
    {f : State → View → List Piece → State × List RegWrite} {words : Nat} (h : MemOk s)
    (hf : ∀ t a b, MemOk t → MemOk (f t a b).1) :
    EffOk (accessRun sl n kind hub addrs s x ask f words) := by
  unfold accessRun
  extract_lets _ r
  have hr : MemOk r.1 := memOk_resolveAll _ _ _ _ _ _ h
  split
  · exact effOk_stalled h
  · split
    · exact hr
    · extract_lets _ _ s1
      have hs1 : MemOk s1 := memOk_account (memOk_ordBefore (memOk_told hr))
      exact memOk_lateErr (memOk_ordAfter (hf _ _ _ (memOk_ite hs1 (memOk_askPeers hs1))))

theorem effOk_ldBody (h : MemOk s) : EffOk (ldBody sl s x) := by
  unfold ldBody
  extract_lets _
  exact effOk_accessRun h (fun _ _ _ k => memOk_readAll _ _ _ _ k)

theorem effOk_ldxBody (h : MemOk s) : EffOk (ldxBody sl s x) := by
  unfold ldxBody
  extract_lets _
  exact effOk_accessRun h (fun _ _ _ k => memOk_readAll _ _ _ _ k)

theorem effOk_ldsBody (h : MemOk s) : EffOk (ldsBody sl s x) := by
  unfold ldsBody
  extract_lets _
  exact effOk_accessRun h (fun _ _ _ k => memOk_readAll _ _ _ _ k)

theorem effOk_ldbBody (h : MemOk s) : EffOk (ldbBody sl s x) := by
  unfold ldbBody
  exact effOk_accessRun h (fun _ _ _ k => memOk_readAll _ _ _ _ k)

theorem memOk_storeAll {n : Nat} {f : Nat → Piece → Nat} {ps : List Piece} (h : MemOk s) :
    MemOk (storeAll sl n f s v ps).1 :=
  memOk_writeAll _ _ _ _ _ h

theorem effOk_stBody (h : MemOk s) : EffOk (stBody sl s x) := effOk_accessRun h (fun _ _ _ k => memOk_storeAll k)

theorem effOk_stxBody (h : MemOk s) : EffOk (stxBody sl s x) := effOk_accessRun h (fun _ _ _ k => memOk_storeAll k)

theorem effOk_stsBody (h : MemOk s) : EffOk (stsBody sl s x) := effOk_accessRun h (fun _ _ _ k => memOk_storeAll k)

theorem effOk_stbBody (h : MemOk s) : EffOk (stbBody sl s x) := effOk_accessRun h (fun _ _ _ k => memOk_storeAll k)

theorem effOk_atomBody (h : MemOk s) : EffOk (atomBody sl s x) := by
  unfold atomBody
  extract_lets _
  exact effOk_accessRun h (fun _ _ _ k => memOk_rmwAll _ _ _ _ _ k)

theorem effOk_atomsBody (h : MemOk s) : EffOk (atomsBody sl s x) := by
  unfold atomsBody
  extract_lets _
  exact effOk_accessRun h (fun _ _ _ k => memOk_rmwAll _ _ _ _ _ k)

theorem effOk_redBody (h : MemOk s) : EffOk (redBody sl s x) := by
  unfold redBody
  exact effOk_accessRun h (fun _ _ _ k => memOk_rmwAll _ _ _ _ _ k)

theorem effOk_fenceBody (h : MemOk s) : EffOk (fenceBody sl s x) := by
  unfold fenceBody
  extract_lets _ s1
  have hs1 : MemOk s1 := memOk_ite (memOk_release _ _ (memOk_fmtFence _ h)) (memOk_ordBefore h)
  exact effOk_syncAfter h (memOk_ordAfter hs1)

theorem effOk_prefBody (h : MemOk s) : EffOk (prefBody sl s x) := by
  unfold prefBody
  extract_lets _
  split
  · exact effOk_stalled h
  · exact memOk_ite h (memOk_debit _ _ _ _ h)

theorem effOk_colclnBody (h : MemOk s) : EffOk (colclnBody s x) := memOk_cleanCore _ h

theorem effOk_colinvBody (h : MemOk s) : EffOk (colinvBody s x) := memOk_nextGen _ (memOk_cleanCore _ h)

theorem effOk_cctlBody (h : MemOk s) : EffOk (cctlBody sl s x) := by
  unfold cctlBody
  extract_lets _
  split
  · exact effOk_stalled h
  · exact memOk_foldl (fun _ _ k => memOk_of_mem (l1Map_mem ..) k) _ _ h

/-! ### Sync -/

theorem memOk_waitDone (h : MemOk s) : MemOk (s.waitDone v x sl).1 := memOk_ite (memOk_acquire _ _ h) h

theorem effOk_waitpBody (h : MemOk s) : EffOk (waitpBody sl s x) := by
  unfold waitpBody
  extract_lets _ _ _ _ r
  have hr : MemOk r.1 := memOk_resolve _ _ _ _ _ _ h
  split
  · exact effOk_stalled h
  · split
    · exact hr
    · exact memOk_late (memOk_updGrp _ _ hr)
    · extract_lets q
      have hq : MemOk q.1 := memOk_readP _ _ _ _ _ (memOk_accountOne hr)
      split
      · exact memOk_late (memOk_updGrp _ _ hq)
      · split
        · exact memOk_waitDone hq
        · exact memOk_updGrp _ _ hq

theorem effOk_barRun {a : Word} {o : BarOp} {f : State → View → Target → BarObj → Effect} (h : MemOk s)
    (hf : ∀ t a b c, MemOk t → EffOk (f t a b c)) :
    EffOk (barRun a o s x f) := by
  unfold barRun
  extract_lets _ err r
  have herr : ∀ t a b, MemOk t → EffOk (err t a b) := fun _ _ _ k => memOk_late k
  have hr : MemOk r.1 := memOk_resolve _ _ _ _ _ _ h
  split
  · exact effOk_stalled h
  · split
    · exact hr
    · exact herr _ _ _ hr
    · extract_lets _ q
      have hq : MemOk q.1 := memOk_peerNeed _ (memOk_accountOne hr)
      split
      · exact herr _ _ _ hq
      · exact hf _ _ _ _ hq
      · exact hq
    · exact hf _ _ _ _ (memOk_readT _ _ _ _ (memOk_accountOne hr))

theorem effOk_barCheck {a : Word} {f : State → Effect} (h : MemOk s) (hf : ∀ t, MemOk t → EffOk (f t)) :
    EffOk (barCheck a s x f) := by
  unfold barCheck
  extract_lets _ r
  have hr : MemOk r.1 := memOk_resolve _ _ _ _ _ _ h
  split
  · exact effOk_stalled h
  · split
    · exact hr
    · exact memOk_late hr
    · exact hf _ hr

theorem memOk_barPut {t : Target} {o : BarOp} {b : BarObj} (h : MemOk s) : MemOk (s.barPut v t o b) := by
  unfold State.barPut
  split
  · exact h
  · exact memOk_writeT _ _ _ _ _ (memOk_ite (memOk_barRelease h) h)

theorem effOk_boinitBody (h : MemOk s) : EffOk (boinitBody sl s x) := by
  unfold boinitBody
  extract_lets _
  refine effOk_barRun h (fun _ _ _ _ k => ?_)
  split
  · exact k
  · exact memOk_barPut k

theorem effOk_boarrBody (h : MemOk s) : EffOk (boarrBody sl s x) := by
  unfold boarrBody
  extract_lets _
  refine effOk_barRun h (fun _ _ _ _ k => ?_)
  extract_lets _
  split
  · exact k
  · split
    · exact k
    · split
      · exact k
      · exact memOk_barPut (memOk_ite (memOk_updGrp _ _ k) k)

theorem effOk_bojoinBody (h : MemOk s) : EffOk (bojoinBody sl s x) := by
  unfold bojoinBody
  extract_lets _
  refine effOk_barRun h (fun _ _ _ _ k => ?_)
  extract_lets _
  split
  · exact k
  · split
    · exact k
    · exact memOk_barPut (memOk_updGrp _ _ k)

theorem effOk_boleaveBody (h : MemOk s) : EffOk (boleaveBody sl s x) := by
  unfold boleaveBody
  extract_lets _
  split
  · exact effOk_barCheck h (fun _ k => k)
  · extract_lets _
    exact effOk_barRun h (fun _ _ _ _ k => memOk_barPut (memOk_updGrp _ _ k))

theorem effOk_lbarBody (h : MemOk s) : EffOk (lbarBody sl s x) := by
  unfold lbarBody
  extract_lets _
  split
  · exact h
  · exact effOk_syncAfter h (memOk_lbarCheck (memOk_updLaunch _ _ (memOk_updGrp _ _ (memOk_release _ _ h))))

theorem memOk_toPoint {t : Target} (h : MemOk s) : MemOk (s.toPoint v t) := by
  unfold State.toPoint
  split
  · exact memOk_reach _ _ h
  · exact h

theorem memOk_ringAt {a : Word} {kind : Nat} {wr : Bool} (h : MemOk s) : MemOk (s.ringAt v a kind wr).1 := by
  unfold State.ringAt
  extract_lets r
  have hr : MemOk r.1 := memOk_resolve _ _ _ _ _ _ h
  split
  · exact hr
  · extract_lets _
    split <;> exact memOk_readP _ _ _ _ _ hr
  · exact memOk_toPoint hr

theorem memOk_ringElem {b : Rcb} {i : Nat} {wr : Bool} (h : MemOk s) : MemOk (s.ringElem v b i wr).1 :=
  memOk_resolveAll _ _ _ _ _ _ h

theorem memOk_ringIndex {t : Target} {a : Word} {off i : Nat} (h : MemOk s) : MemOk (s.ringIndex v t a off i) := by
  unfold State.ringIndex
  split
  · exact memOk_peerWrite _ _ _ _ _ _ _ _ h
  · exact memOk_countLine _ (memOk_wr _ _ _ h)
  · exact memOk_wr _ _ _ h

theorem memOk_noteEnq {t : Target} {ps : List Piece} (h : MemOk s) : MemOk (s.noteEnq v t ps) := by
  unfold State.noteEnq
  split
  · exact memOk_ite h h
  · exact h

theorem memOk_ringWords {l : List (Piece × Nat)} (h : MemOk s) : MemOk (s.ringWords v l).1 := by
  induction l generalizing s with
  | nil => exact h
  | cons p l ih =>
    unfold State.ringWords
    split
    · extract_lets r
      have hr : MemOk r.1 := memOk_peerNeed _ h
      exact memOk_ite1 hr (ih hr)
    · exact ih (memOk_writeT _ _ _ _ _ h)

theorem memOk_ringPush {t : Target} {a : Word} {b : Rcb} {ps : List Piece} {ws : List Nat} (h : MemOk s) :
    MemOk (s.ringPush v t a b ps ws).1 := by
  unfold State.ringPush
  extract_lets r
  have hr : MemOk r.1 := memOk_ringWords h
  split
  · exact hr
  · exact memOk_noteEnq (memOk_ringIndex hr)

theorem memOk_ringPop {t : Target} {a : Word} {b : Rcb} {ps : List Piece} (h : MemOk s) :
    MemOk (s.ringPop v t a b ps).1 := by
  unfold State.ringPop
  extract_lets r
  have hr : MemOk r.1 := memOk_readPs _ _ _ _ h
  split
  · exact hr
  · exact memOk_ringIndex hr

theorem memOk_ringDo {dq : Bool} {t : Target} {a : Word} {b : Rcb} {ps : List Piece} {ws : List Nat} (h : MemOk s) :
    MemOk (s.ringDo v dq t a b ps ws).1 := by
  unfold State.ringDo
  extract_lets here
  have hhere : ∀ t, MemOk t → MemOk (here t).1 := by
    unfold here
    refine fun _ k => ?_
    extract_lets _
    split
    · split <;> exact memOk_ringPop k
    · split <;> exact memOk_ringPush k
  split
  · split
    · extract_lets _ q
      have hq : MemOk q.1 := memOk_peerNeed _ h
      split
      · exact hq
      · exact memOk_ite1 hq hq
      · exact hq
    · exact hhere _ h
  · exact hhere _ h

theorem effOk_ringRun {dq : Bool} {ws : List Nat} {f : List Nat → List RegWrite} (h : MemOk s) :
    EffOk (ringRun sl dq ws s x f) := by
  unfold ringRun
  extract_lets _ _ before after r
  have hbefore : ∀ t, MemOk t → MemOk (before t) := fun _ k => memOk_ite k (memOk_release _ _ k)
  have hafter : ∀ t, MemOk t → MemOk (after t) := fun _ k => memOk_ite (memOk_acquire _ _ k) k
  have hr : MemOk r.1 := memOk_ringAt h
  split
  · exact effOk_stalled h
  · split
    · exact hr
    · exact memOk_late hr
    · extract_lets q
      have hq : MemOk q.1 := memOk_ringElem (memOk_lockTake hr)
      split
      · exact effOk_stalled h
      · split
        · exact hr
        · split
          · split
            · exact hafter _ (hbefore _ (memOk_accountOne hr))
            · split
              · exact hq
              · split
                · exact memOk_late hq
                · extract_lets u
                  have hu : MemOk u.1 := memOk_ringDo (hbefore _ (memOk_account hq))
                  split
                  · exact memOk_late hu
                  · exact effOk_stalled hu
                  · exact hafter _ hu
          · split
            · exact hafter _ (hbefore _ (memOk_accountOne hr))
            · split
              · exact hq
              · split
                · exact memOk_late hq
                · extract_lets u
                  have hu : MemOk u.1 := memOk_ringDo (hbefore _ (memOk_account hq))
                  split
                  · exact memOk_late hu
                  · exact effOk_stalled hu
                  · exact hafter _ hu

theorem effOk_enqBody (h : MemOk s) : EffOk (enqBody sl s x) := effOk_ringRun h

theorem effOk_deqBody (h : MemOk s) : EffOk (deqBody sl s x) := effOk_ringRun h

/-! ### Bins -/

theorem memOk_binAcq {t : Target} (h : MemOk s) : MemOk (s.binAcq v t) := memOk_ite (memOk_acquire _ _ h) h

theorem memOk_binRel {t : Target} (h : MemOk s) : MemOk (s.binRel v t) := memOk_ite (memOk_release _ _ h) h

theorem memOk_readMap {b : Bin} {a : Word} {wr : Bool} (h : MemOk s) : MemOk (s.readMap v b a wr).1 := by
  unfold State.readMap
  extract_lets r
  have hr : MemOk r.1 := memOk_resolveAll _ _ _ _ _ _ h
  split
  · exact h
  · split
    · exact hr
    · exact memOk_readNeed _ _ _ _ (memOk_askAll _ _ _ _ hr)

theorem memOk_writeMap {b : BitMap} {m : Nat} (h : MemOk s) : MemOk (s.writeMap v b m) :=
  memOk_ite h (memOk_writeAll _ _ _ _ _ h)

theorem memOk_readMaps {b : Bin} {wo ww : Bool} (h : MemOk s) : MemOk (s.readMaps v b wo ww).1 := by
  unfold State.readMaps
  extract_lets r
  have hr : MemOk r.1 := memOk_readMap h
  split
  · exact hr
  · split <;> exact memOk_readMap hr

theorem memOk_binPut {t : Target} {a : Word} {b : Bin} (h : MemOk s) : MemOk (s.binPut v t a b) :=
  memOk_writeP _ _ _ _ _ _ h

theorem memOk_binSet {t : Target} {a : Word} {b : Bin} {o w : BitMap} {om wm : Nat} (h : MemOk s) :
    MemOk (s.binSet v t a b o w om wm) :=
  memOk_binPut (memOk_writeMap (memOk_writeMap h))

theorem memOk_binRing {b : Bin} {wr : Bool} (h : MemOk s) : MemOk (s.binRing v b wr).1 := by
  unfold State.binRing
  extract_lets r
  have hr : MemOk r.1 := memOk_ringAt h
  split
  · exact h
  · split
    · exact hr
    · exact hr
    · exact memOk_ite1 hr (memOk_accountOne hr)

theorem memOk_ringElems {rc : Rcb} {wr : Bool} {i a : Nat} (h : MemOk s) : MemOk (s.ringElems v rc wr i a).1 := by
  induction a generalizing s i with
  | zero => exact h
  | succ n ih =>
    unfold State.ringElems
    extract_lets r
    have hr : MemOk r.1 := memOk_ringElem h
    split
    · exact hr
    · split <;> exact ih hr

theorem memOk_binRows {b : Bin} {wr : Bool} {l : List (Nat × Nat)} (h : MemOk s) : MemOk (s.binRows v b wr l).1 := by
  induction l generalizing s with
  | nil => exact h
  | cons p l ih =>
    unfold State.binRows
    extract_lets q
    have hq : MemOk q.1 := memOk_resolveAll _ _ _ _ _ _ h
    split
    · exact hq
    · split <;> exact ih hq

theorem effOk_binLate {e : Raise} (h : MemOk s) : EffOk (s.binLate v e) := memOk_late h

theorem effOk_binRead {t : Target} {a : Word} {f : State → Bin → Effect} (h : MemOk s)
    (hf : ∀ t a, MemOk t → EffOk (f t a)) :
    EffOk (s.binRead v t a f) := by
  unfold State.binRead
  extract_lets q
  have hq : MemOk q.1 := memOk_readP _ _ _ _ _ (memOk_accountOne (memOk_binRel h))
  split
  · exact effOk_binLate hq
  · exact hf _ _ hq

theorem effOk_binOpen {a : Word} {wr : Bool} {f : State → View → Target → Bin → Effect} (h : MemOk s)
    (hf : ∀ t a b c, MemOk t → EffOk (f t a b c)) :
    EffOk (binOpen a wr s x f) := by
  unfold binOpen
  extract_lets _ r
  have hr : MemOk r.1 := memOk_resolve _ _ _ _ _ _ h
  split
  · exact effOk_stalled h
  · split
    · exact hr
    · exact effOk_binLate hr
    · split
      · exact effOk_stalled h
      · exact effOk_syncAfter h (effOk_binRead (memOk_lockTake hr) (fun _ _ k => hf _ _ _ _ k))

theorem effOk_binRun {a : Word} {wr : Bool} {f : State → View → Target → Bin → Effect} (h : MemOk s)
    (hf : ∀ t a b c, MemOk t → EffOk (f t a b c)) :
    EffOk (binRun a wr s x f) := by
  unfold binRun
  refine effOk_binOpen h (fun _ _ _ _ k => ?_)
  split
  · exact k
  · exact hf _ _ _ _ k

theorem effOk_mapsRun {b : Bin} {wo ww : Bool} {f : State → BitMap → BitMap → Effect} (h : MemOk s)
    (hf : ∀ t a b, MemOk t → EffOk (f t a b)) :
    EffOk (mapsRun s v b wo ww f) := by
  unfold mapsRun
  extract_lets r
  have hr : MemOk r.1 := memOk_readMaps h
  split
  · exact hr
  · split
    · exact effOk_binLate hr
    · exact hf _ _ _ (memOk_account hr)

theorem memOk_initRing {b : Bin} (h : MemOk s) : MemOk (s.initRing v b).1 := by
  unfold State.initRing
  extract_lets r
  have hr : MemOk r.1 := memOk_ringAt h
  split
  · exact h
  · split
    · exact hr
    · exact hr
    · exact memOk_accountOne hr

theorem effOk_bininitBody (h : MemOk s) : EffOk (bininitBody sl s x) := by
  unfold bininitBody
  extract_lets _
  refine effOk_binOpen h (fun _ _ _ _ k => ?_)
  extract_lets u
  have hu : MemOk u.1 := memOk_initRing k
  split
  · exact k
  · split
    · exact hu
    · split
      · exact hu
      · exact effOk_mapsRun hu (fun _ _ _ k1 => memOk_binAcq (memOk_binSet k1))

theorem effOk_frameRun {w : Nat} {f : Effect} (h : MemOk s) (hf : EffOk f) : EffOk (frameRun sl s x w f) := by
  unfold frameRun
  extract_lets _
  split
  · exact h
  · split
    · exact h
    · split
      · exact effOk_stalled h
      · exact hf

theorem memOk_suspend {b : Bin} {ls : List Nat} {rows : List (List Piece)} {ring : Option (Target × Rcb)}
    {elems : List (List Piece)} (h : MemOk s) :
    MemOk (s.suspend v x sl b ls rows ring elems) := by
  unfold State.suspend
  extract_lets s1 s2
  have hs1 : MemOk s1 := memOk_foldl (fun _ _ k => memOk_writeAll _ _ _ _ _ k) _ _ h
  have hs2 : MemOk s2 := memOk_foldl (fun _ _ k => memOk_writeAll _ _ _ _ _ k) _ _ hs1
  split
  · exact memOk_ite hs2 (memOk_ringIndex hs2)
  · exact hs2

theorem effOk_suspBody (h : MemOk s) : EffOk (suspBody sl s x) := by
  unfold suspBody
  extract_lets _
  refine effOk_binRun h (fun _ _ _ _ k => effOk_frameRun k (effOk_mapsRun k (fun _ _ _ k1 => ?_)))
  extract_lets _ _ _ r q
  have hr : MemOk r.1 := memOk_binRows k1
  have hq : MemOk q.1 := memOk_ite1 hr (memOk_binRing hr)
  split
  · exact hr
  · split
    · exact hq
    · extract_lets _ u
      have hu : MemOk u.1 := by
        unfold u
        split
        · exact memOk_ringElems hq
        · exact hq
      split
      · exact hq
      · split
        · exact hu
        · split
          · exact effOk_binLate hu
          · extract_lets s1
            have hs1 : MemOk s1 := memOk_suspend (memOk_account hu)
            exact memOk_binAcq (memOk_updGrp _ _ (memOk_ite hs1 (memOk_binSet hs1)))

theorem memOk_drainTo {l : List (List Piece × List Piece)} (h : MemOk s) : MemOk (s.drainTo v l) := by
  induction l generalizing s with
  | nil => exact h
  | cons p l ih =>
    unfold State.drainTo
    exact ih (memOk_writeAll _ _ _ _ _ (memOk_readNeed _ _ _ _ h))

theorem memOk_readRows {l : List (List Piece)} (h : MemOk s) : MemOk (s.readRows v l).1 := by
  induction l generalizing s with
  | nil => exact h
  | cons p l ih =>
    unfold State.readRows
    exact ih (memOk_readNeed _ _ _ _ h)

theorem memOk_resume {t : Target} {a : Word} {b : Bin} {o w : BitMap} {p : Resume} (h : MemOk s) :
    MemOk (s.resume v x sl t a b o w p).1 := by
  unfold State.resume
  extract_lets s1 s2
  have hs1 : MemOk s1 := memOk_drainTo h
  have hs2 : MemOk s2 := by
    unfold s2
    split
    · exact memOk_ite hs1 (memOk_ringIndex hs1)
    · exact hs1
  exact memOk_binAcq (memOk_updGrp _ _ (memOk_binSet (memOk_readRows hs2)))

theorem memOk_askRows {kind : Nat} {l : List (List Piece)} (h : MemOk s) : MemOk (s.askRows v kind l).1 := by
  induction l generalizing s with
  | nil => exact h
  | cons p l ih =>
    unfold State.askRows
    exact ih (memOk_askAll _ _ _ _ h)

theorem memOk_resumePlan {b : Bin} {o w : BitMap} (h : MemOk s) : MemOk (s.resumePlan v b o w).1 := by
  unfold State.resumePlan
  extract_lets q0 _ _ q _ _ _ _ u y
  have hq0 : MemOk q0.1 := memOk_binRing h
  have hq : MemOk q.1 := memOk_ite1 hq0 (memOk_binRing hq0)
  have hu : MemOk u.1 := memOk_binRows hq
  have hy : MemOk y.1 := memOk_binRows hu
  split
  · exact hq
  · split
    · exact hu
    · split
      · exact hy
      · extract_lets z
        have hz : MemOk z.1 := by
          unfold z
          split
          · exact memOk_ringElems hy
          · exact hy
        split
        · exact hz
        · exact memOk_askRows (memOk_askRows (memOk_account hz))

theorem memOk_contHeld {c : Context} {k : Nat} {cont : Word} (h : MemOk s) : MemOk (s.contHeld g c k cont).1 := by
  unfold State.contHeld
  extract_lets _
  split
  · exact h
  · split <;> exact memOk_target h

theorem effOk_resumeBody (h : MemOk s) : EffOk (resumeBody sl s x) := by
  unfold resumeBody
  extract_lets _
  split
  · exact h
  · refine effOk_binRun h (fun _ _ _ _ k => effOk_frameRun k (effOk_mapsRun k (fun _ _ _ k1 => ?_)))
    extract_lets p
    have hp : MemOk p.1 := memOk_resumePlan k1
    split
    · exact hp
    · split
      · exact effOk_binLate hp
      · extract_lets c r
        have hc : MemOk c.1 := memOk_contHeld hp
        have hr : MemOk r.1 := memOk_resume hc
        split
        · exact hc
        · split
          · exact hr
          · exact effOk_jumpTo (memOk_updGrp _ _ (memOk_writeNow hr)) (fun _ k2 => k2)

theorem memOk_wake {t : Target} {a : Word} {b : Bin} {o w : BitMap} {rs : List Nat} (h : MemOk s) :
    MemOk (s.wake v t a b o w rs) :=
  memOk_binSet h

theorem effOk_rowsRun {a : Word} {f : List Nat → Effect} (h : MemOk s) (hf : ∀ a, EffOk (f a)) :
    EffOk (rowsRun sl a s x f) := by
  unfold rowsRun
  extract_lets _
  split
  · exact h
  · exact hf _

theorem effOk_wakeRowsBody (h : MemOk s) : EffOk (wakeRowsBody sl s x) :=
  effOk_binRun h
    (fun _ _ _ _ k => effOk_rowsRun k (fun _ => effOk_mapsRun k (fun _ _ _ k1 => memOk_binAcq (memOk_wake k1))))

theorem effOk_wakeLanesBody (h : MemOk s) : EffOk (wakeLanesBody sl s x) :=
  effOk_binRun h (fun _ _ _ _ k => effOk_mapsRun k (fun _ _ _ k1 => memOk_binAcq (memOk_wake k1)))

theorem effOk_wakeAllBody (h : MemOk s) : EffOk (wakeAllBody sl s x) :=
  effOk_binRun h (fun _ _ _ _ k => effOk_mapsRun k (fun _ _ _ k1 => memOk_binAcq (memOk_wake k1)))

theorem effOk_binqBody (h : MemOk s) : EffOk (binqBody sl s x) := by
  unfold binqBody
  refine effOk_binRun h (fun _ _ _ _ k => ?_)
  extract_lets out r
  have hout : ∀ t a, MemOk t → EffOk (out t a) := fun _ _ k1 => memOk_binAcq k1
  have hr : MemOk r.1 := memOk_binRing k
  split
  · exact hout _ _ k
  · exact hout _ _ k
  · split
    · exact hr
    · exact hout _ _ hr
    · exact hout _ _ hr

theorem memOk_drop {t : Target} {a : Word} {b : Bin} {o w : BitMap} {rs : List Nat} (h : MemOk s) :
    MemOk (s.drop v t a b o w rs) :=
  memOk_binSet h

theorem effOk_bindropRowsBody (h : MemOk s) : EffOk (bindropRowsBody sl s x) :=
  effOk_binRun h
    (fun _ _ _ _ k => effOk_rowsRun k (fun _ => effOk_mapsRun k (fun _ _ _ k1 => memOk_binAcq (memOk_drop k1))))

theorem effOk_bindropSetBody (h : MemOk s) : EffOk (bindropSetBody sl s x) := by
  unfold bindropSetBody
  extract_lets _
  refine effOk_binRun h (fun _ _ _ _ k => effOk_mapsRun k (fun _ _ _ k1 => ?_))
  extract_lets r
  have hr : MemOk r.1 := memOk_binRing k1
  split
  · exact memOk_binAcq (memOk_drop k1)
  · split
    · exact hr
    · extract_lets s1
      have hs1 : MemOk s1 := by
        unfold s1
        split
        · exact memOk_ringIndex hr
        · exact hr
      exact memOk_binAcq (memOk_drop hs1)

theorem effOk_fxformBody (h : MemOk s) : EffOk (fxformBody sl s x) := by
  unfold fxformBody
  extract_lets _
  refine effOk_binRun h (fun _ _ _ _ k => ?_)
  extract_lets r
  have hr : MemOk r.1 := memOk_readMap k
  split
  · exact k
  · split
    · exact hr
    · extract_lets q u
      have hq : MemOk q.1 := memOk_binRows hr
      have hu : MemOk u.1 := memOk_binRing hq
      split
      · exact hq
      · split
        · exact hu
        · extract_lets z
          have hz : MemOk z.1 := by
            unfold z
            split
            · exact memOk_ringElems hu
            · exact hu
          split
          · exact hz
          · extract_lets _ _ j
            have hj : MemOk j.1 := memOk_askAll _ _ _ _ (memOk_askAll _ _ _ _ (memOk_account hz))
            exact memOk_lateErr (memOk_binAcq (memOk_rmwNeed _ _ _ _ _ (memOk_rmwNeed _ _ _ _ _ hj)))

/-! ### Matrix -/

theorem memOk_engineTrap {grp fn ctx : Nat} {opc : BitVec 8} {tile reason : Nat} {cause : BitVec 8} {addr : Word}
    (h : MemOk s) :
    MemOk (s.engineTrap grp fn ctx opc tile reason cause addr) :=
  memOk_late h

theorem memOk_setTile {wg t : Nat} {x : Tile} (h : MemOk s) : MemOk (s.setTile wg t x) := memOk_updWg _ _ h

theorem memOk_multiply {o : MatOp} (h : MemOk s) : MemOk (s.multiply o) := memOk_ite h (memOk_setTile h)

theorem memOk_pack {o : MatOp} (h : MemOk s) : MemOk (s.pack o) := by
  unfold State.pack
  extract_lets _
  refine memOk_foldl (fun _ _ k1 => ?_) _ _ h
  exact memOk_wrBytes _ _ k1

theorem memOk_writeIn {o : MatOp} (h : MemOk s) : MemOk (s.writeIn o) := memOk_setTile h

theorem memOk_clearRows {o : MatOp} (h : MemOk s) : MemOk (s.clearRows o) := memOk_setTile h

theorem memOk_deliverPend {id : Nat} {f : Nat → RegWrite → RegWrite} (h : MemOk s) : MemOk (s.deliverPend g id f) :=
  memOk_updGrp _ _ h

theorem memOk_voidPend {id : Nat} (h : MemOk s) : MemOk (s.voidPend g id) := memOk_updGrp _ _ h

theorem memOk_deliverScalar {id : Nat} {v : Word} (h : MemOk s) : MemOk (s.deliverScalar g id v) :=
  memOk_deliverPend h

theorem memOk_rowCheck {o : MatOp} {kind r : Nat} (h : MemOk s) : MemOk (s.rowCheck v o kind r).1 := by
  unfold State.rowCheck
  extract_lets _
  split
  · exact h
  · exact memOk_resolveAll _ _ _ _ _ _ h

theorem memOk_rowsCheck {o : MatOp} {kind : Nat} {l : List Nat} (h : MemOk s) : MemOk (s.rowsCheck v o kind l).1 := by
  induction l generalizing s with
  | nil => exact h
  | cons p l ih =>
    unfold State.rowsCheck
    extract_lets q
    have hq : MemOk q.1 := memOk_rowCheck h
    split
    · exact hq
    · exact ih hq

theorem memOk_chargeBytes {n : Nat} {ps : List Piece} (h : MemOk s) : MemOk (s.chargeBytes v n ps) :=
  memOk_ite h (memOk_charge _ _ h)

theorem memOk_writeNeed {n : Nat} {l : List (Piece × Nat)} (h : MemOk s) : MemOk (s.writeNeed v n l).1 := by
  induction l generalizing s with
  | nil => exact h
  | cons p l ih =>
    unfold State.writeNeed
    split
    · extract_lets r
      have hr : MemOk r.1 := memOk_peerNeed _ h
      split
      · exact hr
      · exact ih hr
    · exact ih (memOk_writeT _ _ _ _ _ h)

theorem memOk_readRow {n : Nat} {l : List Piece} (h : MemOk s) : MemOk (s.readRow v n l).1 := by
  induction l generalizing s with
  | nil => exact h
  | cons p l ih =>
    unfold State.readRow
    split
    · exact ih (memOk_readP _ _ _ _ _ h)
    · exact ih (memOk_readT _ _ _ _ h)

theorem memOk_moveRow {o : MatOp} {kind r : Nat} {ps : List Piece} (h : MemOk s) :
    MemOk (s.moveRow v o kind r ps).1 := by
  unfold State.moveRow
  extract_lets _ _ a
  have ha : MemOk a.1 := memOk_askAll _ _ _ _ (memOk_chargeBytes h)
  split
  · exact memOk_writeNeed (memOk_chargeBytes h)
  · split
    · exact ha
    · exact memOk_setTile (memOk_readRow ha)

theorem memOk_moveRows {o : MatOp} {kind : Nat} {l : List Nat} (h : MemOk s) : MemOk (s.moveRows v o kind l).1 := by
  induction l generalizing s with
  | nil => exact h
  | cons p l ih =>
    unfold State.moveRows
    extract_lets q
    have hq : MemOk q.1 := memOk_rowCheck h
    split
    · exact hq
    · split
      · exact hq
      · extract_lets m
        have hm : MemOk m.1 := memOk_moveRow hq
        split
        · exact hm
        · exact memOk_ite1 (ih hm) hm

theorem memOk_matGone {o : MatOp} (h : MemOk s) : MemOk (s.matGone o) := memOk_wgSweep (memOk_batches h)

theorem memOk_matFail {o : MatOp} {reason : Nat} {cause : BitVec 8} {addr : Word} (h : MemOk s) :
    MemOk (s.matFail o reason cause addr) :=
  memOk_matGone (memOk_engineTrap (memOk_voidPend h))

theorem memOk_matPause {o : MatOp} {row : Nat} {e : Raise} (h : MemOk s) : MemOk (s.matPause o row e) :=
  memOk_updCore _ _ (memOk_hold h)

theorem memOk_matStop {o : MatOp} {row : Nat} {e : Raise} (h : MemOk s) : MemOk (s.matStop o row e) :=
  memOk_ite (memOk_matPause h) (memOk_matFail h)

theorem memOk_matStart {me : Nat} (h : MemOk s) : MemOk (s.matStart me) := by
  unfold State.matStart
  split
  · exact h
  · split
    · exact h
    · extract_lets s0 s1 q
      have hs0 : MemOk s0 := memOk_of_mem (updEng_mem ..) (memOk_updCore _ _ h)
      have hs1 : MemOk s1 := memOk_ite (memOk_updGrp _ _ hs0) hs0
      have hq : MemOk q.1 := memOk_rowsCheck hs1
      split
      · exact memOk_matFail hs1
      · split
        · split
          · exact memOk_of_mem (updEng_mem ..) hq
          · exact memOk_matStop hq
        · exact memOk_of_mem (updEng_mem ..) hs1

theorem memOk_matRun_run {o : MatOp} (h : MemOk s) : MemOk (State.matRun.run o s) := by
  unfold State.matRun.run
  extract_lets _ q
  have hq : MemOk q.1 := memOk_moveRows h
  split
  · exact memOk_matGone hq
  · exact memOk_matStop hq

theorem memOk_matRun {o : MatOp} (h : MemOk s) : MemOk (s.matRun o) := by
  unfold State.matRun
  split
  · exact memOk_matGone (memOk_clearRows h)
  · exact memOk_matRun_run h
  · exact memOk_matRun_run h
  · exact memOk_matGone (memOk_deliverPend h)
  · exact memOk_matGone (memOk_writeIn h)
  · split
    · exact memOk_matGone (memOk_deliverScalar h)
    · split
      · exact memOk_matGone (memOk_deliverScalar h)
      · exact memOk_matGone (memOk_deliverScalar (memOk_foldl (fun _ _ k => memOk_setTile k) _ _ h))
  · exact memOk_matGone (memOk_foldl (fun _ _ k => memOk_setTile k) _ _ h)
  · exact memOk_matGone (memOk_pack h)
  · exact memOk_matGone (memOk_multiply h)

theorem memOk_matDone {me : Nat} (h : MemOk s) : MemOk (s.matDone me) := by
  unfold State.matDone
  split
  · exact h
  · exact memOk_matRun (memOk_of_mem (updEng_mem ..) h)

theorem memOk_matDrain {w a : Nat} (h : MemOk s) : MemOk (s.matDrain w a) := by
  induction a generalizing s with
  | zero => exact h
  | succ n ih =>
    unfold State.matDrain
    exact memOk_ite h (ih (memOk_foldl (fun _ _ k => memOk_matStart (memOk_matDone k)) _ _ h))

theorem outOk_execEngineStart {me : Nat} (h : MemOk s) : OutOk (execEngineStart me s) := memOk_matStart h

theorem outOk_execMatrixOpComplete {me : Nat} (h : MemOk s) : OutOk (execMatrixOpComplete me s) := memOk_matDone h

theorem effOk_matIssue {opc : BitVec 8} {check : State → View → MatOp → Option Raise} {ws : List RegWrite}
    (h : MemOk s) :
    EffOk (matIssue opc check ws sl s x) := by
  unfold matIssue
  extract_lets _
  split
  · exact effOk_stalled h
  · split
    · exact h
    · split <;> exact memOk_updCore _ _ h

theorem effOk_accFmt {f : State → Group → Effect} (hf : ∀ t a, MemOk t → EffOk (f t a)) (h : MemOk s) :
    EffOk (accFmt sl f s x) := by
  unfold accFmt
  extract_lets _
  split
  · exact h
  · exact hf _ _ h

theorem effOk_accrdBody (h : MemOk s) : EffOk (accrdBody sl s x) := effOk_matIssue h

theorem effOk_accallocBody (h : MemOk s) : EffOk (accallocBody sl s x) := effOk_matIssue h

theorem effOk_accstatBody (h : MemOk s) : EffOk (accstatBody sl s x) := effOk_matIssue h

/-! ### Records -/

theorem memOk_savePut {fn ctx base : Nat} {fs : List (Nat × Nat × Nat)} (h : MemOk s) :
    MemOk (s.savePut fn ctx base fs) :=
  memOk_foldl (fun _ _ k => memOk_saveStore _ _ _ _ _ k) _ _ h

theorem memOk_putGroup (h : MemOk s) : MemOk (s.putGroup g) := memOk_savePut h

theorem memOk_putWg {w : Nat} (h : MemOk s) : MemOk (s.putWg w) := memOk_savePut h

theorem memOk_winFollow {t : State} {w : Nat} (ht : MemOk t) : MemOk (s.winFollow t w) :=
  memOk_ite ht (memOk_savePut ht)

theorem memOk_recOpen {fn ctx a n : Nat} (h : MemOk s) : MemOk (s.recOpen fn ctx a n) :=
  memOk_wsNotes _ _ _ _ (memOk_hubOpenAll _ _ _ _ _ h)

theorem memOk_getGroup (h : MemOk s) : MemOk (s.getGroup g) := by
  unfold State.getGroup
  extract_lets _ _ _ s1
  have hs1 : MemOk s1 := memOk_recOpen h
  exact memOk_ite (memOk_updGrp _ _ hs1) hs1

theorem memOk_winBack {w wb : Nat} {rd : Nat → Nat → Nat} (h : MemOk s) : MemOk (s.winBack w wb rd) := by
  unfold State.winBack
  refine memOk_foldl (fun _ _ k => ?_) _ _ h
  exact memOk_wr _ _ _ k

theorem memOk_getWg {w : Nat} (h : MemOk s) : MemOk (s.getWg w) := by
  unfold State.getWg
  extract_lets _ _ _ s1
  have hs1 : MemOk s1 := memOk_recOpen h
  exact memOk_ite (memOk_foldl (fun _ _ k => memOk_setTile k) _ _ (memOk_winBack hs1)) hs1

/-! ### Place -/

theorem memOk_touchDies {fn ctx : Nat} {cs : List Nat} (h : MemOk s) : MemOk (s.touchDies fn ctx cs) :=
  memOk_touch _ _ _ h

theorem memOk_noteHeld {c : Nat} (h : MemOk s) : MemOk (s.noteHeld c) := memOk_updCore _ _ h

theorem memOk_startGroups {param first : Word} {w : Nat} {p : Spot} {l : List ((Nat × Nat × Role) × Nat)}
    (h : MemOk s) :
    MemOk (s.startGroups param first w p l) := by
  induction l generalizing s with
  | nil => exact h
  | cons p l ih =>
    unfold State.startGroups
    extract_lets _ _ s0 s1
    have hs0 : MemOk s0 := memOk_noteHeld (memOk_of_mem (bump_mem ..) h)
    have hs1 : MemOk s1 := hs0
    exact ih (memOk_updWg _ _ hs1)

theorem memOk_startWg {l lin : Nat} {rs : List Role} {scratch tiles : Nat} {param first : Word} {card : Option Card}
    {prio energy seq saveAt : Nat} {acq : Bool} {p : Spot} (h : MemOk s) :
    MemOk (s.startWg l lin rs scratch tiles param first card prio energy seq saveAt acq p) := by
  unfold State.startWg
  split
  · exact h
  · extract_lets _ _ _ s3
    have hs3 : MemOk s3 := memOk_of_mem (updEng_mem ..) (memOk_updFn _ _ (memOk_touchDies h))
    exact memOk_startGroups (memOk_ite (memOk_foldl (fun _ _ k => memOk_acquire _ _ k) _ _ hs3) hs3)

theorem memOk_regain (h : MemOk s) : MemOk (s.regain g) :=
  memOk_ite h (memOk_ite (memOk_updGrp _ _ h) (memOk_takeBank h))

theorem memOk_replaceWg {w : Nat} {p : Spot} (h : MemOk s) : MemOk (s.replaceWg w p) := by
  unfold State.replaceWg
  extract_lets _ _ _ _ _ s3
  have hs3 : MemOk s3 := memOk_of_mem (updEng_mem ..) (memOk_updFn _ _ (memOk_touchDies (memOk_updWg _ _ h)))
  refine memOk_foldl (fun _ _ k => ?_) _ _ (memOk_getWg (memOk_foldl (fun _ _ k => memOk_acquire _ _ k) _ _ hs3))
  exact memOk_noteHeld (memOk_of_mem (bump_mem ..) (memOk_regain (memOk_updGrp _ _ (memOk_getGroup k))))

theorem memOk_wsStore {s0 : State} {fn ctx : Nat} (h : MemOk s0) : MemOk (s0.wsStore fn ctx) := by
  unfold State.wsStore
  extract_lets s
  have hs : MemOk s := memOk_wsReady _ _ h
  exact memOk_ite hs (memOk_hubPut _ _ _ _ _ _ hs)

theorem memOk_gate {s0 : State} {l : Nat} (h : MemOk s0) : MemOk (s0.gate l) := by
  unfold State.gate
  split
  · exact h
  · extract_lets s _ _ s1 _ s2
    have hs : MemOk s := memOk_wsReady _ _ h
    have hs1 : MemOk s1 := memOk_updLaunch _ _ (memOk_wsStore hs)
    have hs2 : MemOk s2 := memOk_ite hs1 (memOk_hubPut _ _ _ _ _ _ hs1)
    exact memOk_ite h (memOk_ite hs (memOk_ite hs2 (memOk_event hs2)))

/-- Unfolding the recursion with the search `findSpot` in place would have the kernel run that search, so the search
  is a
variable first. -/
theorem optOk_coReplace {order l : List Nat} (h : MemOk s) : OptOk (s.coReplace order l) := by
  obtain ⟨find, hf⟩ : ∃ find, find = findSpot := ⟨_, rfl⟩
  delta State.coReplace State.coReplace._f
  rw [← hf]
  clear hf
  induction l generalizing s with
  | nil => exact h
  | cons w l ih =>
    dsimp only [List.brecOn, List.brecOn.go] at ih ⊢
    split
    · trivial
    · exact ih (memOk_replaceWg h)

theorem optOk_coStart {l : Nat} {d : LaunchDesc} {order : List Nat} {i seq : Nat} {acq : Bool} {n : Nat} (h : MemOk s) :
   OptOk (s.coStart l d order i seq acq n) := by
  obtain ⟨find, hf⟩ : ∃ find, find = findSpot := ⟨_, rfl⟩
  delta State.coStart State.coStart._f
  rw [← hf]
  clear hf
  induction n generalizing s i with
  | zero => exact h
  | succ n ih =>
    dsimp only [Nat.brecOn, Nat.brecOn.go] at ih ⊢
    split
    · split
      · trivial
      · exact ih (memOk_updLaunch _ _ (memOk_startWg h))
    · trivial

theorem memOk_dropCard {core seq : Nat} (h : MemOk s) : MemOk (s.dropCard core seq) := memOk_updCore _ _ h

/-- Memory is canonical in the state of an attempt to place that succeeds. -/
def TriedOk : Tried → Prop
  | .placed s => MemOk s
  | .held => True
  | .noRoom => True

theorem triedOk_ite {p : Prop} [Decidable p] {a b : Tried} (ha : TriedOk a) (hb : TriedOk b) :
    TriedOk (if p then a else b) := by
  split
  · exact ha
  · exact hb

theorem triedOk_attempt {c : Cand} (h : MemOk s) : TriedOk (s.attempt c) := by
  have hr := fun order l => optOk_coReplace (order := order) (l := l) h
  have hs :=
    fun l d order i seq acq n => optOk_coStart (l := l) (d := d) (order := order) (i := i) (seq := seq) (acq := acq)
      (n := n) h
  unfold State.attempt
  split
  · extract_lets x co gate prods
    refine triedOk_ite trivial (triedOk_ite (triedOk_ite trivial ?_) ?_)
    · split
      · rename_i e
        exact triedOk_ite (e ▸ hr _ _ : OptOk (some _)) trivial
      · trivial
    · split
      · exact triedOk_ite (memOk_replaceWg h) trivial
      · trivial
  · split
    · trivial
    · refine triedOk_ite trivial (triedOk_ite (triedOk_ite trivial ?_) ?_)
      · split
        · rename_i e
          exact triedOk_ite (e ▸ hs _ _ _ _ _ _ _ : OptOk (some _)) trivial
        · trivial
      · split
        · exact triedOk_ite trivial (memOk_updLaunch _ _ (memOk_startWg h))
        · trivial
  · split
    · trivial
    · refine triedOk_ite trivial ?_
      split
      · exact triedOk_ite trivial (memOk_startWg (memOk_dropCard h))
      · trivial

theorem optOk_ite {p : Prop} [Decidable p] {a b : Option State} (ha : OptOk a) (hb : OptOk b) :
    OptOk (if p then a else b) := by
  split
  · exact ha
  · exact hb

theorem optOk_placeOne {block co : List (Nat × Nat)} {l : List (Rank × Cand)} (h : MemOk s) :
    OptOk (s.placeOne block co l) := by
  induction l generalizing co with
  | nil => trivial
  | cons p l ih =>
    have k : TriedOk (s.attempt p.2) := triedOk_attempt h
    unfold State.placeOne
    extract_lets f
    refine optOk_ite ih ?_
    split
    · rename_i e
      rw [e] at k
      exact k
    · exact ih
    · exact ih

theorem memOk_placeAll {a : Nat} (h : MemOk s) : MemOk (s.placeAll a) := by
  induction a generalizing s with
  | zero => exact h
  | succ n ih =>
    unfold State.placeAll
    have k : OptOk (s.placeOne s.coWaiting [] s.candidates) := optOk_placeOne h
    split
    · rename_i e
      rw [e] at k
      exact ih k
    · exact h

theorem memOk_placementPass (h : MemOk s) : MemOk s.placementPass :=
  memOk_placeAll (memOk_foldl (fun _ _ k => memOk_gate k) _ _ h)

theorem outOk_execPlacementPass (h : MemOk s) : OutOk (execPlacementPass s) := memOk_placementPass h

/-! ### Async -/

theorem effOk_afenceBody (h : MemOk s) : EffOk (afenceBody sl s x) := memOk_batches (memOk_updGrp _ _ h)

theorem memOk_engAt {a : Word} {n kind : Nat} (h : MemOk s) : MemOk (s.engAt v a n kind).1 :=
  memOk_ite1 h (memOk_hubAt h)

theorem memOk_listIdx {o : AsyncOp} {j : Nat} (h : MemOk s) : MemOk (s.listIdx v o j).1 := by
  unfold State.listIdx
  extract_lets _ q
  have hq : MemOk q.1 := memOk_engAt h
  split
  · exact hq
  · extract_lets _
    split <;> exact memOk_readP _ _ _ _ _ hq

theorem memOk_wordIdx {o : AsyncOp} {k : Nat} (h : MemOk s) : MemOk (s.wordIdx v o k).1 :=
  memOk_ite1 (memOk_listIdx h) h

theorem effOk_copyBody {opc : BitVec 8} (h : MemOk s) : EffOk (copyBody opc sl s x) := by
  unfold copyBody
  extract_lets _
  split
  · exact h
  · split
    · exact h
    · exact memOk_of_mem (bump_mem ..) h

theorem memOk_opGone {id : Nat} {o : AsyncOp} {st : Nat} (h : MemOk s) : MemOk (s.opGone id o st) :=
  memOk_wgSweep (memOk_packetDone (memOk_batches h))

theorem memOk_opFail {id : Nat} {o : AsyncOp} {reason : Nat} {cause : BitVec 8} {addr : Word} (h : MemOk s) :
    MemOk (s.opFail id o reason cause addr) :=
  memOk_opGone (memOk_engineTrap h)

theorem memOk_opFault {id : Nat} {o : AsyncOp} {e : Raise} (h : MemOk s) : MemOk (s.opFault id o e) :=
  memOk_ite (memOk_hold h) (memOk_opFail h)

theorem memOk_wordAt {o : AsyncOp} {k : Nat} (h : MemOk s) : MemOk (s.wordAt v o k).1 := by
  unfold State.wordAt
  extract_lets x
  have hx : MemOk x.1 := memOk_wordIdx h
  split
  · exact hx
  · extract_lets _ a
    have ha : MemOk a.1 := memOk_engAt hx
    split
    · exact ha
    · split <;> exact memOk_engAt ha

theorem memOk_tagPeer {from_ id k : Nat} (h : MemOk s) : MemOk (s.tagPeer from_ id k) := h

theorem memOk_putWord {id k : Nat} {dt : Target} {da : Word} {x : Nat} (h : MemOk s) :
    MemOk (s.putWord v id k dt da x).1 := by
  unfold State.putWord
  extract_lets put
  have hput : ∀ t a b c d, MemOk t → MemOk (put t a b c d) := by
    unfold put
    refine fun _ _ _ _ _ k1 => ?_
    exact memOk_peerSend _ k1
  split
  · exact hput _ _ _ _ _ h
  · exact hput _ _ _ _ _ (memOk_peerRead _ _ _ _ _ _ h)
  · exact memOk_writeT _ _ _ _ _ h

theorem memOk_moveWord {id k : Nat} {st dt : Target} {sa da : Word} (h : MemOk s) :
    MemOk (s.moveWord v id k st dt sa da).1 := by
  unfold State.moveWord
  have h0 := memOk_charge v.fn (32 + s.wordCost st + s.wordCost dt) h
  generalize s.charge v.fn (32 + s.wordCost st + s.wordCost dt) = s0 at h0
  dsimp only
  split
  · dsimp only
    exact memOk_peerSend _ h0
  · exact memOk_putWord (memOk_readNeed _ _ _ _ h0)

theorem memOk_moveWords {id : Nat} {o : AsyncOp} {a : Nat} (h : MemOk s) : MemOk (s.moveWords v id o a).1 := by
  induction a generalizing s o with
  | zero => exact h
  | succ n ih =>
    unfold State.moveWords
    extract_lets _ r
    have hr : MemOk r.1 := memOk_wordAt h
    split
    · exact h
    · split
      · exact hr
      · exact memOk_ite1 h (ih (memOk_moveWord (memOk_debit _ _ _ _ hr)))

theorem memOk_barUnit {id : Nat} {o : AsyncOp} (h : MemOk s) : MemOk (s.barUnit v id o).1 := by
  unfold State.barUnit
  extract_lets r n o1
  have hr : MemOk r.1 := memOk_hubAt h
  clear_value r n o1
  refine memOk_ite1 h ?_
  split
  · exact hr
  · split
    · dsimp only
      exact memOk_peerSend _ hr
    · exact memOk_ite1 (memOk_readT _ _ _ _ hr) (memOk_writeT _ _ _ _ _ (memOk_readT _ _ _ _ hr))

theorem memOk_copyUnit {id : Nat} (h : MemOk s) : MemOk (s.copyUnit id) := by
  unfold State.copyUnit
  split
  · exact h
  · extract_lets b _ _ _ _ _ _ s2
    have hb : MemOk b.1 := memOk_barUnit h
    have hs2 : MemOk s2 := memOk_barUnit (memOk_moveWords hb)
    split
    · exact h
    · split
      · split
        · exact memOk_opFault hb
        · exact hb
      · split
        · exact h
        · split
          · exact memOk_opFault hb
          · split
            · exact memOk_opFault hs2
            · exact hs2

theorem outOk_execCopyUnitLand {op : Nat} (h : MemOk s) : OutOk (execCopyUnitLand op s) := by
  unfold execCopyUnitLand
  split
  · exact memOk_winFollow (memOk_copyUnit h)
  · exact h

theorem outOk_execEnginePageFault {op : Nat} (h : MemOk s) : OutOk (execEnginePageFault op s) := by
  unfold execEnginePageFault
  split
  · exact h
  · split
    · exact h
    · split
      · exact memOk_opFault h
      · exact h

theorem memOk_wakeNote {o : AsyncOp} (h : MemOk s) : MemOk (s.wakeNote v o).1 := by
  unfold State.wakeNote
  extract_lets r
  have hr : MemOk r.1 := memOk_hubAt h
  split
  · exact hr
  · extract_lets q
    have hq : MemOk q.1 := memOk_readP _ _ _ _ _ (memOk_lockTake hr)
    split
    · exact hq
    · extract_lets _ m
      have hm : MemOk m.1 := memOk_readMaps hq
      split
      · exact hq
      · split
        · exact hm
        · split
          · exact hm
          · exact memOk_wake hm

theorem memOk_noteWord {a : Word} {n kind : Nat} {o : HubOp} (h : MemOk s) : MemOk (s.noteWord v a n kind o).1 := by
  unfold State.noteWord
  extract_lets r
  have hr : MemOk r.1 := memOk_hubAt h
  split
  · exact hr
  · exact memOk_hubDo hr

theorem memOk_notify {o : AsyncOp} (h : MemOk s) : MemOk (s.notify v o).1 := by
  unfold State.notify
  split
  · exact memOk_noteWord h
  · exact memOk_wakeNote h
  · exact memOk_noteWord h
  · exact h

theorem memOk_collRead {a : Word} {a1 : Nat} (h : MemOk s) : MemOk (s.collRead v a a1).1 := by
  induction a1 generalizing s a with
  | zero => exact h
  | succ n ih =>
    unfold State.collRead
    extract_lets r
    have hr : MemOk r.1 := memOk_hubRead h
    split
    · exact hr
    · split <;> exact ih hr

theorem memOk_chargeLine {a : Word} (h : MemOk s) : MemOk (s.chargeLine v a) := by
  unfold State.chargeLine
  split
  · exact memOk_ite h (memOk_charge _ _ h)
  · exact h

theorem memOk_collWrite {id : Nat} {a : Word} {bs : List Byte} (h : MemOk s) : MemOk (s.collWrite v id a bs).1 := by
  unfold State.collWrite
  extract_lets r
  have hr : MemOk r.1 := memOk_resolveAll _ _ _ _ _ _ h
  split
  · exact hr
  · split
    · exact hr
    · exact memOk_tagPeer (memOk_writeAll _ _ _ _ _ (memOk_chargeLine hr))

theorem memOk_collSend {id l p : Nat} {bs : List Byte} (h : MemOk s) : MemOk (s.collSend v id l p bs) := by
  unfold State.collSend
  exact memOk_peerSend _ h

theorem memOk_collReady {o : AsyncOp} (h : MemOk s) : MemOk (s.collReady o).1 := memOk_noteWord h

theorem memOk_collMark {id : Nat} {o : AsyncOp} (h : MemOk s) : MemOk (s.collMark id o) := by
  unfold State.collMark
  extract_lets r
  have hr : MemOk r.1 := memOk_collReady h
  split
  · exact h
  · split
    · exact memOk_opFault hr
    · exact hr

theorem memOk_collLine {id : Nat} {o : AsyncOp} {l : Nat} (h : MemOk s) : MemOk (s.collLine id o l) := by
  unfold State.collLine
  extract_lets _ _ r
  have hr : MemOk r.1 := memOk_collWrite h
  split
  · exact h
  · split
    · exact memOk_opFault hr
    · exact memOk_collMark (memOk_ite (memOk_foldl (fun _ _ k => memOk_collSend k) _ _ hr) hr)

theorem memOk_collOwn {id : Nat} {o : AsyncOp} {l : Nat} (h : MemOk s) : MemOk (s.collOwn id o l) := by
  unfold State.collOwn
  extract_lets _ _ r
  have hr : MemOk r.1 := memOk_collRead h
  split
  · exact memOk_opFault hr
  · extract_lets s1
    have hs1 : MemOk s1 := memOk_foldl (fun _ _ k => memOk_collSend k) _ _ hr
    exact memOk_ite (memOk_collLine hs1) hs1

theorem memOk_contribLand {op line port : Nat} {data : List Byte} (h : MemOk s) :
    MemOk (s.contribLand op line port data) := by
  unfold State.contribLand
  split
  · exact h
  · exact memOk_ite h
      (memOk_ite (memOk_ite h h)
      (memOk_ite (memOk_ite h (memOk_winFollow (memOk_collOwn h))) (memOk_winFollow (memOk_collLine h))))

theorem outOk_execCollContribLand {op line port : Nat} {data : List Byte} (h : MemOk s) :
    OutOk (execCollContribLand op line port data s) :=
  memOk_contribLand h

theorem memOk_peerContrib {peer kind ty n line : Nat} {data : List Byte} (h : MemOk s) :
    MemOk (s.peerContrib peer kind ty n line data) := by
  unfold State.peerContrib
  split
  · exact memOk_contribLand h
  · exact h

theorem outOk_execCollMatch {op : Nat} {others : List CollHead} (h : MemOk s) : OutOk (execCollMatch op others s) := by
  unfold execCollMatch
  split
  · exact h
  · split
    · exact h
    · split
      · exact h
      · exact memOk_opFail h

theorem memOk_opFinish {id : Nat} {o : AsyncOp} (h : MemOk s) : MemOk (s.opFinish id o) := by
  unfold State.opFinish
  extract_lets _ q
  have hq : MemOk q.1 := memOk_notify h
  split
  · exact memOk_opFault hq
  · exact memOk_opGone hq

theorem memOk_opStep {op : Nat} {o : AsyncOp} (h : MemOk s) : MemOk (s.opStep op o) := by
  unfold State.opStep
  extract_lets s1
  have hs1 : MemOk s1 := memOk_collMark h
  split
  · exact h
  · split
    · exact memOk_ite (memOk_opFinish h) h
    · split
      · exact memOk_opFail h
      · split
        · exact memOk_ite hs1 h
        · split
          · exact memOk_ite (memOk_opFinish hs1) hs1
          · exact hs1

theorem outOk_execAsyncOpComplete {op : Nat} (h : MemOk s) : OutOk (execAsyncOpComplete op s) := by
  unfold execAsyncOpComplete
  split
  · exact h
  · exact memOk_winFollow (memOk_opStep h)

theorem effOk_wordsAt {n kind : Nat} {as : List (Nat × Word)} {f : State → List Nat → Effect} (h : MemOk s)
    (hf : ∀ t a, MemOk t → EffOk (f t a)) :
    EffOk (wordsAt s v n kind as f) := by
  unfold wordsAt
  extract_lets r
  have hr : MemOk r.1 := memOk_resolveAll _ _ _ _ _ _ h
  split
  · exact hr
  · extract_lets a
    have ha : MemOk a.1 := memOk_askAll _ _ _ _ (memOk_account hr)
    split
    · exact memOk_late ha
    · exact hf _ _ (memOk_readRow ha)

theorem effOk_collBody (h : MemOk s) : EffOk (collBody sl s x) := by
  unfold collBody
  extract_lets _
  split
  · exact h
  · refine effOk_wordsAt h (fun _ _ k => ?_)
    extract_lets _
    split
    · exact k
    · refine effOk_wordsAt k (fun _ _ k1 => ?_)
      extract_lets _
      split
      · exact k1
      · split
        · exact k1
        · exact memOk_of_mem (bump_mem ..) k1

theorem memOk_of_spillPut {t : State} {a : Word} {ws : List Nat} (h : MemOk s)
    (e : s.spillPut v a ws = some (some t)) :
    MemOk t := by
  have hr := memOk_ringAt (v := v) (a := a) (kind := 6) (wr := true) h
  unfold State.spillPut at e
  generalize s.ringAt v a 6 = r at hr e
  dsimp only at e
  split at e
  · cases e
  · cases e
  · rename_i t' b _ _
    have hq := memOk_ringElem (v := v) (b := b) (i := b.pidx) (wr := true) (memOk_lockTake (key := t'.key) hr)
    generalize (r.1.lockTake t'.key).ringElem v b b.pidx true = q at hq e
    split at e
    · cases e
    · split at e
      · cases e
      · split at e
        · cases e
        · split at e
          · cases e
          · split at e
            · cases e
            · cases e
              exact memOk_ringPush hq

theorem effOk_postCard {core : Nat} {c : Card} {ws : List Nat} (h : MemOk s) : EffOk (postCard s v x core c ws) := by
  unfold postCard
  extract_lets s1 quota
  have h1 : MemOk s1 := memOk_of_mem (bump_mem ..) (memOk_updLaunch _ _ (memOk_release _ _ h))
  clear_value s1
  split
  · exact memOk_updCore _ _ h1
  · split
    · exact h
    · split
      · exact h
      · exact effOk_stalled h
      · rename_i e
        exact memOk_updCore _ _ (memOk_of_spillPut h1 e)

theorem effOk_postBody (h : MemOk s) : EffOk (postBody sl s x) := by
  unfold postBody
  extract_lets _
  split
  · exact h
  · refine effOk_wordsAt h (fun _ _ k => ?_)
    extract_lets _
    split
    · exact k
    · split
      · exact k
      · exact effOk_syncAfter k (effOk_postCard k)

theorem memOk_wsFlag {fn ctx sp lo n bit : Nat} (h : MemOk s) : MemOk (s.wsFlag fn ctx sp lo n bit) :=
  memOk_foldl (fun _ _ k => memOk_ite (memOk_hubPut _ _ _ _ _ _ k) k) _ _ (memOk_wsReady _ _ h)

theorem memOk_needPage {fn ctx sp base size : Nat} {l : Word} (h : MemOk s) :
    MemOk (s.needPage fn ctx sp base size l) := by
  unfold State.needPage
  extract_lets s0 s1 s2 s3
  have h0 : MemOk s0 := memOk_wsReady _ _ h
  have h2 : MemOk s2 := memOk_wsFlag (memOk_ite h0 (memOk_wsAppend _ _ _ h0))
  clear_value s2
  exact memOk_ite h2 h2

theorem memOk_needRange {fn ctx sp e a a1 : Nat} (h : MemOk s) : MemOk (s.needRange fn ctx sp e a a1) := by
  induction a generalizing s a1 with
  | zero => exact h
  | succ n ih =>
    unfold State.needRange
    split
    · exact h
    · split
      · exact ih (memOk_needPage h)
      · exact ih h
      · exact ih h

theorem effOk_tierhNeedBody (h : MemOk s) : EffOk (tierhNeedBody sl s x) := by
  unfold tierhNeedBody
  extract_lets _
  split
  · exact h
  · exact memOk_needRange h

theorem effOk_tierhColdBody (h : MemOk s) : EffOk (tierhColdBody sl s x) := by
  unfold tierhColdBody
  extract_lets _
  split
  · exact h
  · exact memOk_wsFlag h

/-! ### Select -/

theorem memOk_noteIssue (h : MemOk s) : MemOk (s.noteIssue g) := h

theorem memOk_idle (h : MemOk s) : MemOk s.idle := memOk_foldl (fun _ _ k => memOk_passCycles k) _ _ h

theorem memOk_restClocks {t : State} {core : Nat} (ht : MemOk t) : MemOk (s.restClocks t core) :=
  memOk_foldl (fun _ _ k => memOk_passCycles k) _ _ ht

/-! ### Save -/

theorem memOk_preemptGroup (h : MemOk s) : MemOk (s.preemptGroup g) := by
  unfold State.preemptGroup
  split
  · exact h
  · exact memOk_ite h
      (memOk_ite (memOk_updGrp _ _ h)
      (memOk_ite (memOk_updGrp _ _ h)
      (memOk_ite (memOk_updGrp _ _ h) (memOk_enterPreempt (memOk_updGrp _ _ (memOk_unwait h))))))

theorem memOk_preemptWg {w : Nat} (h : MemOk s) : MemOk (s.preemptWg w) :=
  memOk_foldl (fun _ _ k => memOk_preemptGroup k) _ _ h

theorem memOk_preemptCtx {fn ctx : Nat} (h : MemOk s) : MemOk (s.preemptCtx fn ctx) :=
  memOk_foldl (fun _ _ k => memOk_preemptWg k) _ _ h

theorem outOk_execPreemptionRequest {fn ctx : Nat} (h : MemOk s) : OutOk (execPreemptionRequest fn ctx s) :=
  memOk_preemptCtx h

theorem memOk_wgLeave {w : Nat} (h : MemOk s) : MemOk (s.wgLeave w) := by
  unfold State.wgLeave
  extract_lets _ s1 s2
  have hs1 : MemOk s1 := memOk_matDrain h
  have hs2 : MemOk s2 := memOk_updWg _ _ (memOk_putWg (memOk_release _ _ hs1))
  split
  · exact h
  · split
    · exact hs1
    · split
      · exact memOk_ite (memOk_foldl (fun _ _ k => memOk_preemptWg k) _ _ hs2) hs2
      · exact hs2

theorem memOk_writePend (h : MemOk s) : MemOk (s.writePend g) :=
  memOk_updGrp _ _ (memOk_foldl (fun _ _ k => memOk_snapWrite (memOk_writeNow k)) _ _ h)

theorem memOk_forceSave (h : MemOk s) : MemOk (s.forceSave g) := by
  unfold State.forceSave
  split
  · exact h
  · extract_lets s1 _ s2
    have hs1 : MemOk s1 := memOk_freeBank (memOk_writePend (memOk_unwait h))
    have hs2 : MemOk s2 := memOk_updGrp _ _ (memOk_release _ _ (memOk_ite hs1 (memOk_arrive hs1)))
    exact memOk_ite (memOk_wgLeave h) (memOk_ite h (memOk_wgLeave (memOk_putGroup hs2)))

theorem outOk_execForcedSave (h : MemOk s) : OutOk (execForcedSave g s) := memOk_forceSave h

theorem outOk_execVariableResultWrite {k : Nat} (h : MemOk s) : OutOk (execVariableResultWrite g k s) := by
  unfold execVariableResultWrite
  split
  · exact h
  · split
    · exact h
    · exact memOk_updGrp _ _ (memOk_snapWrite (memOk_writeNow h))

theorem outOk_execDelayedTrap (h : MemOk s) : OutOk (execDelayedTrap g s) := memOk_takeDelayed h

theorem outOk_execTrapEntry (h : MemOk s) : OutOk (execTrapEntry g s) := by
  unfold execTrapEntry
  split
  · split
    · exact h
    · exact memOk_enterTrap (memOk_updGrp _ _ h)
  · split
    · exact h
    · exact memOk_takeBank (memOk_updGrp _ _ h)
  · exact h

theorem memOk_waitNow (h : MemOk s) : MemOk (s.waitNow g).1 := by
  unfold State.waitNow
  split
  · extract_lets _
    split
    · extract_lets _
      split <;> exact memOk_readP _ _ _ _ _ (memOk_resolve _ _ _ _ _ _ h)
    · exact h
  · exact h

theorem outOk_execWaitpWake (h : MemOk s) : OutOk (execWaitpWake g s) := by
  unfold execWaitpWake
  split
  · extract_lets r
    have hr : MemOk r.1 := memOk_waitNow h
    split
    · exact memOk_late hr
    · exact memOk_ite h hr
    · exact memOk_finish (memOk_waitDone hr)
  · exact h

theorem outOk_execWaitpTimeout (h : MemOk s) : OutOk (execWaitpTimeout g s) := by
  unfold execWaitpTimeout
  extract_lets _
  split
  · split
    · exact h
    · exact memOk_finish (memOk_passCycles h)
  · exact h

theorem outOk_execNonInstructionEncoding {opc : BitVec 8} (h : MemOk s) :
    OutOk (execNonInstructionEncoding opc sl s) := by
  unfold execNonInstructionEncoding
  split
  · exact trivial
  · exact memOk_raise h

/-! ### System -/

theorem effOk_rttBody {next : Word} (h : MemOk s) : EffOk (rttBody next s x) := by
  unfold rttBody
  split
  · exact h
  · exact memOk_resumed (memOk_leaveTrap h)

theorem effOk_rttToBody (h : MemOk s) : EffOk (rttToBody sl s x) := by
  unfold rttToBody
  extract_lets _ r
  have hr : MemOk r.1 := memOk_target h
  split
  · exact h
  · split
    · exact hr
    · exact memOk_resumed (memOk_updGrp _ _ (memOk_leaveTrap hr))

theorem effOk_srgetBody (h : MemOk s) : EffOk (srgetBody sl s x) := by
  unfold srgetBody
  split <;> exact h

theorem effOk_srsetBody (h : MemOk s) : EffOk (srsetBody sl s x) := by
  unfold srsetBody
  extract_lets _
  split
  · split
    · exact h
    · exact memOk_updCtx _ _ _ h
  · exact memOk_updGrp _ _ h
  · exact memOk_updCtx _ _ _ h

theorem effOk_hgetBody (h : MemOk s) : EffOk (hgetBody sl s x) := by
  unfold hgetBody
  extract_lets _
  split
  · exact h
  · split <;> exact h

theorem effOk_hsetBody (h : MemOk s) : EffOk (hsetBody sl s x) := by
  unfold hsetBody
  extract_lets _
  split
  · exact h
  · split
    · exact memOk_ite (memOk_writeV h) h
    · exact memOk_ite (memOk_writeS h) h
    · split
      · exact memOk_updGrp _ _ h
      · exact memOk_ite (memOk_updGrp _ _ h) h

theorem effOk_pdoneBody (h : MemOk s) : EffOk (pdoneBody s x) := by
  unfold pdoneBody
  extract_lets s1
  have hs1 : MemOk s1 := memOk_updGrp _ _ (memOk_freeBank (memOk_release _ _ h))
  split
  · exact h
  · exact effOk_syncAfter h (memOk_wgLeave (memOk_passCycles (memOk_putGroup hs1)))

theorem effOk_boostBody (h : MemOk s) : EffOk (boostBody sl s x) := by
  unfold boostBody
  extract_lets _
  split
  · exact memOk_updFn _ _ (memOk_updCore _ _ h)
  · exact h

theorem memOk_killHold {tag : Nat} {a : Hold} (h : MemOk s) : MemOk (s.killHold tag a) := by
  unfold State.killHold
  extract_lets _
  split
  · exact memOk_endWg h
  · split
    · exact memOk_opFail h
    · exact h
  · split
    · exact memOk_matFail (memOk_updCore _ _ h)
    · exact h

theorem effOk_replayBody {kill : Bool} (h : MemOk s) : EffOk (replayBody kill sl s x) := by
  unfold replayBody
  extract_lets _
  split
  · exact h
  · split
    · exact h
    · split
      · exact memOk_killHold h
      · exact effOk_syncAfter h (memOk_releaseHold _ _ (memOk_release _ _ h))

theorem memOk_measCheck {e a a1 : Nat} (h : MemOk s) : MemOk (s.measCheck v e a a1).1 := by
  induction a generalizing s a1 with
  | zero => exact h
  | succ n ih =>
    unfold State.measCheck
    extract_lets _ _ r
    have hr : MemOk r.1 := memOk_resolve _ _ _ _ _ _ h
    split
    · exact h
    · split
      · exact hr
      · split <;> exact ih hr

theorem memOk_measLine {p : Piece} {n : Nat} (h : MemOk s) : MemOk (s.measLine v p n).1 := by
  unfold State.measLine
  split
  · extract_lets _
    split <;> exact memOk_readP _ _ _ _ _ h
  · exact memOk_toPoint h

theorem memOk_measRead {l : List (Piece × Nat)} (h : MemOk s) : MemOk (s.measRead v l).1 := by
  induction l generalizing s with
  | nil => exact h
  | cons p l ih =>
    unfold State.measRead
    extract_lets _
    split <;> exact ih (memOk_measLine h)

theorem memOk_measure {world i : Nat} {bs : List Byte} (h : MemOk s) : MemOk (s.measure world i bs) := by
  unfold State.measure
  split <;> exact h

theorem effOk_measBody (h : MemOk s) : EffOk (measBody sl s x) := by
  unfold measBody
  extract_lets _ _ _ r
  have hr : MemOk r.1 := memOk_measCheck h
  split
  · exact h
  · split
    · exact h
    · split
      · exact effOk_stalled h
      · refine effOk_syncAfter h ?_
        split
        · exact hr
        · split
          · exact memOk_late hr
          · extract_lets q
            have hq : MemOk q.1 := memOk_measRead (memOk_acquire _ _ (memOk_account hr))
            split
            · exact memOk_late hq
            · exact memOk_measure hq

theorem optOk_bind {α : Type} {o : Option α} {f : α → Option State} (h : ∀ a, OptOk (f a)) : OptOk (o.bind f) := by
  cases o with
  | none => trivial
  | some a => exact h a

theorem optOk_cancelUnit {level fn ctx a : Nat} (h : MemOk s) : OptOk (s.cancelUnit level fn ctx a) := by
  unfold State.cancelUnit
  split
  · exact optOk_bind fun _ => optOk_bind fun _ => optOk_ite (memOk_cancelLaunch h) trivial
  · exact optOk_bind fun _ => optOk_bind fun _ => optOk_ite (memOk_cancelGraph h) trivial
  · exact optOk_bind fun _ => optOk_bind fun _ => optOk_ite (memOk_cancelPhase h) trivial
  · exact optOk_bind fun _ => optOk_bind fun _ => optOk_ite (memOk_cancelJob h) trivial

theorem effOk_cancelBody (h : MemOk s) : EffOk (cancelBody sl s x) := by
  unfold cancelBody
  extract_lets w
  have k : OptOk (s.cancelUnit (subN sl) w.fn w.ctx (BitVec.toNat (s.ssrc x sl sl.a))) := optOk_cancelUnit h
  split
  · exact h
  · rename_i e
    rw [e] at k
    split
    · exact k
    · exact memOk_passCycles k

/-! ### Packets -/

theorem memOk_updQueue {fn q : Nat} {f : Queue → Queue} (h : MemOk s) : MemOk (s.updQueue fn q f) := memOk_updFn _ _ h

theorem memOk_queueErr {fn q : Nat} (h : MemOk s) : MemOk (s.queueErr fn q) := by
  unfold State.queueErr
  extract_lets _ s1
  have hs1 : MemOk s1 := memOk_updQueue h
  exact memOk_ite hs1 (memOk_msix hs1)

theorem memOk_queueDead {fn q : Nat} (h : MemOk s) : MemOk (s.queueDead fn q) := memOk_queueErr (memOk_updQueue h)

theorem memOk_queueRing {fn : Nat} {a : Word} {ctx : Nat} (h : MemOk s) : MemOk (s.queueRing fn a ctx).1 := by
  unfold State.queueRing
  extract_lets _
  split
  · exact h
  · split <;> exact memOk_hubRead h

theorem outOk_execQueueEnWrite {fn q : Nat} {rcb : Word} {ctx : Nat} (h : MemOk s) :
    OutOk (execQueueEnWrite fn q rcb ctx s) := by
  unfold execQueueEnWrite
  extract_lets s1 r
  have hs1 : MemOk s1 := memOk_updQueue h
  have hr : MemOk r.1 := memOk_queueRing hs1
  split
  · exact h
  · split
    · exact memOk_ite hs1 hr
    · exact memOk_updQueue hr

theorem outOk_execQueueErrClear {fn q : Nat} (h : MemOk s) : OutOk (execQueueErrClear fn q s) := memOk_updQueue h

theorem outOk_execQueuePidxWake {fn q : Nat} (h : MemOk s) : OutOk (execQueuePidxWake fn q s) := by
  unfold execQueuePidxWake
  extract_lets _ r
  have hr : MemOk r.1 := memOk_queueRing h
  split
  · exact h
  · split
    · exact memOk_queueDead hr
    · exact memOk_updQueue hr

theorem memOk_headPacket {fn q : Nat} (h : MemOk s) : MemOk (s.headPacket fn q).1 := by
  unfold State.headPacket
  extract_lets _ r
  have hr : MemOk r.1 := memOk_queueRing h
  split
  · exact h
  · split
    · exact memOk_queueDead hr
    · extract_lets h'
      have hh' : MemOk h'.1 := memOk_hubWords hr
      split
      · exact hr
      · split
        · exact memOk_queueDead hh'
        · exact hh'

theorem memOk_signals {as : List Word} (h : MemOk s) : MemOk (s.signals v as).1 := by
  unfold State.signals
  refine memOk_foldl1 (fun _ _ k => ?_) _ _ h
  split
  · exact k
  · extract_lets _
    split <;> exact memOk_hubRead k

theorem memOk_startFree {fn q : Nat} {w : List Word} (h : MemOk s) : MemOk (s.startFree fn q w).1 := by
  unfold State.startFree
  extract_lets _
  split
  · exact h
  · split
    · exact h
    · split
      · split <;> exact memOk_signals h
      · exact h

theorem memOk_startOf {fn q : Nat} {w : List Word} (h : MemOk s) : MemOk (s.startOf fn q w).1 := by
  unfold State.startOf
  extract_lets r
  have hr : MemOk r.1 := memOk_startFree h
  exact memOk_ite1 h (memOk_ite1 hr hr)

theorem memOk_advance {fn q : Nat} {b : Rcb} (h : MemOk s) : MemOk (s.advance fn q b).1 := memOk_noteWord h

theorem memOk_accept {fn q : Nat} {w : List Word} {status : Option Nat} (h : MemOk s) :
    MemOk (s.accept fn q w status).1 :=
  memOk_of_mem (bump_mem ..) (memOk_updFn _ _ h)

theorem memOk_takePacket {fn q : Nat} {types : Nat → Bool} {f : State → View → Nat → List Word → State × Option Nat}
    (h : MemOk s) (hf : ∀ t a b c, MemOk t → MemOk (f t a b c).1) :
    MemOk (s.takePacket fn q types f) := by
  unfold State.takePacket
  extract_lets h'
  have hh' : MemOk h'.1 := memOk_headPacket h
  split
  · exact hh'
  · extract_lets r c _ e
    have hr : MemOk r.1 := memOk_startOf hh'
    have hc : MemOk c.1 := memOk_advance hr
    have he : MemOk e.1 := hf _ _ _ _ (memOk_accept hc)
    split
    · exact hr
    · split
      · exact h
      · split
        · exact memOk_queueDead hc
        · split
          · exact hc
          · exact memOk_accept hc
          · split
            · exact memOk_packetDone he
            · exact he

theorem outOk_execPacketNop {fn q : Nat} (h : MemOk s) : OutOk (execPacketNop fn q s) :=
  memOk_takePacket h (fun _ _ _ _ k => k)

theorem outOk_execPacketBarrier {fn q : Nat} (h : MemOk s) : OutOk (execPacketBarrier fn q s) :=
  memOk_takePacket h (fun _ _ _ _ k => k)

theorem memOk_signalPacket {a : Nat} {w : List Word} (h : MemOk s) : MemOk (signalPacket s v a w).1 :=
  memOk_noteWord h

theorem outOk_execPacketSignal {fn q : Nat} (h : MemOk s) : OutOk (execPacketSignal fn q s) :=
  memOk_takePacket h (fun _ _ _ _ k => memOk_signalPacket k)

theorem memOk_spanOk {a : Word} {left kind a1 : Nat} (h : MemOk s) : MemOk (s.spanOk v a left kind a1).1 := by
  induction a1 generalizing s a left with
  | zero => exact h
  | succ n ih =>
    unfold State.spanOk
    extract_lets r
    have hr : MemOk r.1 := memOk_hubAt h
    split
    · exact h
    · split
      · exact hr
      · exact ih hr

theorem memOk_copyPacket {id : Nat} {w : List Word} (h : MemOk s) : MemOk (copyPacket s v id w).1 := by
  unfold copyPacket
  extract_lets _ _ d r
  have hd : MemOk d.1 := memOk_spanOk h
  have hr : MemOk r.1 := memOk_ite1 (memOk_spanOk hd) hd
  split
  · exact h
  · exact memOk_ite1 (memOk_of_mem (bump_mem ..) hr) hr

theorem outOk_execPacketCopy {fn q : Nat} (h : MemOk s) : OutOk (execPacketCopy fn q s) :=
  memOk_takePacket h (fun _ _ _ _ k => memOk_copyPacket k)

theorem memOk_newHandle {fn lvl : Nat} (h : MemOk s) : MemOk (s.newHandle fn lvl).1 := memOk_updFn _ _ h

theorem memOk_mkLaunch {fn ctx handle : Nat} {d : LaunchDesc} {graph node packet : Nat} {hword : Word} {acq : Bool}
    {prods : List Nat} (h : MemOk s) :
    MemOk (s.mkLaunch fn ctx handle d graph node packet hword acq prods) :=
  memOk_of_mem (bump_mem ..) h

theorem memOk_putHandle {a : Word} {a1 : Nat} (h : MemOk s) : MemOk (s.putHandle v a a1).1 :=
  memOk_ite1 h (memOk_noteWord h)

theorem memOk_launchPacket {id : Nat} {w : List Word} (h : MemOk s) : MemOk (launchPacket s v id w).1 := by
  unfold launchPacket
  extract_lets r _ p
  have hr : MemOk r.1 := memOk_hubWords h
  have hp : MemOk p.1 := memOk_putHandle (memOk_newHandle hr)
  split
  · exact hr
  · extract_lets _ _ _ s1
    have hs1 : MemOk s1 := memOk_mkLaunch hp
    exact memOk_ite1 hr (memOk_ite1 hp (memOk_ite1 hs1 (memOk_updLaunch _ _ hs1)))

theorem outOk_execPacketLaunch {fn q : Nat} (h : MemOk s) : OutOk (execPacketLaunch fn q s) :=
  memOk_takePacket h (fun _ _ _ _ k => memOk_launchPacket k)

theorem memOk_hubList {a : Word} {k a1 : Nat} (h : MemOk s) : MemOk (s.hubList v a k a1).1 := by
  induction a1 generalizing s a with
  | zero => exact h
  | succ n ih =>
    unfold State.hubList
    extract_lets r
    have hr : MemOk r.1 := memOk_hubRead h
    split
    · exact hr
    · split <;> exact ih hr

theorem memOk_readNodes {l : List Nat} (h : MemOk s) : MemOk (s.readNodes v l).1 := by
  induction l generalizing s with
  | nil => exact h
  | cons p l ih =>
    unfold State.readNodes
    extract_lets r
    have hr : MemOk r.1 := memOk_ite1 (memOk_hubWords h) h
    split
    · exact hr
    · exact memOk_ite1 hr (ih hr)

theorem memOk_readGraph {a : Word} (h : MemOk s) : MemOk (s.readGraph v a).1 := by
  unfold State.readGraph
  extract_lets r
  have hr : MemOk r.1 := memOk_hubWords h
  split
  · exact hr
  · extract_lets _ _ _ _ e
    have he : MemOk e.1 := memOk_hubList (memOk_hubList hr)
    split
    · exact hr
    · split
      · exact memOk_ite1 he (memOk_readNodes he)
      · exact he

theorem memOk_openUnits {w : List Word} (h : MemOk s) : MemOk (s.openUnits v w).1 := by
  unfold State.openUnits
  extract_lets _ _ _ _ a
  have ha : MemOk a.1 := memOk_ite1 (memOk_of_mem (bump_mem ..) (memOk_newHandle h)) h
  exact memOk_ite1 (memOk_of_mem (bump_mem ..) (memOk_newHandle ha)) ha

theorem memOk_putBlock {a : Word} {p j : Nat} (h : MemOk s) : MemOk (s.putBlock v a g p j).1 :=
  memOk_ite1 h (memOk_noteWord (memOk_noteWord h))

theorem memOk_graphPacket {id : Nat} {w : List Word} (h : MemOk s) : MemOk (graphPacket s v id w).1 := by
  unfold graphPacket
  extract_lets r _ reach _ _ p
  have hr : MemOk r.1 := memOk_readGraph h
  have hreach : MemOk reach.1 := memOk_ite1 hr (memOk_hubAt hr)
  have hp : MemOk p.1 := memOk_putBlock (memOk_newHandle (memOk_openUnits hreach))
  split
  · exact h
  · split
    · exact hr
    · split
      · exact hreach
      · exact memOk_ite1 hr (memOk_of_mem (bump_mem ..) hp)

theorem outOk_execPacketGraph {fn q : Nat} (h : MemOk s) : OutOk (execPacketGraph fn q s) :=
  memOk_takePacket h (fun _ _ _ _ k => memOk_graphPacket k)

theorem outOk_execGraphNodeStart {graph node : Nat} (h : MemOk s) : OutOk (execGraphNodeStart graph node s) := by
  unfold execGraphNodeStart
  split
  · exact h
  · split
    · exact h
    · split
      · exact h
      · exact memOk_graphChild h
      · split
        · exact h
        · extract_lets _ _ _ _ _ s2
          have hs2 : MemOk s2 := memOk_mkLaunch ((memOk_newHandle h))
          split
          · exact hs2
          · exact memOk_graphChild (memOk_updLaunch _ _ hs2)

theorem memOk_putStatus {p : Packet} {st : Nat} (h : MemOk s) : MemOk (s.putStatus v p st) := by
  unfold State.putStatus
  extract_lets _ r
  have hr : MemOk r.1 := memOk_noteWord h
  split
  · exact h
  · split
    · exact memOk_engFault hr
    · exact hr

theorem memOk_completePacket {id : Nat} {p : Packet} {st : Nat} (h : MemOk s) : MemOk (s.completePacket id p st) := by
  unfold State.completePacket
  extract_lets _ _ s1 s2
  have hs1 : MemOk s1 := memOk_putStatus (memOk_ite h (memOk_foldl (fun _ _ k => memOk_cleanDie _ k) _ _ h))
  have hs2 : MemOk s2 := memOk_ite (memOk_sigSub hs1) (memOk_sigSet hs1)
  exact memOk_ite hs2 (memOk_queueErr hs2)

theorem outOk_execPacketComplete (h : MemOk s) : OutOk (execPacketComplete s) := by
  unfold execPacketComplete
  split
  · exact h
  · exact memOk_completePacket h

theorem memOk_spillGet {fn ctx core : Nat} (h : MemOk s) : MemOk (s.spillGet fn ctx core) := by
  unfold State.spillGet
  extract_lets _ r
  have hr : MemOk r.1 := memOk_ringAt h
  split
  · exact memOk_ringIndex hr
  · exact hr

theorem outOk_execCannoliSpillMove (h : MemOk s) : OutOk (execCannoliSpillMove s) := by
  unfold execCannoliSpillMove
  split
  · exact h
  · extract_lets l s1 live
    clear_value l
    have h1 : MemOk s1 := by
      unfold s1
      split
      · exact memOk_spillGet h
      · exact h
    exact memOk_updCore _ _ h1

theorem outOk_execBucketRefill (h : MemOk s) : OutOk (execBucketRefill s) := h

/-! ### Tiers -/

theorem outOk_execPageWalk {die fn ctx space : Nat} {va : Word} {kind : Nat} (h : MemOk s) :
    OutOk (execPageWalk die fn ctx space va kind s) := by
  unfold execPageWalk
  extract_lets _ _ r
  have hr : MemOk r.1 := memOk_walk _ _ _ h
  split
  · split
    · exact hr
    · exact memOk_ite (memOk_setDirty _ _ _ hr) hr
  · exact hr

theorem memOk_ringTake {ring : Nat} (h : MemOk s) : MemOk (s.ringTake ring) := memOk_bankWrite _ _ _ h

theorem memOk_serveInv {op : Nat} {f : State → Nat → Nat → List Word → State} (h : MemOk s)
    (hf : ∀ t a b c, MemOk t → MemOk (f t a b c)) :
    MemOk (s.serveInv op f) := by
  unfold State.serveInv
  split
  · exact memOk_ringSig (memOk_updFn _ _ h)
  · split
    · exact h
    · extract_lets _ s1 s2
      have hs1 : MemOk s1 := memOk_ringTake h
      have hs2 : MemOk s2 := memOk_fmtAll (hf _ _ _ _ hs1)
      exact memOk_ite (memOk_ringSig hs1) (memOk_ite (memOk_updFn _ _ hs2) (memOk_ringSig hs2))

theorem memOk_invRange {fn ctx : Nat} {w : List Word} (h : MemOk s) : MemOk (s.invRange fn ctx w) := memOk_tlbDrop _ h

theorem outOk_execInvPages (h : MemOk s) : OutOk (execInvPages s) :=
  memOk_serveInv h (fun _ _ _ _ k => memOk_invRange k)

theorem memOk_invCtx {fn ctx : Nat} (h : MemOk s) : MemOk (s.invCtx fn ctx) := memOk_tlbDrop _ h

theorem outOk_execInvContext (h : MemOk s) : OutOk (execInvContext s) :=
  memOk_serveInv h (fun _ _ _ _ k => memOk_invCtx k)

theorem memOk_invFrames {fn ctx : Nat} {w : List Word} (h : MemOk s) : MemOk (s.invFrames fn ctx w) := by
  unfold State.invFrames
  extract_lets _ _ _ _ s1 s2
  have hs1 : MemOk s1 := memOk_tlbDrop _ h
  have hs2 : MemOk s2 := hs1
  exact memOk_freeFrames _ hs2

theorem outOk_execInvFrames (h : MemOk s) : OutOk (execInvFrames s) :=
  memOk_serveInv h (fun _ _ _ _ k => memOk_invFrames k)

theorem memOk_tdRecompute {fn ctx : Nat} (h : MemOk s) : MemOk (s.tdRecompute fn ctx) := memOk_updCtx _ _ _ h

theorem outOk_execInvTdmask (h : MemOk s) : OutOk (execInvTdmask s) :=
  memOk_serveInv h (fun _ _ _ _ k => memOk_tdRecompute k)

theorem memOk_wsReadyAll (h : MemOk s) : MemOk s.wsReadyAll := memOk_foldl (fun _ _ k => memOk_wsReady _ _ k) _ _ h

theorem memOk_setLeaf {p : Page} {f : Word → Word} (h : MemOk s) : MemOk (s.setLeaf p f) := by
  unfold State.setLeaf
  split
  · exact memOk_bankWrite _ _ _ h
  · exact h

theorem memOk_setRes {s0 : State} {p : Page} {b : Bool} (h : MemOk s0) : MemOk (s0.setRes p b) := by
  unfold State.setRes
  extract_lets s
  have hs : MemOk s := memOk_wsReady _ _ h
  exact memOk_wsStore (memOk_foldl (fun _ _ k => memOk_ite (memOk_hubPut _ _ _ _ _ _ k) k) _ _ hs)

theorem memOk_losePage {fn ctx : Nat} {l : Word} {size : Nat} (h : MemOk s) : MemOk (s.losePage fn ctx l size) := by
  unfold State.losePage
  extract_lets _ _ s2
  have hs2 : MemOk s2 := memOk_tlbDrop _ (memOk_foldl (fun _ _ k => memOk_wsStore (memOk_setLeaf k)) _ _ h)
  exact memOk_event hs2

theorem memOk_peerPage {peer pa a : Nat} (h : MemOk s) : MemOk (s.peerPage v peer pa a).1 := by
  induction a generalizing s pa with
  | zero => exact h
  | succ n ih =>
    unfold State.peerPage
    extract_lets _
    split <;> exact ih (memOk_readP _ _ _ _ _ h)

theorem memOk_pageIn {fn ctx : Nat} {l : Word} {size : Nat} (h : MemOk s) : MemOk (s.pageIn fn ctx l size).1 := by
  unfold State.pageIn
  extract_lets r
  have hr : MemOk r.1 := memOk_peerPage h
  exact memOk_ite1 (memOk_ite hr hr) h

theorem memOk_movePage {payer : Nat} {p : Page} {f tier : Nat} {bytes : List Byte} (h : MemOk s) :
    MemOk (s.movePage payer p f tier bytes).1 := by
  unfold State.movePage
  split
  · exact h
  · extract_lets _ _ _ s0 _ _ s1 _ _ so s3 s4 s5 s6 s7
    have hs0 : MemOk s0 := memOk_ite (memOk_flushLines _ _ (memOk_fmtAll h)) h
    have hs1 : MemOk s1 := memOk_foldl (fun _ _ k1 => memOk_touch _ _ _ k1) _ _ hs0
    have hso : MemOk so := memOk_ite (memOk_wrBytes _ _ hs1) (memOk_copyCells _ _ _ hs1)
    have hs3 : MemOk s3 := memOk_foldl (fun _ _ k1 => memOk_of_mem (countFrame_mem ..) k1) _ _ hso
    have hs4 : MemOk s4 := memOk_foldl (fun _ _ k1 => memOk_setLeaf k1) _ _ hs3
    have hs5 : MemOk s5 := memOk_ite (memOk_freeFrames _ hs4) (memOk_tlbDrop _ hs4)
    have hs6 : MemOk s6 := memOk_foldl (fun _ _ k1 => memOk_setRes k1) _ _ hs5
    have hs7 : MemOk s7 := memOk_ite (memOk_charge _ _ hs6) hs6
    exact memOk_ite1 (memOk_losePage hs1) (memOk_ite (memOk_charge _ _ hs7) hs7)

theorem memOk_makeRoom {payer k : Nat} {slices : List Nat} {skip : List (Nat × Nat)} {l : List Page} (h : MemOk s) :
    MemOk (s.makeRoom payer k slices skip l).1 := by
  induction l generalizing s skip with
  | nil => exact h
  | cons p l ih =>
    unfold State.makeRoom
    split
    · exact h
    · split
      · exact ih h
      · split
        · exact ih h
        · split
          · exact ih h
          · exact ih (memOk_movePage h)

theorem memOk_moveReq {s0 : State} {fn : Nat} {w : List Word} {tier : Nat} (h : MemOk s0) :
    MemOk (s0.moveReq fn w tier).1 := by
  unfold State.moveReq
  extract_lets _
  split
  · exact h
  · extract_lets _
    split
    · exact h
    · split <;> exact memOk_pageIn h

theorem memOk_of_pageUp {t : State} {home : Nat} {p : Page} {out : Option Nat} {skip : List (Nat × Nat)}
    {bytes : List Byte} {ok : Bool} (h : MemOk s) (e : (s.pageUp home p out skip bytes).1 = some (t, ok)) :
    MemOk t := by
  unfold State.pageUp at e
  split at e
  · cases e
  · obtain ⟨f, -, e⟩ := Option.map_eq_some_iff.mp e
    obtain rfl : _ = t := congrArg Prod.fst e
    exact memOk_movePage (memOk_makeRoom h)

theorem memOk_of_moveReq {t : State} {fn : Nat} {w : List Word} {tier : Nat} {ok : Bool} (h : MemOk s)
    (e : (s.moveReq fn w tier).2 = some (t, ok)) :
    MemOk t := by
  unfold State.moveReq at e
  extract_lets p0 at e
  split at e
  · cases e
  · extract_lets p a listed full g s1 at e
    have hg : MemOk g.1 := memOk_pageIn h
    have h1 : MemOk s1 := memOk_ite hg (memOk_wsAppend _ _ _ hg)
    clear_value g s1
    split at e
    · cases e
    · split at e
      · cases e
      · dsimp only at e
        split at e
        · exact memOk_of_pageUp h1 e
        · obtain ⟨f, -, e⟩ := Option.map_eq_some_iff.mp e
          obtain rfl : _ = t := congrArg Prod.fst e
          exact memOk_movePage h1

theorem memOk_serveMove {op : Nat} (h : MemOk s) : MemOk (s.serveMove op) := by
  unfold State.serveMove
  split
  · exact h
  · rename_i fn ring w _
    extract_lets from_ sig r
    have hw : MemOk (s.ringTake ring).wsReadyAll := memOk_wsReadyAll (memOk_ringTake h)
    have hr : MemOk r.1 := memOk_moveReq hw
    refine memOk_ite hr ?_
    split
    · exact memOk_ringSig hr
    · rename_i e
      exact memOk_ringSig (memOk_of_moveReq hw e)

theorem outOk_execMoveUp (h : MemOk s) : OutOk (execMoveUp s) := memOk_serveMove h

theorem outOk_execMoveDown (h : MemOk s) : OutOk (execMoveDown s) := memOk_serveMove h

theorem memOk_addEvacs {by_ : Option Nat} (h : MemOk s) : MemOk (s.addEvacs by_) := by
  unfold State.addEvacs
  refine memOk_foldl (fun _ _ k => ?_) _ _ h
  exact memOk_of_mem (bump_mem ..) k

theorem memOk_makeMove {m : Move} (h : MemOk s) : MemOk (s.makeMove m) := by
  unfold State.makeMove
  extract_lets home
  split
  · exact h
  · extract_lets g
    have hg : MemOk g.1 := memOk_pageIn h
    clear_value g
    split
    · exact hg
    · extract_lets r put s2
      have hput : ∀ t, MemOk t → MemOk (put t) := fun _ k => memOk_updFn _ _ k
      split
      · rename_i e
        exact hput _ (memOk_of_pageUp hg e)
      · have h2 : MemOk s2 := hput _ hg
        exact memOk_ite (memOk_event h2) h2

theorem outOk_execPageMove (h : MemOk s) : OutOk (execPageMove s) := by
  unfold execPageMove
  extract_lets s0
  have hs0 : MemOk s0 := memOk_addEvacs (memOk_wsReadyAll h)
  split
  · exact hs0
  · exact memOk_ite (memOk_makeMove hs0) hs0

theorem memOk_lookQueues (h : MemOk s) : MemOk s.lookQueues :=
  memOk_foldl (fun _ _ k => memOk_foldl (fun _ _ k1 => memOk_ite (memOk_queueRing k1) k1) _ _ k) _ _ h

theorem outOk_execQuantumEnd {s0 : State} (h : MemOk s0) : OutOk (execQuantumEnd s0) := by
  unfold execQuantumEnd
  extract_lets s
  have hs : MemOk s := memOk_lookQueues h
  split
  · exact hs
  · split
    · exact memOk_updFn _ _ hs
    · extract_lets _
      split
      · exact memOk_updFn _ _ hs
      · exact memOk_foldl (fun _ _ k => memOk_preemptCtx k) _ _ hs

theorem memOk_addMoves {ps : List Page} (h : MemOk s) : MemOk (s.addMoves ps) := by
  unfold State.addMoves
  refine memOk_foldl (fun _ _ k => ?_) _ _ h
  exact memOk_ite k (memOk_of_mem (bump_mem ..) k)

theorem memOk_comeIn {fn out : Nat} (h : MemOk s) : MemOk (s.comeIn fn out) :=
  memOk_updFn _ _ (memOk_foldl (fun _ _ k => memOk_addMoves k) _ _ h)

theorem outOk_execIncomingResident {s0 : State} (h : MemOk s0) : OutOk (execIncomingResident s0) := by
  unfold execIncomingResident
  extract_lets s
  have hs : MemOk s := memOk_wsReadyAll h
  split
  · exact hs
  · exact memOk_comeIn ((memOk_updFn _ _ hs))

/-! ### Praline -/

theorem memOk_setWear {u : Nat} {n : Wear} (h : MemOk s) : MemOk (s.setWear u n) := by
  unfold State.setWear
  extract_lets s1
  have hs1 : MemOk s1 := memOk_of_mem (updWear_mem ..) h
  exact memOk_ite (memOk_event hs1) hs1

theorem memOk_accrueUnit {busy : Table Nat} {u : Nat} (h : MemOk s) : MemOk (s.accrueUnit busy u) := memOk_setWear h

theorem memOk_boostTick {c : Nat} {point : Point} (h : MemOk s) : MemOk (s.boostTick c point) :=
  memOk_ite h (memOk_updCore _ _ (memOk_updFn _ _ h))

theorem memOk_boostDecide (h : MemOk s) : MemOk s.boostDecide :=
  memOk_foldl (fun _ _ k => memOk_ite (memOk_updCore _ _ k) k) _ _ h

theorem memOk_boostStop {c : Nat} (h : MemOk s) : MemOk (s.boostStop c) := memOk_updCore _ _ (memOk_updFn _ _ h)

theorem memOk_boostEnds (h : MemOk s) : MemOk s.boostEnds :=
  memOk_foldl (fun _ _ k => memOk_ite (memOk_boostStop k) k) _ _ h

theorem outOk_execBoostEnd (h : MemOk s) : OutOk (execBoostEnd s) := memOk_boostEnds h

theorem memOk_drainCore {c : Nat} (h : MemOk s) : MemOk (s.drainCore c) := by
  unfold State.drainCore
  extract_lets s1
  have hs1 : MemOk s1 := by
    unfold s1
    split
    · exact memOk_of_mem (updWear_mem ..) h
    · exact h
  exact memOk_updCore _ _ hs1

theorem memOk_drains {cs : List Nat} (h : MemOk s) : MemOk (s.drains cs) :=
  memOk_foldl (fun _ _ k => memOk_ite k (memOk_drainCore k)) _ _ h

theorem memOk_restEnds (h : MemOk s) : MemOk s.restEnds := by
  unfold State.restEnds
  refine memOk_foldl (fun _ _ k => ?_) _ _ h
  split
  · exact memOk_ite (memOk_updCore _ _ (memOk_of_mem (updWear_mem ..) k)) k
  · exact k

theorem outOk_execRestEnd (h : MemOk s) : OutOk (execRestEnd s) := memOk_restEnds h

theorem memOk_restStarts (h : MemOk s) : MemOk s.restStarts := by
  unfold State.restStarts
  refine memOk_foldl (fun _ _ k => ?_) _ _ h
  split
  · exact memOk_ite (memOk_updCore _ _ (memOk_of_mem (updWear_mem ..) k)) k
  · exact k

theorem memOk_gateEngines (h : MemOk s) : MemOk s.gateEngines := by
  unfold State.gateEngines
  extract_lets _
  refine memOk_foldl (fun _ _ k => ?_) _ _ h
  extract_lets _ t1
  have ht1 : MemOk t1 := memOk_of_mem (updEng_mem ..) k
  exact memOk_ite (memOk_of_mem (updWear_mem ..) ht1) ht1

theorem memOk_retireStart {c : Nat} (h : MemOk s) : MemOk (s.retireStart c) := by
  unfold State.retireStart
  extract_lets s1
  have hs1 : MemOk s1 := memOk_updCore _ _ (memOk_drainCore h)
  split
  · exact h
  · split
    · exact memOk_event hs1
    · exact hs1

theorem memOk_retireSpare {die : Nat} (h : MemOk s) : MemOk (s.retireSpare die) := by
  unfold State.retireSpare
  extract_lets _ ev
  have hev : ∀ t, MemOk t → MemOk (ev t) := fun _ k => memOk_event k
  exact memOk_ite (hev _ (hev _ (memOk_of_mem (updWear_mem ..) h))) h

theorem memOk_retireDecide (h : MemOk s) : MemOk s.retireDecide := by
  unfold State.retireDecide
  extract_lets s1
  have hs1 : MemOk s1 := by
    unfold s1
    refine memOk_foldl (fun _ _ k => ?_) _ _ h
    split
    · exact memOk_ite (memOk_retireStart k) k
    · exact k
  exact memOk_foldl (fun _ _ k => memOk_retireSpare k) _ _ hs1

theorem memOk_retirePreempts (h : MemOk s) : MemOk s.retirePreempts := by
  unfold State.retirePreempts
  refine memOk_foldl (fun _ _ k => ?_) _ _ h
  exact memOk_ite (memOk_ite k (memOk_event (memOk_foldl (fun _ _ k1 => memOk_preemptWg k1) _ _ k))) k

theorem outOk_execRetirePreempt (h : MemOk s) : OutOk (execRetirePreempt s) := memOk_retirePreempts h

theorem memOk_retireDone {c : Nat} (h : MemOk s) : MemOk (s.retireDone c) := by
  unfold State.retireDone
  split
  · exact h
  · extract_lets spare s1 ev s2 has s3
    have hev : ∀ t a, MemOk t → MemOk (ev t a) := fun _ _ k => memOk_event k
    have h2 : MemOk s2 := hev _ _ (hev _ _ (memOk_of_mem (updWear_mem ..) (memOk_cleanCore _ h)))
    have h3 : MemOk s3 := memOk_updCore _ _ h2
    clear_value s3
    exact memOk_ite (hev _ _ (memOk_of_mem (updWear_mem ..) (memOk_of_mem rfl h3))) h3

theorem memOk_retireDones (h : MemOk s) : MemOk s.retireDones :=
  memOk_foldl (fun _ _ k => memOk_ite (memOk_retireDone k) k) _ _ h

theorem memOk_openWindow (h : MemOk s) : MemOk s.openWindow := h

theorem memOk_windowStep (h : MemOk s) : MemOk s.windowStep := memOk_ite (memOk_openWindow h) h

theorem outOk_execEnergyWindowStart (h : MemOk s) : OutOk (execEnergyWindowStart s) := memOk_windowStep h

theorem memOk_writeCkpt {orderly : Bool} (h : MemOk s) : MemOk (s.writeCkpt orderly) := memOk_ite h (memOk_ite h h)

theorem memOk_ckptStep (h : MemOk s) : MemOk s.ckptStep := memOk_ite (memOk_writeCkpt h) h

theorem outOk_execCheckpoint (h : MemOk s) : OutOk (execCheckpoint s) := memOk_ckptStep h

theorem memOk_tickAccount {busy metered : Table Nat} {faults : List Nat} (h : MemOk s) :
    MemOk (s.tickAccount busy metered faults) := by
  have upd : ∀ t : State, MemOk t → MemOk { t with
    fns := t.fns.map fun (p : Nat × Func) => (p.1, p.2.chargeTick metered)
    age := t.age + 1, targeth := t.targethNext.getD t.targeth, targethNext := none } := fun _ k => k
  exact upd _
    (memOk_foldl (fun _ _ k => memOk_accrueUnit k) _ _
    (memOk_foldl (fun _ _ k => memOk_of_mem (updWear_mem ..) k) _ _ h))

theorem memOk_setBudgets (h : MemOk s) : MemOk s.setBudgets := h

theorem memOk_newTick (h : MemOk s) : MemOk s.newTick := memOk_restStarts (memOk_restEnds h)

theorem memOk_boundary {busy metered : Table Nat} {faults : List Nat} (h : MemOk s) :
    MemOk (s.boundary busy metered faults) := by
  unfold State.boundary
  extract_lets points s1 s2 s3 s4 s5
  have h2 : MemOk s2 := memOk_foldl (fun _ _ k => memOk_boostTick k) _ _ (memOk_tickAccount h)
  clear_value s2
  have h4 : MemOk s4 :=
    memOk_retireDones
      (memOk_retirePreempts (memOk_boostEnds (memOk_boostDecide (memOk_retireDecide (memOk_setBudgets h2)))))
  clear_value s4
  have h5 : MemOk s5 := memOk_newTick (memOk_gateEngines (memOk_foldl (fun _ _ k => memOk_drains k) _ _ h4))
  clear_value s5
  exact memOk_of_mem rfl (memOk_ckptStep (memOk_windowStep h5))

theorem outOk_execTickBoundary {act : Activity} {metered : Table Nat} (h : MemOk s) :
    OutOk (execTickBoundary act metered s) :=
  memOk_boundary h

theorem outOk_execTemperatureSample {samples : Table Int} (h : MemOk s) : OutOk (execTemperatureSample samples s) :=
  memOk_foldl (fun _ _ k => memOk_of_mem (updWear_mem ..) k) _ _ h

theorem memOk_trimColumns {die : Nat} (h : MemOk s) : MemOk (s.trimColumns die) :=
  memOk_foldl (fun _ _ k => memOk_ite (memOk_updCore _ _ k) k) _ _ h

theorem memOk_setVb {die bus : Nat} {v : VbState} (h : MemOk s) : MemOk (s.setVb die bus v) := by
  unfold State.setVb
  exact memOk_event (memOk_trimColumns (memOk_of_mem (updWear_mem ..) h))

theorem memOk_busFault {die bus : Nat} {failed : Bool} (h : MemOk s) : MemOk (s.busFault die bus failed) := by
  unfold State.busFault
  split
  · exact memOk_setVb h
  · exact memOk_ite (memOk_setVb h) (memOk_addEvacs (memOk_wsReadyAll (memOk_setVb h)))

theorem memOk_loseFrames {p : Nat → Bool} (h : MemOk s) : MemOk (s.loseFrames p) := by
  unfold State.loseFrames
  extract_lets s1
  have hs1 : MemOk s1 := by
    unfold s1
    refine memOk_foldl (fun _ _ k => ?_) _ _ h
    exact memOk_ite k (memOk_wsStore (memOk_foldl (fun _ _ k1 => memOk_bankWrite _ _ _ k1) _ _ k))
  exact memOk_tlbDrop _ hs1

theorem memOk_failEvent {world a n : Nat} (h : MemOk s) : MemOk (s.failEvent world a n) := memOk_event h

theorem memOk_settleFails (h : MemOk s) : MemOk s.settleFails := by
  unfold State.settleFails
  extract_lets s1 s2
  have h1 : MemOk s1 :=
    memOk_foldl (fun _ _ k => memOk_failEvent (memOk_loseFrames k)) _ _ (memOk_of_mem (s := s) rfl h)
  have h2 : MemOk s2 := memOk_of_mem (s := s1) rfl h1
  clear_value s2
  refine memOk_foldl (fun t m k => ?_) _ _ h2
  refine memOk_ite k (memOk_failEvent ?_)
  exact memOk_of_mem (s := t) rfl k

theorem memOk_busWarn {die bus : Nat} (h : MemOk s) : MemOk (s.busWarn die bus) := memOk_ite (memOk_busFault h) h

theorem outOk_execVbWarning {die bus : Nat} (h : MemOk s) : OutOk (execVbWarning die bus s) := memOk_busWarn h

theorem outOk_execVbFailure {die bus : Nat} (h : MemOk s) : OutOk (execVbFailure die bus s) := by
  unfold execVbFailure
  extract_lets _ s1
  have hs1 : MemOk s1 := memOk_busFault h
  split
  · exact memOk_ite (memOk_loseFrames hs1) hs1
  · exact h

theorem outOk_execVbRepairDone {die bus : Nat} (h : MemOk s) : OutOk (execVbRepairDone die bus s) := by
  unfold execVbRepairDone
  split
  · split
    · exact memOk_setVb (memOk_setVb h)
    · exact h
  · exact h

theorem outOk_execVbDrainDone {die bus : Nat} (h : MemOk s) : OutOk (execVbDrainDone die bus s) := by
  unfold execVbDrainDone
  split
  · exact memOk_setVb h
  · exact h

theorem memOk_setMargin {u m : Nat} (h : MemOk s) : MemOk (s.setMargin u m) := by
  unfold State.setMargin
  extract_lets _ s1
  have hs1 : MemOk s1 := memOk_of_mem (updWear_mem ..) h
  split
  · split
    · exact memOk_busWarn (memOk_event hs1)
    · exact memOk_event hs1
  · exact hs1

theorem outOk_execMarginMeasure {margins : Table Nat} (h : MemOk s) : OutOk (execMarginMeasure margins s) :=
  memOk_foldl (fun _ _ k => memOk_setMargin k) _ _ h

theorem outOk_execEolhPredict (h : MemOk s) : OutOk (execEolhPredict s) :=
  memOk_foldl (fun _ _ k => memOk_of_mem (updWear_mem ..) k) _ _ h

theorem outOk_execTargethWrite {v : BitVec 32} (h : MemOk s) : OutOk (execTargethWrite v s) := memOk_ite h h

theorem outOk_execEbudgetWrite {fn : Nat} {v : Word} (h : MemOk s) : OutOk (execEbudgetWrite fn v s) :=
  memOk_ite h (memOk_updFn _ _ h)

/-! ### Links -/

theorem memOk_linkEvent {i detail : Nat} (h : MemOk s) : MemOk (s.linkEvent i detail) := memOk_event h

theorem memOk_pendFill {o : PeerOut} {x : Option Word} (h : MemOk s) : MemOk (s.pendFill o x) := memOk_updGrp _ _ h

theorem memOk_peerOver {o : PeerOut} (h : MemOk s) : MemOk (s.peerOver o) := h

theorem memOk_tell {o : PeerOut} {data : Option (List Byte)} (h : MemOk s) : MemOk (s.tell o data) := memOk_ite h h

theorem memOk_peerFail {o : PeerOut} (h : MemOk s) : MemOk (s.peerFail o) := by
  unfold State.peerFail
  extract_lets s1
  have hs1 : MemOk s1 := memOk_peerOver h
  split
  · exact memOk_tell hs1
  · split
    · split
      · exact memOk_opFail hs1
      · exact hs1
    · exact memOk_ite (memOk_late (memOk_pendFill hs1)) (memOk_engFault hs1)

theorem memOk_resend {o : PeerOut} (h : MemOk s) : MemOk (s.resend o) := by
  unfold State.resend
  split
  · exact memOk_peerFail h
  · extract_lets s1
    have hs1 : MemOk s1 := memOk_sendOn (memOk_touchPeer h)
    exact hs1

theorem memOk_tryHeld {o : PeerOut} (h : MemOk s) : MemOk (s.tryHeld o) := memOk_ite h (memOk_resend h)

theorem memOk_sendHeld (h : MemOk s) : MemOk s.sendHeld := by
  unfold State.sendHeld
  extract_lets s1
  have hs1 : MemOk s1 := memOk_foldl (fun _ _ k => memOk_tryHeld k) _ _ h
  exact memOk_foldl (fun _ _ k => memOk_ite (memOk_answer _ _ k) k) _ _ hs1

theorem memOk_loseLink {i : Nat} (h : MemOk s) : MemOk (s.loseLink i) := by
  unfold State.loseLink
  extract_lets _ _ s1
  have hs1 : MemOk s1 := memOk_updLink _ _ h
  exact memOk_ite h
    (memOk_linkEvent
    (memOk_sendHeld
    (memOk_foldl (fun _ _ k => memOk_answer _ _ k) _ _ (memOk_foldl (fun _ _ k => memOk_resend k) _ _ hs1))))

theorem memOk_loseH (h : MemOk s) : MemOk s.loseH := memOk_foldl (fun _ _ k => memOk_updLink _ _ k) _ _ h

theorem outOk_execLinkLost {link : Nat} (h : MemOk s) : OutOk (execLinkLost link s) := memOk_ite h (memOk_loseLink h)

theorem outOk_execSelfidWrite {v : BitVec 10} (h : MemOk s) : OutOk (execSelfidWrite v s) := by
  unfold execSelfidWrite
  split
  · exact h
  · exact memOk_foldl (fun _ _ k => memOk_updLink _ _ k) _ _ h

theorem outOk_execRouteWrite {p : Nat} {v : Word} (h : MemOk s) : OutOk (execRouteWrite p v s) :=
  memOk_ite (memOk_sendHeld h) h

theorem outOk_execLinkTrained {link : Nat} {farid : BitVec 10} {active : BitVec 4} (h : MemOk s) :
    OutOk (execLinkTrained link farid active s) := by
  unfold execLinkTrained
  extract_lets _
  split
  · exact h
  · exact memOk_sendHeld (memOk_updLink _ _ (memOk_of_mem (bump_mem ..) h))

theorem memOk_nakRecv {i : Nat} {q : BitVec 16} (h : MemOk s) : MemOk (s.nakRecv i q) :=
  memOk_ite h (memOk_ite (memOk_loseLink h) (memOk_updLink _ _ h))

theorem outOk_execNakReceive {link : Nat} {seq : BitVec 16} (h : MemOk s) : OutOk (execNakReceive link seq s) :=
  memOk_nakRecv h

theorem memOk_takeMsgs {i : Nat} {f : Flit} (h : MemOk s) : MemOk (s.takeMsgs i f) := by
  unfold State.takeMsgs
  extract_lets _ _ s0
  have hs0 : MemOk s0 := memOk_updLink _ _ h
  exact hs0

theorem memOk_sendAck {i : Nat} (h : MemOk s) : MemOk (s.sendAck i) := memOk_updLink _ _ h

theorem outOk_execFlitReceive {link : Nat} {f : Flit} {s0 : State} (h : MemOk s0) :
    OutOk (execFlitReceive link f s0) := by
  unfold execFlitReceive
  extract_lets s _ _ _ s1 s2
  have hs : MemOk s := memOk_updLink _ _ h
  have hs1 : MemOk s1 := memOk_updLink _ _ hs
  have hs2 : MemOk s2 := memOk_ite (memOk_nakRecv hs1) (memOk_takeMsgs hs1)
  split
  · exact h
  · split
    · exact memOk_sendHeld (memOk_ite hs2 (memOk_sendAck hs2))
    · split
      · exact memOk_sendHeld (memOk_sendAck (memOk_updLink _ _ hs))
      · split
        · exact hs
        · exact memOk_updLink _ _ hs

theorem outOk_execDarkWavelengthDetect {link : Nat} {dark : BitVec 4} (h : MemOk s) :
    OutOk (execDarkWavelengthDetect link dark s) := by
  unfold execDarkWavelengthDetect
  extract_lets _
  split
  · exact h
  · split
    · exact memOk_loseLink h
    · exact memOk_updLink _ _ h

theorem outOk_execRestripeDone {link : Nat} (h : MemOk s) : OutOk (execRestripeDone link s) := by
  unfold execRestripeDone
  extract_lets _
  split
  · exact h
  · exact memOk_linkEvent (memOk_updLink _ _ h)

theorem memOk_peerRing {r : PeerReq} (h : MemOk s) : MemOk (s.peerRing r).1 :=
  memOk_ite1 h (memOk_ite1 (memOk_bankWrite _ _ _ (memOk_bankWrite _ _ _ h)) (memOk_bankWrite _ _ _ h))

theorem memOk_peerDo {r : PeerReq} (h : MemOk s) : MemOk (s.peerDo r).1 := by
  unfold State.peerDo
  extract_lets _
  split
  · exact h
  · exact memOk_bankWrite _ _ _ h
  · exact memOk_bankWrite _ _ _ h
  · exact memOk_bankWrite _ _ _ h
  · exact memOk_peerRing h

theorem outOk_execPeerRequestArrive {r : PeerReq} (h : MemOk s) : OutOk (execPeerRequestArrive r s) := by
  unfold execPeerRequestArrive
  extract_lets _ ans s1 _ q _ t
  have hans : ∀ t a, MemOk t → MemOk (ans t a) := fun _ _ k1 => memOk_answer _ _ k1
  have hs1 : MemOk s1 := h
  have hq : MemOk q.1 := memOk_takeOwners _ _ _ hs1
  have ht : MemOk t :=
    memOk_foldl (fun _ _ k1 => memOk_recall _ (memOk_verifyLine _ (memOk_noteNode _ (memOk_hostOwnAt _ k1)))) _ _ hq
  split
  · exact h
  · split
    · exact hans _ _ (memOk_peerContrib hs1)
    · split
      · exact hans _ _ ht
      · exact hans _ _ (memOk_peerDo ht)

theorem memOk_wordLand {o : PeerOut} {data : List Byte} (h : MemOk s) : MemOk (s.wordLand o data) := by
  unfold State.wordLand
  split
  · exact h
  · extract_lets _ _ r
    have hr : MemOk r.1 := memOk_wordAt h
    split
    · split
      · exact memOk_opFault hr
      · extract_lets q
        have hq : MemOk q.1 := memOk_putWord hr
        exact memOk_ite hq hq
    · exact h
    · exact memOk_ite h (memOk_opFail h)
    · exact h

theorem memOk_peerLand {o : PeerOut} {data : List Byte} (h : MemOk s) : MemOk (s.peerLand o data) := by
  unfold State.peerLand
  extract_lets s1
  have hs1 : MemOk s1 := memOk_peerOver h
  split
  · exact memOk_tell hs1
  · split
    · split
      · exact memOk_winFollow (memOk_wordLand hs1)
      · exact hs1
    · exact memOk_pendFill hs1

theorem outOk_execPeerResponseArrive {req : Nat} {data : Option (List Byte)} (h : MemOk s) :
    OutOk (execPeerResponseArrive req data s) := by
  unfold execPeerResponseArrive
  split
  · exact h
  · refine memOk_sendHeld ?_
    split
    · exact memOk_peerLand h
    · exact memOk_peerFail h

/-! ### Manage -/

theorem memOk_halt {ofOp : AsyncOp → Bool} {ofWg : Nat → Bool} (h : MemOk s) : MemOk (s.halt ofOp ofWg) := h

theorem memOk_closeQueues {fn ctx : Nat} (h : MemOk s) : MemOk (s.closeQueues fn ctx) := memOk_updFn _ _ h

theorem memOk_dropLaunchCards {p : Nat → Bool} (h : MemOk s) : MemOk (s.dropLaunchCards p) := h

theorem memOk_endCtx {fn ctx : Nat} (h : MemOk s) : MemOk (s.endCtx fn ctx) := by
  unfold State.endCtx
  extract_lets _ _ _ _ s3
  have hs3 : MemOk s3 := by
    unfold s3
    refine memOk_foldl (fun _ _ k => ?_) _ _ (memOk_dropLaunchCards (memOk_closeQueues (memOk_halt h)))
    split
    · exact memOk_kill k
    · exact memOk_endWg k
  exact memOk_updCtx _ _ _ hs3

theorem outOk_execDieLoss {die : Nat} (h : MemOk s) : OutOk (execDieLoss die s) := by
  unfold execDieLoss
  extract_lets _ _ s2 s3 s4
  have hs2 : MemOk s2 := memOk_foldl (fun _ _ k => memOk_endCtx k) _ _ h
  have hs3 : MemOk s3 := memOk_foldl (fun _ _ k => memOk_event k) _ _ hs2
  have hs4 : MemOk s4 := memOk_ite (memOk_event hs3) hs3
  split
  · exact h
  · exact memOk_ite (memOk_foldl (fun _ _ k => memOk_loseLink k) _ _ hs4) (memOk_ite (memOk_loseH hs4) hs4)

theorem outOk_execCxlMemAccess {wr : Bool} {pa : Nat} {data : List Byte} (h : MemOk s) :
    OutOk (execCxlMemAccess wr pa data s) := by
  unfold execCxlMemAccess
  extract_lets _ _ _ _ sv _ s1
  have hsv : MemOk sv := memOk_foldl (fun _ _ k => memOk_verifyLine _ (memOk_noteNode _ k)) _ _ h
  have hs1 : MemOk s1 := memOk_charge _ _ (memOk_foldl (fun _ _ k => memOk_recall _ k) _ _ hsv)
  split
  · exact memOk_event h
  · split
    · exact hsv
    · split
      · exact memOk_foldl (fun _ _ k => memOk_countLine _ k) _ _ (memOk_wrBytes _ _ hs1)
      · exact hs1

theorem outOk_execBackInvalidate {rc : HostRecall} (h : MemOk s) : OutOk (execBackInvalidate rc s) := by
  unfold execBackInvalidate
  extract_lets _ s1 s2
  have hs1 : MemOk s1 := memOk_recall _ h
  have hs2 : MemOk s2 := hs1
  exact memOk_ite (memOk_wrBytes _ _ hs2) hs2

theorem memOk_serveMgmt {op : Nat} {f : State → List Word → Except Nat State} (h : MemOk s)
    (hf : ∀ t w, MemOk t → ExcOk (f t w)) :
    MemOk (s.serveMgmt op f) := by
  unfold State.serveMgmt
  split
  · exact h
  · rename_i w _
    extract_lets from_ s1 sig
    have h1 : MemOk s1 := memOk_ringTake h
    have k : ExcOk (f s1 w) := hf s1 w h1
    refine memOk_ite h (memOk_ite (memOk_ringSig h1) ?_)
    split
    · exact memOk_ringSig h1
    · rename_i e
      rw [e] at k
      exact memOk_ringSig k

theorem memOk_serveLong {op : Nat} {f : State → Option Nat → List Word → Except Nat State} (h : MemOk s)
    (hf : ∀ t o w, MemOk t → ExcOk (f t o w)) :
    MemOk (s.serveLong op f) := by
  unfold State.serveLong
  split
  · exact h
  · rename_i w _
    extract_lets from_ s1 sig
    have h1 : MemOk s1 := memOk_ringTake h
    have k : ExcOk (f s1 from_ w) := hf s1 from_ w h1
    refine memOk_ite h (memOk_ite (memOk_ringSig h1) ?_)
    split
    · exact memOk_ringSig h1
    · rename_i e
      rw [e] at k
      exact k

theorem memOk_fw2 {op fn : Nat} {f : Func} (h : MemOk s) : MemOk (s.fw2 op fn f) := h

theorem memOk_setLife {fn : Nat} (h : MemOk s) : MemOk (s.setLife fn) := memOk_updFn _ _ h

theorem memOk_readDesc {fn d : Nat} (h : MemOk s) : MemOk (s.readDesc fn d) :=
  memOk_bankWrite _ _ _ (memOk_updFn _ _ h)

theorem excOk_mgmtPcreate {w : List Word} (h : MemOk s) : ExcOk (mgmtPcreate s w) := by
  unfold mgmtPcreate
  extract_lets _ _ _ _ _ _ _ _ _ _ s2
  have hs2 : MemOk s2 := memOk_foldl (fun _ _ k => memOk_updFn _ _ k) _ _ h
  split
  · exact trivial
  · split
    · exact trivial
    · split
      · exact trivial
      · split
        · exact trivial
        · split
          · exact trivial
          · exact memOk_flushRecs (memOk_setLife (memOk_fw2 (memOk_readDesc hs2)))

theorem outOk_execPcreate (h : MemOk s) : OutOk (execPcreate s) :=
  memOk_serveMgmt h (fun _ _ k => excOk_mgmtPcreate k)

theorem excOk_mgmtPresize {from_ : Option Nat} {w : List Word} (h : MemOk s) : ExcOk (mgmtPresize s from_ w) := by
  unfold mgmtPresize
  extract_lets _
  split
  · exact trivial
  · split
    · exact trivial
    · split
      · exact trivial
      · split
        · exact trivial
        · split
          · exact memOk_ringSig (memOk_fw2 h)
          · exact memOk_foldl (fun _ _ k => memOk_preemptWg k) _ _ h

theorem memOk_shrinkDone {fn : Nat} {f : Func} {first count : Nat} {sig : Word} (h : MemOk s) :
    MemOk (s.shrinkDone fn f first count sig) := by
  unfold State.shrinkDone
  extract_lets _ s1 s2
  have hs1 : MemOk s1 := memOk_tlbDrop _ (memOk_foldl (fun _ _ k => memOk_cleanCore _ k) _ _ h)
  have hs2 : MemOk s2 := memOk_freeFrames _ hs1
  exact memOk_ringSig (memOk_fw2 hs2)

theorem memOk_shrinkStep (h : MemOk s) : MemOk s.shrinkStep := by
  unfold State.shrinkStep
  split
  · exact h
  · extract_lets _ _ t
    have ht : MemOk t := memOk_wsReadyAll h
    exact memOk_ite h
      (memOk_ite (memOk_ringSig (memOk_updFn _ _ h))
      (memOk_ite h (memOk_ite (memOk_updFn _ _ (memOk_addEvacs ht)) (memOk_shrinkDone h))))

theorem outOk_execPresize (h : MemOk s) : OutOk (execPresize s) :=
  memOk_ite (memOk_shrinkStep h) (memOk_serveLong h (fun _ _ _ k => excOk_mgmtPresize k))

theorem memOk_wipeBanks {p : Bank → Bool} (h : MemOk s) : MemOk (s.wipeBanks p) := h

theorem excOk_mgmtPdestroy {w : List Word} (h : MemOk s) : ExcOk (mgmtPdestroy s w) := by
  unfold mgmtPdestroy
  extract_lets fn f rest f' s1 s2
  have h1 : MemOk s1 := memOk_wipeBanks (memOk_of_mem rfl h)
  clear_value s1
  clear_value rest
  have h2 : MemOk s2 := memOk_fw2 h1
  split
  · trivial
  · split
    · trivial
    · refine memOk_ite ?_ h2
      split
      · exact memOk_comeIn h2
      · exact h2

theorem outOk_execPdestroy (h : MemOk s) : OutOk (execPdestroy s) :=
  memOk_serveMgmt h (fun _ _ k => excOk_mgmtPdestroy k)

theorem excOk_mgmtQuota {w : List Word} (h : MemOk s) : ExcOk (mgmtQuota s w) := by
  unfold mgmtQuota
  extract_lets _
  split
  · exact trivial
  · split
    · exact trivial
    · split
      · exact trivial
      · exact memOk_updFn _ _ h

theorem outOk_execQuota (h : MemOk s) : OutOk (execQuota s) := memOk_serveMgmt h (fun _ _ k => excOk_mgmtQuota k)

theorem excOk_mgmtBucket {w : List Word} (h : MemOk s) : ExcOk (mgmtBucket s w) := by
  unfold mgmtBucket
  extract_lets _
  split
  · exact trivial
  · split
    · exact trivial
    · exact memOk_updFn _ _ h

theorem outOk_execBucket (h : MemOk s) : OutOk (execBucket s) := memOk_serveMgmt h (fun _ _ k => excOk_mgmtBucket k)

theorem memOk_mkWorld {fn n : Nat} (h : MemOk s) : MemOk (s.mkWorld fn n) := memOk_of_mem (bump_mem ..) h

theorem excOk_mgmtWcreate {w : List Word} (h : MemOk s) : ExcOk (mgmtWcreate s w) := by
  unfold mgmtWcreate
  split
  · exact trivial
  · split
    · exact trivial
    · exact memOk_mkWorld h

theorem outOk_execWcreate (h : MemOk s) : OutOk (execWcreate s) :=
  memOk_serveMgmt h (fun _ _ k => excOk_mgmtWcreate k)

theorem memOk_dropWorld {n : Nat} (h : MemOk s) : MemOk (s.dropWorld n) := by
  unfold State.dropWorld
  extract_lets s1
  have hs1 : MemOk s1 := memOk_wipeBanks (memOk_freeFrames _ h)
  exact hs1

theorem excOk_mgmtWdestroy {w : List Word} (h : MemOk s) : ExcOk (mgmtWdestroy s w) := by
  unfold mgmtWdestroy
  extract_lets _
  split
  · exact trivial
  · split
    · exact trivial
    · split
      · exact trivial
      · split
        · exact trivial
        · exact memOk_dropWorld h

theorem outOk_execWdestroy (h : MemOk s) : OutOk (execWdestroy s) :=
  memOk_serveMgmt h (fun _ _ k => excOk_mgmtWdestroy k)

theorem excOk_mgmtCcreate {w : List Word} (h : MemOk s) : ExcOk (mgmtCcreate s w) := by
  unfold mgmtCcreate
  extract_lets _
  split
  · exact trivial
  · split
    · exact trivial
    · split
      · exact trivial
      · split
        · exact trivial
        · exact h

theorem outOk_execCcreate (h : MemOk s) : OutOk (execCcreate s) :=
  memOk_serveMgmt h (fun _ _ k => excOk_mgmtCcreate k)

theorem excOk_mgmtPbset {w : List Word} (h : MemOk s) : ExcOk (mgmtPbset s w) := by
  unfold mgmtPbset
  split
  · exact trivial
  · exact memOk_updCtx _ _ _ h

theorem outOk_execPbset (h : MemOk s) : OutOk (execPbset s) := memOk_serveMgmt h (fun _ _ k => excOk_mgmtPbset k)

theorem excOk_mgmtPdset {w : List Word} (h : MemOk s) : ExcOk (mgmtPdset s w) := by
  unfold mgmtPdset
  extract_lets _ _ _ _ s2 _ _ up
  have hs2 : MemOk s2 := memOk_flushRecs (memOk_updFn _ _ (memOk_readDesc h))
  have hup : ∀ t a, MemOk t → MemOk (up t a) := by
    unfold up
    refine fun _ _ k => ?_
    exact memOk_ite (memOk_msix k) k
  split
  · exact trivial
  · split
    · exact trivial
    · split
      · exact trivial
      · exact hup _ _ (hup _ _ (memOk_updFn _ _ (memOk_bankWrite _ _ _ (memOk_bankWrite _ _ _ hs2))))

theorem outOk_execPdset (h : MemOk s) : OutOk (execPdset s) := memOk_serveMgmt h (fun _ _ k => excOk_mgmtPdset k)

theorem excOk_mgmtBias {w : List Word} (h : MemOk s) : ExcOk (mgmtBias s w) := by
  unfold mgmtBias
  extract_lets _
  split
  · exact trivial
  · exact memOk_foldl (fun _ _ k => memOk_setBias _ _ k) _ _ h

theorem outOk_execBias (h : MemOk s) : OutOk (execBias s) := memOk_serveMgmt h (fun _ _ k => excOk_mgmtBias k)

theorem memOk_ctxReset {fn ctx : Nat} (h : MemOk s) : MemOk (s.ctxReset fn ctx) := by
  unfold State.ctxReset
  extract_lets _ s1 s2 s3
  have hs1 : MemOk s1 := memOk_foldl (fun _ _ k => memOk_cancelJob k) _ _ h
  have hs2 : MemOk s2 := memOk_foldl (fun _ _ k => memOk_cancelPhase k) _ _ hs1
  have hs3 : MemOk s3 := memOk_foldl (fun _ _ k => memOk_cancelGraph k) _ _ hs2
  exact memOk_foldl (fun _ _ k => memOk_cancelLaunch k) _ _ hs3

theorem memOk_engReset {fn ctx : Nat} (h : MemOk s) : MemOk (s.engReset fn ctx) :=
  memOk_foldl (fun _ _ k => memOk_wgSweep k) _ _ (memOk_halt h)

theorem memOk_dropCtx {fn ctx : Nat} (h : MemOk s) : MemOk (s.dropCtx fn ctx) := by
  unfold State.dropCtx
  extract_lets s1
  have hs1 : MemOk s1 := memOk_invCtx h
  exact hs1

theorem memOk_queueReset {fn q : Nat} (h : MemOk s) : MemOk (s.queueReset fn q) := by
  unfold State.queueReset
  extract_lets _ s1 s2 _ _ s3
  have hs1 : MemOk s1 := memOk_updQueue h
  have hs2 : MemOk s2 := by
    unfold s2
    split
    · exact memOk_noteWord hs1
    · exact hs1
  have hs3 : MemOk s3 := memOk_foldl (fun _ _ k1 => memOk_cancelGraph k1) _ _ hs2
  exact memOk_foldl (fun _ _ k1 => memOk_cancelLaunch k1) _ _ hs3

theorem memOk_rungStep (h : MemOk s) : MemOk s.rungStep := by
  unfold State.rungStep
  split
  · exact h
  · extract_lets _ s2
    have hs2 : MemOk s2 := memOk_ite (memOk_updQueue h) h
    exact memOk_ite h (memOk_ringSig (memOk_ite (memOk_dropCtx hs2) hs2))

theorem memOk_startRung {r : Rung} (h : MemOk s) : MemOk (s.startRung r) := memOk_rungStep h

theorem excOk_mgmtQreset {from_ : Option Nat} {w : List Word} (h : MemOk s) : ExcOk (mgmtQreset s from_ w) :=
  memOk_startRung (memOk_queueReset h)

theorem outOk_execQreset (h : MemOk s) : OutOk (execQreset s) :=
  memOk_ite (memOk_rungStep h) (memOk_serveLong h (fun _ _ _ k => excOk_mgmtQreset k))

theorem excOk_mgmtCreset {destroy : Bool} {from_ : Option Nat} {w : List Word} (h : MemOk s) :
    ExcOk (mgmtCreset destroy s from_ w) := by
  unfold mgmtCreset
  extract_lets _
  split
  · exact trivial
  · exact memOk_startRung (memOk_ctxReset h)

theorem outOk_execCreset (h : MemOk s) : OutOk (execCreset s) :=
  memOk_ite (memOk_rungStep h) (memOk_serveLong h (fun _ _ _ k => excOk_mgmtCreset k))

theorem outOk_execCdestroy (h : MemOk s) : OutOk (execCdestroy s) :=
  memOk_ite (memOk_rungStep h) (memOk_serveLong h (fun _ _ _ k => excOk_mgmtCreset k))

theorem memOk_zeroGen {c : Nat} (h : MemOk s) : MemOk (s.zeroGen c) := memOk_updCore _ _ (memOk_cleanCore _ h)

/-- Clearing one window after another keeps the form. -/
theorem twf_clearWindows (ws : List Nat) (m : Table Byte) (h : twf 0 m = true) :
    twf 0 (ws.foldl (fun m w => tclear m (winLoc w 0) (2 ^ 32)) m) = true := by
  induction ws generalizing m with
  | nil => exact h
  | cons w ws ih => exact ih _ (twf_tclear _ _ h)

theorem memOk_flr {fn : Nat} (h : MemOk s) : MemOk (s.flr fn) := by
  unfold State.flr
  extract_lets mine s1 s2 s3 ws gs wds s4 s5 s6
  have h3 : MemOk s3 := memOk_dropLaunchCards (memOk_halt (memOk_updFn _ _ h))
  clear_value s3
  have h4 : MemOk s4 := twf_clearWindows ws s3.mem h3
  clear_value s4
  have h5 : MemOk s5 := memOk_wipeBanks (memOk_foldl (fun _ _ k => memOk_dropWorld k) _ _ (memOk_tlbDrop _ h4))
  clear_value s5
  have h6 : MemOk s6 := memOk_foldl (fun _ _ k => memOk_zeroGen k) _ _ h5
  clear_value s6
  exact memOk_event (memOk_updFn _ _ (memOk_of_mem rfl h6))

theorem excOk_mgmtFlr {w : List Word} (h : MemOk s) : ExcOk (mgmtFlr s w) := memOk_flr h

theorem outOk_execFlr (h : MemOk s) : OutOk (execFlr s) := memOk_serveMgmt h (fun _ _ k => excOk_mgmtFlr k)

theorem outOk_execPcieFlr {fn : Nat} (h : MemOk s) : OutOk (execPcieFlr fn s) :=
  memOk_ite h (memOk_ite h (memOk_flr h))

theorem memOk_powerDown (h : MemOk s) : MemOk s.powerDown := twf_filter _ h

theorem memOk_deviceReset (h : MemOk s) : MemOk s.deviceReset := memOk_powerDown (memOk_writeCkpt h)

theorem outOk_execDevrst (h : MemOk s) : OutOk (execDevrst s) := memOk_deviceReset h

theorem outOk_execResetEscalation (h : MemOk s) : OutOk (execResetEscalation s) := by
  unfold execResetEscalation
  split
  · exact h
  · extract_lets s1
    have hs1 : MemOk s1 := memOk_event h
    split
    · exact memOk_rungStep (memOk_ctxReset hs1)
    · exact memOk_rungStep (memOk_engReset hs1)
    · exact memOk_rungStep (memOk_flr hs1)
    · exact memOk_deviceReset hs1

theorem outOk_execPowerGood (h : MemOk s) : OutOk (execPowerGood s) := memOk_ite h h

theorem outOk_execBootComplete {sigOk : Bool} {fw0 fw1 : BitVec 512} (h : MemOk s) :
    OutOk (execBootComplete sigOk fw0 fw1 s) := by
  unfold execBootComplete
  extract_lets _
  split
  · exact h
  · split <;> exact h

theorem outOk_execRecgo {sigOk : Bool} (h : MemOk s) : OutOk (execRecgo sigOk s) := memOk_ite h (memOk_ite h h)

theorem memOk_calBus {die bus : Nat} (h : MemOk s) : MemOk (s.calBus die bus) := by
  unfold State.calBus
  split
  · exact memOk_setVb (memOk_setVb h)
  · exact memOk_setVb h

theorem outOk_execCalibrateComplete {c : Calibration} (h : MemOk s) : OutOk (execCalibrateComplete c s) := by
  unfold execCalibrateComplete
  extract_lets _ _ s2 s3
  have hs2 : MemOk s2 := memOk_foldl (fun _ _ k => memOk_calBus k) _ _ h
  have hs3 : MemOk s3 := memOk_foldl (fun _ _ k => memOk_event k) _ _ hs2
  split
  · exact h
  · split
    · exact h
    · exact memOk_foldl (fun _ _ k => memOk_foldl (fun _ _ k1 => memOk_updLink _ _ k1) _ _ k) _ _ hs3

theorem memOk_loadCkpt (h : MemOk s) : MemOk s.loadCkpt := by
  unfold State.loadCkpt
  split
  · exact memOk_of_mem (s := s) rfl h
  · extract_lets s1 s2
    have h1 : MemOk s1 := memOk_of_mem (s := s) rfl h
    have h2 : MemOk s2 := memOk_of_mem (s := s1) rfl h1
    clear_value s2
    exact memOk_ite h1 (memOk_event (memOk_foldl (fun _ _ k => memOk_setWear k) _ _ h2))

theorem outOk_execZeroingComplete {ok : Bool} (h : MemOk s) : OutOk (execZeroingComplete ok s) := by
  unfold execZeroingComplete
  extract_lets _ s2 _ s4
  have hs2 : MemOk s2 := memOk_loadCkpt (twf_filter _ h)
  have hs4 : MemOk s4 := memOk_foldl (fun _ _ k => memOk_of_mem (updWear_mem ..) k) _ _ hs2
  split
  · exact h
  · split
    · exact h
    · exact memOk_setLife (memOk_updFn _ _ (memOk_mkWorld hs4))

theorem outOk_execOrderlyPowerDown {busy metered : Table Nat} (h : MemOk s) :
    OutOk (execOrderlyPowerDown busy metered s) :=
  memOk_powerDown (memOk_writeCkpt (memOk_boundary h))

theorem outOk_execPowerLoss (h : MemOk s) : OutOk (execPowerLoss s) := memOk_powerDown h

theorem outOk_execAttestationGo (h : MemOk s) : OutOk (execAttestationGo s) := by
  unfold execAttestationGo
  extract_lets _
  split
  · exact h
  · split
    · exact h
    · split <;> exact h

theorem outOk_execAttestationDone (h : MemOk s) : OutOk (execAttestationDone s) := by
  unfold execAttestationDone
  extract_lets _
  split
  · exact h
  · exact memOk_msix (memOk_charge _ _ (memOk_wrBytes _ _ h))

theorem outOk_execAttestationDoneClear (h : MemOk s) : OutOk (execAttestationDoneClear s) := h

theorem memOk_queueReg {fn o : Nat} {v : Word} (h : MemOk s) : MemOk (s.queueReg fn o v) :=
  memOk_ite h (memOk_updQueue h)

theorem outOk_execRegisterWrite {fn off : Nat} {v : Word} (h : MemOk s) : OutOk (execRegisterWrite fn off v s) := by
  unfold execRegisterWrite
  extract_lets _
  split
  · exact memOk_queueReg h
  · split
    · exact memOk_ite h h
    · split
      · exact memOk_queueReg h
      · split
        · exact h
        · split
          · exact h
          · split
            · exact h
            · split <;> exact h

/-! ### Dispatch -/

/-- Every instruction and every event of the module's agents keeps memory canonical. The first arm is that of the
instructions whose effect only writes registers: it leaves the state at issue. -/
theorem outOk_exec {i : Instr} (h : MemOk s) : OutOk (exec i s) := by
  match i with
  | .nop _ | .mget _ | .getfmt _ | .sadd _ | .ssub _ | .smul _ | .smulh _ | .sdiv _ | .srem _ | .sand _ | .sor _
  | .sxor _ | .sandn _ | .sshl _ | .sshr _ | .ssar _ | .srot _ | .smin _ | .smax _ | .scmp _ | .ssel _ | .smov _
  | .spopc _ | .sclz _ | .sctz _ | .sbfe _ | .sbfi _ | .slea _ | .plop _ | .sabs _ | .sbrev _ | .vadd _ | .vsub _
  | .vmul _ | .vmulh _ | .vmad _ | .vsad _ | .vdot4 _ | .vmin _ | .vmax _ | .vabs _ | .vneg _ | .vavg _ | .vand _
  | .vor _ | .vxor _ | .vandn _ | .vnot _ | .vlop3 _ | .vshl _ | .vshr _ | .vsar _ | .vrol _ | .vror _ | .vfshl _
  | .vpopc _ | .vclz _ | .vctz _ | .vbrev _ | .vbfe _ | .vbfi _ | .vprmb _ | .vwiden _ | .vnarrow _ | .vpack _
  | .vmov _ | .vdiv _ | .vrem _ | .fscale _ | .shfl _ | .vote _ | .lred _ | .lscan _ | .matchLanes _ | .vget _
  | .vset _ | .xprobe _ | .trap _ => exact outOk_runSlot (fun _ _ k => k) h
  | .bra _ => exact outOk_runSlot (fun _ _ k => effOk_braBody k) h
  | .brx _ => exact outOk_runSlot (fun _ _ k => effOk_brxBody k) h
  | .call _ => exact outOk_runSlot (fun _ _ k => effOk_callBody k) h
  | .callx _ => exact outOk_runSlot (fun _ _ k => effOk_callxBody k) h
  | .loop _ => exact outOk_runSlot (fun _ _ k => effOk_loopBody k) h
  | .brany _ => exact outOk_runSlot (fun _ _ k => effOk_branyBody k) h
  | .brall _ => exact outOk_runSlot (fun _ _ k => effOk_brallBody k) h
  | .exit _ => exact outOk_runSlot (fun _ _ k => effOk_exitBody k) h
  | .lexit _ => exact outOk_runSlot (fun _ _ k => effOk_lexitBody k) h
  | .yield _ => exact outOk_runSlot (fun _ _ k => effOk_yieldBody k) h
  | .mpush _ => exact outOk_runSlot (fun _ _ k => effOk_mpushBody k) h
  | .melse _ => exact outOk_runSlot (fun _ _ k => effOk_melseBody k) h
  | .mpop _ => exact outOk_runSlot (fun _ _ k => effOk_mpopBody k) h
  | .mset _ => exact outOk_runSlot (fun _ _ k => effOk_msetBody k) h
  | .setfmt _ => exact outOk_runSlot (fun _ _ k => effOk_setfmtBody k) h
  | .vcmp _ => exact outOk_runSlot (fun _ _ k => effOk_vcmpBody k) h
  | .vsel _ => exact outOk_runSlot (fun _ _ k => effOk_vselBody k) h
  | .fadd _ | .fsub _ | .fmul _ | .fmin _ | .fmax _ => exact outOk_runSlot (fun _ _ k => effOk_flt2 k) h
  | .ffma _ => exact outOk_runSlot (fun _ _ k => effOk_ffmaBody k) h
  | .fabs _ | .fneg _ | .frnd _ => exact outOk_runSlot (fun _ _ k => effOk_flt1 k) h
  | .fcmp _ => exact outOk_runSlot (fun _ _ k => effOk_fcmpBody k) h
  | .fclass _ => exact outOk_runSlot (fun _ _ k => effOk_fclassBody k) h
  | .fdot2 _ => exact outOk_runSlot (fun _ _ k => effOk_fdot2Body k) h
  | .frcp _ | .frsq _ | .fsqrt _ | .fexp2 _ | .flog2 _ | .fsin _ | .fcos _ | .ftanh _ | .fsigm _ =>
    exact outOk_runSlot (fun _ _ k => effOk_specialBody k) h
  | .fcvt _ => exact outOk_runSlot (fun _ _ k => effOk_fcvtBody k) h
  | .fcvti _ => exact outOk_runSlot (fun _ _ k => effOk_fcvtiBody k) h
  | .fqsum _ => exact outOk_runSlot (fun _ _ k => effOk_fqsumBody k) h
  | .xsend _ | .xrecv _ => exact outOk_runSlot (fun _ _ k => effOk_xferArrive k) h
  | .bininit _ => exact outOk_runSlot (fun _ _ k => effOk_bininitBody k) h
  | .susp _ => exact outOk_runSlot (fun _ _ k => effOk_suspBody k) h
  | .resume _ => exact outOk_runSlot (fun _ _ k => effOk_resumeBody k) h
  | .wakeRows _ => exact outOk_runSlot (fun _ _ k => effOk_wakeRowsBody k) h
  | .wakeLanes _ => exact outOk_runSlot (fun _ _ k => effOk_wakeLanesBody k) h
  | .wakeAll _ => exact outOk_runSlot (fun _ _ k => effOk_wakeAllBody k) h
  | .binq _ => exact outOk_runSlot (fun _ _ k => effOk_binqBody k) h
  | .fxform _ => exact outOk_runSlot (fun _ _ k => effOk_fxformBody k) h
  | .bindropRows _ => exact outOk_runSlot (fun _ _ k => effOk_bindropRowsBody k) h
  | .bindropSet _ => exact outOk_runSlot (fun _ _ k => effOk_bindropSetBody k) h
  | .ld _ => exact outOk_runSlot (fun _ _ k => effOk_ldBody k) h
  | .st _ => exact outOk_runSlot (fun _ _ k => effOk_stBody k) h
  | .ldx _ => exact outOk_runSlot (fun _ _ k => effOk_ldxBody k) h
  | .stx _ => exact outOk_runSlot (fun _ _ k => effOk_stxBody k) h
  | .lds _ => exact outOk_runSlot (fun _ _ k => effOk_ldsBody k) h
  | .sts _ => exact outOk_runSlot (fun _ _ k => effOk_stsBody k) h
  | .ldb _ => exact outOk_runSlot (fun _ _ k => effOk_ldbBody k) h
  | .stb _ => exact outOk_runSlot (fun _ _ k => effOk_stbBody k) h
  | .atom _ => exact outOk_runSlot (fun _ _ k => effOk_atomBody k) h
  | .atoms _ => exact outOk_runSlot (fun _ _ k => effOk_atomsBody k) h
  | .red _ => exact outOk_runSlot (fun _ _ k => effOk_redBody k) h
  | .fence _ => exact outOk_runSlot (fun _ _ k => effOk_fenceBody k) h
  | .pref _ => exact outOk_runSlot (fun _ _ k => effOk_prefBody k) h
  | .colcln _ => exact outOk_runSlot (fun _ _ k => effOk_colclnBody k) h
  | .colinv _ => exact outOk_runSlot (fun _ _ k => effOk_colinvBody k) h
  | .cctl _ => exact outOk_runSlot (fun _ _ k => effOk_cctlBody k) h
  | .waitp _ => exact outOk_runSlot (fun _ _ k => effOk_waitpBody k) h
  | .boinit _ => exact outOk_runSlot (fun _ _ k => effOk_boinitBody k) h
  | .boarr _ => exact outOk_runSlot (fun _ _ k => effOk_boarrBody k) h
  | .bojoin _ => exact outOk_runSlot (fun _ _ k => effOk_bojoinBody k) h
  | .boleave _ => exact outOk_runSlot (fun _ _ k => effOk_boleaveBody k) h
  | .lbar _ => exact outOk_runSlot (fun _ _ k => effOk_lbarBody k) h
  | .enq _ => exact outOk_runSlot (fun _ _ k => effOk_enqBody k) h
  | .deq _ => exact outOk_runSlot (fun _ _ k => effOk_deqBody k) h
  | .cpy _ | .cpy2 _ | .gath _ | .scat _ => exact outOk_runSlot (fun _ _ k => effOk_copyBody k) h
  | .coll _ => exact outOk_runSlot (fun _ _ k => effOk_collBody k) h
  | .afence _ => exact outOk_runSlot (fun _ _ k => effOk_afenceBody k) h
  | .post _ => exact outOk_runSlot (fun _ _ k => effOk_postBody k) h
  | .tierhNeed _ => exact outOk_runSlot (fun _ _ k => effOk_tierhNeedBody k) h
  | .tierhCold _ => exact outOk_runSlot (fun _ _ k => effOk_tierhColdBody k) h
  | .mma _ | .mmas _ | .mmat _ | .accz _ | .accld _ | .accwr _ | .accfree _ | .sppackRows _ | .sppackCols _ =>
    exact outOk_runSlot (fun _ _ k => effOk_matIssue k) h
  | .accst _ => exact outOk_runSlot (fun _ _ k => effOk_accFmt (fun _ _ k1 => effOk_matIssue k1) k) h
  | .accrd _ => exact outOk_runSlot (fun _ _ k => effOk_accFmt (fun _ _ k1 => effOk_accrdBody k1) k) h
  | .accalloc _ => exact outOk_runSlot (fun _ _ k => effOk_accallocBody k) h
  | .accallocStat _ => exact outOk_runSlot (fun _ _ k => effOk_accstatBody k) h
  | .rtt _ | .rttNext _ => exact outOk_runSlot (fun _ _ k => effOk_rttBody k) h
  | .rttTo _ => exact outOk_runSlot (fun _ _ k => effOk_rttToBody k) h
  | .srget _ => exact outOk_runSlot (fun _ _ k => effOk_srgetBody k) h
  | .srset _ => exact outOk_runSlot (fun _ _ k => effOk_srsetBody k) h
  | .hget _ => exact outOk_runSlot (fun _ _ k => effOk_hgetBody k) h
  | .hset _ => exact outOk_runSlot (fun _ _ k => effOk_hsetBody k) h
  | .pdone _ => exact outOk_runSlot (fun _ _ k => effOk_pdoneBody k) h
  | .boost _ => exact outOk_runSlot (fun _ _ k => effOk_boostBody k) h
  | .replayRetry _ | .replayKill _ => exact outOk_runSlot (fun _ _ k => effOk_replayBody k) h
  | .meas _ => exact outOk_runSlot (fun _ _ k => effOk_measBody k) h
  | .cancel _ => exact outOk_runSlot (fun _ _ k => effOk_cancelBody k) h
  | .variableResultWrite _ _ => exact outOk_execVariableResultWrite h
  | .delayedTrap _ => exact outOk_execDelayedTrap h
  | .trapEntry _ => exact outOk_execTrapEntry h
  | .waitpWake _ => exact outOk_execWaitpWake h
  | .waitpTimeout _ => exact outOk_execWaitpTimeout h
  | .engineStart _ => exact outOk_execEngineStart h
  | .matrixOpComplete _ => exact outOk_execMatrixOpComplete h
  | .copyUnitLand _ => exact outOk_execCopyUnitLand h
  | .asyncOpComplete _ => exact outOk_execAsyncOpComplete h
  | .enginePageFault _ => exact outOk_execEnginePageFault h
  | .preemptionRequest _ _ => exact outOk_execPreemptionRequest h
  | .forcedSave _ => exact outOk_execForcedSave h
  | .placementPass => exact outOk_execPlacementPass h
  | .queuePidxWake _ _ => exact outOk_execQueuePidxWake h
  | .packetNop _ _ => exact outOk_execPacketNop h
  | .packetLaunch _ _ => exact outOk_execPacketLaunch h
  | .packetBarrier _ _ => exact outOk_execPacketBarrier h
  | .packetCopy _ _ => exact outOk_execPacketCopy h
  | .packetSignal _ _ => exact outOk_execPacketSignal h
  | .packetGraph _ _ => exact outOk_execPacketGraph h
  | .packetComplete => exact outOk_execPacketComplete h
  | .graphNodeStart _ _ => exact outOk_execGraphNodeStart h
  | .cannoliSpillMove => exact outOk_execCannoliSpillMove h
  | .bucketRefill => exact outOk_execBucketRefill h
  | .pageWalk _ _ _ _ _ _ => exact outOk_execPageWalk h
  | .invPages => exact outOk_execInvPages h
  | .invContext => exact outOk_execInvContext h
  | .invFrames => exact outOk_execInvFrames h
  | .invTdmask => exact outOk_execInvTdmask h
  | .moveUp => exact outOk_execMoveUp h
  | .moveDown => exact outOk_execMoveDown h
  | .pageMove => exact outOk_execPageMove h
  | .quantumEnd => exact outOk_execQuantumEnd h
  | .incomingResident => exact outOk_execIncomingResident h
  | .tickBoundary _ _ => exact outOk_execTickBoundary h
  | .restEnd => exact outOk_execRestEnd h
  | .boostEnd => exact outOk_execBoostEnd h
  | .retirePreempt => exact outOk_execRetirePreempt h
  | .energyWindowStart => exact outOk_execEnergyWindowStart h
  | .checkpoint => exact outOk_execCheckpoint h
  | .temperatureSample _ => exact outOk_execTemperatureSample h
  | .marginMeasure _ => exact outOk_execMarginMeasure h
  | .eolhPredict => exact outOk_execEolhPredict h
  | .targethWrite _ => exact outOk_execTargethWrite h
  | .ebudgetWrite _ _ => exact outOk_execEbudgetWrite h
  | .vbWarning _ _ => exact outOk_execVbWarning h
  | .vbFailure _ _ => exact outOk_execVbFailure h
  | .vbRepairDone _ _ => exact outOk_execVbRepairDone h
  | .vbDrainDone _ _ => exact outOk_execVbDrainDone h
  | .dieLoss _ => exact outOk_execDieLoss h
  | .cxlMemAccess _ _ _ => exact outOk_execCxlMemAccess h
  | .backInvalidate _ => exact outOk_execBackInvalidate h
  | .queueEnWrite _ _ _ _ => exact outOk_execQueueEnWrite h
  | .queueErrClear _ _ => exact outOk_execQueueErrClear h
  | .pcreate => exact outOk_execPcreate h
  | .presize => exact outOk_execPresize h
  | .pdestroy => exact outOk_execPdestroy h
  | .quota => exact outOk_execQuota h
  | .bucket => exact outOk_execBucket h
  | .wcreate => exact outOk_execWcreate h
  | .wdestroy => exact outOk_execWdestroy h
  | .ccreate => exact outOk_execCcreate h
  | .cdestroy => exact outOk_execCdestroy h
  | .qreset => exact outOk_execQreset h
  | .creset => exact outOk_execCreset h
  | .flr => exact outOk_execFlr h
  | .bias => exact outOk_execBias h
  | .pbset => exact outOk_execPbset h
  | .pdset => exact outOk_execPdset h
  | .pcieFlr _ => exact outOk_execPcieFlr h
  | .resetEscalation => exact outOk_execResetEscalation h
  | .devrst => exact outOk_execDevrst h
  | .recgo _ => exact outOk_execRecgo h
  | .attestationGo => exact outOk_execAttestationGo h
  | .attestationDone => exact outOk_execAttestationDone h
  | .attestationDoneClear => exact outOk_execAttestationDoneClear h
  | .powerGood => exact outOk_execPowerGood h
  | .bootComplete _ _ _ => exact outOk_execBootComplete h
  | .calibrateComplete _ => exact outOk_execCalibrateComplete h
  | .zeroingComplete _ => exact outOk_execZeroingComplete h
  | .selfidWrite _ => exact outOk_execSelfidWrite h
  | .routeWrite _ _ => exact outOk_execRouteWrite h
  | .linkTrained _ _ _ => exact outOk_execLinkTrained h
  | .flitReceive _ _ => exact outOk_execFlitReceive h
  | .nakReceive _ _ => exact outOk_execNakReceive h
  | .darkWavelengthDetect _ _ => exact outOk_execDarkWavelengthDetect h
  | .restripeDone _ => exact outOk_execRestripeDone h
  | .linkLost _ => exact outOk_execLinkLost h
  | .peerRequestArrive _ => exact outOk_execPeerRequestArrive h
  | .peerResponseArrive _ _ => exact outOk_execPeerResponseArrive h
  | .collMatch _ _ => exact outOk_execCollMatch h
  | .collContribLand _ _ _ _ => exact outOk_execCollContribLand h
  | .registerWrite _ _ _ => exact outOk_execRegisterWrite h
  | .nonInstructionEncoding opc sl => exact outOk_execNonInstructionEncoding (opc := opc) (sl := sl) h
  | .orderlyPowerDown _ _ => exact outOk_execOrderlyPowerDown h
  | .powerLoss => exact outOk_execPowerLoss h

/-! ### Turns -/

theorem memOk_hubSent (h : MemOk s) : MemOk s.hubSent := memOk_foldl (fun _ _ k => memOk_peerSend _ k) _ _ h

theorem memOk_asked {a : Asker} (h : MemOk s) : MemOk (s.asked a) := memOk_hubSent h

theorem memOk_awaiting {keep t : State} (h : MemOk keep) : MemOk (keep.awaiting t) :=
  memOk_foldl (fun _ _ k => memOk_peerSend _ k) _ _ h

theorem memOk_holdBack {a : Asker} (h : MemOk s) : MemOk (s.holdBack a) := by
  unfold State.holdBack
  split <;> exact h

theorem outOk_asking {keep run : State} {a : Asker} {f : State → Host.Outcome State Fault Refusal}
    {wait : State → State} (h : MemOk keep) (hrun : MemOk run) (hf : ∀ t, MemOk t → OutOk (f t))
    (hwait : ∀ t, MemOk t → MemOk (wait t)) :
    OutOk (keep.asking run a f wait) := by
  unfold State.asking
  split
  · exact hwait _ h
  · have k : OutOk (f { run with asker := a, wants := [] }) := hf _ hrun
    split
    · rename_i e
      rw [e] at k
      exact memOk_ite (hwait _ (memOk_holdBack h)) (memOk_ite (memOk_asked k) (hwait _ (memOk_awaiting h)))
    · exact k

theorem outOk_runGroup (h : MemOk s) : OutOk (runGroup g s) := by
  unfold runGroup
  extract_lets _ r s0
  have hr : MemOk r.1 := memOk_nextSlot h
  have hs0 : MemOk s0 := memOk_noteIssue hr
  split
  · exact memOk_preemptGroup (memOk_updGrp _ _ h)
  · split
    · exact outOk_exec h
    · split
      · exact memOk_raise hr
      · exact outOk_exec hs0

theorem memOk_passTurn (h : MemOk s) : MemOk (s.passTurn g) := memOk_passCycles h

theorem memOk_unblocked (h : MemOk s) : MemOk (s.unblocked g) := memOk_ite (memOk_updGrp _ _ h) h

theorem outOk_stepGroup (h : MemOk s) : OutOk (stepGroup s g) := by
  unfold stepGroup
  split
  · exact h
  · extract_lets u
    have hu : MemOk u := memOk_unblocked h
    split
    · exact h
    · have k : OutOk (u.asking u (u.slotAsker g) (runGroup g) fun t => t.passTurn g) :=
        outOk_asking hu hu (fun _ k => outOk_runGroup k) (fun _ k => memOk_passTurn k)
      split
      · rename_i e
        rw [e] at k
        exact memOk_restClocks (memOk_ite (memOk_passTurn hu) k)
      · exact k

theorem memOk_of_nextInput {t : State} {i : Instr} (h : MemOk s) (e : s.nextInput = some (i, t)) : MemOk t := by
  unfold State.nextInput at e
  split at e
  · cases e
    exact h
  · obtain ⟨p, -, e⟩ := Option.map_eq_some_iff.mp e
    obtain rfl : _ = t := congrArg Prod.snd e
    exact h

theorem outOk_stepInput (h : MemOk s) : OutOk (stepInput s) := by
  unfold stepInput
  split
  · exact memOk_idle h
  · rename_i e
    exact outOk_asking h (memOk_of_nextInput h e) (fun _ k => outOk_exec k) (fun _ k => k)

theorem outOk_stepEvent {i : Instr} (h : MemOk s) : OutOk (stepEvent s i) :=
  outOk_asking h h (fun _ k => outOk_exec k) (fun _ k => k)

theorem outOk_stepAgent {i : Nat} (h : MemOk s) : OutOk (stepAgent s i) := by
  unfold stepAgent
  split
  · exact outOk_stepEvent h
  · exact h

theorem outOk_stepDefault (h : MemOk s) : OutOk (stepDefault s) := by
  unfold stepDefault
  split
  · exact outOk_stepInput h
  · split
    · exact outOk_stepEvent h
    · split
      · exact outOk_stepGroup h
      · split
        · exact outOk_stepEvent h
        · exact memOk_idle h

/-! ### Step -/

theorem memOk_settle (h : MemOk s) : MemOk s.settle := memOk_fmtSettle (memOk_settleFails (memOk_settleRecs h))

theorem outOk_step (h : MemOk s) : OutOk (step s) := by
  unfold step
  extract_lets s0
  have h0 : MemOk s0 := memOk_settle h
  clear_value s0
  split
  · exact outOk_stepGroup (memOk_of_mem rfl h0)
  · exact outOk_stepAgent (memOk_of_mem rfl h0)
  · exact outOk_stepInput (memOk_of_mem rfl h0)
  · exact outOk_stepDefault h0

/-! ### The statement -/

theorem memOk_of_outOk {o : Host.Outcome State Fault Refusal} {t : State} (h : OutOk o) (e : o = .next t) : MemOk t := by
  subst e
  exact h

/-- Settles O59: an invariant that every instruction and every step keeps. -/
theorem everyStepKeepsMemoryCanonical : Obligations.EVERY_STEP_KEEPS_MEMORY_CANONICAL :=
  ⟨fun _ _ h e => memOk_of_outOk (outOk_step h) e, fun _ _ _ h e => memOk_of_outOk (outOk_exec h) e⟩

end Sys2Proof.Machine
end

section
/-! SUPPORT and O58. The turn of a group runs what the 16 bytes at its slot decode to (R41, R76, R305). -/

namespace Sys2Proof.Laws.Encode

/-- The family `Encode` of every row. -/
theorem statement : ∀ i : Instr, Statement i
  | .nop sl => nop sl | .bra sl => bra sl | .brx sl => brx sl | .call sl => call sl | .callx sl => callx sl
  | .loop sl => loop sl | .brany sl => brany sl | .brall sl => brall sl | .exit sl => exit sl | .lexit sl => lexit sl
  | .yield sl => yield sl | .mpush sl => mpush sl | .melse sl => melse sl | .mpop sl => mpop sl | .mget sl => mget sl
  | .mset sl => mset sl | .setfmt sl => setfmt sl | .getfmt sl => getfmt sl | .sadd sl => sadd sl
  | .ssub sl => ssub sl | .smul sl => smul sl | .smulh sl => smulh sl | .sdiv sl => sdiv sl | .srem sl => srem sl
  | .sand sl => sand sl | .sor sl => sor sl | .sxor sl => sxor sl | .sandn sl => sandn sl | .sshl sl => sshl sl
  | .sshr sl => sshr sl | .ssar sl => ssar sl | .srot sl => srot sl | .smin sl => smin sl | .smax sl => smax sl
  | .scmp sl => scmp sl | .ssel sl => ssel sl | .smov sl => smov sl | .spopc sl => spopc sl | .sclz sl => sclz sl
  | .sctz sl => sctz sl | .sbfe sl => sbfe sl | .sbfi sl => sbfi sl | .slea sl => slea sl | .plop sl => plop sl
  | .sabs sl => sabs sl | .sbrev sl => sbrev sl | .vadd sl => vadd sl | .vsub sl => vsub sl | .vmul sl => vmul sl
  | .vmulh sl => vmulh sl | .vmad sl => vmad sl | .vsad sl => vsad sl | .vdot4 sl => vdot4 sl | .vmin sl => vmin sl
  | .vmax sl => vmax sl | .vabs sl => vabs sl | .vneg sl => vneg sl | .vavg sl => vavg sl | .vand sl => vand sl
  | .vor sl => vor sl | .vxor sl => vxor sl | .vandn sl => vandn sl | .vnot sl => vnot sl | .vlop3 sl => vlop3 sl
  | .vshl sl => vshl sl | .vshr sl => vshr sl | .vsar sl => vsar sl | .vrol sl => vrol sl | .vror sl => vror sl
  | .vfshl sl => vfshl sl | .vcmp sl => vcmp sl | .vsel sl => vsel sl | .vpopc sl => vpopc sl | .vclz sl => vclz sl
  | .vctz sl => vctz sl | .vbrev sl => vbrev sl | .vbfe sl => vbfe sl | .vbfi sl => vbfi sl | .vprmb sl => vprmb sl
  | .vwiden sl => vwiden sl | .vnarrow sl => vnarrow sl | .vpack sl => vpack sl | .vmov sl => vmov sl
  | .vdiv sl => vdiv sl | .vrem sl => vrem sl | .fadd sl => fadd sl | .fsub sl => fsub sl | .fmul sl => fmul sl
  | .ffma sl => ffma sl | .fmin sl => fmin sl | .fmax sl => fmax sl | .fabs sl => fabs sl | .fneg sl => fneg sl
  | .fcmp sl => fcmp sl | .fclass sl => fclass sl | .frnd sl => frnd sl | .fscale sl => fscale sl
  | .fdot2 sl => fdot2 sl | .frcp sl => frcp sl | .frsq sl => frsq sl | .fsqrt sl => fsqrt sl | .fexp2 sl => fexp2 sl
  | .flog2 sl => flog2 sl | .fsin sl => fsin sl | .fcos sl => fcos sl | .ftanh sl => ftanh sl | .fsigm sl => fsigm sl
  | .fcvt sl => fcvt sl | .fcvti sl => fcvti sl | .fqsum sl => fqsum sl | .shfl sl => shfl sl | .vote sl => vote sl
  | .lred sl => lred sl | .lscan sl => lscan sl | .matchLanes sl => matchLanes sl | .vget sl => vget sl
  | .vset sl => vset sl | .xsend sl => xsend sl | .xrecv sl => xrecv sl | .xprobe sl => xprobe sl
  | .bininit sl => bininit sl | .susp sl => susp sl | .resume sl => resume sl | .wakeRows sl => wakeRows sl
  | .wakeLanes sl => wakeLanes sl | .wakeAll sl => wakeAll sl | .binq sl => binq sl | .fxform sl => fxform sl
  | .bindropRows sl => bindropRows sl | .bindropSet sl => bindropSet sl | .ld sl => ld sl | .st sl => st sl
  | .ldx sl => ldx sl | .stx sl => stx sl | .lds sl => lds sl | .sts sl => sts sl | .ldb sl => ldb sl
  | .stb sl => stb sl | .atom sl => atom sl | .atoms sl => atoms sl | .red sl => red sl | .fence sl => fence sl
  | .pref sl => pref sl | .colcln sl => colcln sl | .colinv sl => colinv sl | .cctl sl => cctl sl
  | .waitp sl => waitp sl | .boinit sl => boinit sl | .boarr sl => boarr sl | .bojoin sl => bojoin sl
  | .boleave sl => boleave sl | .lbar sl => lbar sl | .enq sl => enq sl | .deq sl => deq sl | .cpy sl => cpy sl
  | .cpy2 sl => cpy2 sl | .gath sl => gath sl | .scat sl => scat sl | .coll sl => coll sl | .afence sl => afence sl
  | .post sl => post sl | .tierhNeed sl => tierhNeed sl | .tierhCold sl => tierhCold sl | .mma sl => mma sl
  | .mmas sl => mmas sl | .mmat sl => mmat sl | .accz sl => accz sl | .accld sl => accld sl | .accst sl => accst sl
  | .accrd sl => accrd sl | .accwr sl => accwr sl | .accalloc sl => accalloc sl | .accallocStat sl => accallocStat sl
  | .accfree sl => accfree sl | .sppackRows sl => sppackRows sl | .sppackCols sl => sppackCols sl
  | .trap sl => trap sl | .rtt sl => rtt sl | .rttNext sl => rttNext sl | .rttTo sl => rttTo sl
  | .srget sl => srget sl | .srset sl => srset sl | .hget sl => hget sl | .hset sl => hset sl | .pdone sl => pdone sl
  | .boost sl => boost sl | .replayRetry sl => replayRetry sl | .replayKill sl => replayKill sl | .meas sl => meas sl
  | .cancel sl => cancel sl | .variableResultWrite g k => variableResultWrite g k | .delayedTrap g => delayedTrap g
  | .trapEntry g => trapEntry g | .waitpWake g => waitpWake g | .waitpTimeout g => waitpTimeout g
  | .engineStart me => engineStart me | .matrixOpComplete me => matrixOpComplete me
  | .copyUnitLand op => copyUnitLand op | .asyncOpComplete op => asyncOpComplete op
  | .enginePageFault op => enginePageFault op | .preemptionRequest fn ctx => preemptionRequest fn ctx
  | .forcedSave g => forcedSave g | .placementPass => placementPass | .queuePidxWake fn q => queuePidxWake fn q
  | .packetNop fn q => packetNop fn q | .packetLaunch fn q => packetLaunch fn q
  | .packetBarrier fn q => packetBarrier fn q | .packetCopy fn q => packetCopy fn q
  | .packetSignal fn q => packetSignal fn q | .packetGraph fn q => packetGraph fn q
  | .packetComplete => packetComplete | .graphNodeStart graph node => graphNodeStart graph node
  | .cannoliSpillMove => cannoliSpillMove | .bucketRefill => bucketRefill
  | .pageWalk die fn ctx space va kind => pageWalk die fn ctx space va kind | .invPages => invPages
  | .invContext => invContext | .invFrames => invFrames | .invTdmask => invTdmask | .moveUp => moveUp
  | .moveDown => moveDown | .pageMove => pageMove | .quantumEnd => quantumEnd | .incomingResident => incomingResident
  | .tickBoundary act metered => tickBoundary act metered | .restEnd => restEnd | .boostEnd => boostEnd
  | .retirePreempt => retirePreempt | .energyWindowStart => energyWindowStart | .checkpoint => checkpoint
  | .temperatureSample samples => temperatureSample samples | .marginMeasure margins => marginMeasure margins
  | .eolhPredict => eolhPredict | .targethWrite v => targethWrite v | .ebudgetWrite fn v => ebudgetWrite fn v
  | .vbWarning die bus => vbWarning die bus | .vbFailure die bus => vbFailure die bus
  | .vbRepairDone die bus => vbRepairDone die bus | .vbDrainDone die bus => vbDrainDone die bus
  | .dieLoss die => dieLoss die | .cxlMemAccess wr pa data => cxlMemAccess wr pa data
  | .backInvalidate rc => backInvalidate rc | .queueEnWrite fn q rcb ctx => queueEnWrite fn q rcb ctx
  | .queueErrClear fn q => queueErrClear fn q | .pcreate => pcreate | .presize => presize | .pdestroy => pdestroy
  | .quota => quota | .bucket => bucket | .wcreate => wcreate | .wdestroy => wdestroy | .ccreate => ccreate
  | .cdestroy => cdestroy | .qreset => qreset | .creset => creset | .flr => flr | .bias => bias | .pbset => pbset
  | .pdset => pdset | .pcieFlr fn => pcieFlr fn | .resetEscalation => resetEscalation | .devrst => devrst
  | .recgo sigOk => recgo sigOk | .attestationGo => attestationGo | .attestationDone => attestationDone
  | .attestationDoneClear => attestationDoneClear | .powerGood => powerGood
  | .bootComplete sigOk fw0 fw1 => bootComplete sigOk fw0 fw1 | .calibrateComplete c => calibrateComplete c
  | .zeroingComplete ok => zeroingComplete ok | .selfidWrite v => selfidWrite v | .routeWrite p v => routeWrite p v
  | .linkTrained link farid active => linkTrained link farid active | .flitReceive link f => flitReceive link f
  | .nakReceive link seq => nakReceive link seq | .darkWavelengthDetect link dark => darkWavelengthDetect link dark
  | .restripeDone link => restripeDone link | .linkLost link => linkLost link
  | .peerRequestArrive r => peerRequestArrive r | .peerResponseArrive req data => peerResponseArrive req data
  | .collMatch op others => collMatch op others
  | .collContribLand op line port data => collContribLand op line port data
  | .registerWrite fn off v => registerWrite fn off v
  | .nonInstructionEncoding opc sl => nonInstructionEncoding opc sl
  | .orderlyPowerDown busy metered => orderlyPowerDown busy metered | .powerLoss => powerLoss

end Sys2Proof.Laws.Encode

namespace Sys2Proof.Machine

/-! ### Words and slots (R76, Tables 3.1 and 3.6) -/

/-- The highest field of a packed word is TWAIT. -/
theorem twait_pack (opc : BitVec 8) (sl : Slot) : (pack opc sl).extractLsb' 126 2 = sl.twait := by
  unfold pack
  repeat erw [BitVec.extractLsb'_append_eq_of_le (by decide)]
  exact BitVec.extractLsb'_eq_self

/-- The fields of a packed word are those that were packed: the fields below one are passed, and it stands lowest in the rest. -/
theorem unpack_pack (opc : BitVec 8) (sl : Slot) : unpack (pack opc sl) = (opc, sl) := by
  have ht := twait_pack opc sl
  obtain ⟨sub, ty, d, a, b, c, e, sg, lg, md, scp, ch, imm, stall, yld, tset, twait⟩ := sl
  simp only [unpack, Prod.mk.injEq, Slot.mk.injEq]
  refine ⟨?_, ?_, ?_, ?_, ?_, ?_, ?_, ?_, ?_, ?_, ?_, ?_, ?_, ?_, ?_, ?_, ?_, ht⟩
  all_goals
    unfold pack
    repeat erw [BitVec.extractLsb'_append_eq_of_le (by decide)]
    exact (BitVec.extractLsb'_append_eq_of_add_le (by decide)).trans BitVec.extractLsb'_eq_self

/-- A word is read back from its bytes. -/
theorem ofBytes_toBytes_word (w : BitVec 128) : BitVec.ofNat 128 (ofBytes (toBytes 16 w.toNat)) = w := by
  rw [ofBytes_toBytes, Nat.mod_eq_of_lt w.isLt, BitVec.ofNat_toNat, BitVec.setWidth_eq]

/-- The bytes of a well-formed instruction decode to it. -/
theorem decodeSlot_of_encode {i : Instr} {bs : List Byte} (hi : WellFormed i = true) (he : Sys2Proof.encode i = some bs) :
    let p := unpack (BitVec.ofNat 128 (ofBytes bs))
    decodeSlot p.1 p.2 = i := by
  obtain ⟨⟨opc, sl⟩, hp, hd⟩ := Laws.Encode.statement i hi
  have hbs : bs = toBytes 16 (pack opc sl).toNat := by simpa [Sys2Proof.encode, hp] using he.symm
  rw [hbs, ofBytes_toBytes_word, unpack_pack]
  exact hd

/-! ### The turn of a group -/

/-- A turn named for a group is that group's. -/
theorem step_grp {s : State} {g : Nat} {r : List Turn} (h : s.settle.turns = .grp g :: r) :
    step s = stepGroup { s.settle with turns := r } g := by
  unfold step
  dsimp only
  rw [h]

/-- A group with no late trap or pre-emption in its way, or whose slot is under way at a peer, runs what stands at its
slot. -/
theorem runGroup_slot {s u : State} {g : Nat} {w : BitVec 128}
    (hw : (s.grpD g).delayed = [] ∧ (s.grpD g).due = false ∨ s.midway (s.slotAsker g) = true)
    (hn : s.nextSlot g = (u, .ok w)) :
    runGroup g s = exec (decodeSlot (unpack w).1 (unpack w).2) { u.noteIssue g with cur := g } := by
  unfold runGroup
  rw [if_neg, if_neg, hn]
  · grind
  · grind

section
variable {s : State} {g : Nat} {x : Group} (hg : s.grp? g = some x) (hi : x.mayIssue = true)
  (ha : (s.unblocked g).isAsking ((s.unblocked g).slotAsker g) = false)
include hg hi ha

/-- The turn of a group that may issue and whose slot has no request out is the run of that slot. -/
theorem stepGroup_eq :
    let s0 := s.unblocked g
    let me := s0.slotAsker g
    stepGroup s g = match (match runGroup g { s0 with asker := me, wants := [] } with
        | .next t => .next (if s0.crosses t me then s0.passTurn g else if t.wants = [] then t.asked me
            else (s0.awaiting t).passTurn g)
        | r => r : Host.Outcome State Fault Refusal) with
      | .next t => .next (s0.restClocks (if (t.grpD g).blocked then s0.passTurn g else t) x.core)
      | r => r := by
  unfold stepGroup State.asking
  rw [hg]
  simp only [hi, ha, not_true, if_false, Bool.false_eq_true]
  rfl

/-- The slot ran: the cycle passes, or what it did stands. -/
theorem stepGroup_next {t : State} :
    let s0 := s.unblocked g
    let me := s0.slotAsker g
    let z := if s0.crosses t me then s0.passTurn g else if t.wants = [] then t.asked me else (s0.awaiting t).passTurn g
    runGroup g { s0 with asker := me, wants := [] } = .next t →
      stepGroup s g = .next (s0.restClocks (if (z.grpD g).blocked then s0.passTurn g else z) x.core) := by
  intro s0 me z hr
  rw [stepGroup_eq hg hi ha, hr]

theorem stepGroup_fault {r : Fault}
    (hr : runGroup g { s.unblocked g with asker := (s.unblocked g).slotAsker g, wants := [] } = .fault r) :
    stepGroup s g = .fault r := by rw [stepGroup_eq hg hi ha, hr]

theorem stepGroup_refused {r : Refusal}
    (hr : runGroup g { s.unblocked g with asker := (s.unblocked g).slotAsker g, wants := [] } = .refused r) :
    stepGroup s g = .refused r := by rw [stepGroup_eq hg hi ha, hr]

end

/-- A group that is tried afresh has the late traps and the request that it had. -/
theorem grpD_unblocked (s : State) (g : Nat) :
    ((s.unblocked g).grpD g).delayed = (s.grpD g).delayed ∧ ((s.unblocked g).grpD g).due = (s.grpD g).due := by
  unfold State.unblocked
  split
  · simp only [State.grpD, grp?_updGrp]
    cases s.grp? g <;> simp
  · exact ⟨rfl, rfl⟩

/-- A group that is tried afresh, with nothing in its way, runs what stands at its slot. -/
theorem runGroup_unblocked {s u : State} {g : Nat} {x : Group} {w : BitVec 128} {a : Asker} (hg : s.grp? g = some x)
    (hw : x.delayed = [] ∧ x.due = false ∨ (s.unblocked g).midway ((s.unblocked g).slotAsker g) = true)
    (hn : { s.unblocked g with asker := a, wants := [] }.nextSlot g = (u, .ok w)) :
    runGroup g { s.unblocked g with asker := a, wants := [] }
      = exec (decodeSlot (unpack w).1 (unpack w).2) { u.noteIssue g with cur := g } := by
  obtain ⟨h1, h2⟩ := grpD_unblocked s g
  rw [grpD_of g hg] at h1 h2
  exact runGroup_slot (s := { s.unblocked g with asker := a, wants := [] })
    (hw.imp_left fun ⟨hd, hu⟩ => ⟨h1.trans hd, h2.trans hu⟩) hn

end Sys2Proof.Machine

open Sys2Proof Sys2Proof.Machine in
/-- Settles O58: the turn of a group comes to one run of the instruction at its slot, and the bytes of a well-formed
instruction decode to it. -/
theorem stepRunsTheDecodedInstruction : Obligations.STEP_RUNS_THE_DECODED_INSTRUCTION := by
  intro s u g r x w ht hg hi s0 me hw ha hn runs
  have hslot := runGroup_unblocked (s := { s.settle with turns := r }) hg hw hn
  have hrun : runs (decodeSlot (unpack w).1 (unpack w).2) := by
    dsimp only [runs]
    rw [step_grp ht]
    generalize exec (decodeSlot (unpack w).1 (unpack w).2) { u.noteIssue g with cur := g } = o at hslot ⊢
    cases o with
    | next t => exact stepGroup_next (s := { s.settle with turns := r }) hg hi ha hslot
    | fault e => exact stepGroup_fault (s := { s.settle with turns := r }) hg hi ha hslot
    | refused e => exact stepGroup_refused (s := { s.settle with turns := r }) hg hi ha hslot
  refine ⟨hrun, fun i bs hwf he hb => ?_⟩
  have hd := decodeSlot_of_encode hwf he
  rw [← hb] at hd
  exact hd ▸ hrun
end

section
/-! SUPPORT, O43 and O16. The courses of a slot that does not run its own effect, and the mask instructions (R82 to R97,
R101 to R119). -/

namespace Sys2Proof.Machine

variable {s : State} {f : Form} {sl : Slot} {x : Group} {lat : Machine.Lat} {body : State → Group → Effect}

/-! ### Cycles -/

/-- A group after cycles of a core: it is as before, but for its STALL and its budget if the core is its own. -/
theorem grp?_passCycles (s : State) (c n g : Nat) :
    (s.passCycles c n).grp? g = (s.grp? g).map fun x => if x.core = c then x.after n else x := by
  have e : (s.passCycles c n).groups = s.groups.map fun p => (p.1, if p.2.core = c then p.2.after n else p.2) :=
    List.map_congr_left fun p _ => by by_cases hc : p.2.core = c <;> simp [hc]
  rw [State.grp?, e]
  exact tget_map s.groups (fun _ x => if x.core = c then x.after n else x) g

@[simp] theorem passCycles_mem (s : State) (c n : Nat) : (s.passCycles c n).mem = s.mem := rfl
@[simp] theorem passCycles_banks (s : State) (c n : Nat) : (s.passCycles c n).banks = s.banks := rfl

/-- A listed group after cycles of a core. -/
theorem grp?_passCycles_of {g : Nat} (h : s.grp? g = some x) (c n : Nat) :
    ∃ y, (s.passCycles c n).grp? g = some y ∧ { y with stall := x.stall, budget := x.budget } = x := by
  rw [grp?_passCycles, h]
  by_cases hc : x.core = c
  · exact ⟨x.after n, by simp [hc], rfl⟩
  · exact ⟨x, by simp [hc], rfl⟩

/-! ### The courses of a slot (R82, R88, R96, R97) -/

/-- A slot that is interlocked or waits for a token stands, and a cycle passes. -/
theorem runSlot_notReady (hg : s.grp? s.cur = some x) (hr : x.ready f sl = false) :
    runSlot f lat sl body s
      = .next ((s.updGrp s.cur fun y => { y with yielded := true, blocked := true }).passCycles x.core 1) := by
  rw [runSlot_next hg, State.issue]
  simp [grpD_of _ hg, hr]

/-- A slot that fails one of the checks 2 to 4 traps before any effect. -/
theorem runSlot_decodeTraps (hg : s.grp? s.cur = some x) (hr : x.ready f sl = true) {c : Nat} {info : Word}
    (hd : decodeTrap f x.gran x.scount x.trapMode sl = some (c, info)) :
    runSlot f lat sl body s = .next (s.raise s.cur { cause := BitVec.ofNat 8 c, info := info } x.pc) := by
  rw [runSlot_next hg, State.issue]
  simp [grpD_of _ hg, hr, hd]

/-- A slot that decodes and uses a result too early traps in check mode before any effect. -/
theorem runSlot_checkTraps (hg : s.grp? s.cur = some x) (hr : x.ready f sl = true)
    (hd : decodeTrap f x.gran x.scount x.trapMode sl = none) {info : Word}
    (hc : checkMode x (s.ctxD (s.wgD x.wg).fn (s.wgD x.wg).ctx).checkMode f sl = some info) :
    runSlot f lat sl body s = .next (s.raise s.cur { cause := 5, info := info } x.pc) := by
  rw [runSlot_next hg, State.issue]
  simp [grpD_of _ hg, hr, hd, hc]

/-- A slot whose scalar guard is false only retires. -/
theorem runSlot_guarded (hg : s.grp? s.cur = some x) (hr : x.ready f sl = true)
    (hd : decodeTrap f x.gran x.scount x.trapMode sl = none)
    (hc : checkMode x (s.ctxD (s.wgD x.wg).fn (s.wgD x.wg).ctx).checkMode f sl = none) (hgd : x.guard sl = false) :
    runSlot f lat sl body s = .next ((s.atIssue sl).retire s.cur sl) := by
  rw [runSlot_next hg, State.issue]
  simp [grpD_of _ hg, hr, hd, hc, hgd, State.atIssue]

/-- A slot whose own effect traps there, with no effect before, traps at itself. -/
theorem runSlot_traps (h : Issues s f sl x) {r : Raise}
    (hb : body (s.atIssue sl) (x.cover sl) = .trap (s.atIssue sl) r none) : runSlot f lat sl body s = traps s sl x r := by
  rw [runSlot_of h, hb]
  simp only [State.apply, traps, Option.getD_none, grpD_atIssue h.group]
  rfl

/-! ### Every instruction row is a slot with its form (R95, R96) -/

/-- The row runs its slot through the checks with the form of its entry. -/
def RunsItsSlot (i : Instr) : Prop :=
  ∀ opc sl f, slotOf i = some (opc, sl) → formOf i = some f → ∃ lat body, ∀ s, exec i s = runSlot f lat sl body s

theorem runsItsSlot_of_row {i : Instr} {opc : BitVec 8} {sl : Slot} {f : Form} {lat : Machine.Lat} {body : State → Group → Effect}
    (hs : slotOf i = some (opc, sl)) (hf : formOf i = some f) (he : ∀ s, exec i s = runSlot f lat sl body s) : RunsItsSlot i := by
  intro opc' sl' f' hs' hf'
  rw [hs] at hs'
  rw [hf] at hf'
  cases hs'
  cases hf'
  exact ⟨lat, body, he⟩

theorem runsItsSlot_of_no_form {i : Instr} (h : formOf i = none) : RunsItsSlot i := by
  intro _ _ _ _ hf
  rw [h] at hf
  cases hf

set_option maxRecDepth 4000 in
/-- Every row with an entry runs its slot so. -/
theorem runsItsSlot (i : Instr) : RunsItsSlot i := by
  cases hf : formOf i with
  | none => exact runsItsSlot_of_no_form hf
  | some f =>
    cases i
    all_goals cases hf
    all_goals exact runsItsSlot_of_row rfl rfl fun _ => rfl

/-- TRAPINFO of a decode trap that names no field. -/
theorem decInfo_zero (r : Nat) : decInfo r 0 = BitVec.ofNat 64 (r * 2 ^ 32) := by rw [decInfo, Nat.add_zero]

/-- The opcodes whose rows SUB separates, as the meaning of NON_INSTRUCTION_ENCODING lists them. -/
theorem splitSubs_isSome (n : Nat) : (splitSubs n).isSome = [0xA3, 0xA6, 0xD7, 0xE8, 0xEA, 0xF1, 0xF8].contains n := by
  unfold splitSubs
  split <;> simp_all

end Sys2Proof.Machine

open Sys2Proof Sys2Proof.Machine in
/-- The courses of `State.issue`, one for each check. -/
theorem slotChecks_hold : slotChecks := by
  intro s i opc sl f x hs hf hg at_ mode
  obtain ⟨lat, body, he⟩ := runsItsSlot i opc sl f hs hf
  refine ⟨fun hr => ?_, fun hr c info hd => ?_, fun hr hd info hc => ?_, fun hr hd hc hgd => ?_⟩
  · rw [he, runSlot_notReady hg hr]
    have h1 : (s.updGrp s.cur fun y => { y with yielded := true, blocked := true }).grp? s.cur
        = some { x with yielded := true, blocked := true } := by simp [grp?_updGrp, hg]
    obtain ⟨y, hy, hk⟩ := grp?_passCycles_of h1 x.core 1
    refine ⟨_, y, rfl, hy, ?_⟩
    injection hk with e
    simp_all
  · rw [he, runSlot_decodeTraps hg hr hd]
  · rw [he, runSlot_checkTraps hg hr hd hc]
  · rw [he, runSlot_guarded hg hr hd hc hgd]

open Sys2Proof Sys2Proof.Machine in
/-- The reason of an encoding that is no instruction is that of its opcode. -/
theorem nonInstructionsTrap_hold : nonInstructionsTrap := by
  intro s opc sl x hg at_
  show execNonInstructionEncoding opc sl s = _
  simp only [execNonInstructionEncoding, hg, execNonInstructionEncoding.assignedOpc, splitSubs_isSome, decInfo_zero, at_]
  by_cases h0 : opc = 0
  · simp only [h0, if_true]
  · by_cases h1 : [0xA3, 0xA6, 0xD7, 0xE8, 0xEA, 0xF1, 0xF8].contains opc.toNat
    · simp only [h0, h1, if_true, if_false]
    · simp only [h0, h1, if_false, Bool.false_eq_true]

open Sys2Proof Sys2Proof.Machine in
/-- Settles O43, from the courses of a slot and the reasons of an encoding that is none. -/
theorem slotChecksComeFirst : Obligations.SLOT_CHECKS_COME_FIRST := ⟨slotChecks_hold, nonInstructionsTrap_hold⟩

namespace Sys2Proof.Machine

variable {s : State} {sl : Slot} {x : Group}

/-! ### Mask instructions (R111, R115 to R117) -/

/-- Two changes of a group that agree on it are one. -/
theorem updGrp_congr {g : Nat} (h : s.grp? g = some x) {u v : Group → Group} (e : u x = v x) :
    s.updGrp g u = s.updGrp g v := by rw [updGrp_of _ h, updGrp_of _ h, e]

/-- A slot whose effect is one change of its group, as that group stands at issue. -/
theorem runSlot_changesGroup {f : Form} (h : Issues s f sl x) {body : State → Group → Effect} {u v : Group → Group}
    (hb : body (s.atIssue sl) (x.cover sl) = .done ((s.atIssue sl).updGrp (s.atIssue sl).cur u) [])
    (e : u (x.cover sl) = v (x.cover sl)) :
    runSlot f .none sl body s = retired s ((s.atIssue sl).updGrp s.cur v) sl .none [] := by
  rw [runSlot_done h hb, cur_atIssue h.group, updGrp_congr (grp?_atIssue h.group) e]

/-- The trap of an instruction that may not run in trap mode. -/
theorem illegal_eq (s : State) (reason : Nat) :
    illegal s reason = .trap s { cause := 1, info := BitVec.ofNat 64 (reason * 2 ^ 32) } none := by
  rw [illegal, decInfo_zero]

/-- What MGET reads, with the fields of the top entry 0 where there is none. -/
theorem mgetValue_eq (sl : Slot) (x : Group) : mgetValue sl x = match sl.sub.toNat with
    | 0 => x.act.setWidth 64
    | 1 => x.live.setWidth 64
    | 2 => BitVec.ofNat 64 x.mstk.length
    | 3 => ((x.mstk.head?.map MEntry.taken).getD 0).setWidth 64
    | _ => ((x.mstk.head?.map MEntry.saved).getD 0).setWidth 64 := by
  unfold mgetValue subN
  cases x.mstk <;> rfl

/-- In trap mode the instructions that change masks trap with REASON 4 (R254). -/
theorem maskBodies_trapMode (s : State) (ht : x.trapMode = true) :
    let t := Effect.trap s { cause := 1, info := BitVec.ofNat 64 (4 * 2 ^ 32) } none
    mpushBody sl s x = t ∧ melseBody s x = t ∧ mpopBody s x = t ∧ msetBody sl s x = t := by
  simp only [mpushBody, melseBody, mpopBody, msetBody, ht, if_true, illegal_eq, and_self]

/-- MPUSH while the stack has room. -/
theorem mpushBody_room (s : State) (ht : x.trapMode = false) (hl : x.mstk.length < 32) :
    let taken := x.act &&& (if sl.sub = 1 then ~~~(x.predOf sl.a) else x.predOf sl.a) &&& x.live
    mpushBody sl s x = .done (s.updGrp s.cur fun y => { y with
      mstk := { saved := x.act, taken := taken, fmt := x.fmt
                rcv := if x.block.rcv = 0 then none else some (x.block.hdr + 16 * x.block.rcv.signExtend 64) } :: y.mstk
      act := taken }) [] := by
  simp only [mpushBody, ht, if_false, Bool.false_eq_true, if_neg (Nat.not_le.2 hl)]

/-- MPUSH with a full stack. -/
theorem mpushBody_full (s : State) (ht : x.trapMode = false) (hl : 32 ≤ x.mstk.length) :
    mpushBody sl s x = trapNow s 6 0 0 := by
  simp only [mpushBody, ht, if_false, Bool.false_eq_true, if_pos hl]

/-- MELSE and MPOP with an entry on the stack. -/
theorem melseBody_entry (s : State) (ht : x.trapMode = false) {e : MEntry} {t : List MEntry} (hm : x.mstk = e :: t) :
    melseBody s x = .done (s.updGrp s.cur fun y => { y with act := e.saved &&& ~~~e.taken &&& y.live, fmt := e.fmt }) [] := by
  simp only [melseBody, ht, if_false, Bool.false_eq_true, hm]

theorem mpopBody_entry (s : State) (ht : x.trapMode = false) {e : MEntry} {t : List MEntry} (hm : x.mstk = e :: t) :
    mpopBody s x = .done (s.updGrp s.cur fun y => { y with mstk := t, act := e.saved &&& y.live, fmt := e.fmt }) [] := by
  simp only [mpopBody, ht, if_false, Bool.false_eq_true, hm]

/-- MELSE and MPOP with an empty stack. -/
theorem melseBody_empty (s : State) (ht : x.trapMode = false) (hm : x.mstk = []) : melseBody s x = trapNow s 6 0 1 := by
  simp only [melseBody, ht, if_false, Bool.false_eq_true, hm]

theorem mpopBody_empty (s : State) (ht : x.trapMode = false) (hm : x.mstk = []) : mpopBody s x = trapNow s 6 0 1 := by
  simp only [mpopBody, ht, if_false, Bool.false_eq_true, hm]

theorem msetBody_of (s : State) (ht : x.trapMode = false) :
    msetBody sl s x = .done (s.updGrp s.cur fun y => { y with act := (s.ssrc x sl sl.a).setWidth 32 &&& y.live }) [] := by
  simp only [msetBody, ht, if_false, Bool.false_eq_true]

end Sys2Proof.Machine

open Sys2Proof Sys2Proof.Machine in
/-- Settles O16: each mask instruction is one change of its group, a read of it, or a trap. -/
theorem maskInstructionResults : Obligations.MASK_INSTRUCTION_RESULTS := by
  intro s x sl p m taken rcv overflow inHandler
  refine ⟨fun h => ?lexit, fun h ht => ⟨fun hl => ?mpush, fun hl => ?mpushFull⟩,
    fun h ht => ⟨fun e t hm => ⟨?melse, ?mpop⟩, fun hm => ⟨?melseEmpty, ?mpopEmpty⟩⟩, fun h ht => ?mset,
    fun ht => ?inHandler, fun h => ?mget⟩
  case lexit => exact runSlot_changesGroup h (body := lexitBody sl) rfl rfl
  case mpush => exact runSlot_changesGroup h (mpushBody_room _ ht hl) rfl
  case mpushFull => exact runSlot_traps h (mpushBody_full _ ht hl)
  case melse => exact runSlot_changesGroup h (melseBody_entry _ ht hm) rfl
  case mpop => exact runSlot_changesGroup h (mpopBody_entry _ ht hm) rfl
  case melseEmpty => exact runSlot_traps h (melseBody_empty _ ht hm)
  case mpopEmpty => exact runSlot_traps h (mpopBody_empty _ ht hm)
  case mset =>
    refine runSlot_changesGroup h (msetBody_of _ ht) ?_
    simp only [ssrc_atIssue h.group]
    rfl
  case inHandler =>
    obtain ⟨hpush, helse, hpop, hset⟩ := maskBodies_trapMode (sl := sl) (x := x.cover sl) (s.atIssue sl) ht
    exact ⟨fun h => runSlot_traps h hpush, fun h => ⟨runSlot_traps h helse, runSlot_traps h hpop⟩,
      fun h => runSlot_traps h hset⟩
  case mget =>
    refine (runSlot_writes h (body := mgetBody sl) rfl).trans ?_
    rw [mgetValue_eq]
    rfl
end

section
/-! SUPPORT. The frame of an access. Whatever a fetch, a load, a store, a walk, a release or an acquire does, it does to
memory, caches, translations, charges and requests (R302 to R316, R355 to R370, R428 to R435): groups, workgroups, trap banks,
launches, packets and the queues of the dispatcher are as before. `Accessed s t` says so of a state `t` that accesses have
made of `s`; one lemma per operation, named `accessed_` and the operation, says that the operation keeps it. -/

namespace Sys2Proof.Machine

/-- The parts of a state that an access may change, put back as they were. -/
def State.restored (s t : State) : State :=
  { t with
    tick := s.tick, mem := s.mem, cores := s.cores, ctxs := s.ctxs, fns := s.fns, tlb := s.tlb, owner := s.owner
    markX := s.markX, markW := s.markW, bias := s.bias, badMac := s.badMac, links := s.links, peerOut := s.peerOut
    got := s.got, wants := s.wants, toPeers := s.toPeers, hostLines := s.hostLines, l2 := s.l2, hubc := s.hubc
    dieAcq := s.dieAcq, fmtPend := s.fmtPend, ctrs := s.ctrs, mdc := s.mdc, failed := s.failed, nodeMet := s.nodeMet }

/-- `t` is `s` but for what accesses change. Of a function the queues are as before, and of a core its task queue and the
cards that it has spilled. -/
structure Accessed (s t : State) : Prop where
  rest : s.restored t = s
  queues : ∀ fn, (tget t.fns fn).map Func.queues = (tget s.fns fn).map Func.queues
  cards : ∀ c, (t.coreD c).taskq = (s.coreD c).taskq ∧ (t.coreD c).spilled = (s.coreD c).spilled

namespace Accessed

variable {s t u : State}

theorem refl (s : State) : Accessed s s := ⟨rfl, fun _ => rfl, fun _ => ⟨rfl, rfl⟩⟩

theorem trans (h : Accessed s t) (k : Accessed t u) : Accessed s u where
  rest := (congrArg s.restored k.rest).trans h.rest
  queues fn := (k.queues fn).trans (h.queues fn)
  cards c := ⟨(k.cards c).1.trans (h.cards c).1, (k.cards c).2.trans (h.cards c).2⟩

/-- A change of what accesses change, besides functions and cores. -/
theorem of_rest (h : Accessed s t) (hr : t.restored u = t) (hf : u.fns = t.fns) (hc : u.cores = t.cores) : Accessed s u :=
  h.trans ⟨hr, fun fn => by rw [hf], fun c => by unfold State.coreD; rw [hc]; exact ⟨rfl, rfl⟩⟩

/-! ### What stays -/

theorem groups (h : Accessed s t) : t.groups = s.groups := (congrArg State.groups h.rest :)
theorem wgs (h : Accessed s t) : t.wgs = s.wgs := (congrArg State.wgs h.rest :)
theorem cur (h : Accessed s t) : t.cur = s.cur := (congrArg State.cur h.rest :)
theorem packets (h : Accessed s t) : t.packets = s.packets := (congrArg State.packets h.rest :)
theorem launches (h : Accessed s t) : t.launches = s.launches := (congrArg State.launches h.rest :)
theorem grp? (h : Accessed s t) (g : Nat) : t.grp? g = s.grp? g := congrArg (tget · g) h.groups

/-- A function that is there stays there, with its queues. -/
theorem fn_isSome (h : Accessed s t) {fn : Nat} (hf : tget s.fns fn ≠ none) : tget t.fns fn ≠ none := by
  have := h.queues fn
  intro e
  rw [e] at this
  cases hs : tget s.fns fn with
  | none => exact hf hs
  | some f => rw [hs] at this; cases this

theorem queueD (h : Accessed s t) (fn q : Nat) : t.queueD fn q = s.queueD fn q := by
  have hq : (t.fnD fn).queues = (s.fnD fn).queues := by
    have := h.queues fn
    unfold State.fnD
    cases hs : tget s.fns fn <;> cases ht : tget t.fns fn <;> simp_all
  unfold State.queueD
  rw [hq]

end Accessed

variable {s0 s : State}

/-! ### Loops and branches -/

theorem accessed_foldl {β : Type} {f : State → β → State} (h : ∀ s b, Accessed s0 s → Accessed s0 (f s b)) (l : List β)
    (s : State) (hs : Accessed s0 s) : Accessed s0 (l.foldl f s) := by
  induction l generalizing s with
  | nil => exact hs
  | cons b t ih => exact ih _ (h s b hs)

theorem accessed_ite {p : Prop} [Decidable p] {a b : State} (ha : Accessed s0 a) (hb : Accessed s0 b) :
    Accessed s0 (if p then a else b) := by
  split
  · exact ha
  · exact hb

theorem accessed_ite1 {β : Type} {p : Prop} [Decidable p] {a b : State × β} (ha : Accessed s0 a.1) (hb : Accessed s0 b.1) :
    Accessed s0 (if p then a else b).1 := by
  split
  · exact ha
  · exact hb

/-! ### Functions, contexts, cores -/

/-- A change of a function that leaves its queues alone. -/
theorem accessed_updFn (fn : Nat) {f : Func → Func} (hf : ∀ x, (f x).queues = x.queues) (h : Accessed s0 s) :
    Accessed s0 (s.updFn fn f) := by
  refine h.trans ?_
  unfold State.updFn
  split
  · rename_i x hx
    refine ⟨rfl, fun k => ?_, fun _ => ⟨rfl, rfl⟩⟩
    rw [tget_tput]
    split
    · rename_i e
      rw [e, hx]
      exact congrArg some (hf x)
    · rfl
  · exact .refl s

theorem accessed_updCtx (fn c : Nat) (f : Context → Context) (h : Accessed s0 s) : Accessed s0 (s.updCtx fn c f) := by
  unfold State.updCtx
  split
  · exact h.of_rest rfl rfl rfl
  · exact h

/-- A change of a core that leaves its cards alone. -/
theorem accessed_updCore (c : Nat) {f : Core → Core} (hf : ∀ k, (f k).taskq = k.taskq ∧ (f k).spilled = k.spilled)
    (h : Accessed s0 s) : Accessed s0 (s.updCore c f) := by
  refine h.trans ⟨rfl, fun _ => rfl, fun d => ?_⟩
  rw [coreD_updCore]
  split
  · rename_i e
    rw [e]
    exact hf _
  · exact ⟨rfl, rfl⟩

/-- A change of every core that leaves their cards alone. -/
theorem accessed_mapCores {f : Nat → Core → Core} (hf : ∀ c k, (f c k).taskq = k.taskq ∧ (f c k).spilled = k.spilled)
    (h : Accessed s0 s) : Accessed s0 { s with cores := s.cores.map fun p => (p.1, f p.1 p.2) } := by
  refine h.trans ⟨rfl, fun _ => rfl, fun c => ?_⟩
  simp only [State.coreD, tval, tget_map]
  cases tget s.cores c with
  | none => exact ⟨rfl, rfl⟩
  | some k => exact hf c k

/-- The same, of the cores that a test picks. -/
theorem accessed_mapCoresIf {p : Nat × Core → Bool} {f : Core → Core}
    (hf : ∀ k, (f k).taskq = k.taskq ∧ (f k).spilled = k.spilled) (h : Accessed s0 s) :
    Accessed s0 { s with cores := s.cores.map fun k => if p k = true then (k.1, f k.2) else k } := by
  have e : (s.cores.map fun k => if p k = true then (k.1, f k.2) else k)
      = s.cores.map fun k => (k.1, (fun c k => if p (c, k) = true then f k else k) k.1 k.2) :=
    List.map_congr_left fun k _ => by
      split
      · rename_i hk; exact Prod.ext rfl (if_pos hk).symm
      · rename_i hk; exact Prod.ext rfl (if_neg hk).symm
  rw [e]
  refine accessed_mapCores (f := fun c k => if p (c, k) = true then f k else k) (fun c k => ?_) h
  split
  · exact hf k
  · exact ⟨rfl, rfl⟩

/-! ### Memory and caches (R302 to R316, R404) -/

theorem accessed_wrByte (l : Nat) (b : Byte) (h : Accessed s0 s) : Accessed s0 (s.wrByte l b) := h.of_rest rfl rfl rfl

theorem accessed_wrBytes (l : Nat) (bs : List Byte) (h : Accessed s0 s) : Accessed s0 (s.wrBytes l bs) := by
  induction bs generalizing s l with
  | nil => exact h
  | cons b t ih => exact ih _ (accessed_wrByte l b h)

theorem accessed_wr (l n v : Nat) (h : Accessed s0 s) : Accessed s0 (s.wr l n v) := accessed_wrBytes _ _ h

theorem accessed_l1Map (line : Nat) (p : Nat → Bool) (f : L1Line → Option L1Line) (h : Accessed s0 s) :
    Accessed s0 (s.l1Map line p f) :=
  accessed_mapCoresIf (p := fun k => p k.1 && k.2.l1.any fun e => decide (e.line = line))
    (f := fun k => { k with l1 := k.l1.filterMap fun e => if e.line = line then f e else some e })
    (fun _ => ⟨rfl, rfl⟩) h

theorem accessed_l1Put (c : Nat) (e : L1Line) (h : Accessed s0 s) : Accessed s0 (s.l1Put c e) :=
  accessed_updCore _ (fun _ => by exact ⟨rfl, rfl⟩) h

theorem accessed_lineCome (die line : Nat) (h : Accessed s0 s) : Accessed s0 (s.lineCome die line) := h.of_rest rfl rfl rfl

theorem accessed_l1Fill (die c line : Nat) (d : List Byte) (b : Bool) (h : Accessed s0 s) :
    Accessed s0 (s.l1Fill die c line d b) := accessed_l1Put _ _ (accessed_lineCome _ _ (accessed_l1Map _ _ _ h))

theorem accessed_l1Read (die c line : Nat) (h : Accessed s0 s) : Accessed s0 (s.l1Read die c line) :=
  accessed_ite h (accessed_l1Fill _ _ _ _ _ h)

theorem accessed_l1Write (die c line : Nat) (d : List Byte) (b : Bool) (h : Accessed s0 s) :
    Accessed s0 (s.l1Write die c line d b) := accessed_l1Put _ _ (accessed_lineCome _ _ (accessed_l1Map _ _ _ h))

theorem accessed_ctlTouch (c g off : Nat) (h : Accessed s0 s) : Accessed s0 (s.ctlTouch c g off) :=
  accessed_ite h (accessed_l1Put _ _ h)

theorem accessed_recall (line : Nat) (h : Accessed s0 s) : Accessed s0 (s.recall line) :=
  (accessed_l1Map line (fun k => decide (dieOf k = s.lineHome line)) (fun _ => none)
    (accessed_l1Map line (fun _ => true) (fun e => if e.st = .shared then some e else none) h)).of_rest rfl rfl rfl

theorem accessed_hostOwn (loc : Nat) (h : Accessed s0 s) : Accessed s0 (s.hostOwn loc) := h.of_rest rfl rfl rfl

theorem accessed_hostOwnAt (loc : Nat) (h : Accessed s0 s) : Accessed s0 (s.hostOwnAt loc) :=
  accessed_ite (accessed_hostOwn _ h) h

theorem accessed_countLine (line : Nat) (h : Accessed s0 s) : Accessed s0 (s.countLine line) :=
  accessed_ite h (h.of_rest rfl rfl rfl)

theorem accessed_countLines (l n : Nat) (h : Accessed s0 s) : Accessed s0 (s.countLines l n) :=
  accessed_foldl (fun _ _ h => accessed_countLine _ h) _ _ h

theorem accessed_noteNode (loc : Nat) (h : Accessed s0 s) : Accessed s0 (s.noteNode loc) := by
  unfold State.noteNode
  split
  · exact h
  · exact accessed_ite h (h.of_rest rfl rfl rfl)

theorem accessed_verifyLine (line : Nat) (h : Accessed s0 s) : Accessed s0 (s.verifyLine line) :=
  accessed_ite h (h.of_rest rfl rfl rfl)

theorem accessed_charge (fn pj : Nat) (h : Accessed s0 s) : Accessed s0 (s.charge fn pj) := accessed_updFn _ (fun _ => by rfl) h

theorem accessed_chargeAt (fn loc n : Nat) (h : Accessed s0 s) : Accessed s0 (s.chargeAt fn loc n) :=
  accessed_ite h (accessed_charge _ _ h)

theorem accessed_cacheDrop (lo n : Nat) (h : Accessed s0 s) : Accessed s0 (s.cacheDrop lo n) :=
  (accessed_mapCores (f := fun _ k => { k with
      l1 := k.l1.filter fun e => !(decide (lo ≤ e.line) && decide (e.line < lo + n))
      icache := k.icache.filter fun l => !(decide (lo ≤ l) && decide (l < lo + n)) })
    (fun _ _ => ⟨rfl, rfl⟩) h).of_rest rfl rfl rfl

/-! ### Columns (R312, R443) -/

theorem accessed_writeBack (die : Nat) (e : DirtyLine) (h : Accessed s0 s) : Accessed s0 (s.writeBack die e) := by
  unfold State.writeBack
  split
  · exact h.of_rest rfl rfl rfl
  · have k : Accessed s0 (e.bytes.foldl (fun t p => t.wrByte (128 * e.line + p.1) p.2) s) :=
      accessed_foldl (fun _ _ h => accessed_wrByte _ _ h) _ _ h
    dsimp only
    split
    · exact accessed_chargeAt _ _ _ (accessed_countLine _ (k.of_rest rfl rfl rfl))
    · exact accessed_countLine _ (k.of_rest rfl rfl rfl)

theorem accessed_cleanCore (c : Nat) (h : Accessed s0 s) : Accessed s0 (s.cleanCore c) :=
  accessed_updCore c (f := fun k => { k with dirty := [] }) (fun _ => ⟨rfl, rfl⟩)
    (accessed_foldl (fun _ _ h => accessed_writeBack _ _ h) _ _ h)

theorem accessed_cleanDie (die : Nat) (h : Accessed s0 s) : Accessed s0 (s.cleanDie die) :=
  accessed_foldl (fun _ _ h => accessed_cleanCore _ h) _ _ h

theorem accessed_cleanLine (die line : Nat) (h : Accessed s0 s) : Accessed s0 (s.cleanLine die line) :=
  accessed_foldl (fun t c h => by
    split
    · exact h
    · exact accessed_updCore _ (fun _ => by exact ⟨rfl, rfl⟩) (accessed_writeBack _ _ h)) _ _ h

theorem accessed_dropCopies (die line : Nat) (k : Option Nat) (h : Accessed s0 s) : Accessed s0 (s.dropCopies die line k) :=
  accessed_foldl (fun _ _ h => accessed_ite h (accessed_ite h (accessed_updCore _ (fun _ => by exact ⟨rfl, rfl⟩) h))) _ _ h

theorem accessed_dropL1 (die line : Nat) (h : Accessed s0 s) : Accessed s0 (s.dropL1 die line) := accessed_l1Map _ _ _ h

theorem accessed_discardLines (lo n : Nat) (h : Accessed s0 s) : Accessed s0 (s.discardLines lo n) :=
  accessed_cacheDrop _ _ (accessed_foldl (fun _ _ h => accessed_updCore _ (fun _ => by exact ⟨rfl, rfl⟩) h) _ _ h)

theorem accessed_flushLines (lo n : Nat) (h : Accessed s0 s) : Accessed s0 (s.flushLines lo n) :=
  accessed_discardLines _ _ (accessed_foldl
    (fun _ _ h => accessed_foldl (fun _ _ h => accessed_writeBack _ _ h) _ _ h) _ _ h)

theorem accessed_toHub (die line : Nat) (h : Accessed s0 s) : Accessed s0 (s.toHub die line) :=
  accessed_recall _ (accessed_dropL1 _ _ (accessed_dropCopies _ _ _ (accessed_cleanLine _ _ h)))

theorem accessed_bankWrite (l n x : Nat) (h : Accessed s0 s) : Accessed s0 (s.bankWrite l n x) :=
  accessed_countLines _ _ (accessed_wr _ _ _ (accessed_hostOwnAt _ (accessed_recall _ h)))

/-- A column that makes room keeps the core's cards. -/
theorem colTrim_cards (k : Core) (cap : Nat) : (k.colTrim cap).taskq = k.taskq ∧ (k.colTrim cap).spilled = k.spilled := by
  unfold Core.colTrim
  split <;> exact ⟨rfl, rfl⟩

theorem accessed_columnPut (die c line : Nat) (e : ColLine) (h : Accessed s0 s) : Accessed s0 (s.columnPut die c line e) :=
  accessed_updCore _ (fun k => colTrim_cards { k with column := tdel k.column line } _) h

theorem accessed_farRead (die c l n : Nat) (col first : Bool) (h : Accessed s0 s) :
    Accessed s0 (s.farRead die c l n col first).1 := by
  unfold State.farRead
  dsimp only
  split
  · exact h
  · split
    · exact accessed_l1Fill _ _ _ _ _ h
    · exact accessed_l1Fill _ _ _ _ _ (accessed_ite (accessed_columnPut _ _ _ _ h) h)

theorem accessed_columnWrite (die c l : Nat) (bs : List Byte) (h : Accessed s0 s) : Accessed s0 (s.columnWrite die c l bs) := by
  have h1 : ∀ line, Accessed s0 ((coresOf die).foldl (fun t c' =>
      if c' = c ∨ (t.dirtyOf c' line).isNone then t
      else t.updCore c' fun k => { k with dirty := k.dirty.filter fun e => !decide (e.line = line) }) s) := fun line =>
    accessed_foldl (fun _ _ h => accessed_ite h (accessed_updCore _ (fun _ => by exact ⟨rfl, rfl⟩) h)) _ _ h
  have h2 := accessed_dropCopies die (l / 128) (some c) (h1 (l / 128))
  unfold State.columnWrite
  dsimp only
  refine accessed_updCore _ (fun k => colTrim_cards _ _) ?_
  split
  · split
    · exact accessed_updCore _ (fun _ => by exact ⟨rfl, rfl⟩) (accessed_writeBack _ _ h2)
    · exact h2
  · exact h2

theorem accessed_farWrite (die c l : Nat) (bs : List Byte) (col first : Bool) (h : Accessed s0 s) :
    Accessed s0 (s.farWrite die c l bs col first) :=
  accessed_l1Write _ _ _ _ _ (accessed_ite (accessed_columnWrite _ _ _ _ h)
    (accessed_countLine _ (accessed_wrBytes _ _ (accessed_recall _ (accessed_dropCopies _ _ _ (accessed_cleanLine _ _ h))))))

theorem accessed_nextGen (c : Nat) (h : Accessed s0 s) : Accessed s0 (s.nextGen c) :=
  accessed_ite (accessed_updCore _ (fun _ => by exact ⟨rfl, rfl⟩) (accessed_cleanCore _ h))
    (accessed_updCore _ (fun _ => by exact ⟨rfl, rfl⟩) h)

theorem accessed_acqNote (c : Nat) (h : Accessed s0 s) : Accessed s0 (s.acqNote c) := by
  unfold State.acqNote
  exact accessed_updCore _ (fun _ => ⟨rfl, rfl⟩) (h.of_rest rfl rfl rfl)

theorem accessed_release (die scp : Nat) (h : Accessed s0 s) : Accessed s0 (s.release die scp) :=
  accessed_ite (accessed_cleanDie _ h) h

theorem accessed_acquire (c scp : Nat) (h : Accessed s0 s) : Accessed s0 (s.acquire c scp) :=
  accessed_ite (accessed_acqNote _ (accessed_nextGen _ h))
    (accessed_ite h (accessed_updCore _ (fun _ => by exact ⟨rfl, rfl⟩) h))

theorem accessed_icFill (c line : Nat) (h : Accessed s0 s) : Accessed s0 (s.icFill c line) :=
  accessed_ite h (accessed_updCore _ (fun _ => by exact ⟨rfl, rfl⟩) h)

theorem accessed_icDrop (p : Nat → Bool) (h : Accessed s0 s) : Accessed s0 (s.icDrop p) :=
  accessed_mapCoresIf (p := fun k => k.2.icache.any p)
    (f := fun k => { k with icache := k.icache.filter fun l => !p l }) (fun _ => ⟨rfl, rfl⟩) h

/-! ### Requests to peers (R428 to R435) -/

theorem accessed_debit (fn src cls bytes : Nat) (h : Accessed s0 s) : Accessed s0 (s.debit fn src cls bytes) :=
  accessed_updFn _ (fun x => by
    split
    · split <;> rfl
    · rfl) h

theorem accessed_touch (fn ctx : Nat) (ds : List Nat) (h : Accessed s0 s) : Accessed s0 (s.touch fn ctx ds) :=
  accessed_updCtx _ _ _ h

theorem accessed_updLink (i : Nat) (f : Link → Link) (h : Accessed s0 s) : Accessed s0 (s.updLink i f) :=
  h.of_rest rfl rfl rfl

theorem accessed_sendOn (i : Nat) (o : PeerOut) (h : Accessed s0 s) : Accessed s0 (s.sendOn i o) := accessed_updLink _ _ h

theorem accessed_peerSend (o : PeerOut) (h : Accessed s0 s) : Accessed s0 (s.peerSend o) := by
  have k0 : Accessed s0 (match o.rel with | some d => s.release d 3 | none => s) := by
    split
    · exact accessed_release _ _ h
    · exact h
  unfold State.peerSend
  lift_lets
  intro s1 n s2 out s3
  have k2 : Accessed s0 s2 := accessed_touch _ _ _ (accessed_debit _ _ _ _ (accessed_charge _ _ k0))
  have k3 : Accessed s0 s3 := by
    show Accessed s0 (match out.link with | some i => s2.sendOn i out | none => s2)
    clear_value s2 out
    split
    · exact accessed_sendOn _ _ k2
    · exact k2
  exact k3.of_rest rfl rfl rfl

theorem accessed_peerNeed (o : PeerOut) (h : Accessed s0 s) : Accessed s0 (s.peerNeed o).1 := by
  unfold State.peerNeed
  split
  · exact accessed_ite h (h.of_rest rfl rfl rfl)
  · exact accessed_ite1 h (h.of_rest rfl rfl rfl)

theorem accessed_peerRead (v : View) (p pa n : Nat) (a : Word) (k : Nat) (h : Accessed s0 s) :
    Accessed s0 (s.peerRead v p pa n a k).1 := by
  unfold State.peerRead
  dsimp only
  split <;> exact accessed_peerNeed _ h

theorem accessed_fmtPeerRead (v : View) (p b z o n : Nat) (a : Word) (k : Nat) (h : Accessed s0 s) :
    Accessed s0 (s.fmtPeerRead v p b z o n a k).1 := accessed_peerRead _ _ _ _ _ _ (accessed_peerRead _ _ _ _ _ _ h)

theorem accessed_gotPatch (p pa : Nat) (bs : List Byte) (h : Accessed s0 s) : Accessed s0 (s.gotPatch p pa bs) :=
  accessed_ite h (h.of_rest rfl rfl rfl)

theorem accessed_peerWrite (v : View) (p pa n x : Nat) (a : Word) (k l : Nat) (h : Accessed s0 s) :
    Accessed s0 (s.peerWrite v p pa n x a k l) := accessed_gotPatch _ _ _ (accessed_peerSend _ h)

/-! ### The target of an access (R302, R310, Table 8.7) -/

theorem accessed_fmtWrite (v : View) (base size off n x : Nat) (h : Accessed s0 s) :
    Accessed s0 (s.fmtWrite v base size off n x) :=
  accessed_foldl (f := fun t j => { t with fmtPend := t.fmtPend ++ [{
      grp := v.grp, die := v.die, loc := fmtElemLoc base (off / 2 + j)
      val := BitVec.ofNat 8 (aliasWrite (t.rdByte (fmtScaleLoc base size (off / 2 + j))).toNat (x / 2 ^ (16 * j) % 65536)) }] })
    (fun _ _ h => h.of_rest rfl rfl rfl) (List.range (n / 2)) s h

theorem accessed_reach (v : View) (l : Nat) (h : Accessed s0 s) : Accessed s0 (s.reach v l) :=
  accessed_ite (accessed_recall _ h) (accessed_toHub _ _ h)

theorem accessed_readT (v : View) (t : Target) (n : Nat) (hub : Bool) (h : Accessed s0 s) :
    Accessed s0 (s.readT v t n hub).1 := by
  cases t with
  | ctl off => exact accessed_ite h (accessed_ctlTouch _ _ _ h)
  | mem l way =>
    exact accessed_ite1 (accessed_reach v l h) (accessed_ite1 (accessed_l1Read _ _ _ h) (accessed_farRead _ _ _ _ _ _ h))
  | fmtPeer p base size off => exact accessed_fmtPeerRead _ _ _ _ _ _ _ _ h
  | _ => exact h

theorem accessed_writeT (v : View) (t : Target) (n : Nat) (hub : Bool) (x : Nat) (h : Accessed s0 s) :
    Accessed s0 (s.writeT v t n hub x) := by
  cases t with
  | win l => exact accessed_wr l n x h
  | mem l way =>
    exact accessed_ite (accessed_countLine _ (accessed_wr _ n x (accessed_reach v l h)))
      (accessed_ite (accessed_countLine _ (accessed_wr _ n x (accessed_l1Write _ _ _ _ _ h))) (accessed_farWrite _ _ _ _ _ _ h))
  | fmtView base size off => exact accessed_fmtWrite v _ _ _ n x h
  | _ => exact h

theorem accessed_readP (v : View) (t : Target) (n : Nat) (a : Word) (k : Nat) (h : Accessed s0 s) :
    Accessed s0 (s.readP v t n a k).1 := by
  unfold State.readP
  split
  · exact accessed_peerRead _ _ _ _ _ _ h
  · exact accessed_fmtPeerRead _ _ _ _ _ _ _ _ h
  · exact h
  · exact accessed_readT _ _ _ _ h

theorem accessed_targetOf (sp va : Nat) (l : Word) (size : Nat) (h : Accessed s0 s) :
    Accessed s0 (s.targetOf sp va l size).1 := by
  unfold State.targetOf
  dsimp only
  split
  · exact h
  · exact accessed_hostOwn _ h
  · have k := fun line loc => accessed_ite (p := tval false s.bias
        ((leafFrame l * 65536 + va % size) / 65536)) (accessed_hostOwn loc (accessed_verifyLine line h)) (accessed_verifyLine line h)
    split
    · exact accessed_noteNode _ h
    · split
      · split
        · exact accessed_noteNode _ h
        · exact k _ _
      · exact k _ _

/-! ### Translation (R355 to R361) -/

theorem accessed_noteWalk (c : Context) (sp va : Nat) (h : Accessed s0 s) : Accessed s0 (s.noteWalk c sp va) :=
  accessed_ite h (accessed_foldl (fun _ _ h => accessed_verifyLine _ (accessed_noteNode _ h)) _ _ h)

theorem accessed_takeOwners (world : Nat) (priv : Bool) (l : List Nat) (h : Accessed s0 s) :
    Accessed s0 (s.takeOwners world priv l).1 := by
  induction l generalizing s with
  | nil => exact h
  | cons f t ih => exact accessed_ite1 (ih (h.of_rest rfl rfl rfl)) (accessed_ite1 (ih h) h)

theorem accessed_setBias (f : Nat) (host : Bool) (h : Accessed s0 s) : Accessed s0 (s.setBias f host) :=
  accessed_ite h ((accessed_flushLines (512 * f) 512 h).of_rest rfl rfl rfl)

theorem accessed_mark (world : Nat) (l : Word) (fs : List Nat) (h : Accessed s0 s) : Accessed s0 (s.mark world l fs) :=
  by
  unfold State.mark
  refine accessed_ite h (accessed_foldl (fun _ _ k => ?_) _ _ h)
  exact k.of_rest rfl rfl rfl

/-- The owners of a page's frames are taken where it lies in the near or the capacity tier. -/
theorem accessed_own (l : Word) (world : Nat) (fs : List Nat) (h : Accessed s0 s) :
    Accessed s0 (if leafTier l ≤ 1 then s.takeOwners world (leafPriv l) fs else (s, true)).1 :=
  accessed_ite1 (accessed_takeOwners _ _ _ h) h

theorem accessed_hubWalk (fn ctx va : Nat) (w p : Bool) (h : Accessed s0 s) : Accessed s0 (s.hubWalk fn ctx va w p).1 := by
  unfold State.hubWalk
  have h := accessed_noteWalk (s.ctxD fn ctx) 0 va h
  dsimp only
  split
  · rename_i l place size _ _
    have k := accessed_own l (((s.noteWalk (s.ctxD fn ctx) 0 va).hubView fn ctx).asPriv p).world (framesOf l size) h
    exact accessed_ite1 h (accessed_ite1 k (accessed_touch _ _ _ (accessed_mark _ _ _
      (accessed_ite k (accessed_bankWrite _ _ _ k)))))
  · exact h

theorem accessed_hubTouch (fn loc n : Nat) (h : Accessed s0 s) : Accessed s0 (s.hubTouch fn loc n) :=
  accessed_chargeAt _ _ _ (accessed_verifyLine _ (accessed_noteNode _ (accessed_hostOwnAt _ h)))

theorem accessed_hubOpen (fn ctx va : Nat) (p : Bool) (h : Accessed s0 s) : Accessed s0 (s.hubOpen fn ctx va p).1 := by
  have k := accessed_hubWalk fn ctx va false p h
  unfold State.hubOpen
  generalize s.hubWalk fn ctx va false p = r at k
  obtain ⟨t, pl, pr⟩ := r
  rcases pl with _ | l | ⟨q, pa⟩
  · exact k
  · exact accessed_hubTouch fn l 128 (accessed_recall (l / 128) k)
  · exact accessed_ite k (k.of_rest rfl rfl rfl)

theorem accessed_hubOpenAll (fn ctx va n : Nat) (p : Bool) (h : Accessed s0 s) :
    Accessed s0 (s.hubOpenAll fn ctx va n p).1 := by
  unfold State.hubOpenAll
  generalize List.range ((va % 128 + n + 127) / 128) = l
  suffices H : ∀ a : State × List PageRef, Accessed s0 a.1 → Accessed s0 (l.foldl (fun a i =>
      let r := a.1.hubOpen fn ctx (va / 128 * 128 + 128 * i) p
      (r.1, a.2 ++ r.2)) a).1 from H (s, []) h
  induction l with
  | nil => intro a ha; exact ha
  | cons b t ih => intro a ha; exact ih _ (accessed_hubOpen _ _ _ _ ha)

theorem accessed_wsOpen (fn ctx : Nat) (h : Accessed s0 s) : Accessed s0 (s.wsOpen fn ctx).1 := by
  have k := accessed_hubOpen fn ctx (s.ctxD fn ctx).wshdr.toNat false h
  unfold State.wsOpen
  dsimp only
  split
  · exact h
  · split
    · exact k
    · exact accessed_hubOpenAll _ _ _ _ _ k

theorem accessed_hubStore (fn ctx va n x : Nat) (p : Bool) (h : Accessed s0 s) :
    Accessed s0 (s.hubStore fn ctx va n x p).1 := by
  have k := accessed_hubWalk fn ctx va true p h
  unfold State.hubStore
  generalize s.hubWalk fn ctx va true p = r at k
  obtain ⟨t, pl, pr⟩ := r
  rcases pl with _ | l | ⟨q, pa⟩
  · exact k
  · exact accessed_hubTouch fn l n (accessed_bankWrite l n x k)
  · exact accessed_gotPatch _ _ _ (k.of_rest rfl rfl rfl)

theorem accessed_wsPush (fn ctx : Nat) (e : Word) (h : Accessed s0 s) : Accessed s0 (s.wsPush fn ctx e).1 := by
  have st : ∀ {t : State} a n x, Accessed s0 t → Accessed s0 (t.hubStore fn ctx a n x).1 :=
    fun a n x k => accessed_hubStore fn ctx a n x false k
  unfold State.wsPush
  extract_lets hd n a p q r
  have hq : Accessed s0 q.1 := st _ _ _ (st _ _ _ h)
  clear_value q
  have hr : Accessed s0 r.1 := by
    unfold r
    split
    · exact st _ _ _ hq
    · exact hq
  clear_value r
  exact accessed_ite1 h (accessed_ite1 (st _ _ _ h) (accessed_ite1 h hr))

theorem accessed_wsNotes (fn ctx n : Nat) (ps : List PageRef) (h : Accessed s0 s) : Accessed s0 (s.wsNotes fn ctx n ps) := by
  induction n generalizing s ps with
  | zero => exact h
  | succ n ih =>
    have k : ∀ (l : List PageRef) (a : State × List PageRef), Accessed s0 a.1 →
        Accessed s0 (l.foldl (fun (a : State × List PageRef) p =>
          if a.1.wsWants fn ctx p.sp p.va then
            let q := a.1.wsPush fn ctx (setBits (wsEntry p.size (p.va / p.size * p.size) p.sp) 4 4 (if p.tier = 0 then 1 else 0))
            (q.1, a.2 ++ q.2)
          else a) a).1 := by
      intro l
      induction l with
      | nil => intro a ha; exact ha
      | cons p t ih => intro a ha; exact ih _ (accessed_ite1 (accessed_wsPush _ _ _ ha) ha)
    exact accessed_ite h (ih _ (k _ ((s.wsOpen fn ctx).1, []) (accessed_wsOpen _ _ h)))

theorem accessed_wsRecord (fn ctx sp va size tier : Nat) (h : Accessed s0 s) : Accessed s0 (s.wsRecord fn ctx sp va size tier) :=
  accessed_wsNotes _ _ _ _ h

theorem accessed_tlbFill (v : View) (sp va size : Nat) (l : Word) (h : Accessed s0 s) : Accessed s0 (s.tlbFill v sp va size l) :=
  accessed_icDrop _ (h.of_rest rfl rfl rfl)

theorem accessed_walk (v : View) (sp va : Nat) (h : Accessed s0 s) : Accessed s0 (s.walk v sp va).1 := by
  unfold State.walk
  have h := accessed_noteWalk (s.ctxD v.fn v.ctx) sp va h
  generalize s.noteWalk (s.ctxD v.fn v.ctx) sp va = t at h
  dsimp only
  split
  · exact h
  · exact h
  · rename_i l place size level _
    have k := accessed_own l v.world (framesOf l size) h
    have k1 := accessed_ite (p := leafAcc l = true) k (accessed_bankWrite place 8 (setBits l 8 8 1).toNat k)
    have k2 := fun ds => accessed_touch v.fn v.ctx ds (accessed_mark v.world l (framesOf l size)
      (accessed_ite (p := leafTier l ≤ 1) (accessed_foldl (f := fun t f => t.setBias f (leafBias l))
        (fun _ _ h => accessed_setBias _ _ h) (framesOf l size) _ k1) k1))
    exact accessed_ite1 h (accessed_ite1 h (accessed_ite1 k (accessed_tlbFill _ _ _ _ _
      (accessed_ite (k2 _) (accessed_wsRecord _ _ _ _ _ _ (k2 _))))))

theorem accessed_setDirty (v : View) (sp va : Nat) (h : Accessed s0 s) : Accessed s0 (s.setDirty v sp va) := by
  unfold State.setDirty
  have h := accessed_noteWalk (s.ctxD v.fn v.ctx) sp va h
  dsimp only
  split
  · exact accessed_tlbFill _ _ _ _ _ (accessed_bankWrite _ _ _ h)
  · exact h

theorem accessed_translate (v : View) (sp va kind : Nat) (fetch wr : Bool) (h : Accessed s0 s) :
    Accessed s0 (s.translate v sp va kind fetch wr).1 := by
  unfold State.translate
  extract_lets hit r
  have k : Accessed s0 r.1 := by
    unfold r
    cases hit
    · exact accessed_walk v sp va h
    · exact h
  clear_value r
  split
  · split
    · exact k
    · exact accessed_ite1 k (accessed_ite1 (accessed_setDirty _ _ _ (accessed_touch _ _ _ k)) (accessed_touch _ _ _ k))
  · exact k

theorem accessed_resolve (v : View) (a : Word) (n al kind : Nat) (wr : Bool) (h : Accessed s0 s) :
    Accessed s0 (s.resolve v a n al kind wr).1 := by
  unfold State.resolve
  dsimp only
  refine accessed_ite1 h (accessed_ite1 h (accessed_ite1 h (accessed_ite1 h ?_)))
  split
  · exact h
  · refine accessed_ite1 (accessed_ite1 h h) (accessed_ite1 h ?_)
    have k := accessed_translate v (spaceOf a) (bits a 51 0) kind false wr h
    split
    · exact k
    · exact k
    · have k2 := fun l size => accessed_targetOf (spaceOf a) (bits a 51 0) l size k
      split <;> exact k2 _ _

/-! ### Fetching (R311, R358) -/

theorem accessed_fetchSlot (g : Nat) (pc : Word) (h : Accessed s0 s) : Accessed s0 (s.fetchSlot g pc).1 := by
  unfold State.fetchSlot
  extract_lets v r
  have hr : Accessed s0 r.1 := accessed_translate _ _ _ _ _ _ h
  refine accessed_ite1 h ?_
  split
  · exact hr
  · exact hr
  · extract_lets t
    have ht : Accessed s0 t.1 := accessed_targetOf _ _ _ _ hr
    split
    · exact accessed_icFill _ _ (accessed_ite ht (accessed_chargeAt _ _ _ ht))
    · extract_lets q
      split <;> exact accessed_readP _ _ _ _ _ ht
    · exact ht
    · exact ht

theorem accessed_target (g : Nat) (t : Word) (h : Accessed s0 s) : Accessed s0 (s.target g t).1 := by
  have hr := accessed_fetchSlot g t h
  unfold State.target
  generalize s.fetchSlot g t = r at hr
  refine accessed_ite1 h ?_
  dsimp only
  split
  · exact hr
  · exact accessed_ite1 hr hr

end Sys2Proof.Machine
end

section
/-! SUPPORT. Transfers of control (R32 to R39, R93, R103 to R107): what a target gives, what a group that enters a block
keeps, and where a slot that transfers stands afterwards. -/

namespace Sys2Proof.Machine

variable {s v : State} {f : Form} {sl : Slot} {x y z : Group} {lat : Machine.Lat} {body : State → Group → Effect} {t : Word}
  {w : BitVec 128}

/-! ### Checks 2 to 4 -/

/-- A slot that decodes has an assigned SUB and its D is accepted. -/
theorem decodeTrap_none {g ns : Nat} {tm : Bool} (h : decodeTrap f g ns tm sl = none) :
    f.sub = true ∧ opndReason f g ns tm f.d sl.d = none := by
  unfold decodeTrap at h
  split at h
  · cases h
  · rename_i hs
    refine ⟨by simpa using hs, ?_⟩
    split at h
    · cases h
    · split at h
      · cases h
      · split at h
        · cases h
        · rename_i h4
          unfold check4 at h4
          split at h4
          · cases h4
          · assumption

/-- A register that a destination of scalar registers names is one of the two scalar files. -/
def RegRef.scalar (r : RegRef) : Prop := (∃ n, r = .s n) ∨ ∃ n, r = .hs n

theorem scalar_sPlace (tm : Bool) (n : Nat) : (sPlace tm n).scalar := by
  unfold sPlace
  split
  · exact .inr ⟨_, rfl⟩
  · exact .inl ⟨_, rfl⟩

/-- A destination that must be a scalar register or zero is of the class scalar or zero. -/
theorem kindOf_of_oSd {g ns : Nat} {tm : Bool} {code : BitVec 10} (h : opndReason f g ns tm oSd code = none) :
    kindOf code = some .s ∨ kindOf code = some .zero := by
  change dstReason f g ns tm [.s, .zero] 1 code = none at h
  unfold dstReason at h
  cases hk : kindOf code with
  | none => rw [hk] at h; cases h
  | some k =>
    rw [hk] at h
    cases k <;> simp at h ⊢
    case imm | rep => split at h <;> cases h

theorem dstRef_of_oSd {g ns : Nat} {tm tm' : Bool} {code : BitVec 10} (h : opndReason f g ns tm oSd code = none) {r : RegRef}
    (hr : dstRef tm' code 0 = some r) : r.scalar := by
  unfold dstRef kindD at hr
  rcases kindOf_of_oSd h with hk | hk
  · rw [hk] at hr
    cases hr
    exact scalar_sPlace _ _
  · rw [hk] at hr
    cases hr

/-! ### The target (R33, R103) -/

theorem target_misaligned (s : State) (g : Nat) (h : t.toNat % 16 ≠ 0) :
    s.target g t = (s, .error ({ cause := 3, addr := t }, none)) := by
  rw [State.target, if_pos h]

/-- The three fields of a header that make it trap (R93). -/
theorem badHeader_iff (w : BitVec 128) :
    badHeader w = true ↔ w.extractLsb' 8 10 = 0 ∨ 64 < (w.extractLsb' 52 7).toNat ∨ w.getLsbD 63 = true := by
  simp only [badHeader, Bool.or_eq_true, decide_eq_true_eq, or_assoc]

theorem enterHdr_good (s : State) (g : Nat) (t : Word) (h : badHeader w = false) :
    s.enterHdr g t w = (s.updGrp g fun y => y.enter t w, none) := by
  rw [State.enterHdr, h]
  rfl

theorem enterHdr_bad (s : State) (g : Nat) (t : Word) (h : badHeader w = true) :
    (s.enterHdr g t w).2 = some { cause := 1, info := decInfo 5 0 } := by
  rw [State.enterHdr, h]
  rfl

/-! ### Transfers (R103) -/

theorem jumpTo_misaligned (s : State) (g : Nat) (pre : State → State) (h : t.toNat % 16 ≠ 0) :
    s.jumpTo g t pre = .trap s { cause := 3, addr := t } none := by
  rw [State.jumpTo, target_misaligned s g h]

theorem jumpTo_badHeader {g : Nat} (pre : State → State) (ht : (s.target g t).2 = .ok w) (h : badHeader w = true) :
    s.jumpTo g t pre = .trap (s.target g t).1 { cause := 1, info := decInfo 5 0 } (some t) := by
  unfold State.jumpTo
  dsimp only
  rw [ht]
  dsimp only
  rw [enterHdr_bad _ _ _ h]

theorem jumpTo_header {g : Nat} (pre : State → State) (ht : (s.target g t).2 = .ok w) (h : badHeader w = false) :
    s.jumpTo g t pre = .jump ((pre (s.target g t).1).updGrp g fun y => y.enter t w) := by
  unfold State.jumpTo
  dsimp only
  rw [ht]
  dsimp only
  rw [enterHdr_good _ _ _ h]

/-! ### The slot of a transfer retires -/

/-- `y` is `z` but for the producers it watches, its YIELD, its STALL and its budget: what the time of a slot changes. -/
def Group.Timed (y z : Group) : Prop :=
  { y with producers := z.producers, yielded := z.yielded, stall := z.stall, budget := z.budget } = z

/-- A taken transfer leaves its group as it is, but for its time. -/
theorem grp?_retireAt {g : Nat} (h : s.grp? g = some z) (sl : Slot) : ∃ y, (s.retireAt g sl).grp? g = some y ∧ y.Timed z := by
  have h1 : (s.updGrp g fun x =>
      { x.addDist (1 + sl.stall.toNat) with yielded := decide (sl.yld = 1), stall := 1 + sl.stall.toNat }).grp? g
      = some { z.addDist (1 + sl.stall.toNat) with yielded := decide (sl.yld = 1), stall := 1 + sl.stall.toNat } := by
    simp [grp?_updGrp, h]
  obtain ⟨y, hy, hk⟩ := grp?_passCycles_of h1 (s.grpD g).core 1
  refine ⟨y, ?_, ?_⟩
  · rw [State.retireAt, h]
    exact hy
  · injection hk
    simp_all [Group.Timed, Group.addDist]

@[simp] theorem retireAt_mem (s : State) (g : Nat) (sl : Slot) : (s.retireAt g sl).mem = s.mem := by
  unfold State.retireAt
  dsimp only
  split <;> simp

@[simp] theorem retireAt_banks (s : State) (g : Nat) (sl : Slot) : (s.retireAt g sl).banks = s.banks := by
  unfold State.retireAt
  dsimp only
  split <;> simp

/-! ### Scalar registers -/

/-- What a scalar register reads depends on the registers of its group and on its trap bank only. -/
theorem readS_congr {u : State} (hb : u.banks = s.banks) (hs : y.sregs = x.sregs) (hk : y.bankKey = x.bankKey) {r : RegRef}
    (hr : r.scalar) : u.readS y r = s.readS x r := by
  obtain ⟨n, rfl⟩ | ⟨n, rfl⟩ := hr
  · simp only [State.readS, hs]
  · simp only [State.readS, State.bankD, hb, hk]

/-- What of a group the entry of a block depends on: its masks, FMT, its mask stack and its mode. -/
structure Group.SameCourse (y x : Group) : Prop where
  live : y.live = x.live
  act : y.act = x.act
  fmt : y.fmt = x.fmt
  mstk : y.mstk = x.mstk
  trapMode : y.trapMode = x.trapMode

/-- A scalar register reads what is written, and the course of its group is as it was. -/
theorem writeS_scalar {g : Nat} (hg : s.grp? g = some x) {r : RegRef} (hr : r.scalar) (a : Word) :
    ∃ y, (s.writeS g r a).grp? g = some y ∧ y.SameCourse x ∧ (s.writeS g r a).readS y r = a := by
  obtain ⟨n, rfl⟩ | ⟨n, rfl⟩ := hr
  · refine ⟨{ x with sregs := tset 0 x.sregs n a }, ?_, ⟨rfl, rfl, rfl, rfl, rfl⟩, tval_tset_self _ _ _ _⟩
    simp only [State.writeS, hg]
    exact tget_tput_self _ _ _
  · refine ⟨x, ?_, ⟨rfl, rfl, rfl, rfl, rfl⟩, ?_⟩
    · simp only [State.writeS, hg]
      exact hg
    · simp only [State.writeS, hg, State.readS, State.bankD, State.setBank, tget_tput_self, Option.getD_some, tval_tset_self]

/-! ### Entering a block (R38) -/

theorem popEntries_eq (t : Word) (m : List MEntry) :
    popEntries t m = ((poppedBy t m).getLast?, m.dropWhile fun e => decide (e.rcv = some t)) := by
  induction m with
  | nil => rfl
  | cons e m ih =>
    unfold popEntries poppedBy
    by_cases h : e.rcv = some t
    · simp [h, ih, poppedBy, List.getLast?_cons]
    · simp [h]

/-- Entering a block keeps the live lanes and the scalar registers, and sets the slot, KC and the block. -/
theorem enter_course (x : Group) (t : Word) (w : BitVec 128) :
    (x.enter t w).pc = t + 16 ∧ (x.enter t w).kc = w.extractLsb' 64 64 ∧ (x.enter t w).block = Block.ofWord t w
      ∧ (x.enter t w).live = x.live ∧ (x.enter t w).sregs = x.sregs ∧ (x.enter t w).bankKey = x.bankKey := by
  unfold Group.enter
  dsimp only
  split
  · exact ⟨rfl, rfl, rfl, rfl, rfl, rfl⟩
  · split <;> exact ⟨rfl, rfl, rfl, rfl, rfl, rfl⟩

/-- In trap mode nothing is popped. -/
theorem enter_trapMode (h : x.trapMode = true) (t : Word) (w : BitVec 128) :
    (x.enter t w).mstk = x.mstk ∧ (x.enter t w).act = x.act ∧ (x.enter t w).fmt = x.fmt := by
  unfold Group.enter
  simp only [h, if_true, and_self]

/-- Outside trap mode the entries of the header go, and the last of them gives ACT and FMT. -/
theorem enter_pops (h : x.trapMode = false) (t : Word) (w : BitVec 128) :
    ((x.enter t w).mstk = x.mstk.dropWhile fun e => decide (e.rcv = some t))
      ∧ match (poppedBy t x.mstk).getLast? with
        | some e => (x.enter t w).act = e.saved &&& x.live ∧ (x.enter t w).fmt = e.fmt
        | none => (x.enter t w).act = x.act ∧ (x.enter t w).fmt = x.fmt := by
  unfold Group.enter
  simp only [h, Bool.false_eq_true, if_false, popEntries_eq]
  cases hp : (poppedBy t x.mstk).getLast? with
  | some e => exact ⟨rfl, rfl, rfl⟩
  | none =>
    refine ⟨?_, rfl, rfl⟩
    rw [List.getLast?_eq_none_iff, poppedBy] at hp
    exact (List.takeWhile_append_dropWhile (p := fun e : MEntry => decide (e.rcv = some t)) (l := x.mstk)).symm.trans
      (by rw [hp]; rfl)

/-- A group `z` of the course of `x` has entered the block at `t`, and time has passed since. -/
theorem entered_of {u : State} {link : Option (RegRef × Word)} (hu : u.grp? s.cur = some y) (hy : y.Timed (z.enter t w))
    (hz : z.SameCourse x) (hl : ∀ r a, link = some (r, a) → u.readS y r = a) : entered s u x t w link := by
  obtain ⟨hpc, hkc, hblk, hlive, -, -⟩ := enter_course z t w
  have keep : ∀ {α} (p : Group → α) (a : α), p (z.enter t w) = a →
      p { y with producers := (z.enter t w).producers, yielded := (z.enter t w).yielded, stall := (z.enter t w).stall
                 budget := (z.enter t w).budget } = a := fun p a e => (congrArg p hy).trans e
  refine ⟨y, hu, keep _ _ hpc, keep _ _ hkc, keep (·.block.hdr) _ (by rw [hblk]; rfl),
    keep (·.block.len) _ (by rw [hblk]; rfl), keep (·.block.rcv) _ (by rw [hblk]; rfl), (keep _ _ hlive).trans hz.live,
    fun h => ?_, fun h => ?_, fun h => ?_, hl⟩
  · obtain ⟨h1, h2, h3⟩ := enter_trapMode (hz.trapMode.trans h) t w
    exact ⟨(keep _ _ h1).trans hz.mstk, (keep _ _ h2).trans hz.act, (keep _ _ h3).trans hz.fmt⟩
  · rw [← hz.mstk]
    exact keep _ _ (enter_pops (hz.trapMode.trans h) t w).1
  · have h2 := (enter_pops (hz.trapMode.trans h) t w).2
    rw [hz.mstk, hz.live, hz.act, hz.fmt] at h2
    cases hp : (poppedBy t x.mstk).getLast? with
    | some e =>
      rw [hp] at h2
      exact ⟨keep _ _ h2.1, keep _ _ h2.2⟩
    | none =>
      rw [hp] at h2
      exact ⟨keep _ _ h2.1, keep _ _ h2.2⟩

/-! ### The three ways of a transfer (R93, R103) -/

/-- What a transfer does before it enters its block keeps the course of its group, and `link` reads its value then. -/
def Links (s : State) (x : Group) (sl : Slot) (pre : State → State) (link : Option (RegRef × Word)) : Prop :=
  ∀ v : State, v.cur = s.cur → v.grp? s.cur = some (x.cover sl) →
    ∃ z, (pre v).grp? s.cur = some z ∧ z.SameCourse x ∧ ∀ r a, link = some (r, a) → r.scalar ∧ (pre v).readS z r = a

theorem links_id (s : State) (x : Group) (sl : Slot) : Links s x sl id none :=
  fun _ _ hg => ⟨_, hg, ⟨rfl, rfl, rfl, rfl, rfl⟩, fun _ _ h => nomatch h⟩

/-- A scalar destination is linked. -/
theorem links_scaOut {g ns : Nat} {tm : Bool} (hd : opndReason f g ns tm oSd sl.d = none) (a : Word) :
    Links s x sl (fun t => t.link t.cur (scaOut x.trapMode sl.d 0 a)) ((dstRef x.trapMode sl.d 0).map fun r => (r, a)) := by
  intro v hc hg
  dsimp only
  rw [hc]
  unfold State.link scaOut State.writeNow
  cases hr : dstRef x.trapMode sl.d 0 with
  | none =>
    exact ⟨(x.cover sl).watch (some 2) false 0 [], by simp [grp?_updGrp, hg], ⟨rfl, rfl, rfl, rfl, rfl⟩,
      fun _ _ h => nomatch h⟩
  | some r =>
    have hs := dstRef_of_oSd hd hr
    obtain ⟨z, hz, hk, ha⟩ := writeS_scalar hg hs a
    refine ⟨z.watch (some 2) false 0 [r], by simp [grp?_updGrp, State.doWrite, RegWrite.ref, hz], ?_, ?_⟩
    · exact ⟨hk.live, hk.act, hk.fmt, hk.mstk, hk.trapMode⟩
    · intro q b h
      cases h
      exact ⟨hs, (readS_congr (updGrp_banks _ _ _) rfl rfl hs).trans ha⟩

/-- A transfer to a header enters its block. -/
theorem transfer_enters (h : Issues s f sl x) {pre : State → State} {link : Option (RegRef × Word)}
    (hb : body (s.atIssue sl) (x.cover sl) = (s.atIssue sl).jumpTo (s.atIssue sl).cur t pre)
    (ht : ((s.atIssue sl).target s.cur t).2 = .ok w ∧ badHeader w = false) (hl : Links s x sl pre link) :
    ∃ u, runSlot f lat sl body s = .next u ∧ entered s u x t w link := by
  have hv := accessed_target s.cur t (.refl (s.atIssue sl))
  obtain ⟨z, hz, hc, hr⟩ := hl _ (hv.cur.trans (cur_atIssue h.group)) ((hv.grp? _).trans (grp?_atIssue h.group))
  have he : ((pre ((s.atIssue sl).target s.cur t).1).updGrp s.cur fun y => y.enter t w).grp? s.cur = some (z.enter t w) := by
    simp [grp?_updGrp, hz]
  obtain ⟨y, hy, hyt⟩ := grp?_retireAt he sl
  obtain ⟨-, -, -, -, hsr, hbk⟩ := enter_course z t w
  rw [runSlot_of h, hb, cur_atIssue h.group, jumpTo_header pre ht.1 ht.2]
  refine ⟨_, rfl, entered_of hy hyt hc fun r a e => ?_⟩
  obtain ⟨hs, ha⟩ := hr r a e
  rw [← ha]
  exact readS_congr ((retireAt_banks _ _ _).trans (updGrp_banks _ _ _))
    ((congrArg Group.sregs hyt).trans hsr) ((congrArg Group.bankKey hyt).trans hbk) hs

/-- A transfer to a header that traps on entry traps there, with no effect before. -/
theorem transfer_refused (h : Issues s f sl x) {pre : State → State}
    (hb : body (s.atIssue sl) (x.cover sl) = (s.atIssue sl).jumpTo (s.atIssue sl).cur t pre)
    (ht : ((s.atIssue sl).target s.cur t).2 = .ok w)
    (hh : w.extractLsb' 8 10 = 0 ∨ 64 < (w.extractLsb' 52 7).toNat ∨ w.getLsbD 63 = true) :
    runSlot f lat sl body s = .next (((s.atIssue sl).target s.cur t).1.raise s.cur
      { cause := 1, info := BitVec.ofNat 64 (5 * 2 ^ 32) } t) := by
  rw [runSlot_of h, hb, cur_atIssue h.group, jumpTo_badHeader pre ht ((badHeader_iff w).2 hh), decInfo_zero]
  rfl

/-- A transfer to no multiple of 16 traps at its slot. -/
theorem transfer_misaligned (h : Issues s f sl x) {pre : State → State}
    (hb : body (s.atIssue sl) (x.cover sl) = (s.atIssue sl).jumpTo (s.atIssue sl).cur t pre) (ht : t.toNat % 16 ≠ 0) :
    runSlot f lat sl body s = traps s sl x { cause := 3, addr := t } :=
  runSlot_traps h (hb.trans (jumpTo_misaligned _ _ _ ht))

/-! ### The branches, calls and loops, as transfers (R104 to R107) -/

/-- CALL and CALLX in the last slot of their block. -/
theorem callTo_last (hl : x.pc = x.block.hdr + BitVec.ofNat 64 (16 * x.block.len)) (s : State) :
    callTo sl t s x = s.jumpTo s.cur t fun u => u.link u.cur (scaOut x.trapMode sl.d 0 (x.pc + 16)) := by
  unfold callTo Group.lastSlot
  simp only [decide_eq_true hl, not_true_eq_false, if_false]

theorem callTo_notLast (hl : x.pc ≠ x.block.hdr + BitVec.ofNat 64 (16 * x.block.len)) (s : State) :
    callTo sl t s x = .trap s { cause := 1, info := BitVec.ofNat 64 (7 * 2 ^ 32) } none := by
  unfold callTo Group.lastSlot
  simp only [decide_eq_false hl, Bool.false_eq_true, not_false_eq_true, if_true, illegal_eq]

/-- LOOP whose counter does not become 0, and LOOP whose counter does. -/
theorem loopBody_again (s : State) (hn : s.ssrc x sl sl.d - 1 ≠ 0) :
    loopBody sl s x = s.jumpTo s.cur (slotTarget x sl) fun t =>
      t.link t.cur (scaOut x.trapMode sl.d 0 (s.ssrc x sl sl.d - 1)) := by
  unfold loopBody
  exact if_neg hn

theorem loopBody_over (s : State) (hn : s.ssrc x sl sl.d - 1 = 0) :
    loopBody sl s x = .done s (scaOut x.trapMode sl.d 0 (s.ssrc x sl sl.d - 1)) := by
  unfold loopBody
  exact if_pos hn

/-- With SUB 0 or 1, a branch on a predicate is taken when its condition holds exactly for SUB 0. -/
theorem branchTaken_iff (hs : subN sl ≤ 1) (p : Prop) [Decidable p] :
    (decide p != decide (sl.sub = 1)) = true ↔ (p ↔ sl.sub = 0) := by
  have h01 : sl.sub = 0 ∨ sl.sub = 1 := by
    rcases Nat.le_one_iff_eq_zero_or_eq_one.1 hs with h | h
    · exact .inl (BitVec.eq_of_toNat_eq h)
    · exact .inr (BitVec.eq_of_toNat_eq h)
  by_cases hp : p <;> rcases h01 with h | h <;> simp [hp, h]

theorem branyBody_taken (s : State) (hs : subN sl ≤ 1) (ht : (x.predOf sl.a &&& x.act ≠ 0) ↔ sl.sub = 0) :
    branyBody sl s x = s.jumpTo s.cur (slotTarget x sl) id := if_pos ((branchTaken_iff hs _).2 ht)

theorem branyBody_not (s : State) (hs : subN sl ≤ 1) (ht : ¬ ((x.predOf sl.a &&& x.act ≠ 0) ↔ sl.sub = 0)) :
    branyBody sl s x = .done s [] := if_neg (mt (branchTaken_iff hs _).1 ht)

theorem brallBody_taken (s : State) (hs : subN sl ≤ 1) (ht : (x.predOf sl.a &&& x.act = x.act) ↔ sl.sub = 0) :
    brallBody sl s x = s.jumpTo s.cur (slotTarget x sl) id := if_pos ((branchTaken_iff hs _).2 ht)

theorem brallBody_not (s : State) (hs : subN sl ≤ 1) (ht : ¬ ((x.predOf sl.a &&& x.act = x.act) ↔ sl.sub = 0)) :
    brallBody sl s x = .done s [] := if_neg (mt (branchTaken_iff hs _).1 ht)

/-- A branch on a predicate that issues has SUB 0 or 1. -/
theorem subN_of_fBrp (h : Issues s (fBrp sl) sl x) : subN sl ≤ 1 := of_decide_eq_true (decodeTrap_none h.decodes).1

/-- The target register of BRX and CALLX as the body reads it. -/
theorem brxBody_atIssue (hg : s.grp? s.cur = some x) : brxBody sl (s.atIssue sl) (x.cover sl)
    = (s.atIssue sl).jumpTo (s.atIssue sl).cur (s.ssrc x sl sl.a) id := by
  rw [brxBody, ssrc_atIssue hg]

theorem callxBody_atIssue (hg : s.grp? s.cur = some x) : callxBody sl (s.atIssue sl) (x.cover sl)
    = callTo sl (s.ssrc x sl sl.a) (s.atIssue sl) (x.cover sl) := by
  rw [callxBody, ssrc_atIssue hg]

end Sys2Proof.Machine

open Sys2Proof Sys2Proof.Machine in
/-- A header that may be entered is entered. -/
theorem transfersEnter_hold : transfersEnter := by
  intro s x sl w near far reachable goes p back last n
  refine ⟨fun h hr => ?bra, fun h hr => ?brx, fun h hl hr => ?call, fun h hl hr => ?callx,
    fun h => ⟨fun hn hr => ?again, fun hn => ?done⟩,
    fun h => ⟨fun ht hr => ?any, fun ht => ?anyNot, fun ht hr => ?all, fun ht => ?allNot⟩⟩
  case bra => exact transfer_enters h (body := braBody sl) rfl hr (links_id s x sl)
  case brx => exact transfer_enters h (brxBody_atIssue h.group) hr (links_id s x sl)
  case call =>
    exact transfer_enters h (body := callBody sl) (callTo_last (x := x.cover sl) hl _) hr
      (links_scaOut (decodeTrap_none h.decodes).2 _)
  case callx =>
    exact transfer_enters h ((callxBody_atIssue h.group).trans (callTo_last (x := x.cover sl) hl _)) hr
      (links_scaOut (decodeTrap_none h.decodes).2 _)
  case again =>
    have e := ssrc_atIssue (sl := sl) h.group sl.d
    exact transfer_enters h (body := loopBody sl) ((loopBody_again _ (by rw [e]; exact hn)).trans (by rw [e]; rfl)) hr
      (links_scaOut (decodeTrap_none h.decodes).2 _)
  case done =>
    have e := ssrc_atIssue (sl := sl) h.group sl.d
    change s.ssrc x sl sl.d - 1 = 0 at hn
    exact runSlot_writes h (body := loopBody sl) ((loopBody_over _ (by rw [e, hn])).trans (by rw [e, hn]; rfl))
  case any => exact transfer_enters h (branyBody_taken (x := x.cover sl) _ (subN_of_fBrp h) ht) hr (links_id s x sl)
  case anyNot => exact runSlot_writes h (branyBody_not (x := x.cover sl) _ (subN_of_fBrp h) ht)
  case all => exact transfer_enters h (brallBody_taken (x := x.cover sl) _ (subN_of_fBrp h) ht) hr (links_id s x sl)
  case allNot => exact runSlot_writes h (brallBody_not (x := x.cover sl) _ (subN_of_fBrp h) ht)

open Sys2Proof Sys2Proof.Machine in
/-- A header that traps on entry traps with TRAPPC there. -/
theorem badHeadersTrap_hold : badHeadersTrap := by
  intro s x sl w near far at_ refused traps5 last p
  refine ⟨fun h hr => ?bra, fun h hr => ?brx, fun h hl hr => ?call, fun h hl hr => ?callx, fun h hn hr => ?loop,
    fun h hr => ⟨fun ht => ?any, fun ht => ?all⟩⟩
  case bra => exact transfer_refused h (body := braBody sl) rfl hr.1 hr.2
  case brx => exact transfer_refused h (brxBody_atIssue h.group) hr.1 hr.2
  case call => exact transfer_refused h (body := callBody sl) (callTo_last (x := x.cover sl) hl _) hr.1 hr.2
  case callx =>
    exact transfer_refused h ((callxBody_atIssue h.group).trans (callTo_last (x := x.cover sl) hl _)) hr.1 hr.2
  case loop =>
    exact transfer_refused h (body := loopBody sl)
      (loopBody_again _ (by rw [ssrc_atIssue h.group]; exact sub_ne_zero_of_ne hn)) hr.1 hr.2
  case any => exact transfer_refused h (branyBody_taken (x := x.cover sl) _ (subN_of_fBrp h) ht) hr.1 hr.2
  case all => exact transfer_refused h (brallBody_taken (x := x.cover sl) _ (subN_of_fBrp h) ht) hr.1 hr.2

open Sys2Proof Sys2Proof.Machine in
/-- A misaligned target and a misplaced call trap at their slot. -/
theorem badTransfersTrap_hold : badTransfersTrap := by
  intro s x sl near far bad p
  refine ⟨fun h hr => ?bra, fun h hr => ?brx, fun h hl => ?call, fun h => ⟨fun hl => ?callx, fun hl hr => ?callxFar⟩,
    fun h hn hr => ?loop, fun h hr => ⟨fun ht => ?any, fun ht => ?all⟩⟩
  case bra => exact transfer_misaligned h (body := braBody sl) rfl hr
  case brx => exact transfer_misaligned h (brxBody_atIssue h.group) hr
  case call => exact runSlot_traps h (body := callBody sl) (callTo_notLast (x := x.cover sl) hl _)
  case callx => exact runSlot_traps h ((callxBody_atIssue h.group).trans (callTo_notLast (x := x.cover sl) hl _))
  case callxFar =>
    exact transfer_misaligned h ((callxBody_atIssue h.group).trans (callTo_last (x := x.cover sl) hl _)) hr
  case loop =>
    exact transfer_misaligned h (body := loopBody sl)
      (loopBody_again _ (by rw [ssrc_atIssue h.group]; exact sub_ne_zero_of_ne hn)) hr
  case any => exact transfer_misaligned h (branyBody_taken (x := x.cover sl) _ (subN_of_fBrp h) ht) hr
  case all => exact transfer_misaligned h (brallBody_taken (x := x.cover sl) _ (subN_of_fBrp h) ht) hr

open Sys2Proof Sys2Proof.Machine in
/-- Settles O15: every transfer is `State.jumpTo`, which enters a header, traps at it, or traps at its slot. -/
theorem transfersOfControl : Obligations.TRANSFERS_OF_CONTROL :=
  ⟨transfersEnter_hold, badTransfersTrap_hold, badHeadersTrap_hold⟩
end

section
/-! SUPPORT and O40. Returns from a trap (R256): what leaving trap mode frees, and where the group resumes. -/

namespace Sys2Proof.Machine

variable {s u : State} {f : Form} {sl : Slot} {x y z : Group} {t pc : Word} {w : BitVec 128}

/-! ### Leaving trap mode -/

/-- A group that has left trap mode for the slot at `pc`. -/
def Group.left (x : Group) (pc : Word) : Group :=
  { x.settle with
    trapMode := false, inPreempt := false, snap := none, kc := x.savedKc, block := x.savedBlock, pc := pc
    budget := if x.preempt then x.budget else 0, budgetOn := x.preempt && x.budgetOn }

theorem freeBank_groups (s : State) (g : Nat) : (s.freeBank g).groups = s.groups := by
  unfold State.freeBank
  dsimp only
  split <;> rfl

theorem freeBank_mem (s : State) (g : Nat) : (s.freeBank g).mem = s.mem := by
  unfold State.freeBank
  dsimp only
  split <;> rfl

theorem freeBank_wants (s : State) (g : Nat) : (s.freeBank g).wants = s.wants := by
  unfold State.freeBank
  dsimp only
  split <;> rfl

/-- A group does not own its bank once it has freed it. -/
theorem freeBank_owner {g : Nat} (h : s.grp? g = some x) : ((s.freeBank g).bankD x.bankKey).owner ≠ some g := by
  unfold State.freeBank
  rw [grpD_of _ h]
  dsimp only
  split
  · simp [State.bankD, State.setBank]
  · assumption

theorem grp?_leaveTrap {g : Nat} (h : s.grp? g = some x) (pc : Word) : (s.leaveTrap g pc).grp? g = some (x.left pc) := by
  have h1 : (s.freeBank g).grp? g = some x := (congrArg (tget · g) (freeBank_groups s g)).trans h
  simp only [State.leaveTrap, grp?_updGrp, h1, if_true, Option.map_some]
  rfl

theorem leaveTrap_mem (s : State) (g : Nat) (pc : Word) : (s.leaveTrap g pc).mem = s.mem :=
  (updGrp_mem _ _ _).trans (freeBank_mem s g)

theorem leaveTrap_wants (s : State) (g : Nat) (pc : Word) : (s.leaveTrap g pc).wants = s.wants :=
  (updGrp_wants _ _ _).trans (freeBank_wants s g)

theorem leaveTrap_owner {g : Nat} (h : s.grp? g = some x) (pc : Word) :
    ((s.leaveTrap g pc).bankD x.bankKey).owner ≠ some g := by
  have e : (s.leaveTrap g pc).bankD x.bankKey = (s.freeBank g).bankD x.bankKey := by
    unfold State.bankD
    rw [State.leaveTrap, updGrp_banks]
  rw [e]
  exact freeBank_owner h

/-! ### Where the group resumes -/

/-- A group that resumes in its block at a slot that is no header, or that cannot be fetched, stands there. -/
theorem resumed_atSlot {g : Nat} (hg : s.grp? g = some x) (hb : x.inBlock = true) (hp : x.preempt = false)
    (hw : (s.fetchSlot g x.pc).1.wants = s.wants)
    (hs : ∀ w, (s.fetchSlot g x.pc).2 = .ok w → w.extractLsb' 0 8 ≠ 0) : s.resumed g = s := by
  have h : s.atHeader g = (s, none) := by
    unfold State.atHeader
    rw [grpD_of _ hg]
    dsimp only
    cases hr : (s.fetchSlot g x.pc).2 with
    | error e => rfl
    | ok w =>
      dsimp only
      rw [if_neg (not_not.2 hw), isHeader, if_neg (by simpa using hs w hr)]
  simp only [State.resumed, grpD_of _ hg, hb, hp, h, if_true, Bool.false_eq_true, if_false]

/-- A group that resumes in its block at a header enters that header's block. -/
theorem resumed_atHeader {g : Nat} (hg : s.grp? g = some x) (hb : x.inBlock = true) (hp : x.preempt = false)
    (hw : (s.fetchSlot g x.pc).1.wants = s.wants) (hr : (s.fetchSlot g x.pc).2 = .ok w) (h0 : w.extractLsb' 0 8 = 0)
    (hh : badHeader w = false) : s.resumed g = (s.fetchSlot g x.pc).1.updGrp g fun y => y.enter x.pc w := by
  have h : s.atHeader g = ((s.fetchSlot g x.pc).1.updGrp g fun y => y.enter x.pc w, none) := by
    unfold State.atHeader
    rw [grpD_of _ hg]
    dsimp only
    rw [hr]
    dsimp only
    rw [if_neg (not_not.2 hw), isHeader, if_pos (by simpa using h0), enterHdr_good _ _ _ hh]
    rfl
  simp only [State.resumed, grpD_of _ hg, hb, hp, h, if_true, Bool.false_eq_true, if_false]

/-- A group that resumes outside its block enters the block at its slot. -/
theorem resumed_outside {g : Nat} (hg : s.grp? g = some x) (hb : x.inBlock = false) (hp : x.preempt = false)
    (hr : (s.target g x.pc).2 = .ok w) (hh : badHeader w = false) :
    s.resumed g = (s.target g x.pc).1.updGrp g fun y => y.enter x.pc w := by
  have h : s.arrive g = ((s.target g x.pc).1.updGrp g fun y => y.enter x.pc w, none) := by
    unfold State.arrive
    rw [grpD_of _ hg]
    dsimp only
    rw [hb, hr]
    dsimp only
    rw [enterHdr_good _ _ _ hh]
    rfl
  simp only [State.resumed, grpD_of _ hg, hb, hp, h, Bool.false_eq_true, if_false]

/-- In an empty block no slot stands. -/
theorem inBlock_empty (x : Group) : { x with block := {} }.inBlock = false := by
  unfold Group.inBlock
  simp only [Bool.and_eq_false_iff, decide_eq_false_iff_not]
  omega

/-! ### The three forms of RTT -/

/-- A slot whose effect is a jump to a group that enters the block at `t` stands there. -/
theorem jump_entered {lat : Machine.Lat} {body : State → Group → Effect} (h : Issues s f sl x)
    (hb : body (s.atIssue sl) (x.cover sl) = .jump (u.updGrp s.cur fun y => y.enter t w)) (hu : u.grp? s.cur = some z)
    (hz : z.SameCourse y) : ∃ v, runSlot f lat sl body s = .next v ∧ entered s v y t w none := by
  have he : (u.updGrp s.cur fun y => y.enter t w).grp? s.cur = some (z.enter t w) := by simp [grp?_updGrp, hu]
  obtain ⟨y', hy, hyt⟩ := grp?_retireAt he sl
  rw [runSlot_of h, hb]
  exact ⟨_, rfl, entered_of hy hyt hz fun _ _ e => nomatch e⟩

theorem rttBody_outside (s : State) (next : Word) (ht : x.trapMode = false) :
    rttBody next s x = .trap s { cause := 19, info := BitVec.ofNat 64 (0x31 * 2 ^ 32) } none := by
  rw [rttBody, ht]
  rfl

theorem rttBody_inside (s : State) (next : Word) (ht : x.trapMode = true) :
    rttBody next s x = .jump ((s.leaveTrap s.cur (x.trapPc + next)).resumed s.cur) := by
  rw [rttBody, ht]
  rfl

theorem rttToBody_outside (s : State) (ht : x.trapMode = false) :
    rttToBody sl s x = .trap s { cause := 19, info := BitVec.ofNat 64 (0x31 * 2 ^ 32) } none := by
  rw [rttToBody, ht]
  rfl

theorem rttToBody_misaligned (s : State) (ht : x.trapMode = true) (h : (s.ssrc x sl sl.a).toNat % 16 ≠ 0) :
    rttToBody sl s x = .trap s { cause := 3, addr := s.ssrc x sl sl.a } none := by
  rw [rttToBody, ht]
  dsimp only
  rw [target_misaligned s _ h]
  rfl

theorem rttToBody_header (s : State) (ht : x.trapMode = true) (h : (s.target s.cur (s.ssrc x sl sl.a)).2 = .ok w) :
    rttToBody sl s x = .jump ((((s.target s.cur (s.ssrc x sl sl.a)).1.leaveTrap s.cur (s.ssrc x sl sl.a)).updGrp s.cur
      fun y => { y with block := {} }).resumed s.cur) := by
  rw [rttToBody, ht]
  dsimp only
  rw [h]
  rfl

/-- RTT and RTT.next to a slot inside the saved block that is no header: the group stands there as it was interrupted, and
its trap bank is free. -/
theorem rttBody_back {lat : Machine.Lat} {next : Word} (h : Issues s f sl x) (ht : x.trapMode = true)
    (hp : x.preempt = false) (pc : Word) (e : pc = x.trapPc + next)
    (hin : { x with pc := pc, block := x.savedBlock }.inBlock = true)
    (hw : (((s.atIssue sl).leaveTrap s.cur pc).fetchSlot s.cur pc).1.wants = (s.atIssue sl).wants)
    (hs : ∀ w, (((s.atIssue sl).leaveTrap s.cur pc).fetchSlot s.cur pc).2 = .ok w → w.extractLsb' 0 8 ≠ 0) :
    ∃ t y, runSlot f lat sl (rttBody next) s = .next t ∧ t.grp? s.cur = some y ∧ y.Timed ((x.cover sl).left pc)
      ∧ t.mem = s.mem ∧ (t.bankD x.bankKey).owner ≠ some s.cur := by
  have hg := grp?_leaveTrap (grp?_atIssue (sl := sl) h.group) pc
  have hr := resumed_atSlot hg hin hp (hw.trans (leaveTrap_wants _ _ _).symm) hs
  obtain ⟨y, hy, hyt⟩ := grp?_retireAt hg sl
  rw [runSlot_of h, rttBody_inside (x := x.cover sl) _ _ ht, cur_atIssue h.group,
    ← show pc = (x.cover sl).trapPc + next from e, hr]
  refine ⟨_, y, rfl, hy, hyt, ?_, ?_⟩
  · exact (retireAt_mem _ _ _).trans ((leaveTrap_mem _ _ _).trans (updGrp_mem _ _ _))
  · have hb : (((s.atIssue sl).leaveTrap s.cur pc).retireAt s.cur sl).bankD x.bankKey
        = ((s.atIssue sl).leaveTrap s.cur pc).bankD x.bankKey := by
      unfold State.bankD
      rw [retireAt_banks]
    exact hb ▸ leaveTrap_owner (grp?_atIssue h.group) pc

/-- RTT and RTT.next to a header inside the saved block. -/
theorem rttBody_enters {lat : Machine.Lat} {next : Word} (h : Issues s f sl x) (ht : x.trapMode = true)
    (hp : x.preempt = false) (pc : Word) (e : pc = x.trapPc + next)
    (hin : { x with pc := pc, block := x.savedBlock }.inBlock = true)
    (hw : (((s.atIssue sl).leaveTrap s.cur pc).fetchSlot s.cur pc).1.wants = (s.atIssue sl).wants)
    (hr : (((s.atIssue sl).leaveTrap s.cur pc).fetchSlot s.cur pc).2 = .ok w) (h0 : w.extractLsb' 0 8 = 0)
    (hh : badHeader w = false) :
    ∃ t, runSlot f lat sl (rttBody next) s = .next t ∧ entered s t { x with trapMode := false } pc w none := by
  have hg := grp?_leaveTrap (grp?_atIssue (sl := sl) h.group) pc
  refine jump_entered h ?_ (((accessed_fetchSlot s.cur pc (.refl _)).grp? s.cur).trans hg) ⟨rfl, rfl, rfl, rfl, rfl⟩
  rw [rttBody_inside (x := x.cover sl) _ _ ht, cur_atIssue h.group, ← show pc = (x.cover sl).trapPc + next from e]
  exact congrArg Effect.jump (resumed_atHeader hg hin hp (hw.trans (leaveTrap_wants _ _ _).symm) hr h0 hh)

/-- RTT.to to a header: the target is checked in trap mode, and again outside it. -/
theorem rttToBody_enters {lat : Machine.Lat} {a : Word} {w' : BitVec 128} (h : Issues s f sl x) (ht : x.trapMode = true)
    (hp : x.preempt = false) (ha : (s.atIssue sl).ssrc (x.cover sl) sl sl.a = a)
    (hr : ((s.atIssue sl).target s.cur a).2 = .ok w)
    (hr' : (((((s.atIssue sl).target s.cur a).1.leaveTrap s.cur a).updGrp s.cur fun y => { y with block := {} }).target
      s.cur a).2 = .ok w') (hh : badHeader w' = false) :
    ∃ t, runSlot f lat sl (rttToBody sl) s = .next t ∧ entered s t { x with trapMode := false } a w' none := by
  have hg := grp?_leaveTrap (((accessed_target s.cur a (.refl (s.atIssue sl))).grp? s.cur).trans (grp?_atIssue h.group)) a
  have hg' : ((((s.atIssue sl).target s.cur a).1.leaveTrap s.cur a).updGrp s.cur fun y => { y with block := {} }).grp? s.cur
      = some { (x.cover sl).left a with block := {} } := by simp [grp?_updGrp, hg]
  refine jump_entered h ?_ (((accessed_target s.cur a (.refl _)).grp? s.cur).trans hg') ⟨rfl, rfl, rfl, rfl, rfl⟩
  rw [rttToBody_header (x := x.cover sl) _ ht (by rw [cur_atIssue h.group, ha]; exact hr), cur_atIssue h.group, ha]
  exact congrArg Effect.jump (resumed_outside hg' (inBlock_empty _) hp hr' hh)

/-- TRAPINFO of TRAP: the low byte of IMM. -/
theorem trapInfo_eq (sl : Slot) : BitVec.ofNat 64 (immN sl % 256) = (sl.imm.extractLsb' 0 8).setWidth 64 := by
  apply BitVec.eq_of_toNat_eq
  simp [immN, BitVec.extractLsb']

end Sys2Proof.Machine

open Sys2Proof Sys2Proof.Machine in
/-- Settles O40: TRAP is one trap, and each form of RTT leaves trap mode and resumes at its slot. -/
theorem trapAndReturnResults : Obligations.TRAP_AND_RETURN_RESULTS := by
  intro s x sl i illegal inside fetch enters back a left
  have hback : ∀ {ins : Instr} {f : Form} {next pc : Word}, exec ins s = runSlot f .none sl (rttBody next) s →
      Issues s f sl x → x.trapMode = true → x.preempt = false → pc = x.trapPc + next → back ins pc := by
    intro ins f next pc he h ht hp e hin hw hs
    obtain ⟨t, y, hn, hy, hyt, hm, hb⟩ := rttBody_back (lat := .none) h ht hp pc e hin hw hs
    exact ⟨t, y, he.trans hn, hy, (congrArg Group.trapMode hyt :), (congrArg Group.pc hyt :),
      (congrArg Group.kc hyt :), (congrArg Group.block hyt :), (congrArg Group.act hyt :), (congrArg Group.live hyt :),
      (congrArg Group.fmt hyt :), (congrArg Group.mstk hyt :), (congrArg Group.sregs hyt :),
      (congrArg Group.vregs hyt :), (congrArg Group.queue hyt :), hm, hb⟩
  have henters : ∀ {ins : Instr} {f : Form} {next pc : Word}, exec ins s = runSlot f .none sl (rttBody next) s →
      Issues s f sl x → x.trapMode = true → x.preempt = false → pc = x.trapPc + next → enters ins pc := by
    intro ins f next pc he h ht hp e hin hw w hr h0 hh
    rw [he]
    exact rttBody_enters h ht hp pc e hin hw hr h0 hh
  refine ⟨fun h => ?trap, fun h => ⟨fun ht => ?rttOut, fun ht hp =>
      have e := (BitVec.add_zero x.trapPc).symm
      ⟨hback rfl h ht hp e, henters rfl h ht hp e⟩⟩,
    fun h => ⟨fun ht => ?nextOut, fun ht hp => ⟨hback rfl h ht hp rfl, henters rfl h ht hp rfl⟩⟩,
    fun h => ⟨fun ht => ?toOut, fun ht ha => ?misaligned, fun w w' ht hp hr hr' hh => ?toHeader⟩⟩
  case trap =>
    refine (runSlot_of h .none (trapBody sl)).trans ?_
    rw [trapBody, trapInfo_eq]
    rfl
  case rttOut => exact runSlot_traps h (rttBody_outside _ _ ht)
  case nextOut => exact runSlot_traps h (rttBody_outside _ _ ht)
  case toOut => exact runSlot_traps h (rttToBody_outside _ ht)
  case misaligned =>
    have e := ssrc_atIssue (sl := sl) h.group sl.a
    exact runSlot_traps h ((rttToBody_misaligned (x := x.cover sl) _ ht (by rw [e]; exact ha)).trans (by rw [e]))
  case toHeader => exact rttToBody_enters h ht hp (ssrc_atIssue h.group _) hr hr' hh
end

section
/-! SUPPORT and O46. A queue with an entry of an age that no push gives (R20), and the push that loses it. -/

namespace Sys2Proof.Machine

/-- A group whose queue lists an entry of age 20, which reads 1 in every lane; R20 has ages 0 to 15 only, and a push drops every
entry of age 15 and above. -/
def deepQueue : Group := { queue := [(20, Vector.replicate 32 1)] }

/-- The machine with that group alone, whose slot is to issue. -/
def deepState : State := { cur := 1, groups := [(1, deepQueue)] }

/-- A slot of VADD.s32 that pushes zero + zero. -/
def pushSlot : Slot := { ty := 4, d := 0x200, a := 0x270, b := 0x270 }

/-- The push issues. -/
theorem deepState_issues : Issues deepState (fVec 0 1 (tyI pushSlot) 2 pushSlot) pushSlot deepQueue :=
  ⟨rfl, rfl, rfl, rfl, rfl⟩

/-- After the push, age 20 reads 0. -/
theorem deepState_pushed {t : State} (h : exec (.vadd pushSlot) deepState = .next t) {y : Group} (hy : t.grp? 1 = some y) :
    t.readV y (.q 20) = Vec.zero := by
  cases h
  cases hy
  rfl

end Sys2Proof.Machine

open Sys2Proof Sys2Proof.Machine in
/-- Refutes O46: a push drops every entry of the queue of age 15 or more, and the frame names the ages 0 to 15 only. In a state
whose queue lists an entry of age 20, which no run reaches, VADD with D push changes what age 20 reads. -/
theorem not_registerInstructionFrame : ¬ Obligations.REGISTER_INSTRUCTION_FRAME := by
  intro h
  obtain ⟨t, ht⟩ : ∃ t, exec (.vadd pushSlot) deepState = .next t := ⟨_, rfl⟩
  rcases h deepState t (.vadd pushSlot) 0x40 pushSlot _ deepQueue rfl rfl rfl deepState_issues ht with ⟨hfmt, -⟩ | hframe
  · cases hfmt
  · obtain ⟨y, hy, -, -, hv, -⟩ := hframe.group
    have hq := hv (.q 20) (by decide)
    rw [deepState_pushed ht hy] at hq
    exact absurd hq (by decide)
end

section
/-! SUPPORT. The frame of an access, for the words that hub engines read and write: records (R363), rings (R214), signals and
the structures that packets name (R329 to R340). -/

namespace Sys2Proof.Machine

variable {s0 s : State} {v : View}

/-! ### Records -/

theorem accessed_msix (fn n : Nat) (h : Accessed s0 s) : Accessed s0 (s.msix fn n) :=
  accessed_updFn _ (fun _ => by rfl) h

theorem accessed_physAppend {ring : Nat} {r : Rec} {t : State} (e : s.physAppend ring r = some t) (h : Accessed s0 s) :
    Accessed s0 t := by
  unfold State.physAppend at e
  dsimp only at e
  split at e
  · cases e
  · cases e
    exact accessed_bankWrite _ _ _ (accessed_bankWrite _ _ _ h)

theorem accessed_flushTo (fn vec ring : Nat) (l : List Rec) (h : Accessed s0 s) : Accessed s0 (s.flushTo fn vec ring l).1 := by
  induction l generalizing s with
  | nil => exact h
  | cons p l ih =>
    unfold State.flushTo
    dsimp only
    split
    · exact h
    · rename_i e
      exact ih (accessed_ite (accessed_msix _ _ (accessed_physAppend e h)) (accessed_physAppend e h))

theorem accessed_flushRecs (fn : Nat) (h : Accessed s0 s) : Accessed s0 (s.flushRecs fn) :=
  accessed_updFn _ (fun _ => by rfl) (accessed_flushTo _ _ _ _ (accessed_updFn _ (fun _ => by rfl)
    (accessed_flushTo _ _ _ _ h)))

theorem accessed_dropRec (fn which : Nat) (h : Accessed s0 s) : Accessed s0 (s.dropRec fn which) :=
  accessed_ite (accessed_updFn _ (fun _ => by split <;> rfl) h) (accessed_bankWrite _ _ _ h)

theorem accessed_putRec (fn which : Nat) (r : Rec) (h : Accessed s0 s) : Accessed s0 (s.putRec fn which r) :=
  accessed_ite (accessed_dropRec _ _ h) (accessed_flushRecs _ (accessed_updFn _ (fun _ => by split <;> rfl) h))

theorem accessed_engFault (fn ctx : Nat) (r : Raise) (h : Accessed s0 s) : Accessed s0 (s.engFault fn ctx r) :=
  accessed_putRec _ _ _ h

/-! ### Words -/

theorem accessed_hubAt (v : View) (a : Word) (n kind : Nat) (h : Accessed s0 s) : Accessed s0 (s.hubAt v a n kind).1 := by
  unfold State.hubAt
  extract_lets r
  split <;> exact accessed_resolve _ _ _ _ _ _ h

theorem accessed_hubPays (v : View) (t : Target) (n : Nat) (h : Accessed s0 s) : Accessed s0 (s.hubPays v t n) := by
  unfold State.hubPays
  split
  · exact accessed_chargeAt _ _ _ h
  · exact h

theorem accessed_hubRead (v : View) (a : Word) (n : Nat) (h : Accessed s0 s) : Accessed s0 (s.hubRead v a n).1 := by
  have hr := accessed_hubAt v a n 0 h
  unfold State.hubRead
  generalize s.hubAt v a n 0 = r at hr
  dsimp only
  split
  · exact hr
  · rename_i t _
    have hq := accessed_readP v t n a 0 hr
    split
    · exact hq
    · exact accessed_hubPays _ _ _ hq

theorem accessed_hubWords (v : View) (a : Word) (k : Nat) (h : Accessed s0 s) : Accessed s0 (s.hubWords v a k).1 := by
  induction k generalizing s a with
  | zero => exact h
  | succ k ih =>
    have hr := accessed_hubRead v a 8 h
    unfold State.hubWords
    generalize s.hubRead v a 8 = r at hr
    dsimp only
    split
    · exact hr
    · split <;> exact ih _ hr

theorem accessed_hubDo (v : View) (t : Target) (a : Word) (n : Nat) (o : HubOp) (h : Accessed s0 s) :
    Accessed s0 (s.hubDo v t a n o).1 := by
  unfold State.hubDo
  split
  · exact accessed_peerNeed _ h
  · exact accessed_hubPays _ _ _ (accessed_writeT _ _ _ _ _ (accessed_readT _ _ _ _ h))

theorem accessed_hubUpd (v : View) (a : Word) (n : Nat) (o : HubOp) (h : Accessed s0 s) : Accessed s0 (s.hubUpd v a n o) := by
  have hr := accessed_hubAt v a n o.kind h
  unfold State.hubUpd
  generalize s.hubAt v a n o.kind = r at hr
  dsimp only
  split
  · exact accessed_engFault _ _ _ hr
  · exact hr.of_rest rfl rfl rfl
  · rename_i t _ _
    have hq := accessed_hubDo v t a n o hr
    split
    · exact accessed_engFault _ _ _ hq
    · exact hq

theorem accessed_sigSub (v : View) (a : Word) (x : Nat) (h : Accessed s0 s) : Accessed s0 (s.sigSub v a x) :=
  accessed_ite h (accessed_hubUpd _ _ _ _ h)

theorem accessed_sigSet (v : View) (a : Word) (x : Nat) (h : Accessed s0 s) : Accessed s0 (s.sigSet v a x) :=
  accessed_ite h (accessed_hubUpd _ _ _ _ h)

theorem accessed_noteWord (v : View) (a : Word) (n kind : Nat) (o : HubOp) (h : Accessed s0 s) :
    Accessed s0 (s.noteWord v a n kind o).1 := by
  have hr := accessed_hubAt v a n kind h
  unfold State.noteWord
  generalize s.hubAt v a n kind = r at hr
  dsimp only
  split
  · exact hr
  · exact accessed_hubDo _ _ _ _ _ hr

/-! ### Rings -/

theorem accessed_ringAt (v : View) (a : Word) (kind : Nat) (wr : Bool) (h : Accessed s0 s) :
    Accessed s0 (s.ringAt v a kind wr).1 := by
  have hr := accessed_resolve v a 64 64 kind wr h
  unfold State.ringAt
  generalize s.resolve v a 64 64 kind wr = r at hr
  dsimp only
  split
  · exact hr
  · split <;> exact accessed_readP _ _ _ _ _ hr
  · unfold State.toPoint
    split
    · exact accessed_reach _ _ hr
    · exact hr

theorem accessed_ringIndex (v : View) (t : Target) (a : Word) (off i : Nat) (h : Accessed s0 s) :
    Accessed s0 (s.ringIndex v t a off i) := by
  unfold State.ringIndex
  split
  · exact accessed_peerWrite _ _ _ _ _ _ _ _ h
  · exact accessed_countLine _ (accessed_wr _ _ _ h)
  · exact accessed_wr _ _ _ h

theorem accessed_spillGet (fn ctx core : Nat) (h : Accessed s0 s) : Accessed s0 (s.spillGet fn ctx core) := by
  unfold State.spillGet
  extract_lets v r
  have hr : Accessed s0 r.1 := accessed_ringAt _ _ _ _ h
  split
  · exact accessed_ringIndex _ _ _ _ _ hr
  · exact hr

/-! ### What packets name -/

theorem accessed_queueRing (fn : Nat) (a : Word) (ctx : Nat) (h : Accessed s0 s) : Accessed s0 (s.queueRing fn a ctx).1 := by
  have hr := accessed_hubRead (s.hubView fn ctx) a 64 h
  unfold State.queueRing
  generalize s.hubRead (s.hubView fn ctx) a 64 = r at hr
  split
  · exact h
  · dsimp only
    split <;> exact hr

theorem accessed_spanOk (v : View) (a : Word) (left kind k : Nat) (h : Accessed s0 s) :
    Accessed s0 (s.spanOk v a left kind k).1 := by
  induction k generalizing s a left with
  | zero => exact h
  | succ k ih =>
    have hr := accessed_hubAt v a 8 kind h
    unfold State.spanOk
    generalize s.hubAt v a 8 kind = r at hr
    dsimp only
    split
    · exact h
    · split
      · exact hr
      · exact ih _ _ hr

theorem accessed_hubList (v : View) (a : Word) (k n : Nat) (h : Accessed s0 s) : Accessed s0 (s.hubList v a k n).1 := by
  induction n generalizing s a with
  | zero => exact h
  | succ n ih =>
    have hr := accessed_hubRead v a k h
    unfold State.hubList
    generalize s.hubRead v a k = r at hr
    dsimp only
    split
    · exact hr
    · split <;> exact ih _ hr

theorem accessed_readNodes (v : View) (l : List Nat) (h : Accessed s0 s) : Accessed s0 (s.readNodes v l).1 := by
  induction l generalizing s with
  | nil => exact h
  | cons a l ih =>
    unfold State.readNodes
    extract_lets r
    have hr : Accessed s0 r.1 := by
      unfold r
      exact accessed_ite1 (accessed_hubWords _ _ _ h) h
    clear_value r
    split
    · exact hr
    · exact accessed_ite1 hr (ih hr)

theorem accessed_readGraph (v : View) (a : Word) (h : Accessed s0 s) : Accessed s0 (s.readGraph v a).1 := by
  have hr := accessed_hubWords v a 8 h
  unfold State.readGraph
  generalize s.hubWords v a 8 = r at hr
  dsimp only
  split
  · exact hr
  · rename_i ws _
    have he := accessed_hubList v (wordsFn ws 2) 4 (bits (wordsFn ws 0) 47 32)
      (accessed_hubList v (wordsFn ws 1) 8 (bits (wordsFn ws 0) 15 0) hr)
    split
    · exact hr
    · split
      · exact accessed_ite1 he (accessed_readNodes _ _ he)
      · exact he

theorem accessed_putStatus (v : View) (p : Packet) (st : Nat) (h : Accessed s0 s) : Accessed s0 (s.putStatus v p st) := by
  unfold State.putStatus
  extract_lets a r
  have hr : Accessed s0 r.1 := accessed_noteWord _ _ _ _ _ h
  split
  · exact h
  · split
    · exact accessed_engFault _ _ _ hr
    · exact hr

theorem accessed_putHandle (v : View) (a : Word) (n : Nat) (h : Accessed s0 s) : Accessed s0 (s.putHandle v a n).1 := by
  unfold State.putHandle
  split
  · exact h
  · exact accessed_noteWord _ _ _ _ _ h

theorem accessed_newHandle (fn lvl : Nat) (h : Accessed s0 s) : Accessed s0 (s.newHandle fn lvl).1 :=
  accessed_updFn _ (fun _ => by rfl) h

end Sys2Proof.Machine
end

section
/-! SUPPORT and O50. The dispatcher's queues, packets and placement (R329 to R349). -/

namespace Sys2Proof.Machine

variable {s u u1 c z t : State} {fn q id st : Nat} {v : View} {w : List Word} {b : Rcb} {start : Start}

/-! ### Queues (R329, R330, R335) -/

theorem updFn_fns_ne_none {k : Nat} (f : Func → Func) (h : tget s.fns k ≠ none) : tget (s.updFn fn f).fns k ≠ none := by
  unfold State.updFn
  split
  · rw [tget_tput]
    split
    · exact Option.some_ne_none _
    · exact h
  · exact h

/-- A queue of a function that is there, after its update. -/
theorem queueD_updQueue (f : Queue → Queue) (h : tget s.fns fn ≠ none) :
    (s.updQueue fn q f).queueD fn q = f (s.queueD fn q) := by
  rw [State.updQueue, State.queueD, fnD_updFn _ _ _ _ h, if_pos rfl]
  exact tval_tset_self _ _ _ _

theorem queueD_queueErr (h : tget s.fns fn ≠ none) :
    (s.queueErr fn q).queueD fn q = { s.queueD fn q with err := true } := by
  unfold State.queueErr
  dsimp only
  split
  · exact queueD_updQueue _ h
  · exact ((accessed_msix fn 2 (.refl _)).queueD fn q).trans (queueD_updQueue _ h)

theorem queueD_queueDead (h : tget s.fns fn ≠ none) :
    (s.queueDead fn q).queueD fn q = { s.queueD fn q with en := false, err := true } := by
  have h1 : tget (s.updQueue fn q fun x => { x with en := false }).fns fn ≠ none := updFn_fns_ne_none _ h
  rw [State.queueDead, queueD_queueErr h1, queueD_updQueue _ h]

/-! ### Taking a packet (R331) -/

/-- The head packet of a queue may be taken: what `packetSteps` supposes. -/
structure Heads (s : State) (fn q : Nat) (u u1 c : State) (b : Rcb) (w : List Word) (start : Start) : Prop where
  head : s.headPacket fn q = (u, some (b, w))
  free : u.startOf fn q w = (u1, start)
  wants : u1.wants = []
  turn : s.queueTurn fn q = true
  cidx : u1.advance fn q b = (c, true)

/-- The packet that an acceptance opens. -/
def packetOf (s : State) (fn q : Nat) (w : List Word) (status : Option Nat) : Packet :=
  { fn := fn, q := q, ctx := (s.queueD fn q).ctx, compl := pw w 1, rel := pRel w, kind := pType w
    hword := handlePlace w status, status := status }

theorem accept_packet (s : State) (fn q : Nat) (w : List Word) (status : Option Nat) :
    tget (s.accept fn q w status).1.packets s.tick = some (packetOf s fn q w status) := tget_tput_self _ _ _

theorem accept_mem (s : State) (fn q : Nat) (w : List Word) (status : Option Nat) :
    (s.accept fn q w status).1.mem = s.mem := updFn_mem _ _ _

/-- An accepted packet is the one taken. -/
theorem tookPacket_accept (s : State) (fn q : Nat) (w : List Word) (status : Option Nat) :
    tookPacket (s.accept fn q w status).1 s.tick fn q w status :=
  ⟨_, accept_packet s fn q w status, rfl, rfl, rfl, rfl⟩

/-- It stays so while the packets are as they were. -/
theorem tookPacket_of_packets {status : Option Nat} (h : tookPacket s id fn q w status) (e : t.packets = s.packets) :
    tookPacket t id fn q w status := by
  obtain ⟨p, hp, hk⟩ := h
  exact ⟨p, e ▸ hp, hk⟩

/-- A packet that is done has its status. -/
theorem tookPacket_done {status : Option Nat} (h : tookPacket s id fn q w status) (st : Nat) :
    tookPacket (s.packetDone id st) id fn q w (some st) := by
  obtain ⟨p, hp, hfn, hq, hc, -⟩ := h
  refine ⟨{ p with status := some st }, ?_, hfn, hq, hc, rfl⟩
  simp [State.packetDone, hp]

theorem packetDone_mem (s : State) (id st : Nat) : (s.packetDone id st).mem = s.mem := by
  unfold State.packetDone
  split <;> rfl

section
variable {types : Nat → Bool} {f : State → View → Nat → List Word → State × Option Nat}

/-- The head packet waits. -/
theorem takePacket_wait (h : Heads s fn q u u1 c b w .wait) : s.takePacket fn q types f = u1 := by
  simp [State.takePacket, h.head, h.free]

/-- The head packet is given a status by its start conditions. -/
theorem takePacket_status (h : Heads s fn q u u1 c b w (.status st)) (ht : types (pType w) = true) :
    s.takePacket fn q types f = (c.accept fn q w (some st)).1 := by
  simp [State.takePacket, h.head, h.free, h.wants, h.turn, h.cidx, ht]

/-- The head packet starts, and its status is known at once. -/
theorem takePacket_done (h : Heads s fn q u u1 c b w .go) (ht : types (pType w) = true)
    (hf : f (c.accept fn q w none).1 ((c.accept fn q w none).1.hubView fn ((c.accept fn q w none).1.queueD fn q).ctx) c.tick w
      = (z, some st)) : s.takePacket fn q types f = z.packetDone c.tick st := by
  have hf' : f (c.accept fn q w none).1 ((c.accept fn q w none).1.hubView fn ((c.accept fn q w none).1.queueD fn q).ctx)
      (c.accept fn q w none).2 w = (z, some st) := hf
  simp only [State.takePacket, h.head, h.free, h.wants, h.turn, h.cidx, ht, hf']
  simp [State.accept]

/-- The head packet starts, and completes later. -/
theorem takePacket_open (h : Heads s fn q u u1 c b w .go) (ht : types (pType w) = true)
    (hf : f (c.accept fn q w none).1 ((c.accept fn q w none).1.hubView fn ((c.accept fn q w none).1.queueD fn q).ctx) c.tick w
      = (z, none)) : s.takePacket fn q types f = z := by
  have hf' : f (c.accept fn q w none).1 ((c.accept fn q w none).1.hubView fn ((c.accept fn q w none).1.queueD fn q).ctx)
      (c.accept fn q w none).2 w = (z, none) := hf
  simp only [State.takePacket, h.head, h.free, h.wants, h.turn, h.cidx, ht, hf']
  simp

/-- A packet whose status is known at once, and whose action leaves the packets alone. -/
theorem completes_done {i : Instr} (h : Heads s fn q u u1 c b w .go) (ht : types (pType w) = true)
    (hi : exec i s = .next (s.takePacket fn q types f))
    (hf : f (c.accept fn q w none).1 ((c.accept fn q w none).1.hubView fn ((c.accept fn q w none).1.queueD fn q).ctx) c.tick w
      = (z, some st)) (hz : z.packets = (c.accept fn q w none).1.packets) :
    completes i s fun t => tookPacket t c.tick fn q w (some st) ∧ t.mem = z.mem :=
  ⟨_, hi.trans (congrArg _ (takePacket_done h ht hf)),
    tookPacket_done (tookPacket_of_packets (tookPacket_accept c fn q w none) hz) st, packetDone_mem _ _ _⟩

/-- A packet that completes later, and whose action leaves the packets alone. -/
theorem completes_open {i : Instr} (h : Heads s fn q u u1 c b w .go) (ht : types (pType w) = true)
    (hi : exec i s = .next (s.takePacket fn q types f))
    (hf : f (c.accept fn q w none).1 ((c.accept fn q w none).1.hubView fn ((c.accept fn q w none).1.queueD fn q).ctx) c.tick w
      = (z, none)) (hz : z.packets = (c.accept fn q w none).1.packets) :
    exec i s = .next z ∧ tookPacket z c.tick fn q w none :=
  ⟨hi.trans (congrArg _ (takePacket_open h ht hf)), tookPacket_of_packets (tookPacket_accept c fn q w none) hz⟩

end

/-! ### Signals (R334) -/

theorem hubDo_notPeer {d : Target} (hd : ∀ p pa, d ≠ .peer p pa) (s : State) (v : View) (a : Word) (n : Nat) (o : HubOp) :
    s.hubDo v d a n o
      = (((s.readT v d n true).1.writeT v d n true (o.new n (s.readT v d n true).2)).hubPays v d n, none) := by
  cases d with
  | peer p pa => exact absurd rfl (hd p pa)
  | _ => rfl

theorem hubPays_mem (s : State) (v : View) (d : Target) (n : Nat) : (s.hubPays v d n).mem = s.mem := by
  unfold State.hubPays
  split
  · exact chargeAt_mem _ _ _ _
  · rfl

/-- What a SIGNAL packet writes: VALUE, or the word less VALUE (R334). -/
def signalNew (w : List Word) (old : Nat) : Nat :=
  (if pw w 4 ≠ 0 then old + (2 ^ 64 - (pw w 3).toNat) else (pw w 3).toNat) % 2 ^ 64

/-- A SIGNAL whose word is at hand. -/
theorem signalPacket_at {d : Target} (hd : ∀ p pa, d ≠ .peer p pa)
    (h : s.hubAt v (pw w 2) 8 (if pw w 4 ≠ 0 then 2 else 1) = (z, .ok d)) :
    signalPacket s v id w
      = (((z.readT v d 8 true).1.writeT v d 8 true (signalNew w (z.readT v d 8 true).2)).hubPays v d 8, some 0) := by
  unfold signalPacket State.noteWord signalNew
  by_cases h4 : pw w 4 = 0
  · simp only [h4, ne_eq, not_true_eq_false, if_false, if_true, HubOp.kind] at h ⊢
    rw [h]
    exact congrArg (fun r => (r.1, some (if r.2.isSome = true then 4 else 0))) (hubDo_notPeer hd _ _ _ _ _)
  · simp only [h4, ne_eq, not_false_eq_true, if_false, if_true, HubOp.kind] at h ⊢
    rw [h]
    exact congrArg (fun r => (r.1, some (if r.2.isSome = true then 4 else 0))) (hubDo_notPeer hd _ _ _ _ _)

/-! ### Copies, launches, graphs (R334, R337, R339) -/

/-- The operation of a COPY packet. -/
def copyOp (v : View) (id : Nat) (w : List Word) : AsyncOp :=
  { opc := 0xD0, fn := v.fn, ctx := v.ctx, wg := 0, grp := 0, cls := 1, batch := 0, scp := 3
    dst := pw w 2, src := pw w 3, rb := (pw w 4).toNat, rows := 1, dstride := (pw w 4).toNat, sstride := (pw w 4).toNat
    list := 0, ntf := 0, e := 0, imm := 0, packet := id }

theorem copyPacket_refused (h : s.copyCheck v (copyOp v id w) [] ≠ none) : copyPacket s v id w = (s, some 4) := by
  obtain ⟨e, he⟩ := Option.ne_none_iff_exists'.1 h
  unfold copyOp at he
  simp only [copyPacket, he]

theorem copyPacket_starts {d r : State} (h : s.copyCheck v (copyOp v id w) [] = none)
    (hd : s.spanOk v (pw w 2) (pw w 4).toNat 1 ((pw w 4).toNat / 65536 + 2) = (d, true))
    (hr : d.spanOk v (pw w 3) (pw w 4).toNat 0 ((pw w 4).toNat / 65536 + 2) = (r, true)) :
    copyPacket s v id w = ({ r.bump with ops := tput r.ops r.tick (copyOp v id w) }, none) := by
  unfold copyOp at h
  simp only [copyPacket, h, hd, hr, if_true]
  rfl

/-- The launch that `State.mkLaunch` makes. -/
def launchOf (s : State) (fn ctx handle : Nat) (d : LaunchDesc) (graph node packet : Nat) (hword : Word) (acq : Bool)
    (prods : List Nat) : Launch :=
  { fn := fn, ctx := ctx, handle := handle, desc := d, remaining := d.gx * d.gy * d.gz, graph := graph, node := node
    hword := hword, packet := packet, wave := s.waveOf fn d, seq := s.tick, acq := acq, prods := prods }

theorem mkLaunch_launch (s : State) (fn ctx handle : Nat) (d : LaunchDesc) (graph node packet : Nat) (hword : Word) (acq : Bool)
    (prods : List Nat) : tget (s.mkLaunch fn ctx handle d graph node packet hword acq prods).launches s.tick
      = some (launchOf s fn ctx handle d graph node packet hword acq prods) := tget_tput_self _ _ _

section
variable {ws : List Word} {y : State} {n : Nat}

theorem launchPacket_bad (h : s.hubWords v (pw w 2) 32 = (z, .ok ws)) (hb : descBad v.world (wordsFn ws) = true) :
    launchPacket s v id w = (z, some 4) := by
  simp only [launchPacket, h, hb, true_or, if_true]

/-- A LAUNCH of a valid descriptor, not EARLY, whose handle word can be written. -/
theorem launchPacket_made (h : s.hubWords v (pw w 2) 32 = (z, .ok ws)) (hb : descBad v.world (wordsFn ws) = false)
    (he : (descOf (wordsFn ws)).early = false)
    (hp : (z.newHandle v.fn 0).1.putHandle v (pw w 3) (z.newHandle v.fn 0).2 = (y, true)) :
    launchPacket s v id w =
      let s1 := y.mkLaunch v.fn v.ctx (z.newHandle v.fn 0).2 (descOf (wordsFn ws)) 0 0 id (pw w 3) (decide (pAcq w ≠ 0)) []
      if y.admits v.fn (descOf (wordsFn ws)) = true then (s1, none)
      else (s1.updLaunch y.tick fun l => { l with done := true, remaining := 0 }, some 3) := by
  simp only [launchPacket, h, hb, he, hp]
  simp

end

/-- Opening the job and the phase of a graph changes no packet. -/
theorem openUnits_packets (s : State) (v : View) (w : List Word) : (s.openUnits v w).1.packets = s.packets := by
  have hn : ∀ (t : State) lvl, (t.newHandle v.fn lvl).1.packets = t.packets :=
    fun t lvl => (accessed_newHandle v.fn lvl (.refl t)).packets
  unfold State.openUnits
  extract_lets job ph h1 b1 a h2 b2 b
  have ha : a.1.packets = s.packets := by
    unfold a
    split
    · exact hn _ _
    · rfl
  have hb : b.1.packets = a.1.packets := by
    unfold b
    clear_value a
    split
    · exact hn _ _
    · rfl
  exact hb.trans ha

/-- A GRAPH without a handle block whose units and descriptors are good makes its graph. -/
theorem graphPacket_made {ds : List LaunchDesc} {es : List (Nat × Nat)}
    (hk : s.parentsOk v (bits (pw w 3) 31 0) (bits (pw w 3) 63 32) = true) (h5 : pw w 5 = 0)
    (hr : s.readGraph v (pw w 2) = (z, some (ds, es))) :
    ∃ t, graphPacket s v id w = (t, none) ∧ t.packets = z.packets ∧ ∃ g x, tget t.graphs g = some x ∧ x.fn = v.fn
      ∧ x.descs = ds ∧ x.edges = es ∧ x.remaining = ds.length ∧ x.packet = id ∧ x.done = false := by
  unfold graphPacket
  rw [hk, hr, h5]
  simp only [not_true_eq_false, if_false, if_true, State.putBlock]
  refine ⟨_, rfl, ?_, _, _, tget_tput_self _ _ _, rfl, rfl, rfl, rfl, rfl, rfl⟩
  exact (accessed_newHandle v.fn 1 (.refl _)).packets.trans (openUnits_packets z v w)

/-! ### Completion, nodes, cards and buckets (R336, R340, R348, R349) -/

/-- A completed packet is gone, and its queue's ERR latches a status other than COMPLETE. -/
theorem completePacket_spec {p : Packet} (hf : tget s.fns p.fn ≠ none) (id st : Nat) :
    tget (s.completePacket id p st).packets id = none
      ∧ ((s.completePacket id p st).queueD p.fn p.q).err = ((s.queueD p.fn p.q).err || decide (st ≠ 0)) := by
  unfold State.completePacket
  extract_lets s0 v s1 s2 s3
  have h0 : Accessed s s0 := accessed_ite (.refl s) (accessed_foldl (fun _ _ k => accessed_cleanDie _ k) _ _ (.refl s))
  have h2 : Accessed s s2 := accessed_ite (accessed_sigSub _ _ _ (accessed_putStatus _ _ _ h0))
    (accessed_sigSet _ _ _ (accessed_putStatus _ _ _ h0))
  clear_value s2
  refine ⟨tget_tdel_self _ _, ?_⟩
  change (s3.queueD p.fn p.q).err = _
  unfold s3
  by_cases hst : st = 0
  · simp [hst, h2.queueD]
  · rw [if_neg hst, queueD_queueErr (h2.fn_isSome hf)]
    simp [hst]

/-- The state in which a node of a graph is given its launch. -/
def State.nodeTaken (s : State) (graph node : Nat) (x : Unit3) : State :=
  { (s.newHandle x.fn 0).1 with
    graphs := tput s.graphs graph { x with nodes := tput x.nodes node ((s.newHandle x.fn 0).1.tick, none) } }

theorem nodeTaken_tick (s : State) (graph node : Nat) (x : Unit3) : (s.nodeTaken graph node x).tick = s.tick :=
  updFn_tick _ _ _

/-- A node that may start, with its launch. -/
theorem graphNodeStart_go {graph node : Nat} {x : Unit3} {d : LaunchDesc} (hg : tget s.graphs graph = some x)
    (hd : x.done = false) (hn : nodeStart x node = .go) (hx : x.descs[node]? = some d) (ha : s.admits x.fn d = true) :
    ∃ prods, execGraphNodeStart graph node s = .next ((s.nodeTaken graph node x).mkLaunch x.fn x.ctx
      (s.newHandle x.fn 0).2 d graph node 0 0 x.acq prods) := by
  have hd' : ¬ x.done = true := by simp [hd]
  unfold execGraphNodeStart
  rw [hg]
  dsimp only
  rw [if_neg hd', hn]
  dsimp only
  rw [hx]
  dsimp only
  rw [if_pos ha]
  exact ⟨_, rfl⟩

/-- A spilled card moves, unless its launch is over. -/
theorem spillMove_spec {core : Nat} {k : Card} (h : s.spillCore = some (core, k)) :
    ∃ t, exec .cannoliSpillMove s = .next t ∧ (t.coreD core).spilled = (s.coreD core).spilled.drop 1
      ∧ ∀ l, tget s.launches k.launch = some l → l.done = false → l.cancelled = false →
        (t.coreD core).taskq = (s.coreD core).taskq ++ [k] := by
  change ∃ t, execCannoliSpillMove s = .next t ∧ _
  unfold execCannoliSpillMove
  rw [h]
  dsimp only
  cases hl : tget s.launches k.launch with
  | none => exact ⟨_, rfl, by rw [coreD_updCore, if_pos rfl], fun _ hx => nomatch hx⟩
  | some x =>
    obtain ⟨hq, hs⟩ := (accessed_spillGet x.fn x.ctx core (.refl s)).cards core
    refine ⟨_, rfl, ?_, fun y hx hd hc => ?_⟩
    · rw [coreD_updCore, if_pos rfl]
      exact congrArg _ hs
    · cases hx
      rw [coreD_updCore, if_pos rfl, ← hq]
      simp [hd, hc]

end Sys2Proof.Machine

open Sys2Proof Sys2Proof.Machine in
/-- The register events of a queue. -/
theorem queueSteps_hold : queueSteps := by
  intro s fn q rcb ctx hf
  refine ⟨fun h => if_pos h, fun hq he => ⟨fun hr => ?dead, fun b hr => ?enabled⟩, ⟨_, rfl, queueD_updQueue _ hf⟩,
    fun he hc => ⟨fun hr => ?wakeDead, fun b hr => ?wake⟩⟩
  case dead =>
    have hn : ¬ (64 ≤ q ∨ (s.queueD fn q).en = true) := by simp [he, hq]
    have hs := queueD_updQueue (q := q) (fun k => { k with rcb := rcb, ctx := ctx }) hf
    refine ⟨_, (if_neg hn).trans (by rw [hr]), ?_⟩
    dsimp only
    split
    · exact hs
    · exact ((accessed_queueRing fn rcb ctx (.refl _)).queueD fn q).trans hs
  case enabled =>
    have hn : ¬ (64 ≤ q ∨ (s.queueD fn q).en = true) := by simp [he, hq]
    have ha := accessed_queueRing fn rcb ctx (.refl (s.updQueue fn q fun k => { k with rcb := rcb, ctx := ctx }))
    refine ⟨_, (if_neg hn).trans (by rw [hr]), ?_⟩
    dsimp only
    rw [queueD_updQueue _ (ha.fn_isSome (updFn_fns_ne_none _ hf)), ha.queueD, queueD_updQueue _ hf]
  case wakeDead =>
    have hn : ¬ (¬ (s.queueD fn q).en = true ∨ ¬ s.ctxRuns fn (s.queueD fn q).ctx = true) := by simp [he, hc]
    have ha := accessed_queueRing fn (s.queueD fn q).rcb (s.queueD fn q).ctx (.refl s)
    refine ⟨_, (if_neg hn).trans (by rw [hr]), ?_⟩
    dsimp only
    rw [queueD_queueDead (ha.fn_isSome hf), ha.queueD]
  case wake =>
    have hn : ¬ (¬ (s.queueD fn q).en = true ∨ ¬ s.ctxRuns fn (s.queueD fn q).ctx = true) := by simp [he, hc]
    have ha := accessed_queueRing fn (s.queueD fn q).rcb (s.queueD fn q).ctx (.refl s)
    refine ⟨_, (if_neg hn).trans (by rw [hr]), ?_⟩
    dsimp only
    rw [queueD_updQueue _ (ha.fn_isSome hf), ha.queueD]

open Sys2Proof Sys2Proof.Machine in
/-- The six packet events. -/
theorem packetSteps_hold : packetSteps := by
  intro s u u1 c fn q b w start hh hfree hw ht hc events a v taken going
  have heads : Heads s fn q u u1 c b w start := ⟨hh, hfree, hw, ht, hc⟩
  have takes : ∀ e ∈ events, ∃ types f, exec e.2 s = .next (s.takePacket fn q types f) ∧ types e.1 = true := by
    unfold events
    refine List.forall_mem_cons.2 ⟨⟨_, _, rfl, rfl⟩, List.forall_mem_cons.2 ⟨⟨_, _, rfl, rfl⟩, List.forall_mem_cons.2
      ⟨⟨_, _, rfl, rfl⟩, List.forall_mem_cons.2 ⟨⟨_, _, rfl, rfl⟩, List.forall_mem_cons.2 ⟨⟨_, _, rfl, rfl⟩,
        List.forall_mem_cons.2 ⟨⟨_, _, rfl, rfl⟩, ?_⟩⟩⟩⟩⟩⟩
    exact fun _ h => nomatch h
  refine ⟨fun e he ht => ⟨fun hs => ?wait, fun st hs => ?status⟩, ?atOnce, fun hg => ?signal,
    fun hg => ⟨fun hk => ?copyBad, fun d r hk hd hr => ?copy⟩, fun hg z ws y hz => ⟨fun hb => ?launchBad, fun hb he =>
      ?launch⟩, fun hg hk h5 z ds es hz => ?graph⟩
  case wait =>
    obtain ⟨types, f, hi, -⟩ := takes e he
    subst hs
    rw [hi, takePacket_wait heads]
  case status =>
    obtain ⟨types, f, hi, hty⟩ := takes e he
    subst hs
    refine ⟨_, hi.trans (congrArg _ (takePacket_status heads (ht ▸ hty))),
      tookPacket_accept _ _ _ _ _, accept_mem _ _ _ _ _⟩
  case atOnce =>
    intro e he ⟨hs, ht⟩
    subst hs
    have hd : ∀ i types, exec i s = .next (s.takePacket fn q types fun s _ _ _ => (s, some 0)) → types (pType w) = true →
        completes i s fun t => taken t (st := some 0) ∧ t.mem = c.mem := fun i types hi hty => by
      obtain ⟨t, h1, h2, h3⟩ := completes_done heads hty hi rfl rfl
      exact ⟨t, h1, h2, h3.trans (accept_mem _ _ _ _ _)⟩
    rcases List.mem_cons.1 he with rfl | he
    · exact hd _ _ rfl (by rw [ht]; rfl)
    · obtain rfl := List.mem_singleton.1 he
      exact hd _ _ rfl (by rw [ht]; rfl)
  case signal =>
    intro z d hd sub hz r
    obtain ⟨hs, ht⟩ := hg
    subst hs
    have hp := (accessed_hubAt v (pw w 2) 8 (if sub then 2 else 1) (.refl a.1)).packets
    rw [hz] at hp
    have hm := (accessed_hubPays v d 8 (accessed_writeT v d 8 true (signalNew w r.2)
      (accessed_readT v d 8 true (.refl z)))).packets
    obtain ⟨t, h1, h2, h3⟩ := completes_done heads (i := .packetSignal fn q) (by rw [ht]; rfl) rfl (signalPacket_at hd hz)
      (hm.trans hp)
    exact ⟨t, h1, h2, h3.trans (hubPays_mem _ _ _ _)⟩
  case copyBad =>
    obtain ⟨hs, ht⟩ := hg
    subst hs
    obtain ⟨t, h1, h2, -⟩ := completes_done heads (i := .packetCopy fn q) (by rw [ht]; rfl) rfl (copyPacket_refused hk) rfl
    exact ⟨t, h1, h2⟩
  case copy =>
    obtain ⟨hs, ht⟩ := hg
    subst hs
    have hp := accessed_spanOk v (pw w 2) (pw w 4).toNat 1 ((pw w 4).toNat / 65536 + 2) (.refl a.1)
    rw [show a.1.spanOk v (pw w 2) (pw w 4).toNat 1 ((pw w 4).toNat / 65536 + 2) = (d, true) from hd] at hp
    have hp := accessed_spanOk v (pw w 3) (pw w 4).toNat 0 ((pw w 4).toNat / 65536 + 2) hp
    rw [show d.spanOk v (pw w 3) (pw w 4).toNat 0 ((pw w 4).toNat / 65536 + 2) = (r, true) from hr] at hp
    obtain ⟨h1, h2⟩ := completes_open heads (i := .packetCopy fn q) (by rw [ht]; rfl) rfl
      (copyPacket_starts hk hd hr) hp.packets
    exact ⟨_, h1, h2, tget_tput_self _ _ _⟩
  case launchBad =>
    obtain ⟨hs, ht⟩ := hg
    subst hs
    have hp := (accessed_hubWords v (pw w 2) 32 (.refl a.1)).packets
    rw [hz] at hp
    obtain ⟨t, h1, h2, -⟩ := completes_done heads (i := .packetLaunch fn q) (by rw [ht]; rfl) rfl
      (launchPacket_bad hz hb) hp
    exact ⟨t, h1, h2⟩
  case launch =>
    intro h hp
    obtain ⟨hs, ht⟩ := hg
    subst hs
    have hq := accessed_hubWords v (pw w 2) 32 (.refl a.1)
    rw [hz] at hq
    have hq := accessed_putHandle v (pw w 3) h.2 (accessed_newHandle fn 0 hq)
    rw [show (z.newHandle fn 0).1.putHandle v (pw w 3) h.2 = (y, true) from hp] at hq
    have hmade := launchPacket_made (id := c.tick) (v := v) hz hb he hp
    refine ⟨fun ha => ?_, fun ha => ?_⟩
    · obtain ⟨t, h1, h2, -⟩ := completes_done heads (i := .packetLaunch fn q) (by rw [ht]; rfl) rfl
        (hmade.trans (if_neg (by rw [show y.admits v.fn _ = false from ha]; exact Bool.false_ne_true)))
        ((updLaunch_packets _ _ _).trans hq.packets)
      exact ⟨t, h1, h2⟩
    · obtain ⟨h1, h2⟩ := completes_open heads (i := .packetLaunch fn q) (by rw [ht]; rfl) rfl
        (hmade.trans (if_pos ha)) hq.packets
      exact ⟨_, h1, h2, _, mkLaunch_launch _ _ _ _ _ _ _ _ _ _ _, rfl, rfl, rfl, rfl, rfl, rfl, rfl⟩
  case graph =>
    obtain ⟨hs, ht⟩ := hg
    subst hs
    obtain ⟨t, hm, hp, hx⟩ := graphPacket_made (id := c.tick) hk h5 hz
    have hq := (accessed_readGraph v (pw w 2) (.refl a.1)).packets
    rw [hz] at hq
    obtain ⟨h1, h2⟩ := completes_open heads (i := .packetGraph fn q) (by rw [ht]; rfl) rfl hm (hp.trans hq)
    exact ⟨t, h1, h2, hx⟩

open Sys2Proof Sys2Proof.Machine in
/-- The events after a packet's acceptance. -/
theorem laterPackets_hold : laterPackets := by
  refine ⟨fun s id st p hd hf => ?complete, fun s graph node u d hg hu => ⟨fun hn => ?wait, fun hn hd ha => ?go⟩,
    fun s core c h => spillMove_spec h, fun s fn f k b hf hb => ?refill⟩
  case complete =>
    refine ⟨s.completePacket id p st, ?_, completePacket_spec hf id st⟩
    show execPacketComplete s = _
    rw [execPacketComplete, hd]
  case wait =>
    show execGraphNodeStart graph node s = _
    simp only [execGraphNodeStart, hg, hu, hn, Bool.false_eq_true, if_false]
  case go =>
    obtain ⟨prods, h⟩ := graphNodeStart_go hg hu hn hd ha
    have hl := mkLaunch_launch (s.nodeTaken graph node u) u.fn u.ctx (s.newHandle u.fn 0).2 d graph node 0 0 u.acq prods
    rw [nodeTaken_tick] at hl
    refine ⟨_, h, ⟨_, hl, rfl, rfl, rfl, rfl, rfl, rfl, rfl⟩, _, tget_tput_self _ _ _, ?_⟩
    exact (tget_tput_self _ _ _).trans (by rw [show (s.newHandle u.fn 0).1.tick = s.tick from updFn_tick _ _ _])
  case refill =>
    refine ⟨_, rfl, { f with buckets := f.buckets.map fun b => (b.1, b.2.refill) }, ?_, ?_⟩
    · exact (tget_map s.fns (fun _ (x : Func) =>
        { x with buckets := x.buckets.map fun (b : Nat × Bucket) => (b.1, b.2.refill) }) fn).trans (by rw [hf])
    · exact (tget_map f.buckets (fun _ x => x.refill) k).trans (by rw [hb]; rfl)
end

section
/-! SUPPORT and O50. The placement pass (R30, R342 to R346). -/

namespace Sys2Proof.Machine

variable {s t : State}

/-! ### The pass -/

/-- A launch whose gate is open is left alone by the gates. -/
theorem gate_open (h : ∀ p ∈ s.launches, p.2.gateOpen = true) (l : Nat) : s.gate l = s := by
  unfold State.gate
  split
  · rfl
  · rename_i x hx
    exact if_pos (h _ (mem_of_tget hx))

theorem foldl_gate_open (h : ∀ p ∈ s.launches, p.2.gateOpen = true) (ls : List (Nat × Launch)) :
    ls.foldl (fun t p => t.gate p.1) s = s := by
  induction ls with
  | nil => rfl
  | cons p ls ih => rw [List.foldl_cons, gate_open h, ih]

theorem placeAll_none (h : s.placeOne s.coWaiting [] s.candidates = none) (n : Nat) : s.placeAll n = s := by
  cases n with
  | zero => rfl
  | succ n => rw [State.placeAll, h]

theorem placeAll_some (h : s.placeOne s.coWaiting [] s.candidates = some t) (n : Nat) : s.placeAll (n + 1) = t.placeAll n := by
  rw [State.placeAll, h]

/-- The functions after a pass: none is fresh. -/
def State.settledFns (s : State) : State := { s with fns := s.fns.map fun p => (p.1, { p.2 with fresh := false }) }

/-- A pass with every gate open whose placements end in `t`. -/
theorem placementPass_of (hg : ∀ p ∈ s.launches, p.2.gateOpen = true) (ht : s.placeAll 32768 = t) :
    exec .placementPass s = .next t.settledFns := by
  show Host.Outcome.next s.placementPass = _
  rw [State.placementPass]
  dsimp only
  rw [foldl_gate_open hg, ht]
  rfl

/-- The one candidate is the next workgroup of a launch that may be placed (R342 to R346). -/
theorem placeOne_fresh {l : Nat} {x : Launch} {r : Rank} {p : Spot} {u : Used} {save : Nat} (hl : tget s.launches l = some x)
    (hg : x.gateOpen = true) (hc : x.desc.cores = false) (he : (s.fnD x.fn).energyRoom x.desc.energy = true)
    (hp : findSpot s.used x.desc.need (s.trialOrder x.fn) = some (p, u))
    (hs : s.saveSpot x.fn x.ctx x.desc.need.record = some save) (ho : s.earlyOk x.fn x.prods u = true) :
    s.placeOne [] [] [(r, .fresh l)] = some ((s.startWg l x.nextWg x.desc.roles x.desc.scratch x.desc.tiles x.desc.param
      (BitVec.ofNat 64 x.nextWg) none x.desc.prio x.desc.energy x.seq save x.acq p).updLaunch l
        fun y => { y with nextWg := y.nextWg + 1 }) := by
  simp [State.placeOne, State.attempt, State.candFn, hl, hg, hc, he, hp, hs, ho]

/-! ### Starting a workgroup of one group (R30) -/

/-- The workgroup that `State.startWg` lists, before its groups. -/
def State.newWg (s : State) (l lin : Nat) (x : Launch) (rs : List Role) (scratch tiles : Nat) (card : Option Card)
    (prio energy seq saveAt : Nat) (p : Spot) : Workgroup :=
  { fn := x.fn, ctx := x.ctx, world := (s.ctxD x.fn x.ctx).world, launch := l, lin := lin, cores := p.cores
    wb := scratch, tiles := tiles, card := card, preempt := x.desc.preempt, tbclass := x.desc.tbclass
    prio := prio, energy := energy, seq := seq, saveAt := saveAt
    grans := (roleGroups rs).map fun (g : Nat × Nat × Role) => g.2.2.gran }

/-- Before its groups start, a new workgroup is listed, and groups and launches are as they were. -/
theorem startWg_startGroups {l : Nat} {x : Launch} (hl : tget s.launches l = some x) (lin : Nat) (rs : List Role)
    (scratch tiles : Nat) (param first : Word) (card : Option Card) (prio energy seq saveAt : Nat) (acq : Bool) (p : Spot) :
    ∃ t : State, s.startWg l lin rs scratch tiles param first card prio energy seq saveAt acq p
        = t.startGroups param first (tfresh s.wgs) p (roleGroups rs).zipIdx
      ∧ t.groups = s.groups ∧ t.launches = s.launches
      ∧ t.wgs = tput s.wgs (tfresh s.wgs) (s.newWg l lin x rs scratch tiles card prio energy seq saveAt p) := by
  generalize he : s.startWg l lin rs scratch tiles param first card prio energy seq saveAt acq p = r
  unfold State.startWg at he
  split at he
  case h_1 hn => exact absurd (hn.symm.trans hl) (Option.some_ne_none x).symm
  rename_i hy
  obtain rfl := Option.some.inj (hl.symm.trans hy)
  extract_lets w s1 s2 s3 s4 at he
  have h2 : Accessed s1 s2 := accessed_updFn _ (fun _ => by rfl) (accessed_touch _ _ _ (.refl s1))
  have h4 : Accessed s3 s4 := accessed_ite (accessed_foldl (fun _ _ k => accessed_acquire _ _ k) _ _ (.refl s3)) (.refl s3)
  exact ⟨s4, he.symm, h4.groups.trans h2.groups, h4.launches.trans h2.launches, h4.wgs.trans h2.wgs⟩

/-- Starting the groups of a workgroup of one group lists that group. -/
theorem startGroups_one {w : Nat} {y : Workgroup} (hw : tget s.wgs w = some y) (param first : Word) (p : Spot)
    (g : Nat × Nat × Role) :
    let t := s.startGroups param first w p [(g, 0)]
    t.launches = s.launches
      ∧ (∃ core sub at_ now, t.groups =
        tput s.groups (tfresh s.groups) (newGroup param first 0 g w core sub at_ now))
      ∧ tget t.wgs w = some { y with groups := y.groups ++ [tfresh s.groups] } := by
  intro t
  unfold t State.startGroups State.startGroups
  refine ⟨updWg_launches _ _ _, ⟨_, _, _, _, updWg_groups _ _ _⟩, ?_⟩
  simp [State.updWg, State.noteHeld, State.updCore, State.bump, hw]

/-- A new workgroup of one group: it and its group are listed, and the launches are as they were. -/
theorem startWg_one {l : Nat} {x : Launch} {rs : List Role} {k : Nat} {role : Role} (hl : tget s.launches l = some x)
    (hr : roleGroups rs = [(k, 0, role)]) (lin scratch tiles : Nat) (param first : Word) (card : Option Card)
    (prio energy seq saveAt : Nat) (acq : Bool) (p : Spot) :
    let t := s.startWg l lin rs scratch tiles param first card prio energy seq saveAt acq p
    t.launches = s.launches
      ∧ (∃ core sub at_ now, t.grp? (tfresh s.groups)
        = some (newGroup param first 0 (k, 0, role) (tfresh s.wgs) core sub at_ now))
      ∧ t.wgD (tfresh s.wgs)
        = { s.newWg l lin x rs scratch tiles card prio energy seq saveAt p with groups := [tfresh s.groups] } := by
  obtain ⟨t, ht, hg, hlaunch, hw⟩ := startWg_startGroups hl lin rs scratch tiles param first card prio energy seq saveAt acq p
  have hw' : tget t.wgs (tfresh s.wgs) = some _ := hw ▸ tget_tput_self _ _ _
  obtain ⟨h1, ⟨core, sub, at_, now, h2⟩, h3⟩ := startGroups_one hw' param first p (k, 0, role)
  rw [ht, hr]
  refine ⟨h1.trans hlaunch, ⟨core, sub, at_, now, ?_⟩, ?_⟩
  · rw [← hg]
    exact (congrArg (tget · (tfresh t.groups)) h2).trans (tget_tput_self _ _ _)
  · rw [← hg]
    exact congrArg (·.getD {}) h3

theorem wgD_updLaunch (s : State) (l w : Nat) (f : Launch → Launch) : (s.updLaunch l f).wgD w = s.wgD w := by
  rw [State.wgD, updLaunch_wgs]
  rfl

theorem grp?_updLaunch (s : State) (l g : Nat) (f : Launch → Launch) : (s.updLaunch l f).grp? g = s.grp? g := by
  rw [State.grp?, updLaunch_groups]
  rfl

theorem tget_updLaunch {l : Nat} {x : Launch} (h : tget s.launches l = some x) (f : Launch → Launch) :
    tget (s.updLaunch l f).launches l = some (f x) := by
  rw [State.updLaunch, h]
  exact tget_tput_self _ _ _

/-- Dropping the entries that equal the default changes no reading, where no key is listed twice. -/
theorem tval_filter_ne {α : Type} [DecidableEq α] (d : α) (l : Table α) (h : (l.map Prod.fst).Nodup) (k : Nat) :
    tval d (l.filter fun p => decide (p.2 ≠ d)) k = tval d l k := by
  induction l with
  | nil => rfl
  | cons p l ih =>
    obtain ⟨hp, hl⟩ := List.nodup_cons.1 h
    have ih := ih hl
    by_cases hk : p.1 = k
    · subst hk
      have hn : tval d l p.1 = d := by
        unfold tval
        cases hg : tget l p.1 with
        | none => rfl
        | some v => exact absurd (List.mem_map.2 ⟨_, mem_of_tget hg, rfl⟩) hp
      by_cases hv : p.2 = d
      · simp_all [tval, tget]
      · simp [tval, tget, hv]
    · by_cases hv : p.2 = d <;> simp_all [tval, tget]

/-- What the scalar registers of the first group of a new workgroup read: the values of R30 in s0 to s4, and 0. -/
theorem newGroup_sregs (param first : Word) (role : Role) (k wg core sub at_ : Nat) (now : Word) (n : Nat) :
    tval 0 (newGroup param first 0 (k, 0, role) wg core sub at_ now).sregs n
      = tval 0 [(0, param), (1, first), (2, 0), (3, 0), (4, 0x1000000000000000)] n :=
  tval_filter_ne 0 [(0, param), (1, first), (2, BitVec.ofNat 64 0), (3, BitVec.ofNat 64 0), (4, 0x1000000000000000)]
    (by simp) n

end Sys2Proof.Machine

open Sys2Proof Sys2Proof.Machine in
/-- The placement pass with nothing to place, and with one workgroup of one group. -/
theorem placementSteps_hold : placementSteps := by
  intro s hg
  refine ⟨fun hn => ?none, fun l x r k role p u save hco hcand hl hgo hc he hr hp hs ho => ?one⟩
  case none =>
    refine ⟨_, placementPass_of hg (placeAll_none hn _), rfl, rfl, fun fn f hf => ?_⟩
    exact (tget_map s.fns (fun _ (x : Func) => { x with fresh := false }) fn).trans (by rw [hf])
  case one =>
    intro s1 hs1 g
    have h1 : s.placeOne s.coWaiting [] s.candidates = some s1 := by
      rw [hco, hcand]
      exact placeOne_fresh hl hgo hc he hp hs ho
    have hall : s.placeAll 32768 = s1 := by
      rw [show 32768 = 32767 + 1 from rfl, placeAll_some h1, placeAll_none hs1]
    obtain ⟨hlaunch, ⟨core, sub, at_, now, hgrp⟩, hwg⟩ := startWg_one hl hr x.nextWg x.desc.scratch x.desc.tiles
      x.desc.param (BitVec.ofNat 64 x.nextWg) none x.desc.prio x.desc.energy x.seq save x.acq p
    have hregs := newGroup_sregs x.desc.param (BitVec.ofNat 64 x.nextWg) role k (tfresh s.wgs) core sub at_ now
    have hwg1 := (wgD_updLaunch _ l (tfresh s.wgs) fun y => { y with nextWg := y.nextWg + 1 }).trans hwg
    refine ⟨_, placementPass_of hg hall, _, (grp?_updLaunch _ _ _ _).trans hgrp, rfl, rfl, rfl, rfl, rfl, rfl, rfl, rfl, rfl,
      rfl, rfl, rfl, rfl, hregs 0, hregs 1, hregs 2, hregs 3, hregs 4, fun n hn => (hregs n).trans ?_, rfl,
      congrArg Workgroup.groups hwg1, congrArg Workgroup.launch hwg1, { x with nextWg := x.nextWg + 1 }, ?_, rfl⟩
    · have : ∀ m < 5, ¬ m = n := fun m hm => by omega
      simp [tval, tget, this]
    · exact tget_updLaunch (by rw [hlaunch]; exact hl) _

open Sys2Proof Sys2Proof.Machine in
/-- Settles O50: queues, packets, what follows a packet, and the placement pass. -/
theorem dispatcherEvents : Obligations.DISPATCHER_EVENTS :=
  ⟨queueSteps_hold, packetSteps_hold, laterPackets_hold, placementSteps_hold⟩
end

section
/-! SUPPORT and O9. The rational number of a finite value, and the exact operations on it (R53, R154). -/

namespace Sys2Proof.Machine

/-! ### The number of a finite value -/

/-- A magnitude with its sign. -/
def signedMag (s : Bool) (m : Nat) : ℤ := if s then -m else m

theorem valueOf_fin (s : Bool) (m : Nat) (e : ℤ) : valueOf (.fin s m e) = signedMag s m * (2 : ℚ) ^ e := by
  cases s <;> simp [valueOf, signedMag]

@[simp] theorem valueOf_fin_zero (s : Bool) (e : ℤ) : valueOf (.fin s 0 e) = 0 := by simp [valueOf]

theorem valueOf_fin_ne_zero (s : Bool) {m : Nat} (e : ℤ) (hm : m ≠ 0) : valueOf (.fin s m e) ≠ 0 :=
  mul_ne_zero (mul_ne_zero (by cases s <;> simp) (Nat.cast_ne_zero.2 hm)) (zpow_ne_zero e two_ne_zero)

/-- A value at a lower exponent `g`: its magnitude takes the digits between. -/
theorem valueOf_fin_align (s : Bool) (m : Nat) {e g : ℤ} (h : g ≤ e) :
    valueOf (.fin s (m * 2 ^ (e - g).toNat) g) = valueOf (.fin s m e) := by
  have hexp : e = (e - g).toNat + g := by omega
  have hpow : (2 : ℚ) ^ e = 2 ^ (e - g).toNat * 2 ^ g := by
    conv_lhs => rw [hexp]
    rw [zpow_add₀ two_ne_zero, zpow_natCast]
  simp only [valueOf, hpow, Nat.cast_mul, Nat.cast_pow, Nat.cast_ofNat]
  ring

/-! ### Sums -/

/-- Values of like sign at one exponent. -/
theorem valueOf_fin_add (s : Bool) (a b : Nat) (g : ℤ) :
    valueOf (.fin s (a + b) g) = valueOf (.fin s a g) + valueOf (.fin s b g) := by
  simp only [valueOf, Nat.cast_add]
  ring

/-- Values of unlike sign at one exponent: the greater magnitude keeps its sign. -/
theorem valueOf_fin_sub {s t : Bool} (hst : s ≠ t) {a b : Nat} (h : b ≤ a) (g : ℤ) :
    valueOf (.fin s (a - b) g) = valueOf (.fin s a g) + valueOf (.fin t b g) := by
  obtain rfl : t = !s := Bool.eq_not.2 hst.symm
  cases s <;> simp [valueOf, Nat.cast_sub h] <;> ring

/-- Opposite values. -/
theorem valueOf_fin_cancel {s t : Bool} (hst : s ≠ t) (a : Nat) (g : ℤ) :
    valueOf (.fin s a g) + valueOf (.fin t a g) = 0 := by
  rw [← valueOf_fin_sub hst le_rfl, Nat.sub_self, valueOf_fin_zero]

theorem isFin_add (mode : Nat) (s t : Bool) (m n : Nat) (e f : ℤ) :
    isFin (FVal.add mode (.fin s m e) (.fin t n f)) = true := by
  simp only [FVal.add]
  split_ifs <;> rfl

theorem valueOf_add (mode : Nat) (s t : Bool) (m n : Nat) (e f : ℤ) :
    valueOf (FVal.add mode (.fin s m e) (.fin t n f)) = valueOf (.fin s m e) + valueOf (.fin t n f) := by
  have hx := valueOf_fin_align s m (min_le_left e f)
  have hy := valueOf_fin_align t n (min_le_right e f)
  simp only [FVal.add]
  split_ifs with hzero hst hm hn hst hcancel hlt
  · simp [hzero]
  · simp [hzero]
  · simp [hm]
  · simp [hn]
  · subst hst
    rw [valueOf_fin_add, hx, hy]
  · rw [valueOf_fin_zero, ← hx, ← hy, hcancel, valueOf_fin_cancel hst]
  · rw [valueOf_fin_sub hst hlt.le, hx, hy]
  · rw [valueOf_fin_sub (Ne.symm hst) (not_lt.1 hlt), hx, hy, add_comm]

/-- The sign of a zero sum of values of unlike sign. -/
theorem neg?_add_of_zero (mode : Nat) {s t : Bool} {m n : Nat} {e f : ℤ} (hst : s ≠ t)
    (h : valueOf (.fin s m e) + valueOf (.fin t n f) = 0) :
    (FVal.add mode (.fin s m e) (.fin t n f)).neg? = decide (mode = 2) := by
  have hx := valueOf_fin_align s m (min_le_left e f)
  have hy := valueOf_fin_align t n (min_le_right e f)
  simp only [FVal.add]
  split_ifs with hzero hm hn hcancel hlt
  · rfl
  · rw [hm, valueOf_fin_zero, zero_add] at h
    exact absurd h (valueOf_fin_ne_zero t f fun hn => hzero ⟨hm, hn⟩)
  · rw [hn, valueOf_fin_zero, add_zero] at h
    exact absurd h (valueOf_fin_ne_zero s e hm)
  · rfl
  · rw [← hx, ← hy, ← valueOf_fin_sub hst hlt.le] at h
    exact absurd h (valueOf_fin_ne_zero s _ (Nat.sub_ne_zero_of_lt hlt))
  · have hgt := lt_of_le_of_ne (not_lt.1 hlt) hcancel
    rw [← hx, ← hy, add_comm, ← valueOf_fin_sub (Ne.symm hst) hgt.le] at h
    exact absurd h (valueOf_fin_ne_zero t _ (Nat.sub_ne_zero_of_lt hgt))

/-! ### Products, scalings and comparisons -/

theorem valueOf_mul (s t : Bool) (m n : Nat) (e f : ℤ) :
    valueOf (FVal.mul (.fin s m e) (.fin t n f)) = valueOf (.fin s m e) * valueOf (.fin t n f) := by
  have hpow : (2 : ℚ) ^ (e + f) = 2 ^ e * 2 ^ f := zpow_add₀ two_ne_zero e f
  have hsign : (if (s != t) = true then (-1 : ℚ) else 1) = (if s = true then -1 else 1) * (if t = true then -1 else 1) := by
    cases s <;> cases t <;> simp
  simp only [FVal.mul, valueOf, hsign, hpow, Nat.cast_mul]
  ring

theorem valueOf_scale (s : Bool) (m : Nat) (e k : ℤ) :
    valueOf ((FVal.fin s m e).scale k) = valueOf (.fin s m e) * (2 : ℚ) ^ k := by
  simp only [FVal.scale, valueOf, zpow_add₀ (two_ne_zero (α := ℚ))]
  ring

/-- Numbers at one exponent are ordered as their signed magnitudes. -/
theorem compare_mul_zpow (p q g : ℤ) : compare ((p : ℚ) * 2 ^ g) (q * 2 ^ g) = compare p q := by
  have hpos : (0 : ℚ) < 2 ^ g := by positivity
  rcases lt_trichotomy p q with h | rfl | h
  · rw [compare_lt_iff_lt.2 h, compare_lt_iff_lt]
    exact mul_lt_mul_of_pos_right (Int.cast_lt.2 h) hpos
  · rw [compare_eq_iff_eq.2 rfl, compare_eq_iff_eq.2 rfl]
  · rw [compare_gt_iff_gt.2 h, compare_gt_iff_gt]
    exact mul_lt_mul_of_pos_right (Int.cast_lt.2 h) hpos

theorem cmp_fin (s t : Bool) (m n : Nat) (e f : ℤ) :
    FVal.cmp (.fin s m e) (.fin t n f) = some (compare (valueOf (.fin s m e)) (valueOf (.fin t n f))) := by
  rw [← valueOf_fin_align s m (min_le_left e f), ← valueOf_fin_align t n (min_le_right e f), valueOf_fin, valueOf_fin,
    compare_mul_zpow]
  simp only [FVal.cmp, signedMag, compare, compareOfLessAndEq, Nat.cast_mul, Nat.cast_pow, Nat.cast_ofNat]

end Sys2Proof.Machine

open Sys2Proof Sys2Proof.Machine in
/-- Settles O9: each operation on two finite values, case by case along its definition. -/
theorem floatArithmeticExact : Obligations.FLOAT_ARITHMETIC_EXACT := by
  intro mode a b k ha hb
  match a, b with
  | .fin s m e, .fin t n f =>
    exact ⟨⟨isFin_add .., valueOf_add ..⟩, ⟨rfl, valueOf_mul ..⟩, ⟨rfl, valueOf_scale ..⟩, cmp_fin ..,
      neg?_add_of_zero mode⟩
end

section
/-! SUPPORT and O14. A `.fmt` slot whose formats are refused, or whose part lies beyond them (R71, R150, R151). -/

namespace Sys2Proof.Machine

variable {s : State} {f : Form} {sl : Slot} {x : Group} {lat : Machine.Lat} {body : State → Group → Effect}
  {ok : Nat → Nat → Nat → Bool} {used : FCtx → List Fmt}

/-! ### The two traps -/

/-- A slot whose effect is the trap of a refused format: FMT at issue is the group's. -/
theorem runSlot_fmtTrap (h : Issues s f sl x) (hb : body (s.atIssue sl) (x.cover sl) = fmtTrap (s.atIssue sl) (x.cover sl)) :
    runSlot f lat sl body s = traps s sl x { cause := 1, info := BitVec.ofNat 64 (8 * 2 ^ 32 + bits x.fmt 11 0) } :=
  runSlot_traps h hb

/-- A slot whose effect is ILLEGAL_INSTRUCTION with a REASON. -/
theorem runSlot_illegal (h : Issues s f sl x) {reason : Nat}
    (hb : body (s.atIssue sl) (x.cover sl) = illegal (s.atIssue sl) reason) :
    runSlot f lat sl body s = traps s sl x { cause := 1, info := BitVec.ofNat 64 (reason * 2 ^ 32) } :=
  runSlot_traps h (hb.trans (illegal_eq _ _))

/-! ### Where `floatRun` traps -/

/-- PART lies beyond the formats used, of which the widest holds so many of the narrowest (R150, R151). -/
def PartBeyond (sl : Slot) (x : Group) (used : FCtx → List Fmt) : Prop :=
  let c := (fmtCtx sl x).spanning (used (fmtCtx sl x))
  c.wmax / c.wmin ≤ modPart sl

theorem floatRun_refused {typed : FCtx} {run : FCtx → Effect} (hf : tyIsFmt sl = true)
    (hok : ok (bits x.fmt 3 0) (bits x.fmt 7 4) (bits x.fmt 11 8) = false) :
    floatRun sl s x typed ok used run = fmtTrap s x := by
  simp only [floatRun, hf, hok, if_true, if_false, Bool.false_eq_true]

theorem floatRun_beyond {typed : FCtx} {run : FCtx → Effect} (hf : tyIsFmt sl = true)
    (hok : ok (bits x.fmt 3 0) (bits x.fmt 7 4) (bits x.fmt 11 8) = true) (hpart : PartBeyond sl x used) :
    floatRun sl s x typed ok used run = illegal s 4 := by
  simp only [floatRun, hf, hok, if_true]
  exact if_neg (Nat.not_lt.2 hpart)

/-- The effect of a slot is `floatRun` with these accepted codes and these formats. -/
def RunsFloat (sl : Slot) (ok : Nat → Nat → Nat → Bool) (used : FCtx → List Fmt)
    (body : State → Group → Effect) : Prop :=
  ∀ s x, ∃ typed run, body s x = floatRun sl s x typed ok used run

theorem runSlot_refused (h : Issues s f sl x) (hf : tyIsFmt sl = true) (hbody : RunsFloat sl ok used body)
    (hok : ok (bits x.fmt 3 0) (bits x.fmt 7 4) (bits x.fmt 11 8) = false) :
    runSlot f lat sl body s = traps s sl x { cause := 1, info := BitVec.ofNat 64 (8 * 2 ^ 32 + bits x.fmt 11 0) } := by
  obtain ⟨typed, run, hb⟩ := hbody (s.atIssue sl) (x.cover sl)
  exact runSlot_fmtTrap h (hb.trans (floatRun_refused hf hok))

theorem runSlot_beyond (h : Issues s f sl x) (hf : tyIsFmt sl = true) (hbody : RunsFloat sl ok used body)
    (hok : ok (bits x.fmt 3 0) (bits x.fmt 7 4) (bits x.fmt 11 8) = true) (hpart : PartBeyond sl x used) :
    runSlot f lat sl body s = traps s sl x { cause := 1, info := BitVec.ofNat 64 (4 * 2 ^ 32) } := by
  obtain ⟨typed, run, hb⟩ := hbody (s.atIssue sl) (x.cover sl)
  exact runSlot_illegal h (hb.trans (floatRun_beyond hf hok hpart))

/-! ### The codes and formats of each instruction -/

theorem flt1_runsFloat (g : FCtx → FVal → FVal) :
    RunsFloat sl (fun a _ o => okIn a && okOut o) (fun c => [c.fa, c.fo]) (flt1 g sl) := by
  intro s x
  unfold flt1
  exact ⟨_, _, rfl⟩

theorem flt2_runsFloat (g : FCtx → FVal → FVal → FVal) :
    RunsFloat sl (fun a b o => okIn a && okIn b && okOut o) (fun c => [c.fa, c.fb, c.fo]) (flt2 g sl) := by
  intro s x
  unfold flt2
  exact ⟨_, _, rfl⟩

theorem ffmaBody_runsFloat :
    RunsFloat sl (fun a b o => okIn a && okIn b && okOut o) (fun c => [c.fa, c.fb, c.fo]) (ffmaBody sl) := by
  intro s x
  unfold ffmaBody
  exact ⟨_, _, rfl⟩

theorem specialBody_runsFloat (opc : Nat) :
    RunsFloat sl (fun a _ o => okIn a && okOut o) (fun c => [c.fa, c.fo]) (specialBody opc sl) := by
  intro s x
  unfold specialBody
  exact ⟨_, _, rfl⟩

theorem fcvtBody_runsFloat : RunsFloat sl (fun a _ o => okIn a && okOut o) (fun c => [c.fa, c.fo]) (fcvtBody sl) := by
  intro s x
  unfold fcvtBody
  exact ⟨_, _, rfl⟩

theorem fcvtiBody_runsFloat : RunsFloat sl (fun a _ o => okCvti a o) (fun c => [c.fa, c.fo]) (fcvtiBody sl) := by
  intro s x
  unfold fcvtiBody
  exact ⟨_, _, rfl⟩

theorem fcmpBody_runsFloat : RunsFloat sl (fun a b _ => okIn a && okIn b) (fun c => [c.fa, c.fb]) (fcmpBody sl) := by
  intro s x
  unfold fcmpBody
  exact ⟨_, _, rfl⟩

theorem fclassBody_runsFloat : RunsFloat sl (fun a _ _ => okIn a) (fun c => [c.fa]) (fclassBody sl) := by
  intro s x
  unfold fclassBody
  exact ⟨_, _, rfl⟩

theorem fqsumBody_runsFloat :
    RunsFloat sl (fun a _ o => okIn a && (fmtD a).isTap && okOut o) (fun c => [c.fa, c.fo]) (fqsumBody sl) := by
  intro s x
  unfold fqsumBody
  exact ⟨_, _, rfl⟩

/-- FDOT2 has no part; it asks for two operands of one width and an output of twice that (R155). -/
theorem fdot2Body_refused (hf : tyIsFmt sl = true)
    (hok : ¬ (okIn (bits x.fmt 3 0) ∧ okIn (bits x.fmt 7 4) ∧ okOut (bits x.fmt 11 8)
      ∧ (fmtD (bits x.fmt 3 0)).width = (fmtD (bits x.fmt 7 4)).width
      ∧ (fmtD (bits x.fmt 11 8)).width = 2 * (fmtD (bits x.fmt 3 0)).width)) :
    fdot2Body sl s x = fmtTrap s x := by
  rw [fdot2Body, if_pos hf]
  exact if_neg hok

end Sys2Proof.Machine

open Sys2Proof Sys2Proof.Machine in
/-- Settles O14: every float instruction but FDOT2 runs in `floatRun`, which checks the formats, then the part. -/
theorem unacceptedFormatsTrap : Obligations.UNACCEPTED_FORMATS_TRAP := by
  intro s x sl a b o trap beyond past three two hf
  have not3 (hn : ¬ (okIn a ∧ okIn b ∧ okOut o)) : (okIn a && okIn b && okOut o) = false := by
    simpa [and_assoc] using hn
  have not2 (hn : ¬ (okIn a ∧ okOut o)) : (okIn a && okOut o) = false := by simpa using hn
  refine ⟨fun h hn => ?arith, fun h hn => ?ffma, fun h hn => ?sign, fun h hn => ?fcvt, fun h hn => ?special,
    fun h hn => ?minmax, fun h hn => ?frnd, fun h hn => ?fcmp, fun h hn => ?fclass, fun h hn => ?fcvti,
    fun h hn => ?fdot2, fun h hn => ?fqsum, fun h ha hb ho hp => ?arithPart, fun h ha ho hp => ?fcvtPart⟩
  case arith =>
    have t (g) := runSlot_refused (lat := .fixed 5) h hf (flt2_runsFloat g) (not3 hn)
    exact ⟨t _, t _, t _⟩
  case ffma => exact runSlot_refused h hf ffmaBody_runsFloat (not3 hn)
  case sign =>
    have t (g) := runSlot_refused (lat := .fixed 5) h hf (flt1_runsFloat g) (not2 hn)
    exact ⟨t _, t _⟩
  case fcvt => exact runSlot_refused h hf fcvtBody_runsFloat (not2 hn)
  case special =>
    have t (opc) := runSlot_refused (lat := .var) h hf (specialBody_runsFloat opc) (not2 hn)
    exact ⟨t _, t _, t _, t _, t _, t _, t _, t _, t _⟩
  case minmax =>
    have t (g) := runSlot_refused (lat := .fixed 5) h hf (flt2_runsFloat g) (not3 hn)
    exact ⟨t _, t _⟩
  case frnd => exact runSlot_refused h hf (flt1_runsFloat _) (not2 hn)
  case fcmp => exact runSlot_refused h hf fcmpBody_runsFloat (by simpa using hn)
  case fclass => exact runSlot_refused h hf fclassBody_runsFloat (by simpa using hn)
  case fcvti => exact runSlot_refused h hf fcvtiBody_runsFloat (by simpa using hn)
  case fdot2 => exact runSlot_fmtTrap h (fdot2Body_refused hf hn)
  case fqsum => exact runSlot_refused h hf fqsumBody_runsFloat (by simpa [and_assoc] using hn)
  case arithPart =>
    have t (g) := runSlot_beyond (lat := .fixed 5) h hf (flt2_runsFloat g) (by simp [a, b, o, ha, hb, ho]) hp
    exact ⟨t _, t _, t _⟩
  case fcvtPart => exact runSlot_beyond h hf fcvtBody_runsFloat (by simp [a, o, ha, ho]) hp
end

section
/-! SUPPORT and O17. Fields of a word, read and replaced, and the fields of FMT (R69, R118, R119, Table 4.4). -/

namespace Sys2Proof.Machine

/-! ### Fields of a word -/

theorem bits_eq_extract (v : Word) {hi lo w : Nat} (h : hi + 1 - lo = w) : bits v hi lo = (v.extractLsb' lo w).toNat := by
  rw [bits, h, BitVec.extractLsb'_toNat, Nat.shiftRight_eq_div_pow]

theorem testBit_bits (v : Word) {hi lo w : Nat} (h : hi + 1 - lo = w) (i : Nat) :
    (bits v hi lo).testBit i = (decide (i < w) && v.getLsbD (lo + i)) := by
  rw [bits_eq_extract v h, ← BitVec.getLsbD, BitVec.getLsbD_extractLsb']

/-- A word cut at a field: the digits below it, the field, and the digits above. -/
theorem toNat_eq_fields (v : Word) (lo w : Nat) :
    v.toNat = 2 ^ lo * (2 ^ w * (v.toNat / 2 ^ (lo + w)) + v.toNat / 2 ^ lo % 2 ^ w) + v.toNat % 2 ^ lo := by
  rw [Nat.pow_add, ← Nat.div_div_eq_div_mul, Nat.div_add_mod, Nat.div_add_mod]

/-- A replaced field reads as the number put there, and every other bit as before. -/
theorem getLsbD_setBits (v : Word) {hi lo w : Nat} (n : Nat) (h : hi + 1 - lo = w) {i : Nat} (hi64 : i < 64) :
    (setBits v hi lo n).getLsbD i = if lo ≤ i ∧ i < lo + w then n.testBit (i - lo) else v.getLsbD i := by
  have hlow : v.toNat % 2 ^ lo < 2 ^ lo := Nat.mod_lt _ (Nat.two_pow_pos lo)
  have hset : v.toNat - bits v hi lo * 2 ^ lo + n % 2 ^ w * 2 ^ lo
      = 2 ^ lo * (2 ^ w * (v.toNat / 2 ^ (lo + w)) + n % 2 ^ w) + v.toNat % 2 ^ lo := by
    conv_lhs => rw [toNat_eq_fields v lo w, bits, h]
    rw [Nat.mul_add, Nat.mul_add, Nat.mul_comm _ (2 ^ lo), Nat.mul_comm _ (2 ^ lo)]
    omega
  rw [setBits, h, hset, BitVec.getLsbD_ofNat, Nat.testBit_two_pow_mul_add _ hlow, BitVec.getLsbD]
  conv_rhs => rw [toNat_eq_fields v lo w, Nat.testBit_two_pow_mul_add _ hlow]
  by_cases hlo : i < lo
  · simp [hlo, hi64, Nat.not_le.2 hlo]
  · rw [if_neg hlo, if_neg hlo, Nat.testBit_two_pow_mul_add _ (Nat.mod_lt _ (Nat.two_pow_pos w)),
      Nat.testBit_two_pow_mul_add _ (Nat.mod_lt _ (Nat.two_pow_pos w))]
    by_cases hw : i - lo < w
    · simp [hw, hi64, Nat.testBit_mod_two_pow, Nat.not_lt.1 hlo, show i < lo + w by omega]
    · simp [hw, hi64, show ¬ i < lo + w by omega]

/-! ### The fields of FMT (Table 4.4) -/

/-- The bits of the field that a selector names, by its place and width. -/
theorem fmtField_eq {n : Nat} (h : n ≤ 8) : fmtField n = ((fmtPlace n).1 + (fmtPlace n).2 - 1, (fmtPlace n).1) := by
  interval_cases n <;> rfl

theorem fmtPlace_width_pos (n : Nat) : 0 < (fmtPlace n).2 := by
  unfold fmtPlace
  split <;> decide

/-- A whole FMT is accepted with no reserved bit and no format 15. -/
theorem fmtOk_iff (v : Word) : fmtOk v = true ↔ ¬ (v.extractLsb' 14 2 ≠ 0 ∨ v.extractLsb' 41 23 ≠ 0
    ∨ v.extractLsb' 0 4 = 15 ∨ v.extractLsb' 4 4 = 15 ∨ v.extractLsb' 8 4 = 15) := by
  simp only [fmtOk, Bool.and_eq_true, decide_eq_true_eq, bits_eq_extract v (show 15 + 1 - 14 = 2 from rfl),
    bits_eq_extract v (show 63 + 1 - 41 = 23 from rfl), bits_eq_extract v (show 3 + 1 - 0 = 4 from rfl),
    bits_eq_extract v (show 7 + 1 - 4 = 4 from rfl), bits_eq_extract v (show 11 + 1 - 8 = 4 from rfl),
    ne_eq, not_or, not_not, and_assoc, ← BitVec.toNat_inj]
  rfl

/-- The values that SETFMT refuses with selector `n` (R119). -/
def refusesFmt (n : Nat) (v : Word) : Prop :=
  if n = 0 then v.extractLsb' 14 2 ≠ 0 ∨ v.extractLsb' 41 23 ≠ 0 ∨ v.extractLsb' 0 4 = 15 ∨ v.extractLsb' 4 4 = 15
    ∨ v.extractLsb' 8 4 = 15
  else n ≤ 3 ∧ v.extractLsb' 0 4 = 15

/-- A code field of SETFMT's value, which has four bits as the three code fields of FMT have. -/
theorem bits_code_eq_15 {n : Nat} (h1 : 1 ≤ n) (h3 : n ≤ 3) (v : Word) :
    bits v ((fmtField n).1 - (fmtField n).2) 0 = 15 ↔ v.extractLsb' 0 4 = 15 := by
  have hw : (fmtField n).1 - (fmtField n).2 + 1 - 0 = 4 := by interval_cases n <;> rfl
  rw [bits_eq_extract v hw, ← BitVec.toNat_inj]
  rfl

theorem setFmtValue_refused {n : Nat} {v : Word} (fmt : Word) (h : refusesFmt n v) : setFmtValue n fmt v = none := by
  by_cases h0 : n = 0
  · simp only [refusesFmt, if_pos h0] at h
    have hok : ¬ fmtOk v = true := fun k => (fmtOk_iff v).1 k h
    simp only [setFmtValue, if_pos h0, if_neg hok]
  · simp only [refusesFmt, if_neg h0] at h
    simp only [setFmtValue, if_neg h0]
    exact if_pos ⟨h.1, (bits_code_eq_15 (Nat.pos_of_ne_zero h0) h.1 v).2 h.2⟩

theorem setFmtValue_accepted {n : Nat} {v : Word} (fmt : Word) (h8 : n ≤ 8) (h : ¬ refusesFmt n v) :
    ∃ f, setFmtValue n fmt v = some f ∧ ∀ i, i < 64 →
      f.getLsbD i = if (fmtPlace n).1 ≤ i ∧ i < (fmtPlace n).1 + (fmtPlace n).2 then v.getLsbD (i - (fmtPlace n).1)
        else fmt.getLsbD i := by
  by_cases h0 : n = 0
  · subst h0
    have hok : fmtOk v = true := (fmtOk_iff v).2 h
    exact ⟨v, by simp [setFmtValue, hok], fun i hi => by simp [fmtPlace, hi]⟩
  · have hcode : ¬ (n ≤ 3 ∧ bits v ((fmtField n).1 - (fmtField n).2) 0 = 15) := fun k =>
      h (by rw [refusesFmt, if_neg h0]; exact ⟨k.1, (bits_code_eq_15 (Nat.pos_of_ne_zero h0) k.1 v).1 k.2⟩)
    have hpos := fmtPlace_width_pos n
    refine ⟨setBits fmt (fmtField n).1 (fmtField n).2 (bits v ((fmtField n).1 - (fmtField n).2) 0),
      by simp only [setFmtValue, if_neg h0, if_neg hcode], fun i hi => ?_⟩
    rw [fmtField_eq h8, getLsbD_setBits fmt _ (w := (fmtPlace n).2) (by omega) hi,
      testBit_bits v (w := (fmtPlace n).2) (by omega), Nat.zero_add]
    by_cases hin : (fmtPlace n).1 ≤ i ∧ i < (fmtPlace n).1 + (fmtPlace n).2
    · simp [hin, show i - (fmtPlace n).1 < (fmtPlace n).2 by omega]
    · simp only [hin, if_false]

/-- The field of FMT that GETFMT reads: a scale is signed. -/
theorem getFmtValue_eq {n : Nat} (h8 : n ≤ 8) (fmt : Word) : getFmtValue n fmt =
    if 5 ≤ n ∧ n ≤ 7 then (fmt.extractLsb' (fmtPlace n).1 8).signExtend 64
    else (fmt >>> (fmtPlace n).1) &&& (BitVec.allOnes 64 >>> (64 - (fmtPlace n).2)) := by
  have hpos := fmtPlace_width_pos n
  have hfield : (fmtPlace n).1 + (fmtPlace n).2 - 1 + 1 - (fmtPlace n).1 = (fmtPlace n).2 := by omega
  simp only [getFmtValue, fmtField_eq h8]
  by_cases hscale : 5 ≤ n ∧ n ≤ 7
  · have hw : (fmtPlace n).2 = 8 := by obtain ⟨h5, h7⟩ := hscale; interval_cases n <;> rfl
    rw [if_pos hscale, if_pos hscale, bits_eq_extract fmt (hfield.trans hw), signed_toNat]
    rfl
  · rw [if_neg hscale, if_neg hscale]
    have hw : (fmtPlace n).2 ≤ 64 := by interval_cases n <;> decide
    apply BitVec.eq_of_getLsbD_eq
    intro i hi
    have hbelow : 64 - (fmtPlace n).2 + i < 64 ↔ i < (fmtPlace n).2 := by omega
    rw [BitVec.getLsbD_ofNat, testBit_bits fmt hfield, BitVec.getLsbD_and, BitVec.getLsbD_ushiftRight,
      BitVec.getLsbD_ushiftRight, BitVec.getLsbD_allOnes]
    simp only [hi, hbelow, decide_true, Bool.true_and, Bool.and_comm]

/-- A slot that passes check 2 has an assigned SUB (R96). -/
theorem sub_assigned {s : State} {f : Form} {sl : Slot} {x : Group} (h : Issues s f sl x) : f.sub = true :=
  (decodeTrap_none h.decodes).1

end Sys2Proof.Machine

open Sys2Proof Sys2Proof.Machine in
/-- Settles O17: SETFMT replaces the field or traps, by what `setFmtValue` makes of the value, and GETFMT reads the field. -/
theorem formatRegisterResults : Obligations.FORMAT_REGISTER_RESULTS := by
  intro s x sl v n lo wd refused
  refine ⟨fun h => ⟨fun hr => ?set, fun hr => ?trap⟩, fun h => ?get⟩
  case set =>
    obtain ⟨f, hf, hbits⟩ := setFmtValue_accepted x.fmt (of_decide_eq_true (sub_assigned h)) (v := v) hr
    refine ⟨f, runSlot_changesGroup h (body := setfmtBody sl) (u := fun y => { y with fmt := f }) ?_ rfl, hbits⟩
    simp only [setfmtBody, ssrc_atIssue h.group]
    rw [show (x.cover sl).fmt = x.fmt from rfl, hf]
  case trap =>
    refine runSlot_traps h ?_
    simp only [setfmtBody, ssrc_atIssue h.group]
    rw [setFmtValue_refused (n := subN sl) (x.cover sl).fmt hr]
    simp only [valueTrap, decInfo, Nat.one_mul, Nat.add_assoc]
  case get =>
    refine (runSlot_writes h (body := getfmtBody sl) rfl).trans ?_
    rw [getFmtValue_eq (of_decide_eq_true (sub_assigned h))]
    rfl
end

section
/-! SUPPORT and O21. The contributions of a reduction and the places of its results (R169, R170). -/

namespace Sys2Proof.Machine

variable {s : State} {f : Form} {sl : Slot} {x : Group}

/-! ### Lane results -/

/-- A slot whose effect gives each lane of a vector gives that vector. -/
theorem givesVec_of_vecLanes {i : Instr} {lat : Machine.Lat} {body : State → Group → Effect} {r : Nat → Word}
    {P : Vec → Prop} (h : Issues s f sl x) (he : exec i s = runSlot f lat sl body s)
    (hb : body (s.atIssue sl) (x.cover sl) = vecLanes sl (s.atIssue sl) (x.cover sl) r) (hP : P (vecOf r)) :
    givesVec i s x sl lat P := ⟨vecOf r, he.trans (runSlot_writes h hb), hP⟩

/-! ### Types -/

/-- A type of F is no integer type. -/
theorem intTy_of_tyF (h : tyF sl = true) : intTy sl = none := by
  simp only [tyF, Bool.and_eq_true, decide_eq_true_eq] at h
  unfold intTy
  split
  case h_11 => rfl
  all_goals omega

theorem redFmt_of_tyF (h : tyF sl = true) : redFmt sl = tyFmt sl := by rw [redFmt, intTy_of_tyF h]

/-- SUB of LRED is the operation itself. -/
theorem subN_of_fLred (h : Issues s (fLred sl) sl x) : subN sl % 8 = subN sl := by
  have h5 : subN sl ≤ 5 := of_decide_eq_true (sub_assigned h)
  omega

/-! ### Contributions (R169) -/

/-- The lanes that contribute are the live ones whose lane guard holds. -/
theorem getLsbD_contributes {L : Nat} (hL : L < 32) :
    (x.live &&& (if sl.lg.getLsbD 3 then ~~~(x.vp (sl.lg.toNat % 8)) else x.vp (sl.lg.toNat % 8))).getLsbD L
      = givesLane x sl L := by
  rw [givesLane, BitVec.getLsbD_and]
  congr 1
  cases sl.lg.getLsbD 3 <;> simp [hL]

/-- The contribution of lane `L` at element position `k`. -/
def redPart (sl : Slot) (x : Group) (a : Vec) (op w k L : Nat) : Nat :=
  if givesLane x sl L then (elem w k (lane a L)).toNat else redIdent op (redFmt sl) (modRnd sl)

theorem redParts_eq (a : Vec) (op w k : Nat) : redParts sl x a op w k = (List.range 32).map (redPart sl x a op w k) := by
  refine List.map_congr_left fun L hL => ?_
  rw [getLsbD_contributes (List.mem_range.1 hL), sub_eq_elem]
  rfl

theorem take_redParts (a : Vec) (op w k : Nat) {n : Nat} (hn : n ≤ 32) :
    (redParts sl x a op w k).take n = (List.range n).map (redPart sl x a op w k) := by
  rw [redParts_eq, ← List.map_take, List.take_range, Nat.min_eq_left hn]

end Sys2Proof.Machine

open Sys2Proof Sys2Proof.Machine in
/-- Settles O21: each element position is one combination of the contributions, of all lanes or of the lanes up to one. -/
theorem floatReductionResults : Obligations.FLOAT_REDUCTION_RESULTS := by
  intro s x sl f w op part ht
  have hpart (k : Nat) : redPart sl x (s.vsrc x sl w sl.a) op w k = part k := by
    funext L
    simp only [redPart, part, redFmt_of_tyF ht]
    rfl
  refine ⟨fun h => ?lred, fun h => ?lscan⟩
  case lred =>
    have hop : subN sl = op := (subN_of_fLred h).symm
    refine ⟨_, runSlot_writes h (body := lredBody sl) rfl, fun k hk => ?_⟩
    rw [elem_ofSubs _ _ _ hk, redParts_eq, vsrc_atIssue h.group, redFmt_of_tyF ht, hop, ← hpart]
    rfl
  case lscan =>
    refine givesVec_of_vecLanes h rfl rfl fun L k hL hk => ?_
    intro n
    have hn : n ≤ 32 := by unfold n; split <;> omega
    rw [lane_vecOf _ _ hL, elem_ofSubs _ _ _ hk, ← hpart, ← take_redParts _ _ _ _ hn, vsrc_atIssue h.group,
      redFmt_of_tyF ht]
    rfl
end

section
/-! SUPPORT and O29. The course of an access that may be made and is answered (R193 to R199, R296, R350), and the loads, stores
and atomics that take it. -/

namespace Sys2Proof.Machine

variable {s u : State} {fm : Form} {sl : Slot} {x : Group} {v : View} {n kind words : Nat} {hub : Bool} {ask : Ask}
  {addrs : List (Nat × Word)} {ps : List Piece}

/-! ### The course of an access -/

theorem lateErr_answered (h : firstErr ps = none) : s.lateErr v ps = s := by rw [State.lateErr, h]

/-- An access that synchronises waits for nothing when the group's accesses at peers are answered. -/
theorem accessAt_not_held (h : AccessAt s v sl n kind hub words ask addrs ps u) :
    ¬ (syncKind sl kind = true ∧ ¬ s.peerQuiet s.cur = true) := by
  rintro ⟨hsync, hbusy⟩
  simp only [syncKind, Bool.or_eq_true, decide_eq_true_eq] at hsync
  rcases hsync with (hord | hatom) | hred
  · exact hbusy (h.quiet (.inl hord))
  · exact hbusy (h.quiet (.inr hatom.ge))
  · exact hbusy (h.quiet (.inr (by omega)))

/-- An access that may be made and is answered performs its action and ends with the column action of its order. -/
theorem accessRun_of (h : AccessAt s (s.viewOf s.cur) sl n kind hub words ask addrs ps u)
    (f : State → View → List Piece → State × List RegWrite) :
    accessRun sl n kind hub addrs s x ask f words
      = .done ((f u (s.viewOf s.cur) ps).1.ordAfter (s.viewOf s.cur) sl) (f u (s.viewOf s.cur) ps).2 := by
  obtain ⟨r, ps0, hr, hps, hu⟩ := h.checked
  have hgo : ¬ ((addrs.any fun p => s.egressLow (s.viewOf s.cur) p.2) = true
      ∨ syncKind sl kind = true ∧ ¬ s.peerQuiet s.cur = true) := not_or.2 ⟨by simp [h.room], accessAt_not_held h⟩
  simp only [accessRun, if_neg hgo, hr]
  rw [← hps, ← hu, lateErr_answered h.answers]

/-- A slot that is an access completes so. -/
theorem runSlot_access (h : Issues s fm sl x) (lat : Machine.Lat) {body : State → Group → Effect}
    {f : State → View → List Piece → State × List RegWrite}
    (hb : body (s.atIssue sl) (x.cover sl) = accessRun sl n kind hub addrs (s.atIssue sl) (x.cover sl) ask f words)
    (ha : AccessAt (s.atIssue sl) ((s.atIssue sl).viewOf s.cur) sl n kind hub words ask addrs ps u) :
    let v := (s.atIssue sl).viewOf s.cur
    runSlot fm lat sl body s = retired s ((f u v ps).1.ordAfter v sl) sl lat (f u v ps).2 := by
  have hcur := cur_atIssue (sl := sl) h.group
  rw [← hcur] at ha
  have hdone := accessRun_of (x := x.cover sl) ha f
  rw [hcur] at hdone
  exact runSlot_done h (hb.trans hdone)

/-! ### The registers that results go to -/

theorem dstRef_of_mem_vecOut {tm : Bool} {code : BitVec 10} {i : Nat} {sel : Mask} {w : Vec} {r : RegRef}
    (h : r ∈ (vecOut tm code i sel w).map RegWrite.ref) : dstRef tm code i = some r := by
  unfold vecOut at h
  split at h <;> simp_all [RegWrite.ref]

theorem dstRef_of_mem_scaOut {tm : Bool} {code : BitVec 10} {i : Nat} {w : Word} {r : RegRef}
    (h : r ∈ (scaOut tm code i w).map RegWrite.ref) : dstRef tm code i = some r := by
  unfold scaOut at h
  split at h <;> simp_all [RegWrite.ref]

/-- A scalar load or atomic writes its destination, or nothing. -/
theorem dstRef_of_mem_scaOut_unless {tm : Bool} {code : BitVec 10} {i : Nat} {w : Word} {r : RegRef} {p : Prop} [Decidable p]
    (h : r ∈ (if p then [] else scaOut tm code i w).map RegWrite.ref) : dstRef tm code i = some r := by
  split at h
  · cases h
  · exact dstRef_of_mem_scaOut h

/-- The first `m` registers that a destination names. -/
theorem mem_dest {tm : Bool} {code : BitVec 10} {m j : Nat} {r : RegRef} (hj : j < m) (h : dstRef tm code j = some r) :
    r ∈ (List.range m).filterMap fun j => dstRef tm code j := List.mem_filterMap.2 ⟨j, List.mem_range.2 hj, h⟩

/-- The words of LDX go to the registers from D on. -/
theorem mem_dest_of_flatMap {tm : Bool} {code : BitVec 10} {m : Nat} {sel : Mask} {w : Nat → Vec} {r : RegRef}
    (h : r ∈ ((List.range m).flatMap fun j => vecOut tm code j sel (w j)).map RegWrite.ref) :
    r ∈ (List.range m).filterMap fun j => dstRef tm code j := by
  rw [List.map_flatMap, List.mem_flatMap] at h
  obtain ⟨j, hj, hr⟩ := h
  exact mem_dest (List.mem_range.1 hj) (dstRef_of_mem_vecOut hr)

theorem subN_eq_iff {n : Nat} (hn : n < 16) : subN sl = n ↔ sl.sub = BitVec.ofNat 4 n := by
  rw [← BitVec.toNat_inj, BitVec.toNat_ofNat, Nat.mod_eq_of_lt hn]
  rfl

end Sys2Proof.Machine

open Sys2Proof Sys2Proof.Machine in
/-- Loads and stores, each by the course of its access. -/
theorem accessesComplete_hold : accessesComplete := by
  intro s x sl ps u i v w n hub at_ one word loads stores dest
  refine ⟨fun h ha => ?ld, fun h ha => ?ldx, fun h ha => ?lds, fun h ha => ?ldb, fun h ha => ?st,
    fun h ha => ?stx, fun h ha => ?sts, fun h ha => ?stb⟩
  case ld =>
    have hx := runSlot_access h .var (body := ldBody sl) (by unfold ldBody; rfl) ha
    exact ⟨_, hx, fun r hr => mem_dest Nat.zero_lt_one (dstRef_of_mem_vecOut hr)⟩
  case ldx =>
    have hx := runSlot_access h .var (body := ldxBody sl) (by unfold ldxBody; rfl) ha
    exact ⟨_, hx, fun r hr => mem_dest_of_flatMap hr⟩
  case lds =>
    have hx := runSlot_access h .var (body := ldsBody sl) (by unfold ldsBody; rfl) ha
    exact ⟨_, hx, fun r hr => mem_dest Nat.zero_lt_one (dstRef_of_mem_scaOut_unless hr)⟩
  case ldb =>
    have hx := runSlot_access h .var (body := ldbBody sl) (by unfold ldbBody; rfl) ha
    exact ⟨_, hx, fun r hr => mem_dest Nat.zero_lt_one (dstRef_of_mem_vecOut hr)⟩
  case st =>
    have hx := runSlot_access h .none (body := stBody sl) (by simp only [stBody, vsrc_atIssue h.group]; rfl) ha
    exact hx
  case stx =>
    have hx := runSlot_access h .none (body := stxBody sl) (by simp only [stxBody, vreg_atIssue h.group]; rfl) ha
    exact hx
  case sts =>
    have hx := runSlot_access h .none (body := stsBody sl) (by simp only [stsBody, ssrc_atIssue h.group]; rfl) ha
    exact hx
  case stb =>
    have hx := runSlot_access h .none (body := stbBody sl) (by simp only [stbBody, vsrc_atIssue h.group]; rfl) ha
    exact hx

open Sys2Proof Sys2Proof.Machine in
/-- Atomics and reductions, each by the course of its access. -/
theorem atomicsComplete_hold : atomicsComplete := by
  intro s x sl ps u i v f w n hub B C b c new
  have hswap : subN sl = 7 ↔ sl.sub = 7 := subN_eq_iff (by decide)
  have hqadd : subN sl = 10 ↔ sl.sub = 10 := subN_eq_iff (by decide)
  refine ⟨fun h ha => ?atom, fun h ha => ?atoms, fun h ha => ?red⟩
  case atom =>
    have hx := runSlot_access h .var (body := atomBody sl) (by simp only [atomBody, vsrc_atIssue h.group, hswap]; rfl) ha
    exact ⟨_, hx, fun r hr => dstRef_of_mem_vecOut hr⟩
  case atoms =>
    have hx := runSlot_access h .var (body := atomsBody sl) (by simp only [atomsBody, ssrc_atIssue h.group, hswap]; rfl) ha
    exact ⟨_, hx, fun r hr => dstRef_of_mem_scaOut_unless hr⟩
  case red =>
    have hx := runSlot_access h .none (body := redBody sl)
      (by simp only [redBody, vsrc_atIssue h.group, decide_eq_true_eq, hqadd]; rfl) ha
    have hnew : (fun L old => if sl.sub = 10 then qaddNew w old (B L) else new B (fun _ => 0) L old)
        = if sl.sub = 10 then fun L old => qaddNew w old (B L) else new B fun _ => 0 := by split <;> rfl
    rw [← hnew]
    exact hx

open Sys2Proof Sys2Proof.Machine in
/-- Settles O29: every load, store, atomic and reduction is an access that takes the common course. -/
theorem memoryAccessesComplete : Obligations.MEMORY_ACCESSES_COMPLETE := ⟨accessesComplete_hold, atomicsComplete_hold⟩
end

section
/-! SUPPORT and O56. Decode and encode agree: the fields of a word are all of it, and the row that an opcode and a slot
decode to has that opcode and slot (R76, Tables 3.1 and 3.6). -/

namespace Sys2Proof.Machine

/-! ### Words (R76, Table 3.1) -/

/-- The fields of a word, packed again, are the word: each field begins where the one below it ends. -/
theorem pack_unpack (w : BitVec 128) : pack (unpack w).1 (unpack w).2 = w := by
  dsimp only [pack, unpack]
  iterate 17 rw [BitVec.extractLsb'_append_extractLsb'_eq_extractLsb']
  · exact BitVec.extractLsb'_eq_self
  all_goals rfl

/-! ### Opcodes (Table 3.6) -/

/-- The numbers of the opcodes, assigned or not, whose SUB does not select the row. -/
def unsplitOpcs : List Nat := (List.range 256).filter fun n => (splitSubs n).isNone

theorem mem_unsplitOpcs {n : Nat} (hn : n < 256) (h : splitSubs n = none) : n ∈ unsplitOpcs := by
  simp [unsplitOpcs, hn, h]

set_option maxRecDepth 4000 in
/-- Where SUB selects no row, the opcode names the row, and the row is of that opcode: Table 3.6 read row by row. -/
theorem slotOf_decodeSlot_of_unsplit (sl : Slot) : ∀ n ∈ unsplitOpcs,
    slotOf (decodeSlot (BitVec.ofNat 8 n) sl) = some (BitVec.ofNat 8 n, sl) :=
  List.map_inj_left.mp rfl

/-- Where SUB selects the row, every row that it selects, and the row of an unassigned SUB, is of that opcode. -/
theorem slotOf_decodeSlot_of_split {n m : Nat} (sl : Slot) (h : splitSubs n = some m) :
    slotOf (decodeSlot (BitVec.ofNat 8 n) sl) = some (BitVec.ofNat 8 n, sl) := by
  have hs := Laws.Encode.split_cases h
  simp only [List.mem_cons, Prod.mk.injEq, List.not_mem_nil, or_false] at hs
  rcases hs with ⟨rfl, -⟩ | ⟨rfl, -⟩ | ⟨rfl, -⟩ | ⟨rfl, -⟩ | ⟨rfl, -⟩ | ⟨rfl, -⟩ | ⟨rfl, -⟩
  all_goals
    change slotOf (if _ then _ else _) = _
    split_ifs <;> rfl

/-- The row that an opcode and a slot decode to has that opcode and that slot. -/
theorem slotOf_decodeSlot (opc : BitVec 8) (sl : Slot) : slotOf (decodeSlot opc sl) = some (opc, sl) := by
  have key : slotOf (decodeSlot (BitVec.ofNat 8 opc.toNat) sl) = some (BitVec.ofNat 8 opc.toNat, sl) := by
    cases h : splitSubs opc.toNat with
    | none => exact slotOf_decodeSlot_of_unsplit sl _ (mem_unsplitOpcs opc.isLt h)
    | some m => exact slotOf_decodeSlot_of_split sl h
  simpa only [BitVec.ofNat_toNat, BitVec.setWidth_eq] using key

/-! ### Bytes (R6, R76) -/

/-- A row that has a slot is encoded as the bytes of its packed word. -/
theorem encode_of_slotOf {i : Instr} {opc : BitVec 8} {sl : Slot} (h : slotOf i = some (opc, sl)) :
    Sys2Proof.encode i = some (toBytes 16 (pack opc sl).toNat) := by
  simp [Sys2Proof.encode, h]

/-- Sixteen bytes decode to the row of their word. -/
theorem decode_of_length {bs : List Byte} (h : bs.length = 16) :
    Sys2Proof.decode bs
      = .ok (decodeSlot (unpack (BitVec.ofNat 128 (ofBytes bs))).1 (unpack (BitVec.ofNat 128 (ofBytes bs))).2) := by
  simp [Sys2Proof.decode, h, List.take_of_length_le]

/-- The row that a word decodes to is encoded as the bytes of the word. -/
theorem encode_decodeSlot_unpack (w : BitVec 128) :
    Sys2Proof.encode (decodeSlot (unpack w).1 (unpack w).2) = some (toBytes 16 w.toNat) := by
  rw [encode_of_slotOf (slotOf_decodeSlot _ _), pack_unpack]

/-- A well-formed instruction is encoded as 16 bytes, which decode to it. -/
theorem decode_encode {i : Instr} (hi : WellFormed i = true) :
    ∃ bs, Sys2Proof.encode i = some bs ∧ bs.length = 16 ∧ Sys2Proof.decode bs = .ok i := by
  obtain ⟨⟨opc, sl⟩, hp, -⟩ := Laws.Encode.statement i hi
  have he := encode_of_slotOf hp
  have hl : (toBytes 16 (pack opc sl).toNat).length = 16 := length_toBytes ..
  exact ⟨_, he, hl, (decode_of_length hl).trans (congrArg _ (decodeSlot_of_encode hi he))⟩

end Sys2Proof.Machine

open Sys2Proof Sys2Proof.Machine in
/-- Settles O56: every row has the slot that decodes to it, and the fields of a word are all of it. -/
theorem decodeAndEncodeAgree : Obligations.DECODE_AND_ENCODE_AGREE :=
  ⟨fun _ => decode_encode,
    fun w => ⟨_, encode_decodeSlot_unpack w, length_toBytes .., ofBytes_toBytes_word w⟩⟩
end

section
/-! SUPPORT. The plain arithmetic on patterns, as bit vector operations: division, shifts, rotations, counts, reversal, bit
fields and three-input logic (R120 to R130, R135, R140). -/

namespace Sys2Proof.Machine

variable {w : Nat}

/-! ### Quotients and remainders (R123, Table 4.6) -/

theorem divW_toNat (sgn : Bool) (a b : BitVec w) : divW w sgn a.toNat b.toNat
    = (if b = 0 then BitVec.allOnes w else if sgn then a.sdiv b else a / b).toNat := by
  by_cases hb : b = 0
  · subst hb
    simp [divW]
  · have hb0 : b.toNat ≠ 0 := fun e => hb (BitVec.eq_of_toNat_eq e)
    rw [divW, if_neg hb0, if_neg hb, rd_toNat, rd_toNat]
    cases sgn
    case false => exact wrap_natCast w (a / b).toNat (a / b).isLt
    case true =>
      rw [wrap_eq_toNat]
      refine congrArg BitVec.toNat (BitVec.eq_of_toInt_eq ?_)
      simp [BitVec.toInt_sdiv]

theorem remW_toNat (sgn : Bool) (a b : BitVec w) : remW w sgn a.toNat b.toNat
    = (if b = 0 then a else if sgn then a.srem b else a % b).toNat := by
  by_cases hb : b = 0
  · subst hb
    simp [remW]
  · have hb0 : b.toNat ≠ 0 := fun e => hb (BitVec.eq_of_toNat_eq e)
    rw [remW, if_neg hb0, if_neg hb, rd_toNat, rd_toNat]
    cases sgn
    case false => exact wrap_natCast w (a % b).toNat (a % b).isLt
    case true =>
      rw [wrap_eq_toNat]
      exact congrArg BitVec.toNat (BitVec.eq_of_toInt_eq (by simp [← BitVec.toInt_srem]))

/-! ### Complement, shifts and rotations (R124, R140) -/

theorem notW_toNat (b : BitVec w) : notW w b.toNat = (~~~b).toNat := by rw [notW, BitVec.toNat_not]

theorem shl_toNat (a : BitVec w) (n : Nat) : shl w a.toNat n = (a <<< n).toNat := by
  rw [shl, BitVec.toNat_shiftLeft, Nat.shiftLeft_eq]
  split
  · rfl
  · rename_i h
    exact (Nat.mod_eq_zero_of_dvd ((Nat.pow_dvd_pow 2 (Nat.not_lt.1 h)).mul_left _)).symm

theorem shr_toNat (a : BitVec w) (n : Nat) : shr w a.toNat n = (a >>> n).toNat := by
  rw [shr, BitVec.toNat_ushiftRight, Nat.shiftRight_eq_div_pow]
  split
  · rfl
  · rename_i h
    exact (Nat.div_eq_of_lt (a.isLt.trans_le (Nat.pow_le_pow_right Nat.two_pos (Nat.not_lt.1 h)))).symm

/-- An arithmetic shift is a division of the signed number; past the width it leaves copies of the sign. -/
theorem sar_toNat (a : BitVec w) (n : Nat) : sar w a.toNat n = (a.sshiftRight n).toNat := by
  have hdiv : a.sshiftRight n = BitVec.ofInt w (a.toInt / 2 ^ n) := by
    rw [BitVec.sshiftRight, Int.shiftRight_eq_div_pow]
    norm_cast
  rw [sar, signed_toNat, wrap_eq_toNat, hdiv]
  by_cases h : n < w
  · rw [if_pos h]
  · have hpow : (2 : Int) ^ (w - 1) ≤ 2 ^ n := pow_le_pow_right₀ one_le_two (by omega)
    have hlo := BitVec.le_toInt a
    have hhi := BitVec.toInt_lt (x := a)
    have hsign := signed_toNat a
    rw [if_neg h]
    unfold signed at hsign
    split at hsign
    · rename_i hpos
      rw [if_pos hpos, Int.ediv_eq_zero_of_lt (by omega) (by omega)]
      rfl
    · rename_i hneg
      have hlt : a.toInt < 0 := by have := a.isLt; zify at this; omega
      rw [if_neg hneg, Int.ediv_eq_neg_one_of_neg_of_le hlt (by omega), BitVec.ofInt_neg, show BitVec.ofInt w 1 = 1#w from rfl,
        BitVec.neg_one_eq_allOnes, BitVec.toNat_allOnes]

theorem rotl_toNat (hw : 0 < w) (a : BitVec w) (n : Nat) : rotl w a.toNat n = (a.rotateLeft n).toNat := by
  have hpow : 2 ^ w = 2 ^ (n % w) * 2 ^ (w - n % w) := by rw [← Nat.pow_add, Nat.add_sub_cancel' (Nat.mod_lt n hw).le]
  have hhigh : a.toNat / 2 ^ (w - n % w) < 2 ^ (n % w) := by
    rw [Nat.div_lt_iff_lt_mul (Nat.two_pow_pos _), ← hpow]
    exact a.isLt
  rw [rotl, BitVec.toNat_rotateLeft, Nat.shiftLeft_eq, Nat.shiftRight_eq_div_pow, hpow, Nat.mul_comm a.toNat,
    Nat.mul_mod_mul_left, Nat.two_pow_add_eq_or_of_lt hhigh]

/-- A rotation to the right is one to the left by what is missing to the width. -/
theorem rotateLeft_sub (hw : 0 < w) (a : BitVec w) (n : Nat) : a.rotateLeft (w - n % w) = a.rotateRight n := by
  have hn := Nat.mod_lt n hw
  rw [BitVec.rotateLeft_def, BitVec.rotateRight_def]
  by_cases h0 : n % w = 0
  · simp [h0, BitVec.ushiftRight_eq_zero]
  · rw [Nat.mod_eq_of_lt (by omega : w - n % w < w), Nat.sub_sub_self hn.le, BitVec.or_comm]

theorem rotr_toNat (hw : 0 < w) (a : BitVec w) (n : Nat) : rotr w a.toNat n = (a.rotateRight n).toNat := by
  rw [rotr, rotl_toNat hw, rotateLeft_sub hw]

/-! ### Reversal and counts (R121, R140) -/

theorem brev_lt (w x : Nat) : brev w x < 2 ^ w := by
  induction w generalizing x with
  | zero => exact Nat.one_pos
  | succ w ih =>
    have hbit := Nat.mod_lt x Nat.two_pos
    have hmul : x % 2 * 2 ^ w ≤ 1 * 2 ^ w := Nat.mul_le_mul_right _ (by omega)
    rw [brev, Nat.pow_succ]
    have := ih (x / 2)
    omega

theorem testBit_brev {w i : Nat} (x : Nat) (h : i < w) : (brev w x).testBit i = x.testBit (w - 1 - i) := by
  induction w generalizing x with
  | zero => cases h
  | succ w ih =>
    rw [brev, Nat.mul_comm, Nat.testBit_two_pow_mul_add _ (brev_lt w _)]
    split
    · rename_i hi
      rw [ih _ hi, Nat.testBit_div_two, show w - 1 - i + 1 = w + 1 - 1 - i by omega]
    · rw [show i - w = 0 by omega, show w + 1 - 1 - i = 0 by omega]
      simp

theorem brev_toNat (a : BitVec w) : brev w a.toNat = a.reverse.toNat := by
  apply Nat.eq_of_testBit_eq
  intro i
  rw [← BitVec.getLsbD, BitVec.getLsbD_reverse, BitVec.getMsbD]
  by_cases h : i < w
  · simp [testBit_brev _ h, h, BitVec.getLsbD]
  · simp [h, Nat.testBit_lt_two_pow ((brev_lt w _).trans_le (Nat.pow_le_pow_right Nat.two_pos (Nat.not_lt.1 h)))]

theorem popc_eq (w x : Nat) : popc w x = (List.range w).countP fun i => x.testBit i := by
  induction w generalizing x with
  | zero => rfl
  | succ w ih =>
    rw [popc, ih, List.range_succ_eq_map, List.countP_cons, List.countP_map, Nat.add_comm]
    congr 1
    · simp [Function.comp_def, Nat.testBit_succ]
    · rcases Nat.mod_two_eq_zero_or_one x with h | h <;> simp [h]

/-- The first numbers of `[0, n)`, as long as a test holds, end where it fails first. -/
theorem length_takeWhile_range {p : Nat → Bool} {k n : Nat} (hk : k ≤ n) (hp : ∀ i, i < k → p i = true)
    (hn : k = n ∨ p k = false) : ((List.range n).takeWhile p).length = k := by
  obtain ⟨d, rfl⟩ := Nat.exists_eq_add_of_le hk
  rw [List.range_add, List.takeWhile_append_of_pos (by simpa using hp), List.length_append, List.length_range]
  cases d with
  | zero => simp
  | succ d =>
    have hfail : p k = false := hn.resolve_left (by omega)
    simp [List.range_succ_eq_map, hfail]

theorem clz_toNat (a : BitVec w) : clz w a.toNat = leadingZeros a := by
  rw [clz]
  split
  · rename_i h0
    obtain rfl : a = 0 := BitVec.eq_of_toNat_eq h0
    exact (length_takeWhile_range (Nat.le_refl w) (fun i _ => by simp [BitVec.getMsbD]) (.inl rfl)).symm
  · rename_i h0
    have htop : a.toNat.log2 < w := (Nat.log2_lt h0).2 a.isLt
    refine (length_takeWhile_range (by omega) (fun i hi => ?_) (.inr ?_)).symm
    · have hlt : a.toNat < 2 ^ (w - 1 - i) := (Nat.log2_lt h0).1 (by omega)
      simp [BitVec.getMsbD, ← BitVec.testBit_toNat, Nat.testBit_lt_two_pow hlt]
    · rw [BitVec.getMsbD, show w - 1 - (w - 1 - a.toNat.log2) = a.toNat.log2 by omega, ← BitVec.testBit_toNat,
        Nat.testBit_log2 h0]
      simp
      omega

theorem ctz_spec (w x : Nat) :
    ctz w x ≤ w ∧ (∀ i, i < ctz w x → x.testBit i = false) ∧ (ctz w x = w ∨ x.testBit (ctz w x) = true) := by
  induction w generalizing x with
  | zero => exact ⟨Nat.le_refl 0, fun i hi => absurd hi (Nat.not_lt_zero i), .inl rfl⟩
  | succ w ih =>
    obtain ⟨hle, hzero, hend⟩ := ih (x / 2)
    rw [ctz]
    split
    · rename_i h1
      exact ⟨Nat.zero_le _, fun i hi => absurd hi (Nat.not_lt_zero i), .inr (by simp [h1])⟩
    · rename_i h1
      refine ⟨by omega, fun i hi => ?_, hend.imp (by omega) fun h => by rwa [Nat.add_comm, Nat.testBit_succ]⟩
      cases i with
      | zero => simpa using h1
      | succ i => exact Nat.testBit_succ x i ▸ hzero i (by omega)

theorem ctz_toNat (a : BitVec w) : ctz w a.toNat = trailingZeros a := by
  obtain ⟨hle, hzero, hend⟩ := ctz_spec w a.toNat
  simp only [BitVec.testBit_toNat] at hzero hend
  exact (length_takeWhile_range hle (fun i hi => by simp [hzero i hi]) (hend.imp_right fun h => by simp [h])).symm

/-! ### Bit fields (R128) -/

theorem bits_fieldPos (ctl : Word) : bits ctl 7 0 = fieldPos ctl := bits_eq_extract ctl rfl

theorem bits_fieldLen (ctl : Word) : bits ctl 15 8 = fieldLen ctl := bits_eq_extract ctl rfl

/-- A field from the width up, or of length 0, is empty. -/
theorem field_empty_iff (w pos len : Nat) : (w ≤ pos ∨ len = 0) ↔ min len (w - pos) = 0 := by omega

/-- The extracted field, extended by the type: its top bit fills the places above it under a signed type. -/
theorem bfe_spec (sgn : Bool) (a : BitVec w) (ctl : Word) :
    ∃ r : BitVec w, bfe w sgn a.toNat ctl = r.toNat ∧ ∀ i, i < w → r.getLsbD i =
      if min (fieldLen ctl) (w - fieldPos ctl) = 0 then false
      else if i < min (fieldLen ctl) (w - fieldPos ctl) then a.getLsbD (fieldPos ctl + i)
      else sgn && a.getLsbD (fieldPos ctl + min (fieldLen ctl) (w - fieldPos ctl) - 1) := by
  simp only [bfe, bits_fieldPos, bits_fieldLen, field_empty_iff]
  generalize fieldPos ctl = pos
  generalize min (fieldLen ctl) (w - pos) = len
  by_cases hlen : len = 0
  · exact ⟨0#w, by simp [hlen]⟩
  · have hfield : a.toNat / 2 ^ pos % 2 ^ len = (a.extractLsb' pos len).toNat := by
      rw [BitVec.extractLsb'_toNat, Nat.shiftRight_eq_div_pow]
    simp only [if_neg hlen, hfield, rd_toNat, wrap_eq_toNat]
    refine ⟨_, rfl, fun i hi => ?_⟩
    cases sgn
    case false =>
      rw [if_neg Bool.false_ne_true, BitVec.ofInt_natCast, BitVec.getLsbD_ofNat, BitVec.testBit_toNat,
        BitVec.getLsbD_extractLsb']
      by_cases h : i < len <;> simp [hi, h]
    case true =>
      rw [if_pos rfl, ← BitVec.signExtend, BitVec.getLsbD_signExtend, BitVec.msb_eq_getLsbD_last,
        BitVec.getLsbD_extractLsb', BitVec.getLsbD_extractLsb', show pos + (len - 1) = pos + len - 1 by omega]
      by_cases h : i < len <;> simp [hi, h, show len - 1 < len by omega]

/-- A number of any size with the field of length `len` at `lo` replaced (`getLsbD_setBits` says so of a word): the field reads
as the number put there, and every other bit as before. -/
theorem testBit_replaceField (y n lo len i : Nat) :
    (y - y / 2 ^ lo % 2 ^ len * 2 ^ lo + n % 2 ^ len * 2 ^ lo).testBit i
      = if lo ≤ i ∧ i < lo + len then n.testBit (i - lo) else y.testBit i := by
  have hcut : y = 2 ^ lo * (2 ^ len * (y / 2 ^ (lo + len)) + y / 2 ^ lo % 2 ^ len) + y % 2 ^ lo := by
    rw [Nat.pow_add, ← Nat.div_div_eq_div_mul, Nat.div_add_mod, Nat.div_add_mod]
  have hlow : y % 2 ^ lo < 2 ^ lo := Nat.mod_lt _ (Nat.two_pow_pos lo)
  have hset : y - y / 2 ^ lo % 2 ^ len * 2 ^ lo + n % 2 ^ len * 2 ^ lo
      = 2 ^ lo * (2 ^ len * (y / 2 ^ (lo + len)) + n % 2 ^ len) + y % 2 ^ lo := by
    rw [Nat.mul_add] at hcut ⊢
    rw [Nat.mul_comm (_ % 2 ^ len) (2 ^ lo), Nat.mul_comm (n % 2 ^ len)]
    omega
  rw [hset, Nat.testBit_two_pow_mul_add _ hlow]
  conv_rhs => rw [hcut, Nat.testBit_two_pow_mul_add _ hlow]
  by_cases hlo : i < lo
  · simp [hlo, Nat.not_le.2 hlo]
  · rw [if_neg hlo, if_neg hlo, Nat.testBit_two_pow_mul_add _ (Nat.mod_lt _ (Nat.two_pow_pos len)),
      Nat.testBit_two_pow_mul_add _ (Nat.mod_lt _ (Nat.two_pow_pos len))]
    by_cases hlen : i - lo < len
    · simp [hlen, Nat.testBit_mod_two_pow, Nat.not_lt.1 hlo, show i < lo + len by omega]
    · simp [hlen, show ¬ i < lo + len by omega]

/-- The base with its field replaced by the low bits of `a`. -/
theorem bfi_spec (a b : BitVec w) (ctl : Word) :
    ∃ r : BitVec w, bfi w a.toNat b.toNat ctl = r.toNat ∧ ∀ i, i < w → r.getLsbD i =
      if fieldPos ctl ≤ i ∧ i < fieldPos ctl + min (fieldLen ctl) (w - fieldPos ctl) then a.getLsbD (i - fieldPos ctl)
      else b.getLsbD i := by
  simp only [bfi, bits_fieldPos, bits_fieldLen, field_empty_iff]
  generalize fieldPos ctl = pos
  generalize hl : min (fieldLen ctl) (w - pos) = len
  by_cases hlen : len = 0
  · exact ⟨b, by simp [hlen], fun i _ => by rw [if_neg (by omega)]⟩
  · rw [if_neg hlen]
    have hbit := testBit_replaceField b.toNat a.toNat pos len
    generalize b.toNat - b.toNat / 2 ^ pos % 2 ^ len * 2 ^ pos + a.toNat % 2 ^ len * 2 ^ pos = r at hbit
    have hr : r < 2 ^ w := Nat.lt_pow_two_of_testBit r fun i hi => by
      rw [hbit, if_neg (by omega), BitVec.testBit_toNat, BitVec.getLsbD_of_ge _ _ hi]
    refine ⟨BitVec.ofNat w r, (Nat.mod_eq_of_lt hr).symm, fun i hi => ?_⟩
    rw [BitVec.getLsbD_ofNat, hbit, BitVec.testBit_toNat, BitVec.testBit_toNat]
    simp [hi]

/-! ### Conditions and three-input logic (R126, R130) -/

theorem cond_iff (cc : Nat) (a b : Int) : cond cc a b = true ↔ condHolds cc a b := by
  unfold cond condHolds
  split <;> simp

theorem testBit_lop3 (table : Nat) {w i : Nat} (a b c : Nat) (h : i < w) : (lop3 table w a b c).testBit i
    = table.testBit (4 * (a.testBit i).toNat + 2 * (b.testBit i).toNat + (c.testBit i).toNat) := by
  induction w generalizing a b c i with
  | zero => cases h
  | succ w ih =>
    rw [lop3, Nat.add_comm]
    cases i with
    | zero =>
      simp only [Nat.toNat_testBit, Nat.pow_zero, Nat.div_one]
      rw [Nat.testBit_zero, Nat.testBit_eq_decide_div_mod_eq]
      simp
    | succ i =>
      have hrest (m r : Nat) : (2 * r + m % 2) / 2 = r := by omega
      simp only [Nat.testBit_succ, hrest]
      exact ih _ _ _ (by omega)

end Sys2Proof.Machine
end

section
/-! SUPPORT and O1 to O4. The sources and results of the scalar instructions (R120, R121), and what each instruction gives
(R122 to R130). -/

namespace Sys2Proof.Machine

variable {s : State} {f : Form} {sl : Slot} {x : Group} {body : State → Group → Effect}

/-! ### Types and sources (R120) -/

theorem tyW_bounds (sl : Slot) : 4 ≤ tyW sl ∧ tyW sl ≤ 64 := by
  unfold tyW intTy
  split <;> decide

theorem tyW_pos (sl : Slot) : 0 < tyW sl := Nat.lt_of_lt_of_le (by decide) (tyW_bounds sl).1

theorem sbits_eq (s : State) (x : Group) (sl : Slot) (c : BitVec 10) : s.sbits x sl c = (srcBits s x sl c).toNat :=
  (BitVec.toNat_setWidth ..).symm

theorem sint_eq (s : State) (x : Group) (sl : Slot) (c : BitVec 10) : sint s x sl c = typedInt sl (srcBits s x sl c) := by
  rw [sint, sbits_eq, rd_toNat]
  rfl

theorem srcBits_atIssue (hg : s.grp? s.cur = some x) (c : BitVec 10) :
    srcBits (s.atIssue sl) (x.cover sl) sl c = srcBits s x sl c := by rw [srcBits, ssrc_atIssue hg]; rfl

/-- The number of a pattern of the type, wrapped, is the pattern. -/
theorem ofInt_typedInt (sl : Slot) {w : Nat} (b : BitVec w) : BitVec.ofInt w (typedInt sl b) = b := by
  unfold typedInt
  split
  · exact BitVec.ofInt_toInt
  · rw [BitVec.ofInt_natCast, BitVec.ofNat_toNat, BitVec.setWidth_eq]

/-- A slot of a form without saturation has MOD[0] clear, and its exact result wraps. -/
theorem fitted_of_mod (h : modN sl ≤ 0) (w : Nat) (v : Int) : fitted sl w v = BitVec.ofInt w v := by
  have hmd : sl.md = 0 := BitVec.eq_of_toNat_eq (Nat.le_zero.1 h)
  rw [fitted, hmd]
  rfl

/-! ### Results (R121) -/

/-- The slot writes `v` to its scalar destination. -/
def writesSca (s : State) (x : Group) (sl : Slot) (v : Word) : Host.Outcome State Fault Refusal :=
  writes s sl (.fixed 2) (scaOut x.trapMode sl.d 0 v)

/-- A slot whose effect gives a plain word writes it. -/
theorem runSlot_scaWord (h : Issues s f sl x) {v : Word}
    (hb : body (s.atIssue sl) (x.cover sl) = scaWord sl (s.atIssue sl) (x.cover sl) v) :
    runSlot f (.fixed 2) sl body s = writesSca s x sl v := runSlot_writes h hb

/-- A slot whose effect gives a pattern of the type writes it, extended. -/
theorem runSlot_scaTyped (h : Issues s f sl x) {r : BitVec (tyW sl)}
    (hb : body (s.atIssue sl) (x.cover sl) = scaTyped sl (s.atIssue sl) (x.cover sl) r.toNat) :
    runSlot f (.fixed 2) sl body s = writesSca s x sl (widen sl r) := by
  rw [scaTyped, ext64_eq_widen sl r (tyW_bounds sl).2] at hb
  exact runSlot_writes h hb

theorem runSlot_scaBits2 (h : Issues s f sl x) {g : Nat → Nat → Nat → Nat} {r : BitVec (tyW sl)}
    (hr : g (tyW sl) (srcBits s x sl sl.a).toNat (srcBits s x sl sl.b).toNat = r.toNat) :
    runSlot f (.fixed 2) sl (scaBits2 g sl) s = writesSca s x sl (widen sl r) :=
  runSlot_scaTyped h (by rw [scaBits2, sbits_eq, sbits_eq, srcBits_atIssue h.group, srcBits_atIssue h.group, hr])

theorem runSlot_wrapOrSat (h : Issues s f sl x) {v : Int} (hb : body (s.atIssue sl) (x.cover sl)
      = scaTyped sl (s.atIssue sl) (x.cover sl) (wrapOrSat (sl.md.getLsbD 0) (tyW sl) (tyS sl) v)) :
    runSlot f (.fixed 2) sl body s = writesSca s x sl (widen sl (fitted sl (tyW sl) v)) := by
  refine runSlot_scaTyped h (hb.trans ?_)
  rw [← ofNat_wrapOrSat, BitVec.toNat_ofNat, Nat.mod_eq_of_lt (wrapOrSat_lt _ _ _ _)]

theorem runSlot_scaInt2 (h : Issues s f sl x) (g : Int → Int → Int) :
    runSlot f (.fixed 2) sl (scaInt2 g sl) s = writesSca s x sl (widen sl (fitted sl (tyW sl)
      (g (typedInt sl (srcBits s x sl sl.a)) (typedInt sl (srcBits s x sl sl.b))))) :=
  runSlot_wrapOrSat h (by rw [scaInt2, sint_eq, sint_eq, srcBits_atIssue h.group, srcBits_atIssue h.group])

theorem runSlot_scaCount (h : Issues s f sl x) {g : Nat → Nat → Nat} {n : Nat}
    (hn : g (tyW sl) (srcBits s x sl sl.a).toNat = n) :
    runSlot f (.fixed 2) sl (scaCount g sl) s = writesSca s x sl (BitVec.ofNat 64 n) :=
  runSlot_scaWord h (by rw [scaCount, sbits_eq, srcBits_atIssue h.group, hn])

/-- A slot that passes check 3 meets what its entry requires (R96). -/
theorem rest_holds (h : Issues s f sl x) : f.rest = true := by
  have h3 := h.decodes
  unfold decodeTrap at h3
  split_ifs at h3 with h1 h2 h3'
  exact (Bool.and_eq_true_iff.1 h3').2

/-! ### Arithmetic (R121 to R123, R125) -/

theorem runSlot_smulh (h : Issues s f sl x) : runSlot f (.fixed 2) sl (smulhBody sl) s
    = writesSca s x sl (widen sl (BitVec.ofInt (tyW sl)
        (typedInt sl (srcBits s x sl sl.a) * typedInt sl (srcBits s x sl sl.b) / 2 ^ tyW sl))) :=
  runSlot_scaTyped h (by
    rw [smulhBody, sint_eq, sint_eq, srcBits_atIssue h.group, srcBits_atIssue h.group, wrap_eq_toNat])

theorem runSlot_sabs (h : Issues s f sl x) : runSlot f (.fixed 2) sl (sabsBody sl) s
    = writesSca s x sl (widen sl (fitted sl (tyW sl) |typedInt sl (srcBits s x sl sl.a)|)) :=
  runSlot_wrapOrSat h (by rw [sabsBody, sint_eq, srcBits_atIssue h.group, Int.natCast_natAbs])

/-- The lesser and the greater of two numbers of the type, as the pattern of the one that it is. -/
theorem fitted_min (hm : modN sl ≤ 0) {w : Nat} (a b : BitVec w) : fitted sl w (min (typedInt sl a) (typedInt sl b))
    = if typedInt sl a ≤ typedInt sl b then a else b := by
  rw [fitted_of_mod hm, min_def]
  split <;> exact ofInt_typedInt sl _

theorem fitted_max (hm : modN sl ≤ 0) {w : Nat} (a b : BitVec w) : fitted sl w (max (typedInt sl a) (typedInt sl b))
    = if typedInt sl a ≤ typedInt sl b then b else a := by
  rw [fitted_of_mod hm, max_def]
  split <;> exact ofInt_typedInt sl _

end Sys2Proof.Machine

open Sys2Proof Sys2Proof.Machine in
/-- Settles O1: each instruction is one operation on the patterns or the numbers of its sources, and one result of the type. -/
theorem scalarArithmeticResults : Obligations.SCALAR_ARITHMETIC_RESULTS := by
  intro s x sl w A B a b out
  refine ⟨fun h => ⟨runSlot_scaInt2 h _, runSlot_scaInt2 h _, runSlot_scaInt2 h _⟩,
    fun h => ⟨runSlot_smulh h, runSlot_scaBits2 h (divW_toNat _ _ _), runSlot_scaBits2 h (remW_toNat _ _ _), ?min, ?max⟩,
    fun h => runSlot_sabs h⟩
  case min =>
    have hm : modN sl ≤ 0 := of_decide_eq_true (rest_holds h)
    exact (runSlot_scaInt2 h _).trans (congrArg out (fitted_min hm A B))
  case max =>
    have hm : modN sl ≤ 0 := of_decide_eq_true (rest_holds h)
    exact (runSlot_scaInt2 h _).trans (congrArg out (fitted_max hm A B))

namespace Sys2Proof.Machine

variable {s : State} {f : Form} {sl : Slot} {x : Group}

/-! ### Rotation and reversal (R121, R124) -/

theorem runSlot_srot (h : Issues s f sl x) :
    runSlot f (.fixed 2) sl (scaBits2 (if sl.sub = 1 then rotr else rotl) sl) s = writesSca s x sl (widen sl
      (if sl.sub = 1 then (srcBits s x sl sl.a).rotateRight (srcBits s x sl sl.b).toNat
        else (srcBits s x sl sl.a).rotateLeft (srcBits s x sl sl.b).toNat)) := by
  refine runSlot_scaBits2 h ?_
  split
  · exact rotr_toNat (tyW_pos sl) _ _
  · exact rotl_toNat (tyW_pos sl) _ _

theorem runSlot_sbrev (h : Issues s f sl x) :
    runSlot f (.fixed 2) sl (sbrevBody sl) s = writesSca s x sl (widen sl (srcBits s x sl sl.a).reverse) :=
  runSlot_scaTyped h (by rw [sbrevBody, sbits_eq, srcBits_atIssue h.group, brev_toNat])

end Sys2Proof.Machine

open Sys2Proof Sys2Proof.Machine in
/-- Settles O2: each operation on patterns is the bit vector operation of the source's low bits. -/
theorem scalarLogicResults : Obligations.SCALAR_LOGIC_RESULTS := by
  intro s x sl w A B out
  refine ⟨fun h => ⟨?and, ?or, ?xor, ?andn, ?shl, ?shr, ?sar⟩, fun h => runSlot_srot h, fun h => runSlot_sbrev h⟩
  case and => exact runSlot_scaBits2 h (BitVec.toNat_and A B).symm
  case or => exact runSlot_scaBits2 h (BitVec.toNat_or A B).symm
  case xor => exact runSlot_scaBits2 h (BitVec.toNat_xor A B).symm
  case andn => exact runSlot_scaBits2 h (by rw [notW_toNat, BitVec.toNat_and])
  case shl => exact runSlot_scaBits2 h (shl_toNat A B.toNat)
  case shr => exact runSlot_scaBits2 h (shr_toNat A B.toNat)
  case sar => exact runSlot_scaBits2 h (sar_toNat A B.toNat)

namespace Sys2Proof.Machine

variable {s : State} {f : Form} {sl : Slot} {x : Group}

/-! ### Conditions, choices, moves and sums (R126, R127, R129) -/

theorem runSlot_scmp (h : Issues s f sl x) (v : Word)
    (hv : v = if cond (subN sl) (typedInt sl (srcBits s x sl sl.a)) (typedInt sl (srcBits s x sl sl.b)) then 1 else 0) :
    runSlot f (.fixed 2) sl (scmpBody sl) s = writesSca s x sl v :=
  runSlot_scaWord h (by rw [scmpBody, sint_eq, sint_eq, srcBits_atIssue h.group, srcBits_atIssue h.group, hv])

theorem runSlot_ssel (h : Issues s f sl x) : runSlot f (.fixed 2) sl (sselBody sl) s
    = writesSca s x sl (if s.ssrc x sl sl.a ≠ 0 then s.ssrc x sl sl.b else s.ssrc x sl sl.c) :=
  runSlot_scaWord h (by simp only [sselBody, ssrc_atIssue h.group, ite_not])

/-- The low half of one word above the low half of another. -/
theorem append_low_halves (a d : Word) :
    a.extractLsb' 0 32 ++ d.extractLsb' 0 32 = (a <<< 32) ||| (d &&& 0xFFFFFFFF) := by
  apply BitVec.eq_of_getLsbD_eq
  intro i hi
  have hlow : (0xFFFFFFFF : Word).getLsbD i = decide (i < 32) := by
    rw [show (0xFFFFFFFF : Word) = (BitVec.allOnes 32).setWidth 64 from rfl, BitVec.getLsbD_setWidth, BitVec.getLsbD_allOnes]
    simp [hi]
  rw [BitVec.getLsbD_append, BitVec.getLsbD_or, BitVec.getLsbD_and, BitVec.getLsbD_shiftLeft, hlow]
  by_cases h : i < 32
  · simp [h]
  · simp [h, hi, show i - 32 < 32 by omega]

theorem runSlot_smov (h : Issues s f sl x) : runSlot f (.fixed 2) sl (smovBody sl) s = writesSca s x sl
      (if sl.sub = 1 then (s.ssrc x sl sl.a <<< 32) ||| (s.ssrc x sl sl.d &&& 0xFFFFFFFF) else s.ssrc x sl sl.a) :=
  runSlot_scaWord h (by simp only [smovBody, ssrc_atIssue h.group, append_low_halves])

/-- A shift by 64 or more leaves B (R129). -/
theorem runSlot_slea (h : Issues s f sl x) : runSlot f (.fixed 2) sl (sleaBody sl) s
    = writesSca s x sl (s.ssrc x sl sl.b + s.ssrc x sl sl.a <<< (s.ssrc x sl sl.c).toNat) := by
  refine runSlot_scaWord h ?_
  have hshift (a : Word) (n : Nat) : (if n < 64 then a <<< n else 0) = a <<< n := by
    split
    · rfl
    · rename_i hn
      exact (BitVec.shiftLeft_eq_zero (Nat.not_lt.1 hn)).symm
  simp only [sleaBody, ssrc_atIssue h.group, hshift, BitVec.add_comm]

/-! ### PLOP (R130) -/

/-- A destination that must be of one kind of predicates or zero is. -/
theorem kindOf_of_predDst {g ns : Nat} {tm : Bool} {k : Kind} {code : BitVec 10} (hk : k = .vp ∨ k = .sp)
    (h : dstReason f g ns tm [k, .zero] 1 code = none) : kindOf code = some k ∨ kindOf code = some .zero := by
  unfold dstReason at h
  cases hc : kindOf code with
  | none => rw [hc] at h; cases h
  | some c =>
    rw [hc] at h
    rcases hk with rfl | rfl <;> cases c <;> simp at h ⊢
    all_goals split at h <;> cases h

/-- The kind of PLOP is that of D, where D is not zero. -/
theorem plopKinds_of_dst (h : kindOf sl.d ≠ some .zero) :
    plopKinds sl = if kindOf sl.d = some .vp then [.vp, .zero] else [.sp, .zero] := by
  have hd : sl.d ≠ 0x270 := fun e => h (by rw [e]; rfl)
  have hfirst : [sl.d, sl.a, sl.b, sl.c].find? (fun c => decide (c ≠ 0x270)) = some sl.d :=
    List.find?_cons_of_pos (decide_eq_true hd)
  rw [plopKinds, hfirst]
  split_ifs with hv
  · simp only [hv]
  · dsimp only
    split
    · exact absurd ‹_› hv
    · rfl

/-- The bits of PLOP's kind are those of its destination, unless D discards the result. -/
theorem plop_width (h : Issues s (fPlop sl) sl x) : dstRef x.trapMode sl.d 0 = none ∨
    (if plopKinds sl = [.vp, .zero] then 32 else 1) = if kindOf sl.d = some .sp then 1 else 32 := by
  have hd : dstReason (fPlop sl) x.gran x.scount x.trapMode (plopKinds sl) 1 sl.d = none := (decodeTrap_none h.decodes).2
  by_cases hz : kindOf sl.d = some .zero
  · exact .inl (by simp [dstRef, kindD, hz])
  · right
    rw [plopKinds_of_dst hz] at hd ⊢
    by_cases hv : kindOf sl.d = some .vp
    · simp [hv]
    · rw [if_neg hv] at hd ⊢
      have hs := (kindOf_of_predDst (.inr rfl) hd).resolve_right hz
      simp [hs]

/-- A result that D discards may be any word. -/
theorem scaOut_of_dstRef_none {tm : Bool} {code : BitVec 10} (h : dstRef tm code 0 = none) (v : Word) :
    scaOut tm code 0 v = [] := by rw [scaOut, h]

/-- Bit `i` of PLOP's result is the entry of its table that bit `i` of the three sources picks. -/
theorem getLsbD_plopWord {n : Nat} (hn : n ≤ 64) (sl : Slot) (a b c : Word) {i : Nat} (hi : i < n) :
    (BitVec.ofNat 64 (lop3 (immN sl) n a.toNat b.toNat c.toNat)).getLsbD i
      = sl.imm.getLsbD (4 * (a.getLsbD i).toNat + 2 * (b.getLsbD i).toNat + (c.getLsbD i).toNat) := by
  rw [BitVec.getLsbD_ofNat, testBit_lop3 _ _ _ _ hi, immN]
  simp only [BitVec.testBit_toNat, show i < 64 by omega, decide_true, Bool.true_and]

theorem runSlot_plop (h : Issues s (fPlop sl) sl x) : ∃ r : Word,
    runSlot (fPlop sl) (.fixed 2) sl (plopBody sl) s = writesSca s x sl r
      ∧ ∀ i, i < (if kindOf sl.d = some .sp then 1 else 32) → r.getLsbD i
        = sl.imm.getLsbD (4 * ((s.ssrc x sl sl.a).getLsbD i).toNat + 2 * ((s.ssrc x sl sl.b).getLsbD i).toNat
          + ((s.ssrc x sl sl.c).getLsbD i).toNat) := by
  have hrun (n : Nat) (hn : (if plopKinds sl = [.vp, .zero] then 32 else 1) = n) :
      runSlot (fPlop sl) (.fixed 2) sl (plopBody sl) s = writesSca s x sl (BitVec.ofNat 64
        (lop3 (immN sl) n (s.ssrc x sl sl.a).toNat (s.ssrc x sl sl.b).toNat (s.ssrc x sl sl.c).toNat)) :=
    runSlot_scaWord h (by simp only [plopBody, ssrc_atIssue h.group, hn])
  have hle : (if kindOf sl.d = some .sp then 1 else 32) ≤ 64 := by split <;> decide
  refine ⟨BitVec.ofNat 64 (lop3 (immN sl) (if kindOf sl.d = some .sp then 1 else 32) (s.ssrc x sl sl.a).toNat
    (s.ssrc x sl sl.b).toNat (s.ssrc x sl sl.c).toNat), ?_, fun i hi => getLsbD_plopWord hle sl _ _ _ hi⟩
  rcases plop_width h with hz | hw
  · rw [hrun _ rfl, writesSca, writesSca, scaOut_of_dstRef_none hz, scaOut_of_dstRef_none hz]
  · exact hrun _ hw

end Sys2Proof.Machine

open Sys2Proof Sys2Proof.Machine in
/-- Settles O3: each instruction gives one word, a count, a condition, a choice, a move, a sum or a table's entries. -/
theorem scalarWordResults : Obligations.SCALAR_WORD_RESULTS := by
  intro s x sl w S A out
  refine ⟨fun h => ⟨?popc, ?clz, ?ctz⟩, fun h => ⟨fun hc => ?holds, fun hc => ?fails⟩, fun h => runSlot_ssel h,
    fun h => runSlot_smov h, fun h => runSlot_slea h, fun h => runSlot_plop h⟩
  case popc => exact runSlot_scaCount h ((popc_eq _ _).trans (by simp only [BitVec.testBit_toNat, w, A]))
  case clz => exact runSlot_scaCount h (clz_toNat A)
  case ctz => exact runSlot_scaCount h (ctz_toNat A)
  case holds => exact runSlot_scmp h _ (if_pos ((cond_iff _ _ _).2 hc)).symm
  case fails => exact runSlot_scmp h _ (if_neg fun e => hc ((cond_iff _ _ _).1 e)).symm

open Sys2Proof Sys2Proof.Machine in
/-- Settles O4: the field that is extracted, and the base with its field replaced, bit by bit. -/
theorem scalarBitFields : Obligations.SCALAR_BIT_FIELDS := by
  intro s x sl w A B out
  refine ⟨fun h => ?bfe, fun h => ?bfi⟩
  case bfe =>
    obtain ⟨r, hr, hbits⟩ := bfe_spec (tyS sl) A (s.ssrc x sl sl.b)
    refine ⟨r, runSlot_scaTyped h ?_, hbits⟩
    rw [sbfeBody, sbits_eq, srcBits_atIssue h.group, ssrc_atIssue h.group, hr]
  case bfi =>
    obtain ⟨r, hr, hbits⟩ := bfi_spec A B (s.ssrc x sl sl.c)
    refine ⟨r, runSlot_scaTyped h ?_, hbits⟩
    rw [sbfiBody, sbits_eq, sbits_eq, srcBits_atIssue h.group, srcBits_atIssue h.group, ssrc_atIssue h.group, hr]
end

section
/-! SUPPORT. A group that has ended stays ended (R109, R110): once no group has its number and its workgroup does not count it,
nothing that the end of a group sets off lists it again: traps of the group left alone (R175), barriers that complete (R215),
the end of workgroups (R110, R352). -/

namespace Sys2Proof.Machine

/-- No group has number `g`, and workgroup `w` does not count it among its groups. -/
structure Gone (g w : Nat) (s : State) : Prop where
  unlisted : s.grp? g = none
  outside : g ∉ (s.wgD w).groups

variable {g w : Nat} {s t : State}

/-! ### Groups, workgroups and launches -/

theorem Gone.of_eq (k : Gone g w s) (hg : t.groups = s.groups) (hw : t.wgs = s.wgs) : Gone g w t :=
  ⟨by rw [State.grp?, hg]; exact k.unlisted, by rw [State.wgD, hw]; exact k.outside⟩

theorem gone_accessed (a : Accessed s t) (k : Gone g w s) : Gone g w t := k.of_eq a.groups a.wgs

theorem gone_ite {p : Prop} [Decidable p] (ks : Gone g w s) (kt : Gone g w t) : Gone g w (if p then s else t) := by
  split
  · exact ks
  · exact kt

theorem gone_foldl {β : Type} {f : State → β → State} (hf : ∀ s b, Gone g w s → Gone g w (f s b)) (l : List β) (s : State)
    (k : Gone g w s) : Gone g w (l.foldl f s) := by
  induction l generalizing s with
  | nil => exact k
  | cons b l ih => exact ih _ (hf s b k)

/-- A change of a group lists no group. -/
theorem gone_updGrp (h : Nat) (u : Group → Group) (k : Gone g w s) : Gone g w (s.updGrp h u) := by
  refine ⟨?_, by rw [State.wgD, updGrp_wgs]; exact k.outside⟩
  rw [grp?_updGrp]
  split
  · rename_i e
    rw [← e, k.unlisted]
    rfl
  · exact k.unlisted

theorem wgD_updWg (s : State) (w h : Nat) (u : Workgroup → Workgroup) : (s.updWg h u).wgD w = s.wgD w
    ∨ (w = h ∧ (s.updWg h u).wgD w = u (s.wgD w)) := by
  unfold State.updWg
  split
  · rename_i y hy
    by_cases e : w = h
    · subst e
      exact .inr ⟨rfl, by simp [State.wgD, hy]⟩
    · exact .inl (by simp [State.wgD, tget_tput_ne _ _ e])
  · exact .inl rfl

theorem groups_updWg (s : State) (h : Nat) (u : Workgroup → Workgroup) : (s.updWg h u).groups = s.groups := by
  unfold State.updWg
  split <;> rfl

/-- A change of a workgroup that lets it count no further group. -/
theorem gone_updWg (h : Nat) {u : Workgroup → Workgroup} (hu : ∀ y, (u y).groups ⊆ y.groups) (k : Gone g w s) :
    Gone g w (s.updWg h u) := by
  refine ⟨by rw [State.grp?, groups_updWg]; exact k.unlisted, ?_⟩
  rcases wgD_updWg s w h u with e | ⟨-, e⟩ <;> rw [e]
  · exact k.outside
  · exact fun hm => k.outside (hu _ hm)

theorem gone_updLaunch (l : Nat) (u : Launch → Launch) (k : Gone g w s) : Gone g w (s.updLaunch l u) :=
  ⟨(grp?_updLaunch ..).trans k.unlisted, by rw [wgD_updLaunch]; exact k.outside⟩

theorem gone_passCycles (c n : Nat) (k : Gone g w s) : Gone g w (s.passCycles c n) :=
  ⟨by rw [grp?_passCycles, k.unlisted]; rfl, k.outside⟩

theorem gone_retire (h : Nat) (sl : Slot) (k : Gone g w s) : Gone g w (s.retire h sl) := by
  unfold State.retire
  extract_lets n s1
  have k1 : Gone g w s1 := gone_updGrp _ _ k
  exact gone_ite (gone_passCycles _ _ k1) k1

/-! ### Completion of units (R338) -/

theorem gone_packetDone (p st : Nat) (k : Gone g w s) : Gone g w (s.packetDone p st) := by
  unfold State.packetDone
  split
  · exact k.of_eq rfl rfl
  · exact k

theorem gone_jobChild (j : Nat) (ok : Bool) (k : Gone g w s) : Gone g w (s.jobChild j ok) := by
  unfold State.jobChild
  split
  · exact k
  · exact k.of_eq rfl rfl

theorem gone_phaseChild (p : Nat) (ok : Bool) (k : Gone g w s) : Gone g w (s.phaseChild p ok) := by
  unfold State.phaseChild
  split
  · exact k
  · extract_lets r s1
    have k1 : Gone g w s1 := k.of_eq rfl rfl
    split
    · exact k1
    · exact gone_jobChild _ _ k1

theorem gone_graphChild (n node st : Nat) (k : Gone g w s) : Gone g w (s.graphChild n node st) := by
  unfold State.graphChild
  split
  · exact k
  · extract_lets u1 r s1
    have k1 : Gone g w s1 := k.of_eq rfl rfl
    split
    · exact k1
    · exact gone_phaseChild _ _ (gone_packetDone _ _ k1)

theorem gone_launchCheck (l : Nat) (k : Gone g w s) : Gone g w (s.launchCheck l) := by
  unfold State.launchCheck
  split
  · exact k
  · extract_lets st s1
    have k1 : Gone g w s1 := gone_updLaunch _ _ k
    exact gone_ite k (gone_ite (gone_packetDone _ _ k1) (gone_graphChild _ _ _ k1))

theorem gone_lbarCheck (l : Nat) (k : Gone g w s) : Gone g w (s.lbarCheck l) := by
  unfold State.lbarCheck
  split
  · exact k
  · extract_lets s1
    have k1 : Gone g w s1 := gone_updLaunch _ _ k
    refine gone_ite k (gone_foldl (fun t h kt => ?_) _ _ k1)
    split
    · exact gone_retire _ _ (gone_updGrp _ _ (gone_accessed (accessed_acquire _ _ (.refl t)) kt))
    · exact kt

/-! ### Barrier objects (R109, R211) -/

variable {s0 : State}

theorem accessed_barUpd (v : View) (t : Target) (a : Word) (o : BarOp) (h : Accessed s0 s) : Accessed s0 (s.barUpd v t a o) := by
  unfold State.barUpd
  split
  · exact accessed_peerSend _ h
  · exact accessed_writeT _ _ _ _ _ (accessed_readT _ _ _ _ h)

theorem accessed_barRelease (v : View) (t : Target) (h : Accessed s0 s) : Accessed s0 (s.barRelease v t) := by
  unfold State.barRelease
  split
  · exact h
  · exact accessed_ite (accessed_release _ _ h) h

theorem accessed_retireAll (v : View) (l : List (Join × Target)) (h : Accessed s0 s) : Accessed s0 (s.retireAll v l) := by
  induction l generalizing s with
  | nil => exact h
  | cons p l ih =>
    unfold State.retireAll
    split
    · exact ih (accessed_putRec _ _ _ h)
    · exact ih (accessed_barUpd _ _ _ _ (accessed_barRelease _ _ h))

theorem accessed_joinTargets (v : View) (l : List Join) (h : Accessed s0 s) : Accessed s0 (s.joinTargets v l).1 := by
  induction l generalizing s with
  | nil => exact h
  | cons e l ih =>
    unfold State.joinTargets
    extract_lets q u
    split <;> exact ih (accessed_resolve _ _ _ _ _ _ h)

theorem accessed_exitTargets (v : View) (l : List Join) (h : Accessed s0 s) : Accessed s0 (s.exitTargets v l).1 := by
  induction l generalizing s with
  | nil => exact h
  | cons e l ih =>
    have hq := accessed_resolve v e.addr 16 16 5 (kindWrites 5) h
    unfold State.exitTargets
    extract_lets q u
    split
    · exact hq
    · split <;> exact ih hq

/-! ### The end of groups and workgroups (R109, R110, R352) -/

theorem gone_unwait (h : Nat) (k : Gone g w s) : Gone g w (s.unwait h) := by
  unfold State.unwait
  extract_lets x s1
  refine gone_updGrp _ _ ?_
  unfold s1
  split
  · exact gone_updWg _ (fun _ => List.Subset.refl _) k
  · exact gone_updLaunch _ _ k
  · exact k.of_eq rfl rfl
  · exact k

theorem freeBank_wgs (s : State) (g : Nat) : (s.freeBank g).wgs = s.wgs := by
  unfold State.freeBank
  dsimp only
  split <;> rfl

theorem gone_freeBank (h : Nat) (k : Gone g w s) : Gone g w (s.freeBank h) := k.of_eq (freeBank_groups s h) (freeBank_wgs s h)

/-- A removal lists no group, and its workgroup counts one less. -/
theorem gone_dropGroup (h : Nat) (k : Gone g w s) : Gone g w (s.dropGroup h) := by
  have k1 := gone_freeBank h (gone_unwait h k)
  refine gone_updWg _ (fun _ => List.filter_subset_self _) ⟨?_, k1.outside⟩
  rw [State.grp?, tget_tdel]
  split
  · rfl
  · exact k1.unlisted

/-- A workgroup that drops a group from its list, or is not listed, does not count it. -/
theorem outside_updWg_filter (g w : Nat) (s : State) :
    g ∉ ((s.updWg w fun y => { y with groups := y.groups.filter fun h => h ≠ g }).wgD w).groups := by
  unfold State.updWg
  split
  · simp [State.wgD]
  · rename_i e
    simp [State.wgD, e]

/-- A removed group is gone. -/
theorem gone_of_dropGroup (hw : (s.grpD g).wg = w) : Gone g w (s.dropGroup g) := by
  subst hw
  exact ⟨by rw [State.grp?, State.dropGroup, groups_updWg]; exact tget_tdel_self _ _, outside_updWg_filter g _ _⟩

theorem gone_endGroups (l : List Nat) (k : Gone g w s) : Gone g w (s.endGroups l) := by
  induction l generalizing s with
  | nil => exact k
  | cons h l ih =>
    unfold State.endGroups
    exact ih (gone_ite (gone_dropGroup _ (gone_accessed (accessed_retireAll _ _ (accessed_joinTargets _ _ (.refl s))) k)) k)

theorem gone_wgSweep (h : Nat) (k : Gone g w s) : Gone g w (s.wgSweep h) := by
  unfold State.wgSweep
  split
  · exact k
  · extract_lets s1
    have k1 : Gone g w s1 := gone_ite k (gone_updWg _ (fun _ => List.Subset.refl _) k)
    refine gone_ite k (gone_ite k1 ⟨k1.unlisted, ?_⟩)
    have ho := k1.outside
    rw [State.wgD, tget_tdel]
    split
    · exact List.not_mem_nil
    · exact ho

theorem gone_wgFinish (h : Nat) (killed cancelled : Bool) (k : Gone g w s) : Gone g w (s.wgFinish h killed cancelled) := by
  unfold State.wgFinish
  split
  · exact k
  · extract_lets s1 s2 s3 s4
    have k2 : Gone g w s2 := (gone_updWg h (s := s) (fun _ => List.nil_subset _) k).of_eq rfl rfl
    have k3 : Gone g w s3 := by
      unfold s3
      split
      · exact gone_ite k2 (gone_accessed (accessed_sigSub _ _ _ (.refl s2)) k2)
      · exact k2
    exact gone_ite k (gone_launchCheck _ (gone_wgSweep _ (gone_updLaunch _ _ k3)))

theorem gone_endWg (h : Nat) (killed : Bool) (k : Gone g w s) : Gone g w (s.endWg h killed) := by
  unfold State.endWg
  extract_lets l s1
  have k0 : Gone g w (s.voidOps fun x => decide (x = h)) := gone_ite k (k.of_eq rfl rfl)
  have k1 : Gone g w s1 := gone_endGroups _ k0
  have k2 : Gone g w (s1.dropCards h) := gone_ite k1 (gone_updLaunch _ _ (k1.of_eq rfl rfl))
  exact gone_wgFinish _ _ _ (gone_lbarCheck _ (gone_ite k2 k1))

theorem gone_kill (h : Nat) (tr : Trap) (nest : Bool) (k : Gone g w s) : Gone g w (s.kill h tr nest) :=
  gone_endWg _ _ (gone_accessed (accessed_putRec _ _ _ (.refl s)) k)

/-! ### Traps (R252 to R255, R366) -/

theorem gone_hold (fn ctx : Nat) (grp op me : Option Nat) (tr : Trap) (nest : Bool) (k : Gone g w s) :
    Gone g w (s.hold fn ctx grp op me tr nest).1 := by
  unfold State.hold
  extract_lets tag room fs s' s1
  have k1 : Gone g w s1 := k.of_eq rfl rfl
  exact gone_ite (gone_accessed (accessed_putRec _ _ _ (.refl s1)) k1) k1

theorem gone_holdGroup (h : Nat) (tr : Trap) (k : Gone g w s) : Gone g w (s.holdGroup h tr) :=
  gone_updGrp _ _ (gone_hold _ _ _ _ _ _ _ k)

theorem gone_enterHdr (h : Nat) (hdr : Word) (hd : BitVec 128) (k : Gone g w s) : Gone g w (s.enterHdr h hdr hd).1 := by
  unfold State.enterHdr
  split <;> exact gone_updGrp _ _ k

theorem gone_enterTrap (h : Nat) (tr : Trap) (handler : Word) (k : Gone g w s) : Gone g w (s.enterTrap h tr handler) := by
  unfold State.enterTrap
  extract_lets y s1 r s2
  have k1 : Gone g w s1 := gone_updGrp _ _ (k.of_eq rfl rfl)
  have kr : Gone g w r.1 := gone_accessed (accessed_target _ _ (.refl s1)) k1
  have k2 : Gone g w s2 := gone_updGrp _ _ kr
  split
  · extract_lets q
    have kq : Gone g w q.1 := gone_enterHdr _ _ _ kr
    split
    · exact kq
    · exact gone_kill _ _ _ kq
  · exact gone_ite (gone_holdGroup _ _ k2) (gone_kill _ _ _ k2)

theorem gone_raise (h : Nat) (r : Raise) (pc : Word) (k : Gone g w s) : Gone g w (s.raise h r pc) := by
  rcases raise_cases (s := s) h r pc with ⟨-, e⟩ | ⟨-, -, e⟩ | ⟨-, -, -, -, e⟩ | ⟨-, -, -, -, e⟩ <;> rw [e]
  · exact gone_holdGroup _ _ k
  · exact gone_kill _ _ _ k
  · exact gone_updGrp _ _ k
  · exact gone_enterTrap _ _ _ k

theorem gone_lonely (h : Nat) (k : Gone g w s) : Gone g w (s.lonely h) := by
  unfold State.lonely
  split
  · split
    · exact gone_raise _ _ _ (gone_unwait _ k)
    · exact k
  · exact k

/-- A group that exits is gone (R109, R110). -/
theorem gone_exitGroup (ts : List (Join × Target)) (hw : (s.grpD g).wg = w) : Gone g w (s.exitGroup g ts) := by
  have a : Accessed s (s.retireAll (s.viewOf g) ts) := accessed_retireAll _ _ (.refl s)
  have hw1 : ((s.retireAll (s.viewOf g) ts).grpD g).wg = w := by rw [State.grpD, a.grp?]; exact hw
  unfold State.exitGroup
  extract_lets w' l s1 s2
  have k2 : Gone g w s2 := gone_lbarCheck _ (gone_lonely _ (gone_of_dropGroup hw1))
  exact gone_ite (gone_wgFinish _ _ _ k2) k2

end Sys2Proof.Machine
end

section
/-! SUPPORT and O18. What the hints leave unchanged (R207, R208), and what YIELD and EXIT make of their group (R109, R110,
R112). -/

namespace Sys2Proof.Machine

/-! ### Hints (R207, R208) -/

variable {g : Nat} {s t : State} {sl : Slot} {x : Group} {f : Form} {body : State → Group → Effect}

/-- PREF that its buckets let issue changes at most a token bucket. -/
theorem prefBody_flows (hf : ∀ p ∈ s.laneAddrs x sl 1, s.egressLow (s.viewOf s.cur) p.2 = false) :
    ∃ t, prefBody sl s x = .done t [] ∧ { t with fns := s.fns } = s := by
  unfold prefBody
  extract_lets v as out
  have hany : (as.any fun p => s.egressLow v p.2) = false := List.any_eq_false.2 fun p hp => by simp [hf p hp, v]
  rw [if_neg (by simp [hany])]
  refine ⟨_, rfl, ?_⟩
  split
  · rfl
  · exact updFn_frame ..

/-- `t` is `s` but for the lines of L1 caches. -/
def SameButL1 (s t : State) : Prop :=
  { t with cores := s.cores } = s ∧ ∀ c, ∃ lines, t.coreD c = { s.coreD c with l1 := lines }

theorem coreD_l1Map (s : State) (line : Nat) (p : Nat → Bool) (u : L1Line → Option L1Line) (c : Nat) :
    ∃ lines, (s.l1Map line p u).coreD c = { s.coreD c with l1 := lines } := by
  have e : (s.l1Map line p u).cores = s.cores.map fun k => (k.1,
      if (p k.1 && k.2.l1.any fun e => decide (e.line = line)) = true then
        { k.2 with l1 := k.2.l1.filterMap fun e => if e.line = line then u e else some e }
      else k.2) :=
    List.map_congr_left fun k _ => by split <;> rfl
  rw [State.coreD, tval, e, tget_map s.cores (fun c k =>
    if (p c && k.l1.any fun e => decide (e.line = line)) = true then
      { k with l1 := k.l1.filterMap fun e => if e.line = line then u e else some e }
    else k), State.coreD, tval]
  cases tget s.cores c with
  | none => exact ⟨_, rfl⟩
  | some k =>
    rw [Option.map_some, Option.getD_some, Option.getD_some]
    split
    · exact ⟨_, rfl⟩
    · exact ⟨k.l1, rfl⟩

theorem sameButL1_l1Map (h : SameButL1 s t) (line : Nat) (p : Nat → Bool) (u : L1Line → Option L1Line) :
    SameButL1 s (t.l1Map line p u) := by
  refine ⟨h.1, fun c => ?_⟩
  obtain ⟨l, hl⟩ := h.2 c
  obtain ⟨l', hl'⟩ := coreD_l1Map t line p u c
  exact ⟨l', by rw [hl', hl]⟩

/-- CCTL that its buckets let issue changes at most lines of L1 caches. -/
theorem cctlBody_flows (hf : ∀ p ∈ s.laneAddrs x sl 1, s.egressLow (s.viewOf s.cur) p.2 = false) :
    ∃ t, cctlBody sl s x = .done t [] ∧ SameButL1 s t := by
  unfold cctlBody
  extract_lets v as
  have hany : (as.any fun p => s.egressLow v p.2) = false := List.any_eq_false.2 fun p hp => by simp [hf p hp, v]
  rw [if_neg (by simp [hany])]
  refine ⟨_, rfl, ?_⟩
  generalize as.filterMap (fun p => s.lineAt v p.2) = ls
  suffices H : ∀ t, SameButL1 s t → SameButL1 s
      (ls.foldl (fun t l => t.l1Map l (fun c => decide (c = v.core)) (cctlLine (subN sl))) t) from H s ⟨rfl, fun c => ⟨_, rfl⟩⟩
  induction ls with
  | nil => exact fun t h => h
  | cons l ls ih => exact fun t h => ih _ (sameButL1_l1Map h _ _ _)

/-! ### YIELD (R112) -/

/-- A slot whose effect stands where it is leaves the state that it names. -/
theorem runSlot_waits (h : Issues s f sl x) (lat : Machine.Lat) (hb : body (s.atIssue sl) (x.cover sl) = .wait t) :
    runSlot f lat sl body s = .next t := by
  rw [runSlot_of h, hb]
  rfl

/-- A slot that retires leaves its group as it is, but for its time, its wait and the next slot. -/
theorem grp?_retire (h : s.grp? g = some x) (sl : Slot) : ∃ y, (s.retire g sl).grp? g = some y
    ∧ y.Timed { x with pc := x.pc + 16, wait := .none } ∧ y.yielded = decide (sl.yld = 1) := by
  unfold State.retire
  extract_lets n s1
  have h1 : s1.grp? g = some { (x.addDist n) with pc := x.pc + 16, wait := .none, yielded := decide (sl.yld = 1), stall := n } := by
    simp [s1, grp?_updGrp, h]
  obtain ⟨y, hy, hk⟩ := grp?_passCycles_of h1 (s.grpD g).core 1
  refine ⟨y, ?_, ?_, (congrArg Group.yielded hk :)⟩
  · rw [h]
    exact hy
  · injection hk
    simp_all [Group.Timed, Group.addDist]

theorem retire_mem (s : State) (g : Nat) (sl : Slot) : (s.retire g sl).mem = s.mem := by
  unfold State.retire
  dsimp only
  split <;> simp

/-- What completing a slot that gives no result makes of its group. -/
def Group.issued (x : Group) (sl : Slot) : Group := (x.setTok sl.tset none).watch none false sl.tset.toNat []

theorem issued_eq (x : Group) (sl : Slot) :
    { x.issued sl with tok1 := x.tok1, tok2 := x.tok2, producers := x.producers } = x := by
  unfold Group.issued Group.setTok
  split_ifs <;> rfl

theorem finish_none (s : State) (g : Nat) (sl : Slot) : s.finish g sl .none [] false
    = ((s.updGrp g fun y => y.setTok sl.tset none).updGrp g fun y => y.watch none false sl.tset.toNat []).retire g sl := rfl

theorem grp?_finish_none (h : s.grp? g = some x) (sl : Slot) : ∃ y, (s.finish g sl .none [] false).grp? g = some y
    ∧ y.pc = x.pc + 16 ∧ y.yielded = decide (sl.yld = 1) ∧ y.sregs = x.sregs ∧ y.vregs = x.vregs ∧ y.queue = x.queue := by
  have h1 : ((s.updGrp g fun y => y.setTok sl.tset none).updGrp g fun y => y.watch none false sl.tset.toNat []).grp? g
      = some (x.issued sl) := by simp [grp?_updGrp, h, Group.issued]
  obtain ⟨y, hy, ht, hyld⟩ := grp?_retire h1 sl
  have hx := issued_eq x sl
  exact ⟨y, hy, (congrArg Group.pc ht :).trans (congrArg (fun z : Group => z.pc + 16) hx :), hyld,
    (congrArg Group.sregs ht :).trans (congrArg Group.sregs hx :),
    (congrArg Group.vregs ht :).trans (congrArg Group.vregs hx :),
    (congrArg Group.queue ht :).trans (congrArg Group.queue hx :)⟩

theorem finish_none_mem (s : State) (g : Nat) (sl : Slot) : (s.finish g sl .none [] false).mem = s.mem := by
  rw [finish_none, retire_mem, updGrp_mem, updGrp_mem]

/-! ### EXIT (R109, R110) -/

/-- EXIT whose barriers pass their checks, once its accesses at peers are answered. -/
theorem exitBody_of {u : State} {ts : List (Join × Target)} (hq : s.peerQuiet s.cur = true)
    (ht : s.exitTargets (s.viewOf s.cur) x.joined = (u, .ok ts)) :
    exitBody s x = .wait ((u.passCycles x.core 1).exitGroup s.cur ts) := by
  simp only [exitBody, syncAfter, hq, if_true, ht]

end Sys2Proof.Machine

open Sys2Proof Sys2Proof.Machine in
/-- Settles O18: NOP and the hints complete with at most a bucket or L1 lines changed, YIELD retires its slot, and a group that
exits is gone. -/
theorem hintsAndExit : Obligations.HINTS_AND_EXIT := by
  intro s x sl i flows
  refine ⟨fun h => runSlot_writes h (body := nopBody) rfl, fun h hf => ?pref, fun h hf => ?cctl,
    fun h => ⟨?yield, fun u ts hq ht => ?exit⟩⟩
  case pref =>
    obtain ⟨t, hb, ht⟩ := prefBody_flows (s := i) (x := x.cover sl) (sl := sl) (by rw [cur_atIssue h.group]; exact hf)
    exact ⟨t, runSlot_done h hb, ht⟩
  case cctl =>
    obtain ⟨t, hb, hframe, hl1⟩ := cctlBody_flows (s := i) (x := x.cover sl) (sl := sl) (by rw [cur_atIssue h.group]; exact hf)
    exact ⟨t, runSlot_done h hb, hframe, hl1⟩
  case yield =>
    have hrun := runSlot_waits h .none (body := yieldBody sl) rfl
    have hi : i.grp? i.cur = some (x.cover sl) := by rw [cur_atIssue h.group]; exact grp?_atIssue h.group
    obtain ⟨y, hy, hpc, hyld, hs, hv, hqueue⟩ := grp?_finish_none hi { sl with yld := 1 }
    rw [cur_atIssue h.group] at hrun hy
    exact ⟨_, y, hrun, hy, hpc, hyld, hs, hv, hqueue, (finish_none_mem _ _ _).trans (updGrp_mem _ _ _)⟩
  case exit =>
    rw [← cur_atIssue (sl := sl) h.group] at hq ht
    have hrun := runSlot_waits h .none (exitBody_of (x := x.cover sl) hq ht)
    have a : Accessed i (i.exitTargets (i.viewOf i.cur) x.joined).1 := accessed_exitTargets _ _ (.refl i)
    rw [ht] at a
    rw [cur_atIssue h.group] at hrun
    have hu : u.grp? s.cur = some (x.cover sl) := (a.grp? _).trans (grp?_atIssue h.group)
    obtain ⟨y, hy, hk⟩ := grp?_passCycles_of hu (x.cover sl).core 1
    have hw : ((u.passCycles (x.cover sl).core 1).grpD s.cur).wg = x.wg := by
      rw [grpD_of _ hy]
      exact (congrArg Group.wg hk :)
    obtain ⟨hnone, hout⟩ := gone_exitGroup ts hw
    exact ⟨_, hrun, hnone, hout⟩
end

section
/-! SUPPORT, O5 and O6. The element forms of the vector integer instructions: each sub-element of the result is one operation on
the source elements of its place (R133 to R135, R138, R140, R141, R148). -/

namespace Sys2Proof.Machine

variable {s : State} {f : Form} {sl : Slot} {x : Group} {i : Instr} {lat : Machine.Lat} {body : State → Group → Effect}
  {P : Vec → Prop}

/-! ### Lane values by their elements (R18, R133) -/

/-- A slot whose effect packs each lane from elements gives the vector of those elements. -/
theorem givesVec_of_elems (h : Issues s f sl x) (he : exec i s = runSlot f lat sl body s) {w : Nat} {g : Nat → Nat → Nat}
    (hb : body (s.atIssue sl) (x.cover sl) = vecLanes sl (s.atIssue sl) (x.cover sl) fun L => ofSubs w (g L))
    (hP : ∀ V, (∀ L k, L < 32 → k < 64 / w → elem w k (lane V L) = BitVec.ofNat w (g L k)) → P V) :
    givesVec i s x sl lat P :=
  givesVec_of_vecLanes h he hb (hP _ fun L k hL hk => by rw [lane_vecOf _ _ hL, elem_ofSubs _ _ _ hk])

/-- An element of a source at issue is the one that the statements name. -/
theorem sub_vsrc_atIssue (hg : s.grp? s.cur = some x) (c : BitVec 10) (L k : Nat) :
    sub (tyW sl) k (lane ((s.atIssue sl).vsrc (x.cover sl) sl (tyW sl) c) L) = (srcElem s x sl L k c).toNat := by
  rw [sub_eq_elem, vsrc_atIssue hg, srcElem]

theorem givesVec_vec1 (h : Issues s f sl x) {g : Nat → Nat → Nat} (he : exec i s = runSlot f lat sl body s)
    (hb : body (s.atIssue sl) (x.cover sl) = vec1 g sl (s.atIssue sl) (x.cover sl))
    (hP : ∀ V, (∀ L k, L < 32 → k < 64 / tyW sl → elem (tyW sl) k (lane V L) = BitVec.ofNat _
      (g (tyW sl) (srcElem s x sl L k sl.a).toNat)) → P V) :
    givesVec i s x sl lat P :=
  givesVec_of_elems h he hb (by simpa only [sub_vsrc_atIssue h.group] using hP)

theorem givesVec_vec2 (h : Issues s f sl x) {g : Nat → Nat → Nat → Nat} (he : exec i s = runSlot f lat sl body s)
    (hb : body (s.atIssue sl) (x.cover sl) = vec2 g sl (s.atIssue sl) (x.cover sl))
    (hP : ∀ V, (∀ L k, L < 32 → k < 64 / tyW sl → elem (tyW sl) k (lane V L) = BitVec.ofNat _
      (g (tyW sl) (srcElem s x sl L k sl.a).toNat (srcElem s x sl L k sl.b).toNat)) → P V) :
    givesVec i s x sl lat P :=
  givesVec_of_elems h he hb (by simpa only [sub_vsrc_atIssue h.group] using hP)

theorem givesVec_vec3 (h : Issues s f sl x) {g : Nat → Nat → Nat → Nat → Nat} (he : exec i s = runSlot f lat sl body s)
    (hb : body (s.atIssue sl) (x.cover sl) = vec3 g sl (s.atIssue sl) (x.cover sl))
    (hP : ∀ V, (∀ L k, L < 32 → k < 64 / tyW sl → elem (tyW sl) k (lane V L) = BitVec.ofNat _
      (g (tyW sl) (srcElem s x sl L k sl.a).toNat (srcElem s x sl L k sl.b).toNat (srcElem s x sl L k sl.c).toNat)) → P V) :
    givesVec i s x sl lat P :=
  givesVec_of_elems h he hb (by simpa only [sub_vsrc_atIssue h.group] using hP)

/-! ### One operation for every element (R133) -/

variable {r : (BitVec 10 → BitVec (tyW sl)) → BitVec (tyW sl)}

theorem eachElem_vec1 (h : Issues s f sl x) {g : Nat → Nat → Nat} (he : exec i s = runSlot f lat sl (vec1 g sl) s)
    (hr : ∀ E, BitVec.ofNat _ (g (tyW sl) (E sl.a).toNat) = r E) : givesVec i s x sl lat (eachElem s x sl r) :=
  givesVec_vec1 h he rfl fun _ hV L k hL hk => (hV L k hL hk).trans (hr _)

theorem eachElem_vec2 (h : Issues s f sl x) {g : Nat → Nat → Nat → Nat} (he : exec i s = runSlot f lat sl (vec2 g sl) s)
    (hr : ∀ E, BitVec.ofNat _ (g (tyW sl) (E sl.a).toNat (E sl.b).toNat) = r E) :
    givesVec i s x sl lat (eachElem s x sl r) :=
  givesVec_vec2 h he rfl fun _ hV L k hL hk => (hV L k hL hk).trans (hr _)

theorem eachElem_vec3 (h : Issues s f sl x) {g : Nat → Nat → Nat → Nat → Nat}
    (he : exec i s = runSlot f lat sl (vec3 g sl) s)
    (hr : ∀ E, BitVec.ofNat _ (g (tyW sl) (E sl.a).toNat (E sl.b).toNat (E sl.c).toNat) = r E) :
    givesVec i s x sl lat (eachElem s x sl r) :=
  givesVec_vec3 h he rfl fun _ hV L k hL hk => (hV L k hL hk).trans (hr _)

/-- A number that is the pattern of a bit vector, as a bit vector. -/
theorem ofNat_of_eq_toNat {w n : Nat} {b : BitVec w} (h : n = b.toNat) : BitVec.ofNat w n = b := by
  rw [h, BitVec.ofNat_toNat, BitVec.setWidth_eq]

/-! ### Exact results (R133, R135) -/

theorem rd_eq_typedInt (sl : Slot) {w : Nat} (b : BitVec w) : rd w (tyS sl) b.toNat = typedInt sl b := rd_toNat _ _

theorem eachElem_vint1 (h : Issues s f sl x) {g : Int → Int} (he : exec i s = runSlot f lat sl (vint1 g sl) s) :
    givesVec i s x sl lat (eachElem s x sl fun E => fitted sl (tyW sl) (g (typedInt sl (E sl.a)))) :=
  eachElem_vec1 h he fun E => by rw [ofNat_wrapOrSat, rd_eq_typedInt]

theorem eachElem_vint2 (h : Issues s f sl x) {g : Int → Int → Int} (he : exec i s = runSlot f lat sl (vint2 g sl) s) :
    givesVec i s x sl lat
      (eachElem s x sl fun E => fitted sl (tyW sl) (g (typedInt sl (E sl.a)) (typedInt sl (E sl.b)))) :=
  eachElem_vec2 h he fun E => by rw [ofNat_wrapOrSat, rd_eq_typedInt, rd_eq_typedInt]

theorem eachElem_vmad (h : Issues s (fVec 0 1 (tyI sl) 3 sl) sl x) : givesVec (.vmad sl) s x sl (.fixed 4) (eachElem s x sl
    fun E => fitted sl (tyW sl) (typedInt sl (E sl.a) * typedInt sl (E sl.b) + typedInt sl (E sl.c))) :=
  eachElem_vec3 h rfl fun E => by rw [ofNat_wrapOrSat, rd_eq_typedInt, rd_eq_typedInt, rd_eq_typedInt]

theorem eachElem_vmulh (h : Issues s (fVec 0 0 (tyI sl) 2 sl) sl x) : givesVec (.vmulh sl) s x sl (.fixed 4) (eachElem s x sl
    fun E => BitVec.ofInt (tyW sl) (typedInt sl (E sl.a) * typedInt sl (E sl.b) / 2 ^ tyW sl)) :=
  eachElem_vec2 h rfl fun E => by rw [ofNat_wrap, rd_eq_typedInt, rd_eq_typedInt]

/-- A form with MOD 0 wraps its exact result. -/
theorem eachElem_vint2_of_mod (h : Issues s f sl x) {g : Int → Int → Int} (he : exec i s = runSlot f lat sl (vint2 g sl) s)
    (hm : modN sl ≤ 0) (hr : ∀ E, BitVec.ofInt (tyW sl) (g (typedInt sl (E sl.a)) (typedInt sl (E sl.b))) = r E) :
    givesVec i s x sl lat (eachElem s x sl r) := by
  obtain rfl : (fun E => BitVec.ofInt (tyW sl) (g (typedInt sl (E sl.a)) (typedInt sl (E sl.b)))) = r := funext hr
  simpa only [fitted_of_mod hm] using eachElem_vint2 h he

end Sys2Proof.Machine

open Sys2Proof Sys2Proof.Machine in
/-- Settles O5: each element is one exact result of its source elements, wrapped or saturated, or one quotient of patterns. -/
theorem vectorArithmeticResults : Obligations.VECTOR_ARITHMETIC_RESULTS := by
  intro s x sl w int gives
  refine ⟨fun h => ⟨eachElem_vint2 h rfl, eachElem_vint2 h rfl, eachElem_vint2 h rfl⟩, fun h => eachElem_vmad h,
    fun h => ⟨?abs, eachElem_vint1 h rfl⟩, fun h => ?avg, fun h => ⟨eachElem_vmulh h, ?min, ?max, ?div, ?rem⟩⟩
  case abs => simpa only [Int.natCast_natAbs] using eachElem_vint1 (i := .vabs sl) h rfl
  case avg => exact eachElem_vint2_of_mod h rfl (of_decide_eq_true (rest_holds h)) fun E => rfl
  case min =>
    have hm : modN sl ≤ 0 := of_decide_eq_true (rest_holds h)
    simpa only [fitted_min hm] using eachElem_vint2 (i := .vmin sl) h rfl
  case max =>
    have hm : modN sl ≤ 0 := of_decide_eq_true (rest_holds h)
    simpa only [fitted_max hm] using eachElem_vint2 (i := .vmax sl) h rfl
  case div => exact eachElem_vec2 h rfl fun E => ofNat_of_eq_toNat (divW_toNat _ _ _)
  case rem => exact eachElem_vec2 h rfl fun E => ofNat_of_eq_toNat (remW_toNat _ _ _)

namespace Sys2Proof.Machine

/-- The funnel shift reads one half of the two patterns, shifted as one (R141). -/
theorem ofNat_funnel (right : Bool) {w : Nat} (a b : BitVec w) (n : Nat) : BitVec.ofNat w (funnel right w a.toNat b.toNat n)
    = if right then ((a ++ b) >>> n).extractLsb' 0 w else ((a ++ b) <<< n).extractLsb' w w := by
  have hcat : a.toNat * 2 ^ w + b.toNat = (a ++ b).toNat := by
    rw [BitVec.toNat_append, ← Nat.shiftLeft_add_eq_or_of_lt b.isLt, Nat.shiftLeft_eq]
  rw [funnel, hcat]
  by_cases hn : 2 * w ≤ n
  · rw [if_pos hn, BitVec.ushiftRight_eq_zero (by omega), BitVec.shiftLeft_eq_zero (by omega)]
    simp
  · rw [if_neg hn]
    cases right
    case true =>
      refine ofNat_of_eq_toNat ?_
      rw [if_pos rfl, if_pos rfl, BitVec.extractLsb'_toNat, BitVec.toNat_ushiftRight, Nat.shiftRight_zero,
        Nat.shiftRight_eq_div_pow]
    case false =>
      refine ofNat_of_eq_toNat ?_
      rw [if_neg Bool.false_ne_true, if_neg Bool.false_ne_true, BitVec.extractLsb'_toNat, BitVec.toNat_shiftLeft,
        Nat.shiftLeft_eq, Nat.shiftRight_eq_div_pow, Nat.pow_add, Nat.mod_mul_right_div_self, Nat.mod_mod]

end Sys2Proof.Machine

open Sys2Proof Sys2Proof.Machine in
/-- Settles O6: each element is one bit vector operation on the source elements of its place. -/
theorem vectorLogicResults : Obligations.VECTOR_LOGIC_RESULTS := by
  intro s x sl w gives
  have hw : 0 < w := tyW_pos sl
  refine ⟨fun h => ⟨?and, ?or, ?xor, ?andn, ?shl, ?shr, ?sar, ?rol, ?ror⟩,
    fun h => ⟨?not, ?mov, ?brev, ?popc, ?clz, ?ctz⟩, fun h => ?lop3, fun h => ?fshl⟩
  case and => exact eachElem_vec2 h rfl fun E => ofNat_of_eq_toNat (BitVec.toNat_and ..).symm
  case or => exact eachElem_vec2 h rfl fun E => ofNat_of_eq_toNat (BitVec.toNat_or ..).symm
  case xor => exact eachElem_vec2 h rfl fun E => ofNat_of_eq_toNat (BitVec.toNat_xor ..).symm
  case andn => exact eachElem_vec2 h rfl fun E => ofNat_of_eq_toNat (by rw [notW_toNat, BitVec.toNat_and])
  case shl => exact eachElem_vec2 h rfl fun E => ofNat_of_eq_toNat (shl_toNat ..)
  case shr => exact eachElem_vec2 h rfl fun E => ofNat_of_eq_toNat (shr_toNat ..)
  case sar => exact eachElem_vec2 h rfl fun E => ofNat_of_eq_toNat (sar_toNat ..)
  case rol => exact eachElem_vec2 h rfl fun E => ofNat_of_eq_toNat (rotl_toNat hw ..)
  case ror => exact eachElem_vec2 h rfl fun E => ofNat_of_eq_toNat (rotr_toNat hw ..)
  case not => exact eachElem_vec1 h rfl fun E => ofNat_of_eq_toNat (notW_toNat _)
  case mov => exact eachElem_vec1 h rfl fun E => ofNat_of_eq_toNat rfl
  case brev => exact eachElem_vec1 h rfl fun E => ofNat_of_eq_toNat (brev_toNat _)
  case popc => exact eachElem_vec1 h rfl fun E => by simp only [popc_eq, BitVec.testBit_toNat, w]
  case clz => exact eachElem_vec1 h rfl fun E => congrArg _ (clz_toNat _)
  case ctz => exact eachElem_vec1 h rfl fun E => congrArg _ (ctz_toNat _)
  case lop3 =>
    refine givesVec_vec3 h rfl rfl fun V hV L k i hL hk hi => ?_
    rw [hV L k hL hk, BitVec.getLsbD_ofNat, testBit_lop3 _ _ _ _ hi]
    simp only [hi, decide_true, Bool.true_and, immN, BitVec.testBit_toNat]
  case fshl =>
    refine eachElem_vec3 h rfl fun E => (ofNat_funnel ..).trans ?_
    simp only [decide_eq_true_eq, w]
end

section
/-! SUPPORT and O7. Compares into masks and predicates, selection, and bit fields with one control (R139, R142, R143). -/

namespace Sys2Proof.Machine

variable {s : State} {f : Form} {sl : Slot} {x : Group}

/-! ### Masks (R22, R142) -/

theorem getLsbD_maskOf (p : Nat → Bool) {L : Nat} (hL : L < 32) : (maskOf p).getLsbD L = p L := by
  have hfield := packN_field 1 (fun L => (p L).toNat) 32 0 L hL
  rw [maskOf, BitVec.getLsbD_ofNat, Nat.testBit_eq_decide_div_mod_eq]
  rw [Nat.one_mul, Nat.zero_add, Nat.pow_one] at hfield
  rw [hfield]
  cases p L <;> simp [hL]

theorem predLane_iff (n : Nat) (any : Bool) (c : Nat → Bool) :
    predLane n any c = true ↔ if any then ∃ k, k < n ∧ c k = true else ∀ k, k < n → c k = true := by
  cases any <;> simp [predLane]

/-- The mask that a compare leaves in its predicate: the new bits of the selected lanes, the old ones of the others. -/
def cmpMask (sl : Slot) (x : Group) (c : Nat → Bool) : Mask :=
  maskOf fun L => if (x.sel sl).getLsbD L then c L else (x.predOf sl.d).getLsbD L

/-! ### VCMP (R142) -/

theorem kindD_eq_vp_iff {c : BitVec 10} : kindD c = .vp ↔ kindOf c = some .vp := by
  unfold kindD
  cases kindOf c <;> simp

/-- The compare of element `k` of lane `L`. -/
def cmpElem (s : State) (x : Group) (sl : Slot) (L k : Nat) : Bool :=
  cond (subN sl) (typedInt sl (srcElem s x sl L k sl.a)) (typedInt sl (srcElem s x sl L k sl.b))

theorem vcmpBody_atIssue (hg : s.grp? s.cur = some x) : vcmpBody sl (s.atIssue sl) (x.cover sl)
    = cmpOut sl (s.atIssue sl) (x.cover sl) (tyW sl) (sl.md.getLsbD 0) (cmpElem s x sl) := by
  simp only [vcmpBody, sub_vsrc_atIssue hg, rd_eq_typedInt]
  rfl

/-- The compare into a vector register: a mask of each element. -/
theorem givesVec_vcmp (h : Issues s (fVcmp sl) sl x) (hd : kindOf sl.d ≠ some .vp) {P : Vec → Prop}
    (hP : ∀ V, (∀ L k, L < 32 → k < 64 / tyW sl → elem (tyW sl) k (lane V L)
      = if cmpElem s x sl L k then BitVec.allOnes (tyW sl) else 0) → P V) :
    givesVec (.vcmp sl) s x sl (.fixed 4) P := by
  refine givesVec_of_elems h rfl (w := tyW sl) (g := fun L k => if cmpElem s x sl L k then 2 ^ tyW sl - 1 else 0) ?_
    fun V hV => hP V fun L k hL hk => ?_
  · rw [vcmpBody_atIssue h.group, cmpOut]
    split
    · exact absurd (kindD_eq_vp_iff.1 ‹_›) hd
    · rfl
  · rw [hV L k hL hk]
    split
    · exact ofNat_of_eq_toNat BitVec.toNat_allOnes.symm
    · rfl

/-- The compare into a lane predicate. -/
theorem runSlot_vcmp_vp (h : Issues s (fVcmp sl) sl x) (hd : kindOf sl.d = some .vp) :
    exec (.vcmp sl) s = writes s sl (.fixed 4) [.scalar (.vp (sl.d.toNat - 0x278))
      ((cmpMask sl x fun L => predLane (64 / tyW sl) (sl.md.getLsbD 0) (cmpElem s x sl L)).setWidth 64)] := by
  refine runSlot_writes h (body := vcmpBody sl) ?_
  simp only [vcmpBody_atIssue h.group, cmpOut, predOut, scaOut, dstRef, kindD_eq_vp_iff.2 hd]
  rfl

/-! ### VSEL (R139) -/

theorem vselBody_atIssue (hg : s.grp? s.cur = some x) : vselBody sl (s.atIssue sl) (x.cover sl)
    = vecLanes sl (s.atIssue sl) (x.cover sl) fun L =>
      if sl.sub = 0 then
        if (x.predOf sl.a).getLsbD L then lane (s.vsrc x sl (tyW sl) sl.b) L else lane (s.vsrc x sl (tyW sl) sl.c) L
      else (lane (s.vsrc x sl (tyW sl) sl.a) L &&& lane (s.vsrc x sl (tyW sl) sl.b) L)
        ||| (~~~(lane (s.vsrc x sl (tyW sl) sl.a) L) &&& lane (s.vsrc x sl (tyW sl) sl.c) L) := by
  simp only [vselBody, vsrc_atIssue hg]
  split <;> rfl

/-! ### Bit fields (R143) -/

theorem vbfeBody_atIssue (hg : s.grp? s.cur = some x) : vbfeBody sl (s.atIssue sl) (x.cover sl)
    = vec1 (fun w a => bfe w (tyS sl) a (s.ssrc x sl sl.b)) sl (s.atIssue sl) (x.cover sl) := by
  rw [vbfeBody, ssrc_atIssue hg]

theorem vbfiBody_atIssue (hg : s.grp? s.cur = some x) : vbfiBody sl (s.atIssue sl) (x.cover sl)
    = vec2 (fun w a b => bfi w a b (s.ssrc x sl sl.c)) sl (s.atIssue sl) (x.cover sl) := by
  rw [vbfiBody, ssrc_atIssue hg]

end Sys2Proof.Machine

open Sys2Proof Sys2Proof.Machine in
/-- Settles O7: each element or lane is one compare, one choice, or one field of its source elements. -/
theorem vectorSelectResults : Obligations.VECTOR_SELECT_RESULTS := by
  intro s x sl w E holds
  have hcmp (L k : Nat) : cmpElem s x sl L k = true ↔ holds L k := cond_iff ..
  refine ⟨fun h => ⟨fun hd => ?mask, fun hd => ?pred⟩, fun h => ?sel, fun h => ?bfe, fun h => ?bfi⟩
  case mask =>
    refine givesVec_vcmp h hd fun V hV L k hL hk => ?_
    rw [← hcmp, hV L k hL hk]
    exact ⟨fun hc => if_pos hc, fun hc => if_neg hc⟩
  case pred =>
    refine ⟨_, runSlot_vcmp_vp h hd, fun L hL => ?_⟩
    rw [cmpMask, getLsbD_maskOf _ hL]
    refine ⟨fun hsel => if_neg hsel, fun hsel => ?_⟩
    rw [if_pos hsel, predLane_iff]
    simp only [hcmp, w]
  case sel =>
    exact givesVec_of_vecLanes h rfl (vselBody_atIssue h.group) fun L hL => lane_vecOf _ _ hL
  case bfe =>
    refine givesVec_vec1 h rfl (vbfeBody_atIssue h.group) fun V hV L k i hL hk hi => ?_
    obtain ⟨r, hr, hbits⟩ := bfe_spec (tyS sl) (E L k sl.a) (s.ssrc x sl sl.b)
    rw [hV L k hL hk, ofNat_of_eq_toNat hr]
    exact hbits i hi
  case bfi =>
    refine givesVec_vec2 h rfl (vbfiBody_atIssue h.group) fun V hV L k i hL hk hi => ?_
    obtain ⟨r, hr, hbits⟩ := bfi_spec (E L k sl.a) (E L k sl.b) (s.ssrc x sl sl.c)
    rw [hV L k hL hk, ofNat_of_eq_toNat hr]
    exact hbits i hi
end

section
/-! SUPPORT and O8. The lane forms, which sum, permute, widen, narrow and interleave sub-elements (R136, R137, R144 to R147). -/

namespace Sys2Proof.Machine

variable {s : State} {f : Form} {sl : Slot} {x : Group}

/-! ### Types of N (R132) -/

theorem tyW_cases (sl : Slot) : tyW sl = 4 ∨ tyW sl = 8 ∨ tyW sl = 16 ∨ tyW sl = 32 ∨ tyW sl = 64 := by
  unfold tyW intTy
  split <;> decide

/-- A type of N splits a lane's elements into two halves. -/
theorem elems_of_tyN (h : tyN sl = true) : 64 / tyW sl = 2 * (32 / tyW sl) := by
  have hle : tyW sl ≤ 32 := of_decide_eq_true (Bool.and_eq_true_iff.1 h).2
  rcases tyW_cases sl with hw | hw | hw | hw | hw <;> rw [hw] at hle ⊢
  omega

/-- A lane holds half as many elements of twice the width. -/
theorem elems_double (w : Nat) : 64 / (2 * w) = 32 / w := by rw [← Nat.div_div_eq_div_mul]

/-- A slot that passes check 2 has an assigned type (R96). -/
theorem ty_assigned (h : Issues s f sl x) : f.ty = true := by
  have h2 := h.decodes
  unfold decodeTrap at h2
  split_ifs at h2 with h1 ht
  exact ht

/-! ### VSAD and VDOT4 (R136, R137) -/

theorem vsadBody_atIssue (hg : s.grp? s.cur = some x) : vsadBody sl (s.atIssue sl) (x.cover sl)
    = vecLanes sl (s.atIssue sl) (x.cover sl) fun L =>
      lane (s.vsrc x sl 64 sl.c) L + BitVec.ofInt 64 (((List.range (64 / tyW sl)).map fun k =>
        |typedInt sl (srcElem s x sl L k sl.a) - typedInt sl (srcElem s x sl L k sl.b)|).sum) := by
  simp only [vsadBody, sumInt, vsrc_atIssue hg, sub_eq_elem, rd_eq_typedInt, Int.natCast_natAbs]
  rfl

/-- A signed exact result, wrapped or saturated. -/
theorem ofNat_wrapOrSat_signed (sat : Bool) (w : Nat) (v : Int) : BitVec.ofNat w (wrapOrSat sat w true v)
    = BitVec.ofInt w (if sat then max (-2 ^ (w - 1)) (min v (2 ^ (w - 1) - 1)) else v) := by
  cases sat
  · exact ofNat_wrap w v
  · exact (ofNat_wrap w _).trans (by rw [clampI_eq]; rfl)

/-- The other signedness under a condition. -/
theorem ite_not_eq_bne (p : Prop) [Decidable p] (b : Bool) : (if p then !b else b) = (b != decide p) := by
  by_cases hp : p <;> simp [hp]

theorem sumInt_four (g : Nat → Int) : sumInt 4 g = g 0 + g 1 + g 2 + g 3 := by
  simp [sumInt, List.range_succ, Int.add_assoc]

/-! ### VPRMB (R144) -/

theorem ofNat_prmbByte (a b : Word) (c : BitVec 8) : BitVec.ofNat 8 (prmbByte a b c.toNat)
    = if c.getLsbD 7 then 0 else if c.getLsbD 3 then elem 8 (c.toNat % 8) b else elem 8 (c.toNat % 8) a := by
  have h7 : c.getLsbD 7 = true ↔ 128 ≤ c.toNat := by
    rw [← BitVec.testBit_toNat, Nat.testBit_eq_decide_div_mod_eq, decide_eq_true_eq]
    omega
  have h3 : c.getLsbD 3 = true ↔ ¬ c.toNat % 16 < 8 := by
    rw [← BitVec.testBit_toNat, Nat.testBit_eq_decide_div_mod_eq, decide_eq_true_eq]
    omega
  simp only [prmbByte, h7, h3, ite_not, sub_eq_elem]
  split_ifs with hzero ha
  · rfl
  · rw [show c.toNat % 16 = c.toNat % 8 by omega, ofNat_of_eq_toNat rfl]
  · rw [show c.toNat % 16 - 8 = c.toNat % 8 by omega, ofNat_of_eq_toNat rfl]

/-! ### VPACK (R147) -/

theorem packFrom_lo (h j : Nat) : packFrom 0 h (2 * j) = (false, j) ∧ packFrom 0 h (2 * j + 1) = (true, j) := by
  simp [packFrom, show (2 * j + 1) / 2 = j by omega]

theorem packFrom_hi (h j : Nat) :
    packFrom 1 h (2 * j) = (false, j + h) ∧ packFrom 1 h (2 * j + 1) = (true, j + h) := by
  simp [packFrom, show (2 * j + 1) / 2 = j by omega]

theorem packFrom_even {h j : Nat} (hj : j < h) :
    packFrom 2 h j = (false, 2 * j) ∧ packFrom 2 h (j + h) = (true, 2 * j) := by
  simp [packFrom, Nat.mod_eq_of_lt hj, hj]

theorem packFrom_odd {h j : Nat} (hj : j < h) :
    packFrom 3 h j = (false, 2 * j + 1) ∧ packFrom 3 h (j + h) = (true, 2 * j + 1) := by
  simp [packFrom, Nat.mod_eq_of_lt hj, hj]

/-- The source element that VPACK takes from B, or from A. -/
def packElem (s : State) (x : Group) (sl : Slot) (L : Nat) (p : Bool × Nat) : BitVec (tyW sl) :=
  srcElem s x sl L p.2 (if p.1 then sl.b else sl.a)

theorem vpackBody_atIssue (hg : s.grp? s.cur = some x) : vpackBody sl (s.atIssue sl) (x.cover sl)
    = vecLanes sl (s.atIssue sl) (x.cover sl) fun L =>
      ofSubs (tyW sl) fun k => (packElem s x sl L (packFrom (subN sl) (32 / tyW sl) k)).toNat := by
  simp only [vpackBody, vsrc_atIssue hg, sub_eq_elem]
  refine congrArg _ (funext fun L => congrArg _ (funext fun k => ?_))
  rw [packElem, srcElem]
  split <;> rfl

end Sys2Proof.Machine

open Sys2Proof Sys2Proof.Machine in
/-- Settles O8: each lane form is one sum, or one choice of the elements of its sources. -/
theorem vectorLaneForms : Obligations.VECTOR_LANE_FORMS := by
  intro s x sl w src gives
  refine ⟨fun h => ?sad, fun h => ?dot4, fun h => ?prmb, fun h => ?widen, fun h => ?narrow, fun h => ?pack⟩
  case sad => exact givesVec_of_vecLanes h rfl (vsadBody_atIssue h.group) fun L hL => lane_vecOf _ _ hL
  case dot4 =>
    refine givesVec_of_elems h (w := 32) rfl rfl fun V hV L j hL hj => ?_
    intro a b v
    rw [hV L j hL hj, ofNat_wrapOrSat_signed, sumInt_four, ite_not_eq_bne]
    simp only [vsrc_atIssue h.group, sub_eq_elem, rd_toNat, signed_toNat]
    rfl
  case prmb =>
    refine givesVec_of_elems h (w := 8) rfl rfl fun V hV L i hL hi => ?_
    rw [hV L i hL hi, sub_eq_elem, ofNat_prmbByte]
    simp only [vsrc_atIssue h.group, src]
  case widen =>
    refine givesVec_of_elems h (w := 2 * w) rfl rfl fun V hV L j hL hj => ?_
    rw [hV L j hL (hj.trans_eq (elems_double w).symm), ofNat_wrap, sub_vsrc_atIssue h.group, rd_eq_typedInt]
    split <;> rfl
  case narrow =>
    refine givesVec_of_elems h (w := w) rfl rfl fun V hV L k hL hk => ?_
    intro e
    rw [hV L k hL hk, ofNat_wrapOrSat, ite_not_eq_bne, sub_eq_elem, sub_eq_elem, ← apply_ite BitVec.toNat, rd_toNat,
      vsrc_atIssue h.group, vsrc_atIssue h.group]
  case pack =>
    refine givesVec_of_elems h (w := w) rfl (vpackBody_atIssue h.group) fun V hV L j hL hj => ?_
    intro half E r
    change j < half at hj
    have hn : 64 / w = 2 * half := elems_of_tyN (ty_assigned h)
    have takes {n k k' m : Nat} (hs : subN sl = n) (hk : k < 2 * half) (hk' : k' < 2 * half)
        (hp : packFrom n half k = (false, m) ∧ packFrom n half k' = (true, m)) : r k = E sl.a m ∧ r k' = E sl.b m := by
      obtain ⟨ha, hb⟩ := hs ▸ hp
      refine ⟨(hV L k hL (hk.trans_eq hn.symm)).trans ?_, (hV L k' hL (hk'.trans_eq hn.symm)).trans ?_⟩
      · exact ofNat_of_eq_toNat (by rw [ha]; rfl)
      · exact ofNat_of_eq_toNat (by rw [hb]; rfl)
    refine ⟨fun hs => ?lo, fun hs => ?hi, fun hs => ?even, fun hs => ?odd⟩
    case lo => exact takes (congrArg BitVec.toNat hs) (by omega) (by omega) (packFrom_lo half j)
    case hi => exact takes (congrArg BitVec.toNat hs) (by omega) (by omega) (packFrom_hi half j)
    case even => exact takes (congrArg BitVec.toNat hs) (by omega) (by omega) (packFrom_even hj)
    case odd => exact takes (congrArg BitVec.toNat hs) (by omega) (by omega) (packFrom_odd hj)
end

section
/-! SUPPORT. A float instruction whose formats and part are accepted: the context that it runs in, what its sources read, and
where its results stand (R70, R71, R149 to R151). -/

namespace Sys2Proof.Machine

variable {s : State} {f : Form} {sl : Slot} {x : Group} {i : Instr} {lat : Machine.Lat} {body : State → Group → Effect}
  {ok : Nat → Nat → Nat → Bool} {used : FCtx → List Fmt} {c : FCtx} {P Q : Vec → Prop}

/-! ### Contexts (R70, R150) -/

@[simp] theorem typedCtx_cover (fa fb fo : Fmt) : typedCtx sl (x.cover sl) fa fb fo = typedCtx sl x fa fb fo := rfl

@[simp] theorem fmtCtx_cover : fmtCtx sl (x.cover sl) = fmtCtx sl x := rfl

/-- At issue, a slot whose formats and part are accepted runs in the context that the statements name. -/
theorem floatRun_accepted (hacc : floatAccepts sl x ok used) (t : State) (typed : FCtx) (run : FCtx → Effect) :
    floatRun sl t (x.cover sl) typed ok used run = run (floatCtx sl x typed used) := by
  unfold floatRun floatCtx
  by_cases hf : tyIsFmt sl = true
  · obtain ⟨hok, hpart⟩ := hacc hf
    rw [if_pos hf, if_pos hf]
    exact (if_pos hok).trans (if_pos hpart)
  · rw [if_neg hf, if_neg hf]

/-! ### Sources (R151) -/

theorem decode_elem_atIssue (hg : s.grp? s.cur = some x) (c : FCtx) (f : Fmt) (code : BitVec 10) (L k : Nat) :
    decode f (c.elem f.width ((s.atIssue sl).vsrc (x.cover sl) sl f.width code) L k) = floatSrc s x sl c f code L k := by
  rw [FCtx.elem, sub_eq_elem, vsrc_atIssue hg, floatSrc]

theorem oldDst_atIssue (hg : s.grp? s.cur = some x) (code : BitVec 10) :
    (s.atIssue sl).oldDst (x.cover sl) code = s.oldDst x code := by
  simp only [State.oldDst, readV_atIssue hg]
  rfl

/-! ### Results (R53, R151) -/

theorem givesVec_imp (h : givesVec i s x sl lat P) (hPQ : ∀ V, P V → Q V) : givesVec i s x sl lat Q := by
  obtain ⟨V, hexec, hP⟩ := h
  exact ⟨V, hexec, hPQ V hP⟩

/-- The element of a lane at which the results of a context begin. -/
def FCtx.base (c : FCtx) : Nat := if c.fo.width < c.wmax then 64 / c.wmax * c.part else 0

/-- `V` holds the patterns `g` at the place of PART; the other elements are those of the old destination. -/
def PatternsPlaced (s : State) (x : Group) (sl : Slot) (c : FCtx) (g : Nat → Nat → Nat) (V : Vec) : Prop :=
  ∀ L j, L < 32 → j < 64 / c.fo.width → elem c.fo.width j (lane V L) =
    if c.base ≤ j ∧ j < c.base + 64 / c.wmax then BitVec.ofNat c.fo.width (g L (j - c.base))
    else elem c.fo.width j (lane (s.oldDst x sl.d) L)

theorem givesVec_place (h : Issues s f sl x) (he : exec i s = runSlot f lat sl body s) {g : Nat → Nat → Nat}
    (hb : body (s.atIssue sl) (x.cover sl) = c.place sl (s.atIssue sl) (x.cover sl) c.fo.width g) :
    givesVec i s x sl lat (PatternsPlaced s x sl c g) := by
  refine givesVec_of_elems h he hb fun V hV L j hL hj => (hV L j hL hj).trans ?_
  rw [apply_ite (BitVec.ofNat _), oldDst_atIssue h.group, sub_eq_elem, ofNat_of_eq_toNat rfl]
  rfl

/-- The pattern of a value: scaled by the output scale and rounded once. -/
def FCtx.round (c : FCtx) (v : FVal) : Nat := encode c.fo c.mode c.satf (v.scale c.so)

/-- Values whose patterns are the same are placed alike. -/
theorem floatPlaced_of_patterns {g : Nat → Nat → Nat} {r : Nat → Nat → FVal} (hg : ∀ L k, g L k = c.round (r L k)) {V : Vec}
    (hV : PatternsPlaced s x sl c g V) : floatPlaced s x sl c r V := by
  obtain rfl : g = fun L k => c.round (r L k) := funext₂ hg
  exact hV

theorem givesVec_floatPlaced (h : Issues s f sl x) (he : exec i s = runSlot f lat sl body s) {r : Nat → Nat → FVal}
    (hb : body (s.atIssue sl) (x.cover sl)
      = c.place sl (s.atIssue sl) (x.cover sl) c.fo.width fun L k => c.round (r L k)) :
    givesVec i s x sl lat (floatPlaced s x sl c r) :=
  givesVec_imp (givesVec_place h he hb) fun _ hV => floatPlaced_of_patterns (fun _ _ => rfl) hV

/-- Where the output is as wide as the widest format used, the results are the whole lane. -/
theorem patternsPlaced_whole (hw : c.wmax = c.fo.width) {g : Nat → Nat → Nat} {V : Vec}
    (hV : ∀ L j, L < 32 → j < 64 / c.fo.width → elem c.fo.width j (lane V L) = BitVec.ofNat c.fo.width (g L j)) :
    PatternsPlaced s x sl c g V := by
  intro L j hL hj
  have hbase : c.base = 0 := if_neg hw.le.not_gt
  rw [hbase, if_pos ⟨Nat.zero_le j, by rwa [Nat.zero_add, hw]⟩]
  exact hV L j hL hj

end Sys2Proof.Machine
end

section
/-! SUPPORT and O10. The two-operand and one-operand float instructions, FFMA and FSCALE (R154, R156, R157, R160, R161). -/

namespace Sys2Proof.Machine

variable {s : State} {f : Form} {sl : Slot} {x : Group} {i : Instr} {lat : Machine.Lat}

/-! ### The shared course -/

/-- The context of a form that reads A and B in formats of their own. -/
def binaryCtx (sl : Slot) (x : Group) : FCtx :=
  floatCtx sl x (typedCtx sl x (tyFmt sl) (tyFmt sl) (tyFmt sl)) fun c => [c.fa, c.fb, c.fo]

/-- The context of a form that reads A only. -/
def unaryCtx (sl : Slot) (x : Group) : FCtx :=
  floatCtx sl x (typedCtx sl x (tyFmt sl) (tyFmt sl) (tyFmt sl)) fun c => [c.fa, c.fo]

/-- An element of A as an operand: decoded and scaled (R150). -/
def scaledA (s : State) (x : Group) (sl : Slot) (c : FCtx) (L k : Nat) : FVal :=
  (floatSrc s x sl c c.fa sl.a L k).scale c.sa

/-- An element of B as an operand. -/
def scaledB (s : State) (x : Group) (sl : Slot) (c : FCtx) (L k : Nat) : FVal :=
  (floatSrc s x sl c c.fb sl.b L k).scale c.sb

theorem givesVec_flt1 (h : Issues s f sl x) (hacc : floatAccepts sl x (fun a _ o => okIn a && okOut o) fun c => [c.fa, c.fo])
    {g : FCtx → FVal → FVal} (he : exec i s = runSlot f lat sl (flt1 g sl) s) :
    givesVec i s x sl lat (floatPlaced s x sl (unaryCtx sl x) fun L k =>
      g (unaryCtx sl x) (scaledA s x sl (unaryCtx sl x) L k)) := by
  refine givesVec_floatPlaced h he ?_
  unfold flt1
  simp only [floatRun_accepted hacc, decode_elem_atIssue h.group, typedCtx_cover]
  rfl

theorem givesVec_flt2 (h : Issues s f sl x)
    (hacc : floatAccepts sl x (fun a b o => okIn a && okIn b && okOut o) fun c => [c.fa, c.fb, c.fo])
    {g : FCtx → FVal → FVal → FVal} (he : exec i s = runSlot f lat sl (flt2 g sl) s) :
    givesVec i s x sl lat (floatPlaced s x sl (binaryCtx sl x) fun L k =>
      g (binaryCtx sl x) (scaledA s x sl (binaryCtx sl x) L k) (scaledB s x sl (binaryCtx sl x) L k)) := by
  refine givesVec_floatPlaced h he ?_
  unfold flt2
  simp only [floatRun_accepted hacc, decode_elem_atIssue h.group, typedCtx_cover]
  rfl

/-! ### FFMA (R154) -/

theorem two_le_toNat_iff {b : BitVec 4} (hb : b.toNat ≤ 3) : 2 ≤ b.toNat ↔ b.getLsbD 1 = true := by
  rw [← BitVec.testBit_toNat, Nat.testBit_eq_decide_div_mod_eq, decide_eq_true_eq]
  omega

theorem toNat_mod_two_iff (b : BitVec 4) : b.toNat % 2 = 1 ↔ b.getLsbD 0 = true := by
  rw [← BitVec.testBit_toNat, Nat.testBit_eq_decide_div_mod_eq, decide_eq_true_eq]
  omega

/-- The exact result of FFMA. -/
def fusedResult (s : State) (x : Group) (sl : Slot) (c : FCtx) (L k : Nat) : FVal :=
  let p := FVal.mul (scaledA s x sl c L k) (scaledB s x sl c L k)
  let z := floatSrc s x sl c c.fo sl.c L k
  FVal.add c.mode (if sl.sub.getLsbD 1 then p.negate else p) (if sl.sub.getLsbD 0 then z.negate else z)

theorem givesVec_ffma (h : Issues s (fFlt 3 (tyFF sl) true [fmtW sl] 3 sl) sl x)
    (hacc : floatAccepts sl x (fun a b o => okIn a && okIn b && okOut o) fun c => [c.fa, c.fb, c.fo]) :
    givesVec (.ffma sl) s x sl (.fixed 5)
      (floatPlaced s x sl (binaryCtx sl x) (fusedResult s x sl (binaryCtx sl x))) := by
  have hsub : subN sl ≤ 3 := of_decide_eq_true (decodeTrap_none h.decodes).1
  refine givesVec_floatPlaced h rfl ?_
  unfold ffmaBody
  simp only [floatRun_accepted hacc, decode_elem_atIssue h.group, typedCtx_cover, subN, two_le_toNat_iff hsub,
    toNat_mod_two_iff]
  rfl

/-! ### FMIN and FMAX (R51, R156) -/

/-- A tapered format has no infinities (R48). -/
theorem isInf_decode_tap {f : Fmt} (hf : f.isTap = true) (p : Nat) (k : Int) : ((decode f p).scale k).isInf = false := by
  match f with
  | .tap n =>
    simp only [decode, decTap]
    split_ifs <;> rfl

/-- The order of two tapered values (R51). -/
theorem some_tapCmp (a b : FVal) : some (a.tapCmp b)
    = if a.isNan then some (if b.isNan then .eq else .lt) else if b.isNan then some .gt else a.cmp b := by
  cases a <;> cases b <;> rfl

/-- Of two tapered values the greater, or the lesser, is picked by their order. -/
theorem tapPick_eq (greater : Bool) {a b : FVal} (ha : a.isInf = false) (hb : b.isInf = false) :
    tapPick greater a b = if a.tapCmp b = (if greater then .lt else .gt) then b else a := by
  match a, b with
  | .nan, .nan => cases greater <;> rfl
  | .nan, .fin .. => cases greater <;> rfl
  | .fin .., .nan => cases greater <;> rfl
  | .fin s m e, .fin t n f =>
    have hcmp : FVal.tapCmp (.fin s m e) (.fin t n f) = compare (valueOf (.fin s m e)) (valueOf (.fin t n f)) :=
      congrArg (·.getD .eq) (cmp_fin ..)
    cases greater <;> simp [tapPick, FVal.isNan, hcmp, compare_gt_iff_gt, compare_lt_iff_lt]

/-- The operand that FMIN, or FMAX, picks. -/
def picked (sl : Slot) (c : FCtx) (greater : Bool) (a b : FVal) : FVal :=
  if c.fa.isTap && c.fb.isTap then tapPick greater a b
  else if greater then FVal.maxNum (decide (sl.sub = 1)) a b else FVal.minNum (decide (sl.sub = 1)) a b

/-- Two tapered operands are numbers or NaR. -/
theorem isInf_scaled_of_bothTap {c : FCtx} (htap : c.bothTap = true) (L k : Nat) :
    (scaledA s x sl c L k).isInf = false ∧ (scaledB s x sl c L k).isInf = false := by
  obtain ⟨ha, hb⟩ := Bool.and_eq_true_iff.1 htap
  exact ⟨isInf_decode_tap ha _ _, isInf_decode_tap hb _ _⟩

theorem picked_eq {c : FCtx} (greater : Bool) {a b : FVal} (hinf : c.bothTap = true → a.isInf = false ∧ b.isInf = false) :
    picked sl c greater a b =
      if c.bothTap then if a.tapCmp b = (if greater then .lt else .gt) then b else a
      else if greater then FVal.maxNum (decide (sl.sub = 1)) a b else FVal.minNum (decide (sl.sub = 1)) a b := by
  unfold picked
  by_cases htap : c.bothTap = true
  · obtain ⟨ha, hb⟩ := hinf htap
    rw [if_pos htap, ← tapPick_eq greater ha hb]
    exact if_pos htap
  · rw [if_neg htap]
    exact if_neg htap

/-! ### FNEG (R157) -/

/-- The pattern of a zero does not depend on its exponent. -/
theorem round_fin_zero (c : FCtx) (neg : Bool) (e e' : Int) : c.round (.fin neg 0 e) = c.round (.fin neg 0 e') := by
  unfold FCtx.round encode
  cases c.fo <;> rfl

theorem round_flipSign (c : FCtx) (tap : Bool) (a : FVal) :
    c.round (a.flipSign tap) = c.round (if tap = true ∧ a.isZero = true then FVal.zero else a.negate) := by
  match a with
  | .nan => cases tap <;> rfl
  | .inf _ => cases tap <;> rfl
  | .fin neg 0 e =>
    cases tap
    · rfl
    · exact round_fin_zero c false e 0
  | .fin neg (m + 1) e => cases tap <;> rfl

/-! ### FSCALE (R161) -/

theorem scale_zero (v : FVal) : v.scale 0 = v := by
  cases v <;> simp [FVal.scale]

theorem fmtD_width_pos (n : Nat) : 0 < (fmtD n).width := by
  unfold fmtD Fmt.ofCode
  split <;> decide

theorem spanning_one_wmax (c : FCtx) {f : Fmt} (hf : 0 < f.width) : (c.spanning [f]).wmax = f.width := max_eq_right hf

/-- A form of one format alone has one part, which is its whole lane. -/
theorem givesVec_fscale (h : Issues s (fFlt 0 (tyF sl) true [fmtW sl] 2 sl) sl x) :
    let t := tyFmt sl
    let c := (typedCtx sl x t t t).spanning [t]
    givesVec (.fscale sl) s x sl (.fixed 5) (floatPlaced s x sl c fun L k =>
      (floatSrc s x sl c t sl.a L k).scale (elem t.width k (lane (s.vsrc x sl t.width sl.b) L)).toInt) := by
  intro t c
  have hwmax : c.wmax = t.width := spanning_one_wmax _ (fmtD_width_pos _)
  refine givesVec_of_elems h rfl (w := t.width) rfl fun V hV =>
    floatPlaced_of_patterns (fun _ _ => rfl) (patternsPlaced_whole hwmax fun L j hL hj => (hV L j hL hj).trans ?_)
  simp only [FCtx.round, floatSrc, hwmax, lt_irrefl, if_false, Nat.add_zero, vsrc_atIssue h.group, sub_eq_elem, signed_toNat]
  exact congrArg (fun v => BitVec.ofNat t.width (encode t (modRnd sl) x.satf v)) (scale_zero _).symm

end Sys2Proof.Machine

open Sys2Proof Sys2Proof.Machine in
/-- Settles O10: each instruction is one exact operation on scaled operands, placed and rounded once. -/
theorem floatArithmeticResults : Obligations.FLOAT_ARITHMETIC_RESULTS := by
  intro s x sl t typed three two c3 c2 A B ok3 ok2 gives
  refine ⟨fun h hacc => ⟨?add, ?sub, ?mul⟩, fun h hacc => ?ffma, fun h hacc => ?minmax, fun h hacc => ⟨?abs, ?neg⟩,
    fun h hacc => ?frnd, fun h => ?fscale⟩
  case add => exact givesVec_flt2 (i := .fadd sl) h hacc rfl
  case sub => exact givesVec_flt2 (i := .fsub sl) h hacc rfl
  case mul => exact givesVec_flt2 (i := .fmul sl) h hacc rfl
  case ffma => exact givesVec_ffma h hacc
  case minmax =>
    have hpick (greater : Bool) (L k : Nat) :=
      picked_eq (sl := sl) greater fun htap => isInf_scaled_of_bothTap (s := s) (x := x) (sl := sl) (c := c3) htap L k
    refine ⟨givesVec_imp (givesVec_flt2 h hacc rfl) fun V hV => ?min, givesVec_imp (givesVec_flt2 h hacc rfl) fun V hV => ?max⟩
    case min => exact floatPlaced_of_patterns (fun L k => congrArg c3.round (hpick false L k).symm) hV
    case max => exact floatPlaced_of_patterns (fun L k => congrArg c3.round (hpick true L k).symm) hV
  case abs => exact givesVec_flt1 (i := .fabs sl) h hacc rfl
  case neg =>
    exact givesVec_imp (givesVec_flt1 h hacc rfl) fun V hV => floatPlaced_of_patterns (fun L k => round_flipSign ..) hV
  case frnd => exact givesVec_flt1 (i := .frnd sl) h hacc rfl
  case fscale => exact givesVec_fscale h
end

section
/-! SUPPORT and O11. Conversions, dot products and quire sums (R155, R163, R164). -/

namespace Sys2Proof.Machine

variable {s : State} {f : Form} {sl : Slot} {x : Group} {i : Instr} {lat : Machine.Lat} {ok : Nat → Nat → Nat → Bool}

/-! ### Conversions (R163, R164) -/

theorem givesVec_cvt (h : Issues s f sl x) (hacc : floatAccepts sl x ok fun c => [c.fa, c.fo]) {typed : FCtx}
    {body : State → Group → Effect} (he : exec i s = runSlot f lat sl body s)
    (hb : ∀ t, body t (x.cover sl)
      = floatRun sl t (x.cover sl) typed ok (fun c => [c.fa, c.fo]) (cvtRun sl t (x.cover sl))) :
    let c := floatCtx sl x typed fun c => [c.fa, c.fo]
    givesVec i s x sl lat (floatPlaced s x sl c (scaledA s x sl c)) := by
  refine givesVec_floatPlaced h he ?_
  rw [hb, floatRun_accepted hacc, cvtRun]
  simp only [decode_elem_atIssue h.group]
  rfl

/-! ### Sources without a part (R155) -/

/-- An element of a source that a form without a part reads. -/
def wholeSrc (s : State) (x : Group) (sl : Slot) (f : Fmt) (code : BitVec 10) (L k : Nat) : FVal :=
  decode f (elem f.width k (lane (s.vsrc x sl f.width code) L)).toNat

theorem decode_sub_atIssue (hg : s.grp? s.cur = some x) (f : Fmt) (code : BitVec 10) (L k : Nat) :
    decode f (sub f.width k (lane ((s.atIssue sl).vsrc (x.cover sl) sl f.width code) L)) = wholeSrc s x sl f code L k := by
  rw [sub_eq_elem, vsrc_atIssue hg, wholeSrc]

/-! ### FDOT2 (R155) -/

/-- The context of FDOT2. -/
def dotCtx (sl : Slot) (x : Group) : FCtx :=
  if tyIsFmt sl then fmtCtx sl x else typedCtx sl x (tyFmt sl) (tyFmt sl) (dotOut (tyFmt sl))

/-- The operands are of one width and the output of twice that. -/
def FCtx.DotWidths (c : FCtx) : Prop := c.fa.width = c.fb.width ∧ c.fo.width = 2 * c.fa.width

/-- The formats of a typed FDOT2. -/
theorem dotOut_width (h : tyIn [8, 9, 11, 12, 15] sl = true) (hf : ¬ tyIsFmt sl = true) :
    (dotOut (tyFmt sl)).width = 2 * (tyFmt sl).width := by
  obtain ⟨hmod, hcode⟩ := Bool.and_eq_true_iff.1 h
  have hne : tyCode sl ≠ 15 := fun hcode => hf (Bool.and_eq_true_iff.2 ⟨hmod, decide_eq_true hcode⟩)
  unfold tyFmt
  simp only [List.contains_eq_mem, List.mem_cons, List.not_mem_nil, or_false, decide_eq_true_eq, hne] at hcode
  rcases hcode with hcode | hcode | hcode | hcode <;> rw [hcode] <;> rfl

/-- An element of an FDOT2's result, before it is rounded. -/
def dotResult (s : State) (x : Group) (sl : Slot) (c : FCtx) (L j : Nat) : FVal :=
  let prod (k : Nat) := FVal.mul ((wholeSrc s x sl c.fa sl.a L k).scale c.sa) ((wholeSrc s x sl c.fb sl.b L k).scale c.sb)
  FVal.add c.mode (FVal.add c.mode (prod (2 * j)) (prod (2 * j + 1))) (wholeSrc s x sl c.fo sl.c L j)

theorem dotRun_atIssue (hg : s.grp? s.cur = some x) {c : FCtx} (hw : c.DotWidths) :
    dotRun sl (s.atIssue sl) (x.cover sl) c = vecLanes sl (s.atIssue sl) (x.cover sl) fun L =>
      ofSubs (2 * c.fa.width) fun j => c.round (dotResult s x sl c L j) := by
  obtain ⟨hab, ho⟩ := hw
  have hB := decode_sub_atIssue (sl := sl) hg c.fb sl.b
  have hC := decode_sub_atIssue (sl := sl) hg c.fo sl.c
  rw [← hab] at hB
  rw [ho] at hC
  simp only [dotRun, decode_sub_atIssue hg, hB, hC]
  rfl

theorem fdot2Body_atIssue (h : Issues s (fFdot2 sl) sl x)
    (hacc : tyIsFmt sl = true → okIn (bits x.fmt 3 0) ∧ okIn (bits x.fmt 7 4) ∧ okOut (bits x.fmt 11 8)
      ∧ (dotCtx sl x).DotWidths) :
    fdot2Body sl (s.atIssue sl) (x.cover sl) = vecLanes sl (s.atIssue sl) (x.cover sl) fun L =>
      ofSubs (2 * (dotCtx sl x).fa.width) fun j => (dotCtx sl x).round (dotResult s x sl (dotCtx sl x) L j) := by
  unfold fdot2Body
  by_cases hf : tyIsFmt sl = true
  · have hctx : dotCtx sl x = fmtCtx sl x := if_pos hf
    rw [hctx] at hacc ⊢
    rw [if_pos hf]
    exact (if_pos (hacc hf)).trans (dotRun_atIssue h.group (hacc hf).2.2.2)
  · have hctx : dotCtx sl x = typedCtx sl x (tyFmt sl) (tyFmt sl) (dotOut (tyFmt sl)) := if_neg hf
    rw [if_neg hf, hctx]
    exact dotRun_atIssue h.group ⟨rfl, dotOut_width (ty_assigned h) hf⟩

/-! ### FQSUM (R155) -/

/-- The exact sum of an FQSUM's lane. -/
def quireSum (s : State) (x : Group) (sl : Slot) (c : FCtx) (L : Nat) : FVal :=
  FVal.add 0 ((List.range (64 / c.fa.width)).foldl (fun r k => FVal.add 0 r ((wholeSrc s x sl c.fa sl.a L k).scale c.sa))
    FVal.zero) (wholeSrc s x sl c.fo sl.c L 0)

theorem fqsumBody_atIssue (hg : s.grp? s.cur = some x)
    (hacc : floatAccepts sl x (fun a _ o => okIn a && (fmtD a).isTap && okOut o) fun c => [c.fa, c.fo]) :
    fqsumBody sl (s.atIssue sl) (x.cover sl) = vecLanes sl (s.atIssue sl) (x.cover sl) fun L =>
      BitVec.ofNat 64 ((unaryCtx sl x).round (quireSum s x sl (unaryCtx sl x) L)) := by
  unfold fqsumBody
  rw [floatRun_accepted hacc]
  simp only [fqsumRun, decode_sub_atIssue hg, typedCtx_cover]
  rfl

end Sys2Proof.Machine

open Sys2Proof Sys2Proof.Machine in
/-- Settles O11: conversions place one rounded value an element; the sums are of whole lanes. -/
theorem floatSumsAndConversions : Obligations.FLOAT_SUMS_AND_CONVERSIONS := by
  intro s x sl t two gives int cc ci cq cd w E prod
  refine ⟨fun h hacc => ?cvt, fun h hacc => ?cvti, fun h hacc => ?dot, fun h hacc => ?sum⟩
  case cvt => exact givesVec_cvt (i := .fcvt sl) h hacc rfl fun _ => rfl
  case cvti => exact givesVec_cvt (i := .fcvti sl) h hacc rfl fun _ => rfl
  case dot => exact givesVec_of_elems h rfl (fdot2Body_atIssue h hacc) fun V hV => hV
  case sum => exact givesVec_of_vecLanes h rfl (fqsumBody_atIssue h.group hacc) fun L hL => lane_vecOf _ _ hL
end

section
/-! SUPPORT and O12. Float compares and class tests, as masks of elements and in predicates (R158, R159). -/

namespace Sys2Proof.Machine

variable {s : State} {f : Form} {sl : Slot} {x : Group} {i : Instr} {lat : Machine.Lat} {body : State → Group → Effect}

/-! ### The two destinations (R142, R158) -/

/-- An element test whose results are a mask of `w`-bit elements, or a bit for each lane, by the destination. -/
def TestResult (i : Instr) (s : State) (x : Group) (sl : Slot) (lat : Machine.Lat) (w : Nat) (any : Bool)
    (p : Nat → Nat → Prop) : Prop :=
  (kindOf sl.d ≠ some .vp → givesVec i s x sl lat fun V => ∀ L k, L < 32 → k < 64 / w →
    (p L k → elem w k (lane V L) = BitVec.allOnes w) ∧ (¬ p L k → elem w k (lane V L) = 0))
  ∧ (kindOf sl.d = some .vp → ∃ m : Mask, exec i s = writes s sl lat [.scalar (.vp (sl.d.toNat - 0x278)) (m.setWidth 64)]
    ∧ ∀ L, L < 32 →
      (¬ (x.sel sl).getLsbD L → m.getLsbD L = (x.vp (sl.d.toNat - 0x278)).getLsbD L)
      ∧ ((x.sel sl).getLsbD L → (m.getLsbD L = true ↔
        if any then ∃ k, k < 64 / w ∧ p L k else ∀ k, k < 64 / w → p L k)))

theorem testResult_of_cmpOut (h : Issues s f sl x) (he : exec i s = runSlot f lat sl body s) {w : Nat} {any : Bool}
    {t : Nat → Nat → Bool} {p : Nat → Nat → Prop} (ht : ∀ L k, t L k = true ↔ p L k)
    (hb : body (s.atIssue sl) (x.cover sl) = cmpOut sl (s.atIssue sl) (x.cover sl) w any t) :
    TestResult i s x sl lat w any p := by
  refine ⟨fun hd => ?mask, fun hd => ?pred⟩
  case mask =>
    have hvec : cmpOut sl (s.atIssue sl) (x.cover sl) w any t
        = vecLanes sl (s.atIssue sl) (x.cover sl) fun L => maskLane w (t L) := by
      unfold cmpOut
      split
      · exact absurd (kindD_eq_vp_iff.1 ‹_›) hd
      · rfl
    refine givesVec_of_elems h he (hb.trans hvec) fun V hV L k hL hk => ?_
    rw [← ht, hV L k hL hk]
    exact ⟨fun hp => by rw [if_pos hp, ofNat_of_eq_toNat BitVec.toNat_allOnes.symm], fun hp => by rw [if_neg hp]; rfl⟩
  case pred =>
    have hout : cmpOut sl (s.atIssue sl) (x.cover sl) w any t = .done (s.atIssue sl)
        [.scalar (.vp (sl.d.toNat - 0x278)) ((cmpMask sl x fun L => predLane (64 / w) any (t L)).setWidth 64)] := by
      simp only [cmpOut, predOut, scaOut, dstRef, kindD_eq_vp_iff.2 hd]
      rfl
    refine ⟨_, he.trans (runSlot_writes h (hb.trans hout)), fun L hL => ?_⟩
    rw [cmpMask, getLsbD_maskOf _ hL]
    refine ⟨fun hsel => if_neg hsel, fun hsel => ?_⟩
    rw [if_pos hsel, predLane_iff]
    simp only [ht]

/-! ### FCMP (R158) -/

/-- The relation that SUB names, of the order of two values. -/
def relationHolds (sub : Nat) (o : Option Ordering) : Prop :=
  match sub with
  | 0 => o = some .eq | 1 => o ≠ some .eq | 2 => o = some .lt | 3 => o = some .lt ∨ o = some .eq
  | 4 => o = some .gt | 5 => o = some .gt ∨ o = some .eq | 6 => o = none | _ => o ≠ none

theorem fcond_iff {n : Nat} (hn : n ≤ 7) (o : Option Ordering) : fcond n o = true ↔ relationHolds n o := by
  interval_cases n <;> rcases o with _ | _ | _ | _ <;> simp [fcond, relationHolds]

/-- The context of FCMP. -/
def compareCtx (sl : Slot) (x : Group) : FCtx :=
  floatCtx sl x (typedCtx sl x (tyFmt sl) (tyFmt sl) (tyFmt sl)) fun c => [c.fa, c.fb]

/-- The order of two operands: of tapered formats NaR is the least, else a NaN has none (R51, R158). -/
def orderOf (c : FCtx) (a b : FVal) : Option Ordering := if c.bothTap then some (a.tapCmp b) else a.cmp b

theorem orderOf_eq (c : FCtx) (a b : FVal) : orderOf c a b = if c.fa.isTap && c.fb.isTap then
      (if a.isNan then some (if b.isNan then .eq else .lt) else if b.isNan then some .gt else a.cmp b)
    else a.cmp b := by
  rw [orderOf, some_tapCmp]
  rfl

theorem fcmpBody_atIssue (hg : s.grp? s.cur = some x)
    (hacc : floatAccepts sl x (fun a b _ => okIn a && okIn b) fun c => [c.fa, c.fb]) :
    let c := compareCtx sl x
    fcmpBody sl (s.atIssue sl) (x.cover sl) = cmpOut sl (s.atIssue sl) (x.cover sl) c.wmax (sl.md.getLsbD 2)
      fun L k => fcond (subN sl) (orderOf c (scaledA s x sl c L k) (scaledB s x sl c L k)) := by
  unfold fcmpBody
  simp only [floatRun_accepted hacc, decode_elem_atIssue hg, typedCtx_cover]
  rfl

/-! ### FCLASS (R159) -/

/-- The context of FCLASS. -/
def classCtx (sl : Slot) (x : Group) : FCtx :=
  floatCtx sl x (typedCtx sl x (tyFmt sl) (tyFmt sl) (tyFmt sl)) fun c => [c.fa]

/-- The classes of an element of A, before scaling. -/
def classAt (s : State) (x : Group) (sl : Slot) (c : FCtx) (L k : Nat) : Nat :=
  classOf c.fa (elem c.fa.width (k + if c.fa.width < c.wmax then 64 / c.wmax * c.part else 0)
    (lane (s.vsrc x sl c.fa.width sl.a) L)).toNat

theorem fclassBody_atIssue (hg : s.grp? s.cur = some x) (hacc : floatAccepts sl x (fun a _ _ => okIn a) fun c => [c.fa]) :
    let c := classCtx sl x
    fclassBody sl (s.atIssue sl) (x.cover sl) = cmpOut sl (s.atIssue sl) (x.cover sl) c.wmax (sl.md.getLsbD 2)
      fun L k => decide (classAt s x sl c L k &&& immN sl ≠ 0) := by
  unfold fclassBody
  simp only [floatRun_accepted hacc, FCtx.elem, sub_eq_elem, vsrc_atIssue hg, typedCtx_cover]
  rfl

end Sys2Proof.Machine

open Sys2Proof Sys2Proof.Machine in
/-- Settles O12: both are tests of elements, of the order of two operands and of the classes of one. -/
theorem floatCompareResults : Obligations.FLOAT_COMPARE_RESULTS := by
  intro s x sl t typed pair one c2 c1 u v order relation result
  refine ⟨fun h hacc => ?cmp, fun h hacc => ?classes⟩
  case cmp =>
    have hsub : subN sl ≤ 7 := of_decide_eq_true (decodeTrap_none h.decodes).1
    refine testResult_of_cmpOut (i := .fcmp sl) h rfl (fun L k => ?_) (fcmpBody_atIssue h.group hacc)
    exact (fcond_iff hsub _).trans (iff_of_eq (congrArg (relationHolds (subN sl)) (orderOf_eq ..)))
  case classes =>
    exact testResult_of_cmpOut (i := .fclass sl) h rfl (fun L k => decide_eq_true_iff) (fclassBody_atIssue h.group hacc)
end

section
/-! SUPPORT and O13. The special functions: the first precision that decides a rounding, and the place of each result (R53,
R151, R162; assumption log 6). -/

namespace Sys2Proof.Machine

variable {s : State} {sl : Slot} {x : Group} {i : Instr} {c : FCtx} {ok : Nat → Nat → Nat → Bool}

/-! ### The rounding (R53) -/

/-- A result rounds alike at both ends of its enclosure. -/
def FCtx.Decides (c : FCtx) (r : SRes) : Prop :=
  (r.ends c.fo c.mode c.satf c.so).1 = (r.ends c.fo c.mode c.satf c.so).2

theorem roundFrom_decided {r : Nat → SRes} {P : Nat} (hP : c.Decides (r P)) (N : Nat) :
    roundFrom c.fo c.mode c.satf c.so r N P = ((r P).ends c.fo c.mode c.satf c.so).1 := by
  cases N with
  | zero => rfl
  | succ N => exact if_pos hP

theorem roundFrom_undecided {r : Nat → SRes} {P : Nat} (hP : ¬ c.Decides (r P)) (N : Nat) :
    roundFrom c.fo c.mode c.satf c.so r (N + 1) P = roundFrom c.fo c.mode c.satf c.so r N (2 * P) := if_neg hP

/-- The first doubling that decides the rounding gives the result. -/
theorem roundFrom_first {r : Nat → SRes} {n N P : Nat} (hn : n ≤ N) (hdec : c.Decides (r (P * 2 ^ n)))
    (hund : ∀ j, j < n → ¬ c.Decides (r (P * 2 ^ j))) :
    roundFrom c.fo c.mode c.satf c.so r N P = ((r (P * 2 ^ n)).ends c.fo c.mode c.satf c.so).1 := by
  induction n generalizing N P with
  | zero =>
    rw [pow_zero, Nat.mul_one] at hdec ⊢
    exact roundFrom_decided hdec N
  | succ n ih =>
    obtain ⟨N, rfl⟩ : ∃ M, N = M + 1 := ⟨N - 1, by omega⟩
    have hdouble (j : Nat) : P * 2 ^ (j + 1) = 2 * P * 2 ^ j := by ring
    have hP : ¬ c.Decides (r P) := by simpa using hund 0 n.succ_pos
    rw [roundFrom_undecided hP, hdouble]
    refine ih (Nat.le_of_succ_le_succ hn) (hdouble n ▸ hdec) fun j hj => ?_
    rw [← hdouble]
    exact hund (j + 1) (Nat.succ_lt_succ hj)

/-! ### One element (R162) -/

/-- The pattern of a special function of `v`. -/
def specialPattern (c : FCtx) (opc : Nat) (v : FVal) : Nat :=
  if c.fo.isTap ∧ v.isInf then encode c.fo c.mode c.satf .nan else roundRes c.fo c.mode c.satf c.so (specialFn opc v)

/-- A tapered output takes an infinity as NaR (Table 2.6). -/
theorem specialPattern_inf {v : FVal} (opc : Nat) (hv : c.fo.isTap ∧ v.isInf) :
    specialPattern c opc v = 2 ^ (c.fo.width - 1) := by
  obtain ⟨n, hn⟩ : ∃ n, c.fo = .tap n := by
    match c.fo, hv.1 with
    | .tap n, _ => exact ⟨n, rfl⟩
  rw [specialPattern, if_pos hv, hn]
  rfl

theorem specialPattern_exact {opc : Nat} {v r : FVal} (hv : ¬ (c.fo.isTap ∧ v.isInf)) (hr : specialFn opc v specP = .exact r) :
    specialPattern c opc v = c.round r := by
  rw [specialPattern, if_neg hv, roundRes, roundFrom_decided (by rw [hr]; rfl), hr]
  rfl

theorem decides_between {neg : Bool} {lo hi : Nat} {e : Int} :
    c.Decides (.between neg lo hi e) ↔ c.round (justAbove neg lo e) = c.round (justBelow neg hi e) := Iff.rfl

theorem specialPattern_between {opc n lo hi : Nat} {v : FVal} {neg : Bool} {e : Int} (hv : ¬ (c.fo.isTap ∧ v.isInf))
    (hn : n < 64) (hr : specialFn opc v (specP * 2 ^ n) = .between neg lo hi e)
    (hdec : c.round (justAbove neg lo e) = c.round (justBelow neg hi e))
    (hund : ∀ j, j < n → ∃ neg lo hi e, specialFn opc v (specP * 2 ^ j) = .between neg lo hi e
      ∧ c.round (justAbove neg lo e) ≠ c.round (justBelow neg hi e)) :
    specialPattern c opc v = c.round (justAbove neg lo e) := by
  have hfirst := roundFrom_first (c := c) (r := specialFn opc v) hn.le (by rwa [hr, decides_between]) fun j hj => by
    obtain ⟨neg, lo, hi, e, hbetween, hne⟩ := hund j hj
    rwa [hbetween, decides_between]
  rw [specialPattern, if_neg hv, roundRes, hfirst, hr]
  rfl

/-! ### Its place (R151) -/

theorem fmtD_width_le (n : Nat) : (fmtD n).width ≤ 64 := by
  unfold fmtD Fmt.ofCode
  split <;> decide

/-- Of two widths `a` and `o`, as many parts of `o`-bit elements as the wider holds of the narrower fit in a lane. -/
theorem part_fits {a o p k : Nat} (ho : 0 < o) (hp : o < max a o → p < max a o / min a o) (hk : k < 64 / max a o) :
    k + (if o < max a o then 64 / max a o * p else 0) < 64 / o := by
  split_ifs with hlt
  · have hmax : max a o = a := by omega
    have hp := hp hlt
    rw [hmax, show min a o = o by omega] at hp
    rw [hmax] at hk ⊢
    have hfit : 64 / a * (a / o) ≤ 64 / o := by
      rw [Nat.le_div_iff_mul_le ho, Nat.mul_assoc]
      exact (Nat.mul_le_mul_left _ (Nat.div_mul_le_self a o)).trans (Nat.div_mul_le_self 64 a)
    calc k + 64 / a * p < 64 / a * (p + 1) := by rw [Nat.mul_succ]; omega
      _ ≤ 64 / a * (a / o) := Nat.mul_le_mul_left _ hp
      _ ≤ 64 / o := hfit
  · exact hk.trans_le (Nat.div_le_div_left (le_max_right a o) ho)

theorem unaryCtx_widths (sl : Slot) (x : Group) :
    (unaryCtx sl x).wmax = max (unaryCtx sl x).fa.width (unaryCtx sl x).fo.width
      ∧ (unaryCtx sl x).wmin = min (unaryCtx sl x).fa.width (unaryCtx sl x).fo.width := by
  have hspan (c : FCtx) {n : Nat} (ha : c.fa = fmtD n) :
      (c.spanning [c.fa, c.fo]).wmax = max c.fa.width c.fo.width
        ∧ (c.spanning [c.fa, c.fo]).wmin = min c.fa.width c.fo.width :=
    ⟨congrArg (max · _) (max_eq_right (ha ▸ fmtD_width_pos n)), congrArg (min · _) (min_eq_right (ha ▸ fmtD_width_le n))⟩
  unfold unaryCtx floatCtx
  split
  · exact hspan (fmtCtx sl x) rfl
  · exact hspan (typedCtx sl x (tyFmt sl) (tyFmt sl) (tyFmt sl)) rfl

/-- The part of a `.fmt` form is checked, and a typed form has one format alone. -/
theorem part_lt_of_narrow (hacc : floatAccepts sl x ok fun c => [c.fa, c.fo])
    (hlt : (unaryCtx sl x).fo.width < (unaryCtx sl x).wmax) :
    (unaryCtx sl x).part < (unaryCtx sl x).wmax / (unaryCtx sl x).wmin := by
  have hwmax := (unaryCtx_widths sl x).1
  by_cases hf : tyIsFmt sl = true
  · have hpart := (hacc hf).2
    rw [unaryCtx, floatCtx, if_pos hf]
    exact hpart
  · have hsame : (unaryCtx sl x).fa = (unaryCtx sl x).fo := by
      rw [unaryCtx, floatCtx, if_neg hf]
      rfl
    rw [hwmax, hsame, max_self] at hlt
    exact absurd hlt (lt_irrefl _)

theorem unaryCtx_fo_width_pos (sl : Slot) (x : Group) : 0 < (unaryCtx sl x).fo.width := by
  unfold unaryCtx floatCtx
  split <;> exact fmtD_width_pos _

theorem base_fits (hacc : floatAccepts sl x ok fun c => [c.fa, c.fo]) {k : Nat} (hk : k < 64 / (unaryCtx sl x).wmax) :
    k + (unaryCtx sl x).base < 64 / (unaryCtx sl x).fo.width := by
  obtain ⟨hmax, hmin⟩ := unaryCtx_widths sl x
  have hpart := part_lt_of_narrow hacc
  rw [hmax, hmin] at hpart
  rw [hmax] at hk
  rw [FCtx.base, hmax]
  exact part_fits (unaryCtx_fo_width_pos sl x) hpart hk

/-- Each result stands in its element. -/
theorem elem_of_patternsPlaced {g : Nat → Nat → Nat} {V : Vec} (hV : PatternsPlaced s x sl c g V) {L k : Nat} (hL : L < 32)
    (hk : k < 64 / c.wmax) (hfit : k + c.base < 64 / c.fo.width) :
    elem c.fo.width (k + c.base) (lane V L) = BitVec.ofNat c.fo.width (g L k) := by
  rw [hV L _ hL hfit, if_pos ⟨Nat.le_add_left _ _, by omega⟩, Nat.add_sub_cancel]

theorem givesVec_special (h : Issues s (fSpecial sl) sl x)
    (hacc : floatAccepts sl x (fun a _ o => okIn a && okOut o) fun c => [c.fa, c.fo]) {opc : Nat}
    (he : exec i s = runSlot (fSpecial sl) .var sl (specialBody opc sl) s) :
    let c := unaryCtx sl x
    givesVec i s x sl .var fun V => ∀ L k, L < 32 → k < 64 / c.wmax →
      elem c.fo.width (k + c.base) (lane V L) = BitVec.ofNat c.fo.width (specialPattern c opc (scaledA s x sl c L k)) := by
  intro c
  have hplace : specialBody opc sl (s.atIssue sl) (x.cover sl)
      = c.place sl (s.atIssue sl) (x.cover sl) c.fo.width fun L k => specialPattern c opc (scaledA s x sl c L k) := by
    unfold specialBody
    simp only [floatRun_accepted hacc, decode_elem_atIssue h.group, typedCtx_cover]
    rfl
  exact givesVec_imp (givesVec_place h he hplace) fun V hV L k hL hk =>
    elem_of_patternsPlaced hV hL hk (base_fits hacc hk)

end Sys2Proof.Machine

open Sys2Proof Sys2Proof.Machine in
/-- Settles O13: each element is the pattern of its special function, which the first deciding precision gives. -/
theorem specialFunctionResults : Obligations.SPECIAL_FUNCTION_RESULTS := by
  intro s x sl t two c gives h hacc
  have each {i : Instr} {opc : Nat} (he : exec i s = runSlot (fSpecial sl) .var sl (specialBody opc sl) s) : gives i opc := by
    refine givesVec_imp (givesVec_special h hacc he) fun V hV L k hL hk => ?_
    intro w v p
    have hp : p = BitVec.ofNat w (specialPattern c opc v) := hV L k hL hk
    rw [hp]
    split_ifs with hinf
    · rw [specialPattern_inf opc hinf]
    · refine ⟨fun r hr => congrArg _ (specialPattern_exact hinf hr), fun n neg lo hi e hn hr hdec hund => congrArg _ ?_⟩
      exact specialPattern_between hinf hn hr hdec hund
  exact ⟨each rfl, each rfl, each rfl, each rfl, each rfl, each rfl, each rfl, each rfl, each rfl⟩
end

section
/-! SUPPORT and O19. What lanes give each other: elements of a source across all lanes, votes and matches (R166 to R168, R171,
R172). -/

namespace Sys2Proof.Machine

variable {s : State} {sl : Slot} {x : Group}

/-! ### Elements across all lanes (R166) -/

theorem fmtW_le (sl : Slot) : fmtW sl ≤ 64 := by
  unfold fmtW
  split
  case h_1 w sgn h =>
    have hw : tyW sl = w := by rw [tyW, h]; rfl
    exact hw ▸ (tyW_bounds sl).2
  case h_2 =>
    unfold Fmt.ofCode
    split <;> decide

theorem lane_liveVec (x : Group) (v : Vec) {L : Nat} (hL : L < 32) :
    lane (liveVec x v) L = if x.live.getLsbD L then lane v L else 0 := lane_vecOf _ _ hL

theorem elem_zero (w k : Nat) : elem w k 0 = 0 := by simp [elem]

/-- An element that the lanes have is what its lane gives the others. -/
theorem elemAt_liveVec (x : Group) {w e : Nat} (v : Vec) (he : e < 32 * (64 / w)) :
    elemAt w (liveVec x v) e = (flatElem x w v e).toNat := by
  have hlane : e / (64 / w) < 32 := Nat.div_lt_of_lt_mul (by rwa [Nat.mul_comm])
  rw [elemAt, sub_eq_elem, lane_liveVec x v hlane, flatElem]
  split
  · rfl
  · rw [elem_zero]

/-- The source element `i` as a lane takes it from the others, or its own where there is none (R167). -/
def takenElem (x : Group) (w : Nat) (v : Vec) (own : BitVec w) (i : Option Nat) : BitVec w :=
  match i with
  | some e => if e < 32 * (64 / w) then flatElem x w v e else own
  | none => own

/-! ### SHFL (R167) -/

/-- The amount of a shuffle at element `k` of lane `L`: an index of its own, or one for all. -/
def shflAmount (s : State) (x : Group) (sl : Slot) (L k : Nat) : Nat :=
  if sl.sub = 0 then (elem (fmtW sl) k (lane (s.vsrc x sl (fmtW sl) sl.b) L)).toNat else (s.ssrc x sl sl.b).toNat

/-- Each element of a shuffle is the one that its amount names. -/
theorem givesVec_shfl (h : Issues s (fShfl sl) sl x) :
    let w := fmtW sl
    let a := s.vsrc x sl w sl.a
    givesVec (.shfl sl) s x sl (if sl.sub = 0 then .var else .fixed 6) fun V => ∀ L k, L < 32 → k < 64 / w →
      elem w k (lane V L) = takenElem x w a (elem w k (lane a L))
        (shflFrom (subN sl) (64 / w * L + k) (shflAmount s x sl L k)) := by
  intro w a
  refine givesVec_of_elems h rfl (body := shflBody sl) (w := w) rfl fun V hV L k hL hk => ?_
  have hamount : (if sl.sub = 0 then sub w k (lane (if sl.sub = 0 then s.vsrc x sl w sl.b else Vec.zero) L)
      else if sl.sub = 0 then 0 else (s.ssrc x sl sl.b).toNat) = shflAmount s x sl L k := by
    unfold shflAmount
    split_ifs
    · exact sub_eq_elem ..
    · rfl
  rw [hV L k hL hk]
  simp only [vsrc_atIssue h.group, ssrc_atIssue h.group]
  rw [hamount]
  cases shflFrom (subN sl) (64 / w * L + k) (shflAmount s x sl L k) with
  | none => exact (congrArg _ (sub_eq_elem ..)).trans (by rw [BitVec.ofNat_toNat, BitVec.setWidth_eq]; rfl)
  | some i =>
    simp only [takenElem]
    split
    case isTrue hi => exact ofNat_of_eq_toNat (elemAt_liveVec x a hi)
    case isFalse => exact ofNat_of_eq_toNat (sub_eq_elem ..)

/-! ### MATCH and VGET (R171, R172) -/

theorem getLsbD_matchMask (x : Group) (v : Vec) {L M : Nat} (hL : L < 32) (hM : M < 64) :
    ((maskOf fun M => decide (lane (liveVec x v) M = lane (liveVec x v) L)).setWidth 64).getLsbD M = true ↔
      M < 32 ∧ (if x.live.getLsbD M then lane v M else 0) = (if x.live.getLsbD L then lane v L else 0) := by
  rw [BitVec.getLsbD_setWidth]
  by_cases h32 : M < 32
  · rw [getLsbD_maskOf _ h32, lane_liveVec x v h32, lane_liveVec x v hL]
    simp [hM, h32]
  · simp [h32, BitVec.getLsbD_of_ge _ M (Nat.le_of_not_lt h32)]

theorem runSlot_vget (h : Issues s (fVget sl) sl x) :
    let w := fmtW sl
    let e := (s.ssrc x sl sl.b).toNat
    exec (.vget sl) s = writes s sl (.fixed 6) (scaOut x.trapMode sl.d 0
      (widen sl (if e < 32 * (64 / w) then flatElem x w (s.vsrc x sl w sl.a) e else (0 : BitVec w)))) := by
  intro w e
  have helem : (if e < 32 * (64 / w) then elemAt w (liveVec x (s.vsrc x sl w sl.a)) e else 0)
      = (if e < 32 * (64 / w) then flatElem x w (s.vsrc x sl w sl.a) e else (0 : BitVec w)).toNat := by
    split
    case isTrue he => exact elemAt_liveVec x _ he
    case isFalse => rfl
  refine runSlot_writes h (body := vgetBody sl) ?_
  rw [← ext64_eq_widen sl _ (fmtW_le sl), ← helem]
  simp only [vgetBody, vsrc_atIssue h.group, ssrc_atIssue h.group]
  rfl

/-! ### VSET (R172) -/

theorem getLsbD_vsetMask (m : Mask) (e n : Nat) {L : Nat} (hL : L < 32) :
    (m &&& maskOf fun L => decide (e < 32 * n) && decide (L = e / n)).getLsbD L = true ↔
      m.getLsbD L = true ∧ e < 32 * n ∧ L = e / n := by
  rw [BitVec.getLsbD_and, getLsbD_maskOf _ hL]
  simp

theorem vsetBody_atIssue (hg : s.grp? s.cur = some x) : vsetBody sl (s.atIssue sl) (x.cover sl) =
    let w := fmtW sl
    let n := 64 / w
    let e := (s.ssrc x sl sl.b).toNat
    .done (s.atIssue sl) (vecOut x.trapMode sl.d 0
      (x.sel sl &&& maskOf fun L => decide (e < 32 * n) && decide (L = e / n))
      (vecOf fun L => ofSubs w fun k =>
        if k = e % n then (s.ssrc x sl sl.a).toNat % 2 ^ w else sub w k (lane (s.oldDst x sl.d) L))) := by
  simp only [vsetBody, ssrc_atIssue hg, oldDst_atIssue hg]
  rfl

end Sys2Proof.Machine

open Sys2Proof Sys2Proof.Machine in
/-- Settles O19: shuffles take elements of live lanes or keep their own; VOTE, MATCH, VGET and VSET by their lanes. -/
theorem crossLaneResults : Obligations.CROSS_LANE_RESULTS := by
  intro s x sl w n a amt ballot scalar
  refine ⟨fun h => ?shfl, fun h => ?vote, fun h => ?matchLanes, fun h => runSlot_vget h, fun h => ?vset⟩
  case shfl =>
    refine givesVec_imp (givesVec_shfl h) fun V hV L k hL hk => ?_
    intro e own
    have he : e < 32 * n := by
      calc e < n * L + n := Nat.add_lt_add_left hk _
        _ = n * (L + 1) := by ring
        _ ≤ 32 * n := by rw [Nat.mul_comm]; exact Nat.mul_le_mul_right n hL
    have hown : sl.sub.toNat = 0 → shflAmount s x sl L k = (elem w k (lane (s.vsrc x sl w sl.b) L)).toNat :=
      fun h0 => if_pos (BitVec.eq_of_toNat_eq h0)
    have hall : sl.sub.toNat ≠ 0 → shflAmount s x sl L k = amt := fun h0 => if_neg fun h => h0 (congrArg BitVec.toNat h)
    rw [hV L k hL hk, subN]
    generalize sl.sub.toNat = m at hown hall ⊢
    match m with
    | 0 =>
      rw [hown rfl]
      rfl
    | 1 =>
      rw [hall one_ne_zero]
      rfl
    | 2 =>
      rw [hall two_ne_zero]
      show takenElem x w a own (if amt ≤ e then some (e - amt) else none) = if amt ≤ e then flatElem x w a (e - amt) else own
      split
      · exact if_pos (Nat.lt_of_le_of_lt (Nat.sub_le e amt) he)
      · rfl
    | j + 3 =>
      rw [hall (Nat.succ_ne_zero _)]
      rfl
  case vote =>
    refine runSlot_writes h (body := voteBody sl) ?_
    have hbal : (x.cover sl).predOf sl.a &&& (x.cover sl).sel sl = ballot := rfl
    have hall : (0xFFFFFFFF : Mask) = BitVec.allOnes 32 := rfl
    simp only [voteBody, hbal, hall, decide_eq_true_eq, Bool.or_eq_true, subN]
    rfl
  case matchLanes =>
    refine givesVec_of_vecLanes h rfl (body := matchBody sl) rfl fun L M hL hM => ?_
    rw [lane_vecOf _ _ hL, vsrc_atIssue h.group]
    exact getLsbD_matchMask x _ hL hM
  case vset =>
    refine ⟨_, _, runSlot_writes h (vsetBody_atIssue h.group), fun L hL => getLsbD_vsetMask _ _ _ hL, fun L k hL hk => ?_⟩
    rw [lane_vecOf _ _ hL, elem_ofSubs _ _ _ hk]
    split
    · exact BitVec.eq_of_toNat_eq (by rw [BitVec.toNat_ofNat, BitVec.toNat_setWidth, Nat.mod_mod])
    · exact ofNat_of_eq_toNat (sub_eq_elem ..)
end

section
/-! SUPPORT and O20. Integer reductions: a lane without a contribution changes nothing, and each operation on the contributions
that remain (R169, R170, Table 7.2). -/

namespace Sys2Proof.Machine

variable {s : State} {sl : Slot} {x : Group}

/-! ### Contributions of an integer type -/

/-- A type of I has its width and signedness. -/
theorem intTy_of_tyI (h : tyI sl = true) : intTy sl = some (tyW sl, tyS sl) := by
  obtain ⟨⟨w, sgn⟩, hp⟩ := Option.isSome_iff_exists.1 h
  rw [tyW, tyS, hp]
  rfl

theorem redFmt_of_tyI (h : tyI sl = true) : redFmt sl = .int (tyW sl) (tyS sl) := by rw [redFmt, intTy_of_tyI h]

theorem fmtW_of_tyI (h : tyI sl = true) : fmtW sl = tyW sl := by rw [fmtW, intTy_of_tyI h]

/-- Operands that leave what has been combined as it is may be left out. -/
theorem foldl_map_ite {α β ι : Type} {op : α → β → α} {inv : α → Prop} {e : β} (he : ∀ a, inv a → op a e = a)
    (hop : ∀ a b, inv a → inv (op a b)) (p : ι → Bool) (f : ι → β) (l : List ι) {a : α} (ha : inv a) :
    (l.map fun i => if p i then f i else e).foldl op a = ((l.filter p).map f).foldl op a := by
  induction l generalizing a with
  | nil => rfl
  | cons i l ih =>
    rw [List.map_cons, List.foldl_cons, List.filter_cons]
    split
    · exact ih (hop _ _ ha)
    · rw [he a ha]
      exact ih ha

/-! ### The range of a type -/

theorem rd_range {w : Nat} (sgn : Bool) (b : BitVec w) :
    tyMin w sgn ≤ rd w sgn b.toNat ∧ rd w sgn b.toNat ≤ tyMax w sgn := by
  rw [rd_toNat]
  cases sgn
  case false =>
    have hlt : ((b.toNat : Nat) : Int) < 2 ^ w := by exact_mod_cast b.isLt
    simp only [tyMin, tyMax, Bool.false_eq_true, if_false]
    omega
  case true =>
    have hlo := b.le_toInt
    have hhi := b.toInt_lt
    simp only [tyMin, tyMax, if_true]
    omega

theorem rd_wrap {w : Nat} {sgn : Bool} (hw : 0 < w) {v : Int} (hlo : tyMin w sgn ≤ v) (hhi : v ≤ tyMax w sgn) :
    rd w sgn (wrap w v) = v := by
  rw [wrap_eq_toNat, rd_toNat]
  obtain ⟨n, rfl⟩ : ∃ n, w = n + 1 := ⟨w - 1, by omega⟩
  have hpow : (2 : Int) ^ (n + 1) = 2 * 2 ^ n := pow_succ' 2 n
  cases sgn
  case false =>
    simp only [tyMin, tyMax, Bool.false_eq_true, if_false] at hlo hhi ⊢
    rw [BitVec.toNat_ofInt, Nat.cast_pow, Nat.cast_ofNat, Int.emod_eq_of_lt hlo (by omega), Int.toNat_of_nonneg hlo]
  case true =>
    simp only [tyMin, tyMax, if_true, Nat.add_sub_cancel] at hlo hhi ⊢
    rw [BitVec.toInt_ofInt]
    exact Int.bmod_eq_of_le (by push_cast; omega) (by push_cast; omega)

theorem rd_zero (w : Nat) (sgn : Bool) : rd w sgn 0 = 0 := by
  cases sgn <;> simp [rd, signed]

theorem tyMin_le_tyMax (w : Nat) (sgn : Bool) : tyMin w sgn ≤ tyMax w sgn :=
  (rd_range sgn (0 : BitVec w)).1.trans (rd_range sgn 0).2

/-! ### Lanes that do not contribute (R169, Table 7.2) -/

/-- The identity of an operation changes nothing. -/
theorem redCombine_contributions {w : Nat} (hw : 0 < w) (sgn : Bool) (op mode : Nat) (sa satf tree : Bool) (p : Nat → Bool)
    (f : Nat → BitVec w) (l : List Nat) :
    redCombine op (.int w sgn) mode sa satf tree (l.map fun L => if p L then (f L).toNat else redIdent op (.int w sgn) mode)
      = redCombine op (.int w sgn) mode sa satf tree ((l.filter p).map fun L => (f L).toNat) := by
  have hrange := tyMin_le_tyMax w sgn
  have hmax : rd w sgn (wrap w (tyMax w sgn)) = tyMax w sgn := rd_wrap hw hrange le_rfl
  have hmin : rd w sgn (wrap w (tyMin w sgn)) = tyMin w sgn := rd_wrap hw le_rfl hrange
  match op with
  | 0 =>
    refine congrArg (wrapOrSat sa w sgn) ?_
    rw [List.sum_eq_foldl, List.sum_eq_foldl, List.foldl_map, List.foldl_map (f := rd w sgn)]
    exact foldl_map_ite (op := fun a b => a + rd w sgn b) (inv := fun _ => True) (fun a _ => by rw [redIdent, rd_zero, add_zero])
      (fun _ _ _ => trivial) _ _ _ trivial
  | 1 =>
    refine congrArg (wrap w) ?_
    rw [List.foldl_map, List.foldl_map (f := rd w sgn)]
    exact foldl_map_ite (op := fun a b => min a (rd w sgn b)) (inv := (· ≤ tyMax w sgn))
      (fun a ha => by rw [redIdent, hmax, min_eq_left ha]) (fun a _ ha => (min_le_left ..).trans ha) _ _ _ le_rfl
  | 2 =>
    refine congrArg (wrap w) ?_
    rw [List.foldl_map, List.foldl_map (f := rd w sgn)]
    exact foldl_map_ite (op := fun a b => max a (rd w sgn b)) (inv := (tyMin w sgn ≤ ·))
      (fun a ha => by rw [redIdent, hmin, max_eq_left ha]) (fun a _ ha => ha.trans (le_max_left ..)) _ _ _ le_rfl
  | 3 =>
    exact foldl_map_ite (op := fun a b => a &&& b) (inv := (· < 2 ^ w)) (fun a ha => Nat.and_two_pow_sub_one_of_lt_two_pow ha)
      (fun _ _ ha => Nat.and_le_left.trans_lt ha) _ _ _ (Nat.sub_lt (by positivity) one_pos)
  | 4 =>
    exact foldl_map_ite (op := fun a b => a ||| b) (inv := fun _ => True) (fun a _ => Nat.or_zero a)
      (fun _ _ _ => trivial) _ _ _ trivial
  | n + 5 =>
    exact foldl_map_ite (op := fun a b => a ^^^ b) (inv := fun _ => True) (fun a _ => Nat.xor_zero a)
      (fun _ _ _ => trivial) _ _ _ trivial

/-! ### What each operation gives (Table 7.2) -/

/-- The extreme of some values and of a bound on them is one of the values. -/
theorem exists_eq_of_extreme {α β : Type} [PartialOrder α] {f : β → α} {c : List β} {t m : α} (hmem : m ∈ t :: c.map f)
    (hle : ∀ a ∈ t :: c.map f, m ≤ a) (htop : ∀ b, f b ≤ t) (hc : c ≠ []) : ∃ b ∈ c, f b = m := by
  rcases List.mem_cons.1 hmem with rfl | hm
  · obtain ⟨b, hb⟩ := List.exists_mem_of_ne_nil c hc
    exact ⟨b, hb, le_antisymm (htop b) (hle _ (List.mem_cons_of_mem _ (List.mem_map_of_mem hb)))⟩
  · exact List.mem_map.1 hm

/-- The patterns `c`, combined by an operation on integers. -/
def combined (sl : Slot) (op mode : Nat) (satf tree : Bool) {w : Nat} (c : List (BitVec w)) : BitVec w :=
  BitVec.ofNat w (redCombine op (.int w (tyS sl)) mode (sl.md.getLsbD 0) satf tree (c.map BitVec.toNat))

section Combined

variable {w mode : Nat} {satf tree : Bool} {c : List (BitVec w)}

theorem map_rd_toNat (sl : Slot) (c : List (BitVec w)) : (c.map BitVec.toNat).map (rd w (tyS sl)) = c.map (typedInt sl) := by
  rw [List.map_map]
  exact List.map_congr_left fun b _ => rd_eq_typedInt sl b

theorem typedInt_range (sl : Slot) (b : BitVec w) : tyMin w (tyS sl) ≤ typedInt sl b ∧ typedInt sl b ≤ tyMax w (tyS sl) :=
  rd_eq_typedInt sl b ▸ rd_range (tyS sl) b

theorem typedInt_ofInt (hw : 0 < w) {v : Int} (hlo : tyMin w (tyS sl) ≤ v) (hhi : v ≤ tyMax w (tyS sl)) :
    typedInt sl (BitVec.ofInt w v) = v := by rw [← rd_eq_typedInt, ← wrap_eq_toNat, rd_wrap hw hlo hhi]

theorem combined_sum : combined sl 0 mode satf tree c = fitted sl w (c.map (typedInt sl)).sum := by
  rw [← map_rd_toNat]
  exact ofNat_wrapOrSat ..

/-- A number that is one of some patterns' or a bound of the type keeps its value as a pattern. -/
theorem typedInt_ofInt_of_mem (hw : 0 < w) {t m : Int} (ht : tyMin w (tyS sl) ≤ t ∧ t ≤ tyMax w (tyS sl))
    (hm : m ∈ t :: c.map (typedInt sl)) : typedInt sl (BitVec.ofInt w m) = m := by
  rcases List.mem_cons.1 hm with rfl | hm
  · exact typedInt_ofInt hw ht.1 ht.2
  · obtain ⟨b, -, rfl⟩ := List.mem_map.1 hm
    rw [ofInt_typedInt]

theorem combined_min (hw : 0 < w) :
    (∀ b ∈ c, typedInt sl (combined sl 1 mode satf tree c) ≤ typedInt sl b)
    ∧ (c ≠ [] → combined sl 1 mode satf tree c ∈ c)
    ∧ (c = [] → combined sl 1 mode satf tree c = BitVec.ofInt w (tyMax w (tyS sl))) := by
  let m := (c.map (typedInt sl)).foldl min (tyMax w (tyS sl))
  have hr : combined sl 1 mode satf tree c = BitVec.ofInt w m := by
    unfold m
    rw [← map_rd_toNat]
    exact ofNat_wrap ..
  obtain ⟨hmem, hle⟩ := List.min?_eq_some_iff.1 (show (tyMax w (tyS sl) :: c.map (typedInt sl)).min? = some m from rfl)
  refine ⟨fun b hb => ?_, fun hc => ?_, fun hc => ?_⟩
  · rw [hr, typedInt_ofInt_of_mem hw ⟨tyMin_le_tyMax .., le_rfl⟩ hmem]
    exact hle _ (List.mem_cons_of_mem _ (List.mem_map_of_mem hb))
  · obtain ⟨b, hb, hbm⟩ := exists_eq_of_extreme hmem hle (fun b => (typedInt_range sl b).2) hc
    rwa [hr, ← hbm, ofInt_typedInt]
  · rw [hr]
    unfold m
    rw [hc]
    rfl

theorem combined_max (hw : 0 < w) :
    (∀ b ∈ c, typedInt sl b ≤ typedInt sl (combined sl 2 mode satf tree c))
    ∧ (c ≠ [] → combined sl 2 mode satf tree c ∈ c)
    ∧ (c = [] → combined sl 2 mode satf tree c = BitVec.ofInt w (tyMin w (tyS sl))) := by
  let m := (c.map (typedInt sl)).foldl max (tyMin w (tyS sl))
  have hr : combined sl 2 mode satf tree c = BitVec.ofInt w m := by
    unfold m
    rw [← map_rd_toNat]
    exact ofNat_wrap ..
  obtain ⟨hmem, hle⟩ := List.max?_eq_some_iff.1 (show (tyMin w (tyS sl) :: c.map (typedInt sl)).max? = some m from rfl)
  refine ⟨fun b hb => ?_, fun hc => ?_, fun hc => ?_⟩
  · rw [hr, typedInt_ofInt_of_mem hw ⟨le_rfl, tyMin_le_tyMax ..⟩ hmem]
    exact hle _ (List.mem_cons_of_mem _ (List.mem_map_of_mem hb))
  · obtain ⟨b, hb, hbm⟩ := exists_eq_of_extreme (α := Intᵒᵈ) hmem hle (fun b => (typedInt_range sl b).1) hc
    rwa [hr, ← hbm, ofInt_typedInt]
  · rw [hr]
    unfold m
    rw [hc]
    rfl

theorem getLsbD_combined_and {i : Nat} (hi : i < w) :
    (combined sl 3 mode satf tree c).getLsbD i = true ↔ ∀ b ∈ c, b.getLsbD i = true := by
  have hfold (l : List Nat) (a : Nat) : (l.foldl (fun a b => a &&& b) a).testBit i = (a.testBit i && l.all (·.testBit i)) := by
    induction l generalizing a with
    | nil => simp
    | cons b l ih => rw [List.foldl_cons, ih, Nat.testBit_and, List.all_cons, Bool.and_assoc]
  rw [combined, BitVec.getLsbD_ofNat]
  simp only [redCombine, hfold, Nat.testBit_two_pow_sub_one, hi, decide_true, Bool.true_and, List.all_map, List.all_eq_true]
  rfl

theorem getLsbD_combined_or {i : Nat} (hi : i < w) :
    (combined sl 4 mode satf tree c).getLsbD i = true ↔ ∃ b ∈ c, b.getLsbD i = true := by
  have hfold (l : List Nat) (a : Nat) : (l.foldl (fun a b => a ||| b) a).testBit i = (a.testBit i || l.any (·.testBit i)) := by
    induction l generalizing a with
    | nil => simp
    | cons b l ih => rw [List.foldl_cons, ih, Nat.testBit_or, List.any_cons, Bool.or_assoc]
  rw [combined, BitVec.getLsbD_ofNat]
  simp only [redCombine, hfold, Nat.zero_testBit, hi, decide_true, Bool.true_and, Bool.false_or, List.any_map, List.any_eq_true]
  rfl

theorem getLsbD_combined_xor {i op : Nat} (hop : 5 ≤ op) (hi : i < w) :
    (combined sl op mode satf tree c).getLsbD i = decide ((c.filter (·.getLsbD i)).length % 2 = 1) := by
  have hfold (l : List Nat) (a : Nat) : (l.foldl (fun a b => a ^^^ b) a).testBit i
      = (a.testBit i ^^ decide ((l.filter (·.testBit i)).length % 2 = 1)) := by
    induction l generalizing a with
    | nil => simp
    | cons b l ih =>
      rw [List.foldl_cons, ih, Nat.testBit_xor, List.filter_cons]
      cases hb : b.testBit i
      · simp
      · have hparity (n : Nat) : decide ((n + 1) % 2 = 1) = !decide (n % 2 = 1) := by
          rw [← decide_not, decide_eq_decide]
          omega
        simp [hparity]
  obtain ⟨n, rfl⟩ := Nat.exists_eq_add_of_le' hop
  rw [combined, BitVec.getLsbD_ofNat]
  simp only [redCombine, hfold, Nat.zero_testBit, hi, decide_true, Bool.true_and, Bool.false_xor, List.filter_map,
    List.length_map]
  rfl

end Combined

/-! ### Reductions and scans (R169, R170) -/

/-- What the lanes below `n` that contribute give, combined (R169). -/
def laneTotal (s : State) (x : Group) (sl : Slot) (tree : Bool) (k n : Nat) : BitVec (tyW sl) :=
  combined sl (sl.sub.toNat % 8) (modRnd sl) x.satf tree
    (((List.range n).filter (givesLane x sl)).map fun L => elem (tyW sl) k (lane (s.vsrc x sl (tyW sl) sl.a) L))

theorem ofNat_redCombine (ht : tyI sl = true) (tree : Bool) (k n : Nat) :
    BitVec.ofNat (tyW sl) (redCombine (subN sl % 8) (redFmt sl) (modRnd sl) (sl.md.getLsbD 0) x.satf tree
      ((List.range n).map (redPart sl x (s.vsrc x sl (tyW sl) sl.a) (subN sl % 8) (tyW sl) k))) = laneTotal s x sl tree k n := by
  unfold redPart
  rw [redFmt_of_tyI ht, redCombine_contributions (tyW_pos sl), laneTotal, combined, List.map_map]
  rfl

/-- With no contribution the result is the identity. -/
theorem redIdent_eq_redCombine_nil (w : Nat) (sgn : Bool) (op mode : Nat) (sa satf tree : Bool) :
    redIdent op (.int w sgn) mode = redCombine op (.int w sgn) mode sa satf tree [] := by
  match op with
  | 0 =>
    show 0 = wrapOrSat sa w sgn 0
    have hzero : clampI w sgn 0 = 0 := by
      have h1 : (0 : Int) < 2 ^ (w - 1) := by positivity
      have h2 : (0 : Int) < 2 ^ w := by positivity
      rw [clampI_eq]
      split <;> omega
    simp [wrapOrSat, sat, hzero, wrap]
  | 1 | 2 | 3 | 4 => rfl
  | n + 5 => rfl

/-- A scan's result from the lanes below `n`; from none it is the identity. -/
theorem ofNat_scan (ht : tyI sl = true) (k : Nat) {n : Nat} (hn : n ≤ 32) :
    BitVec.ofNat (tyW sl) (if n = 0 then redIdent (subN sl % 8) (redFmt sl) (modRnd sl)
      else redCombine (subN sl % 8) (redFmt sl) (modRnd sl) (sl.md.getLsbD 0) x.satf false
        ((redParts sl x (s.vsrc x sl (tyW sl) sl.a) (subN sl % 8) (tyW sl) k).take n)) = laneTotal s x sl false k n := by
  rw [← ofNat_redCombine ht, take_redParts _ _ _ _ hn]
  split
  case isTrue h0 =>
    rw [h0, redFmt_of_tyI ht]
    exact congrArg _ (redIdent_eq_redCombine_nil ..)
  case isFalse => rfl

end Sys2Proof.Machine

open Sys2Proof Sys2Proof.Machine in
/-- Settles O20: each element position is the lanes' contributions, combined. -/
theorem integerReductionResults : Obligations.INTEGER_REDUCTION_RESULTS := by
  intro s x sl w v total ht
  have htotal (tree : Bool) (k n : Nat) : total k n (laneTotal s x sl tree k n) := by
    have hw : 0 < w := tyW_pos sl
    have hone {ls : List Nat} {r : BitVec w} (hmem : ls.map (v k) ≠ [] → r ∈ ls.map (v k)) (hls : ls ≠ []) :
        ∃ L ∈ ls, r = v k L := by
      obtain ⟨L, hL, hr⟩ := List.mem_map.1 (hmem (List.map_eq_nil_iff.not.2 hls))
      exact ⟨L, hL, hr.symm⟩
    simp only [total, laneTotal]
    generalize sl.sub.toNat % 8 = op
    match op with
    | 0 => exact combined_sum.trans (by rw [List.map_map]; rfl)
    | 1 =>
      obtain ⟨hle, hmem, hnil⟩ := combined_min hw
      exact ⟨fun L hL => hle _ (List.mem_map_of_mem hL), hone hmem, fun hls => hnil (List.map_eq_nil_iff.2 hls)⟩
    | 2 =>
      obtain ⟨hle, hmem, hnil⟩ := combined_max hw
      exact ⟨fun L hL => hle _ (List.mem_map_of_mem hL), hone hmem, fun hls => hnil (List.map_eq_nil_iff.2 hls)⟩
    | 3 => exact fun i hi => (getLsbD_combined_and hi).trans List.forall_mem_map
    | 4 =>
      intro i hi
      rw [getLsbD_combined_or hi]
      simp only [List.mem_map, exists_exists_and_eq_and]
      exact Iff.rfl
    | op + 5 =>
      intro i hi
      rw [getLsbD_combined_xor (Nat.le_add_left 5 op) hi, List.filter_map, List.length_map]
      rfl
  have hw := fmtW_of_tyI ht
  refine ⟨fun h => ?lred, fun h => ?lscan⟩
  case lred =>
    refine ⟨_, runSlot_writes h (body := lredBody sl) rfl, fun k hk => ?_⟩
    rw [hw, elem_ofSubs _ _ _ hk, redParts_eq, vsrc_atIssue h.group, ← subN_of_fLred h]
    exact ofNat_redCombine ht true k 32 ▸ htotal true k 32
  case lscan =>
    refine givesVec_of_vecLanes h rfl (body := lscanBody sl) rfl fun L k hL hk => ?_
    rw [lane_vecOf _ _ hL, hw, elem_ofSubs _ _ _ hk, vsrc_atIssue h.group]
    exact ofNat_scan ht k (show (if sl.sub.getLsbD 3 then L else L + 1) ≤ 32 by split <;> omega) ▸ htotal false k _
end

section
/-! SUPPORT and O22. What a transfer makes of the state of its slot: it traps, waits, or meets its peer (R173 to R176, R187). -/

namespace Sys2Proof.Machine

variable {s : State} {f : Form} {sl psl : Slot} {x : Group} {lat : Machine.Lat} {send : Bool}

/-! ### The state at issue -/

theorem wgD_atIssue (hg : s.grp? s.cur = some x) (w : Nat) : (s.atIssue sl).wgD w = s.wgD w := by rw [atIssue_eq hg]; rfl

/-- The other groups are as before. -/
theorem grpD_atIssue_ne (hg : s.grp? s.cur = some x) {g : Nat} (hne : g ≠ s.cur) : (s.atIssue sl).grpD g = s.grpD g := by
  have hgrp : (s.atIssue sl).grp? g = s.grp? g := by
    rw [atIssue_eq hg]
    exact tget_tput_ne _ _ hne
  rw [State.grpD, hgrp, State.grpD]

theorem xslot_atIssue (hg : s.grp? s.cur = some x) : (s.atIssue sl).xslot (x.cover sl) sl = s.xslot x sl := by
  rw [State.xslot, wgD_atIssue hg]
  rfl

/-! ### Arrival (R174, R175) -/

/-- The state of a transfer slot in which a sender, or a receiver, waits (R174). -/
def sideOf (send : Bool) : Nat := if send then 1 else 2

theorem sideOf_ne_zero (send : Bool) : sideOf send ≠ 0 := by cases send <;> decide

theorem sideOf_not_ne (send : Bool) : sideOf (!send) ≠ sideOf send := by cases send <;> decide

theorem xferArrive_alone (h0 : (s.xslot x sl).st = 0) (hall : ∀ h ∈ (s.wgD x.wg).groups, h = s.cur) :
    xferArrive send sl s x = .trap s (xslotRaise (xferSlot sl) 3) none := by
  refine (if_pos h0).trans (if_pos ?_)
  simpa using hall

/-- The group waits in the slot that it has taken. -/
def State.waitsIn (s : State) (w j : Nat) (send : Bool) (sl : Slot) : State :=
  (s.updWg w fun y => { y with slots := tput y.slots j { st := sideOf send, grp := s.cur } }).updGrp s.cur
    fun y => { y with wait := .xfer j send sl }

theorem grp?_waitsIn (hg : s.grp? s.cur = some x) (w j : Nat) (send : Bool) (sl : Slot) :
    (s.waitsIn w j send sl).grp? s.cur = some { x with wait := .xfer j send sl } := by
  have hgrp (u : Workgroup → Workgroup) : (s.updWg w u).grp? s.cur = some x := by rw [State.grp?, groups_updWg]; exact hg
  rw [State.waitsIn, grp?_updGrp, if_pos rfl, hgrp]
  rfl

theorem slots_waitsIn {w : Nat} (hw : tget s.wgs w ≠ none) (j : Nat) (send : Bool) (sl : Slot) :
    tget ((s.waitsIn w j send sl).wgD w).slots j = some { st := sideOf send, grp := s.cur } := by
  obtain ⟨y, hy⟩ := Option.ne_none_iff_exists'.1 hw
  rw [State.waitsIn, State.wgD, updGrp_wgs, State.updWg, hy]
  simp only [tget_tput_self, Option.getD_some]

theorem xferArrive_idle (h0 : (s.xslot x sl).st = 0) (hother : ∃ h ∈ (s.wgD x.wg).groups, h ≠ s.cur) :
    xferArrive send sl s x = .wait (s.waitsIn x.wg (xferSlot sl) send sl) := by
  refine (if_pos h0).trans ((if_neg ?_).trans ?_)
  · simpa using hother
  · rfl

theorem xferArrive_sameSide (hst : (s.xslot x sl).st = sideOf send) :
    xferArrive send sl s x = .trap s (xslotRaise (xferSlot sl) 2) none :=
  (if_neg (hst ▸ sideOf_ne_zero send)).trans (if_pos hst)

/-- A peer that waits on the other side at `psl` is met. -/
theorem xferArrive_meets (hst : (s.xslot x sl).st = sideOf (!send)) {j : Nat} {b : Bool}
    (hwait : (s.grpD (s.xslot x sl).grp).wait = .xfer j b psl) :
    let g := (s.xslot x sl).grp
    let s1 := s.unwait g
    xferArrive send sl s x =
      if xferShape psl ≠ xferShape sl then xferMismatch sl g psl s
      else if send then .done (s1.finish g psl .blocking (s.xferWrites x (s.grpD g) sl psl) false) []
      else .done (s1.finish g psl .none [] false) (s.xferWrites (s.grpD g) x psl sl) := by
  have hpsl : waitSlot (s.grpD (s.xslot x sl).grp) sl = psl := by rw [waitSlot, hwait]
  refine (if_neg (hst ▸ sideOf_ne_zero _)).trans ((if_neg (hst ▸ sideOf_not_ne send)).trans ?_)
  dsimp only
  rw [hpsl]

/-! ### The slot that transfers -/

section Slots

variable (h : Issues s f sl x) (lat : Machine.Lat) (send : Bool)
include h

theorem runSlot_xferAlone (h0 : (s.xslot x sl).st = 0) (hall : ∀ h ∈ (s.wgD x.wg).groups, h = s.cur) :
    runSlot f lat sl (xferArrive send sl) s = traps s sl x (xslotRaise (xferSlot sl) 3) := by
  refine runSlot_traps h (xferArrive_alone ?_ ?_)
  · rwa [xslot_atIssue h.group]
  · rwa [wgD_atIssue h.group, cur_atIssue h.group]

theorem runSlot_xferSameSide (hst : (s.xslot x sl).st = sideOf send) :
    runSlot f lat sl (xferArrive send sl) s = traps s sl x (xslotRaise (xferSlot sl) 2) :=
  runSlot_traps h (xferArrive_sameSide (by rwa [xslot_atIssue h.group]))

theorem runSlot_xferIdle (h0 : (s.xslot x sl).st = 0) (hother : ∃ h ∈ (s.wgD x.wg).groups, h ≠ s.cur) :
    runSlot f lat sl (xferArrive send sl) s = .next ((s.atIssue sl).waitsIn x.wg (xferSlot sl) send sl) := by
  rw [runSlot_of h, xferArrive_idle]
  · rfl
  · rwa [xslot_atIssue h.group]
  · rwa [wgD_atIssue h.group, cur_atIssue h.group]

variable {j : Nat} {b : Bool} (hst : (s.xslot x sl).st = sideOf (!send)) (hne : (s.xslot x sl).grp ≠ s.cur)
  (hwait : (s.grpD (s.xslot x sl).grp).wait = .xfer j b psl)
include hst hne hwait

/-- At issue the peer is the one that waits before. -/
theorem xferArrive_atIssue :
    let g := (s.xslot x sl).grp
    let s1 := (s.atIssue sl).unwait g
    xferArrive send sl (s.atIssue sl) (x.cover sl) =
      if xferShape psl ≠ xferShape sl then xferMismatch sl g psl (s.atIssue sl)
      else if send then .done (s1.finish g psl .blocking ((s.atIssue sl).xferWrites (x.cover sl) (s.grpD g) sl psl) false) []
      else .done (s1.finish g psl .none [] false) ((s.atIssue sl).xferWrites (s.grpD g) (x.cover sl) psl sl) := by
  have hpeer := grpD_atIssue_ne (sl := sl) h.group hne
  have hslot := xslot_atIssue (sl := sl) h.group
  have hmeets := xferArrive_meets (s := s.atIssue sl) (x := x.cover sl) (send := send) (by rwa [hslot]) (by rwa [hslot, hpeer])
  rw [hslot] at hmeets
  dsimp only at hmeets
  rwa [hpeer] at hmeets

theorem runSlot_xferDiffers (hshape : xferShape psl ≠ xferShape sl) :
    let g := (s.xslot x sl).grp
    let u := ((s.atIssue sl).unwait g).raise g (xslotRaise (xferSlot psl) 1) (s.grpD g).pc
    runSlot f lat sl (xferArrive send sl) s
      = .next (if (u.grp? s.cur).isSome then u.raise s.cur (xslotRaise (xferSlot sl) 1) x.pc else u) := by
  rw [runSlot_of h, xferArrive_atIssue h send hst hne hwait, if_pos hshape]
  simp only [xferMismatch, grpD_atIssue_ne h.group hne, cur_atIssue h.group]
  split
  · simp only [State.apply, grpD_atIssue h.group]
    rfl
  · rfl

end Slots

end Sys2Proof.Machine

open Sys2Proof Sys2Proof.Machine in
/-- Settles O22: the state of the slot and its peer decide what a transfer does; XPROBE reads the state. -/
theorem transferSlotRendezvous : Obligations.TRANSFER_SLOT_RENDEZVOUS := by
  intro s x sl j e idle waiting meets xslot alone differs stops
  have hstops (send : Bool) {f : Form} {lat : Machine.Lat} {c : Instr} (he : exec c s = runSlot f lat sl (xferArrive send sl) s)
      (h : Issues s f sl x) : stops c (sideOf send) (sideOf (!send)) := by
    refine ⟨fun ha => ?alone, fun hst => ?same, fun psl hd => ?differs⟩
    case alone => exact he.trans (runSlot_xferAlone h lat send ha.1 ha.2)
    case same => exact he.trans (runSlot_xferSameSide h lat send hst)
    case differs =>
      obtain ⟨hst, hne, ⟨b, hwait⟩, hshape⟩ := hd
      exact he.trans (runSlot_xferDiffers h lat send hst hne hwait hshape)
  have hwaits (send : Bool) {f : Form} {lat : Machine.Lat}
      (he : exec (if send then .xsend sl else .xrecv sl) s = runSlot f lat sl (xferArrive send sl) s)
      (h : Issues s f sl x) (hi : idle) : waiting send := by
    have hcur := cur_atIssue (sl := sl) h.group
    have hwgs : (s.atIssue sl).wgs = s.wgs := by rw [atIssue_eq h.group]
    have hgrp := grp?_waitsIn (hcur.symm ▸ grp?_atIssue (sl := sl) h.group) x.wg j send sl
    have hslots := fun hw => slots_waitsIn (s := s.atIssue sl) (w := x.wg) (hwgs.symm ▸ hw) j send sl
    rw [hcur] at hgrp hslots
    exact ⟨_, _, he.trans (runSlot_xferIdle h lat send hi.1 hi.2), hgrp, rfl, rfl, rfl, rfl, hslots⟩
  refine ⟨fun h => ⟨hstops true rfl h, hwaits true rfl h, fun psl hm => ?send⟩,
    fun h => ⟨hstops false rfl h, hwaits false rfl h, fun psl hm => ?recv⟩, fun h => ?probe⟩
  case send =>
    obtain ⟨hst, b, hwait, -, hshape, hne⟩ := hm
    exact runSlot_done h ((xferArrive_atIssue h true hst hne hwait).trans (if_neg (not_not.2 hshape)))
  case recv =>
    obtain ⟨hst, b, hwait, -, hshape, hne⟩ := hm
    exact runSlot_done h ((xferArrive_atIssue h false hst hne hwait).trans (if_neg (not_not.2 hshape)))
  case probe =>
    refine runSlot_writes h (body := xprobeBody sl) ?_
    rw [xprobeBody, xslot_atIssue h.group]
    rfl
end

section
/-! SUPPORT and O23. The course of a bin instruction (R179): the descriptor that it reads, the maps that it checks, the trap of a
bin that is not initialised; and what BINQ, WAKE, BINDROP and BININIT then do (R180, R183, R184, R186). -/

namespace Sys2Proof.Machine

/-! ### The frame of the accesses to a bin -/

section Frame

variable {s0 s : State}

theorem Accessed.banks {t : State} (h : Accessed s t) : t.banks = s.banks := (congrArg State.banks h.rest :)

theorem accessed_account (v : View) (hub wr : Bool) (ps : List Piece) (h : Accessed s0 s) :
    Accessed s0 (s.account v hub wr ps) := by
  unfold State.account
  extract_lets rs s1 c
  have h1 : Accessed s0 s1 := accessed_ite h (accessed_debit _ _ _ _ h)
  exact accessed_ite h1 (accessed_charge _ _ h1)

theorem accessed_accountOne (v : View) (t : Target) (a : Word) (h : Accessed s0 s) : Accessed s0 (s.accountOne v t a) :=
  accessed_account v true false _ h

theorem accessed_binRel (v : View) (t : Target) (h : Accessed s0 s) : Accessed s0 (s.binRel v t) :=
  accessed_ite (accessed_release _ _ h) h

theorem accessed_resolveAll (v : View) (n al kind : Nat) (wr : Bool) (l : List (Nat × Word)) (h : Accessed s0 s) :
    Accessed s0 (s.resolveAll v n al kind wr l).1 := by
  induction l generalizing s with
  | nil => exact h
  | cons p l ih =>
    have hr := accessed_resolve v p.2 n al kind wr h
    have hq := ih hr
    rw [State.resolveAll]
    split
    · exact hr
    · dsimp only
      split <;> exact hq

theorem accessed_askAll (v : View) (n kind : Nat) (l : List Piece) (h : Accessed s0 s) : Accessed s0 (s.askAll v n kind l).1 := by
  induction l generalizing s with
  | nil => exact h
  | cons p l ih =>
    rw [State.askAll]
    exact accessed_ite1 (ih (accessed_readP v p.tgt n p.addr kind h)) (ih h)

theorem accessed_readNeed (v : View) (n kind : Nat) (l : List Piece) (h : Accessed s0 s) :
    Accessed s0 (s.readNeed v n kind l).1 := by
  induction l generalizing s with
  | nil => exact h
  | cons p l ih => exact ih (accessed_readP v p.tgt n p.addr kind h)

theorem accessed_readMap (v : View) (b : Bin) (a : Word) (wr : Bool) (h : Accessed s0 s) :
    Accessed s0 (s.readMap v b a wr).1 := by
  have hr := accessed_resolveAll v 4 4 5 wr (b.mapAddrs a) h
  unfold State.readMap
  split
  · exact h
  · dsimp only
    split
    · exact hr
    · exact accessed_readNeed _ _ _ _ (accessed_askAll _ _ _ _ hr)

theorem accessed_readMaps (v : View) (b : Bin) (wo ww : Bool) (h : Accessed s0 s) : Accessed s0 (s.readMaps v b wo ww).1 := by
  have hr := accessed_readMap v b b.occaddr wo h
  have hq := accessed_readMap v b b.wakeaddr ww hr
  unfold State.readMaps
  dsimp only
  split
  · exact hr
  · split <;> exact hq

/-- Taking a place leaves the current group and the trap banks. -/
theorem lockTake_frame (s : State) (key : Nat) : (s.lockTake key).cur = s.cur ∧ (s.lockTake key).banks = s.banks := by
  unfold State.lockTake
  split <;> exact ⟨rfl, rfl⟩

end Frame

/-! ### The descriptor and the maps (R179) -/

section Course

variable {s u u' : State} {x : Group} {v : View} {a : Word} {wr wo ww : Bool} {t : Target} {b : Bin} {o w : BitMap}

/-- A target that answers is no error response. -/
theorem readP_err (s : State) (v : View) (c : BitVec 8) (i n : Nat) (a : Word) (k : Nat) :
    s.readP v (.err c i) n a k = (s, .error (c, i)) := rfl

/-- A bin whose descriptor may be accessed, answers and is free is opened. -/
theorem binOpen_of (h : BinAt s (s.viewOf s.cur) a wr t b u) (f : State → View → Target → Bin → Effect) :
    binOpen a wr s x f = f u (s.viewOf s.cur) t b := by
  obtain ⟨n, hread, rfl⟩ := h.read
  unfold binOpen
  dsimp only
  rw [if_neg (by simp [h.room])]
  split
  case h_1 c i hr => simp [h.checked] at hr
  case h_2 c i hr =>
    obtain rfl : t = .err c i := by simpa [h.checked] using hr
    simp [readP_err] at hread
  case h_3 t' _ hr =>
    obtain rfl : t = t' := by simpa [h.checked] using hr
    rw [if_neg (by simp [h.alone]), syncAfter, if_pos h.quiet]
    unfold State.binRead
    dsimp only
    rw [hread]

/-- The reads of a descriptor leave the current group and the trap banks. -/
theorem binAt_frame (h : BinAt s v a wr t b u) : u.cur = s.cur ∧ u.banks = s.banks := by
  obtain ⟨n, hread, -⟩ := h.read
  have hr := accessed_resolve v a 64 64 5 wr (.refl s)
  obtain ⟨hcur, hbanks⟩ := lockTake_frame (s.resolve v a 64 64 5 wr).1 t.key
  have hu := accessed_readP v t 64 a 5 (accessed_accountOne v t a
    (accessed_binRel v t (.refl ((s.resolve v a 64 64 5 wr).1.lockTake t.key))))
  rw [hread] at hu
  exact ⟨hu.cur.trans (hcur.trans hr.cur), hu.banks.trans (hbanks.trans hr.banks)⟩

/-- The reads of maps leave the current group and the trap banks. -/
theorem mapsAt_frame (h : MapsAt u v b wo ww o w u') : u'.cur = u.cur ∧ u'.banks = u.banks := by
  obtain ⟨y, hread, rfl⟩ := h.read
  have hy := accessed_readMaps v b wo ww (.refl u)
  rw [hread] at hy
  have hu := accessed_account v true true (o.ps ++ w.ps) hy
  exact ⟨hu.cur, hu.banks⟩

theorem mapsRun_of (h : MapsAt u v b wo ww o w u') (f : State → BitMap → BitMap → Effect) :
    mapsRun u v b wo ww f = f u' o w := by
  obtain ⟨⟨y, hread, rfl⟩, hans⟩ := h
  unfold mapsRun
  dsimp only
  rw [hread]
  dsimp only
  rw [hans]

/-! ### A scalar source reads the same while banks stay (R80) -/

theorem ssrc_of_banks (h : u.banks = s.banks) (x : Group) (sl : Slot) (c : BitVec 10) : u.ssrc x sl c = s.ssrc x sl c := by
  have hbank (k : Nat) : u.bankD k = s.bankD k := by rw [State.bankD, State.bankD, h]
  have hread (r : RegRef) : u.readS x r = s.readS x r := by cases r <;> simp only [State.readS, hbank]
  simp only [State.ssrc, hread]

theorem vreg_of_banks (h : u.banks = s.banks) (x : Group) (c : BitVec 10) (i : Nat) : u.vreg x c i = s.vreg x c i := by
  have hbank (k : Nat) : u.bankD k = s.bankD k := by rw [State.bankD, State.bankD, h]
  have hread (r : RegRef) : u.readV x r = s.readV x r := by cases r <;> simp only [State.readV, hbank]
  simp only [State.vreg, hread]

end Course

/-! ### A slot that is a bin instruction -/

section Slots

variable {s u u' : State} {f : Form} {x : Group} {sl : Slot} {a : Word} {wr wo ww : Bool} {t : Target} {b : Bin}

/-- The state at issue, and the group's view there. -/
def State.binView (s : State) (sl : Slot) : View := (s.atIssue sl).viewOf s.cur

variable (h : Issues s f sl x) (hb : BinAt (s.atIssue sl) (s.binView sl) a wr t b u)
include h

/-- A slot whose effect ends in a trap raises it at itself. -/
theorem runSlot_trapsIn {lat : Machine.Lat} {body : State → Group → Effect} {r : Raise}
    (hbody : body (s.atIssue sl) (x.cover sl) = .trap u r none) :
    runSlot f lat sl body s = .next (u.raise s.cur r x.pc) := by
  rw [runSlot_of h, hbody]
  simp only [State.apply, Option.getD_none, grpD_atIssue h.group]
  rfl

include hb

theorem binOpen_atIssue (g : State → View → Target → Bin → Effect) :
    binOpen a wr (s.atIssue sl) (x.cover sl) g = g u (s.binView sl) t b := by
  have hcur := cur_atIssue (sl := sl) h.group
  rw [State.binView, ← hcur] at hb ⊢
  exact binOpen_of hb g

theorem binRun_atIssue (hinit : b.init = true) (g : State → View → Target → Bin → Effect) :
    binRun a wr (s.atIssue sl) (x.cover sl) g = g u (s.binView sl) t b :=
  (binOpen_atIssue h hb _).trans (if_neg (not_not.2 hinit))

theorem binRun_raw (hinit : b.init = false) (g : State → View → Target → Bin → Effect) :
    binRun a wr (s.atIssue sl) (x.cover sl) g = syncTrap u 0x10 a :=
  (binOpen_atIssue h hb _).trans (if_pos (by simp [hinit]))

theorem ssrc_bin (c : BitVec 10) : u.ssrc (x.cover sl) sl c = s.ssrc x sl c := by
  rw [ssrc_of_banks (binAt_frame hb).2, ssrc_atIssue h.group]

/-- An instruction on a bin that is not initialised traps (R179). -/
theorem runSlot_raw (hinit : b.init = false) {lat : Machine.Lat} {body : State → Group → Effect}
    {g : State → View → Target → Bin → Effect}
    (hbody : body (s.atIssue sl) (x.cover sl) = binRun a wr (s.atIssue sl) (x.cover sl) g) :
    runSlot f lat sl body s = .next (u.raise s.cur
      { cause := 19, addr := a, info := BitVec.ofNat 64 (0x10 * 2 ^ 32) } x.pc) :=
  runSlot_trapsIn h (hbody.trans (binRun_raw h hb hinit g))

/-- An instruction on an initialised bin completes as its own work does. -/
theorem runSlot_bin (hinit : b.init = true) {lat : Machine.Lat} {body : State → Group → Effect}
    {g : State → View → Target → Bin → Effect} {z : State} {ws : List RegWrite}
    (hbody : body (s.atIssue sl) (x.cover sl) = binRun a wr (s.atIssue sl) (x.cover sl) g)
    (hg : g u (s.binView sl) t b = .done z ws) : runSlot f lat sl body s = retired s z sl lat ws :=
  runSlot_done h (hbody.trans ((binRun_atIssue h hb hinit g).trans hg))

end Slots

section Works

variable {s u u' : State} {f : Form} {x : Group} {sl : Slot} {wr : Bool} {t : Target} {b : Bin} {o w : BitMap}

/-! ### BINQ (R183) -/

theorem binRing_none (h : b.ovfl = 0) (s : State) (v : View) (wr : Bool) : s.binRing v b wr = (s, .ok none) := if_pos h

/-! ### The rows that a base and a mask name (R183) -/

theorem rowsRun_misaligned (h : Issues s f sl x) {a : Word} (hb : BinAt (s.atIssue sl) (s.binView sl) a wr t b u)
    (hr : (s.ssrc x sl sl.b).toNat % 32 ≠ 0) (g : List Nat → Effect) :
    rowsRun sl a u (x.cover sl) g = syncTrap u 0x13 a := by
  unfold rowsRun
  simp only [ssrc_bin h hb]
  exact if_pos hr

/-- The rows `r0 + j` of the set bits `j` of C. -/
def namedRows (s : State) (x : Group) (sl : Slot) : List Nat :=
  ((List.range 32).filter fun j => (s.ssrc x sl sl.c).getLsbD j).map ((s.ssrc x sl sl.b).toNat + ·)

theorem maskRows_eq (c : Word) (r0 : Nat) :
    maskRows r0 (c.toNat % 2 ^ 32) = ((List.range 32).filter fun j => c.getLsbD j).map (r0 + ·) := by
  refine congrArg (List.map (r0 + ·)) (List.filter_congr fun j hj => ?_)
  rw [Nat.testBit_mod_two_pow, decide_eq_true (List.mem_range.1 hj), Bool.true_and]
  exact BitVec.testBit_toNat ..

theorem rowsRun_aligned (h : Issues s f sl x) {a : Word} (hb : BinAt (s.atIssue sl) (s.binView sl) a wr t b u)
    (hr : (s.ssrc x sl sl.b).toNat % 32 = 0) (g : List Nat → Effect) :
    rowsRun sl a u (x.cover sl) g = g (namedRows s x sl) := by
  unfold rowsRun
  simp only [ssrc_bin h hb, maskRows_eq]
  exact if_neg (not_not.2 hr)

/-! ### BININIT (R180) -/

theorem initRing_none (h : b.ovfl = 0) (s : State) (v : View) : s.initRing v b = (s, .ok none) := if_pos h

theorem valid_none_of_some {rc : Rcb} (h : b.valid (some rc) = true) : b.valid none = true := by
  unfold Bin.valid at h ⊢
  exact Bool.and_eq_true_iff.2 ⟨(Bool.and_eq_true_iff.1 h).1, rfl⟩

/-- BININIT of a valid descriptor, with the ring `rc` if it has one, empties the bin. -/
theorem runSlot_bininit (h : Issues s f sl x) (hb : BinAt (s.atIssue sl) (s.binView sl) (s.ssrc x sl sl.a) true t b u)
    {z z' : State} {rc : Option Rcb} (hring : u.initRing (s.binView sl) b = (z, .ok rc)) (hv : b.valid none = true)
    (hrc : b.valid rc = true) (hm : MapsAt z (s.binView sl) b true true o w z') (lat : Machine.Lat) :
    runSlot f lat sl (bininitBody sl) s = retired s ((z'.binSet (s.binView sl) t (s.ssrc x sl sl.a)
      { b with init := true, suspn := 0, resn := 0 } o w 0 0).binAcq (s.binView sl) t) sl lat [] := by
  refine runSlot_done h ?_
  simp only [bininitBody, ssrc_atIssue h.group]
  refine (binOpen_atIssue h hb _).trans ((if_neg (not_not.2 hv)).trans ?_)
  simp only [hring]
  exact (if_neg (not_not.2 hrc)).trans (mapsRun_of hm _)

end Works

end Sys2Proof.Machine

open Sys2Proof Sys2Proof.Machine in
/-- Settles O23: each instruction is the common course of its bin and then its own work on the maps, or its trap. -/
theorem binQueueResults : Obligations.BIN_QUEUE_RESULTS := by
  intro s x sl t b u u' o w i v a r0 rows done setIn set stop without
  refine ⟨fun hb h => ⟨fun hraw => ?qRaw, fun hinit => ⟨fun hsub => ?qOcc, fun hsub => ?qWoken, fun hsub ho => ?qNone,
      fun hsub z rt rc hring => ?qRing⟩⟩,
    fun hb => ⟨fun hraw => ⟨fun h => ?wakeRowsRaw, fun h => ?dropRowsRaw, fun h => ?wakeLanesRaw, fun h => ?wakeAllRaw,
        fun h => ?dropSetRaw⟩,
      fun hinit hr => ⟨fun h => ?wakeBase, fun h => ?dropBase⟩,
      fun hinit hm => ⟨fun h hr => ?wakeRows, fun h => ?wakeLanes, fun h => ?wakeAll⟩,
      fun hinit hm => ⟨fun h hr => ?dropRows, fun h hsub => ?dropWoken, fun h hsub ho => ?dropAll,
        fun h hsub z rt rc hring => ?dropRing⟩,
      fun h => ⟨fun hv => ?invalid, fun z rc z' hring hv hm => ?initRing, fun hv ho hm => ?init⟩⟩⟩
  case qRaw => exact runSlot_raw h hb hraw (body := binqBody sl) (by simp only [binqBody, ssrc_atIssue h.group]; rfl)
  case qOcc =>
    refine runSlot_bin h hb hinit (body := binqBody sl) (by simp only [binqBody, ssrc_atIssue h.group]; rfl) ?_
    simp only [subN, hsub]
    rfl
  case qWoken =>
    refine runSlot_bin h hb hinit (body := binqBody sl) (by simp only [binqBody, ssrc_atIssue h.group]; rfl) ?_
    simp only [subN, hsub]
    rfl
  case qNone =>
    refine runSlot_bin h hb hinit (body := binqBody sl) (by simp only [binqBody, ssrc_atIssue h.group]; rfl) ?_
    simp only [subN, hsub, binRing_none ho]
    rfl
  case qRing =>
    refine runSlot_bin h hb hinit (body := binqBody sl) (by simp only [binqBody, ssrc_atIssue h.group]; rfl) ?_
    have hring' : u.binRing (s.binView sl) b false = _ := hring
    simp only [subN, hsub, hring']
    rfl
  case wakeRowsRaw =>
    exact runSlot_raw h hb hraw (body := wakeRowsBody sl) (by simp only [wakeRowsBody, ssrc_atIssue h.group]; rfl)
  case dropRowsRaw =>
    exact runSlot_raw h hb hraw (body := bindropRowsBody sl) (by simp only [bindropRowsBody, ssrc_atIssue h.group]; rfl)
  case wakeLanesRaw =>
    exact runSlot_raw h hb hraw (body := wakeLanesBody sl) (by simp only [wakeLanesBody, ssrc_atIssue h.group]; rfl)
  case wakeAllRaw => exact runSlot_raw h hb hraw (body := wakeAllBody sl) (by simp only [wakeAllBody, ssrc_atIssue h.group]; rfl)
  case dropSetRaw =>
    exact runSlot_raw h hb hraw (body := bindropSetBody sl) (by simp only [bindropSetBody, ssrc_atIssue h.group]; rfl)
  case wakeBase =>
    refine runSlot_trapsIn h (body := wakeRowsBody sl) ?_
    simp only [wakeRowsBody, ssrc_atIssue h.group]
    exact (binRun_atIssue h hb hinit _).trans (rowsRun_misaligned h hb hr _)
  case dropBase =>
    refine runSlot_trapsIn h (body := bindropRowsBody sl) ?_
    simp only [bindropRowsBody, ssrc_atIssue h.group]
    exact (binRun_atIssue h hb hinit _).trans (rowsRun_misaligned h hb hr _)
  case wakeRows =>
    refine runSlot_bin h hb hinit (body := wakeRowsBody sl) (by simp only [wakeRowsBody, ssrc_atIssue h.group]; rfl) ?_
    exact (rowsRun_aligned h hb hr _).trans (mapsRun_of hm _)
  case wakeLanes =>
    refine runSlot_bin h hb hinit (body := wakeLanesBody sl)
      (by simp only [wakeLanesBody, ssrc_atIssue h.group, vsrc_atIssue h.group]; rfl) ?_
    exact mapsRun_of hm _
  case wakeAll =>
    refine runSlot_bin h hb hinit (body := wakeAllBody sl) (by simp only [wakeAllBody, ssrc_atIssue h.group]; rfl) ?_
    exact mapsRun_of hm _
  case dropRows =>
    refine runSlot_bin h hb hinit (body := bindropRowsBody sl) (by simp only [bindropRowsBody, ssrc_atIssue h.group]; rfl) ?_
    exact (rowsRun_aligned h hb hr _).trans (mapsRun_of hm _)
  case dropWoken =>
    refine runSlot_bin h hb hinit (body := bindropSetBody sl) (by simp only [bindropSetBody, ssrc_atIssue h.group]; rfl) ?_
    exact (mapsRun_of hm _).trans (if_pos hsub)
  case dropAll =>
    refine runSlot_bin h hb hinit (body := bindropSetBody sl) (by simp only [bindropSetBody, ssrc_atIssue h.group]; rfl) ?_
    refine (mapsRun_of hm _).trans ((if_neg (by simp [hsub])).trans ?_)
    simp only [binRing_none ho]
    rfl
  case dropRing =>
    refine runSlot_bin h hb hinit (body := bindropSetBody sl) (by simp only [bindropSetBody, ssrc_atIssue h.group]; rfl) ?_
    refine (mapsRun_of hm _).trans ((if_neg (by simp [hsub])).trans ?_)
    have hring' : u'.binRing (s.binView sl) b true = _ := hring
    simp only [hring']
    rfl
  case invalid =>
    refine runSlot_trapsIn h (body := bininitBody sl) ?_
    simp only [bininitBody, ssrc_atIssue h.group]
    exact (binOpen_atIssue h hb _).trans (if_pos (by simp [hv]))
  case initRing => exact runSlot_bininit h hb hring (valid_none_of_some hv) hv hm .blocking
  case init => exact runSlot_bininit h hb (initRing_none ho ..) hv hv hm .blocking
end

section
/-! SUPPORT and O24. SUSP and RESUME: the frame registers, the plan of a RESUME, and what both do once checked (R181, R182). -/

namespace Sys2Proof.Machine

variable {s u u' : State} {f : Form} {x : Group} {sl : Slot} {wr wo ww : Bool} {t : Target} {b : Bin} {o w : BitMap} {v : View}

/-! ### The frame registers (R181, R182) -/

theorem frameRun_of (h : frameFree u x sl b.w) (e : Effect) : frameRun sl u (x.cover sl) b.w e = e := by
  obtain ⟨hbad, huses, hpend⟩ := h
  have hbad : frameBad (x.cover sl) sl.b b.w = false := hbad
  have huses : checkUses (x.cover sl) (u.ctxD (u.wgD (x.cover sl).wg).fn (u.wgD (x.cover sl).wg).ctx).checkMode sl
      (frameUses (x.cover sl) sl b.w) = none := huses
  have hpend : (x.cover sl).pending (frameUses (x.cover sl) sl b.w) = false := hpend
  simp only [frameRun, hbad, huses, hpend, Bool.false_eq_true, if_false]

/-! ### SUSP (R181) -/

/-- The free rows of a bin. -/
def freeRows (b : Bin) (o : BitMap) : List Nat := (List.range b.cap).filter fun r => !o.m.testBit r

section Susp

variable {u'' : State} {rows : List (List Piece)}

/-- The lanes that SUSP selects. -/
def suspLanes (x : Group) (sl : Slot) : List Nat := lanesOf (x.sel sl)

/-- SUSP has the frame registers and the maps, which it writes where it selects a lane. -/
structure SuspAt (s : State) (x : Group) (sl : Slot) (t : Target) (b : Bin) (o w : BitMap) (u' : State) : Prop where
  opened : ∃ u, BinAt (s.atIssue sl) (s.binView sl) (s.ssrc x sl sl.a) (decide (suspLanes x sl ≠ [])) t b u
    ∧ frameFree u x sl b.w
    ∧ MapsAt u (s.binView sl) b (decide (suspLanes x sl ≠ [])) (decide (suspLanes x sl ≠ [])) o w u'
  init : b.init = true

/-- The rows that the lanes take, lowest first. -/
def suspRows (x : Group) (sl : Slot) (b : Bin) (o : BitMap) : List Nat := (freeRows b o).take (suspLanes x sl).length

theorem suspBody_full (h : Issues s f sl x) (hs : SuspAt s x sl t b o w u')
    (hrows : u'.binRows (s.binView sl) b true ((suspRows x sl b o).zip (suspLanes x sl)) = (u'', .ok rows))
    (hfull : (freeRows b o).length < (suspLanes x sl).length) (ho : b.ovfl = 0) :
    suspBody sl (s.atIssue sl) (x.cover sl) = .trap u'' { cause := 18, addr := s.ssrc x sl sl.a } none := by
  obtain ⟨⟨u, hb, hf, hm⟩, hinit⟩ := hs
  simp only [suspBody, ssrc_atIssue h.group]
  refine (binRun_atIssue h hb hinit _).trans ((frameRun_of hf _).trans ((mapsRun_of hm _).trans ?_))
  have hextra : ¬ (suspLanes x sl).length - (suspRows x sl b o).length = 0 := by
    rw [suspRows, List.length_take]
    omega
  have hroom : 0 < (suspLanes x sl).length - (suspRows x sl b o).length := Nat.pos_of_ne_zero hextra
  have hls : lanesOf ((x.cover sl).sel sl) = suspLanes x sl := rfl
  have htake : List.take (suspLanes x sl).length ((List.range b.cap).filter fun r => !o.m.testBit r) = suspRows x sl b o := rfl
  simp only [hls, htake, hrows, if_neg hextra, binRing_none ho, if_pos hroom]

theorem take_length_zip {α β : Type} (l : List α) (r : List β) : (l.take r.length).zip r = l.zip r := by
  induction r generalizing l with
  | nil => simp
  | cons b r ih => cases l <;> simp [ih]

/-- The frames of lanes, accounted and stored in their rows. -/
def State.framesStored (s : State) (v : View) (x : Group) (sl : Slot) (b : Bin) (ls : List Nat) (rows : List (List Piece)) :
    State :=
  (ls.zip rows).foldl (fun z p => z.writeAll v 8 5 true
    (p.2.zip ((List.range b.w).map fun n => (lane (s.vreg x sl.b n) p.1).toNat))) (s.account v true true rows.flatten)

/-- Without surplus lanes the frames go to rows alone. -/
theorem suspend_rows (s : State) (v : View) (x : Group) (sl : Slot) (b : Bin) (ls : List Nat) (rows : List (List Piece)) :
    (s.account v true true rows.flatten).suspend v x sl b ls rows none [] = s.framesStored v x sl b ls rows := by
  have hbanks := (accessed_account v true true rows.flatten (.refl s)).banks
  simp only [State.suspend, State.frameRegs, vreg_of_banks hbanks, take_length_zip, List.zip_nil_right, List.foldl_nil]
  rfl

theorem suspBody_done (h : Issues s f sl x) (hs : SuspAt s x sl t b o w u')
    (hrows : u'.binRows (s.binView sl) b true ((suspRows x sl b o).zip (suspLanes x sl)) = (u'', .ok rows))
    (hroom : (suspLanes x sl).length ≤ (freeRows b o).length) (hans : firstErr rows.flatten = none) :
    let z := u''.framesStored (s.binView sl) x sl b (suspLanes x sl) rows
    let y := if suspLanes x sl = [] then z else z.binSet (s.binView sl) t (s.ssrc x sl sl.a)
      { b with suspn := b.suspn + (suspLanes x sl).length } o w (o.m ||| bitsOf (suspRows x sl b o)) w.m
    suspBody sl (s.atIssue sl) (x.cover sl) = .done
      ((y.updGrp s.cur fun y => y.retireLanes (x.sel sl)).binAcq (s.binView sl) t)
      (scaOut x.trapMode sl.d 0 (BitVec.ofNat 64 (suspLanes x sl).length)) := by
  obtain ⟨⟨u, hb, hf, hm⟩, hinit⟩ := hs
  simp only [suspBody, ssrc_atIssue h.group]
  refine (binRun_atIssue h hb hinit _).trans ((frameRun_of hf _).trans ((mapsRun_of hm _).trans ?_))
  have hextra : (suspLanes x sl).length - (suspRows x sl b o).length = 0 := by
    rw [suspRows, List.length_take]
    omega
  have hls : lanesOf ((x.cover sl).sel sl) = suspLanes x sl := rfl
  have htake : List.take (suspLanes x sl).length ((List.range b.cap).filter fun r => !o.m.testBit r) = suspRows x sl b o := rfl
  have hcur : u'.cur = s.cur := ((mapsAt_frame hm).1.trans (binAt_frame hb).1).trans (cur_atIssue h.group)
  have hall : rows.flatten ++ ([] : List (List Piece)).flatten = rows.flatten := List.append_nil _
  simp only [hls, htake, hrows, hextra, if_true, lt_irrefl, if_false, hall, hans, hcur, suspend_rows]
  rfl

end Susp

/-! ### The plan of a RESUME (R182) -/

theorem binRing_ne_none (ho : b.ovfl ≠ 0) (s : State) (v : View) (wr : Bool) : (s.binRing v b wr).2 ≠ .ok none := by
  unfold State.binRing
  rw [if_neg ho]
  dsimp only
  split
  · simp
  · simp
  · split <;> simp

theorem length_askRows (s : State) (v : View) (kind : Nat) (l : List (List Piece)) :
    (s.askRows v kind l).2.length = l.length := by
  induction l generalizing s with
  | nil => rfl
  | cons r l ih => exact congrArg (· + 1) (ih _)

theorem length_ringElems {s z : State} {v : View} {rc : Rcb} {wr : Bool} {i n : Nat} {l : List (List Piece)}
    (h : s.ringElems v rc wr i n = (z, .ok l)) : l.length = n := by
  induction n generalizing s i l with
  | zero =>
    cases h
    rfl
  | succ n ih =>
    rw [State.ringElems] at h
    split at h
    · cases h
    · dsimp only at h
      split at h
      · cases h
      case h_2 el hel =>
        cases h
        exact congrArg (· + 1) (ih (Prod.ext rfl hel))

/-- The rows that a RESUME takes. -/
def takenRows (b : Bin) (om wm : Nat) : List Nat := (rowsOf b.cap (om &&& wm)).take 32

/-- Without a ring a RESUME drains nothing. -/
theorem resumePlan_noRing (ho : b.ovfl = 0) {rows : List (List Piece)}
    (hrows : u.binRows v b false (takenRows b o.m w.m).zipIdx = (u', .ok rows)) :
    let ask := (u'.account v true false rows.flatten).askRows v 5 rows
    u.resumePlan v b o w = (ask.1, .ok { drainRows := [], elems := [], rows := ask.2, ring := none, om := o.m, wm := w.m,
                                         taken := takenRows b o.m w.m }) := by
  have hom : o.m ||| bitsOf [] = o.m := Nat.or_zero _
  have hwm : (if b.ovwake then w.m ||| bitsOf [] else andNot w.m (bitsOf [])) = w.m := by
    simp [bitsOf, andNot]
  have htaken : List.take 32 (rowsOf b.cap (o.m &&& w.m)) = takenRows b o.m w.m := rfl
  have hall : ([] : List (List Piece)).flatten ++ rows.flatten ++ ([] : List (List Piece)).flatten = rows.flatten :=
    List.append_nil _
  simp only [State.resumePlan, binRing_none ho, if_true, List.take_zero, hom, hwm, htaken, List.map_nil, State.binRows,
    hrows, hall]
  rfl

/-- With a ring a RESUME moves its oldest elements to the lowest free rows. -/
theorem resumePlan_ring {y z : State} {rt : Target} {rc : Rcb} {p : Resume}
    (hring : u.binRing v b false = (y, .ok (some (rt, rc)))) (hplan : u.resumePlan v b o w = (z, .ok p)) :
    let into := (freeRows b o).take rc.count
    p.elems.length = into.length ∧ p.om = o.m ||| bitsOf into
      ∧ p.wm = (if b.ovwake then w.m ||| bitsOf into else andNot w.m (bitsOf into)) ∧ p.taken = takenRows b p.om p.wm := by
  have ho : b.ovfl ≠ 0 := fun ho => by rw [binRing_none ho] at hring; cases hring
  unfold State.resumePlan at hplan
  extract_lets q0 free n q into om wm taken qd qr at hplan
  have hn : n = min free.length rc.count := by
    unfold n q0
    rw [hring]
  have hnone : q.2 = .ok none → n = 0 := by
    intro hq
    by_contra h0
    exact binRing_ne_none ho _ _ _ (by rwa [show q = q0.1.binRing v b true from if_neg h0] at hq)
  have hinto : free.take n = free.take rc.count := by
    rw [List.take_eq_take_iff]
    omega
  have hlen : (free.take rc.count).length = n := by
    rw [List.length_take]
    omega
  clear_value q n
  split at hplan
  · cases hplan
  case h_2 ring hring' =>
    extract_lets qe at hplan
    split at hplan
    · cases hplan
    case h_2 dr _ =>
      split at hplan
      · cases hplan
      case h_2 rows _ =>
        split at hplan
        · cases hplan
        case h_2 el hel =>
          have hel' : el.length = n := by
            unfold qe at hel
            split at hel
            case h_1 rt' rc' => exact length_ringElems (Prod.ext rfl hel)
            case h_2 => cases hel; exact (hnone hring').symm
          cases hplan
          refine ⟨(length_askRows ..).trans (hel'.trans hlen.symm), ?_, ?_, rfl⟩
          · exact congrArg (fun l => o.m ||| bitsOf l) hinto
          · exact congrArg (fun l => if b.ovwake then w.m ||| bitsOf l else andNot w.m (bitsOf l)) hinto

/-! ### The work of a RESUME (R182) -/

/-- A RESUME whose plan is checked and answered, on a bin without a continuation, takes its rows. -/
theorem runSlot_resume (h : Issues s f sl x) (hlive : x.live = 0) (hmstk : x.mstk = [])
    (hb : BinAt (s.atIssue sl) (s.binView sl) (s.ssrc x sl sl.a) true t b u) (hinit : b.init = true) (hcont : b.cont = 0)
    (hf : frameFree u x sl b.w) (hm : MapsAt u (s.binView sl) b true true o w u') {z : State} {p : Resume}
    (hplan : u'.resumePlan (s.binView sl) b o w = (z, .ok p))
    (hans : firstErr (p.drainRows.flatten ++ p.rows.flatten ++ p.elems.flatten) = none) (lat : Machine.Lat) :
    let r := z.resume (s.binView sl) x sl t (s.ssrc x sl sl.a) b o w p
    runSlot f lat sl (resumeBody sl) s = retired s r.1 sl lat r.2 := by
  refine runSlot_done h ?_
  have hidle : ¬ ((x.cover sl).live ≠ 0 ∨ (x.cover sl).mstk ≠ []) := not_or.2 ⟨not_not.2 hlive, not_not.2 hmstk⟩
  simp only [resumeBody, ssrc_atIssue h.group, if_neg hidle]
  refine (binRun_atIssue h hb hinit _).trans ((frameRun_of hf _).trans ((mapsRun_of hm _).trans ?_))
  have hheld (y : State) (c : Context) : y.contHeld u'.cur c p.taken.length b.cont = (y, none) := if_pos (.inr hcont)
  simp only [hplan, hans, hheld]
  exact if_pos (.inr hcont)

end Sys2Proof.Machine

open Sys2Proof Sys2Proof.Machine in
/-- SUSP with enough free rows stores frames; without, and with no ring, it traps. -/
theorem suspResults_hold : suspResults := by
  intro s x sl t b u u' u'' o w rows i v m ls free take some gone h hb
  refine ⟨fun hraw => ?raw, fun hinit hf hnone hm => ?none, fun hinit hf hm hrows hfull ho => ?full,
    fun hinit hf hm hroom hsome hrows hans => ?done⟩
  case raw => exact runSlot_raw h hb hraw (body := suspBody sl) (by simp only [suspBody, ssrc_atIssue h.group]; rfl)
  case none =>
    have hm' : MapsAt u v b some some o w u' := by rwa [show some = false by simp [some, hnone]]
    have hls : suspLanes x sl = [] := hnone
    have hrows : u'.binRows (s.binView sl) b true ((suspRows x sl b o).zip (suspLanes x sl)) = (u', .ok []) := by
      rw [hls, List.zip_nil_right]
      rfl
    have hle : (suspLanes x sl).length ≤ (freeRows b o).length := by
      rw [hls]
      exact Nat.zero_le _
    have hdone := suspBody_done h ⟨⟨u, hb, hf, hm'⟩, hinit⟩ hrows hle rfl
    rw [hls] at hdone
    exact runSlot_done h hdone
  case full => exact runSlot_trapsIn h (suspBody_full h ⟨⟨u, hb, hf, hm⟩, hinit⟩ hrows hfull ho)
  case done =>
    have hdone := suspBody_done h ⟨⟨u, hb, hf, hm⟩, hinit⟩ hrows hroom hans
    dsimp only at hdone
    rw [if_neg (show suspLanes x sl ≠ [] from hsome)] at hdone
    exact runSlot_done h hdone

open Sys2Proof Sys2Proof.Machine in
/-- RESUME takes woken rows, by its plan without a ring or with one, or traps. -/
theorem resumeResults_hold : resumeResults := by
  intro s x sl t b u u' u'' o w rows i v a taken k m ask got frame h
  refine ⟨fun hbusy => ?busy, fun hlive hmstk hb hinit ho hcont hf hm hrows hans => ?noRing,
    fun hlive hmstk hb hraw => ?raw, fun z p rt rc y hlive hmstk hb hinit hcont hf hm hring hplan hans => ?ring⟩
  case busy =>
    refine runSlot_traps h (body := resumeBody sl) ?_
    simp only [resumeBody, ssrc_atIssue h.group]
    exact if_pos hbusy
  case noRing =>
    have hans' := (congrArg firstErr (List.append_nil _)).trans hans
    exact runSlot_resume h hlive hmstk hb hinit hcont hf hm (resumePlan_noRing ho hrows) hans' .blocking
  case raw =>
    have hidle : ¬ ((x.cover sl).live ≠ 0 ∨ (x.cover sl).mstk ≠ []) := not_or.2 ⟨not_not.2 hlive, not_not.2 hmstk⟩
    exact runSlot_raw h hb hraw (body := resumeBody sl) (by simp only [resumeBody, ssrc_atIssue h.group, if_neg hidle]; rfl)
  case ring =>
    obtain ⟨helems, hom, hwm, htaken⟩ := resumePlan_ring hring hplan
    exact ⟨helems, hom, hwm, htaken, runSlot_resume h hlive hmstk hb hinit hcont hf hm hplan hans .blocking⟩

/-- Settles O24, by the courses of SUSP and of RESUME. -/
theorem suspAndResumeResults : Obligations.SUSP_AND_RESUME_RESULTS := ⟨suspResults_hold, resumeResults_hold⟩
end

section
/-! SUPPORT and O25. FXFORM transforms one column of the occupied rows and then of the ring's elements (R185). -/

namespace Sys2Proof.Machine

variable {s u u' u'' z z' : State} {f : Form} {x : Group} {sl : Slot} {t : Target} {b : Bin} {o : BitMap} {v : View}
  {ring : Option (Target × Rcb)} {rows el : List (List Piece)}

/-- The words of column `c`. -/
def columnOf (c : Nat) (l : List (List Piece)) : List Piece := l.filterMap fun e => e[c]?

@[simp] theorem columnOf_nil (c : Nat) : columnOf c [] = [] := rfl

/-- The elements of a bin's overflow ring, from the oldest on; none without a ring. -/
inductive RingHolds (v : View) (z : State) : Option (Target × Rcb) → State → List (List Piece) → Prop
  | absent : RingHolds v z none z []
  | present {rt : Target} {rc : Rcb} {z' : State} {el : List (List Piece)}
      (h : z.ringElems v rc true rc.cidx rc.count = (z', .ok el)) : RingHolds v z (some (rt, rc)) z' el

/-- The operation of FXFORM on one word. -/
def fxOp (s : State) (x : Group) (sl : Slot) (_ old : Nat) : Nat := fxWord sl x.satf (fxOperand sl s x (fmtW sl)) old

theorem fxOperand_atIssue (hg : s.grp? s.cur = some x) (w : Nat) :
    fxOperand sl (s.atIssue sl) (x.cover sl) w = fxOperand sl s x w := by
  rw [fxOperand, ssrc_atIssue hg, fxOperand]

/-- FXFORM of a column of the bin, whose structures may be accessed and answer. -/
theorem fxformBody_of (h : Issues s f sl x)
    (hb : BinAt (s.atIssue sl) (s.binView sl) (s.ssrc x sl sl.a) false t b u) (hinit : b.init = true)
    (hc : (s.ssrc x sl sl.c).toNat < b.w) (hmap : u.readMap (s.binView sl) b b.occaddr false = (u', .ok o))
    (hrows : u'.binRows (s.binView sl) b true ((rowsOf b.cap o.m).map fun n => (n, 0)) = (u'', .ok rows))
    (hring : u''.binRing (s.binView sl) b false = (z, .ok ring)) (hel : RingHolds (s.binView sl) z ring z' el) :
    let c := (s.ssrc x sl sl.c).toNat
    let acc := z'.account (s.binView sl) true false (o.ps ++ columnOf c rows ++ columnOf c el)
    let k := acc.askAll (s.binView sl) 8 5 (columnOf c rows)
    let j := k.1.askAll (s.binView sl) 8 6 (columnOf c el)
    firstErr (o.ps ++ k.2 ++ j.2) = none → fxformBody sl (s.atIssue sl) (x.cover sl)
      = .done (((j.1.rmwNeed (s.binView sl) 8 5 (fxOp s x sl) k.2).rmwNeed (s.binView sl) 8 6 (fxOp s x sl) j.2).binAcq
          (s.binView sl) t) [] := by
  intro c acc k j hans
  simp only [fxformBody, ssrc_atIssue h.group, fxOperand_atIssue h.group]
  refine (binRun_atIssue h hb hinit _).trans ((if_neg (Nat.not_le.2 hc)).trans ?_)
  simp only [hmap, hrows, hring]
  cases hel with
  | absent => exact congrArg (Effect.done · []) (lateErr_answered hans)
  | present hel =>
    simp only [hel]
    exact congrArg (Effect.done · []) (lateErr_answered hans)

theorem fxformBody_past (h : Issues s f sl x)
    (hb : BinAt (s.atIssue sl) (s.binView sl) (s.ssrc x sl sl.a) false t b u) (hinit : b.init = true)
    (hc : b.w ≤ (s.ssrc x sl sl.c).toNat) :
    fxformBody sl (s.atIssue sl) (x.cover sl) = syncTrap u 0x14 (s.ssrc x sl sl.a) := by
  simp only [fxformBody, ssrc_atIssue h.group]
  exact (binRun_atIssue h hb hinit _).trans (if_pos hc)

end Sys2Proof.Machine

open Sys2Proof Sys2Proof.Machine in
/-- Settles O25: the rows of the column and then the ring's elements, or the trap of a column that the bin has not. -/
theorem fxformResults : Obligations.FXFORM_RESULTS := by
  intro s x sl t b u u' u'' o rows i v a c y at_ f column h hb hinit
  refine ⟨fun hc => ?past, fun hc ho hmap hrows hans => ?noRing, fun hc hmap hrows z z' rt rc el hring hel => ?ring⟩
  case past => exact runSlot_trapsIn h (fxformBody_past h hb hinit hc)
  case noRing =>
    have hdone := fxformBody_of h hb hinit hc hmap hrows (binRing_none ho ..) .absent
    dsimp only at hdone
    rw [columnOf_nil, List.append_nil] at hdone
    exact runSlot_done h (hdone ((congrArg firstErr (List.append_nil _)).trans hans))
  case ring =>
    intro k j hans
    exact runSlot_done h (fxformBody_of h hb hinit hc hmap hrows hring (.present hel) hans)
end

section
/-! SUPPORT and O32. The view and the scalar address of the slot that issues, and WAITP, whose word decides whether it waits
(R210). -/

namespace Sys2Proof.Machine

variable {s u r : State} {f : Form} {x : Group} {sl : Slot} {t : Target} {a : Word} {n : Nat}

/-! ### The view of the slot that issues -/

theorem viewOf_core_atIssue (hg : s.grp? s.cur = some x) : ((s.atIssue sl).viewOf s.cur).core = x.core := by
  rw [State.viewOf, grpD_atIssue hg]
  rfl

theorem viewOf_die_atIssue (hg : s.grp? s.cur = some x) : ((s.atIssue sl).viewOf s.cur).die = x.core / 16 := by
  rw [State.viewOf, grpD_atIssue hg]
  rfl

theorem scaAddr_atIssue (hg : s.grp? s.cur = some x) :
    (s.atIssue sl).scaAddr (x.cover sl) sl = s.ssrc x sl sl.a + sl.imm.signExtend 64 := by
  rw [State.scaAddr, ssrc_atIssue hg, immW]

/-! ### WAITP (R210) -/

theorem waitMet_iff (c : Nat) (a b : BitVec 32) :
    waitMet c a b = true ↔ match c with | 0 => a ≠ b | 1 => a = b | _ => (a - b).toNat < 2 ^ 31 := by
  match c with
  | 0 => exact decide_eq_true_iff (p := a ≠ b)
  | 1 => exact decide_eq_true_iff (p := a = b)
  | _ + 2 => exact decide_eq_true_iff (p := (a - b).toNat < 2 ^ 31)

/-- WAITP whose word may be read ends, or waits. -/
theorem waitpBody_of (hroom : s.egressLow (s.viewOf s.cur) (s.scaAddr x sl) = false)
    (hquiet : sl.md.getLsbD 0 = true → s.peerQuiet s.cur = true)
    (hres : s.resolve (s.viewOf s.cur) (s.scaAddr x sl) 4 4 4 = (u, .ok t))
    (hread : (u.accountOne (s.viewOf s.cur) t (s.scaAddr x sl)).readP (s.viewOf s.cur) t 4 (s.scaAddr x sl) 4 = (r, .ok n)) :
    waitpBody sl s x =
      if waitMet (subN sl) (BitVec.ofNat 32 n) ((s.ssrc x sl sl.b).setWidth 32) then
        .done (r.waitDone (s.viewOf s.cur) x sl).1 (r.waitDone (s.viewOf s.cur) x sl).2
      else .wait (r.updGrp s.cur fun y =>
        { y with wait := .waitp (s.scaAddr x sl) ((s.ssrc x sl sl.b).setWidth 32) (s.ssrc x sl sl.c).toNat sl }) := by
  have hgo : ¬ (s.egressLow (s.viewOf s.cur) (s.scaAddr x sl) = true ∨ ordAcq sl = true ∧ ¬ s.peerQuiet s.cur = true) :=
    not_or.2 ⟨by simp [hroom], fun ⟨hacq, hbusy⟩ => hbusy (hquiet hacq)⟩
  unfold waitpBody
  dsimp only
  rw [if_neg hgo, hres]
  cases t with
  | err c i => rw [readP_err] at hread; cases hread
  | _ => simp only [hread]

end Sys2Proof.Machine

open Sys2Proof Sys2Proof.Machine in
/-- Settles O32: the word is read at once, and its condition decides. -/
theorem waitpResults : Obligations.WAITP_RESULTS := by
  intro s x sl t u r n i v a b word met h hroom hquiet hres hread
  have hcur := cur_atIssue (sl := sl) h.group
  have haddr := scaAddr_atIssue (sl := sl) h.group
  have hbody := waitpBody_of (x := x.cover sl) (sl := sl) (s := i) (u := u) (t := t) (r := r) (n := n)
  simp only [hcur, haddr, i, ssrc_atIssue h.group] at hbody
  replace hbody := hbody hroom hquiet hres hread
  have hmet : waitMet (subN sl) word b = true ↔ met := waitMet_iff ..
  refine ⟨fun hm => ?ends, fun hm => ?waits⟩
  case ends =>
    rw [if_pos (hmet.2 hm)] at hbody
    have hd := runSlot_done h (lat := .blocking) hbody
    rw [State.waitDone, viewOf_core_atIssue h.group] at hd
    exact hd
  case waits =>
    rw [if_neg (mt hmet.1 hm)] at hbody
    exact runSlot_waits h .blocking hbody

end

section
/-! SUPPORT and O31. The two column actions of a fence, and what an acquire does to a core by its scope (R206, R209, R312,
Table 8.5). -/

namespace Sys2Proof.Machine

variable {s : State} {f : Form} {x : Group} {sl : Slot}

/-! ### What orders the columns (R206, R209, R312, Table 8.5) -/

/-- The state after the release of a fence: the group's stores of formatted elements are performed at device scope or wider, and
the die is clean at cluster scope or wider where the fence releases, and at device scope or wider in any case. -/
def State.fenced (s : State) (die : Nat) (sl : Slot) : State :=
  let wide := decide (3 ≤ sl.scp.toNat)
  let s0 := if wide then s.fmtFence s.cur else s
  if wide || (sl.md.getLsbD 1 && decide (2 ≤ sl.scp.toNat)) then (coresOf die).foldl State.cleanCore s0 else s0

theorem fenceBody_of (h : s.peerQuiet s.cur = true) :
    fenceBody sl s x = .done ((s.fenced (s.viewOf s.cur).die sl).ordAfter (s.viewOf s.cur) sl) [] := by
  rw [fenceBody, syncAfter, if_pos h]
  congr 2
  unfold State.fenced
  dsimp only
  by_cases hwide : 3 ≤ sl.scp.toNat
  · simp [hwide, State.release, State.cleanDie]
  · simp only [hwide, State.ordBefore, ordRel, State.release, State.cleanDie, if_false, decide_false, Bool.false_or,
      Bool.and_eq_true, decide_eq_true_eq, Bool.false_eq_true, ite_and]
    rfl

theorem acquire_device (s : State) (c : Nat) {scp : Nat} (h : 3 ≤ scp) (hgen : (s.coreD c).gen ≠ 0xFFFF) :
    (s.acquire c scp).coreD c
      = { s.coreD c with gen := (s.coreD c).gen + 1, seen := tval 0 s.dieAcq (c / 16) + 1 } := by
  rw [State.acquire, if_pos h, State.nextGen, if_neg hgen, State.acqNote]
  simp only [State.updCore, State.coreD, tval_tset_self]
  rfl

theorem acquire_narrow (s : State) (c : Nat) {scp : Nat} (h : scp = 1 ∨ scp = 2) :
    s.acquire c scp = if tval 0 s.dieAcq (c / 16) ≤ (s.coreD c).seen then s
      else s.updCore c fun k =>
        { k with column := [], l1 := k.l1.filter fun e => e.data.isEmpty, seen := tval 0 s.dieAcq (c / 16) } := by
  rw [State.acquire, if_neg (by omega)]
  simp only [show scp ≠ 0 by omega, false_or]
  rfl

theorem cleanCore_dirty (s : State) (c : Nat) : ((s.cleanCore c).coreD c).dirty = [] := by
  simp [State.cleanCore, State.updCore, State.coreD]

end Sys2Proof.Machine

open Sys2Proof Sys2Proof.Machine in
/-- Settles O31: the fence's two column actions, what an acquire does to a core by its scope, and the two column instructions. -/
theorem fencesActOnTheColumns : Obligations.FENCES_ACT_ON_THE_COLUMNS := by
  intro s x sl i rel wide i0 i1
  refine ⟨fun h hquiet => ?fence, fun t c scp => acquire_device t c, fun t c scp => acquire_narrow t c,
    fun h => ?columns, cleanCore_dirty i x.core⟩
  case fence =>
    have hcur := cur_atIssue (sl := sl) h.group
    have hbody := fenceBody_of (s := i) (x := x.cover sl) (sl := sl) (hcur.symm ▸ hquiet)
    rw [State.ordAfter, hcur, viewOf_core_atIssue h.group, viewOf_die_atIssue h.group, State.fenced, hcur] at hbody
    exact runSlot_done h hbody
  case columns => exact ⟨runSlot_done h rfl, runSlot_done h rfl⟩

end

section
/-! SUPPORT and O33. The object that a barrier operation finds, and what each operation makes of it (R211 to R214). -/

namespace Sys2Proof.Machine

variable {s u : State} {f : Form} {x : Group} {sl : Slot} {v : View} {t : Target} {a : Word} {op : BarOp} {o : BarObj}

/-! ### The object that an operation finds (R211) -/

/-- An operation on an object that may be accessed and answers acts on what it finds. -/
theorem barRun_of (h : objectFound s (s.viewOf s.cur) a op t u o) (g : State → View → Target → BarObj → Effect) :
    barRun a op s x g = g u (s.viewOf s.cur) t o := by
  obtain ⟨hroom, hquiet, herr, r, hres, hread⟩ := h
  unfold barRun
  dsimp only
  rw [if_neg (by simp [hroom, hquiet]), hres]
  cases t with
  | err c i => exact absurd rfl (herr c i)
  | peer p pa =>
    obtain ⟨d, hneed, rfl⟩ := hread
    simp only [hneed]
  | _ =>
    obtain ⟨n, hrd, rfl⟩ := hread
    simp only [hrd]

/-- Reading an object is an access. -/
theorem accessed_objectFound (h : objectFound s v a op t u o) : Accessed s u := by
  obtain ⟨-, -, -, r, hres, hread⟩ := h
  have hr : Accessed s r := by
    have := accessed_resolve v a 16 16 5 (kindWrites 5) (.refl s)
    rwa [hres] at this
  have hlocal (t : Target) (u : State) (n : Nat) (h : (r.accountOne v t a).readT v t 16 true = (u, n)) : Accessed s u := by
    have hu := accessed_readT v t 16 true (accessed_accountOne v t a hr)
    rwa [h] at hu
  cases t with
  | peer p pa =>
    obtain ⟨d, hneed, -⟩ := hread
    have hu := accessed_peerNeed { v.ask (op.msg p pa) a 5 with rel := if op.rel then some v.die else none }
      (accessed_accountOne v (.peer p pa) a hr)
    rw [hneed] at hu
    exact hu
  | _ =>
    obtain ⟨n, hrd, -⟩ := hread
    exact hlocal _ _ _ hrd

theorem barPut_eq (s : State) (v : View) (t : Target) (op : BarOp) (o : BarObj) :
    s.barPut v t op o = objectStored s v t op.rel (op.new o) := by cases t <;> rfl

section Slots

variable (h : Issues s f sl x) (hf : objectFound (s.atIssue sl) (s.binView sl) a op t u o)
include h hf

theorem barRun_atIssue (g : State → View → Target → BarObj → Effect) :
    barRun a op (s.atIssue sl) (x.cover sl) g = g u (s.binView sl) t o := by
  have hcur := cur_atIssue (sl := sl) h.group
  rw [State.binView, ← hcur] at hf ⊢
  exact barRun_of hf g

theorem cur_objectFound : u.cur = s.cur := (accessed_objectFound hf).cur.trans (cur_atIssue h.group)

end Slots

/-! ### BOINIT, BOARR, BOJOIN and BOLEAVE (R213, R214) -/

section Bodies

variable (h : Issues s f sl x)
include h

theorem boinitBody_of (hf : objectFound (s.atIssue sl) (s.binView sl) (s.ssrc x sl sl.a) (.init (immN sl)) t u o) :
    boinitBody sl (s.atIssue sl) (x.cover sl) =
      if immN sl = 0 ∨ (o.init = true ∧ o.joined ≠ 0) then syncTrap u 0x21 (s.ssrc x sl sl.a)
      else .done (objectStored u (s.binView sl) t true
        { phase := 0, expect := immN sl, pend := immN sl, bytes := 0, joined := 0, init := true }) [] := by
  simp only [boinitBody, ssrc_atIssue h.group]
  refine (barRun_atIssue h hf _).trans (ite_congr rfl (fun _ => rfl) fun hok => ?_)
  rw [barPut_eq, BarOp.new, if_neg hok]
  rfl

/-- The phase in which a group has arrived at an object already (R28). -/
def Group.arrivedAt (x : Group) (a : Word) : Option Nat :=
  (x.joined.find? fun e => decide (e.addr = a)).bind fun e => if e.arrived then some e.phase.toNat else none

omit h in
theorem arrivedAt_eq_some {n : Nat} :
    x.arrivedAt a = some n ↔
      ∃ e, x.joined.find? (fun e => decide (e.addr = a)) = some e ∧ e.phase.toNat = n ∧ e.arrived = true := by
  rw [Group.arrivedAt, Option.bind_eq_some_iff]
  refine exists_congr fun e => and_congr_right fun _ => ?_
  by_cases he : e.arrived = true <;> simp [he]

/-- The group with its arrival at an object noted. -/
def Group.noteArrival (a : Word) (phase : Nat) (y : Group) : Group :=
  { y with joined := y.joined.map fun e => if e.addr = a then { e with phase := BitVec.ofNat 32 phase, arrived := true } else e }

theorem boarrBody_of {bytes : Nat} (hbytes : bytes = (s.ssrc x sl sl.b).toNat % 2 ^ 32)
    (ha : a = s.ssrc x sl sl.a + sl.imm.signExtend 64)
    (hf : objectFound (s.atIssue sl) (s.binView sl) a (.arrive (decide (sl.sub = 0)) bytes (x.arrivedAt a)) t u o) :
    boarrBody sl (s.atIssue sl) (x.cover sl) =
      if ¬ o.init = true then syncTrap u 0x20 a
      else if sl.sub = 0 ∧ o.pend = 0 then syncTrap u 0x22 a
      else if sl.sub = 0 ∧ x.arrivedAt a = some o.phase then syncTrap u 0x23 a
      else .done (objectStored (if sl.sub = 0 then u.updGrp s.cur (Group.noteArrival a o.phase) else u) (s.binView sl) t true
          (phaseStep { o with pend := if sl.sub = 0 then o.pend - 1 else o.pend, bytes := (o.bytes + bytes) % 2 ^ 32 }))
        (scaOut x.trapMode sl.d 0 (BitVec.ofNat 64 o.phase)) := by
  subst hbytes
  simp only [boarrBody, scaAddr_atIssue h.group, ssrc_atIssue h.group, ← ha]
  refine (barRun_atIssue h hf _).trans (ite_congr rfl (fun _ => rfl) fun hi => ?_)
  refine ite_congr rfl (fun _ => rfl) fun hp => ite_congr rfl (fun _ => rfl) fun hm => ?_
  have hlegal : ¬ (¬ o.init = true ∨ (decide (sl.sub = 0) = true ∧ o.pend = 0)
      ∨ (decide (sl.sub = 0) = true ∧ x.arrivedAt a = some o.phase)) := by
    simpa only [decide_eq_true_eq, not_or] using ⟨hi, hp, hm⟩
  have hnew : (BarOp.arrive (decide (sl.sub = 0)) ((s.ssrc x sl sl.b).toNat % 2 ^ 32) (x.arrivedAt a)).new o = phaseStep
      { o with
        pend := if sl.sub = 0 then o.pend - 1 else o.pend, bytes := (o.bytes + (s.ssrc x sl sl.b).toNat % 2 ^ 32) % 2 ^ 32 } := by
    rw [BarOp.new, if_neg hlegal]
    by_cases hs : sl.sub = 0 <;> simp only [hs, decide_true, decide_false, if_true, if_false, Bool.false_eq_true] <;> rfl
  rw [cur_objectFound h hf, barPut_eq]
  exact congrArg₂ Effect.done (congrArg (objectStored _ _ t true) hnew) rfl

/-- Whether a group may not join an object: its table is full, or has the object already (Table 8.12). -/
def Group.mayNotJoin (x : Group) (a : Word) : Bool :=
  decide (8 ≤ x.joined.length) || (x.joined.find? fun e => decide (e.addr = a)).isSome

theorem bojoinBody_of (ha : a = s.ssrc x sl sl.a + sl.imm.signExtend 64)
    (hf : objectFound (s.atIssue sl) (s.binView sl) a (if x.mayNotJoin a then .look else .join) t u o) :
    bojoinBody sl (s.atIssue sl) (x.cover sl) =
      if ¬ o.init = true then syncTrap u 0x20 a
      else if x.mayNotJoin a = true then syncTrap u 0x24 a
      else .done (objectStored (u.updGrp s.cur fun y =>
          { y with joined := y.joined ++ [{ addr := a, phase := BitVec.ofNat 32 o.phase, arrived := false }] })
        (s.binView sl) t false { o with joined := (o.joined + 1) % 65536 }) [] := by
  simp only [bojoinBody, scaAddr_atIssue h.group, ← ha]
  refine (barRun_atIssue h hf _).trans (ite_congr rfl (fun _ => rfl) fun hi => ite_congr rfl (fun _ => rfl) fun _ => ?_)
  rw [cur_objectFound h hf, barPut_eq, BarOp.new, if_pos (not_not.1 hi)]
  rfl

theorem boleaveBody_none (ha : a = s.ssrc x sl sl.a + sl.imm.signExtend 64)
    (hmine : x.joined.find? (fun e => decide (e.addr = a)) = none) (hroom : (s.atIssue sl).egressLow (s.binView sl) a = false)
    (hres : (s.atIssue sl).resolve (s.binView sl) a 16 16 5 = (u, .ok t)) (herr : ∀ c n, t ≠ .err c n) :
    boleaveBody sl (s.atIssue sl) (x.cover sl) = syncTrap u 0x25 a := by
  have hjoin : (x.cover sl).joinOf a = none := hmine
  simp only [boleaveBody, scaAddr_atIssue h.group, ← ha, hjoin, barCheck, cur_atIssue h.group]
  rw [State.binView] at hroom hres
  rw [if_neg (by simp [hroom]), hres]
  cases t with
  | err c n => exact absurd rfl (herr c n)
  | _ => rfl

theorem boleaveBody_some {e : Join} (ha : a = s.ssrc x sl sl.a + sl.imm.signExtend 64)
    (hmine : x.joined.find? (fun e => decide (e.addr = a)) = some e)
    (hf : objectFound (s.atIssue sl) (s.binView sl) a (if sl.sub = 1 then .ret e else .leave) t u o) :
    boleaveBody sl (s.atIssue sl) (x.cover sl) =
      .done (objectStored (u.updGrp s.cur fun y => { y with joined := y.joined.filter fun e => !decide (e.addr = a) })
        (s.binView sl) t (decide (sl.sub = 1)) (if sl.sub = 1 then o.retire e else o).leave) [] := by
  have hjoin : (x.cover sl).joinOf a = some e := hmine
  simp only [boleaveBody, scaAddr_atIssue h.group, ← ha, hjoin]
  refine (barRun_atIssue h hf _).trans ?_
  rw [cur_objectFound h hf, barPut_eq]
  by_cases hs : sl.sub = 1 <;> simp only [hs, if_true, if_false, decide_true, decide_false] <;> rfl

end Bodies

end Sys2Proof.Machine

open Sys2Proof Sys2Proof.Machine in
/-- Settles O33: each operation on the object that it finds, by the checks of Table 8.12 in their order. -/
theorem barrierObjectResults : Obligations.BARRIER_OBJECT_RESULTS := by
  intro s x sl t u o i v a a0 n bytes mine before finds stop arrivedNow
  have hnow : x.arrivedAt a = some o.phase ↔ arrivedNow := arrivedAt_eq_some
  refine ⟨fun h hf => ?init, fun h hf => ?arr, fun h => ⟨fun hfull hf => ?full, fun hroom hnew hf => ?join⟩,
    fun h => ⟨fun hmine hroom hres herr => ?stranger, fun e hmine hf => ?leave⟩⟩
  case init =>
    have hb := boinitBody_of h hf
    exact ⟨fun hbad => runSlot_trapsIn h (hb.trans (if_pos hbad)), fun hok => runSlot_done h (hb.trans (if_neg hok))⟩
  case arr =>
    have hb := boarrBody_of h rfl rfl hf
    refine ⟨fun hi => ?_, fun hi hs hp => ?_, fun hi hs hp hm => ?_, fun hi hok => ?_⟩
    · exact runSlot_trapsIn h (hb.trans (if_pos (by simp [hi])))
    · exact runSlot_trapsIn h (hb.trans ((if_neg (not_not.2 hi)).trans (if_pos ⟨hs, hp⟩)))
    · exact runSlot_trapsIn h (hb.trans ((if_neg (not_not.2 hi)).trans ((if_neg fun hz => hp hz.2).trans
        (if_pos ⟨hs, hnow.2 hm⟩))))
    · exact runSlot_done h (hb.trans ((if_neg (not_not.2 hi)).trans ((if_neg fun hz => (hok hz.1).1 hz.2).trans
        (if_neg fun hz => (hok hz.1).2 (hnow.1 hz.2)))))
  case full =>
    have hjoin : x.mayNotJoin a = true := by
      rw [Group.mayNotJoin, Bool.or_eq_true, decide_eq_true_eq, Option.isSome_iff_ne_none]
      exact hfull
    have hb := bojoinBody_of (t := t) (u := u) (o := o) h rfl (by rw [if_pos hjoin]; exact hf)
    by_cases hi : o.init = false
    · rw [if_pos hi]
      exact runSlot_trapsIn h (hb.trans (if_pos (by simp [hi])))
    · rw [if_neg hi]
      exact runSlot_trapsIn h (hb.trans ((if_neg (by simpa using hi)).trans (if_pos hjoin)))
  case join =>
    have hjoin : ¬ x.mayNotJoin a = true := by
      rw [Group.mayNotJoin, Bool.or_eq_true, decide_eq_true_eq, Option.isSome_iff_ne_none]
      exact not_or.2 ⟨Nat.not_le.2 hroom, not_not.2 hnew⟩
    have hb := bojoinBody_of (t := t) (u := u) (o := o) h rfl (by rw [if_neg hjoin]; exact hf)
    exact ⟨fun hi => runSlot_trapsIn h (hb.trans (if_pos (by simp [hi]))),
      fun hi => runSlot_done h (hb.trans ((if_neg (not_not.2 hi)).trans (if_neg hjoin)))⟩
  case stranger => exact runSlot_trapsIn h (boleaveBody_none h rfl hmine hroom hres herr)
  case leave => exact runSlot_done h (boleaveBody_some h rfl hmine hf)

end

section
/-! SUPPORT and O35. The courses of an attempt on a ring: it is invalid, has no element or no room, or its element is worked on
(R216, R217). -/

namespace Sys2Proof.Machine

variable {s u u' z : State} {f : Form} {x : Group} {sl : Slot} {v : View} {t : Target} {a : Word} {rc : Rcb} {dq : Bool}
  {ws l : List Nat} {ps : List Piece} {g : List Nat → List RegWrite}

/-! ### The course of an attempt (R217) -/

/-- A ring that may be accessed, answers and is free: its control block is `rc` at `t`, and `u` is the state once it is read. -/
structure RingOpen (s : State) (v : View) (a : Word) (t : Target) (rc : Rcb) (u : State) : Prop where
  room : s.egressLow v a = false
  quiet : s.peerQuiet s.cur = true
  read : s.ringAt v a 6 = (u, .ok (t, rc))
  answers : ∀ c n, t ≠ .err c n
  free : s.lockFree t.key = true

/-- ENQ releases before its element is placed (R295). -/
def State.ringBefore (s : State) (v : View) (dq : Bool) : State := if dq then s else s.release v.die 3

/-- DEQ acquires after its element is taken (R295). -/
def State.ringAfter (s : State) (v : View) (dq : Bool) : State := if dq then s.acquire v.core 3 else s

/-- The attempt on an element of an open ring that has one, for DEQ, or room for one, for ENQ. -/
def elementRun (sl : Slot) (dq : Bool) (ws : List Nat) (x : Group) (g : List Nat → List RegWrite) (cur : Nat) (u : State)
    (v : View) (a : Word) (t : Target) (rc : Rcb) : Effect :=
  let q := (u.lockTake t.key).ringElem v rc (if dq then rc.cidx else rc.pidx) (!dq)
  match q.2 with
  | .error e => .trap q.1 e none
  | .ok ps =>
    match firstErr ps with
    | some e => .done (q.1.late cur v.fn v.ctx e false) []
    | none =>
      let w := ((q.1.account v true (!dq) ({ lane := 0, addr := a, tgt := t } :: ps)).ringBefore v dq).ringDo v dq t a rc ps ws
      match w.2 with
      | .error e => .done (w.1.late cur v.fn v.ctx e false) []
      | .ok none => w.1.stalled x
      | .ok (some l) => .done (w.1.ringAfter v dq) (g l ++ scaOut x.trapMode sl.d 0 1)

/-- An open ring that is not valid, or of another element size, traps; one without an element, or without room, ends the attempt;
any other is worked on. -/
theorem ringRun_open (h : RingOpen s (s.viewOf s.cur) (s.ssrc x sl sl.a) t rc u) :
    ringRun sl dq ws s x g =
      if ¬ rc.valid = true ∨ rc.esize ≠ ringN sl then syncTrap u 0x27 (s.ssrc x sl sl.a)
      else if (if dq then rc.isEmpty else rc.full) = true then
        .done (((u.accountOne (s.viewOf s.cur) t (s.ssrc x sl sl.a)).ringBefore (s.viewOf s.cur) dq).ringAfter (s.viewOf s.cur) dq)
          (scaOut x.trapMode sl.d 0 0)
      else elementRun sl dq ws x g s.cur u (s.viewOf s.cur) (s.ssrc x sl sl.a) t rc := by
  have hgo : ¬ (s.egressLow (s.viewOf s.cur) (s.ssrc x sl sl.a) = true ∨ ¬ s.peerQuiet s.cur = true) := by
    simp [h.room, h.quiet]
  unfold ringRun
  dsimp only
  rw [if_neg hgo, h.read]
  cases t with
  | err c n => exact absurd rfl (h.answers c n)
  | _ => exact if_neg (not_not.2 h.free)

/-- The attempt on an element that may be accessed and answers. -/
theorem elementRun_done {cur : Nat}
    (hel : (u.lockTake t.key).ringElem v rc (if dq then rc.cidx else rc.pidx) (!dq) = (u', .ok ps)) (hans : firstErr ps = none)
    (hdo : ((u'.account v true (!dq) ({ lane := 0, addr := a, tgt := t } :: ps)).ringBefore v dq).ringDo v dq t a rc ps ws
      = (z, .ok (some l))) :
    elementRun sl dq ws x g cur u v a t rc = .done (z.ringAfter v dq) (g l ++ scaOut x.trapMode sl.d 0 1) := by
  simp only [elementRun, hel, hans, hdo]

/-! ### What is done with an element (R216, R217) -/

/-- At a ring of this module, ENQ places its words and advances PIDX. -/
theorem ringDo_enq (hlocal : ∀ p pa, t ≠ .peer p pa) (hwords : s.ringWords v (ps.zip ws) = (z, none)) :
    s.ringDo v false t a rc ps ws = ((z.ringIndex v t a 0 (rc.pidx + 1)).noteEnq v t ps, .ok (some [])) := by
  cases t with
  | peer p pa => exact absurd rfl (hlocal p pa)
  | _ => simp only [State.ringDo, State.ringPush, hwords, Bool.false_eq_true, if_false]

/-- At a ring of this module, DEQ takes its words and advances CIDX. -/
theorem ringDo_deq (hlocal : ∀ p pa, t ≠ .peer p pa) (hread : s.readPs v 8 6 ps = (z, .ok l)) :
    s.ringDo v true t a rc ps ws = (z.ringIndex v t a 8 (rc.cidx + 1), .ok (some l)) := by
  cases t with
  | peer p pa => exact absurd rfl (hlocal p pa)
  | _ => simp only [State.ringDo, State.ringPop, hread, if_true]

/-- A peer that holds the ring and the element performs the attempt, where both indices are still those read. -/
theorem ringDo_peer {p pa e : Nat} {d : List Byte} (hplace : peerPlace p ps = some e)
    (hneed : s.peerNeed { v.ask (ringMsg dq p pa e rc ws) a 6 with rel := if dq then none else some v.die } = (z, some (some d))) :
    s.ringDo v dq (.peer p pa) a rc ps ws = (z, .ok
      (if ofBytes (d.take 4) = rc.pidx ∧ ofBytes ((d.drop 4).take 4) = rc.cidx then
        some ((List.range rc.esize).map fun j => ofBytes ((d.drop (8 + 8 * j)).take 8)) else none)) := by
  simp only [State.ringDo, hplace, hneed]
  split <;> rfl

/-- ENQ fails at a full ring. -/
theorem full_iff (rc : Rcb) :
    (if false = true then rc.isEmpty else rc.full) = true ↔ (rc.pidx + 2 ^ 32 - rc.cidx) % 2 ^ 32 = rc.cap := by
  rw [if_neg Bool.false_ne_true, Rcb.full, decide_eq_true_iff]

/-- DEQ fails at an empty ring. -/
theorem isEmpty_iff (rc : Rcb) : (if true = true then rc.isEmpty else rc.full) = true ↔ rc.pidx = rc.cidx := by
  rw [if_pos rfl, Rcb.isEmpty, decide_eq_true_iff]

/-! ### The slot -/

theorem sreg_of_atIssue (hg : s.grp? s.cur = some x) (c : BitVec 10) (j : Nat) : (s.atIssue sl).sreg x c j = s.sreg x c j := by
  rw [atIssue_eq hg]
  unfold State.sreg
  cases sPlace x.trapMode (c.toNat - 0x210 + j) <;> rfl

section Slots

variable (h : Issues s f sl x) (ho : RingOpen (s.atIssue sl) (s.binView sl) (s.ssrc x sl sl.a) t rc u)
include h ho

theorem ringRun_atIssue :
    ringRun sl dq ws (s.atIssue sl) (x.cover sl) g =
      if ¬ rc.valid = true ∨ rc.esize ≠ ringN sl then syncTrap u 0x27 (s.ssrc x sl sl.a)
      else if (if dq then rc.isEmpty else rc.full) = true then
        .done (((u.accountOne (s.binView sl) t (s.ssrc x sl sl.a)).ringBefore (s.binView sl) dq).ringAfter (s.binView sl) dq)
          (scaOut x.trapMode sl.d 0 0)
      else elementRun sl dq ws (x.cover sl) g s.cur u (s.binView sl) (s.ssrc x sl sl.a) t rc := by
  have hcur := cur_atIssue (sl := sl) h.group
  have hopen := ringRun_open (s := s.atIssue sl) (x := x.cover sl) (sl := sl) (t := t) (rc := rc) (u := u) (dq := dq)
    (ws := ws) (g := g)
  rw [ssrc_atIssue h.group, hcur] at hopen
  exact hopen ho

variable {lat : Machine.Lat} {body : State → Group → Effect}
  (hbody : body (s.atIssue sl) (x.cover sl) = ringRun sl dq ws (s.atIssue sl) (x.cover sl) g)
include hbody

theorem runSlot_ringInvalid (hbad : rc.valid = false ∨ rc.esize ≠ ringN sl) :
    runSlot f lat sl body s = .next (u.raise s.cur
      { cause := 19, addr := s.ssrc x sl sl.a, info := BitVec.ofNat 64 (0x27 * 2 ^ 32) } x.pc) :=
  runSlot_trapsIn h (hbody.trans ((ringRun_atIssue h ho).trans (if_pos (hbad.imp_left fun hv => by simp [hv]))))

variable (hvalid : rc.valid = true) (hsize : rc.esize = ringN sl)
include hvalid hsize

theorem runSlot_ringFails (hfail : (if dq then rc.isEmpty else rc.full) = true) :
    runSlot f lat sl body s = retired s
      (((u.accountOne (s.binView sl) t (s.ssrc x sl sl.a)).ringBefore (s.binView sl) dq).ringAfter (s.binView sl) dq) sl lat
      (scaOut x.trapMode sl.d 0 0) :=
  runSlot_done h (hbody.trans ((ringRun_atIssue h ho).trans ((if_neg (not_or.2 ⟨not_not.2 hvalid, not_not.2 hsize⟩)).trans
    (if_pos hfail))))

theorem runSlot_ringWorks (hgo : ¬ (if dq then rc.isEmpty else rc.full) = true)
    (hel : (u.lockTake t.key).ringElem (s.binView sl) rc (if dq then rc.cidx else rc.pidx) (!dq) = (u', .ok ps))
    (hans : firstErr ps = none)
    (hdo : ((u'.account (s.binView sl) true (!dq) ({ lane := 0, addr := s.ssrc x sl sl.a, tgt := t } :: ps)).ringBefore
      (s.binView sl) dq).ringDo (s.binView sl) dq t (s.ssrc x sl sl.a) rc ps ws = (z, .ok (some l))) :
    runSlot f lat sl body s = retired s (z.ringAfter (s.binView sl) dq) sl lat (g l ++ scaOut x.trapMode sl.d 0 1) :=
  runSlot_done h (hbody.trans ((ringRun_atIssue h ho).trans ((if_neg (not_or.2 ⟨not_not.2 hvalid, not_not.2 hsize⟩)).trans
    ((if_neg hgo).trans (elementRun_done hel hans hdo)))))

end Slots

end Sys2Proof.Machine

open Sys2Proof Sys2Proof.Machine in
/-- Settles O35: the courses of an attempt on an open ring, with its element here or at a peer. -/
theorem ringResults : Obligations.RING_RESULTS := by
  intro s x sl t rc u u' z ps l i v a n held stop ws local_ begun paid hroom hquiet hat herr hfree
  refine ⟨fun h => ?enq, fun h => ?deq, fun dq p pa e d ht hplace hneed => ?peer⟩
  case enq =>
    have ho : RingOpen i v a t rc u := ⟨hroom, (cur_atIssue (sl := sl) h.group).symm ▸ hquiet, hat, herr, hfree⟩
    have hbody : enqBody sl i (x.cover sl) = ringRun sl false ws i (x.cover sl) fun _ => [] := by
      simp only [enqBody, ws, i, sreg_atIssue h.group, sreg_of_atIssue h.group]
      rfl
    refine ⟨runSlot_ringInvalid h ho hbody, fun hv hs hfull => ?full, fun hv hs hroom hel hans => ?room⟩
    case full => exact runSlot_ringFails (dq := false) h ho hbody hv hs ((full_iff rc).2 hfull)
    case room =>
      have hworks {y : State} {k : List Nat} := runSlot_ringWorks (lat := .var) (z := y) (l := k) h ho hbody hv hs
        (mt (full_iff rc).1 hroom) hel hans
      exact ⟨hworks, fun hl hw => hworks (ringDo_enq hl hw)⟩
  case deq =>
    have ho : RingOpen i v a t rc u := ⟨hroom, (cur_atIssue (sl := sl) h.group).symm ▸ hquiet, hat, herr, hfree⟩
    have hbody : deqBody sl i (x.cover sl) = ringRun sl true [] i (x.cover sl) fun l =>
        l.zipIdx.flatMap fun e => scaOut x.trapMode sl.b e.2 (BitVec.ofNat 64 e.1) := rfl
    refine ⟨runSlot_ringInvalid h ho hbody, fun hv hs hempty => ?empty, fun hv hs hne hel hans => ?element⟩
    case empty => exact runSlot_ringFails (dq := true) h ho hbody hv hs ((isEmpty_iff rc).2 hempty)
    case element =>
      have hworks {y : State} {k : List Nat} := runSlot_ringWorks (lat := .var) (z := y) (l := k) h ho hbody hv hs
        (mt (isEmpty_iff rc).1 hne) hel hans
      exact ⟨hworks, fun hl hr => hworks (ringDo_deq hl hr)⟩
  case peer =>
    subst ht
    exact ringDo_peer hplace hneed

end

section
/-! SUPPORT. Accesses whose addresses lie in the group's window (R191, R192, R197): they resolve to the bytes of the window, ask
nobody and charge nothing, so that the slot performs its action on the state at issue; and the values of loads by lane. -/

namespace Sys2Proof.Machine

/-! ### The words of lanes (R198) -/

section Lanes

variable {ls : List Nat} {m L j : Nat}

/-- The words of lanes, `m` of each: those of one lane stand together, in ascending order. -/
def laneWords (ls : List Nat) (m : Nat) : List (Nat × Nat) := ls ×ˢ List.range m

theorem laneWords_eq (ls : List Nat) (m : Nat) : laneWords ls m = ls.flatMap fun L => (List.range m).map (Prod.mk L) := rfl

theorem mem_laneWords {e : Nat × Nat} : e ∈ laneWords ls m ↔ e.1 ∈ ls ∧ e.2 < m := by
  obtain ⟨L, j⟩ := e
  rw [laneWords, List.mem_product, List.mem_range]

/-- The position of a word among all words gives its number in its lane. -/
theorem laneWords_index {k : Nat} (hk : m ∣ k) {e : (Nat × Nat) × Nat} (he : e ∈ (laneWords ls m).zipIdx k) :
    e.2 % m = e.1.2 := by
  induction ls generalizing k with
  | nil => cases he
  | cons M ls ih =>
    rw [laneWords, List.product_cons, List.zipIdx_append, List.mem_append] at he
    rcases he with he | he
    · obtain ⟨w, i⟩ := e
      obtain ⟨hlo, hhi, hw⟩ := List.mem_zipIdx he
      rw [List.length_map, List.length_range] at hhi
      rw [List.getElem_map, List.getElem_range] at hw
      obtain ⟨c, rfl⟩ := hk
      subst hw
      obtain ⟨d, rfl⟩ := Nat.exists_eq_add_of_le hlo
      dsimp only
      rw [Nat.mul_add_mod, Nat.add_sub_cancel_left, Nat.mod_eq_of_lt (by omega)]
    · exact ih (by simpa using hk) he

/-- Word `j` of lane `L` is found by its lane and its position. -/
theorem find_laneWord (hL : L ∈ ls) (hj : j < m) :
    ∃ i, (laneWords ls m).zipIdx.find? (fun e => decide (e.1.1 = L) && decide (e.2 % m = j)) = some ((L, j), i) := by
  obtain ⟨i, hi⟩ := List.getElem?_of_mem (mem_laneWords (e := (L, j)).2 ⟨hL, hj⟩)
  have hmem := List.mk_mem_zipIdx_iff_getElem?.2 hi
  have hsome : ((laneWords ls m).zipIdx.find? fun e => decide (e.1.1 = L) && decide (e.2 % m = j)).isSome = true :=
    List.find?_isSome.2 ⟨_, hmem, by simp [laneWords_index (dvd_zero m) hmem]⟩
  obtain ⟨⟨⟨M, k⟩, i'⟩, hfind⟩ := Option.isSome_iff_exists.1 hsome
  have hidx := laneWords_index (dvd_zero m) (List.mem_of_find?_eq_some hfind)
  have hcond := List.find?_some hfind
  simp only [Bool.and_eq_true, decide_eq_true_eq] at hcond hidx
  obtain ⟨rfl, rfl⟩ := hcond
  exact ⟨i', by rw [hfind, hidx]⟩

/-- A function of the words and their numbers, over all positions, is that function over the words. -/
theorem map_zipIdx_laneWords {α β : Type} (P : Nat × Nat → α) (F : Nat → α → β) :
    (((laneWords ls m).map P).zipIdx.map fun e => F (e.2 % m) e.1) = (laneWords ls m).map fun e => F e.2 (P e) := by
  rw [List.zipIdx_map, List.map_map]
  conv_rhs => rw [← List.zipIdx_map_fst 0 (laneWords ls m), List.map_map]
  refine List.map_congr_left fun e he => ?_
  exact congrArg (F · (P e.1)) (laneWords_index (dvd_zero m) he)

theorem foldl_laneWords {α : Type} (f : α → Nat × Nat → α) (a : α) :
    (laneWords ls m).foldl f a = ls.foldl (fun a L => (List.range m).foldl (fun a j => f a (L, j)) a) a := by
  rw [laneWords_eq, List.foldl_flatMap]
  simp only [List.foldl_map]

theorem mem_lanesOf {c : Mask} : L ∈ lanesOf c ↔ L < 32 ∧ c.getLsbD L = true := by
  rw [lanesOf, List.mem_filter, List.mem_range]

theorem lanesOf_ascending (c : Mask) : (lanesOf c).Pairwise (· < ·) := List.pairwise_lt_range.filter _

theorem laneAddrs_eq (s : State) (x : Group) (sl : Slot) (n : Nat) :
    s.laneAddrs x sl n = (laneWords (lanesOf (x.sel sl)) n).map fun e =>
      (e.1, lane (s.vsrc x sl 64 sl.a) e.1 + immW sl + BitVec.ofNat 64 (8 * e.2)) := by
  rw [laneWords_eq, List.map_flatMap]
  simp only [List.map_map]
  rfl

theorem blockAddrs_eq (s : State) (x : Group) (sl : Slot) :
    s.blockAddrs x sl = (laneWords (lanesOf (x.sel sl)) 1).map fun e => (e.1, s.scaAddr x sl + BitVec.ofNat 64 (8 * e.1)) := by
  rw [laneWords_eq, List.map_flatMap, State.blockAddrs, List.map_eq_flatMap]
  rfl

end Lanes

/-! ### The accesses (R191 to R193) -/

section Accesses

variable {s : State} {x : Group} {v : View} {sl : Slot} {a : Word} {n kind words : Nat} {hub wr : Bool} {ask : Ask}
  {addrs : List (Nat × Word)} {report : Nat × Word → Word}

/-- An access of a lane to a byte of the window, with the address that a trap of it reports. -/
def windowPiece (x : Group) (report : Nat × Word → Word) (p : Nat × Word) : Piece :=
  { lane := p.1, addr := report p, tgt := .win (windowLoc x p.2) }

theorem spaceOf_eq (a : Word) : spaceOf a = (a.extractLsb' 60 4).toNat := bits_eq_extract a rfl

/-- The window allows every access but those of bins and transfers (Table 8.1). -/
theorem spaceReason_window (hk : kind ≤ 3) : spaceReason 1 kind = none := by
  interval_cases kind <;> rfl

theorem resolve_window (hv : v.wg = x.wg) (hk : kind ≤ 3) (h : inWindow s x a n) :
    s.resolve v a n n kind wr = (s, .ok (.win (windowLoc x a))) := by
  obtain ⟨hspace, halign, hin⟩ := h
  have hsp : spaceOf a = 1 := by rw [spaceOf_eq, hspace]; rfl
  have hoff : bits a 59 0 = (a.extractLsb' 0 60).toNat := bits_eq_extract a rfl
  simp only [State.resolve, hsp, halign, spaceReason_window hk, hoff, hv, hin, if_true, windowLoc]
  simp

theorem resolveAll_window (hv : v.wg = x.wg) (hk : kind ≤ 3) (h : ∀ p ∈ addrs, inWindow s x p.2 n) :
    s.resolveAll v n n kind wr addrs = (s, .ok (addrs.map (windowPiece x Prod.snd))) := by
  induction addrs with
  | nil => rfl
  | cons p addrs ih =>
    rw [State.resolveAll, resolve_window hv hk (h p (List.mem_cons_self ..))]
    dsimp only
    rw [ih fun q hq => h q (List.mem_cons_of_mem _ hq)]
    rfl

theorem told_window (i : Nat) :
    s.told v sl n kind words ask i (addrs.map (windowPiece x report)) = (s, addrs.map (windowPiece x report)) := by
  induction addrs generalizing i with
  | nil => rfl
  | cons p addrs ih =>
    rw [List.map_cons, State.told]
    simp only [windowPiece] at ih ⊢
    rw [ih]

theorem askPeers_window (i : Nat) : s.askPeers v ask i (addrs.map (windowPiece x report)) = s := by
  induction addrs generalizing i with
  | nil => rfl
  | cons p addrs ih => exact ih (i + 1)

theorem lanePieces_window :
    ∃ report', lanePieces words (addrs.map (windowPiece x report)) = addrs.map (windowPiece x report') := by
  unfold lanePieces
  split
  · exact ⟨report, rfl⟩
  · refine ⟨fun p => (((addrs.map (windowPiece x report)).filter fun q =>
      decide (q.lane = p.1)).head?.map Piece.addr).getD (report p), ?_⟩
    rw [List.map_map]
    refine List.map_congr_left fun p _ => ?_
    have hgood : addrs.find? (fun _ => false) = none := List.find?_eq_none.2 fun _ _ => Bool.false_ne_true
    simp [windowPiece, List.find?_filter, List.find?_map, Function.comp_def, hgood]
    rfl

theorem requests_window : s.requests v hub wr (addrs.map (windowPiece x report)) = [] := by
  unfold State.requests
  induction addrs with
  | nil => rfl
  | cons p addrs ih => exact ih

theorem account_window : s.account v hub wr (addrs.map (windowPiece x report)) = s := by
  simp [State.account, requests_window]

theorem firstErr_window : firstErr (addrs.map (windowPiece x report)) = none := by
  induction addrs with
  | nil => rfl
  | cons p addrs ih => exact ih

theorem egressLow_window (h : a.extractLsb' 60 4 = 1) : s.egressLow v a = false := by
  simp [State.egressLow, spaceOf_eq, h]

/-- An unordered access whose addresses all lie in the window is performed on the state as it is. -/
theorem accessAt_window (hv : v.wg = x.wg) (hmd : sl.md = 0) (hk : kind ≤ 3) (hquiet : 2 ≤ kind → s.peerQuiet s.cur = true)
    (h : ∀ p ∈ addrs, inWindow s x p.2 n) :
    ∃ report, AccessAt s v sl n kind hub words ask addrs (addrs.map (windowPiece x report)) s := by
  obtain ⟨report, hreport⟩ := lanePieces_window (x := x) (words := words) (addrs := addrs) (report := Prod.snd)
  have hway : addrs.map (windowPiece x Prod.snd) = (addrs.map (windowPiece x Prod.snd)).map (s.orWay sl kind) := by
    rw [List.map_map]
    rfl
  have hord : s.ordBefore v sl = s := by simp [State.ordBefore, ordRel, hmd]
  refine ⟨report, ?_, ?_, ⟨s, addrs.map (windowPiece x Prod.snd), resolveAll_window hv hk h, ?_⟩, firstErr_window⟩
  · rw [List.any_eq_false]
    intro p hp
    simp [egressLow_window (h p hp).1]
  · rintro (hne | hsync)
    · exact absurd (by rw [hmd]; rfl) hne
    · exact hquiet hsync
  · dsimp only
    rw [← hway, told_window, hreport, hord, account_window, askPeers_window, ite_self]
    exact ⟨rfl, rfl⟩

end Accesses

/-! ### The slot -/

section Slots

variable {s : State} {fm : Form} {x : Group} {sl : Slot} {a : Word} {n kind words : Nat} {hub : Bool} {ask : Ask}
  {addrs : List (Nat × Word)}

theorem inWindow_atIssue (hg : s.grp? s.cur = some x) : inWindow (s.atIssue sl) x a n ↔ inWindow s x a n := by
  rw [inWindow, wgD_atIssue hg, inWindow]

theorem viewOf_wg_atIssue (hg : s.grp? s.cur = some x) : ((s.atIssue sl).viewOf s.cur).wg = x.wg := by
  rw [State.viewOf, grpD_atIssue hg]
  rfl

/-- A slot that is an unordered access to the window completes with its action on the state at issue. -/
theorem runSlot_window (h : Issues s fm sl x) (hmd : sl.md = 0) (lat : Machine.Lat) {body : State → Group → Effect}
    {f : State → View → List Piece → State × List RegWrite}
    (hb : body (s.atIssue sl) (x.cover sl) = accessRun sl n kind hub addrs (s.atIssue sl) (x.cover sl) ask f words)
    (hk : kind ≤ 3) (hquiet : 2 ≤ kind → (s.atIssue sl).peerQuiet s.cur = true) (hin : ∀ p ∈ addrs, inWindow s x p.2 n) :
    ∃ report,
      let q := f (s.atIssue sl) ((s.atIssue sl).viewOf s.cur) (addrs.map (windowPiece x report))
      runSlot fm lat sl body s = retired s q.1 sl lat q.2 := by
  obtain ⟨report, ha⟩ := accessAt_window (v := (s.atIssue sl).viewOf s.cur) (hub := hub) (words := words) (ask := ask)
    (viewOf_wg_atIssue h.group) hmd hk (by rwa [cur_atIssue h.group])
    fun p hp => (inWindow_atIssue (sl := sl) h.group).2 (hin p hp)
  have hx := runSlot_access h lat hb ha
  have hacq : ordAcq sl = false := by simp [ordAcq, hmd]
  simp only [State.ordAfter, hacq] at hx
  exact ⟨report, hx⟩

end Slots

/-! ### Reads and writes of the window -/

section Actions

variable {s t : State} {x : Group} {v : View} {sl : Slot} {n m L j : Nat} {hub : Bool} {ls : List Nat}
  {addrs : List (Nat × Word)} {report : Nat × Word → Word}

theorem readAll_window :
    s.readAll v n hub (addrs.map (windowPiece x report)) = (s, addrs.map fun p => s.rd (windowLoc x p.2) n) := by
  induction addrs with
  | nil => rfl
  | cons p addrs ih =>
    rw [List.map_cons, State.readAll]
    simp only [windowPiece, State.readT] at ih ⊢
    rw [ih]
    rfl

theorem writeAll_window {ι : Type} (kind : Nat) (A : ι → Nat × Word) (X : ι → Nat) (es : List ι) :
    s.writeAll v n kind hub (es.map fun e => (windowPiece x report (A e), X e))
      = es.foldl (fun t e => t.wr (windowLoc x (A e).2) n (X e)) s := by
  induction es generalizing s with
  | nil => rfl
  | cons e es ih => exact ih

theorem okLanes_window (y : Group) : okLanes y sl (addrs.map (windowPiece x report)) = y.sel sl := by
  have hgood : addrs.any (fun _ => false) = false := List.any_eq_false.2 fun _ _ => Bool.false_ne_true
  have hnone : errLanes (addrs.map (windowPiece x report)) = maskOf fun _ => false := by
    simp [errLanes, windowPiece, List.any_map, Function.comp_def, hgood]
  have hzero : (maskOf fun _ => false) = 0 := by decide
  rw [okLanes, hnone, hzero]
  exact BitVec.and_allOnes

/-- A lane of a load's result is the value of its own word. -/
theorem lane_pieceVec {A : Nat × Nat → Nat × Word} (hA : ∀ e, (A e).1 = e.1) (X : Nat × Word → Nat) (g : Nat → Word)
    (hL : L ∈ ls) (hL32 : L < 32) (hj : j < m) :
    lane (pieceVec (((laneWords ls m).map A).map (windowPiece x report)) (((laneWords ls m).map A).map X) m j g) L
      = g (X (A (L, j))) := by
  obtain ⟨i, hi⟩ := find_laneWord hL hj
  rw [pieceVec, lane_vecOf _ _ hL32, List.map_map, List.map_map, List.zip_map', List.zipIdx_map, List.find?_map]
  have hfun : ((fun e : (Piece × Nat) × Nat => decide (e.1.1.lane = L) && decide (e.2 % m = j)) ∘
      Prod.map (fun e => ((windowPiece x report ∘ A) e, (X ∘ A) e)) id)
      = fun e : (Nat × Nat) × Nat => decide (e.1.1 = L) && decide (e.2 % m = j) := by
    funext e
    simp [windowPiece, hA]
  rw [hfun, hi]
  rfl

/-- A store of the lanes' words writes them lane by lane, word by word. -/
theorem storeAll_window {A : Nat × Nat → Nat × Word} (hA : ∀ e, (A e).1 = e.1) (G : Nat → Nat → Nat) :
    storeAll sl n (fun i p => G p.lane (i % m)) s v (((laneWords ls m).map A).map (windowPiece x report))
      = (ls.foldl (fun t L => (List.range m).foldl (fun t j => t.wr (windowLoc x (A (L, j)).2) n (G L j)) t) s, []) := by
  have hpairs := map_zipIdx_laneWords (ls := ls) (m := m) (windowPiece x report ∘ A) fun j p => (p, G p.lane j)
  have hvals : ((laneWords ls m).map fun e => ((windowPiece x report ∘ A) e, G ((windowPiece x report ∘ A) e).lane e.2))
      = (laneWords ls m).map fun e => (windowPiece x report (A e), G e.1 e.2) :=
    List.map_congr_left fun e _ => by rw [Function.comp_apply, windowPiece, hA]
  rw [storeAll, List.map_map, hpairs, hvals, writeAll_window, foldl_laneWords]

theorem rd_of_mem (h : t.mem = s.mem) (l n : Nat) : t.rd l n = s.rd l n := by
  have hbytes : t.rdBytes l n = s.rdBytes l n := by
    induction n generalizing l with
    | zero => rfl
    | succ n ih => rw [State.rdBytes, State.rdBytes, ih, State.rdByte, State.rdByte, h]
  rw [State.rd, State.rd, hbytes]

theorem rd_atIssue (hg : s.grp? s.cur = some x) (l n : Nat) : (s.atIssue sl).rd l n = s.rd l n :=
  rd_of_mem (by rw [atIssue_eq hg]) l n

theorem ofBytes_lt (bs : List Byte) : ofBytes bs < 2 ^ (8 * bs.length) := by
  induction bs with
  | nil => exact Nat.one_pos
  | cons b bs ih =>
    have hsplit : 2 ^ (8 * (bs.length + 1)) = 256 * 2 ^ (8 * bs.length) := by rw [Nat.mul_succ, Nat.pow_add]; omega
    rw [List.length_cons, hsplit, ofBytes]
    have hb := b.isLt
    omega

theorem rd_lt (s : State) (l n : Nat) : s.rd l n < 2 ^ (8 * n) := by
  have hlen : (s.rdBytes l n).length = n := by
    induction n generalizing l with
    | zero => rfl
    | succ n ih => rw [State.rdBytes, List.length_cons, ih]
  have h := ofBytes_lt (s.rdBytes l n)
  rwa [hlen] at h

/-- A value of the type, as many bytes as it has, is extended by its signedness. -/
theorem ext64_rd (s : State) (sl : Slot) (l : Nat) :
    ext64 (tyW sl) (tyS sl) (s.rd l (tyW sl / 8)) = widen sl (BitVec.ofNat (tyW sl) (s.rd l (tyW sl / 8))) := by
  have hlt : s.rd l (tyW sl / 8) < 2 ^ tyW sl :=
    (rd_lt s l _).trans_le (Nat.pow_le_pow_right Nat.two_pos (Nat.mul_div_le _ _))
  rw [← ext64_eq_widen sl _ (tyW_bounds sl).2, BitVec.toNat_ofNat, Nat.mod_eq_of_lt hlt]

end Actions

end Sys2Proof.Machine
end

section
/-! SUPPORT and O27. Unordered loads and stores of the window (R191, R192, R197, R198). -/

namespace Sys2Proof.Machine

variable {s : State} {fm : Form} {x : Group} {sl : Slot} {a : Word} {n m words : Nat} {hub : Bool} {ask : Ask}
  {A : Nat × Nat → Nat × Word} {body : State → Group → Effect}

/-! ### The addresses (R198) -/

/-- Word `e.2` of lane `e.1` of a per-lane access, with its address. -/
def laneWordAt (s : State) (x : Group) (sl : Slot) (e : Nat × Nat) : Nat × Word :=
  (e.1, lane (s.vsrc x sl 64 sl.a) e.1 + sl.imm.signExtend 64 + BitVec.ofNat 64 (8 * e.2))

/-- The word of a lane of LDB and STB, with its address. -/
def blockWordAt (s : State) (x : Group) (sl : Slot) (e : Nat × Nat) : Nat × Word :=
  (e.1, s.ssrc x sl sl.a + sl.imm.signExtend 64 + BitVec.ofNat 64 (8 * e.1))

theorem laneWordAt_zero (s : State) (x : Group) (sl : Slot) (L : Nat) :
    (laneWordAt s x sl (L, 0)).2 = lane (s.vsrc x sl 64 sl.a) L + sl.imm.signExtend 64 := BitVec.add_zero _

theorem laneAddrs_atIssue (hg : s.grp? s.cur = some x) (n : Nat) :
    (s.atIssue sl).laneAddrs (x.cover sl) sl n = (laneWords (lanesOf (x.sel sl)) n).map (laneWordAt s x sl) := by
  rw [laneAddrs_eq, vsrc_atIssue hg]
  rfl

theorem blockAddrs_atIssue (hg : s.grp? s.cur = some x) :
    (s.atIssue sl).blockAddrs (x.cover sl) sl = (laneWords (lanesOf (x.sel sl)) 1).map (blockWordAt s x sl) := by
  rw [blockAddrs_eq, scaAddr_atIssue hg]
  rfl

/-- What holds of every word of every selected lane holds of every address of the access. -/
theorem forall_laneWords {P : Word → Prop} (h : ∀ L j, L < 32 ∧ (x.sel sl).getLsbD L = true → j < m → P (A (L, j)).2) :
    ∀ p ∈ (laneWords (lanesOf (x.sel sl)) m).map A, P p.2 := by
  intro p hp
  obtain ⟨⟨L, j⟩, he, rfl⟩ := List.mem_map.1 hp
  obtain ⟨hL, hj⟩ := mem_laneWords.1 he
  exact h L j (mem_lanesOf.1 hL) hj

/-! ### Loads and stores -/

section Slots

variable (h : Issues s fm sl x) (hmd : sl.md = 0)
include h hmd

/-- A load of words of the window: its action reads them on the state at issue. -/
theorem runSlot_windowLoad (hA : ∀ e, (A e).1 = e.1) {g : Nat → Word} {out : Mask → (Nat → Vec) → List RegWrite}
    (hb : body (s.atIssue sl) (x.cover sl) = accessRun sl n 0 hub ((laneWords (lanesOf (x.sel sl)) m).map A) (s.atIssue sl)
      (x.cover sl) ask (words := words) fun t v ps =>
        ((t.readAll v n hub ps).1, out (okLanes (x.cover sl) sl ps) fun j => pieceVec ps (t.readAll v n hub ps).2 m j g))
    (hin : ∀ L j, L < 32 ∧ (x.sel sl).getLsbD L = true → j < m → inWindow s x (A (L, j)).2 n) :
    ∃ V : Nat → Vec, runSlot fm .var sl body s = writes s sl .var (out (x.sel sl) V)
      ∧ ∀ L j, L < 32 ∧ (x.sel sl).getLsbD L = true → j < m → lane (V j) L = g (s.rd (windowLoc x (A (L, j)).2) n) := by
  obtain ⟨report, hx⟩ := runSlot_window h hmd .var hb (by decide) (fun hsync => absurd hsync (by decide))
    (forall_laneWords (P := fun a => inWindow s x a n) hin)
  simp only [readAll_window, okLanes_window] at hx
  refine ⟨_, hx, fun L j hL hj => ?_⟩
  rw [lane_pieceVec hA _ g (mem_lanesOf.2 hL) hL.1 hj, rd_atIssue h.group]

/-- A load of one word of each lane, whose value goes to D. -/
theorem runSlot_windowLoadOne (hA : ∀ e, (A e).1 = e.1) {g : Nat → Word}
    (hb : body (s.atIssue sl) (x.cover sl) = accessRun sl n 0 hub ((laneWords (lanesOf (x.sel sl)) 1).map A) (s.atIssue sl)
      (x.cover sl) ask (words := words) fun t v ps => ((t.readAll v n hub ps).1,
        vecOut x.trapMode sl.d 0 (okLanes (x.cover sl) sl ps) (pieceVec ps (t.readAll v n hub ps).2 1 0 g)))
    (hin : ∀ L, L < 32 ∧ (x.sel sl).getLsbD L = true → inWindow s x (A (L, 0)).2 n) :
    ∃ V, runSlot fm .var sl body s = writes s sl .var (vecOut x.trapMode sl.d 0 (x.sel sl) V)
      ∧ ∀ L, L < 32 ∧ (x.sel sl).getLsbD L = true → lane V L = g (s.rd (windowLoc x (A (L, 0)).2) n) := by
  obtain ⟨V, hx, hV⟩ := runSlot_windowLoad (out := fun c V => vecOut x.trapMode sl.d 0 c (V 0)) h hmd hA hb fun L j hL hj => by
    obtain rfl := Nat.lt_one_iff.1 hj
    exact hin L hL
  exact ⟨V 0, hx, fun L hL => hV L 0 hL Nat.one_pos⟩

/-- A store of words of the window writes them on the state at issue, lane by lane and word by word. -/
theorem runSlot_windowStore (hA : ∀ e, (A e).1 = e.1) (G : Nat → Nat → Nat)
    (hb : body (s.atIssue sl) (x.cover sl) = accessRun sl n 1 hub ((laneWords (lanesOf (x.sel sl)) m).map A) (s.atIssue sl)
      (x.cover sl) ask (words := words) (storeAll sl n fun i p => G p.lane (i % m)))
    (hin : ∀ L j, L < 32 ∧ (x.sel sl).getLsbD L = true → j < m → inWindow s x (A (L, j)).2 n) :
    runSlot fm .none sl body s = retired s ((lanesOf (x.sel sl)).foldl (fun t L =>
      (List.range m).foldl (fun t j => t.wr (windowLoc x (A (L, j)).2) n (G L j)) t) (s.atIssue sl)) sl .none [] := by
  obtain ⟨report, hx⟩ := runSlot_window h hmd .none hb (by decide) (fun hsync => absurd hsync (by decide))
    (forall_laneWords (P := fun a => inWindow s x a n) hin)
  rwa [storeAll_window hA] at hx

/-- A store of one word of each lane. -/
theorem runSlot_windowStoreOne (hA : ∀ e, (A e).1 = e.1) (G : Nat → Nat)
    (hb : body (s.atIssue sl) (x.cover sl) = accessRun sl n 1 hub ((laneWords (lanesOf (x.sel sl)) 1).map A) (s.atIssue sl)
      (x.cover sl) ask (words := words) (storeAll sl n fun _ p => G p.lane))
    (hin : ∀ L, L < 32 ∧ (x.sel sl).getLsbD L = true → inWindow s x (A (L, 0)).2 n) :
    runSlot fm .none sl body s = retired s ((lanesOf (x.sel sl)).foldl (fun t L =>
      t.wr (windowLoc x (A (L, 0)).2) n (G L)) (s.atIssue sl)) sl .none [] := by
  have hx := runSlot_windowStore (G := fun L _ => G L) h hmd hA hb fun L j hL hj => by
    obtain rfl := Nat.lt_one_iff.1 hj
    exact hin L hL
  simpa only [List.range_one, List.foldl_cons, List.foldl_nil] using hx

/-- A load of one word of the window by the group. -/
theorem runSlot_windowScalarLoad {ws : Nat → List RegWrite}
    (hb : body (s.atIssue sl) (x.cover sl) = accessRun sl n 0 hub [(0, a)] (s.atIssue sl) (x.cover sl) ask
      (words := words) fun t v ps => ((t.readAll v n hub ps).1,
        if (firstErr ps).isSome then [] else ws ((t.readAll v n hub ps).2.headD 0)))
    (hin : inWindow s x a n) :
    runSlot fm .var sl body s = writes s sl .var (ws (s.rd (windowLoc x a) n)) := by
  obtain ⟨report, hx⟩ := runSlot_window h hmd .var hb (by decide) (fun hsync => absurd hsync (by decide))
    (List.forall_mem_singleton.2 hin)
  simp only [readAll_window, firstErr_window, rd_atIssue h.group] at hx
  exact hx

/-- A store of one word of the window by the group. -/
theorem runSlot_windowScalarStore (b : Nat)
    (hb : body (s.atIssue sl) (x.cover sl) = accessRun sl n 1 hub [(0, a)] (s.atIssue sl) (x.cover sl) ask
      (words := words) (storeAll sl n fun _ _ => b))
    (hin : inWindow s x a n) :
    runSlot fm .none sl body s = retired s ((s.atIssue sl).wr (windowLoc x a) n b) sl .none [] := by
  obtain ⟨report, hx⟩ := runSlot_window h hmd .none hb (by decide) (fun hsync => absurd hsync (by decide))
    (List.forall_mem_singleton.2 hin)
  exact hx

end Slots

end Sys2Proof.Machine

open Sys2Proof Sys2Proof.Machine in
/-- Settles O27: an access whose addresses all lie in the window resolves to the bytes there, asks no peer and charges nothing
(`runSlot_window`), so that loads read, and stores write, those bytes on the state at issue. -/
theorem scratchpadLoadsAndStores : Obligations.SCRATCHPAD_LOADS_AND_STORES := by
  unfold Obligations.SCRATCHPAD_LOADS_AND_STORES
  intro s x sl w n i addr sAddr block word m selected hmd
  refine ⟨fun h hin => ?_, fun h hin => ?_, fun h hin => ?_, fun h hin => ?_, fun h hin => ?_, fun h hin => ?_, fun h hin => ?_,
    fun h hin => ?_⟩
  · obtain ⟨V, hx, hV⟩ := runSlot_windowLoadOne (A := laneWordAt s x sl) (body := ldBody sl) h hmd (fun _ => rfl)
      (by rw [ldBody, laneAddrs_atIssue h.group]; rfl) fun L hL => by simpa only [laneWordAt_zero] using hin L hL
    refine ⟨V, hx, fun L hL => ?_⟩
    rw [hV L hL, laneWordAt_zero]
    exact ext64_rd s sl _
  · exact runSlot_windowLoad (A := laneWordAt s x sl) (body := ldxBody sl)
      (out := fun c V => (List.range m).flatMap fun j => vecOut x.trapMode sl.d j c (V j)) h hmd (fun _ => rfl)
      (by rw [ldxBody, laneAddrs_atIssue h.group]; rfl) hin
  · exact runSlot_windowStore (A := laneWordAt s x sl) (body := stxBody sl) h hmd (fun _ => rfl)
      (fun L j => (lane (s.vreg x sl.b j) L).toNat)
      (by simp only [stxBody, laneAddrs_atIssue h.group, vreg_atIssue h.group]; rfl) hin
  · rw [← ext64_rd]
    exact runSlot_windowScalarLoad (body := ldsBody sl) (ws := fun r => scaOut x.trapMode sl.d 0 (ext64 w (tyS sl) r)) h hmd
      (by rw [ldsBody, scaAddr_atIssue h.group]; rfl) hin
  · exact runSlot_windowLoadOne (A := blockWordAt s x sl) (body := ldbBody sl) h hmd (fun _ => rfl)
      (by rw [ldbBody, blockAddrs_atIssue h.group]; rfl) hin
  · have hx := runSlot_windowStoreOne (A := laneWordAt s x sl) (body := stBody sl) h hmd (fun _ => rfl)
      (fun L => (lane (s.vsrc x sl w sl.b) L).toNat % 2 ^ w)
      (by simp only [stBody, laneAddrs_atIssue h.group, vsrc_atIssue h.group]; rfl)
      fun L hL => by simpa only [laneWordAt_zero] using hin L hL
    simp only [laneWordAt_zero] at hx
    exact hx
  · exact runSlot_windowScalarStore (body := stsBody sl) h hmd ((s.ssrc x sl sl.b).toNat % 2 ^ w)
      (by rw [stsBody, scaAddr_atIssue h.group, ssrc_atIssue h.group]) hin
  · exact runSlot_windowStoreOne (A := blockWordAt s x sl) (body := stbBody sl) h hmd (fun _ => rfl)
      (fun L => (lane (s.vsrc x sl 64 sl.b) L).toNat)
      (by simp only [stbBody, blockAddrs_atIssue h.group, vsrc_atIssue h.group]; rfl) hin
end

section
/-! SUPPORT and O28. Integer atomics and reductions on the window (R200 to R203). -/

namespace Sys2Proof.Machine

/-! ### The operations (Table 8.6) -/

section Operations

variable {sl : Slot}

theorem atomFmt_of_tyI (h : tyI sl = true) : atomFmt sl = .int (tyW sl) (tyS sl) := by
  rw [atomFmt, intTy_of_tyI h]
  rfl

theorem tyW_bytes (hi : tyI sl = true) (h8 : 8 ≤ tyW sl) : 8 * (tyW sl / 8) = tyW sl := by
  unfold tyI intTy at hi
  unfold tyW intTy at h8 ⊢
  split at hi <;> simp_all

theorem atomPick_int (sl : Slot) {w : Nat} (satf greater : Bool) (a b : BitVec w) :
    atomPick (.int w (tyS sl)) satf greater a.toNat b.toNat
      = (if (if greater then typedInt sl a < typedInt sl b else typedInt sl b < typedInt sl a) then b else a).toNat := by
  rw [apply_ite BitVec.toNat]
  simp only [atomPick, rd_eq_typedInt]
  cases greater <;> simp

theorem toNat_succ_of_lt {w : Nat} {a b : BitVec w} (h : a.toNat < b.toNat) : (a + 1).toNat = a.toNat + 1 := by
  have hb := b.isLt
  have hone : (1 : BitVec w).toNat = 1 := BitVec.toNat_one (Nat.pos_of_ne_zero fun h0 => by subst h0; omega)
  rw [BitVec.toNat_add, hone, Nat.mod_eq_of_lt (by omega)]

theorem toNat_pred_of_ne {w : Nat} {a : BitVec w} (h : a ≠ 0) : (a - 1).toNat = a.toNat - 1 := by
  have ha := a.isLt
  have hpos : a.toNat ≠ 0 := fun h0 => h (BitVec.eq_of_toNat_eq h0)
  have hone : (1 : BitVec w).toNat = 1 := BitVec.toNat_one (Nat.pos_of_ne_zero fun h0 => by subst h0; omega)
  have hsum : 2 ^ w - 1 + a.toNat = 2 ^ w + (a.toNat - 1) := by omega
  rw [BitVec.toNat_sub, hone, hsum, Nat.add_mod_left, Nat.mod_eq_of_lt (by omega)]

/-- The model's operation on the numbers of integer patterns is that on the patterns. -/
theorem atomNew_int (sl : Slot) {w : Nat} (satf : Bool) (old b c : BitVec w) {k : Nat} (hk : subN sl = 7 → k = c.toNat) :
    atomNew (subN sl) (.int w (tyS sl)) satf old.toNat b.toNat k = (atomInt sl old b c).toNat := by
  unfold atomNew atomInt
  unfold subN at hk ⊢
  generalize sl.sub.toNat = op at hk ⊢
  match op with
  | 0 => rfl
  | 1 => exact atomPick_int sl satf false old b
  | 2 => exact atomPick_int sl satf true old b
  | 3 => exact (BitVec.toNat_and ..).symm
  | 4 => exact (BitVec.toNat_or ..).symm
  | 5 => exact (BitVec.toNat_xor ..).symm
  | 6 => exact Nat.mod_eq_of_lt b.isLt
  | 7 =>
    change (if old.toNat = b.toNat then k else old.toNat) = (if old = b then c else old).toNat
    rw [hk rfl, apply_ite BitVec.toNat]
    simp only [BitVec.toNat_inj]
  | 8 =>
    change (if b.toNat ≤ old.toNat then 0 else old.toNat + 1) = (if b.toNat ≤ old.toNat then 0 else old + 1).toNat
    rw [apply_ite BitVec.toNat]
    refine if_ctx_congr Iff.rfl (fun _ => rfl) fun h => ?_
    exact (toNat_succ_of_lt (Nat.lt_of_not_le h)).symm
  | op + 9 =>
    change (if old.toNat = 0 ∨ b.toNat < old.toNat then b.toNat else old.toNat - 1)
      = (if old = 0 ∨ b.toNat < old.toNat then b else old - 1).toNat
    rw [apply_ite BitVec.toNat]
    have hzero : old.toNat = 0 ↔ old = 0 := by rw [← BitVec.toNat_inj]; rfl
    refine if_ctx_congr (or_congr hzero Iff.rfl) (fun _ => rfl) fun h => ?_
    exact (toNat_pred_of_ne fun h0 => h (.inl h0)).symm

end Operations

/-! ### The lanes, one after another -/

section Lanes

variable {s t : State} {x : Group} {v : View} {n : Nat} {hub : Bool} {ls : List Nat} {report : Nat × Word → Word}
  {A : Nat × Nat → Nat × Word} {f : Nat → Nat → Nat}

/-- What a lane's atomic does to the window: it replaces the bytes at its address by `f` of the lane and of what they hold. -/
def rmwLane (x : Group) (A : Nat × Nat → Nat × Word) (n : Nat) (f : Nat → Nat → Nat) (t : State) (L : Nat) : State :=
  t.wr (windowLoc x (A (L, 0)).2) n (f L (t.rd (windowLoc x (A (L, 0)).2) n))

/-- What a lane's atomic finds: the bytes at its address once the lanes below it have acted. -/
def rmwOld (s : State) (x : Group) (A : Nat × Nat → Nat × Word) (n : Nat) (f : Nat → Nat → Nat) (ls : List Nat)
    (p : Nat × Word) : Nat :=
  ((ls.filter fun M => decide (M < p.1)).foldl (rmwLane x A n f) s).rd (windowLoc x p.2) n

theorem rmwAll_window (hA : ∀ e, (A e).1 = e.1) (hls : ls.Pairwise (· < ·)) :
    s.rmwAll v n hub f (((laneWords ls 1).map A).map (windowPiece x report))
      = (ls.foldl (rmwLane x A n f) s, ((laneWords ls 1).map A).map (rmwOld s x A n f ls)) := by
  induction ls generalizing s with
  | nil => rfl
  | cons M ls ih =>
    obtain ⟨hM, hls⟩ := List.pairwise_cons.1 hls
    have hfirst : rmwOld s x A n f (M :: ls) (A (M, 0)) = s.rd (windowLoc x (A (M, 0)).2) n := by
      have hnone : ((M :: ls).filter fun L => decide (L < (A (M, 0)).1)) = [] := by
        rw [List.filter_eq_nil_iff, hA]
        intro L hL hlt
        rcases List.mem_cons.1 hL with rfl | hL
        · exact absurd (of_decide_eq_true hlt) (lt_irrefl _)
        · exact absurd (of_decide_eq_true hlt) (hM L hL).not_gt
      rw [rmwOld, hnone]
      rfl
    have hrest : ((laneWords ls 1).map A).map (rmwOld s x A n f (M :: ls))
        = ((laneWords ls 1).map A).map (rmwOld (rmwLane x A n f s M) x A n f ls) := by
      refine List.map_congr_left fun p hp => ?_
      obtain ⟨e, he, rfl⟩ := List.mem_map.1 hp
      have hlt : M < (A e).1 := by rw [hA]; exact hM _ (mem_laneWords.1 he).1
      rw [rmwOld, List.filter_cons_of_pos (by simpa using hlt)]
      rfl
    have hcons : laneWords (M :: ls) 1 = (M, 0) :: laneWords ls 1 := by simp [laneWords]
    have hstep := ih (s := rmwLane x A n f s M) hls
    rw [hcons, List.map_cons, List.map_cons, List.map_cons, hfirst, hrest, State.rmwAll]
    simp only [windowPiece, State.readT, State.writeT, hA] at hstep ⊢
    unfold rmwLane at hstep ⊢
    rw [hstep]
    rfl

end Lanes

/-! ### The slots -/

/-- A reduction neither swaps nor compares and swaps (Table 8.6). -/
theorem subN_of_fRed {s : State} {x : Group} {sl : Slot} (h : Issues s (fRed sl) sl x) : subN sl ≠ 6 ∧ subN sl ≠ 7 := by
  have hsub : (fRed sl).sub = true := (decodeTrap_none h.decodes).1
  simp only [fRed, fMem, Bool.and_eq_true, decide_eq_true_eq] at hsub
  exact ⟨hsub.1.2, hsub.2⟩

section Slots

variable {s : State} {fm : Form} {x : Group} {sl : Slot} {a : Word} {n kind words : Nat} {hub : Bool} {ask : Ask}
  {A : Nat × Nat → Nat × Word} {f : Nat → Nat → Nat} {body : State → Group → Effect}

variable (h : Issues s fm sl x) (hmd : sl.md = 0) (hquiet : (s.atIssue sl).peerQuiet s.cur = true)
include h hmd hquiet

/-- An atomic of each lane: the lanes act one after another, and each finds what those below it left. -/
theorem runSlot_windowAtom (hA : ∀ e, (A e).1 = e.1) {g : Nat → Word}
    (hb : body (s.atIssue sl) (x.cover sl) = accessRun sl n 2 hub ((laneWords (lanesOf (x.sel sl)) 1).map A) (s.atIssue sl)
      (x.cover sl) ask (words := words) fun t v ps => ((t.rmwAll v n hub f ps).1,
        vecOut x.trapMode sl.d 0 (okLanes (x.cover sl) sl ps) (pieceVec ps (t.rmwAll v n hub f ps).2 1 0 g)))
    (hin : ∀ L, L < 32 ∧ (x.sel sl).getLsbD L = true → inWindow s x (A (L, 0)).2 n) :
    ∃ V, runSlot fm .var sl body s = retired s ((lanesOf (x.sel sl)).foldl (rmwLane x A n f) (s.atIssue sl)) sl .var
        (vecOut x.trapMode sl.d 0 (x.sel sl) V)
      ∧ ∀ L, L < 32 ∧ (x.sel sl).getLsbD L = true →
        lane V L = g (rmwOld (s.atIssue sl) x A n f (lanesOf (x.sel sl)) (A (L, 0))) := by
  obtain ⟨report, hx⟩ := runSlot_window h hmd .var hb (by decide) (fun _ => hquiet)
    (forall_laneWords (P := fun a => inWindow s x a n) fun L j hL hj => by
      obtain rfl := Nat.lt_one_iff.1 hj
      exact hin L hL)
  simp only [rmwAll_window hA (lanesOf_ascending _), okLanes_window] at hx
  exact ⟨_, hx, fun L hL => lane_pieceVec hA _ g (mem_lanesOf.2 hL) hL.1 Nat.one_pos⟩

/-- A reduction of each lane: the lanes act one after another. -/
theorem runSlot_windowRed (hA : ∀ e, (A e).1 = e.1)
    (hb : body (s.atIssue sl) (x.cover sl) = accessRun sl n 3 hub ((laneWords (lanesOf (x.sel sl)) 1).map A) (s.atIssue sl)
      (x.cover sl) ask (words := words) fun t v ps => ((t.rmwAll v n hub f ps).1, []))
    (hin : ∀ L, L < 32 ∧ (x.sel sl).getLsbD L = true → inWindow s x (A (L, 0)).2 n) :
    runSlot fm .none sl body s
      = retired s ((lanesOf (x.sel sl)).foldl (rmwLane x A n f) (s.atIssue sl)) sl .none [] := by
  obtain ⟨report, hx⟩ := runSlot_window h hmd .none hb (by decide) (fun _ => hquiet)
    (forall_laneWords (P := fun a => inWindow s x a n) fun L j hL hj => by
      obtain rfl := Nat.lt_one_iff.1 hj
      exact hin L hL)
  simpa only [rmwAll_window hA (lanesOf_ascending _)] using hx

/-- An atomic of the group on one place of the window. -/
theorem runSlot_windowScalarAtom {ws : Nat → List RegWrite} (g : Nat → Nat)
    (hb : body (s.atIssue sl) (x.cover sl) = accessRun sl n 2 hub [(0, a)] (s.atIssue sl) (x.cover sl) ask
      (words := words) fun t v ps => ((t.rmwAll v n hub (fun _ => g) ps).1,
        if (firstErr ps).isSome then [] else ws ((t.rmwAll v n hub (fun _ => g) ps).2.headD 0)))
    (hin : inWindow s x a n) :
    runSlot fm .var sl body s
      = retired s ((s.atIssue sl).wr (windowLoc x a) n (g (s.rd (windowLoc x a) n))) sl .var (ws (s.rd (windowLoc x a) n)) := by
  obtain ⟨report, hx⟩ := runSlot_window h hmd .var hb (by decide) (fun _ => hquiet) (List.forall_mem_singleton.2 hin)
  rw [← rd_atIssue (sl := sl) h.group]
  simp only [firstErr_window] at hx
  exact hx

end Slots

/-! ### The operations on the window -/

section IntegerAtomics

variable {sl : Slot} (ht : tyI sl = true) (h8 : 8 ≤ tyW sl)
include ht h8

theorem toNat_ofNat_rd (t : State) (l : Nat) : (BitVec.ofNat (tyW sl) (t.rd l (tyW sl / 8))).toNat = t.rd l (tyW sl / 8) := by
  have hlt := rd_lt t l (tyW sl / 8)
  rw [tyW_bytes ht h8] at hlt
  rw [BitVec.toNat_ofNat, Nat.mod_eq_of_lt hlt]

/-- The model's operation on what bytes of the window hold, as that on patterns. -/
theorem atomNew_rd (satf : Bool) (t : State) (l : Nat) (b c : Word) {k : Nat}
    (hk : subN sl = 7 → k = c.toNat % 2 ^ tyW sl) :
    atomNew (subN sl) (.int (tyW sl) (tyS sl)) satf (t.rd l (tyW sl / 8)) (b.toNat % 2 ^ tyW sl) k
      = (atomInt sl (BitVec.ofNat (tyW sl) (t.rd l (tyW sl / 8))) (b.setWidth (tyW sl)) (c.setWidth (tyW sl))).toNat := by
  rw [← atomNew_int sl satf _ _ _ (k := k) (by simpa using hk), toNat_ofNat_rd ht h8, BitVec.toNat_setWidth]

end IntegerAtomics

end Sys2Proof.Machine

open Sys2Proof Sys2Proof.Machine in
/-- Settles O28: the accesses resolve to the window's bytes, where each lane in turn replaces what it finds (`rmwAll_window`), by
the operation of Table 8.6 (`atomNew_int`). -/
theorem scratchpadAtomics : Obligations.SCRATCHPAD_ATOMICS := by
  unfold Obligations.SCRATCHPAD_ATOMICS
  intro s x sl w n i addr sAddr selected B C old act upTo ht h8 hmd hquiet
  have hall : upTo 32 = (lanesOf (x.sel sl)).foldl act i := by
    have hlow : (lanesOf (x.sel sl)).filter (fun M => decide (M < 32)) = lanesOf (x.sel sl) :=
      List.filter_eq_self.2 fun L hL => decide_eq_true (mem_lanesOf.1 hL).1
    change ((lanesOf (x.sel sl)).filter _).foldl act i = _
    rw [hlow]
  have hact : ∀ (satf : Bool) (c : Nat → Nat), (∀ L, subN sl = 7 → c L = (lane (s.vsrc x sl w sl.c) L).toNat % 2 ^ w) →
      rmwLane x (laneWordAt s x sl) n (fun L r => atomNew (subN sl) (.int w (tyS sl)) satf r
        ((lane (s.vsrc x sl w sl.b) L).toNat % 2 ^ w) (c L)) = act := by
    intro satf c hc
    funext t L
    rw [rmwLane, laneWordAt_zero, atomNew_rd ht h8 satf t _ _ _ (hc L)]
  refine ⟨fun h hin => ?_, fun h hin => ?_, fun h hsub hin => ?_⟩
  · intro b c
    have hx := runSlot_windowScalarAtom (body := atomsBody sl) (a := sAddr) (n := n)
      (ws := fun r => scaOut x.trapMode sl.d 0 (ext64 w (tyS sl) r)) h hmd hquiet
      (fun r => atomNew (subN sl) (.int w (tyS sl)) (x.fmt.getLsbD 40) r ((s.ssrc x sl sl.b).toNat % 2 ^ w)
        (if subN sl = 7 then (s.ssrc x sl sl.c).toNat % 2 ^ w else 0))
      (by simp only [atomsBody, scaAddr_atIssue h.group, ssrc_atIssue h.group, atomFmt_of_tyI ht]; rfl) hin
    rw [atomNew_rd ht h8 _ s _ _ (s.ssrc x sl sl.c) (fun h7 => if_pos h7), ext64_rd] at hx
    exact hx
  · obtain ⟨V, hx, hV⟩ := runSlot_windowAtom (A := laneWordAt s x sl) (n := n) (body := atomBody sl) h hmd hquiet
      (fun _ => rfl)
      (f := fun L r => atomNew (subN sl) (.int w (tyS sl)) (x.fmt.getLsbD 40) r ((lane (s.vsrc x sl w sl.b) L).toNat % 2 ^ w)
        ((lane (if subN sl = 7 then s.vsrc x sl w sl.c else Vec.zero) L).toNat % 2 ^ w))
      (by simp only [atomBody, laneAddrs_atIssue h.group, vsrc_atIssue h.group, atomFmt_of_tyI ht]; rfl)
      fun L hL => by simpa only [laneWordAt_zero] using hin L hL
    have hf := hact (x.fmt.getLsbD 40) (fun L => (lane (if subN sl = 7 then s.vsrc x sl w sl.c else Vec.zero) L).toNat % 2 ^ w)
      fun L h7 => by rw [if_pos h7]
    rw [hf] at hx
    rw [hall]
    refine ⟨V, hx, fun L hL => ?_⟩
    rw [hV L hL, rmwOld, hf, laneWordAt_zero]
    exact ext64_rd _ sl _
  · have hx := runSlot_windowRed (A := laneWordAt s x sl) (n := n) (body := redBody sl) h hmd hquiet (fun _ => rfl)
      (f := fun L r => atomNew (subN sl) (.int w (tyS sl)) (x.fmt.getLsbD 40) r ((lane (s.vsrc x sl w sl.b) L).toNat % 2 ^ w) 0)
      (by
        have hqadd : subN sl ≠ 10 := fun h10 => hsub ((subN_eq_iff (by decide)).1 h10)
        simp only [redBody, laneAddrs_atIssue h.group, vsrc_atIssue h.group, atomFmt_of_tyI ht, hqadd]
        rfl)
      fun L hL => by simpa only [laneWordAt_zero] using hin L hL
    rw [hact _ (fun _ => 0) fun L h7 => absurd h7 (subN_of_fRed h).2] at hx
    rw [hall]
    exact hx
end

section
/-! SUPPORT and O30. The first address that no space holds, or that lies beyond the window (R191 to R193, R195). -/

namespace Sys2Proof.Machine

variable {s : State} {fm : Form} {x : Group} {v : View} {sl : Slot} {a : Word} {n m words kind L j : Nat} {hub wr : Bool} {ask : Ask}
  {A : Nat × Nat → Nat × Word} {ls : List Nat} {pre post : List (Nat × Word)} {c : BitVec 8} {lat : Machine.Lat}
  {body : State → Group → Effect}

/-! ### The order of the words (R193, R198) -/

theorem laneWords_ascending (hls : ls.Pairwise (· < ·)) :
    (laneWords ls m).Pairwise fun e f => e.1 < f.1 ∨ (e.1 = f.1 ∧ e.2 < f.2) := by
  rw [laneWords_eq, List.pairwise_flatMap]
  refine ⟨fun M _ => List.pairwise_map.2 (List.pairwise_lt_range.imp fun h => .inr ⟨rfl, h⟩), hls.imp fun h e he f hf => ?_⟩
  obtain ⟨i, -, rfl⟩ := List.mem_map.1 he
  obtain ⟨k, -, rfl⟩ := List.mem_map.1 hf
  exact .inl h

/-- What stands before a word are the words of lower lanes, and the lower words of its lane. -/
theorem laneWords_split (hls : ls.Pairwise (· < ·)) (hL : L ∈ ls) (hj : j < m) :
    ∃ pre post, laneWords ls m = pre ++ (L, j) :: post
      ∧ ∀ e ∈ pre, (e.1 ∈ ls ∧ e.2 < m) ∧ (e.1 < L ∨ (e.1 = L ∧ e.2 < j)) := by
  obtain ⟨pre, post, heq⟩ := List.append_of_mem (mem_laneWords (e := (L, j)).2 ⟨hL, hj⟩)
  have hasc := laneWords_ascending (m := m) hls
  rw [heq, List.pairwise_append] at hasc
  refine ⟨pre, post, heq, fun e he => ⟨mem_laneWords.1 ?_, hasc.2.2 e he _ (List.mem_cons_self ..)⟩⟩
  rw [heq]
  exact List.mem_append_left _ he

/-! ### The checks of R193 -/

/-- The cause of an access of `n` bytes that is misaligned, in no space or past its end, or beyond the window. -/
def badCause (s : State) (x : Group) (n : Nat) (a : Word) : Option (BitVec 8) :=
  let space := (a.extractLsb' 60 4).toNat
  if a.toNat % n ≠ 0 ∨ (space = 4 ∧ n = 1) then some 11
  else if (space ≠ 0 ∧ space ≠ 1 ∧ space ≠ 3 ∧ space ≠ 4)
    ∨ ((space = 0 ∨ space = 4) ∧ a.extractLsb' 52 8 ≠ 0) ∨ (space = 3 ∧ a.extractLsb' 12 48 ≠ 0) then some 4
  else if space = 1 ∧ (s.wgD x.wg).wb < (a.extractLsb' 0 60).toNat + n then some 7 else none

theorem bits_ne_zero {hi lo w : Nat} (h : hi + 1 - lo = w) : bits a hi lo ≠ 0 ↔ a.extractLsb' lo w ≠ 0 := by
  rw [bits_eq_extract a h, Ne, Ne, ← BitVec.toNat_inj]
  rfl

theorem resolve_bad (hv : v.wg = x.wg) (hk : kind ≤ 3) (h : badCause s x n a = some c) :
    s.resolve v a n n kind wr = (s, .trap c (kind * 32)) := by
  have htop : bits a 59 52 ≠ 0 ↔ a.extractLsb' 52 8 ≠ 0 := bits_ne_zero rfl
  have hpage : bits a 59 12 ≠ 0 ↔ a.extractLsb' 12 48 ≠ 0 := bits_ne_zero rfl
  have hoff : bits a 59 0 = (a.extractLsb' 0 60).toNat := bits_eq_extract a rfl
  simp only [State.resolve, htop, hpage, hoff, hv, spaceOf_eq]
  unfold badCause at h
  dsimp only at h
  generalize (a.extractLsb' 60 4).toNat = sp at h ⊢
  split at h
  · next halign =>
    cases h
    rw [if_pos halign]
  next halign =>
  rw [if_neg halign]
  split at h
  · next hspace =>
    cases h
    by_cases htop : (sp = 0 ∨ sp = 4) ∧ a.extractLsb' 52 8 ≠ 0
    · rw [if_pos htop]
    by_cases hpage : sp = 3 ∧ a.extractLsb' 12 48 ≠ 0
    · rw [if_neg htop, if_pos hpage]
    · rw [if_neg htop, if_neg hpage, if_pos (by tauto)]
  next hspace =>
  split at h
  case isFalse => cases h
  case isTrue hout =>
    cases h
    obtain ⟨rfl, hout⟩ := hout
    simpa [spaceReason_window hk] using hout

/-- The first address that fails a check decides. -/
theorem resolveAll_bad (hv : v.wg = x.wg) (hk : kind ≤ 3) (hpre : ∀ p ∈ pre, inWindow s x p.2 n) (h : badCause s x n a = some c) :
    s.resolveAll v n n kind wr (pre ++ (L, a) :: post)
      = (s, .error { cause := c, addr := a, info := BitVec.ofNat 64 (kind * 32 + L) }) := by
  induction pre with
  | nil => rw [List.nil_append, State.resolveAll, resolve_bad hv hk h]
  | cons p pre ih =>
    rw [List.cons_append, State.resolveAll, resolve_window hv hk (hpre p (List.mem_cons_self ..))]
    dsimp only
    rw [ih fun q hq => hpre q (List.mem_cons_of_mem _ hq)]

/-- The trap of a word reports its lane's address. -/
theorem laneTrap_laneWords (hA : ∀ e, (A e).1 = e.1) (hL : L ∈ ls) (hL32 : L < 32) (hj : j < m) :
    laneTrap { cause := c, addr := (A (L, j)).2, info := BitVec.ofNat 64 (kind * 32 + L) } m ((laneWords ls m).map A)
      = { cause := c, addr := (A (L, 0)).2, info := BitVec.ofNat 64 (32 * kind + L) } := by
  rw [Nat.mul_comm 32]
  unfold laneTrap
  split
  · next hone =>
    obtain rfl : j = 0 := by omega
    rfl
  · next hmany =>
    have hlane : bits (BitVec.ofNat 64 (kind * 32 + L)) 4 0 = L := by
      simp only [bits, BitVec.toNat_ofNat]
      omega
    obtain ⟨i, hi⟩ := find_laneWord (m := m) hL (Nat.zero_lt_of_lt hj)
    have hfun : ((fun p : (Nat × Word) × Nat => decide (p.2 % m = 0) && decide (p.1.1 = L)) ∘ Prod.map A id)
        = fun e : (Nat × Nat) × Nat => decide (e.1.1 = L) && decide (e.2 % m = 0) := by
      funext e
      simp [hA, Bool.and_comm]
    dsimp only
    rw [hlane, List.find?_filter, List.zipIdx_map, List.find?_map]
    simp only [Bool.decide_and, Bool.decide_eq_true, hfun, hi]
    rfl

/-! ### The slot -/

/-- An access with an address that fails a check, whose bucket has room and that no earlier access holds back, traps. -/
theorem accessRun_error {addrs : List (Nat × Word)} {f : State → View → List Piece → State × List RegWrite} {e : Raise}
    (hroom : (addrs.any fun p => s.egressLow (s.viewOf s.cur) p.2) = false)
    (hquiet : sl.md.toNat % 4 ≠ 0 ∨ 2 ≤ kind → s.peerQuiet s.cur = true)
    (he : s.resolveAll (s.viewOf s.cur) n n kind (kindWrites kind) addrs = (s, .error e)) :
    accessRun sl n kind hub addrs s x ask f words = .trap s (laneTrap e words addrs) none := by
  have hgo : ¬ ((addrs.any fun p => s.egressLow (s.viewOf s.cur) p.2) = true
      ∨ syncKind sl kind = true ∧ ¬ s.peerQuiet s.cur = true) := by
    rw [hroom]
    rintro (hlow | ⟨hsync, hbusy⟩)
    · cases hlow
    · simp only [syncKind, Bool.or_eq_true, decide_eq_true_eq] at hsync
      rcases hsync with (hord | hatom) | hred
      · exact hbusy (hquiet (.inl hord))
      · exact hbusy (hquiet (.inr hatom.ge))
      · exact hbusy (hquiet (.inr (by omega)))
  simp only [accessRun, if_neg hgo, he]

theorem badCause_atIssue (hg : s.grp? s.cur = some x) : badCause (s.atIssue sl) x n a = badCause s x n a := by
  rw [badCause, wgD_atIssue hg, badCause]

section Slots

variable {f : State → View → List Piece → State × List RegWrite} (h : Issues s fm sl x) (hk : kind ≤ 3)
  (hquiet : sl.md.toNat % 4 ≠ 0 ∨ 2 ≤ kind → (s.atIssue sl).peerQuiet s.cur = true)
include h hk hquiet

/-- The first word in no space or beyond the window stops a slot that accesses words of lanes. -/
theorem runSlot_badLane (hA : ∀ e, (A e).1 = e.1)
    (hb : body (s.atIssue sl) (x.cover sl) = accessRun sl n kind hub ((laneWords (lanesOf (x.sel sl)) m).map A) (s.atIssue sl)
      (x.cover sl) ask f (words := m))
    (hroom : ∀ M i, M < 32 ∧ (x.sel sl).getLsbD M = true → i < m →
      (s.atIssue sl).egressLow ((s.atIssue sl).viewOf s.cur) (A (M, i)).2 = false)
    (hL : L < 32 ∧ (x.sel sl).getLsbD L = true) (hj : j < m)
    (hpre : ∀ M i, M < 32 ∧ (x.sel sl).getLsbD M = true → i < m → M < L ∨ (M = L ∧ i < j) → inWindow s x (A (M, i)).2 n)
    (hc : badCause s x n (A (L, j)).2 = some c) :
    runSlot fm lat sl body s
      = traps s sl x { cause := c, addr := (A (L, 0)).2, info := BitVec.ofNat 64 (32 * kind + L) } := by
  have hcur := cur_atIssue (sl := sl) h.group
  obtain ⟨pre, post, heq, hord⟩ := laneWords_split (m := m) (lanesOf_ascending (x.sel sl)) (mem_lanesOf.2 hL) hj
  have hbad : (s.atIssue sl).resolveAll ((s.atIssue sl).viewOf s.cur) n n kind (kindWrites kind)
      ((laneWords (lanesOf (x.sel sl)) m).map A)
        = (s.atIssue sl, .error { cause := c, addr := (A (L, j)).2, info := BitVec.ofNat 64 (kind * 32 + L) }) := by
    have hword : A (L, j) = (L, (A (L, j)).2) := Prod.ext (hA _) rfl
    rw [heq, List.map_append, List.map_cons, hword]
    refine resolveAll_bad (viewOf_wg_atIssue h.group) hk (fun p hp => ?_) ((badCause_atIssue h.group).trans hc)
    obtain ⟨⟨M, i⟩, he, rfl⟩ := List.mem_map.1 hp
    obtain ⟨⟨hM, hi⟩, hlt⟩ := hord _ he
    exact (inWindow_atIssue h.group).2 (hpre M i (mem_lanesOf.1 hM) hi hlt)
  refine runSlot_traps h (hb.trans ?_)
  rw [← laneTrap_laneWords hA (mem_lanesOf.2 hL) hL.1 hj]
  refine accessRun_error ?_ ?_ ?_
  · rw [hcur, List.any_eq_false]
    intro p hp
    exact Bool.eq_false_iff.1 (forall_laneWords (P := fun a => (s.atIssue sl).egressLow _ a = false) hroom p hp)
  · rwa [hcur]
  · rwa [hcur]

/-- The same of one word for each lane. -/
theorem runSlot_badLaneOne (hA : ∀ e, (A e).1 = e.1)
    (hb : body (s.atIssue sl) (x.cover sl) = accessRun sl n kind hub ((laneWords (lanesOf (x.sel sl)) 1).map A) (s.atIssue sl)
      (x.cover sl) ask f)
    (hroom : ∀ M i, M < 32 ∧ (x.sel sl).getLsbD M = true → i < 1 →
      (s.atIssue sl).egressLow ((s.atIssue sl).viewOf s.cur) (A (M, 0)).2 = false)
    (hL : L < 32 ∧ (x.sel sl).getLsbD L = true) (hj : j < 1)
    (hpre : ∀ M i, M < 32 ∧ (x.sel sl).getLsbD M = true → i < 1 → M < L ∨ (M = L ∧ i < j) → inWindow s x (A (M, 0)).2 n)
    (hc : badCause s x n (A (L, 0)).2 = some c) :
    runSlot fm lat sl body s
      = traps s sl x { cause := c, addr := (A (L, 0)).2, info := BitVec.ofNat 64 (32 * kind + L) } := by
  obtain rfl := Nat.lt_one_iff.1 hj
  refine runSlot_badLane h hk hquiet hA hb (fun M i hM hi => ?_) hL hj (fun M i hM hi => ?_) hc
  all_goals obtain rfl := Nat.lt_one_iff.1 hi
  · exact hroom M 0 hM hi
  · exact hpre M 0 hM hi

/-- An address in no space or beyond the window stops a slot of the group. -/
theorem runSlot_badScalar
    (hb : body (s.atIssue sl) (x.cover sl) = accessRun sl n kind hub [(0, a)] (s.atIssue sl) (x.cover sl) ask f)
    (hroom : (s.atIssue sl).egressLow ((s.atIssue sl).viewOf s.cur) a = false) (hc : badCause s x n a = some c) :
    runSlot fm lat sl body s = traps s sl x { cause := c, addr := a, info := BitVec.ofNat 64 (32 * kind + 0) } := by
  have hcur := cur_atIssue (sl := sl) h.group
  refine runSlot_traps h (hb.trans ?_)
  rw [Nat.mul_comm]
  refine accessRun_error ?_ ?_ ?_
  · simpa [hcur] using hroom
  · rwa [hcur]
  · rw [hcur]
    exact resolveAll_bad (pre := []) (viewOf_wg_atIssue h.group) hk (fun p hp => by cases hp)
      ((badCause_atIssue h.group).trans hc)

end Slots

end Sys2Proof.Machine

open Sys2Proof Sys2Proof.Machine in
/-- Settles O30: the words of the lanes are checked in ascending order, the ones before the first bad one resolve to the
window, and the trap of a word reports its lane's address (`runSlot_badLane`). -/
theorem badAddressesTrap : Obligations.BAD_ADDRESSES_TRAP := by
  unfold Obligations.BAD_ADDRESSES_TRAP
  intro s x sl n f m addr word sAddr block space cause bad open_ settled selected first
  have hzero : ∀ L, (laneWordAt s x sl (L, 0)).2 = addr L := laneWordAt_zero s x sl
  refine ⟨fun h hq ho c hc => ?lds, fun h hq ho c hc => ?sts, fun h hq ho c hc => ?atoms, fun h hq ho L j hL hj hp c hc => ?ld,
    fun h hq ho L j hL hj hp c hc => ?st, fun h hq ho L j hL hj hp c hc => ?ldx, fun h hq ho L j hL hj hp c hc => ?stx,
    fun h hq ho L j hL hj hp c hc => ?ldb, fun h hq ho L j hL hj hp c hc => ?stb, fun h hq ho L j hL hj hp c hc => ?atom,
    fun h hq ho L j hL hj hp c hc => ?red⟩
  case lds => exact runSlot_badScalar (body := ldsBody sl) h (by decide) hq (by rw [ldsBody, scaAddr_atIssue h.group]) ho hc
  case sts => exact runSlot_badScalar (body := stsBody sl) h (by decide) hq (by rw [stsBody, scaAddr_atIssue h.group]) ho hc
  case atoms =>
    exact runSlot_badScalar (body := atomsBody sl) h (by decide) hq (by rw [atomsBody, scaAddr_atIssue h.group]) ho hc
  case ldx =>
    exact runSlot_badLane (A := laneWordAt s x sl) (body := ldxBody sl) h (by decide) hq (fun _ => rfl)
      (by rw [ldxBody, laneAddrs_atIssue h.group]) ho hL hj hp hc
  case stx =>
    exact runSlot_badLane (A := laneWordAt s x sl) (body := stxBody sl) h (by decide) hq (fun _ => rfl)
      (by rw [stxBody, laneAddrs_atIssue h.group]) ho hL hj hp hc
  case ldb =>
    exact runSlot_badLaneOne (A := blockWordAt s x sl) (body := ldbBody sl) h (by decide) hq (fun _ => rfl)
      (by rw [ldbBody, blockAddrs_atIssue h.group]) ho hL hj hp hc
  case stb =>
    exact runSlot_badLaneOne (A := blockWordAt s x sl) (body := stbBody sl) h (by decide) hq (fun _ => rfl)
      (by rw [stbBody, blockAddrs_atIssue h.group]) ho hL hj hp hc
  all_goals simp only [← hzero] at ho hp hc ⊢
  case ld =>
    exact runSlot_badLaneOne (A := laneWordAt s x sl) (body := ldBody sl) h (by decide) hq (fun _ => rfl)
      (by rw [ldBody, laneAddrs_atIssue h.group]) ho hL hj hp hc
  case st =>
    exact runSlot_badLaneOne (A := laneWordAt s x sl) (body := stBody sl) h (by decide) hq (fun _ => rfl)
      (by rw [stBody, laneAddrs_atIssue h.group]) ho hL hj hp hc
  case atom =>
    exact runSlot_badLaneOne (A := laneWordAt s x sl) (body := atomBody sl) h (by decide) hq (fun _ => rfl)
      (by rw [atomBody, laneAddrs_atIssue h.group]) ho hL hj hp hc
  case red =>
    have hqadd : sl.sub = 10 ↔ subN sl = 10 := (subN_eq_iff (by decide)).symm
    simp only [hqadd] at hp hc
    exact runSlot_badLaneOne (A := laneWordAt s x sl) (body := redBody sl) h (by decide) hq (fun _ => rfl)
      (by simp only [redBody, laneAddrs_atIssue h.group, decide_eq_true_eq]; rfl) ho hL hj hp hc
end

section
/-! SUPPORT and O47. An atomic without lanes that pushes onto a queue with an entry of an age that no push gives (R20). -/

namespace Sys2Proof.Machine

/-- A group like `deepQueue` whose ACT names no lane. -/
def idleDeepQueue : Group := { deepQueue with act := 0 }

/-- The machine with that group alone, whose slot is to issue. -/
def idleDeepState : State := { cur := 1, groups := [(1, idleDeepQueue)] }

/-- A slot of ATOM.add.s32 at zero that pushes what it finds. -/
def pushAtomSlot : Slot := { ty := 4, d := 0x200, a := 0x270, b := 0x270 }

/-- The push issues. -/
theorem idleDeepState_issues : Issues idleDeepState (fAtom pushAtomSlot) pushAtomSlot idleDeepQueue :=
  ⟨rfl, rfl, rfl, rfl, rfl⟩

/-- After the push, age 20 reads 0. -/
theorem idleDeepState_pushed {t : State} (h : exec (.atom pushAtomSlot) idleDeepState = .next t) {y : Group}
    (hy : t.grp? 1 = some y) : t.readV y (.q 20) = Vec.zero := by
  cases h
  cases hy
  rfl

/-- No lane of the atomic has an address. -/
theorem idleDeepState_lanes : lanesOf (idleDeepQueue.sel pushAtomSlot) = [] := rfl

end Sys2Proof.Machine

open Sys2Proof Sys2Proof.Machine in
/-- Refutes O47: a push drops every entry of the queue of age 15 or more, and the frame names the ages 0 to 15 only. In a state
whose queue lists an entry of age 20, which no run reaches, ATOM without lanes and with D push changes what age 20 reads. -/
theorem not_windowStoreFrame : ¬ Obligations.WINDOW_STORE_FRAME := by
  intro h
  obtain ⟨t, ht⟩ : ∃ t, exec (.atom pushAtomSlot) idleDeepState = .next t := ⟨_, rfl⟩
  obtain ⟨-, -, -, -, hatomics⟩ := h idleDeepState t idleDeepQueue pushAtomSlot rfl
  obtain ⟨hatom, -⟩ := hatomics rfl rfl
  obtain ⟨-, -, -, y, hy, -, -, hread⟩ := hatom idleDeepState_issues (by simp [idleDeepState_lanes]) ht
  have hq := (hread (.q 20) (by decide)).1
  rw [idleDeepState_pushed ht hy] at hq
  exact absurd hq (by decide)
end

section
/-! SUPPORT and O34. A table of groups that does not rise, where an issue lists its group a second time. -/

namespace Sys2Proof.Machine

/-- A co-resident launch. -/
def jointLaunch : Launch :=
  { fn := 0, ctx := 0, remaining := 1
    desc := { param := 0, preempt := 0, gx := 1, gy := 1, gz := 1, scratch := 0, tiles := 0, cores := true, prio := 0
              tbclass := 0, world := 0, thresh := 0, energy := 0, prod := 0, early := false, roles := [] } }

/-- Group 1, the only one of its launch, is listed behind group 5 of another. -/
def disorderedState : State :=
  { cur := 1, groups := [(5, { wg := 1 }), (1, {})], wgs := [(0, { launch := 1 })], launches := [(1, jointLaunch)] }

theorem disorderedState_issues : Issues disorderedState (fLbar {}) {} {} := ⟨rfl, rfl, rfl, rfl, rfl⟩

/-- The launch has one group; once the slot issues, two entries. -/
theorem disorderedState_groups :
    disorderedState.launchGroups 1 = 1 ∧ (disorderedState.atIssue {}).launchGroups 1 = 2 := by decide

/-- The group waits at its slot. -/
theorem disorderedState_waits : ∃ t, exec (.lbar {}) disorderedState = .next t ∧ (t.grp? 1).map Group.pc = some 0 :=
  ⟨_, rfl, by decide +kernel⟩

end Sys2Proof.Machine

open Sys2Proof Sys2Proof.Machine in
/-- Refutes O34: where the table of groups does not rise, which no run reaches, the update of the arriving group lists it a second
time, so that one arrival of a launch of one group (`disorderedState_groups`) no longer completes the barrier. -/
theorem not_launchBarrierResults : ¬ Obligations.LAUNCH_BARRIER_RESULTS := by
  intro h
  obtain ⟨-, hjoint⟩ := h disorderedState {} {} disorderedState_issues
  obtain ⟨-, hlast⟩ := hjoint jointLaunch rfl rfl rfl
  obtain ⟨-, t, z, ht, hz, -, hpc⟩ := hlast disorderedState_groups.1.le (by decide)
  obtain ⟨t', ht', hslot⟩ := disorderedState_waits
  obtain rfl : t = t' := by injection ht.symm.trans ht'
  have hz' : t.grp? 1 = some z := hz
  rw [hz', Option.map_some, hpc] at hslot
  exact absurd hslot (by decide)
end

section
/-! SUPPORT. What group events do to a group: results that are written (R442), waits that end (R210), and the entry of a trap's
handler (R253). -/

namespace Sys2Proof.Machine

variable {s t : State} {g : Nat} {x y z : Group} {sl : Slot}

theorem grp?_updGrp_of (h : s.grp? g = some x) (u : Group → Group) : (s.updGrp g u).grp? g = some (u x) := by
  rw [updGrp_of _ h, grp?_setGrp_self]

/-! ### Results (R442) -/

/-- `y` is `x` but for its registers and predicates. -/
def Group.Rewritten (y x : Group) : Prop :=
  { y with sregs := x.sregs, vregs := x.vregs, queue := x.queue, sps := x.sps, vps := x.vps } = x

theorem Group.Rewritten.refl (x : Group) : x.Rewritten x := rfl

theorem Group.Rewritten.trans (h : z.Rewritten y) (k : y.Rewritten x) : z.Rewritten x := by
  have e : ({ z with sregs := x.sregs, vregs := x.vregs, queue := x.queue, sps := x.sps, vps := x.vps } : Group)
      = { y with sregs := x.sregs, vregs := x.vregs, queue := x.queue, sps := x.sps, vps := x.vps } :=
    congrArg (fun u : Group => { u with sregs := x.sregs, vregs := x.vregs, queue := x.queue, sps := x.sps, vps := x.vps }) h
  exact e.trans k

/-- A write changes a register of the group, one of its trap bank, or none. -/
theorem doWrite_cases (h : s.grp? g = some x) (w : RegWrite) :
    (∃ y, y.Rewritten x ∧ s.doWrite g w = s.setGrp g y) ∨ (∃ k b, s.doWrite g w = s.setBank k b) ∨ s.doWrite g w = s := by
  cases w with
  | vec r sel v =>
    simp only [State.doWrite, State.writeV, h]
    cases r with
    | v n | q n =>
      refine .inl ⟨_, ?_, rfl⟩
      rfl
    | h n => exact .inr (.inl ⟨_, _, rfl⟩)
    | s n | vp n | sp n | hs n => exact .inr (.inr rfl)
  | scalar r v =>
    simp only [State.doWrite, State.writeS, h]
    cases r with
    | s n =>
      refine .inl ⟨_, ?_, rfl⟩
      rfl
    | hs n => exact .inr (.inl ⟨_, _, rfl⟩)
    | v n | q n | h n => exact .inr (.inr rfl)
    | vp n | sp n =>
      dsimp only
      split
      · exact .inr (.inr rfl)
      · refine .inl ⟨_, ?_, rfl⟩
        rfl

theorem grp?_doWrite (h : s.grp? g = some x) (w : RegWrite) : ∃ y, (s.doWrite g w).grp? g = some y ∧ y.Rewritten x := by
  rcases doWrite_cases h w with ⟨y, hy, e⟩ | ⟨k, b, e⟩ | e
  · exact ⟨y, by rw [e, grp?_setGrp_self], hy⟩
  · exact ⟨x, by rw [e]; exact h, .refl x⟩
  · exact ⟨x, by rw [e]; exact h, .refl x⟩

theorem grp?_writeNow (h : s.grp? g = some x) (ws : List RegWrite) :
    ∃ y, (s.writeNow g ws).grp? g = some y ∧ y.Rewritten x := by
  induction ws generalizing s x with
  | nil => exact ⟨x, h, .refl x⟩
  | cons w ws ih =>
    obtain ⟨y, hy, hxy⟩ := grp?_doWrite h w
    obtain ⟨z, hz, hyz⟩ := ih hy
    exact ⟨z, hz, hyz.trans hxy⟩

/-- Writes change groups and trap banks only. -/
theorem doWrite_frame (s : State) (g : Nat) (w : RegWrite) :
    { s.doWrite g w with groups := s.groups, banks := s.banks } = s := by
  cases h : s.grp? g with
  | none => cases w <;> simp [State.doWrite, State.writeV, State.writeS, h]
  | some x =>
    rcases doWrite_cases h w with ⟨y, hy, e⟩ | ⟨k, b, e⟩ | e <;> rw [e] <;> rfl

theorem writeNow_frame (s : State) (g : Nat) (ws : List RegWrite) :
    { s.writeNow g ws with groups := s.groups, banks := s.banks } = s := by
  induction ws generalizing s with
  | nil => rfl
  | cons w ws ih =>
    have e := congrArg (fun u : State => { u with groups := s.groups, banks := s.banks }) (ih (s.doWrite g w))
    exact e.trans (doWrite_frame s g w)

/-- The part of the state kept for a forced save that no result changes. -/
def Snap.masks (k : Snap) : Mask × Mask × Word × List MEntry := (k.act, k.live, k.fmt, k.mstk)

/-- A result that was pending at the slot of a pre-emption is written into the state kept for a forced save. -/
theorem snapWrite_cases (h : s.grp? g = some x) (id : Nat) : s.snapWrite g id = s
    ∨ ∃ k, s.snapWrite g id = (s.updGrp g fun y => { y with snap := k }) ∧ k.map Snap.masks = x.snap.map Snap.masks := by
  unfold State.snapWrite
  rw [grpD_of _ h]
  split
  · exact .inl rfl
  · next k hk =>
    split
    · exact .inl rfl
    · next p hp =>
      refine .inr ⟨_, rfl, ?_⟩
      obtain ⟨y, hy, hxy⟩ := grp?_writeNow (grp?_updGrp_of h k.onto) p.writes
      rw [grpD_of _ hy, hk, Option.map_some, Option.map_some, Option.some.injEq]
      exact (congrArg (fun u : Group => (u.act, u.live, u.fmt, u.mstk)) hxy :)

theorem grp?_snapWrite (h : s.grp? g = some x) (id : Nat) :
    ∃ k, (s.snapWrite g id).grp? g = some { x with snap := k } ∧ k.map Snap.masks = x.snap.map Snap.masks := by
  rcases snapWrite_cases h id with e | ⟨k, e, hk⟩
  · exact ⟨x.snap, by rw [e]; exact h, rfl⟩
  · exact ⟨k, by rw [e, grp?_updGrp_of h], hk⟩

end Sys2Proof.Machine
end

section
/-! SUPPORT. Later arrivals: results, late traps, trap entries and ends of waits (R210, R253, R442, R444). -/

namespace Sys2Proof.Machine

variable {s t u : State} {g : Nat} {x y z : Group} {sl : Slot} {w : BitVec 128}

/-! ### Results (R442) -/

/-- A result that is there is written to the group and to the state kept for its forced save, and is no longer pending. -/
theorem variableResultWrite_ready (h : s.grp? g = some x) {k : Nat} {p : Pend}
    (hp : x.pend.find? (fun q => decide (q.id = k)) = some p) (hr : p.ready = true) :
    ∃ t y1 y, exec (.variableResultWrite g k) s = .next t ∧ (s.writeNow g p.writes).grp? g = some y1 ∧ t.grp? g = some y
      ∧ y.pend = x.pend.filter (fun q => decide (q.id ≠ k)) ∧ y.pc = x.pc ∧ y.sregs = y1.sregs ∧ y.vregs = y1.vregs := by
  obtain ⟨y1, hy1, hsame⟩ := grp?_writeNow h p.writes
  obtain ⟨k', hk', -⟩ := grp?_snapWrite hy1 k
  have hexec : exec (.variableResultWrite g k) s = .next (((s.writeNow g p.writes).snapWrite g k).updGrp g fun x =>
      { x with pend := x.pend.filter fun q => decide (q.id ≠ k) }) := by
    change execVariableResultWrite g k s = _
    simp only [execVariableResultWrite, grpD_of _ h, hp, hr]
    rfl
  exact ⟨_, y1, _, hexec, hy1, grp?_updGrp_of hk' _,
    congrArg (List.filter _) (congrArg Group.pend hsame :), (congrArg Group.pc hsame :), rfl, rfl⟩

theorem variableResultWrite_pending (h : s.grp? g = some x) {k : Nat} {p : Pend}
    (hp : x.pend.find? (fun q => decide (q.id = k)) = some p) (hr : p.ready = false) :
    exec (.variableResultWrite g k) s = .next s := by
  change execVariableResultWrite g k s = _
  simp only [execVariableResultWrite, grpD_of _ h, hp, hr]
  rfl

/-! ### Leaving a wait -/

theorem grp?_unwait (h : s.grp? g = some x) : (s.unwait g).grp? g = some { x with wait := .none } := by
  unfold State.unwait
  extract_lets x0 s1
  have hs1 : s1.grp? g = some x := by
    have hx0 : x0 = x := grpD_of _ h
    subst hx0
    unfold s1
    split
    · unfold State.updWg
      split <;> exact h
    · rw [grp?_updLaunch]
      exact h
    · exact h
    · exact h
  exact grp?_updGrp_of hs1 _

/-- A group that stands at a slot of its block has nothing to enter. -/
theorem arrive_inBlock (h : s.grp? g = some x) (hb : x.inBlock = true) : s.arrive g = (s, none) := by
  simp only [State.arrive, grpD_of _ h, hb, if_true]

/-- The oldest late trap is delivered at the slot that the group would issue next. -/
theorem takeDelayed_inBlock (h : s.grp? g = some x) {tr : Trap} {rest : List Trap} (hd : x.delayed = tr :: rest)
    (hb : x.inBlock = true) : s.takeDelayed g
      = ((s.unwait g).updGrp g fun y => { y with delayed := rest }).deliverTrap g { tr with pc := x.pc } := by
  have hg : ((s.unwait g).updGrp g fun y => { y with delayed := rest }).grp? g
      = some { x with wait := .none, delayed := rest } := grp?_updGrp_of (grp?_unwait h) _
  have harrive := arrive_inBlock hg (show Group.inBlock _ = true from hb)
  unfold State.takeDelayed
  rw [grpD_of _ h, hd]
  dsimp only
  rw [harrive]
  dsimp only
  rw [grpD_of _ hg]

/-! ### Trap entry (R253) -/

/-- What trap entry saves of a group, of a context whose pre-emption budget is `b`. -/
def Group.trapped (x : Group) (t : Trap) (b : BitVec 32) : Group :=
  { x.settle with
    trapCause := t.cause, trapPc := t.pc, trapAddr := t.addr, trapInfo := t.info
    savedKc := x.kc, savedBlock := x.block, trapMode := true, wait := .none
    inPreempt := decide (t.cause = 15)
    snap := if t.cause = 15 then some x.snapshot else none
    budget := if t.cause = 15 ∧ x.budget = 0 then b else x.budget }

theorem grp?_trapSaved (h : s.grp? g = some x) (tr : Trap) :
    (s.trapSaved g tr).grp? g = some (x.trapped tr (s.ctxD (s.wgD x.wg).fn (s.wgD x.wg).ctx).pbudget) := by
  unfold State.trapSaved
  rw [grpD_of _ h]
  exact grp?_updGrp_of (s := s.takeBank g) h _

theorem takeBank_owner (h : s.grp? g = some x) : ((s.takeBank g).bankD x.bankKey).owner = some g := by
  unfold State.takeBank
  rw [grpD_of _ h, bankD_setBank, if_pos rfl, Bank.takenBy]
  split <;> rfl

theorem bankD_of_banks (h : t.banks = s.banks) (k : Nat) : t.bankD k = s.bankD k := by rw [State.bankD, h, State.bankD]

theorem trapSaved_owner (h : s.grp? g = some x) (tr : Trap) : ((s.trapSaved g tr).bankD x.bankKey).owner = some g := by
  rw [← takeBank_owner h]
  exact congrArg Bank.owner (bankD_of_banks (updGrp_banks ..) _)

/-- A handler whose block may be entered is entered. -/
theorem enterTrap_enters (h : s.grp? g = some x) (tr : Trap) {handler : Word}
    (ht : ((s.trapSaved g tr).target g handler).2 = .ok w) (hh : badHeader w = false) :
    (s.enterTrap g tr handler).grp? g
        = some ((x.trapped tr (s.ctxD (s.wgD x.wg).fn (s.wgD x.wg).ctx).pbudget).enter handler w)
      ∧ ((s.enterTrap g tr handler).bankD x.bankKey).owner = some g := by
  have hframe := accessed_target g handler (Accessed.refl (s.trapSaved g tr))
  have heq : s.enterTrap g tr handler = ((s.trapSaved g tr).target g handler).1.updGrp g fun y => y.enter handler w := by
    unfold State.enterTrap
    dsimp only
    rw [ht]
    dsimp only
    rw [enterHdr_good _ _ _ hh]
  rw [heq]
  constructor
  · exact grp?_updGrp_of ((hframe.grp? g).trans (grp?_trapSaved h tr)) _
  · rw [bankD_of_banks (updGrp_banks ..), bankD_of_banks hframe.banks]
    exact trapSaved_owner h tr

theorem trapped_enter (x : Group) (tr : Trap) (b : BitVec 32) (handler : Word) :
    (x.trapped tr b).enter handler w
      = { x.trapped tr b with kc := w.extractLsb' 64 64, block := Block.ofWord handler w, pc := handler + 16 } := rfl

end Sys2Proof.Machine
end

section
/-! SUPPORT. The first part of O48: what arrives later at a group (R210, R253, R442, R444). -/

namespace Sys2Proof.Machine

variable {s t u : State} {g : Nat} {x y z : Group} {sl : Slot} {w : BitVec 128}

/-- A group that waits for the trap bank, once it is free, enters the handler of its trap. -/
theorem trapEntry_bank (h : s.grp? g = some x) {tr : Trap} (hw : x.wait = .bank tr) (hfree : (s.bankD x.bankKey).owner = none) :
    exec (.trapEntry g) s = .next ((s.updGrp g fun y => { y with wait := .none }).enterTrap g tr
      (if tr.cause = 15 then (s.wgD x.wg).preempt else x.trapVec)) := by
  change execTrapEntry g s = _
  simp only [execTrapEntry, grpD_of _ h, hw, hfree, State.handlerOf, State.preemptOf]
  rfl

/-- A group that waits to regain the trap bank, once it is free, goes on. -/
theorem trapEntry_regain (h : s.grp? g = some x) (hw : x.wait = .regain) (hfree : (s.bankD x.bankKey).owner = none) :
    exec (.trapEntry g) s = .next ((s.updGrp g fun y => { y with wait := .none }).takeBank g) := by
  change execTrapEntry g s = _
  simp only [execTrapEntry, grpD_of _ h, hw, hfree]
  rfl

/-! ### Ends of waits (R210) -/

/-- A wait whose word may be read, locally or at a peer that has answered. -/
theorem waitNow_read (h : s.grp? g = some x) {a : Word} {v : BitVec 32} {n m : Nat} (hw : x.wait = .waitp a v n sl)
    {tgt : Target} {r : State} (hu : s.resolve (s.viewOf g) a 4 4 4 = (u, .ok tgt))
    (hr : u.readP (s.viewOf g) tgt 4 a 4 = (r, .ok m)) :
    s.waitNow g = (r, .ok (waitMet (subN sl) (BitVec.ofNat 32 m) v)) := by
  simp only [State.waitNow, grpD_of _ h, hw, hu, hr]

/-- What a read of the word leaves of the groups. -/
theorem waitRead_accessed {v : View} {a : Word} {m : Nat} {tgt : Target} {r : State}
    (hu : s.resolve v a 4 4 4 = (u, .ok tgt)) (hr : u.readP v tgt 4 a 4 = (r, .ok m)) : Accessed s r := by
  have h1 := accessed_resolve v a 4 4 4 (kindWrites 4) (Accessed.refl s)
  rw [hu] at h1
  have h2 := accessed_readP v tgt 4 a 4 h1
  rwa [hr] at h2

section Wake

variable {a : Word} {v : BitVec 32} {n m : Nat} {tgt : Target} {r : State}
  (h : s.grp? g = some x) (hw : x.wait = .waitp a v n sl)
  (hu : s.resolve (s.viewOf g) a 4 4 4 = (u, .ok tgt)) (hr : u.readP (s.viewOf g) tgt 4 a 4 = (r, .ok m))
include h hw hu hr

/-- A wait whose word meets its condition ends with status 1, after the acquire of its order. -/
theorem waitpWake_met (hm : waitMet (subN sl) (BitVec.ofNat 32 m) v = true) :
    exec (.waitpWake g) s = .next ((if sl.md.getLsbD 0 then r.acquire x.core sl.scp.toNat else r).finish g sl .blocking
      (scaOut x.trapMode sl.d 0 1) false) := by
  have hgr : r.grpD g = x := grpD_of _ (((waitRead_accessed hu hr).grp? g).trans h)
  change execWaitpWake g s = _
  simp only [execWaitpWake, grpD_of _ h, hw, waitNow_read h hw hu hr, hm, State.waitDone, State.viewOf, hgr]
  rfl

/-- A wait whose word does not meet its condition goes on; what it asks a peer for is asked. -/
theorem waitpWake_unmet (hm : waitMet (subN sl) (BitVec.ofNat 32 m) v = false) :
    exec (.waitpWake g) s = .next (if r.wants = [] then s else r) := by
  change execWaitpWake g s = _
  simp only [execWaitpWake, grpD_of _ h, hw, waitNow_read h hw hu hr, hm, List.isEmpty_iff]

end Wake

/-! ### The slot that a wait ends -/

/-- A slot that retires stands at the next one, and its STALL runs from then on (R86). -/
theorem retire_stall (h : s.grp? g = some x) (sl : Slot) : ∃ y, (s.retire g sl).grp? g = some y
    ∧ y.Timed { x with pc := x.pc + 16, wait := .none } ∧ y.stall = sl.stall.toNat := by
  obtain ⟨y, hy, ht, -⟩ := grp?_retire h sl
  refine ⟨y, hy, ht, ?_⟩
  unfold State.retire at hy
  rw [h, grpD_of _ h, Option.isSome_some, if_pos rfl, grp?_passCycles, grp?_updGrp, if_pos rfl, h] at hy
  cases hy
  change (if x.core = x.core then Group.after _ 1 else _).stall = _
  rw [if_pos rfl]
  exact Nat.add_sub_cancel_left 1 _

theorem cycle_passCycles (s : State) (c n : Nat) :
    ((s.passCycles c n).coreD c).cycle = (s.coreD c).cycle + BitVec.ofNat 64 n := by
  have hcore : (s.passCycles c n).coreD c = (s.updCore c fun k => { k with cycle := k.cycle + BitVec.ofNat 64 n }).coreD c := rfl
  rw [hcore, coreD_updCore, if_pos rfl]

theorem cycle_retire (h : s.grp? g = some x) (sl : Slot) :
    ((s.retire g sl).coreD x.core).cycle = (s.coreD x.core).cycle + 1 := by
  unfold State.retire
  rw [h, grpD_of _ h, Option.isSome_some, if_pos rfl]
  dsimp only
  rw [cycle_passCycles, State.coreD, updGrp_cores]
  rfl

theorem watched_eq (x : Group) (tset : BitVec 2) (lat : Option Nat) (b : Bool) (n : Nat) (refs : List RegRef) :
    { (x.setTok tset none).watch lat b n refs with tok1 := x.tok1, tok2 := x.tok2, producers := x.producers } = x := by
  unfold Group.setTok
  split_ifs <;> rfl

theorem writeNow_cores (s : State) (g : Nat) (ws : List RegWrite) : (s.writeNow g ws).cores = s.cores :=
  (congrArg State.cores (writeNow_frame s g ws) :)

/-- The group as the results of its slot find it: a push has aged its queue. -/
def Group.pushed (x : Group) (ws : List RegWrite) : Group := if ws.any fun w => decide (w.ref = .q 0) then x.push else x

theorem pushed_eq (x : Group) (ws : List RegWrite) :
    { x.pushed ws with queue := x.queue, pend := x.pend, producers := x.producers } = x := by
  unfold Group.pushed
  split <;> rfl

/-- A slot that completes with results at once stands at the next one; they are written to the group as a push leaves it. -/
theorem finish_blocking (h : s.grp? g = some x) (sl : Slot) (ws : List RegWrite) :
    ∃ (s1 : State) (y z : Group), s1.grp? g = some (x.pushed ws) ∧ (s1.writeNow g ws).grp? g = some z
      ∧ (s.finish g sl .blocking ws false).grp? g = some y
      ∧ y.pc = x.pc + 16 ∧ y.wait = .none ∧ y.stall = sl.stall.toNat ∧ y.sps = z.sps
      ∧ ((s.finish g sl .blocking ws false).coreD x.core).cycle = (s.coreD x.core).cycle + 1 := by
  unfold State.finish
  extract_lets push s1 s2 s3
  have hs1 : s1.grp? g = some (x.pushed ws) := by
    unfold s1 Group.pushed
    split
    · exact grp?_updGrp_of h _
    · exact h
  have hc1 : s1.cores = s.cores := by
    unfold s1
    split
    · exact updGrp_cores ..
    · rfl
  obtain ⟨z, hz, hsame⟩ := grp?_writeNow hs1 ws
  have hs3 : s3.grp? g = some ((z.setTok sl.tset none).watch none true sl.tset.toNat (ws.map RegWrite.ref)) := by
    unfold s3 s2
    simp [grp?_updGrp, hz]
  have hc3 : s3.cores = s.cores := by
    unfold s3 s2
    rw [updGrp_cores, updGrp_cores, writeNow_cores, hc1]
  have hwatch := watched_eq z sl.tset none true sl.tset.toNat (ws.map RegWrite.ref)
  have hpush := pushed_eq x ws
  generalize (z.setTok sl.tset none).watch none true sl.tset.toNat (ws.map RegWrite.ref) = z' at hs3 hwatch
  obtain ⟨y, hy, htime, hstall⟩ := retire_stall hs3 sl
  have hpc : z'.pc = x.pc := ((congrArg Group.pc hwatch :).trans (congrArg Group.pc hsame :)).trans (congrArg Group.pc hpush :)
  have hcore : z'.core = x.core :=
    ((congrArg Group.core hwatch :).trans (congrArg Group.core hsame :)).trans (congrArg Group.core hpush :)
  refine ⟨s1, y, z, hs1, hz, hy, ?_, (congrArg Group.wait htime :), hstall,
    (congrArg Group.sps htime :).trans (congrArg Group.sps hwatch :), ?_⟩
  · rw [← hpc]
    exact (congrArg Group.pc htime :)
  · rw [← hcore, cycle_retire hs3, State.coreD, hc3]
    rfl

/-- A scalar predicate that is set reads the value (R22). -/
theorem setSp_getLsbD (p : BitVec 8) {k : Nat} (hk : k < 8) (b : Bool) : (setSp p k b).getLsbD k = b := by
  have hfield := packN_field 1 (fun i => if i = k then b.toNat else (p.getLsbD i).toNat) 8 0 k hk
  rw [Nat.one_mul, Nat.pow_one, Nat.zero_add, if_pos rfl] at hfield
  rw [setSp, BitVec.getLsbD_ofNat, Nat.testBit_eq_decide_div_mod_eq, hfield]
  cases b <;> simp [hk]

/-- What writing 0 to a scalar predicate leaves of it. -/
theorem writeNow_sp_zero (h : s.grp? g = some x) {k : Nat} (hk : k < 7) (hz : (s.writeNow g [.scalar (.sp k) 0]).grp? g = some z) :
    z.sps.getLsbD k = false := by
  have hne : k ≠ 7 := by omega
  simp only [State.writeNow, List.foldl_cons, List.foldl_nil, State.doWrite, State.writeS, h, hne, if_false, grp?_setGrp_self,
    Option.some.injEq] at hz
  subst hz
  exact setSp_getLsbD _ (by omega) _

/-- A wait whose time is over ends with status 0; the cycles of the wait and of the slot have passed (assumption log 8). -/
theorem waitpTimeout_ends (h : s.grp? g = some x) {a : Word} {v : BitVec 32} {n : Nat} (hw : x.wait = .waitp a v n sl)
    (hn : n ≠ 0) : completes (.waitpTimeout g) s fun t => ∃ y, t.grp? g = some y ∧ y.wait = .none ∧ y.pc = x.pc + 16
      ∧ y.stall = sl.stall.toNat ∧ (t.coreD x.core).cycle = (s.coreD x.core).cycle + BitVec.ofNat 64 (n + 1)
      ∧ ∀ k < 7, dstRef x.trapMode sl.d 0 = some (.sp k) → t.readS y (.sp k) = 0 := by
  have hexec : exec (.waitpTimeout g) s
      = .next ((s.passCycles x.core n).finish g sl .blocking (scaOut x.trapMode sl.d 0 0) false) := by
    change execWaitpTimeout g s = _
    simp only [execWaitpTimeout, grpD_of _ h, hw, hn, if_false]
  have hpass : (s.passCycles x.core n).grp? g = some (x.after n) := by
    rw [grp?_passCycles, h, Option.map_some, if_pos rfl]
  obtain ⟨s1, y, z, hs1, hz, hy, hpc, hwait, hstall, hsps, hcycle⟩ :=
    finish_blocking hpass sl (scaOut x.trapMode sl.d 0 0)
  refine ⟨_, hexec, y, hy, hwait, hpc, hstall, ?_, fun k hk hd => ?_⟩
  · refine hcycle.trans ?_
    rw [show (x.after n).core = x.core from rfl, cycle_passCycles, BitVec.ofNat_add, ← BitVec.add_assoc]
    rfl
  · have hne : k ≠ 7 := by omega
    simp only [scaOut, hd] at hs1 hz
    simp only [State.readS, hne, if_false, hsps, writeNow_sp_zero hs1 hk hz, Bool.false_eq_true]

/-! ### What arrives later -/

theorem laterArrivals_hold : laterArrivals := by
  intro s g x h
  refine ⟨fun k p hp => ⟨variableResultWrite_pending h hp, fun hr => ?written⟩, fun tr rest hd hb => ?delayed,
    fun tr w hw hfree ht hh => ?entered, fun hw hfree => ?regained,
    fun a v n sl hw => ⟨fun u tgt r m hu hr => ?wakes, waitpTimeout_ends h hw⟩⟩
  case written =>
    obtain ⟨t, y1, y, hexec, hy1, hy, hpend, hpc, hsregs, hvregs⟩ := variableResultWrite_ready h hp hr
    refine ⟨t, hexec, y, hy, hpend, hpc, fun n v hws => ?_, fun n sel v hws => ?_⟩
    · rw [hws] at hy1
      simp only [State.writeNow, List.foldl_cons, List.foldl_nil, State.doWrite, State.writeS, h, grp?_setGrp_self,
        Option.some.injEq] at hy1
      simp only [State.readS, hsregs, ← hy1, tval_tset_self]
    · rw [hws] at hy1
      simp only [State.writeNow, List.foldl_cons, List.foldl_nil, State.doWrite, State.writeV, h, grp?_setGrp_self,
        Option.some.injEq] at hy1
      simp only [State.readV, hvregs, ← hy1, tval_tset_self]
  case delayed => exact congrArg Host.Outcome.next (takeDelayed_inBlock h hd hb)
  case entered =>
    have hg := grp?_updGrp_of h fun y => { y with wait := .none }
    obtain ⟨hy, hown⟩ := enterTrap_enters hg tr ht hh
    exact ⟨_, trapEntry_bank h hw hfree, _, hy, rfl, rfl, rfl, rfl, rfl, rfl, rfl, rfl, rfl, rfl, hown⟩
  case regained =>
    have hg := grp?_updGrp_of h fun y => { y with wait := .none }
    exact ⟨_, trapEntry_regain h hw hfree, hg, takeBank_owner (x := { x with wait := .none }) hg⟩
  case wakes =>
    have hmet := waitMet_iff (subN sl) (BitVec.ofNat 32 m) v
    refine ⟨fun hm => waitpWake_met h hw hu hr (hmet.2 hm), fun hm => waitpWake_unmet h hw hu hr ?_⟩
    exact Bool.eq_false_iff.2 (mt hmet.1 hm)

end Sys2Proof.Machine
end

section
/-! SUPPORT. Pre-emption requests (R259). -/

namespace Sys2Proof.Machine

variable {s t u : State} {g h fn ctx : Nat} {x y z : Group} {w : BitVec 128}

/-! ### Requests without a budget -/

/-- A group marked for a forced save. -/
def Group.marked (x : Group) : Group := { x with preempt := true, budget := 0, budgetOn := false }

/-- A request to a group that is pre-empted already, or is not resident, changes nothing. -/
theorem preemptGroup_preempted (hy : s.grp? g = some y) (hp : y.preempt = true) : s.preemptGroup g = s := by
  simp [State.preemptGroup, hy, hp]

/-- Without a budget, a request marks the group for a forced save or to be marked once its slot ends, or changes nothing. -/
theorem preemptGroup_budgetless (hy : s.grp? g = some y) (hb : (s.ctxD (s.wgD y.wg).fn (s.wgD y.wg).ctx).pbudget = 0) :
    s.preemptGroup g = s ∨ (s.preemptGroup g = s.updGrp g fun y => { y with due := true })
      ∨ s.preemptGroup g = s.updGrp g Group.marked := by
  simp only [State.preemptGroup, hy, hb, true_or, or_true, if_true]
  split
  · exact .inl rfl
  · split
    · exact .inr (.inl rfl)
    · exact .inr (.inr rfl)

/-- Without a budget, a request marks a resident group that no request has reached and that asks no peer. -/
theorem preemptGroup_marks (hx : s.grp? g = some x) (hb : (s.ctxD (s.wgD x.wg).fn (s.wgD x.wg).ctx).pbudget = 0)
    (hres : x.phase = .resident) (hpre : x.preempt = false) (htrap : x.trapMode = false ∨ x.inPreempt = false)
    (hmid : s.midway (.grp g x.pc) = false) : s.preemptGroup g = s.updGrp g Group.marked := by
  have hgo : ¬ (x.phase ≠ .resident ∨ x.preempt = true
      ∨ (x.trapMode = true ∧ x.inPreempt = true ∧ ¬ x.trapInfo.getLsbD 0 = true)) := by
    rcases htrap with ht | ht <;> simp [hres, hpre, ht]
  have hask : s.midway (s.slotAsker g) = false := by rw [State.slotAsker, grpD_of _ hx, hmid]
  simp only [State.preemptGroup, hx, if_neg hgo, hask, hb, true_or, or_true, if_true]
  rfl

/-- `t` is `s` but for its groups, of which workgroup and PC are as before. -/
structure GroupsMarked (s t : State) : Prop where
  rest : { t with groups := s.groups } = s
  places : ∀ h, (t.grp? h).map (fun y => (y.wg, y.pc)) = (s.grp? h).map fun y => (y.wg, y.pc)

namespace GroupsMarked

theorem refl (s : State) : GroupsMarked s s := ⟨rfl, fun _ => rfl⟩

theorem wgD (k : GroupsMarked s t) (w : Nat) : t.wgD w = s.wgD w := (congrArg (State.wgD · w) k.rest :)
theorem ctxD (k : GroupsMarked s t) (fn c : Nat) : t.ctxD fn c = s.ctxD fn c := (congrArg (State.ctxD · fn c) k.rest :)
theorem midway (k : GroupsMarked s t) (a : Asker) : t.midway a = s.midway a := (congrArg (State.midway · a) k.rest :)

theorem updGrp (k : GroupsMarked s t) (h : Nat) {u : Group → Group} (hu : ∀ y, (u y).wg = y.wg ∧ (u y).pc = y.pc) :
    GroupsMarked s (t.updGrp h u) where
  rest := by
    have e := updGrp_frame t h u
    exact (congrArg (fun v : State => { v with groups := s.groups }) e :).trans k.rest
  places i := by
    rw [← k.places i, grp?_updGrp]
    split
    · next hi =>
      subst hi
      cases t.grp? i with
      | none => rfl
      | some y => exact congrArg some (Prod.ext (hu y).1 (hu y).2)
    · rfl

end GroupsMarked

/-- Group `h` belongs to context `ctx` of function `fn`, which has no pre-emption budget. -/
def Budgetless (s : State) (fn ctx h : Nat) : Prop :=
  (s.ctxD fn ctx).pbudget = 0 ∧ ∀ y, s.grp? h = some y → (s.wgD y.wg).fn = fn ∧ (s.wgD y.wg).ctx = ctx

/-- A request in progress leaves a group of the context without a budget. -/
theorem Budgetless.budget (hb : Budgetless s fn ctx h) (k : GroupsMarked s t) (hy : t.grp? h = some y) :
    (t.ctxD (t.wgD y.wg).fn (t.wgD y.wg).ctx).pbudget = 0 := by
  have hplace := k.places h
  rw [hy] at hplace
  cases hs : s.grp? h with
  | none => rw [hs] at hplace; cases hplace
  | some y0 =>
    rw [hs] at hplace
    injection hplace with hplace
    injection hplace with hwg _
    obtain ⟨hfn, hctx⟩ := hb.2 y0 hs
    rw [k.wgD, k.ctxD, hwg, hfn, hctx]
    exact hb.1

theorem GroupsMarked.preemptGroup (k : GroupsMarked s t) (hb : Budgetless s fn ctx h) : GroupsMarked s (t.preemptGroup h) := by
  cases hy : t.grp? h with
  | none =>
    have e : t.preemptGroup h = t := by simp only [State.preemptGroup, hy]
    rwa [e]
  | some y =>
    rcases preemptGroup_budgetless hy (hb.budget k hy) with e | e | e <;> rw [e]
    · exact k
    · exact k.updGrp h fun _ => ⟨rfl, rfl⟩
    · exact k.updGrp h fun _ => ⟨rfl, rfl⟩

/-- A request to another group leaves group `g` as it is. -/
theorem preemptGroup_other (k : GroupsMarked s t) (hb : Budgetless s fn ctx h) (hne : g ≠ h) :
    (t.preemptGroup h).grp? g = t.grp? g := by
  cases hy : t.grp? h with
  | none =>
    have e : t.preemptGroup h = t := by simp only [State.preemptGroup, hy]
    rw [e]
  | some y =>
    rcases preemptGroup_budgetless hy (hb.budget k hy) with e | e | e <;> rw [e]
    · rw [grp?_updGrp, if_neg hne]
    · rw [grp?_updGrp, if_neg hne]

/-- While requests go out from `s` to the groups of a context: group `g` is as it was, or marked. -/
structure Requesting (s : State) (g : Nat) (x : Group) (t : State) : Prop where
  marks : GroupsMarked s t
  stands : t.grp? g = some x ∨ t.grp? g = some x.marked

/-- What each step of a loop keeps, and what one of its steps reaches and the others keep, hold at its end. -/
theorem foldl_reaches {α : Type} {f : State → α → State} {l : List α} {R Q : State → Prop} {a : α} (ha : a ∈ l)
    (hR : ∀ t, ∀ b ∈ l, R t → R (f t b)) (hQ : ∀ t, ∀ b ∈ l, R t → Q t → Q (f t b)) (hset : ∀ t, R t → Q (f t a))
    (h : R s) : R (l.foldl f s) ∧ Q (l.foldl f s) := by
  have hkeep : ∀ (l' : List α), (∀ b ∈ l', b ∈ l) → ∀ t, R t → Q t → R (l'.foldl f t) ∧ Q (l'.foldl f t) := by
    intro l'
    induction l' with
    | nil => exact fun _ t hr hq => ⟨hr, hq⟩
    | cons b l' ih =>
      intro hl t hr hq
      obtain ⟨hb, hl⟩ := List.forall_mem_cons.1 hl
      exact ih hl _ (hR t b hb hr) (hQ t b hb hr hq)
  obtain ⟨pre, post, rfl⟩ := List.append_of_mem ha
  have hpre : R (pre.foldl f s) := List.foldlRecOn pre f h fun t hr b hb => hR t b (List.mem_append_left _ hb) hr
  rw [List.foldl_append, List.foldl_cons]
  exact hkeep post (fun b hb => by simp [hb]) _ (hR _ a ha hpre) (hset _ hpre)

section Requests

variable (hres : x.phase = .resident) (hpre : x.preempt = false) (htrap : x.trapMode = false ∨ x.inPreempt = false)
  (hmid : s.midway (.grp g x.pc) = false)
include hres hpre htrap hmid

/-- A request to group `g` marks it. -/
theorem Requesting.marks_self (r : Requesting s g x t) (hb : Budgetless s fn ctx g) : (t.preemptGroup g).grp? g = some x.marked := by
  rcases r.stands with hx | hx
  · rw [preemptGroup_marks hx (hb.budget r.marks hx) hres hpre htrap ((r.marks.midway _).trans hmid)]
    exact grp?_updGrp_of hx _
  · rw [preemptGroup_preempted hx rfl, hx]

theorem Requesting.preemptGroup (r : Requesting s g x t) (hb : Budgetless s fn ctx h) :
    Requesting s g x (t.preemptGroup h) ∧ (t.grp? g = some x.marked → (t.preemptGroup h).grp? g = some x.marked) := by
  by_cases hne : g = h
  · subst hne
    have hself := r.marks_self hres hpre htrap hmid hb
    exact ⟨⟨r.marks.preemptGroup hb, .inr hself⟩, fun _ => hself⟩
  · have hother := preemptGroup_other r.marks hb hne
    exact ⟨⟨r.marks.preemptGroup hb, by rw [hother]; exact r.stands⟩, fun hx => hother.trans hx⟩

theorem Requesting.preemptWg (r : Requesting s g x t) {w : Nat} (hb : ∀ h ∈ (s.wgD w).groups, Budgetless s fn ctx h) :
    Requesting s g x (t.preemptWg w) ∧ (t.grp? g = some x.marked → (t.preemptWg w).grp? g = some x.marked)
      ∧ (g ∈ (s.wgD w).groups → (t.preemptWg w).grp? g = some x.marked) := by
  rw [State.preemptWg, r.marks.wgD]
  have hR : ∀ t, ∀ h ∈ (s.wgD w).groups, Requesting s g x t → Requesting s g x (t.preemptGroup h) :=
    fun t h hh r => (r.preemptGroup hres hpre htrap hmid (hb h hh)).1
  have hQ : ∀ t, ∀ h ∈ (s.wgD w).groups, Requesting s g x t → t.grp? g = some x.marked →
      (t.preemptGroup h).grp? g = some x.marked := fun t h hh r => (r.preemptGroup hres hpre htrap hmid (hb h hh)).2
  refine ⟨List.foldlRecOn _ _ r fun t r h hh => hR t h hh r, fun hx => ?_, fun hg => ?_⟩
  · exact (List.foldlRecOn (motive := fun t => Requesting s g x t ∧ t.grp? g = some x.marked) _ _ ⟨r, hx⟩
      fun t k h hh => ⟨hR t h hh k.1, hQ t h hh k.1 k.2⟩).2
  · exact (foldl_reaches hg hR hQ (fun t r => r.marks_self hres hpre htrap hmid (hb g hg)) r).2

/-- A request to the context without a budget marks group `g` of one of its workgroups. -/
theorem preemptCtx_marks (hx : s.grp? g = some x) (hb : ∀ w ∈ s.ctxWgs fn ctx, ∀ h ∈ (s.wgD w).groups, Budgetless s fn ctx h)
    {w : Nat} (hw : w ∈ s.ctxWgs fn ctx) (hg : g ∈ (s.wgD w).groups) : (s.preemptCtx fn ctx).grp? g = some x.marked :=
  (foldl_reaches (R := Requesting s g x) (Q := fun t => t.grp? g = some x.marked) hw
    (fun _ w' hw' r => (r.preemptWg hres hpre htrap hmid (hb w' hw')).1)
    (fun _ w' hw' r => (r.preemptWg hres hpre htrap hmid (hb w' hw')).2.1)
    (fun _ r => (r.preemptWg hres hpre htrap hmid (hb w hw)).2.2 hg) ⟨.refl s, .inl hx⟩).2

end Requests

/-! ### The pre-emption handler -/

/-- Two changes of a group are one. -/
theorem updGrp_updGrp (s : State) (g : Nat) (u v : Group → Group) :
    (s.updGrp g u).updGrp g v = s.updGrp g fun y => v (u y) := by
  cases h : s.grp? g with
  | none => simp [State.updGrp, h]
  | some x =>
    rw [updGrp_of _ (grp?_updGrp_of h u), updGrp_of _ h, updGrp_of _ h, State.setGrp, State.setGrp, State.setGrp, tput_tput]

theorem unwait_none (h : s.grp? g = some x) (hw : x.wait = .none) : s.unwait g = s.updGrp g fun y => { y with wait := .none } := by
  simp only [State.unwait, grpD_of _ h, hw]

/-- A request with a budget to the one group of the one workgroup, at a slot of its block, enters its pre-emption handler. -/
theorem preemptGroup_enters (hx : s.grp? g = some x) (hb : (s.ctxD (s.wgD x.wg).fn (s.wgD x.wg).ctx).pbudget ≠ 0)
    (hvec : (s.wgD x.wg).preempt ≠ 0) (hres : x.phase = .resident) (hpre : x.preempt = false) (htrap : x.trapMode = false)
    (hwait : x.wait = .none) (hin : x.inBlock = true) (hfree : (s.bankD x.bankKey).owner = none)
    (hmid : s.midway (.grp g x.pc) = false) :
    s.preemptGroup g = (s.updGrp g fun y => { y with wait := .none, delayed := [], preempt := false }).enterTrap g
      { cause := 15, pc := x.pc } (s.wgD x.wg).preempt := by
  have hgo : ¬ (x.phase ≠ .resident ∨ x.preempt = true
      ∨ (x.trapMode = true ∧ x.inPreempt = true ∧ ¬ x.trapInfo.getLsbD 0 = true)) := by simp [hres, hpre, htrap]
  have hask : s.midway (s.slotAsker g) = false := by rw [State.slotAsker, grpD_of _ hx, hmid]
  have hrequest : s.preemptGroup g
      = (s.updGrp g fun y => { y with wait := .none, delayed := [] }).enterPreempt g := by
    unfold State.preemptGroup
    rw [hx]
    dsimp only
    rw [if_neg hgo, hask]
    simp only [hwait, hb, hvec, htrap, Bool.false_eq_true, or_self, if_false, unwait_none hx hwait, updGrp_updGrp]
  have hstand := grp?_updGrp_of hx fun y => { y with wait := .none, delayed := [] }
  have hready := grp?_updGrp_of hx fun y => { y with wait := .none, delayed := [], preempt := false }
  rw [hrequest, State.enterPreempt, arrive_inBlock hstand hin]
  dsimp only
  rw [updGrp_updGrp, State.deliver, State.preemptOf, grpD_of _ hready, bankD_of_banks (updGrp_banks ..)]
  dsimp only [Group.bankKey]
  rw [show (s.bankD (8 * x.core + x.sub)).owner = none from hfree]
  dsimp only
  rw [State.wgD, updGrp_wgs]
  rfl

theorem preemptionRequests_hold : preemptionRequests := by
  intro s fn ctx ws hws
  refine ⟨fun hb => ⟨_, rfl, fun w hw g hg x hx hres hpre htrap hmid => ?marked⟩,
    fun w g x hd honly hgroups hx hb hvec hres hpre htrap hwait hin hfree hmid ht hh => ?entered⟩
  case marked =>
    refine preemptCtx_marks hres hpre htrap hmid hx (fun w hw h hh => ⟨hb, fun y hy => ?_⟩) hw hg
    obtain ⟨hfn, hctx, hown⟩ := hws w hw
    rw [hown h hh y hy]
    exact ⟨hfn, hctx⟩
  case entered =>
    obtain ⟨hfn, hctx, hown⟩ := hws w (by rw [honly]; exact List.mem_singleton_self w)
    have hwg : x.wg = w := hown g (by rw [hgroups]; exact List.mem_singleton_self g) x hx
    subst hwg
    have hready := grp?_updGrp_of hx fun y => { y with wait := .none, delayed := [], preempt := false }
    have hexec : exec (.preemptionRequest fn ctx) s = .next (s.preemptGroup g) := by
      change Host.Outcome.next (s.preemptCtx fn ctx) = _
      rw [State.preemptCtx, show s.ctxWgs fn ctx = [x.wg] from honly, List.foldl_cons, List.foldl_nil, State.preemptWg, hgroups]
      rfl
    rw [preemptGroup_enters hx (by rw [hfn, hctx]; exact hb) hvec hres hpre htrap hwait hin hfree hmid] at hexec
    obtain ⟨hy, howner⟩ := enterTrap_enters hready { cause := 15, pc := x.pc } ht hh
    refine ⟨_, hexec, _, hy, rfl, rfl, rfl, rfl, rfl, ?_, rfl, howner⟩
    rw [trapped_enter, State.wgD, State.ctxD, updGrp_wgs, updGrp_ctxs, ← State.wgD, hfn, hctx, ← State.ctxD]
    simp [Group.trapped]

end Sys2Proof.Machine
end

section
/-! SUPPORT. What the writes of a forced save leave of the queues of matrix instructions (R230, R248, R368): one lemma per
operation, named `noneQueued_` and the operation. -/

namespace Sys2Proof.Machine

variable {s t : State} {w : Nat}

/-- No core's queue holds a matrix instruction of workgroup `w`. -/
def NoneQueued (w : Nat) (s : State) : Prop := ∀ p ∈ s.cores, (p.2.engq.any fun o => decide (o.wg = w)) = false

theorem noneQueued_of_cores (h : NoneQueued w s) (hc : t.cores = s.cores) : NoneQueued w t := fun p hp => h p (hc ▸ hp)

theorem noneQueued_foldl {β : Type} {f : State → β → State} (h : ∀ s b, NoneQueued w s → NoneQueued w (f s b)) (l : List β)
    (hs : NoneQueued w s) : NoneQueued w (l.foldl f s) := List.foldlRecOn l f hs fun t ht b _ => h t b ht

theorem noneQueued_ite {p : Prop} [Decidable p] {a b : State} (ha : NoneQueued w a) (hb : NoneQueued w b) :
    NoneQueued w (if p then a else b) := by
  split
  · exact ha
  · exact hb

theorem noneQueued_ite1 {β : Type} {p : Prop} [Decidable p] {a b : State × β} (ha : NoneQueued w a.1) (hb : NoneQueued w b.1) :
    NoneQueued w (if p then a else b).1 := by
  split
  · exact ha
  · exact hb

theorem mem_tdel {α : Type} {l : Table α} {k : Nat} {p : Nat × α} (h : p ∈ tdel l k) : p ∈ l := by
  induction l with
  | nil => cases h
  | cons q l ih =>
    obtain ⟨j, v⟩ := q
    rw [tdel] at h
    split at h
    · exact List.mem_cons_of_mem _ (ih h)
    · rcases List.mem_cons.1 h with rfl | h
      · exact List.mem_cons_self ..
      · exact List.mem_cons_of_mem _ (ih h)

/-- A change of a core that leaves its queue alone. -/
theorem noneQueued_updCore (c : Nat) {f : Core → Core} (hf : ∀ k, (f k).engq = k.engq) (h : NoneQueued w s) :
    NoneQueued w (s.updCore c f) := by
  have hcore : ((s.coreD c).engq.any fun o => decide (o.wg = w)) = false := by
    unfold State.coreD tval
    cases hc : tget s.cores c with
    | none => rfl
    | some k => exact h _ (mem_of_tget hc)
  intro p hp
  rw [State.updCore, tset] at hp
  dsimp only at hp
  split at hp
  · exact h p (mem_tdel hp)
  · rcases mem_tput hp with rfl | hp
    · dsimp only
      rwa [hf]
    · exact h p hp

/-- A change of the cores that a test picks that leaves their queues alone. -/
theorem noneQueued_mapCoresIf {p : Nat × Core → Bool} {f : Core → Core} (hf : ∀ k, (f k).engq = k.engq) (h : NoneQueued w s) :
    NoneQueued w { s with cores := s.cores.map fun k => if p k = true then (k.1, f k.2) else k } := by
  intro q hq
  obtain ⟨k, hk, rfl⟩ := List.mem_map.1 hq
  split
  · dsimp only
    rw [hf]
    exact h k hk
  · exact h k hk

/-! ### Memory and caches -/

theorem noneQueued_wrBytes (l : Nat) (bs : List Byte) (h : NoneQueued w s) : NoneQueued w (s.wrBytes l bs) := by
  induction bs generalizing s l with
  | nil => exact h
  | cons b bs ih => exact ih (s := s.wrByte l b) _ (noneQueued_of_cores h rfl)

theorem noneQueued_l1Map (line : Nat) (p : Nat → Bool) (f : L1Line → Option L1Line) (h : NoneQueued w s) :
    NoneQueued w (s.l1Map line p f) :=
  noneQueued_mapCoresIf (p := fun k => p k.1 && k.2.l1.any fun e => decide (e.line = line))
    (f := fun k => { k with l1 := k.l1.filterMap fun e => if e.line = line then f e else some e }) (fun _ => rfl) h

theorem noneQueued_recall (line : Nat) (h : NoneQueued w s) : NoneQueued w (s.recall line) :=
  noneQueued_of_cores (noneQueued_l1Map line (fun k => decide (dieOf k = s.lineHome line)) (fun _ => none)
    (noneQueued_l1Map line (fun _ => true) (fun e => if e.st = .shared then some e else none) h)) rfl

theorem noneQueued_hostOwnAt (loc : Nat) (h : NoneQueued w s) : NoneQueued w (s.hostOwnAt loc) :=
  noneQueued_ite (noneQueued_of_cores h rfl) h

theorem noneQueued_countLine (line : Nat) (h : NoneQueued w s) : NoneQueued w (s.countLine line) :=
  noneQueued_ite h (noneQueued_of_cores h rfl)

theorem noneQueued_countLines (l n : Nat) (h : NoneQueued w s) : NoneQueued w (s.countLines l n) :=
  noneQueued_foldl (fun _ _ h => noneQueued_countLine _ h) _ h

theorem noneQueued_noteNode (loc : Nat) (h : NoneQueued w s) : NoneQueued w (s.noteNode loc) := by
  unfold State.noteNode
  split
  · exact h
  · exact noneQueued_ite h (noneQueued_of_cores h rfl)

theorem noneQueued_verifyLine (line : Nat) (h : NoneQueued w s) : NoneQueued w (s.verifyLine line) :=
  noneQueued_ite h (noneQueued_of_cores h rfl)

theorem noneQueued_chargeAt (fn loc n : Nat) (h : NoneQueued w s) : NoneQueued w (s.chargeAt fn loc n) := by
  refine noneQueued_ite h (noneQueued_of_cores h ?_)
  unfold State.charge State.updFn
  split <;> rfl

theorem noneQueued_writeBack (die : Nat) (e : DirtyLine) (h : NoneQueued w s) : NoneQueued w (s.writeBack die e) := by
  unfold State.writeBack
  split
  · exact noneQueued_of_cores h rfl
  · have k : NoneQueued w (e.bytes.foldl (fun t p => t.wrByte (128 * e.line + p.1) p.2) s) :=
      noneQueued_foldl (fun _ _ h => by exact noneQueued_of_cores h rfl) _ h
    dsimp only
    split
    · exact noneQueued_chargeAt _ _ _ (noneQueued_countLine _ (noneQueued_of_cores k rfl))
    · exact noneQueued_countLine _ (noneQueued_of_cores k rfl)

theorem noneQueued_cleanCore (c : Nat) (h : NoneQueued w s) : NoneQueued w (s.cleanCore c) :=
  noneQueued_updCore c (f := fun k => { k with dirty := [] }) (fun _ => rfl)
    (noneQueued_foldl (fun _ _ h => noneQueued_writeBack _ _ h) _ h)

theorem noneQueued_release (die scp : Nat) (h : NoneQueued w s) : NoneQueued w (s.release die scp) :=
  noneQueued_ite (noneQueued_foldl (fun _ _ h => noneQueued_cleanCore _ h) _ h) h

theorem noneQueued_bankWrite (l n x : Nat) (h : NoneQueued w s) : NoneQueued w (s.bankWrite l n x) :=
  noneQueued_countLines _ _ (noneQueued_wrBytes _ _ (noneQueued_hostOwnAt _ (noneQueued_recall _ h)))

/-! ### The hub's accesses -/

theorem noneQueued_noteWalk (c : Context) (sp va : Nat) (h : NoneQueued w s) : NoneQueued w (s.noteWalk c sp va) :=
  noneQueued_ite h (noneQueued_foldl (fun _ _ h => noneQueued_verifyLine _ (noneQueued_noteNode _ h)) _ h)

theorem noneQueued_takeOwners (world : Nat) (priv : Bool) (l : List Nat) (h : NoneQueued w s) :
    NoneQueued w (s.takeOwners world priv l).1 := by
  induction l generalizing s with
  | nil => exact h
  | cons f t ih => exact noneQueued_ite1 (ih (noneQueued_of_cores h rfl)) (noneQueued_ite1 (ih h) h)

theorem noneQueued_mark (world : Nat) (l : Word) (fs : List Nat) (h : NoneQueued w s) : NoneQueued w (s.mark world l fs) :=
  noneQueued_ite h (noneQueued_foldl (fun _ _ h => by exact noneQueued_of_cores h rfl) _ h)

theorem noneQueued_touch (fn ctx : Nat) (ds : List Nat) (h : NoneQueued w s) : NoneQueued w (s.touch fn ctx ds) := by
  refine noneQueued_of_cores h ?_
  unfold State.touch State.updCtx
  split <;> rfl

theorem noneQueued_hubWalk (fn ctx va : Nat) (wr p : Bool) (h : NoneQueued w s) : NoneQueued w (s.hubWalk fn ctx va wr p).1 := by
  unfold State.hubWalk
  have h := noneQueued_noteWalk (s.ctxD fn ctx) 0 va h
  dsimp only
  split
  · next l place size _ _ =>
    have k : NoneQueued w (if leafTier l ≤ 1 then (s.noteWalk (s.ctxD fn ctx) 0 va).takeOwners
        (((s.noteWalk (s.ctxD fn ctx) 0 va).hubView fn ctx).asPriv p).world (leafPriv l) (framesOf l size)
        else (s.noteWalk (s.ctxD fn ctx) 0 va, true)).1 := noneQueued_ite1 (noneQueued_takeOwners _ _ _ h) h
    exact noneQueued_ite1 h (noneQueued_ite1 k (noneQueued_touch _ _ _ (noneQueued_mark _ _ _
      (noneQueued_ite k (noneQueued_bankWrite _ _ _ k)))))
  · exact h

theorem noneQueued_hubTouch (fn loc n : Nat) (h : NoneQueued w s) : NoneQueued w (s.hubTouch fn loc n) :=
  noneQueued_chargeAt _ _ _ (noneQueued_verifyLine _ (noneQueued_noteNode _ (noneQueued_hostOwnAt _ h)))

theorem noneQueued_hubOpen (fn ctx va : Nat) (p : Bool) (h : NoneQueued w s) : NoneQueued w (s.hubOpen fn ctx va p).1 := by
  have k := noneQueued_hubWalk fn ctx va false p h
  unfold State.hubOpen
  extract_lets r t
  have k : NoneQueued w t := k
  clear_value t
  split
  · exact noneQueued_hubTouch fn _ 128 (noneQueued_recall _ k)
  · exact noneQueued_ite k (noneQueued_of_cores k rfl)
  · exact k

theorem noneQueued_hubOpenAll (fn ctx va n : Nat) (p : Bool) (h : NoneQueued w s) :
    NoneQueued w (s.hubOpenAll fn ctx va n p).1 :=
  List.foldlRecOn (motive := fun a : State × List PageRef => NoneQueued w a.1) _ _ h fun _ ha _ _ => noneQueued_hubOpen _ _ _ _ ha

theorem noneQueued_wsOpen (fn ctx : Nat) (h : NoneQueued w s) : NoneQueued w (s.wsOpen fn ctx).1 := by
  have k := noneQueued_hubOpen fn ctx (s.ctxD fn ctx).wshdr.toNat false h
  exact noneQueued_ite1 h (by dsimp only; exact noneQueued_ite1 k (noneQueued_hubOpenAll _ _ _ _ _ k))

theorem noneQueued_hubStore (fn ctx va n x : Nat) (p : Bool) (h : NoneQueued w s) :
    NoneQueued w (s.hubStore fn ctx va n x p).1 := by
  have k := noneQueued_hubWalk fn ctx va true p h
  unfold State.hubStore
  generalize s.hubWalk fn ctx va true p = r at k
  dsimp only
  split
  · exact noneQueued_hubTouch fn _ n (noneQueued_bankWrite _ n x k)
  · exact noneQueued_ite (noneQueued_of_cores k rfl) (noneQueued_of_cores k rfl)
  · exact k

theorem noneQueued_wsPush (fn ctx : Nat) (e : Word) (h : NoneQueued w s) : NoneQueued w (s.wsPush fn ctx e).1 := by
  unfold State.wsPush
  extract_lets hd n a p q r
  have hq : NoneQueued w q.1 := noneQueued_hubStore _ _ _ _ _ _ (noneQueued_hubStore _ _ _ _ _ _ h)
  clear_value q
  have hr : NoneQueued w r.1 := noneQueued_ite1 (noneQueued_hubStore _ _ _ _ _ _ hq) hq
  clear_value r
  exact noneQueued_ite1 h (noneQueued_ite1 (noneQueued_hubStore _ _ _ _ _ _ h) (noneQueued_ite1 h hr))

theorem noneQueued_wsNotes (fn ctx n : Nat) (ps : List PageRef) (h : NoneQueued w s) : NoneQueued w (s.wsNotes fn ctx n ps) := by
  induction n generalizing s ps with
  | zero => exact h
  | succ n ih =>
    refine noneQueued_ite h (ih _ ?_)
    exact List.foldlRecOn (motive := fun a : State × List PageRef => NoneQueued w a.1) _ _ (noneQueued_wsOpen _ _ h)
      fun _ ha _ _ => noneQueued_ite1 (noneQueued_wsPush _ _ _ ha) ha

theorem noneQueued_savePut (fn ctx base : Nat) (fs : List (Nat × Nat × Nat)) (h : NoneQueued w s) :
    NoneQueued w (s.savePut fn ctx base fs) :=
  noneQueued_foldl (fun _ _ h => noneQueued_wsNotes _ _ _ _ (noneQueued_hubStore _ _ _ _ _ _ h)) _ h

theorem accessed_savePut {s0 : State} (fn ctx base : Nat) (fs : List (Nat × Nat × Nat)) (h : Accessed s0 s) :
    Accessed s0 (s.savePut fn ctx base fs) :=
  accessed_foldl (fun _ _ h => accessed_wsNotes _ _ _ _ (accessed_hubStore _ _ _ _ _ _ h)) _ _ h

end Sys2Proof.Machine
end

section
/-! SUPPORT and O48. Forced saves (R31, R259, R368), and the events of groups. -/

namespace Sys2Proof.Machine

variable {s t : State} {g w : Nat} {x y z : Group}

/-! ### The pending results -/

/-- `y` is `x` but for its registers and predicates and those of the state kept for a forced save. -/
structure Group.Kept (y x : Group) : Prop where
  same : { y with sregs := x.sregs, vregs := x.vregs, queue := x.queue, sps := x.sps, vps := x.vps, snap := x.snap } = x
  masks : y.snap.map Snap.masks = x.snap.map Snap.masks

theorem Group.Kept.refl (x : Group) : x.Kept x := ⟨rfl, rfl⟩

theorem Group.Kept.trans (h : z.Kept y) (k : y.Kept x) : z.Kept x where
  same := by
    have e : ({ z with sregs := x.sregs, vregs := x.vregs, queue := x.queue, sps := x.sps, vps := x.vps, snap := x.snap } : Group)
        = { y with sregs := x.sregs, vregs := x.vregs, queue := x.queue, sps := x.sps, vps := x.vps, snap := x.snap } :=
      congrArg (fun u : Group =>
        { u with sregs := x.sregs, vregs := x.vregs, queue := x.queue, sps := x.sps, vps := x.vps, snap := x.snap }) h.same
    exact e.trans k.same
  masks := h.masks.trans k.masks

/-- One pending result is written to the group and to its kept state. -/
theorem grp?_writePending (h : s.grp? g = some x) (p : Pend) :
    ∃ y, ((s.writeNow g p.writes).snapWrite g p.id).grp? g = some y ∧ y.Kept x := by
  obtain ⟨y, hy, hsame⟩ := grp?_writeNow h p.writes
  obtain ⟨k, hk, hmasks⟩ := grp?_snapWrite hy p.id
  have hsnap : y.snap = x.snap := (congrArg Group.snap hsame :)
  refine ⟨_, hk, ?_, hmasks.trans (congrArg _ hsnap)⟩
  rw [← hsnap]
  exact hsame

theorem grp?_writePendings (h : s.grp? g = some x) (l : List Pend) :
    ∃ y, (l.foldl (fun t p => (t.writeNow g p.writes).snapWrite g p.id) s).grp? g = some y ∧ y.Kept x := by
  induction l generalizing s x with
  | nil => exact ⟨x, h, .refl x⟩
  | cons p l ih =>
    obtain ⟨y, hy, hxy⟩ := grp?_writePending h p
    obtain ⟨z, hz, hyz⟩ := ih hy
    exact ⟨z, hz, hyz.trans hxy⟩

/-- The pending results are written and none is left. -/
theorem grp?_writePend (h : s.grp? g = some x) :
    ∃ y, (s.writePend g).grp? g = some { y with pend := [] } ∧ y.Kept x ∧ (x.pend = [] → y = x) := by
  obtain ⟨y, hy, hxy⟩ := grp?_writePendings h x.pend
  refine ⟨y, ?_, hxy, fun hnone => ?_⟩
  · rw [State.writePend, grpD_of _ h]
    exact grp?_updGrp_of hy _
  · rw [hnone, List.foldl_nil, h] at hy
    exact (Option.some.inj hy).symm

theorem snapWrite_frame (s : State) (g id : Nat) : { s.snapWrite g id with groups := s.groups } = s := by
  unfold State.snapWrite
  split
  · rfl
  · split
    · rfl
    · exact updGrp_frame _ _ _

/-- `t` is `s` but for its groups and trap banks. -/
def SameMachine (s t : State) : Prop := { t with groups := s.groups, banks := s.banks } = s

theorem SameMachine.trans {u : State} (h : SameMachine s t) (k : SameMachine t u) : SameMachine s u :=
  (congrArg (fun v : State => { v with groups := s.groups, banks := s.banks }) k :).trans h

theorem sameMachine_updGrp (s : State) (g : Nat) (u : Group → Group) : SameMachine s (s.updGrp g u) :=
  (congrArg (fun v : State => { v with banks := s.banks }) (updGrp_frame s g u) :)

theorem sameMachine_writePend (s : State) (g : Nat) : SameMachine s (s.writePend g) := by
  have hone : ∀ (t : State) (p : Pend), SameMachine t ((t.writeNow g p.writes).snapWrite g p.id) := fun t p =>
    SameMachine.trans (writeNow_frame t g p.writes)
      ((congrArg (fun v : State => { v with banks := (t.writeNow g p.writes).banks })
        (snapWrite_frame (t.writeNow g p.writes) g p.id) :))
  have hall : SameMachine s ((s.grpD g).pend.foldl (fun t p => (t.writeNow g p.writes).snapWrite g p.id) s) :=
    List.foldlRecOn (motive := SameMachine s) _ _ rfl fun t ht p _ => ht.trans (hone t p)
  exact hall.trans (sameMachine_updGrp _ _ _)

theorem sameMachine_freeBank (s : State) (g : Nat) : SameMachine s (s.freeBank g) := by
  unfold State.freeBank
  dsimp only
  split <;> rfl

/-! ### The form that is saved (R31, R259) -/

theorem Group.Kept.atSlot (h : y.Kept x) : y.atSlot.act = x.atSlot.act ∧ y.atSlot.live = x.atSlot.live
    ∧ y.atSlot.fmt = x.atSlot.fmt ∧ y.atSlot.mstk = x.atSlot.mstk := by
  have hm := h.masks
  unfold Group.atSlot
  cases hx : x.snap with
  | none =>
    cases hy : y.snap with
    | none => exact ⟨(congrArg Group.act h.same :), (congrArg Group.live h.same :), (congrArg Group.fmt h.same :),
        (congrArg Group.mstk h.same :)⟩
    | some k => rw [hx, hy] at hm; cases hm
  | some k =>
    cases hy : y.snap with
    | none => rw [hx, hy] at hm; cases hm
    | some k' =>
      rw [hx, hy] at hm
      injection hm with hm
      exact ⟨(congrArg Prod.fst hm :), (congrArg (fun m => m.2.1) hm :), (congrArg (fun m => m.2.2.1) hm :),
        (congrArg (fun m => m.2.2.2) hm :)⟩

theorem boundary_place (x : Group) : x.boundary.pc = x.pc ∧ x.boundary.act = x.act ∧ x.boundary.live = x.live
    ∧ x.boundary.fmt = x.fmt ∧ x.boundary.mstk = x.mstk ∧ x.boundary.sregs = x.sregs := by
  unfold Group.boundary
  split <;> exact ⟨rfl, rfl, rfl, rfl, rfl, rfl⟩

theorem atSlot_place (x : Group) :
    x.atSlot.pc = x.pc ∧ x.atSlot.trapMode = x.trapMode ∧ x.atSlot.trapPc = x.trapPc := by
  unfold Group.atSlot
  split
  · exact ⟨rfl, rfl, rfl⟩
  · exact ⟨rfl, rfl, rfl⟩

/-- The saved form stands at the interrupted slot, with the masks and scalar registers that it had there. -/
theorem resumeForm_eq (x : Group) : x.resumeForm.pc = (if x.trapMode then x.trapPc else x.pc)
    ∧ x.resumeForm.act = x.atSlot.act ∧ x.resumeForm.live = x.atSlot.live ∧ x.resumeForm.fmt = x.atSlot.fmt
    ∧ x.resumeForm.mstk = x.atSlot.mstk ∧ x.resumeForm.sregs = x.atSlot.sregs := by
  obtain ⟨hpc, hmode, htrap⟩ := atSlot_place x
  rw [← hpc, ← hmode, ← htrap]
  unfold Group.resumeForm
  generalize x.atSlot = z
  extract_lets z' y
  obtain ⟨hbpc, hact, hlive, hfmt, hmstk, hsregs⟩ := boundary_place y
  refine ⟨hbpc.trans ?_, hact.trans ?_, hlive.trans ?_, hfmt.trans ?_, hmstk.trans ?_, hsregs.trans ?_⟩ <;>
  · unfold y
    split <;> rfl

/-! ### Leaving a wait -/

/-- Leaving a wait changes the group, slots of its workgroup, arrivals at its launch's barrier, and held faults. -/
theorem unwait_frame (s : State) (g : Nat) :
    { s.unwait g with groups := s.groups, wgs := s.wgs, launches := s.launches, holds := s.holds } = s := by
  unfold State.unwait
  extract_lets x s1
  have hs1 : { s1 with groups := s.groups, wgs := s.wgs, launches := s.launches, holds := s.holds } = s := by
    unfold s1
    split
    · unfold State.updWg
      split <;> rfl
    · unfold State.updLaunch
      split <;> rfl
    · rfl
    · rfl
  exact (congrArg (fun v : State => { v with groups := s.groups, wgs := s.wgs, launches := s.launches, holds := s.holds })
    (updGrp_frame s1 g fun x => { x with wait := .none }) :).trans hs1

theorem unwait_launch (s : State) (g w : Nat) : ((s.unwait g).wgD w).launch = (s.wgD w).launch := by
  unfold State.unwait
  extract_lets x s1
  have hs1 : (s1.wgD w).launch = (s.wgD w).launch := by
    unfold s1
    split
    · rcases wgD_updWg s w x.wg _ with e | ⟨-, e⟩ <;> rw [e]
    · rw [wgD_updLaunch]
    · rfl
    · rfl
  rw [State.wgD, updGrp_wgs]
  exact hs1

theorem unwait_desc (s : State) (g l : Nat) :
    (tget (s.unwait g).launches l).map Launch.desc = (tget s.launches l).map Launch.desc := by
  unfold State.unwait
  extract_lets x s1
  have hs1 : (tget s1.launches l).map Launch.desc = (tget s.launches l).map Launch.desc := by
    unfold s1
    split
    · unfold State.updWg
      split <;> rfl
    · unfold State.updLaunch
      split
      · next y hy =>
        rw [tget_tput]
        split
        · next e =>
          subst e
          rw [hy]
          rfl
        · rfl
      · rfl
    · rfl
    · rfl
  rw [updGrp_launches]
  exact hs1

/-! ### The workgroup that leaves (R31, R347) -/

theorem matDrain_idle (h : s.matBusy w = false) (n : Nat) : s.matDrain w n = s := by
  cases n with
  | zero => rfl
  | succ n => simp [State.matDrain, h]

/-- A workgroup without matrix work, of a launch that is not co-resident, leaves without a change of groups or trap banks. -/
theorem wgLeave_idle (h : s.matBusy w = false)
    (hl : ∀ l, tget s.launches (s.wgD w).launch = some l → l.desc.cores = false) :
    (s.wgLeave w).groups = s.groups ∧ (s.wgLeave w).banks = s.banks := by
  unfold State.wgLeave
  rw [matDrain_idle h]
  dsimp only
  have haccess : Accessed s ((s.release (dieOf ((s.wgD w).cores.headD 0)) 3).putWg w) :=
    accessed_savePut _ _ _ _ (accessed_release _ _ (.refl s))
  generalize (s.release (dieOf ((s.wgD w).cores.headD 0)) 3).putWg w = t at haccess
  have hframe := updWg_frame t w fun y => { y with resident := false, slots := [] }
  generalize t.updWg w (fun y => { y with resident := false, slots := [] }) = u at hframe
  have hgroups : u.groups = s.groups := (congrArg State.groups hframe :).trans haccess.groups
  have hbanks : u.banks = s.banks := (congrArg State.banks hframe :).trans haccess.banks
  have hlaunches : u.launches = s.launches := (congrArg State.launches hframe :).trans haccess.launches
  rw [h, hlaunches]
  split
  · exact ⟨rfl, rfl⟩
  · simp only [Bool.false_eq_true, if_false]
    split
    · next l hget =>
      simp only [hl l hget, Bool.false_eq_true, if_false]
      exact ⟨hgroups, hbanks⟩
    · exact ⟨hgroups, hbanks⟩

/-! ### Forced saves -/

/-- A workgroup stays without matrix work where the engines run what they ran and no queue takes an instruction of it. -/
theorem matBusy_of_noneQueued (h : s.matBusy w = false) (hq : NoneQueued w s → NoneQueued w t) (he : t.engines = s.engines) :
    t.matBusy w = false := by
  rw [State.matBusy, Bool.or_eq_false_iff] at h ⊢
  rw [he]
  refine ⟨List.any_eq_false.2 fun p hp => ?_, h.2⟩
  rw [hq (fun p hp => Bool.eq_false_iff.2 (List.any_eq_false.1 h.1 p hp)) p hp]
  exact Bool.false_ne_true

theorem Accessed.engines (h : Accessed s t) : t.engines = s.engines := (congrArg State.engines h.rest :)

/-- The overrun of a pre-emption budget is that of a resident group. -/
theorem resident_of_overrun (h : x.overrun = true) : x.phase = .resident := by
  simp only [Group.overrun, Bool.and_eq_true, decide_eq_true_eq] at h
  exact h.1.1

/-- The state in which a forced save writes its record: waits are left, results are written, and the trap bank is free. -/
def State.savable (s : State) (g : Nat) : State := ((s.unwait g).writePend g).freeBank g

/-- A group out of its wait, with nothing pending. -/
def Group.quieted (x : Group) : Group := { x with wait := .none, pend := [] }

theorem quieted_atSlot (x : Group) : x.quieted.atSlot = x.atSlot.quieted := by
  have hsnap : x.quieted.snap = x.snap := rfl
  unfold Group.atSlot
  rw [hsnap]
  cases x.snap <;> rfl

theorem grp?_savable (h : s.grp? g = some x) : ∃ y, (s.savable g).grp? g = some y
    ∧ y.Kept x.quieted ∧ (x.pend = [] → y = x.quieted) := by
  obtain ⟨y, hy, hkept, hnone⟩ := grp?_writePend (grp?_unwait h)
  refine ⟨_, (congrArg (tget · g) (freeBank_groups _ g)).trans hy,
    ⟨(congrArg (fun u : Group => { u with pend := [] }) hkept.same :), hkept.masks⟩, fun hp => ?_⟩
  rw [hnone hp]
  rfl

/-- The group no longer holds its trap bank. -/
theorem savable_owner (h : s.grp? g = some x) : ((s.savable g).bankD x.bankKey).owner ≠ some g := by
  obtain ⟨y, hy, hkept, -⟩ := grp?_writePend (grp?_unwait h)
  have hfree := freeBank_owner hy
  have hcore : y.core = x.core := (congrArg Group.core hkept.same :)
  have hsub : y.sub = x.sub := (congrArg Group.sub hkept.same :)
  have hkey : ({ y with pend := [] } : Group).bankKey = x.bankKey := by rw [Group.bankKey, Group.bankKey, hcore, hsub]
  rwa [hkey] at hfree

theorem sameMachine_savable (s : State) (g : Nat) : SameMachine (s.unwait g) (s.savable g) :=
  (sameMachine_writePend _ g).trans (sameMachine_freeBank _ g)

/-- The state once the record of a forced save of group `g` on core `c` is written. -/
def State.recorded (s : State) (g c : Nat) : State := (((s.savable g).release (dieOf c) 3).updGrp g Group.resumeForm).putGroup g

section Recorded

variable (s : State) (g c : Nat)

theorem accessed_recorded : Accessed (((s.savable g).release (dieOf c) 3).updGrp g Group.resumeForm) (s.recorded g c) :=
  accessed_savePut _ _ _ _ (.refl _)

theorem accessed_savableReleased : Accessed (s.savable g) ((s.savable g).release (dieOf c) 3) := accessed_release _ _ (.refl _)

theorem recorded_wgs : (s.recorded g c).wgs = (s.unwait g).wgs := by
  rw [(accessed_recorded s g c).wgs, updGrp_wgs, (accessed_savableReleased s g c).wgs]
  exact (congrArg State.wgs (sameMachine_savable s g) :)

theorem recorded_launches : (s.recorded g c).launches = (s.unwait g).launches := by
  rw [(accessed_recorded s g c).launches, updGrp_launches, (accessed_savableReleased s g c).launches]
  exact (congrArg State.launches (sameMachine_savable s g) :)

theorem recorded_banks : (s.recorded g c).banks = (s.savable g).banks := by
  rw [(accessed_recorded s g c).banks, updGrp_banks, (accessed_savableReleased s g c).banks]

theorem savable_cores : (s.savable g).cores = s.cores :=
  (congrArg State.cores (sameMachine_savable s g) :).trans (congrArg State.cores (unwait_frame s g) :)

theorem savable_engines : (s.savable g).engines = s.engines :=
  (congrArg State.engines (sameMachine_savable s g) :).trans (congrArg State.engines (unwait_frame s g) :)

theorem recorded_idle (h : s.matBusy w = false) : (s.recorded g c).matBusy w = false := by
  refine matBusy_of_noneQueued h (fun hq => ?_) ?_
  · exact noneQueued_savePut _ _ _ _ (noneQueued_of_cores (noneQueued_release _ _
      (noneQueued_of_cores hq (savable_cores s g))) (updGrp_cores ..))
  · rw [(accessed_recorded s g c).engines, updGrp_engines, (accessed_savableReleased s g c).engines, savable_engines]

/-- The launch of a workgroup is co-resident or not as before. -/
theorem recorded_launch (hl : ∀ l, tget s.launches (s.wgD w).launch = some l → l.desc.cores = false) :
    ∀ l, tget (s.recorded g c).launches ((s.recorded g c).wgD w).launch = some l → l.desc.cores = false := by
  intro l hget
  have hwg : (s.recorded g c).wgD w = (s.unwait g).wgD w := by rw [State.wgD, recorded_wgs, State.wgD]
  rw [recorded_launches, hwg, unwait_launch] at hget
  have hdesc := unwait_desc s g (s.wgD w).launch
  rw [hget] at hdesc
  cases hold : tget s.launches (s.wgD w).launch with
  | none => rw [hold] at hdesc; cases hdesc
  | some l0 =>
    rw [hold, Option.map_some, Option.map_some, Option.some.injEq] at hdesc
    rw [hdesc]
    exact hl l0 hold

theorem grp?_recorded (hy : (s.savable g).grp? g = some y) : (s.recorded g c).grp? g = some y.resumeForm := by
  rw [(accessed_recorded s g c).grp?]
  exact grp?_updGrp_of (((accessed_savableReleased s g c).grp? g).trans hy) _

end Recorded

/-- A forced save of a group outside trap mode that stands in its block, or of one in its handler, leaves it in its saved form. -/
theorem forceSave_eq (h : s.grp? g = some x) (hover : x.overrun = true) (hset : x.settled = true) (hq : s.peerQuiet g = true)
    (hin : x.trapMode = true ∨ x.inBlock = true) : s.forceSave g = (s.recorded g x.core).wgLeave x.wg := by
  obtain ⟨y, hy, hkept, -⟩ := grp?_savable h
  have harrive : (if x.trapMode = true then s.savable g else ((s.savable g).arrive g).1) = s.savable g := by
    rcases hin with ht | hin
    · rw [if_pos ht]
    · have hpc : y.pc = x.pc := (congrArg Group.pc hkept.same :)
      have hblock : y.block = x.block := (congrArg Group.block hkept.same :)
      have hyin : y.inBlock = true := by
        rw [← hin, Group.inBlock, Group.inBlock, hpc, hblock]
      rw [arrive_inBlock hy hyin, ite_self]
  have hphase := resident_of_overrun hover
  have hgo : ¬ (¬ x.overrun = true ∨ ¬ x.settled = true ∨ ¬ s.peerQuiet g = true) := by simp [hover, hset, hq]
  unfold State.forceSave
  rw [h]
  dsimp only
  rw [if_neg (not_not.2 hphase), if_neg hgo]
  change ((((if x.trapMode = true then s.savable g else ((s.savable g).arrive g).1).release (dieOf x.core) 3).updGrp g
    Group.resumeForm).putGroup g).wgLeave x.wg = _
  rw [harrive]
  rfl

theorem forcedSaves_hold : forcedSaves := by
  intro s g x h hover hset hq hin hbusy hlaunch
  obtain ⟨y, hy, hkept, hnone⟩ := grp?_savable h
  obtain ⟨hgroups, hbanks⟩ := wgLeave_idle (recorded_idle s g x.core hbusy) (recorded_launch s g x.core hlaunch)
  obtain ⟨hpc, hact, hlive, hfmt, hmstk, hsregs⟩ := resumeForm_eq y
  obtain ⟨kact, klive, kfmt, kmstk⟩ := hkept.atSlot
  rw [quieted_atSlot] at kact klive kfmt kmstk
  refine ⟨_, congrArg Host.Outcome.next (forceSave_eq h hover hset hq hin), _,
    (congrArg (tget · g) hgroups).trans (grp?_recorded s g x.core hy), rfl, rfl, rfl, rfl, rfl, rfl, ?_, hact.trans kact,
    hlive.trans klive, hfmt.trans kfmt, hmstk.trans kmstk, fun hp => ?_, ?_⟩
  · have hmode : y.trapMode = x.trapMode := (congrArg Group.trapMode hkept.same :)
    have htrap : y.trapPc = x.trapPc := (congrArg Group.trapPc hkept.same :)
    have hplace : y.pc = x.pc := (congrArg Group.pc hkept.same :)
    rw [hpc, hmode, htrap, hplace]
  · rw [hsregs, hnone hp, quieted_atSlot]
    rfl
  · rw [bankD_of_banks hbanks, bankD_of_banks (recorded_banks s g x.core)]
    exact savable_owner h

end Sys2Proof.Machine

open Sys2Proof Sys2Proof.Machine in
/-- Settles O48: results and the state kept for a forced save (`grp?_snapWrite`), trap entry (`enterTrap_enters`), requests in
any order of the groups (`preemptCtx_marks`), and the writes of a record, which leave no group changed (`accessed_recorded`). -/
theorem groupEvents : Obligations.GROUP_EVENTS := ⟨laterArrivals_hold, preemptionRequests_hold, forcedSaves_hold⟩
end

section
/-! SUPPORT and O38. The issue of a matrix instruction: with room in its core's engine queue and its checks passed it goes to the
end of that queue, and it stands at its slot while the queue is full (R226 to R237). -/

namespace Sys2Proof.Machine

variable {s : State} {f : Form} {sl : Slot} {x : Group} {opc : BitVec 8} {check : State → View → MatOp → Option Raise}
  {ws : List RegWrite}

theorem coreD_atIssue (h : s.grp? s.cur = some x) (c : Nat) : (s.atIssue sl).coreD c = s.coreD c := by
  rw [atIssue_eq h]; rfl

/-- The opcodes whose results the engine brings later: ACCRD, ACCALLOC and ACCALLOC.stat (R230). -/
def bringsLater (opc : BitVec 8) : Bool := decide (opc = 0xE6 ∨ opc = 0xE8)

/-- With room in the queue and its checks passed, an instruction is the queue's last. -/
theorem matIssue_room (hroom : (s.coreD x.core).engq.length < 16) (hc : check s (s.viewOf s.cur) (matOp opc sl s x) = none) :
    let t := s.updCore x.core fun k => { k with engq := k.engq ++ [matOp opc sl s x], emptyTick := false }
    matIssue opc check ws sl s x = if bringsLater opc = true then .late t ws else .done t [] := by
  simp only [matIssue, if_neg (Nat.not_le.2 hroom), hc, bringsLater, decide_eq_true_eq]

/-- A full queue stalls an instruction, whatever it is. -/
theorem matIssue_full (hfull : ¬ (s.coreD x.core).engq.length < 16) : matIssue opc check ws sl s x = s.stalled x := by
  simp only [matIssue, if_pos (Nat.not_lt.1 hfull)]

/-- The issue of an instruction in a slot that passes its checks, as the queue takes it. -/
theorem entersQueue_of (h : Issues s f sl x) {ins : Instr} {lat : Machine.Lat} {body : State → Group → Effect}
    (hroom : (s.coreD x.core).engq.length < 16) (he : exec ins s = runSlot f lat sl body s)
    (hb : body (s.atIssue sl) (x.cover sl) = matIssue opc check ws sl (s.atIssue sl) (x.cover sl))
    (hc : check (s.atIssue sl) ((s.atIssue sl).viewOf s.cur) (matOp opc sl (s.atIssue sl) (x.cover sl)) = none)
    (hws : bringsLater opc = false → ws = []) : entersQueue ins s x sl opc (bringsLater opc) lat ws := by
  have hcur := cur_atIssue (sl := sl) h.group
  have hq : ((s.atIssue sl).coreD (x.cover sl).core).engq.length < 16 := by rwa [coreD_atIssue h.group]
  rw [← hcur] at hc
  have hentry := hb.trans (matIssue_room (ws := ws) hq hc)
  refine ⟨rfl, rfl, hcur, rfl, rfl, rfl, rfl, ssrc_atIssue h.group _, ssrc_atIssue h.group _, ssrc_atIssue h.group _,
    ssrc_atIssue h.group _, ?_⟩
  rw [he, runSlot_of h, hentry]
  cases hl : bringsLater opc with
  | false => rw [if_neg Bool.false_ne_true, hws hl]; rfl
  | true => rw [if_pos rfl]; rfl

/-- ACCST and ACCRD go on where OFMT is a format of F, i8, i16 or i32. -/
theorem accFmt_of {body : State → Group → Effect}
    (hf : tyIsFmt sl = true → okOut (bits x.fmt 11 8) = true ∨ bits x.fmt 11 8 ∈ [0, 2, 4]) :
    accFmt sl body s x = body s x := by
  refine if_neg fun ⟨hfmt, hbad⟩ => hbad ?_
  simpa using hf hfmt

/-- A slot that stalls leaves its group at the slot. -/
theorem runSlot_stalled (h : Issues s f sl x) {lat : Machine.Lat} {body : State → Group → Effect}
    (hb : body (s.atIssue sl) (x.cover sl) = (s.atIssue sl).stalled (x.cover sl)) :
    ∃ t y, runSlot f lat sl body s = .next t ∧ t.grp? s.cur = some y ∧ y.pc = x.pc := by
  have hg := grp?_updGrp_of (grp?_atIssue (sl := sl) h.group) fun y => { y with yielded := true, blocked := true }
  obtain ⟨y, hy, hsame⟩ := grp?_passCycles_of hg x.core 1
  refine ⟨_, y, ?_, hy, (congrArg Group.pc hsame :)⟩
  rw [runSlot_of h, hb, ← cur_atIssue (sl := sl) h.group]
  rfl

end Sys2Proof.Machine

open Sys2Proof Sys2Proof.Machine in
/-- Settles O38: each instruction is one issue into its core's queue. -/
theorem matrixInstructionsEnterTheQueue : Obligations.MATRIX_INSTRUCTIONS_ENTER_THE_QUEUE := by
  intro s x sl i v room op goes comes fmtOk one
  refine ⟨fun hroom => ⟨fun h hc => ?mma, fun h hc => ?mmas, fun h hc => ?mmat, fun h => ?accz, fun h => ?accld, fun h hf => ?accst,
    fun h hf => ?accrd, fun h => ?accwr, fun h => ?accalloc, fun h => ?accstat, fun h => ?accfree, fun h hc => ?rows,
    fun h hc => ?cols⟩, fun hfull h => ?full⟩
  case mma => exact entersQueue_of h (check := State.mulCheck) hroom rfl rfl hc fun _ => rfl
  case mmas => exact entersQueue_of h (check := State.mulCheck) hroom rfl rfl hc fun _ => rfl
  case mmat => exact entersQueue_of h (check := State.mulCheck) hroom rfl rfl hc fun _ => rfl
  case accz => exact entersQueue_of h (check := noCheck) hroom rfl rfl rfl fun _ => rfl
  case accld => exact entersQueue_of h (check := noCheck) hroom rfl rfl rfl fun _ => rfl
  case accst => exact entersQueue_of h (check := noCheck) hroom rfl (accFmt_of hf) rfl fun _ => rfl
  case accrd => exact entersQueue_of h (check := noCheck) hroom rfl (accFmt_of hf) rfl nofun
  case accwr => exact entersQueue_of h (check := noCheck) hroom rfl rfl rfl fun _ => rfl
  case accalloc => exact entersQueue_of h (check := noCheck) hroom rfl rfl rfl nofun
  case accstat => exact entersQueue_of h (check := noCheck) hroom rfl rfl rfl nofun
  case accfree => exact entersQueue_of h (check := noCheck) hroom rfl rfl rfl fun _ => rfl
  case rows => exact entersQueue_of h (check := State.packCheck) hroom rfl rfl hc fun _ => rfl
  case cols => exact entersQueue_of h (check := State.packCheck) hroom rfl rfl hc fun _ => rfl
  case full =>
    have hq : ¬ ((s.atIssue sl).coreD (x.cover sl).core).engq.length < 16 := by rwa [coreD_atIssue h.group]
    exact runSlot_stalled (body := matIssue 0xE0 State.mulCheck [] sl) h (matIssue_full hq)
end

section
/-! SUPPORT and O36. An AFENCE of class MAT that completes the batch it closes, and so releases at the scope of that batch's
ACCST (R236, R239). -/

namespace Sys2Proof.Machine

/-- Completing a slot whose results come later leaves memory alone. -/
theorem finish_var_mem (s : State) (g : Nat) (sl : Slot) (ws : List RegWrite) (late : Bool) :
    (s.finish g sl .var ws late).mem = s.mem := by
  simp only [State.finish, State.writeLater, retire_mem, updGrp_mem]
  split
  · exact updGrp_mem _ _ _
  · rfl

/-- A group whose open MAT batch, number 1, has had one ACCST at device scope, which has completed. -/
def storedGroup : Group := { accScp := [(1, 3)] }

/-- That group alone, while the column of its core holds one dirty byte. -/
def storedState : State := { cur := 1, groups := [(1, storedGroup)], cores := [(0, { dirty := [{ line := 0, bytes := [(0, 5)] }] })] }

/-- AFENCE.mat into s1. -/
def matFence : Slot := { d := 0x211 }

theorem storedState_issues : Issues storedState (fAfence matFence) matFence storedGroup := ⟨rfl, rfl, rfl, rfl, rfl⟩

/-- The batch that the fence closes completes at once, with the release: the dirty byte goes home. -/
theorem storedState_releases : ∃ t, exec (.afence matFence) storedState = .next t ∧ t.mem = [(0, 5)] :=
  ⟨_, rfl, by decide +kernel⟩

end Sys2Proof.Machine

open Sys2Proof Sys2Proof.Machine in
/-- Refutes O36: AFENCE may change memory. The batch that it closes completes in the same step when it holds no operation still
under way, and its counter rises with the release of R236, which writes dirty bytes home (`storedState_releases`). -/
theorem not_asyncCopiesStart : ¬ Obligations.ASYNC_COPIES_START := by
  intro h
  obtain ⟨-, -, -, -, hfence⟩ := h storedState storedGroup matFence
  obtain ⟨t, -, ht, -, -, -, hmem⟩ := hfence storedState_issues
  obtain ⟨t', ht', hreleased⟩ := storedState_releases
  obtain rfl : _ = t' := by injection ht.symm.trans ht'
  rw [finish_var_mem, hmem] at hreleased
  exact absurd hreleased (by decide)
end

section
/-! SUPPORT and O37. Words that an instruction reads at its issue, and the courses of COLL, POST and TIERH (R244 to R248, R348,
R436). -/

namespace Sys2Proof.Machine

variable {s t u u' : State} {f : Form} {sl : Slot} {x y : Group} {v : View} {a : Word} {ws ps : List Nat}

/-! ### Words read at issue -/

theorem accessed_readRow {s0 : State} (v : View) (n : Nat) (l : List Piece) (h : Accessed s0 s) :
    Accessed s0 (s.readRow v n l).1 := by
  induction l generalizing s with
  | nil => exact h
  | cons p l ih =>
    rw [State.readRow]
    split
    · exact ih (accessed_readP _ _ _ _ _ h)
    · exact ih (accessed_readT _ _ _ _ h)

/-- The words of a structure are read by accesses alone. -/
theorem accessed_of_wordsAt {n : Nat} {as : List (Nat × Word)} (h : WordsAt s v n as ws u) : Accessed s u := by
  obtain ⟨r, l, hr, -, hread⟩ := h.ok
  have hres := accessed_resolveAll v n n 0 false as (.refl s)
  rw [hr] at hres
  have hrow := accessed_readRow v n l (accessed_askAll v n 0 l (accessed_account v false false l hres))
  rwa [hread] at hrow

/-- Words that pass their checks and answer are handed on. -/
theorem wordsAt_of {n : Nat} {as : List (Nat × Word)} (h : WordsAt s v n as ws u) (g : State → List Nat → Effect) :
    wordsAt s v n 0 as g = g u ws := by
  obtain ⟨r, l, hr, hanswer, hread⟩ := h.ok
  have hkind : kindWrites 0 = false := rfl
  simp only [wordsAt, hkind, hr, hanswer, hread]

/-- The addresses of the eight words of a descriptor or card, and one of its words. -/
abbrev descAddrs (a : Word) : List (Nat × Word) := (List.range 8).map fun n => (0, a + BitVec.ofNat 64 (8 * n))
abbrev descWord (ws : List Nat) : Nat → Word := fun n => BitVec.ofNat 64 (ws.getD n 0)

/-- A SYNC_ILLEGAL of the slot's own effect, raised at the slot. -/
theorem runSlot_syncTrap (h : Issues s f sl x) {lat : Machine.Lat} {body : State → Group → Effect} {reason : Nat}
    (hb : body (s.atIssue sl) (x.cover sl) = syncTrap u reason a) :
    runSlot f lat sl body s
      = .next (u.raise s.cur { cause := 19, addr := a, info := BitVec.ofNat 64 (reason * 2 ^ 32) } x.pc) :=
  runSlot_trapsIn h hb

/-! ### COLL (R244, R436) -/

/-- The addresses of the port numbers that a descriptor names. -/
abbrev peerAddrs (d : Nat → Word) : List (Nat × Word) :=
  (List.range (bits (d 3) 31 16)).map fun n => (0, d 4 + BitVec.ofNat 64 (2 * n))

/-- The operation that a COLL starts, from its descriptor at `a` and the port numbers `ps`. -/
abbrev collOp (sl : Slot) (s u : State) (y : Group) (a : Word) (d : Nat → Word) (ps : List Nat) : AsyncOp :=
  { opc := 0xD4, fn := (s.wgD y.wg).fn, ctx := (s.wgD y.wg).ctx, wg := y.wg, grp := u.cur, cls := 3, batch := y.openB 3
    scp := sl.scp.toNat, dst := d 1, src := d 0, rb := bits (d 2) 31 0, rows := 1, dstride := 0
    sstride := 0, list := a, ntf := modN sl, e := if modN sl = 0 then 0 else u.ssrc y sl sl.e
    imm := sl.imm, kind := bits (d 3) 3 0, ty := bits (d 3) 7 4, peers := ps, root := bits (d 3) 41 32, ready := d 5 }

section Coll

variable (ha : s.ssrc y sl sl.a = a) (hv : s.viewOf s.cur = v) (hpre : s.preCheck v [0, 1, 4] a 64 64 0 0 = none)
  (hd : WordsAt s v 8 (descAddrs a) ws u)
include ha hv hpre hd

theorem collBody_invalid (hbad : collBad (descWord ws) = true) : collBody sl s y = syncTrap u 0x28 a := by
  simp only [collBody, ha, hv, hpre, wordsAt_of hd, hbad, if_true]

variable (hbad : collBad (descWord ws) = false) (hp : WordsAt u v 2 (peerAddrs (descWord ws)) ps u')
include hbad hp

theorem collBody_unfit (hfit : peersBad u'.selfid.toNat (bits (descWord ws 3) 3 0) (bits (descWord ws 3) 41 32) ps = true) :
    collBody sl s y = syncTrap u' 0x28 a := by
  simp only [collBody, ha, hv, hpre, wordsAt_of hd, hbad, wordsAt_of hp, hfit, if_true, if_false, Bool.false_eq_true]

theorem collBody_starts (hfit : peersBad u'.selfid.toNat (bits (descWord ws 3) 3 0) (bits (descWord ws 3) 41 32) ps = false)
    (hn : u'.ntfCheck v (collOp sl s u' y a (descWord ws) ps) = none) :
    collBody sl s y = .done { u'.bump with ops := tput u'.ops u'.tick (collOp sl s u' y a (descWord ws) ps) } [] := by
  simp only [collBody, ha, hv, hpre, wordsAt_of hd, hbad, wordsAt_of hp, hfit, if_false, Bool.false_eq_true, hn]

end Coll

/-! ### POST (R245, R246, R348) -/

/-- A card as POST reads it for the group `y`. -/
abbrev postedCard (s : State) (y : Group) (ws : List Nat) : Card :=
  { cardOf (descWord ws) (s.wgD y.wg).launch s.tick with wg := y.wg }

theorem not_badCard (hgood : cardBad (descWord ws) = false) (hfits : (postedCard s y ws).need.fits = true) :
    ¬ (cardBad (descWord ws) = true ∨ ¬ (postedCard s y ws).need.fits = true) := by simp [hgood, hfits]

/-- The poster has released, and the card's launch waits for one more workgroup. -/
abbrev State.cardCounted (s : State) (v : View) (c : Card) : State :=
  ((s.release v.die 3).updLaunch c.launch fun l => { l with remaining := l.remaining + 1 }).bump

/-- Whether a core's queue takes a card itself (R348). -/
def State.queueRoom (s : State) (core : Nat) : Prop := (s.coreD core).taskq.length < 64 ∧ (s.coreD core).spilled = []

theorem not_queueRoom {core : Nat} (h : 64 ≤ (s.coreD core).taskq.length ∨ (s.coreD core).spilled ≠ []) :
    ¬ s.queueRoom core := fun ⟨hlen, hnil⟩ => h.elim (Nat.not_le.2 hlen) fun hne => hne hnil

section Card

variable {core : Nat} {c : Card}

theorem postCard_queued (hroom : s.queueRoom core) :
    postCard s v x core c ws = .done ((s.cardCounted v c).updCore core fun k => { k with taskq := k.taskq ++ [c] }) [] :=
  if_pos hroom

variable (hfull : ¬ s.queueRoom core)
include hfull

theorem postCard_overQuota (hq : (s.fnD v.fn).spillQ ≤ s.spilledOf v.fn) : postCard s v x core c ws = trapNow s 20 0 0 :=
  (if_neg hfull).trans (if_pos hq)

variable (hq : s.spilledOf v.fn < (s.fnD v.fn).spillQ)
include hq

theorem postCard_noRing
    (hput : (s.cardCounted v c).spillPut ((s.cardCounted v c).hubView v.fn v.ctx) ((s.cardCounted v c).spillRing v.fn v.ctx core) ws
      = none) : postCard s v x core c ws = trapNow s 20 0 0 := by
  refine (if_neg hfull).trans ((if_neg (Nat.not_le.2 hq)).trans ?_)
  rw [hput]

theorem postCard_spilled {z : State}
    (hput : (s.cardCounted v c).spillPut ((s.cardCounted v c).hubView v.fn v.ctx) ((s.cardCounted v c).spillRing v.fn v.ctx core) ws
      = some (some z)) :
    postCard s v x core c ws = .done (z.updCore core fun k => { k with spilled := k.spilled ++ [c] }) [] := by
  refine (if_neg hfull).trans ((if_neg (Nat.not_le.2 hq)).trans ?_)
  rw [hput]

end Card

/-- A card that a core's queue takes is its last, and its launch waits for one more workgroup. -/
theorem queued_spec (s : State) (v : View) (core : Nat) (c : Card) :
    let t := (s.cardCounted v c).updCore core fun k => { k with taskq := k.taskq ++ [c] }
    (t.coreD core).taskq = (s.coreD core).taskq ++ [c]
      ∧ ∀ l, tget s.launches c.launch = some l → tget t.launches c.launch = some { l with remaining := l.remaining + 1 } := by
  have hrel := accessed_release v.die 3 (.refl s)
  refine ⟨?_, fun l hl => ?_⟩
  · have hcore : (s.cardCounted v c).coreD core = (s.release v.die 3).coreD core := by
      rw [State.coreD, State.cardCounted, bump_cores, updLaunch_cores]
      rfl
    rw [coreD_updCore, if_pos rfl, hcore, (hrel.cards core).1]
  · rw [← hrel.launches] at hl
    rw [updCore_launches, State.cardCounted, bump_launches]
    exact tget_updLaunch hl _

section Post

variable (ha : s.ssrc y sl sl.a = a) (hv : s.viewOf s.cur = v) (hpre : s.preCheck v [0, 1] a 64 64 0 0 = none)
  (hd : WordsAt s v 8 (descAddrs a) ws u)
include ha hv hpre hd

theorem postBody_badCard (hbad : cardBad (descWord ws) = true ∨ (postedCard u y ws).need.fits = false) :
    postBody sl s y = syncTrap u 0x29 a := by
  have hc : cardBad (descWord ws) = true ∨ ¬ (postedCard u y ws).need.fits = true := by simpa using hbad
  simp only [postBody, ha, hv, hpre, wordsAt_of hd, if_pos hc]

variable (hgood : cardBad (descWord ws) = false) (hfits : (postedCard u y ws).need.fits = true)
include hgood hfits

theorem postBody_noCore (hcore : postCore sl u y = none) : postBody sl s y = syncTrap u 0x2A a := by
  simp only [postBody, ha, hv, hpre, wordsAt_of hd, if_neg (not_badCard hgood hfits), hcore]

theorem postBody_card {core : Nat} (hcore : postCore sl u y = some core) (hquiet : u.peerQuiet u.cur = true) :
    postBody sl s y = postCard u v y core (postedCard u y ws) ws := by
  simp only [postBody, ha, hv, hpre, wordsAt_of hd, if_neg (not_badCard hgood hfits), hcore, syncAfter, hquiet, if_true]

end Post

/-! ### TIERH (R247) -/

/-- The space of an address is its top four bits. -/
theorem hint_outside {b : Word} (h0 : b.extractLsb' 60 4 ≠ 0) (h4 : b.extractLsb' 60 4 ≠ 4) : spaceOf b ≠ 0 ∧ spaceOf b ≠ 4 := by
  rw [spaceOf_eq]
  exact ⟨fun e => h0 (BitVec.eq_of_toNat_eq e), fun e => h4 (BitVec.eq_of_toNat_eq e)⟩

/-- A slot that completes with some state, which is the state at issue where its address lies outside spaces 0 and 4. -/
theorem runSlot_hint (h : Issues s f sl x) {body : State → Group → Effect}
    (hb : body (s.atIssue sl) (x.cover sl)
      = if spaceOf (s.ssrc x sl sl.a) ≠ 0 ∧ spaceOf (s.ssrc x sl sl.a) ≠ 4 then .done (s.atIssue sl) []
        else .done t []) :
    ∃ t, runSlot f .none sl body s = retired s t sl .none []
      ∧ ((s.ssrc x sl sl.a).extractLsb' 60 4 ≠ 0 → (s.ssrc x sl sl.a).extractLsb' 60 4 ≠ 4 → t = s.atIssue sl) := by
  by_cases hsp : spaceOf (s.ssrc x sl sl.a) ≠ 0 ∧ spaceOf (s.ssrc x sl sl.a) ≠ 4
  · exact ⟨_, runSlot_done h (hb.trans (if_pos hsp)), fun _ _ => rfl⟩
  · exact ⟨_, runSlot_done h (hb.trans (if_neg hsp)), fun h0 h4 => absurd (hint_outside h0 h4) hsp⟩

end Sys2Proof.Machine

open Sys2Proof Sys2Proof.Machine in
/-- Settles O37, from the courses of COLL and POST and the outcomes for a card. -/
theorem collectivesCardsAndHints : Obligations.COLLECTIVES_CARDS_AND_HINTS := by
  intro s x sl ws ps u u' i v a d words peers stop kind root card
  refine ⟨fun h hpre hd => ?coll, fun h hpre hd => ?post, fun h => ?need, fun h => ?cold⟩
  case coll =>
    have ha : i.ssrc (x.cover sl) sl sl.a = a := ssrc_atIssue h.group _
    have hv : i.viewOf i.cur = v := congrArg i.viewOf (cur_atIssue h.group)
    refine ⟨fun hbad => runSlot_syncTrap h (collBody_invalid ha hv hpre hd hbad), fun hbad hp =>
      ⟨fun hfit => runSlot_syncTrap h (collBody_unfit ha hv hpre hd hbad hp hfit), fun hfit => ?_⟩⟩
    have hacc := (accessed_of_wordsAt hd).trans (accessed_of_wordsAt hp)
    refine ⟨collOp sl i u' (x.cover sl) a d ps, rfl, rfl, bits_eq_extract _ rfl, rfl, rfl, rfl, rfl,
      hacc.cur.trans (cur_atIssue h.group), rfl, rfl, fun hn => ?_,
      fun hn => runSlot_done h (collBody_starts ha hv hpre hd hbad hp hfit hn)⟩
    exact (if_neg hn).trans ((ssrc_of_banks hacc.banks _ _ _).trans (ssrc_atIssue h.group _))
  case post =>
    have ha : i.ssrc (x.cover sl) sl sl.a = a := ssrc_atIssue h.group _
    have hv : i.viewOf i.cur = v := congrArg i.viewOf (cur_atIssue h.group)
    have hcur : u.cur = s.cur := (accessed_of_wordsAt hd).cur.trans (cur_atIssue h.group)
    have hcard {core : Nat} (hgood : cardBad d = false) (hfits : card.need.fits = true) (hcore : postCore sl u x = some core)
        (hquiet : u.peerQuiet s.cur = true) : postBody sl i (x.cover sl) = postCard u v (x.cover sl) core card ws :=
      postBody_card ha hv hpre hd hgood hfits hcore (hcur ▸ hquiet)
    refine ⟨fun hbad => runSlot_syncTrap h (postBody_badCard ha hv hpre hd hbad), fun hgood hfits hcore =>
      runSlot_syncTrap h (postBody_noCore ha hv hpre hd hgood hfits hcore), fun hgood hfits core hcore hquiet hfull => ?full,
      fun hgood hfits core hcore hquiet hlen hnil => ?room⟩
    case full =>
      have hbody := hcard hgood hfits hcore hquiet
      have hno := not_queueRoom hfull
      exact ⟨fun hq => runSlot_trapsIn h (hbody.trans (postCard_overQuota hno hq)), fun hq =>
        ⟨fun hput => runSlot_trapsIn h (hbody.trans (postCard_noRing hno hq hput)),
          fun z hput => runSlot_done h (hbody.trans (postCard_spilled hno hq hput))⟩⟩
    case room =>
      exact ⟨_, runSlot_done h ((hcard hgood hfits hcore hquiet).trans (postCard_queued ⟨hlen, hnil⟩)), queued_spec u v core card⟩
  case need => exact runSlot_hint h (body := tierhNeedBody sl) (by simp only [tierhNeedBody, ssrc_atIssue h.group]; rfl)
  case cold => exact runSlot_hint h (body := tierhColdBody sl) (by simp only [tierhColdBody, ssrc_atIssue h.group]; rfl)
end

section
/-! SUPPORT and O49. An operation with the opcode of COLL and the class of a copy: the engine takes it by its opcode. -/

namespace Sys2Proof.Machine

/-- A one-row operation of 8 bytes within the window, of class CPY, whose opcode is that of COLL. -/
def strayOp : AsyncOp :=
  { opc := 0xD4, fn := 0, ctx := 0, wg := 1, grp := 1, cls := 1, batch := 0, scp := 1, dst := 0x1000000000000000
    src := 0x1000000000000040, rb := 8, rows := 1, dstride := 8, sstride := 8, list := 0, ntf := 0, e := 0, imm := 0 }

/-- Workgroup 1 with that operation alone. -/
def strayState : State := { wgs := [(1, { wb := 128 })], ops := [(3, strayOp)] }

/-- Its one word passes its checks, and lies in the window on both sides. -/
theorem strayState_word : strayState.wordAt (strayState.opView strayOp) strayOp strayOp.moved
    = (strayState, .ok { st := .win (winLoc 1 64), dt := .win (winLoc 1 0), sa := 0x1000000000000040, da := 0x1000000000000000 }) :=
  rfl

/-- The step of its unit moves no word. -/
theorem strayState_unit : ∃ t, exec (.copyUnitLand 3) strayState = .next t ∧ (tget t.ops 3).map AsyncOp.moved = some 0 :=
  ⟨_, rfl, by decide +kernel⟩

end Sys2Proof.Machine

open Sys2Proof Sys2Proof.Machine in
/-- Refutes O49: its clause on copies picks an operation by its class, but COPY_UNIT_LAND tells copies from collectives by the
opcode. Of an operation of class CPY with the opcode of COLL, which no instruction starts, a word that could move does not. -/
theorem not_engineEvents : ¬ Obligations.ENGINE_EVENTS := by
  rintro ⟨-, hcopies, -⟩
  obtain ⟨hmove, -, -⟩ := hcopies strayState 3 strayOp rfl rfl rfl
  obtain ⟨t, ht, -, hop⟩ := hmove _ _ _ _ rfl (by decide) rfl rfl (by decide +kernel) (by decide +kernel) strayState_word
  obtain ⟨t', ht', hmoved⟩ := strayState_unit
  obtain rfl : t = t' := by injection ht.symm.trans ht'
  rw [hop] at hmoved
  exact absurd hmoved (by decide)
end

section
/-! SUPPORT, O44 and O45. The four fates of a raised trap (R252 to R255, R366), and the groups of a workgroup that ends. -/

namespace Sys2Proof.Machine

variable {s t : State} {g : Nat} {x : Group}

/-! ### What becomes of a trap -/

section Raised

variable (h : s.grp? g = some x) {r : Raise} (pc : Word)
include h

theorem raise_held (hh : heldCause (s.ctxD (s.wgD x.wg).fn (s.wgD x.wg).ctx) r = true) :
    s.raise g r pc = s.holdGroup g { cause := r.cause, pc := pc, addr := r.addr, info := r.info } := by
  simp only [State.raise, grpD_of _ h, hh, if_true]

variable (hh : heldCause (s.ctxD (s.wgD x.wg).fn (s.wgD x.wg).ctx) r = false)
include hh

/-- A trap that is not held is delivered. -/
theorem raise_delivered :
    s.raise g r pc = s.deliverTrap g { cause := r.cause, pc := pc, addr := r.addr, info := r.info } := by
  simp only [State.raise, grpD_of _ h, hh, if_false, Bool.false_eq_true]

theorem raise_kills (hno : x.trapMode = true ∨ x.trapVec = 0) :
    s.raise g r pc = s.kill g { cause := r.cause, pc := pc, addr := r.addr, info := r.info } x.trapMode := by
  rw [raise_delivered h pc hh, State.deliverTrap, grpD_of _ h]
  cases hm : x.trapMode with
  | true => rfl
  | false => simp [hno.resolve_left (by simp [hm])]

variable (hm : x.trapMode = false) (hv : x.trapVec ≠ 0)
include hm hv

/-- Outside trap mode, a trap of a group with a handler is delivered to that handler. -/
theorem raise_handled :
    s.raise g r pc = s.deliver g { cause := r.cause, pc := pc, addr := r.addr, info := r.info } x.trapVec := by
  rw [raise_delivered h pc hh, State.deliverTrap, grpD_of _ h]
  exact (if_neg (by simp [hm])).trans (if_neg hv)

theorem raise_enters (ho : (s.bankD x.bankKey).owner = none ∨ (s.bankD x.bankKey).owner = some g) :
    s.raise g r pc = s.enterTrap g { cause := r.cause, pc := pc, addr := r.addr, info := r.info } x.trapVec := by
  rw [raise_handled h pc hh hm hv, State.deliver, grpD_of _ h]
  rcases ho with ho | ho <;> simp only [ho, if_true]

theorem raise_waits {o : Nat} (ho : (s.bankD x.bankKey).owner = some o) (hne : o ≠ g) :
    s.raise g r pc
      = s.updGrp g fun y => { y with wait := .bank { cause := r.cause, pc := pc, addr := r.addr, info := r.info } } := by
  rw [raise_handled h pc hh hm hv, State.deliver, grpD_of _ h]
  simp only [ho, if_neg hne]

end Raised

/-! ### Held faults (R366) -/

/-- A fault that is held leaves the groups, and is listed under its tag with the trap and its group. -/
theorem hold_spec (s : State) (fn ctx : Nat) (grp op me : Option Nat) (tr : Trap) (nest : Bool) :
    let q := s.hold fn ctx grp op me tr nest
    q.2 = s.newTag ∧ q.1.groups = s.groups
      ∧ ∃ e, tget q.1.holds s.newTag = some e ∧ e.trap = tr ∧ e.grp = grp ∧ e.fn = fn ∧ e.ctx = ctx := by
  unfold State.hold
  extract_lets tag room fs s' s1 rec
  have hput : Accessed s1 (if room = true then s1.putRec fn 0 rec else s1) :=
    accessed_ite (accessed_putRec _ _ _ (.refl s1)) (.refl s1)
  have hholds : (if room = true then s1.putRec fn 0 rec else s1).holds = s1.holds := (congrArg State.holds hput.rest :)
  exact ⟨rfl, hput.groups, _, (congrArg (tget · _) hholds).trans (tget_tput_self ..), rfl, rfl, rfl, rfl⟩

/-- A group that is held waits on a fresh tag, which names its trap. -/
theorem holdGroup_spec (h : s.grp? g = some x) (tr : Trap) :
    (s.holdGroup g tr).grp? g = some { x with wait := .held s.newTag }
      ∧ ∃ e, tget (s.holdGroup g tr).holds s.newTag = some e ∧ e.trap = tr ∧ e.grp = some g ∧ e.fn = (s.wgD x.wg).fn
        ∧ e.ctx = (s.wgD x.wg).ctx := by
  unfold State.holdGroup
  rw [grpD_of _ h]
  extract_lets y w q
  obtain ⟨htag, hgroups, e, he, hspec⟩ := hold_spec s w.fn w.ctx (some g) none none tr x.trapMode
  refine ⟨?_, e, (congrArg (tget · _) (updGrp_holds ..)).trans he, hspec⟩
  rw [grp?_updGrp_of ((congrArg (tget · g) hgroups).trans h)]
  exact congrArg (fun n => some { x with wait := .held n }) htag

/-! ### The end of a workgroup's groups (R252, R352) -/

theorem gone_dropCards {w : Nat} (h : Nat) (k : Gone g w s) : Gone g w (s.dropCards h) :=
  gone_ite k (gone_updLaunch _ _ (k.of_eq rfl rfl))

/-- Leaving a wait changes no other group. -/
theorem grp?_unwait_ne {h : Nat} (hne : g ≠ h) : (s.unwait h).grp? g = s.grp? g := by
  unfold State.unwait
  extract_lets y s1
  have h1 : s1.grp? g = s.grp? g := by
    unfold s1
    split
    · exact congrArg (tget · g) (groups_updWg ..)
    · exact grp?_updLaunch ..
    · rfl
    · rfl
  rw [grp?_updGrp, if_neg hne, h1]

/-- The removal of a group changes no other. -/
theorem grp?_dropGroup_ne {h : Nat} (hne : g ≠ h) : (s.dropGroup h).grp? g = s.grp? g := by
  rw [State.grp?, State.dropGroup, groups_updWg]
  refine (tget_tdel ..).trans ((if_neg hne).trans ?_)
  rw [freeBank_groups]
  exact grp?_unwait_ne hne

/-- A listed group is gone once the groups of its list have ended. -/
theorem gone_of_endGroups {l : List Nat} (h : s.grp? g = some x) (hl : g ∈ l) : Gone g x.wg (s.endGroups l) := by
  induction l generalizing s with
  | nil => cases hl
  | cons k l ih =>
    unfold State.endGroups
    dsimp only
    generalize hq : s.joinTargets (s.viewOf k) (s.grpD k).joined = q
    have ha : Accessed s (q.1.retireAll (s.viewOf k) q.2) := accessed_retireAll _ _ (hq ▸ accessed_joinTargets _ _ (.refl s))
    have hg := (ha.grp? g).trans h
    by_cases hk : g = k
    · subst hk
      rw [if_pos (by simp [h])]
      exact gone_endGroups _ (gone_of_dropGroup (by rw [grpD_of _ hg]))
    · refine ih ?_ (List.mem_of_ne_of_mem hk hl)
      split
      · exact (grp?_dropGroup_ne hk).trans hg
      · exact h

/-- A killed workgroup's groups are gone. -/
theorem gone_of_kill (h : s.grp? g = some x) (hg : g ∈ (s.wgD x.wg).groups) (tr : Trap) (nest : Bool) :
    Gone g x.wg (s.kill g tr nest) := by
  unfold State.kill
  rw [grpD_of _ h]
  dsimp only
  generalize hu : s.putRec _ _ _ = u
  have ha : Accessed s u := hu ▸ accessed_putRec _ _ _ (.refl s)
  have hlisted : g ∈ (u.wgD x.wg).groups := by rwa [State.wgD, ha.wgs]
  have hvoid : (u.voidOps fun y => decide (y = x.wg)).grp? g = some x := by
    unfold State.voidOps
    dsimp only
    split <;> exact (ha.grp? g).trans h
  unfold State.endWg
  dsimp only
  rw [if_pos rfl]
  exact gone_wgFinish _ _ _ (gone_lbarCheck _ (gone_dropCards _ (gone_of_endGroups hvoid hlisted)))

end Sys2Proof.Machine

open Sys2Proof Sys2Proof.Machine in
/-- Settles O44: the trap enters its handler (`raise_enters`), as every trap entry does (`enterTrap_enters`). -/
theorem trapEntrySavesAndEnters : Obligations.TRAP_ENTRY_SAVES_AND_ENTERS := by
  intro s g x r pc w wg hg hh hm hv ho ht hb
  obtain ⟨hgrp, howner⟩ := enterTrap_enters hg { cause := r.cause, pc := pc, addr := r.addr, info := r.info } ht hb
  rw [raise_enters hg pc hh hm hv ho]
  refine ⟨_, hgrp, ?_⟩
  rw [howner, trapped_enter]
  exact ⟨rfl, rfl, rfl, rfl, rfl, rfl, rfl, rfl, rfl, rfl, rfl, rfl, rfl, rfl, rfl, rfl, rfl, rfl, rfl, rfl, rfl, rfl, rfl⟩

open Sys2Proof Sys2Proof.Machine in
/-- Settles O45: one fate of a raised trap for each clause. -/
theorem otherTrapsKillOrWait : Obligations.OTHER_TRAPS_KILL_OR_WAIT := by
  intro s g x r pc wg tr hg
  refine ⟨fun hh hno hmem => ?kills, fun hh => ?held, fun hh hm hv o ho hne => ?waits⟩
  case kills =>
    rw [raise_kills hg pc hh hno]
    exact (gone_of_kill hg hmem _ _).unlisted
  case held =>
    rw [raise_held hg pc hh]
    exact holdGroup_spec hg tr
  case waits =>
    rw [raise_waits hg pc hh hm hv ho hne]
    exact grp?_updGrp_of hg _
end

section
/-! SUPPORT and O39. The system registers (R249, Table 10.1) and the interrupted group's state (R257). -/

namespace Sys2Proof.Machine

variable {s : State} {f : Form} {sl : Slot} {x : Group}

/-! ### Privilege (R251) -/

theorem levelOf_atIssue (h : s.grp? s.cur = some x) : (s.atIssue sl).levelOf (x.cover sl) = s.levelOf x := by
  rw [atIssue_eq h]
  rfl

/-- A slot above the privilege of its context traps PERMIT_FAULT with REASON 5. -/
theorem runSlot_levelTrap (h : Issues s f sl x) {lat : Machine.Lat} {body : State → Group → Effect}
    (hb : body (s.atIssue sl) (x.cover sl) = levelTrap (s.atIssue sl)) :
    runSlot f lat sl body s = traps s sl x { cause := 9, info := BitVec.ofNat 64 (5 * 2 ^ 32) } := runSlot_traps h hb

/-! ### System registers -/

/-- A system register reads the same at issue. -/
theorem sysReg_atIssue (h : s.grp? s.cur = some x) (n : Nat) : (s.atIssue sl).sysReg (x.cover sl) n = s.sysReg x n := by
  rw [atIssue_eq h]
  rfl

theorem srgetBody_refused (hn : immN sl = 0x15) (hl : s.levelOf x = 0) : srgetBody sl s x = levelTrap s := if_pos ⟨hn, hl⟩

theorem srgetBody_reads (hok : ¬ (immN sl = 0x15 ∧ s.levelOf x = 0)) :
    srgetBody sl s x = .done s (scaOut x.trapMode sl.d 0 (s.sysReg x (immN sl))) := if_neg hok

theorem srsetBody_refused (hn : immN sl = 4) (hl : s.levelOf x ≠ 2) : srsetBody sl s x = levelTrap s := by
  simp only [srsetBody, hn, if_pos hl]

theorem srsetBody_budget (hn : immN sl = 4) (hl : s.levelOf x = 2) : srsetBody sl s x
    = .done (s.updCtx (s.wgD x.wg).fn (s.wgD x.wg).ctx fun c => { c with pbudget := (s.ssrc x sl sl.a).setWidth 32 }) [] := by
  simp only [srsetBody, hn, if_neg (not_not.2 hl)]

theorem srsetBody_handler (hn : immN sl = 5) :
    srsetBody sl s x = .done (s.updGrp s.cur fun y => { y with trapVec := s.ssrc x sl sl.a }) [] := by
  simp only [srsetBody, hn]

theorem srsetBody_checkMode (hn : immN sl = 0x16) : srsetBody sl s x
    = .done (s.updCtx (s.wgD x.wg).fn (s.wgD x.wg).ctx fun c => { c with checkMode := (s.ssrc x sl sl.a).setWidth 2 }) [] := by
  simp only [srsetBody, hn]

/-! ### The interrupted group's state -/

/-- Outside trap mode there is no interrupted group. -/
theorem hgetBody_outside (ht : x.trapMode = false) : hgetBody sl s x = syncTrap s 0x31 0 := by simp [hgetBody, ht]

theorem hsetBody_outside (ht : x.trapMode = false) : hsetBody sl s x = syncTrap s 0x31 0 := by simp [hsetBody, ht]

section InHandler

variable (ht : x.trapMode = true)
include ht

theorem hgetBody_vector (hsub : sl.sub = 0) : hgetBody sl s x
    = .done s (vecOut true sl.d 0 (BitVec.allOnes 32)
        (if immN sl < 8 * x.gran then tval Vec.zero x.vregs (immN sl) else Vec.zero)) := by
  simp [hgetBody, ht, subN, hsub]

theorem hgetBody_scalar (hsub : sl.sub = 1) :
    hgetBody sl s x = .done s (scaOut true sl.d 0 (if immN sl < x.scount then tval 0 x.sregs (immN sl) else 0)) := by
  simp [hgetBody, ht, subN, hsub]

theorem hgetBody_selector (hsub : sl.sub = 2) :
    hgetBody sl s x = .done s (scaOut true sl.d 0 (hSelect x (immN sl))) := by
  simp [hgetBody, ht, subN, hsub]

theorem hsetBody_vector (hsub : sl.sub = 0) : hsetBody sl s x
    = .done (if immN sl < 8 * x.gran then s.writeV s.cur (.v (immN sl)) (BitVec.allOnes 32) (s.vreg x sl.a 0) else s) [] := by
  simp [hsetBody, ht, subN, hsub]

theorem hsetBody_scalar (hsub : sl.sub = 1) : hsetBody sl s x
    = .done (if immN sl < x.scount then s.writeS s.cur (.s (immN sl)) (s.ssrc x sl sl.a) else s) [] := by
  simp [hsetBody, ht, subN, hsub]

theorem hsetBody_act (hsub : sl.sub = 2) (hn : immN sl = 0) : hsetBody sl s x
    = .done (s.updGrp s.cur fun y => { y with act := (s.ssrc x sl sl.a).setWidth 32 &&& y.live }) [] := by
  simp [hsetBody, ht, subN, hsub, hn]

theorem hsetBody_fmt (hsub : sl.sub = 2) (hn : immN sl = 2) : hsetBody sl s x
    = .done (if fmtOk (s.ssrc x sl sl.a) then s.updGrp s.cur fun y => { y with fmt := s.ssrc x sl sl.a } else s) [] := by
  simp [hsetBody, ht, subN, hsub, hn]

end InHandler

/-- A selector of HGET.x names a mask, FMT, the depth of the mask stack or the saved KC. -/
theorem runSlot_hget_selector (h : Issues s (fHget sl) sl x) (ht : x.trapMode = true) (hsub : sl.sub = 2) {n : Nat}
    (hn : sl.imm.toNat = n) :
    runSlot (fHget sl) .var sl (hgetBody sl) s = writes s sl .var (scaOut true sl.d 0 (hSelect x n)) := by
  subst hn
  exact runSlot_writes h (hgetBody_selector (x := x.cover sl) ht hsub)

end Sys2Proof.Machine

open Sys2Proof Sys2Proof.Machine in
/-- SRGET and SRSET by Table 10.1: a read of the state at issue, or one change of the group or its context. -/
theorem systemRegisters_hold : systemRegisters := by
  intro s x sl i w c k n a refused value
  refine ⟨fun h => ⟨fun ⟨hn, hl⟩ => ?refused, fun hok => ?reads⟩,
    fun h => ⟨fun hn hl => ?budgetRefused, fun hn hl => ?budget, fun hn => ?handler, fun hn => ?checkMode⟩⟩
  all_goals have hlevel := levelOf_atIssue (sl := sl) h.group
  all_goals have ha := ssrc_atIssue (sl := sl) h.group sl.a
  case refused => exact runSlot_levelTrap h (srgetBody_refused hn (hlevel.trans hl))
  case reads =>
    refine (runSlot_writes h (srgetBody_reads (by rw [hlevel]; exact hok))).trans ?_
    rw [sysReg_atIssue h.group]
    rfl
  case budgetRefused => exact runSlot_levelTrap h (srsetBody_refused hn (hlevel ▸ hl))
  case budget =>
    refine (runSlot_done h (srsetBody_budget hn (hlevel.trans hl))).trans ?_
    rw [ha, wgD_atIssue h.group]
    rfl
  case handler => exact runSlot_changesGroup h (srsetBody_handler hn) (by rw [ha])
  case checkMode =>
    refine (runSlot_done h (srsetBody_checkMode hn)).trans ?_
    rw [ha, wgD_atIssue h.group]
    rfl

open Sys2Proof Sys2Proof.Machine in
/-- HGET and HSET in trap mode, one lemma a register file. -/
theorem interruptedGroup_hold : interruptedGroup := by
  intro s x sl i n a illegal get set
  have hx {m : Nat} (h : Issues s (fHget sl) sl x) (ht : x.trapMode = true) (hsub : sl.sub = 2) (hn : n = m) :
      get (scaOut true sl.d 0 (hSelect x m)) := runSlot_hget_selector h ht hsub hn
  refine ⟨fun h => ⟨fun ht => ?getOut, fun ht => ⟨fun hsub => ?getV, fun hsub => ?getS, hx h ht, hx h ht,
      hx h ht, hx h ht, hx h ht⟩⟩,
    fun h => ⟨fun ht => ?setOut, fun ht =>
      ⟨fun hsub => ?setV, fun hsub => ?setS, fun hsub hn => ?setAct, fun hsub hn => ?setFmt⟩⟩⟩
  case getOut => exact runSlot_syncTrap h (hgetBody_outside (x := x.cover sl) ht)
  case getV => exact runSlot_writes h (hgetBody_vector (x := x.cover sl) ht hsub)
  case getS => exact runSlot_writes h (hgetBody_scalar (x := x.cover sl) ht hsub)
  case setOut => exact runSlot_syncTrap h (hsetBody_outside (x := x.cover sl) ht)
  all_goals have hcur := cur_atIssue (sl := sl) h.group
  all_goals have ha := ssrc_atIssue (sl := sl) h.group sl.a
  case setV =>
    refine (runSlot_done h (hsetBody_vector (x := x.cover sl) ht hsub)).trans ?_
    rw [hcur, vreg_atIssue h.group]
    rfl
  case setS =>
    refine (runSlot_done h (hsetBody_scalar (x := x.cover sl) ht hsub)).trans ?_
    rw [hcur, ha]
    rfl
  case setAct => exact runSlot_changesGroup h (hsetBody_act (x := x.cover sl) ht hsub hn) (by rw [ha]; rfl)
  case setFmt =>
    refine (runSlot_done h (hsetBody_fmt (x := x.cover sl) ht hsub hn)).trans ?_
    rw [hcur, ha]

open Sys2Proof Sys2Proof.Machine in
/-- Settles O39, from Table 10.1 and the registers of the interrupted group. -/
theorem systemRegisterResults : Obligations.SYSTEM_REGISTER_RESULTS := ⟨systemRegisters_hold, interruptedGroup_hold⟩
end

section
/-! SUPPORT and O41. The end of a residency by PDONE (R260), grants of BOOST (R264, R383), and CANCEL (R261). -/

namespace Sys2Proof.Machine

variable {s : State} {f : Form} {sl : Slot} {x : Group} {g c w : Nat}

/-! ### PDONE (R260) -/

/-- The state once group `g` on core `c` has ended its residency and its record is written. -/
def State.departed (s : State) (g c : Nat) : State :=
  ((((s.release (dieOf c) 3).freeBank g).updGrp g Group.pdoneForm).putGroup g).passCycles c 1

theorem pdoneBody_outside (h : ¬ (x.trapMode = true ∧ x.inPreempt = true)) : pdoneBody s x = syncTrap s 0x30 0 :=
  if_pos (not_and_or.1 h)

theorem pdoneBody_leaves (ht : x.trapMode = true) (hp : x.inPreempt = true) (hq : s.peerQuiet s.cur = true) :
    pdoneBody s x = .wait ((s.departed s.cur x.core).wgLeave x.wg) :=
  (if_neg (by simp [ht, hp])).trans (if_pos hq)

/-- The records of the group's save are written by accesses alone. -/
theorem accessed_putGroup (s : State) (g : Nat) : Accessed s (s.putGroup g) := accessed_savePut _ _ _ _ (.refl s)

theorem noneQueued_putGroup (g : Nat) (h : NoneQueued w s) : NoneQueued w (s.putGroup g) := noneQueued_savePut _ _ _ _ h

theorem noneQueued_passCycles (c n : Nat) (h : NoneQueued w s) : NoneQueued w (s.passCycles c n) :=
  noneQueued_of_cores (noneQueued_updCore c (f := fun k => { k with cycle := k.cycle + BitVec.ofNat 64 n }) (fun _ => rfl) h) rfl

theorem freeBank_launches (s : State) (g : Nat) : (s.freeBank g).launches = s.launches :=
  (congrArg State.launches (sameMachine_freeBank s g) :)

theorem freeBank_engines (s : State) (g : Nat) : (s.freeBank g).engines = s.engines :=
  (congrArg State.engines (sameMachine_freeBank s g) :)

theorem freeBank_cores (s : State) (g : Nat) : (s.freeBank g).cores = s.cores :=
  (congrArg State.cores (sameMachine_freeBank s g) :)

@[simp] theorem passCycles_wgs (s : State) (c n : Nat) : (s.passCycles c n).wgs = s.wgs := rfl
@[simp] theorem passCycles_launches (s : State) (c n : Nat) : (s.passCycles c n).launches = s.launches := rfl
@[simp] theorem passCycles_engines (s : State) (c n : Nat) : (s.passCycles c n).engines = s.engines := rfl

section Departed

variable (s g c)

theorem departed_wgs : (s.departed g c).wgs = s.wgs := by
  rw [State.departed, passCycles_wgs, (accessed_putGroup _ g).wgs, updGrp_wgs, freeBank_wgs]
  exact (accessed_release _ _ (.refl s)).wgs

theorem departed_launches : (s.departed g c).launches = s.launches := by
  rw [State.departed, passCycles_launches, (accessed_putGroup _ g).launches, updGrp_launches, freeBank_launches]
  exact (accessed_release _ _ (.refl s)).launches

theorem departed_engines : (s.departed g c).engines = s.engines := by
  rw [State.departed, passCycles_engines, (accessed_putGroup _ g).engines, updGrp_engines, freeBank_engines]
  exact (accessed_release _ _ (.refl s)).engines

end Departed

/-- A workgroup without matrix work has none when its group leaves. -/
theorem departed_idle (h : s.matBusy w = false) : (s.departed g c).matBusy w = false := by
  refine matBusy_of_noneQueued h (fun hq => ?_) (departed_engines s g c)
  have hfree := noneQueued_of_cores (noneQueued_release (dieOf c) 3 hq) (freeBank_cores _ g)
  have hput := noneQueued_putGroup g (noneQueued_of_cores hfree (updGrp_cores _ g Group.pdoneForm))
  exact noneQueued_passCycles c 1 hput

/-- The group that has left is in its cleared form, but for its STALL and budget. -/
theorem grp?_departed (h : s.grp? g = some x) : ∃ y, (s.departed g c).grp? g = some y
    ∧ { y with stall := x.stall, budget := 0 } = x.pdoneForm := by
  have hrel := ((accessed_release (dieOf c) 3 (.refl s)).grp? g).trans h
  have hfree : ((s.release (dieOf c) 3).freeBank g).grp? g = some x := (congrArg (tget · g) (freeBank_groups _ g)).trans hrel
  have hput := ((accessed_putGroup _ g).grp? g).trans (grp?_updGrp_of hfree Group.pdoneForm)
  exact grp?_passCycles_of hput c 1

theorem matBusy_atIssue (h : s.grp? s.cur = some x) (w : Nat) : (s.atIssue sl).matBusy w = s.matBusy w := by
  rw [atIssue_eq h]
  rfl

theorem launches_atIssue (h : s.grp? s.cur = some x) : (s.atIssue sl).launches = s.launches := by rw [atIssue_eq h]

/-- PDONE of the last work of its group: the group has left, with its registers cleared. -/
theorem runSlot_pdone (h : Issues s f sl x) (ht : x.trapMode = true) (hp : x.inPreempt = true) (hb : s.matBusy x.wg = false)
    (hq : (s.atIssue sl).peerQuiet s.cur = true)
    (hl : ∀ l, tget s.launches (s.wgD x.wg).launch = some l → l.desc.cores = false) :
    ∃ t y, runSlot f .none sl pdoneBody s = .next t ∧ t.grp? s.cur = some y
      ∧ { y with stall := x.stall, budget := 0 } = (x.cover sl).pdoneForm := by
  have hcur := cur_atIssue (sl := sl) h.group
  obtain ⟨y, hy, hform⟩ := grp?_departed (c := x.core) (grp?_atIssue (sl := sl) h.group)
  have hidle : ((s.atIssue sl).departed s.cur x.core).matBusy x.wg = false :=
    departed_idle ((matBusy_atIssue h.group _).trans hb)
  obtain ⟨hgroups, -⟩ := wgLeave_idle hidle (by
    rw [State.wgD, departed_wgs, departed_launches, launches_atIssue h.group]
    change ∀ l, tget s.launches ((s.atIssue sl).wgD x.wg).launch = some l → _
    rwa [wgD_atIssue h.group])
  rw [← hcur] at hq
  have hbody := pdoneBody_leaves (x := x.cover sl) ht hp hq
  rw [hcur] at hbody
  exact ⟨_, y, runSlot_waits h .none hbody, (congrArg (tget · s.cur) hgroups).trans hy, hform⟩

/-! ### BOOST (R264, R383) -/

/-- The life that a boost costs: the volts that its level adds, by the time that the unit's band takes (R383). -/
def State.boostCost (s : State) (x : Group) (level dur : Word) : Nat :=
  dur.toNat * (if level = 1 then 2 else 6)
    * (match (s.coreD x.core).unit with | some u => bandTB (s.wearD u).band | none => 2)

/-- The first reason that refuses a boost, 0 where it is granted (R264). -/
def State.boostRefusal (s : State) (x : Group) (level dur : Word) : Nat :=
  let f := s.fnD (s.wgD x.wg).fn
  if (level ≠ 1 ∧ level ≠ 2) ∨ dur = 0 ∨ 1000 < dur.toNat then 5
  else if s.coreState x.core ≠ 0 ∨ s.coreDrain x.core = true then 4
  else if (s.coreD x.core).boostLeft ≠ 0 then 3
  else if f.ebudget ≠ 0 ∧ f.ebudget < f.ewin + dur.toNat * (if level = 1 then 550 else 1350) then 2
  else if f.lifeMin < (s.boostCost x level dur : Int) then 1 else 0

/-- A word is a numeral when its value is. -/
theorem word_toNat_eq (v : Word) {n : Nat} (hn : n < 2 ^ 64) : v.toNat = n ↔ v = BitVec.ofNat 64 n := by
  rw [← BitVec.toNat_inj, BitVec.toNat_ofNat, Nat.mod_eq_of_lt hn]

theorem energyOk_iff (f : Func) (level dur : Nat) : ¬ f.energyOk level dur = true
    ↔ f.ebudget ≠ 0 ∧ f.ebudget < f.ewin + dur * (if level = 1 then 550 else 1350) := by
  simp only [Func.energyOk, Bool.or_eq_true, decide_eq_true_eq, not_or, Nat.not_le, ne_eq]

theorem boostReason_cost (s : State) (x : Group) (level dur : Word) :
    (s.boostReason x level dur).2 = s.boostCost x level dur := by
  have h1 : level.toNat = 1 ↔ level = 1 := word_toNat_eq level (by decide)
  unfold State.boostReason State.boostCost
  dsimp only
  congr 1
  · simp only [h1]
    split <;> rfl
  · cases (s.coreD x.core).unit <;> rfl

/-- Praline's decision is the first refusal, with the cost of the grant. -/
theorem boostReason_eq (s : State) (x : Group) (level dur : Word) :
    s.boostReason x level dur = (s.boostRefusal x level dur, s.boostCost x level dur) := by
  have h1 : level.toNat = 1 ↔ level = 1 := word_toNat_eq level (by decide)
  have h2 : level.toNat = 2 ↔ level = 2 := word_toNat_eq level (by decide)
  have h0 : dur.toNat < 1 ↔ dur = 0 := Nat.lt_one_iff.trans (word_toNat_eq dur (by decide))
  refine Prod.ext ?_ (boostReason_cost ..)
  rw [State.boostRefusal, ← boostReason_cost]
  simp only [State.boostReason, energyOk_iff, ne_eq, h0, h1, h2]

theorem boostBody_refused (hr : s.boostRefusal x (s.ssrc x sl sl.a) (s.ssrc x sl sl.b) ≠ 0) :
    boostBody sl s x = .done s (scaOut x.trapMode sl.d 0
      (BitVec.ofNat 64 (256 * s.boostRefusal x (s.ssrc x sl sl.a) (s.ssrc x sl sl.b)))) := by
  simp only [boostBody, boostReason_eq, if_neg hr, Nat.mul_comm 256]

/-- A granted boost is reserved for the next tick, and its cost is taken from the function's life budget. -/
def State.boosted (s : State) (core fn cost : Nat) (level dur : Word) : State :=
  (s.updCore core fun k =>
    { k with boostLeft := dur.toNat, boostNext := level.toNat, boostCost := cost, boostFn := fn, emptyTick := false }).updFn fn
    fun f => { f with bresv := f.bresv + cost, lifeMin := f.lifeMin - cost }

theorem boostBody_granted (hr : s.boostRefusal x (s.ssrc x sl sl.a) (s.ssrc x sl sl.b) = 0) :
    boostBody sl s x = .done (s.boosted x.core (s.wgD x.wg).fn (s.boostCost x (s.ssrc x sl sl.a) (s.ssrc x sl sl.b))
      (s.ssrc x sl sl.a) (s.ssrc x sl sl.b)) (scaOut x.trapMode sl.d 0 (s.ssrc x sl sl.a)) := by
  simp only [boostBody, boostReason_eq, if_pos hr]
  rfl

theorem boostRefusal_atIssue (h : s.grp? s.cur = some x) (level dur : Word) :
    (s.atIssue sl).boostRefusal (x.cover sl) level dur = s.boostRefusal x level dur := by
  rw [atIssue_eq h]
  rfl

theorem boostCost_atIssue (h : s.grp? s.cur = some x) (level dur : Word) :
    (s.atIssue sl).boostCost (x.cover sl) level dur = s.boostCost x level dur := by
  rw [atIssue_eq h]
  rfl

/-! ### CANCEL (R261) -/

theorem cancelBody_none (hc : s.cancelUnit (subN sl) (s.wgD x.wg).fn (s.wgD x.wg).ctx (s.ssrc x sl sl.a).toNat = none) :
    cancelBody sl s x = .done s (scaOut x.trapMode sl.d 0 0) := by
  simp only [cancelBody, hc]

/-- A unit that is found is cancelled, and a group that is not of it goes on. -/
theorem cancelBody_found {t : State}
    (hc : s.cancelUnit (subN sl) (s.wgD x.wg).fn (s.wgD x.wg).ctx (s.ssrc x sl sl.a).toNat = some t)
    (hg : t.grp? s.cur ≠ none) : cancelBody sl s x = .done t (scaOut x.trapMode sl.d 0 1) := by
  simp only [cancelBody, hc, if_pos (Option.isSome_iff_ne_none.2 hg)]

end Sys2Proof.Machine

open Sys2Proof Sys2Proof.Machine in
/-- Settles O41: PDONE leaves (`runSlot_pdone`), BOOST is decided by its first refusal (`boostReason_eq`), and CANCEL acts on the
unit that its handle names. -/
theorem pdoneBoostAndCancelResults : Obligations.PDONE_BOOST_AND_CANCEL_RESULTS := by
  intro s x sl i a dur w k f cost reason
  refine ⟨fun h => ⟨fun hout => ?outside, fun ht hp hb hq hl => ?leaves⟩, fun h => ⟨fun hr => ?refused, fun hr => ?granted⟩,
    fun h => ⟨fun hc => ?none, fun t hc hg => ?found⟩⟩
  case outside => exact runSlot_syncTrap h (pdoneBody_outside (x := x.cover sl) hout)
  case leaves =>
    obtain ⟨t, y, ht', hy, hform⟩ := runSlot_pdone h ht hp hb hq hl
    exact ⟨t, y, ht', hy, (congrArg Group.phase hform :), (congrArg Group.pc hform :), (congrArg Group.sregs hform :),
      (congrArg Group.vregs hform :), (congrArg Group.queue hform :), (congrArg Group.mstk hform :),
      (congrArg Group.pend hform :)⟩
  all_goals have ha : i.ssrc (x.cover sl) sl sl.a = a := ssrc_atIssue h.group _
  all_goals have hb : i.ssrc (x.cover sl) sl sl.b = dur := ssrc_atIssue h.group _
  all_goals have hw : i.wgD x.wg = w := wgD_atIssue h.group _
  case refused =>
    have hsame : i.boostRefusal (x.cover sl) a dur = reason := boostRefusal_atIssue h.group a dur
    refine (runSlot_writes h (boostBody_refused (by rw [ha, hb, hsame]; exact hr))).trans ?_
    rw [ha, hb, hsame]
    rfl
  case granted =>
    have hsame : i.boostRefusal (x.cover sl) a dur = reason := boostRefusal_atIssue h.group a dur
    refine (runSlot_done h (boostBody_granted (by rw [ha, hb, hsame]; exact hr))).trans ?_
    rw [ha, hb, boostCost_atIssue h.group, wgD_atIssue h.group]
    rfl
  case none => exact runSlot_writes h (cancelBody_none (x := x.cover sl) (by rw [ha]; rw [← hw] at hc; exact hc))
  case found =>
    refine runSlot_done h (cancelBody_found (x := x.cover sl) (by rw [ha]; rw [← hw] at hc; exact hc) ?_)
    rw [cur_atIssue h.group]
    exact hg
end

section
/-! SUPPORT and O42. Holds that end (R262, R366, R367): a tag that holds nothing stays so while workgroups, copies and matrix
instructions end. Measurements (R263). -/

namespace Sys2Proof.Machine

variable {s t s0 : State} {f : Form} {sl : Slot} {x : Group} {g tag : Nat} {e : Hold} {v : View}

/-! ### A tag that holds nothing -/

/-- The tag names no held fault. -/
def Unheld (tag : Nat) (s : State) : Prop := tget s.holds tag = none

theorem Unheld.of_holds (k : Unheld tag s) (h : t.holds = s.holds) : Unheld tag t := (congrArg (tget · tag) h).trans k

theorem Accessed.holds (h : Accessed s t) : t.holds = s.holds := (congrArg State.holds h.rest :)

theorem unheld_ite {p : Prop} [Decidable p] (ks : Unheld tag s) (kt : Unheld tag t) : Unheld tag (if p then s else t) := by
  split
  · exact ks
  · exact kt

theorem unheld_foldl {β : Type} {u : State → β → State} (hu : ∀ s b, Unheld tag s → Unheld tag (u s b)) (l : List β)
    (k : Unheld tag s) : Unheld tag (l.foldl u s) := List.foldlRecOn l u k fun t kt b _ => hu t b kt

/-- The tag is void once its hold is deleted. -/
theorem unheld_tdel (s : State) (tag : Nat) : Unheld tag { s with holds := tdel s.holds tag } := tget_tdel_self ..

/-! ### The end of groups and workgroups (R109, R110, R352) -/

theorem unheld_retire (h : Nat) (sl : Slot) (k : Unheld tag s) : Unheld tag (s.retire h sl) := by
  unfold State.retire
  extract_lets n s1
  have k1 : Unheld tag s1 := k.of_holds (updGrp_holds ..)
  exact unheld_ite (k1.of_holds rfl) k1

theorem unheld_unwait (h : Nat) (k : Unheld tag s) : Unheld tag (s.unwait h) := by
  unfold State.unwait
  extract_lets y s1
  refine Unheld.of_holds ?_ (updGrp_holds ..)
  unfold s1
  split
  · exact k.of_holds (updWg_holds ..)
  · exact k.of_holds (updLaunch_holds ..)
  · exact (tget_tdel ..).trans (ite_eq_left_iff.2 fun _ => k)
  · exact k

theorem freeBank_holds (s : State) (g : Nat) : (s.freeBank g).holds = s.holds :=
  (congrArg State.holds (sameMachine_freeBank s g) :)

theorem unheld_dropGroup (h : Nat) (k : Unheld tag s) : Unheld tag (s.dropGroup h) := by
  have kfree : Unheld tag ((s.unwait h).freeBank h) := (unheld_unwait h k).of_holds (freeBank_holds ..)
  exact kfree.of_holds (updWg_holds ..)

theorem unheld_endGroups (l : List Nat) (k : Unheld tag s) : Unheld tag (s.endGroups l) := by
  induction l generalizing s with
  | nil => exact k
  | cons h l ih =>
    unfold State.endGroups
    refine ih (unheld_ite (unheld_dropGroup h (k.of_holds ?_)) k)
    exact (accessed_retireAll _ _ (accessed_joinTargets _ _ (.refl s))).holds

theorem unheld_voidOps (p : Nat → Bool) (k : Unheld tag s) : Unheld tag (s.voidOps p) := by
  unfold State.voidOps
  extract_lets tags
  refine unheld_ite k ((tget_filter s.holds (fun n => !tags.contains n) tag).trans ?_)
  exact ite_eq_right_iff.2 fun _ => k

theorem packetDone_holds (s : State) (p st : Nat) : (s.packetDone p st).holds = s.holds := by
  unfold State.packetDone
  split <;> rfl

theorem jobChild_holds (s : State) (j : Nat) (ok : Bool) : (s.jobChild j ok).holds = s.holds := by
  unfold State.jobChild
  split <;> rfl

theorem phaseChild_holds (s : State) (p : Nat) (ok : Bool) : (s.phaseChild p ok).holds = s.holds := by
  unfold State.phaseChild
  split
  · rfl
  · dsimp only
    split
    · rfl
    · exact jobChild_holds ..

theorem graphChild_holds (s : State) (n node st : Nat) : (s.graphChild n node st).holds = s.holds := by
  unfold State.graphChild
  split
  · rfl
  · dsimp only
    split
    · rfl
    · rw [phaseChild_holds, packetDone_holds]

theorem launchCheck_holds (s : State) (l : Nat) : (s.launchCheck l).holds = s.holds := by
  unfold State.launchCheck
  split
  · rfl
  · extract_lets st s1
    have h1 : s1.holds = s.holds := updLaunch_holds ..
    split_ifs
    · rfl
    · exact (packetDone_holds ..).trans h1
    · exact (graphChild_holds ..).trans h1

theorem unheld_lbarCheck (l : Nat) (k : Unheld tag s) : Unheld tag (s.lbarCheck l) := by
  unfold State.lbarCheck
  split
  · exact k
  · refine unheld_ite k (unheld_foldl (fun t h kt => ?_) _ (k.of_holds (updLaunch_holds ..)))
    split
    · refine unheld_retire _ _ (kt.of_holds ((updGrp_holds ..).trans ?_))
      exact (accessed_acquire _ _ (.refl t)).holds
    · exact kt

theorem wgSweep_holds (s : State) (w : Nat) : (s.wgSweep w).holds = s.holds := by
  unfold State.wgSweep
  split
  · rfl
  · extract_lets s1
    have h1 : s1.holds = s.holds := by
      unfold s1
      split
      · rfl
      · exact updWg_holds ..
    split_ifs
    · exact h1
    · exact h1
    · rfl

theorem unheld_wgFinish (w : Nat) (killed cancelled : Bool) (k : Unheld tag s) : Unheld tag (s.wgFinish w killed cancelled) := by
  unfold State.wgFinish
  split
  · exact k
  · extract_lets s1 s2 s3 s4
    have k2 : Unheld tag s2 := k.of_holds (updWg_holds ..)
    have k3 : Unheld tag s3 := by
      unfold s3
      split
      · exact unheld_ite k2 (k2.of_holds (accessed_sigSub _ _ _ (.refl s2)).holds)
      · exact k2
    refine unheld_ite k (k3.of_holds ?_)
    rw [launchCheck_holds, wgSweep_holds]
    exact updLaunch_holds ..

theorem unheld_endWg (w : Nat) (killed : Bool) (k : Unheld tag s) : Unheld tag (s.endWg w killed) := by
  unfold State.endWg
  extract_lets l s1
  have k1 : Unheld tag s1 := unheld_endGroups _ (unheld_voidOps _ k)
  have kdrop : Unheld tag (s1.dropCards w) := unheld_ite k1 (k1.of_holds (updLaunch_holds ..))
  exact unheld_wgFinish _ _ _ (unheld_lbarCheck _ (unheld_ite kdrop k1))

/-! ### The end of engine operations (R239, R243, R237) -/

theorem batchGo_holds (s : State) (g cls n : Nat) : (s.batchGo g cls n).holds = s.holds := by
  induction n generalizing s with
  | zero => rfl
  | succ n ih =>
    unfold State.batchGo
    dsimp only
    split
    · rfl
    · rw [ih, updGrp_holds]
      split
      · exact (accessed_release _ _ (.refl s)).holds
      · rfl

theorem late_holds (s : State) (g fn ctx : Nat) (r : Raise) (eng : Bool) : (s.late g fn ctx r eng).holds = s.holds := by
  unfold State.late
  split
  · exact updGrp_holds ..
  · exact (accessed_putRec _ _ _ (.refl s)).holds

theorem opFail_holds (s : State) (id : Nat) (o : AsyncOp) (reason : Nat) (cause : BitVec 8) (addr : Word) :
    (s.opFail id o reason cause addr).holds = s.holds := by
  rw [State.opFail, State.opGone, wgSweep_holds, packetDone_holds, State.batches, batchGo_holds]
  exact late_holds ..

theorem matFail_holds (s : State) (o : MatOp) (reason : Nat) (cause : BitVec 8) (addr : Word) :
    (s.matFail o reason cause addr).holds = s.holds := by
  rw [State.matFail, State.matGone, wgSweep_holds, State.batches, batchGo_holds, State.engineTrap, late_holds]
  exact updGrp_holds ..

/-! ### REPLAY (R262, R366, R367) -/

theorem peerQuiet_atIssue_cur (h : s.grp? s.cur = some x) (hq : (s.atIssue sl).peerQuiet s.cur = true) :
    (s.atIssue sl).peerQuiet (s.atIssue sl).cur = true := (cur_atIssue h).symm ▸ hq

/-- Nothing of a killed hold is left under its tag. -/
theorem unheld_killHold (s : State) (tag : Nat) (e : Hold) : Unheld tag (s.killHold tag e) := by
  have k := unheld_tdel s tag
  unfold State.killHold
  extract_lets s1
  split
  · exact unheld_endWg _ _ k
  · split
    · exact k.of_holds (opFail_holds ..)
    · exact k
  · split
    · exact k.of_holds ((matFail_holds ..).trans (updCore_holds ..))
    · exact k

/-- A group as the release of a hold leaves it: it waits for the tag no more. -/
def Group.freed (tag : Nat) (x : Group) : Group := if x.wait = .held tag then { x with wait := .none } else x

/-- A released hold is gone, and its group waits for it no more. -/
theorem releaseHold_spec (s : State) (tag : Nat) (e : Hold) : Unheld tag (s.releaseHold tag e)
    ∧ ∀ g, e.grp = some g → (s.releaseHold tag e).grp? g = (s.grp? g).map (Group.freed tag) := by
  unfold State.releaseHold
  extract_lets s1 s2 s3
  have hholds : s2.holds = tdel s.holds tag := by
    unfold s2
    split
    · exact updGrp_holds ..
    · rfl
  have hgrp : ∀ g, e.grp = some g → s2.grp? g = (s.grp? g).map (Group.freed tag) := by
    intro g hg
    unfold s2
    rw [hg]
    exact (grp?_updGrp ..).trans (if_pos rfl)
  have h3 : s3.holds = s2.holds ∧ s3.groups = s2.groups := by
    unfold s3
    split <;> exact ⟨rfl, rfl⟩
  obtain ⟨h3holds, h3groups⟩ := h3
  have hunheld : Unheld tag s3 := (unheld_tdel s tag).of_holds (h3holds.trans hholds)
  have hfree : ∀ g, e.grp = some g → s3.grp? g = (s.grp? g).map (Group.freed tag) := fun g hg =>
    (congrArg (tget · g) h3groups).trans (hgrp g hg)
  split <;> exact ⟨hunheld, hfree⟩

theorem heldBy_some {a : Word} (he : tget s.holds a.toNat = some e) (hm : e.fn = (s.wgD x.wg).fn ∨ s.levelOf x = 2) :
    s.heldBy x a = some e := by
  simp only [State.heldBy, he, if_pos hm]

theorem heldBy_none {a : Word} (hn : ∀ e, tget s.holds a.toNat = some e → ¬ (e.fn = (s.wgD x.wg).fn ∨ s.levelOf x = 2)) :
    s.heldBy x a = none := by
  unfold State.heldBy
  split
  · next e he => exact if_neg (hn e he)
  · rfl

theorem heldBy_atIssue (h : s.grp? s.cur = some x) (a : Word) : (s.atIssue sl).heldBy (x.cover sl) a = s.heldBy x a := by
  rw [atIssue_eq h]
  rfl

/-- The hold that the tag of an issuing REPLAY names. -/
theorem heldBy_issued (h : s.grp? s.cur = some x) (he : tget s.holds (s.ssrc x sl sl.a).toNat = some e)
    (hm : e.fn = (s.wgD x.wg).fn ∨ s.levelOf x = 2) :
    (s.atIssue sl).heldBy (x.cover sl) ((s.atIssue sl).ssrc (x.cover sl) sl sl.a) = some e := by
  rw [ssrc_atIssue h, heldBy_atIssue h]
  exact heldBy_some he hm

section Replay

variable {kill : Bool}

theorem replayBody_refused (hl : s.levelOf x = 0) : replayBody kill sl s x = levelTrap s := if_pos hl

variable (hl : s.levelOf x ≠ 0)
include hl

theorem replayBody_none (hn : s.heldBy x (s.ssrc x sl sl.a) = none) :
    replayBody kill sl s x = .done s (scaOut x.trapMode sl.d 0 0) := by
  simp only [replayBody, if_neg hl, hn]

variable (he : s.heldBy x (s.ssrc x sl sl.a) = some e)
include he

theorem replayBody_kill :
    replayBody true sl s x = .done (s.killHold (s.ssrc x sl sl.a).toNat e) (scaOut x.trapMode sl.d 0 1) := by
  simp only [replayBody, if_neg hl, he, if_true]

theorem replayBody_retry (hq : s.peerQuiet s.cur = true) : replayBody false sl s x
    = .done ((s.release (dieOf x.core) 3).releaseHold (s.ssrc x sl sl.a).toNat e) (scaOut x.trapMode sl.d 0 1) := by
  simp only [replayBody, if_neg hl, he, syncAfter, hq, if_true, Bool.false_eq_true, if_false]

end Replay

/-- Both forms of REPLAY above level 0 with a tag that holds nothing of their function. -/
theorem runSlot_replay_none (h : Issues s f sl x) {lat : Machine.Lat} {kill : Bool} (hl : s.levelOf x ≠ 0)
    (hn : ∀ e, tget s.holds (s.ssrc x sl sl.a).toNat = some e → ¬ (e.fn = (s.wgD x.wg).fn ∨ s.levelOf x = 2)) :
    runSlot f lat sl (replayBody kill sl) s = writes s sl lat (scaOut x.trapMode sl.d 0 0) := by
  refine runSlot_writes h (replayBody_none (x := x.cover sl) (levelOf_atIssue h.group ▸ hl) ?_)
  rw [ssrc_atIssue h.group, heldBy_atIssue h.group]
  exact heldBy_none hn

/-! ### MEAS (R263) -/

theorem accessed_measCheck (v : View) (last k a : Nat) (h : Accessed s0 s) : Accessed s0 (s.measCheck v last k a).1 := by
  induction k generalizing s a with
  | zero => exact h
  | succ k ih =>
    have hr := accessed_resolve v (BitVec.ofNat 64 a) 1 1 0 false h
    unfold State.measCheck
    split
    · exact h
    · dsimp only
      split
      · exact hr
      · split <;> exact ih _ hr

theorem accessed_measLine (v : View) (p : Piece) (n : Nat) (h : Accessed s0 s) : Accessed s0 (s.measLine v p n).1 := by
  unfold State.measLine
  split
  · dsimp only
    split <;> exact accessed_readP _ _ _ _ _ h
  · unfold State.toPoint
    dsimp only
    split
    · exact accessed_reach _ _ h
    · exact h

theorem accessed_measRead (v : View) (l : List (Piece × Nat)) (h : Accessed s0 s) : Accessed s0 (s.measRead v l).1 := by
  induction l generalizing s with
  | nil => exact h
  | cons p l ih =>
    have hq := ih (accessed_measLine v p.1 p.2 h)
    unfold State.measRead
    dsimp only
    split <;> exact hq

theorem Accessed.worlds (h : Accessed s t) : t.worlds = s.worlds := (congrArg State.worlds h.rest :)

theorem measBody_refused (hl : s.levelOf x = 0) : measBody sl s x = levelTrap s := if_pos hl

theorem measBody_outside (hl : s.levelOf x ≠ 0) (hsp : spaceOf (s.ssrc x sl sl.a) ≠ 0) :
    measBody sl s x = trapNow s 4 (s.ssrc x sl sl.a) 0 := (if_neg hl).trans (if_pos hsp)

section Measured

variable {u : State} {ps : List (Piece × Nat)} {bs : List Byte} {a : Word} {len : Nat}

/-- The state in which the bytes of a checked range have been read, after the acquire of MEAS. -/
abbrev State.measured (s : State) (v : View) (ps : List (Piece × Nat)) : State × Except Raise (List Byte) :=
  ((s.account v true false (ps.map Prod.fst)).acquire v.core 3).measRead v ps

theorem measBody_measures (hl : s.levelOf x ≠ 0) (ha : s.ssrc x sl sl.a = a)
    (hlen : ((s.ssrc x sl sl.b).extractLsb' 0 32).toNat = len) (hv : s.viewOf s.cur = v) (hsp : spaceOf a = 0)
    (hflow : s.egressLow v a = false) (hq : s.peerQuiet s.cur = true)
    (hc : s.measCheck v (a.toNat + len) (len / 128 + 2) a.toNat = (u, .ok ps)) (hok : firstErr (ps.map Prod.fst) = none)
    (hr : (u.measured v ps).2 = .ok bs) :
    measBody sl s x = .done ((u.measured v ps).1.measure v.world (immN sl % 16) bs) (scaOut x.trapMode sl.d 0 1) := by
  have hn : bits (s.ssrc x sl sl.b) 31 0 = len := (bits_eq_extract _ rfl).trans hlen
  simp only [measBody, if_neg hl, ha, hn, hv, if_neg (not_not.2 hsp), hflow, Bool.false_eq_true, if_false, syncAfter, hq,
    if_true, hc, hok, hr]

theorem measured_worlds (s : State) (v : View) (ps : List (Piece × Nat)) : (s.measured v ps).1.worlds = s.worlds :=
  (accessed_measRead v ps (accessed_acquire v.core 3 (accessed_account v true false (ps.map Prod.fst) (.refl s)))).worlds

/-- A measurement extends one register of its world. -/
theorem measure_extends {wd : World} {n i : Nat} (hw : tget s.worlds n = some wd) (bs : List Byte) :
    tget (s.measure n i bs).worlds n = some { wd with meas := tput wd.meas i (extend (tval 0 wd.meas i) (sha512 bs)) } := by
  simp only [State.measure, hw, tget_tput_self]

end Measured

end Sys2Proof.Machine

open Sys2Proof Sys2Proof.Machine in
/-- Settles O42: a hold that is retried is released (`releaseHold_spec`), one that is killed is gone (`unheld_killHold`), and a
measurement extends its register (`measure_extends`). -/
theorem replayAndMeasureResults : Obligations.REPLAY_AND_MEASURE_RESULTS := by
  intro s x sl i v a w level refused mine none_ len out
  refine ⟨fun h => ⟨fun hl => ?retryRefused, fun hl hn => runSlot_replay_none h hl hn, fun hl hq e he hm => ?retry⟩,
    fun h => ⟨fun hl => ?killRefused, fun hl hn => runSlot_replay_none h hl hn, fun hl e he hm => ?kill⟩,
    fun h => ⟨fun hl => ?measRefused, fun hl hsp => ?outside, fun u ps wd bs hl hsp hflow hq hc hok hw hr => ?measures⟩⟩
  all_goals have ha : i.ssrc (x.cover sl) sl sl.a = a := ssrc_atIssue h.group _
  all_goals have hlevel : i.levelOf (x.cover sl) = level := levelOf_atIssue h.group
  case retryRefused => exact runSlot_levelTrap h (replayBody_refused (hlevel.trans hl))
  case killRefused => exact runSlot_levelTrap h (replayBody_refused (hlevel.trans hl))
  case measRefused => exact runSlot_levelTrap h (measBody_refused (hlevel.trans hl))
  case retry =>
    have hbody := replayBody_retry (hlevel ▸ hl) (heldBy_issued h.group he hm) (peerQuiet_atIssue_cur h.group hq)
    rw [ha] at hbody
    obtain ⟨hnone, hfree⟩ := releaseHold_spec (i.release (dieOf x.core) 3) a.toNat e
    refine ⟨_, runSlot_done h hbody, hnone, fun g y hg hne hy hwait => (hfree g hg).trans ?_⟩
    have hi : i.grp? g = some y := ((grp?_updGrp ..).trans (if_neg hne)).trans hy
    rw [(accessed_release _ _ (.refl i)).grp?, hi, Option.map_some, Group.freed, if_pos hwait]
  case kill =>
    have hbody := replayBody_kill (hlevel ▸ hl) (heldBy_issued h.group he hm)
    rw [ha] at hbody
    exact ⟨_, runSlot_done h hbody, unheld_killHold i a.toNat e⟩
  case outside =>
    have hbody := measBody_outside (hlevel ▸ hl) (by rw [ha, spaceOf_eq]; exact fun h0 => hsp (BitVec.eq_of_toNat_eq h0))
    rw [ha] at hbody
    exact runSlot_traps h hbody
  case measures =>
    have hb : i.ssrc (x.cover sl) sl sl.b = s.ssrc x sl sl.b := ssrc_atIssue h.group _
    have hv : i.viewOf i.cur = v := congrArg i.viewOf (cur_atIssue h.group)
    have hspace : spaceOf a = 0 := by rw [spaceOf_eq, hsp]; rfl
    have hbody := measBody_measures (x := x.cover sl) (hlevel ▸ hl) ha (by rw [hb]) hv hspace hflow
      (peerQuiet_atIssue_cur h.group hq) hc hok hr
    have hu := accessed_measCheck v (a.toNat + len) (len / 128 + 2) a.toNat (.refl i)
    rw [hc] at hu
    refine ⟨_, runSlot_done h hbody, measure_extends ?_ bs⟩
    rw [measured_worlds, hu.worlds]
    exact (congrArg (tget · v.world) (updGrp_worlds ..)).trans hw
end

section
/-! SUPPORT, O57 and O60. The reset state (R392, R413, R423, Table 23.2), and the spec's own encoded words (R76, Table 3.1). -/

namespace Sys2Proof.Machine

/-- A table that lists each key once with its own value. -/
theorem tget_map_self {α : Type} (f : Nat → α) (l : List Nat) (k : Nat) :
    tget (l.map fun j => (j, f j)) k = if k ∈ l then some (f k) else none := by
  induction l with
  | nil => rfl
  | cons j l ih => grind [tget]

/-- At reset only function 0 has slices. -/
theorem count_reset (fn : Nat) : (State.reset.fnD fn).count = if fn = 0 then 12 else 0 := by
  have h : tget State.reset.fns fn = _ := tget_map_self _ (List.range 13) fn
  simp only [State.fnD, h]
  split
  · rfl
  · next hk =>
    have h0 : fn ≠ 0 := by rintro rfl; exact hk (by decide)
    rw [if_neg h0]
    rfl

end Sys2Proof.Machine

open Sys2Proof.Machine in
/-- Settles O60: the fields of the reset state, of which COUNT is told function by function (`count_reset`). -/
theorem resetState : Obligations.RESET_STATE :=
  ⟨rfl, rfl, rfl, count_reset, rfl, rfl, rfl, rfl, fun _ => rfl, rfl, rfl⟩

/-- Settles O57: the decoder evaluates on each of the nine words. -/
theorem writtenWordsDecode : Obligations.WRITTEN_WORDS_DECODE := by
  refine ⟨?vadd, ?sadd, ?vaddSat, ?fcvt, ?susp, ?atom, ?mmas, ?boost, ?enq⟩
  all_goals decide
end

section
/-! SUPPORT and O52. A core due for the pre-emption of its groups, one of which waits for a peer in the middle of its slot (R259,
R305, R387). -/

namespace Sys2Proof.Machine

/-- Group 1 stands at a slot that has asked a peer. -/
def midwayGroup : Group := { wg := 1 }

/-- That group alone, in a context without a pre-emption budget, on a core whose retirement began 100 ticks ago. -/
def retiringState : State :=
  { age := 100, cores := [(0, { retiring := true })], groups := [(1, midwayGroup)], wgs := [(1, { groups := [1] })]
    ctxs := [(0, { pbudget := 0 })], peerOut := [{ msg := { peer := 1, pa := 0, n := 8, kind := 0 }, asker := .grp 1 0 }] }

/-- The state's only group is group 1. -/
theorem retiringState_groups {g : Nat} {x : Group} (h : retiringState.grp? g = some x) : g = 1 ∧ x = midwayGroup := by
  have h1 : (if 1 = g then some midwayGroup else none) = some x := h
  split at h1
  · next e => exact ⟨e.symm, (Option.some.inj h1).symm⟩
  · cases h1

/-- The pre-emption of the core's workgroups only notes that the group is due once its slot has ended. -/
theorem retiringState_waits :
    ∃ t, exec .retirePreempt retiringState = .next t ∧ (t.grp? 1).map (fun y => (y.preempt, y.due)) = some (false, true) :=
  ⟨_, rfl, by decide +kernel⟩

end Sys2Proof.Machine

open Sys2Proof Sys2Proof.Machine in
/-- Refutes O52: its clause on RETIRE_PREEMPT marks every resident group of the core at once, but a group whose slot has asked a
peer ends that slot first (`retiringState_waits`), since the peer may have performed its request already. -/
theorem not_pralineEvents : ¬ Obligations.PRALINE_EVENTS := by
  rintro ⟨-, ⟨-, -, -, -, hretire⟩, -, -⟩
  obtain ⟨-, t, ht, hmarked⟩ := hretire retiringState fun g x hx => by
    obtain ⟨rfl, rfl⟩ := retiringState_groups hx
    refine ⟨by decide, rfl, fun h _ y hy => ?_⟩
    rw [(retiringState_groups hy).2]
  have hgroup := hmarked _ (.head _) rfl (by decide) 1 midwayGroup (.head _) rfl rfl rfl rfl rfl
  obtain ⟨t', ht', hwaits⟩ := retiringState_waits
  obtain rfl : t = t' := by injection ht.symm.trans ht'
  rw [hgroup] at hwaits
  exact absurd hwaits (by decide)
end

section
/-! SUPPORT. The frame of memory and its caches. What brings, writes back or drops lines, counts write-backs, charges traffic or
hands in a record leaves contexts, translations, owners, marks, links, groups and every register of the module as they are
(R302 to R316, R349, R390, R404, R415, R443). `Cached s t` says so of a state `t` that such operations have made of `s`; it keeps
what `Accessed` does not, of translations, contexts and links. -/

namespace Sys2Proof.Machine

/-- The parts of a state that memory, its caches and the records change, put back as they were. -/
def State.uncached (s t : State) : State :=
  { t with
    mem := s.mem, cores := s.cores, fns := s.fns, badMac := s.badMac, hostLines := s.hostLines, l2 := s.l2, hubc := s.hubc
    dieAcq := s.dieAcq, fmtPend := s.fmtPend, ctrs := s.ctrs, mdc := s.mdc, failed := s.failed, nodeMet := s.nodeMet }

/-- A function without its charges of the tick, its buckets and its records. -/
def Func.bare (f : Func) : Func :=
  { f with traffic := 0, buckets := [], msix := 0, faults := [], events := [], fdrop := 0, edrop := 0 }

/-- `t` is `s` but for memory, caches, counters, and the charges and records of functions. -/
structure Cached (s t : State) : Prop where
  rest : s.uncached t = s
  bare : ∀ fn, (tget t.fns fn).map Func.bare = (tget s.fns fn).map Func.bare

namespace Cached

variable {s t u : State}

theorem refl (s : State) : Cached s s := ⟨rfl, fun _ => rfl⟩

theorem trans (h : Cached s t) (k : Cached t u) : Cached s u where
  rest := (congrArg s.uncached k.rest).trans h.rest
  bare fn := (k.bare fn).trans (h.bare fn)

/-- A change of what is left aside, besides functions. -/
theorem of_rest (h : Cached s t) (hr : t.uncached u = t) (hf : u.fns = t.fns) : Cached s u :=
  h.trans ⟨hr, fun fn => by rw [hf]⟩

theorem ctxs (h : Cached s t) : t.ctxs = s.ctxs := (congrArg State.ctxs h.rest :)
theorem links (h : Cached s t) : t.links = s.links := (congrArg State.links h.rest :)
theorem owner (h : Cached s t) : t.owner = s.owner := (congrArg State.owner h.rest :)
theorem tlb (h : Cached s t) : t.tlb = s.tlb := (congrArg State.tlb h.rest :)

/-- A part of a function that charges and records leave alone. -/
theorem fnD {α : Type} (h : Cached s t) (fn : Nat) (g : Func → α) (hg : ∀ f, g f.bare = g f) : g (t.fnD fn) = g (s.fnD fn) := by
  have hb := h.bare fn
  unfold State.fnD
  revert hb
  cases tget t.fns fn with
  | none => cases tget s.fns fn with
    | none => exact fun _ => rfl
    | some y => exact fun e => by cases e
  | some x => cases tget s.fns fn with
    | none => exact fun e => by cases e
    | some y => exact fun e => (hg x).symm.trans ((congrArg g (Option.some.inj e)).trans (hg y))

/-- A function that is there stays there. -/
theorem fn_ne_none (h : Cached s t) {fn : Nat} (hf : tget s.fns fn ≠ none) : tget t.fns fn ≠ none := by
  intro e
  have hb := h.bare fn
  rw [e] at hb
  exact hf (Option.map_eq_none_iff.1 hb.symm)

end Cached

variable {s0 s : State}

/-! ### Loops and branches -/

theorem cached_foldl {β : Type} {f : State → β → State} (h : ∀ s b, Cached s0 s → Cached s0 (f s b)) (l : List β)
    (s : State) (hs : Cached s0 s) : Cached s0 (l.foldl f s) :=
  List.foldlRecOn l f hs fun t ht b _ => h t b ht

theorem cached_ite {p : Prop} [Decidable p] {a b : State} (ha : Cached s0 a) (hb : Cached s0 b) :
    Cached s0 (if p then a else b) := by
  split
  · exact ha
  · exact hb

/-! ### Functions and cores -/

/-- A change of the charges and records of a function. -/
theorem cached_updFn (fn : Nat) {f : Func → Func} (hf : ∀ x, (f x).bare = x.bare) (h : Cached s0 s) :
    Cached s0 (s.updFn fn f) := by
  refine h.trans ?_
  unfold State.updFn
  split
  · next x hx =>
    refine ⟨rfl, fun k => ?_⟩
    rw [tget_tput]
    split
    · next e =>
      rw [e, hx]
      exact congrArg some (hf x)
    · rfl
  · exact .refl s

theorem cached_updCore (c : Nat) (f : Core → Core) (h : Cached s0 s) : Cached s0 (s.updCore c f) := h.of_rest rfl rfl

/-! ### Memory and caches (R302 to R316, R404) -/

theorem cached_wrByte (l : Nat) (b : Byte) (h : Cached s0 s) : Cached s0 (s.wrByte l b) := h.of_rest rfl rfl

theorem cached_wrBytes (l : Nat) (bs : List Byte) (h : Cached s0 s) : Cached s0 (s.wrBytes l bs) := by
  induction bs generalizing s l with
  | nil => exact h
  | cons b t ih => exact ih _ (cached_wrByte l b h)

theorem cached_wr (l n v : Nat) (h : Cached s0 s) : Cached s0 (s.wr l n v) := cached_wrBytes _ _ h

theorem cached_l1Map (line : Nat) (p : Nat → Bool) (f : L1Line → Option L1Line) (h : Cached s0 s) :
    Cached s0 (s.l1Map line p f) := h.of_rest rfl rfl

theorem cached_l1Fill (die c line : Nat) (d : List Byte) (b : Bool) (h : Cached s0 s) : Cached s0 (s.l1Fill die c line d b) :=
  h.of_rest rfl rfl

theorem cached_l1Read (die c line : Nat) (h : Cached s0 s) : Cached s0 (s.l1Read die c line) :=
  cached_ite h (cached_l1Fill _ _ _ _ _ h)

theorem cached_l1Write (die c line : Nat) (d : List Byte) (b : Bool) (h : Cached s0 s) : Cached s0 (s.l1Write die c line d b) :=
  h.of_rest rfl rfl

theorem cached_ctlTouch (c g off : Nat) (h : Cached s0 s) : Cached s0 (s.ctlTouch c g off) := cached_ite h (h.of_rest rfl rfl)

theorem cached_recall (line : Nat) (h : Cached s0 s) : Cached s0 (s.recall line) := h.of_rest rfl rfl

theorem cached_hostOwnAt (loc : Nat) (h : Cached s0 s) : Cached s0 (s.hostOwnAt loc) := cached_ite (h.of_rest rfl rfl) h

theorem cached_countLine (line : Nat) (h : Cached s0 s) : Cached s0 (s.countLine line) := cached_ite h (h.of_rest rfl rfl)

theorem cached_countLines (l n : Nat) (h : Cached s0 s) : Cached s0 (s.countLines l n) :=
  cached_foldl (fun _ _ h => cached_countLine _ h) _ _ h

theorem cached_noteNode (loc : Nat) (h : Cached s0 s) : Cached s0 (s.noteNode loc) := by
  unfold State.noteNode
  split
  · exact h
  · exact cached_ite h (h.of_rest rfl rfl)

theorem cached_verifyLine (line : Nat) (h : Cached s0 s) : Cached s0 (s.verifyLine line) := cached_ite h (h.of_rest rfl rfl)

theorem cached_charge (fn pj : Nat) (h : Cached s0 s) : Cached s0 (s.charge fn pj) := cached_updFn _ (fun _ => by rfl) h

theorem cached_chargeAt (fn loc n : Nat) (h : Cached s0 s) : Cached s0 (s.chargeAt fn loc n) :=
  cached_ite h (cached_charge _ _ h)

theorem cached_cacheDrop (lo n : Nat) (h : Cached s0 s) : Cached s0 (s.cacheDrop lo n) := h.of_rest rfl rfl

/-! ### Columns (R312, R443) -/

theorem cached_writeBack (die : Nat) (e : DirtyLine) (h : Cached s0 s) : Cached s0 (s.writeBack die e) := by
  unfold State.writeBack
  split
  · exact h.of_rest rfl rfl
  · have k : Cached s0 (e.bytes.foldl (fun t p => t.wrByte (128 * e.line + p.1) p.2) s) :=
      cached_foldl (fun _ _ h => cached_wrByte _ _ h) _ _ h
    dsimp only
    split
    · exact cached_chargeAt _ _ _ (cached_countLine _ (k.of_rest rfl rfl))
    · exact cached_countLine _ (k.of_rest rfl rfl)

theorem cached_cleanCore (c : Nat) (h : Cached s0 s) : Cached s0 (s.cleanCore c) :=
  cached_updCore c (fun k => { k with dirty := [] }) (cached_foldl (fun _ _ h => cached_writeBack _ _ h) _ _ h)

theorem cached_cleanDie (die : Nat) (h : Cached s0 s) : Cached s0 (s.cleanDie die) :=
  cached_foldl (fun _ _ h => cached_cleanCore _ h) _ _ h

theorem cached_cleanLine (die line : Nat) (h : Cached s0 s) : Cached s0 (s.cleanLine die line) :=
  cached_foldl (fun _ _ h => by
    split
    · exact h
    · exact cached_updCore _ _ (cached_writeBack _ _ h)) _ _ h

theorem cached_dropCopies (die line : Nat) (k : Option Nat) (h : Cached s0 s) : Cached s0 (s.dropCopies die line k) :=
  cached_foldl (fun _ _ h => cached_ite h (cached_ite h (cached_updCore _ _ h))) _ _ h

theorem cached_dropL1 (die line : Nat) (h : Cached s0 s) : Cached s0 (s.dropL1 die line) := cached_l1Map _ _ _ h

theorem cached_discardLines (lo n : Nat) (h : Cached s0 s) : Cached s0 (s.discardLines lo n) :=
  cached_cacheDrop _ _ (cached_foldl (fun _ _ h => cached_updCore _ _ h) _ _ h)

theorem cached_flushLines (lo n : Nat) (h : Cached s0 s) : Cached s0 (s.flushLines lo n) :=
  cached_discardLines _ _ (cached_foldl (fun _ _ h => cached_foldl (fun _ _ h => cached_writeBack _ _ h) _ _ h) _ _ h)

theorem cached_toHub (die line : Nat) (h : Cached s0 s) : Cached s0 (s.toHub die line) :=
  cached_recall _ (cached_dropL1 _ _ (cached_dropCopies _ _ _ (cached_cleanLine _ _ h)))

theorem cached_bankWrite (l n x : Nat) (h : Cached s0 s) : Cached s0 (s.bankWrite l n x) :=
  cached_countLines _ _ (cached_wr _ _ _ (cached_hostOwnAt _ (cached_recall _ h)))

theorem cached_farRead (die c l n : Nat) (col first : Bool) (h : Cached s0 s) : Cached s0 (s.farRead die c l n col first).1 := by
  unfold State.farRead
  dsimp only
  split
  · exact h
  · split
    · exact cached_l1Fill _ _ _ _ _ h
    · exact cached_l1Fill _ _ _ _ _ (cached_ite (cached_updCore _ _ h) h)

theorem cached_columnWrite (die c l : Nat) (bs : List Byte) (h : Cached s0 s) : Cached s0 (s.columnWrite die c l bs) := by
  have h1 : ∀ line, Cached s0 ((coresOf die).foldl (fun t c' =>
      if c' = c ∨ (t.dirtyOf c' line).isNone then t
      else t.updCore c' fun k => { k with dirty := k.dirty.filter fun e => !decide (e.line = line) }) s) := fun line =>
    cached_foldl (fun _ _ h => cached_ite h (cached_updCore _ _ h)) _ _ h
  have h2 := cached_dropCopies die (l / 128) (some c) (h1 (l / 128))
  unfold State.columnWrite
  dsimp only
  refine cached_updCore _ _ ?_
  split
  · split
    · exact cached_updCore _ _ (cached_writeBack _ _ h2)
    · exact h2
  · exact h2

theorem cached_farWrite (die c l : Nat) (bs : List Byte) (col first : Bool) (h : Cached s0 s) :
    Cached s0 (s.farWrite die c l bs col first) :=
  cached_l1Write _ _ _ _ _ (cached_ite (cached_columnWrite _ _ _ _ h)
    (cached_countLine _ (cached_wrBytes _ _ (cached_recall _ (cached_dropCopies _ _ _ (cached_cleanLine _ _ h))))))

theorem cached_nextGen (c : Nat) (h : Cached s0 s) : Cached s0 (s.nextGen c) :=
  cached_ite (cached_updCore _ _ (cached_cleanCore _ h)) (cached_updCore _ _ h)

theorem cached_release (die scp : Nat) (h : Cached s0 s) : Cached s0 (s.release die scp) := cached_ite (cached_cleanDie _ h) h

theorem cached_acquire (c scp : Nat) (h : Cached s0 s) : Cached s0 (s.acquire c scp) := by
  have hnoted : Cached s0 ((s.nextGen c).acqNote c) := by
    unfold State.acqNote
    exact cached_updCore _ _ ((cached_nextGen c h).of_rest rfl rfl)
  exact cached_ite hnoted (cached_ite h (cached_updCore _ _ h))

theorem cached_icFill (c line : Nat) (h : Cached s0 s) : Cached s0 (s.icFill c line) := cached_ite h (cached_updCore _ _ h)

/-! ### Storage writes that wait (R59, R303) -/

theorem cached_fmtLand (f : FmtStore) (h : Cached s0 s) : Cached s0 (s.fmtLand f) :=
  cached_countLine _ (cached_recall _ (cached_dropL1 _ _ (cached_dropCopies _ _ _ (cached_wrByte _ _ h))))

/-! ### Charges and records (R349, R390, R413, R415, R417) -/

theorem cached_debit (fn src cls bytes : Nat) (h : Cached s0 s) : Cached s0 (s.debit fn src cls bytes) :=
  cached_updFn _ (fun x => by
    split
    · split <;> rfl
    · rfl) h

theorem cached_msix (fn n : Nat) (h : Cached s0 s) : Cached s0 (s.msix fn n) := cached_updFn _ (fun _ => by rfl) h

theorem cached_physAppend {ring : Nat} {r : Rec} {t : State} (e : s.physAppend ring r = some t) (h : Cached s0 s) : Cached s0 t := by
  unfold State.physAppend at e
  dsimp only at e
  split at e
  · cases e
  · cases e
    exact cached_bankWrite _ _ _ (cached_bankWrite _ _ _ h)

theorem cached_flushTo (fn vec ring : Nat) (l : List Rec) (h : Cached s0 s) : Cached s0 (s.flushTo fn vec ring l).1 := by
  induction l generalizing s with
  | nil => exact h
  | cons p l ih =>
    unfold State.flushTo
    dsimp only
    split
    · exact h
    · next e => exact ih (cached_ite (cached_msix _ _ (cached_physAppend e h)) (cached_physAppend e h))

theorem cached_flushRecs (fn : Nat) (h : Cached s0 s) : Cached s0 (s.flushRecs fn) :=
  cached_updFn _ (fun _ => by rfl) (cached_flushTo _ _ _ _ (cached_updFn _ (fun _ => by rfl) (cached_flushTo _ _ _ _ h)))

theorem cached_putRec (fn which : Nat) (r : Rec) (h : Cached s0 s) : Cached s0 (s.putRec fn which r) := by
  have hdrop : Cached s0 (s.dropRec fn which) :=
    cached_ite (cached_updFn _ (fun _ => by split <;> rfl) h) (cached_bankWrite _ _ _ h)
  exact cached_ite hdrop (cached_flushRecs _ (cached_updFn _ (fun _ => by split <;> rfl) h))

theorem cached_engFault (fn ctx : Nat) (r : Raise) (h : Cached s0 s) : Cached s0 (s.engFault fn ctx r) := cached_putRec _ _ _ h

/-- An event record draws two free values. -/
theorem cached_event (s : State) (code fn ctx world : Nat) (w1 detail : Option Word) :
    Cached { s with draw := s.draw + 2 } (s.event code fn ctx world w1 detail) := by
  have h := fun r => cached_putRec 0 1 r (.refl { s with draw := s.draw + 2 })
  exact cached_ite (h _) (cached_putRec _ _ _ (h _))

end Sys2Proof.Machine
end

section
/-! SUPPORT. What lasts while groups, engines and the hub work. No access, trap, release, completion or pre-emption changes the
state of bring-up, the dies that are lost or the requests of peers that were performed, none brings back a link that is not up
(R431 to R434), and a context that has ended stays so (R371, R372). `Kept s t` says so of a state `t` that comes of `s`; one
lemma per operation, named `kept_` and the operation, says that the operation keeps it. -/

namespace Sys2Proof.Machine

/-- What only events of links, of management and of bring-up change. -/
def State.lasting (s : State) : DevState × List Nat × List Nat × Table Link × Table Context :=
  (s.dev, s.lostDies, s.peerIn, s.links, s.ctxs)

/-- `t` has what lasts of `s`. -/
structure Kept (s t : State) : Prop where
  dev : t.dev = s.dev
  lostDies : t.lostDies = s.lostDies
  peerIn : t.peerIn = s.peerIn
  links : ∀ i, (s.linkD i).st ≠ 2 → t.linkD i = s.linkD i
  ended : ∀ k c, tget s.ctxs k = some c → ∃ d, tget t.ctxs k = some d ∧ (c.ended = true → d.ended = true)

namespace Kept

variable {s t u : State}

theorem refl (s : State) : Kept s s := ⟨rfl, rfl, rfl, fun _ _ => rfl, fun _ c hc => ⟨c, hc, id⟩⟩

theorem trans (h : Kept s t) (k : Kept t u) : Kept s u where
  dev := k.dev.trans h.dev
  lostDies := k.lostDies.trans h.lostDies
  peerIn := k.peerIn.trans h.peerIn
  links i hi := by rw [k.links i (by rw [h.links i hi]; exact hi), h.links i hi]
  ended key c hc := by
    obtain ⟨d, hd, hcd⟩ := h.ended key c hc
    obtain ⟨e, he, hde⟩ := k.ended key d hd
    exact ⟨e, he, hde ∘ hcd⟩

/-- A change of what does not last. -/
theorem of_same (h : Kept s t) (e : u.lasting = t.lasting) : Kept s u :=
  h.trans
    { dev := congrArg (·.1) e
      lostDies := congrArg (·.2.1) e
      peerIn := congrArg (·.2.2.1) e
      links := fun i _ =>
        congrArg (fun p : DevState × List Nat × List Nat × Table Link × Table Context => tval ({} : Link) p.2.2.2.1 i) e
      ended := fun k c hc => ⟨c, (congrArg (fun p => tget p.2.2.2.2 k) e).trans hc, id⟩ }

theorem of_cached (h : Kept s t) (c : Cached t u) : Kept s u := h.of_same (congrArg State.lasting c.rest :)

end Kept

variable {s0 s : State}

/-! ### Loops and branches -/

theorem kept_foldl {β : Type} {f : State → β → State} (h : ∀ s b, Kept s0 s → Kept s0 (f s b)) (l : List β)
    (s : State) (hs : Kept s0 s) : Kept s0 (l.foldl f s) :=
  List.foldlRecOn l f hs fun t ht b _ => h t b ht

theorem kept_ite {p : Prop} [Decidable p] {a b : State} (ha : Kept s0 a) (hb : Kept s0 b) : Kept s0 (if p then a else b) := by
  split
  · exact ha
  · exact hb

theorem kept_ite1 {β : Type} {p : Prop} [Decidable p] {a b : State × β} (ha : Kept s0 a.1) (hb : Kept s0 b.1) :
    Kept s0 (if p then a else b).1 := by
  split
  · exact ha
  · exact hb

/-! ### Parts of the state -/

theorem kept_updGrp (g : Nat) (f : Group → Group) (h : Kept s0 s) : Kept s0 (s.updGrp g f) :=
  h.of_same (congrArg State.lasting (updGrp_frame s g f) :)

theorem kept_updWg (w : Nat) (f : Workgroup → Workgroup) (h : Kept s0 s) : Kept s0 (s.updWg w f) :=
  h.of_same (congrArg State.lasting (updWg_frame s w f) :)

theorem kept_updFn (fn : Nat) (f : Func → Func) (h : Kept s0 s) : Kept s0 (s.updFn fn f) :=
  h.of_same (congrArg State.lasting (updFn_frame s fn f) :)

theorem kept_updLaunch (l : Nat) (f : Launch → Launch) (h : Kept s0 s) : Kept s0 (s.updLaunch l f) :=
  h.of_same (congrArg State.lasting (updLaunch_frame s l f) :)

theorem kept_updWear (u : Nat) (f : Wear → Wear) (h : Kept s0 s) : Kept s0 (s.updWear u f) :=
  h.of_same (congrArg State.lasting (updWear_frame s u f) :)

theorem kept_updCore (c : Nat) (f : Core → Core) (h : Kept s0 s) : Kept s0 (s.updCore c f) := h.of_same rfl

theorem kept_updEng (c : Nat) (f : Engine → Engine) (h : Kept s0 s) : Kept s0 (s.updEng c f) := h.of_same rfl

/-- A change of a context that does not take back its end. -/
theorem kept_updCtx (fn c : Nat) {f : Context → Context} (hf : ∀ x, x.ended = true → (f x).ended = true) (h : Kept s0 s) :
    Kept s0 (s.updCtx fn c f) := by
  refine h.trans ?_
  unfold State.updCtx
  split
  · next x hx =>
    refine ⟨rfl, rfl, rfl, fun _ _ => rfl, fun k d hd => ?_⟩
    rw [tget_tput]
    split
    · next e =>
      obtain rfl : x = d := by rw [e, hx] at hd; exact Option.some.inj hd
      exact ⟨_, rfl, hf x⟩
    · exact ⟨d, hd, id⟩
  · exact .refl s

theorem kept_touch (fn ctx : Nat) (ds : List Nat) (h : Kept s0 s) : Kept s0 (s.touch fn ctx ds) :=
  kept_updCtx _ _ (fun _ => id) h

/-- A change of a link that is up. -/
theorem kept_updLink {i : Nat} (hi : (s.linkD i).st = 2) (f : Link → Link) (h : Kept s0 s) : Kept s0 (s.updLink i f) :=
  h.trans ⟨rfl, rfl, rfl, fun j hj => by rw [linkD_updLink, if_neg (by rintro rfl; exact hj hi)], fun _ c hc => ⟨c, hc, id⟩⟩

/-- Routing takes links that are up (R434). -/
theorem linkFor_up {p pa i : Nat} (h : s.linkFor p pa = some i) : (s.linkD i).st = 2 := by
  have hm := List.mem_of_getElem? h
  simp only [State.usable, List.mem_filter, Bool.and_eq_true, decide_eq_true_eq] at hm
  exact hm.2.2

/-! ### Memory, caches and records -/

theorem kept_recall (line : Nat) (h : Kept s0 s) : Kept s0 (s.recall line) :=
  h.of_cached (cached_recall _ (.refl s))

theorem kept_hostOwnAt (loc : Nat) (h : Kept s0 s) : Kept s0 (s.hostOwnAt loc) :=
  h.of_cached (cached_hostOwnAt _ (.refl s))

theorem kept_countLine (line : Nat) (h : Kept s0 s) : Kept s0 (s.countLine line) :=
  h.of_cached (cached_countLine _ (.refl s))

theorem kept_noteNode (loc : Nat) (h : Kept s0 s) : Kept s0 (s.noteNode loc) :=
  h.of_cached (cached_noteNode _ (.refl s))

theorem kept_verifyLine (line : Nat) (h : Kept s0 s) : Kept s0 (s.verifyLine line) :=
  h.of_cached (cached_verifyLine _ (.refl s))

theorem kept_charge (fn pj : Nat) (h : Kept s0 s) : Kept s0 (s.charge fn pj) :=
  h.of_cached (cached_charge _ _ (.refl s))

theorem kept_chargeAt (fn loc n : Nat) (h : Kept s0 s) : Kept s0 (s.chargeAt fn loc n) :=
  h.of_cached (cached_chargeAt _ _ _ (.refl s))

theorem kept_wr (l n v : Nat) (h : Kept s0 s) : Kept s0 (s.wr l n v) :=
  h.of_cached (cached_wr _ _ _ (.refl s))

theorem kept_l1Read (die c line : Nat) (h : Kept s0 s) : Kept s0 (s.l1Read die c line) :=
  h.of_cached (cached_l1Read _ _ _ (.refl s))

theorem kept_ctlTouch (c g off : Nat) (h : Kept s0 s) : Kept s0 (s.ctlTouch c g off) :=
  h.of_cached (cached_ctlTouch _ _ _ (.refl s))

theorem kept_toHub (die line : Nat) (h : Kept s0 s) : Kept s0 (s.toHub die line) :=
  h.of_cached (cached_toHub _ _ (.refl s))

theorem kept_bankWrite (l n x : Nat) (h : Kept s0 s) : Kept s0 (s.bankWrite l n x) :=
  h.of_cached (cached_bankWrite _ _ _ (.refl s))

theorem kept_flushLines (lo n : Nat) (h : Kept s0 s) : Kept s0 (s.flushLines lo n) :=
  h.of_cached (cached_flushLines _ _ (.refl s))

theorem kept_release (die scp : Nat) (h : Kept s0 s) : Kept s0 (s.release die scp) :=
  h.of_cached (cached_release _ _ (.refl s))

theorem kept_acquire (c scp : Nat) (h : Kept s0 s) : Kept s0 (s.acquire c scp) :=
  h.of_cached (cached_acquire _ _ (.refl s))

theorem kept_cleanCore (c : Nat) (h : Kept s0 s) : Kept s0 (s.cleanCore c) :=
  h.of_cached (cached_cleanCore _ (.refl s))

theorem kept_icFill (c line : Nat) (h : Kept s0 s) : Kept s0 (s.icFill c line) :=
  h.of_cached (cached_icFill _ _ (.refl s))

theorem kept_debit (fn src cls bytes : Nat) (h : Kept s0 s) : Kept s0 (s.debit fn src cls bytes) :=
  h.of_cached (cached_debit _ _ _ _ (.refl s))

theorem kept_putRec (fn which : Nat) (r : Rec) (h : Kept s0 s) : Kept s0 (s.putRec fn which r) :=
  h.of_cached (cached_putRec _ _ _ (.refl s))

theorem kept_engFault (fn ctx : Nat) (r : Raise) (h : Kept s0 s) : Kept s0 (s.engFault fn ctx r) :=
  h.of_cached (cached_engFault _ _ _ (.refl s))

theorem kept_l1Write (die c line : Nat) (d : List Byte) (b : Bool) (h : Kept s0 s) : Kept s0 (s.l1Write die c line d b) :=
  h.of_cached (cached_l1Write _ _ _ _ _ (.refl s))

theorem kept_farRead (die c l n : Nat) (col first : Bool) (h : Kept s0 s) : Kept s0 (s.farRead die c l n col first).1 :=
  h.of_cached (cached_farRead _ _ _ _ _ _ (.refl s))

theorem kept_farWrite (die c l : Nat) (bs : List Byte) (col first : Bool) (h : Kept s0 s) :
    Kept s0 (s.farWrite die c l bs col first) := h.of_cached (cached_farWrite _ _ _ _ _ _ (.refl s))

theorem kept_hostOwn (line : Nat) (h : Kept s0 s) : Kept s0 (s.hostOwn line) := h.of_same rfl

theorem kept_icDrop (p : Nat → Bool) (h : Kept s0 s) : Kept s0 (s.icDrop p) := h.of_same rfl

theorem kept_event (code fn ctx world : Nat) (w1 detail : Option Word) (h : Kept s0 s) :
    Kept s0 (s.event code fn ctx world w1 detail) := (h.of_same (u := { s with draw := s.draw + 2 }) rfl).of_cached (cached_event ..)

/-! ### Requests to peers (R428 to R435) -/

theorem kept_peerSend (o : PeerOut) (h : Kept s0 s) : Kept s0 (s.peerSend o) := by
  have k0 : Kept s0 (match o.rel with | some d => s.release d 3 | none => s) := by
    split
    · exact kept_release _ _ h
    · exact h
  unfold State.peerSend
  lift_lets
  intro s1 n s2 out s3
  have k2 : Kept s0 s2 := kept_touch _ _ _ (kept_debit _ _ _ _ (kept_charge _ _ k0))
  have k3 : Kept s0 s3 := by
    show Kept s0 (match out.link with | some i => s2.sendOn i out | none => s2)
    have hup : ∀ i, out.link = some i → (s2.linkD i).st = 2 := by
      intro i hi
      refine linkFor_up (p := o.msg.peer) (pa := o.msg.pa) ?_
      revert hi
      show (if _ then none else _) = some i → _
      split
      · exact fun e => by cases e
      · exact id
    clear_value s2
    split
    · next hi => exact kept_updLink (hup _ hi) _ k2
    · exact k2
  exact k3.of_same rfl

theorem kept_peerNeed (o : PeerOut) (h : Kept s0 s) : Kept s0 (s.peerNeed o).1 := by
  unfold State.peerNeed
  split
  · exact kept_ite h (h.of_same rfl)
  · exact kept_ite1 h (h.of_same rfl)

theorem kept_peerRead (v : View) (p pa n : Nat) (a : Word) (k : Nat) (h : Kept s0 s) :
    Kept s0 (s.peerRead v p pa n a k).1 := by
  unfold State.peerRead
  dsimp only
  split <;> exact kept_peerNeed _ h

theorem kept_fmtPeerRead (v : View) (p b z o n : Nat) (a : Word) (k : Nat) (h : Kept s0 s) :
    Kept s0 (s.fmtPeerRead v p b z o n a k).1 := kept_peerRead _ _ _ _ _ _ (kept_peerRead _ _ _ _ _ _ h)

theorem kept_gotPatch (p pa : Nat) (bs : List Byte) (h : Kept s0 s) : Kept s0 (s.gotPatch p pa bs) :=
  kept_ite h (h.of_same rfl)

theorem kept_peerWrite (v : View) (p pa n x : Nat) (a : Word) (k l : Nat) (h : Kept s0 s) :
    Kept s0 (s.peerWrite v p pa n x a k l) := kept_gotPatch _ _ _ (kept_peerSend _ h)

/-! ### The target of an access (R302, R310, Table 8.7) -/

theorem kept_fmtWrite (v : View) (base size off n x : Nat) (h : Kept s0 s) :
    Kept s0 (s.fmtWrite v base size off n x) :=
  kept_foldl (f := fun t j => { t with fmtPend := t.fmtPend ++ [{
      grp := v.grp, die := v.die, loc := fmtElemLoc base (off / 2 + j)
      val := BitVec.ofNat 8 (aliasWrite (t.rdByte (fmtScaleLoc base size (off / 2 + j))).toNat (x / 2 ^ (16 * j) % 65536)) }] })
    (fun _ _ h => h.of_same rfl) (List.range (n / 2)) s h

theorem kept_reach (v : View) (l : Nat) (h : Kept s0 s) : Kept s0 (s.reach v l) :=
  kept_ite (kept_recall _ h) (kept_toHub _ _ h)

theorem kept_readT (v : View) (t : Target) (n : Nat) (hub : Bool) (h : Kept s0 s) :
    Kept s0 (s.readT v t n hub).1 := by
  cases t with
  | ctl off => exact kept_ite h (kept_ctlTouch _ _ _ h)
  | mem l way =>
    exact kept_ite1 (kept_reach v l h) (kept_ite1 (kept_l1Read _ _ _ h) (kept_farRead _ _ _ _ _ _ h))
  | fmtPeer p base size off => exact kept_fmtPeerRead _ _ _ _ _ _ _ _ h
  | _ => exact h

theorem kept_writeT (v : View) (t : Target) (n : Nat) (hub : Bool) (x : Nat) (h : Kept s0 s) :
    Kept s0 (s.writeT v t n hub x) := by
  cases t with
  | win l => exact kept_wr l n x h
  | mem l way =>
    exact kept_ite (kept_countLine _ (kept_wr _ n x (kept_reach v l h)))
      (kept_ite (kept_countLine _ (kept_wr _ n x (kept_l1Write _ _ _ _ _ h))) (kept_farWrite _ _ _ _ _ _ h))
  | fmtView base size off => exact kept_fmtWrite v _ _ _ n x h
  | _ => exact h

theorem kept_readP (v : View) (t : Target) (n : Nat) (a : Word) (k : Nat) (h : Kept s0 s) :
    Kept s0 (s.readP v t n a k).1 := by
  unfold State.readP
  split
  · exact kept_peerRead _ _ _ _ _ _ h
  · exact kept_fmtPeerRead _ _ _ _ _ _ _ _ h
  · exact h
  · exact kept_readT _ _ _ _ h

theorem kept_targetOf (sp va : Nat) (l : Word) (size : Nat) (h : Kept s0 s) :
    Kept s0 (s.targetOf sp va l size).1 := by
  unfold State.targetOf
  dsimp only
  split
  · exact h
  · exact kept_hostOwn _ h
  · have k := fun line loc => kept_ite (p := tval false s.bias
        ((leafFrame l * 65536 + va % size) / 65536)) (kept_hostOwn loc (kept_verifyLine line h)) (kept_verifyLine line h)
    split
    · exact kept_noteNode _ h
    · split
      · split
        · exact kept_noteNode _ h
        · exact k _ _
      · exact k _ _

/-! ### Translation (R355 to R361) -/

theorem kept_noteWalk (c : Context) (sp va : Nat) (h : Kept s0 s) : Kept s0 (s.noteWalk c sp va) :=
  kept_ite h (kept_foldl (fun _ _ h => kept_verifyLine _ (kept_noteNode _ h)) _ _ h)

theorem kept_takeOwners (world : Nat) (priv : Bool) (l : List Nat) (h : Kept s0 s) :
    Kept s0 (s.takeOwners world priv l).1 := by
  induction l generalizing s with
  | nil => exact h
  | cons f t ih => exact kept_ite1 (ih (h.of_same rfl)) (kept_ite1 (ih h) h)

theorem kept_setBias (f : Nat) (host : Bool) (h : Kept s0 s) : Kept s0 (s.setBias f host) :=
  kept_ite h ((kept_flushLines (512 * f) 512 h).of_same rfl)

theorem kept_mark (world : Nat) (l : Word) (fs : List Nat) (h : Kept s0 s) : Kept s0 (s.mark world l fs) := by
  unfold State.mark
  refine kept_ite h (kept_foldl (fun _ _ k => ?_) _ _ h)
  exact k.of_same rfl

/-- The owners of a page's frames are taken where it lies in the near or the capacity tier. -/
theorem kept_own (l : Word) (world : Nat) (fs : List Nat) (h : Kept s0 s) :
    Kept s0 (if leafTier l ≤ 1 then s.takeOwners world (leafPriv l) fs else (s, true)).1 :=
  kept_ite1 (kept_takeOwners _ _ _ h) h

theorem kept_hubWalk (fn ctx va : Nat) (w p : Bool) (h : Kept s0 s) : Kept s0 (s.hubWalk fn ctx va w p).1 := by
  unfold State.hubWalk
  have h := kept_noteWalk (s.ctxD fn ctx) 0 va h
  dsimp only
  split
  · rename_i l place size _ _
    have k := kept_own l (((s.noteWalk (s.ctxD fn ctx) 0 va).hubView fn ctx).asPriv p).world (framesOf l size) h
    exact kept_ite1 h (kept_ite1 k (kept_touch _ _ _ (kept_mark _ _ _
      (kept_ite k (kept_bankWrite _ _ _ k)))))
  · exact h

theorem kept_hubTouch (fn loc n : Nat) (h : Kept s0 s) : Kept s0 (s.hubTouch fn loc n) :=
  kept_chargeAt _ _ _ (kept_verifyLine _ (kept_noteNode _ (kept_hostOwnAt _ h)))

theorem kept_hubOpen (fn ctx va : Nat) (p : Bool) (h : Kept s0 s) : Kept s0 (s.hubOpen fn ctx va p).1 := by
  have k := kept_hubWalk fn ctx va false p h
  unfold State.hubOpen
  generalize s.hubWalk fn ctx va false p = r at k
  obtain ⟨t, pl, pr⟩ := r
  rcases pl with _ | l | ⟨q, pa⟩
  · exact k
  · exact kept_hubTouch fn l 128 (kept_recall (l / 128) k)
  · exact kept_ite k (k.of_same rfl)

theorem kept_hubOpenAll (fn ctx va n : Nat) (p : Bool) (h : Kept s0 s) :
    Kept s0 (s.hubOpenAll fn ctx va n p).1 := by
  unfold State.hubOpenAll
  generalize List.range ((va % 128 + n + 127) / 128) = l
  suffices H : ∀ a : State × List PageRef, Kept s0 a.1 → Kept s0 (l.foldl (fun a i =>
      let r := a.1.hubOpen fn ctx (va / 128 * 128 + 128 * i) p
      (r.1, a.2 ++ r.2)) a).1 from H (s, []) h
  induction l with
  | nil => intro a ha; exact ha
  | cons b t ih => intro a ha; exact ih _ (kept_hubOpen _ _ _ _ ha)

theorem kept_wsOpen (fn ctx : Nat) (h : Kept s0 s) : Kept s0 (s.wsOpen fn ctx).1 := by
  have k := kept_hubOpen fn ctx (s.ctxD fn ctx).wshdr.toNat false h
  unfold State.wsOpen
  dsimp only
  split
  · exact h
  · split
    · exact k
    · exact kept_hubOpenAll _ _ _ _ _ k

theorem kept_hubStore (fn ctx va n x : Nat) (p : Bool) (h : Kept s0 s) :
    Kept s0 (s.hubStore fn ctx va n x p).1 := by
  have k := kept_hubWalk fn ctx va true p h
  unfold State.hubStore
  generalize s.hubWalk fn ctx va true p = r at k
  obtain ⟨t, pl, pr⟩ := r
  rcases pl with _ | l | ⟨q, pa⟩
  · exact k
  · exact kept_hubTouch fn l n (kept_bankWrite l n x k)
  · exact kept_gotPatch _ _ _ (k.of_same rfl)

theorem kept_wsPush (fn ctx : Nat) (e : Word) (h : Kept s0 s) : Kept s0 (s.wsPush fn ctx e).1 := by
  have st : ∀ {t : State} a n x, Kept s0 t → Kept s0 (t.hubStore fn ctx a n x).1 :=
    fun a n x k => kept_hubStore fn ctx a n x false k
  unfold State.wsPush
  extract_lets hd n a p q r
  have hq : Kept s0 q.1 := st _ _ _ (st _ _ _ h)
  clear_value q
  have hr : Kept s0 r.1 := by
    unfold r
    split
    · exact st _ _ _ hq
    · exact hq
  clear_value r
  exact kept_ite1 h (kept_ite1 (st _ _ _ h) (kept_ite1 h hr))

theorem kept_wsNotes (fn ctx n : Nat) (ps : List PageRef) (h : Kept s0 s) : Kept s0 (s.wsNotes fn ctx n ps) := by
  induction n generalizing s ps with
  | zero => exact h
  | succ n ih =>
    have k : ∀ (l : List PageRef) (a : State × List PageRef), Kept s0 a.1 →
        Kept s0 (l.foldl (fun (a : State × List PageRef) p =>
          if a.1.wsWants fn ctx p.sp p.va then
            let q := a.1.wsPush fn ctx (setBits (wsEntry p.size (p.va / p.size * p.size) p.sp) 4 4 (if p.tier = 0 then 1 else 0))
            (q.1, a.2 ++ q.2)
          else a) a).1 := by
      intro l
      induction l with
      | nil => intro a ha; exact ha
      | cons p t ih => intro a ha; exact ih _ (kept_ite1 (kept_wsPush _ _ _ ha) ha)
    exact kept_ite h (ih _ (k _ ((s.wsOpen fn ctx).1, []) (kept_wsOpen _ _ h)))

theorem kept_wsRecord (fn ctx sp va size tier : Nat) (h : Kept s0 s) : Kept s0 (s.wsRecord fn ctx sp va size tier) :=
  kept_wsNotes _ _ _ _ h

theorem kept_tlbFill (v : View) (sp va size : Nat) (l : Word) (h : Kept s0 s) : Kept s0 (s.tlbFill v sp va size l) :=
  kept_icDrop _ (h.of_same rfl)

theorem kept_walk (v : View) (sp va : Nat) (h : Kept s0 s) : Kept s0 (s.walk v sp va).1 := by
  unfold State.walk
  have h := kept_noteWalk (s.ctxD v.fn v.ctx) sp va h
  generalize s.noteWalk (s.ctxD v.fn v.ctx) sp va = t at h
  dsimp only
  split
  · exact h
  · exact h
  · rename_i l place size level _
    have k := kept_own l v.world (framesOf l size) h
    have k1 := kept_ite (p := leafAcc l = true) k (kept_bankWrite place 8 (setBits l 8 8 1).toNat k)
    have k2 := fun ds => kept_touch v.fn v.ctx ds (kept_mark v.world l (framesOf l size)
      (kept_ite (p := leafTier l ≤ 1) (kept_foldl (f := fun t f => t.setBias f (leafBias l))
        (fun _ _ h => kept_setBias _ _ h) (framesOf l size) _ k1) k1))
    exact kept_ite1 h (kept_ite1 h (kept_ite1 k (kept_tlbFill _ _ _ _ _
      (kept_ite (k2 _) (kept_wsRecord _ _ _ _ _ _ (k2 _))))))

theorem kept_setDirty (v : View) (sp va : Nat) (h : Kept s0 s) : Kept s0 (s.setDirty v sp va) := by
  unfold State.setDirty
  have h := kept_noteWalk (s.ctxD v.fn v.ctx) sp va h
  dsimp only
  split
  · exact kept_tlbFill _ _ _ _ _ (kept_bankWrite _ _ _ h)
  · exact h

theorem kept_translate (v : View) (sp va kind : Nat) (fetch wr : Bool) (h : Kept s0 s) :
    Kept s0 (s.translate v sp va kind fetch wr).1 := by
  unfold State.translate
  extract_lets hit r
  have k : Kept s0 r.1 := by
    unfold r
    cases hit
    · exact kept_walk v sp va h
    · exact h
  clear_value r
  split
  · split
    · exact k
    · exact kept_ite1 k (kept_ite1 (kept_setDirty _ _ _ (kept_touch _ _ _ k)) (kept_touch _ _ _ k))
  · exact k

theorem kept_resolve (v : View) (a : Word) (n al kind : Nat) (wr : Bool) (h : Kept s0 s) :
    Kept s0 (s.resolve v a n al kind wr).1 := by
  unfold State.resolve
  dsimp only
  refine kept_ite1 h (kept_ite1 h (kept_ite1 h (kept_ite1 h ?_)))
  split
  · exact h
  · refine kept_ite1 (kept_ite1 h h) (kept_ite1 h ?_)
    have k := kept_translate v (spaceOf a) (bits a 51 0) kind false wr h
    split
    · exact k
    · exact k
    · have k2 := fun l size => kept_targetOf (spaceOf a) (bits a 51 0) l size k
      split <;> exact k2 _ _

/-! ### Fetching (R311, R358) -/

theorem kept_fetchSlot (g : Nat) (pc : Word) (h : Kept s0 s) : Kept s0 (s.fetchSlot g pc).1 := by
  unfold State.fetchSlot
  extract_lets v r
  have hr : Kept s0 r.1 := kept_translate _ _ _ _ _ _ h
  refine kept_ite1 h ?_
  split
  · exact hr
  · exact hr
  · extract_lets t
    have ht : Kept s0 t.1 := kept_targetOf _ _ _ _ hr
    split
    · exact kept_icFill _ _ (kept_ite ht (kept_chargeAt _ _ _ ht))
    · extract_lets q
      split <;> exact kept_readP _ _ _ _ _ ht
    · exact ht
    · exact ht

theorem kept_target (g : Nat) (t : Word) (h : Kept s0 s) : Kept s0 (s.target g t).1 := by
  have hr := kept_fetchSlot g t h
  unfold State.target
  generalize s.fetchSlot g t = r at hr
  refine kept_ite1 h ?_
  dsimp only
  split
  · exact hr
  · exact kept_ite1 hr hr


variable {v : View}

/-! ### Words -/

theorem kept_hubAt (v : View) (a : Word) (n kind : Nat) (h : Kept s0 s) : Kept s0 (s.hubAt v a n kind).1 := by
  unfold State.hubAt
  extract_lets r
  split <;> exact kept_resolve _ _ _ _ _ _ h

theorem kept_hubPays (v : View) (t : Target) (n : Nat) (h : Kept s0 s) : Kept s0 (s.hubPays v t n) := by
  unfold State.hubPays
  split
  · exact kept_chargeAt _ _ _ h
  · exact h

theorem kept_hubRead (v : View) (a : Word) (n : Nat) (h : Kept s0 s) : Kept s0 (s.hubRead v a n).1 := by
  have hr := kept_hubAt v a n 0 h
  unfold State.hubRead
  generalize s.hubAt v a n 0 = r at hr
  dsimp only
  split
  · exact hr
  · rename_i t _
    have hq := kept_readP v t n a 0 hr
    split
    · exact hq
    · exact kept_hubPays _ _ _ hq

theorem kept_hubDo (v : View) (t : Target) (a : Word) (n : Nat) (o : HubOp) (h : Kept s0 s) :
    Kept s0 (s.hubDo v t a n o).1 := by
  unfold State.hubDo
  split
  · exact kept_peerNeed _ h
  · exact kept_hubPays _ _ _ (kept_writeT _ _ _ _ _ (kept_readT _ _ _ _ h))

theorem kept_hubUpd (v : View) (a : Word) (n : Nat) (o : HubOp) (h : Kept s0 s) : Kept s0 (s.hubUpd v a n o) := by
  have hr := kept_hubAt v a n o.kind h
  unfold State.hubUpd
  generalize s.hubAt v a n o.kind = r at hr
  dsimp only
  split
  · exact kept_engFault _ _ _ hr
  · exact hr.of_same rfl
  · rename_i t _ _
    have hq := kept_hubDo v t a n o hr
    split
    · exact kept_engFault _ _ _ hq
    · exact hq

theorem kept_sigSub (v : View) (a : Word) (x : Nat) (h : Kept s0 s) : Kept s0 (s.sigSub v a x) :=
  kept_ite h (kept_hubUpd _ _ _ _ h)

theorem kept_noteWord (v : View) (a : Word) (n kind : Nat) (o : HubOp) (h : Kept s0 s) :
    Kept s0 (s.noteWord v a n kind o).1 := by
  have hr := kept_hubAt v a n kind h
  unfold State.noteWord
  generalize s.hubAt v a n kind = r at hr
  dsimp only
  split
  · exact hr
  · exact kept_hubDo _ _ _ _ _ hr

/-! ### Rings -/

/-! ### Barrier objects (R109, R211) -/

variable {s0 : State}

theorem kept_barUpd (v : View) (t : Target) (a : Word) (o : BarOp) (h : Kept s0 s) : Kept s0 (s.barUpd v t a o) := by
  unfold State.barUpd
  split
  · exact kept_peerSend _ h
  · exact kept_writeT _ _ _ _ _ (kept_readT _ _ _ _ h)

theorem kept_barRelease (v : View) (t : Target) (h : Kept s0 s) : Kept s0 (s.barRelease v t) := by
  unfold State.barRelease
  split
  · exact h
  · exact kept_ite (kept_release _ _ h) h

theorem kept_retireAll (v : View) (l : List (Join × Target)) (h : Kept s0 s) : Kept s0 (s.retireAll v l) := by
  induction l generalizing s with
  | nil => exact h
  | cons p l ih =>
    unfold State.retireAll
    split
    · exact ih (kept_putRec _ _ _ h)
    · exact ih (kept_barUpd _ _ _ _ (kept_barRelease _ _ h))

theorem kept_joinTargets (v : View) (l : List Join) (h : Kept s0 s) : Kept s0 (s.joinTargets v l).1 := by
  induction l generalizing s with
  | nil => exact h
  | cons e l ih =>
    unfold State.joinTargets
    extract_lets q u
    split <;> exact ih (kept_resolve _ _ _ _ _ _ h)

end Sys2Proof.Machine
end

section
/-! SUPPORT. What lasts while groups and workgroups end, traps are taken and operations fail (R109, R110, R175, R194, R252 to R255,
R338, R352, R366). -/

namespace Sys2Proof.Machine

variable {s0 s : State} {g w : Nat} {v : View}

/-! ### Completion of units (R338) -/

theorem kept_packetDone {p st : Nat} (h : Kept s0 s) : Kept s0 (s.packetDone p st) := by
  unfold State.packetDone
  split
  · exact h.of_same rfl
  · exact h

theorem kept_jobChild {j : Nat} {ok : Bool} (h : Kept s0 s) : Kept s0 (s.jobChild j ok) := by
  unfold State.jobChild
  split
  · exact h
  · exact h.of_same rfl

theorem kept_phaseChild {p : Nat} {ok : Bool} (h : Kept s0 s) : Kept s0 (s.phaseChild p ok) := by
  unfold State.phaseChild
  split
  · exact h
  · extract_lets r s1
    have h1 : Kept s0 s1 := h.of_same rfl
    split
    · exact h1
    · exact kept_jobChild h1

theorem kept_graphChild {node st : Nat} (h : Kept s0 s) : Kept s0 (s.graphChild g node st) := by
  unfold State.graphChild
  split
  · exact h
  · extract_lets u r s1
    have h1 : Kept s0 s1 := h.of_same rfl
    split
    · exact h1
    · exact kept_phaseChild (kept_packetDone h1)

theorem kept_launchCheck {l : Nat} (h : Kept s0 s) : Kept s0 (s.launchCheck l) := by
  unfold State.launchCheck
  split
  · exact h
  · extract_lets st s1
    have h1 : Kept s0 s1 := kept_updLaunch _ _ h
    exact kept_ite h (kept_ite (kept_packetDone h1) (kept_graphChild h1))

theorem kept_passCycles {core n : Nat} (h : Kept s0 s) : Kept s0 (s.passCycles core n) := h.of_same rfl

theorem kept_retire {sl : Slot} (h : Kept s0 s) : Kept s0 (s.retire g sl) := by
  unfold State.retire
  extract_lets n s1
  have h1 : Kept s0 s1 := kept_updGrp _ _ h
  exact kept_ite (kept_passCycles h1) h1

theorem kept_lbarCheck {l : Nat} (h : Kept s0 s) : Kept s0 (s.lbarCheck l) := by
  unfold State.lbarCheck
  split
  · exact h
  · extract_lets s1
    refine kept_ite h (kept_foldl (fun _ _ k => ?_) _ _ (kept_updLaunch _ _ h))
    split
    · exact kept_retire (kept_updGrp _ _ (kept_acquire _ _ k))
    · exact k

theorem kept_batchGo {cls a : Nat} (h : Kept s0 s) : Kept s0 (s.batchGo g cls a) := by
  induction a generalizing s with
  | zero => exact h
  | succ n ih =>
    unfold State.batchGo
    exact kept_ite h (ih (kept_updGrp _ _ (kept_ite (kept_release _ _ h) h)))

theorem kept_batches {cls : Nat} (h : Kept s0 s) : Kept s0 (s.batches g cls) := kept_batchGo h

/-! ### The end of groups and workgroups (R109, R110, R352) -/

theorem kept_unwait (h : Kept s0 s) : Kept s0 (s.unwait g) := by
  unfold State.unwait
  extract_lets x s1
  refine kept_updGrp _ _ ?_
  unfold s1
  split
  · exact kept_updWg _ _ h
  · exact kept_updLaunch _ _ h
  · exact h.of_same rfl
  · exact h

theorem kept_freeBank (h : Kept s0 s) : Kept s0 (s.freeBank g) := kept_ite (h.of_same rfl) h

theorem kept_dropGroup (h : Kept s0 s) : Kept s0 (s.dropGroup g) :=
  kept_updWg _ _ ((kept_freeBank (kept_unwait h)).of_same rfl)

theorem kept_endGroups {l : List Nat} (h : Kept s0 s) : Kept s0 (s.endGroups l) := by
  induction l generalizing s with
  | nil => exact h
  | cons p l ih =>
    unfold State.endGroups
    exact ih (kept_ite (kept_dropGroup (kept_retireAll _ _ (kept_joinTargets _ _ h))) h)

theorem kept_wgSweep (h : Kept s0 s) : Kept s0 (s.wgSweep w) := by
  unfold State.wgSweep
  split
  · exact h
  · extract_lets s1
    have h1 : Kept s0 s1 := kept_ite h (kept_updWg _ _ h)
    exact kept_ite h (kept_ite h1 (h1.of_same rfl))

theorem kept_wgFinish {killed cancelled : Bool} (h : Kept s0 s) : Kept s0 (s.wgFinish w killed cancelled) := by
  unfold State.wgFinish
  split
  · exact h
  · extract_lets s1 s2 s3 s4
    have h2 : Kept s0 s2 := (kept_updWg w _ h).of_same rfl
    have h3 : Kept s0 s3 := by
      unfold s3
      split
      · exact kept_ite h2 (kept_sigSub _ _ _ h2)
      · exact h2
    exact kept_ite h (kept_launchCheck (kept_wgSweep (kept_updLaunch _ _ h3)))

theorem kept_voidOps {p : Nat → Bool} (h : Kept s0 s) : Kept s0 (s.voidOps p) := kept_ite h (h.of_same rfl)

theorem kept_dropCards (h : Kept s0 s) : Kept s0 (s.dropCards w) := kept_ite h (kept_updLaunch _ _ (h.of_same rfl))

theorem kept_endWg {killed : Bool} (h : Kept s0 s) : Kept s0 (s.endWg w killed) := by
  unfold State.endWg
  extract_lets l s1
  have h1 : Kept s0 s1 := kept_endGroups (kept_voidOps h)
  exact kept_wgFinish (kept_lbarCheck (kept_ite (kept_dropCards h1) h1))

theorem kept_kill {t : Trap} {nest : Bool} (h : Kept s0 s) : Kept s0 (s.kill g t nest) := kept_endWg (kept_putRec _ _ _ h)

/-! ### Traps (R252 to R255, R366) -/

theorem kept_enterHdr {hdr : Word} {i : BitVec 128} (h : Kept s0 s) : Kept s0 (s.enterHdr g hdr i).1 :=
  kept_ite1 (kept_updGrp _ _ h) (kept_updGrp _ _ h)

theorem kept_arrive (h : Kept s0 s) : Kept s0 (s.arrive g).1 := by
  unfold State.arrive
  extract_lets x r
  have hr : Kept s0 r.1 := kept_target _ _ h
  split
  · exact h
  · split
    · exact hr
    · exact kept_enterHdr hr

theorem kept_hold {fn ctx : Nat} {grp op me : Option Nat} {t : Trap} {nest : Bool} (h : Kept s0 s) :
    Kept s0 (s.hold fn ctx grp op me t nest).1 := by
  unfold State.hold
  extract_lets tag room fs s' s1
  have h1 : Kept s0 s1 := h.of_same rfl
  exact kept_ite (kept_putRec _ _ _ h1) h1

theorem kept_holdGroup {t : Trap} (h : Kept s0 s) : Kept s0 (s.holdGroup g t) := kept_updGrp _ _ (kept_hold h)

theorem kept_trapSaved {t : Trap} (h : Kept s0 s) : Kept s0 (s.trapSaved g t) := kept_updGrp _ _ (h.of_same rfl)

theorem kept_enterTrap {t : Trap} {handler : Word} (h : Kept s0 s) : Kept s0 (s.enterTrap g t handler) := by
  unfold State.enterTrap
  extract_lets y s1 r s2
  have hr : Kept s0 r.1 := kept_target _ _ (kept_trapSaved h)
  have h2 : Kept s0 s2 := kept_updGrp _ _ hr
  split
  · extract_lets q
    have hq : Kept s0 q.1 := kept_enterHdr hr
    split
    · exact hq
    · exact kept_kill hq
  · exact kept_ite (kept_holdGroup h2) (kept_kill h2)

theorem kept_deliver {t : Trap} {handler : Word} (h : Kept s0 s) : Kept s0 (s.deliver g t handler) := by
  unfold State.deliver
  split
  · exact kept_ite (kept_enterTrap h) (kept_updGrp _ _ h)
  · exact kept_enterTrap h

theorem kept_late {fn ctx : Nat} {r : Raise} {eng : Bool} (h : Kept s0 s) : Kept s0 (s.late g fn ctx r eng) := by
  unfold State.late
  split
  · exact kept_updGrp _ _ h
  · exact kept_putRec _ _ _ h

/-! ### Operations that end (R243) -/

theorem kept_opGone {id : Nat} {o : AsyncOp} {st : Nat} (h : Kept s0 s) : Kept s0 (s.opGone id o st) :=
  kept_wgSweep (kept_packetDone (kept_batches (h.of_same rfl)))

theorem kept_opFail {id : Nat} {o : AsyncOp} {reason : Nat} {cause : BitVec 8} {a : Word} (h : Kept s0 s) :
    Kept s0 (s.opFail id o reason cause a) := kept_opGone (kept_late h)

/-! ### Pre-emption (R259) -/

theorem kept_enterPreempt (h : Kept s0 s) : Kept s0 (s.enterPreempt g) := kept_deliver (kept_updGrp _ _ (kept_arrive h))

theorem kept_preemptGroup (h : Kept s0 s) : Kept s0 (s.preemptGroup g) := by
  unfold State.preemptGroup
  split
  · exact h
  · exact kept_ite h (kept_ite (kept_updGrp _ _ h) (kept_ite (kept_updGrp _ _ h)
      (kept_ite (kept_updGrp _ _ h) (kept_enterPreempt (kept_updGrp _ _ (kept_unwait h))))))

theorem kept_preemptWg (h : Kept s0 s) : Kept s0 (s.preemptWg w) := kept_foldl (fun _ _ k => kept_preemptGroup k) _ _ h

end Sys2Proof.Machine
end

section
/-! SUPPORT. What lasts while requests to peers fail or go out again (R194, R432 to R435), and while a context ends (R371). -/

namespace Sys2Proof.Machine

variable {s0 s : State}

theorem kept_linkEvent {i detail : Nat} (h : Kept s0 s) : Kept s0 (s.linkEvent i detail) := kept_event _ _ _ _ _ _ h

theorem kept_pendFill {o : PeerOut} {x : Option Word} (h : Kept s0 s) : Kept s0 (s.pendFill o x) := kept_updGrp _ _ h

theorem kept_tell {o : PeerOut} {data : Option (List Byte)} (h : Kept s0 s) : Kept s0 (s.tell o data) :=
  kept_ite (h.of_same rfl) h

theorem kept_peerFail {o : PeerOut} (h : Kept s0 s) : Kept s0 (s.peerFail o) := by
  unfold State.peerFail
  extract_lets s1 r
  have h1 : Kept s0 s1 := h.of_same rfl
  refine kept_ite (kept_tell h1) (kept_ite ?_ (kept_ite (kept_late (kept_pendFill h1)) (kept_engFault _ _ _ h1)))
  split
  · exact kept_opFail h1
  · exact h1

theorem linkD_touch (s : State) (fn ctx : Nat) (ds : List Nat) (i : Nat) : (s.touch fn ctx ds).linkD i = s.linkD i := by
  unfold State.linkD State.touch
  rw [updCtx_links]

theorem kept_resend {o : PeerOut} (h : Kept s0 s) : Kept s0 (s.resend o) := by
  unfold State.resend
  split
  · exact kept_peerFail h
  · next i hi =>
    extract_lets s1
    have h1 : Kept s0 s1 := kept_updLink (by rw [State.touchPeer, linkD_touch]; exact linkFor_up hi) _ (kept_touch _ _ _ h)
    exact h1.of_same rfl

theorem kept_tryHeld {o : PeerOut} (h : Kept s0 s) : Kept s0 (s.tryHeld o) := kept_ite h (kept_resend h)

theorem kept_answer (k : Nat) (a : PeerAns) (h : Kept s0 s) : Kept s0 (s.answer k a) := by
  unfold State.answer
  split
  · exact h.of_same rfl
  · next hi => exact (kept_updLink (linkFor_up hi) (fun l => l.sendMsgs (a.msgs (keyId k))) h).of_same rfl

theorem kept_sendHeld (h : Kept s0 s) : Kept s0 s.sendHeld :=
  kept_foldl (fun _ _ k => kept_ite (kept_answer _ _ k) k) _ _ (kept_foldl (fun _ _ k => kept_tryHeld k) _ _ h)

theorem kept_endCtx {fn ctx : Nat} (h : Kept s0 s) : Kept s0 (s.endCtx fn ctx) := by
  unfold State.endCtx
  extract_lets mine s1 s2 ws s3 fin s4
  have h2 : Kept s0 s2 := (kept_updFn _ _ (h.of_same (u := s1) rfl)).of_same rfl
  have h3 : Kept s0 s3 := by
    refine kept_foldl (fun _ _ k => ?_) _ _ h2
    split
    · exact kept_kill k
    · exact kept_endWg k
  exact kept_updCtx _ _ (fun _ _ => rfl) (h3.of_same rfl)

end Sys2Proof.Machine
end

section
/-! SUPPORT. What lasts over a tick boundary (R380). -/

namespace Sys2Proof.Machine

variable {s0 s : State}

theorem kept_setWear {u : Nat} {n : Wear} (h : Kept s0 s) : Kept s0 (s.setWear u n) :=
  kept_ite (kept_event _ _ _ _ _ _ (kept_updWear _ _ h)) (kept_updWear _ _ h)

theorem kept_boostTick {c : Nat} {point : Point} (h : Kept s0 s) : Kept s0 (s.boostTick c point) :=
  kept_ite h (kept_updCore _ _ (kept_updFn _ _ h))

theorem kept_boostDecide (h : Kept s0 s) : Kept s0 s.boostDecide :=
  kept_foldl (fun _ _ k => kept_ite (kept_updCore _ _ k) k) _ _ h

theorem kept_boostStop {c : Nat} (h : Kept s0 s) : Kept s0 (s.boostStop c) := by
  unfold State.boostStop
  exact kept_updCore _ _ (kept_updFn _ _ h)

theorem kept_boostEnds (h : Kept s0 s) : Kept s0 s.boostEnds :=
  kept_foldl (fun _ _ k => kept_ite (kept_boostStop k) k) _ _ h

theorem kept_drainCore {c : Nat} (h : Kept s0 s) : Kept s0 (s.drainCore c) := by
  unfold State.drainCore
  extract_lets s1
  refine kept_updCore _ _ ?_
  unfold s1
  split
  · exact kept_updWear _ _ h
  · exact h

theorem kept_drains {cs : List Nat} (h : Kept s0 s) : Kept s0 (s.drains cs) :=
  kept_foldl (fun _ _ k => kept_ite k (kept_drainCore k)) _ _ h

theorem kept_restEnds (h : Kept s0 s) : Kept s0 s.restEnds := by
  refine kept_foldl (fun _ _ k => ?_) _ _ h
  split
  · exact kept_ite (kept_updCore _ _ (kept_updWear _ _ k)) k
  · exact k

theorem kept_restStarts (h : Kept s0 s) : Kept s0 s.restStarts := by
  refine kept_foldl (fun _ _ k => ?_) _ _ h
  split
  · exact kept_ite (kept_updCore _ _ (kept_updWear _ _ k)) k
  · exact k

theorem kept_gateEngines (h : Kept s0 s) : Kept s0 s.gateEngines := by
  unfold State.gateEngines
  extract_lets n
  refine kept_foldl (fun _ _ k => ?_) _ _ h
  extract_lets e t1
  have h1 : Kept s0 t1 := kept_updEng _ _ k
  exact kept_ite (kept_updWear _ _ h1) h1

theorem kept_retireStart {c : Nat} (h : Kept s0 s) : Kept s0 (s.retireStart c) := by
  unfold State.retireStart
  extract_lets s1
  have h1 : Kept s0 s1 := kept_updCore _ _ (kept_drainCore h)
  split
  · exact h
  · split
    · exact kept_event _ _ _ _ _ _ h1
    · exact h1

theorem kept_retireSpare {die : Nat} (h : Kept s0 s) : Kept s0 (s.retireSpare die) :=
  kept_ite (kept_event _ _ _ _ _ _ (kept_event _ _ _ _ _ _ (kept_updWear _ _ h))) h

theorem kept_retireDecide (h : Kept s0 s) : Kept s0 s.retireDecide := by
  unfold State.retireDecide
  refine kept_foldl (fun _ _ k => kept_retireSpare k) _ _ (kept_foldl (fun _ _ k => ?_) _ _ h)
  split
  · exact kept_ite (kept_retireStart k) k
  · exact k

theorem kept_retirePreempts (h : Kept s0 s) : Kept s0 s.retirePreempts :=
  kept_foldl (fun _ _ k => kept_ite
    (kept_ite k (kept_event _ _ _ _ _ _ (kept_foldl (fun _ _ k => kept_preemptWg k) _ _ k))) k) _ _ h

theorem kept_retireDone {c : Nat} (h : Kept s0 s) : Kept s0 (s.retireDone c) := by
  have hev : ∀ {t : State} code d, Kept s0 t → Kept s0 (t.event code 0 0 0 d) := fun _ _ k => kept_event _ _ _ _ _ _ k
  unfold State.retireDone
  split
  · exact h
  · extract_lets spare s1 ev s2 has s3
    have h2 : Kept s0 s2 := kept_event _ _ _ _ _ _ (kept_event _ _ _ _ _ _ (kept_updWear _ _ (kept_cleanCore _ h)))
    have h3 : Kept s0 s3 := kept_updCore _ _ h2
    clear_value s3
    exact kept_ite (kept_event _ _ _ _ _ _ (kept_updWear _ _ (h3.of_same rfl))) h3

theorem kept_retireDones (h : Kept s0 s) : Kept s0 s.retireDones :=
  kept_foldl (fun _ _ k => kept_ite (kept_retireDone k) k) _ _ h

theorem kept_writeCkpt {orderly : Bool} (h : Kept s0 s) : Kept s0 (s.writeCkpt orderly) :=
  kept_ite h (kept_ite (h.of_same rfl) (h.of_same rfl))

theorem kept_tickAccount {busy metered : Table Nat} {faults : List Nat} (h : Kept s0 s) :
    Kept s0 (s.tickAccount busy metered faults) := by
  have hage : ∀ t : State, Kept s0 t → Kept s0 { t with
      fns := t.fns.map fun (p : Nat × Func) => (p.1, p.2.chargeTick metered)
      age := t.age + 1, targeth := t.targethNext.getD t.targeth, targethNext := none } := fun _ k => k.of_same rfl
  exact hage _ (kept_foldl (fun _ _ k => kept_setWear k) _ _ (kept_foldl (fun _ _ k => kept_updWear _ _ k) _ _ h))

theorem kept_newTick (h : Kept s0 s) : Kept s0 s.newTick := (kept_restStarts (kept_restEnds h)).of_same rfl

theorem kept_boundary {busy metered : Table Nat} {faults : List Nat} (h : Kept s0 s) :
    Kept s0 (s.boundary busy metered faults) := by
  unfold State.boundary
  extract_lets points s1 s2 s3 s4 s5
  have h2 : Kept s0 s2 := kept_foldl (fun _ _ k => kept_boostTick k) _ _ (kept_tickAccount h)
  clear_value s2
  have h4 : Kept s0 s4 := kept_retireDones (kept_retirePreempts (kept_boostEnds (kept_boostDecide
    (kept_retireDecide (h2.of_same (u := s3) rfl)))))
  clear_value s4
  have h5 : Kept s0 s5 := kept_newTick (kept_gateEngines (kept_foldl (fun _ _ k => kept_drains k) _ _ h4))
  clear_value s5
  have h6 : Kept s0 s5.windowStep := kept_ite (h5.of_same rfl) h5
  exact (kept_ite (p := s5.windowStep.ckptDue = true) (kept_writeCkpt h6) h6).of_same rfl

end Sys2Proof.Machine
end

section
/-! SUPPORT and O54. Bring-up, power, attestation and the registers that store a field (R329, R389, R406 to R410, R413, R423). -/

namespace Sys2Proof.Machine

variable {s t : State}

/-! ### The length of a report (R409) -/

theorem length_beBytes (n v : Nat) : (beBytes n v).length = n := by
  induction n with
  | zero => rfl
  | succ n ih => simp [beBytes, ih]

theorem length_flatMap_range {f : Nat → List Byte} {n m : Nat} (hf : ∀ i, (f i).length = m) :
    ((List.range n).flatMap f).length = n * m := by
  simp [List.length_flatMap, hf]

theorem length_reportBody (s : State) (world seq : Nat) : (s.reportBody world seq).length = 12448 := by
  unfold State.reportBody
  extract_lets meas
  rw [List.length_append, length_flatMap_range fun _ => length_toBytes _ _, List.length_append,
    length_flatMap_range fun _ => length_beBytes _ _, List.length_append, length_flatMap_range fun _ => length_beBytes _ _,
    List.length_append, length_beBytes, List.length_append, length_flatMap_range fun _ => length_toBytes _ _]
  simp [unitCount]

theorem length_signature (m : List Byte) : (signature m).length = 512 := length_beBytes _ _

/-! ### Attestation (R406, R408 to R410) -/

theorem fns_charge_ne_none {fn h pj : Nat} (hf : tget s.fns h ≠ none) : tget (s.charge fn pj).fns h ≠ none :=
  updFn_fns_ne_none _ hf

/-- The vector that is sent is pending. -/
theorem msix_sent {fn n : Nat} (hn : n < 64) (hf : tget s.fns fn ≠ none) : ((s.msix fn n).fnD fn).msix.getLsbD n = true := by
  rw [State.msix, fnD_updFn _ _ _ _ hf, if_pos rfl]
  simp [hn]

theorem attestationGo_taken (hb : s.att.busy = false) (hw : tget s.worlds s.att.world ≠ none) (ha : s.att.buf.toNat % 4096 = 0) :
    exec .attestationGo s = .next { s with att := { s.att with
      busy := true, status := 0, seq := s.att.seq + 1
      report := s.reportBody s.att.world (s.att.seq + 1) ++ signature (s.reportBody s.att.world (s.att.seq + 1)) } } := by
  show execAttestationGo s = _
  unfold execAttestationGo
  simp [hb, Option.isNone_iff_eq_none, hw, ha]

theorem attestationDone_sent (hb : s.att.busy = true) (hf : tget s.fns 0 ≠ none) :
    completes .attestationDone s fun t => t.att.busy = false ∧ t.att.done = true
      ∧ t.mem = (s.wrBytes (hostLoc s.att.buf.toNat) s.att.report).mem ∧ (t.fnD 0).msix.getLsbD 3 = true := by
  have hc : tget ((s.wrBytes (hostLoc s.att.buf.toNat) s.att.report).charge 0 (6 * s.att.report.length)).fns 0 ≠ none :=
    fns_charge_ne_none (by rw [wrBytes_fns]; exact hf)
  refine ⟨_, (if_neg (by simp [hb]) : execAttestationDone s = _), ?_, ?_, ?_, msix_sent (by decide) hc⟩
  all_goals simp only [State.msix, State.charge, updFn_att, updFn_mem]

/-! ### Registers (R329, R408, R416, R423) -/

/-- A write of a register of function 0 outside its queue table. -/
theorem exec_registerWrite (o : Nat) (v : Word) (h : 0x800 ≤ o) : exec (.registerWrite 0 o v) s = .next (
    if o = 0x2000 then { s with att := { s.att with world := bits v 13 8 } }
    else if 0x2008 ≤ o ∧ o < 0x2048 ∧ o % 8 = 0 then
      { s with att := { s.att with nonce := tset 0 s.att.nonce ((o - 0x2008) / 8) v } }
    else if o = 0x2048 then { s with att := { s.att with buf := v } }
    else if 0x80000 ≤ o ∧ o < 0x100000 ∧ o % 8 = 0 then { s with recimg := tset 0 s.recimg ((o - 0x80000) / 8) v }
    else s) := by
  show execRegisterWrite 0 o v s = _
  unfold execRegisterWrite
  rw [if_neg (by decide), if_neg (by omega), if_neg (by omega)]
  simp only [apply_ite Host.Outcome.next]

/-- Of an update only what it does to the queue as it is matters. -/
theorem updQueue_congr {fn q : Nat} {f h : Queue → Queue} (e : f (s.queueD fn q) = h (s.queueD fn q)) :
    s.updQueue fn q f = s.updQueue fn q h := by
  unfold State.updQueue State.updFn
  split
  · next x hx =>
    rw [show s.queueD fn q = tval {} x.queues q from by simp [State.queueD, State.fnD, hx]] at e
    simp only [e]
  · rfl

/-- The word of a queue's address, and the one of its EN and CTX. -/
theorem queueReg_rcb (fn : Nat) {q : Nat} (hq : q < 64) (v : Word) :
    s.queueReg fn (16 * q) v = s.updQueue fn q fun x => if x.en then x else { x with rcb := v } := by
  unfold State.queueReg
  rw [show 16 * q / 16 = q by omega, show 16 * q % 16 = 0 by omega]
  simp only [if_true]
  exact if_neg (by omega)

theorem queueReg_ctx (fn : Nat) {q : Nat} (hq : q < 64) (v : Word) :
    s.queueReg fn (16 * q + 8) v = s.updQueue fn q fun x =>
      let y := if x.en then x else { x with ctx := bits v 15 8 }
      if v.getLsbD 0 then y else { y with en := false } := by
  unfold State.queueReg
  rw [show (16 * q + 8) / 16 = q by omega, show (16 * q + 8) % 16 = 8 by omega]
  simp only [Nat.succ_ne_zero, if_false]
  exact if_neg (by omega)

theorem exec_queueWrite {fn : Nat} (hf : fn ≠ 0) (o : Nat) (v : Word) :
    exec (.registerWrite fn o v) s = .next (s.queueReg fn o v) := if_pos hf

theorem registerWrites_hold : registerWrites := by
  intro s v
  refine ⟨fun h => ?_, fun h => ?_, ?_, ?_, fun i hi => ?_, fun i hi => ?_, fun fn q hfn hq hf => ⟨fun hen => ?_, fun hen => ?_,
    fun hv => ?_⟩⟩
  · show execRegisterWrite 0 8 v s = _
    simp [execRegisterWrite, h]
  · show execRegisterWrite 0 8 v s = _
    simp [execRegisterWrite, h]
  · rw [exec_registerWrite _ _ (by decide)]
    rfl
  · rw [exec_registerWrite _ _ (by decide)]
    rfl
  · refine ⟨_, exec_registerWrite _ _ (by omega), ?_⟩
    rw [if_neg (by omega), if_pos (by omega), show (0x2008 + 8 * i - 0x2008) / 8 = i by omega]
    exact ⟨tval_tset_self .., fun j hj => by rw [tval_tset, if_neg hj]⟩
  · refine ⟨_, exec_registerWrite _ _ (by omega), ?_⟩
    rw [if_neg (by omega), if_neg (by omega), if_neg (by omega), if_pos (by omega), show (0x80000 + 8 * i - 0x80000) / 8 = i by omega]
    exact tval_tset_self ..
  · rw [exec_queueWrite hfn, queueReg_rcb fn hq]
    exact congrArg _ (updQueue_congr (by simp only [hen, if_true, id]))
  · refine ⟨_, exec_queueWrite hfn _ _, ?_⟩
    beta_reduce
    rw [queueReg_rcb fn hq, queueD_updQueue _ hf]
    exact if_neg (by simp [hen])
  · refine ⟨_, exec_queueWrite hfn _ _, ?_⟩
    beta_reduce
    rw [queueReg_ctx fn hq, queueD_updQueue _ hf]
    simp only [hv]
    cases hen : (s.queueD fn q).en <;> simp [bits]

theorem attestationSteps_hold : attestationSteps := by
  intro s a
  refine ⟨fun hb => if_pos hb, fun hb hw => ?_, fun hb hw ha => ?_, fun hb hw ha => ?_, fun hb => if_pos (Bool.eq_false_iff.1 hb),
    fun hb hf => attestationDone_sent hb hf, rfl⟩
  · exact (if_neg (Bool.eq_false_iff.1 hb)).trans (if_pos (Option.isNone_iff_eq_none.2 hw))
  · exact (if_neg (Bool.eq_false_iff.1 hb)).trans ((if_neg (mt Option.isNone_iff_eq_none.1 hw)).trans (if_pos ha))
  · refine ⟨_, attestationGo_taken hb hw ha, rfl, rfl, rfl, ?_, rfl, rfl⟩
    simp only [List.length_append, length_reportBody, length_signature]

/-! ### Power (R389, R423) -/

/-- Memory without the bytes below a place. -/
theorem tval_filter (m : Table Byte) (q : Nat → Bool) (l : Nat) :
    tval 0 (m.filter fun b => q b.1) l = if q l then tval 0 m l else 0 := by
  unfold tval
  rw [tget_filter]
  split <;> rfl

theorem powerDown_down (s : State) : poweredDown s s.powerDown .reset := by
  refine ⟨rfl, rfl, rfl, rfl, rfl, rfl, rfl, rfl, rfl, rfl, rfl, rfl, rfl, fun l hl => ?_, fun l h1 h2 => ?_⟩
  · refine (tval_filter _ (fun l => decide (2 ^ 64 ≤ l) && decide (l < 2 ^ 96)) l).trans (if_neg ?_)
    rw [decide_eq_false (Nat.not_le.2 hl)]
    exact Bool.false_ne_true
  · refine (tval_filter _ (fun l => decide (2 ^ 64 ≤ l) && decide (l < 2 ^ 96)) l).trans (if_pos ?_)
    rw [decide_eq_true h1, decide_eq_true h2]
    rfl

/-- A digest does not cover itself. -/
theorem sum_digest (c : Checkpoint) (d : BitVec 512) : ({ c with digest := d } : Checkpoint).sum = c.sum := by
  unfold Checkpoint.sum
  exact congrArg sha512 rfl

/-- A copy that carries its digest verifies. -/
theorem okCopy_of {c : Checkpoint} (h : c.digest = c.sum) : okCopy (some c) = some c :=
  Option.filter_eq_some_iff.2 ⟨rfl, decide_eq_true h⟩

theorem digest_signed (c : Checkpoint) (d : BitVec 512) (h : d = c.sum) :
    ({ c with digest := d } : Checkpoint).digest = ({ c with digest := d } : Checkpoint).sum := h.trans (sum_digest c d).symm


/-- A checkpoint written now verifies. -/
theorem okCopy_ckptNow (s : State) (orderly : Bool) : okCopy (some (s.ckptNow orderly)) = some (s.ckptNow orderly) := by
  refine okCopy_of ?_
  unfold State.ckptNow
  extract_lets c
  clear_value c
  exact digest_signed c _ rfl

theorem seq_lt_ckptNow (orderly : Bool) {k : Checkpoint} (h : s.newest = some k) : k.seq < (s.ckptNow orderly).seq := by
  show k.seq < (s.newest.map Checkpoint.seq).getD 0 + 1
  rw [h]
  exact Nat.lt_succ_self _

/-- A copy newer than the newest, written over the one that is not the newest, is the newest. -/
theorem newest_written {c : Checkpoint} (hc : okCopy (some c) = some c) (hlt : ∀ k, s.newest = some k → k.seq < c.seq) :
    (okCopy s.ckptA = s.newest → s.newest.isSome → ({ s with ckptB := some c } : State).newest = some c)
      ∧ (¬ (okCopy s.ckptA = s.newest ∧ s.newest.isSome) → ({ s with ckptA := some c } : State).newest = some c) := by
  unfold State.newest at hlt ⊢
  dsimp only
  rw [hc]
  generalize okCopy s.ckptA = A at hlt ⊢
  generalize okCopy s.ckptB = B at hlt ⊢
  cases A with
  | none => cases B with
    | none => exact ⟨fun _ _ => rfl, fun _ => rfl⟩
    | some b => exact ⟨fun _ _ => rfl, fun _ => congrArg some (if_neg (Nat.not_lt.2 (Nat.le_of_lt (hlt b rfl))))⟩
  | some a => cases B with
    | none => exact ⟨fun _ _ => congrArg some (if_pos (hlt a rfl)), fun _ => rfl⟩
    | some b =>
      by_cases hab : a.seq < b.seq
      · simp only [if_pos hab, Option.some.injEq, forall_eq'] at hlt ⊢
        exact ⟨fun e _ => if_pos (e ▸ hlt), fun _ => if_neg (by omega)⟩
      · simp only [if_neg hab, Option.some.injEq, forall_eq'] at hlt ⊢
        exact ⟨fun _ _ => if_pos hlt, fun h => absurd ⟨trivial, rfl⟩ h⟩

/-- The checkpoint that READY writes is the newest. -/
theorem newest_writeCkpt (orderly : Bool) (hd : s.dev = .ready) : (s.writeCkpt orderly).newest = some (s.ckptNow orderly) := by
  obtain ⟨hB, hA⟩ := newest_written (okCopy_ckptNow s orderly) fun k => seq_lt_ckptNow orderly
  unfold State.writeCkpt
  rw [if_neg (not_not.2 hd)]
  split
  · next h => exact hB h.1 h.2
  · next h => exact hA h

/-- What a checkpoint before the loss of power leaves. -/
theorem poweredDown_writeCkpt (s : State) (orderly : Bool) : poweredDown s (s.writeCkpt orderly).powerDown .reset := by
  unfold State.writeCkpt
  split
  · exact powerDown_down s
  · generalize s.ckptNow orderly = c
    split
    · exact powerDown_down { s with ckptB := some c }
    · exact powerDown_down { s with ckptA := some c }

theorem powerSteps_hold : powerSteps := by
  refine ⟨fun s => ⟨s.powerDown, rfl, powerDown_down s, rfl, rfl⟩, fun s busy metered => ?_⟩
  refine ⟨((s.boundary busy metered []).writeCkpt true).powerDown, rfl, poweredDown_writeCkpt _ _, fun hd => ?_⟩
  have hready : (s.boundary busy metered []).dev = .ready := (kept_boundary (.refl s)).dev.trans hd
  generalize s.boundary busy metered [] = b at hready
  exact ⟨b.ckptNow true, newest_writeCkpt true hready, rfl, rfl⟩

end Sys2Proof.Machine
end

section
/-! SUPPORT. What wear events leave, and the steps of bring-up (R381, R389, R413, R423, Table 23.2). -/

namespace Sys2Proof.Machine

variable {s t u : State}

/-! ### Wear and its events -/

/-- `t` is `s` but for wear, and for what events of it do. -/
def Worn (s t : State) : Prop := Cached { s with wear := t.wear, draw := t.draw } t

theorem Worn.refl (s : State) : Worn s s := Cached.refl s

theorem Worn.trans (h : Worn s t) (k : Worn t u) : Worn s u := by
  have h1 : Cached { s with wear := u.wear, draw := u.draw } { t with wear := u.wear, draw := u.draw } :=
    ⟨congrArg (fun z : State => { z with wear := u.wear, draw := u.draw }) h.rest, h.bare⟩
  exact h1.trans k

namespace Worn

theorem vbs (h : Worn s t) : t.vbs = s.vbs := (congrArg State.vbs h.rest :)
theorem repairs (h : Worn s t) : t.repairs = s.repairs := (congrArg State.repairs h.rest :)
theorem dev (h : Worn s t) : t.dev = s.dev := (congrArg State.dev h.rest :)
theorem selfid (h : Worn s t) : t.selfid = s.selfid := (congrArg State.selfid h.rest :)
theorem lostDies (h : Worn s t) : t.lostDies = s.lostDies := (congrArg State.lostDies h.rest :)
theorem links (h : Worn s t) : t.links = s.links := (congrArg State.links h.rest :)
theorem owner (h : Worn s t) : t.owner = s.owner := (congrArg State.owner h.rest :)
theorem tlb (h : Worn s t) : t.tlb = s.tlb := (congrArg State.tlb h.rest :)
theorem markX (h : Worn s t) : t.markX = s.markX := (congrArg State.markX h.rest :)
theorem markW (h : Worn s t) : t.markW = s.markW := (congrArg State.markW h.rest :)
theorem age (h : Worn s t) : t.age = s.age := (congrArg State.age h.rest :)
theorem targeth (h : Worn s t) : t.targeth = s.targeth := (congrArg State.targeth h.rest :)

end Worn

theorem worn_cached (h : Cached s t) : Worn s t := by
  have hw : t.wear = s.wear := (congrArg State.wear h.rest :)
  have hd : t.draw = s.draw := (congrArg State.draw h.rest :)
  unfold Worn
  rw [hw, hd]
  exact h

theorem worn_updWear (s : State) (n : Nat) (f : Wear → Wear) : Worn s (s.updWear n f) := Cached.refl _

theorem worn_event (s : State) (code fn ctx world : Nat) (w1 detail : Option Word) :
    Worn s (s.event code fn ctx world w1 detail) :=
  (show Worn s { s with draw := s.draw + 2 } from Cached.refl _).trans (worn_cached (cached_event ..))

theorem worn_foldl {β : Type} {f : State → β → State} (h : ∀ s b, Worn s (f s b)) (l : List β) (s : State) : Worn s (l.foldl f s) :=
  List.foldlRecOn l f (motive := Worn s) (.refl s) fun t ht b _ => ht.trans (h t b)

theorem worn_setWear (s : State) (n : Nat) (w : Wear) : Worn s (s.setWear n w) := by
  unfold State.setWear
  split
  · exact (worn_updWear ..).trans (worn_event ..)
  · exact worn_updWear ..

/-! ### Calibration (R319, R423, R445) -/

theorem cached_trimColumns (die : Nat) (h : Cached s t) : Cached s (t.trimColumns die) :=
  cached_foldl (fun _ _ h => cached_ite (cached_updCore _ _ h) h) _ _ h

/-- A bus that changes state leaves all but the table of buses, wear and its event. -/
theorem worn_setVb (s : State) (die bus : Nat) (v : VbState) :
    Worn { s with vbs := tset (if bus < 64 then .active else .spare) s.vbs (72 * die + bus) v } (s.setVb die bus v) := by
  unfold State.setVb
  extract_lets u s1
  exact (worn_updWear s1 u _).trans ((worn_cached (cached_trimColumns die (.refl _))).trans (worn_event ..))

theorem setVb_repairs (s : State) (die bus : Nat) (v : VbState) : (s.setVb die bus v).repairs = s.repairs :=
  (worn_setVb s die bus v).repairs

theorem tget_tset_ne {α : Type} [DecidableEq α] (d : α) (m : Table α) (v : α) {k j : Nat} (h : j ≠ k) :
    tget (tset d m k v) j = tget m j := by
  unfold tset
  split
  · rw [tget_tdel, if_neg h]
  · rw [tget_tput, if_neg h]

/-- The state of a bus of the same die after another, or it, has changed. -/
theorem vbOf_setVb (s : State) (die bus b : Nat) (v : VbState) :
    (s.setVb die bus v).vbOf die b = if b = bus then v else s.vbOf die b := by
  unfold State.vbOf
  rw [(worn_setVb s die bus v).vbs]
  dsimp only
  by_cases e : b = bus
  · rw [e, tval_tset_self, if_pos rfl]
  · rw [if_neg e]
    exact congrArg (Option.getD · _) (tget_tset_ne _ _ _ (by omega))

theorem busNow_congr (h : t.repairs = s.repairs) (die n b : Nat) : t.busNow die n b = s.busNow die n b := by
  induction n generalizing b with
  | zero => rfl
  | succ n ih =>
    unfold State.busNow
    rw [h]
    split
    · exact ih _
    · rfl

/-- A failed bus without a spare is retired, and a bank column that it serves is not served. -/
theorem calBus_unserved {d b : Nat} (h : s.spareBus d = none) :
    (s.calBus d b).vbOf d b = .retired ∧ ((∃ k < 64, s.busNow d 9 k = b) → (s.calBus d b).unserved [(d, b)] d = true) := by
  have e : s.calBus d b = s.setVb d b .retired := by unfold State.calBus; rw [h]
  have hv : (s.setVb d b .retired).vbOf d b = .retired := by rw [vbOf_setVb, if_pos rfl]
  rw [e]
  refine ⟨hv, fun ⟨k, hk, hb⟩ => List.any_eq_true.2 ⟨k, List.mem_range.2 hk, ?_⟩⟩
  dsimp only
  rw [busNow_congr (setVb_repairs ..), hb]
  simp [hv]

/-- One with a spare is retired, and the spare is active in its place. -/
theorem calBus_repaired {d b e : Nat} (h : s.spareBus d = some e) (hne : e ≠ b) :
    (s.calBus d b).vbOf d b = .retired ∧ (s.calBus d b).vbOf d e = .active
      ∧ tget (s.calBus d b).repairs (72 * d + b) = some e := by
  unfold State.calBus
  rw [h]
  dsimp only
  refine ⟨?_, by rw [vbOf_setVb, if_pos rfl], ?_⟩
  · rw [vbOf_setVb, if_neg hne.symm, vbOf_setVb, if_pos rfl]
  · rw [setVb_repairs, setVb_repairs]
    exact tget_tput_self ..

/-- A dark bank leaves its group out of a link. -/
def State.darken (s : State) (k i : Nat) : State :=
  s.updLink (16 * (k / 4) + i) fun l => { l with avail := l.avail &&& ~~~(1#4 <<< (k % 4)) }

/-- Each dark bank leaves its group out of the links of its die. -/
def State.darkenAll (s : State) (ks : List Nat) : State :=
  ks.foldl (fun t k => (List.range 16).foldl (fun t i => t.darken k i) t) s

theorem darkenAll_frame (s : State) (ks : List Nat) : { s.darkenAll ks with links := s.links } = s :=
  List.foldlRecOn ks _ (motive := fun t : State => { t with links := s.links } = s) rfl fun _ ht _ _ =>
    List.foldlRecOn (List.range 16) _ (motive := fun t : State => { t with links := s.links } = s) ht fun _ ht _ _ => ht

theorem st_darken (s : State) (k i j : Nat) : ((s.darken k i).linkD j).st = (s.linkD j).st := by
  rw [State.darken, linkD_updLink]
  split
  · next e => rw [e]
  · rfl

theorem st_darkenAll (s : State) (ks : List Nat) (j : Nat) : ((s.darkenAll ks).linkD j).st = (s.linkD j).st :=
  List.foldlRecOn ks _ (motive := fun t : State => (t.linkD j).st = (s.linkD j).st) rfl fun _ ht k _ =>
    List.foldlRecOn (List.range 16) _ (motive := fun t : State => (t.linkD j).st = (s.linkD j).st) ht fun t ht i _ =>
      (st_darken t k i j).trans ht

/-- A group that is left out stays so. -/
theorem avail_darken {s : State} {j c : Nat} (k i : Nat) (h : (s.linkD j).avail.getLsbD c = false) :
    ((s.darken k i).linkD j).avail.getLsbD c = false := by
  rw [State.darken, linkD_updLink]
  split
  · next e => rw [← e, BitVec.getLsbD_and, h, Bool.false_and]
  · exact h

theorem darkenAll_avail (s : State) {ks : List Nat} {k i : Nat} (hk : k ∈ ks) (hi : i < 16) :
    ((s.darkenAll ks).linkD (16 * (k / 4) + i)).avail.getLsbD (k % 4) = false := by
  have hstay : ∀ t k', ∀ a, a = 16 * (k / 4) + i → (State.linkD t a).avail.getLsbD (k % 4) = false →
      (((List.range 16).foldl (fun t i => t.darken k' i) t).linkD a).avail.getLsbD (k % 4) = false := fun t k' a _ h =>
    List.foldlRecOn (List.range 16) _ (motive := fun t : State => (t.linkD a).avail.getLsbD (k % 4) = false) h
      fun t ht j _ => avail_darken k' j ht
  have hinner : ∀ t : State, (((List.range 16).foldl (fun t i => t.darken k i) t).linkD (16 * (k / 4) + i)).avail.getLsbD (k % 4) = false := by
    intro t
    refine (foldl_reaches (R := fun _ => True) (Q := fun t : State => (t.linkD (16 * (k / 4) + i)).avail.getLsbD (k % 4) = false)
      (List.mem_range.2 hi) (fun _ _ _ _ => trivial) (fun t j _ _ h => avail_darken k j h) (fun t _ => ?_) trivial).2
    rw [State.darken, linkD_updLink, if_pos rfl, BitVec.getLsbD_and]
    have hk4 : k % 4 < 4 := Nat.mod_lt _ (by decide)
    simp [hk4]
  exact (foldl_reaches (R := fun _ => True) (Q := fun t : State => (t.linkD (16 * (k / 4) + i)).avail.getLsbD (k % 4) = false) hk
    (fun _ _ _ _ => trivial) (fun t k' _ _ h => hstay t k' _ rfl h) (fun t _ => hinner t) trivial).2

end Sys2Proof.Machine
end

section
/-! SUPPORT and O54. Calibration, zeroing and the steps of bring-up (R389, R413, R423, Table 23.2). -/

namespace Sys2Proof.Machine

variable {s t : State}

/-! ### The end of calibration -/

theorem darkenAll_dev (s : State) (ks : List Nat) : (s.darkenAll ks).dev = s.dev := (congrArg State.dev (darkenAll_frame s ks) :)
theorem darkenAll_lostDies (s : State) (ks : List Nat) : (s.darkenAll ks).lostDies = s.lostDies :=
  (congrArg State.lostDies (darkenAll_frame s ks) :)
theorem darkenAll_selfid (s : State) (ks : List Nat) : (s.darkenAll ks).selfid = s.selfid :=
  (congrArg State.selfid (darkenAll_frame s ks) :)
theorem darkenAll_repairs (s : State) (ks : List Nat) : (s.darkenAll ks).repairs = s.repairs :=
  (congrArg State.repairs (darkenAll_frame s ks) :)
theorem darkenAll_vbOf (s : State) (ks : List Nat) (d b : Nat) : (s.darkenAll ks).vbOf d b = s.vbOf d b :=
  (congrArg (State.vbOf · d b) (darkenAll_frame s ks) :)

theorem Worn.vbOf (h : Worn s t) (d b : Nat) : t.vbOf d b = s.vbOf d b := by
  unfold State.vbOf
  rw [h.vbs]

/-- The dies that a calibration reports lost, once its buses are repaired or retired. -/
def State.lostIn (s : State) (c : Calibration) : List Nat :=
  (c.lost ++ (List.range 12).filter (s.unserved c.retired)).eraseDups

/-- The state after the events of the lost dies. -/
def State.calibrated (s : State) (lost : List Nat) : State :=
  lost.foldl (fun t d => t.event 1 0 0 0 (some (BitVec.ofNat 64 d)))
    { s with lostDies := lost, dev := .zeroing, links := [], selfid := 0 }

theorem worn_calibrated (s : State) (lost : List Nat) :
    Worn { s with lostDies := lost, dev := .zeroing, links := [], selfid := 0 } (s.calibrated lost) :=
  worn_foldl (fun _ _ => worn_event ..) _ _

theorem exec_calibrate {c : Calibration} (hd : s.dev = .calibrate) (hok : c.ok = true) :
    exec (.calibrateComplete c) s = .next (((c.retired.foldl (fun t b => t.calBus b.1 b.2) s).calibrated
      ((c.retired.foldl (fun t b => t.calBus b.1 b.2) s).lostIn c)).darkenAll c.darkBanks) :=
  (if_neg (not_not.2 hd)).trans (if_neg (not_not.2 hok))

theorem mem_lostIn {c : Calibration} {d : Nat} (h : d ∈ c.lost ∨ (d < 12 ∧ s.unserved c.retired d = true)) : d ∈ s.lostIn c := by
  unfold State.lostIn
  rw [List.mem_eraseDups, List.mem_append, List.mem_filter, List.mem_range]
  exact h

theorem lostIn_of_none_retired {c : Calibration} (h : c.retired = []) : s.lostIn c = c.lost.eraseDups := by
  have hu : ∀ d ∈ List.range 12, ¬ s.unserved c.retired d = true := by
    intro d _
    simp [State.unserved, h]
  unfold State.lostIn
  rw [List.filter_eq_nil_iff.2 hu, List.append_nil]

theorem calibrateComplete_holds (c : Calibration) (hd : s.dev = .calibrate) (hok : c.ok = true) :
    completes (.calibrateComplete c) s fun t => t.dev = .zeroing
      ∧ (∀ d ∈ c.lost, d ∈ t.lostDies) ∧ (c.retired = [] → t.lostDies = c.lost.eraseDups) ∧ t.selfid = 0 ∧ (∀ i, (t.linkD i).st = 0)
      ∧ (∀ k ∈ c.darkBanks, ∀ i < 16, (t.linkD (16 * (k / 4) + i)).avail.getLsbD (k % 4) = false)
      ∧ ∀ d b, c.retired = [(d, b)] → (s.spareBus d = none → t.vbOf d b = .retired
          ∧ (d < 12 → (∃ k < 64, s.busNow d 9 k = b) → d ∈ t.lostDies))
        ∧ ∀ e, s.spareBus d = some e → e ≠ b → t.vbOf d b = .retired ∧ t.vbOf d e = .active
          ∧ tget t.repairs (72 * d + b) = some e := by
  refine ⟨_, exec_calibrate hd hok, ?_⟩
  generalize hs1 : c.retired.foldl (fun t b => t.calBus b.1 b.2) s = s1
  have w := worn_calibrated s1 (s1.lostIn c)
  generalize s1.calibrated (s1.lostIn c) = s3 at w
  rw [darkenAll_dev, darkenAll_lostDies, darkenAll_selfid, darkenAll_repairs, w.dev, w.lostDies, w.selfid, w.repairs]
  refine ⟨rfl, fun d hdl => mem_lostIn (.inl hdl), lostIn_of_none_retired, rfl, fun i => ?_, fun k hk i hi => darkenAll_avail _ hk hi,
    fun d b hr => ?_⟩
  · rw [st_darkenAll, State.linkD, w.links]
    rfl
  · rw [darkenAll_vbOf, w.vbOf]
    have hcal : s1 = s.calBus d b := by rw [← hs1, hr]; rfl
    refine ⟨fun hn => ?_, fun e he hne => ?_⟩
    · obtain ⟨hv, hu⟩ := calBus_unserved (b := b) hn
      exact ⟨by rw [hcal]; exact hv, fun hlt hk => mem_lostIn (.inr ⟨hlt, by rw [hcal, hr]; exact hu hk⟩)⟩
    · rw [darkenAll_vbOf, w.vbOf]
      obtain ⟨hv, ha, hrep⟩ := calBus_repaired he hne
      rw [hcal]
      exact ⟨hv, ha, hrep⟩

/-! ### Zeroing (R389, R423) -/

/-- Memory reads zero, and every frame is NONE. -/
def State.zeroed (s : State) : State :=
  { s with
    mem := s.mem.filter fun b => decide (2 ^ 64 ≤ b.1), owner := [], markX := [], markW := [], bias := []
    badMac := [], badNode := [], tlb := [], ctrs := [], frameCtrs := [], mdc := [], failed := [], nodeMet := [] }

/-- World 0 and the partition of function 0, once the wear records are there. -/
def State.begun (s : State) : State :=
  let s3 := s.vbs.foldl (fun t b => t.updWear (444 + b.1) fun w => { w with state := b.2.wear }) s
  let s4 := { s3 with cores := (List.range 192).map fun c => (c, { unit := s3.coreUnit c, restAt := s3.age }) }
  let s5 := (s4.mkWorld 0 0).updFn 0 fun f =>
    { f with count := 12, copyQ := 64, capQ := 33554432, spillQ := 4096, resident := true, tickSlices := List.range 12 }
  { (s5.setLife 0) with dev := .ready, wearAt := s5.wear, windowAge := s5.age }

theorem exec_zeroing (hd : s.dev = .zeroing) : exec (.zeroingComplete true) s = .next s.zeroed.loadCkpt.begun :=
  (if_neg (not_not.2 hd)).trans (if_neg (by decide))

/-- What the beginning of world 0 leaves. -/
def State.standing (s : State) : Table Nat × List TlbEntry × Table Bool × Table Bool × Nat × Nat × Table Byte :=
  (s.owner, s.tlb, s.markX, s.markW, s.age, s.targeth, s.mem)

theorem updFn_standing (s : State) (fn : Nat) (f : Func → Func) : (s.updFn fn f).standing = s.standing :=
  (congrArg State.standing (updFn_frame s fn f) :)

theorem begun_standing (s : State) : s.begun.standing = s.standing := by
  unfold State.begun
  extract_lets s3 s4 s5
  have h3 : s3.standing = s.standing := List.foldlRecOn s.vbs _ (motive := fun t : State => t.standing = s.standing) rfl
    fun _ ht _ _ => ht
  clear_value s3
  have h4 : (s4.mkWorld 0 0).standing = s.standing := h3
  have h5 : s5.standing = s.standing := (updFn_standing ..).trans h4
  clear_value s5
  exact (updFn_standing s5 0 fun f => { f with lifeMin := s5.lifebud f }).trans h5

theorem begun_world (s : State) : ∃ x, tget s.begun.worlds 0 = some x ∧ x.fn = 0 ∧ x.meas = [] := by
  unfold State.begun
  extract_lets s3 s4 s5
  have hw : ((s5.setLife 0).worlds) = (s4.mkWorld 0 0).worlds := (updFn_worlds ..).trans (updFn_worlds ..)
  exact ⟨{ fn := 0, key := s4.tick, meas := [] }, (congrArg (tget · 0) hw).trans (tget_tput_self ..), rfl, rfl⟩

/-- Function 0 holds the whole module. -/
theorem begun_fn (hf : tget s.fns 0 ≠ none) :
    (s.begun.fnD 0).count = 12 ∧ (s.begun.fnD 0).copyQ = 64 ∧ (s.begun.fnD 0).capQ = 33554432 ∧ (s.begun.fnD 0).spillQ = 4096 := by
  unfold State.begun
  extract_lets s3 s4 s5
  have h3 : s3.fns = s.fns := List.foldlRecOn s.vbs _ (motive := fun t : State => t.fns = s.fns) rfl fun _ ht _ _ => ht
  have h4 : tget (s4.mkWorld 0 0).fns 0 ≠ none := by
    show tget s3.fns 0 ≠ none
    rw [h3]
    exact hf
  have h5 : tget s5.fns 0 ≠ none := updFn_fns_ne_none _ h4
  have e5 : s5.fnD 0 = _ := (fnD_updFn (s4.mkWorld 0 0) 0 0 _ h4).trans (if_pos rfl)
  have e : (s5.setLife 0).fnD 0 = { s5.fnD 0 with lifeMin := s5.lifebud (s5.fnD 0) } :=
    (fnD_updFn s5 0 0 (fun f => { f with lifeMin := s5.lifebud f }) h5).trans (if_pos rfl)
  rw [e5] at e
  exact ⟨(congrArg Func.count e :), (congrArg Func.copyQ e :), (congrArg Func.capQ e :), (congrArg Func.spillQ e :)⟩

/-- Wear is not compared. -/
theorem worn_of_wear {w : Table Wear} (h : Worn { s with wear := w } t) : Worn s t := h

/-- Without a checkpoint wear begins. -/
theorem loadCkpt_none (h : s.newest = none) : ∃ w, s.loadCkpt = { s with wear := w } := by
  refine ⟨firstWear, ?_⟩
  unfold State.loadCkpt
  rw [h]

/-- An orderly checkpoint gives wear, AGE and TARGETH (R389). -/
theorem loadCkpt_orderly {k : Checkpoint} (h : s.newest = some k) (ho : k.orderly = true) :
    s.loadCkpt = { s with wear := k.wear, age := k.age, targeth := k.targeth } := by
  unfold State.loadCkpt
  rw [h]
  exact if_pos ho

/-- Any other is charged 1,000 ticks, with its event (R389). -/
theorem loadCkpt_charged {k : Checkpoint} (h : s.newest = some k) (ho : k.orderly = false) :
    Worn { s with age := k.age + 1000, targeth := k.targeth } s.loadCkpt := by
  have e : s.loadCkpt = ((List.range unitCount).foldl (fun (t : State) u => t.setWear u (t.wearD u).charge)
      { s with wear := k.wear, age := k.age + 1000, targeth := k.targeth }).event 10 0 0 0 none := by
    unfold State.loadCkpt
    rw [h]
    exact if_neg (by simp [ho])
  rw [e]
  generalize List.range unitCount = us
  exact worn_of_wear (w := k.wear) ((worn_foldl (fun _ _ => worn_setWear ..) _ _).trans (worn_event ..))

/-- Either way only AGE, TARGETH, wear and what events do change. -/
theorem loadCkpt_worn (s : State) : ∃ a th, Worn { s with age := a, targeth := th } s.loadCkpt := by
  cases h : s.newest with
  | none =>
    obtain ⟨w, e⟩ := loadCkpt_none h
    exact ⟨s.age, s.targeth, by rw [e]; exact worn_of_wear (w := w) (.refl _)⟩
  | some k =>
    cases ho : k.orderly with
    | true => exact ⟨k.age, k.targeth, by rw [loadCkpt_orderly h ho]; exact worn_of_wear (w := k.wear) (.refl _)⟩
    | false => exact ⟨_, _, loadCkpt_charged h ho⟩

theorem rdByte_of_zeroed (h : t.mem = s.zeroed.mem) {l : Nat} (hl : l < 2 ^ 64) : t.rdByte l = 0 := by
  rw [State.rdByte, h]
  exact (tval_filter s.mem (fun l => decide (2 ^ 64 ≤ l)) l).trans (if_neg (by simpa using hl))

theorem zeroingComplete_holds (hd : s.dev = .zeroing) (hf : tget s.fns 0 ≠ none) :
    completes (.zeroingComplete true) s fun t => t.dev = .ready
        ∧ t.owner = [] ∧ t.tlb = [] ∧ t.markX = [] ∧ t.markW = []
        ∧ (∃ x, tget t.worlds 0 = some x ∧ x.fn = 0 ∧ x.meas = [])
        ∧ (t.fnD 0).count = 12 ∧ (t.fnD 0).copyQ = 64 ∧ (t.fnD 0).capQ = 33554432 ∧ (t.fnD 0).spillQ = 4096
        ∧ (s.newest = none → t.age = s.age ∧ ∀ l < 2 ^ 64, t.rdByte l = 0)
        ∧ ∀ k, s.newest = some k → t.targeth = k.targeth ∧ t.age = (if k.orderly then k.age else k.age + 1000)
          ∧ (k.orderly = true → ∀ l < 2 ^ 64, t.rdByte l = 0) := by
  refine ⟨_, exec_zeroing hd, rfl, ?_⟩
  have hst := begun_standing s.zeroed.loadCkpt
  have hworld := begun_world s.zeroed.loadCkpt
  obtain ⟨a, th, w⟩ := loadCkpt_worn s.zeroed
  obtain ⟨hcount, hcopy, hcap, hspill⟩ := begun_fn (s := s.zeroed.loadCkpt) (w.fn_ne_none hf)
  have hnone : s.newest = none → ∃ w, s.zeroed.loadCkpt = { s.zeroed with wear := w } := fun h => loadCkpt_none (s := s.zeroed) h
  have horderly : ∀ k, s.newest = some k → k.orderly = true → s.zeroed.loadCkpt = _ := fun k h => loadCkpt_orderly (s := s.zeroed) h
  have hcharged : ∀ k, s.newest = some k → k.orderly = false → Worn _ s.zeroed.loadCkpt := fun k h =>
    loadCkpt_charged (s := s.zeroed) h
  generalize s.zeroed.loadCkpt = L at *
  generalize L.begun = t at *
  simp only [State.standing, Prod.mk.injEq] at hst
  obtain ⟨howner, htlb, hmarkX, hmarkW, hage, htargeth, hmem⟩ := hst
  refine ⟨howner.trans w.owner, htlb.trans w.tlb, hmarkX.trans w.markX, hmarkW.trans w.markW, hworld, hcount, hcopy, hcap, hspill,
    fun h => ?_, fun k h => ?_⟩
  · obtain ⟨w', rfl⟩ := hnone h
    exact ⟨hage, fun l hl => rdByte_of_zeroed hmem hl⟩
  · cases ho : k.orderly with
    | true =>
      obtain rfl := horderly k h ho
      exact ⟨htargeth, hage, fun _ l hl => rdByte_of_zeroed hmem hl⟩
    | false => exact ⟨htargeth.trans (hcharged k h ho).targeth, hage.trans (hcharged k h ho).age, fun e => by cases e⟩

/-- The image that was given boots, or the one in flash (R423, R407). -/
theorem bootComplete_boots {ok : Bool} {a b : BitVec 512} (hd : s.dev = .boot) (hok : ok = true ∨ s.flash ≠ none) :
    completes (.bootComplete ok a b) s fun t => t.dev = .calibrate
        ∧ t.fns = s.fns ∧ tget t.fw 1 = some (extend 0 b) ∧ (s.flash = none → tget t.fw 0 = some (extend 0 a))
        ∧ ∀ image, s.flash = some image → tget t.fw 0 = some (extend 0 (sha512 (imageBytes image))) := by
  have hboot : ¬ (¬ ok = true ∧ s.flash.isNone = true) := by
    rw [Option.isNone_iff_eq_none]
    rintro ⟨hn, hfl⟩
    exact hok.elim hn fun h => h hfl
  refine ⟨_, (if_neg (not_not.2 hd)).trans (if_neg hboot), rfl, rfl, rfl, fun hfl => ?_, fun image hfl => ?_⟩
  · exact congrArg some (by rw [hfl])
  · exact congrArg some (by rw [hfl])

theorem bringUpSteps_hold : bringUpSteps := by
  intro s
  refine ⟨rfl, fun ok a b => ⟨fun hd => if_pos hd, fun hd hfl hok => ?_, fun hd hok => ?_⟩, fun ok => rfl,
    fun c => ⟨fun hd => if_pos hd, fun hd hok => ?_, calibrateComplete_holds c⟩, fun ok => ⟨fun hd => if_pos hd, fun hd hok => ?_,
    fun hd hok hf => ?_⟩⟩
  · exact (if_neg (not_not.2 hd)).trans (if_pos (by simp [hok, hfl]))
  · exact bootComplete_boots hd hok
  · exact (if_neg (not_not.2 hd)).trans (if_pos (by simp [hok]))
  · exact (if_neg (not_not.2 hd)).trans (if_pos (by simp [hok]))
  · rw [hok]
    exact zeroingComplete_holds hd hf

end Sys2Proof.Machine

open Sys2Proof Sys2Proof.Machine in
/-- Settles O54: each step of bring-up by its own branches, power by what a checkpoint and a loss of power leave. -/
theorem bringupPowerAndAttestation : Obligations.BRINGUP_POWER_AND_ATTESTATION :=
  ⟨bringUpSteps_hold, powerSteps_hold, attestationSteps_hold, registerWrites_hold⟩
end

section
/-! SUPPORT and O55. Links: registers, training, light and loss (R427, R431 to R434, R445). -/

namespace Sys2Proof.Machine

variable {s t : State}

/-- The same change of the first links. -/
theorem linkD_updLinks (s : State) (f : Link → Link) (n j : Nat) :
    ((List.range n).foldl (fun t i => t.updLink i f) s).linkD j = if j < n then f (s.linkD j) else s.linkD j := by
  induction n with
  | zero => exact (if_neg (Nat.not_lt_zero j)).symm
  | succ n ih =>
    rw [List.range_succ, List.foldl_append, List.foldl_cons, List.foldl_nil, linkD_updLink]
    by_cases e : j = n
    · subst e
      rw [if_pos rfl, if_pos (Nat.lt_succ_self j), ih, if_neg (Nat.lt_irrefl j)]
    · rw [if_neg e, ih]
      exact ite_congr (by rw [eq_iff_iff]; omega) (fun _ => rfl) fun _ => rfl

theorem linkD_updLink_self (s : State) (i : Nat) (f : Link → Link) : (s.updLink i f).linkD i = f (s.linkD i) :=
  (linkD_updLink ..).trans (if_pos rfl)

theorem linkD_linkEvent (s : State) (i d j : Nat) : (s.linkEvent i d).linkD j = s.linkD j :=
  congrArg (fun m : Table Link => tval ({} : Link) m j) (worn_event ..).links

/-- A link that is lost carries nothing any more, whatever is sent elsewhere then (R432). -/
theorem linkD_loseLink {i : Nat} (h : (s.linkD i).st ≠ 3) : (s.loseLink i).linkD i = (s.linkD i).down := by
  unfold State.loseLink
  rw [if_neg h]
  extract_lets os as s1
  have h1 : s1.linkD i = (s.linkD i).down := linkD_updLink_self ..
  have hkept : Kept s1 ((as.foldl (fun t a => t.answer a.1 a.2) (os.foldl State.resend s1)).sendHeld.linkEvent i 0) :=
    kept_linkEvent (kept_sendHeld (kept_foldl (fun _ a k => kept_answer a.1 a.2 k) _ _ (kept_foldl (fun _ _ k => kept_resend k) _ _
      (.refl s1))))
  rw [hkept.links i (by rw [h1]; exact (by decide : 3 ≠ 2)), h1]

theorem selfidWrite_held {v : BitVec 10} (h : ∃ i < 64, (s.linkD i).st = 2) : exec (.selfidWrite v) s = .next s := by
  obtain ⟨i, hi, hst⟩ := h
  exact if_pos (List.any_eq_true.2 ⟨i, List.mem_range.2 hi, decide_eq_true hst⟩)

theorem selfidWrite_done {v : BitVec 10} (h : ∀ i < 64, (s.linkD i).st ≠ 2) :
    completes (.selfidWrite v) s fun t => t.selfid = v ∧ ∀ i < 64, (t.linkD i).st = if (s.linkD i).st = 0 then 1 else (s.linkD i).st := by
  refine ⟨_, if_neg fun hany => ?_, ?_, fun i hi => ?_⟩
  · obtain ⟨i, hi, hst⟩ := List.any_eq_true.1 hany
    exact h i (List.mem_range.1 hi) (of_decide_eq_true hst)
  · exact List.foldlRecOn (List.range 64) _ (motive := fun t : State => t.selfid = v) rfl fun _ ht _ _ => ht
  · rw [linkD_updLinks, if_pos hi]
    show (if (s.linkD i).st = 0 then _ else s.linkD i : Link).st = _
    split <;> rfl

theorem linkTrained_up {i : Nat} {far : BitVec 10} {act : BitVec 4} (hi : i < 64) (hst : (s.linkD i).st = 1)
    (hg : act &&& (s.linkD i).avail ≠ 0) :
    thenSends (.linkTrained i far act) s fun t => t.linkD i
      = { st := 2, groups := act &&& (s.linkD i).avail, farid := far, restripes := (s.linkD i).restripes
          avail := (s.linkD i).avail, key := s.tick } :=
  ⟨_, linkD_updLink_self s.bump i _, if_neg (by rintro (h | h | h); exacts [by omega, h hst, hg h])⟩

theorem restripeDone_runs {i : Nat} (hi : i < 64) (hst : (s.linkD i).st = 2) (hd : (s.linkD i).dark ≠ 0) :
    completes (.restripeDone i) s fun t => (t.linkD i).st = 2
        ∧ (t.linkD i).groups = (s.linkD i).groups &&& ~~~(s.linkD i).dark ∧ (t.linkD i).dark = 0
        ∧ (t.linkD i).restripes = (s.linkD i).restripes + 1 ∧ (t.linkD i).unacked = (s.linkD i).unacked := by
  refine ⟨_, if_neg (by rintro (h | h | h); exacts [by omega, h hst, hd h]), ?_⟩
  beta_reduce
  rw [linkD_linkEvent, linkD_updLink_self]
  exact ⟨hst, rfl, rfl, rfl, rfl⟩

theorem linkSteps_hold : linkSteps := by
  intro s
  refine ⟨fun v => ⟨selfidWrite_held, selfidWrite_done⟩, fun p v => ⟨fun hp => ?_, fun hp => ?_⟩, fun i hi => ⟨fun far act =>
    ⟨fun h => ?_, linkTrained_up hi⟩, fun d => ⟨fun h => ?_, fun hst hg => ?_, fun hst hg => ?_⟩, fun h => ?_, restripeDone_runs hi,
    fun h => ?_, fun h => ?_⟩⟩
  · exact ⟨{ s with routes := tset 0 s.routes p v }, ⟨tval_tset_self .., fun q hq => (tval_tset ..).trans (if_neg hq)⟩,
      congrArg Host.Outcome.next (if_pos hp)⟩
  · exact congrArg Host.Outcome.next (if_neg (Nat.not_lt.2 hp))
  · exact if_pos (.inr h)
  · exact if_pos (.inr h)
  · refine ⟨_, (if_neg (by rintro (h | h); exacts [by omega, h hst])).trans (if_neg hg), ?_⟩
    exact linkD_updLink_self ..
  · refine ⟨_, (if_neg (by rintro (h | h); exacts [by omega, h hst])).trans (if_pos hg), ?_⟩
    beta_reduce
    rw [linkD_loseLink (by rw [hst]; decide)]
    rfl
  · exact if_pos (.inr h)
  · refine congrArg Host.Outcome.next ((if_neg (by omega)).trans ?_)
    exact if_pos h
  · refine ⟨_, congrArg Host.Outcome.next (if_neg (by omega)), ?_⟩
    beta_reduce
    rw [linkD_loseLink h]
    exact ⟨rfl, rfl, rfl, rfl⟩

end Sys2Proof.Machine
end

section
/-! SUPPORT and O55. Flits and NAKs (R429, R430). -/

namespace Sys2Proof.Machine

variable {s t : State}

/-- A link that has heard one more flit of 16 beats (R429). -/
def Link.hears (l : Link) : Link := { l with heard := l.heard + 16 }

/-- What is left unacknowledged by an acknowledgement, of a link where nothing waits. -/
theorem acked_idle {l : Link} (h : l.toSend = []) (a : BitVec 16) : ∃ n, l.acked a =
    { l with unacked := l.unacked.filter fun u => decide (32768 ≤ (a - u.seq).toNat), toSend := [], replays := n } := by
  unfold Link.acked
  rw [h]
  exact ⟨_, rfl⟩

theorem send_room {l : Link} (h : l.unacked.length < 512) (kind : BitVec 8) (p : List Byte) : l.send kind p =
    { l with
      unacked := l.unacked ++ [{ seq := l.sendSeq, ack := l.expect - 1, kind := kind, payload := p, verifies := true, iv := l.iv }]
      sendSeq := l.sendSeq + 1, iv := l.iv + 1, beat := l.beat + 16 } := if_pos h

/-- What messages bring depends on the requests that are out. -/
theorem msgEvents_congr (h : t.peerOut = s.peerOut) (peer : Nat) (part : List Byte) (ms : List Msg) :
    t.msgEvents peer part ms = s.msgEvents peer part ms := by
  induction ms generalizing part with
  | nil => rfl
  | cons m ms ih =>
    unfold State.msgEvents
    have hm : ∀ m, t.msgEvent peer m = s.msgEvent peer m := fun m => by unfold State.msgEvent; rw [h]
    simp only [ih, hm]

/-- A flit heard by a link that is up (R430). -/
theorem exec_flitReceive {i : Nat} {f : Flit} (hst : (s.linkD i).st = 2) :
    let u := s.updLink i Link.hears
    let l := (s.linkD i).hears
    let d := (f.seq - l.expect).toNat
    let good := f.verifies && decide (f.kind.toNat ≤ 3)
    exec (.flitReceive i f) s =
      if good ∧ d = 0 then
        let u1 := u.updLink i fun l => { (l.acked f.ack) with expect := l.expect + 1, nakSent := false }
        let u2 := if f.kind = 2 then u1.nakRecv i (BitVec.ofNat 16 (ofBytes (f.payload.take 2))) else u1.takeMsgs i f
        .next (if f.kind = 0 then u2 else u2.sendAck i).sendHeld
      else if good ∧ 32768 ≤ d then .next ((u.updLink i fun l => l.acked f.ack).sendAck i).sendHeld
      else if l.nakSent then .next u
      else .next (u.updLink i fun l => { (l.send 2 (toBytes 2 l.expect.toNat)) with nakSent := true }) := by
  intro u l d good
  have hl : u.linkD i = l := linkD_updLink_self ..
  have hup : ¬ (u.linkD i).st ≠ 2 := by rw [hl]; exact not_not.2 hst
  show execFlitReceive i f s = _
  unfold execFlitReceive
  refine (if_neg hup).trans ?_
  dsimp only
  rw [show (s.updLink i fun l => { l with heard := l.heard + 16 }).linkD i = l from hl]
  rfl

theorem flitReceive_down {i : Nat} {f : Flit} (h : (s.linkD i).st ≠ 2) : exec (.flitReceive i f) s = .next s :=
  if_pos (by rw [linkD_updLink_self]; exact h)

theorem linkD_takeMsgs (s : State) (i : Nat) (f : Flit) : (s.takeMsgs i f).linkD i =
    { s.linkD i with part := (s.msgEvents (s.linkD i).farid.toNat (s.linkD i).part (flitMsgs f)).1 } :=
  linkD_updLink_self s i fun l => { l with part := (s.msgEvents (s.linkD i).farid.toNat (s.linkD i).part (flitMsgs f)).1 }

/-- An idle flit that a link with room sends. -/
theorem unacked_sendAck {i : Nat} (h : (s.linkD i).unacked.length < 512) : (s.sendAck i).linkD i =
    { s.linkD i with
      unacked := (s.linkD i).unacked ++ [{ seq := (s.linkD i).sendSeq, ack := (s.linkD i).expect - 1, kind := 0, payload := []
                                           verifies := true, iv := (s.linkD i).iv }]
      sendSeq := (s.linkD i).sendSeq + 1, iv := (s.linkD i).iv + 1, beat := (s.linkD i).beat + 16 } :=
  (linkD_updLink_self ..).trans (send_room h 0 [])

section Flits

variable {i : Nat} {f : Flit} (hst : (s.linkD i).st = 2) (hw : (s.linkD i).toSend = [])
  (hroom : ((s.linkD i).unacked.filter fun u => decide (32768 ≤ (f.ack - u.seq).toNat)).length < 512)
include hst

/-- The flit that was expected is taken, performed and acknowledged. -/
theorem flitReceive_expected (hw : (s.linkD i).toSend = [])
    (hroom : ((s.linkD i).unacked.filter fun u => decide (32768 ≤ (f.ack - u.seq).toNat)).length < 512)
    (hgood : f.verifies = true ∧ f.kind.toNat ≤ 3) (hd : (f.seq - (s.linkD i).expect).toNat = 0)
    (hk : f.kind ≠ 2) : thenSends (.flitReceive i f) s fun t => (t.linkD i).expect = (s.linkD i).expect + 1
        ∧ (t.linkD i).nakSent = false ∧ (t.linkD i).heard = (s.linkD i).heard + 16
        ∧ (t.linkD i).unacked = ((s.linkD i).unacked.filter fun u => decide (32768 ≤ (f.ack - u.seq).toNat))
          ++ (if f.kind = 0 then [] else [{ seq := (s.linkD i).sendSeq, ack := (s.linkD i).expect, kind := 0, payload := []
                                            verifies := true, iv := (s.linkD i).iv }])
        ∧ t.brought = s.brought ++ (s.msgEvents (s.linkD i).farid.toNat (s.linkD i).part (flitMsgs f)).2 := by
  have he := exec_flitReceive (f := f) hst
  extract_lets u l d good u1 u2 at he
  obtain ⟨n, hn⟩ := acked_idle (l := l) hw f.ack
  have h1 : u1.linkD i = { l with
      unacked := l.unacked.filter fun u => decide (32768 ≤ (f.ack - u.seq).toNat), toSend := [], replays := n
      expect := l.expect + 1, nakSent := false } := by
    rw [linkD_updLink_self, linkD_updLink_self]
    show { (l.acked f.ack) with expect := l.expect + 1, nakSent := false } = _
    rw [hn]
  have h2 : u2 = u1.takeMsgs i f := if_neg hk
  have hl2 := (congrArg (State.linkD · i) h2).trans (linkD_takeMsgs u1 i f)
  have hb2 : u2.brought = s.brought ++ (s.msgEvents (s.linkD i).farid.toNat (s.linkD i).part (flitMsgs f)).2 := by
    rw [h2]
    show s.brought ++ (u1.msgEvents (u1.linkD i).farid.toNat (u1.linkD i).part (flitMsgs f)).2 = _
    rw [h1, msgEvents_congr (t := u1) (s := s) rfl]
    rfl
  rw [h1] at hl2
  clear_value u2
  refine ⟨if f.kind = 0 then u2 else u2.sendAck i, ?_, he.trans (if_pos ⟨by simp [good, hgood], hd⟩)⟩
  by_cases hk0 : f.kind = 0
  · beta_reduce
    rw [if_pos hk0, if_pos hk0, hl2, List.append_nil]
    exact ⟨rfl, rfl, rfl, rfl, hb2⟩
  · have ha := unacked_sendAck (s := u2) (i := i) (by rw [hl2]; exact hroom)
    beta_reduce
    rw [if_neg hk0, if_neg hk0, ha, hl2]
    refine ⟨rfl, rfl, rfl, ?_, hb2⟩
    show _ ++ [{ seq := l.sendSeq, ack := l.expect + 1 - 1, kind := 0, payload := [], verifies := true, iv := l.iv : Flit }] = _
    rw [BitVec.add_sub_cancel]
    rfl

/-- A flit that the link has had is acknowledged again. -/
theorem flitReceive_again (hw : (s.linkD i).toSend = [])
    (hroom : ((s.linkD i).unacked.filter fun u => decide (32768 ≤ (f.ack - u.seq).toNat)).length < 512)
    (hgood : f.verifies = true ∧ f.kind.toNat ≤ 3) (hd : 32768 ≤ (f.seq - (s.linkD i).expect).toNat) :
    thenSends (.flitReceive i f) s fun t => (t.linkD i).expect = (s.linkD i).expect
        ∧ (t.linkD i).unacked = ((s.linkD i).unacked.filter fun u => decide (32768 ≤ (f.ack - u.seq).toNat))
          ++ [{ seq := (s.linkD i).sendSeq, ack := (s.linkD i).expect - 1, kind := 0, payload := [], verifies := true
                iv := (s.linkD i).iv }]
        ∧ t.brought = s.brought := by
  have he := exec_flitReceive (f := f) hst
  extract_lets u l d good u1 u2 at he
  obtain ⟨n, hn⟩ := acked_idle (l := l) hw f.ack
  have h1 : (u.updLink i fun l => l.acked f.ack).linkD i = { l with
      unacked := l.unacked.filter fun u => decide (32768 ≤ (f.ack - u.seq).toNat), toSend := [], replays := n } := by
    rw [linkD_updLink_self, linkD_updLink_self]
    exact hn
  have hd' : ¬ d = 0 := by
    show ¬ (f.seq - (s.linkD i).expect).toNat = 0
    omega
  have ha := unacked_sendAck (s := u.updLink i fun l => l.acked f.ack) (i := i) (by rw [h1]; exact hroom)
  rw [h1] at ha
  refine ⟨_, ?_, he.trans ((if_neg fun h => hd' h.2).trans (if_pos ⟨by simp [good, hgood], hd⟩))⟩
  beta_reduce
  rw [ha]
  exact ⟨rfl, rfl, (updLink_brought ..).trans ((updLink_brought ..).trans (updLink_brought ..))⟩

/-- Any other flit is answered with one NAK. -/
theorem flitReceive_nak (hbad : ¬ (f.verifies = true ∧ f.kind.toNat ≤ 3)
      ∨ (0 < (f.seq - (s.linkD i).expect).toNat ∧ (f.seq - (s.linkD i).expect).toNat < 32768)) :
    exec (.flitReceive i f) s = if (s.linkD i).nakSent then .next (s.updLink i Link.hears)
      else .next ((s.updLink i Link.hears).updLink i fun l => { (l.send 2 (toBytes 2 l.expect.toNat)) with nakSent := true }) := by
  have he := exec_flitReceive (f := f) hst
  extract_lets u l d good u1 u2 at he
  have hg : good = true ↔ f.verifies = true ∧ f.kind.toNat ≤ 3 := by simp [good]
  refine he.trans ((if_neg ?_).trans (if_neg ?_)) <;> rw [hg] <;> rintro ⟨h1, h2⟩
  · exact hbad.elim (fun h => h h1) fun h => absurd h2 (Nat.ne_of_gt h.1)
  · exact hbad.elim (fun h => h h1) fun h => absurd h2 (Nat.not_le.2 h.2)

end Flits

theorem flitSteps_hold : flitSteps := by
  intro s i f l ahead good left own heard
  refine ⟨flitReceive_down, fun hst hw hroom => ⟨flitReceive_expected hst hw hroom, flitReceive_again hst hw hroom, fun hbad =>
    ⟨fun hn => (flitReceive_nak hst hbad).trans (if_pos hn), fun hn hlen => ?_⟩⟩, ?_⟩
  · refine ⟨_, (flitReceive_nak hst hbad).trans (if_neg (Bool.eq_false_iff.1 hn)), ?_⟩
    beta_reduce
    rw [linkD_updLink_self, linkD_updLink_self]
    show { (Link.send heard 2 (toBytes 2 l.expect.toNat)) with nakSent := true } = _
    rw [send_room (l := heard) hlen]
  intro q again n
  refine ⟨fun h => congrArg Host.Outcome.next (if_pos h), fun hst hag => ⟨fun hn => ?_, fun hn => ?_⟩⟩
  · refine ⟨_, congrArg Host.Outcome.next ((if_neg ?_).trans (if_pos hn)), ?_⟩
    · exact fun h => h.elim (fun h => h hst) hag
    · beta_reduce
      rw [linkD_loseLink (by rw [hst]; decide)]
      rfl
  · refine ⟨_, congrArg Host.Outcome.next ((if_neg ?_).trans (if_neg hn)), ?_⟩
    · exact fun h => h.elim (fun h => h hst) hag
    · exact linkD_updLink_self ..

end Sys2Proof.Machine
end

section
/-! SUPPORT. What lasts while a contribution lands at its collective (R436, R437). -/

namespace Sys2Proof.Machine

variable {s0 s : State} {v : View}

theorem kept_writeAll (n kind : Nat) (hub : Bool) (l : List (Piece × Nat)) (h : Kept s0 s) : Kept s0 (s.writeAll v n kind hub l) := by
  induction l generalizing s with
  | nil => exact h
  | cons p l ih =>
    unfold State.writeAll
    dsimp only
    have k := kept_writeT v p.1.tgt n hub p.2 h
    refine ih ?_
    split
    · exact kept_peerWrite _ _ _ _ _ _ _ _ k
    · exact kept_peerWrite _ _ _ _ _ _ _ _ (kept_peerRead _ _ _ _ _ _ k)
    · exact k

theorem kept_resolveAll (n al kind : Nat) (wr : Bool) (l : List (Nat × Word)) (h : Kept s0 s) :
    Kept s0 (s.resolveAll v n al kind wr l).1 := by
  induction l generalizing s with
  | nil => exact h
  | cons p l ih =>
    have hr := kept_resolve v p.2 n al kind wr h
    rw [State.resolveAll]
    split
    · exact hr
    · dsimp only
      split <;> exact ih hr

theorem kept_opFault {id : Nat} {o : AsyncOp} {e : Raise} (h : Kept s0 s) : Kept s0 (s.opFault id o e) :=
  kept_ite ((kept_hold h).of_same rfl) (kept_opFail h)

theorem kept_savePut (fn ctx base : Nat) (fs : List (Nat × Nat × Nat)) (h : Kept s0 s) : Kept s0 (s.savePut fn ctx base fs) :=
  kept_foldl (fun _ _ h => kept_wsNotes _ _ _ _ (kept_hubStore _ _ _ _ _ _ h)) _ _ h

theorem kept_winFollow {t : State} {w : Nat} (h : Kept s0 t) : Kept s0 (s.winFollow t w) := kept_ite h (kept_savePut _ _ _ _ h)

theorem kept_collRead {a : Word} {n : Nat} (h : Kept s0 s) : Kept s0 (s.collRead v a n).1 := by
  induction n generalizing s a with
  | zero => exact h
  | succ n ih =>
    unfold State.collRead
    extract_lets r
    have hr : Kept s0 r.1 := kept_hubRead _ _ _ h
    split
    · exact hr
    · split <;> exact ih hr

theorem kept_collWrite {id : Nat} {a : Word} {bs : List Byte} (h : Kept s0 s) : Kept s0 (s.collWrite v id a bs).1 := by
  unfold State.collWrite
  extract_lets r
  have hr : Kept s0 r.1 := kept_resolveAll _ _ _ _ _ h
  split
  · exact hr
  · split
    · exact hr
    · refine (kept_writeAll _ _ _ _ ?_).of_same rfl
      unfold State.chargeLine
      split
      · exact kept_ite hr (kept_charge _ _ hr)
      · exact hr

theorem kept_collMark {id : Nat} {o : AsyncOp} (h : Kept s0 s) : Kept s0 (s.collMark id o) := by
  unfold State.collMark
  extract_lets r
  have hr : Kept s0 r.1 := kept_noteWord _ _ _ _ _ h
  split
  · exact h
  · split
    · exact kept_opFault (hr.of_same rfl)
    · exact hr.of_same rfl

theorem kept_collSend {id l p : Nat} {bs : List Byte} (h : Kept s0 s) : Kept s0 (s.collSend v id l p bs) := by
  unfold State.collSend
  exact kept_peerSend _ h

theorem kept_collLine {id : Nat} {o : AsyncOp} {l : Nat} (h : Kept s0 s) : Kept s0 (s.collLine id o l) := by
  unfold State.collLine
  extract_lets v' bs r src o1 s1 s2
  have hr : Kept s0 r.1 := kept_collWrite (h.of_same rfl)
  split
  · exact h.of_same rfl
  · split
    · exact kept_opFault (hr.of_same rfl)
    · have h1 : Kept s0 s1 := hr.of_same rfl
      exact kept_collMark (kept_ite (kept_foldl (fun _ _ k => kept_collSend k) _ _ h1) h1)

theorem kept_collOwn {id : Nat} {o : AsyncOp} {l : Nat} (h : Kept s0 s) : Kept s0 (s.collOwn id o l) := by
  unfold State.collOwn
  extract_lets v' self r o1 me here dl tos
  have hr : Kept s0 r.1 := kept_collRead h
  split
  · exact kept_opFault hr
  · extract_lets s1
    have h1 : Kept s0 s1 := kept_foldl (fun _ _ k => kept_collSend k) _ _ hr
    exact kept_ite (kept_collLine h1) (h1.of_same rfl)

theorem kept_contribLand {op line port : Nat} {data : List Byte} (h : Kept s0 s) : Kept s0 (s.contribLand op line port data) := by
  unfold State.contribLand
  split
  · exact h
  · exact kept_ite h (kept_ite (kept_ite h (h.of_same rfl))
      (kept_ite (kept_ite h (kept_winFollow (kept_collOwn h))) (kept_winFollow (kept_collLine h))))

theorem kept_peerContrib {peer kind ty n line : Nat} {data : List Byte} (h : Kept s0 s) :
    Kept s0 (s.peerContrib peer kind ty n line data) := by
  unfold State.peerContrib
  split
  · exact kept_contribLand h
  · exact h

end Sys2Proof.Machine
end

section
/-! SUPPORT and O55. The requests of peers (R217, R305, R399, R435). -/

namespace Sys2Proof.Machine

variable {s t : State}

/-! ### What a place of memory depends on -/

/-- What error responses depend on, with memory and the requests performed. -/
def State.located (s : State) : Table Nat × Table VbState × Table Nat × List Nat × List Nat × List Nat × Table Nat × Table Byte :=
  (s.homes, s.vbs, s.repairs, s.lostDies, s.badMac, s.badNode, s.owner, s.mem)

/-- A state of what is located alone. -/
def State.placed (s : State) : State :=
  { homes := s.homes, vbs := s.vbs, repairs := s.repairs, lostDies := s.lostDies, badMac := s.badMac, badNode := s.badNode
    owner := s.owner, mem := s.mem }

theorem physErr_placed (s : State) (pa : Nat) : s.physErr pa = s.placed.physErr pa := rfl

theorem placed_congr (h : t.located = s.located) : t.placed = s.placed := by
  simp only [State.located, Prod.mk.injEq] at h
  obtain ⟨h1, h2, h3, h4, h5, h6, h7, h8⟩ := h
  unfold State.placed
  rw [h1, h2, h3, h4, h5, h6, h7, h8]

theorem physErr_congr (h : t.located = s.located) (pa : Nat) : t.physErr pa = s.physErr pa := by
  rw [physErr_placed, placed_congr h, ← physErr_placed]

theorem rdBytes_of_mem (h : t.mem = s.mem) (l n : Nat) : t.rdBytes l n = s.rdBytes l n := by
  induction n generalizing l with
  | zero => rfl
  | succ n ih => rw [State.rdBytes, State.rdBytes, ih, State.rdByte, State.rdByte, h]

theorem wrBytes_of_mem (h : t.mem = s.mem) (l : Nat) (bs : List Byte) : (t.wrBytes l bs).mem = (s.wrBytes l bs).mem := by
  induction bs generalizing s t l with
  | nil => exact h
  | cons b bs ih => exact ih (show tset 0 t.mem l b = tset 0 s.mem l b by rw [h]) _

/-- What the hub writes at a bank is in memory. -/
theorem bankWrite_mem (h : t.mem = s.mem) (l n x : Nat) : (t.bankWrite l n x).mem = (s.wr l n x).mem := by
  unfold State.bankWrite
  rw [countLines_mem]
  exact wrBytes_of_mem ((hostOwnAt_mem (t.recall (l / 128)) l).trans h) _ _

theorem rcb_of_mem (h : t.mem = s.mem) (l : Nat) : t.rcb l = s.rcb l := by
  unfold State.rcb
  simp only [rd_of_mem h]

/-! ### Owners (R399) -/

theorem ownerOf_tput (s : State) (f w j : Nat) :
    ({ s with owner := tput s.owner f w } : State).ownerOf j = if j = f then w else s.ownerOf j := tval_tput ..

/-- Every frame passes where nobody, the world or every world owns it. -/
theorem takeOwners_ok (s : State) (world : Nat) (priv : Bool) (fs : List Nat) :
    (s.takeOwners world priv fs).2 = true ↔ ∀ f ∈ fs, s.ownerOf f = 255 ∨ s.ownerOf f = world ∨ s.ownerOf f = 64 := by
  induction fs generalizing s with
  | nil => exact ⟨fun _ _ hf => (by cases hf), fun _ => rfl⟩
  | cons f fs ih =>
    rw [List.forall_mem_cons]
    unfold State.takeOwners
    dsimp only
    split
    · next h =>
      rw [ih]
      simp only [ownerOf_tput, h, true_or, true_and]
      refine forall₂_congr fun j _ => ?_
      split
      · next e =>
        rw [e, h]
        split <;> simp
      · rfl
    · next h =>
      split
      · next h2 => rw [ih]; exact ⟨fun k => ⟨.inr h2, k⟩, fun k => k.2⟩
      · next h2 => exact ⟨fun k => (by cases k), fun k => absurd (k.1.resolve_left h) h2⟩

/-- Frames that nobody owned are the world's then, and no other changes its owner. -/
theorem takeOwners_owner (s : State) (world : Nat) (priv : Bool) (fs : List Nat) (h : (s.takeOwners world priv fs).2 = true) (j : Nat) :
    (s.takeOwners world priv fs).1.ownerOf j
      = if j ∈ fs ∧ s.ownerOf j = 255 then (if world = 0 ∧ priv then 64 else world) else s.ownerOf j := by
  induction fs generalizing s with
  | nil => exact (if_neg fun k => by cases k.1).symm
  | cons f fs ih =>
    unfold State.takeOwners at h ⊢
    dsimp only at h ⊢
    split at h
    · next hf =>
      rw [if_pos hf, ih _ h]
      simp only [ownerOf_tput, List.mem_cons]
      by_cases e : j = f
      · subst e
        simp only [if_true, true_or, true_and, hf]
        exact ite_self _
      · simp only [e, if_false, false_or]
    · next hf =>
      split at h
      · next h2 =>
        rw [if_neg hf, if_pos h2, ih _ h]
        by_cases e : j = f
        · subst e
          simp only [hf, and_false, if_false]
        · simp only [List.mem_cons, e, false_or]
      · cases h

/-- It takes owners and nothing else, whatever has been performed. -/
theorem takeOwners_peerIn (s : State) (p : List Nat) (world : Nat) (priv : Bool) (fs : List Nat) :
    ({ s with peerIn := p } : State).takeOwners world priv fs
      = ({ (s.takeOwners world priv fs).1 with peerIn := p }, (s.takeOwners world priv fs).2) := by
  induction fs generalizing s with
  | nil => rfl
  | cons f fs ih =>
    have ho : ({ s with peerIn := p } : State).ownerOf f = s.ownerOf f := rfl
    unfold State.takeOwners
    rw [ho]
    by_cases h : s.ownerOf f = 255
    · simp only [if_pos h]
      exact ih { s with owner := tput s.owner f (if world = 0 ∧ priv then 64 else world) }
    · by_cases h2 : s.ownerOf f = world ∨ s.ownerOf f = 64
      · simp only [if_neg h, if_pos h2]
        exact ih s
      · simp only [if_neg h, if_neg h2]

theorem takeOwners_mem (s : State) (world : Nat) (priv : Bool) (fs : List Nat) : (s.takeOwners world priv fs).1.mem = s.mem := by
  induction fs generalizing s with
  | nil => rfl
  | cons f fs ih =>
    unfold State.takeOwners
    dsimp only
    split
    · exact ih _
    · split
      · exact ih _
      · rfl

/-! ### A request is performed (R217, R399, R435) -/

/-- A line that a peer's request reaches comes to the hub. -/
def State.lineReached (s : State) (l : Nat) : State := (((s.hostOwnAt (128 * l)).noteNode (128 * l)).verifyLine l).recall l

theorem cached_lineReached (l : Nat) : Cached s (s.lineReached l) :=
  cached_recall _ (cached_verifyLine _ (cached_noteNode _ (cached_hostOwnAt _ (.refl s))))

theorem located_hostOwnAt (s : State) (l : Nat) : (s.hostOwnAt l).located = s.located := by
  unfold State.hostOwnAt
  split <;> rfl

theorem located_noteNode (s : State) (l : Nat) : (s.noteNode l).located = s.located := by
  unfold State.noteNode
  split
  · rfl
  · split <;> rfl

theorem located_verifyLine (s : State) (l : Nat) : (s.verifyLine l).located = s.located := by
  unfold State.verifyLine
  dsimp only
  split <;> rfl

theorem located_recall (s : State) (l : Nat) : (s.recall l).located = s.located := rfl

theorem located_lineReached (s : State) (l : Nat) : (s.lineReached l).located = s.located := by
  rw [State.lineReached, located_recall, located_verifyLine, located_noteNode, located_hostOwnAt]

theorem cached_linesReached (ls : List Nat) (s : State) : Cached s (ls.foldl State.lineReached s) :=
  cached_foldl (fun _ _ h => h.trans (cached_lineReached _)) _ _ (.refl s)

theorem located_linesReached (ls : List Nat) (s : State) : (ls.foldl State.lineReached s).located = s.located :=
  List.foldlRecOn ls _ (motive := fun t : State => t.located = s.located) rfl fun _ ht _ _ => (located_lineReached ..).trans ht

theorem Cached.peerIn (h : Cached s t) : t.peerIn = s.peerIn := (congrArg State.peerIn h.rest :)

theorem cached_peerDo (s : State) (r : PeerReq) : Cached s (s.peerDo r).1 := by
  have hb : ∀ l n x, Cached s (s.bankWrite l n x) := fun l n x => cached_bankWrite l n x (.refl s)
  unfold State.peerDo
  extract_lets n old
  split
  · exact .refl s
  · exact hb ..
  · exact hb ..
  · exact hb ..
  · unfold State.peerRing
    extract_lets b e head
    split
    · exact .refl s
    · split
      · exact cached_bankWrite _ _ _ (hb ..)
      · exact hb ..

theorem answer_data (s : State) (k : Nat) (a : PeerAns) :
    (tget (s.answer k a).peerAns k).map PeerAns.data = some a.data
      ∧ (tget (s.answer k a).peerAns k).map PeerAns.peer = some a.peer := by
  unfold State.answer
  split <;> dsimp only <;> rw [tget_tput_self] <;> exact ⟨rfl, rfl⟩

theorem answer_ownerOf (s : State) (k : Nat) (a : PeerAns) (f : Nat) : (s.answer k a).ownerOf f = s.ownerOf f := by
  unfold State.answer
  split <;> rfl

section Request

variable (s : State) (r : PeerReq)

/-- The state that has taken the frames of a request. -/
def State.ownsFor : State := (s.takeOwners r.world false ((s.peerSpans r).flatMap spanFrames)).1

/-- Every frame that a request reaches passes. -/
def State.heldFor : Prop := ∀ f ∈ (s.peerSpans r).flatMap spanFrames, s.ownerOf f = 255 ∨ s.ownerOf f = r.world ∨ s.ownerOf f = 64

/-- Every line that it reaches answers. -/
def State.wholeFor : Prop := ∀ l ∈ (s.peerSpans r).flatMap spanLines, (s.ownsFor r).physErr (128 * l) = none

/-- What follows once the frames are taken, or not, and the lines reached. -/
def State.peerRun (t : State) (ok : Bool) (r : PeerReq) (ls : List Nat) : Host.Outcome State Fault Refusal :=
  if ¬ ok = true ∨ (ls.any fun l => (t.physErr (128 * l)).isSome) = true then
    .next (t.answer (peerKey r.peer r.id) { peer := r.peer, pa := r.pa, data := none })
  else .next ((t.peerDo r).1.answer (peerKey r.peer r.id) { peer := r.peer, pa := r.pa, data := some (t.peerDo r).2 })

/-- The state in which a request is performed. -/
def State.reachedFor : State := ((s.peerSpans r).flatMap spanLines).foldl State.lineReached
  { s.ownsFor r with peerIn := (peerKey r.peer r.id :: s.peerIn).take 65536 }

theorem exec_peerRun (hk : peerKey r.peer r.id ∉ s.peerIn) (hop : r.op ≤ 4) : exec (.peerRequestArrive r) s = State.peerRun
    (s.reachedFor r) (s.takeOwners r.world false ((s.peerSpans r).flatMap spanFrames)).2 r ((s.peerSpans r).flatMap spanLines) := by
  refine (if_neg (by simpa using hk)).trans ((if_neg (by omega : ¬ r.op = 5)).trans ?_)
  exact congrArg (fun q : State × Bool => State.peerRun (((s.peerSpans r).flatMap spanLines).foldl State.lineReached q.1) q.2 r
    ((s.peerSpans r).flatMap spanLines))
    (takeOwners_peerIn s ((peerKey r.peer r.id :: s.peerIn).take 65536) r.world false ((s.peerSpans r).flatMap spanFrames))

/-- A new request is refused, or performed where its frames and lines allow it. -/
theorem exec_peerRequest (hk : peerKey r.peer r.id ∉ s.peerIn) (hop : r.op ≤ 4) :
    ∃ t : State, t.located = (s.ownsFor r).located ∧ peerKey r.peer r.id ∈ t.peerIn
      ∧ ((¬ s.heldFor r ∨ ¬ s.wholeFor r) → exec (.peerRequestArrive r) s
          = .next (t.answer (peerKey r.peer r.id) { peer := r.peer, pa := r.pa, data := none }))
      ∧ (s.heldFor r → s.wholeFor r → exec (.peerRequestArrive r) s
          = .next ((t.peerDo r).1.answer (peerKey r.peer r.id) { peer := r.peer, pa := r.pa, data := some (t.peerDo r).2 })) := by
  have he := exec_peerRun s r hk hop
  have hok : _ ↔ s.heldFor r := takeOwners_ok s r.world false ((s.peerSpans r).flatMap spanFrames)
  have hloc : (s.reachedFor r).located = (s.ownsFor r).located := located_linesReached _ _
  have hp : (s.reachedFor r).peerIn = (peerKey r.peer r.id :: s.peerIn).take 65536 := (cached_linesReached _ _).peerIn
  generalize s.reachedFor r = t at he hloc hp
  have hwhole : ((((s.peerSpans r).flatMap spanLines).any fun l => (t.physErr (128 * l)).isSome) = true) ↔ ¬ s.wholeFor r := by
    simp only [List.any_eq_true, State.wholeFor, physErr_congr hloc, Option.isSome_iff_ne_none, not_forall, exists_prop]
  have hno := or_congr (not_congr hok) hwhole
  exact ⟨t, hloc, by rw [hp]; exact List.mem_cons_self .., fun h => he.trans (if_pos (hno.2 h)),
    fun h1 h2 => he.trans (if_neg fun h => (hno.1 h).elim (fun h => h h1) fun h => h h2)⟩

end Request

/-! ### What each operation does and answers -/

variable {r : PeerReq}

theorem peerDo_ring (h : r.op = 4) : t.peerDo r = t.peerRing r := by
  unfold State.peerDo
  rw [h]
  rfl

section Operations

variable (hm : t.mem = s.mem)
include hm

theorem peerDo_read (h : r.op = 0) : (t.peerDo r).2 = s.rdBytes r.pa (peerSize r) ∧ (t.peerDo r).1.mem = s.mem := by
  unfold State.peerDo
  rw [h]
  exact ⟨rdBytes_of_mem hm _ _, hm⟩

theorem peerDo_write (h : r.op = 1) :
    (t.peerDo r).2 = [] ∧ (t.peerDo r).1.mem = (s.wr r.pa (peerSize r) (ofBytes r.data)).mem := by
  unfold State.peerDo
  rw [h]
  exact ⟨rfl, bankWrite_mem hm ..⟩

theorem peerDo_atomic (h : r.op = 2) : (t.peerDo r).2 = s.rdBytes r.pa (peerSize r) ∧ (t.peerDo r).1.mem
    = (s.wr r.pa (peerSize r) (peerAtomic r (ofBytes (s.rdBytes r.pa (peerSize r))))).mem := by
  unfold State.peerDo
  rw [h]
  dsimp only
  rw [rdBytes_of_mem hm]
  exact ⟨rfl, bankWrite_mem hm ..⟩

theorem peerDo_barrier (h : r.op = 3) : (t.peerDo r).2 = s.rdBytes r.pa (peerSize r) ∧ (t.peerDo r).1.mem
    = (s.wr r.pa 16 ((BarOp.ofReq r.sub r.data).new (BarObj.ofNat (ofBytes (s.rdBytes r.pa (peerSize r))))).toNat).mem := by
  have hn : peerSize r = 16 := (if_neg fun k => by omega).trans (if_pos h)
  unfold State.peerDo
  rw [h]
  dsimp only
  rw [rdBytes_of_mem hm, hn]
  exact ⟨rfl, bankWrite_mem hm ..⟩

/-- The indices of the ring are not those that the peer read. -/
theorem peerRing_moved (h : r.data.take 8 ≠ toBytes 4 (s.rcb r.pa).pidx ++ toBytes 4 (s.rcb r.pa).cidx) :
    (t.peerRing r).2 = toBytes 4 (s.rcb r.pa).pidx ++ toBytes 4 (s.rcb r.pa).cidx ∧ (t.peerRing r).1.mem = s.mem := by
  unfold State.peerRing
  rw [rcb_of_mem hm]
  dsimp only
  rw [if_pos h]
  exact ⟨rfl, hm⟩

theorem peerRing_enq (h : r.data.take 8 = toBytes 4 (s.rcb r.pa).pidx ++ toBytes 4 (s.rcb r.pa).cidx) (hs : r.sub = 0) :
    (t.peerRing r).2 = toBytes 4 (s.rcb r.pa).pidx ++ toBytes 4 (s.rcb r.pa).cidx
      ∧ (t.peerRing r).1.mem = ((s.wr (ofBytes ((r.data.drop 8).take 8)) (r.data.drop 16).length (ofBytes (r.data.drop 16))).wr r.pa 4
        (((s.rcb r.pa).pidx + 1) % 2 ^ 32)).mem := by
  unfold State.peerRing
  rw [rcb_of_mem hm]
  dsimp only
  rw [if_neg (not_not.2 h), if_pos hs]
  exact ⟨rfl, bankWrite_mem (bankWrite_mem hm ..) ..⟩

theorem peerRing_deq (h : r.data.take 8 = toBytes 4 (s.rcb r.pa).pidx ++ toBytes 4 (s.rcb r.pa).cidx) (hs : r.sub ≠ 0) :
    (t.peerRing r).2 = toBytes 4 (s.rcb r.pa).pidx ++ toBytes 4 (s.rcb r.pa).cidx
        ++ s.rdBytes (ofBytes ((r.data.drop 8).take 8)) (8 * (s.rcb r.pa).esize)
      ∧ (t.peerRing r).1.mem = (s.wr (r.pa + 8) 4 (((s.rcb r.pa).cidx + 1) % 2 ^ 32)).mem := by
  unfold State.peerRing
  rw [rcb_of_mem hm]
  dsimp only
  rw [rdBytes_of_mem hm, if_neg (not_not.2 h), if_neg hs]
  exact ⟨rfl, bankWrite_mem hm ..⟩

end Operations

theorem peerRequests_hold : peerRequests := by
  intro s r k n old frames lines q held whole answers ev
  have hans : ∀ (t : State) (d : Option (List Byte)), k ∈ t.peerIn → answers (t.answer k { peer := r.peer, pa := r.pa, data := d }) d :=
    fun t d hk => ⟨(answer_data ..).1, (answer_data ..).2, by rw [(kept_answer k _ (.refl t)).peerIn]; exact hk⟩
  refine ⟨fun hk => if_pos (by simpa using hk), fun hk hop => ?_, fun hk hop h => ?_, fun hk hop hheld hwhole => ?_⟩
  · refine ⟨_, (if_neg (by simpa using hk)).trans (if_pos hop), hans _ _ ?_⟩
    rw [(kept_peerContrib (.refl _)).peerIn]
    exact List.mem_cons_self ..
  · obtain ⟨t, hloc, hkt, hno, -⟩ := exec_peerRequest s r hk hop
    have hm : t.mem = s.mem := (congrArg (fun p : _ => p.2.2.2.2.2.2.2) hloc).trans (takeOwners_mem ..)
    exact ⟨_, hno h, hans t none hkt, (answer_mem ..).trans hm⟩
  · obtain ⟨t, hloc, hkt, -, hyes⟩ := exec_peerRequest s r hk hop
    have hm : t.mem = s.mem := (congrArg (fun p : _ => p.2.2.2.2.2.2.2) hloc).trans (takeOwners_mem ..)
    have c := cached_peerDo t r
    have hkd : k ∈ (t.peerDo r).1.peerIn := by rw [c.peerIn]; exact hkt
    have hdone : ∀ d m, (t.peerDo r).2 = d ∧ (t.peerDo r).1.mem = m → completes ev s fun t => answers t (some d) ∧ t.mem = m :=
      fun d m ⟨hd, hmem⟩ => ⟨_, hyes hheld hwhole, hd ▸ hans _ _ hkd, (answer_mem ..).trans hmem⟩
    refine ⟨fun h => hdone _ _ (peerDo_read hm h), fun h => hdone _ _ (peerDo_write hm h), fun h => hdone _ _ (peerDo_atomic hm h),
      fun h => hdone _ _ (peerDo_barrier hm h), fun _ => ⟨_, hyes hheld hwhole, fun f hf => ?_⟩, fun h => ?_⟩
    · have hown : t.owner = (s.ownsFor r).owner := congrArg (fun p : _ => p.2.2.2.2.2.2.1) hloc
      rw [answer_ownerOf, State.ownerOf, c.owner, hown]
      refine (takeOwners_owner s r.world false frames ((takeOwners_ok ..).2 hheld) f).trans ?_
      simp only [hf, true_and, Bool.false_eq_true, and_false, if_false]
    · rw [peerDo_ring h] at hdone
      exact ⟨fun he => hdone _ _ (peerRing_moved hm he), fun he hs => hdone _ _ (peerRing_enq hm he hs),
        fun he hs => hdone _ _ (peerRing_deq hm he hs)⟩

end Sys2Proof.Machine
end

section
/-! SUPPORT and O55. The responses of peers (R194, R305, R435). -/

namespace Sys2Proof.Machine

variable {s t : State} {o : PeerOut} {req : Nat} {data : Option (List Byte)}

/-- A response to a request that is out lands its data. -/
theorem exec_peerResponse_some {d : List Byte} (h : s.peerOut.find? (fun o => decide (o.id = req)) = some o) :
    exec (.peerResponseArrive req (some d)) s = .next (s.peerLand o d).sendHeld := by
  show execPeerResponseArrive req (some d) s = _
  unfold execPeerResponseArrive
  rw [h]

/-- An error response fails it. -/
theorem exec_peerResponse_none (h : s.peerOut.find? (fun o => decide (o.id = req)) = some o) :
    exec (.peerResponseArrive req none) s = .next (s.peerFail o).sendHeld := by
  show execPeerResponseArrive req none s = _
  unfold execPeerResponseArrive
  rw [h]

/-- A step that waits has its answer. -/
theorem exec_peerResponse_told (h : s.peerOut.find? (fun o => decide (o.id = req)) = some o) (ha : o.asker ≠ .none) :
    exec (.peerResponseArrive req data) s = .next ((s.peerOver o).tell o data).sendHeld := by
  cases data with
  | some d => exact (exec_peerResponse_some h).trans (congrArg (fun t : State => Host.Outcome.next t.sendHeld) (if_pos ha))
  | none => exact (exec_peerResponse_none h).trans (congrArg (fun t : State => Host.Outcome.next t.sendHeld) (if_pos ha))

/-- A word that a copy wrote at a peer counts. -/
theorem peerLand_counted {d : List Byte} {a : AsyncOp} (hn : o.asker = .none) (hop : o.op ≠ 0) (hk : o.msg.kind = 1)
    (ha : tget s.ops o.op = some a) (hc : a.isCopy = true) :
    s.peerLand o d = (s.peerOver o).winFollow
      { s.peerOver o with ops := tput s.ops o.op { a with landed := a.landed + 8 } } a.wg := by
  unfold State.peerLand
  extract_lets s1
  have ha1 : tget s1.ops o.op = some a := ha
  rw [if_neg (not_not.2 hn), if_pos hop, ha1]
  dsimp only
  unfold State.wordLand
  rw [ha1, hk]
  dsimp only
  rw [hc]
  rfl

/-- No other request is for the pending result of a group. -/
theorem no_other_pending (ho : o.id = req) (h : ∀ p ∈ s.peerOut, p.id ≠ req → p.grp ≠ o.grp) :
    ((s.peerOver o).peerOut.any fun p => decide (p.grp = o.grp) && decide (p.pend = o.pend)) = false := by
  refine List.any_eq_false.2 fun p hp => ?_
  obtain ⟨hm, hid⟩ := List.mem_filter.1 hp
  have hne : p.grp ≠ o.grp := h p hm (ho ▸ of_decide_eq_true hid)
  simp [hne]

/-- What a response does to the only pending result of a group. -/
def Pend.landed (p : Pend) (o : PeerOut) (r : RegRef) (x : Option Word) : Pend :=
  { p with ready := true, writes := p.writes.filterMap fun w => w.fill r o.lane x }

theorem grp?_pendFill {x : Group} {p : Pend} {r : RegRef} {v : Option Word} (hx : s.grp? o.grp = some x) (hs : x.snap = none)
    (hp : x.pend = [p]) (hid : p.id = o.pend) (hpend : o.pend ≠ 0) (hr : o.reg = some r)
    (hout : (s.peerOut.any fun p => decide (p.grp = o.grp) && decide (p.pend = o.pend)) = false) :
    (s.pendFill o v).grp? o.grp = some { x with pend := [p.landed o r v] } := by
  unfold State.pendFill
  rw [hout]
  refine (grp?_updGrp_of hx _).trans (congrArg some ?_)
  unfold Group.mapPend
  rw [hp, hs]
  simp only [List.map_cons, List.map_nil, Option.map_none, hr]
  rw [if_neg (by rintro (h | h); exacts [h hid, hpend h])]
  simp [Pend.landed]

theorem ext64_whole (n : Nat) : ext64 64 false (n % 2 ^ 64) = BitVec.ofNat 64 n := by
  show BitVec.ofInt 64 ((n % 2 ^ 64 : Nat) : Int) = _
  rw [BitVec.ofInt_natCast]
  exact BitVec.eq_of_toNat_eq (by simp)

/-- Where a group is, a late trap is its own. -/
theorem grp?_late {g fn ctx : Nat} {r : Raise} {eng : Bool} {x : Group} (hx : s.grp? g = some x) : (s.late g fn ctx r eng).grp? g
    = some { x with delayed := x.delayed ++ [{ cause := r.cause, addr := r.addr, info := r.info }] } := by
  unfold State.late
  rw [hx]
  exact grp?_updGrp_of hx _

theorem late_peerOut (s : State) (g fn ctx : Nat) (r : Raise) (eng : Bool) : (s.late g fn ctx r eng).peerOut = s.peerOut := by
  unfold State.late
  split
  · exact updGrp_peerOut ..
  · exact (congrArg State.peerOut (cached_putRec _ _ _ (.refl s)).rest :)

section Value

variable {x : Group} {p : Pend} {n : Nat} (h : s.peerOut.find? (fun o => decide (o.id = req)) = some o)
  (hn : o.asker = .none) (hop : o.op = 0) (hpend : o.pend ≠ 0) (hout : ∀ p ∈ s.peerOut, p.id ≠ req → p.grp ≠ o.grp)
  (hx : s.grp? o.grp = some x) (hs : x.snap = none) (hp : x.pend = [p]) (hid : p.id = o.pend) (hr : o.reg = some (.s n))
  (hwr : p.writes = [.scalar (.s n) 0])
include h hpend hout hx hs hp hid hr

/-- Once the request is over, the pending result is filled. -/
theorem response_fills (v : Option Word) : (∀ p ∈ ((s.peerOver o).pendFill o v).peerOut, p.id ≠ req)
    ∧ ((s.peerOver o).pendFill o v).grp? o.grp = some { x with pend := [p.landed o (.s n) v] } := by
  have ho : o.id = req := of_decide_eq_true (List.find?_some h :)
  refine ⟨fun p hm => ?_, grp?_pendFill (s := s.peerOver o) hx hs hp hid hpend hr (no_other_pending ho hout)⟩
  rw [State.pendFill, updGrp_peerOut] at hm
  exact ho ▸ of_decide_eq_true (List.mem_filter.1 hm).2

include hn hop hwr

theorem response_value {d : List Byte} (hw : o.w = 64) (hsgn : o.sgn = false) :
    ∃ u : State, exec (.peerResponseArrive req (some d)) s = .next u.sendHeld ∧ (∀ p ∈ u.peerOut, p.id ≠ req)
      ∧ u.grp? o.grp = some { x with
          pend := [{ p with ready := true, writes := [.scalar (.s n) (BitVec.ofNat 64 (ofBytes d))] }] } := by
  obtain ⟨hover, hg⟩ := response_fills h hpend hout hx hs hp hid hr (some (BitVec.ofNat 64 (ofBytes d)))
  refine ⟨_, (exec_peerResponse_some h).trans (congrArg (fun t : State => Host.Outcome.next t.sendHeld) ?_), hover, hg.trans ?_⟩
  · unfold State.peerLand
    extract_lets s1
    rw [if_neg (not_not.2 hn), if_neg (not_not.2 hop), hw, hsgn, ext64_whole]
  · simp [Pend.landed, hwr, RegWrite.fill, RegRef.same]

theorem response_error (hgrp : o.grp ≠ 0) :
    ∃ u : State, exec (.peerResponseArrive req none) s = .next u.sendHeld ∧ (∀ p ∈ u.peerOut, p.id ≠ req)
      ∧ ∃ t : Trap, u.grp? o.grp = some { x with pend := [{ p with ready := true, writes := [] }], delayed := x.delayed ++ [t] }
        ∧ t.cause = 12 ∧ t.addr = o.addr := by
  obtain ⟨hover, hg⟩ := response_fills h hpend hout hx hs hp hid hr none
  refine ⟨((s.peerOver o).pendFill o none).late o.grp o.fn o.ctx
    { cause := 12, addr := o.addr, info := BitVec.ofNat 64 (o.lane + 32 * o.acc) } false,
    (exec_peerResponse_none h).trans (congrArg (fun t : State => Host.Outcome.next t.sendHeld) ?_), ?_,
    { cause := 12, addr := o.addr, info := BitVec.ofNat 64 (o.lane + 32 * o.acc) }, (grp?_late hg).trans ?_, rfl, rfl⟩
  · unfold State.peerFail
    extract_lets s1 r
    rw [if_neg (not_not.2 hn), if_neg (not_not.2 hop), if_pos hgrp]
  · rw [late_peerOut]
    exact hover
  · simp [Pend.landed, hwr, RegWrite.fill]

end Value

theorem peerResponses_hold : peerResponses := by
  intro s req data ev
  refine ⟨fun h => ?_, fun o h => ?_⟩
  · show execPeerResponseArrive req data s = _
    unfold execPeerResponseArrive
    rw [h]
  intro s1
  refine ⟨exec_peerResponse_told h, fun hn hop hk hd a ha hc => ?_, ?_⟩
  · obtain ⟨d, rfl⟩ := Option.ne_none_iff_exists'.1 hd
    exact (exec_peerResponse_some h).trans (congrArg (fun t : State => Host.Outcome.next t.sendHeld)
      (peerLand_counted hn hop hk ha hc))
  · intro hn hop hgrp hpend hout x p n hx hs hp hid hr hw hsgn hwr
    cases data with
    | some d =>
      obtain ⟨u, he, hover, hg⟩ := response_value h hn hop hpend hout hx hs hp hid hr hwr (d := d) hw hsgn
      exact ⟨u, he, hover, _, hg, fun d' hd => by cases hd; exact ⟨rfl, rfl⟩, fun hd => (nomatch hd)⟩
    | none =>
      obtain ⟨u, he, hover, t, hg, hcause, haddr⟩ := response_error h hn hop hpend hout hx hs hp hid hr hwr hgrp
      exact ⟨u, he, hover, _, hg, fun d' hd => (nomatch hd), fun _ => ⟨rfl, t, rfl, hcause, haddr⟩⟩

end Sys2Proof.Machine

open Sys2Proof Sys2Proof.Machine in
/-- Settles O55: a link that is lost stays down while what it carried goes elsewhere (`linkD_loseLink`), each flit meets its branch,
and a peer's request is refused or performed by its frames and lines (`exec_peerRequest`). -/
theorem fabricEvents : Obligations.FABRIC_EVENTS := ⟨linkSteps_hold, flitSteps_hold, peerRequests_hold, peerResponses_hold⟩
end

section
/-! SUPPORT. Frames that are given up, and requests that are taken. What a release of frames leaves (R400), what taking the head
element of a ring leaves (R362, R416), and what a function's run of slices is changed by (R411). -/

namespace Sys2Proof.Machine

variable {s t u : State}

/-! ### Held faults and translations (R363, R366) -/

/-- The parts of a state that a release of held faults changes, put back as they were. -/
def State.reheld (s t : State) : State :=
  { t with holds := s.holds, tlb := s.tlb, cores := s.cores, groups := s.groups, ops := s.ops }

/-- `t` is `s` but for held faults that were released: no translation and no operation is new. -/
structure Dropped (s t : State) : Prop where
  rest : s.reheld t = s
  tlb : ∀ e ∈ t.tlb, e ∈ s.tlb
  ops : ∀ p ∈ t.ops, ∃ q ∈ s.ops, q.2.fn = p.2.fn

namespace Dropped

theorem refl (s : State) : Dropped s s := ⟨rfl, fun _ => id, fun p hp => ⟨p, hp, rfl⟩⟩

theorem trans (h : Dropped s t) (k : Dropped t u) : Dropped s u where
  rest := (congrArg s.reheld k.rest).trans h.rest
  tlb e he := h.tlb e (k.tlb e he)
  ops p hp := by
    obtain ⟨q, hq, hqp⟩ := k.ops p hp
    obtain ⟨r, hr, hrq⟩ := h.ops q hq
    exact ⟨r, hr, hrq.trans hqp⟩

theorem mem (h : Dropped s t) : t.mem = s.mem := (congrArg State.mem h.rest :)
theorem owner (h : Dropped s t) : t.owner = s.owner := (congrArg State.owner h.rest :)
theorem worlds (h : Dropped s t) : t.worlds = s.worlds := (congrArg State.worlds h.rest :)

end Dropped

theorem dropped_tlbDrop (s : State) (p : TlbEntry → Bool) : Dropped s (s.tlbDrop p) :=
  ⟨rfl, fun _ he => List.mem_of_mem_filter he, fun q hq => ⟨q, hq, rfl⟩⟩

theorem dropped_updGrp (s : State) (g : Nat) (f : Group → Group) : Dropped s (s.updGrp g f) := by
  unfold State.updGrp
  split
  · exact ⟨rfl, fun _ => id, fun q hq => ⟨q, hq, rfl⟩⟩
  · exact .refl s

theorem dropped_releaseHold (s : State) (tag : Nat) (h : Hold) : Dropped s (s.releaseHold tag h) := by
  unfold State.releaseHold
  extract_lets s1 s2 s3
  have h0 : Dropped s { s with holds := tdel s.holds tag } := ⟨rfl, fun _ => id, fun q hq => ⟨q, hq, rfl⟩⟩
  have h1 : Dropped s s1 := h0.trans (dropped_tlbDrop _ _)
  have h2 : Dropped s s2 := by
    show Dropped s (match h.grp with | some g => _ | none => _)
    split
    · exact h1.trans (dropped_updGrp ..)
    · exact h1
  clear_value s2
  have h3 : Dropped s s3 := by
    show Dropped s (match h.op with | some o => _ | none => _)
    split
    · refine h2.trans ⟨rfl, fun _ => id, fun p hp => ?_⟩
      obtain ⟨q, hq, e⟩ := List.mem_map.1 hp
      refine ⟨q, hq, ?_⟩
      split at e <;> rw [← e]
    · exact h2
  clear_value s3
  split
  · exact h3.trans ⟨rfl, fun _ => id, fun q hq => ⟨q, hq, rfl⟩⟩
  · exact h3

theorem dropped_freeHolds (s : State) (p : Nat → Hold → Bool) : Dropped s (s.freeHolds p) :=
  List.foldlRecOn (motive := fun t => Dropped s t) _ _ (.refl s) fun t ht _ _ => ht.trans (dropped_releaseHold t _ _)

/-! ### Frames (R400) -/

/-- The parts of a state that a release of frames, or the end of a world, changes, put back as they were. -/
def State.unfreed (s t : State) : State :=
  { t with
    holds := s.holds, tlb := s.tlb, cores := s.cores, groups := s.groups, ops := s.ops, l2 := s.l2, hubc := s.hubc
    hostLines := s.hostLines, fmtPend := s.fmtPend, ctrs := s.ctrs, frameCtrs := s.frameCtrs, failed := s.failed
    nodeMet := s.nodeMet, mem := s.mem, owner := s.owner, badMac := s.badMac, badNode := s.badNode, moves := s.moves
    mdc := s.mdc, banks := s.banks, worlds := s.worlds }

/-- `t` is `s` but for frames that were given up and worlds that ended: no translation, operation or world is new. -/
structure Freed (s t : State) : Prop where
  rest : s.unfreed t = s
  tlb : ∀ e ∈ t.tlb, e ∈ s.tlb
  ops : ∀ p ∈ t.ops, ∃ q ∈ s.ops, q.2.fn = p.2.fn
  worlds : ∀ p ∈ t.worlds, p ∈ s.worlds

namespace Freed

theorem refl (s : State) : Freed s s := ⟨rfl, fun _ => id, fun p hp => ⟨p, hp, rfl⟩, fun _ => id⟩

theorem trans (h : Freed s t) (k : Freed t u) : Freed s u where
  rest := (congrArg s.unfreed k.rest).trans h.rest
  tlb e he := h.tlb e (k.tlb e he)
  ops p hp := by
    obtain ⟨q, hq, hqp⟩ := k.ops p hp
    obtain ⟨r, hr, hrq⟩ := h.ops q hq
    exact ⟨r, hr, hrq.trans hqp⟩
  worlds p hp := h.worlds p (k.worlds p hp)

theorem of_dropped (h : Dropped s t) : Freed s t :=
  ⟨(congrArg s.unfreed h.rest :), h.tlb, h.ops, fun _ hp => h.worlds ▸ hp⟩

theorem wgs (h : Freed s t) : t.wgs = s.wgs := (congrArg State.wgs h.rest :)
theorem launches (h : Freed s t) : t.launches = s.launches := (congrArg State.launches h.rest :)
theorem packets (h : Freed s t) : t.packets = s.packets := (congrArg State.packets h.rest :)
theorem ctxs (h : Freed s t) : t.ctxs = s.ctxs := (congrArg State.ctxs h.rest :)
theorem fns (h : Freed s t) : t.fns = s.fns := (congrArg State.fns h.rest :)

end Freed

theorem freed_freeFrames (s : State) (p : Nat → Bool) : Freed s (s.freeFrames p) := by
  unfold State.freeFrames
  extract_lets s0 s1
  have h1 : Dropped s (s0.tlbDrop fun e => leafIn p e.leaf e.size) :=
    (dropped_freeHolds ..).trans (dropped_tlbDrop s0 _)
  exact (Freed.of_dropped h1).trans ⟨rfl, fun _ => id, fun q hq => ⟨q, hq, rfl⟩, fun _ => id⟩

theorem freeFrames_owner (s : State) (p : Nat → Bool) : (s.freeFrames p).owner = s.owner.filter fun o => !p o.1 :=
  congrArg (List.filter _) (dropped_freeHolds s fun _ h => s.holdIn p h).owner

theorem freeFrames_mem (s : State) (p : Nat → Bool) :
    (s.freeFrames p).mem = s.mem.filter fun b => decide (2 ^ 64 ≤ b.1) || !p (b.1 / 65536) :=
  congrArg (List.filter _) (dropped_freeHolds s fun _ h => s.holdIn p h).mem

/-- The frames that go are of no world, and the others as they were. -/
theorem freeFrames_ownerOf (s : State) (p : Nat → Bool) (f : Nat) :
    (s.freeFrames p).ownerOf f = if p f = true then 255 else s.ownerOf f := by
  unfold State.ownerOf tval
  rw [freeFrames_owner, tget_filter s.owner fun j => !p j]
  cases p f <;> rfl

/-- The frames that go read as zero. -/
theorem freeFrames_rdByte (s : State) (p : Nat → Bool) {l : Nat} (hl : l < 2 ^ 64) (hp : p (l / 65536) = true) :
    (s.freeFrames p).rdByte l = 0 := by
  unfold State.rdByte
  rw [freeFrames_mem, tval_filter _ fun j => decide (2 ^ 64 ≤ j) || !p (j / 65536)]
  rw [hp, if_neg (by simp only [Bool.not_true, Bool.or_false, decide_eq_true_eq]; omega)]

/-! ### Worlds (R400, R403) -/

theorem freed_wipeBanks (s : State) (p : Bank → Bool) : Freed s (s.wipeBanks p) :=
  ⟨rfl, fun _ => id, fun q hq => ⟨q, hq, rfl⟩, fun _ => id⟩

theorem dropWorld_worlds (s : State) (n : Nat) : (s.dropWorld n).worlds = tdel s.worlds n := by
  exact congrArg (tdel · n) (dropped_freeHolds s fun _ h => s.holdIn (fun f => decide (s.ownerOf f = n)) h).worlds

/-- A world that is dropped is gone, and none is new. -/
theorem mem_dropWorld {p : Nat × World} (h : p ∈ (s.dropWorld n).worlds) : p ∈ s.worlds ∧ p.1 ≠ n := by
  rw [dropWorld_worlds, tdel_eq_filter] at h
  simpa using h

theorem freed_dropWorld (s : State) (n : Nat) : Freed s (s.dropWorld n) := by
  have h := (freed_freeFrames s fun f => decide (s.ownerOf f = n)).trans (freed_wipeBanks _ fun b => decide (b.world = n))
  exact ⟨h.rest, h.tlb, h.ops, fun p hp => (mem_dropWorld hp).1⟩

theorem dropWorld_ownerOf (s : State) (n f : Nat) : (s.dropWorld n).ownerOf f = if s.ownerOf f = n then 255 else s.ownerOf f := by
  refine (freeFrames_ownerOf s (fun f => decide (s.ownerOf f = n)) f).trans ?_
  simp only [decide_eq_true_eq]

theorem dropWorld_rdByte (s : State) (n : Nat) {l : Nat} (hl : l < 2 ^ 64) (ho : s.ownerOf (l / 65536) = n) :
    (s.dropWorld n).rdByte l = 0 :=
  freeFrames_rdByte s (fun f => decide (s.ownerOf f = n)) hl (decide_eq_true ho)

/-- The worlds that are dropped are gone. -/
theorem dropWorlds_gone (ns : List Nat) (s : State) :
    Freed s (ns.foldl State.dropWorld s) ∧ ∀ p ∈ (ns.foldl State.dropWorld s).worlds, p.1 ∉ ns := by
  induction ns generalizing s with
  | nil => exact ⟨.refl s, fun _ _ => List.not_mem_nil⟩
  | cons n ns ih =>
    obtain ⟨hfreed, hgone⟩ := ih (s.dropWorld n)
    refine ⟨(freed_dropWorld s n).trans hfreed, fun p hp hmem => ?_⟩
    rcases List.mem_cons.1 hmem with rfl | hmem
    · exact (mem_dropWorld (hfreed.worlds p hp)).2 rfl
    · exact hgone p hp hmem

/-! ### The head of a ring (R362, R416) -/

/-- Taking a request writes the consumer index, and forgets who put the request there. -/
theorem cached_ringTake (s : State) (ring : Nat) :
    Cached { s with enqBy := tdel s.enqBy (s.headElem ring) } (s.ringTake ring) := cached_bankWrite _ _ _ (.refl _)

theorem bankWrite_fns (s : State) (l n x : Nat) : (s.bankWrite l n x).fns = s.fns := by
  have hcount : ∀ t : State, ∀ i, (t.countLine i).fns = t.fns := fun t i => by
    unfold State.countLine
    split <;> rfl
  have hwr : ∀ (bs : List Byte) (t : State) (i : Nat), (t.wrBytes i bs).fns = t.fns := fun bs => by
    induction bs with
    | nil => exact fun _ _ => rfl
    | cons b bs ih => exact fun t i => ih (t.wrByte i b) (i + 1)
  have hown : ∀ t : State, (t.hostOwnAt l).fns = t.fns := fun t => by
    unfold State.hostOwnAt
    split <;> rfl
  have hcounts : ∀ t : State, (t.countLines l n).fns = t.fns := fun t =>
    List.foldlRecOn (motive := fun u : State => u.fns = t.fns) _ _ rfl fun u hu i _ => (hcount u _).trans hu
  exact (hcounts _).trans ((hwr _ _ _).trans (hown _))

section Taken

variable (s : State) (ring : Nat)

theorem ringTake_fns : (s.ringTake ring).fns = s.fns := bankWrite_fns ..
theorem ringTake_fnD (fn : Nat) : (s.ringTake ring).fnD fn = s.fnD fn := by unfold State.fnD; rw [ringTake_fns]
theorem ringTake_ctxs : (s.ringTake ring).ctxs = s.ctxs := (cached_ringTake s ring).ctxs
theorem ringTake_owner : (s.ringTake ring).owner = s.owner := (cached_ringTake s ring).owner
theorem ringTake_tlb : (s.ringTake ring).tlb = s.tlb := (cached_ringTake s ring).tlb
theorem ringTake_worlds : (s.ringTake ring).worlds = s.worlds := (congrArg State.worlds (cached_ringTake s ring).rest :)
theorem ringTake_tick : (s.ringTake ring).tick = s.tick := (congrArg State.tick (cached_ringTake s ring).rest :)
theorem ringTake_bias : (s.ringTake ring).bias = s.bias := (congrArg State.bias (cached_ringTake s ring).rest :)
theorem ringTake_ownerOf (f : Nat) : (s.ringTake ring).ownerOf f = s.ownerOf f := by unfold State.ownerOf; rw [ringTake_owner]
theorem ringTake_ctxD (fn c : Nat) : (s.ringTake ring).ctxD fn c = s.ctxD fn c := by unfold State.ctxD; rw [ringTake_ctxs]

end Taken

/-- Whose request it is hangs on the contexts alone. -/
theorem keyView_congr (h : t.ctxs = s.ctxs) : t.keyView = s.keyView := by
  funext k
  unfold State.keyView State.hubView State.ctxD
  rw [h]

end Sys2Proof.Machine
end

section
/-! SUPPORT. Management requests (R416): how a request is served, what each of them makes of partitions (R411, R416 to R418,
R424), and of worlds, contexts and frames (R395, R400, R403, R407, R414). -/

namespace Sys2Proof.Machine

variable {s : State} {w : List Word} {i : Instr} {op : Nat}

/-! ### Serving a request -/

/-- The state once the head request is taken. -/
def State.mgmtTaken (s : State) : State := s.ringTake s.mgmt.toNat

/-- A request fails with a REASON, which its signal tells. -/
def mgmtFails (s : State) (w : List Word) (i : Instr) (r : Nat) : Prop :=
  exec i s = .next (s.mgmtTaken.ringSig (mgmtBy s) (pw w 7).toNat (.neg r))

theorem mgmtTaken_by (s : State) : (tget s.enqBy (s.headElem s.mgmt.toNat)).map s.mgmtTaken.keyView = mgmtBy s := by
  rw [(keyView_congr (ringTake_ctxs s s.mgmt.toNat) : s.mgmtTaken.keyView = s.keyView)]
  rfl

/-- While a request is carried out no other is at the head. -/
theorem idle_of_mgmtHead (h : s.mgmtHead = some w) : s.rungs = [] ∧ s.shrinking = none := by
  unfold State.mgmtHead at h
  split at h
  · cases h
  · next hc =>
    obtain ⟨hr, hf⟩ : s.rungs = [] ∧ ∀ a f, (a, f) ∈ s.fns → f.resize = none := by
      simpa [State.mgmtBusy] using (not_or.1 (not_or.1 (not_or.1 (not_or.1 hc).2).2).2).2
    refine ⟨hr, List.findSome?_eq_none_iff.2 fun p hp => ?_⟩
    rw [hf p.1 p.2 hp]
    rfl

section Serve

variable {f : State → List Word → Except Nat State} (hi : exec i s = .next (s.serveMgmt op f)) (hw : s.mgmtHead = some w)
include hi hw

theorem serveMgmt_taken (hop : mOp w = op) : exec i s = .next (
    if mBad w then s.mgmtTaken.ringSig (mgmtBy s) (pw w 7).toNat (.neg 1)
    else match f s.mgmtTaken w with
      | .error r => s.mgmtTaken.ringSig (mgmtBy s) (pw w 7).toNat (.neg r)
      | .ok t => t.ringSig (mgmtBy s) (pw w 7).toNat .dec) := by
  rw [hi]
  unfold State.serveMgmt
  rw [hw]
  dsimp only
  rw [if_neg fun h => h.1 hop]
  rfl

theorem serveMgmt_bad (hop : mOp w = op) (hb : mBad w = true) : mgmtFails s w i 1 :=
  (serveMgmt_taken hi hw hop).trans (congrArg _ (if_pos hb))

theorem serveMgmt_other (hop : mOp w ≠ op) (h1 : op ≠ 1) : exec i s = .next s := by
  rw [hi]
  unfold State.serveMgmt
  rw [hw]
  dsimp only
  rw [if_pos ⟨hop, fun h => h1 h.1⟩]

theorem serveMgmt_error (hop : mOp w = op) (hb : mBad w = false) {r : Nat} (e : f s.mgmtTaken w = .error r) : mgmtFails s w i r := by
  rw [mgmtFails, serveMgmt_taken hi hw hop, hb, e]
  rfl

theorem serveMgmt_ok (hop : mOp w = op) (hb : mBad w = false) {t : State} (e : f s.mgmtTaken w = .ok t) {P : State → Prop}
    (hP : P t) : mgmtServes s w i P := by
  refine ⟨t, hP, ?_⟩
  rw [serveMgmt_taken hi hw hop, hb, e]
  rfl

end Serve

section Long

variable {f : State → Option Nat → List Word → Except Nat State} (hi : exec i s = .next (s.serveLong op f))
  (hw : s.mgmtHead = some w)
include hi hw

theorem serveLong_taken (hop : mOp w = op) : exec i s = .next (
    if mBad w then s.mgmtTaken.ringSig (mgmtBy s) (pw w 7).toNat (.neg 1)
    else match f s.mgmtTaken (tget s.enqBy (s.headElem s.mgmt.toNat)) w with
      | .error r => s.mgmtTaken.ringSig (mgmtBy s) (pw w 7).toNat (.neg r)
      | .ok t => t) := by
  rw [hi, ← mgmtTaken_by]
  unfold State.serveLong
  rw [hw]
  dsimp only
  rw [if_neg fun h => h hop]
  rfl

theorem serveLong_bad (hop : mOp w = op) (hb : mBad w = true) : mgmtFails s w i 1 :=
  (serveLong_taken hi hw hop).trans (congrArg _ (if_pos hb))

theorem serveLong_other (hop : mOp w ≠ op) : exec i s = .next s := by
  rw [hi]
  unfold State.serveLong
  rw [hw]
  dsimp only
  rw [if_pos hop]

theorem serveLong_error (hop : mOp w = op) (hb : mBad w = false) {r : Nat}
    (e : f s.mgmtTaken (tget s.enqBy (s.headElem s.mgmt.toNat)) w = .error r) : mgmtFails s w i r := by
  rw [mgmtFails, serveLong_taken hi hw hop, hb, e]
  rfl

theorem serveLong_ok (hop : mOp w = op) (hb : mBad w = false) {t : State}
    (e : f s.mgmtTaken (tget s.enqBy (s.headElem s.mgmt.toNat)) w = .ok t) : exec i s = .next t := by
  rw [serveLong_taken hi hw hop, hb, e]
  rfl

end Long

section Idle

variable (hw : s.mgmtHead = some w)
include hw

theorem exec_presize : exec .presize s = .next (s.serveLong 2 mgmtPresize) := by
  refine congrArg _ (if_neg ?_)
  rw [(idle_of_mgmtHead hw).2]
  exact Bool.false_ne_true

theorem exec_qreset : exec .qreset s = .next (s.serveLong 10 mgmtQreset) :=
  congrArg _ (if_neg (not_not.2 (idle_of_mgmtHead hw).1))

theorem exec_creset : exec .creset s = .next (s.serveLong 11 (mgmtCreset false)) :=
  congrArg _ (if_neg (not_not.2 (idle_of_mgmtHead hw).1))

theorem exec_cdestroy : exec .cdestroy s = .next (s.serveLong 9 (mgmtCreset true)) :=
  congrArg _ (if_neg (not_not.2 (idle_of_mgmtHead hw).1))

end Idle

/-- A request that no request may be, and the events of other requests. -/
theorem requestsTaken_hold : requestsTaken := by
  intro s w hw hb e he
  have serve : ∀ {i : Instr} {op : Nat} {f : State → List Word → Except Nat State},
      exec i s = .next (s.serveMgmt op f) →
      (mOp w = op → mgmtFails s w i 1) ∧ (mOp w ≠ op → op ≠ 1 → exec i s = .next s) := fun hi =>
    ⟨fun hop => serveMgmt_bad hi hw hop hb, fun hop h1 => serveMgmt_other hi hw hop h1⟩
  have long : ∀ {i : Instr} {op : Nat} {f : State → Option Nat → List Word → Except Nat State},
      exec i s = .next (s.serveLong op f) →
      (mOp w = op → mgmtFails s w i 1) ∧ (mOp w ≠ op → op ≠ 1 → exec i s = .next s) := fun hi =>
    ⟨fun hop => serveLong_bad hi hw hop hb, fun hop _ => serveLong_other hi hw hop⟩
  simp only [List.mem_cons, List.not_mem_nil, or_false] at he
  rcases he with rfl | rfl | rfl | rfl | rfl | rfl | rfl | rfl | rfl | rfl | rfl | rfl | rfl | rfl | rfl
  case inr.inl => exact long (exec_presize hw)
  case inr.inr.inr.inr.inr.inr.inr.inr.inl => exact long (exec_cdestroy hw)
  case inr.inr.inr.inr.inr.inr.inr.inr.inr.inl => exact long (exec_qreset hw)
  case inr.inr.inr.inr.inr.inr.inr.inr.inr.inr.inl => exact long (exec_creset hw)
  all_goals exact serve rfl

end Sys2Proof.Machine
end

section
/-! SUPPORT. Requests about partitions (R411, R416 to R418, R424): what each makes of its function, and which REASON it fails
with. -/

namespace Sys2Proof.Machine

variable {s t u : State} {w : List Word}

/-! ### Functions after a request -/

theorem mgmtTaken_fnD (s : State) (fn : Nat) : s.mgmtTaken.fnD fn = s.fnD fn := ringTake_fnD ..
theorem mgmtTaken_fns (s : State) : s.mgmtTaken.fns = s.fns := ringTake_fns ..

/-- A function that holds a partition is in the table. -/
theorem fns_ne_none_of_count {fn : Nat} (h : (s.fnD fn).count ≠ 0) : tget s.fns fn ≠ none := by
  intro e
  unfold State.fnD at h
  rw [e] at h
  exact h rfl

theorem holds_of {f : Func} (h : f.count ≠ 0) : f.holds = true := decide_eq_true h
theorem not_holds_of {f : Func} (h : f.count = 0) : ¬ f.holds = true := fun e => of_decide_eq_true e h

theorem fnD_tput (s : State) (fn h : Nat) (f : Func) :
    ({ s with fns := tput s.fns fn f } : State).fnD h = if h = fn then f else s.fnD h := by
  unfold State.fnD
  rw [tget_tput]
  split <;> rfl

/-- A part of functions that a change of one of them leaves alone. -/
theorem fnD_updFn_same {α : Type} (g : Func → α) (s : State) (fn : Nat) {f : Func → Func} (hf : ∀ x, g (f x) = g x) (h : Nat) :
    g ((s.updFn fn f).fnD h) = g (s.fnD h) := by
  unfold State.updFn
  split
  · next x hx =>
    rw [fnD_tput]
    split
    · next e =>
      rw [hf, e]
      unfold State.fnD
      rw [hx]
      rfl
    · rfl
  · rfl

/-- A function's run of slices, and whose descriptor it has. -/
def Func.run (f : Func) : Nat × Nat × Bool × Nat × Bool × Word := (f.first, f.count, f.ts, f.quantum, f.resident, f.pdesc)

/-- No function's run changed. -/
def SameRuns (s t : State) : Prop := ∀ h, (t.fnD h).run = (s.fnD h).run

theorem SameRuns.trans (h : SameRuns s t) (k : SameRuns t u) : SameRuns s u := fun a => (k a).trans (h a)

theorem SameRuns.of_cached (h : Cached s t) : SameRuns s t := fun a => h.fnD a Func.run fun _ => rfl

theorem sameRuns_updFn (s : State) (fn : Nat) {f : Func → Func} (hf : ∀ x, (f x).run = x.run) : SameRuns s (s.updFn fn f) :=
  fnD_updFn_same Func.run s fn hf

theorem sameRuns_readDesc (s : State) (fn d : Nat) : SameRuns s (s.readDesc fn d) :=
  (sameRuns_updFn s fn fun _ => by rfl).trans (.of_cached (cached_bankWrite _ _ _ (.refl _)))

theorem sameRuns_setLife (s : State) (fn : Nat) : SameRuns s (s.setLife fn) := sameRuns_updFn s fn fun _ => by rfl

/-- What a new partition is given besides its run. -/
theorem sameRuns_partitioned (s : State) (fn d : Nat) (f : Func) :
    SameRuns s ((((s.readDesc fn d).fw2 1 fn f).setLife fn).flushRecs fn) := by
  have hfw : SameRuns (s.readDesc fn d) ((s.readDesc fn d).fw2 1 fn f) := fun _ => rfl
  exact (sameRuns_readDesc s fn d).trans (hfw.trans ((sameRuns_setLife _ fn).trans (.of_cached (cached_flushRecs fn (.refl _)))))

/-! ### PCREATE (R411, R416) -/

theorem mgmtPcreate_holds (h : (s.fnD (mFn w)).count ≠ 0) : mgmtPcreate s w = .error 4 := if_pos (holds_of h)

section Pcreate

variable (hc : (s.fnD (mFn w)).count = 0) (hd : s.descOk (pw w 3) = true)
  (hq : (pw w 1).getLsbD 8 = true → 0 < (pw w 2).toNat % 1024 ∧ (pw w 2).toNat % 1024 ≤ 1000)
include hc hd hq

omit hc in
theorem pcreate_wellFormed : ¬ (¬ s.descOk (pw w 3) ∨ ((pw w 1).getLsbD 8 = true ∧ (bits (pw w 2) 9 0 = 0 ∨ 1000 < bits (pw w 2) 9 0))) := by
  rintro (h | ⟨hts, h⟩)
  · exact h hd
  · obtain ⟨h0, h1⟩ := hq hts
    simp only [bits] at h
    omega

theorem mgmtPcreate_illegal (hl : legalRun (bits (pw w 1) 3 0) (bits (pw w 1) 7 4) = false) : mgmtPcreate s w = .error 2 := by
  unfold mgmtPcreate
  dsimp only
  rw [if_neg (not_holds_of hc), if_neg (pcreate_wellFormed hd hq), if_pos (by rw [hl]; exact Bool.false_ne_true)]

/-- The record of a new partition that no other meets. -/
def State.newRun (s : State) (w : List Word) : Func :=
  (s.fnD (mFn w)).withRun (bits (pw w 1) 3 0) (bits (pw w 1) 7 4) ((pw w 1).getLsbD 8) (bits (pw w 2) 9 0) (pw w 3) true

theorem mgmtPcreate_ok (hl : legalRun (bits (pw w 1) 3 0) (bits (pw w 1) 7 4) = true)
    (hm : s.meets (bits (pw w 1) 3 0) (bits (pw w 1) 7 4) (mFn w) = []) : ∃ t, mgmtPcreate s w = .ok t
    ∧ SameRuns { s with fns := tput s.fns (mFn w) (s.newRun w) } t := by
  refine ⟨((((({ s with fns := tput s.fns (mFn w) (s.newRun w) } : State).readDesc (mFn w) (pw w 3).toNat).fw2 1 (mFn w)
    (s.newRun w)).setLife (mFn w)).flushRecs (mFn w)), ?_, ?_⟩
  · unfold mgmtPcreate
    dsimp only
    rw [if_neg (not_holds_of hc), if_neg (pcreate_wellFormed hd hq), if_neg (by rw [hl]; exact fun h => h rfl), hm]
    rfl
  · exact sameRuns_partitioned _ _ _ _

end Pcreate

/-! ### PRESIZE (R418) -/

/-- A run that holds all the slices that the function has takes none from it. -/
theorem gone_of_within {f : Func} {first count : Nat} {x : Word} {k : Option Nat}
    (h : ∀ d ∈ f.slices, first ≤ d ∧ d < first + count) : ({ f with resize := some (first, count, x), resizeBy := k } : Func).gone = [] := by
  refine List.filter_eq_nil_iff.2 fun d hd => ?_
  have hk : d ∈ f.slices.filter fun d => decide (first ≤ d) && decide (d < first + count) :=
    List.mem_filter.2 ⟨hd, by simp [h d hd]⟩
  simpa [Func.kept, Func.slices] using hk

section Presize

variable {by_ : Option Nat}

theorem mgmtPresize_none (h : (s.fnD (mFn w)).count = 0) : mgmtPresize s by_ w = .error 5 := if_pos (not_holds_of h)

section Held

variable (hc : (s.fnD (mFn w)).count ≠ 0)
include hc

theorem mgmtPresize_illegal (hl : legalRun (bits (pw w 1) 3 0) (bits (pw w 1) 7 4) = false) : mgmtPresize s by_ w = .error 2 := by
  unfold mgmtPresize
  dsimp only
  rw [if_neg (not_not.2 (holds_of hc)), if_pos (by rw [hl]; exact Bool.false_ne_true)]

/-- The state of a partition that has grown. -/
def State.grown (s : State) (fn first count : Nat) : State :=
  { s with fns := tput s.fns fn { s.fnD fn with first := first, count := count } }.fw2 2 fn
    { s.fnD fn with first := first, count := count }

theorem mgmtPresize_grows {first count : Nat} (e1 : bits (pw w 1) 3 0 = first) (e2 : bits (pw w 1) 7 4 = count)
    (hl : legalRun first count = true) (hs : s.sharers (mFn w) = [mFn w]) (hb : s.coBlocks (mFn w) first count = false)
    (hm : s.meets first count (mFn w) = []) (hin : ∀ d ∈ (s.fnD (mFn w)).slices, first ≤ d ∧ d < first + count) :
    mgmtPresize s by_ w = .ok ((s.grown (mFn w) first count).ringSig
      (by_.map (s.grown (mFn w) first count).keyView) (pw w 7).toNat .dec) := by
  unfold mgmtPresize
  dsimp only
  rw [e1, e2, if_neg (not_not.2 (holds_of hc)), if_neg (not_not.2 hl), if_neg (by rw [hs, hb]; simp), if_neg (not_not.2 hm),
    if_pos (gone_of_within hin)]
  rfl

end Held

end Presize

/-! ### PDESTROY, QUOTA, BUCKET and PDSET (R349, R416, R417, R424) -/

theorem mgmtPdestroy_none (h : (s.fnD (mFn w)).count = 0) : mgmtPdestroy s w = .error 5 := if_pos (not_holds_of h)

theorem mgmtPdestroy_world (hc : (s.fnD (mFn w)).count ≠ 0) (h : s.holdsWorld (mFn w) = true) : mgmtPdestroy s w = .error 4 := by
  unfold mgmtPdestroy
  dsimp only
  rw [if_neg (not_not.2 (holds_of hc)), if_pos h]

/-- A function without a partition. -/
def Func.emptied (f : Func) : Func := { f.withRun 0 0 false 0 0 false with buckets := [], rings := [] }

theorem mgmtPdestroy_ok (hc : (s.fnD (mFn w)).count ≠ 0) (h : s.holdsWorld (mFn w) = false) (hts : (s.fnD (mFn w)).ts = false) :
    ∃ t, mgmtPdestroy s w = .ok t ∧ t.fnD (mFn w) = (s.fnD (mFn w)).emptied := by
  refine ⟨((({ s with fns := tput s.fns (mFn w) (s.fnD (mFn w)).emptied } : State).wipeBanks fun b => decide (b.fn = mFn w)).fw2 3
    (mFn w) (s.fnD (mFn w))), ?_, ?_⟩
  · unfold mgmtPdestroy
    dsimp only
    rw [if_neg (not_not.2 (holds_of hc)), if_neg (by rw [h]; exact Bool.false_ne_true),
      if_neg (by rw [hts]; exact fun e => Bool.false_ne_true e.1)]
    rfl
  · exact (fnD_tput ..).trans (if_pos rfl)

theorem mgmtQuota_none (h : (s.fnD (mFn w)).count = 0) : mgmtQuota s w = .error 5 := if_pos (not_holds_of h)

/-- A sum over the other functions (R417). -/
def State.othersSum (s : State) (fn : Nat) (g : Func → Nat) : Nat := ((s.fns.filter fun p => decide (p.1 ≠ fn)).map fun p => g p.2).sum

/-- Three quotas that go beyond what the module has. -/
def State.quotaExcess (s : State) (w : List Word) : Prop :=
  64 < s.othersSum (mFn w) Func.copyQ + (pw w 1).toNat ∨ 33554432 < s.othersSum (mFn w) Func.capQ + (pw w 2).toNat
    ∨ 4096 < s.othersSum (mFn w) Func.spillQ + (pw w 3).toNat

theorem mgmtQuota_excess (hc : (s.fnD (mFn w)).count ≠ 0) (ha : (pw w 1).toNat ≤ 64) (h : s.quotaExcess w) :
    mgmtQuota s w = .error 3 := by
  unfold mgmtQuota
  dsimp only
  rw [if_neg (not_not.2 (holds_of hc)), if_neg (Nat.not_lt.2 ha)]
  exact if_pos h

theorem mgmtQuota_ok (hc : (s.fnD (mFn w)).count ≠ 0) (ha : (pw w 1).toNat ≤ 64) (h : ¬ s.quotaExcess w) :
    mgmtQuota s w = .ok (s.updFn (mFn w) fun f =>
      { f with copyQ := (pw w 1).toNat, capQ := (pw w 2).toNat, spillQ := (pw w 3).toNat }) := by
  unfold mgmtQuota
  dsimp only
  rw [if_neg (not_not.2 (holds_of hc)), if_neg (Nat.not_lt.2 ha)]
  exact if_neg h

theorem mgmtBucket_host (hc : (s.fnD (mFn w)).count ≠ 0) (h : bits (pw w 1) 1 0 = 3) : mgmtBucket s w = .error 1 := by
  unfold mgmtBucket
  dsimp only
  rw [if_neg (not_not.2 (holds_of hc)), if_pos h]

theorem mgmtBucket_ok (hc : (s.fnD (mFn w)).count ≠ 0) (h : bits (pw w 1) 1 0 ≠ 3) :
    mgmtBucket s w = .ok (s.updFn (mFn w) fun f => { f with
      buckets := tput f.buckets (16 * bits (pw w 1) 1 0 + bits (pw w 1) 7 4)
        { rate := bits (pw w 2) 31 0, depth := bits (pw w 3) 31 0, level := bits (pw w 3) 31 0 } }) := by
  unfold mgmtBucket
  dsimp only
  rw [if_neg (not_not.2 (holds_of hc)), if_neg h]

theorem mgmtPdset_again (hc : (s.fnD (mFn w)).count ≠ 0) (h : (s.fnD (mFn w)).pdesc ≠ 0) : mgmtPdset s w = .error 4 := by
  unfold mgmtPdset
  dsimp only
  rw [if_neg (not_not.2 (holds_of hc)), if_pos h]

/-- What the records of a new descriptor's rings leave of its function. -/
def Func.described (f : Func) : Word × Nat × Nat := (f.pdesc, f.fdrop, f.edrop)

theorem msix_described (s : State) (fn n h : Nat) : ((s.msix fn n).fnD h).described = (s.fnD h).described := by
  unfold State.msix
  by_cases hf : tget s.fns fn = none
  · unfold State.updFn
    rw [hf]
  · rw [fnD_updFn _ _ _ _ hf]
    split
    · next e => rw [e]; rfl
    · rfl

theorem mgmtPdset_ok (hc : (s.fnD (mFn w)).count ≠ 0) (hp : (s.fnD (mFn w)).pdesc = 0) (hd : s.descOk (pw w 3) = true) :
    ∃ t, mgmtPdset s w = .ok t ∧ (t.fnD (mFn w)).described = (pw w 3, 0, 0) := by
  unfold mgmtPdset
  extract_lets fn f d s1 s2 s3 s4 up
  refine ⟨up (up s4 0) 1, ?_, ?_⟩
  · rw [if_neg (not_not.2 (holds_of hc)), if_neg (not_not.2 hp), if_neg (not_not.2 hd)]
  · have hf : tget s.fns fn ≠ none := fns_ne_none_of_count hc
    have hread : tget (s.readDesc fn d).fns fn ≠ none :=
      (cached_bankWrite _ _ _ (.refl _)).fn_ne_none (updFn_fns_ne_none _ hf)
    have h13 : Cached s1 s3 := cached_bankWrite _ _ _ (cached_bankWrite _ _ _ (cached_flushRecs _ (.refl s1)))
    have h1 : (s1.fnD fn).pdesc = pw w 3 := by
      rw [fnD_updFn _ _ _ _ hread, if_pos rfl]
    have h3 : tget s3.fns fn ≠ none := h13.fn_ne_none (updFn_fns_ne_none _ hread)
    have h4 : (s4.fnD fn).described = (pw w 3, 0, 0) := by
      have hp3 : (s3.fnD fn).pdesc = pw w 3 := (h13.fnD fn Func.pdesc fun _ => rfl).trans h1
      rw [fnD_updFn _ _ _ _ h3, if_pos rfl, ← hp3]
      rfl
    have hup : ∀ t v, ((up t v).fnD fn).described = (t.fnD fn).described := by
      intro t v
      show (State.fnD (if _ then _ else _) fn).described = _
      split
      · exact msix_described ..
      · rfl
    exact (hup _ _).trans ((hup _ _).trans h4)

/-! ### The requests (R411, R416 to R418) -/

theorem meets_of_fns (h : t.fns = s.fns) (first count skip : Nat) : t.meets first count skip = s.meets first count skip :=
  congrArg (List.filter _) h

theorem partitionRequests_hold : partitionRequests := by
  intro s w hw hb s1 sig fn f first count ts quantum fails
  have hf : s.mgmtTaken.fnD fn = f := mgmtTaken_fnD s fn
  have hfirst : bits (pw w 1) 3 0 = first := by simp [bits, first]
  have hcount : bits (pw w 1) 7 4 = count := by simp [bits, count]
  have hquantum : bits (pw w 2) 9 0 = quantum := by simp [bits, quantum]
  refine ⟨fun hop => ?_, fun hop => ?_, fun hop => ?_, fun hop => ?_, fun hop hc => ?_, fun hop hc => ?_⟩
  · refine ⟨fun hc => serveMgmt_error rfl hw hop hb (mgmtPcreate_holds (by rw [hf]; exact hc)), fun hc hd hq => ⟨fun hl => ?_,
      fun hl hm => ?_⟩⟩
    · exact serveMgmt_error rfl hw hop hb (mgmtPcreate_illegal (by rw [hf]; exact hc) hd hq (by rw [hfirst, hcount]; exact hl))
    · obtain ⟨t, e, hruns⟩ := mgmtPcreate_ok (s := s.mgmtTaken) (by rw [hf]; exact hc) hd hq (by rw [hfirst, hcount]; exact hl)
        (by rw [hfirst, hcount, meets_of_fns (mgmtTaken_fns s)]; exact hm)
      refine serveMgmt_ok rfl hw hop hb e ?_
      have hg := hruns fn
      rw [fnD_tput, if_pos rfl] at hg
      unfold State.newRun at hg
      rw [hfirst, hcount, hquantum] at hg
      simp only [Func.run, Prod.mk.injEq, Func.withRun] at hg
      obtain ⟨g1, g2, g3, g4, g5, g6⟩ := hg
      refine ⟨g1, g2, g3, g4, g5, g6, fun h hne _ => ?_⟩
      have hh := hruns h
      rw [fnD_tput, if_neg hne, mgmtTaken_fnD] at hh
      simp only [Func.run, Prod.mk.injEq] at hh
      exact ⟨hh.1, hh.2.1⟩
  · refine ⟨fun hc => serveLong_error (exec_presize hw) hw hop hb (mgmtPresize_none (by rw [hf]; exact hc)),
      fun hc hl => serveLong_error (exec_presize hw) hw hop hb
        (mgmtPresize_illegal (by rw [hf]; exact hc) (by rw [hfirst, hcount]; exact hl)),
      fun hc hl hs hco hm hin => ⟨s.mgmtTaken.grown fn first count, ?_, ?_⟩⟩
    · beta_reduce
      rw [show (s.mgmtTaken.grown fn first count).fnD fn = _ from (fnD_tput ..).trans (if_pos rfl)]
      exact ⟨rfl, rfl⟩
    · refine (serveLong_ok (exec_presize hw) hw hop hb (mgmtPresize_grows (by rw [hf]; exact hc) hfirst hcount hl hs hco
        hm (by rw [hf]; exact hin))).trans ?_
      rw [(mgmtTaken_by s : _ = mgmtBy s).symm]
      rfl
  · refine ⟨fun hc => serveMgmt_error rfl hw hop hb (mgmtPdestroy_none (by rw [hf]; exact hc)), fun hc hh =>
      serveMgmt_error rfl hw hop hb (mgmtPdestroy_world (by rw [hf]; exact hc) ?_), fun hc hh hts => ?_⟩
    · exact (congrArg (List.any · _) (ringTake_worlds s _)).trans hh
    · obtain ⟨t, e, ht⟩ := mgmtPdestroy_ok (s := s.mgmtTaken) (by rw [hf]; exact hc)
        ((congrArg (List.any · _) (ringTake_worlds s _)).trans hh) (by rw [hf]; exact hts)
      refine serveMgmt_ok rfl hw hop hb e ?_
      rw [show t.fnD fn = _ from ht]
      exact ⟨rfl, rfl, rfl, rfl⟩
  · intro others a b c excess
    have hsum : ∀ g, s.mgmtTaken.othersSum fn g = others g := fun g => by unfold State.othersSum; rw [mgmtTaken_fns]
    have hex : s.mgmtTaken.quotaExcess w ↔ excess := by
      unfold State.quotaExcess
      rw [hsum, hsum, hsum]
    refine ⟨fun hc => serveMgmt_error rfl hw hop hb (mgmtQuota_none (by rw [hf]; exact hc)), fun hc ha he =>
      serveMgmt_error rfl hw hop hb (mgmtQuota_excess (by rw [hf]; exact hc) ha (hex.2 he)), fun hc ha he =>
      serveMgmt_ok rfl hw hop hb (mgmtQuota_ok (by rw [hf]; exact hc) ha (mt hex.1 he)) ?_⟩
    rw [fnD_updFn _ _ _ _ (by rw [mgmtTaken_fns]; exact fns_ne_none_of_count hc), if_pos rfl, hf]
  · intro src depth
    have hsrc : bits (pw w 1) 1 0 = src := by simp [bits, src]
    refine ⟨fun h => serveMgmt_error rfl hw hop hb (mgmtBucket_host (by rw [hf]; exact hc) (hsrc.trans h)), fun h =>
      serveMgmt_ok rfl hw hop hb (mgmtBucket_ok (by rw [hf]; exact hc) (by rw [hsrc]; exact h)) ?_⟩
    rw [fnD_updFn _ _ _ _ (by rw [mgmtTaken_fns]; exact fns_ne_none_of_count hc), if_pos rfl]
    simp [bits, src, depth]
  · refine ⟨fun h => serveMgmt_error rfl hw hop hb (mgmtPdset_again (by rw [hf]; exact hc) (by rw [hf]; exact h)), fun h hd => ?_⟩
    obtain ⟨t, e, ht⟩ := mgmtPdset_ok (s := s.mgmtTaken) (by rw [hf]; exact hc) (by rw [hf]; exact h) hd
    refine serveMgmt_ok rfl hw hop hb e ?_
    simp only [Func.described, Prod.mk.injEq] at ht
    exact ht

end Sys2Proof.Machine
end

section
/-! SUPPORT. Requests about worlds, contexts, pre-emption budgets and the bias of frames (R395, R400, R403, R407, R414, R422). -/

namespace Sys2Proof.Machine

variable {s t : State} {w : List Word}

/-! ### Worlds (R395, R400) -/

theorem mgmtTaken_ctxs (s : State) : s.mgmtTaken.ctxs = s.ctxs := ringTake_ctxs ..
theorem mgmtTaken_worlds (s : State) : s.mgmtTaken.worlds = s.worlds := ringTake_worlds ..
theorem mgmtTaken_ownerOf (s : State) (f : Nat) : s.mgmtTaken.ownerOf f = s.ownerOf f := ringTake_ownerOf ..

theorem mgmtTaken_tick (s : State) : s.mgmtTaken.tick = s.tick := ringTake_tick ..
theorem mgmtTaken_bias (s : State) : s.mgmtTaken.bias = s.bias := ringTake_bias ..
theorem mgmtTaken_ctxD (s : State) (fn c : Nat) : s.mgmtTaken.ctxD fn c = s.ctxD fn c := ringTake_ctxD ..

theorem mgmtWcreate_zero (h : mWorld w = 0) : mgmtWcreate s w = .error 1 := if_pos h

theorem mgmtWcreate_taken (h0 : mWorld w ≠ 0) (h : tget s.worlds (mWorld w) ≠ none) : mgmtWcreate s w = .error 4 :=
  (if_neg h0).trans (if_pos (Option.isSome_iff_ne_none.2 h))

theorem mgmtWcreate_ok (h0 : mWorld w ≠ 0) (h : tget s.worlds (mWorld w) = none) :
    mgmtWcreate s w = .ok (s.mkWorld (mFn w) (mWorld w)) := by
  refine (if_neg h0).trans (if_neg ?_)
  rw [h]
  exact Bool.false_ne_true

theorem mgmtWdestroy_none (h0 : mWorld w ≠ 0) (h : tget s.worlds (mWorld w) = none) : mgmtWdestroy s w = .error 5 := by
  unfold mgmtWdestroy
  dsimp only
  rw [if_neg h0, h]

section Destroyed

variable (h0 : mWorld w ≠ 0) {x : World} (h : tget s.worlds (mWorld w) = some x)
include h0 h

theorem mgmtWdestroy_other (hx : x.fn ≠ mFn w) : mgmtWdestroy s w = .error 5 := by
  unfold mgmtWdestroy
  dsimp only
  rw [if_neg h0, h]
  exact if_pos hx

variable (hx : x.fn = mFn w)
include hx

theorem mgmtWdestroy_used (hc : ∃ c ∈ s.ctxs, c.2.world = mWorld w) : mgmtWdestroy s w = .error 4 := by
  obtain ⟨c, hin, he⟩ := hc
  unfold mgmtWdestroy
  dsimp only
  rw [if_neg h0, h]
  exact (if_neg (not_not.2 hx)).trans (if_pos (List.any_eq_true.2 ⟨c, hin, decide_eq_true he⟩))

theorem mgmtWdestroy_ok (hc : ∀ c ∈ s.ctxs, c.2.world ≠ mWorld w) : mgmtWdestroy s w = .ok (s.dropWorld (mWorld w)) := by
  unfold mgmtWdestroy
  dsimp only
  rw [if_neg h0, h]
  refine (if_neg (not_not.2 hx)).trans (if_neg fun e => ?_)
  obtain ⟨c, hin, he⟩ := List.any_eq_true.1 e
  exact hc c hin (of_decide_eq_true he)

end Destroyed

/-! ### Contexts (R414, R422) -/

/-- A context descriptor that CCREATE takes (Table 23.4): its level, and no bit of a reserved field. -/
def descriptorTaken (fn n : Nat) (d : List Word) : Prop :=
  ((pw d 6).toNat / 2 % 4 < 2 ∨ ((pw d 6).toNat / 2 % 4 = 2 ∧ fn = 0 ∧ n = 0)) ∧ (pw d 6).toNat < 8 ∧ pw d 7 = 0 ∧ (pw d 4).toNat < 2 ^ 48

theorem descriptorTaken_fields {fn n : Nat} {d : List Word} (h : descriptorTaken fn n d) :
    ¬ (bits (pw d 6) 2 1 = 3 ∨ (bits (pw d 6) 2 1 = 2 ∧ (fn ≠ 0 ∨ n ≠ 0)) ∨ bits (pw d 6) 63 3 ≠ 0 ∨ pw d 7 ≠ 0
      ∨ bits (pw d 4) 63 48 ≠ 0) := by
  obtain ⟨hl, h6, h7, h4⟩ := h
  have e1 : bits (pw d 6) 2 1 = (pw d 6).toNat / 2 % 4 := by simp [bits]
  have e2 : bits (pw d 6) 63 3 = 0 := by simp only [bits]; omega
  have e3 : bits (pw d 4) 63 48 = 0 := by simp only [bits]; omega
  rw [e1, e2, e3]
  rintro (h | ⟨h, h'⟩ | h | h | h)
  · rw [h] at hl
    omega
  · rw [h] at hl
    omega
  · exact h rfl
  · exact h h7
  · exact h rfl

section Create

variable {x : World} (hw : tget s.worlds (mWorld w) = some x) (hx : x.fn = mFn w)
include hw hx

theorem mgmtCcreate_taken (h : tget s.ctxs (ctxKey (mFn w) (mCtx w)) ≠ none) : mgmtCcreate s w = .error 4 := by
  unfold mgmtCcreate
  dsimp only
  rw [hw]
  dsimp only
  rw [if_neg (not_not.2 (decide_eq_true hx)), if_pos (Option.isSome_iff_ne_none.2 h)]

theorem mgmtCcreate_ok (h : tget s.ctxs (ctxKey (mFn w) (mCtx w)) = none) (hd : s.descOk (pw w 1) = true)
    (hf : descriptorTaken (mFn w) (mWorld w) (s.physWords (pw w 1).toNat 8)) :
    mgmtCcreate s w = .ok { s with
      ctxs := tput s.ctxs (ctxKey (mFn w) (mCtx w)) (ctxOf (mWorld w) (s.physWords (pw w 1).toNat 8)) } := by
  unfold mgmtCcreate
  dsimp only
  rw [hw]
  dsimp only
  rw [if_neg (not_not.2 (decide_eq_true hx)), if_neg (by rw [h]; exact Bool.false_ne_true), if_neg (not_not.2 hd),
    if_neg (descriptorTaken_fields hf)]

end Create

theorem mgmtPbset_none (h : tget s.ctxs (ctxKey (mFn w) (mCtx w)) = none) : mgmtPbset s w = .error 5 := by
  refine if_pos ?_
  rw [h]
  rfl

theorem ctxD_updCtx_self {fn c : Nat} (f : Context → Context) (h : tget s.ctxs (ctxKey fn c) ≠ none) :
    (s.updCtx fn c f).ctxD fn c = f (s.ctxD fn c) := by
  unfold State.updCtx State.ctxD
  cases e : tget s.ctxs (ctxKey fn c) with
  | none => exact absurd e h
  | some x =>
    dsimp only
    rw [tget_tput_self]
    rfl

theorem mgmtPbset_ok (h : tget s.ctxs (ctxKey (mFn w) (mCtx w)) ≠ none) :
    mgmtPbset s w = .ok (s.updCtx (mFn w) (mCtx w) fun c => { c with pbudget := BitVec.ofNat 32 (bits (pw w 1) 31 0) }) := by
  refine if_neg ?_
  rw [Option.isNone_iff_eq_none]
  exact h

/-! ### The bias of frames (R304) -/

theorem setBias_bias (s : State) (f : Nat) (b : Bool) (g : Nat) :
    tval false (s.setBias f b).bias g = if g = f then b else tval false s.bias g := by
  unfold State.setBias
  split
  · next h =>
    split
    · next e => rw [e, h]
    · rfl
  · have hb : (s.flushLines (512 * f) 512).bias = s.bias := (congrArg State.bias (cached_flushLines (512 * f) 512 (.refl s)).rest :)
    dsimp only
    rw [tval_tset, hb]

/-- The bias of the frames of a run, and no other, becomes that of a request. -/
theorem setBiases_bias (s : State) (a : Nat) (b : Bool) (n g : Nat) :
    tval false ((List.range n).foldl (fun t i => t.setBias (a + i) b) s).bias g
      = if a ≤ g ∧ g < a + n then b else tval false s.bias g := by
  induction n with
  | zero => exact (if_neg (by omega)).symm
  | succ n ih =>
    rw [List.range_succ, List.foldl_append, List.foldl_cons, List.foldl_nil, setBias_bias, ih]
    split
    · exact (if_pos (by omega)).symm
    · next h =>
      congr 1
      exact propext (by omega)

theorem mgmtBias_odd (h : (pw w 1).toNat % 65536 ≠ 0) : mgmtBias s w = .error 1 := if_pos h

theorem mgmtBias_ok (h : (pw w 1).toNat % 65536 = 0) {n : Nat} (hn : min (pw w 2).toNat 44564480 = n) : mgmtBias s w =
    .ok ((List.range n).foldl (fun t i => t.setBias ((pw w 1).toNat / 65536 + i) ((pw w 3).getLsbD 0)) s) := by
  rw [← hn]
  exact if_neg (not_not.2 h)

/-! ### The requests (R395, R400, R403, R407, R414, R422) -/

theorem worldRequests_hold : worldRequests := by
  intro s w hw hb s1 sig fn n key fails
  have hctxs : s.mgmtTaken.ctxs = s.ctxs := mgmtTaken_ctxs s
  have hworlds : s.mgmtTaken.worlds = s.worlds := mgmtTaken_worlds s
  refine ⟨fun hop => ?_, fun hop h0 => ?_, fun hop x hx hfn => ?_, fun hop => ?_, fun hop => ?_⟩
  · refine ⟨fun h => serveMgmt_error rfl hw hop hb (mgmtWcreate_zero h), fun h0 h =>
      serveMgmt_error rfl hw hop hb (mgmtWcreate_taken h0 (by rw [hworlds]; exact h)), fun h0 h =>
      serveMgmt_ok rfl hw hop hb (mgmtWcreate_ok h0 (by rw [hworlds]; exact h)) ?_⟩
    refine (tget_tput_self ..).trans ?_
    rw [mgmtTaken_tick]
  · refine ⟨fun h => serveMgmt_error rfl hw hop hb (mgmtWdestroy_none h0 (by rw [hworlds]; exact h)), fun x hx => ?_⟩
    have hx1 : tget s.mgmtTaken.worlds (mWorld w) = some x := by rw [hworlds]; exact hx
    refine ⟨fun h => serveMgmt_error rfl hw hop hb (mgmtWdestroy_other h0 hx1 h), fun hfn hc =>
      serveMgmt_error rfl hw hop hb (mgmtWdestroy_used h0 hx1 hfn (by rw [hctxs]; exact hc)), fun hfn hc =>
      serveMgmt_ok rfl hw hop hb (mgmtWdestroy_ok h0 hx1 hfn (by rw [hctxs]; exact hc)) ⟨?_, fun f => ?_, fun l hl ho => ?_⟩⟩
    · rw [dropWorld_worlds, tget_tdel_self]
    · rw [dropWorld_ownerOf, mgmtTaken_ownerOf]
    · exact dropWorld_rdByte _ _ hl ((mgmtTaken_ownerOf s _).trans ho)
  · intro d level
    have hx1 : tget s.mgmtTaken.worlds (mWorld w) = some x := by rw [hworlds]; exact hx
    refine ⟨fun h => serveMgmt_error rfl hw hop hb (mgmtCcreate_taken hx1 hfn (by rw [hctxs]; exact h)),
      fun h hd hl h6 h7 h4 => serveMgmt_ok rfl hw hop hb
        (mgmtCcreate_ok hx1 hfn (by rw [hctxs]; exact h) hd ⟨hl, h6, h7, h4⟩)
        ⟨ctxOf n d, tget_tput_self .., rfl, ?_, rfl, rfl, rfl, rfl, ?_, rfl, rfl, rfl, rfl, rfl⟩⟩
    · simp [ctxOf, bits, level]
    · simpa [ctxOf, bits] using h4
  · refine ⟨fun h => serveMgmt_error rfl hw hop hb (mgmtPbset_none (by rw [hctxs]; exact h)), fun h =>
      serveMgmt_ok rfl hw hop hb (mgmtPbset_ok (by rw [hctxs]; exact h)) ?_⟩
    rw [ctxD_updCtx_self _ (by rw [hctxs]; exact h), mgmtTaken_ctxD]
    have hbits : BitVec.ofNat 32 (bits (pw w 1) 31 0) = (pw w 1).setWidth 32 := by
      apply BitVec.eq_of_toNat_eq
      simp [bits]
    rw [hbits]
  · intro a
    refine ⟨fun h => serveMgmt_error rfl hw hop hb (mgmtBias_odd h), fun h hn =>
      serveMgmt_ok rfl hw hop hb (mgmtBias_ok h (Nat.min_eq_left hn)) fun f => ?_⟩
    rw [setBiases_bias, mgmtTaken_bias]

end Sys2Proof.Machine
end

section
/-! SUPPORT. The reset ladder (R420, R421, R423): how a rung ends, what a function-level reset leaves, and the device rung. -/

namespace Sys2Proof.Machine

variable {s t u : State} {w : List Word}

/-! ### Rungs (R420, R425) -/

/-- What the end of a rung makes of the state before its signal. -/
def State.rungDone (s : State) (r : Rung) : State :=
  let s2 := if r.q < 64 then s.updQueue r.fn r.q fun x => { x with err := false } else s
  if r.destroy then s2.dropCtx r.fn r.ctx else s2

theorem rungOver_queue {r : Rung} (hl : r.level = 0) : s.rungOver r = !s.pktBusy r.fn r.q := by
  simp only [State.rungOver, hl]

theorem rungOver_ctx {r : Rung} (hl : r.level = 1) (hb : s.ctxBusy r.fn r.ctx = false) (hp : s.ctxPackets r.fn r.ctx true = false) :
    s.rungOver r = true := by
  simp only [State.rungOver, hl, hb, hp]
  rfl

/-- A rung that is alone and over ends where it starts. -/
theorem startRung_over {r : Rung} (h : s.rungs = []) (ho : s.rungOver r = true) :
    s.startRung r = let z := ({ s with rungs := [] } : State).rungDone r; z.ringSig (r.from_.map z.keyView) r.signal.toNat .dec := by
  unfold State.startRung
  rw [h]
  exact if_neg (not_not.2 ho)

/-- A rung that is alone and not over stays. -/
theorem startRung_stays {r : Rung} (h : s.rungs = []) (ho : s.rungOver r = false) : s.startRung r = { s with rungs := [r] } := by
  unfold State.startRung
  rw [h]
  exact if_pos (ne_true_of_eq_false ho)

/-! ### A function-level reset (R420) -/

theorem cached_zeroGen (c : Nat) (h : Cached s t) : Cached s (t.zeroGen c) := cached_updCore _ _ (cached_cleanCore _ h)

/-- No queue of a function is enabled or in error. -/
def queuesOff (f : Func) : Prop := ∀ k ∈ f.queues, k.2.en = false ∧ k.2.err = false

/-- A function's queues, all disabled. -/
def Func.closed (f : Func) : Func := { f with queues := f.queues.map fun (q : Nat × Queue) => (q.1, { q.2 with en := false, err := false }) }

theorem queuesOff_closed (s : State) (fn : Nat) : queuesOff ((s.updFn fn Func.closed).fnD fn) := by
  by_cases hf : tget s.fns fn = none
  · unfold State.updFn State.fnD
    rw [hf]
    dsimp only
    rw [hf]
    exact fun k hk => absurd hk List.not_mem_nil
  · rw [fnD_updFn _ _ _ _ hf, if_pos rfl]
    intro k hk
    obtain ⟨q, _, rfl⟩ := List.mem_map.1 hk
    exact ⟨rfl, rfl⟩

/-- A row of a table whose key is not listed among those that meet a test does not meet it. -/
theorem not_of_unlisted {α : Type} {t : Table α} {p : Nat × α} {q : Nat × α → Bool}
    (h : p ∈ t.filter fun x => !((t.filter q).map Prod.fst).contains x.1) : q p = false := by
  obtain ⟨hp, hn⟩ := List.mem_filter.1 h
  by_contra hq
  have hin : p.1 ∈ (t.filter q).map Prod.fst := List.mem_map_of_mem (List.mem_filter.2 ⟨hp, Bool.eq_true_of_not_eq_false hq⟩)
  rw [List.contains_iff_mem.2 hin] at hn
  exact Bool.false_ne_true hn

/-- Nothing of a function is left of its workgroups, launches, packets, operations, worlds and translations. -/
structure Vacated (t : State) (fn : Nat) : Prop where
  wgs : ∀ p ∈ t.wgs, p.2.fn ≠ fn
  launches : ∀ p ∈ t.launches, p.2.fn ≠ fn
  packets : ∀ p ∈ t.packets, p.2.fn ≠ fn
  ops : ∀ p ∈ t.ops, p.2.fn ≠ fn
  worlds : ∀ p ∈ t.worlds, p.2.fn ≠ fn
  tlb : ∀ e ∈ t.tlb, e.fn ≠ fn
  queues : queuesOff (t.fnD fn)

namespace Cached

theorem wgs (c : Cached t u) : u.wgs = t.wgs := (congrArg State.wgs c.rest :)
theorem launches (c : Cached t u) : u.launches = t.launches := (congrArg State.launches c.rest :)
theorem packets (c : Cached t u) : u.packets = t.packets := (congrArg State.packets c.rest :)
theorem ops (c : Cached t u) : u.ops = t.ops := (congrArg State.ops c.rest :)
theorem worlds (c : Cached t u) : u.worlds = t.worlds := (congrArg State.worlds c.rest :)

end Cached

namespace Vacated

variable {fn : Nat}

theorem of_cached (h : Vacated t fn) (c : Cached t u) : Vacated u fn where
  wgs := c.wgs ▸ h.wgs
  launches := c.launches ▸ h.launches
  packets := c.packets ▸ h.packets
  ops := c.ops ▸ h.ops
  worlds := c.worlds ▸ h.worlds
  tlb := c.tlb ▸ h.tlb
  queues := by
    unfold queuesOff
    rw [c.fnD fn Func.queues fun _ => rfl]
    exact h.queues

theorem updFn (h : Vacated t fn) {f : Func → Func} (hf : ∀ x, (f x).queues = x.queues) : Vacated (t.updFn fn f) fn where
  wgs := (updFn_wgs t fn f).symm ▸ h.wgs
  launches := (updFn_launches t fn f).symm ▸ h.launches
  packets := (updFn_packets t fn f).symm ▸ h.packets
  ops := (updFn_ops t fn f).symm ▸ h.ops
  worlds := (updFn_worlds t fn f).symm ▸ h.worlds
  tlb := (updFn_tlb t fn f).symm ▸ h.tlb
  queues := by
    unfold queuesOff
    rw [fnD_updFn_same Func.queues t fn hf]
    exact h.queues

end Vacated

theorem flr_gone (s : State) (fn : Nat) : functionGone (s.flr fn) fn := by
  unfold State.flr
  extract_lets mine s1 s2 s3 ws gs wds s4 s5 s6
  have hq : queuesOff (s4.fnD fn) := queuesOff_closed s fn
  have hwgs : ∀ p ∈ s4.wgs, p.2.fn ≠ fn := fun p hp => of_decide_eq_false (not_of_unlisted hp)
  have hlaunches : ∀ p ∈ s4.launches, p.2.fn ≠ fn := fun p hp => of_decide_eq_true (List.mem_filter.1 hp).2
  have hpackets : ∀ p ∈ s4.packets, p.2.fn ≠ fn := fun p hp => of_decide_eq_true (List.mem_filter.1 hp).2
  have hops : ∀ p ∈ s4.ops, p.2.fn ≠ fn := fun p hp => by
    have h : (!decide (p.2.fn = fn)) = true := (List.mem_filter.1 hp).2
    simpa using h
  have hwds : wds = (s4.worlds.filter fun p => decide (p.2.fn = fn)).map Prod.fst := rfl
  clear_value s4 wds
  obtain ⟨hfreed, hgone⟩ := dropWorlds_gone wds (s4.tlbDrop fun e => decide (e.fn = fn))
  have hf : Freed (s4.tlbDrop fun e => decide (e.fn = fn)) s5 := hfreed.trans (freed_wipeBanks _ _)
  have h5 : Vacated s5 fn :=
    { wgs := hf.wgs ▸ hwgs
      launches := hf.launches ▸ hlaunches
      packets := hf.packets ▸ hpackets
      ops := fun p hp => by
        obtain ⟨q, hq, e⟩ := hf.ops p hp
        exact e ▸ hops q hq
      worlds := fun p hp e => hgone p hp (hwds ▸ List.mem_map_of_mem (List.mem_filter.2 ⟨hfreed.worlds p hp, decide_eq_true e⟩))
      tlb := fun e he => by
        have h := (List.mem_filter.1 (hf.tlb e he)).2
        simpa using h
      queues := by
        unfold State.fnD
        rw [hf.fns]
        exact hq }
  clear_value s5
  have h6 : Vacated s6 fn := h5.of_cached (cached_foldl (fun _ c h => cached_zeroGen c h) _ _ (.refl _))
  clear_value s6
  generalize hz : ({ s6 with ctxs := s6.ctxs.filter fun c => decide (c.1 / 256 ≠ fn) } : State).updFn fn
    (fun f => { f with invWait := none, skip := [] }) = z
  have hctxs : z.ctxs = s6.ctxs.filter fun c => decide (c.1 / 256 ≠ fn) := by rw [← hz]; exact updFn_ctxs ..
  have h7 : Vacated z fn := by
    rw [← hz]
    refine Vacated.updFn ?_ fun _ => rfl
    exact ⟨h6.wgs, h6.launches, h6.packets, h6.ops, h6.worlds, h6.tlb, h6.queues⟩
  have h8 : Vacated { z with draw := z.draw + 2 } fn := ⟨h7.wgs, h7.launches, h7.packets, h7.ops, h7.worlds, h7.tlb, h7.queues⟩
  have c8 := cached_event z 11 fn 0 0 none none
  have h9 := h8.of_cached c8
  refine ⟨h9.wgs, h9.launches, h9.packets, h9.ops, fun p hp => ?_, h9.worlds, h9.tlb, h9.queues⟩
  rw [c8.ctxs, hctxs] at hp
  exact of_decide_eq_true (List.mem_filter.1 hp).2

/-! ### The device rung (R389, R421, R423) -/

theorem poweredDown_dev {d d1 : DevState} (h : poweredDown s t d) : poweredDown s { t with dev := d1 } d1 := by
  obtain ⟨h1, h2, h3, h4, -, h⟩ := h
  exact ⟨h1, h2, h3, h4, rfl, h⟩

theorem poweredDown_deviceReset (s : State) : poweredDown s s.deviceReset .boot := poweredDown_dev (poweredDown_writeCkpt s true)

/-! ### The ladder (R420, R421) -/

theorem devrst_holds (s : State) : completes .devrst s fun t => poweredDown s t .boot
    ∧ (s.dev ≠ .ready → t.ckptA = s.ckptA ∧ t.ckptB = s.ckptB)
    ∧ (s.dev = .ready → ∃ k, t.newest = some k ∧ k.orderly = true ∧ k.age = s.age
      ∧ k.seq = (s.newest.map Checkpoint.seq).getD 0 + 1 ∧ k.wear = s.wear) := by
  refine ⟨s.deviceReset, rfl, poweredDown_deviceReset s, fun hd => ?_, fun hd => ⟨s.ckptNow true, newest_writeCkpt true hd, rfl, rfl, rfl, rfl⟩⟩
  have hs : s.writeCkpt true = s := if_pos hd
  unfold State.deviceReset
  rw [hs]
  exact ⟨rfl, rfl⟩

/-- A rung in progress gives way to the next. -/
theorem exec_escalation {r : Rung} {rest : List Rung} (h : s.rungs = r :: rest)
    (ht : { s with rungs := { r with level := r.level + 1 } :: rest }.event 12 r.fn r.ctx (s.ctxD r.fn r.ctx).world none = t) :
    (r.level = 0 → exec .resetEscalation s = .next ((t.ctxReset r.fn r.ctx).rungStep))
    ∧ (r.level = 1 → exec .resetEscalation s = .next ((t.engReset r.fn r.ctx).rungStep))
    ∧ (r.level = 2 → exec .resetEscalation s = .next ((t.flr r.fn).rungStep))
    ∧ (3 ≤ r.level → exec .resetEscalation s = .next t.deviceReset) := by
  have hexec : exec .resetEscalation s = execResetEscalation s := rfl
  rw [hexec]
  unfold execResetEscalation
  rw [h]
  dsimp only
  rw [ht]
  refine ⟨fun hl => ?_, fun hl => ?_, fun hl => ?_, fun hl => ?_⟩
  · simp only [hl]
  · simp only [hl]
  · simp only [hl]
  · obtain ⟨k, hk⟩ := Nat.exists_eq_add_of_le' hl
    simp only [hk]

theorem escalation_holds (s : State) : (s.rungs = [] → exec .resetEscalation s = .next s)
    ∧ ∀ r rest, s.rungs = r :: rest →
      let s1 := { s with rungs := { r with level := r.level + 1 } :: rest }.event 12 r.fn r.ctx (s.ctxD r.fn r.ctx).world none
      (r.level = 0 → exec .resetEscalation s = .next ((s1.ctxReset r.fn r.ctx).rungStep))
      ∧ (r.level = 1 → exec .resetEscalation s = .next ((s1.engReset r.fn r.ctx).rungStep))
      ∧ (r.level = 2 → exec .resetEscalation s = .next ((s1.flr r.fn).rungStep))
      ∧ (3 ≤ r.level → completes .resetEscalation s fun t => poweredDown s1 t .boot) := by
  refine ⟨fun h => ?_, fun r rest h => ?_⟩
  · have hexec : exec .resetEscalation s = execResetEscalation s := rfl
    rw [hexec]
    unfold execResetEscalation
    rw [h]
  · intro s1
    obtain ⟨h0, h1, h2, h3⟩ := exec_escalation h (t := s1) rfl
    exact ⟨h0, h1, h2, fun hl => ⟨s1.deviceReset, h3 hl, poweredDown_deviceReset s1⟩⟩

theorem pcieFlr_holds (s : State) (fn : Nat) :
    (fn ≤ 12 → s.fnBusy fn = false → completes (.pcieFlr fn) s fun t => functionGone t fn)
    ∧ (fn ≤ 12 → s.fnBusy fn = true → exec (.pcieFlr fn) s = .next { s with inputs := .pcieFlr fn :: s.inputs })
    ∧ (12 < fn → exec (.pcieFlr fn) s = .next s) := by
  have hexec : exec (.pcieFlr fn) s = .next (if 12 < fn then s
    else if s.fnBusy fn then { s with inputs := .pcieFlr fn :: s.inputs } else s.flr fn) := rfl
  refine ⟨fun h hb => ⟨s.flr fn, hexec.trans ?_, flr_gone s fn⟩, fun h hb => hexec.trans ?_, fun h => hexec.trans ?_⟩
  · rw [if_neg (Nat.not_lt.2 h), if_neg (by rw [hb]; exact Bool.false_ne_true)]
  · rw [if_neg (Nat.not_lt.2 h), if_pos hb]
  · rw [if_pos h]

theorem dropCtx_gone (s : State) (fn c : Nat) : tget (s.dropCtx fn c).ctxs (ctxKey fn c) = none ∧ (s.dropCtx fn c).rungs = s.rungs
    ∧ ∀ e ∈ (s.dropCtx fn c).tlb, ¬ (e.fn = fn ∧ e.ctx = c) := by
  refine ⟨tget_tdel_self .., rfl, fun e he => ?_⟩
  have h : (!(decide (e.fn = fn) && decide (e.ctx = c))) = true := (List.mem_filter.1 he).2
  rintro ⟨h1, h2⟩
  rw [decide_eq_true h1, decide_eq_true h2] at h
  exact Bool.false_ne_true h

theorem resetLadder_hold : resetLadder := by
  refine ⟨?_, pcieFlr_holds, escalation_holds, devrst_holds⟩
  intro s w hw hb s1 sig fn c q u v from_ signals
  have hctxs : s.mgmtTaken.ctxs = s.ctxs := mgmtTaken_ctxs s
  have hq : bits (pw w 1) 5 0 = q := by simp [bits, q]
  refine ⟨fun hop hr => ?_, fun hop hc => ?_, fun hc hr hbusy hpk => ?_, fun hop => ?_⟩
  · have hexec := serveLong_ok (exec_qreset hw) hw hop hb (t := v.startRung
      { level := 0, fn := fn, ctx := (s1.queueD fn q).ctx, q := q, signal := pw w 7, from_ := from_ })
      (by unfold mgmtQreset; dsimp only; rw [hq]; rfl)
    refine ⟨fun hpk => ?_, fun hpk => ?_⟩
    · have hover : v.rungOver { level := 0, fn := fn, ctx := (s1.queueD fn q).ctx, q := q, signal := pw w 7, from_ := from_ } = true :=
        (rungOver_queue rfl).trans (congrArg not hpk)
      have hlt : q < 64 := Nat.mod_lt _ (by decide)
      rw [hexec, startRung_over hr hover]
      unfold State.rungDone
      dsimp only
      rw [if_pos hlt]
      rfl
    · have hover : v.rungOver { level := 0, fn := fn, ctx := (s1.queueD fn q).ctx, q := q, signal := pw w 7, from_ := from_ } = false :=
        (rungOver_queue rfl).trans (congrArg not hpk)
      rw [hexec, startRung_stays hr hover]
  · have hnone : ∀ d, mgmtCreset d s.mgmtTaken from_ w = .error 5 := fun d =>
      if_pos (Option.isNone_iff_eq_none.2 (by rw [hctxs]; exact hc))
    rcases hop with hop | hop
    · rw [if_pos hop]
      exact serveLong_error (exec_creset hw) hw hop hb (hnone false)
    · rw [if_neg (by rw [hop]; decide)]
      exact serveLong_error (exec_cdestroy hw) hw hop hb (hnone true)
  · have hsome : ∀ d, mgmtCreset d s.mgmtTaken from_ w = .ok (u.startRung
        { level := 1, fn := fn, ctx := c, q := 64, signal := pw w 7, destroy := d, from_ := from_ }) := fun d =>
      if_neg (by rw [hctxs, Option.isNone_iff_eq_none]; exact hc)
    have hover : ∀ d, u.rungOver { level := 1, fn := fn, ctx := c, q := 64, signal := pw w 7, destroy := d, from_ := from_ } = true :=
      fun d => rungOver_ctx rfl hbusy hpk
    refine ⟨fun hop => ?_, fun hop => ⟨({ u with rungs := [] } : State).dropCtx fn c, ?_, ?_⟩⟩
    · rw [serveLong_ok (exec_creset hw) hw hop hb (hsome false), startRung_over hr (hover false)]
      rfl
    · rw [serveLong_ok (exec_cdestroy hw) hw hop hb (hsome true), startRung_over hr (hover true)]
      rfl
    · exact dropCtx_gone { u with rungs := [] } fn c
  · exact serveMgmt_ok rfl hw hop hb rfl (flr_gone _ _)

end Sys2Proof.Machine
end

section
/-! SUPPORT and O53. The host port, back-invalidates and the loss of a die (R304, R316, R371, R372, R401, R432). -/

namespace Sys2Proof.Machine

variable {s t u : State}

/-! ### The host port (R304, R316, R401) -/

/-- The frames of a range that the host may reach (R401). -/
def State.hostMay (s : State) (wr : Bool) (f : Nat) : Prop :=
  (s.ownerOf f = 0 ∨ s.ownerOf f = 64) ∧ ¬ (wr = true ∧ s.markedX f = true)

theorem hostMay_iff (s : State) (wr : Bool) (f : Nat) :
    (!(decide (s.ownerOf f = 0) || decide (s.ownerOf f = 64)) || (wr && s.markedX f)) = true ↔ ¬ s.hostMay wr f := by
  simp only [State.hostMay, Bool.or_eq_true, Bool.not_eq_true', Bool.or_eq_false_iff, decide_eq_false_iff_not, Bool.and_eq_true]
  tauto

/-- The lines of a range. -/
def rangeLines (pa n : Nat) : List Nat := (List.range ((pa + max n 1 - 1) / 128 - pa / 128 + 1)).map (pa / 128 + ·)

/-- The lines of a host's access come to the hub. -/
def State.hostFetched (s : State) (ls : List Nat) : State := ls.foldl (fun t l => (t.noteNode (128 * l)).verifyLine l) s

/-- The lines of a host's access leave the hub's lists, and their traffic is charged. -/
def State.hostTaken (s : State) (pj : Nat) (ls : List Nat) : State :=
  { ls.foldl State.recall s with hostLines := (ls.foldl State.recall s).hostLines.filter fun l => !ls.contains l }.charge 0 pj

theorem hostFetched_mem (s : State) (ls : List Nat) : (s.hostFetched ls).mem = s.mem :=
  foldl_mem (fun _ _ => (verifyLine_mem ..).trans (noteNode_mem ..)) ls s

theorem hostTaken_mem (s : State) (pj : Nat) (ls : List Nat) : (s.hostTaken pj ls).mem = s.mem :=
  (updFn_mem ..).trans (foldl_mem recall_mem ls s)

/-- The energy of a host's access (R401). -/
def State.hostCost (s : State) (pa n : Nat) : Nat := (if 768 ≤ s.homeOf (pa / 65536) then 16 else 6) * n

section Access

variable {wr : Bool} {pa : Nat} {data : List Byte}

theorem cxl_refused (h : ∃ f ∈ rangeFrames pa data.length, ¬ s.hostMay wr f) : exec (.cxlMemAccess wr pa data) s
    = .next { (s.event 8 0 0 0 (some (BitVec.ofNat 64 pa))) with hostData := [], hostRefused := true } := by
  obtain ⟨f, hf, hn⟩ := h
  exact if_pos (List.any_eq_true.2 ⟨f, hf, (hostMay_iff s wr f).2 hn⟩)

variable (h : ∀ f ∈ rangeFrames pa data.length, s.hostMay wr f)
include h

theorem cxl_allowed : ¬ (rangeFrames pa data.length).any
    (fun f => !(decide (s.ownerOf f = 0) || decide (s.ownerOf f = 64)) || (wr && s.markedX f)) = true := by
  intro e
  obtain ⟨f, hf, hn⟩ := List.any_eq_true.1 e
  exact (hostMay_iff s wr f).1 hn (h f hf)

theorem cxl_failed (hp : ∃ l ∈ rangeLines pa data.length, s.physErr (128 * l) ≠ none) : exec (.cxlMemAccess wr pa data) s
    = .next { s.hostFetched (rangeLines pa data.length) with hostData := [], hostRefused := true } := by
  obtain ⟨l, hl, hn⟩ := hp
  exact (if_neg (cxl_allowed h)).trans (if_pos (List.any_eq_true.2 ⟨l, hl, Option.isSome_iff_ne_none.2 hn⟩))

theorem cxl_done (hp : ∀ l ∈ rangeLines pa data.length, s.physErr (128 * l) = none) : exec (.cxlMemAccess wr pa data) s
    = let s1 := (s.hostFetched (rangeLines pa data.length)).hostTaken (s.hostCost pa data.length) (rangeLines pa data.length)
      if wr then .next { (rangeLines pa data.length).foldl State.countLine (s1.wrBytes pa data) with hostData := [], hostRefused := false }
      else .next { s1 with hostData := s1.rdBytes pa data.length, hostRefused := false } := by
  refine (if_neg (cxl_allowed h)).trans ((if_neg fun e => ?_).trans rfl)
  obtain ⟨l, hl, hn⟩ := List.any_eq_true.1 e
  exact Option.isSome_iff_ne_none.1 hn (hp l hl)

end Access

theorem hostPort_holds (s : State) (wr : Bool) (pa : Nat) (data : List Byte) (hne : data ≠ []) :
    let fs := rangeFrames pa data.length
    let lines := (List.range ((pa + data.length - 1) / 128 - pa / 128 + 1)).map (pa / 128 + ·)
    ((∃ f ∈ fs, ¬ s.hostMay wr f) → completes (.cxlMemAccess wr pa data) s fun t => t.hostRefused = true ∧ t.hostData = [])
    ∧ ((∀ f ∈ fs, s.hostMay wr f) → (∃ l ∈ lines, s.physErr (128 * l) ≠ none) → completes (.cxlMemAccess wr pa data) s fun t =>
        t.hostRefused = true ∧ t.hostData = [] ∧ t.mem = s.mem)
    ∧ ((∀ f ∈ fs, s.hostMay wr f) → (∀ l ∈ lines, s.physErr (128 * l) = none) → completes (.cxlMemAccess wr pa data) s fun t =>
        t.hostRefused = false ∧ (wr = true → t.mem = (s.wrBytes pa data).mem)
          ∧ (wr = false → t.hostData = s.rdBytes pa data.length ∧ t.mem = s.mem)) := by
  intro fs lines
  have hlines : lines = rangeLines pa data.length := by
    unfold rangeLines
    rw [Nat.max_eq_left (List.length_pos_iff.2 hne)]
  rw [hlines]
  refine ⟨fun h => ⟨_, cxl_refused h, rfl, rfl⟩, fun h hp => ⟨_, cxl_failed h hp, rfl, rfl, hostFetched_mem ..⟩, fun h hp => ?_⟩
  have hexec := cxl_done h hp
  have hmem : ((s.hostFetched (rangeLines pa data.length)).hostTaken (s.hostCost pa data.length) (rangeLines pa data.length)).mem = s.mem :=
    (hostTaken_mem ..).trans (hostFetched_mem ..)
  generalize State.hostTaken _ _ _ = s1 at hexec hmem
  cases wr with
  | true => exact ⟨_, hexec, rfl, fun _ => (foldl_mem countLine_mem _ _).trans (wrBytes_of_mem hmem pa data), (nomatch ·)⟩
  | false => exact ⟨_, hexec, rfl, (nomatch ·), fun _ => ⟨rdBytes_of_mem hmem pa data.length, hmem⟩⟩

/-- A line that the host recalls has left the hub. -/
def State.recalled (s : State) (line : Nat) : State :=
  { s.recall line with hostLines := (s.recall line).hostLines.filter fun l => decide (l ≠ line) }

theorem mem_recalled (s : State) (line l : Nat) : l ∈ (s.recalled line).hostLines ↔ l ∈ s.hostLines ∧ l ≠ line := by
  have h : (s.recalled line).hostLines = s.hostLines.filter fun l => decide (l ≠ line) := rfl
  rw [h, List.mem_filter, decide_eq_true_eq]

theorem recalled_mem (s : State) (line : Nat) : (s.recalled line).mem = s.mem := recall_mem s line

/-- The host's bytes land where the line that it recalls lives (R304, R316). -/
theorem backInvalidate_holds (s : State) (rc : HostRecall) :
    let loc := if rc.host then hostLoc rc.pa else rc.pa
    completes (.backInvalidate rc) s fun t => (∀ l, l ∈ t.hostLines ↔ l ∈ s.hostLines ∧ l ≠ loc / 128)
      ∧ t.mem = if rc.host = true ∨ tval false s.bias (rc.pa / 65536) = true then
          (s.wrBytes loc (rc.data.take (128 - loc % 128))).mem else s.mem := by
  intro loc
  have hexec : exec (.backInvalidate rc) s = .next (if rc.host ∨ tval false s.bias (rc.pa / 65536)
      then (s.recalled (loc / 128)).wrBytes loc (rc.data.take (128 - loc % 128)) else s.recalled (loc / 128)) := rfl
  have hmem := recalled_mem s (loc / 128)
  have hlines := mem_recalled s (loc / 128)
  refine ⟨_, hexec, ?_⟩
  generalize s.recalled (loc / 128) = u at hmem hlines
  split
  · refine ⟨fun l => ?_, wrBytes_of_mem hmem _ _⟩
    rw [wrBytes_hostLines]
    exact hlines l
  · exact ⟨hlines, hmem⟩

/-! ### The loss of a die (R371, R372, R432) -/

/-- The dies that are lost stay so, and a context stays, ended if it had. -/
structure Standing (s t : State) : Prop where
  lostDies : t.lostDies = s.lostDies
  ended : ∀ k c, tget s.ctxs k = some c → ∃ d, tget t.ctxs k = some d ∧ (c.ended = true → d.ended = true)

namespace Standing

theorem of_kept (h : Kept s t) : Standing s t := ⟨h.lostDies, h.ended⟩

theorem refl (s : State) : Standing s s := .of_kept (.refl s)

theorem trans (h : Standing s t) (k : Standing t u) : Standing s u where
  lostDies := k.lostDies.trans h.lostDies
  ended key c hc := by
    obtain ⟨d, hd, hcd⟩ := h.ended key c hc
    obtain ⟨e, he, hde⟩ := k.ended key d hd
    exact ⟨e, he, hde ∘ hcd⟩

theorem foldl {β : Type} {f : State → β → State} (h : ∀ s b, Standing s (f s b)) (l : List β) (s : State) : Standing s (l.foldl f s) :=
  List.foldlRecOn (motive := fun t => Standing s t) l f (.refl s) fun t ht b _ => ht.trans (h t b)

end Standing

theorem standing_updLink (s : State) (i : Nat) (f : Link → Link) : Standing s (s.updLink i f) := ⟨rfl, fun _ c hc => ⟨c, hc, id⟩⟩

theorem standing_loseLink (s : State) (i : Nat) : Standing s (s.loseLink i) := by
  unfold State.loseLink
  split
  · exact .refl s
  · exact (standing_updLink s i Link.down).trans (.of_kept (kept_linkEvent (kept_sendHeld (kept_foldl (fun _ a k => kept_answer a.1 a.2 k)
      _ _ (kept_foldl (fun _ _ k => kept_resend k) _ _ (.refl _))))))

theorem standing_loseH (s : State) : Standing s s.loseH :=
  Standing.trans (t := { s with peerOut := [], got := [], toPeers := [], locks := [], moving := [] })
    ⟨rfl, fun _ c hc => ⟨c, hc, id⟩⟩ (.foldl (fun t i => standing_updLink t i Link.down) _ _)

/-- The context that a lost die ends is ended. -/
theorem endCtx_ended {fn ctx : Nat} {c : Context} (h : tget s.ctxs (ctxKey fn ctx) = some c) :
    ∃ d, tget (s.endCtx fn ctx).ctxs (ctxKey fn ctx) = some d ∧ d.ended = true := by
  obtain ⟨d, hd, -⟩ := (kept_endCtx (fn := fn) (ctx := ctx) (.refl s)).ended _ c h
  have hupd : ∃ x : State, s.endCtx fn ctx = x.updCtx fn ctx fun c => { c with ended := true } := ⟨_, rfl⟩
  obtain ⟨x, hx⟩ := hupd
  rw [hx] at hd ⊢
  unfold State.updCtx at hd ⊢
  split at hd
  · next y hy => exact ⟨{ y with ended := true }, tget_tput_self .., rfl⟩
  · next hy =>
    rw [hy] at hd
    cases hd

/-- The state with a die lost, before any context ends. -/
def State.dieGone (s : State) (die : Nat) : State :=
  { s with
    lostDies := die :: s.lostDies
    cores := s.cores.map fun (c : Nat × Core) =>
      if dieOf c.1 = die then (c.1, { c.2 with dirty := [], column := [], l1 := [], icache := [] }) else c
    l2 := tdel s.l2 die }

/-- The contexts that a lost die ends. -/
def State.ctxsOn (s : State) (die : Nat) : List (Nat × Context) :=
  s.ctxs.filter fun (c : Nat × Context) => !c.2.ended && (c.2.tdmask.getLsbD die || decide (die = 12) || decide (die = 13))

/-- The contexts on a lost die end, and the host hears of each. -/
def State.dieEnded (s : State) (die : Nat) : State :=
  let s2 := (s.ctxsOn die).foldl (fun t c => t.endCtx (c.1 / 256) (c.1 % 256)) (s.dieGone die)
  let s3 := (s.ctxsOn die).foldl (fun t c => t.event 1 (c.1 / 256) (c.1 % 256) c.2.world (some (BitVec.ofNat 64 die))) s2
  if s.ctxsOn die = [] then s3.event 1 0 0 0 (some (BitVec.ofNat 64 die)) else s3

theorem exec_dieLoss {die : Nat} (hl : die ∉ s.lostDies) (hd : die < 17) : exec (.dieLoss die) s = .next (
    if 13 ≤ die then (List.range 16).foldl (fun t i => t.loseLink (16 * (die - 13) + i)) (s.dieEnded die)
    else if die = 12 then (s.dieEnded die).loseH else s.dieEnded die) :=
  (if_neg (by rw [List.contains_iff_mem]; exact not_or.2 ⟨hl, Nat.not_le.2 hd⟩)).trans rfl

/-- The contexts that ended before, or that a lost die touched, have ended. -/
theorem dieEnded_holds (s : State) (die : Nat) : (s.dieEnded die).lostDies = die :: s.lostDies
    ∧ ∀ k c, tget s.ctxs k = some c → (c.tdmask.getLsbD die = true ∨ die = 12 ∨ die = 13) →
      ∃ c1, tget (s.dieEnded die).ctxs k = some c1 ∧ c1.ended = true := by
  unfold State.dieEnded
  extract_lets s2 s3
  have h3 : Standing s2 s3 := .of_kept (kept_foldl (fun _ _ h => kept_event _ _ _ _ _ _ h) _ _ (.refl s2))
  have h4 : Standing s2 (if s.ctxsOn die = [] then s3.event 1 0 0 0 (some (BitVec.ofNat 64 die)) else s3) :=
    h3.trans (.of_kept (kept_ite (kept_event _ _ _ _ _ _ (.refl s3)) (.refl s3)))
  have h2 : Standing (s.dieGone die) s2 := .foldl (fun _ _ => .of_kept (kept_endCtx (.refl _))) _ _
  refine ⟨h4.lostDies.trans h2.lostDies, fun k c hc hon => ?_⟩
  have hs2 : ∃ d, tget s2.ctxs k = some d ∧ d.ended = true := by
    cases he : c.ended with
    | true =>
      obtain ⟨d, hd, hcd⟩ := h2.ended k c hc
      exact ⟨d, hd, hcd he⟩
    | false =>
      have hin : (k, c) ∈ s.ctxsOn die := List.mem_filter.2 ⟨mem_of_tget hc, by rcases hon with h | h | h <;> simp [he, h]⟩
      have hk : ctxKey (k / 256) (k % 256) = k := Nat.div_add_mod k 256
      exact (foldl_reaches (R := Standing (s.dieGone die)) (Q := fun t => ∃ d, tget t.ctxs k = some d ∧ d.ended = true) hin
        (fun _ _ _ h => h.trans (.of_kept (kept_endCtx (.refl _))))
        (fun t b _ _ ⟨d, hd, he⟩ => by
          obtain ⟨e, hte, hde⟩ := (kept_endCtx (fn := b.1 / 256) (ctx := b.1 % 256) (.refl t)).ended k d hd
          exact ⟨e, hte, hde he⟩)
        (fun t h => by
          obtain ⟨d, hd, -⟩ := h.ended k c hc
          have hend := endCtx_ended (s := t) (fn := k / 256) (ctx := k % 256) (by rw [hk]; exact hd)
          rw [hk] at hend
          exact hend) (.refl _)).2
  obtain ⟨d, hd, he⟩ := hs2
  obtain ⟨e, hte, hde⟩ := h4.ended k d hd
  exact ⟨e, hte, hde he⟩

theorem dieLoss_holds (s : State) (die : Nat) : ((die ∈ s.lostDies ∨ 17 ≤ die) → exec (.dieLoss die) s = .next s)
    ∧ (die ∉ s.lostDies → die < 17 → completes (.dieLoss die) s fun t => t.lostDies = die :: s.lostDies
      ∧ ∀ k c, tget s.ctxs k = some c → (c.tdmask.getLsbD die = true ∨ die = 12 ∨ die = 13) →
        ∃ c1, tget t.ctxs k = some c1 ∧ c1.ended = true)
    ∧ (12 ∉ s.lostDies → completes (.dieLoss 12) s fun t => t.peerOut = []
      ∧ ∀ i < 64, (t.linkD i).st = 3 ∧ (t.linkD i).unacked = []) := by
  refine ⟨fun h => if_pos (by rw [List.contains_iff_mem]; exact h), fun hl hd => ⟨_, exec_dieLoss hl hd, ?_⟩, fun hl => ?_⟩
  · obtain ⟨hlost, hended⟩ := dieEnded_holds s die
    have hst : Standing (s.dieEnded die)
        (if 13 ≤ die then (List.range 16).foldl (fun t i => t.loseLink (16 * (die - 13) + i)) (s.dieEnded die)
          else if die = 12 then (s.dieEnded die).loseH else s.dieEnded die) := by
      split
      · exact .foldl (fun t i => standing_loseLink t _) _ _
      · split
        · exact standing_loseH _
        · exact .refl _
    refine ⟨hst.lostDies.trans hlost, fun k c hc hon => ?_⟩
    obtain ⟨d, hd, he⟩ := hended k c hc hon
    obtain ⟨e, hte, hde⟩ := hst.ended k d hd
    exact ⟨e, hte, hde he⟩
  · refine ⟨(s.dieEnded 12).loseH, exec_dieLoss hl (by decide), ?_, fun i hi => ?_⟩
    · exact List.foldlRecOn (motive := fun t : State => t.peerOut = []) _ _ rfl fun _ ht _ _ => ht
    · unfold State.loseH
      rw [linkD_updLinks, if_pos hi]
      exact ⟨rfl, rfl⟩

theorem hostPortAndLoss_hold : hostPortAndLoss := ⟨hostPort_holds, backInvalidate_holds, dieLoss_holds⟩

end Sys2Proof.Machine

open Sys2Proof Sys2Proof.Machine in
/-- Settles O53: requests through `serveMgmt_ok` and `serveLong_ok`, each with an equation of its own; the ladder by what a rung's end
makes of the state and `flr_gone`; power by `poweredDown_deviceReset`; and the loss of a die by what lasts (`Standing`). -/
theorem managementEvents : Obligations.MANAGEMENT_EVENTS :=
  ⟨requestsTaken_hold, partitionRequests_hold, worldRequests_hold, resetLadder_hold, hostPortAndLoss_hold⟩
end

section
/-! SUPPORT. Page moves (R320, R324, R326, R373) and time slices (R419, R426). -/

namespace Sys2Proof.Machine

variable {s t u : State}

/-! ### Page moves (R320, R324, R326, R373) -/

theorem serveMove_of {op fn ring : Nat} {w : List Word} {r : State × Option (State × Bool)}
    (h : pickReq s.moveReqs op 1 = some (fn, ring, w)) (hr : (s.ringTake ring).wsReadyAll.moveReq fn w op = r) :
    (r.1.wants ≠ [] → s.serveMove op = r.1)
    ∧ (r.1.wants = [] → r.2 = none → s.serveMove op = r.1.ringSig (s.enqView (s.headElem ring)) (pw w 3).toNat (.neg 1))
    ∧ ∀ t ok, r.1.wants = [] → r.2 = some (t, ok) →
      s.serveMove op = t.ringSig (s.enqView (s.headElem ring)) (pw w 3).toNat (if ok then .dec else .neg 1) := by
  unfold State.serveMove
  rw [h]
  dsimp only
  rw [hr]
  refine ⟨fun hw => if_pos (mt List.isEmpty_iff.1 hw), fun hw h2 => ?_, fun t ok hw h2 => ?_⟩
  · rw [if_neg (not_not.2 (List.isEmpty_iff.2 hw)), h2]
  · rw [if_neg (not_not.2 (List.isEmpty_iff.2 hw)), h2]

theorem accessed_peerPage {v : View} {peer pa n : Nat} : Accessed s (s.peerPage v peer pa n).1 := by
  induction n generalizing s pa with
  | zero => exact .refl s
  | succ n ih =>
    unfold State.peerPage
    extract_lets r q
    have hq : Accessed s q.1 := (accessed_readP v _ 128 0 0 (.refl s)).trans ih
    split
    · exact hq
    · exact hq

/-- What a page at a peer is asked for with leaves Strudel's list alone. -/
theorem pageIn_moves (s : State) (fn ctx : Nat) (l : Word) (size : Nat) : (s.pageIn fn ctx l size).1.moves = s.moves := by
  unfold State.pageIn
  split
  · extract_lets r e
    have hr : r.1.moves = s.moves := (congrArg State.moves accessed_peerPage.rest :)
    split
    · exact hr
    · exact hr
  · rfl

theorem event_moves (s : State) (code fn ctx world : Nat) (w1 detail : Option Word) :
    (s.event code fn ctx world w1 detail).moves = s.moves := (congrArg State.moves (cached_event s code fn ctx world w1 detail).rest :)

section Make

variable {m : Move} {l : Word} {place size : Nat} {g : State} {bytes : Option (List Byte)}
  (hl : s.leafAt m.page = some (l, place, size)) (hg : s.pageIn m.fn m.ctx l size = (g, bytes))
include hl hg

theorem makeMove_awaits (hb : bytes = none) : s.makeMove m = g := by
  unfold State.makeMove
  rw [hl]
  dsimp only
  rw [hg, hb]

theorem makeMove_made {b : List Byte} (hb : bytes = some b) {t : State} {ok : Bool}
    (hr : (g.pageUp (m.by_.getD m.fn) m.page (s.outgoingOf (m.by_.getD m.fn)) (s.fnD (m.by_.getD m.fn)).skip b).1 = some (t, ok)) :
    s.makeMove m = t.updFn (m.by_.getD m.fn) fun f => { f with skip :=
      (g.pageUp (m.by_.getD m.fn) m.page (s.outgoingOf (m.by_.getD m.fn)) (s.fnD (m.by_.getD m.fn)).skip b).2 } := by
  unfold State.makeMove
  rw [hl]
  dsimp only
  rw [hg, hb]
  dsimp only
  rw [hr]

theorem makeMove_aside {b : List Byte} (hb : bytes = some b)
    (hr : (g.pageUp (m.by_.getD m.fn) m.page (s.outgoingOf (m.by_.getD m.fn)) (s.fnD (m.by_.getD m.fn)).skip b).1 = none) :
    (s.makeMove m).moves = s.moves ++ [{ m with stuck := true }] := by
  have hmoves : g.moves = s.moves := (congrArg (fun x : State × Option (List Byte) => x.1.moves) hg).symm.trans (pageIn_moves ..)
  unfold State.makeMove
  rw [hl]
  dsimp only
  rw [hg, hb]
  dsimp only
  rw [hr]
  dsimp only
  split
  · rw [event_moves, hmoves]
  · rw [hmoves]

end Make

/-- The listed move that comes next is dropped or made. -/
theorem exec_pageMove {s0 : State} {m : Move} (h : (s0.wsReadyAll.addEvacs none).moves.find? (fun x => !x.stuck) = some m) :
    let s := s0.wsReadyAll.addEvacs none
    let s1 := { s with moves := s.moves.filter fun x => decide (x.id ≠ m.id) }
    exec .pageMove s0 = .next (if s.moveLive m then s1.makeMove m else s1) := by
  have hexec : exec .pageMove s0 = execPageMove s0 := rfl
  intro s s1
  rw [hexec]
  unfold execPageMove
  have hm : (s0.wsReadyAll.addEvacs none).nextMove = some m := h
  dsimp only
  rw [hm]

theorem pageMoves_hold : pageMoves := by
  constructor
  · intro s fn ring w e he h by_ sig r
    have hserve := serveMove_of h (r := r) rfl
    have hexec : exec e.2 s = .next (s.serveMove e.1) := by
      simp only [List.mem_cons, List.not_mem_nil, or_false] at he
      rcases he with rfl | rfl <;> rfl
    rw [hexec]
    exact ⟨fun hw => congrArg _ (hserve.1 hw), fun hw h2 => congrArg _ (hserve.2.1 hw h2),
      fun t ok hw h2 => congrArg _ (hserve.2.2 t ok hw h2)⟩
  · intro s0 m s h home s1
    have hexec := exec_pageMove h
    refine ⟨fun hlive => hexec.trans (congrArg _ (if_neg (ne_true_of_eq_false hlive))), fun hlive l place size g bytes hl hg => ?_⟩
    have hmake : exec .pageMove s0 = .next (s1.makeMove m) := hexec.trans (congrArg _ (if_pos hlive))
    refine ⟨fun hb => hmake.trans (congrArg _ (makeMove_awaits hl hg hb)), fun b hb => ⟨fun t ok hr => ?_, fun hr => ?_⟩⟩
    · exact hmake.trans (congrArg _ (makeMove_made hl hg hb hr))
    · exact ⟨s1.makeMove m, hmake, makeMove_aside hl hg hb hr⟩

/-! ### Time slices (R419, R426) -/

section Quantum

variable {s0 : State} {fn : Nat} {f : Func} (hq : s0.lookQueues.quantumOver = some (fn, f))
include hq

theorem quantumEnd_stays (h : s0.lookQueues.nextMember fn = none ∨ s0.lookQueues.nextMember fn = some fn) :
    exec .quantumEnd s0 = .next (s0.lookQueues.updFn fn fun f => { f with left := f.quantum }) := by
  have hexec : exec .quantumEnd s0 = execQuantumEnd s0 := rfl
  rw [hexec]
  unfold execQuantumEnd
  dsimp only
  rw [hq]
  dsimp only
  rcases h with h | h
  · rw [h]
  · rw [h]
    exact if_pos rfl

theorem quantumEnd_switches {g : Nat} (h : s0.lookQueues.nextMember fn = some g) (hne : g ≠ fn) :
    ∃ t : State, exec .quantumEnd s0 = .next { t with switches := tput t.switches f.first { outgoing := fn, incoming := g } } := by
  have hexec : exec .quantumEnd s0 = execQuantumEnd s0 := rfl
  rw [hexec]
  unfold execQuantumEnd
  dsimp only
  rw [hq]
  dsimp only
  rw [h]
  exact ⟨_, if_neg hne⟩

end Quantum

/-- Pages that join Strudel's list leave functions, switches and launches alone. -/
structure Listed (s t : State) : Prop where
  fns : t.fns = s.fns
  switches : t.switches = s.switches
  launches : t.launches = s.launches

theorem listed_addMoves (s : State) (ps : List Page) : Listed s (s.addMoves ps) := by
  refine List.foldlRecOn (motive := fun t => Listed s t) ps _ ⟨rfl, rfl, rfl⟩ fun t ht p _ => ?_
  split
  · exact ht
  · exact ⟨ht.fns, ht.switches, ht.launches⟩

theorem comeIn_holds (s : State) {fn out : Nat} (hf : tget s.fns fn ≠ none) (hne : fn ≠ out) :
    ((s.comeIn fn out).fnD fn).resident = true ∧ ((s.comeIn fn out).fnD fn).left = (s.fnD fn).quantum + 1
      ∧ ((s.comeIn fn out).fnD fn).lastOut = some out ∧ (s.comeIn fn out).fnD out = s.fnD out
      ∧ (s.comeIn fn out).switches = s.switches
      ∧ ∀ l x, tget (s.comeIn fn out).launches l = some x → x.fn = fn → x.gateOpen = false := by
  unfold State.comeIn
  extract_lets s1 s2 s3
  have h2 : Listed s s2 := List.foldlRecOn (motive := fun t => Listed s t) _ _ ⟨rfl, rfl, rfl⟩ fun t ht c _ =>
    let k := listed_addMoves t (t.bringUp fn c)
    ⟨k.fns.trans ht.fns, k.switches.trans ht.switches, k.launches.trans ht.launches⟩
  have hfnD : ∀ h, s2.fnD h = s.fnD h := fun h => by unfold State.fnD; rw [h2.fns]
  have hin : tget s2.fns fn ≠ none := by rw [h2.fns]; exact hf
  have hself : s3.fnD fn = _ := (fnD_updFn _ _ _ _ hin).trans (if_pos rfl)
  have hout : s3.fnD out = s2.fnD out := (fnD_updFn _ _ _ _ hin).trans (if_neg hne.symm)
  have hsw : s3.switches = s2.switches := updFn_switches ..
  clear_value s3
  refine ⟨?_, ?_, ?_, ?_, ?_, ?_⟩
  · exact (congrArg Func.resident hself).trans rfl
  · exact (congrArg Func.left hself).trans (congrArg (fun f => Func.quantum f + 1) (hfnD fn))
  · exact (congrArg Func.lastOut hself).trans rfl
  · exact hout.trans (hfnD out)
  · exact hsw.trans h2.switches
  · intro l x hx hfn
    obtain ⟨p, -, hp⟩ := List.mem_map.1 (mem_of_tget hx)
    split at hp
    · cases hp
      rfl
    · next hn =>
      cases hp
      exact absurd hfn hn

theorem timeSlices_hold : timeSlices := by
  constructor
  · intro s0 fn f s hq hf
    refine ⟨fun h => ⟨_, quantumEnd_stays hq h, (fnD_updFn _ _ _ _ hf).trans (if_pos rfl)⟩, fun g h hne => ?_⟩
    obtain ⟨t, ht⟩ := quantumEnd_switches hq h hne
    exact ⟨_, ht, tget_tput_self ..⟩
  · intro s0 k w s h hin hout hne
    have hexec : exec .incomingResident s0 = .next
        (State.comeIn { (s.updFn w.outgoing fun f => { f with resident := false }) with switches := tdel s.switches k } w.incoming w.outgoing) := by
      have he : exec .incomingResident s0 = execIncomingResident s0 := rfl
      rw [he]
      unfold execIncomingResident
      have h' : s0.wsReadyAll.switchReady = some (k, w) := h
      dsimp only
      rw [h']
    generalize hs1 : ({ (s.updFn w.outgoing fun f => { f with resident := false }) with switches := tdel s.switches k } : State) = s1 at hexec
    have hfns : s1.fns = (s.updFn w.outgoing fun f => { f with resident := false }).fns := by rw [← hs1]
    have hfnD : ∀ h, s1.fnD h = (s.updFn w.outgoing fun f => { f with resident := false }).fnD h := fun h => by
      unfold State.fnD; rw [hfns]
    have hsw : s1.switches = tdel s.switches k := by rw [← hs1]
    obtain ⟨h1, h2, h3, h4, h5, h6⟩ := comeIn_holds s1 (fn := w.incoming) (out := w.outgoing)
      (by rw [hfns]; exact updFn_fns_ne_none _ hin) hne
    refine ⟨_, hexec, h1, ?_, h3, ?_, ?_, h6⟩
    · rw [h2, hfnD, fnD_updFn _ _ _ _ hout, if_neg hne]
    · rw [h4, hfnD, fnD_updFn _ _ _ _ hout, if_pos rfl]
    · rw [h5, hsw, tget_tdel_self]

end Sys2Proof.Machine
end

section
/-! SUPPORT. Requests of invalidation rings (R362, R363, R370, R400). -/

namespace Sys2Proof.Machine

variable {s t u : State}

/-! ### Storage writes that land (R303) -/

theorem dropCopies_mem (s : State) (die line : Nat) (k : Option Nat) : (s.dropCopies die line k).mem = s.mem := by
  refine foldl_mem (fun t c => ?_) _ _
  split
  · rfl
  · split <;> rfl

theorem fmtLand_mem (s : State) (f : FmtStore) : (s.fmtLand f).mem = (s.wrByte f.loc f.val).mem :=
  (countLine_mem ..).trans ((recall_mem ..).trans ((dropL1_mem ..).trans (dropCopies_mem ..)))

theorem cached_fmtAll (s : State) : Cached s s.fmtAll :=
  cached_foldl (fun _ f h => cached_fmtLand f h) _ _ ((Cached.refl s).of_rest rfl rfl)

/-- A byte that no waiting storage write is to is as before when they have landed. -/
theorem rdByte_fmtAll {l : Nat} (h : ∀ f ∈ s.fmtPend, f.loc ≠ l) : s.fmtAll.rdByte l = s.rdByte l := by
  refine List.foldlRecOn (motive := fun t : State => t.rdByte l = s.rdByte l) _ _ rfl fun t ht f hf => ?_
  have hrd : (t.fmtLand f).rdByte l = (t.wrByte f.loc f.val).rdByte l := by unfold State.rdByte; rw [fmtLand_mem]
  rw [hrd, rdByte_wrByte, if_neg (h f hf).symm, ht]

/-! ### Serving a request (R362, R363) -/

section Serve

variable {op : Nat} {f : State → Nat → Nat → List Word → State}

/-- A request that is performed is reported before another is taken. -/
theorem serveInv_reports {fn : Nat} {v : InvWait} (h : s.invDone = some (fn, v)) : s.serveInv op f
    = (s.updFn fn fun g => { g with invWait := none }).ringSig (v.from_.map s.keyView) v.signal.toNat .dec := by
  unfold State.serveInv
  rw [h]

variable {fn ring : Nat} {w : List Word} (hd : s.invDone = none) (h : pickReq s.invReqs op 3 = some (fn, ring, w))
include hd h

theorem serveInv_bad (hb : s.invBad fn w = true) : s.serveInv op f
    = (s.ringTake ring).ringSig ((tget s.enqBy (s.headElem ring)).map s.keyView) (pw w 3).toNat (.neg 1) := by
  unfold State.serveInv
  rw [hd]
  dsimp only
  rw [h]
  exact if_pos hb

theorem serveInv_performs (hb : s.invBad fn w = false) : s.serveInv op f
    = let u := (f (s.ringTake ring) fn (reqCtx w) w).fmtAll
      if u.olderOut fn u.tick then u.updFn fn fun g =>
        { g with invWait := some { since := u.tick, from_ := tget s.enqBy (s.headElem ring), signal := pw w 3 } }
      else u.ringSig ((tget s.enqBy (s.headElem ring)).map s.keyView) (pw w 3).toNat .dec := by
  unfold State.serveInv
  rw [hd]
  dsimp only
  rw [h]
  exact if_neg (ne_true_of_eq_false hb)

end Serve

/-! ### What each OP does (R362 to R364, R370, R400) -/

theorem mem_tlbDrop (s : State) (p : TlbEntry → Bool) (e : TlbEntry) : e ∈ (s.tlbDrop p).tlb ↔ e ∈ s.tlb ∧ p e = false := by
  have h : (s.tlbDrop p).tlb = s.tlb.filter fun e => !p e := rfl
  rw [h, List.mem_filter, Bool.not_eq_true']

/-- The bits of a request's BASE that name a page. -/
theorem getLsbD_baseMask : ∀ i < 64, (0x000FFFFFFFFF0000 : Word).getLsbD i = decide (16 ≤ i ∧ i < 52) := by decide

/-- The pages of a request's range, as an address (R363). -/
theorem reqBase_eq (v : Word) : bits v 51 16 * 65536 = (v &&& 0x000FFFFFFFFF0000).toNat := by
  refine Nat.eq_of_testBit_eq fun i => ?_
  rw [show (65536 : Nat) = 2 ^ 16 from rfl, Nat.testBit_mul_two_pow, testBit_bits v (show 51 + 1 - 16 = 36 from rfl), ← BitVec.getLsbD,
    BitVec.getLsbD_and]
  by_cases h64 : i < 64
  · rw [getLsbD_baseMask i h64]
    by_cases h16 : 16 ≤ i
    · rw [show 16 + (i - 16) = i by omega]
      simp only [h16, true_and, decide_true, Bool.true_and]
      rw [Bool.and_comm, show decide (i - 16 < 36) = decide (i < 52) from decide_eq_decide.2 (by omega)]
    · simp [h16]
  · rw [BitVec.getLsbD_of_ge v i (Nat.not_lt.1 h64), BitVec.getLsbD_of_ge v (16 + (i - 16)) (by omega)]
    simp

theorem invRange_tlb (s : State) (fn ctx : Nat) (w : List Word) (e : TlbEntry) : e ∈ (s.invRange fn ctx w).tlb ↔ e ∈ s.tlb
    ∧ ¬ (e.fn = fn ∧ e.ctx = ctx ∧ e.space = reqSpace w
      ∧ e.base < (pw w 1 &&& 0x000FFFFFFFFF0000).toNat + ((pw w 2).setWidth 32).toNat * 65536
      ∧ (pw w 1 &&& 0x000FFFFFFFFF0000).toNat < e.base + e.size) := by
  have hn : bits (pw w 2) 31 0 = ((pw w 2).setWidth 32).toNat := by simp [bits]
  unfold State.invRange
  dsimp only
  rw [mem_tlbDrop, reqBase_eq, hn]
  simp only [Bool.and_eq_false_iff, decide_eq_false_iff_not, and_congr_right_iff]
  intro _
  tauto

theorem invCtx_tlb (s : State) (fn ctx : Nat) (e : TlbEntry) :
    e ∈ (s.invCtx fn ctx).tlb ↔ e ∈ s.tlb ∧ ¬ (e.fn = fn ∧ e.ctx = ctx) := by
  unfold State.invCtx
  rw [mem_tlbDrop, Bool.and_eq_false_iff, decide_eq_false_iff_not, decide_eq_false_iff_not]
  tauto

/-- The frames that a request names (R364, R400). -/
abbrev reqFrames (w : List Word) (f : Nat) : Prop :=
  ((pw w 1).extractLsb' 16 48).toNat ≤ f ∧ f < ((pw w 1).extractLsb' 16 48).toNat + ((pw w 2).setWidth 32).toNat ∧ f < 2 ^ 34

/-- The test of `State.invFrames`. -/
def inFrames (w : List Word) (f : Nat) : Bool :=
  decide (bits (pw w 1) 63 16 ≤ f) && decide (f < bits (pw w 1) 63 16 + min (bits (pw w 2) 31 0) (2 ^ 34 - bits (pw w 1) 63 16))

theorem inFrames_iff (w : List Word) (f : Nat) : inFrames w f = true ↔ reqFrames w f := by
  have h1 : bits (pw w 1) 63 16 = ((pw w 1).extractLsb' 16 48).toNat := bits_eq_extract _ rfl
  have h2 : bits (pw w 2) 31 0 = ((pw w 2).setWidth 32).toNat := by simp [bits]
  unfold inFrames reqFrames
  rw [h1, h2, Bool.and_eq_true, decide_eq_true_eq, decide_eq_true_eq]
  omega

section Frames

variable (s : State) (fn ctx : Nat) (w : List Word)

/-- What is left before the frames of the world go: translations of the frames, and marks. -/
def State.unmarked : State :=
  let world := (s.ctxD fn ctx).world
  let n := min (bits (pw w 2) 31 0) (2 ^ 34 - bits (pw w 1) 63 16)
  { s.tlbDrop (fun e => decide ((s.ctxD e.fn e.ctx).world = world) && leafIn (inFrames w) e.leaf e.size) with
    markX := tclear s.markX (markKey world (bits (pw w 1) 63 16)) n
    markW := tclear s.markW (markKey world (bits (pw w 1) 63 16)) n }

theorem invFrames_eq : s.invFrames fn ctx w
    = (s.unmarked fn ctx w).freeFrames fun f => inFrames w f && decide (s.ownerOf f = (s.ctxD fn ctx).world) := rfl

theorem invFrames_ownerOf (f : Nat) :
    (s.invFrames fn ctx w).ownerOf f = if reqFrames w f ∧ s.ownerOf f = (s.ctxD fn ctx).world then 255 else s.ownerOf f := by
  rw [invFrames_eq, freeFrames_ownerOf]
  refine ite_congr ?_ (fun _ => rfl) fun _ => rfl
  rw [Bool.and_eq_true, inFrames_iff, decide_eq_true_eq]

theorem invFrames_tlb {e : TlbEntry} (h : e ∈ (s.invFrames fn ctx w).tlb) (hw : (s.ctxD e.fn e.ctx).world = (s.ctxD fn ctx).world)
    (ht : leafTier e.leaf ≤ 1) : ∀ f ∈ framesOf e.leaf e.size, ¬ reqFrames w f := by
  rw [invFrames_eq] at h
  have hun : e ∈ (s.unmarked fn ctx w).tlb := (freed_freeFrames _ _).tlb e h
  have hin := (mem_tlbDrop s _ e).1 hun
  intro f hf hn
  have hleaf : leafIn (inFrames w) e.leaf e.size = true :=
    Bool.and_eq_true_iff.2 ⟨decide_eq_true ht, List.any_eq_true.2 ⟨f, hf, (inFrames_iff w f).2 hn⟩⟩
  have hp := hin.2
  rw [decide_eq_true hw, hleaf] at hp
  exact Bool.false_ne_true hp.symm

theorem invFrames_rdByte {l : Nat} (hl : l < 2 ^ 64) (hn : reqFrames w (l / 65536))
    (ho : s.ownerOf (l / 65536) = (s.ctxD fn ctx).world) : (s.invFrames fn ctx w).fmtAll.rdByte l = 0 := by
  have hp : (inFrames w (l / 65536) && decide (s.ownerOf (l / 65536) = (s.ctxD fn ctx).world)) = true := by
    rw [(inFrames_iff w _).2 hn, decide_eq_true ho]
    rfl
  rw [invFrames_eq]
  rw [rdByte_fmtAll fun f hf e => ?_]
  · exact freeFrames_rdByte _ (fun f => inFrames w f && decide (s.ownerOf f = (s.ctxD fn ctx).world)) hl hp
  · have hf' : (!(inFrames w (f.loc / 65536) && decide (s.ownerOf (f.loc / 65536) = (s.ctxD fn ctx).world))) = true :=
      (List.mem_filter.1 hf).2
    rw [e, hp] at hf'
    exact Bool.false_ne_true hf'

end Frames

/-- A fold of bits keeps those it starts with. -/
theorem getLsbD_orBits (ds : List Nat) (m : BitVec 17) {i : Nat} (h : m.getLsbD i = true) :
    (ds.foldl (fun m d => m ||| (1#17 <<< d)) m).getLsbD i = true := by
  refine List.foldlRecOn (motive := fun m : BitVec 17 => m.getLsbD i = true) ds _ h fun m hm d _ => ?_
  rw [BitVec.getLsbD_or, hm, Bool.true_or]

/-- TDMASK only loses bits, and never H (R370). -/
theorem tdRecompute_tdmask (s : State) (fn ctx : Nat) (h : tget s.ctxs (ctxKey fn ctx) ≠ none) :
    ((s.tdRecompute fn ctx).ctxD fn ctx).tdmask &&& ~~~(s.ctxD fn ctx).tdmask = 0
    ∧ ((s.tdRecompute fn ctx).ctxD fn ctx).tdmask.getLsbD 12 = (s.ctxD fn ctx).tdmask.getLsbD 12 := by
  unfold State.tdRecompute
  extract_lets c ls ds
  rw [ctxD_updCtx_self _ h]
  dsimp only
  have h12 := getLsbD_orBits ds 0x1000 (i := 12) (by decide)
  generalize ds.foldl _ _ = m at h12
  refine ⟨?_, ?_⟩
  · ext i hi
    simp
  · rw [BitVec.getLsbD_and, h12, Bool.true_and]

theorem invalidations_hold : invalidations := by
  constructor
  · intro s fn v h i hi
    simp only [List.mem_cons, List.not_mem_nil, or_false] at hi
    rcases hi with rfl | rfl | rfl | rfl
    all_goals exact congrArg Host.Outcome.next (serveInv_reports h)
  · intro s op fn ring w hd h s1 sig from_ performed ctx lo n events
    refine ⟨fun hb e he ho => ?_, fun hb => ⟨fun ho => ?_, fun ho => ?_, fun ho => ?_, fun ho => ?_⟩⟩
    · have hbad : ∀ {f}, s.serveInv e.1 f = s1.ringSig (from_.map s.keyView) sig (.neg 1) := serveInv_bad hd (ho ▸ h) hb
      simp only [events, List.mem_cons, List.not_mem_nil, or_false] at he
      rcases he with rfl | rfl | rfl | rfl
      all_goals exact congrArg Host.Outcome.next hbad
    · subst ho
      refine ⟨(s1.invRange fn ctx w).fmtAll, fun e => ?_, congrArg Host.Outcome.next (serveInv_performs hd h hb)⟩
      rw [(cached_fmtAll _).tlb, invRange_tlb, ringTake_tlb]
    · subst ho
      refine ⟨(s1.invCtx fn ctx).fmtAll, fun e => ?_, congrArg Host.Outcome.next (serveInv_performs hd h hb)⟩
      rw [(cached_fmtAll _).tlb, invCtx_tlb, ringTake_tlb]
    · intro first world named
      subst ho
      have hworld : ∀ a b, (s1.ctxD a b).world = (s.ctxD a b).world := fun a b => by rw [ringTake_ctxD]
      refine ⟨(s1.invFrames fn ctx w).fmtAll, ⟨fun f => ?_, fun e he hw ht => ?_, fun l hl hn ho => ?_⟩,
        congrArg Host.Outcome.next (serveInv_performs hd h hb)⟩
      · have hown : (s1.invFrames fn ctx w).fmtAll.ownerOf f = (s1.invFrames fn ctx w).ownerOf f := by
          unfold State.ownerOf
          rw [(cached_fmtAll _).owner]
        rw [hown, invFrames_ownerOf, ringTake_ownerOf, hworld]
      · rw [(cached_fmtAll _).tlb] at he
        exact invFrames_tlb s1 fn ctx w he (by rw [hworld, hworld]; exact hw) ht
      · exact invFrames_rdByte s1 fn ctx w hl hn (by rw [hworld, ringTake_ownerOf]; exact ho)
    · subst ho
      have hctx : tget s1.ctxs (ctxKey fn ctx) ≠ none := by
        rw [ringTake_ctxs]
        intro e
        unfold State.invBad at hb
        rw [show tget s.ctxs (ctxKey fn (reqCtx w)) = none from e] at hb
        simp at hb
      have hD : ((s1.tdRecompute fn ctx).fmtAll).ctxD fn ctx = (s1.tdRecompute fn ctx).ctxD fn ctx := by
        unfold State.ctxD
        rw [(cached_fmtAll _).ctxs]
      have htd := tdRecompute_tdmask s1 fn ctx hctx
      rw [ringTake_ctxD] at htd
      refine ⟨(s1.tdRecompute fn ctx).fmtAll, ⟨?_, ?_, ?_⟩, congrArg Host.Outcome.next (serveInv_performs hd h hb)⟩
      · rw [(cached_fmtAll _).tlb]
        exact (updCtx_tlb ..).trans (ringTake_tlb ..)
      · rw [hD]
        exact htd.1
      · rw [hD]
        exact htd.2

end Sys2Proof.Machine
end

section
/-! SUPPORT. What the hub does for a context (R325, R358, R359, R364, R370, R399, R440): it takes frames that nobody owns and sets
marks and touched dies, and takes none of these away. `Served fn ctx s t` says so of a state `t` that comes of `s`; one lemma per
operation says that the operation keeps it. -/

namespace Sys2Proof.Machine

/-- What the hub keeps of owners, marks and contexts. -/
def State.claims (s : State) : Table Context × Table Nat × Table Bool × Table Bool := (s.ctxs, s.owner, s.markX, s.markW)

/-- What `s` has of owners, marks and touched dies, `t` has. -/
structure Served (fn ctx : Nat) (s t : State) : Prop where
  world : (t.ctxD fn ctx).world = (s.ctxD fn ctx).world
  tdmask : ∀ d, (s.ctxD fn ctx).tdmask.getLsbD d = true → (t.ctxD fn ctx).tdmask.getLsbD d = true
  owner : ∀ f, s.ownerOf f ≠ 255 ∨ (s.ctxD fn ctx).world = 255 → t.ownerOf f = s.ownerOf f
  markX : ∀ k, tval false s.markX k = true → tval false t.markX k = true
  markW : ∀ k, tval false s.markW k = true → tval false t.markW k = true

variable {fn ctx : Nat} {s0 s t u : State}

namespace Served

theorem refl (s : State) : Served fn ctx s s := ⟨rfl, fun _ => id, fun _ _ => rfl, fun _ => id, fun _ => id⟩

theorem trans (h : Served fn ctx s t) (k : Served fn ctx t u) : Served fn ctx s u where
  world := k.world.trans h.world
  tdmask d hd := k.tdmask d (h.tdmask d hd)
  owner f hf := (k.owner f (by rw [h.owner f hf, h.world]; exact hf)).trans (h.owner f hf)
  markX x hx := k.markX x (h.markX x hx)
  markW x hx := k.markW x (h.markW x hx)

/-- A change of what is not claimed. -/
theorem of_same (h : Served fn ctx s t) (e : u.claims = t.claims) : Served fn ctx s u := by
  refine h.trans ?_
  simp only [State.claims, Prod.mk.injEq] at e
  obtain ⟨hc, ho, hx, hw⟩ := e
  exact
    { world := by unfold State.ctxD; rw [hc]
      tdmask := fun d hd => by unfold State.ctxD; rw [hc]; exact hd
      owner := fun f _ => by unfold State.ownerOf; rw [ho]
      markX := fun k hk => by rw [hx]; exact hk
      markW := fun k hk => by rw [hw]; exact hk }

theorem of_cached (h : Served fn ctx s t) (c : Cached t u) : Served fn ctx s u := h.of_same (congrArg State.claims c.rest :)

end Served

/-! ### Loops and branches -/

theorem served_foldl {β : Type} {f : State → β → State} (h : ∀ s b, Served fn ctx s0 s → Served fn ctx s0 (f s b)) (l : List β)
    (s : State) (hs : Served fn ctx s0 s) : Served fn ctx s0 (l.foldl f s) :=
  List.foldlRecOn l f hs fun t ht b _ => h t b ht

/-- A loop that carries a list along. -/
theorem served_foldl1 {β γ : Type} {f : State × γ → β → State × γ}
    (h : ∀ a b, Served fn ctx s0 a.1 → Served fn ctx s0 (f a b).1) (l : List β) (a : State × γ) (ha : Served fn ctx s0 a.1) :
    Served fn ctx s0 (l.foldl f a).1 :=
  List.foldlRecOn (motive := fun a : State × γ => Served fn ctx s0 a.1) l f ha fun a k b _ => h a b k

theorem served_ite {p : Prop} [Decidable p] {a b : State} (ha : Served fn ctx s0 a) (hb : Served fn ctx s0 b) :
    Served fn ctx s0 (if p then a else b) := by
  split
  · exact ha
  · exact hb

theorem served_ite1 {β : Type} {p : Prop} [Decidable p] {a b : State × β} (ha : Served fn ctx s0 a.1) (hb : Served fn ctx s0 b.1) :
    Served fn ctx s0 (if p then a else b).1 := by
  split
  · exact ha
  · exact hb

/-! ### Owners, marks and touched dies -/

theorem takeOwners_kept (s : State) (world : Nat) (priv : Bool) (fs : List Nat) {f : Nat} (h : s.ownerOf f ≠ 255 ∨ world = 255) :
    (s.takeOwners world priv fs).1.ownerOf f = s.ownerOf f := by
  induction fs generalizing s with
  | nil => rfl
  | cons g fs ih =>
    unfold State.takeOwners
    dsimp only
    split
    · next hg =>
      have hsame : ({ s with owner := tput s.owner g (if world = 0 ∧ priv then 64 else world) } : State).ownerOf f = s.ownerOf f := by
        rw [ownerOf_tput]
        split
        · next e =>
          subst e
          have hw : world = 255 := h.resolve_left (not_not.2 hg)
          rw [if_neg (fun k => by omega), hw, hg]
        · rfl
      rw [ih _ (by rw [hsame]; exact h), hsame]
    · split
      · exact ih s h
      · rfl

theorem takeOwners_frame (s : State) (world : Nat) (priv : Bool) (fs : List Nat) :
    { (s.takeOwners world priv fs).1 with owner := s.owner } = s := by
  induction fs generalizing s with
  | nil => rfl
  | cons f fs ih =>
    unfold State.takeOwners
    dsimp only
    split
    · exact congrArg (fun t : State => { t with owner := s.owner }) (ih { s with owner := _ })
    · split
      · exact ih s
      · rfl

theorem served_takeOwners (s : State) (world : Nat) (priv : Bool) (fs : List Nat) (hw : world = (s.ctxD fn ctx).world) :
    Served fn ctx s (s.takeOwners world priv fs).1 := by
  have hctx : (s.takeOwners world priv fs).1.ctxs = s.ctxs := (congrArg State.ctxs (takeOwners_frame s world priv fs) :)
  have hx : (s.takeOwners world priv fs).1.markX = s.markX := (congrArg State.markX (takeOwners_frame s world priv fs) :)
  have hm : (s.takeOwners world priv fs).1.markW = s.markW := (congrArg State.markW (takeOwners_frame s world priv fs) :)
  exact
    { world := by unfold State.ctxD; rw [hctx]
      tdmask := fun d hd => by unfold State.ctxD; rw [hctx]; exact hd
      owner := fun f hf => takeOwners_kept s world priv fs (by rw [hw]; exact hf)
      markX := fun k hk => by rw [hx]; exact hk
      markW := fun k hk => by rw [hm]; exact hk }

/-- A mark that is set stays when others are set. -/
theorem tval_tput_true {m : Table Bool} {k j : Nat} {b : Prop} [Decidable b] (h : tval false m k = true) :
    tval false (if b then tput m j true else m) k = true := by
  split
  · rw [tval_tput]
    split
    · rfl
    · exact h
  · exact h

theorem served_mark (world : Nat) (l : Word) (fs : List Nat) (h : Served fn ctx s0 s) : Served fn ctx s0 (s.mark world l fs) := by
  unfold State.mark
  refine served_ite h (served_foldl (fun t f k => ?_) _ _ h)
  exact k.trans ⟨rfl, fun _ => id, fun _ _ => rfl, fun _ => tval_tput_true, fun _ => tval_tput_true⟩

theorem served_touch (a b : Nat) (ds : List Nat) (h : Served fn ctx s0 s) : Served fn ctx s0 (s.touch a b ds) := by
  refine h.trans ?_
  unfold State.touch State.updCtx
  split
  · next x hx =>
    by_cases e : ctxKey fn ctx = ctxKey a b
    · have hs : s.ctxD fn ctx = x := by unfold State.ctxD; rw [e, hx]; rfl
      have ht : ∀ y, ({ s with ctxs := tput s.ctxs (ctxKey a b) y } : State).ctxD fn ctx = y := fun y => by
        unfold State.ctxD
        rw [e, tget_tput_self]
        rfl
      exact
        { world := by rw [ht, hs]
          tdmask := fun d hd => by rw [ht]; rw [hs] at hd; exact getLsbD_orBits ds _ hd
          owner := fun _ _ => rfl
          markX := fun _ => id
          markW := fun _ => id }
    · have ht : ∀ y, ({ s with ctxs := tput s.ctxs (ctxKey a b) y } : State).ctxD fn ctx = s.ctxD fn ctx := fun y => by
        unfold State.ctxD
        rw [tget_tput_ne _ _ e]
      exact
        { world := by rw [ht]
          tdmask := fun d hd => by rw [ht]; exact hd
          owner := fun _ _ => rfl
          markX := fun _ => id
          markW := fun _ => id }
  · exact .refl s

/-! ### Walks and working sets (R325, R358, R440) -/

theorem cached_noteWalk (c : Context) (sp va : Nat) (h : Cached s0 s) : Cached s0 (s.noteWalk c sp va) :=
  cached_ite h (cached_foldl (fun _ _ h => cached_verifyLine _ (cached_noteNode _ h)) _ _ h)

theorem asPriv_world (v : View) (p : Bool) : (v.asPriv p).world = v.world := by
  unfold View.asPriv
  split <;> rfl

theorem served_hubWalk (va : Nat) (w p : Bool) (h : Served fn ctx s0 s) : Served fn ctx s0 (s.hubWalk fn ctx va w p).1 := by
  unfold State.hubWalk
  have h := h.of_cached (cached_noteWalk (s.ctxD fn ctx) 0 va (.refl s))
  generalize s.noteWalk (s.ctxD fn ctx) 0 va = t at h
  dsimp only
  split
  · rename_i l place size _ _
    have k : Served fn ctx s0 (if leafTier l ≤ 1 then
        t.takeOwners ((t.hubView fn ctx).asPriv p).world (leafPriv l) (framesOf l size) else (t, true)).1 :=
      served_ite1 (h.trans (served_takeOwners t _ _ _ (asPriv_world ..))) h
    exact served_ite1 h (served_ite1 k (served_touch _ _ _ (served_mark _ _ _
      (served_ite k (k.of_cached (cached_bankWrite _ _ _ (.refl _)))))))
  · exact h

theorem cached_hubTouch (f loc n : Nat) (h : Cached s0 s) : Cached s0 (s.hubTouch f loc n) :=
  cached_chargeAt _ _ _ (cached_verifyLine _ (cached_noteNode _ (cached_hostOwnAt _ h)))

theorem served_hubOpen (va : Nat) (p : Bool) (h : Served fn ctx s0 s) : Served fn ctx s0 (s.hubOpen fn ctx va p).1 := by
  have k := served_hubWalk va false p h
  unfold State.hubOpen
  generalize s.hubWalk fn ctx va false p = r at k
  obtain ⟨t, pl, pr⟩ := r
  rcases pl with _ | l | ⟨q, pa⟩
  · exact k
  · exact k.of_cached (cached_hubTouch fn l 128 (cached_recall (l / 128) (.refl t)))
  · exact served_ite k (k.of_same rfl)

theorem served_hubOpenAll (va n : Nat) (p : Bool) (h : Served fn ctx s0 s) : Served fn ctx s0 (s.hubOpenAll fn ctx va n p).1 := by
  refine served_foldl1 (fun a i k => ?_) _ (s, []) h
  exact served_hubOpen _ p k

theorem served_wsOpen (h : Served fn ctx s0 s) : Served fn ctx s0 (s.wsOpen fn ctx).1 := by
  have k := served_hubOpen (s.ctxD fn ctx).wshdr.toNat false h
  unfold State.wsOpen
  dsimp only
  split
  · exact h
  · split
    · exact k
    · exact served_hubOpenAll _ _ _ k

theorem served_hubStore (va n x : Nat) (p : Bool) (h : Served fn ctx s0 s) : Served fn ctx s0 (s.hubStore fn ctx va n x p).1 := by
  have k := served_hubWalk va true p h
  unfold State.hubStore
  generalize s.hubWalk fn ctx va true p = r at k
  obtain ⟨t, pl, pr⟩ := r
  rcases pl with _ | l | ⟨q, pa⟩
  · exact k
  · exact k.of_cached (cached_hubTouch fn l n (cached_bankWrite l n x (.refl t)))
  · exact served_ite (k.of_same rfl) (k.of_same rfl)

theorem served_wsPush (e : Word) (h : Served fn ctx s0 s) : Served fn ctx s0 (s.wsPush fn ctx e).1 := by
  have store : ∀ {t : State} a n x, Served fn ctx s0 t → Served fn ctx s0 (t.hubStore fn ctx a n x).1 :=
    fun a n x k => served_hubStore a n x false k
  unfold State.wsPush
  extract_lets hd n a p q r
  have hq : Served fn ctx s0 q.1 := store _ _ _ (store _ _ _ h)
  clear_value q
  have hr : Served fn ctx s0 r.1 := by
    unfold r
    split
    · exact store _ _ _ hq
    · exact hq
  clear_value r
  exact served_ite1 h (served_ite1 (store _ _ _ h) (served_ite1 h hr))

theorem served_wsNotes (n : Nat) (ps : List PageRef) (h : Served fn ctx s0 s) : Served fn ctx s0 (s.wsNotes fn ctx n ps) := by
  induction n generalizing s ps with
  | zero => exact h
  | succ n ih =>
    refine served_ite h (ih _ (served_foldl1 (fun a p k => ?_) _ ((s.wsOpen fn ctx).1, []) (served_wsOpen h)))
    exact served_ite1 (served_wsPush _ k) k

theorem served_wsRecord (sp va size tier : Nat) (h : Served fn ctx s0 s) : Served fn ctx s0 (s.wsRecord fn ctx sp va size tier) :=
  served_wsNotes _ _ h

theorem served_tlbFill (v : View) (sp va size : Nat) (l : Word) (h : Served fn ctx s0 s) : Served fn ctx s0 (s.tlbFill v sp va size l) :=
  h.of_same rfl

end Sys2Proof.Machine
end

section
/-! SUPPORT and O51. Walks of the hub's walkers (R356 to R361, R364, R370, R399, R404). -/

namespace Sys2Proof.Machine

variable {s s0 t u : State}

/-! ### The bits that a walk sets (R359) -/

/-- The leaf with ACC set. -/
def leafRead (l : Word) : Word := setBits l 8 8 1

/-- The leaf with DIRTY and ACC set. -/
def leafWritten (l : Word) : Word := setBits (setBits l 9 9 1) 8 8 1

theorem getLsbD_leafRead (l : Word) {i : Nat} (h : i < 64) : (leafRead l).getLsbD i = (decide (i = 8) || l.getLsbD i) := by
  rw [leafRead, getLsbD_setBits l 1 (show 8 + 1 - 8 = 1 from rfl) h]
  by_cases e : i = 8
  · subst e
    simp
  · rw [if_neg (by omega), decide_eq_false e, Bool.false_or]

theorem getLsbD_leafWritten (l : Word) {i : Nat} (h : i < 64) :
    (leafWritten l).getLsbD i = (decide (i = 8) || decide (i = 9) || l.getLsbD i) := by
  rw [leafWritten, getLsbD_setBits _ 1 (show 8 + 1 - 8 = 1 from rfl) h, getLsbD_setBits l 1 (show 9 + 1 - 9 = 1 from rfl) h]
  by_cases e : i = 8
  · subst e
    simp
  · rw [if_neg (by omega), decide_eq_false e, Bool.false_or]
    by_cases e9 : i = 9
    · subst e9
      simp
    · rw [if_neg (by omega), decide_eq_false e9, Bool.false_or]

/-- A field that two words share. -/
theorem bits_congr {v x : Word} {hi lo : Nat} (h : ∀ i, lo ≤ i → i ≤ hi → v.getLsbD i = x.getLsbD i) : bits v hi lo = bits x hi lo := by
  refine Nat.eq_of_testBit_eq fun i => ?_
  rw [testBit_bits v rfl, testBit_bits x rfl]
  by_cases hi' : i < hi + 1 - lo
  · rw [h (lo + i) (by omega) (by omega)]
  · rw [decide_eq_false hi', Bool.false_and, Bool.false_and]

theorem leafFrame_leafRead (l : Word) : leafFrame (leafRead l) = leafFrame l :=
  bits_congr fun i h1 h2 => by rw [getLsbD_leafRead l (by omega), decide_eq_false (by omega), Bool.false_or]

theorem leafFrame_leafWritten (l : Word) : leafFrame (leafWritten l) = leafFrame l :=
  bits_congr fun i h1 h2 => by
    rw [getLsbD_leafWritten l (by omega), decide_eq_false (by omega), decide_eq_false (by omega), Bool.false_or, Bool.false_or]

theorem leafTier_leafRead (l : Word) : leafTier (leafRead l) = leafTier l :=
  bits_congr fun i h1 h2 => by rw [getLsbD_leafRead l (by omega), decide_eq_false (by omega), Bool.false_or]

theorem leafDirty_leafRead (l : Word) : leafDirty (leafRead l) = leafDirty l := getLsbD_leafRead l (by decide : 9 < 64)

/-- ACC is no matter of the checks on what an access may do (R358). -/
theorem check911_leafRead (l : Word) (kind : Nat) (fetch wr : Bool) : check911 (leafRead l) kind fetch wr = check911 l kind fetch wr := by
  have hw : leafWrite (leafRead l) = leafWrite l := getLsbD_leafRead l (by decide : 1 < 64)
  have hx : leafExec (leafRead l) = leafExec l := getLsbD_leafRead l (by decide : 2 < 64)
  have hr : leafRap (leafRead l) = leafRap l := getLsbD_leafRead l (by decide : 6 < 64)
  unfold check911
  rw [hw, hx, hr, leafTier_leafRead]

/-- A leaf with ACC that is written first has DIRTY as well, and is else as it was. -/
theorem leafWritten_of_acc {l : Word} (h : leafAcc l = true) : leafWritten l = l ||| 0x200 := by
  have hmask : ∀ i < 64, (0x200 : Word).getLsbD i = decide (i = 9) := by decide
  refine BitVec.eq_of_getLsbD_eq fun i hi => ?_
  rw [getLsbD_leafWritten l hi, BitVec.getLsbD_or, hmask i hi]
  by_cases e : i = 8
  · subst e
    rw [show l.getLsbD 8 = true from h]
    rfl
  · rw [decide_eq_false e, Bool.false_or, Bool.or_comm]

/-! ### The entry that a walk installs (R360, R361) -/

theorem mem_keepNewest_of_not {p : TlbEntry → Bool} {e : TlbEntry} (he : p e = false) (n : Nat) {l : List TlbEntry} (h : e ∈ l) :
    e ∈ keepNewest p n l := by
  induction l generalizing n with
  | nil => cases h
  | cons d l ih =>
    unfold keepNewest
    rcases List.mem_cons.1 h with rfl | h
    · rw [he]
      exact List.mem_cons_self
    · cases p d with
      | false => exact List.mem_cons_of_mem _ (ih n h)
      | true => cases n with
        | zero => exact ih 0 h
        | succ n => exact List.mem_cons_of_mem _ (ih n h)

theorem mem_keepNewest_head (p : TlbEntry → Bool) (n : Nat) (e : TlbEntry) (l : List TlbEntry) : e ∈ keepNewest p (n + 1) (e :: l) := by
  unfold keepNewest
  split
  · exact List.mem_cons_self
  · exact List.mem_cons_self

/-- The leaf that is filled is the newest of its die. -/
theorem tlbFill_installs (s : State) (v : View) (sp va size : Nat) (l : Word) :
    ∃ e ∈ (s.tlbFill v sp va size l).tlb, e.die = v.die ∧ e.fn = v.fn ∧ e.ctx = v.ctx ∧ e.space = sp ∧ e.base = va / size * size
      ∧ e.size = size ∧ e.leaf = l := by
  unfold State.tlbFill
  extract_lets e t own kept gone
  refine ⟨e, mem_keepNewest_of_not rfl 256 ?_, rfl, rfl, rfl, rfl, rfl, rfl, rfl⟩
  by_cases hd : v.die < 12
  · have hown : own = [{ e with core := some v.core }] := if_pos hd
    rw [hown, List.singleton_append, keepNewest]
    exact List.mem_cons_of_mem _ (mem_keepNewest_head _ _ _ _)
  · have hown : own = [] := if_neg hd
    rw [hown, List.nil_append]
    exact mem_keepNewest_head _ _ _ _

/-! ### What the tables give (R355, R356) -/

theorem withEntry_congr (hp : ∀ pa, t.physErr pa = s.physErr pa) (hm : t.mem = s.mem) : t.withEntry = s.withEntry := by
  funext a f
  unfold State.withEntry State.entry
  rw [hp, rd_of_mem hm]

/-- The tables give what memory and the media that fail say. -/
theorem lookup_congr (hp : ∀ pa, t.physErr pa = s.physErr pa) (hm : t.mem = s.mem) (c : Context) (sp va : Nat) :
    t.lookup c sp va = s.lookup c sp va := by
  unfold State.lookup State.find
  rw [withEntry_congr hp hm]

/-- Where no tree node has failed, owners are no matter of error responses (R405). -/
theorem physErr_of_owner (hb : s.badNode = []) (h : t.located = ({ s with owner := t.owner } : State).located) (pa : Nat) :
    t.physErr pa = s.physErr pa := by
  rw [physErr_congr h]
  have hnode : ∀ o line, ({ s with owner := o } : State).nodeBad line = s.nodeBad line := fun o line => by
    unfold State.nodeBad
    rw [if_pos hb]
    exact (if_pos hb).symm
  unfold State.physErr State.integrityErr
  rw [hnode]
  rfl

theorem located_noteWalk (s : State) (c : Context) (sp va : Nat) : (s.noteWalk c sp va).located = s.located := by
  unfold State.noteWalk
  split
  · rfl
  · refine List.foldlRecOn (motive := fun t : State => t.located = s.located) _ _ rfl fun t ht a _ => ?_
    rw [located_verifyLine, located_noteNode, ht]

/-! ### A walk that passes its checks (R358, R359, R361, R364, R370, R399) -/

/-- Frames whose bias is as their page says stay as they are. -/
theorem setBiases_same (b : Bool) (fs : List Nat) (h : ∀ f ∈ fs, tval false s.bias f = b) : fs.foldl (fun t f => t.setBias f b) s = s := by
  induction fs with
  | nil => rfl
  | cons f fs ih =>
    have hf : s.setBias f b = s := if_pos (h f List.mem_cons_self)
    rw [List.foldl_cons, hf]
    exact ih fun g hg => h g (List.mem_cons_of_mem _ hg)

/-- The state in which a walk has taken the frames of its page, and set ACC. -/
def State.frameTaken (s : State) (v : View) (l : Word) (place size : Nat) : State :=
  let own := (s.takeOwners v.world (leafPriv l) (framesOf l size)).1
  if leafAcc l then own else own.bankWrite place 8 (leafRead l).toNat

/-- The state in which a walk has set the marks and the touched dies of its page too. -/
def State.pageMarked (s : State) (v : View) (l : Word) (place size : Nat) : State :=
  ((s.frameTaken v l place size).mark v.world l (framesOf l size)).touch v.fn v.ctx
    (if leafTier l = 0 then (framesOf l size).map s.homeDie else [])

/-- The state in which a walk has recorded its page. -/
def State.pageRecorded (s : State) (v : View) (sp va : Nat) (l : Word) (place size : Nat) : State :=
  if leafAcc l then s.pageMarked v l place size else (s.pageMarked v l place size).wsRecord v.fn v.ctx sp va size (leafTier l)

/-- A leaf that a walker takes. -/
structure Takes (s : State) (v : View) (sp : Nat) (l : Word) (size : Nat) : Prop where
  alive : s.lostDies = []
  tier : leafTier l ≤ 1
  passes : s.check58 v sp l size = none
  held : ∀ f ∈ framesOf l size, s.ownerOf f = 255 ∨ s.ownerOf f = v.world ∨ s.ownerOf f = 64
  bias : ∀ f ∈ framesOf l size, tval false s.bias f = leafBias l

section Walk

variable {v : View} {sp va : Nat} {l : Word} {place size level : Nat}

theorem Takes.ok (h : Takes s v sp l size) : (s.takeOwners v.world (leafPriv l) (framesOf l size)).2 = true :=
  (takeOwners_ok ..).2 h.held

/-- A leaf that passes checks 5 to 8 met no mark conflict. -/
theorem Takes.conflict (h : Takes s v sp l size) : s.markConflict v.world l (framesOf l size) = false := by
  have hc := h.passes
  unfold State.check58 leafCheck at hc
  cases hm : s.markConflict v.world l (framesOf l size) with
  | false => rfl
  | true =>
    rw [hm] at hc
    split at hc
    · cases hc
    · split at hc
      · cases hc
      · exact absurd hc (by simp)

theorem frameTaken_bias (s : State) (v : View) (l : Word) (place size : Nat) : (s.frameTaken v l place size).bias = s.bias := by
  have hown : (s.takeOwners v.world (leafPriv l) (framesOf l size)).1.bias = s.bias :=
    (congrArg State.bias (takeOwners_frame s v.world (leafPriv l) (framesOf l size)) :)
  unfold State.frameTaken
  dsimp only
  split
  · exact hown
  · exact (congrArg State.bias (cached_bankWrite place 8 (leafRead l).toNat (.refl _)).rest : _).trans hown

/-- A walk that passes takes the frames, sets ACC, marks and touched dies, records the page and installs the leaf. -/
theorem walk_of_leaf (hl : (s0.noteWalk (s0.ctxD v.fn v.ctx) sp va) = s) (hf : s.lookup (s.ctxD v.fn v.ctx) sp va = .leaf l place size level)
    (h : Takes s v sp l size) :
    s0.walk v sp va = ((s.pageRecorded v sp va l place size).tlbFill v sp va size (leafRead l), .ok (leafRead l) size) := by
  have hcheck : leafCheck v sp l (s.markConflict v.world l (framesOf l size)) = none := h.passes
  have hbias : (framesOf l size).foldl (fun t f => t.setBias f (leafBias l)) (s.frameTaken v l place size) = s.frameTaken v l place size :=
    setBiases_same _ _ (by rw [frameTaken_bias]; exact h.bias)
  unfold State.walk
  rw [hl]
  dsimp only
  rw [hf]
  dsimp only
  rw [hcheck, h.conflict, if_neg Bool.false_ne_true, h.alive, if_neg (by simp), if_pos h.tier, if_pos h.tier, h.ok,
    if_neg (not_not.2 rfl)]
  exact congrArg (fun b : State => ((if leafAcc l then (b.mark v.world l (framesOf l size)).touch v.fn v.ctx
    (if leafTier l = 0 then (framesOf l size).map s.homeDie else []) else ((b.mark v.world l (framesOf l size)).touch v.fn v.ctx
    (if leafTier l = 0 then (framesOf l size).map s.homeDie else [])).wsRecord v.fn v.ctx sp va size (leafTier l)).tlbFill v sp va size
    (leafRead l), Walked.ok (leafRead l) size)) hbias

end Walk

end Sys2Proof.Machine
end

section
/-! SUPPORT and O51. What a walk that passes leaves behind (R359, R361, R364, R370, R399). -/

namespace Sys2Proof.Machine

variable {s s0 t u : State}

/-! ### Owners, marks and touched dies of the page -/

/-- Every frame of a page gets its marks. -/
theorem mark_sets (s : State) (world : Nat) {l : Word} {fs : List Nat} (ht : leafTier l ≤ 1) {f : Nat} (hf : f ∈ fs) :
    (leafExec l = true → tval false (s.mark world l fs).markX (markKey world f) = true)
    ∧ (leafWrite l = true → tval false (s.mark world l fs).markW (markKey world f) = true) := by
  unfold State.mark
  rw [if_neg (by omega)]
  constructor
  · intro hx
    exact (foldl_reaches (R := fun _ => True) (Q := fun t => tval false t.markX (markKey world f) = true) hf
      (fun _ _ _ _ => trivial) (fun t g _ _ h => tval_tput_true h)
      (fun t _ => by dsimp only; rw [if_pos hx, tval_tput, if_pos rfl]) trivial).2
  · intro hw
    exact (foldl_reaches (R := fun _ => True) (Q := fun t => tval false t.markW (markKey world f) = true) hf
      (fun _ _ _ _ => trivial) (fun t g _ _ h => tval_tput_true h)
      (fun t _ => by dsimp only; rw [if_pos hw, tval_tput, if_pos rfl]) trivial).2

theorem getLsbD_orBits_mem (ds : List Nat) (m : BitVec 17) {d : Nat} (hd : d ∈ ds) (h : d < 17) :
    (ds.foldl (fun m d => m ||| (1#17 <<< d)) m).getLsbD d = true := by
  induction ds generalizing m with
  | nil => cases hd
  | cons e ds ih =>
    rcases List.mem_cons.1 hd with rfl | hd
    · refine getLsbD_orBits ds _ ?_
      rw [BitVec.getLsbD_or, BitVec.getLsbD_shiftLeft]
      simp [h]
    · exact ih _ hd

/-- A part of contexts that a change of one of them leaves alone. -/
theorem ctxD_updCtx_same {α : Type} (g : Context → α) (s : State) (a b : Nat) {f : Context → Context} (hf : ∀ x, g (f x) = g x)
    (fn ctx : Nat) : g ((s.updCtx a b f).ctxD fn ctx) = g (s.ctxD fn ctx) := by
  unfold State.updCtx
  split
  · next x hx =>
    unfold State.ctxD
    dsimp only
    rw [tget_tput]
    split
    · next e => rw [e, hx]; exact hf x
    · rfl
  · rfl

section Page

variable (s : State) (v : View) (l : Word) (place size : Nat)

theorem cached_frameTaken :
    Cached (s.takeOwners v.world (leafPriv l) (framesOf l size)).1 (s.frameTaken v l place size) :=
  cached_ite (.refl _) (cached_bankWrite place 8 (leafRead l).toNat (.refl _))

theorem frameTaken_ctxs : (s.frameTaken v l place size).ctxs = s.ctxs :=
  (cached_frameTaken ..).ctxs.trans (congrArg State.ctxs (takeOwners_frame s v.world (leafPriv l) (framesOf l size)) :)

theorem mark_frame (world : Nat) (fs : List Nat) : { s.mark world l fs with markX := s.markX, markW := s.markW } = s := by
  unfold State.mark
  split
  · rfl
  · exact List.foldlRecOn (motive := fun t : State => { t with markX := s.markX, markW := s.markW } = s) _ _ rfl fun t ht _ _ => ht

theorem mark_owner (world : Nat) (fs : List Nat) : (s.mark world l fs).owner = s.owner := (congrArg State.owner (mark_frame s l world fs) :)
theorem mark_ctxs (world : Nat) (fs : List Nat) : (s.mark world l fs).ctxs = s.ctxs := (congrArg State.ctxs (mark_frame s l world fs) :)

theorem touch_frame (fn ctx : Nat) (ds : List Nat) : { s.touch fn ctx ds with ctxs := s.ctxs } = s := by
  unfold State.touch State.updCtx
  split <;> rfl

/-- A state with the claims of another. -/
def State.unclaimed (t : State) : State := { t with ctxs := s.ctxs, owner := s.owner, markX := s.markX, markW := s.markW }

theorem unclaimed_touch (t : State) (fn ctx : Nat) (ds : List Nat) : s.unclaimed (t.touch fn ctx ds) = s.unclaimed t := by
  unfold State.touch State.updCtx
  split <;> rfl

/-- A walk whose leaf has ACC changes owners, marks and contexts alone. -/
theorem pageMarked_frame (h : leafAcc l = true) : s.unclaimed (s.pageMarked v l place size) = s := by
  unfold State.pageMarked State.frameTaken
  dsimp only
  rw [if_pos h]
  have h1 : s.unclaimed (s.takeOwners v.world (leafPriv l) (framesOf l size)).1 = s.unclaimed s :=
    (congrArg s.unclaimed (takeOwners_frame s v.world (leafPriv l) (framesOf l size)) :)
  generalize (s.takeOwners v.world (leafPriv l) (framesOf l size)).1 = a at h1
  have h2 : s.unclaimed (a.mark v.world l (framesOf l size)) = s.unclaimed a :=
    (congrArg s.unclaimed (mark_frame a l v.world (framesOf l size)) :)
  generalize a.mark v.world l (framesOf l size) = b at h2
  exact (unclaimed_touch s b v.fn v.ctx _).trans (h2.trans h1)

variable {s v l place size} {sp : Nat}

theorem served_frameTaken (hw : v.world = (s.ctxD v.fn v.ctx).world) : Served v.fn v.ctx s (s.frameTaken v l place size) :=
  (served_takeOwners s _ _ _ hw).of_cached (cached_frameTaken ..)

theorem served_pageMarked (hw : v.world = (s.ctxD v.fn v.ctx).world) : Served v.fn v.ctx s (s.pageMarked v l place size) :=
  served_touch _ _ _ (served_mark _ _ _ (served_frameTaken hw))

theorem served_pageRecorded {va : Nat} : Served v.fn v.ctx (s.pageMarked v l place size) (s.pageRecorded v sp va l place size) :=
  served_ite (.refl _) (served_wsRecord _ _ _ _ (.refl _))

/-- What the walk has claimed of a frame of its page. -/
structure Claimed (s : State) (v : View) (l : Word) (t : State) (f : Nat) : Prop where
  owner : t.ownerOf f = if s.ownerOf f = 255 then (if v.world = 0 ∧ leafPriv l = true then 64 else v.world) else s.ownerOf f
  markX : leafExec l = true → tval false t.markX (markKey v.world f) = true
  markW : leafWrite l = true → tval false t.markW (markKey v.world f) = true
  touched : leafTier l = 0 → s.homeDie f < 17 → (t.ctxD v.fn v.ctx).tdmask.getLsbD (s.homeDie f) = true

theorem pageMarked_claims (h : Takes s v sp l size) (hctx : tget s.ctxs (ctxKey v.fn v.ctx) ≠ none) {f : Nat} (hf : f ∈ framesOf l size) :
    Claimed s v l (s.pageMarked v l place size) f := by
  have hmarks := mark_sets (s.frameTaken v l place size) v.world h.tier hf
  have hctxs : ((s.frameTaken v l place size).mark v.world l (framesOf l size)).ctxs = s.ctxs :=
    (mark_ctxs ..).trans (frameTaken_ctxs ..)
  have hown : ((s.frameTaken v l place size).mark v.world l (framesOf l size)).owner
      = (s.takeOwners v.world (leafPriv l) (framesOf l size)).1.owner := (mark_owner ..).trans (cached_frameTaken ..).owner
  unfold State.pageMarked
  generalize (s.frameTaken v l place size).mark v.world l (framesOf l size) = b at hmarks hctxs hown
  have hframe := touch_frame b v.fn v.ctx (if leafTier l = 0 then (framesOf l size).map s.homeDie else [])
  refine ⟨?_, fun hx => ?_, fun hx => ?_, fun ht hd => ?_⟩
  · have htouch : (b.touch v.fn v.ctx (if leafTier l = 0 then (framesOf l size).map s.homeDie else [])).owner = b.owner :=
      (congrArg State.owner hframe :)
    have hsame : (b.touch v.fn v.ctx (if leafTier l = 0 then (framesOf l size).map s.homeDie else [])).ownerOf f
        = (s.takeOwners v.world (leafPriv l) (framesOf l size)).1.ownerOf f := by
      unfold State.ownerOf
      rw [htouch, hown]
    rw [hsame, takeOwners_owner _ _ _ _ h.ok]
    simp only [hf, true_and]
  · exact (congrArg (fun x : State => tval false x.markX (markKey v.world f)) hframe :).trans (hmarks.1 hx)
  · exact (congrArg (fun x : State => tval false x.markW (markKey v.world f)) hframe :).trans (hmarks.2 hx)
  · unfold State.touch
    rw [ctxD_updCtx_self _ (by rw [hctxs]; exact hctx), if_pos ht]
    exact getLsbD_orBits_mem _ _ (List.mem_map_of_mem hf) hd

/-- What is claimed stays claimed. -/
theorem Claimed.of_served {f : Nat} (h : Claimed s v l t f) (ht : (t.ctxD v.fn v.ctx).world = v.world) (k : Served v.fn v.ctx t u) :
    Claimed s v l u f where
  owner := by
    rw [k.owner f ?_]
    · exact h.owner
    · rw [ht, h.owner]
      split
      · split
        · exact .inl (by decide)
        · exact (em (v.world = 255)).symm
      · next hn => exact .inl hn
  markX hx := k.markX _ (h.markX hx)
  markW hx := k.markW _ (h.markW hx)
  touched ht hd := k.tdmask _ (h.touched ht hd)

end Page

/-! ### A first write (R359) -/

theorem served_setDirty {fn ctx : Nat} (v : View) (sp va : Nat) (h : Served fn ctx s0 s) : Served fn ctx s0 (s.setDirty v sp va) := by
  unfold State.setDirty
  have h := h.of_cached (cached_noteWalk (s.ctxD v.fn v.ctx) sp va (.refl s))
  generalize s.noteWalk (s.ctxD v.fn v.ctx) sp va = t at h
  dsimp only
  split
  · exact served_tlbFill _ _ _ _ _ (h.of_cached (cached_bankWrite _ _ _ (.refl t)))
  · exact h

theorem lookup_roots (s : State) {c d : Context} (h0 : c.root0 = d.root0) (h4 : c.root4 = d.root4) (sp va : Nat) :
    s.lookup c sp va = s.lookup d sp va := by
  unfold State.lookup Context.root
  rw [h0, h4]

theorem ctxD_touch_roots (s : State) (fn ctx : Nat) (ds : List Nat) : (((s.touch fn ctx ds).ctxD fn ctx).root0,
    ((s.touch fn ctx ds).ctxD fn ctx).root4) = ((s.ctxD fn ctx).root0, (s.ctxD fn ctx).root4) := by
  refine ctxD_updCtx_same (fun c => (c.root0, c.root4)) s fn ctx ?_ fn ctx
  exact fun _ => rfl

theorem entry_bankWrite (s : State) (a : Nat) (w : Word) : (s.bankWrite a 8 w.toNat).entry a = w := by
  unfold State.entry
  rw [rd_of_mem (bankWrite_mem rfl a 8 w.toNat), rd_wr, Nat.mod_eq_of_lt w.isLt]
  exact (BitVec.ofNat_toNat 64 w).trans (BitVec.setWidth_eq w)

section Write

variable {v : View} {sp va : Nat} {l : Word} {place size level : Nat}

/-- The second walk of a first write finds the leaf that the first one found. -/
theorem setDirty_writes (ha : leafAcc l = true) (hb : s.badNode = []) (hf : s.lookup (s.ctxD v.fn v.ctx) sp va = .leaf l place size level) :
    ∃ t : State, ((s.pageRecorded v sp va l place size).tlbFill v sp va size (leafRead l)).setDirty v sp va
      = (t.bankWrite place 8 (leafWritten l).toNat).tlbFill v sp va size (leafWritten l) := by
  have hframe := pageMarked_frame s v l place size ha
  have hroots : (((s.pageMarked v l place size).ctxD v.fn v.ctx).root0, ((s.pageMarked v l place size).ctxD v.fn v.ctx).root4)
      = ((s.ctxD v.fn v.ctx).root0, (s.ctxD v.fn v.ctx).root4) := by
    refine (ctxD_touch_roots _ v.fn v.ctx _).trans ?_
    have hctxs : ((s.frameTaken v l place size).mark v.world l (framesOf l size)).ctxs = s.ctxs :=
      (mark_ctxs ..).trans (frameTaken_ctxs ..)
    unfold State.ctxD
    rw [hctxs]
  unfold State.pageRecorded
  rw [if_pos ha]
  generalize s.pageMarked v l place size = p at hframe hroots
  have hp : p.located = ({ s with owner := p.owner } : State).located :=
    (congrArg (fun x : State => ({ x with owner := p.owner } : State).located) hframe :)
  unfold State.setDirty
  generalize hq : p.tlbFill v sp va size (leafRead l) = q
  have hql : q.located = p.located := by rw [← hq]; rfl
  have hqo : q.owner = p.owner := by rw [← hq]; rfl
  have hqc : q.ctxs = p.ctxs := by rw [← hq]; rfl
  generalize hr : q.noteWalk (q.ctxD v.fn v.ctx) sp va = r
  have hrq : r.located = q.located := by rw [← hr]; exact located_noteWalk ..
  have hrc : r.ctxs = q.ctxs := by rw [← hr]; exact (cached_noteWalk _ _ _ (.refl q)).ctxs
  have hro : r.owner = p.owner := by rw [← hr]; exact ((cached_noteWalk _ _ _ (.refl q)).owner).trans hqo
  have hrl : r.located = ({ s with owner := r.owner } : State).located := by rw [hrq, hql, hp, hro]
  have hmem : r.mem = s.mem := congrArg (fun x => x.2.2.2.2.2.2.2) hrl
  have hctx : r.ctxD v.fn v.ctx = p.ctxD v.fn v.ctx := by unfold State.ctxD; rw [hrc, hqc]
  have hlook : r.lookup (r.ctxD v.fn v.ctx) sp va = .leaf l place size level := by
    rw [hctx, lookup_congr (physErr_of_owner hb hrl) hmem, lookup_roots s (congrArg Prod.fst hroots) (congrArg Prod.snd hroots)]
    exact hf
  dsimp only
  rw [hlook]
  exact ⟨r, rfl⟩

end Write

/-! ### The walker (R356, R359, R361, R364, R370, R399, R404) -/

section Walker

variable {die fn ctx space kind : Nat} {va : Word}

/-- The view of a walker of the hub. -/
def State.walkerView (s : State) (die fn ctx : Nat) : View := { s.hubView fn ctx with die := die }

/-- A walker's walk. -/
theorem exec_pageWalk : exec (.pageWalk die fn ctx space va kind) s0 = execPageWalk die fn ctx space va kind s0 := rfl

theorem pageWalk_bad {r l : Nat} (h : (s0.noteWalk (s0.ctxD fn ctx) space (bits va 51 0)) = s)
    (hf : s.lookup (s.ctxD fn ctx) space (bits va 51 0) = .bad r l) : exec (.pageWalk die fn ctx space va kind) s0 = .next s := by
  have hwalk : s0.walk (s0.walkerView die fn ctx) space (bits va 51 0) = (s, .trap 8 (reasonInfo r l)) := by
    unfold State.walk
    have h' : s0.noteWalk (s0.ctxD (s0.walkerView die fn ctx).fn (s0.walkerView die fn ctx).ctx) space (bits va 51 0) = s := h
    have hf' : s.lookup (s.ctxD (s0.walkerView die fn ctx).fn (s0.walkerView die fn ctx).ctx) space (bits va 51 0) = .bad r l := hf
    rw [h']
    dsimp only
    rw [hf']
  rw [exec_pageWalk]
  unfold execPageWalk
  dsimp only
  rw [show s0.walk { s0.hubView fn ctx with die := die } space (bits va 51 0) = _ from hwalk]

theorem pageWalk_leaf {q : State} {l : Word} {size : Nat}
    (hwalk : s0.walk (s0.walkerView die fn ctx) space (bits va 51 0) = (q, .ok (leafRead l) size))
    (hc : check911 l kind false (kindWrites kind) = none) : exec (.pageWalk die fn ctx space va kind) s0
      = .next (if kindWrites kind ∧ ¬ leafDirty l then q.setDirty (s0.walkerView die fn ctx) space (bits va 51 0) else q) := by
  rw [exec_pageWalk]
  unfold execPageWalk
  dsimp only
  rw [show s0.walk { s0.hubView fn ctx with die := die } space (bits va 51 0) = _ from hwalk]
  dsimp only
  rw [check911_leafRead, hc, leafDirty_leafRead]
  rfl

end Walker

theorem walks_hold : walks := by
  intro s0 die fn ctx space va kind v a ev s
  have ha : bits va 51 0 = a := bits_eq_extract va rfl
  have hs : s0.noteWalk (s0.ctxD fn ctx) space (bits va 51 0) = s := by rw [ha]
  refine ⟨fun r l hf => pageWalk_bad hs (by rw [ha]; exact hf), ?_⟩
  intro l place size level hf hlost hbad htier hcheck hctx hheld hbias h911 hdirty
  have hctxs : s.ctxs = s0.ctxs := (cached_noteWalk _ _ _ (.refl s0)).ctxs
  have hworld : v.world = (s.ctxD v.fn v.ctx).world := by
    unfold State.ctxD
    rw [hctxs]
    rfl
  have htakes : Takes s v space l size := ⟨hlost, htier, hcheck, hheld, hbias⟩
  have hwalk : s0.walk v space a = ((s.pageRecorded v space a l place size).tlbFill v space a size (leafRead l), .ok (leafRead l) size) :=
    walk_of_leaf rfl hf htakes
  have hexec : exec ev s0 = .next (if kindWrites kind ∧ ¬ leafDirty l
      then ((s.pageRecorded v space a l place size).tlbFill v space a size (leafRead l)).setDirty v space a
      else (s.pageRecorded v space a l place size).tlbFill v space a size (leafRead l)) := by
    have h := pageWalk_leaf (va := va) (kind := kind) (by rw [ha]; exact hwalk) h911
    rw [ha] at h
    exact h
  have hserved : Served fn ctx (s.pageMarked v l place size)
      ((s.pageRecorded v space a l place size).tlbFill v space a size (leafRead l)) :=
    served_tlbFill _ _ _ _ _ (served_pageRecorded (v := v))
  have hclaim : ∀ u, Served fn ctx (s.pageMarked v l place size) u → ∀ f ∈ framesOf l size, Claimed s v l u f := fun u hu f hin =>
    (pageMarked_claims htakes hctx hin).of_served ((served_pageMarked hworld).world.trans hworld.symm) hu
  by_cases hfirst : kindWrites kind = true ∧ ¬ leafDirty l = true
  · rw [if_pos hfirst] at hexec
    have hacc : leafAcc l = true := by
      rcases hdirty with h | h | h
      · exact h
      · exact absurd hfirst.1 (by rw [h]; exact Bool.false_ne_true)
      · exact absurd h hfirst.2
    obtain ⟨t, ht⟩ := setDirty_writes (v := v) hacc hbad hf
    have hset := served_setDirty v space a hserved
    refine ⟨_, hexec, ?_, fun f hin => ?_, fun _ _ _ => ?_⟩
    · obtain ⟨e, he, h1, h2, h3, h4, h5, h6, h7⟩ := tlbFill_installs (t.bankWrite place 8 (leafWritten l).toNat) v space a size (leafWritten l)
      refine ⟨e, by rw [← ht] at he; exact he, h1, h2, h3, h4, h5, h6, ?_, ?_, fun _ => ?_⟩
      · rw [h7, getLsbD_leafWritten l (by decide)]
        rfl
      · rw [h7, leafFrame_leafWritten]
      · rw [h7]
        exact getLsbD_leafWritten l (by decide : 9 < 64)
    · obtain ⟨c1, c2, c3, c4⟩ := hclaim _ hset f hin
      exact ⟨c1, c2, c3, c4⟩
    · have hentry : ((t.bankWrite place 8 (leafWritten l).toNat).tlbFill v space a size (leafWritten l)).entry place
          = (t.bankWrite place 8 (leafWritten l).toNat).entry place := rfl
      rw [ht, hentry, entry_bankWrite, leafWritten_of_acc hacc]
  · rw [if_neg hfirst] at hexec
    refine ⟨_, hexec, ?_, fun f hin => ?_, fun _ hk hd => absurd ⟨hk, ne_true_of_eq_false hd⟩ hfirst⟩
    · obtain ⟨e, he, h1, h2, h3, h4, h5, h6, h7⟩ := tlbFill_installs (s.pageRecorded v space a l place size) v space a size (leafRead l)
      refine ⟨e, he, h1, h2, h3, h4, h5, h6, ?_, ?_, fun hk => ?_⟩
      · rw [h7, getLsbD_leafRead l (by decide)]
        rfl
      · rw [h7, leafFrame_leafRead]
      · rw [h7, leafDirty_leafRead]
        exact not_not.1 fun h => hfirst ⟨hk, h⟩
    · obtain ⟨c1, c2, c3, c4⟩ := hclaim _ hserved f hin
      exact ⟨c1, c2, c3, c4⟩

end Sys2Proof.Machine

open Sys2Proof Sys2Proof.Machine in
/-- Settles O51: a walk that passes by `walk_of_leaf` and what stays claimed of it (`Claimed.of_served`); a request that is performed by
`serveInv_performs` and what `freeFrames` leaves; moves and time slices by the equations of their steps. -/
theorem translationAndTierEvents : Obligations.TRANSLATION_AND_TIER_EVENTS :=
  ⟨walks_hold, invalidations_hold, pageMoves_hold, timeSlices_hold⟩
end
